-- ==== Sys2Proof/Word.lean ====
section
/-! DEFINITION. The word types of the N4: 32-bit registers (R50), bytes (R5), register numbers (R50). -/
namespace Sys2Proof

/-- A 32-bit register value. -/
abbrev Word := BitVec 32

/-- A byte of memory. -/
abbrev Byte := BitVec 8

/-- A 64-bit value: an address, a pair. -/
abbrev DWord := BitVec 64

/-- A 10-bit register field (R50). -/
abbrev Reg := BitVec 10

end Sys2Proof
end

