-- ==== Sys2Proof/Config.lean ====
section
/-! DEFINITION. What an implementation fixes, and the free values: constants without a body, of which nothing can be proved.
Each is applied to `State.free`, which every step that draws a free value advances, so that two draws are independent. -/
namespace Sys2Proof.Config

/-- A free choice of one bit: draw n, item k. -/
opaque freeBit : Nat → Nat → Bool

/-- A free 32-bit value: draw n, item k. -/
opaque freeWord : Nat → Nat → Word

/-- A free choice among `n` candidates is `freePick draw n % n`. -/
opaque freePick : Nat → Nat → Nat

/-- The home near-memory unit of a physical 64 KiB frame and the home L2 slice of a line: hashes that the spec fixes for the
run and does not architect (R318, R463). -/
opaque homeHash : Nat → Nat

/-- Whether a line of a peer, by rank and address, lies in the peer's own scaled part (R481). -/
opaque peerScaled : Nat → Nat → Bool

/-- How many collectives wait at a die's engine before it is full: not in the spec (R282). -/
opaque collDepth : Nat

/-- The values fused into a part: SERIAL, FSVN and SPARE of the status window by 1, 2 and 3 (R535). -/
opaque fused : Nat → DWord

/-- Whether a signature over an image or a report is good (R536): the signature scheme and the keys are not in the spec. -/
opaque signatureOk : List Byte → Bool

/-- What a manifest holds (R536): the SVN, the SHA-256 of the code and of the configuration block, and whether it asks for FSVN to rise. Its
layout is not in the spec. -/
opaque manifestSvn : List Byte → Word
opaque manifestCodeHash : List Byte → BitVec 256
opaque manifestConfigHash : List Byte → BitVec 256
opaque manifestRaises : List Byte → Bool

/-- What a configuration block fixes (R537): SCH and SCE, the secure physical ranges as base and size, and the limit of corrected errors. Its
layout is not in the spec. -/
opaque configSch : List Byte → Nat
opaque configSce : List Byte → Nat
opaque configSecure : List Byte → List (Nat × Nat)
opaque configLimit : List Byte → Nat

/-- The signature that the device makes over an attestation report (R538). -/
opaque sign : List Byte → List Byte

/-- The certificate of the device's identity key (R538). -/
opaque certificate : List Byte

end Sys2Proof.Config
end

