-- ==== Sys2Proof/Syntax.lean ====
section
/-! DEFINITION. The syntax of the N4: the frame and the operand types of R74 to R87, and the one inductive `Instr`, with
one constructor per row of spec/opcode_table.json: 187 instruction rows, then 88 event rows (the steps that the engines,
Flioc, the host and the platform take, as spec/95 lists them). -/
namespace Sys2Proof

/-- The forms of R75. -/
inductive Form where
  | s | e | l | w
  deriving DecidableEq, Repr

/-- The fields of W0 and EXT that every instruction has and that do not name its operands (R74, R76): the form, UNI, the
guard G and GN, STALL, SETC, WAIT and the three hold bits. -/
structure Fr where
  form : Form
  uni : Bool
  g : BitVec 6
  gn : Bool
  stall : BitVec 4
  setc : BitVec 3
  wait : BitVec 6
  holdA : Bool
  holdB : Bool
  holdC : Bool
  deriving DecidableEq, Repr

/-- A source operand: a register field or the literal that replaces it (R77 to R79). -/
inductive Src where
  | reg (r : Reg)
  | lit (v : Word)
  deriving DecidableEq, Repr

/-- SAT of R107. -/
inductive Sat where
  | wrap | signed | unsigned
  deriving DecidableEq, Repr

/-- Rounding modes of R38. -/
inductive Rnd where
  | rne | rz | rup | rdn | rna | sr
  deriving DecidableEq, Repr

/-- COND of ICMP (R127). -/
inductive Cond where
  | eq | ne | lt | le | gt | ge
  deriving DecidableEq, Repr

/-- COND of FCMP (R128). -/
inductive FCond where
  | eq | ne | lt | le | gt | ge | num | nan
  deriving DecidableEq, Repr

/-- T of R128, R129 and R155: FP32, FP16, BF16. -/
inductive FTy where
  | f32 | f16 | bf16
  deriving DecidableEq, Repr

/-- DT of BDEQ (R160): FP32, BF16, FP16. -/
inductive DTy where
  | f32 | bf16 | f16
  deriving DecidableEq, Repr

/-- Element types of R85 (values 0 to 17 are the format codes of R21). -/
inductive Elem where
  | f32 | bf16 | f16 | e4m3 | e5m2 | e2m3 | e3m2 | e2m1 | i8 | i4 | mx8e4 | mx8e5 | mx6e2 | mx6e3 | mx4 | mxi8 | a4 | a8 | i32 | n32 | b32
  deriving DecidableEq, Repr

/-- BF of R154. -/
inductive BFmt where
  | mx8e4 | mx8e5 | mx6e2 | mx6e3 | mx4 | mxi8 | a4 | a8
  deriving DecidableEq, Repr

/-- GRP of R22. -/
inductive Grp where
  | g32 | g64 | g128
  deriving DecidableEq, Repr

/-- SPC of R86. -/
inductive Space where
  | none | lane | core | clus | est | glob
  deriving DecidableEq, Repr

/-- SZ of R211. -/
inductive Size where
  | b32 | b64 | b128 | n8 | i8 | n16 | i16
  deriving DecidableEq, Repr

/-- CH of R211. -/
inductive Hint where
  | keep | nc | lu
  deriving DecidableEq, Repr

/-- SCOPE of R86. -/
inductive Scope where
  | wp | blk | gng | cls | die | dev | fab | lv0 | lv1 | lv2 | lv3 | lv4 | lv5 | lv6 | lv7
  deriving DecidableEq, Repr

/-- ORD of R211. -/
inductive Order where
  | relaxed | acq | rel | acqrel
  deriving DecidableEq, Repr

/-- Operations of ATOM and RED (R221). -/
inductive AtomOp where
  | add | fadd | smin | smax | nmin | nmax | band | bor | bxor | exch | inc | dec | fmin | fmax | h2add | bf2add
  deriving DecidableEq, Repr

/-- BEXT of R113. -/
inductive BExt where
  | pair | sx | zx
  deriving DecidableEq, Repr

/-- Kinds of VOTE (R130). -/
inductive VoteOp where
  | all | any | eq | ballot | count
  deriving DecidableEq, Repr

/-- SUB of BMAX and BMIN (R155). -/
inductive MaxKind where
  | abs | sgn
  deriving DecidableEq, Repr

/-- Scale modes tight and OCP (R33, R34). -/
inductive SMode where
  | tight | ocp
  deriving DecidableEq, Repr

/-- SUB of BZP (R157). -/
inductive ZFmt where
  | a4 | a8
  deriving DecidableEq, Repr

/-- SUB of BQUANT (R158). -/
inductive QMode where
  | tight | ocp | given
  deriving DecidableEq, Repr

/-- SUB of SHFL (R166). -/
inductive ShflMode where
  | idx | up | down | xor
  deriving DecidableEq, Repr

/-- SUB of REDW and SCANW (R167). -/
inductive RedOp where
  | add | min | max | iadd | imin | imax | nmin | nmax | band | bor | bxor
  deriving DecidableEq, Repr

/-- SUB of PREF (R218). -/
inductive PLevel where
  | l1 | l2
  deriving DecidableEq, Repr

/-- SUB of TEW (R188). -/
inductive TewFn where
  | copy | relu | gelu | silu | exp | tanh | sigm | add | mul | scl
  deriving DecidableEq, Repr

/-- SUB of TRED (R189). -/
inductive TredOp where
  | add | max
  deriving DecidableEq, Repr

/-- Roles of R196. -/
inductive Role where
  | none | prod | mma | norm
  deriving DecidableEq, Repr

/-- SUB of EBBSTAT (R270). -/
inductive EbbField where
  | rem | seq
  deriving DecidableEq, Repr

/-- SUB of COLL (R282). -/
inductive CollOp where
  | ared | rsc | agat | a2a
  deriving DecidableEq, Repr

/-- The special registers of the directory of R265. -/
inductive SReg where
  | tid | warp | slot | core | clus | die | dev | kind | mask | nsplit
  | lix (k : BitVec 3) | lext (k : BitVec 3)
  | lclk | seed | role | kvrm | hflag | migr | panch | xl
  | kvd (n : BitVec 4) (w : BitVec 2)
  | cctl | tvec | tpc | tcause | tmask | targ | taddr | priv | asid | world
  deriving DecidableEq, Repr

/-- The operand header of TMMA, TMMAW, TMMAZ and TMMAS (R178), from bit 0 upward. -/
structure Header where
  afmt : Elem
  bfmt : Elem
  ta : Bool
  tb : Bool
  mq : BitVec 4
  np : BitVec 3
  sp : BitVec 2
  asrc : Bool
  za : Bool
  sva : Bool
  svb : Bool
  row16 : BitVec 7
  deriving DecidableEq, Repr

/-- What a peer does to a line or word of this device (R509): write a line with its side slot, of which the marked bytes, scale words and
descriptor are written; read a line with its slot; or an undivided atomic on a word with its operands. -/
inductive PeerAct where
  | write (data : BitVec 1024) (dirty : BitVec 128) (side : BitVec 256) (sdirty : BitVec 13)
  | read (scaled : Bool)
  | atomic (op : AtomOp) (wide : Bool) (c : DWord)
  | compare (wide : Bool) (c new : DWord)
  deriving DecidableEq, Repr

/-- An access of a peer, and whether it comes from a secure context (R516). -/
structure PeerOp where
  world : Bool
  act : PeerAct
  deriving DecidableEq, Repr

/-- The object of a pre-empt command (R458). -/
inductive PreTarget where
  | context (asid : BitVec 16)
  | queue (q : Nat)
  | launch (addr : DWord)
  deriving DecidableEq, Repr

/-- A bit error (R529, R530): a corrected one of SRAM or HBM4E, or what an uncorrectable one strikes: a 32-byte granule of a storage, of a
register the one with a thread's word, a line's side slot, or a slot's entry of the scale or metadata store. -/
inductive SoftError where
  | corrected (hbm : Bool)
  | hbm (a : Nat)
  | est (a : Nat)
  | scratch (blk off : Nat)
  | clus (gang off : Nat)
  | lane (warp t off : Nat)
  | side (hbm : Bool) (line : Nat)
  | scratchSide (blk line : Nat)
  | clusSide (gang line : Nat)
  | register (warp reg t : Nat)
  | accumulator (core row col : Nat)
  | bstore (core col off : Nat)
  | bscale (core col off : Nat)
  | bmeta (core col off : Nat)
  deriving DecidableEq, Repr

/-- What the boot ROM finds (R536, R539): whether the flash can be read, the manifest with its signature, the code and the configuration block;
the logical cores whose own hardware fails self-test, and the spare Reach cores that fail it, spare k of die d as 8d + k. -/
structure FirmwareImage where
  readable : Bool
  manifest : List Byte
  code : List Byte
  config : List Byte
  failing : List Nat
  badSpares : List Nat
  deriving DecidableEq, Repr


/-- One constructor per row of spec/opcode_table.json: the instructions in its order, the events that the device itself brings about, then those
that come from outside. -/
inductive Instr where
  /-- NOP (R257): Does nothing beyond its timing fields and its dependence counter. -/
  | nop (f : Fr) (v : Word)
  /-- BRA (R247): Relative branch of a split by guard; may diverge and push a join frame. -/
  | bra (f : Fr) (off : Word) (j : BitVec 8)
  /-- BRA_DEC (R247): Decrements a counter register per thread and branches where the guard holds and the counter is nonzero. -/
  | braDec (f : Fr) (c : Reg) (off : Word) (j : BitVec 8)
  /-- BRX (R251): Indirect branch to per-thread absolute targets, with threads grouped by target. -/
  | brx (f : Fr) (a : Reg) (j : BitVec 8)
  /-- CALL (R252): Pushes the return address, spilling when the stack is full, and transfers to a relative target. -/
  | call (f : Fr) (off : Word)
  /-- CALLX (R253): Indirect call; target groups call one after another in ascending target order. -/
  | callx (f : Fr) (a : Reg)
  /-- RET (R255): Returns guarded threads to their return-stack targets, reloading spilled entries or ending threads. -/
  | ret (f : Fr)
  /-- CONFL (R250): Confluence point: waits, resumes parked sides, or merges the splits of the top frame. -/
  | confl (f : Fr) (j : BitVec 8)
  /-- EXIT (R256): Ends the guarded threads of the split. -/
  | exit (f : Fr)
  /-- TRAP (R258): Raises a software or binding trap with the guarded threads as faulters. -/
  | trap (f : Fr) (v : Word) (cause : BitVec 8)
  /-- SVC (R258): Raises the supervisor-call trap 0x0F. -/
  | svc (f : Fr) (v : Word)
  /-- BKPT (R258): Stops the core with cause 0x0E when DBG is set, and otherwise does nothing. -/
  | bkpt (f : Fr) (v : Word)
  /-- RTH (R261): Ends the handler split and resumes the suspended split at sr.tpc. -/
  | rth (f : Fr)
  /-- YIELD (R257): Withholds the split from issue until the other ready splits have issued or 64 cycles pass. -/
  | yieldw (f : Fr)
  /-- WAITV (R262): Reads a memory word per thread and waits until the word satisfies .eq or .ne against C. -/
  | waitv (f : Fr) (d : Reg) (a : Reg) (off : Word) (c : Src) (spc : Space) (sz : Size) (scope : Scope) (ne : Bool)
  /-- MOVS (R263): Reads a special register into D. -/
  | movs (f : Fr) (d : Reg) (sr : SReg)
  /-- SETS (R263): Writes a special register, subject to its access class and sr.priv. -/
  | sets (f : Fr) (b : Src) (sr : SReg)
  /-- MOV (R115): Copies B or a literal to D. -/
  | mov (f : Fr) (d : Reg) (b : Src)
  /-- IADD (R107): Adds two or three integers, wrapping or saturating. -/
  | iadd (f : Fr) (d : Reg) (a : Src) (b : Src) (c : Option Src) (sat : Sat)
  /-- ISUB (R107): Subtracts one or two integers from A, wrapping or saturating. -/
  | isub (f : Fr) (d : Reg) (a : Src) (b : Src) (c : Option Src) (sat : Sat)
  /-- IMUL (R108): Writes the low 32 bits of a product. -/
  | imul (f : Fr) (d : Reg) (a : Reg) (b : Src)
  /-- IMULH (R108): Writes the high 32 bits of a signed or unsigned product. -/
  | imulh (f : Fr) (d : Reg) (a : Reg) (b : Src) (u : Bool)
  /-- IMAD (R109): Integer multiply-add, 32-bit or wide 64-bit. -/
  | imad (f : Fr) (d : Reg) (a : Src) (b : Src) (c : Src) (wide : Bool) (u : Bool)
  /-- IMIN (R110): Writes the lesser of two integers. -/
  | imin (f : Fr) (d : Reg) (a : Reg) (b : Src) (u : Bool)
  /-- IMAX (R110): Writes the greater of two integers. -/
  | imax (f : Fr) (d : Reg) (a : Reg) (b : Src) (u : Bool)
  /-- IABS (R110): Writes the absolute value of a signed integer. -/
  | iabs (f : Fr) (d : Reg) (a : Reg)
  /-- IADD64 (R113): Adds to or subtracts from a 64-bit pair a pair or an extended register. -/
  | iadd64 (f : Fr) (d : Reg) (a : Reg) (b : Reg) (neg : Bool) (bext : BExt)
  /-- LEA (R114): Forms a 64-bit address from a base pair, a shifted index and an optional addend. -/
  | lea (f : Fr) (d : Reg) (a : Src) (b : Src) (c : Option Src) (sh : BitVec 3) (bu : Bool)
  /-- ISAD (R111): Adds an absolute difference to C. -/
  | isad (f : Fr) (d : Reg) (a : Src) (b : Src) (c : Src) (u : Bool)
  /-- IDOT4 (R112): Forms the four-byte dot product of A and B and adds it to C. -/
  | idot4 (f : Fr) (d : Reg) (a : Src) (b : Src) (c : Src) (au : Bool) (bu : Bool) (sat : Bool)
  /-- SEL (R116): Selects A or B by bit 0 of C. -/
  | sel (f : Fr) (d : Reg) (a : Src) (b : Src) (c : Src) (neg : Bool)
  /-- PRMT (R117): Permutes bytes of A and B under the per-byte selectors in C. -/
  | prmt (f : Fr) (d : Reg) (a : Src) (b : Src) (c : Src) (swp : Bool)
  /-- MOVI_READ (R118): Reads a register whose name each thread computes. -/
  | moviRead (f : Fr) (d : Reg) (a : Reg) (base : BitVec 10)
  /-- MOVI_WRITE (R118): Writes a register whose name each thread computes. -/
  | moviWrite (f : Fr) (a : Reg) (b : Reg) (base : BitVec 10)
  /-- AND (R121): Bitwise AND. -/
  | and (f : Fr) (d : Reg) (a : Reg) (b : Src)
  /-- OR (R121): Bitwise OR. -/
  | or (f : Fr) (d : Reg) (a : Reg) (b : Src)
  /-- XOR (R121): Bitwise XOR. -/
  | xor (f : Fr) (d : Reg) (a : Reg) (b : Src)
  /-- ANDN (R121): A AND NOT B. -/
  | andn (f : Fr) (d : Reg) (a : Reg) (b : Src)
  /-- SHL (R122): Logical left shift. -/
  | shl (f : Fr) (d : Reg) (a : Reg) (b : Src)
  /-- SHR (R122): Logical right shift. -/
  | shr (f : Fr) (d : Reg) (a : Reg) (b : Src)
  /-- SAR (R122): Arithmetic right shift. -/
  | sar (f : Fr) (d : Reg) (a : Reg) (b : Src)
  /-- ROT (R122): Rotates A left by B mod 32. -/
  | rot (f : Fr) (d : Reg) (a : Reg) (b : Src)
  /-- POPC (R123): Counts the set bits of A. -/
  | popc (f : Fr) (d : Reg) (a : Reg)
  /-- CLZ (R123): Counts the leading zero bits of A. -/
  | clz (f : Fr) (d : Reg) (a : Reg)
  /-- BREV (R123): Reverses the bits of A. -/
  | brev (f : Fr) (d : Reg) (a : Reg)
  /-- BFX (R124): Extracts a bit field, sign- or zero-extended. -/
  | bfx (f : Fr) (d : Reg) (a : Src) (b : Src) (sx : Bool)
  /-- BFI (R125): Inserts a bit field of A into C. -/
  | bfi (f : Fr) (d : Reg) (a : Src) (b : Src) (c : Src)
  /-- LOP3 (R126): Applies a three-input truth table bitwise. -/
  | lop3 (f : Fr) (d : Reg) (a : Src) (b : Src) (c : Src) (tt : BitVec 8)
  /-- ICMP (R127): Integer compare writing a predicate and its complement. -/
  | icmp (f : Fr) (d : Reg) (c2 : Reg) (a : Src) (b : Src) (cond : Cond) (u : Bool)
  /-- FCMP (R128): Float compare writing a predicate and its complement. -/
  | fcmp (f : Fr) (d : Reg) (c2 : Reg) (a : Src) (b : Src) (cond : FCond) (u : Bool) (t : FTy)
  /-- FCLASS (R129): Tests the class of a float against a mask. -/
  | fclass (f : Fr) (d : Reg) (a : Reg) (mask : BitVec 10) (t : FTy)
  /-- VOTE (R130): Warp vote: all, any, eq, ballot or count over the active threads. -/
  | vote (f : Fr) (op : VoteOp) (d : Reg) (a : Reg)
  /-- MATCHW (R131): Finds the active threads that hold equal values. -/
  | matchw (f : Fr) (wide : Bool) (d : Reg) (c2 : Reg) (a : Reg)
  /-- FADD (R134): FP32 add with one rounding. -/
  | fadd (f : Fr) (d : Reg) (a : Src) (b : Src) (rnd : Rnd) (na : Bool) (nb : Bool) (aa : Bool) (ab : Bool) (sat : Bool)
  /-- FSUB (R134): FP32 subtract with one rounding. -/
  | fsub (f : Fr) (d : Reg) (a : Src) (b : Src) (rnd : Rnd) (na : Bool) (nb : Bool) (aa : Bool) (ab : Bool) (sat : Bool)
  /-- FMUL (R134): FP32 multiply with one rounding. -/
  | fmul (f : Fr) (d : Reg) (a : Src) (b : Src) (rnd : Rnd) (na : Bool) (nb : Bool) (aa : Bool) (ab : Bool) (sat : Bool)
  /-- FFMA (R134): FP32 fused multiply-add with one rounding. -/
  | ffma (f : Fr) (d : Reg) (a : Src) (b : Src) (c : Src) (rnd : Rnd) (na : Bool) (nb : Bool) (aa : Bool) (ab : Bool) (sat : Bool) (nc : Bool) (ac : Bool)
  /-- FMIN (R135): FP32 minimum, preferring the non-NaN operand. -/
  | fmin (f : Fr) (d : Reg) (a : Reg) (b : Src)
  /-- FMAX (R135): FP32 maximum, preferring the non-NaN operand. -/
  | fmax (f : Fr) (d : Reg) (a : Reg) (b : Src)
  /-- FRCP (R136): Correctly rounded reciprocal. -/
  | frcp (f : Fr) (d : Reg) (a : Reg)
  /-- FRSQ (R136): Correctly rounded reciprocal square root. -/
  | frsq (f : Fr) (d : Reg) (a : Reg)
  /-- FSQRT (R137): Correctly rounded square root. -/
  | fsqrt (f : Fr) (d : Reg) (a : Reg) (rnd : Rnd)
  /-- FEXP2 (R136): Correctly rounded 2^A. -/
  | fexp2 (f : Fr) (d : Reg) (a : Reg)
  /-- FLOG2 (R136): Correctly rounded log2 A. -/
  | flog2 (f : Fr) (d : Reg) (a : Reg)
  /-- FSINCOS (R138): Writes the correctly rounded sine to D and cosine to C. -/
  | fsincos (f : Fr) (d : Reg) (c2 : Reg) (a : Reg)
  /-- FTANH (R136): Correctly rounded tanh A. -/
  | ftanh (f : Fr) (d : Reg) (a : Reg)
  /-- FDIV (R137): IEEE FP32 division. -/
  | fdiv (f : Fr) (d : Reg) (a : Reg) (b : Reg) (rnd : Rnd)
  /-- H2ADD (R140): Adds the two 16-bit lanes. -/
  | h2add (f : Fr) (d : Reg) (a : Reg) (b : Src) (rnd : Rnd) (bf : Bool) (na : Bool) (nb : Bool)
  /-- H2MUL (R140): Multiplies the two 16-bit lanes. -/
  | h2mul (f : Fr) (d : Reg) (a : Reg) (b : Src) (rnd : Rnd) (bf : Bool) (na : Bool) (nb : Bool)
  /-- H2FMA (R140): Fused multiply-add on the two 16-bit lanes. -/
  | h2fma (f : Fr) (d : Reg) (a : Src) (b : Src) (c : Src) (rnd : Rnd) (bf : Bool) (na : Bool) (nb : Bool) (nc : Bool)
  /-- H2MIN (R140): Minimum of the two 16-bit lanes. -/
  | h2min (f : Fr) (d : Reg) (a : Reg) (b : Src) (bf : Bool)
  /-- H2MAX (R140): Maximum of the two 16-bit lanes. -/
  | h2max (f : Fr) (d : Reg) (a : Reg) (b : Src) (bf : Bool)
  /-- CVT (R143): Converts between float formats with one rounding. -/
  | cvt (f : Fr) (d : Reg) (a : Reg) (sty : Elem) (dt : Elem) (rnd : Rnd)
  /-- CVTI (R144): Converts a float to an integer with saturation. -/
  | cvti (f : Fr) (d : Reg) (a : Reg) (sty : Elem) (dt : Elem) (rnd : Rnd)
  /-- CVTF (R145): Converts an integer to a float. -/
  | cvtf (f : Fr) (d : Reg) (a : Reg) (sty : Elem) (dt : Elem) (rnd : Rnd)
  /-- PACK2 (R146): Converts two FP32 values and packs them into a slot pair. -/
  | pack2 (f : Fr) (d : Reg) (a : Reg) (b : Reg) (c : Option Reg) (dt : Elem) (rnd : Rnd) (k : BitVec 3)
  /-- UNPK2 (R147): Unpacks a slot pair into two FP32 values. -/
  | unpk2 (f : Fr) (d : Reg) (c2 : Reg) (a : Reg) (sty : Elem) (k : BitVec 3)
  /-- SRND (R148): Converts two FP32 values by stochastic rounding and packs them. -/
  | srnd (f : Fr) (d : Reg) (a : Src) (b : Src) (dt : Elem) (strm : BitVec 8)
  /-- BMAX (R155): Warp-wide maximum of magnitudes or of signed values. -/
  | bmax (f : Fr) (kind : MaxKind) (d : Reg) (a : Reg) (t : FTy)
  /-- BMIN (R155): Warp-wide minimum of magnitudes or of signed values. -/
  | bmin (f : Fr) (kind : MaxKind) (d : Reg) (a : Reg) (t : FTy)
  /-- BSCALE (R156): Chooses the tight or OCP scale word of a block. -/
  | bscale (f : Fr) (mode : SMode) (d : Reg) (a : Reg) (bf : BFmt)
  /-- BZP (R157): Chooses the scale and zero point of an A4 or A8 group. -/
  | bzp (f : Fr) (zf : ZFmt) (d : Reg) (a : Reg) (b : Reg)
  /-- BQUANT (R159): Quantises one element per thread into a block with a chosen or given scale. -/
  | bquant (f : Fr) (mode : QMode) (d : Reg) (c2 : Reg) (a : Src) (b : Option Src) (bf : BFmt) (rnd : Rnd) (strm : BitVec 8)
  /-- BDEQ (R160): Dequantises an element code under a scale word. -/
  | bdeq (f : Fr) (d : Reg) (a : Src) (b : Src) (bf : BFmt) (dt : DTy) (rnd : Rnd)
  /-- BPACK (R162): Packs the threads' element codes into one thread's packed span. -/
  | bpack (f : Fr) (d : Reg) (a : Reg) (b : Reg) (bf : BFmt) (grp : Grp) (part : BitVec 2)
  /-- BUNPK (R163): Unpacks a packed span into one element per thread. -/
  | bunpk (f : Fr) (d : Reg) (c2 : Reg) (a : Reg) (bf : BFmt) (grp : Grp) (part : BitVec 2)
  /-- BHEALTH (R164): Counts the saturations and zeroings that a quantisation would cause. -/
  | bhealth (f : Fr) (mode : QMode) (d : Reg) (a : Reg) (b : Option Reg) (bf : BFmt) (rnd : Rnd)
  /-- BRESCALE (R161): Requantises a code from an old scale word to a new one. -/
  | brescale (f : Fr) (d : Reg) (a : Src) (b : Src) (c : Src) (bf : BFmt) (rnd : Rnd) (strm : BitVec 8)
  /-- SHFL (R166): Cross-lane shuffle by index, up, down or xor. -/
  | shfl (f : Fr) (mode : ShflMode) (d : Reg) (c2 : Reg) (a : Src) (b : Src) (seg : BitVec 3)
  /-- REDW (R168): Warp reduction in a fixed tree. -/
  | redw (f : Fr) (op : RedOp) (d : Reg) (a : Reg)
  /-- SCANW (R168): Inclusive or exclusive warp scan. -/
  | scanw (f : Fr) (op : RedOp) (d : Reg) (a : Reg) (excl : Bool)
  /-- BCASTW (R169): Broadcasts one thread's value to the warp. -/
  | bcastw (f : Fr) (d : Reg) (a : Reg) (b : Option Src) (low : Bool)
  /-- LD (R212): Relaxed load. -/
  | ld (f : Fr) (d : Reg) (a : Reg) (off : Word) (spc : Space) (sz : Size) (ch : Hint)
  /-- ST (R212): Relaxed store. -/
  | st (f : Fr) (a : Reg) (off : Word) (c : Src) (spc : Space) (sz : Size) (ch : Hint)
  /-- LDS (R213): Load addressed by a 32-bit window offset. -/
  | lds (f : Fr) (d : Reg) (a : Reg) (off : Word) (spc : Space) (sz : Size)
  /-- STS (R213): Store addressed by a 32-bit window offset. -/
  | sts (f : Fr) (a : Reg) (off : Word) (c : Reg) (spc : Space) (sz : Size)
  /-- LDBS (R215): Loads a block or group with its scale. -/
  | ldbs (f : Fr) (pk : Bool) (d : Reg) (a : Reg) (off : Word) (bf : BFmt) (grp : Grp) (part : BitVec 2) (nc : Bool)
  /-- STBS (R215): Stores a block or group with its scale and descriptor. -/
  | stbs (f : Fr) (pk : Bool) (a : Reg) (off : Word) (c : Reg) (bf : BFmt) (grp : Grp) (part : BitVec 2) (nc : Bool)
  /-- LDSC (R217): Reads one scale word and the descriptor of a side slot. -/
  | ldsc (f : Fr) (d : Reg) (c2 : Reg) (a : Reg) (b : Reg)
  /-- STSC (R217): Writes one scale word, and optionally the descriptor, of a side slot. -/
  | stsc (f : Fr) (a : Reg) (b : Reg) (c : Reg) (desc : Bool)
  /-- LDAQ (R214): Acquire load at a scope, with L1 invalidation at wide scopes. -/
  | ldaq (f : Fr) (d : Reg) (a : Reg) (off : Word) (spc : Space) (sz : Size) (scope : Scope)
  /-- STRL (R214): Release store at a scope, with L1 write-back at wide scopes. -/
  | strl (f : Fr) (a : Reg) (off : Word) (c : Reg) (spc : Space) (sz : Size) (scope : Scope)
  /-- PREF (R218): Prefetch hint into L1 or L2. -/
  | pref (f : Fr) (lvl : PLevel) (a : Reg) (off : Word) (spc : Space)
  /-- CFLUSH_WB (R219): Writes back the L1 line of each thread's address. -/
  | cflushWb (f : Fr) (a : Reg)
  /-- CFLUSH_WBINV (R219): Writes back and invalidates the L1 line of each thread's address. -/
  | cflushWbinv (f : Fr) (a : Reg)
  /-- CFLUSH_WBALL (R219): Writes back every dirty L1 line of the core. -/
  | cflushWball (f : Fr)
  /-- CFLUSH_WBINVALL (R219): Writes back every dirty L1 line and invalidates the whole L1. -/
  | cflushWbinvall (f : Fr)
  /-- WAYSET (R220): Changes the split of near-store ways between scratch and L1. -/
  | wayset (f : Fr) (d : Reg) (a : Reg)
  /-- ATOM (R221): Atomic read-modify-write at the home, returning the old value. -/
  | atom (f : Fr) (op : AtomOp) (d : Reg) (a : Reg) (off : Word) (c : Src) (spc : Space) (sz : Size) (scope : Scope) (ord : Order)
  /-- ATOMC (R222): Atomic compare-and-swap. -/
  | atomc (f : Fr) (d : Reg) (a : Reg) (off : Word) (c : Reg) (spc : Space) (sz : Size) (scope : Scope) (ord : Order)
  /-- RED (R221): Atomic reduction at the home with no returned value. -/
  | red (f : Fr) (op : AtomOp) (a : Reg) (off : Word) (c : Src) (spc : Space) (sz : Size) (scope : Scope) (ord : Order)
  /-- FENCE_FULL (R224): Full fence at a scope. -/
  | fenceFull (f : Fr) (scope : Scope)
  /-- FENCE_ACQ (R224): Acquire fence at a scope. -/
  | fenceAcq (f : Fr) (scope : Scope)
  /-- FENCE_REL (R224): Release fence at a scope, publishing waited batches. -/
  | fenceRel (f : Fr) (scope : Scope)
  /-- CHUNK (R225): Draws a chunk of work atomically from a chunk record. -/
  | chunk (f : Fr) (d : Reg) (a : Reg)
  /-- SLX_COPY (R228): Posts a copy command to the sluice engine. -/
  | slxCopy (f : Fr) (d : Reg) (a : Option Src) (b : Option Src) (c : Reg)
  /-- SLX_CVT (R228): Posts a convert-and-quantise command. -/
  | slxCvt (f : Fr) (d : Reg) (a : Option Src) (b : Option Src) (c : Reg)
  /-- SLX_RESCALE (R228): Posts a rescale command. -/
  | slxRescale (f : Fr) (d : Reg) (a : Option Src) (b : Option Src) (c : Reg)
  /-- SLX_TR (R369): Posts a transpose command with re-blocking. -/
  | slxTr (f : Fr) (d : Reg) (a : Option Src) (b : Option Src) (c : Reg)
  /-- SLX_FILL (R228): Posts a fill command. -/
  | slxFill (f : Fr) (d : Reg) (a : Option Src) (b : Option Src) (c : Reg)
  /-- SLX_KVG (R391): Posts a key-value gather command. -/
  | slxKvg (f : Fr) (d : Reg) (a : Option Src) (b : Option Src) (c : Reg)
  /-- SLX_TAGCK (R371): Posts an integrity-checked copy command. -/
  | slxTagck (f : Fr) (d : Reg) (a : Option Src) (b : Option Src) (c : Reg)
  /-- BSEAL (R231): Seals the thread's open copy batch, first retiring the oldest batch when 8 are unwaited. -/
  | bseal (f : Fr) (d : Reg)
  /-- BWAIT (R231): Waits for sealed batches and reports their status. -/
  | bwait (f : Fr) (d : Reg) (a : Reg)
  /-- FLPUT (R234): Publishes elements into a flume as a block-scope release. -/
  | flput (f : Fr) (d : Reg) (a : Reg) (n : BitVec 4)
  /-- FLGET (R234): Frees elements of a flume as a block-scope release. -/
  | flget (f : Fr) (d : Reg) (a : Reg) (n : BitVec 4)
  /-- FLWAIT_DATA (R367): Waits until a flume holds enough data and returns the slot offset. -/
  | flwaitData (f : Fr) (d : Reg) (a : Reg) (n : BitVec 4)
  /-- FLWAIT_ROOM (R367): Waits until a flume has enough room and returns the slot offset. -/
  | flwaitRoom (f : Fr) (d : Reg) (a : Reg) (n : BitVec 4)
  /-- WEIRSET_SET (R235): Sets a weir slot to TRUE or FALSE. -/
  | weirsetSet (f : Fr) (a : Reg) (w : BitVec 5)
  /-- WEIRSET_CLR (R235): Sets a weir slot to UNSET. -/
  | weirsetClr (f : Fr) (w : BitVec 5)
  /-- ENGSYNC_CMP (R236): Waits for every copy command that the warp has posted. -/
  | engsyncCmp (f : Fr)
  /-- ENGSYNC_PUB (R236): Waits for the warp's commands and publishes their writes with a release. -/
  | engsyncPub (f : Fr) (scope : Scope)
  /-- CONVENE (R170): Joins a raft; the raft forms when its last member joins. -/
  | convene (f : Fr) (d : Reg) (rid : BitVec 2) (kc : BitVec 3)
  /-- DISBAND (R172): Leaves the raft once the warp's tile operations have retired. -/
  | disband (f : Fr)
  /-- TMMA (R182): Raft tile matrix multiply-accumulate. -/
  | tmma (f : Fr) (a : Reg) (b : Reg) (hdr : Header)
  /-- TMMAW (R182): Tile multiply with 4-bit weights dequantised to BF16. -/
  | tmmaw (f : Fr) (a : Reg) (b : Reg) (hdr : Header) (grp : Grp)
  /-- TMMAZ (R182): Tile multiply with asymmetric zero-point groups. -/
  | tmmaz (f : Fr) (a : Reg) (b : Reg) (hdr : Header) (grp : Grp)
  /-- TMMAS (R182): Tile multiply with structured-sparse B. -/
  | tmmas (f : Fr) (a : Reg) (b : Reg) (hdr : Header)
  /-- TACC_ZERO (R184): Zeroes a tile of accumulators. -/
  | taccZero (f : Fr) (a : Src)
  /-- TACC_LIVE (R184): Marks a tile's rows live. -/
  | taccLive (f : Fr) (a : Src)
  /-- TACC_DEAD (R184): Marks a tile's rows dead. -/
  | taccDead (f : Fr) (a : Src)
  /-- TACC_MUL (R184): Multiplies a tile by a scalar. -/
  | taccMul (f : Fr) (a : Src) (c : Src)
  /-- TRD_REG (R185): Reads a tile into the members' registers. -/
  | trdReg (f : Fr) (d : Reg) (a : Src) (dt : Elem) (q : BitVec 2) (rnd : Rnd)
  /-- TRD_REC (R185): Writes a tile to memory through a shape record, quantising if scaled. -/
  | trdRec (f : Fr) (a : Src) (b : Reg) (c : Src) (dt : Elem) (rnd : Rnd) (ocp : Bool)
  /-- TWR_REG (R186): Writes a tile from the members' registers. -/
  | twrReg (f : Fr) (d : Reg) (a : Src) (dt : Elem) (q : BitVec 2)
  /-- TWR_REC (R186): Writes a tile from memory through a shape record. -/
  | twrRec (f : Fr) (a : Src) (b : Reg) (dt : Elem)
  /-- TEW (R188): Elementwise tile function. -/
  | tew (f : Fr) (fn : TewFn) (a : Src) (b : Option Src) (c : Option Src) (dtile : BitVec 11) (s : Bool) (s2 : Bool)
  /-- TRED (R189): Row reduction of a tile. -/
  | tred (f : Fr) (op : TredOp) (a : Src) (dtile : BitVec 11) (s : Bool)
  /-- TSMX (R190): Row softmax of a tile. -/
  | tsmx (f : Fr) (a : Src) (c : Option Src) (dtile : BitVec 11) (s : Bool)
  /-- TNORM (R191): Row RMS normalisation of a tile. -/
  | tnorm (f : Fr) (a : Src) (c : Src) (dtile : BitVec 11) (s : Bool)
  /-- TCVT (R192): Quantises and dequantises a tile in place. -/
  | tcvt (f : Fr) (mode : SMode) (a : Src) (bf : BFmt) (rnd : Rnd) (strm : BitVec 8)
  /-- BSLOAD (R193): Loads B operand K-blocks with scales into the twin's B-store. -/
  | bsload (f : Fr) (a : Reg) (b : Reg) (sp : Bool)
  /-- RCFENCE (R195): Discards the cluster's cached shape records. -/
  | rcfence (f : Fr)
  /-- KVXLT (R386): Translates a sequence, layer and position to an entry address with a status per lane. -/
  | kvxlt (f : Fr) (d : Reg) (c2 : Reg) (a : Src) (b : Src) (n : BitVec 4) (acq : Bool)
  /-- KVAPP (R387): Appends a position to a sequence, allocating or copying tail pages. -/
  | kvapp (f : Fr) (d : Reg) (c2 : Reg) (a : Src) (n : BitVec 4)
  /-- ROLE_GET (R196): Reads sr.role. -/
  | roleGet (f : Fr) (d : Reg)
  /-- ROLE_SET (R196): Sets the warp's issue role. -/
  | roleSet (f : Fr) (role : Role)
  /-- TBAR_INIT (R198): Initialises a tile barrier's expected count and phase. -/
  | tbarInit (f : Fr) (d : Reg) (a : Reg) (n : BitVec 4)
  /-- TBAR_ARRIVE (R198): Counts arrivals on a tile barrier, completing phases. -/
  | tbarArrive (f : Fr) (d : Reg) (a : Reg) (n : BitVec 4)
  /-- TBAR_WAIT (R198): Waits until a named tile-barrier phase is complete. -/
  | tbarWait (f : Fr) (d : Reg) (a : Reg) (n : BitVec 4)
  /-- TBAR_ARWT (R198): Arrives once and then waits on the phase that the arrival wrote. -/
  | tbarArwt (f : Fr) (d : Reg) (a : Reg) (n : BitVec 4)
  /-- CFTEST (R206): Computes the top probability and compares it with a threshold. -/
  | cftest (f : Fr) (d : Reg) (a : Src) (b : Src) (c : Src)
  /-- EXITTOK (R392): Marks a token's later layers provisional and posts an exit record. -/
  | exittok (f : Fr) (d : Reg) (a : Reg) (b : Reg) (n : BitVec 4)
  /-- BFWAIT (R204): Waits until each lane's entry is FINAL. -/
  | bfwait (f : Fr) (d : Reg) (a : Reg) (b : Reg) (n : BitVec 4)
  /-- RECON (R267): Opens recording for the block. -/
  | recon (f : Fr) (d : Reg) (a : Reg)
  /-- RECOFF (R268): Closes recording once the logged operations have retired. -/
  | recoff (f : Fr)
  /-- EBB (R413): Walks the log backwards, adding adjoints into gradient buffers. -/
  | ebb (f : Fr) (d : Reg) (a : Reg)
  /-- EBBSTAT (R270): Reports the remaining records or the next sequence number of a walk. -/
  | ebbstat (f : Fr) (fld : EbbField) (d : Reg) (a : Reg)
  /-- MIGR_RIFFLE (R271): Holds a request to migrate to the Riffle core. -/
  | migrRiffle (f : Fr) (d : Reg)
  /-- MIGR_REACH (R271): Holds a request to migrate to a Reach core. -/
  | migrReach (f : Fr) (d : Reg)
  /-- MIGR_CANCEL (R271): Cancels a held migration request. -/
  | migrCancel (f : Fr) (d : Reg)
  /-- PORTAGE (R430): Checks the portage record, sets sr.panch and migrates when requested and possible. -/
  | portage (f : Fr) (v : Word)
  /-- BAR_SYNC (R275): Arrives at a block barrier and waits for the phase to end. -/
  | barSync (f : Fr) (a : Option Reg) (n : BitVec 4)
  /-- BAR_ARR (R275): Arrives at a block barrier without waiting. -/
  | barArr (f : Fr) (a : Option Reg) (n : BitVec 4)
  /-- GBAR (R276): Barrier over a gang or wider scope. -/
  | gbar (f : Fr) (scope : Scope)
  /-- XLOCK (R277): Takes the pair's extended register set when it is free. -/
  | xlock (f : Fr)
  /-- XFREE (R277): Frees the extended register set once its writes have landed. -/
  | xfree (f : Fr)
  /-- NMQ (R278): Releases and sends near-memory command words to their home units. -/
  | nmq (f : Fr) (d : Reg) (a : Reg) (scope : Scope)
  /-- NMWAIT_WAIT (R279): Waits for a near-memory command and delivers its completion record. -/
  | nmwaitWait (f : Fr) (d : Reg) (a : Reg)
  /-- NMWAIT_TEST (R279): Delivers a completion record if ready, otherwise status 0xFF. -/
  | nmwaitTest (f : Fr) (d : Reg) (a : Reg)
  /-- TQPOP_WAIT (R280): Pops an item from an item queue, waiting for one. -/
  | tqpopWait (f : Fr) (d : Reg) (a : Reg)
  /-- TQPOP_TRY (R280): Pops an item or returns all ones. -/
  | tqpopTry (f : Fr) (d : Reg) (a : Reg)
  /-- TQPUSH_WAIT (R280): Pushes an item, waiting for room. -/
  | tqpushWait (f : Fr) (d : Reg) (a : Reg) (b : Reg)
  /-- TQPUSH_TRY (R280): Pushes an item or reports the queue full. -/
  | tqpushTry (f : Fr) (d : Reg) (a : Reg) (b : Reg)
  /-- TQPUSH_CLOSE (R280): Closes an item queue. -/
  | tqpushClose (f : Fr) (d : Reg) (a : Reg)
  /-- LAUNCH (R281): Releases and posts a launch record to its queue. -/
  | launch (f : Fr) (d : Reg) (a : Reg)
  /-- COLL (R282): Releases and posts a collective descriptor to the die's collective engine. -/
  | coll (f : Fr) (op : CollOp) (d : Reg) (a : Reg) (b : Src)
  /-- RESULT_WRITEBACK (R63): A fixed-latency instruction writes its results L cycles after issue and releases its counter. -/
  | resultWriteback (warp : Nat)
  /-- INSTRUCTION_COMPLETION (R68): A variable-latency instruction reaches its completion point and decrements its counter. -/
  | instructionCompletion (warp k : Nat)
  /-- MINIMUM_LATENCY_RELEASE (R70): The counter of an instruction with no active thread is decremented at the minimum latency. -/
  | minimumLatencyRelease (warp k : Nat)
  /-- IN_WARP_TRAP_ENTRY (R259): The faulting split is suspended and a handler split is created once pending results are written. -/
  | inWarpTrapEntry (warp : Nat)
  /-- SPLIT_AGED (R298): A split that stays ready through 64 issue opportunities becomes aged. -/
  | splitAged (warp ent : Nat)
  /-- YIELD_RELEASE (R257): A yielded split becomes eligible again after the other splits issue or 64 cycles pass. -/
  | yieldRelease (warp ent : Nat)
  /-- WAITV_SATISFIED (R262): A rewritten word is read again and satisfies the condition, completing WAITV. -/
  | waitvSatisfied (warp ent : Nat)
  /-- FLUME_WAIT_SATISFIED (R367): A flume's fill or room reaches the waited count. -/
  | flumeWaitSatisfied (warp ent : Nat)
  /-- BFWAIT_SATISFIED (R204): Every active lane's entry becomes FINAL and BFWAIT completes. -/
  | bfwaitSatisfied (warp ent : Nat)
  /-- DISBAND_COMPLETE (R172): The warp's tile operations have retired and it leaves the raft. -/
  | disbandComplete (warp ent : Nat)
  /-- KVAPP_PROCEED (R388): The tail pages' provisional entries become FINAL and a waiting KVAPP makes its changes. -/
  | kvappProceed (warp ent : Nat)
  /-- ARRAY_OPERATION_START (R180): The twin's array begins the next waiting operation. -/
  | arrayOperationStart (twin : Nat)
  /-- ARRAY_OPERATION_DONE (R180): The operation makes its last accumulator write and completes. -/
  | arrayOperationDone (twin : Nat)
  /-- MIGRATE (R273): After counters drain, the warp moves to the target core and resumes in the other encoding. -/
  | migrate (warp : Nat)
  /-- WARP_END (R256): The last thread's warp drains counters and commands, frees its resources and ends its block. -/
  | warpEnd (warp : Nat)
  /-- SLUICE_COMMAND_START (R360): The head command meets its conditions and starts, reading its records and reserving flume elements. -/
  | sluiceCommandStart (core : Nat)
  /-- WEIR_DISCARD (R235): A command at the head finds its weir slot FALSE and is discarded. -/
  | weirDiscard (core : Nat)
  /-- SLUICE_GRANULE (R362): A command performs one granule of its work. -/
  | sluiceGranule (core k : Nat)
  /-- OPERAND_FETCH_FAULT (R358): An engine path faults; the gang is captured and its warps and operations are stopped. -/
  | operandFetchFault (gang : Nat)
  /-- GANG_SCRUB (R358): With nothing in flight, the gang's accumulators and B range are zeroed and the fault is reported. -/
  | gangScrub (gang : Nat)
  /-- CORE_STOP (R522): A hard fault stops the core and every gang on it, and writes a fault record. -/
  | coreStop (core : Nat)
  /-- HOST_SERVED_FAULT (R524): A translation fault takes the gang through stopping and saving into SERVED. -/
  | hostServedFault (gang : Nat)
  /-- FAULT_RECORD_POST (R526): A fault record is written to a free slot of the fault area and event 7 is posted. -/
  | faultRecordPost (asid : Nat)
  /-- WATCHDOG_EXPIRY (R528): A warp's watchdog count reaches 1,000,000 and raises cause 0x41. -/
  | watchdogExpiry (warp : Nat)
  /-- GANG_SAVE (R459): When nothing of a stopping gang is in flight, L1 is written back and the save image written. -/
  | gangSave (gang : Nat)
  /-- DISPATCH_DECISION (R448): Flioc chooses a class and queue and places one gang or one resident launch. -/
  | dispatchDecision 
  /-- CLUSTER_RESERVATION (R454): A queue's WT reaches 64 and Flioc reserves a cluster for its head gang. -/
  | clusterReservation (queue : Nat)
  /-- QUEUE_ENTRY_TAKEN (R446): Flioc takes the next ring entry of a launch queue, holding or accepting its record. -/
  | queueEntryTaken (queue : Nat)
  /-- NADAM (R239): Near-memory adaptive-moment optimiser step. -/
  | nadam (unit k : Nat)
  /-- NSGDM (R239): Near-memory SGD with momentum step. -/
  | nsgdm (unit k : Nat)
  /-- NMSEARCH (R240): Prunes groups to N of M elements, writing values and masks. -/
  | nmsearch (unit k : Nat)
  /-- NREDADD (R241): Adds source elements into FP32 destination words. -/
  | nredadd (unit k : Nat)
  /-- NCOPY (R241): Copies bytes, with side slots on scaled pages. -/
  | ncopy (unit k : Nat)
  /-- NFILL (R241): Fills a span with a pattern, optionally writing side slots. -/
  | nfill (unit k : Nat)
  /-- NCOW (R242): Copies a key-value page and adjusts the count words. -/
  | ncow (unit k : Nat)
  /-- NREF (R242): Adds a signed delta to a reference count. -/
  | nref (unit k : Nat)
  /-- NCNT_ADD (R242): Adds to a 64-bit counter. -/
  | ncntAdd (unit k : Nat)
  /-- NCNT_READ (R242): Reads a 64-bit counter. -/
  | ncntRead (unit k : Nat)
  /-- NCNT_WRITE (R242): Writes a 64-bit counter. -/
  | ncntWrite (unit k : Nat)
  /-- NCHUNK (R242): Draws from a chunk record at the NMU. -/
  | nchunk (unit k : Nat)
  /-- NQUANT (R241): Quantises a source span into a destination format. -/
  | nquant (unit k : Nat)
  /-- NTAGCHK (R242): Checks chunks against their tags without copying. -/
  | ntagchk (unit k : Nat)
  /-- NMU_COMMAND_COMPLETE (R467): The last part completes and the completion record is built. -/
  | nmuCommandComplete (unit k : Nat)
  /-- BACKWATER_AGE_TIMEOUT (R394): The oldest pending record waits 16,384 cycles, forcing a batch. -/
  | backwaterAgeTimeout (die : Nat)
  /-- BACKFILL_LAUNCH_END (R395): The backfill launch ends; the engine copies staging, flips entries and advances records. -/
  | backfillLaunchEnd (die batch : Nat)
  /-- COLLECTIVE_START (R513): Matched collective posts on all members begin. -/
  | collectiveStart (die : Nat)
  /-- INGRESS_RUN (R519): The device checks and writes a run's chunks and writes the completion word. -/
  | ingressRun (j : Nat)
  /-- BLOCK_HEALTH_FLUSH (R531): A block's health counter reaches 2^16 and is added to the context's area. -/
  | blockHealthFlush (blk : Nat)
  /-- ILLEGAL_INSTRUCTION (R83): A fetched word with an unassigned opcode, or with LEN = 0b11, raises the illegal-instruction trap 0x01. -/
  | illegalInstruction (warp ent : Nat)
  /-- FETCH_FAULT (R81): A fetch at a pc that is not a multiple of 4, that crosses a fetch block, or whose fetch block fails translation raises its trap before any decode. -/
  | fetchFault (warp ent : Nat)
  /-- L1_EVICTION (R319): A core's L1 evicts a line at a moment of its own choosing, writing back dirty bytes and scale words to the home. -/
  | l1Eviction (core k : Nat)
  /-- COLLECTIVE_END (R515): The engine writes DST, STAT and the completion word. -/
  | collectiveEnd (die : Nat) (peers : List (List Byte)) (match_ : Bool)
  /-- LAUNCH_PACKET (R511): A member receives a group launch packet and accepts or drops it. -/
  | launchPacket (group : Nat) (gen : Word) (queue : Nat) (bytes : List Byte)
  /-- LAUNCH_PACKET_ANSWER (R511): A member's acceptance or refusal of a group launch packet reaches rank 0, which completes the start barrier or drops the launch on every member. -/
  | launchPacketAnswer (launch : Nat) (accepted : Bool)
  /-- PORT_DOWN (R510): A flit exhausts its replays and the port goes down. -/
  | portDown (port : Nat)
  /-- FLIT_REPLAY (R510): A UALink flit fails its CRC and is replayed, counting towards the limit of 16 replays. -/
  | flitReplay (port : Nat)
  /-- PEER_ACCESS (R509): An access arrives over UALink and is performed at the home slice. -/
  | peerAccess (rank addr : Nat) (access : PeerOp)
  /-- HOST_WRITE (R506): A host write through BAR 4 is performed at its home slice. -/
  | hostWrite (sec : Bool) (addr : Nat) (bytes : List Byte)
  /-- HOST_READ (R506): A host read through BAR 4 is performed at its home slice. -/
  | hostRead (sec : Bool) (addr n : Nat)
  /-- QUEUE_KICK (R446): A host write to a queue's kick register advances TAIL or is ignored. -/
  | queueKick (queue : Nat) (tail : Word)
  /-- INGRESS_DESCRIPTOR_TRIGGER (R519): The write covering bytes 24-31 latches an ingress descriptor. -/
  | ingressDescriptorTrigger (j : Nat) (bytes : List Byte)
  /-- RIDX_WRITE (R508): The host writes RIDX of the event ring. -/
  | ridxWrite (v : Word)
  /-- REGISTER_WRITE_OTHER (R505): A write to a BAR register that has no row of its own. -/
  | registerWriteOther (bar addr : Nat) (bytes : List Byte)
  /-- CREATE_CONTEXT (R507): Control command 0x01 creates a context. -/
  | createContext (sec : Bool) (asid : BitVec 16) (world : Bool) (troot tvec poolBase poolSize : DWord)
  /-- DESTROY_CONTEXT (R507): Control command 0x02 destroys a context after its work drains. -/
  | destroyContext (sec : Bool) (asid : BitVec 16)
  /-- BIND_QUEUE (R445): Control command 0x03 binds a launch or item queue. -/
  | bindQueue (sec : Bool) (queue : Nat) (asid : BitVec 16) (item : Bool) (ring : DWord) (depth cls tkt group : Nat)
  /-- SET_TICKETS (R451): Control command 0x04 changes a queue's tickets. -/
  | setTickets (sec : Bool) (queue tkt : Nat)
  /-- INVALIDATE (R485): Control command 0x05 invalidates translations of a range. -/
  | invalidate (sec : Bool) (asid : BitVec 16) (base len : DWord)
  /-- PRE_EMPT (R458): Control command 0x06 requests pre-emption of a context, queue or launch. -/
  | preEmpt (sec : Bool) (what : PreTarget)
  /-- TASK_RELEASE (R455): Control command 0x07 releases a waiting task. -/
  | taskRelease (sec : Bool) (addr : DWord)
  /-- TASK_REMOVAL (R455): Control command 0x07 removes a waiting task. -/
  | taskRemoval (sec : Bool) (addr : DWord)
  /-- ACKNOWLEDGE_FAULT (R525): Control command 0x08 acknowledges a fault record with an action. -/
  | acknowledgeFault (sec : Bool) (addr : DWord) (action : BitVec 8)
  /-- SET_LAUNCH_GROUP (R511): Control command 0x09 configures the launch group. -/
  | setLaunchGroup (sec : Bool) (group n rank : Nat) (gen : Word) (routes : List Nat)
  /-- INSTALL_KEY (R371): Control command 0x0A installs an integrity key. -/
  | installKey (sec : Bool) (slot : Nat) (key : BitVec 256) (both : Bool)
  /-- BIND_INGRESS_QUEUE (R519): Control command 0x0B binds an ingress queue. -/
  | bindIngressQueue (sec : Bool) (j : Nat) (asid : BitVec 16) (base size : DWord)
  /-- SET_EVENT_RING (R508): Control command 0x0C sets the event ring. -/
  | setEventRing (sec : Bool) (base count : DWord)
  /-- ATTESTATION (R538): Control command 0x0D writes a signed attestation report. -/
  | attestation (sec : Bool) (nonce : BitVec 256) (addr : DWord)
  /-- SET_POWER_LIMIT (R540): Control command 0x0E sets PLIM. -/
  | setPowerLimit (sec : Bool) (watts : DWord)
  /-- CLOSE_ITEM_QUEUE (R447): Control command 0x0F with action 1 closes an item queue. -/
  | closeItemQueue (sec : Bool) (queue : Nat)
  /-- OPEN_ITEM_QUEUE (R447): Control command 0x0F with action 0 reopens an item queue. -/
  | openItemQueue (sec : Bool) (queue : Nat)
  /-- SCRUB_PASS (R529): A scrubber reads and corrects memory, posting event 8 for poison. -/
  | scrubPass (corrected hbm : Nat)
  /-- SOFT_ERROR (R530): A bit error arises in an SRAM array or in HBM4E; it is corrected and counted, or, when uncorrectable, it poisons its granule. -/
  | softError (granule : SoftError)
  /-- POWER_ON_RESET (R534): Power-on or reset puts the device in its pre-firmware state. -/
  | powerOnReset 
  /-- FIRMWARE_VERIFY (R536): The ROM verifies the image, self-tests and repairs, and starts the run or fails. -/
  | firmwareVerify (image : FirmwareImage)
  /-- THROTTLE (R540): Power above PLIM or TJ at 100 °C lowers every core clock. -/
  | throttle (pwr tj : Nat)
  /-- CLOCK_RESTORE (R540): Both conditions clear for 10 ms and the clocks are raised. -/
  | clockRestore (pwr tj : Nat)
  /-- OVERTEMP_RESET (R540): TJ reaches 110 °C and the device resets itself. -/
  | overtempReset (tj : Nat)
  /-- POWER_LOSS (R2): Loss of power ends the run, and every state then has no defined value. -/
  | powerLoss 
  deriving DecidableEq, Repr

end Sys2Proof
end

