-- ==== Sys2Proof/WellFormed.lean ====
section
/-! DEFINITION. Well-formedness of an instruction: what R50 to R53 and R78 to R81 ask of its fields before it may issue,
the limits that each instruction's own entry states, and the legality of its form. An event row is always well-formed. -/
namespace Sys2Proof

/-- A register field below 768 (R50). -/
def Reg.ok (r : Reg) : Bool := decide (r.toNat < 768)

/-- An even register other than v0, naming a pair (R51, R53). -/
def Reg.pairOk (r : Reg) : Bool := r.ok && decide (r.toNat % 2 = 0) && decide (r ≠ 0)

/-- A multiple of 4 other than v0: four registers (R87, R211, R279). -/
def Reg.quadOk (r : Reg) : Bool := r.ok && decide (r.toNat % 4 = 0) && decide (r ≠ 0)

/-- A multiple of 8 other than v0: a sluice command (R226). -/
def Reg.octOk (r : Reg) : Bool := r.ok && decide (r.toNat % 8 = 0) && decide (r ≠ 0)

/-- The first register of a packed span, which may not include v0 (R31). -/
def Reg.spanOk (r : Reg) : Bool := r.ok && decide (r ≠ 0)

/-- Whether a source is a literal. -/
def Src.isLit : Src → Bool
  | .lit _ => true
  | .reg _ => false

/-- A register source is in range; a literal always is. -/
def Src.ok : Src → Bool
  | .reg r => r.ok
  | .lit _ => true

/-- A pair source, or a literal, which stands for 64 bits by sign extension (R79). -/
def Src.pairOk : Src → Bool
  | .reg r => r.pairOk
  | .lit _ => true

/-- The registers of an operand of each access size (R211). -/
def Size.regs (z : Size) (r : Reg) : Bool :=
  match z with
  | .b64 => r.pairOk
  | .b128 => r.quadOk
  | _ => r.ok

/-- Data of an access size: registers as R211 asks, or a literal for .b32 alone (R210). -/
def Src.sized (x : Src) (z : Size) : Bool :=
  match x with
  | .reg r => z.regs r
  | .lit _ => decide (z = .b32)

/-- The sizes of atomics, of LDAQ, STRL and WAITV (R214, R221, R262). -/
def Size.atomic : Size → Bool
  | .b32 | .b64 => true
  | _ => false

/-- The sizes that a store accepts (R211). -/
def Size.storable : Size → Bool
  | .i8 | .i16 => false
  | _ => true

/-- The spaces that LDS and STS accept (R213). -/
def Space.short : Space → Bool
  | .lane | .core | .clus | .est => true
  | _ => false

/-- The float types of CVT (R141). -/
def Elem.isFloat : Elem → Bool
  | .f32 | .bf16 | .f16 | .e4m3 | .e5m2 | .e2m3 | .e3m2 | .e2m1 => true
  | _ => false

/-- The integer types of CVTI and CVTF (R141). -/
def Elem.isInt : Elem → Bool
  | .i32 | .n32 | .i8 | .i4 => true
  | _ => false

/-- The slot-pair index is within the limit of a packed type (R146). -/
def Elem.packs (e : Elem) (k : BitVec 3) : Bool :=
  match e with
  | .f16 | .bf16 => decide (k.toNat = 0)
  | .e4m3 | .e5m2 | .e2m3 | .e3m2 | .i8 => decide (k.toNat ≤ 1)
  | .e2m1 | .i4 => decide (k.toNat ≤ 3)
  | _ => false

/-- The types that TRD and TWR move to and from registers (R185). -/
def Elem.isReg : Elem → Bool
  | .f32 | .bf16 | .f16 => true
  | _ => false

/-- Codes 0 to 15: the types of TRD and TWR in memory (R185). -/
def Elem.isRec : Elem → Bool
  | .a4 | .a8 | .i32 | .n32 | .b32 => false
  | _ => true

/-- Codes 1 to 15: the operand formats of TMMA (R179). -/
def Elem.isDot : Elem → Bool
  | .f32 => false
  | e => e.isRec

/-- The MX formats of R154. -/
def BFmt.isMx : BFmt → Bool
  | .a4 | .a8 => false
  | _ => true

/-- GRP and PART are within the limits of R162. -/
def BFmt.partOk (b : BFmt) (g : Grp) (p : BitVec 2) : Bool :=
  match b, g with
  | .a4, .g32 | .a8, .g32 => decide (p.toNat < 1)
  | .a4, .g64 | .a8, .g64 => decide (p.toNat < 2)
  | .a4, .g128 | .a8, .g128 => decide (p.toNat < 4)
  | _, .g32 => decide (p.toNat < 1)
  | _, _ => false

/-- The sizes that each atomic operation accepts (R221). -/
def AtomOp.sizeOk (op : AtomOp) (z : Size) : Bool :=
  match op with
  | .fadd | .inc | .dec | .fmin | .fmax | .h2add | .bf2add => decide (z = .b32)
  | _ => true

/-- SUB 9 to 11 are illegal in RED (R221). -/
def AtomOp.reducible : AtomOp → Bool
  | .exch | .inc | .dec => false
  | _ => true

/-- The functions of TEW that read two tiles (R188). -/
def TewFn.binary : TewFn → Bool
  | .add | .mul => true
  | _ => false

/-- The special registers of 64 bits (R265). -/
def SReg.wide : SReg → Bool
  | .lclk | .tvec | .tpc | .taddr => true
  | _ => false

/-- The special registers whose Access is W or S (R265). -/
def SReg.writable : SReg → Bool
  | .seed | .hflag | .kvd _ _ | .cctl | .tvec | .tpc => true
  | _ => false

/-- A tile descriptor in MOD lies within 2,048 rows (R176). -/
def dtileOk (td : BitVec 11) : Bool :=
  decide (16 * (td.toNat % 128 + td.toNat / 128 + 1) ≤ 2048)

/-- The limits of R179 common to every opcode. -/
def Header.okCommon (h : Header) : Bool :=
  decide (16 * (h.row16.toNat + h.mq.toNat + 1) ≤ 2048) && !(h.asrc && (h.ta || decide (h.np ≠ 0)))

/-- The limits of TMMA (R179). -/
def Header.okTmma (h : Header) : Bool :=
  h.okCommon && h.afmt.isDot && h.bfmt.isDot && decide (h.sp = 0)

/-- The limits of TMMAS (R179). -/
def Header.okTmmas (h : Header) : Bool :=
  h.okCommon && h.afmt.isDot && h.bfmt.isDot && decide (h.sp = 1 ∨ h.sp = 2)

/-- The limits of TMMAW (R179). -/
def Header.okTmmaw (h : Header) (g : Grp) : Bool :=
  h.okCommon && decide (h.afmt = .bf16) && decide (h.bfmt = .mx4 ∧ g = .g32 ∨ h.bfmt = .a4) && decide (h.sp = 0)

/-- The limits of TMMAZ (R179). -/
def Header.okTmmaz (h : Header) : Bool :=
  h.okCommon && decide (h.afmt ∈ [Elem.e4m3, .e5m2, .i8, .mx8e4, .mx8e5, .mxi8]) &&
    decide (h.bfmt = .a4 ∨ h.bfmt = .a8) && decide (h.sp = 0)

/-- The register operands of a tile multiply: raft registers or a register group in A, a B-store offset or a register
group in B (R177). -/
def Header.opOk (h : Header) (a b : Reg) : Bool :=
  (if h.asrc then a.spanOk else a.pairOk) && (if h.tb then b.pairOk else b.ok)

/-- Which of A, B and C may be a literal in a form: none in s and e, B alone in l, exactly one in w (R77, R78). -/
def Form.litsOk (fm : Form) (a b c : Bool) : Bool :=
  match fm with
  | .s | .e => !a && !b && !c
  | .l => !a && b && !c
  | .w => (a && !b && !c) || (!a && b && !c) || (!a && !b && c)

/-- The form is one of the opcode's, SETC is not 7, and UNI = 1 only where it is allowed (R80, R81). -/
def Fr.ok (f : Fr) (forms : List Form) (uni : Bool) : Bool :=
  decide (f.form ∈ forms) && decide (f.setc ≠ 7) && (uni || !f.uni)

/-- A hold bit stands only on a field that the instruction reads (R80); HOLDC exists in forms e and w alone (R76). -/
def Fr.holdsOk (f : Fr) (a b c : Bool) : Bool :=
  (!f.holdA || a) && (!f.holdB || b) && (!f.holdC || (c && decide (f.form = .e ∨ f.form = .w)))


/-- The instruction breaks none of the checks of R81 that end in the illegal-instruction trap (0x01). (DEDUCED, log 10.) Which
sources a form-w literal may replace is log 92, and for TEW log 101 (DEDUCED). -/
def Instr.wf : Instr → Bool
  | .nop f v =>
      f.ok [.s, .e, .w] true &&
      decide (f.form ≠ .w → v = 0) &&
      f.form.litsOk false (f.form == .w) false &&
      f.holdsOk false false false
  | .bra f off _ =>
      f.ok [.l, .w] true &&
      f.form.litsOk false true false &&
      f.holdsOk false true false &&
      decide (off.toNat % 4 = 0)
  | .braDec f c off _ =>
      f.ok [.w] true &&
      c.ok &&
      f.form.litsOk false true false &&
      f.holdsOk false true true &&
      decide (off.toNat % 4 = 0)
  | .brx f a j =>
      f.ok [.s, .e] true &&
      a.pairOk &&
      f.form.litsOk false false false &&
      f.holdsOk true false false &&
      decide (f.form = .s → j = 0)
  | .call f off =>
      f.ok [.l] true &&
      f.form.litsOk false true false &&
      f.holdsOk false true false &&
      decide (off.toNat % 4 = 0)
  | .callx f a =>
      f.ok [.s] true &&
      a.pairOk &&
      f.form.litsOk false false false &&
      f.holdsOk true false false
  | .ret f =>
      f.ok [.s] true &&
      f.form.litsOk false false false &&
      f.holdsOk false false false
  | .confl f _ =>
      f.ok [.e] true &&
      f.form.litsOk false false false &&
      f.holdsOk false false false
  | .exit f =>
      f.ok [.s] true &&
      f.form.litsOk false false false &&
      f.holdsOk false false false
  | .trap f _ cause =>
      f.ok [.l] false &&
      f.form.litsOk false true false &&
      f.holdsOk false true false &&
      decide (cause = 0x0D ∨ 0x80 ≤ cause.toNat)
  | .svc f _ =>
      f.ok [.l] false &&
      f.form.litsOk false true false &&
      f.holdsOk false true false
  | .bkpt f _ =>
      f.ok [.l] false &&
      f.form.litsOk false true false &&
      f.holdsOk false true false
  | .rth f =>
      f.ok [.s] false &&
      f.form.litsOk false false false &&
      f.holdsOk false false false
  | .yieldw f =>
      f.ok [.s] true &&
      f.form.litsOk false false false &&
      f.holdsOk false false false
  | .waitv f d a off c _ sz _ _ =>
      f.ok [.e, .w] true &&
      d.ok &&
      a.pairOk &&
      c.ok &&
      ((f.form == .w && !c.isLit) || off == 0) &&
      f.form.litsOk false (f.form == .w && !c.isLit) c.isLit &&
      f.holdsOk true (f.form == .w && !c.isLit) true &&
      decide (sz.atomic ∧ sz.regs d ∧ c.sized sz)
  | .movs f d sr =>
      f.ok [.e] true &&
      d.ok &&
      f.form.litsOk false false false &&
      f.holdsOk false false false &&
      decide ((sr.wide → d.pairOk))
  | .sets f b sr =>
      f.ok [.e, .w] true &&
      b.ok &&
      f.form.litsOk false b.isLit false &&
      f.holdsOk false true false &&
      decide (sr.writable ∧ (sr.wide → b.pairOk))
  | .mov f d b =>
      f.ok [.s, .l] true &&
      d.ok &&
      b.ok &&
      f.form.litsOk false b.isLit false &&
      f.holdsOk false true false
  | .iadd f d a b c sat =>
      f.ok [.s, .e, .l, .w] true &&
      d.ok &&
      a.ok &&
      b.ok &&
      c.all Src.ok &&
      f.form.litsOk a.isLit b.isLit (c.any Src.isLit) &&
      f.holdsOk true true c.isSome &&
      decide ((f.form = .s → sat = .wrap ∧ c = none) ∧ (f.form = .l → c = none))
  | .isub f d a b c sat =>
      f.ok [.s, .e, .l, .w] true &&
      d.ok &&
      a.ok &&
      b.ok &&
      c.all Src.ok &&
      f.form.litsOk a.isLit b.isLit (c.any Src.isLit) &&
      f.holdsOk true true c.isSome &&
      decide ((f.form = .s → sat = .wrap ∧ c = none) ∧ (f.form = .l → c = none))
  | .imul f d a b =>
      f.ok [.s, .l] true &&
      d.ok &&
      a.ok &&
      b.ok &&
      f.form.litsOk false b.isLit false &&
      f.holdsOk true true false
  | .imulh f d a b u =>
      f.ok [.s, .l] true &&
      d.ok &&
      a.ok &&
      b.ok &&
      f.form.litsOk false b.isLit false &&
      f.holdsOk true true false &&
      decide ((f.form = .s → u = false))
  | .imad f d a b c wide u =>
      f.ok [.e, .w] true &&
      d.ok &&
      a.ok &&
      b.ok &&
      c.ok &&
      f.form.litsOk a.isLit b.isLit c.isLit &&
      f.holdsOk true true true &&
      decide ((u → wide) ∧ (wide → d.pairOk ∧ c.pairOk))
  | .imin f d a b u =>
      f.ok [.s, .l] true &&
      d.ok &&
      a.ok &&
      b.ok &&
      f.form.litsOk false b.isLit false &&
      f.holdsOk true true false &&
      decide ((f.form = .s → u = false))
  | .imax f d a b u =>
      f.ok [.s, .l] true &&
      d.ok &&
      a.ok &&
      b.ok &&
      f.form.litsOk false b.isLit false &&
      f.holdsOk true true false &&
      decide ((f.form = .s → u = false))
  | .iabs f d a =>
      f.ok [.s] true &&
      d.ok &&
      a.ok &&
      f.form.litsOk false false false &&
      f.holdsOk true false false
  | .iadd64 f d a b neg bext =>
      f.ok [.s, .e] true &&
      d.pairOk &&
      a.pairOk &&
      b.ok &&
      f.form.litsOk false false false &&
      f.holdsOk true true false &&
      decide ((bext = .pair → b.pairOk) ∧ (f.form = .s → neg = false ∧ bext = .pair))
  | .lea f d a b c _ _ =>
      f.ok [.e, .w] true &&
      d.pairOk &&
      a.pairOk &&
      b.ok &&
      c.all Src.ok &&
      f.form.litsOk a.isLit b.isLit (c.any Src.isLit) &&
      f.holdsOk true true c.isSome
  | .isad f d a b c _ =>
      f.ok [.e, .w] true &&
      d.ok &&
      a.ok &&
      b.ok &&
      c.ok &&
      f.form.litsOk a.isLit b.isLit c.isLit &&
      f.holdsOk true true true
  | .idot4 f d a b c _ _ _ =>
      f.ok [.e, .w] true &&
      d.ok &&
      a.ok &&
      b.ok &&
      c.ok &&
      f.form.litsOk a.isLit b.isLit c.isLit &&
      f.holdsOk true true true
  | .sel f d a b c _ =>
      f.ok [.e, .w] true &&
      d.ok &&
      a.ok &&
      b.ok &&
      c.ok &&
      f.form.litsOk a.isLit b.isLit c.isLit &&
      f.holdsOk true true true
  | .prmt f d a b c _ =>
      f.ok [.e, .w] true &&
      d.ok &&
      a.ok &&
      b.ok &&
      c.ok &&
      f.form.litsOk a.isLit b.isLit c.isLit &&
      f.holdsOk true true true
  | .moviRead f d a base =>
      f.ok [.e] true &&
      d.ok &&
      a.ok &&
      f.form.litsOk false false false &&
      f.holdsOk true false false &&
      decide (base.toNat < 768)
  | .moviWrite f a b base =>
      f.ok [.e] true &&
      a.ok &&
      b.ok &&
      f.form.litsOk false false false &&
      f.holdsOk true true false &&
      decide (base.toNat < 768)
  | .and f d a b =>
      f.ok [.s, .l] true &&
      d.ok &&
      a.ok &&
      b.ok &&
      f.form.litsOk false b.isLit false &&
      f.holdsOk true true false
  | .or f d a b =>
      f.ok [.s, .l] true &&
      d.ok &&
      a.ok &&
      b.ok &&
      f.form.litsOk false b.isLit false &&
      f.holdsOk true true false
  | .xor f d a b =>
      f.ok [.s, .l] true &&
      d.ok &&
      a.ok &&
      b.ok &&
      f.form.litsOk false b.isLit false &&
      f.holdsOk true true false
  | .andn f d a b =>
      f.ok [.s, .l] true &&
      d.ok &&
      a.ok &&
      b.ok &&
      f.form.litsOk false b.isLit false &&
      f.holdsOk true true false
  | .shl f d a b =>
      f.ok [.s, .l] true &&
      d.ok &&
      a.ok &&
      b.ok &&
      f.form.litsOk false b.isLit false &&
      f.holdsOk true true false
  | .shr f d a b =>
      f.ok [.s, .l] true &&
      d.ok &&
      a.ok &&
      b.ok &&
      f.form.litsOk false b.isLit false &&
      f.holdsOk true true false
  | .sar f d a b =>
      f.ok [.s, .l] true &&
      d.ok &&
      a.ok &&
      b.ok &&
      f.form.litsOk false b.isLit false &&
      f.holdsOk true true false
  | .rot f d a b =>
      f.ok [.s, .l] true &&
      d.ok &&
      a.ok &&
      b.ok &&
      f.form.litsOk false b.isLit false &&
      f.holdsOk true true false
  | .popc f d a =>
      f.ok [.s] true &&
      d.ok &&
      a.ok &&
      f.form.litsOk false false false &&
      f.holdsOk true false false
  | .clz f d a =>
      f.ok [.s] true &&
      d.ok &&
      a.ok &&
      f.form.litsOk false false false &&
      f.holdsOk true false false
  | .brev f d a =>
      f.ok [.s] true &&
      d.ok &&
      a.ok &&
      f.form.litsOk false false false &&
      f.holdsOk true false false
  | .bfx f d a b _ =>
      f.ok [.e, .w] true &&
      d.ok &&
      a.ok &&
      b.ok &&
      f.form.litsOk a.isLit b.isLit false &&
      f.holdsOk true true false
  | .bfi f d a b c =>
      f.ok [.e, .w] true &&
      d.ok &&
      a.ok &&
      b.ok &&
      c.ok &&
      f.form.litsOk a.isLit b.isLit c.isLit &&
      f.holdsOk true true true
  | .lop3 f d a b c _ =>
      f.ok [.e, .w] true &&
      d.ok &&
      a.ok &&
      b.ok &&
      c.ok &&
      f.form.litsOk a.isLit b.isLit c.isLit &&
      f.holdsOk true true true
  | .icmp f d c2 a b _ _ =>
      f.ok [.e, .w] true &&
      d.ok &&
      c2.ok &&
      a.ok &&
      b.ok &&
      f.form.litsOk a.isLit b.isLit false &&
      f.holdsOk true true false &&
      decide (d = c2 → d = 0)
  | .fcmp f d c2 a b cond u _ =>
      f.ok [.e, .w] true &&
      d.ok &&
      c2.ok &&
      a.ok &&
      b.ok &&
      f.form.litsOk a.isLit b.isLit false &&
      f.holdsOk true true false &&
      decide (d = c2 → d = 0) &&
      decide ((u → cond ≠ .num ∧ cond ≠ .nan))
  | .fclass f d a _ _ =>
      f.ok [.e] true &&
      d.ok &&
      a.ok &&
      f.form.litsOk false false false &&
      f.holdsOk true false false
  | .vote f _ d a =>
      f.ok [.e] false &&
      d.ok &&
      a.ok &&
      f.form.litsOk false false false &&
      f.holdsOk true false false
  | .matchw f wide d c2 a =>
      f.ok [.e] false &&
      d.ok &&
      c2.ok &&
      a.ok &&
      f.form.litsOk false false false &&
      f.holdsOk true false false &&
      decide (d = c2 → d = 0) &&
      decide ((wide → a.pairOk))
  | .fadd f d a b rnd na nb aa ab sat =>
      f.ok [.s, .e, .l, .w] true &&
      d.ok &&
      a.ok &&
      b.ok &&
      f.form.litsOk a.isLit b.isLit false &&
      f.holdsOk true true false &&
      decide (rnd ≠ .sr ∧ (f.form = .s → rnd = .rne ∧ na = false ∧ nb = false ∧ aa = false ∧ ab = false ∧ sat = false))
  | .fsub f d a b rnd na nb aa ab sat =>
      f.ok [.s, .e, .l, .w] true &&
      d.ok &&
      a.ok &&
      b.ok &&
      f.form.litsOk a.isLit b.isLit false &&
      f.holdsOk true true false &&
      decide (rnd ≠ .sr ∧ (f.form = .s → rnd = .rne ∧ na = false ∧ nb = false ∧ aa = false ∧ ab = false ∧ sat = false))
  | .fmul f d a b rnd na nb aa ab sat =>
      f.ok [.s, .e, .l, .w] true &&
      d.ok &&
      a.ok &&
      b.ok &&
      f.form.litsOk a.isLit b.isLit false &&
      f.holdsOk true true false &&
      decide (rnd ≠ .sr ∧ (f.form = .s → rnd = .rne ∧ na = false ∧ nb = false ∧ aa = false ∧ ab = false ∧ sat = false))
  | .ffma f d a b c rnd _ _ _ _ _ _ _ =>
      f.ok [.e, .w] true &&
      d.ok &&
      a.ok &&
      b.ok &&
      c.ok &&
      f.form.litsOk a.isLit b.isLit c.isLit &&
      f.holdsOk true true true &&
      decide (rnd ≠ .sr)
  | .fmin f d a b =>
      f.ok [.s, .l] true &&
      d.ok &&
      a.ok &&
      b.ok &&
      f.form.litsOk false b.isLit false &&
      f.holdsOk true true false
  | .fmax f d a b =>
      f.ok [.s, .l] true &&
      d.ok &&
      a.ok &&
      b.ok &&
      f.form.litsOk false b.isLit false &&
      f.holdsOk true true false
  | .frcp f d a =>
      f.ok [.s] true &&
      d.ok &&
      a.ok &&
      f.form.litsOk false false false &&
      f.holdsOk true false false
  | .frsq f d a =>
      f.ok [.s] true &&
      d.ok &&
      a.ok &&
      f.form.litsOk false false false &&
      f.holdsOk true false false
  | .fsqrt f d a rnd =>
      f.ok [.s, .e] true &&
      d.ok &&
      a.ok &&
      f.form.litsOk false false false &&
      f.holdsOk true false false &&
      decide (rnd ≠ .sr ∧ (f.form = .s → rnd = .rne))
  | .fexp2 f d a =>
      f.ok [.s] true &&
      d.ok &&
      a.ok &&
      f.form.litsOk false false false &&
      f.holdsOk true false false
  | .flog2 f d a =>
      f.ok [.s] true &&
      d.ok &&
      a.ok &&
      f.form.litsOk false false false &&
      f.holdsOk true false false
  | .fsincos f d c2 a =>
      f.ok [.e] true &&
      d.ok &&
      c2.ok &&
      a.ok &&
      f.form.litsOk false false false &&
      f.holdsOk true false false &&
      decide (d = c2 → d = 0)
  | .ftanh f d a =>
      f.ok [.s] true &&
      d.ok &&
      a.ok &&
      f.form.litsOk false false false &&
      f.holdsOk true false false
  | .fdiv f d a b rnd =>
      f.ok [.s, .e] true &&
      d.ok &&
      a.ok &&
      b.ok &&
      f.form.litsOk false false false &&
      f.holdsOk true true false &&
      decide (rnd ≠ .sr ∧ (f.form = .s → rnd = .rne))
  | .h2add f d a b rnd bf na nb =>
      f.ok [.s, .e, .l] true &&
      d.ok &&
      a.ok &&
      b.ok &&
      f.form.litsOk false b.isLit false &&
      f.holdsOk true true false &&
      decide (rnd ≠ .sr ∧ (f.form = .s → rnd = .rne ∧ bf = false ∧ na = false ∧ nb = false))
  | .h2mul f d a b rnd bf na nb =>
      f.ok [.s, .e, .l] true &&
      d.ok &&
      a.ok &&
      b.ok &&
      f.form.litsOk false b.isLit false &&
      f.holdsOk true true false &&
      decide (rnd ≠ .sr ∧ (f.form = .s → rnd = .rne ∧ bf = false ∧ na = false ∧ nb = false))
  | .h2fma f d a b c rnd _ _ _ _ =>
      f.ok [.e, .w] true &&
      d.ok &&
      a.ok &&
      b.ok &&
      c.ok &&
      f.form.litsOk a.isLit b.isLit c.isLit &&
      f.holdsOk true true true &&
      decide (rnd ≠ .sr)
  | .h2min f d a b bf =>
      f.ok [.s, .l] true &&
      d.ok &&
      a.ok &&
      b.ok &&
      f.form.litsOk false b.isLit false &&
      f.holdsOk true true false &&
      decide ((f.form = .s → bf = false))
  | .h2max f d a b bf =>
      f.ok [.s, .l] true &&
      d.ok &&
      a.ok &&
      b.ok &&
      f.form.litsOk false b.isLit false &&
      f.holdsOk true true false &&
      decide ((f.form = .s → bf = false))
  | .cvt f d a sty dt rnd =>
      f.ok [.e] true &&
      d.ok &&
      a.ok &&
      f.form.litsOk false false false &&
      f.holdsOk true false false &&
      decide (rnd ≠ .sr ∧ sty.isFloat ∧ dt.isFloat)
  | .cvti f d a sty dt rnd =>
      f.ok [.e] true &&
      d.ok &&
      a.ok &&
      f.form.litsOk false false false &&
      f.holdsOk true false false &&
      decide (rnd ≠ .sr ∧ sty.isFloat ∧ dt.isInt)
  | .cvtf f d a sty dt rnd =>
      f.ok [.e] true &&
      d.ok &&
      a.ok &&
      f.form.litsOk false false false &&
      f.holdsOk true false false &&
      decide (rnd ≠ .sr ∧ sty.isInt ∧ dt.isFloat)
  | .pack2 f d a b c dt rnd k =>
      f.ok [.e] true &&
      d.ok &&
      a.ok &&
      b.ok &&
      c.all Reg.ok &&
      f.form.litsOk false false false &&
      f.holdsOk true true c.isSome &&
      decide (rnd ≠ .sr ∧ dt.packs k)
  | .unpk2 f d c2 a sty k =>
      f.ok [.e] true &&
      d.ok &&
      c2.ok &&
      a.ok &&
      f.form.litsOk false false false &&
      f.holdsOk true false false &&
      decide (d = c2 → d = 0) &&
      decide (sty.packs k)
  | .srnd f d a b dt _ =>
      f.ok [.e, .w] true &&
      d.ok &&
      a.ok &&
      b.ok &&
      f.form.litsOk a.isLit b.isLit false &&
      f.holdsOk true true false &&
      decide (dt.packs 0)
  | .bmax f _ d a _ =>
      f.ok [.e] false &&
      d.ok &&
      a.ok &&
      f.form.litsOk false false false &&
      f.holdsOk true false false
  | .bmin f _ d a _ =>
      f.ok [.e] false &&
      d.ok &&
      a.ok &&
      f.form.litsOk false false false &&
      f.holdsOk true false false
  | .bscale f _ d a bf =>
      f.ok [.e] false &&
      d.ok &&
      a.ok &&
      f.form.litsOk false false false &&
      f.holdsOk true false false &&
      decide (bf.isMx)
  | .bzp f _ d a b =>
      f.ok [.e] false &&
      d.ok &&
      a.ok &&
      b.ok &&
      f.form.litsOk false false false &&
      f.holdsOk true true false
  | .bquant f mode d c2 a b bf rnd strm =>
      f.ok [.e, .w] false &&
      d.ok &&
      c2.ok &&
      a.ok &&
      b.all Src.ok &&
      (b.isSome == decide (mode = .given)) &&
      f.form.litsOk a.isLit (b.any Src.isLit) false &&
      f.holdsOk true b.isSome false &&
      decide (d = c2 → d = 0) &&
      decide ((rnd = .sr ∨ strm = 0) ∧ (bf.isMx ∨ mode = .given))
  | .bdeq f d a b _ _ rnd =>
      f.ok [.e, .w] true &&
      d.ok &&
      a.ok &&
      b.ok &&
      f.form.litsOk a.isLit b.isLit false &&
      f.holdsOk true true false &&
      decide (rnd ≠ .sr)
  | .bpack f d a b bf grp part =>
      f.ok [.e] false &&
      d.spanOk &&
      a.ok &&
      b.ok &&
      f.form.litsOk false false false &&
      f.holdsOk true true false &&
      decide (bf.partOk grp part)
  | .bunpk f d c2 a bf grp part =>
      f.ok [.e] false &&
      d.ok &&
      c2.ok &&
      a.spanOk &&
      f.form.litsOk false false false &&
      f.holdsOk true false false &&
      decide (d = c2 → d = 0) &&
      decide (bf.partOk grp part)
  | .bhealth f mode d a b bf rnd =>
      f.ok [.e] false &&
      d.ok &&
      a.ok &&
      b.all Reg.ok &&
      (b.isSome == decide (mode = .given)) &&
      f.form.litsOk false false false &&
      f.holdsOk true b.isSome false &&
      decide (rnd ≠ .sr ∧ (bf.isMx ∨ mode = .given))
  | .brescale f d a b c _ rnd strm =>
      f.ok [.e, .w] true &&
      d.ok &&
      a.ok &&
      b.ok &&
      c.ok &&
      f.form.litsOk a.isLit b.isLit c.isLit &&
      f.holdsOk true true true &&
      decide ((rnd = .sr ∨ strm = 0))
  | .shfl f _ d c2 a b seg =>
      f.ok [.e, .w] false &&
      d.ok &&
      c2.ok &&
      a.ok &&
      b.ok &&
      f.form.litsOk a.isLit b.isLit false &&
      f.holdsOk true true false &&
      decide (d = c2 → d = 0) &&
      decide (seg.toNat ≤ 5)
  | .redw f _ d a =>
      f.ok [.e] false &&
      d.ok &&
      a.ok &&
      f.form.litsOk false false false &&
      f.holdsOk true false false
  | .scanw f _ d a _ =>
      f.ok [.e] false &&
      d.ok &&
      a.ok &&
      f.form.litsOk false false false &&
      f.holdsOk true false false
  | .bcastw f d a b low =>
      f.ok [.e, .w] false &&
      d.ok &&
      a.ok &&
      b.all Src.ok &&
      (b.isSome == decide (low = false)) &&
      f.form.litsOk false (b.any Src.isLit) false &&
      f.holdsOk true b.isSome false
  | .ld f d a off _ sz _ =>
      f.ok [.e, .w] true &&
      d.ok &&
      a.pairOk &&
      ((f.form == .w) || off == 0) &&
      f.form.litsOk false (f.form == .w) false &&
      f.holdsOk true (f.form == .w) false &&
      decide (sz.regs d)
  | .st f a off c _ sz _ =>
      f.ok [.e, .w] true &&
      a.pairOk &&
      c.ok &&
      ((f.form == .w && !c.isLit) || off == 0) &&
      f.form.litsOk false (f.form == .w && !c.isLit) c.isLit &&
      f.holdsOk true (f.form == .w && !c.isLit) true &&
      decide (sz.storable ∧ c.sized sz)
  | .lds f d a off spc sz =>
      f.ok [.e, .w] true &&
      d.ok &&
      a.ok &&
      ((f.form == .w) || off == 0) &&
      f.form.litsOk false (f.form == .w) false &&
      f.holdsOk true (f.form == .w) false &&
      decide (sz.regs d ∧ spc.short)
  | .sts f a off c spc sz =>
      f.ok [.e, .w] true &&
      a.ok &&
      c.ok &&
      ((f.form == .w) || off == 0) &&
      f.form.litsOk false (f.form == .w) false &&
      f.holdsOk true (f.form == .w) true &&
      decide (sz.storable ∧ sz.regs c ∧ spc.short)
  | .ldbs f _ d a off bf grp part _ =>
      f.ok [.e, .w] true &&
      d.spanOk &&
      a.pairOk &&
      ((f.form == .w) || off == 0) &&
      f.form.litsOk false (f.form == .w) false &&
      f.holdsOk true (f.form == .w) false &&
      decide (bf.partOk grp part)
  | .stbs f _ a off c bf grp part _ =>
      f.ok [.e, .w] true &&
      a.pairOk &&
      c.spanOk &&
      ((f.form == .w) || off == 0) &&
      f.form.litsOk false (f.form == .w) false &&
      f.holdsOk true (f.form == .w) true &&
      decide (bf.partOk grp part)
  | .ldsc f d c2 a b =>
      f.ok [.e] true &&
      d.ok &&
      c2.ok &&
      a.pairOk &&
      b.ok &&
      f.form.litsOk false false false &&
      f.holdsOk true true false &&
      decide (d = c2 → d = 0)
  | .stsc f a b c desc =>
      f.ok [.e] true &&
      a.pairOk &&
      b.ok &&
      c.ok &&
      f.form.litsOk false false false &&
      f.holdsOk true true true &&
      decide ((desc → c.pairOk))
  | .ldaq f d a off _ sz _ =>
      f.ok [.e, .w] true &&
      d.ok &&
      a.pairOk &&
      ((f.form == .w) || off == 0) &&
      f.form.litsOk false (f.form == .w) false &&
      f.holdsOk true (f.form == .w) false &&
      decide (sz.atomic ∧ sz.regs d)
  | .strl f a off c _ sz _ =>
      f.ok [.e, .w] true &&
      a.pairOk &&
      c.ok &&
      ((f.form == .w) || off == 0) &&
      f.form.litsOk false (f.form == .w) false &&
      f.holdsOk true (f.form == .w) true &&
      decide (sz.atomic ∧ sz.regs c)
  | .pref f _ a off _ =>
      f.ok [.e, .w] true &&
      a.pairOk &&
      ((f.form == .w) || off == 0) &&
      f.form.litsOk false (f.form == .w) false &&
      f.holdsOk true (f.form == .w) false
  | .cflushWb f a =>
      f.ok [.e] true &&
      a.pairOk &&
      f.form.litsOk false false false &&
      f.holdsOk true false false
  | .cflushWbinv f a =>
      f.ok [.e] true &&
      a.pairOk &&
      f.form.litsOk false false false &&
      f.holdsOk true false false
  | .cflushWball f =>
      f.ok [.e] true &&
      f.form.litsOk false false false &&
      f.holdsOk false false false
  | .cflushWbinvall f =>
      f.ok [.e] true &&
      f.form.litsOk false false false &&
      f.holdsOk false false false
  | .wayset f d a =>
      f.ok [.e] true &&
      d.ok &&
      a.ok &&
      f.form.litsOk false false false &&
      f.holdsOk true false false
  | .atom f op d a off c _ sz _ _ =>
      f.ok [.e, .w] true &&
      d.ok &&
      a.pairOk &&
      c.ok &&
      ((f.form == .w && !c.isLit) || off == 0) &&
      f.form.litsOk false (f.form == .w && !c.isLit) c.isLit &&
      f.holdsOk true (f.form == .w && !c.isLit) true &&
      decide (sz.atomic ∧ op.sizeOk sz ∧ sz.regs d ∧ c.sized sz)
  | .atomc f d a off c _ sz _ _ =>
      f.ok [.e, .w] true &&
      d.ok &&
      a.pairOk &&
      c.ok &&
      ((f.form == .w) || off == 0) &&
      f.form.litsOk false (f.form == .w) false &&
      f.holdsOk true (f.form == .w) true &&
      decide (sz.atomic ∧ sz.regs d ∧ (if sz = .b64 then c.quadOk else c.pairOk))
  | .red f op a off c _ sz _ _ =>
      f.ok [.e, .w] true &&
      a.pairOk &&
      c.ok &&
      ((f.form == .w && !c.isLit) || off == 0) &&
      f.form.litsOk false (f.form == .w && !c.isLit) c.isLit &&
      f.holdsOk true (f.form == .w && !c.isLit) true &&
      decide (sz.atomic ∧ op.sizeOk sz ∧ op.reducible ∧ c.sized sz)
  | .fenceFull f _ =>
      f.ok [.e] true &&
      f.form.litsOk false false false &&
      f.holdsOk false false false
  | .fenceAcq f _ =>
      f.ok [.e] true &&
      f.form.litsOk false false false &&
      f.holdsOk false false false
  | .fenceRel f _ =>
      f.ok [.e] true &&
      f.form.litsOk false false false &&
      f.holdsOk false false false
  | .chunk f d a =>
      f.ok [.e] true &&
      d.pairOk &&
      a.pairOk &&
      f.form.litsOk false false false &&
      f.holdsOk true false false
  | .slxCopy f d a b c =>
      f.ok [.e, .w] true &&
      d.ok &&
      a.all Src.ok &&
      b.all Src.ok &&
      c.octOk &&
      f.form.litsOk (a.any Src.isLit) (b.any Src.isLit) false &&
      f.holdsOk a.isSome b.isSome true
  | .slxCvt f d a b c =>
      f.ok [.e, .w] true &&
      d.ok &&
      a.all Src.ok &&
      b.all Src.ok &&
      c.octOk &&
      f.form.litsOk (a.any Src.isLit) (b.any Src.isLit) false &&
      f.holdsOk a.isSome b.isSome true
  | .slxRescale f d a b c =>
      f.ok [.e, .w] true &&
      d.ok &&
      a.all Src.ok &&
      b.all Src.ok &&
      c.octOk &&
      f.form.litsOk (a.any Src.isLit) (b.any Src.isLit) false &&
      f.holdsOk a.isSome b.isSome true
  | .slxTr f d a b c =>
      f.ok [.e, .w] true &&
      d.ok &&
      a.all Src.ok &&
      b.all Src.ok &&
      c.octOk &&
      f.form.litsOk (a.any Src.isLit) (b.any Src.isLit) false &&
      f.holdsOk a.isSome b.isSome true
  | .slxFill f d a b c =>
      f.ok [.e, .w] true &&
      d.ok &&
      a.all Src.ok &&
      b.all Src.ok &&
      c.octOk &&
      f.form.litsOk (a.any Src.isLit) (b.any Src.isLit) false &&
      f.holdsOk a.isSome b.isSome true
  | .slxKvg f d a b c =>
      f.ok [.e, .w] true &&
      d.ok &&
      a.all Src.ok &&
      b.all Src.ok &&
      c.octOk &&
      f.form.litsOk (a.any Src.isLit) (b.any Src.isLit) false &&
      f.holdsOk a.isSome b.isSome true
  | .slxTagck f d a b c =>
      f.ok [.e, .w] true &&
      d.ok &&
      a.all Src.ok &&
      b.all Src.ok &&
      c.octOk &&
      f.form.litsOk (a.any Src.isLit) (b.any Src.isLit) false &&
      f.holdsOk a.isSome b.isSome true
  | .bseal f d =>
      f.ok [.s] true &&
      d.ok &&
      f.form.litsOk false false false &&
      f.holdsOk false false false
  | .bwait f d a =>
      f.ok [.e] true &&
      d.ok &&
      a.ok &&
      f.form.litsOk false false false &&
      f.holdsOk true false false
  | .flput f d a _ =>
      f.ok [.e] true &&
      d.ok &&
      a.ok &&
      f.form.litsOk false false false &&
      f.holdsOk true false false
  | .flget f d a _ =>
      f.ok [.e] true &&
      d.ok &&
      a.ok &&
      f.form.litsOk false false false &&
      f.holdsOk true false false
  | .flwaitData f d a _ =>
      f.ok [.e] true &&
      d.ok &&
      a.ok &&
      f.form.litsOk false false false &&
      f.holdsOk true false false
  | .flwaitRoom f d a _ =>
      f.ok [.e] true &&
      d.ok &&
      a.ok &&
      f.form.litsOk false false false &&
      f.holdsOk true false false
  | .weirsetSet f a _ =>
      f.ok [.e] true &&
      a.ok &&
      f.form.litsOk false false false &&
      f.holdsOk true false false
  | .weirsetClr f _ =>
      f.ok [.e] true &&
      f.form.litsOk false false false &&
      f.holdsOk false false false
  | .engsyncCmp f =>
      f.ok [.e] true &&
      f.form.litsOk false false false &&
      f.holdsOk false false false
  | .engsyncPub f _ =>
      f.ok [.e] true &&
      f.form.litsOk false false false &&
      f.holdsOk false false false
  | .convene f d _ _ =>
      f.ok [.e] false &&
      d.ok &&
      f.form.litsOk false false false &&
      f.holdsOk false false false
  | .disband f =>
      f.ok [.s] false &&
      f.form.litsOk false false false &&
      f.holdsOk false false false
  | .tmma f a b hdr =>
      f.ok [.w] false &&
      a.ok &&
      b.ok &&
      f.form.litsOk false false true &&
      f.holdsOk true true true &&
      hdr.opOk a b &&
      decide (hdr.okTmma)
  | .tmmaw f a b hdr grp =>
      f.ok [.w] false &&
      a.ok &&
      b.ok &&
      f.form.litsOk false false true &&
      f.holdsOk true true true &&
      hdr.opOk a b &&
      decide (hdr.okTmmaw grp)
  | .tmmaz f a b hdr _ =>
      f.ok [.w] false &&
      a.ok &&
      b.ok &&
      f.form.litsOk false false true &&
      f.holdsOk true true true &&
      hdr.opOk a b &&
      decide (hdr.okTmmaz)
  | .tmmas f a b hdr =>
      f.ok [.w] false &&
      a.ok &&
      b.ok &&
      f.form.litsOk false false true &&
      f.holdsOk true true true &&
      hdr.opOk a b &&
      decide (hdr.okTmmas)
  | .taccZero f a =>
      f.ok [.e, .w] false &&
      a.ok &&
      f.form.litsOk a.isLit false false &&
      f.holdsOk true false false
  | .taccLive f a =>
      f.ok [.e, .w] false &&
      a.ok &&
      f.form.litsOk a.isLit false false &&
      f.holdsOk true false false
  | .taccDead f a =>
      f.ok [.e, .w] false &&
      a.ok &&
      f.form.litsOk a.isLit false false &&
      f.holdsOk true false false
  | .taccMul f a c =>
      f.ok [.e, .w] false &&
      a.ok &&
      c.ok &&
      f.form.litsOk a.isLit false c.isLit &&
      f.holdsOk true false true
  | .trdReg f d a dt _ rnd =>
      f.ok [.e, .w] false &&
      d.spanOk &&
      a.ok &&
      f.form.litsOk a.isLit false false &&
      f.holdsOk true false false &&
      decide (rnd ≠ .sr ∧ dt.isReg)
  | .trdRec f a b c dt _ _ =>
      f.ok [.e, .w] false &&
      a.ok &&
      b.pairOk &&
      c.ok &&
      f.form.litsOk a.isLit false c.isLit &&
      f.holdsOk true true true &&
      decide (dt.isRec)
  | .twrReg f d a dt _ =>
      f.ok [.e, .w] false &&
      d.spanOk &&
      a.ok &&
      f.form.litsOk a.isLit false false &&
      f.holdsOk true false false &&
      decide (dt.isReg)
  | .twrRec f a b dt =>
      f.ok [.e, .w] false &&
      a.ok &&
      b.pairOk &&
      f.form.litsOk a.isLit false false &&
      f.holdsOk true true false &&
      decide (dt.isRec)
  | .tew f fn a b c dtile _ s2 =>
      f.ok [.e, .w] false &&
      a.ok &&
      b.all Src.ok &&
      (b.isSome == decide (fn.binary)) &&
      c.all Src.ok &&
      (c.isSome == decide (fn = .scl)) &&
      f.form.litsOk a.isLit (b.any Src.isLit) (c.any Src.isLit) &&
      f.holdsOk true b.isSome c.isSome &&
      decide (dtileOk dtile ∧ (s2 → fn.binary))
  | .tred f _ a dtile _ =>
      f.ok [.e, .w] false &&
      a.ok &&
      f.form.litsOk a.isLit false false &&
      f.holdsOk true false false &&
      decide (dtileOk dtile)
  | .tsmx f a c dtile _ =>
      f.ok [.e, .w] false &&
      a.ok &&
      c.all Src.ok &&
      decide (c ≠ some (.reg 0)) &&
      f.form.litsOk a.isLit false (c.any Src.isLit) &&
      f.holdsOk true false c.isSome &&
      decide (dtileOk dtile)
  | .tnorm f a c dtile _ =>
      f.ok [.e, .w] false &&
      a.ok &&
      c.ok &&
      f.form.litsOk a.isLit false c.isLit &&
      f.holdsOk true false true &&
      decide (dtileOk dtile)
  | .tcvt f _ a bf rnd strm =>
      f.ok [.e, .w] false &&
      a.ok &&
      f.form.litsOk a.isLit false false &&
      f.holdsOk true false false &&
      decide ((rnd = .sr ∨ strm = 0) ∧ bf.isMx)
  | .bsload f a b _ =>
      f.ok [.e] true &&
      a.pairOk &&
      b.ok &&
      f.form.litsOk false false false &&
      f.holdsOk true true false
  | .rcfence f =>
      f.ok [.s] true &&
      f.form.litsOk false false false &&
      f.holdsOk false false false
  | .kvxlt f d c2 a b _ _ =>
      f.ok [.e, .w] true &&
      d.pairOk &&
      c2.ok &&
      a.ok &&
      b.ok &&
      f.form.litsOk a.isLit b.isLit false &&
      f.holdsOk true true false &&
      decide (d = c2 → d = 0)
  | .kvapp f d c2 a _ =>
      f.ok [.e, .w] true &&
      d.ok &&
      c2.ok &&
      a.ok &&
      f.form.litsOk a.isLit false false &&
      f.holdsOk true false false &&
      decide (d = c2 → d = 0)
  | .roleGet f d =>
      f.ok [.e] true &&
      d.ok &&
      f.form.litsOk false false false &&
      f.holdsOk false false false
  | .roleSet f _ =>
      f.ok [.e] true &&
      f.form.litsOk false false false &&
      f.holdsOk false false false
  | .tbarInit f d a _ =>
      f.ok [.e] true &&
      d.ok &&
      a.ok &&
      f.form.litsOk false false false &&
      f.holdsOk true false false
  | .tbarArrive f d a _ =>
      f.ok [.e] true &&
      d.ok &&
      a.ok &&
      f.form.litsOk false false false &&
      f.holdsOk true false false
  | .tbarWait f d a _ =>
      f.ok [.e] true &&
      d.ok &&
      a.ok &&
      f.form.litsOk false false false &&
      f.holdsOk true false false
  | .tbarArwt f d a _ =>
      f.ok [.e] true &&
      d.ok &&
      a.ok &&
      f.form.litsOk false false false &&
      f.holdsOk true false false
  | .cftest f d a b c =>
      f.ok [.e, .w] false &&
      d.pairOk &&
      a.ok &&
      b.ok &&
      c.ok &&
      f.form.litsOk a.isLit b.isLit c.isLit &&
      f.holdsOk true true true
  | .exittok f d a b _ =>
      f.ok [.e] true &&
      d.ok &&
      a.ok &&
      b.ok &&
      f.form.litsOk false false false &&
      f.holdsOk true true false
  | .bfwait f d a b _ =>
      f.ok [.e] true &&
      d.ok &&
      a.ok &&
      b.ok &&
      f.form.litsOk false false false &&
      f.holdsOk true true false
  | .recon f d a =>
      f.ok [.e] true &&
      d.ok &&
      a.pairOk &&
      f.form.litsOk false false false &&
      f.holdsOk true false false
  | .recoff f =>
      f.ok [.s] true &&
      f.form.litsOk false false false &&
      f.holdsOk false false false
  | .ebb f d a =>
      f.ok [.e] false &&
      d.ok &&
      a.pairOk &&
      f.form.litsOk false false false &&
      f.holdsOk true false false
  | .ebbstat f _ d a =>
      f.ok [.e] true &&
      d.ok &&
      a.pairOk &&
      f.form.litsOk false false false &&
      f.holdsOk true false false
  | .migrRiffle f d =>
      f.ok [.e] true &&
      d.ok &&
      f.form.litsOk false false false &&
      f.holdsOk false false false
  | .migrReach f d =>
      f.ok [.e] true &&
      d.ok &&
      f.form.litsOk false false false &&
      f.holdsOk false false false
  | .migrCancel f d =>
      f.ok [.e] true &&
      d.ok &&
      f.form.litsOk false false false &&
      f.holdsOk false false false
  | .portage f _ =>
      f.ok [.l] true &&
      f.form.litsOk false true false &&
      f.holdsOk false true false
  | .barSync f a _ =>
      f.ok [.e] true &&
      a.all Reg.ok &&
      f.form.litsOk false false false &&
      f.holdsOk a.isSome false false
  | .barArr f a _ =>
      f.ok [.e] true &&
      a.all Reg.ok &&
      f.form.litsOk false false false &&
      f.holdsOk a.isSome false false
  | .gbar f scope =>
      f.ok [.e] true &&
      f.form.litsOk false false false &&
      f.holdsOk false false false &&
      decide (scope ≠ .wp ∧ scope ≠ .blk)
  | .xlock f =>
      f.ok [.s] true &&
      f.form.litsOk false false false &&
      f.holdsOk false false false
  | .xfree f =>
      f.ok [.s] true &&
      f.form.litsOk false false false &&
      f.holdsOk false false false
  | .nmq f d a scope =>
      f.ok [.e] true &&
      d.ok &&
      a.quadOk &&
      f.form.litsOk false false false &&
      f.holdsOk true false false &&
      decide (scope ≠ .fab)
  | .nmwaitWait f d a =>
      f.ok [.e] true &&
      d.quadOk &&
      a.ok &&
      f.form.litsOk false false false &&
      f.holdsOk true false false
  | .nmwaitTest f d a =>
      f.ok [.e] true &&
      d.quadOk &&
      a.ok &&
      f.form.litsOk false false false &&
      f.holdsOk true false false
  | .tqpopWait f d a =>
      f.ok [.e] true &&
      d.pairOk &&
      a.ok &&
      f.form.litsOk false false false &&
      f.holdsOk true false false
  | .tqpopTry f d a =>
      f.ok [.e] true &&
      d.pairOk &&
      a.ok &&
      f.form.litsOk false false false &&
      f.holdsOk true false false
  | .tqpushWait f d a b =>
      f.ok [.e] true &&
      d.ok &&
      a.ok &&
      b.pairOk &&
      f.form.litsOk false false false &&
      f.holdsOk true true false
  | .tqpushTry f d a b =>
      f.ok [.e] true &&
      d.ok &&
      a.ok &&
      b.pairOk &&
      f.form.litsOk false false false &&
      f.holdsOk true true false
  | .tqpushClose f d a =>
      f.ok [.e] true &&
      d.ok &&
      a.ok &&
      f.form.litsOk false false false &&
      f.holdsOk true false false
  | .launch f d a =>
      f.ok [.e] true &&
      d.ok &&
      a.pairOk &&
      f.form.litsOk false false false &&
      f.holdsOk true false false
  | .coll f _ d a b =>
      f.ok [.e, .w] true &&
      d.ok &&
      a.pairOk &&
      b.ok &&
      f.form.litsOk false b.isLit false &&
      f.holdsOk true true false
  | .resultWriteback _ => true
  | .instructionCompletion _ _ => true
  | .minimumLatencyRelease _ _ => true
  | .inWarpTrapEntry _ => true
  | .splitAged _ _ => true
  | .yieldRelease _ _ => true
  | .waitvSatisfied _ _ => true
  | .flumeWaitSatisfied _ _ => true
  | .bfwaitSatisfied _ _ => true
  | .disbandComplete _ _ => true
  | .kvappProceed _ _ => true
  | .arrayOperationStart _ => true
  | .arrayOperationDone _ => true
  | .migrate _ => true
  | .warpEnd _ => true
  | .sluiceCommandStart _ => true
  | .weirDiscard _ => true
  | .sluiceGranule _ _ => true
  | .operandFetchFault _ => true
  | .gangScrub _ => true
  | .coreStop _ => true
  | .hostServedFault _ => true
  | .faultRecordPost _ => true
  | .watchdogExpiry _ => true
  | .gangSave _ => true
  | .dispatchDecision => true
  | .clusterReservation _ => true
  | .queueEntryTaken _ => true
  | .nadam _ _ => true
  | .nsgdm _ _ => true
  | .nmsearch _ _ => true
  | .nredadd _ _ => true
  | .ncopy _ _ => true
  | .nfill _ _ => true
  | .ncow _ _ => true
  | .nref _ _ => true
  | .ncntAdd _ _ => true
  | .ncntRead _ _ => true
  | .ncntWrite _ _ => true
  | .nchunk _ _ => true
  | .nquant _ _ => true
  | .ntagchk _ _ => true
  | .nmuCommandComplete _ _ => true
  | .backwaterAgeTimeout _ => true
  | .backfillLaunchEnd _ _ => true
  | .collectiveStart _ => true
  | .ingressRun _ => true
  | .blockHealthFlush _ => true
  | .illegalInstruction _ _ => true
  | .fetchFault _ _ => true
  | .l1Eviction _ _ => true
  | .collectiveEnd _ _ _ => true
  | .launchPacket _ _ _ _ => true
  | .launchPacketAnswer _ _ => true
  | .portDown _ => true
  | .flitReplay _ => true
  | .peerAccess _ _ _ => true
  | .hostWrite _ _ _ => true
  | .hostRead _ _ _ => true
  | .queueKick _ _ => true
  | .ingressDescriptorTrigger _ _ => true
  | .ridxWrite _ => true
  | .registerWriteOther _ _ _ => true
  | .createContext _ _ _ _ _ _ _ => true
  | .destroyContext _ _ => true
  | .bindQueue _ _ _ _ _ _ _ _ _ => true
  | .setTickets _ _ _ => true
  | .invalidate _ _ _ _ => true
  | .preEmpt _ _ => true
  | .taskRelease _ _ => true
  | .taskRemoval _ _ => true
  | .acknowledgeFault _ _ _ => true
  | .setLaunchGroup _ _ _ _ _ _ => true
  | .installKey _ _ _ _ => true
  | .bindIngressQueue _ _ _ _ _ => true
  | .setEventRing _ _ _ => true
  | .attestation _ _ _ => true
  | .setPowerLimit _ _ => true
  | .closeItemQueue _ _ => true
  | .openItemQueue _ _ => true
  | .scrubPass _ _ => true
  | .softError _ => true
  | .powerOnReset => true
  | .firmwareVerify _ => true
  | .throttle _ _ => true
  | .clockRestore _ _ => true
  | .overtempReset _ => true
  | .powerLoss => true

/-- The instruction rows of the table, as against its event rows. (DEDUCED, log 75.) -/
def Instr.isWord : Instr → Bool
  | .nop _ _ => true
  | .bra _ _ _ => true
  | .braDec _ _ _ _ => true
  | .brx _ _ _ => true
  | .call _ _ => true
  | .callx _ _ => true
  | .ret _ => true
  | .confl _ _ => true
  | .exit _ => true
  | .trap _ _ _ => true
  | .svc _ _ => true
  | .bkpt _ _ => true
  | .rth _ => true
  | .yieldw _ => true
  | .waitv _ _ _ _ _ _ _ _ _ => true
  | .movs _ _ _ => true
  | .sets _ _ _ => true
  | .mov _ _ _ => true
  | .iadd _ _ _ _ _ _ => true
  | .isub _ _ _ _ _ _ => true
  | .imul _ _ _ _ => true
  | .imulh _ _ _ _ _ => true
  | .imad _ _ _ _ _ _ _ => true
  | .imin _ _ _ _ _ => true
  | .imax _ _ _ _ _ => true
  | .iabs _ _ _ => true
  | .iadd64 _ _ _ _ _ _ => true
  | .lea _ _ _ _ _ _ _ => true
  | .isad _ _ _ _ _ _ => true
  | .idot4 _ _ _ _ _ _ _ _ => true
  | .sel _ _ _ _ _ _ => true
  | .prmt _ _ _ _ _ _ => true
  | .moviRead _ _ _ _ => true
  | .moviWrite _ _ _ _ => true
  | .and _ _ _ _ => true
  | .or _ _ _ _ => true
  | .xor _ _ _ _ => true
  | .andn _ _ _ _ => true
  | .shl _ _ _ _ => true
  | .shr _ _ _ _ => true
  | .sar _ _ _ _ => true
  | .rot _ _ _ _ => true
  | .popc _ _ _ => true
  | .clz _ _ _ => true
  | .brev _ _ _ => true
  | .bfx _ _ _ _ _ => true
  | .bfi _ _ _ _ _ => true
  | .lop3 _ _ _ _ _ _ => true
  | .icmp _ _ _ _ _ _ _ => true
  | .fcmp _ _ _ _ _ _ _ _ => true
  | .fclass _ _ _ _ _ => true
  | .vote _ _ _ _ => true
  | .matchw _ _ _ _ _ => true
  | .fadd _ _ _ _ _ _ _ _ _ _ => true
  | .fsub _ _ _ _ _ _ _ _ _ _ => true
  | .fmul _ _ _ _ _ _ _ _ _ _ => true
  | .ffma _ _ _ _ _ _ _ _ _ _ _ _ _ => true
  | .fmin _ _ _ _ => true
  | .fmax _ _ _ _ => true
  | .frcp _ _ _ => true
  | .frsq _ _ _ => true
  | .fsqrt _ _ _ _ => true
  | .fexp2 _ _ _ => true
  | .flog2 _ _ _ => true
  | .fsincos _ _ _ _ => true
  | .ftanh _ _ _ => true
  | .fdiv _ _ _ _ _ => true
  | .h2add _ _ _ _ _ _ _ _ => true
  | .h2mul _ _ _ _ _ _ _ _ => true
  | .h2fma _ _ _ _ _ _ _ _ _ _ => true
  | .h2min _ _ _ _ _ => true
  | .h2max _ _ _ _ _ => true
  | .cvt _ _ _ _ _ _ => true
  | .cvti _ _ _ _ _ _ => true
  | .cvtf _ _ _ _ _ _ => true
  | .pack2 _ _ _ _ _ _ _ _ => true
  | .unpk2 _ _ _ _ _ _ => true
  | .srnd _ _ _ _ _ _ => true
  | .bmax _ _ _ _ _ => true
  | .bmin _ _ _ _ _ => true
  | .bscale _ _ _ _ _ => true
  | .bzp _ _ _ _ _ => true
  | .bquant _ _ _ _ _ _ _ _ _ => true
  | .bdeq _ _ _ _ _ _ _ => true
  | .bpack _ _ _ _ _ _ _ => true
  | .bunpk _ _ _ _ _ _ _ => true
  | .bhealth _ _ _ _ _ _ _ => true
  | .brescale _ _ _ _ _ _ _ _ => true
  | .shfl _ _ _ _ _ _ _ => true
  | .redw _ _ _ _ => true
  | .scanw _ _ _ _ _ => true
  | .bcastw _ _ _ _ _ => true
  | .ld _ _ _ _ _ _ _ => true
  | .st _ _ _ _ _ _ _ => true
  | .lds _ _ _ _ _ _ => true
  | .sts _ _ _ _ _ _ => true
  | .ldbs _ _ _ _ _ _ _ _ _ => true
  | .stbs _ _ _ _ _ _ _ _ _ => true
  | .ldsc _ _ _ _ _ => true
  | .stsc _ _ _ _ _ => true
  | .ldaq _ _ _ _ _ _ _ => true
  | .strl _ _ _ _ _ _ _ => true
  | .pref _ _ _ _ _ => true
  | .cflushWb _ _ => true
  | .cflushWbinv _ _ => true
  | .cflushWball _ => true
  | .cflushWbinvall _ => true
  | .wayset _ _ _ => true
  | .atom _ _ _ _ _ _ _ _ _ _ => true
  | .atomc _ _ _ _ _ _ _ _ _ => true
  | .red _ _ _ _ _ _ _ _ _ => true
  | .fenceFull _ _ => true
  | .fenceAcq _ _ => true
  | .fenceRel _ _ => true
  | .chunk _ _ _ => true
  | .slxCopy _ _ _ _ _ => true
  | .slxCvt _ _ _ _ _ => true
  | .slxRescale _ _ _ _ _ => true
  | .slxTr _ _ _ _ _ => true
  | .slxFill _ _ _ _ _ => true
  | .slxKvg _ _ _ _ _ => true
  | .slxTagck _ _ _ _ _ => true
  | .bseal _ _ => true
  | .bwait _ _ _ => true
  | .flput _ _ _ _ => true
  | .flget _ _ _ _ => true
  | .flwaitData _ _ _ _ => true
  | .flwaitRoom _ _ _ _ => true
  | .weirsetSet _ _ _ => true
  | .weirsetClr _ _ => true
  | .engsyncCmp _ => true
  | .engsyncPub _ _ => true
  | .convene _ _ _ _ => true
  | .disband _ => true
  | .tmma _ _ _ _ => true
  | .tmmaw _ _ _ _ _ => true
  | .tmmaz _ _ _ _ _ => true
  | .tmmas _ _ _ _ => true
  | .taccZero _ _ => true
  | .taccLive _ _ => true
  | .taccDead _ _ => true
  | .taccMul _ _ _ => true
  | .trdReg _ _ _ _ _ _ => true
  | .trdRec _ _ _ _ _ _ _ => true
  | .twrReg _ _ _ _ _ => true
  | .twrRec _ _ _ _ => true
  | .tew _ _ _ _ _ _ _ _ => true
  | .tred _ _ _ _ _ => true
  | .tsmx _ _ _ _ _ => true
  | .tnorm _ _ _ _ _ => true
  | .tcvt _ _ _ _ _ _ => true
  | .bsload _ _ _ _ => true
  | .rcfence _ => true
  | .kvxlt _ _ _ _ _ _ _ => true
  | .kvapp _ _ _ _ _ => true
  | .roleGet _ _ => true
  | .roleSet _ _ => true
  | .tbarInit _ _ _ _ => true
  | .tbarArrive _ _ _ _ => true
  | .tbarWait _ _ _ _ => true
  | .tbarArwt _ _ _ _ => true
  | .cftest _ _ _ _ _ => true
  | .exittok _ _ _ _ _ => true
  | .bfwait _ _ _ _ _ => true
  | .recon _ _ _ => true
  | .recoff _ => true
  | .ebb _ _ _ => true
  | .ebbstat _ _ _ _ => true
  | .migrRiffle _ _ => true
  | .migrReach _ _ => true
  | .migrCancel _ _ => true
  | .portage _ _ => true
  | .barSync _ _ _ => true
  | .barArr _ _ _ => true
  | .gbar _ _ => true
  | .xlock _ => true
  | .xfree _ => true
  | .nmq _ _ _ _ => true
  | .nmwaitWait _ _ _ => true
  | .nmwaitTest _ _ _ => true
  | .tqpopWait _ _ _ => true
  | .tqpopTry _ _ _ => true
  | .tqpushWait _ _ _ _ => true
  | .tqpushTry _ _ _ _ => true
  | .tqpushClose _ _ _ => true
  | .launch _ _ _ => true
  | .coll _ _ _ _ _ => true
  | .resultWriteback _ => false
  | .instructionCompletion _ _ => false
  | .minimumLatencyRelease _ _ => false
  | .inWarpTrapEntry _ => false
  | .splitAged _ _ => false
  | .yieldRelease _ _ => false
  | .waitvSatisfied _ _ => false
  | .flumeWaitSatisfied _ _ => false
  | .bfwaitSatisfied _ _ => false
  | .disbandComplete _ _ => false
  | .kvappProceed _ _ => false
  | .arrayOperationStart _ => false
  | .arrayOperationDone _ => false
  | .migrate _ => false
  | .warpEnd _ => false
  | .sluiceCommandStart _ => false
  | .weirDiscard _ => false
  | .sluiceGranule _ _ => false
  | .operandFetchFault _ => false
  | .gangScrub _ => false
  | .coreStop _ => false
  | .hostServedFault _ => false
  | .faultRecordPost _ => false
  | .watchdogExpiry _ => false
  | .gangSave _ => false
  | .dispatchDecision => false
  | .clusterReservation _ => false
  | .queueEntryTaken _ => false
  | .nadam _ _ => false
  | .nsgdm _ _ => false
  | .nmsearch _ _ => false
  | .nredadd _ _ => false
  | .ncopy _ _ => false
  | .nfill _ _ => false
  | .ncow _ _ => false
  | .nref _ _ => false
  | .ncntAdd _ _ => false
  | .ncntRead _ _ => false
  | .ncntWrite _ _ => false
  | .nchunk _ _ => false
  | .nquant _ _ => false
  | .ntagchk _ _ => false
  | .nmuCommandComplete _ _ => false
  | .backwaterAgeTimeout _ => false
  | .backfillLaunchEnd _ _ => false
  | .collectiveStart _ => false
  | .ingressRun _ => false
  | .blockHealthFlush _ => false
  | .illegalInstruction _ _ => false
  | .fetchFault _ _ => false
  | .l1Eviction _ _ => false
  | .collectiveEnd _ _ _ => false
  | .launchPacket _ _ _ _ => false
  | .launchPacketAnswer _ _ => false
  | .portDown _ => false
  | .flitReplay _ => false
  | .peerAccess _ _ _ => false
  | .hostWrite _ _ _ => false
  | .hostRead _ _ _ => false
  | .queueKick _ _ => false
  | .ingressDescriptorTrigger _ _ => false
  | .ridxWrite _ => false
  | .registerWriteOther _ _ _ => false
  | .createContext _ _ _ _ _ _ _ => false
  | .destroyContext _ _ => false
  | .bindQueue _ _ _ _ _ _ _ _ _ => false
  | .setTickets _ _ _ => false
  | .invalidate _ _ _ _ => false
  | .preEmpt _ _ => false
  | .taskRelease _ _ => false
  | .taskRemoval _ _ => false
  | .acknowledgeFault _ _ _ => false
  | .setLaunchGroup _ _ _ _ _ _ => false
  | .installKey _ _ _ _ => false
  | .bindIngressQueue _ _ _ _ _ => false
  | .setEventRing _ _ _ => false
  | .attestation _ _ _ => false
  | .setPowerLimit _ _ => false
  | .closeItemQueue _ _ => false
  | .openItemQueue _ _ => false
  | .scrubPass _ _ => false
  | .softError _ => false
  | .powerOnReset => false
  | .firmwareVerify _ => false
  | .throttle _ _ => false
  | .clockRestore _ _ => false
  | .overtempReset _ => false
  | .powerLoss => false

end Sys2Proof
end

