-- ==== Sys2Proof/Decode.lean ====
section
/-! DEFINITION. The decoder, total on any bytes, and the encoder: the layout of R73 to R80, the opcode map of R83 and the
field layout of every instruction, read once and written once. A word that decodes is one that the encoder would write. -/
namespace Sys2Proof

/-- Why bytes are no instruction, in the order of R81. -/
inductive DecodeError where
  | lenReserved | crossesBlock | extensionKind | opcode | form | counter | operand | reserved
  deriving DecidableEq, Repr

/-- Fields of given widths laid side by side from bit 0 upward. -/
def joinBits : List (Nat × Nat) → Nat
  | [] => 0
  | (w, v) :: rest => v + 2 ^ w * joinBits rest

/-- A number cut into fields of given widths from bit 0 upward. -/
def splitBits : List Nat → Nat → List Nat
  | [], _ => []
  | w :: ws, n => n % 2 ^ w :: splitBits ws (n / 2 ^ w)

/-- The fields of an instruction's words (R74, R76, R77). In form l the B modifier stands as MOD. -/
structure Raw where
  form : Form
  opc : Nat
  uni : Bool
  g : Nat
  gn : Bool
  d : Nat
  a : Nat
  b : Nat
  c : Nat
  stall : Nat
  setc : Nat
  wait : Nat
  holdA : Bool
  holdB : Bool
  holdC : Bool
  sub : Nat
  mod : Nat
  lsel : Nat
  lit : Nat
  deriving DecidableEq, Repr

/-- Bits lo + w - 1 to lo of MOD. -/
def Raw.m (r : Raw) (lo w : Nat) : Nat := r.mod / 2 ^ lo % 2 ^ w

def Raw.fr (r : Raw) : Fr :=
  ⟨r.form, r.uni, BitVec.ofNat 6 r.g, r.gn, BitVec.ofNat 4 r.stall, BitVec.ofNat 3 r.setc, BitVec.ofNat 6 r.wait,
    r.holdA, r.holdB, r.holdC⟩

def Raw.rd (r : Raw) : Reg := BitVec.ofNat 10 r.d
def Raw.ra (r : Raw) : Reg := BitVec.ofNat 10 r.a
def Raw.rb (r : Raw) : Reg := BitVec.ofNat 10 r.b
def Raw.rc (r : Raw) : Reg := BitVec.ofNat 10 r.c

/-- Source A: the literal when LSEL = 0b10 (R78). -/
def Raw.sa (r : Raw) : Src := if r.form = .w ∧ r.lsel = 2 then .lit (BitVec.ofNat 32 r.lit) else .reg r.ra

/-- Source B: the literal in form l, and in form w when LSEL = 0b00. -/
def Raw.sb (r : Raw) : Src :=
  if r.form = .l ∨ (r.form = .w ∧ r.lsel = 0) then .lit (BitVec.ofNat 32 r.lit) else .reg r.rb

/-- Source C: the literal when LSEL = 0b01. -/
def Raw.sc (r : Raw) : Src := if r.form = .w ∧ r.lsel = 1 then .lit (BitVec.ofNat 32 r.lit) else .reg r.rc

/-- The literal that stands in the place of B, or 0 (R210). -/
def Raw.offset (r : Raw) : Word :=
  if r.form = .l ∨ (r.form = .w ∧ r.lsel = 0) then BitVec.ofNat 32 r.lit else 0

/-- The place of B in an instruction that takes only a literal there: the offset in form w, nothing in form e or when the
literal stands for the data (R210). -/
def Src.offset (fm : Form) (litC : Bool) (off : Word) : Src :=
  if fm = .w ∧ litC = false then .lit off else .reg 0

/-- The number in a register field; a replaced field is zero (R78). -/
def Src.num : Src → Nat
  | .reg r => r.toNat
  | .lit _ => 0

def Src.litVal : Src → Option Word
  | .reg _ => none
  | .lit v => some v

/-- LSEL and the literal word of three sources (R78). -/
def litOf (fm : Form) (a b c : Src) : Nat × Nat :=
  match fm, a, b, c with
  | .l, _, .lit v, _ => (0, v.toNat)
  | .w, _, .lit v, _ => (0, v.toNat)
  | .w, _, _, .lit v => (1, v.toNat)
  | .w, .lit v, _, _ => (2, v.toNat)
  | _, _, _, _ => (0, 0)

/-- The fields of an instruction from its parts. -/
def mkRaw (f : Fr) (opc sub mod : Nat) (d : Reg) (a b c : Src) : Raw where
  form := f.form
  opc := opc
  uni := f.uni
  g := f.g.toNat
  gn := f.gn
  d := d.toNat
  a := a.num
  b := b.num
  c := c.num
  stall := f.stall.toNat
  setc := f.setc.toNat
  wait := f.wait.toNat
  holdA := f.holdA
  holdB := f.holdB
  holdC := f.holdC
  sub := sub
  mod := mod
  lsel := (litOf f.form a b c).1
  lit := (litOf f.form a b c).2


/-- The code of a value of `Sat`. -/
def Sat.code : Sat → Nat
  | .wrap => 0
  | .signed => 1
  | .unsigned => 2

/-- The value of `Sat` that a code names; none for a reserved code. -/
def Sat.ofCode : Nat → Option Sat
  | 0 => some .wrap
  | 1 => some .signed
  | 2 => some .unsigned
  | _ => none

/-- The code of a value of `Rnd`. -/
def Rnd.code : Rnd → Nat
  | .rne => 0
  | .rz => 1
  | .rup => 2
  | .rdn => 3
  | .rna => 4
  | .sr => 5

/-- The value of `Rnd` that a code names; none for a reserved code. -/
def Rnd.ofCode : Nat → Option Rnd
  | 0 => some .rne
  | 1 => some .rz
  | 2 => some .rup
  | 3 => some .rdn
  | 4 => some .rna
  | 5 => some .sr
  | _ => none

/-- The code of a value of `Cond`. -/
def Cond.code : Cond → Nat
  | .eq => 0
  | .ne => 1
  | .lt => 2
  | .le => 3
  | .gt => 4
  | .ge => 5

/-- The value of `Cond` that a code names; none for a reserved code. -/
def Cond.ofCode : Nat → Option Cond
  | 0 => some .eq
  | 1 => some .ne
  | 2 => some .lt
  | 3 => some .le
  | 4 => some .gt
  | 5 => some .ge
  | _ => none

/-- The code of a value of `FCond`. -/
def FCond.code : FCond → Nat
  | .eq => 0
  | .ne => 1
  | .lt => 2
  | .le => 3
  | .gt => 4
  | .ge => 5
  | .num => 6
  | .nan => 7

/-- The value of `FCond` that a code names; none for a reserved code. -/
def FCond.ofCode : Nat → Option FCond
  | 0 => some .eq
  | 1 => some .ne
  | 2 => some .lt
  | 3 => some .le
  | 4 => some .gt
  | 5 => some .ge
  | 6 => some .num
  | 7 => some .nan
  | _ => none

/-- The code of a value of `FTy`. -/
def FTy.code : FTy → Nat
  | .f32 => 0
  | .f16 => 1
  | .bf16 => 2

/-- The value of `FTy` that a code names; none for a reserved code. -/
def FTy.ofCode : Nat → Option FTy
  | 0 => some .f32
  | 1 => some .f16
  | 2 => some .bf16
  | _ => none

/-- The code of a value of `DTy`. -/
def DTy.code : DTy → Nat
  | .f32 => 0
  | .bf16 => 1
  | .f16 => 2

/-- The value of `DTy` that a code names; none for a reserved code. -/
def DTy.ofCode : Nat → Option DTy
  | 0 => some .f32
  | 1 => some .bf16
  | 2 => some .f16
  | _ => none

/-- The code of a value of `Elem`. -/
def Elem.code : Elem → Nat
  | .f32 => 0
  | .bf16 => 1
  | .f16 => 2
  | .e4m3 => 3
  | .e5m2 => 4
  | .e2m3 => 5
  | .e3m2 => 6
  | .e2m1 => 7
  | .i8 => 8
  | .i4 => 9
  | .mx8e4 => 10
  | .mx8e5 => 11
  | .mx6e2 => 12
  | .mx6e3 => 13
  | .mx4 => 14
  | .mxi8 => 15
  | .a4 => 16
  | .a8 => 17
  | .i32 => 24
  | .n32 => 25
  | .b32 => 26

/-- The value of `Elem` that a code names; none for a reserved code. -/
def Elem.ofCode : Nat → Option Elem
  | 0 => some .f32
  | 1 => some .bf16
  | 2 => some .f16
  | 3 => some .e4m3
  | 4 => some .e5m2
  | 5 => some .e2m3
  | 6 => some .e3m2
  | 7 => some .e2m1
  | 8 => some .i8
  | 9 => some .i4
  | 10 => some .mx8e4
  | 11 => some .mx8e5
  | 12 => some .mx6e2
  | 13 => some .mx6e3
  | 14 => some .mx4
  | 15 => some .mxi8
  | 16 => some .a4
  | 17 => some .a8
  | 24 => some .i32
  | 25 => some .n32
  | 26 => some .b32
  | _ => none

/-- The code of a value of `BFmt`. -/
def BFmt.code : BFmt → Nat
  | .mx8e4 => 0
  | .mx8e5 => 1
  | .mx6e2 => 2
  | .mx6e3 => 3
  | .mx4 => 4
  | .mxi8 => 5
  | .a4 => 6
  | .a8 => 7

/-- The value of `BFmt` that a code names; none for a reserved code. -/
def BFmt.ofCode : Nat → Option BFmt
  | 0 => some .mx8e4
  | 1 => some .mx8e5
  | 2 => some .mx6e2
  | 3 => some .mx6e3
  | 4 => some .mx4
  | 5 => some .mxi8
  | 6 => some .a4
  | 7 => some .a8
  | _ => none

/-- The code of a value of `Grp`. -/
def Grp.code : Grp → Nat
  | .g32 => 0
  | .g64 => 1
  | .g128 => 2

/-- The value of `Grp` that a code names; none for a reserved code. -/
def Grp.ofCode : Nat → Option Grp
  | 0 => some .g32
  | 1 => some .g64
  | 2 => some .g128
  | _ => none

/-- The code of a value of `Space`. -/
def Space.code : Space → Nat
  | .none => 0
  | .lane => 1
  | .core => 2
  | .clus => 3
  | .est => 4
  | .glob => 5

/-- The value of `Space` that a code names; none for a reserved code. -/
def Space.ofCode : Nat → Option Space
  | 0 => some .none
  | 1 => some .lane
  | 2 => some .core
  | 3 => some .clus
  | 4 => some .est
  | 5 => some .glob
  | _ => none

/-- The code of a value of `Size`. -/
def Size.code : Size → Nat
  | .b32 => 0
  | .b64 => 1
  | .b128 => 2
  | .n8 => 3
  | .i8 => 4
  | .n16 => 5
  | .i16 => 6

/-- The value of `Size` that a code names; none for a reserved code. -/
def Size.ofCode : Nat → Option Size
  | 0 => some .b32
  | 1 => some .b64
  | 2 => some .b128
  | 3 => some .n8
  | 4 => some .i8
  | 5 => some .n16
  | 6 => some .i16
  | _ => none

/-- The code of a value of `Hint`. -/
def Hint.code : Hint → Nat
  | .keep => 0
  | .nc => 1
  | .lu => 2

/-- The value of `Hint` that a code names; none for a reserved code. -/
def Hint.ofCode : Nat → Option Hint
  | 0 => some .keep
  | 1 => some .nc
  | 2 => some .lu
  | _ => none

/-- The code of a value of `Scope`. -/
def Scope.code : Scope → Nat
  | .wp => 0
  | .blk => 1
  | .gng => 2
  | .cls => 3
  | .die => 4
  | .dev => 5
  | .fab => 6
  | .lv0 => 8
  | .lv1 => 9
  | .lv2 => 10
  | .lv3 => 11
  | .lv4 => 12
  | .lv5 => 13
  | .lv6 => 14
  | .lv7 => 15

/-- The value of `Scope` that a code names; none for a reserved code. -/
def Scope.ofCode : Nat → Option Scope
  | 0 => some .wp
  | 1 => some .blk
  | 2 => some .gng
  | 3 => some .cls
  | 4 => some .die
  | 5 => some .dev
  | 6 => some .fab
  | 8 => some .lv0
  | 9 => some .lv1
  | 10 => some .lv2
  | 11 => some .lv3
  | 12 => some .lv4
  | 13 => some .lv5
  | 14 => some .lv6
  | 15 => some .lv7
  | _ => none

/-- The code of a value of `Order`. -/
def Order.code : Order → Nat
  | .relaxed => 0
  | .acq => 1
  | .rel => 2
  | .acqrel => 3

/-- The value of `Order` that a code names; none for a reserved code. -/
def Order.ofCode : Nat → Option Order
  | 0 => some .relaxed
  | 1 => some .acq
  | 2 => some .rel
  | 3 => some .acqrel
  | _ => none

/-- The code of a value of `AtomOp`. -/
def AtomOp.code : AtomOp → Nat
  | .add => 0
  | .fadd => 1
  | .smin => 2
  | .smax => 3
  | .nmin => 4
  | .nmax => 5
  | .band => 6
  | .bor => 7
  | .bxor => 8
  | .exch => 9
  | .inc => 10
  | .dec => 11
  | .fmin => 12
  | .fmax => 13
  | .h2add => 14
  | .bf2add => 15

/-- The value of `AtomOp` that a code names; none for a reserved code. -/
def AtomOp.ofCode : Nat → Option AtomOp
  | 0 => some .add
  | 1 => some .fadd
  | 2 => some .smin
  | 3 => some .smax
  | 4 => some .nmin
  | 5 => some .nmax
  | 6 => some .band
  | 7 => some .bor
  | 8 => some .bxor
  | 9 => some .exch
  | 10 => some .inc
  | 11 => some .dec
  | 12 => some .fmin
  | 13 => some .fmax
  | 14 => some .h2add
  | 15 => some .bf2add
  | _ => none

/-- The code of a value of `BExt`. -/
def BExt.code : BExt → Nat
  | .pair => 0
  | .sx => 1
  | .zx => 2

/-- The value of `BExt` that a code names; none for a reserved code. -/
def BExt.ofCode : Nat → Option BExt
  | 0 => some .pair
  | 1 => some .sx
  | 2 => some .zx
  | _ => none

/-- The code of a value of `VoteOp`. -/
def VoteOp.code : VoteOp → Nat
  | .all => 0
  | .any => 1
  | .eq => 2
  | .ballot => 3
  | .count => 4

/-- The value of `VoteOp` that a code names; none for a reserved code. -/
def VoteOp.ofCode : Nat → Option VoteOp
  | 0 => some .all
  | 1 => some .any
  | 2 => some .eq
  | 3 => some .ballot
  | 4 => some .count
  | _ => none

/-- The code of a value of `MaxKind`. -/
def MaxKind.code : MaxKind → Nat
  | .abs => 0
  | .sgn => 1

/-- The value of `MaxKind` that a code names; none for a reserved code. -/
def MaxKind.ofCode : Nat → Option MaxKind
  | 0 => some .abs
  | 1 => some .sgn
  | _ => none

/-- The code of a value of `SMode`. -/
def SMode.code : SMode → Nat
  | .tight => 0
  | .ocp => 1

/-- The value of `SMode` that a code names; none for a reserved code. -/
def SMode.ofCode : Nat → Option SMode
  | 0 => some .tight
  | 1 => some .ocp
  | _ => none

/-- The code of a value of `ZFmt`. -/
def ZFmt.code : ZFmt → Nat
  | .a4 => 0
  | .a8 => 1

/-- The value of `ZFmt` that a code names; none for a reserved code. -/
def ZFmt.ofCode : Nat → Option ZFmt
  | 0 => some .a4
  | 1 => some .a8
  | _ => none

/-- The code of a value of `QMode`. -/
def QMode.code : QMode → Nat
  | .tight => 0
  | .ocp => 1
  | .given => 2

/-- The value of `QMode` that a code names; none for a reserved code. -/
def QMode.ofCode : Nat → Option QMode
  | 0 => some .tight
  | 1 => some .ocp
  | 2 => some .given
  | _ => none

/-- The code of a value of `ShflMode`. -/
def ShflMode.code : ShflMode → Nat
  | .idx => 0
  | .up => 1
  | .down => 2
  | .xor => 3

/-- The value of `ShflMode` that a code names; none for a reserved code. -/
def ShflMode.ofCode : Nat → Option ShflMode
  | 0 => some .idx
  | 1 => some .up
  | 2 => some .down
  | 3 => some .xor
  | _ => none

/-- The code of a value of `RedOp`. -/
def RedOp.code : RedOp → Nat
  | .add => 0
  | .min => 1
  | .max => 2
  | .iadd => 3
  | .imin => 4
  | .imax => 5
  | .nmin => 6
  | .nmax => 7
  | .band => 8
  | .bor => 9
  | .bxor => 10

/-- The value of `RedOp` that a code names; none for a reserved code. -/
def RedOp.ofCode : Nat → Option RedOp
  | 0 => some .add
  | 1 => some .min
  | 2 => some .max
  | 3 => some .iadd
  | 4 => some .imin
  | 5 => some .imax
  | 6 => some .nmin
  | 7 => some .nmax
  | 8 => some .band
  | 9 => some .bor
  | 10 => some .bxor
  | _ => none

/-- The code of a value of `PLevel`. -/
def PLevel.code : PLevel → Nat
  | .l1 => 0
  | .l2 => 1

/-- The value of `PLevel` that a code names; none for a reserved code. -/
def PLevel.ofCode : Nat → Option PLevel
  | 0 => some .l1
  | 1 => some .l2
  | _ => none

/-- The code of a value of `TewFn`. -/
def TewFn.code : TewFn → Nat
  | .copy => 0
  | .relu => 1
  | .gelu => 2
  | .silu => 3
  | .exp => 4
  | .tanh => 5
  | .sigm => 6
  | .add => 7
  | .mul => 8
  | .scl => 9

/-- The value of `TewFn` that a code names; none for a reserved code. -/
def TewFn.ofCode : Nat → Option TewFn
  | 0 => some .copy
  | 1 => some .relu
  | 2 => some .gelu
  | 3 => some .silu
  | 4 => some .exp
  | 5 => some .tanh
  | 6 => some .sigm
  | 7 => some .add
  | 8 => some .mul
  | 9 => some .scl
  | _ => none

/-- The code of a value of `TredOp`. -/
def TredOp.code : TredOp → Nat
  | .add => 0
  | .max => 1

/-- The value of `TredOp` that a code names; none for a reserved code. -/
def TredOp.ofCode : Nat → Option TredOp
  | 0 => some .add
  | 1 => some .max
  | _ => none

/-- The code of a value of `Role`. -/
def Role.code : Role → Nat
  | .none => 0
  | .prod => 1
  | .mma => 2
  | .norm => 3

/-- The value of `Role` that a code names; none for a reserved code. -/
def Role.ofCode : Nat → Option Role
  | 0 => some .none
  | 1 => some .prod
  | 2 => some .mma
  | 3 => some .norm
  | _ => none

/-- The code of a value of `EbbField`. -/
def EbbField.code : EbbField → Nat
  | .rem => 0
  | .seq => 1

/-- The value of `EbbField` that a code names; none for a reserved code. -/
def EbbField.ofCode : Nat → Option EbbField
  | 0 => some .rem
  | 1 => some .seq
  | _ => none

/-- The code of a value of `CollOp`. -/
def CollOp.code : CollOp → Nat
  | .ared => 0
  | .rsc => 1
  | .agat => 2
  | .a2a => 3

/-- The value of `CollOp` that a code names; none for a reserved code. -/
def CollOp.ofCode : Nat → Option CollOp
  | 0 => some .ared
  | 1 => some .rsc
  | 2 => some .agat
  | 3 => some .a2a
  | _ => none

/-- A SUB of 0 or 1 that stands for a choice of two. -/
def boolOfCode : Nat → Option Bool
  | 0 => some false
  | 1 => some true
  | _ => none

/-- The number of a special register (R265). -/
def SReg.code : SReg → Nat
  | .tid => 0x000 | .warp => 0x001 | .slot => 0x002 | .core => 0x003 | .clus => 0x004 | .die => 0x005 | .dev => 0x006
  | .kind => 0x007 | .mask => 0x008 | .nsplit => 0x009
  | .lix k => 0x010 + k.toNat
  | .lext k => 0x018 + k.toNat
  | .lclk => 0x020 | .seed => 0x021 | .role => 0x022 | .kvrm => 0x023 | .hflag => 0x024 | .migr => 0x025
  | .panch => 0x026 | .xl => 0x027
  | .kvd n w => 0x040 + 4 * n.toNat + w.toNat
  | .cctl => 0x080 | .tvec => 0x081 | .tpc => 0x082 | .tcause => 0x083 | .tmask => 0x084 | .targ => 0x085
  | .taddr => 0x086 | .priv => 0x087 | .asid => 0x088 | .world => 0x089

/-- The special register of a number; none for a number that the directory leaves unassigned. -/
def SReg.ofCode (n : Nat) : Option SReg :=
  if 0x040 ≤ n ∧ n < 0x080 then some (.kvd (BitVec.ofNat 4 ((n - 0x040) / 4)) (BitVec.ofNat 2 (n % 4)))
  else if 0x010 ≤ n ∧ n < 0x018 then some (.lix (BitVec.ofNat 3 (n - 0x010)))
  else if 0x018 ≤ n ∧ n < 0x020 then some (.lext (BitVec.ofNat 3 (n - 0x018)))
  else match n with
  | 0x000 => some .tid | 0x001 => some .warp | 0x002 => some .slot | 0x003 => some .core | 0x004 => some .clus
  | 0x005 => some .die | 0x006 => some .dev | 0x007 => some .kind | 0x008 => some .mask | 0x009 => some .nsplit
  | 0x020 => some .lclk | 0x021 => some .seed | 0x022 => some .role | 0x023 => some .kvrm | 0x024 => some .hflag
  | 0x025 => some .migr | 0x026 => some .panch | 0x027 => some .xl
  | 0x080 => some .cctl | 0x081 => some .tvec | 0x082 => some .tpc | 0x083 => some .tcause | 0x084 => some .tmask
  | 0x085 => some .targ | 0x086 => some .taddr | 0x087 => some .priv | 0x088 => some .asid | 0x089 => some .world
  | _ => none

/-- The operand header as its word (R178). -/
def Header.toWord (h : Header) : Word :=
  BitVec.ofNat 32 (joinBits [(5, h.afmt.code), (5, h.bfmt.code), (1, h.ta.toNat), (1, h.tb.toNat), (4, h.mq.toNat),
    (3, h.np.toNat), (2, h.sp.toNat), (1, h.asrc.toNat), (1, h.za.toNat), (1, h.sva.toNat), (1, h.svb.toNat),
    (7, h.row16.toNat)])

/-- The operand header of a literal; none where a format code is reserved. -/
def Header.ofWord (v : Word) : Option Header :=
  (Elem.ofCode (v.toNat % 32)).bind fun a =>
  (Elem.ofCode (v.toNat / 2 ^ 5 % 32)).bind fun b =>
  some ⟨a, b, v.toNat / 2 ^ 10 % 2 == 1, v.toNat / 2 ^ 11 % 2 == 1, BitVec.ofNat 4 (v.toNat / 2 ^ 12),
    BitVec.ofNat 3 (v.toNat / 2 ^ 16), BitVec.ofNat 2 (v.toNat / 2 ^ 19), v.toNat / 2 ^ 21 % 2 == 1,
    v.toNat / 2 ^ 22 % 2 == 1, v.toNat / 2 ^ 23 % 2 == 1, v.toNat / 2 ^ 24 % 2 == 1, BitVec.ofNat 7 (v.toNat / 2 ^ 25)⟩


/-- The reading of the fields of NOP (R257). -/
def parseNop (r : Raw) : Option Instr :=
  some (.nop r.fr r.offset)

/-- The reading of the fields of BRA (R247). -/
def parseBra (r : Raw) : Option Instr :=
  some (.bra r.fr r.offset (BitVec.ofNat 8 (r.m 0 8)))

/-- The reading of the fields of BRA_DEC (R247). -/
def parseBraDec (r : Raw) : Option Instr :=
  some (.braDec r.fr r.rc r.offset (BitVec.ofNat 8 (r.m 0 8)))

/-- The reading of the fields of BRX (R251). -/
def parseBrx (r : Raw) : Option Instr :=
  some (.brx r.fr r.ra (BitVec.ofNat 8 (r.m 0 8)))

/-- The reading of the fields of CALL (R252). -/
def parseCall (r : Raw) : Option Instr :=
  some (.call r.fr r.offset)

/-- The reading of the fields of CALLX (R253). -/
def parseCallx (r : Raw) : Option Instr :=
  some (.callx r.fr r.ra)

/-- The reading of the fields of RET (R255). -/
def parseRet (r : Raw) : Option Instr :=
  some (.ret r.fr)

/-- The reading of the fields of CONFL (R250). -/
def parseConfl (r : Raw) : Option Instr :=
  some (.confl r.fr (BitVec.ofNat 8 (r.m 0 8)))

/-- The reading of the fields of EXIT (R256). -/
def parseExit (r : Raw) : Option Instr :=
  some (.exit r.fr)

/-- The reading of the fields of TRAP (R258). -/
def parseTrap (r : Raw) : Option Instr :=
  some (.trap r.fr r.offset (BitVec.ofNat 8 (r.m 0 8)))

/-- The reading of the fields of SVC (R258). -/
def parseSvc (r : Raw) : Option Instr :=
  some (.svc r.fr r.offset)

/-- The reading of the fields of BKPT (R258). -/
def parseBkpt (r : Raw) : Option Instr :=
  some (.bkpt r.fr r.offset)

/-- The reading of the fields of RTH (R261). -/
def parseRth (r : Raw) : Option Instr :=
  some (.rth r.fr)

/-- The reading of the fields of YIELD (R257). -/
def parseYieldw (r : Raw) : Option Instr :=
  some (.yieldw r.fr)

/-- The reading of the fields of WAITV (R262). -/
def parseWaitv (r : Raw) : Option Instr :=
  (Space.ofCode (r.m 0 3)).bind fun spc =>
  (Size.ofCode (r.m 3 3)).bind fun sz =>
  (Scope.ofCode (r.m 8 4)).bind fun scope =>
  some (.waitv r.fr r.rd r.ra r.offset r.sc spc sz scope (r.m 12 1 == 1))

/-- The reading of the fields of MOVS (R263). -/
def parseMovs (r : Raw) : Option Instr :=
  (SReg.ofCode (r.m 0 10)).bind fun sr =>
  some (.movs r.fr r.rd sr)

/-- The reading of the fields of SETS (R263). -/
def parseSets (r : Raw) : Option Instr :=
  (SReg.ofCode (r.m 0 10)).bind fun sr =>
  some (.sets r.fr r.sb sr)

/-- The reading of the fields of MOV (R115). -/
def parseMov (r : Raw) : Option Instr :=
  some (.mov r.fr r.rd r.sb)

/-- The reading of the fields of IADD (R107). -/
def parseIadd (r : Raw) : Option Instr :=
  (Sat.ofCode (r.m 0 2)).bind fun sat =>
  some (.iadd r.fr r.rd r.sa r.sb (if r.m 2 1 = 1 then some r.sc else none) sat)

/-- The reading of the fields of ISUB (R107). -/
def parseIsub (r : Raw) : Option Instr :=
  (Sat.ofCode (r.m 0 2)).bind fun sat =>
  some (.isub r.fr r.rd r.sa r.sb (if r.m 2 1 = 1 then some r.sc else none) sat)

/-- The reading of the fields of IMUL (R108). -/
def parseImul (r : Raw) : Option Instr :=
  some (.imul r.fr r.rd r.ra r.sb)

/-- The reading of the fields of IMULH (R108). -/
def parseImulh (r : Raw) : Option Instr :=
  some (.imulh r.fr r.rd r.ra r.sb (r.m 0 1 == 1))

/-- The reading of the fields of IMAD (R109). -/
def parseImad (r : Raw) : Option Instr :=
  some (.imad r.fr r.rd r.sa r.sb r.sc (r.m 0 1 == 1) (r.m 1 1 == 1))

/-- The reading of the fields of IMIN (R110). -/
def parseImin (r : Raw) : Option Instr :=
  some (.imin r.fr r.rd r.ra r.sb (r.m 0 1 == 1))

/-- The reading of the fields of IMAX (R110). -/
def parseImax (r : Raw) : Option Instr :=
  some (.imax r.fr r.rd r.ra r.sb (r.m 0 1 == 1))

/-- The reading of the fields of IABS (R110). -/
def parseIabs (r : Raw) : Option Instr :=
  some (.iabs r.fr r.rd r.ra)

/-- The reading of the fields of IADD64 (R113). -/
def parseIadd64 (r : Raw) : Option Instr :=
  (BExt.ofCode (r.m 1 2)).bind fun bext =>
  some (.iadd64 r.fr r.rd r.ra r.rb (r.m 0 1 == 1) bext)

/-- The reading of the fields of LEA (R114). -/
def parseLea (r : Raw) : Option Instr :=
  some (.lea r.fr r.rd r.sa r.sb (if r.m 3 1 = 1 then some r.sc else none) (BitVec.ofNat 3 (r.m 0 3)) (r.m 4 1 == 1))

/-- The reading of the fields of ISAD (R111). -/
def parseIsad (r : Raw) : Option Instr :=
  some (.isad r.fr r.rd r.sa r.sb r.sc (r.m 0 1 == 1))

/-- The reading of the fields of IDOT4 (R112). -/
def parseIdot4 (r : Raw) : Option Instr :=
  some (.idot4 r.fr r.rd r.sa r.sb r.sc (r.m 0 1 == 1) (r.m 1 1 == 1) (r.m 2 1 == 1))

/-- The reading of the fields of SEL (R116). -/
def parseSel (r : Raw) : Option Instr :=
  some (.sel r.fr r.rd r.sa r.sb r.sc (r.m 0 1 == 1))

/-- The reading of the fields of PRMT (R117). -/
def parsePrmt (r : Raw) : Option Instr :=
  some (.prmt r.fr r.rd r.sa r.sb r.sc (r.m 0 1 == 1))

/-- The reading of the fields of MOVI_READ (R118). -/
def parseMoviRead (r : Raw) : Option Instr :=
  some (.moviRead r.fr r.rd r.ra (BitVec.ofNat 10 (r.m 0 10)))

/-- The reading of the fields of MOVI_WRITE (R118). -/
def parseMoviWrite (r : Raw) : Option Instr :=
  some (.moviWrite r.fr r.ra r.rb (BitVec.ofNat 10 (r.m 0 10)))

/-- The reading of the fields of AND (R121). -/
def parseAnd (r : Raw) : Option Instr :=
  some (.and r.fr r.rd r.ra r.sb)

/-- The reading of the fields of OR (R121). -/
def parseOr (r : Raw) : Option Instr :=
  some (.or r.fr r.rd r.ra r.sb)

/-- The reading of the fields of XOR (R121). -/
def parseXor (r : Raw) : Option Instr :=
  some (.xor r.fr r.rd r.ra r.sb)

/-- The reading of the fields of ANDN (R121). -/
def parseAndn (r : Raw) : Option Instr :=
  some (.andn r.fr r.rd r.ra r.sb)

/-- The reading of the fields of SHL (R122). -/
def parseShl (r : Raw) : Option Instr :=
  some (.shl r.fr r.rd r.ra r.sb)

/-- The reading of the fields of SHR (R122). -/
def parseShr (r : Raw) : Option Instr :=
  some (.shr r.fr r.rd r.ra r.sb)

/-- The reading of the fields of SAR (R122). -/
def parseSar (r : Raw) : Option Instr :=
  some (.sar r.fr r.rd r.ra r.sb)

/-- The reading of the fields of ROT (R122). -/
def parseRot (r : Raw) : Option Instr :=
  some (.rot r.fr r.rd r.ra r.sb)

/-- The reading of the fields of POPC (R123). -/
def parsePopc (r : Raw) : Option Instr :=
  some (.popc r.fr r.rd r.ra)

/-- The reading of the fields of CLZ (R123). -/
def parseClz (r : Raw) : Option Instr :=
  some (.clz r.fr r.rd r.ra)

/-- The reading of the fields of BREV (R123). -/
def parseBrev (r : Raw) : Option Instr :=
  some (.brev r.fr r.rd r.ra)

/-- The reading of the fields of BFX (R124). -/
def parseBfx (r : Raw) : Option Instr :=
  some (.bfx r.fr r.rd r.sa r.sb (r.m 0 1 == 1))

/-- The reading of the fields of BFI (R125). -/
def parseBfi (r : Raw) : Option Instr :=
  some (.bfi r.fr r.rd r.sa r.sb r.sc)

/-- The reading of the fields of LOP3 (R126). -/
def parseLop3 (r : Raw) : Option Instr :=
  some (.lop3 r.fr r.rd r.sa r.sb r.sc (BitVec.ofNat 8 (r.m 0 8)))

/-- The reading of the fields of ICMP (R127). -/
def parseIcmp (r : Raw) : Option Instr :=
  (Cond.ofCode (r.m 0 3)).bind fun cond =>
  some (.icmp r.fr r.rd r.rc r.sa r.sb cond (r.m 3 1 == 1))

/-- The reading of the fields of FCMP (R128). -/
def parseFcmp (r : Raw) : Option Instr :=
  (FCond.ofCode (r.m 0 3)).bind fun cond =>
  (FTy.ofCode (r.m 4 2)).bind fun t =>
  some (.fcmp r.fr r.rd r.rc r.sa r.sb cond (r.m 3 1 == 1) t)

/-- The reading of the fields of FCLASS (R129). -/
def parseFclass (r : Raw) : Option Instr :=
  (FTy.ofCode (r.m 10 2)).bind fun t =>
  some (.fclass r.fr r.rd r.ra (BitVec.ofNat 10 (r.m 0 10)) t)

/-- The reading of the fields of VOTE (R130). -/
def parseVote (r : Raw) : Option Instr :=
  (VoteOp.ofCode r.sub).bind fun op =>
  some (.vote r.fr op r.rd r.ra)

/-- The reading of the fields of MATCHW (R131). -/
def parseMatchw (r : Raw) : Option Instr :=
  (boolOfCode r.sub).bind fun wide =>
  some (.matchw r.fr wide r.rd r.rc r.ra)

/-- The reading of the fields of FADD (R134). -/
def parseFadd (r : Raw) : Option Instr :=
  (Rnd.ofCode (r.m 0 3)).bind fun rnd =>
  some (.fadd r.fr r.rd r.sa r.sb rnd (r.m 3 1 == 1) (r.m 4 1 == 1) (r.m 5 1 == 1) (r.m 6 1 == 1) (r.m 7 1 == 1))

/-- The reading of the fields of FSUB (R134). -/
def parseFsub (r : Raw) : Option Instr :=
  (Rnd.ofCode (r.m 0 3)).bind fun rnd =>
  some (.fsub r.fr r.rd r.sa r.sb rnd (r.m 3 1 == 1) (r.m 4 1 == 1) (r.m 5 1 == 1) (r.m 6 1 == 1) (r.m 7 1 == 1))

/-- The reading of the fields of FMUL (R134). -/
def parseFmul (r : Raw) : Option Instr :=
  (Rnd.ofCode (r.m 0 3)).bind fun rnd =>
  some (.fmul r.fr r.rd r.sa r.sb rnd (r.m 3 1 == 1) (r.m 4 1 == 1) (r.m 5 1 == 1) (r.m 6 1 == 1) (r.m 7 1 == 1))

/-- The reading of the fields of FFMA (R134). -/
def parseFfma (r : Raw) : Option Instr :=
  (Rnd.ofCode (r.m 0 3)).bind fun rnd =>
  some (.ffma r.fr r.rd r.sa r.sb r.sc rnd (r.m 3 1 == 1) (r.m 4 1 == 1) (r.m 5 1 == 1) (r.m 6 1 == 1) (r.m 7 1 == 1) (r.m 8 1 == 1) (r.m 9 1 == 1))

/-- The reading of the fields of FMIN (R135). -/
def parseFmin (r : Raw) : Option Instr :=
  some (.fmin r.fr r.rd r.ra r.sb)

/-- The reading of the fields of FMAX (R135). -/
def parseFmax (r : Raw) : Option Instr :=
  some (.fmax r.fr r.rd r.ra r.sb)

/-- The reading of the fields of FRCP (R136). -/
def parseFrcp (r : Raw) : Option Instr :=
  some (.frcp r.fr r.rd r.ra)

/-- The reading of the fields of FRSQ (R136). -/
def parseFrsq (r : Raw) : Option Instr :=
  some (.frsq r.fr r.rd r.ra)

/-- The reading of the fields of FSQRT (R137). -/
def parseFsqrt (r : Raw) : Option Instr :=
  (Rnd.ofCode (r.m 0 3)).bind fun rnd =>
  some (.fsqrt r.fr r.rd r.ra rnd)

/-- The reading of the fields of FEXP2 (R136). -/
def parseFexp2 (r : Raw) : Option Instr :=
  some (.fexp2 r.fr r.rd r.ra)

/-- The reading of the fields of FLOG2 (R136). -/
def parseFlog2 (r : Raw) : Option Instr :=
  some (.flog2 r.fr r.rd r.ra)

/-- The reading of the fields of FSINCOS (R138). -/
def parseFsincos (r : Raw) : Option Instr :=
  some (.fsincos r.fr r.rd r.rc r.ra)

/-- The reading of the fields of FTANH (R136). -/
def parseFtanh (r : Raw) : Option Instr :=
  some (.ftanh r.fr r.rd r.ra)

/-- The reading of the fields of FDIV (R137). -/
def parseFdiv (r : Raw) : Option Instr :=
  (Rnd.ofCode (r.m 0 3)).bind fun rnd =>
  some (.fdiv r.fr r.rd r.ra r.rb rnd)

/-- The reading of the fields of H2ADD (R140). -/
def parseH2add (r : Raw) : Option Instr :=
  (Rnd.ofCode (r.m 0 3)).bind fun rnd =>
  some (.h2add r.fr r.rd r.ra r.sb rnd (r.m 3 1 == 1) (r.m 4 1 == 1) (r.m 5 1 == 1))

/-- The reading of the fields of H2MUL (R140). -/
def parseH2mul (r : Raw) : Option Instr :=
  (Rnd.ofCode (r.m 0 3)).bind fun rnd =>
  some (.h2mul r.fr r.rd r.ra r.sb rnd (r.m 3 1 == 1) (r.m 4 1 == 1) (r.m 5 1 == 1))

/-- The reading of the fields of H2FMA (R140). -/
def parseH2fma (r : Raw) : Option Instr :=
  (Rnd.ofCode (r.m 0 3)).bind fun rnd =>
  some (.h2fma r.fr r.rd r.sa r.sb r.sc rnd (r.m 3 1 == 1) (r.m 4 1 == 1) (r.m 5 1 == 1) (r.m 6 1 == 1))

/-- The reading of the fields of H2MIN (R140). -/
def parseH2min (r : Raw) : Option Instr :=
  some (.h2min r.fr r.rd r.ra r.sb (r.m 3 1 == 1))

/-- The reading of the fields of H2MAX (R140). -/
def parseH2max (r : Raw) : Option Instr :=
  some (.h2max r.fr r.rd r.ra r.sb (r.m 3 1 == 1))

/-- The reading of the fields of CVT (R143). -/
def parseCvt (r : Raw) : Option Instr :=
  (Elem.ofCode (r.m 0 5)).bind fun sty =>
  (Elem.ofCode (r.m 5 5)).bind fun dt =>
  (Rnd.ofCode (r.m 10 3)).bind fun rnd =>
  some (.cvt r.fr r.rd r.ra sty dt rnd)

/-- The reading of the fields of CVTI (R144). -/
def parseCvti (r : Raw) : Option Instr :=
  (Elem.ofCode (r.m 0 5)).bind fun sty =>
  (Elem.ofCode (r.m 5 5)).bind fun dt =>
  (Rnd.ofCode (r.m 10 3)).bind fun rnd =>
  some (.cvti r.fr r.rd r.ra sty dt rnd)

/-- The reading of the fields of CVTF (R145). -/
def parseCvtf (r : Raw) : Option Instr :=
  (Elem.ofCode (r.m 0 5)).bind fun sty =>
  (Elem.ofCode (r.m 5 5)).bind fun dt =>
  (Rnd.ofCode (r.m 10 3)).bind fun rnd =>
  some (.cvtf r.fr r.rd r.ra sty dt rnd)

/-- The reading of the fields of PACK2 (R146). -/
def parsePack2 (r : Raw) : Option Instr :=
  (Elem.ofCode (r.m 0 5)).bind fun dt =>
  (Rnd.ofCode (r.m 5 3)).bind fun rnd =>
  some (.pack2 r.fr r.rd r.ra r.rb (if r.m 11 1 = 1 then some r.rc else none) dt rnd (BitVec.ofNat 3 (r.m 8 3)))

/-- The reading of the fields of UNPK2 (R147). -/
def parseUnpk2 (r : Raw) : Option Instr :=
  (Elem.ofCode (r.m 0 5)).bind fun sty =>
  some (.unpk2 r.fr r.rd r.rc r.ra sty (BitVec.ofNat 3 (r.m 8 3)))

/-- The reading of the fields of SRND (R148). -/
def parseSrnd (r : Raw) : Option Instr :=
  (Elem.ofCode (r.m 0 5)).bind fun dt =>
  some (.srnd r.fr r.rd r.sa r.sb dt (BitVec.ofNat 8 (r.m 5 8)))

/-- The reading of the fields of BMAX (R155). -/
def parseBmax (r : Raw) : Option Instr :=
  (MaxKind.ofCode r.sub).bind fun kind =>
  (FTy.ofCode (r.m 0 2)).bind fun t =>
  some (.bmax r.fr kind r.rd r.ra t)

/-- The reading of the fields of BMIN (R155). -/
def parseBmin (r : Raw) : Option Instr :=
  (MaxKind.ofCode r.sub).bind fun kind =>
  (FTy.ofCode (r.m 0 2)).bind fun t =>
  some (.bmin r.fr kind r.rd r.ra t)

/-- The reading of the fields of BSCALE (R156). -/
def parseBscale (r : Raw) : Option Instr :=
  (SMode.ofCode r.sub).bind fun mode =>
  (BFmt.ofCode (r.m 0 3)).bind fun bf =>
  some (.bscale r.fr mode r.rd r.ra bf)

/-- The reading of the fields of BZP (R157). -/
def parseBzp (r : Raw) : Option Instr :=
  (ZFmt.ofCode r.sub).bind fun zf =>
  some (.bzp r.fr zf r.rd r.ra r.rb)

/-- The reading of the fields of BQUANT (R159). -/
def parseBquant (r : Raw) : Option Instr :=
  (QMode.ofCode r.sub).bind fun mode =>
  (BFmt.ofCode (r.m 0 3)).bind fun bf =>
  (Rnd.ofCode (r.m 3 3)).bind fun rnd =>
  some (.bquant r.fr mode r.rd r.rc r.sa (if mode = .given then some r.sb else none) bf rnd (BitVec.ofNat 8 (r.m 6 8)))

/-- The reading of the fields of BDEQ (R160). -/
def parseBdeq (r : Raw) : Option Instr :=
  (BFmt.ofCode (r.m 0 3)).bind fun bf =>
  (DTy.ofCode (r.m 3 2)).bind fun dt =>
  (Rnd.ofCode (r.m 5 3)).bind fun rnd =>
  some (.bdeq r.fr r.rd r.sa r.sb bf dt rnd)

/-- The reading of the fields of BPACK (R162). -/
def parseBpack (r : Raw) : Option Instr :=
  (BFmt.ofCode (r.m 0 3)).bind fun bf =>
  (Grp.ofCode (r.m 3 2)).bind fun grp =>
  some (.bpack r.fr r.rd r.ra r.rb bf grp (BitVec.ofNat 2 (r.m 5 2)))

/-- The reading of the fields of BUNPK (R163). -/
def parseBunpk (r : Raw) : Option Instr :=
  (BFmt.ofCode (r.m 0 3)).bind fun bf =>
  (Grp.ofCode (r.m 3 2)).bind fun grp =>
  some (.bunpk r.fr r.rd r.rc r.ra bf grp (BitVec.ofNat 2 (r.m 5 2)))

/-- The reading of the fields of BHEALTH (R164). -/
def parseBhealth (r : Raw) : Option Instr :=
  (QMode.ofCode r.sub).bind fun mode =>
  (BFmt.ofCode (r.m 0 3)).bind fun bf =>
  (Rnd.ofCode (r.m 3 3)).bind fun rnd =>
  some (.bhealth r.fr mode r.rd r.ra (if mode = .given then some r.rb else none) bf rnd)

/-- The reading of the fields of BRESCALE (R161). -/
def parseBrescale (r : Raw) : Option Instr :=
  (BFmt.ofCode (r.m 0 3)).bind fun bf =>
  (Rnd.ofCode (r.m 3 3)).bind fun rnd =>
  some (.brescale r.fr r.rd r.sa r.sb r.sc bf rnd (BitVec.ofNat 8 (r.m 6 8)))

/-- The reading of the fields of SHFL (R166). -/
def parseShfl (r : Raw) : Option Instr :=
  (ShflMode.ofCode r.sub).bind fun mode =>
  some (.shfl r.fr mode r.rd r.rc r.sa r.sb (BitVec.ofNat 3 (r.m 0 3)))

/-- The reading of the fields of REDW (R168). -/
def parseRedw (r : Raw) : Option Instr :=
  (RedOp.ofCode r.sub).bind fun op =>
  some (.redw r.fr op r.rd r.ra)

/-- The reading of the fields of SCANW (R168). -/
def parseScanw (r : Raw) : Option Instr :=
  (RedOp.ofCode r.sub).bind fun op =>
  some (.scanw r.fr op r.rd r.ra (r.m 0 1 == 1))

/-- The reading of the fields of BCASTW (R169). The literal may replace the source that the rule names, and no other.
(DEDUCED, log 92.) -/
def parseBcastw (r : Raw) : Option Instr :=
  some (.bcastw r.fr r.rd r.ra (if (r.m 0 1 == 1) = false then some r.sb else none) (r.m 0 1 == 1))

/-- The reading of the fields of LD (R212). -/
def parseLd (r : Raw) : Option Instr :=
  (Space.ofCode (r.m 0 3)).bind fun spc =>
  (Size.ofCode (r.m 3 3)).bind fun sz =>
  (Hint.ofCode (r.m 6 2)).bind fun ch =>
  some (.ld r.fr r.rd r.ra r.offset spc sz ch)

/-- The reading of the fields of ST (R212). -/
def parseSt (r : Raw) : Option Instr :=
  (Space.ofCode (r.m 0 3)).bind fun spc =>
  (Size.ofCode (r.m 3 3)).bind fun sz =>
  (Hint.ofCode (r.m 6 2)).bind fun ch =>
  some (.st r.fr r.ra r.offset r.sc spc sz ch)

/-- The reading of the fields of LDS (R213). -/
def parseLds (r : Raw) : Option Instr :=
  (Space.ofCode (r.m 0 3)).bind fun spc =>
  (Size.ofCode (r.m 3 3)).bind fun sz =>
  some (.lds r.fr r.rd r.ra r.offset spc sz)

/-- The reading of the fields of STS (R213). -/
def parseSts (r : Raw) : Option Instr :=
  (Space.ofCode (r.m 0 3)).bind fun spc =>
  (Size.ofCode (r.m 3 3)).bind fun sz =>
  some (.sts r.fr r.ra r.offset r.rc spc sz)

/-- The reading of the fields of LDBS (R215). -/
def parseLdbs (r : Raw) : Option Instr :=
  (boolOfCode r.sub).bind fun pk =>
  (BFmt.ofCode (r.m 0 3)).bind fun bf =>
  (Grp.ofCode (r.m 3 2)).bind fun grp =>
  some (.ldbs r.fr pk r.rd r.ra r.offset bf grp (BitVec.ofNat 2 (r.m 5 2)) (r.m 7 1 == 1))

/-- The reading of the fields of STBS (R215). -/
def parseStbs (r : Raw) : Option Instr :=
  (boolOfCode r.sub).bind fun pk =>
  (BFmt.ofCode (r.m 0 3)).bind fun bf =>
  (Grp.ofCode (r.m 3 2)).bind fun grp =>
  some (.stbs r.fr pk r.ra r.offset r.rc bf grp (BitVec.ofNat 2 (r.m 5 2)) (r.m 7 1 == 1))

/-- The reading of the fields of LDSC (R217). -/
def parseLdsc (r : Raw) : Option Instr :=
  some (.ldsc r.fr r.rd r.rc r.ra r.rb)

/-- The reading of the fields of STSC (R217). -/
def parseStsc (r : Raw) : Option Instr :=
  some (.stsc r.fr r.ra r.rb r.rc (r.m 0 1 == 1))

/-- The reading of the fields of LDAQ (R214). -/
def parseLdaq (r : Raw) : Option Instr :=
  (Space.ofCode (r.m 0 3)).bind fun spc =>
  (Size.ofCode (r.m 3 3)).bind fun sz =>
  (Scope.ofCode (r.m 8 4)).bind fun scope =>
  some (.ldaq r.fr r.rd r.ra r.offset spc sz scope)

/-- The reading of the fields of STRL (R214). -/
def parseStrl (r : Raw) : Option Instr :=
  (Space.ofCode (r.m 0 3)).bind fun spc =>
  (Size.ofCode (r.m 3 3)).bind fun sz =>
  (Scope.ofCode (r.m 8 4)).bind fun scope =>
  some (.strl r.fr r.ra r.offset r.rc spc sz scope)

/-- The reading of the fields of PREF (R218). -/
def parsePref (r : Raw) : Option Instr :=
  (PLevel.ofCode r.sub).bind fun lvl =>
  (Space.ofCode (r.m 0 3)).bind fun spc =>
  some (.pref r.fr lvl r.ra r.offset spc)

/-- The reading of the fields of CFLUSH_WB (R219). -/
def parseCflushWb (r : Raw) : Option Instr :=
  some (.cflushWb r.fr r.ra)

/-- The reading of the fields of CFLUSH_WBINV (R219). -/
def parseCflushWbinv (r : Raw) : Option Instr :=
  some (.cflushWbinv r.fr r.ra)

/-- The reading of the fields of CFLUSH_WBALL (R219). -/
def parseCflushWball (r : Raw) : Option Instr :=
  some (.cflushWball r.fr)

/-- The reading of the fields of CFLUSH_WBINVALL (R219). -/
def parseCflushWbinvall (r : Raw) : Option Instr :=
  some (.cflushWbinvall r.fr)

/-- The reading of the fields of WAYSET (R220). -/
def parseWayset (r : Raw) : Option Instr :=
  some (.wayset r.fr r.rd r.ra)

/-- The reading of the fields of ATOM (R221). -/
def parseAtom (r : Raw) : Option Instr :=
  (AtomOp.ofCode r.sub).bind fun op =>
  (Space.ofCode (r.m 0 3)).bind fun spc =>
  (Size.ofCode (r.m 3 3)).bind fun sz =>
  (Scope.ofCode (r.m 8 4)).bind fun scope =>
  (Order.ofCode (r.m 12 2)).bind fun ord =>
  some (.atom r.fr op r.rd r.ra r.offset r.sc spc sz scope ord)

/-- The reading of the fields of ATOMC (R222). -/
def parseAtomc (r : Raw) : Option Instr :=
  (Space.ofCode (r.m 0 3)).bind fun spc =>
  (Size.ofCode (r.m 3 3)).bind fun sz =>
  (Scope.ofCode (r.m 8 4)).bind fun scope =>
  (Order.ofCode (r.m 12 2)).bind fun ord =>
  some (.atomc r.fr r.rd r.ra r.offset r.rc spc sz scope ord)

/-- The reading of the fields of RED (R221). -/
def parseRed (r : Raw) : Option Instr :=
  (AtomOp.ofCode r.sub).bind fun op =>
  (Space.ofCode (r.m 0 3)).bind fun spc =>
  (Size.ofCode (r.m 3 3)).bind fun sz =>
  (Scope.ofCode (r.m 8 4)).bind fun scope =>
  (Order.ofCode (r.m 12 2)).bind fun ord =>
  some (.red r.fr op r.ra r.offset r.sc spc sz scope ord)

/-- The reading of the fields of FENCE_FULL (R224). -/
def parseFenceFull (r : Raw) : Option Instr :=
  (Scope.ofCode (r.m 8 4)).bind fun scope =>
  some (.fenceFull r.fr scope)

/-- The reading of the fields of FENCE_ACQ (R224). -/
def parseFenceAcq (r : Raw) : Option Instr :=
  (Scope.ofCode (r.m 8 4)).bind fun scope =>
  some (.fenceAcq r.fr scope)

/-- The reading of the fields of FENCE_REL (R224). -/
def parseFenceRel (r : Raw) : Option Instr :=
  (Scope.ofCode (r.m 8 4)).bind fun scope =>
  some (.fenceRel r.fr scope)

/-- The reading of the fields of CHUNK (R225). -/
def parseChunk (r : Raw) : Option Instr :=
  some (.chunk r.fr r.rd r.ra)

/-- The reading of the fields of SLX_COPY (R228). -/
def parseSlxCopy (r : Raw) : Option Instr :=
  some (.slxCopy r.fr r.rd (if r.m 0 1 = 1 then some r.sa else none) (if r.m 1 1 = 1 then some r.sb else none) r.rc)

/-- The reading of the fields of SLX_CVT (R228). -/
def parseSlxCvt (r : Raw) : Option Instr :=
  some (.slxCvt r.fr r.rd (if r.m 0 1 = 1 then some r.sa else none) (if r.m 1 1 = 1 then some r.sb else none) r.rc)

/-- The reading of the fields of SLX_RESCALE (R228). -/
def parseSlxRescale (r : Raw) : Option Instr :=
  some (.slxRescale r.fr r.rd (if r.m 0 1 = 1 then some r.sa else none) (if r.m 1 1 = 1 then some r.sb else none) r.rc)

/-- The reading of the fields of SLX_TR (R369). -/
def parseSlxTr (r : Raw) : Option Instr :=
  some (.slxTr r.fr r.rd (if r.m 0 1 = 1 then some r.sa else none) (if r.m 1 1 = 1 then some r.sb else none) r.rc)

/-- The reading of the fields of SLX_FILL (R228). -/
def parseSlxFill (r : Raw) : Option Instr :=
  some (.slxFill r.fr r.rd (if r.m 0 1 = 1 then some r.sa else none) (if r.m 1 1 = 1 then some r.sb else none) r.rc)

/-- The reading of the fields of SLX_KVG (R391). -/
def parseSlxKvg (r : Raw) : Option Instr :=
  some (.slxKvg r.fr r.rd (if r.m 0 1 = 1 then some r.sa else none) (if r.m 1 1 = 1 then some r.sb else none) r.rc)

/-- The reading of the fields of SLX_TAGCK (R371). -/
def parseSlxTagck (r : Raw) : Option Instr :=
  some (.slxTagck r.fr r.rd (if r.m 0 1 = 1 then some r.sa else none) (if r.m 1 1 = 1 then some r.sb else none) r.rc)

/-- The reading of the fields of BSEAL (R231). -/
def parseBseal (r : Raw) : Option Instr :=
  some (.bseal r.fr r.rd)

/-- The reading of the fields of BWAIT (R231). -/
def parseBwait (r : Raw) : Option Instr :=
  some (.bwait r.fr r.rd r.ra)

/-- The reading of the fields of FLPUT (R234). -/
def parseFlput (r : Raw) : Option Instr :=
  some (.flput r.fr r.rd r.ra (BitVec.ofNat 4 (r.m 0 4)))

/-- The reading of the fields of FLGET (R234). -/
def parseFlget (r : Raw) : Option Instr :=
  some (.flget r.fr r.rd r.ra (BitVec.ofNat 4 (r.m 0 4)))

/-- The reading of the fields of FLWAIT_DATA (R367). -/
def parseFlwaitData (r : Raw) : Option Instr :=
  some (.flwaitData r.fr r.rd r.ra (BitVec.ofNat 4 (r.m 0 4)))

/-- The reading of the fields of FLWAIT_ROOM (R367). -/
def parseFlwaitRoom (r : Raw) : Option Instr :=
  some (.flwaitRoom r.fr r.rd r.ra (BitVec.ofNat 4 (r.m 0 4)))

/-- The reading of the fields of WEIRSET_SET (R235). -/
def parseWeirsetSet (r : Raw) : Option Instr :=
  some (.weirsetSet r.fr r.ra (BitVec.ofNat 5 (r.m 0 5)))

/-- The reading of the fields of WEIRSET_CLR (R235). -/
def parseWeirsetClr (r : Raw) : Option Instr :=
  some (.weirsetClr r.fr (BitVec.ofNat 5 (r.m 0 5)))

/-- The reading of the fields of ENGSYNC_CMP (R236). -/
def parseEngsyncCmp (r : Raw) : Option Instr :=
  some (.engsyncCmp r.fr)

/-- The reading of the fields of ENGSYNC_PUB (R236). -/
def parseEngsyncPub (r : Raw) : Option Instr :=
  (Scope.ofCode (r.m 8 4)).bind fun scope =>
  some (.engsyncPub r.fr scope)

/-- The reading of the fields of CONVENE (R170). -/
def parseConvene (r : Raw) : Option Instr :=
  some (.convene r.fr r.rd (BitVec.ofNat 2 (r.m 0 2)) (BitVec.ofNat 3 (r.m 2 3)))

/-- The reading of the fields of DISBAND (R172). -/
def parseDisband (r : Raw) : Option Instr :=
  some (.disband r.fr)

/-- The reading of the fields of TMMA (R182). -/
def parseTmma (r : Raw) : Option Instr :=
  (Header.ofWord (BitVec.ofNat 32 r.lit)).bind fun hdr =>
  some (.tmma r.fr r.ra r.rb hdr)

/-- The reading of the fields of TMMAW (R182). -/
def parseTmmaw (r : Raw) : Option Instr :=
  (Grp.ofCode (r.m 0 2)).bind fun grp =>
  (Header.ofWord (BitVec.ofNat 32 r.lit)).bind fun hdr =>
  some (.tmmaw r.fr r.ra r.rb hdr grp)

/-- The reading of the fields of TMMAZ (R182). -/
def parseTmmaz (r : Raw) : Option Instr :=
  (Grp.ofCode (r.m 0 2)).bind fun grp =>
  (Header.ofWord (BitVec.ofNat 32 r.lit)).bind fun hdr =>
  some (.tmmaz r.fr r.ra r.rb hdr grp)

/-- The reading of the fields of TMMAS (R182). -/
def parseTmmas (r : Raw) : Option Instr :=
  (Header.ofWord (BitVec.ofNat 32 r.lit)).bind fun hdr =>
  some (.tmmas r.fr r.ra r.rb hdr)

/-- The reading of the fields of TACC_ZERO (R184). -/
def parseTaccZero (r : Raw) : Option Instr :=
  some (.taccZero r.fr r.sa)

/-- The reading of the fields of TACC_LIVE (R184). -/
def parseTaccLive (r : Raw) : Option Instr :=
  some (.taccLive r.fr r.sa)

/-- The reading of the fields of TACC_DEAD (R184). -/
def parseTaccDead (r : Raw) : Option Instr :=
  some (.taccDead r.fr r.sa)

/-- The reading of the fields of TACC_MUL (R184). -/
def parseTaccMul (r : Raw) : Option Instr :=
  some (.taccMul r.fr r.sa r.sc)

/-- The reading of the fields of TRD_REG (R185). -/
def parseTrdReg (r : Raw) : Option Instr :=
  (Elem.ofCode (r.m 0 5)).bind fun dt =>
  (Rnd.ofCode (r.m 7 3)).bind fun rnd =>
  some (.trdReg r.fr r.rd r.sa dt (BitVec.ofNat 2 (r.m 5 2)) rnd)

/-- The reading of the fields of TRD_REC (R185). (DEDUCED, log 12.) -/
def parseTrdRec (r : Raw) : Option Instr :=
  (Elem.ofCode (r.m 0 5)).bind fun dt =>
  (Rnd.ofCode (r.m 5 3)).bind fun rnd =>
  some (.trdRec r.fr r.sa r.rb r.sc dt rnd (r.m 8 1 == 1))

/-- The reading of the fields of TWR_REG (R186). -/
def parseTwrReg (r : Raw) : Option Instr :=
  (Elem.ofCode (r.m 0 5)).bind fun dt =>
  some (.twrReg r.fr r.rd r.sa dt (BitVec.ofNat 2 (r.m 5 2)))

/-- The reading of the fields of TWR_REC (R186). -/
def parseTwrRec (r : Raw) : Option Instr :=
  (Elem.ofCode (r.m 0 5)).bind fun dt =>
  some (.twrRec r.fr r.sa r.rb dt)

/-- The reading of the fields of TEW (R188). The literal may replace any source. (DEDUCED, log 101.) -/
def parseTew (r : Raw) : Option Instr :=
  (TewFn.ofCode r.sub).bind fun fn =>
  some (.tew r.fr fn r.sa (if fn.binary then some r.sb else none) (if fn = .scl then some r.sc else none) (BitVec.ofNat 11 (r.m 0 11)) (r.m 11 1 == 1) (r.m 12 1 == 1))

/-- The reading of the fields of TRED (R189). -/
def parseTred (r : Raw) : Option Instr :=
  (TredOp.ofCode r.sub).bind fun op =>
  some (.tred r.fr op r.sa (BitVec.ofNat 11 (r.m 0 11)) (r.m 11 1 == 1))

/-- The reading of the fields of TSMX (R190). -/
def parseTsmx (r : Raw) : Option Instr :=
  some (.tsmx r.fr r.sa (if r.sc = .reg 0 then none else some r.sc) (BitVec.ofNat 11 (r.m 0 11)) (r.m 11 1 == 1))

/-- The reading of the fields of TNORM (R191). -/
def parseTnorm (r : Raw) : Option Instr :=
  some (.tnorm r.fr r.sa r.sc (BitVec.ofNat 11 (r.m 0 11)) (r.m 11 1 == 1))

/-- The reading of the fields of TCVT (R192). -/
def parseTcvt (r : Raw) : Option Instr :=
  (SMode.ofCode r.sub).bind fun mode =>
  (BFmt.ofCode (r.m 0 3)).bind fun bf =>
  (Rnd.ofCode (r.m 3 3)).bind fun rnd =>
  some (.tcvt r.fr mode r.sa bf rnd (BitVec.ofNat 8 (r.m 6 8)))

/-- The reading of the fields of BSLOAD (R193). -/
def parseBsload (r : Raw) : Option Instr :=
  some (.bsload r.fr r.ra r.rb (r.m 0 1 == 1))

/-- The reading of the fields of RCFENCE (R195). -/
def parseRcfence (r : Raw) : Option Instr :=
  some (.rcfence r.fr)

/-- The reading of the fields of KVXLT (R386). -/
def parseKvxlt (r : Raw) : Option Instr :=
  some (.kvxlt r.fr r.rd r.rc r.sa r.sb (BitVec.ofNat 4 (r.m 0 4)) (r.m 4 1 == 1))

/-- The reading of the fields of KVAPP (R387). -/
def parseKvapp (r : Raw) : Option Instr :=
  some (.kvapp r.fr r.rd r.rc r.sa (BitVec.ofNat 4 (r.m 0 4)))

/-- The reading of the fields of ROLE_GET (R196). -/
def parseRoleGet (r : Raw) : Option Instr :=
  some (.roleGet r.fr r.rd)

/-- The reading of the fields of ROLE_SET (R196). -/
def parseRoleSet (r : Raw) : Option Instr :=
  (Role.ofCode (r.m 0 3)).bind fun role =>
  some (.roleSet r.fr role)

/-- The reading of the fields of TBAR_INIT (R198). -/
def parseTbarInit (r : Raw) : Option Instr :=
  some (.tbarInit r.fr r.rd r.ra (BitVec.ofNat 4 (r.m 0 4)))

/-- The reading of the fields of TBAR_ARRIVE (R198). -/
def parseTbarArrive (r : Raw) : Option Instr :=
  some (.tbarArrive r.fr r.rd r.ra (BitVec.ofNat 4 (r.m 0 4)))

/-- The reading of the fields of TBAR_WAIT (R198). -/
def parseTbarWait (r : Raw) : Option Instr :=
  some (.tbarWait r.fr r.rd r.ra (BitVec.ofNat 4 (r.m 0 4)))

/-- The reading of the fields of TBAR_ARWT (R198). -/
def parseTbarArwt (r : Raw) : Option Instr :=
  some (.tbarArwt r.fr r.rd r.ra (BitVec.ofNat 4 (r.m 0 4)))

/-- The reading of the fields of CFTEST (R206). -/
def parseCftest (r : Raw) : Option Instr :=
  some (.cftest r.fr r.rd r.sa r.sb r.sc)

/-- The reading of the fields of EXITTOK (R392). -/
def parseExittok (r : Raw) : Option Instr :=
  some (.exittok r.fr r.rd r.ra r.rb (BitVec.ofNat 4 (r.m 0 4)))

/-- The reading of the fields of BFWAIT (R204). -/
def parseBfwait (r : Raw) : Option Instr :=
  some (.bfwait r.fr r.rd r.ra r.rb (BitVec.ofNat 4 (r.m 0 4)))

/-- The reading of the fields of RECON (R267). -/
def parseRecon (r : Raw) : Option Instr :=
  some (.recon r.fr r.rd r.ra)

/-- The reading of the fields of RECOFF (R268). -/
def parseRecoff (r : Raw) : Option Instr :=
  some (.recoff r.fr)

/-- The reading of the fields of EBB (R413). -/
def parseEbb (r : Raw) : Option Instr :=
  some (.ebb r.fr r.rd r.ra)

/-- The reading of the fields of EBBSTAT (R270). -/
def parseEbbstat (r : Raw) : Option Instr :=
  (EbbField.ofCode r.sub).bind fun fld =>
  some (.ebbstat r.fr fld r.rd r.ra)

/-- The reading of the fields of MIGR_RIFFLE (R271). -/
def parseMigrRiffle (r : Raw) : Option Instr :=
  some (.migrRiffle r.fr r.rd)

/-- The reading of the fields of MIGR_REACH (R271). -/
def parseMigrReach (r : Raw) : Option Instr :=
  some (.migrReach r.fr r.rd)

/-- The reading of the fields of MIGR_CANCEL (R271). -/
def parseMigrCancel (r : Raw) : Option Instr :=
  some (.migrCancel r.fr r.rd)

/-- The reading of the fields of PORTAGE (R430). -/
def parsePortage (r : Raw) : Option Instr :=
  some (.portage r.fr r.offset)

/-- The reading of the fields of BAR_SYNC (R275). -/
def parseBarSync (r : Raw) : Option Instr :=
  some (.barSync r.fr (if r.m 4 1 = 1 then some r.ra else none) (BitVec.ofNat 4 (r.m 0 4)))

/-- The reading of the fields of BAR_ARR (R275). -/
def parseBarArr (r : Raw) : Option Instr :=
  some (.barArr r.fr (if r.m 4 1 = 1 then some r.ra else none) (BitVec.ofNat 4 (r.m 0 4)))

/-- The reading of the fields of GBAR (R276). -/
def parseGbar (r : Raw) : Option Instr :=
  (Scope.ofCode (r.m 8 4)).bind fun scope =>
  some (.gbar r.fr scope)

/-- The reading of the fields of XLOCK (R277). -/
def parseXlock (r : Raw) : Option Instr :=
  some (.xlock r.fr)

/-- The reading of the fields of XFREE (R277). -/
def parseXfree (r : Raw) : Option Instr :=
  some (.xfree r.fr)

/-- The reading of the fields of NMQ (R278). -/
def parseNmq (r : Raw) : Option Instr :=
  (Scope.ofCode (r.m 8 4)).bind fun scope =>
  some (.nmq r.fr r.rd r.ra scope)

/-- The reading of the fields of NMWAIT_WAIT (R279). -/
def parseNmwaitWait (r : Raw) : Option Instr :=
  some (.nmwaitWait r.fr r.rd r.ra)

/-- The reading of the fields of NMWAIT_TEST (R279). -/
def parseNmwaitTest (r : Raw) : Option Instr :=
  some (.nmwaitTest r.fr r.rd r.ra)

/-- The reading of the fields of TQPOP_WAIT (R280). -/
def parseTqpopWait (r : Raw) : Option Instr :=
  some (.tqpopWait r.fr r.rd r.ra)

/-- The reading of the fields of TQPOP_TRY (R280). -/
def parseTqpopTry (r : Raw) : Option Instr :=
  some (.tqpopTry r.fr r.rd r.ra)

/-- The reading of the fields of TQPUSH_WAIT (R280). -/
def parseTqpushWait (r : Raw) : Option Instr :=
  some (.tqpushWait r.fr r.rd r.ra r.rb)

/-- The reading of the fields of TQPUSH_TRY (R280). -/
def parseTqpushTry (r : Raw) : Option Instr :=
  some (.tqpushTry r.fr r.rd r.ra r.rb)

/-- The reading of the fields of TQPUSH_CLOSE (R280). -/
def parseTqpushClose (r : Raw) : Option Instr :=
  some (.tqpushClose r.fr r.rd r.ra)

/-- The reading of the fields of LAUNCH (R281). -/
def parseLaunch (r : Raw) : Option Instr :=
  some (.launch r.fr r.rd r.ra)

/-- The reading of the fields of COLL (R282). The literal may replace the source that the rule names, and no other.
(DEDUCED, log 92.) -/
def parseColl (r : Raw) : Option Instr :=
  (CollOp.ofCode r.sub).bind fun op =>
  some (.coll r.fr op r.rd r.ra r.sb)

/-- The forms of each major opcode (R83); none for an unassigned one. -/
def formsOf (opc : Nat) : List Form :=
  match opc / 16 with
  | 0 => match opc % 16 with
    | 0 => [.s, .e, .w]
    | 1 => [.l, .w]
    | 2 => [.s, .e]
    | 3 => [.l]
    | 4 => [.s]
    | 5 => [.s]
    | 6 => [.e]
    | 7 => [.s]
    | 8 => [.l]
    | 9 => [.l]
    | 10 => [.s]
    | 11 => [.s]
    | 12 => [.e, .w]
    | 13 => [.e]
    | 14 => [.e, .w]
    | 15 => [.l]
    | _ => []
  | 1 => match opc % 16 with
    | 0 => [.s, .l]
    | 1 => [.s, .e, .l, .w]
    | 2 => [.s, .e, .l, .w]
    | 3 => [.s, .l]
    | 4 => [.s, .l]
    | 5 => [.e, .w]
    | 6 => [.s, .l]
    | 7 => [.s, .l]
    | 8 => [.s]
    | 9 => [.s, .e]
    | 10 => [.e, .w]
    | 11 => [.e, .w]
    | 12 => [.e, .w]
    | 13 => [.e, .w]
    | 14 => [.e, .w]
    | 15 => [.e]
    | _ => []
  | 2 => match opc % 16 with
    | 0 => [.s, .l]
    | 1 => [.s, .l]
    | 2 => [.s, .l]
    | 3 => [.s, .l]
    | 4 => [.s, .l]
    | 5 => [.s, .l]
    | 6 => [.s, .l]
    | 7 => [.s, .l]
    | 8 => [.s]
    | 9 => [.s]
    | 10 => [.s]
    | 11 => [.e, .w]
    | 12 => [.e, .w]
    | 13 => [.e, .w]
    | _ => []
  | 3 => match opc % 16 with
    | 0 => [.e, .w]
    | 1 => [.e, .w]
    | 2 => [.e]
    | 3 => [.e]
    | 4 => [.e]
    | _ => []
  | 4 => match opc % 16 with
    | 0 => [.s, .e, .l, .w]
    | 1 => [.s, .e, .l, .w]
    | 2 => [.s, .e, .l, .w]
    | 3 => [.e, .w]
    | 4 => [.s, .l]
    | 5 => [.s, .l]
    | 6 => [.s]
    | 7 => [.s]
    | 8 => [.s, .e]
    | 9 => [.s]
    | 10 => [.s]
    | 11 => [.e]
    | 12 => [.s]
    | 13 => [.s, .e]
    | _ => []
  | 5 => match opc % 16 with
    | 0 => [.s, .e, .l]
    | 1 => [.s, .e, .l]
    | 2 => [.e, .w]
    | 3 => [.s, .l]
    | 4 => [.s, .l]
    | 8 => [.e]
    | 9 => [.e]
    | 10 => [.e]
    | 11 => [.e]
    | 12 => [.e]
    | 13 => [.e, .w]
    | _ => []
  | 6 => match opc % 16 with
    | 0 => [.e]
    | 1 => [.e]
    | 2 => [.e]
    | 3 => [.e]
    | 4 => [.e, .w]
    | 5 => [.e, .w]
    | 6 => [.e]
    | 7 => [.e]
    | 8 => [.e]
    | 9 => [.e, .w]
    | _ => []
  | 7 => match opc % 16 with
    | 0 => [.e, .w]
    | 1 => [.e]
    | 2 => [.e]
    | 3 => [.e, .w]
    | _ => []
  | 8 => match opc % 16 with
    | 0 => [.e, .w]
    | 1 => [.e, .w]
    | 2 => [.e, .w]
    | 3 => [.e, .w]
    | 4 => [.e, .w]
    | 5 => [.e, .w]
    | 6 => [.e]
    | 7 => [.e]
    | 8 => [.e, .w]
    | 9 => [.e, .w]
    | 10 => [.e, .w]
    | 11 => [.e]
    | 12 => [.e]
    | _ => []
  | 9 => match opc % 16 with
    | 0 => [.e, .w]
    | 1 => [.e, .w]
    | 2 => [.e, .w]
    | 3 => [.e]
    | 4 => [.e]
    | _ => []
  | 10 => match opc % 16 with
    | 0 => [.e, .w]
    | 1 => [.s]
    | 2 => [.e]
    | 3 => [.e]
    | 4 => [.e]
    | 5 => [.e]
    | 6 => [.e]
    | 7 => [.e]
    | _ => []
  | 11 => match opc % 16 with
    | 0 => [.e]
    | 1 => [.s]
    | 2 => [.w]
    | 3 => [.w]
    | 4 => [.w]
    | 5 => [.e, .w]
    | 6 => [.e, .w]
    | 7 => [.e, .w]
    | 8 => [.e, .w]
    | 9 => [.e, .w]
    | 10 => [.e, .w]
    | 11 => [.e, .w]
    | 12 => [.e, .w]
    | 13 => [.e]
    | 14 => [.s]
    | 15 => [.w]
    | _ => []
  | 12 => match opc % 16 with
    | 0 => [.e, .w]
    | 1 => [.e, .w]
    | 2 => [.e]
    | 3 => [.e]
    | 4 => [.e, .w]
    | 5 => [.e]
    | 6 => [.e]
    | _ => []
  | 13 => match opc % 16 with
    | 0 => [.e]
    | 1 => [.s]
    | 2 => [.e]
    | 3 => [.e]
    | 4 => [.e]
    | 5 => [.l]
    | _ => []
  | 14 => match opc % 16 with
    | 0 => [.e]
    | 1 => [.e]
    | 2 => [.s]
    | 3 => [.s]
    | 4 => [.e]
    | 5 => [.e]
    | 6 => [.e]
    | 7 => [.e]
    | 8 => [.e]
    | 9 => [.e, .w]
    | _ => []
  | _ => []

/-- The opcodes 0x00 to 0x0F of R83. -/
def parseRow0 (r : Raw) : Option Instr :=
  match r.opc % 16 with
  | 0 => if r.sub = 0 then parseNop r else none
  | 1 => match r.sub with
    | 0 => parseBra r
    | 1 => parseBraDec r
    | _ => none
  | 2 => if r.sub = 0 then parseBrx r else none
  | 3 => if r.sub = 0 then parseCall r else none
  | 4 => if r.sub = 0 then parseCallx r else none
  | 5 => if r.sub = 0 then parseRet r else none
  | 6 => if r.sub = 0 then parseConfl r else none
  | 7 => if r.sub = 0 then parseExit r else none
  | 8 => if r.sub = 0 then parseTrap r else none
  | 9 => if r.sub = 0 then parseSvc r else none
  | 10 => if r.sub = 0 then parseRth r else none
  | 11 => if r.sub = 0 then parseYieldw r else none
  | 12 => if r.sub = 0 then parseWaitv r else none
  | 13 => if r.sub = 0 then parseMovs r else none
  | 14 => if r.sub = 0 then parseSets r else none
  | 15 => if r.sub = 0 then parseBkpt r else none
  | _ => none

/-- The opcodes 0x10 to 0x1F of R83. -/
def parseRow1 (r : Raw) : Option Instr :=
  match r.opc % 16 with
  | 0 => if r.sub = 0 then parseMov r else none
  | 1 => if r.sub = 0 then parseIadd r else none
  | 2 => if r.sub = 0 then parseIsub r else none
  | 3 => if r.sub = 0 then parseImul r else none
  | 4 => if r.sub = 0 then parseImulh r else none
  | 5 => if r.sub = 0 then parseImad r else none
  | 6 => if r.sub = 0 then parseImin r else none
  | 7 => if r.sub = 0 then parseImax r else none
  | 8 => if r.sub = 0 then parseIabs r else none
  | 9 => if r.sub = 0 then parseIadd64 r else none
  | 10 => if r.sub = 0 then parseLea r else none
  | 11 => if r.sub = 0 then parseIsad r else none
  | 12 => if r.sub = 0 then parseIdot4 r else none
  | 13 => if r.sub = 0 then parseSel r else none
  | 14 => if r.sub = 0 then parsePrmt r else none
  | 15 => match r.sub with
    | 0 => parseMoviRead r
    | 1 => parseMoviWrite r
    | _ => none
  | _ => none

/-- The opcodes 0x20 to 0x2F of R83. -/
def parseRow2 (r : Raw) : Option Instr :=
  match r.opc % 16 with
  | 0 => if r.sub = 0 then parseAnd r else none
  | 1 => if r.sub = 0 then parseOr r else none
  | 2 => if r.sub = 0 then parseXor r else none
  | 3 => if r.sub = 0 then parseAndn r else none
  | 4 => if r.sub = 0 then parseShl r else none
  | 5 => if r.sub = 0 then parseShr r else none
  | 6 => if r.sub = 0 then parseSar r else none
  | 7 => if r.sub = 0 then parseRot r else none
  | 8 => if r.sub = 0 then parsePopc r else none
  | 9 => if r.sub = 0 then parseClz r else none
  | 10 => if r.sub = 0 then parseBrev r else none
  | 11 => if r.sub = 0 then parseBfx r else none
  | 12 => if r.sub = 0 then parseBfi r else none
  | 13 => if r.sub = 0 then parseLop3 r else none
  | _ => none

/-- The opcodes 0x30 to 0x3F of R83. -/
def parseRow3 (r : Raw) : Option Instr :=
  match r.opc % 16 with
  | 0 => if r.sub = 0 then parseIcmp r else none
  | 1 => if r.sub = 0 then parseFcmp r else none
  | 2 => if r.sub = 0 then parseFclass r else none
  | 3 => parseVote r
  | 4 => parseMatchw r
  | _ => none

/-- The opcodes 0x40 to 0x4F of R83. -/
def parseRow4 (r : Raw) : Option Instr :=
  match r.opc % 16 with
  | 0 => if r.sub = 0 then parseFadd r else none
  | 1 => if r.sub = 0 then parseFsub r else none
  | 2 => if r.sub = 0 then parseFmul r else none
  | 3 => if r.sub = 0 then parseFfma r else none
  | 4 => if r.sub = 0 then parseFmin r else none
  | 5 => if r.sub = 0 then parseFmax r else none
  | 6 => if r.sub = 0 then parseFrcp r else none
  | 7 => if r.sub = 0 then parseFrsq r else none
  | 8 => if r.sub = 0 then parseFsqrt r else none
  | 9 => if r.sub = 0 then parseFexp2 r else none
  | 10 => if r.sub = 0 then parseFlog2 r else none
  | 11 => if r.sub = 0 then parseFsincos r else none
  | 12 => if r.sub = 0 then parseFtanh r else none
  | 13 => if r.sub = 0 then parseFdiv r else none
  | _ => none

/-- The opcodes 0x50 to 0x5F of R83. -/
def parseRow5 (r : Raw) : Option Instr :=
  match r.opc % 16 with
  | 0 => if r.sub = 0 then parseH2add r else none
  | 1 => if r.sub = 0 then parseH2mul r else none
  | 2 => if r.sub = 0 then parseH2fma r else none
  | 3 => if r.sub = 0 then parseH2min r else none
  | 4 => if r.sub = 0 then parseH2max r else none
  | 8 => if r.sub = 0 then parseCvt r else none
  | 9 => if r.sub = 0 then parseCvti r else none
  | 10 => if r.sub = 0 then parseCvtf r else none
  | 11 => if r.sub = 0 then parsePack2 r else none
  | 12 => if r.sub = 0 then parseUnpk2 r else none
  | 13 => if r.sub = 0 then parseSrnd r else none
  | _ => none

/-- The opcodes 0x60 to 0x6F of R83. -/
def parseRow6 (r : Raw) : Option Instr :=
  match r.opc % 16 with
  | 0 => parseBmax r
  | 1 => parseBmin r
  | 2 => parseBscale r
  | 3 => parseBzp r
  | 4 => parseBquant r
  | 5 => if r.sub = 0 then parseBdeq r else none
  | 6 => if r.sub = 0 then parseBpack r else none
  | 7 => if r.sub = 0 then parseBunpk r else none
  | 8 => parseBhealth r
  | 9 => if r.sub = 0 then parseBrescale r else none
  | _ => none

/-- The opcodes 0x70 to 0x7F of R83. -/
def parseRow7 (r : Raw) : Option Instr :=
  match r.opc % 16 with
  | 0 => parseShfl r
  | 1 => parseRedw r
  | 2 => parseScanw r
  | 3 => if r.sub = 0 then parseBcastw r else none
  | _ => none

/-- The opcodes 0x80 to 0x8F of R83. -/
def parseRow8 (r : Raw) : Option Instr :=
  match r.opc % 16 with
  | 0 => if r.sub = 0 then parseLd r else none
  | 1 => if r.sub = 0 then parseSt r else none
  | 2 => if r.sub = 0 then parseLds r else none
  | 3 => if r.sub = 0 then parseSts r else none
  | 4 => parseLdbs r
  | 5 => parseStbs r
  | 6 => if r.sub = 0 then parseLdsc r else none
  | 7 => if r.sub = 0 then parseStsc r else none
  | 8 => if r.sub = 0 then parseLdaq r else none
  | 9 => if r.sub = 0 then parseStrl r else none
  | 10 => parsePref r
  | 11 => match r.sub with
    | 0 => parseCflushWb r
    | 1 => parseCflushWbinv r
    | 2 => parseCflushWball r
    | 3 => parseCflushWbinvall r
    | _ => none
  | 12 => if r.sub = 0 then parseWayset r else none
  | _ => none

/-- The opcodes 0x90 to 0x9F of R83. -/
def parseRow9 (r : Raw) : Option Instr :=
  match r.opc % 16 with
  | 0 => parseAtom r
  | 1 => if r.sub = 0 then parseAtomc r else none
  | 2 => parseRed r
  | 3 => match r.sub with
    | 0 => parseFenceFull r
    | 1 => parseFenceAcq r
    | 2 => parseFenceRel r
    | _ => none
  | 4 => if r.sub = 0 then parseChunk r else none
  | _ => none

/-- The opcodes 0xA0 to 0xAF of R83. -/
def parseRowA (r : Raw) : Option Instr :=
  match r.opc % 16 with
  | 0 => match r.sub with
    | 0 => parseSlxCopy r
    | 1 => parseSlxCvt r
    | 2 => parseSlxRescale r
    | 3 => parseSlxTr r
    | 4 => parseSlxFill r
    | 5 => parseSlxKvg r
    | 6 => parseSlxTagck r
    | _ => none
  | 1 => if r.sub = 0 then parseBseal r else none
  | 2 => if r.sub = 0 then parseBwait r else none
  | 3 => if r.sub = 0 then parseFlput r else none
  | 4 => if r.sub = 0 then parseFlget r else none
  | 5 => match r.sub with
    | 0 => parseFlwaitData r
    | 1 => parseFlwaitRoom r
    | _ => none
  | 6 => match r.sub with
    | 0 => parseWeirsetSet r
    | 1 => parseWeirsetClr r
    | _ => none
  | 7 => match r.sub with
    | 0 => parseEngsyncCmp r
    | 1 => parseEngsyncPub r
    | _ => none
  | _ => none

/-- The opcodes 0xB0 to 0xBF of R83. -/
def parseRowB (r : Raw) : Option Instr :=
  match r.opc % 16 with
  | 0 => if r.sub = 0 then parseConvene r else none
  | 1 => if r.sub = 0 then parseDisband r else none
  | 2 => if r.sub = 0 then parseTmma r else none
  | 3 => if r.sub = 0 then parseTmmaw r else none
  | 4 => if r.sub = 0 then parseTmmaz r else none
  | 5 => match r.sub with
    | 0 => parseTaccZero r
    | 1 => parseTaccLive r
    | 2 => parseTaccDead r
    | 3 => parseTaccMul r
    | _ => none
  | 6 => match r.sub with
    | 0 => parseTrdReg r
    | 1 => parseTrdRec r
    | _ => none
  | 7 => match r.sub with
    | 0 => parseTwrReg r
    | 1 => parseTwrRec r
    | _ => none
  | 8 => parseTew r
  | 9 => parseTred r
  | 10 => if r.sub = 0 then parseTsmx r else none
  | 11 => if r.sub = 0 then parseTnorm r else none
  | 12 => parseTcvt r
  | 13 => if r.sub = 0 then parseBsload r else none
  | 14 => if r.sub = 0 then parseRcfence r else none
  | 15 => if r.sub = 0 then parseTmmas r else none
  | _ => none

/-- The opcodes 0xC0 to 0xCF of R83. -/
def parseRowC (r : Raw) : Option Instr :=
  match r.opc % 16 with
  | 0 => if r.sub = 0 then parseKvxlt r else none
  | 1 => if r.sub = 0 then parseKvapp r else none
  | 2 => match r.sub with
    | 0 => parseRoleGet r
    | 1 => parseRoleSet r
    | _ => none
  | 3 => match r.sub with
    | 0 => parseTbarInit r
    | 1 => parseTbarArrive r
    | 2 => parseTbarWait r
    | 3 => parseTbarArwt r
    | _ => none
  | 4 => if r.sub = 0 then parseCftest r else none
  | 5 => if r.sub = 0 then parseExittok r else none
  | 6 => if r.sub = 0 then parseBfwait r else none
  | _ => none

/-- The opcodes 0xD0 to 0xDF of R83. -/
def parseRowD (r : Raw) : Option Instr :=
  match r.opc % 16 with
  | 0 => if r.sub = 0 then parseRecon r else none
  | 1 => if r.sub = 0 then parseRecoff r else none
  | 2 => if r.sub = 0 then parseEbb r else none
  | 3 => parseEbbstat r
  | 4 => match r.sub with
    | 0 => parseMigrRiffle r
    | 1 => parseMigrReach r
    | 2 => parseMigrCancel r
    | _ => none
  | 5 => if r.sub = 0 then parsePortage r else none
  | _ => none

/-- The opcodes 0xE0 to 0xEF of R83. -/
def parseRowE (r : Raw) : Option Instr :=
  match r.opc % 16 with
  | 0 => match r.sub with
    | 0 => parseBarSync r
    | 1 => parseBarArr r
    | _ => none
  | 1 => if r.sub = 0 then parseGbar r else none
  | 2 => if r.sub = 0 then parseXlock r else none
  | 3 => if r.sub = 0 then parseXfree r else none
  | 4 => if r.sub = 0 then parseNmq r else none
  | 5 => match r.sub with
    | 0 => parseNmwaitWait r
    | 1 => parseNmwaitTest r
    | _ => none
  | 6 => match r.sub with
    | 0 => parseTqpopWait r
    | 1 => parseTqpopTry r
    | _ => none
  | 7 => match r.sub with
    | 0 => parseTqpushWait r
    | 1 => parseTqpushTry r
    | 2 => parseTqpushClose r
    | _ => none
  | 8 => if r.sub = 0 then parseLaunch r else none
  | 9 => parseColl r
  | _ => none

/-- The instruction that the fields read as; none where a sub-opcode or a modifier holds a reserved value. -/
def parse (r : Raw) : Option Instr :=
  match r.opc / 16 with
  | 0 => parseRow0 r
  | 1 => parseRow1 r
  | 2 => parseRow2 r
  | 3 => parseRow3 r
  | 4 => parseRow4 r
  | 5 => parseRow5 r
  | 6 => parseRow6 r
  | 7 => parseRow7 r
  | 8 => parseRow8 r
  | 9 => parseRow9 r
  | 10 => parseRowA r
  | 11 => parseRowB r
  | 12 => parseRowC r
  | 13 => parseRowD r
  | 14 => parseRowE r
  | _ => none

/-- The fields that an instruction's words hold; none for an event row, which has no words. -/
def fieldsOf : Instr → Option Raw
  | .nop f v => some (mkRaw f 0x00 0 (0) 0 (.reg 0) (Src.offset f.form false v) (.reg 0))
  | .bra f off j => some (mkRaw f 0x01 0 (j.toNat) 0 (.reg 0) (.lit off) (.reg 0))
  | .braDec f c off j => some (mkRaw f 0x01 1 (j.toNat) 0 (.reg 0) (.lit off) (.reg c))
  | .brx f a j => some (mkRaw f 0x02 0 (j.toNat) 0 (.reg a) (.reg 0) (.reg 0))
  | .call f off => some (mkRaw f 0x03 0 (0) 0 (.reg 0) (.lit off) (.reg 0))
  | .callx f a => some (mkRaw f 0x04 0 (0) 0 (.reg a) (.reg 0) (.reg 0))
  | .ret f => some (mkRaw f 0x05 0 (0) 0 (.reg 0) (.reg 0) (.reg 0))
  | .confl f j => some (mkRaw f 0x06 0 (j.toNat) 0 (.reg 0) (.reg 0) (.reg 0))
  | .exit f => some (mkRaw f 0x07 0 (0) 0 (.reg 0) (.reg 0) (.reg 0))
  | .trap f v cause => some (mkRaw f 0x08 0 (cause.toNat) 0 (.reg 0) (.lit v) (.reg 0))
  | .svc f v => some (mkRaw f 0x09 0 (0) 0 (.reg 0) (.lit v) (.reg 0))
  | .bkpt f v => some (mkRaw f 0x0F 0 (0) 0 (.reg 0) (.lit v) (.reg 0))
  | .rth f => some (mkRaw f 0x0A 0 (0) 0 (.reg 0) (.reg 0) (.reg 0))
  | .yieldw f => some (mkRaw f 0x0B 0 (0) 0 (.reg 0) (.reg 0) (.reg 0))
  | .waitv f d a off c spc sz scope ne => some (mkRaw f 0x0C 0 (spc.code + 8 * sz.code + 256 * scope.code + 4096 * ne.toNat) d (.reg a) (Src.offset f.form c.isLit off) c)
  | .movs f d sr => some (mkRaw f 0x0D 0 (sr.code) d (.reg 0) (.reg 0) (.reg 0))
  | .sets f b sr => some (mkRaw f 0x0E 0 (sr.code) 0 (.reg 0) b (.reg 0))
  | .mov f d b => some (mkRaw f 0x10 0 (0) d (.reg 0) b (.reg 0))
  | .iadd f d a b c sat => some (mkRaw f 0x11 0 (sat.code + 4 * c.isSome.toNat) d a b (c.getD (.reg 0)))
  | .isub f d a b c sat => some (mkRaw f 0x12 0 (sat.code + 4 * c.isSome.toNat) d a b (c.getD (.reg 0)))
  | .imul f d a b => some (mkRaw f 0x13 0 (0) d (.reg a) b (.reg 0))
  | .imulh f d a b u => some (mkRaw f 0x14 0 (u.toNat) d (.reg a) b (.reg 0))
  | .imad f d a b c wide u => some (mkRaw f 0x15 0 (wide.toNat + 2 * u.toNat) d a b c)
  | .imin f d a b u => some (mkRaw f 0x16 0 (u.toNat) d (.reg a) b (.reg 0))
  | .imax f d a b u => some (mkRaw f 0x17 0 (u.toNat) d (.reg a) b (.reg 0))
  | .iabs f d a => some (mkRaw f 0x18 0 (0) d (.reg a) (.reg 0) (.reg 0))
  | .iadd64 f d a b neg bext => some (mkRaw f 0x19 0 (neg.toNat + 2 * bext.code) d (.reg a) (.reg b) (.reg 0))
  | .lea f d a b c sh bu => some (mkRaw f 0x1A 0 (sh.toNat + 8 * c.isSome.toNat + 16 * bu.toNat) d a b (c.getD (.reg 0)))
  | .isad f d a b c u => some (mkRaw f 0x1B 0 (u.toNat) d a b c)
  | .idot4 f d a b c au bu sat => some (mkRaw f 0x1C 0 (au.toNat + 2 * bu.toNat + 4 * sat.toNat) d a b c)
  | .sel f d a b c neg => some (mkRaw f 0x1D 0 (neg.toNat) d a b c)
  | .prmt f d a b c swp => some (mkRaw f 0x1E 0 (swp.toNat) d a b c)
  | .moviRead f d a base => some (mkRaw f 0x1F 0 (base.toNat) d (.reg a) (.reg 0) (.reg 0))
  | .moviWrite f a b base => some (mkRaw f 0x1F 1 (base.toNat) 0 (.reg a) (.reg b) (.reg 0))
  | .and f d a b => some (mkRaw f 0x20 0 (0) d (.reg a) b (.reg 0))
  | .or f d a b => some (mkRaw f 0x21 0 (0) d (.reg a) b (.reg 0))
  | .xor f d a b => some (mkRaw f 0x22 0 (0) d (.reg a) b (.reg 0))
  | .andn f d a b => some (mkRaw f 0x23 0 (0) d (.reg a) b (.reg 0))
  | .shl f d a b => some (mkRaw f 0x24 0 (0) d (.reg a) b (.reg 0))
  | .shr f d a b => some (mkRaw f 0x25 0 (0) d (.reg a) b (.reg 0))
  | .sar f d a b => some (mkRaw f 0x26 0 (0) d (.reg a) b (.reg 0))
  | .rot f d a b => some (mkRaw f 0x27 0 (0) d (.reg a) b (.reg 0))
  | .popc f d a => some (mkRaw f 0x28 0 (0) d (.reg a) (.reg 0) (.reg 0))
  | .clz f d a => some (mkRaw f 0x29 0 (0) d (.reg a) (.reg 0) (.reg 0))
  | .brev f d a => some (mkRaw f 0x2A 0 (0) d (.reg a) (.reg 0) (.reg 0))
  | .bfx f d a b sx => some (mkRaw f 0x2B 0 (sx.toNat) d a b (.reg 0))
  | .bfi f d a b c => some (mkRaw f 0x2C 0 (0) d a b c)
  | .lop3 f d a b c tt => some (mkRaw f 0x2D 0 (tt.toNat) d a b c)
  | .icmp f d c2 a b cond u => some (mkRaw f 0x30 0 (cond.code + 8 * u.toNat) d a b (.reg c2))
  | .fcmp f d c2 a b cond u t => some (mkRaw f 0x31 0 (cond.code + 8 * u.toNat + 16 * t.code) d a b (.reg c2))
  | .fclass f d a mask t => some (mkRaw f 0x32 0 (mask.toNat + 1024 * t.code) d (.reg a) (.reg 0) (.reg 0))
  | .vote f op d a => some (mkRaw f 0x33 op.code (0) d (.reg a) (.reg 0) (.reg 0))
  | .matchw f wide d c2 a => some (mkRaw f 0x34 wide.toNat (0) d (.reg a) (.reg 0) (.reg c2))
  | .fadd f d a b rnd na nb aa ab sat => some (mkRaw f 0x40 0 (rnd.code + 8 * na.toNat + 16 * nb.toNat + 32 * aa.toNat + 64 * ab.toNat + 128 * sat.toNat) d a b (.reg 0))
  | .fsub f d a b rnd na nb aa ab sat => some (mkRaw f 0x41 0 (rnd.code + 8 * na.toNat + 16 * nb.toNat + 32 * aa.toNat + 64 * ab.toNat + 128 * sat.toNat) d a b (.reg 0))
  | .fmul f d a b rnd na nb aa ab sat => some (mkRaw f 0x42 0 (rnd.code + 8 * na.toNat + 16 * nb.toNat + 32 * aa.toNat + 64 * ab.toNat + 128 * sat.toNat) d a b (.reg 0))
  | .ffma f d a b c rnd na nb aa ab sat nc ac => some (mkRaw f 0x43 0 (rnd.code + 8 * na.toNat + 16 * nb.toNat + 32 * aa.toNat + 64 * ab.toNat + 128 * sat.toNat + 256 * nc.toNat + 512 * ac.toNat) d a b c)
  | .fmin f d a b => some (mkRaw f 0x44 0 (0) d (.reg a) b (.reg 0))
  | .fmax f d a b => some (mkRaw f 0x45 0 (0) d (.reg a) b (.reg 0))
  | .frcp f d a => some (mkRaw f 0x46 0 (0) d (.reg a) (.reg 0) (.reg 0))
  | .frsq f d a => some (mkRaw f 0x47 0 (0) d (.reg a) (.reg 0) (.reg 0))
  | .fsqrt f d a rnd => some (mkRaw f 0x48 0 (rnd.code) d (.reg a) (.reg 0) (.reg 0))
  | .fexp2 f d a => some (mkRaw f 0x49 0 (0) d (.reg a) (.reg 0) (.reg 0))
  | .flog2 f d a => some (mkRaw f 0x4A 0 (0) d (.reg a) (.reg 0) (.reg 0))
  | .fsincos f d c2 a => some (mkRaw f 0x4B 0 (0) d (.reg a) (.reg 0) (.reg c2))
  | .ftanh f d a => some (mkRaw f 0x4C 0 (0) d (.reg a) (.reg 0) (.reg 0))
  | .fdiv f d a b rnd => some (mkRaw f 0x4D 0 (rnd.code) d (.reg a) (.reg b) (.reg 0))
  | .h2add f d a b rnd bf na nb => some (mkRaw f 0x50 0 (rnd.code + 8 * bf.toNat + 16 * na.toNat + 32 * nb.toNat) d (.reg a) b (.reg 0))
  | .h2mul f d a b rnd bf na nb => some (mkRaw f 0x51 0 (rnd.code + 8 * bf.toNat + 16 * na.toNat + 32 * nb.toNat) d (.reg a) b (.reg 0))
  | .h2fma f d a b c rnd bf na nb nc => some (mkRaw f 0x52 0 (rnd.code + 8 * bf.toNat + 16 * na.toNat + 32 * nb.toNat + 64 * nc.toNat) d a b c)
  | .h2min f d a b bf => some (mkRaw f 0x53 0 (8 * bf.toNat) d (.reg a) b (.reg 0))
  | .h2max f d a b bf => some (mkRaw f 0x54 0 (8 * bf.toNat) d (.reg a) b (.reg 0))
  | .cvt f d a sty dt rnd => some (mkRaw f 0x58 0 (sty.code + 32 * dt.code + 1024 * rnd.code) d (.reg a) (.reg 0) (.reg 0))
  | .cvti f d a sty dt rnd => some (mkRaw f 0x59 0 (sty.code + 32 * dt.code + 1024 * rnd.code) d (.reg a) (.reg 0) (.reg 0))
  | .cvtf f d a sty dt rnd => some (mkRaw f 0x5A 0 (sty.code + 32 * dt.code + 1024 * rnd.code) d (.reg a) (.reg 0) (.reg 0))
  | .pack2 f d a b c dt rnd k => some (mkRaw f 0x5B 0 (dt.code + 32 * rnd.code + 256 * k.toNat + 2048 * c.isSome.toNat) d (.reg a) (.reg b) (.reg (c.getD 0)))
  | .unpk2 f d c2 a sty k => some (mkRaw f 0x5C 0 (sty.code + 256 * k.toNat) d (.reg a) (.reg 0) (.reg c2))
  | .srnd f d a b dt strm => some (mkRaw f 0x5D 0 (dt.code + 32 * strm.toNat) d a b (.reg 0))
  | .bmax f kind d a t => some (mkRaw f 0x60 kind.code (t.code) d (.reg a) (.reg 0) (.reg 0))
  | .bmin f kind d a t => some (mkRaw f 0x61 kind.code (t.code) d (.reg a) (.reg 0) (.reg 0))
  | .bscale f mode d a bf => some (mkRaw f 0x62 mode.code (bf.code) d (.reg a) (.reg 0) (.reg 0))
  | .bzp f zf d a b => some (mkRaw f 0x63 zf.code (0) d (.reg a) (.reg b) (.reg 0))
  | .bquant f mode d c2 a b bf rnd strm => some (mkRaw f 0x64 mode.code (bf.code + 8 * rnd.code + 64 * strm.toNat) d a (b.getD (.reg 0)) (.reg c2))
  | .bdeq f d a b bf dt rnd => some (mkRaw f 0x65 0 (bf.code + 8 * dt.code + 32 * rnd.code) d a b (.reg 0))
  | .bpack f d a b bf grp part => some (mkRaw f 0x66 0 (bf.code + 8 * grp.code + 32 * part.toNat) d (.reg a) (.reg b) (.reg 0))
  | .bunpk f d c2 a bf grp part => some (mkRaw f 0x67 0 (bf.code + 8 * grp.code + 32 * part.toNat) d (.reg a) (.reg 0) (.reg c2))
  | .bhealth f mode d a b bf rnd => some (mkRaw f 0x68 mode.code (bf.code + 8 * rnd.code) d (.reg a) (.reg (b.getD 0)) (.reg 0))
  | .brescale f d a b c bf rnd strm => some (mkRaw f 0x69 0 (bf.code + 8 * rnd.code + 64 * strm.toNat) d a b c)
  | .shfl f mode d c2 a b seg => some (mkRaw f 0x70 mode.code (seg.toNat) d a b (.reg c2))
  | .redw f op d a => some (mkRaw f 0x71 op.code (0) d (.reg a) (.reg 0) (.reg 0))
  | .scanw f op d a excl => some (mkRaw f 0x72 op.code (excl.toNat) d (.reg a) (.reg 0) (.reg 0))
  | .bcastw f d a b low => some (mkRaw f 0x73 0 (low.toNat) d (.reg a) (b.getD (.reg 0)) (.reg 0))
  | .ld f d a off spc sz ch => some (mkRaw f 0x80 0 (spc.code + 8 * sz.code + 64 * ch.code) d (.reg a) (Src.offset f.form false off) (.reg 0))
  | .st f a off c spc sz ch => some (mkRaw f 0x81 0 (spc.code + 8 * sz.code + 64 * ch.code) 0 (.reg a) (Src.offset f.form c.isLit off) c)
  | .lds f d a off spc sz => some (mkRaw f 0x82 0 (spc.code + 8 * sz.code) d (.reg a) (Src.offset f.form false off) (.reg 0))
  | .sts f a off c spc sz => some (mkRaw f 0x83 0 (spc.code + 8 * sz.code) 0 (.reg a) (Src.offset f.form false off) (.reg c))
  | .ldbs f pk d a off bf grp part nc => some (mkRaw f 0x84 pk.toNat (bf.code + 8 * grp.code + 32 * part.toNat + 128 * nc.toNat) d (.reg a) (Src.offset f.form false off) (.reg 0))
  | .stbs f pk a off c bf grp part nc => some (mkRaw f 0x85 pk.toNat (bf.code + 8 * grp.code + 32 * part.toNat + 128 * nc.toNat) 0 (.reg a) (Src.offset f.form false off) (.reg c))
  | .ldsc f d c2 a b => some (mkRaw f 0x86 0 (0) d (.reg a) (.reg b) (.reg c2))
  | .stsc f a b c desc => some (mkRaw f 0x87 0 (desc.toNat) 0 (.reg a) (.reg b) (.reg c))
  | .ldaq f d a off spc sz scope => some (mkRaw f 0x88 0 (spc.code + 8 * sz.code + 256 * scope.code) d (.reg a) (Src.offset f.form false off) (.reg 0))
  | .strl f a off c spc sz scope => some (mkRaw f 0x89 0 (spc.code + 8 * sz.code + 256 * scope.code) 0 (.reg a) (Src.offset f.form false off) (.reg c))
  | .pref f lvl a off spc => some (mkRaw f 0x8A lvl.code (spc.code) 0 (.reg a) (Src.offset f.form false off) (.reg 0))
  | .cflushWb f a => some (mkRaw f 0x8B 0 (0) 0 (.reg a) (.reg 0) (.reg 0))
  | .cflushWbinv f a => some (mkRaw f 0x8B 1 (0) 0 (.reg a) (.reg 0) (.reg 0))
  | .cflushWball f => some (mkRaw f 0x8B 2 (0) 0 (.reg 0) (.reg 0) (.reg 0))
  | .cflushWbinvall f => some (mkRaw f 0x8B 3 (0) 0 (.reg 0) (.reg 0) (.reg 0))
  | .wayset f d a => some (mkRaw f 0x8C 0 (0) d (.reg a) (.reg 0) (.reg 0))
  | .atom f op d a off c spc sz scope ord => some (mkRaw f 0x90 op.code (spc.code + 8 * sz.code + 256 * scope.code + 4096 * ord.code) d (.reg a) (Src.offset f.form c.isLit off) c)
  | .atomc f d a off c spc sz scope ord => some (mkRaw f 0x91 0 (spc.code + 8 * sz.code + 256 * scope.code + 4096 * ord.code) d (.reg a) (Src.offset f.form false off) (.reg c))
  | .red f op a off c spc sz scope ord => some (mkRaw f 0x92 op.code (spc.code + 8 * sz.code + 256 * scope.code + 4096 * ord.code) 0 (.reg a) (Src.offset f.form c.isLit off) c)
  | .fenceFull f scope => some (mkRaw f 0x93 0 (256 * scope.code) 0 (.reg 0) (.reg 0) (.reg 0))
  | .fenceAcq f scope => some (mkRaw f 0x93 1 (256 * scope.code) 0 (.reg 0) (.reg 0) (.reg 0))
  | .fenceRel f scope => some (mkRaw f 0x93 2 (256 * scope.code) 0 (.reg 0) (.reg 0) (.reg 0))
  | .chunk f d a => some (mkRaw f 0x94 0 (0) d (.reg a) (.reg 0) (.reg 0))
  | .slxCopy f d a b c => some (mkRaw f 0xA0 0 (a.isSome.toNat + 2 * b.isSome.toNat) d (a.getD (.reg 0)) (b.getD (.reg 0)) (.reg c))
  | .slxCvt f d a b c => some (mkRaw f 0xA0 1 (a.isSome.toNat + 2 * b.isSome.toNat) d (a.getD (.reg 0)) (b.getD (.reg 0)) (.reg c))
  | .slxRescale f d a b c => some (mkRaw f 0xA0 2 (a.isSome.toNat + 2 * b.isSome.toNat) d (a.getD (.reg 0)) (b.getD (.reg 0)) (.reg c))
  | .slxTr f d a b c => some (mkRaw f 0xA0 3 (a.isSome.toNat + 2 * b.isSome.toNat) d (a.getD (.reg 0)) (b.getD (.reg 0)) (.reg c))
  | .slxFill f d a b c => some (mkRaw f 0xA0 4 (a.isSome.toNat + 2 * b.isSome.toNat) d (a.getD (.reg 0)) (b.getD (.reg 0)) (.reg c))
  | .slxKvg f d a b c => some (mkRaw f 0xA0 5 (a.isSome.toNat + 2 * b.isSome.toNat) d (a.getD (.reg 0)) (b.getD (.reg 0)) (.reg c))
  | .slxTagck f d a b c => some (mkRaw f 0xA0 6 (a.isSome.toNat + 2 * b.isSome.toNat) d (a.getD (.reg 0)) (b.getD (.reg 0)) (.reg c))
  | .bseal f d => some (mkRaw f 0xA1 0 (0) d (.reg 0) (.reg 0) (.reg 0))
  | .bwait f d a => some (mkRaw f 0xA2 0 (0) d (.reg a) (.reg 0) (.reg 0))
  | .flput f d a n => some (mkRaw f 0xA3 0 (n.toNat) d (.reg a) (.reg 0) (.reg 0))
  | .flget f d a n => some (mkRaw f 0xA4 0 (n.toNat) d (.reg a) (.reg 0) (.reg 0))
  | .flwaitData f d a n => some (mkRaw f 0xA5 0 (n.toNat) d (.reg a) (.reg 0) (.reg 0))
  | .flwaitRoom f d a n => some (mkRaw f 0xA5 1 (n.toNat) d (.reg a) (.reg 0) (.reg 0))
  | .weirsetSet f a w => some (mkRaw f 0xA6 0 (w.toNat) 0 (.reg a) (.reg 0) (.reg 0))
  | .weirsetClr f w => some (mkRaw f 0xA6 1 (w.toNat) 0 (.reg 0) (.reg 0) (.reg 0))
  | .engsyncCmp f => some (mkRaw f 0xA7 0 (0) 0 (.reg 0) (.reg 0) (.reg 0))
  | .engsyncPub f scope => some (mkRaw f 0xA7 1 (256 * scope.code) 0 (.reg 0) (.reg 0) (.reg 0))
  | .convene f d rid kc => some (mkRaw f 0xB0 0 (rid.toNat + 4 * kc.toNat) d (.reg 0) (.reg 0) (.reg 0))
  | .disband f => some (mkRaw f 0xB1 0 (0) 0 (.reg 0) (.reg 0) (.reg 0))
  | .tmma f a b hdr => some (mkRaw f 0xB2 0 (0) 0 (.reg a) (.reg b) (.lit hdr.toWord))
  | .tmmaw f a b hdr grp => some (mkRaw f 0xB3 0 (grp.code) 0 (.reg a) (.reg b) (.lit hdr.toWord))
  | .tmmaz f a b hdr grp => some (mkRaw f 0xB4 0 (grp.code) 0 (.reg a) (.reg b) (.lit hdr.toWord))
  | .tmmas f a b hdr => some (mkRaw f 0xBF 0 (0) 0 (.reg a) (.reg b) (.lit hdr.toWord))
  | .taccZero f a => some (mkRaw f 0xB5 0 (0) 0 a (.reg 0) (.reg 0))
  | .taccLive f a => some (mkRaw f 0xB5 1 (0) 0 a (.reg 0) (.reg 0))
  | .taccDead f a => some (mkRaw f 0xB5 2 (0) 0 a (.reg 0) (.reg 0))
  | .taccMul f a c => some (mkRaw f 0xB5 3 (0) 0 a (.reg 0) c)
  | .trdReg f d a dt q rnd => some (mkRaw f 0xB6 0 (dt.code + 32 * q.toNat + 128 * rnd.code) d a (.reg 0) (.reg 0))
  | .trdRec f a b c dt rnd ocp => some (mkRaw f 0xB6 1 (dt.code + 32 * rnd.code + 256 * ocp.toNat) 0 a (.reg b) c)
  | .twrReg f d a dt q => some (mkRaw f 0xB7 0 (dt.code + 32 * q.toNat) d a (.reg 0) (.reg 0))
  | .twrRec f a b dt => some (mkRaw f 0xB7 1 (dt.code) 0 a (.reg b) (.reg 0))
  | .tew f fn a b c dtile s s2 => some (mkRaw f 0xB8 fn.code (dtile.toNat + 2048 * s.toNat + 4096 * s2.toNat) 0 a (b.getD (.reg 0)) (c.getD (.reg 0)))
  | .tred f op a dtile s => some (mkRaw f 0xB9 op.code (dtile.toNat + 2048 * s.toNat) 0 a (.reg 0) (.reg 0))
  | .tsmx f a c dtile s => some (mkRaw f 0xBA 0 (dtile.toNat + 2048 * s.toNat) 0 a (.reg 0) (c.getD (.reg 0)))
  | .tnorm f a c dtile s => some (mkRaw f 0xBB 0 (dtile.toNat + 2048 * s.toNat) 0 a (.reg 0) c)
  | .tcvt f mode a bf rnd strm => some (mkRaw f 0xBC mode.code (bf.code + 8 * rnd.code + 64 * strm.toNat) 0 a (.reg 0) (.reg 0))
  | .bsload f a b sp => some (mkRaw f 0xBD 0 (sp.toNat) 0 (.reg a) (.reg b) (.reg 0))
  | .rcfence f => some (mkRaw f 0xBE 0 (0) 0 (.reg 0) (.reg 0) (.reg 0))
  | .kvxlt f d c2 a b n acq => some (mkRaw f 0xC0 0 (n.toNat + 16 * acq.toNat) d a b (.reg c2))
  | .kvapp f d c2 a n => some (mkRaw f 0xC1 0 (n.toNat) d a (.reg 0) (.reg c2))
  | .roleGet f d => some (mkRaw f 0xC2 0 (0) d (.reg 0) (.reg 0) (.reg 0))
  | .roleSet f role => some (mkRaw f 0xC2 1 (role.code) 0 (.reg 0) (.reg 0) (.reg 0))
  | .tbarInit f d a n => some (mkRaw f 0xC3 0 (n.toNat) d (.reg a) (.reg 0) (.reg 0))
  | .tbarArrive f d a n => some (mkRaw f 0xC3 1 (n.toNat) d (.reg a) (.reg 0) (.reg 0))
  | .tbarWait f d a n => some (mkRaw f 0xC3 2 (n.toNat) d (.reg a) (.reg 0) (.reg 0))
  | .tbarArwt f d a n => some (mkRaw f 0xC3 3 (n.toNat) d (.reg a) (.reg 0) (.reg 0))
  | .cftest f d a b c => some (mkRaw f 0xC4 0 (0) d a b c)
  | .exittok f d a b n => some (mkRaw f 0xC5 0 (n.toNat) d (.reg a) (.reg b) (.reg 0))
  | .bfwait f d a b n => some (mkRaw f 0xC6 0 (n.toNat) d (.reg a) (.reg b) (.reg 0))
  | .recon f d a => some (mkRaw f 0xD0 0 (0) d (.reg a) (.reg 0) (.reg 0))
  | .recoff f => some (mkRaw f 0xD1 0 (0) 0 (.reg 0) (.reg 0) (.reg 0))
  | .ebb f d a => some (mkRaw f 0xD2 0 (0) d (.reg a) (.reg 0) (.reg 0))
  | .ebbstat f fld d a => some (mkRaw f 0xD3 fld.code (0) d (.reg a) (.reg 0) (.reg 0))
  | .migrRiffle f d => some (mkRaw f 0xD4 0 (0) d (.reg 0) (.reg 0) (.reg 0))
  | .migrReach f d => some (mkRaw f 0xD4 1 (0) d (.reg 0) (.reg 0) (.reg 0))
  | .migrCancel f d => some (mkRaw f 0xD4 2 (0) d (.reg 0) (.reg 0) (.reg 0))
  | .portage f v => some (mkRaw f 0xD5 0 (0) 0 (.reg 0) (.lit v) (.reg 0))
  | .barSync f a n => some (mkRaw f 0xE0 0 (n.toNat + 16 * a.isSome.toNat) 0 (.reg (a.getD 0)) (.reg 0) (.reg 0))
  | .barArr f a n => some (mkRaw f 0xE0 1 (n.toNat + 16 * a.isSome.toNat) 0 (.reg (a.getD 0)) (.reg 0) (.reg 0))
  | .gbar f scope => some (mkRaw f 0xE1 0 (256 * scope.code) 0 (.reg 0) (.reg 0) (.reg 0))
  | .xlock f => some (mkRaw f 0xE2 0 (0) 0 (.reg 0) (.reg 0) (.reg 0))
  | .xfree f => some (mkRaw f 0xE3 0 (0) 0 (.reg 0) (.reg 0) (.reg 0))
  | .nmq f d a scope => some (mkRaw f 0xE4 0 (256 * scope.code) d (.reg a) (.reg 0) (.reg 0))
  | .nmwaitWait f d a => some (mkRaw f 0xE5 0 (0) d (.reg a) (.reg 0) (.reg 0))
  | .nmwaitTest f d a => some (mkRaw f 0xE5 1 (0) d (.reg a) (.reg 0) (.reg 0))
  | .tqpopWait f d a => some (mkRaw f 0xE6 0 (0) d (.reg a) (.reg 0) (.reg 0))
  | .tqpopTry f d a => some (mkRaw f 0xE6 1 (0) d (.reg a) (.reg 0) (.reg 0))
  | .tqpushWait f d a b => some (mkRaw f 0xE7 0 (0) d (.reg a) (.reg b) (.reg 0))
  | .tqpushTry f d a b => some (mkRaw f 0xE7 1 (0) d (.reg a) (.reg b) (.reg 0))
  | .tqpushClose f d a => some (mkRaw f 0xE7 2 (0) d (.reg a) (.reg 0) (.reg 0))
  | .launch f d a => some (mkRaw f 0xE8 0 (0) d (.reg a) (.reg 0) (.reg 0))
  | .coll f op d a b => some (mkRaw f 0xE9 op.code (0) d (.reg a) b (.reg 0))
  | .resultWriteback _ => none
  | .instructionCompletion _ _ => none
  | .minimumLatencyRelease _ _ => none
  | .inWarpTrapEntry _ => none
  | .splitAged _ _ => none
  | .yieldRelease _ _ => none
  | .waitvSatisfied _ _ => none
  | .flumeWaitSatisfied _ _ => none
  | .bfwaitSatisfied _ _ => none
  | .disbandComplete _ _ => none
  | .kvappProceed _ _ => none
  | .arrayOperationStart _ => none
  | .arrayOperationDone _ => none
  | .migrate _ => none
  | .warpEnd _ => none
  | .sluiceCommandStart _ => none
  | .weirDiscard _ => none
  | .sluiceGranule _ _ => none
  | .operandFetchFault _ => none
  | .gangScrub _ => none
  | .coreStop _ => none
  | .hostServedFault _ => none
  | .faultRecordPost _ => none
  | .watchdogExpiry _ => none
  | .gangSave _ => none
  | .dispatchDecision => none
  | .clusterReservation _ => none
  | .queueEntryTaken _ => none
  | .nadam _ _ => none
  | .nsgdm _ _ => none
  | .nmsearch _ _ => none
  | .nredadd _ _ => none
  | .ncopy _ _ => none
  | .nfill _ _ => none
  | .ncow _ _ => none
  | .nref _ _ => none
  | .ncntAdd _ _ => none
  | .ncntRead _ _ => none
  | .ncntWrite _ _ => none
  | .nchunk _ _ => none
  | .nquant _ _ => none
  | .ntagchk _ _ => none
  | .nmuCommandComplete _ _ => none
  | .backwaterAgeTimeout _ => none
  | .backfillLaunchEnd _ _ => none
  | .collectiveStart _ => none
  | .ingressRun _ => none
  | .blockHealthFlush _ => none
  | .illegalInstruction _ _ => none
  | .fetchFault _ _ => none
  | .l1Eviction _ _ => none
  | .collectiveEnd _ _ _ => none
  | .launchPacket _ _ _ _ => none
  | .launchPacketAnswer _ _ => none
  | .portDown _ => none
  | .flitReplay _ => none
  | .peerAccess _ _ _ => none
  | .hostWrite _ _ _ => none
  | .hostRead _ _ _ => none
  | .queueKick _ _ => none
  | .ingressDescriptorTrigger _ _ => none
  | .ridxWrite _ => none
  | .registerWriteOther _ _ _ => none
  | .createContext _ _ _ _ _ _ _ => none
  | .destroyContext _ _ => none
  | .bindQueue _ _ _ _ _ _ _ _ _ => none
  | .setTickets _ _ _ => none
  | .invalidate _ _ _ _ => none
  | .preEmpt _ _ => none
  | .taskRelease _ _ => none
  | .taskRemoval _ _ => none
  | .acknowledgeFault _ _ _ => none
  | .setLaunchGroup _ _ _ _ _ _ => none
  | .installKey _ _ _ _ => none
  | .bindIngressQueue _ _ _ _ _ => none
  | .setEventRing _ _ _ => none
  | .attestation _ _ _ => none
  | .setPowerLimit _ _ => none
  | .closeItemQueue _ _ => none
  | .openItemQueue _ _ => none
  | .scrubPass _ _ => none
  | .softError _ => none
  | .powerOnReset => none
  | .firmwareVerify _ => none
  | .throttle _ _ => none
  | .clockRestore _ _ => none
  | .overtempReset _ => none
  | .powerLoss => none

/-- LEN of a form (R75). -/
def Form.len : Form → Nat
  | .s => 0 | .e => 1 | .l => 1 | .w => 2

/-- The bytes of a form: 8, 12 or 16 (R73). -/
def Form.bytes (fm : Form) : Nat := 8 + 4 * fm.len

/-- W0 (R74). -/
def Raw.w0 (r : Raw) : Nat :=
  joinBits [(2, r.form.len), (8, r.opc), (1, r.uni.toNat), (6, r.g), (1, r.gn.toNat), (10, r.d), (10, r.a),
    (10, if r.form = .l then r.mod else r.b), (4, r.stall), (3, r.setc), (6, r.wait), (1, r.holdA.toNat),
    (1, r.holdB.toNat), (1, (decide (r.form = .l)).toNat)]

/-- W1 as the EXT word (R76). -/
def Raw.ext (r : Raw) : Nat :=
  joinBits [(10, r.c), (1, r.holdC.toNat), (5, r.sub), (14, r.mod), (2, r.lsel)]

/-- The words of the fields as one number, bit 0 the least significant bit of W0. -/
def Raw.bits (r : Raw) : Nat :=
  match r.form with
  | .s => r.w0
  | .e => r.w0 + 2 ^ 64 * r.ext
  | .l => r.w0 + 2 ^ 64 * r.lit
  | .w => r.w0 + 2 ^ 64 * (r.ext + 2 ^ 32 * r.lit)

/-- The widths of the fields of W0. -/
def w0Widths : List Nat := [2, 8, 1, 6, 1, 10, 10, 10, 4, 3, 6, 1, 1, 1]

/-- The widths of the fields of EXT. -/
def extWidths : List Nat := [10, 1, 5, 14, 2]

/-- The fields of the words of a form. -/
def Raw.ofBits (fm : Form) (n : Nat) : Raw :=
  let f := splitBits w0Widths n
  let x := if fm = .e ∨ fm = .w then splitBits extWidths (n / 2 ^ 64) else [0, 0, 0, 0, 0]
  { form := fm, opc := f.getD 1 0, uni := f.getD 2 0 == 1, g := f.getD 3 0, gn := f.getD 4 0 == 1, d := f.getD 5 0,
    a := f.getD 6 0, b := if fm = .l then 0 else f.getD 7 0, c := x.getD 0 0, stall := f.getD 8 0, setc := f.getD 9 0,
    wait := f.getD 10 0, holdA := f.getD 11 0 == 1, holdB := f.getD 12 0 == 1, holdC := x.getD 1 0 == 1,
    sub := x.getD 2 0, mod := if fm = .l then f.getD 7 0 else x.getD 3 0, lsel := x.getD 4 0,
    lit := if fm = .l then n / 2 ^ 64 % 2 ^ 32 else if fm = .w then n / 2 ^ 96 % 2 ^ 32 else 0 }

/-- The form that LEN and X name (R75); none where X = 1 stands outside the 96-bit literal form. -/
def Form.ofBits (n : Nat) : Option Form :=
  match n % 4, n / 2 ^ 63 % 2 with
  | 0, 0 => some .s
  | 1, 0 => some .e
  | 1, 1 => some .l
  | 2, 0 => some .w
  | _, _ => none

/-- The checks of R81 that bear on the words alone, in its order; `room` is the number of bytes from the instruction's
address to the end of its fetch block (R73). The last comparison refuses every reserved field that is not zero (R80). -/
def decodeBits (room n : Nat) : Except DecodeError Instr :=
  if n % 4 = 3 then .error .lenReserved
  else if room < 8 + 4 * (n % 4) then .error .crossesBlock
  else match Form.ofBits n with
    | none => .error .extensionKind
    | some fm =>
      let r := Raw.ofBits fm n
      if formsOf r.opc = [] then .error .opcode
      else if fm ∉ formsOf r.opc then .error .form
      else if r.setc = 7 then .error .counter
      else match parse r with
        | none => .error .operand
        | some i =>
          if fieldsOf i ≠ some r then .error .reserved
          else if i.wf then .ok i
          else .error .operand

/-- Bytes as a number, the first least significant (R5). -/
def leNat : List Byte → Nat
  | [] => 0
  | b :: bs => b.toNat + 256 * leNat bs

/-- A number as n little-endian bytes. -/
def leBytes : Nat → Nat → List Byte
  | 0, _ => []
  | k + 1, n => BitVec.ofNat 8 n :: leBytes k (n / 256)

/-- The instruction at the head of the bytes that remain of a fetch block. -/
def decode (bs : List Byte) : Except DecodeError Instr := decodeBits bs.length (leNat (bs.take 16))

/-- The words of an instruction, as bytes in memory order; an event row has none. -/
def encode (i : Instr) : List Byte :=
  match fieldsOf i with
  | none => []
  | some r => leBytes r.form.bytes r.bits

/-- The bytes an instruction occupies. -/
def Instr.bytes (i : Instr) : Nat := (encode i).length

/-- The instruction that the decoder reads from bits numbered as spec/opcode_table.json numbers them. -/
def decodeTableWord (nbits w : Nat) : Option Instr :=
  match decode (leBytes 32 (w % 2 ^ nbits)) with
  | .ok i => some i
  | .error _ => none

end Sys2Proof
end

