-- ==== Sys2Proof/Machine/Num.lean ====
section
/-! DEFINITION. Numbers: exact values, the element formats of R9 and their rounding (R38 to R40), exact arithmetic, and the
functions that the spec asks to be correctly rounded. An exact value is a rational; nothing is rounded but by `roundTo`. -/
namespace Sys2Proof.Machine

/-- An exact value: a NaN, an infinity, or (-1)^neg * n * 2^e / d with d nonzero; n = 0 is a signed zero. -/
inductive Num where
  | nan
  | inf (neg : Bool)
  | fin (neg : Bool) (n : Nat) (e : Int) (d : Nat)
  deriving DecidableEq, Repr


/-- The value zero with a sign. -/
def Num.zero (neg : Bool) : Num := .fin neg 0 0 1

/-- An integer. -/
def Num.ofInt (i : Int) : Num := .fin (decide (i < 0)) i.natAbs 0 1

def Num.isNan : Num → Bool
  | .nan => true
  | _ => false

def Num.isInf : Num → Bool
  | .inf _ => true
  | _ => false

def Num.isZero : Num → Bool
  | .fin _ n _ _ => n == 0
  | _ => false

def Num.neg? : Num → Bool
  | .nan => false
  | .inf s => s
  | .fin s _ _ _ => s

/-- The value with its sign changed. -/
def Num.neg : Num → Num
  | .nan => .nan
  | .inf s => .inf (!s)
  | .fin s n e d => .fin (!s) n e d

/-- The magnitude. -/
def Num.abs : Num → Num
  | .nan => .nan
  | .inf _ => .inf false
  | .fin _ n e d => .fin false n e d

/-- Two finite magnitudes over one denominator and one power of two: their numerators, the power, the denominator. -/
def Num.align (n1 : Nat) (e1 : Int) (d1 n2 : Nat) (e2 : Int) (d2 : Nat) : Nat × Nat × Int × Nat :=
  let e := min e1 e2
  let a := n1 * 2 ^ (e1 - e).toNat
  let b := n2 * 2 ^ (e2 - e).toNat
  if d1 = d2 then (a, b, e, d1) else (a * d2, b * d1, e, d1 * d2)

/-- The exact sum. `down` says that the rounding mode is RDN, which makes an exact zero sum of unlike signs −0 (R134). -/
def Num.add (down : Bool) : Num → Num → Num
  | .nan, _ => .nan
  | _, .nan => .nan
  | .inf s, .inf t => if s = t then .inf s else .nan
  | .inf s, _ => .inf s
  | _, .inf t => .inf t
  | .fin s n1 e1 d1, .fin t n2 e2 d2 =>
    if n1 = 0 ∧ n2 = 0 then .fin (if s = t then s else down) 0 0 1
    else
      let (a, b, e, d) := Num.align n1 e1 d1 n2 e2 d2
      if s = t then .fin s (a + b) e d
      else if a = b then .fin down 0 0 1
      else if b < a then .fin s (a - b) e d
      else .fin t (b - a) e d

/-- The exact product (IEEE 754 for infinities and zeros). -/
def Num.mul : Num → Num → Num
  | .nan, _ => .nan
  | _, .nan => .nan
  | .inf s, .inf t => .inf (s != t)
  | .inf s, .fin t n _ _ => if n = 0 then .nan else .inf (s != t)
  | .fin s n _ _, .inf t => if n = 0 then .nan else .inf (s != t)
  | .fin s n1 e1 d1, .fin t n2 e2 d2 => .fin (s != t) (n1 * n2) (e1 + e2) (d1 * d2)

/-- The exact quotient (IEEE 754 for infinities and zeros). -/
def Num.div : Num → Num → Num
  | .nan, _ => .nan
  | _, .nan => .nan
  | .inf _, .inf _ => .nan
  | .inf s, .fin t _ _ _ => .inf (s != t)
  | .fin s _ _ _, .inf t => .fin (s != t) 0 0 1
  | .fin s n1 e1 d1, .fin t n2 e2 d2 =>
    if n2 = 0 then (if n1 = 0 then .nan else .inf (s != t))
    else .fin (s != t) (n1 * d2) (e1 - e2) (d1 * n2)

/-- The order of two values that are no NaN; zeros of either sign are equal. -/
def Num.cmp (a b : Num) : Ordering :=
  match a, b with
  | .nan, _ => .eq
  | _, .nan => .eq
  | .inf s, .inf t => if s = t then .eq else if s then .lt else .gt
  | .inf s, _ => if s then .lt else .gt
  | _, .inf t => if t then .gt else .lt
  | .fin s n1 e1 d1, .fin t n2 e2 d2 =>
    let (x, y, _, _) := Num.align n1 e1 d1 n2 e2 d2
    let i : Int := if s then -(x : Int) else x
    let j : Int := if t then -(y : Int) else y
    compare i j

/-- a < b. -/
def Num.lt (a b : Num) : Bool := Num.cmp a b == .lt

/-- a ≤ b. -/
def Num.le (a b : Num) : Bool := Num.cmp a b != .gt

/-- The lesser of two values that are no NaN, −0 below +0 (R135). -/
def Num.min2 (a b : Num) : Num :=
  if a.isZero && b.isZero then (if a.neg? then a else b) else if a.le b then a else b

/-- The greater of two values that are no NaN, −0 below +0 (R135). -/
def Num.max2 (a b : Num) : Num :=
  if a.isZero && b.isZero then (if a.neg? then b else a) else if b.le a then a else b

/-- floor(log2 (n * 2^e / d)) for nonzero n. -/
def flog2 (n : Nat) (e : Int) (d : Nat) : Int :=
  let l : Int := (n.log2 : Int) - (d.log2 : Int)
  -- the quotient n / d lies in [2^(l-1), 2^(l+1))
  let below := if 0 ≤ l then decide (n < d * 2 ^ l.toNat) else decide (n * 2 ^ (-l).toNat < d)
  (if below then l - 1 else l) + e

/-- The rounding modes of R38, SR with its 16-bit dither. -/
inductive Mode where
  | rne | rz | rup | rdn | rna
  | sr (dither : Nat)
  deriving DecidableEq, Repr

/-- Whether a magnitude k + rem/div is rounded away from zero (R38, R40). -/
def roundsUp (m : Mode) (neg : Bool) (k rem div : Nat) : Bool :=
  match m with
  | .rne => decide (2 * rem > div) || (decide (2 * rem = div) && decide (k % 2 = 1))
  | .rz => false
  | .rup => !neg && decide (rem ≠ 0)
  | .rdn => neg && decide (rem ≠ 0)
  | .rna => decide (2 * rem ≥ div)
  | .sr di => decide (rem * 2 ^ 16 / div + di ≥ 2 ^ 16)

/-- The magnitude n * 2^e / d in units of 2^q: quotient, remainder and divisor. -/
def inUnits (n : Nat) (e : Int) (d : Nat) (q : Int) : Nat × Nat × Nat :=
  let N := n * 2 ^ (e - q).toNat
  let D := d * 2 ^ (q - e).toNat
  (N / D, N % D, D)

/-- The magnitude rounded to an integer number of units of 2^q. -/
def roundUnits (m : Mode) (neg : Bool) (n : Nat) (e : Int) (d : Nat) (q : Int) : Nat :=
  let (k, r, D) := inUnits n e d q
  if roundsUp m neg k r D then k + 1 else k

/-- What the codes with the largest exponent mean: infinity and NaNs; NaN at all ones alone (E4M3); numbers (R9). -/
inductive Top where
  | ieee | nanOnly | numbers
  deriving DecidableEq, Repr

/-- A float format of R9. -/
structure FFmt where
  ebits : Nat
  mbits : Nat
  bias : Nat
  top : Top
  deriving DecidableEq, Repr

def f32 : FFmt := ⟨8, 23, 127, .ieee⟩
def bf16 : FFmt := ⟨8, 7, 127, .ieee⟩
def f16 : FFmt := ⟨5, 10, 15, .ieee⟩
def e4m3 : FFmt := ⟨4, 3, 7, .nanOnly⟩
def e5m2 : FFmt := ⟨5, 2, 15, .ieee⟩
def e2m3 : FFmt := ⟨2, 3, 1, .numbers⟩
def e3m2 : FFmt := ⟨3, 2, 3, .numbers⟩
def e2m1 : FFmt := ⟨2, 1, 1, .numbers⟩
/-- FP12 of R19: the top 12 bits of FP16. -/
def fp12 : FFmt := ⟨5, 6, 15, .ieee⟩

/-- Bits of an element. -/
def FFmt.bits (f : FFmt) : Nat := 1 + f.ebits + f.mbits

/-- The exponent of the smallest spacing: that of the subnormals. -/
def FFmt.qmin (f : FFmt) : Int := 1 - (f.bias : Int) - (f.mbits : Int)

/-- The code, sign apart, of the largest finite value. -/
def FFmt.maxCode (f : FFmt) : Nat :=
  match f.top with
  | .ieee => (2 ^ f.ebits - 1) * 2 ^ f.mbits - 1
  | .nanOnly => 2 ^ (f.ebits + f.mbits) - 2
  | .numbers => 2 ^ (f.ebits + f.mbits) - 1

/-- The value of a code, sign apart, as units of a power of two. -/
def FFmt.mag (f : FFmt) (c : Nat) : Nat × Int :=
  let e := c / 2 ^ f.mbits
  let m := c % 2 ^ f.mbits
  if e = 0 then (m, f.qmin) else (2 ^ f.mbits + m, (e : Int) - f.bias - f.mbits)

/-- The value of a code (R9); codes are read modulo their width. -/
def FFmt.decode (f : FFmt) (c : Nat) : Num :=
  let s := c / 2 ^ (f.ebits + f.mbits) % 2 == 1
  let b := c % 2 ^ (f.ebits + f.mbits)
  let top := (2 ^ f.ebits - 1) * 2 ^ f.mbits
  let v : Num := let (n, e) := f.mag b; .fin s n e 1
  match f.top with
  | .ieee => if b = top then .inf s else if top < b then .nan else v
  | .nanOnly => if b = 2 ^ (f.ebits + f.mbits) - 1 then .nan else v
  | .numbers => v

/-- The canonical NaN (R10); a format without NaN has none and answers its largest finite code (R11). -/
def FFmt.nanCode (f : FFmt) : Nat :=
  match f.top with
  | .ieee => (2 ^ f.ebits - 1) * 2 ^ f.mbits + 2 ^ (f.mbits - 1)
  | .nanOnly => 2 ^ (f.ebits + f.mbits) - 1
  | .numbers => f.maxCode

/-- The code of infinity. -/
def FFmt.infCode (f : FFmt) : Nat := (2 ^ f.ebits - 1) * 2 ^ f.mbits

def FFmt.signBit (f : FFmt) (neg : Bool) : Nat := if neg then 2 ^ (f.ebits + f.mbits) else 0

/-- A rounded code and whether the result overflowed (R39). -/
structure Rounded where
  code : Nat
  ovf : Bool
  deriving DecidableEq, Repr

/-- The code of k units of 2^q, where k has at most one bit more than the significand; above the largest finite value the code
is larger than `maxCode`. -/
def FFmt.codeOf (f : FFmt) (k : Nat) (q : Int) : Nat :=
  -- a code, sign apart, counts the magnitudes upward: each binade has 2^mbits codes
  k + (q - f.qmin).toNat * 2 ^ f.mbits

/-- An exact value rounded once into a format (R39, R40). NaN and infinity keep their class where the format has it, and
saturate where it has none (R11); `ovf` says that a finite value overflowed. -/
def FFmt.roundTo (f : FFmt) (m : Mode) (x : Num) : Rounded :=
  match x with
  | .nan => ⟨f.nanCode, false⟩
  | .inf s => ⟨f.signBit s + (if f.top = .ieee then f.infCode else f.maxCode), false⟩
  | .fin s n e d =>
    if n = 0 then ⟨f.signBit s, false⟩
    else
      let q := max (flog2 n e d - f.mbits) f.qmin
      let k := roundUnits m s n e d q
      let c := f.codeOf k q
      if c ≤ f.maxCode then ⟨f.signBit s + c, false⟩
      else
        let toInf := match f.top, m with
          | .ieee, .rne => true
          | .ieee, .rna => true
          | .ieee, .sr _ => true
          | .ieee, .rup => !s
          | .ieee, .rdn => s
          | _, _ => false
        ⟨f.signBit s + (if toInf then f.infCode else f.maxCode), true⟩

/-- The code alone. -/
def FFmt.round (f : FFmt) (m : Mode) (x : Num) : Nat := (f.roundTo m x).code

/-- The FP32 value of a word. -/
def numOf (w : Word) : Num := f32.decode w.toNat

/-- An exact value rounded into FP32. -/
def toF32 (m : Mode) (x : Num) : Word := BitVec.ofNat 32 (f32.round m x)

/-- An exact value rounded into FP32 by RNE. -/
def rne32 (x : Num) : Word := toF32 .rne x

/-- An exact value rounded to an integer (R39): the signed result; NaN gives none. -/
def Num.toIntRound (m : Mode) : Num → Option Int
  | .fin s n e d =>
    let k := roundUnits m s n e d 0
    some (if s then -(k : Int) else k)
  | _ => none

/-- An integer clamped to a range. -/
def clampI (lo hi v : Int) : Int := if v < lo then lo else if hi < v then hi else v

/-! ### FP32 steps by RNE, as the pseudocode of the spec writes them -/

def fadd (a b : Word) : Word := rne32 (Num.add false (numOf a) (numOf b))
def fsub (a b : Word) : Word := rne32 (Num.add false (numOf a) (numOf b).neg)
def fmul (a b : Word) : Word := rne32 (Num.mul (numOf a) (numOf b))
def fdiv (a b : Word) : Word := rne32 (Num.div (numOf a) (numOf b))

/-- The rule of FMIN and FMAX in a format (R135): a NaN beside a number gives the number unchanged, two NaNs the canonical one. -/
def FFmt.minmax (f : FFmt) (isMax : Bool) (a b : Nat) : Nat :=
  let x := f.decode a
  let y := f.decode b
  if x.isNan && y.isNan then f.nanCode
  else if x.isNan then b
  else if y.isNan then a
  else
    let aFirst := if x.isZero && y.isZero then (if isMax then !x.neg? else x.neg?) else (if isMax then y.le x else x.le y)
    if aFirst then a else b

def fmin32 (a b : Word) : Word := BitVec.ofNat 32 (f32.minmax false a.toNat b.toNat)
def fmax32 (a b : Word) : Word := BitVec.ofNat 32 (f32.minmax true a.toNat b.toNat)

/-! ### Square roots -/

/-- floor(sqrt n), one bit at a time from bit `i - 1` of the root. -/
def isqrtAux (n : Nat) : Nat → Nat → Nat
  | 0, r => r
  | i + 1, r => let c := r + 2 ^ i; if c * c ≤ n then isqrtAux n i c else isqrtAux n i r

def isqrt (n : Nat) : Nat := isqrtAux n (n.log2 / 2 + 1) 0

/-- A value with the same rounding as the square root of n * 2^e / d, n nonzero: the root to at least 64 bits, with a last bit
that says whether it is inexact. -/
def sqrtNum (n : Nat) (e : Int) (d : Nat) : Num :=
  -- choose an even shift that gives the quotient at least 160 bits
  let up : Nat := 160 + d.log2
  let sh : Nat := if (e - up) % 2 = 0 then up else up + 1
  let N := n * 2 ^ sh
  let y := N / d
  let r := isqrt y
  let exact := decide (r * r = y) && decide (N % d = 0)
  .fin false (2 * r + (if exact then 0 else 1)) ((e - sh) / 2 - 1) 1

/-- The square root as an exact-enough value (IEEE 754: −0 gives −0, a negative value NaN). -/
def Num.sqrt : Num → Num
  | .nan => .nan
  | .inf s => if s then .nan else .inf false
  | .fin s n e d => if n = 0 then .fin s 0 0 1 else if s then .nan else sqrtNum n e d

/-- The reciprocal of the square root (R136: ±0 gives infinity for +0 and −infinity for −0). -/
def Num.rsqrt : Num → Num
  | .nan => .nan
  | .inf s => if s then .nan else .zero false
  | .fin s n e d => if n = 0 then .inf s else if s then .nan else sqrtNum d (-e) n

/-! ### Correct rounding of functions by enclosures

A value is enclosed by two rationals over 2^p; where both ends round to one code, that code is the correct rounding. -/

/-- lo / 2^p ≤ value ≤ hi / 2^p. -/
structure Encl where
  lo : Int
  hi : Int
  p : Nat
  deriving DecidableEq, Repr

def Encl.num (v : Int) (p : Nat) : Num := .fin (decide (v < 0)) v.natAbs (-(p : Int)) 1

/-- The correct rounding by RNE into FP32 of a value that `f` encloses ever more closely. (DEDUCED, log 30.) -/
def roundEncl (f : Nat → Encl) : List Nat → Word
  | [] => 0
  | [p] => rne32 (Encl.num (f p).lo (f p).p)
  | p :: ps =>
    let x := f p
    let a := rne32 (Encl.num x.lo x.p)
    let b := rne32 (Encl.num x.hi x.p)
    if a = b then a else roundEncl f ps

/-- The precisions tried. -/
def precisions : List Nat := [220, 440, 880]

/-- Σ over i < k of x^(2i+1) / (2i+1) in units of 2^-p for x = 1/m: the series of atanh (sign +) or atan (sign alternating). -/
def atanSeries (alt : Bool) (m p : Nat) : Nat → Nat → Nat → Int → Int
  | 0, _, _, acc => acc
  | k + 1, i, pw, acc =>
    let term : Int := (pw / (2 * i + 1) : Nat)
    atanSeries alt m p k (i + 1) (pw / (m * m)) (if alt && i % 2 == 1 then acc - term else acc + term)

/-- ln 2 in units of 2^-p, less than p units below the truth or above it. -/
def ln2 (p : Nat) : Int := 2 * atanSeries false 3 p (p / 3 + 2) 0 (2 ^ p / 3) 0

/-- π in units of 2^-p, within 20 p units. -/
def piFix (p : Nat) : Int :=
  16 * atanSeries true 5 p (p / 4 + 2) 0 (2 ^ p / 5) 0 - 4 * atanSeries true 239 p (p / 15 + 2) 0 (2 ^ p / 239) 0

/-- Σ x^i / i! for x in units of 2^-p. -/
def expSeries (x : Int) (p : Nat) : Nat → Nat → Int → Int → Int
  | 0, _, _, acc => acc
  | k + 1, i, term, acc => expSeries x p k (i + 1) (term * x / (2 ^ p : Int) / (i + 1)) (acc + term)

/-- The value of an exact number in units of 2^-p, rounded down. -/
def Num.fix (p : Nat) : Num → Int
  | .fin s n e d =>
    let (k, r, _) := inUnits n e d (-(p : Int))
    if s then (if r = 0 then -(k : Int) else -(k : Int) - 1) else k
  | _ => 0

/-- An enclosure of exp(x) for |x| below 2^8, where `x` is in units of 2^-p with an error below `err` units. -/
def exEncl (p : Nat) (x err : Int) : Encl :=
  let l := ln2 p
  let k := x / l
  let r := x - k * l
  let y := expSeries r p (p / 2 + 8) 0 (2 ^ p) 0
  let er := 2 * err + 400 * p + 2 * k.natAbs * p + 16
  -- exp(x) = 2^k * y
  if 0 ≤ k then ⟨(y - er) * 2 ^ k.toNat, (y + er) * 2 ^ k.toNat, p⟩ else ⟨y - er, y + er, p + (-k).toNat⟩

/-- e^x correctly rounded into FP32. -/
def fexp (w : Word) : Word :=
  match numOf w with
  | .nan => 0x7FC00000
  | .inf s => if s then 0 else 0x7F800000
  | .fin s n e d =>
    if n = 0 then 0x3F800000
    else if 8 ≤ flog2 n e d then (if s then 0 else 0x7F800000)
    else roundEncl (fun p => exEncl p ((Num.fin s n e d).fix p) 1) precisions

/-- 2^x correctly rounded into FP32 (R136). -/
def fexp2 (w : Word) : Word :=
  match numOf w with
  | .nan => 0x7FC00000
  | .inf s => if s then 0 else 0x7F800000
  | .fin s n e d =>
    if n = 0 then 0x3F800000
    else if 8 ≤ flog2 n e d then (if s then 0 else 0x7F800000)
    else
      let (k, r, _) := inUnits n e d 0
      if r = 0 then rne32 (.fin false 1 (if s then -(k : Int) else k) 1)
      else roundEncl (fun p => exEncl p ((Num.fin s n e d).fix p * ln2 p / (2 ^ p : Int)) (512 * p)) precisions

/-- ln m for m = a / 2^t in [1, 2), in units of 2^-p. -/
def lnFix (a t p : Nat) : Int :=
  -- 2 atanh((m - 1) / (m + 1))
  let num := (a - 2 ^ t) * 2 ^ p
  let z := num / (a + 2 ^ t)
  2 * go z (z * z / 2 ^ p) p (p / 3 + 4) 0 z 0
where
  go (z z2 p : Nat) : Nat → Nat → Nat → Int → Int
    | 0, _, _, acc => acc
    | k + 1, i, pw, acc => go z z2 p k (i + 1) (pw * z2 / 2 ^ p) (acc + (pw / (2 * i + 1) : Nat))

/-- log2 x correctly rounded into FP32 (R136). -/
def flog2w (w : Word) : Word :=
  match numOf w with
  | .nan => 0x7FC00000
  | .inf s => if s then 0x7FC00000 else 0x7F800000
  | .fin s n e _ =>
    if n = 0 then 0xFF800000
    else if s then 0x7FC00000
    else
      let t := n.log2
      let k : Int := e + t
      if n = 2 ^ t then rne32 (Num.ofInt k)
      else roundEncl (fun p =>
        let y := lnFix n t p * 2 ^ p / ln2 p
        let v := y + k * 2 ^ p
        ⟨v - 40 * p, v + 40 * p, p⟩) precisions

/-- Σ (−1)^i x^(2i+o) / (2i+o)! for x in units of 2^-p: cosine for o = 0, sine for o = 1. -/
def trigSeries (x2 : Int) (p : Nat) : Nat → Nat → Int → Int → Int
  | 0, _, _, acc => acc
  | k + 1, j, term, acc => trigSeries x2 p k (j + 2) (-(term * x2 / (2 ^ p : Int)) / ((j + 1) * (j + 2))) (acc + term)

/-- An enclosure of sin x (`quarter` 0) or cos x (`quarter` 1) for any finite x, the argument reduced by π to p bits. -/
def trigEncl (quarter : Int) (x : Num) (p : Nat) : Encl :=
  let pi := piFix p
  let v := x.fix p
  let half := pi / 2
  let k := (v + half / 2) / half
  let r := v - k * pi / 2
  let q := (k + quarter) % 4
  let x2 := r * r / (2 ^ p : Int)
  let y := if q % 2 = 0 then trigSeries x2 p (p / 4 + 8) 1 r 0 else trigSeries x2 p (p / 4 + 8) 0 (2 ^ p) 0
  let z := if q < 2 then y else -y
  let er := 40 * p * (k.natAbs + 1) + 100 * p
  ⟨z - er, z + er, p⟩

/-- sin x or cos x correctly rounded into FP32 (R136, R138). -/
def ftrig (quarter : Int) (w : Word) : Word :=
  match numOf w with
  | .nan => 0x7FC00000
  | .inf _ => 0x7FC00000
  | .fin s n e d =>
    if n = 0 then (if quarter = 0 then w else 0x3F800000)
    else roundEncl (fun p => trigEncl quarter (.fin s n e d) (p + 200)) precisions

/-- tanh x correctly rounded into FP32 (R136). -/
def ftanh (w : Word) : Word :=
  match numOf w with
  | .nan => 0x7FC00000
  | .inf s => if s then 0xBF800000 else 0x3F800000
  | .fin s n e d =>
    if n = 0 then w
    else if 5 ≤ flog2 n e d then (if s then 0xBF800000 else 0x3F800000)
    else
      let m := roundEncl (fun p0 =>
        let p := p0 + 200
        let t := exEncl p ((Num.fin false n (e + 1) d).fix p) 1
        let one : Int := 2 ^ t.p
        ⟨(t.lo - one) * 2 ^ p / (t.lo + one) - 2, (t.hi - one) * 2 ^ p / (t.hi + one) + 2, p⟩) precisions
      if s then m ||| 0x80000000 else m

/-! ### Powers -/

/-- A nonnegative enclosure of `p` bits: mantissas and a power of two. -/
structure Pow where
  lo : Nat
  hi : Nat
  e : Int
  deriving DecidableEq, Repr

/-- The enclosure cut back to p bits, outward. -/
def Pow.trim (p : Nat) (x : Pow) : Pow :=
  let sh := x.hi.log2 + 1 - p
  if x.hi.log2 < p then x
  else if x.lo % 2 ^ sh = 0 ∧ x.hi = x.lo then ⟨x.lo / 2 ^ sh, x.lo / 2 ^ sh, x.e + sh⟩
  else ⟨x.lo / 2 ^ sh, x.hi / 2 ^ sh + 1, x.e + sh⟩

def Pow.mul (p : Nat) (x y : Pow) : Pow := Pow.trim p ⟨x.lo * y.lo, x.hi * y.hi, x.e + y.e⟩

/-- b^t for the low `k` bits of t, by squaring. -/
def powAux (p : Nat) : Nat → Nat → Pow → Pow → Pow
  | 0, _, _, acc => acc
  | k + 1, t, b, acc => powAux p k (t / 2) (Pow.mul p b b) (if t % 2 = 1 then Pow.mul p acc b else acc)

/-- b^t correctly rounded into FP32 by RNE, t a 32-bit count (R239). -/
def fpow (b : Word) (t : Nat) : Word :=
  match numOf b with
  | .nan => if t = 0 then 0x3F800000 else 0x7FC00000
  | .inf s => if t = 0 then 0x3F800000 else if s && t % 2 == 1 then 0xFF800000 else 0x7F800000
  | .fin s n e _ =>
    let neg := s && t % 2 == 1
    if t = 0 then 0x3F800000
    else if n = 0 then (if neg then 0x80000000 else 0)
    else go neg n e [160, 320, 640]
where
  go (neg : Bool) (n : Nat) (e : Int) : List Nat → Word
    | [] => 0
    | p :: ps =>
      let x := powAux p 32 t ⟨n, n, e⟩ ⟨1, 1, 0⟩
      let a := rne32 (.fin neg x.lo x.e 1)
      let c := rne32 (.fin neg x.hi x.e 1)
      if a = c ∨ ps = [] then a else go neg n e ps

end Sys2Proof.Machine
end

