-- ==== Sys2Proof/Machine/Elem.lean ====
section
/-! DEFINITION. Elements, blocks and groups: element values (R9 to R13), block scales (R14 to R20), the choice of scales (R32 to
R37), quantisation with its health events (R36, R44), stochastic dithers (R40, R41), and side slots (R25, R26). -/
namespace Sys2Proof.Machine

/-- The float format of an element type, where it has one. -/
def floatOf : Elem → Option FFmt
  | .f32 => some f32
  | .bf16 => some bf16
  | .f16 => some f16
  | .e4m3 | .mx8e4 => some e4m3
  | .e5m2 | .mx8e5 => some e5m2
  | .e2m3 | .mx6e2 => some e2m3
  | .e3m2 | .mx6e3 => some e3m2
  | .e2m1 | .mx4 => some e2m1
  | _ => none

/-- Bits of an element (R9, R21). -/
def elemBits : Elem → Nat
  | .f32 | .i32 | .n32 | .b32 => 32
  | .bf16 | .f16 => 16
  | .e4m3 | .e5m2 | .i8 | .mx8e4 | .mx8e5 | .mxi8 | .a8 => 8
  | .e2m3 | .e3m2 | .mx6e2 | .mx6e3 => 6
  | .e2m1 | .i4 | .mx4 | .a4 => 4

/-- The storage width of R23. -/
def storeBits : Elem → Nat
  | .e2m3 | .e3m2 => 8
  | e => elemBits e

/-- The MX formats: blocks of 32 under an S20 scale. -/
def isMxE : Elem → Bool
  | .mx8e4 | .mx8e5 | .mx6e2 | .mx6e3 | .mx4 | .mxi8 => true
  | _ => false

/-- The asymmetric groups. -/
def isAE : Elem → Bool
  | .a4 | .a8 => true
  | _ => false

/-- Formats whose data carries scales. -/
def isScaled (e : Elem) : Bool := isMxE e || isAE e

/-- The formats stored in plane units (R24). -/
def isMx6 : Elem → Bool
  | .mx6e2 | .mx6e3 => true
  | _ => false

/-- The elements of a block or group (R22). -/
def grpSize : Grp → Nat
  | .g32 => 32
  | .g64 => 64
  | .g128 => 128

/-- The element type of a block format (R154). -/
def bfElem : BFmt → Elem
  | .mx8e4 => .mx8e4 | .mx8e5 => .mx8e5 | .mx6e2 => .mx6e2 | .mx6e3 => .mx6e3 | .mx4 => .mx4 | .mxi8 => .mxi8
  | .a4 => .a4 | .a8 => .a8

/-- A two's-complement code of a width as an integer. -/
def signedOf (bits c : Nat) : Int :=
  let c := c % 2 ^ bits
  if c < 2 ^ (bits - 1) then c else (c : Int) - 2 ^ bits

/-- The two's-complement code of an integer. -/
def codeOfInt (bits : Nat) (v : Int) : Nat := (v % (2 ^ bits : Int)).toNat

/-- The value of an element code, scale apart (R9, R12); an A4 or A8 code is its unsigned number (R13). -/
def elemVal (e : Elem) (c : Nat) : Num :=
  match floatOf e with
  | some f => f.decode c
  | none =>
    match e with
    | .mxi8 => Num.mul (Num.ofInt (signedOf 8 c)) (.fin false 1 (-6) 1)
    | .a4 => Num.ofInt (c % 16)
    | .a8 => Num.ofInt (c % 256)
    | .n32 => Num.ofInt (c % 2 ^ 32)
    | e => Num.ofInt (signedOf (elemBits e) c)

/-- The sign bit of an element code. -/
def elemNeg (e : Elem) (c : Nat) : Bool := c / 2 ^ (elemBits e - 1) % 2 == 1

/-- The scale of an MX scale word; NaN for a NaN block (R14, R15). -/
def mxScale (s20 : Nat) : Num :=
  let e := s20 / 4096 % 256
  if e = 255 then .nan else .fin false (4096 + s20 % 4096) ((e : Int) - 127 - 12) 1

/-- The scale and zero point of an A4 or A8 group (R18, R19). -/
def aScale (e : Elem) (s20 : Nat) : Num × Nat :=
  if e = .a4 then (f16.decode (s20 / 16), s20 % 16) else (fp12.decode (s20 / 256), s20 % 256)

/-- Whether a scale word makes a NaN block or NaN group (R15, R20). -/
def nanScale (e : Elem) (s20 : Nat) : Bool :=
  if isAE e then (aScale e s20).1.isNan || (aScale e s20).1.isInf else (mxScale s20).isNan

/-- The exact value of an element under its scale word (R13, R16, R20, R43); an unscaled element ignores the word. -/
def scaledVal (e : Elem) (s20 c : Nat) : Num :=
  if isAE e then
    let (s, z) := aScale e s20
    if nanScale e s20 then .nan else Num.mul (Num.add false (elemVal e c) (Num.ofInt (-(z : Int)))) s
  else if isMxE e then Num.mul (elemVal e c) (mxScale s20)
  else elemVal e c

/-- Health events of R44. -/
structure Health where
  sat : Nat
  zero : Nat
  deriving DecidableEq, Repr

def Health.none : Health := ⟨0, 0⟩
def Health.add (a b : Health) : Health := ⟨a.sat + b.sat, a.zero + b.zero⟩
def Health.sum (l : List Health) : Health := l.foldl Health.add Health.none

/-- A code with its events. -/
structure Quant where
  code : Nat
  ev : Health
  deriving DecidableEq, Repr

/-- An input to a conversion: its exact value, and the sign bit of its code, which a NaN passes on under R11. -/
structure Inp where
  val : Num
  neg : Bool
  deriving DecidableEq, Repr

/-- An element as an input, under its scale word where it has one: a NaN of E4M3, of E5M2 or of a NaN block is read as the canonical
NaN (R43), whose sign is 0, whatever the sign of its code; other elements keep the sign of their code, those of a group that of their
value. -/
def deqInp (e : Elem) (s20 code : Nat) : Inp :=
  let v := scaledVal e s20 (code % 2 ^ elemBits e)
  ⟨v, if v.isNan && decide (elemBits e ≤ 8) then false else if isAE e then v.neg? else elemNeg e code⟩

/-- The input that an FP32 word is. -/
def inpOf (w : Word) : Inp := ⟨numOf w, w.msb⟩

/-- Whether the value of a nonzero finite input became zero. -/
def zeroedBy (x : Num) (isZero : Bool) : Nat :=
  match x with
  | .fin _ n _ _ => if n ≠ 0 ∧ isZero then 1 else 0
  | _ => 0

/-- The range of an integer element (R12, R144); quantisers keep MXINT8 within ±127. -/
def intRange : Elem → Int × Int
  | .i8 => (-128, 127)
  | .i4 => (-8, 7)
  | .mxi8 => (-127, 127)
  | .i32 => (-2 ^ 31, 2 ^ 31 - 1)
  | _ => (0, 2 ^ 32 - 1)

/-- Rounding to an integer and saturation (R12, R144): NaN gives 0, infinities the extremes. -/
def toIntElem (e : Elem) (m : Mode) (x : Num) : Quant :=
  let (lo, hi) := intRange e
  match x with
  | .nan => ⟨0, ⟨1, 0⟩⟩
  | .inf s => ⟨codeOfInt (elemBits e) (if s then lo else hi), ⟨1, 0⟩⟩
  | x =>
    let v := (x.toIntRound m).getD 0
    let w := clampI lo hi v
    ⟨codeOfInt (elemBits e) w, ⟨if v = w then 0 else 1, zeroedBy x (w == 0)⟩⟩

/-- Conversion outside a block, with saturation and NaN rules of R11 and R12. -/
def convElem (e : Elem) (m : Mode) (x : Inp) : Quant :=
  match floatOf e with
  | none => toIntElem e m x.val
  | some f =>
    match x.val with
    | .nan => ⟨(if f.top = .numbers then f.signBit x.neg else 0) + f.nanCode, ⟨1, 0⟩⟩
    | .inf s => ⟨(f.roundTo m (.inf s)).code, ⟨if f.top = .ieee then 0 else 1, 0⟩⟩
    | v =>
      let r := f.roundTo m v
      let mag := r.code % 2 ^ (f.ebits + f.mbits)
      ⟨r.code, ⟨if r.ovf ∧ mag ≤ f.maxCode then 1 else 0, zeroedBy v (mag == 0)⟩⟩

/-- The element of an MX block from an input and the block's scale (R36): overflow saturates at the largest finite magnitude. An
infinity or NaN, which only a given scale meets, converts under R11 or R12 and counts as one saturation (R159). -/
def quantMx (e : Elem) (m : Mode) (scale : Num) (x : Inp) : Quant :=
  match x.val with
  | .nan => ⟨(convElem e m x).code, ⟨1, 0⟩⟩
  | .inf s =>
    match floatOf e with
    | none => ⟨codeOfInt 8 (if s then -127 else 127), ⟨1, 0⟩⟩
    | some f => ⟨(f.roundTo m (.inf s)).code, ⟨1, 0⟩⟩
  | v =>
    let q := Num.div v scale
    match floatOf e with
    | none =>
      let k := ((Num.mul q (.fin false 64 0 1)).toIntRound m).getD 0
      let w := clampI (-127) 127 k
      ⟨codeOfInt 8 w, ⟨if k = w then 0 else 1, zeroedBy v (w == 0)⟩⟩
    | some f =>
      let r := f.roundTo m q
      if r.ovf then ⟨f.signBit v.neg? + f.maxCode, ⟨1, 0⟩⟩
      else ⟨r.code, ⟨0, zeroedBy v (r.code % 2 ^ (f.ebits + f.mbits) == 0)⟩⟩

/-- The code of an A4 or A8 element under a scale and zero point (R37). A scale of 0 stands for no quotient: R161 gives the code z and
counts a nonzero value as zeroed for BRESCALE, and the model takes the same for every given word. (DESIGN CHOICE, log 80.) -/
def quantA (e : Elem) (m : Mode) (s : Num) (z : Nat) (x : Inp) : Quant :=
  let qmax : Int := if e = .a4 then 15 else 255
  match x.val with
  | .nan => ⟨z, ⟨1, 0⟩⟩
  | .inf sg => ⟨if sg then 0 else qmax.toNat, ⟨1, 0⟩⟩
  | v =>
    if s.isZero then ⟨z, ⟨0, zeroedBy v true⟩⟩
    else
      let k := ((Num.div v s).toIntRound m).getD 0 + z
      let w := clampI 0 qmax k
      ⟨w.toNat, ⟨if k = w then 0 else 1, if k = w then zeroedBy v (w == z) else 0⟩⟩

/-- The largest finite value of an MX element format, MXINT8 at 127 × 2^-6 (R32). -/
def maxFinite (e : Elem) : Num :=
  match floatOf e with
  | some f => f.decode f.maxCode
  | none => .fin false 127 (-6) 1

/-- emax of R34. -/
def emaxOf : Elem → Int
  | .mx8e4 => 8
  | .mx8e5 => 15
  | .mx6e2 => 2
  | .mx6e3 => 4
  | .mx4 => 2
  | _ => 0

/-- The largest of a list of magnitudes (R32). -/
def amaxOf (xs : List Num) : Num := xs.foldl (fun a x => if a.lt x.abs then x.abs else a) (.zero false)

/-- The scale word of tight mode (R33), of OCP mode (R34), of an all-zero block (R35), of a NaN block (R32). -/
def chooseScale (e : Elem) (ocp : Bool) (xs : List Num) : Nat :=
  if xs.any (fun x => x.isNan || x.isInf) then 0xFF000
  else
    match amaxOf xs with
    | .fin _ n ex d =>
      if n = 0 then 0
      else if ocp then ((clampI 0 254 (flog2 n ex d - emaxOf e + 127)).toNat) * 4096
      else
        match Num.div (.fin false n ex d) (maxFinite e) with
        | .fin _ tn te td =>
          let l := flog2 tn te td
          -- (t / 2^l - 1) * 4096, rounded up
          let (k, r, _) := inUnits tn te td (l - 12)
          let m0 : Nat := (if r = 0 then k else k + 1) - 4096
          let (e1, m1) : Int × Nat := if m0 = 4096 then (l + 127 + 1, 0) else (l + 127, m0)
          if e1 < 0 then 0
          else if 254 < e1 then 254 * 4096 + 4095
          else e1.toNat * 4096 + m1
        | _ => 0xFF000
    | _ => 0xFF000

/-- The scale word of an A4 or A8 group from its extremes (R37). -/
def chooseA (e : Elem) (lo hi : Num) : Nat :=
  let lo := lo.min2 (.zero false)
  let hi := hi.max2 (.zero false)
  let f := if e = .a4 then f16 else fp12
  let zw : Nat := if e = .a4 then 16 else 256
  let qmax : Nat := if e = .a4 then 15 else 255
  let rng := Num.add false hi lo.neg
  if rng.isZero then 0
  else
    let c0 := f.round .rup (Num.div rng (Num.ofInt qmax))
    let c := if (f.decode c0).isInf then f.maxCode else c0
    let z := ((Num.div lo.neg (f.decode c)).toIntRound .rne).getD 0
    c * zw + (clampI 0 qmax z).toNat

/-- The scale word of a NaN group (R37). -/
def nanGroup : Nat := 0x7E000

/-- The stochastic dither of R40. -/
def dither (seed : Word) (index stream : Nat) : Nat :=
  let x : Word := (seed + BitVec.ofNat 32 index) ^^^ (BitVec.ofNat 32 stream <<< 24)
  let x := x ^^^ (x >>> 16)
  let x := x * 0x7FEB352D
  let x := x ^^^ (x >>> 15)
  let x := x * 0x846CA68B
  let x := x ^^^ (x >>> 16)
  x.toNat / 65536

/-- A rounding mode of R38 as a mode, with the dither of an element under SR. -/
def modeOf (r : Rnd) (seed : Word) (index stream : Nat) : Mode :=
  match r with
  | .rne => .rne
  | .rz => .rz
  | .rup => .rup
  | .rdn => .rdn
  | .rna => .rna
  | .sr => .sr (dither seed index stream)

/-- A rounding mode that is not SR. -/
def plainMode (r : Rnd) : Mode := modeOf r 0 0 0

/-- A block or group quantised: scale word, codes in order, events. -/
structure QBlock where
  s20 : Nat
  codes : List Nat
  ev : Health
  deriving DecidableEq, Repr

/-- Quantisation of a list of inputs under a given scale word; `modes` gives each element's mode. -/
def quantGiven (e : Elem) (s20 : Nat) (ms : List Mode) (xs : List Inp) : QBlock :=
  if nanScale e s20 then ⟨s20, xs.map (fun _ => 0), ⟨xs.length, 0⟩⟩
  else
    let qs := (xs.zip ms).map (fun p =>
      if isAE e then let (s, z) := aScale e s20; quantA e p.2 s z p.1 else quantMx e p.2 (mxScale s20) p.1)
    ⟨s20, qs.map (·.code), Health.sum (qs.map (·.ev))⟩

/-- Quantisation of a whole block or group with a chosen scale (R32 to R37). -/
def quantBlock (e : Elem) (ocp : Bool) (ms : List Mode) (xs : List Inp) : QBlock :=
  let vs := xs.map (·.val)
  if isAE e then
    if vs.any (fun x => x.isNan || x.isInf) then ⟨nanGroup, xs.map (fun _ => 0), ⟨xs.length, 0⟩⟩
    else
      let lo := vs.foldl Num.min2 (.zero false)
      let hi := vs.foldl Num.max2 (.zero false)
      quantGiven e (chooseA e lo hi) ms xs
  else quantGiven e (chooseScale e ocp vs) ms xs

/-- The elements of an unscaled format converted one by one (R11, R12, R39). -/
def convAll (e : Elem) (ms : List Mode) (xs : List Inp) : QBlock :=
  let qs := (xs.zip ms).map (fun p => convElem e p.2 p.1)
  ⟨0, qs.map (·.code), Health.sum (qs.map (·.ev))⟩

/-! ### Side slots -/

/-- SCALE_j of a side slot (R25). -/
def slotScale (v : BitVec 256) (j : Nat) : BitVec 20 := v.extractLsb' (20 * j) 20

/-- The descriptor bits 255:240. -/
def slotDesc (v : BitVec 256) : BitVec 16 := v.extractLsb' 240 16

/-- Bits lo + w - 1 to lo of a value replaced. -/
def putBits {n : Nat} (v : BitVec n) (lo w x : Nat) : BitVec n :=
  (v &&& ~~~(BitVec.ofNat n ((2 ^ w - 1) * 2 ^ lo))) ||| BitVec.ofNat n (x % 2 ^ w * 2 ^ lo)

/-- SCALE_j written; nothing for j from 12 on (R217). -/
def slotSetScale (v : BitVec 256) (j s : Nat) : BitVec 256 := if j < 12 then putBits v (20 * j) 20 s else v

/-- FMT, GRP, CNT and PL written (R28); bits 255:253 stay. -/
def slotSetDesc (v : BitVec 256) (fmt grp cnt pl : Nat) : BitVec 256 :=
  putBits v 240 13 (fmt % 32 + 32 * (grp % 4) + 128 * (cnt % 16) + 2048 * (pl % 4))

/-- The scales of a line of a format (R26), the nibble line for MXFP6. -/
def lineScales (e : Elem) (g : Grp) : Nat :=
  match e, g with
  | .mx4, _ => 8
  | .mx6e2, _ => 8
  | .mx6e3, _ => 8
  | .a4, .g32 => 8
  | .a4, .g64 => 4
  | .a4, .g128 => 2
  | .a8, .g32 => 4
  | .a8, .g64 => 2
  | .a8, .g128 => 1
  | _, _ => 4

end Sys2Proof.Machine
end

