-- ==== Sys2Proof/Machine/State.lean ====
section
/-! DEFINITION. The state of the whole device: warps and their splits, blocks, gangs, launches, cores, twins, clusters, dies,
near-memory units, contexts, queues, memory, mailboxes and the platform, and its value after reset. Every table is sparse: a
list of (number, value) pairs with rising numbers, in which an absent number reads as the entry after reset. -/
namespace Sys2Proof.Machine

/-- A table by number, sparse, keys strictly rising. -/
abbrev SMap (α : Type) := List (Nat × α)

/-- Where a byte of memory is: the storage that a physical location names. `hbm`, `est`, `peer` and `host` are the frame kinds
of R480; `scratch` is a block's core scratch (R314), `clus` a gang's cluster memory (R316), `lane` a thread's lane store (R312),
`bst` a column's B-store slice of a core (R345), `ring` the rings of the Backwater queues, which no context reaches (R445).
Blocks, gangs and warps are named by the numbers the model gives them at placement. -/
inductive Loc where
  | hbm (a : Nat)
  | est (a : Nat)
  | peer (rank a : Nat)
  | host (a : Nat)
  | scratch (blk off : Nat)
  | clus (gang off : Nat)
  | lane (warp t off : Nat)
  | bst (core col off : Nat)
  | ring (q off : Nat)
  deriving DecidableEq, Repr

/-- A result of a fixed-latency instruction that its split does not yet read: `due` is the nominal time of R64. -/
structure Pend where
  key : Nat
  val : Word
  due : Nat
  deriving DecidableEq, Repr

/-- A SETS that its split does not yet use (R264); `num` tells it from others, so that sides that inherit it write it once. -/
structure SPend where
  sr : SReg
  num : Nat
  val : DWord
  due : Nat
  deriving DecidableEq, Repr

/-- A frame of a join stack: the join identifier and the divergence tag; the parked sides of the tag stand in the warp (R246).
The frame of a call meets at its return address `ret` and has no join identifier (R252). -/
structure Frame where
  j : BitVec 8
  tag : Nat
  ret : Option DWord
  deriving DecidableEq, Repr

/-- What an instruction that has made its arrival, or has posted its launch, waits for: nothing more; the end of a phase of a tile barrier
(R198); the end of the phase of a block barrier, `sync` where the split itself is then released (R275); the arrivals of a GBAR's domain
(R276); the answers of a launch group (R511). -/
inductive Phase where
  | none
  | tile (phn : Nat)
  | bar (n : Nat) (sync : Bool)
  | gbar (dom : Nat)
  | launch (num : Nat)
  deriving DecidableEq, Repr

/-- What keeps a split from being ready (R297): a CONFL or return address at which its frame's splits meet; a CALLX whose
earlier groups have not returned, with the groups still to call and their targets (R253); an instruction at
its pc that waits for room, for a counter or for its condition (`counted` when SETC has already counted it, `arrived` when it
has made its arrival, with what it waits for); the migration that its PORTAGE began (R272). -/
inductive Wait where
  | meet (tag : Nat)
  | callx (tag : Nat) (groups : List (BitVec 32 × DWord))
  | op (counted arrived : Bool) (phase : Phase)
  | moving
  deriving DecidableEq, Repr

/-- A YIELD in force (R257): the other splits that have still to issue, as (warp, entry), and the time limit. -/
structure Yield where
  others : List (Nat × Nat)
  limit : Nat
  deriving DecidableEq, Repr

/-- A split (R246). `ent` is its entry: 0 the base entry, 1 to 64 the shared entries of the core's braid table, 65 and 66 the
reserved entries of the warp slot. `nd` is its nominal clock: the sum of effective stalls so far (R64). `born` is when a handler split's
trap was raised (R298); `got` the words of a WAITV that have satisfied its condition, by thread (R262). -/
structure Split where
  ent : Nat
  mask : BitVec 32
  pc : DWord
  joins : List Frame
  rets : List DWord
  spilled : Nat
  nd : Nat
  pend : List Pend
  spend : List SPend
  next : Nat
  ready : Option Nat
  passed : Nat
  aged : Option Nat
  yield : Option Yield
  wait : Option Wait
  got : List (Nat × DWord)
  priv : Bool
  susp : Bool
  born : Nat
  deriving DecidableEq, Repr

/-- The write-back of a fixed-latency instruction, due at a time of the device (R63, R104): the counter it releases and the
health events it counts (R149, R151). -/
structure Fixed where
  due : Nat
  ctr : Option Nat
  sat : Nat
  zero : Nat
  deriving DecidableEq, Repr

/-- How a variable-latency operation ends: at any time from its minimum latency on; exactly at the minimum latency (R70, R244);
with the tile operation of that number of the warp's raft (R173); with the BSLOAD of that number (R193); or as an access that rewrites
sr.kvrm (R199). -/
inductive FlightKind where
  | access
  | kv (lost : BitVec 32)
  | minimum
  | tile (k : Nat)
  | load (num : Nat)
  deriving DecidableEq, Repr

/-- A variable-latency operation in flight: its counter and the register values that its completion writes (R68). -/
structure Flight where
  ctr : Option Nat
  regs : List (Nat × Word)
  due : Nat
  kind : FlightKind
  deriving DecidableEq, Repr

/-- A trap taken or waiting to be taken by a handler (R259): the faulting split's entry, the cause, the faulters' mask, the
resume address, the literal of TRAP, SVC or BKPT, each faulter's address, and when it was raised (R298). -/
structure Trap where
  ent : Nat
  cause : Nat
  mask : BitVec 32
  tpc : DWord
  arg : Option Word
  addrs : List (Nat × DWord)
  since : Nat
  deriving DecidableEq, Repr

/-- One sealed batch of a thread: its number, its commands not yet complete, and the highest status so far (R231). -/
structure Batch where
  num : Nat
  left : Nat
  status : Nat
  deriving DecidableEq, Repr

/-- The copy batches of a thread (R231): how many it has sealed, which modulo 2^16 is the open batch's number; the open batch's
commands and status; the sealed ones not yet waited, oldest first; the carried status. -/
structure Batches where
  openNum : Nat
  openLeft : Nat
  openStatus : Nat
  sealed : List Batch
  carried : Nat
  deriving DecidableEq, Repr

/-- A near-memory command of a warp that NMWAIT has not delivered (R278, R279): its handle, the scope of its NMQ, and its
completion record once written. -/
structure Handle where
  num : Word
  scope : Scope
  cmd : Nat
  record : Option (BitVec 128)
  deriving DecidableEq, Repr

/-- Where a migrating warp lands (R272, R432): core and slot, the resumption address, and the register pairs, source first. -/
structure Landing where
  core : Nat
  slot : Nat
  pc : DWord
  pairs : List (Nat × Nat)
  deriving DecidableEq, Repr

/-- A warp (R285, R290): its number, block and place, the slot it had at placement (R433), its allocation (R54), dependence counters (R68), splits (R246), results
in flight (R63, R68), the two addresses of the portage point that it passed last (R439), trap registers (R265), traps pending and the entry whose trap the handler serves (R259), and what it holds of rafts, near-memory commands and batches. -/
structure Warp where
  blk : Nat
  idx : Nat
  core : Nat
  slot : Nat
  homeSlot : Nat
  alloc : Nat
  ctrs : List Nat
  splits : List Split
  parked : List (Nat × Split)
  starved : List Split
  nextTag : Nat
  fixed : List Fixed
  flights : List Flight
  role : Role
  kvrm : BitVec 32
  migr : Nat
  panch : BitVec 16
  pcr : DWord
  pcf : DWord
  xl : Bool
  tpc : DWord
  tcause : BitVec 8
  tmask : BitVec 32
  targ : Word
  taddr : SMap DWord
  traps : List Trap
  serving : Option Nat
  member : Nat
  raft : Option Nat
  tiles : Nat
  wdog : Nat
  handles : List Handle
  batches : SMap Batches
  landing : Option Landing
  ending : Bool
  deriving DecidableEq, Repr

/-- A block barrier (R274), and the warps that have arrived in its phase: each arrives once (R275). -/
structure Bar where
  expw : Nat
  arr : Nat
  phb : Bool
  who : List Nat
  deriving DecidableEq, Repr

/-- A tile barrier (R197). -/
structure TBar where
  exp : Nat
  rem : Nat
  phn : Nat
  deriving DecidableEq, Repr

/-- A flume (R233, R442) with the engine's reservations (R361). -/
structure Flume where
  base : Nat
  size : Nat
  depth : Nat
  p : Word
  q : Word
  rin : Nat
  rout : Nat
  deriving DecidableEq, Repr

/-- The shape record of R348, as read. -/
structure Shape where
  base : Nat
  fmt : Nat
  grp : Nat
  ndim : Nat
  bax : Nat
  oob : Nat
  wb : Bool
  fill : Nat
  ext : List Nat
  str : List Nat
  box : List Nat
  reserved : Bool
  deriving DecidableEq, Repr

/-- The recording state of a block (R403); `prod` is the producer table by 16-row group: the sequence number of the record that
last wrote the rows, with that record's tile descriptor (R410). -/
structure Recording where
  isOpen : Bool
  seg : Nat
  seq : Word
  prod : SMap (Word × Nat)
  deriving DecidableEq, Repr

/-- A retained BSLOAD (R194): record address, N and K origins, B-store offset, SP. -/
structure Retained where
  addr : DWord
  no : Word
  ko : Word
  off : Word
  sp : Bool
  deriving DecidableEq, Repr

/-- The states of a command in a sluice engine's queue (R361). -/
inductive CmdState where
  | queued | started | suspended
  deriving DecidableEq, Repr

/-- A translation failure that the walkers found ahead of a transfer: in a write or not, the 64 KiB in which it lies, its cause (R355). -/
structure Held where
  write : Bool
  page : Nat
  cause : Nat
  deriving DecidableEq, Repr

/-- A line that an engine has worked out and not yet written whole (R335, R337, R515): its address, the bits that it changes of the line's bytes
and of its side slot, and their new values. -/
structure LinePut where
  va : Nat
  mask : BitVec 1024
  data : BitVec 1024
  smask : BitVec 256
  sdata : BitVec 256
  deriving DecidableEq, Repr

/-- A command of a sluice engine (R226, R227): its owner, mode, addresses, the eight words, open batch, the seed and privilege
it was posted with, the header address and policy of a .kvg's descriptor, its state, progress in granules, record copies, the copy of a
.kvg's cache header (none where it cannot be read, R381), reserved flume counts (R366), the highest status of its positions, the
failures held for it (R355), what it has still to write of its present granule (R362, R363), and the granules of 32 bytes and side slots which
that covers whole (R530). -/
structure Cmd where
  warp : Nat
  thread : Nat
  blk : Nat
  asid : Nat
  priv : Bool
  seed : Word
  mode : Nat
  src : DWord
  dst : DWord
  words : List Word
  batch : BitVec 16
  kv : Option (Nat × Bool)
  state : CmdState
  progress : Nat
  srec : Option Shape
  drec : Option Shape
  hdr : List Byte
  cin : Word
  cout : Word
  status : Nat
  held : List Held := []
  out : List LinePut := []
  heals : List (Nat × Bool) := []
  deriving DecidableEq, Repr

/-- A block (R292, R294): its gang, launch index, core, accumulator window (R175), barriers (R274),
tile barriers (R197), flumes (R233), key-value descriptors (R379), recording (R403), B range (R345), retained BSLOADs (R194),
health counters (R531), how many of its warps have ended while away from its core (R433), the slots of those that have ended on it,
whose lane stores it still holds (R294), where its scratch range stands in the ways (R314, R320), the way count of its WAYSET (R220),
the items it last popped from each queue, with those to be delivered again (R305), and, while it is saved, its weir slots, those of the
other kind of core under numbers from 32 on, and its sluice commands (R363, R461); after resume the commands for which the queue of its
core has no room yet (R360, R364). -/
structure Block where
  gang : Nat
  index : Nat
  core : Nat
  accBase : Nat
  live : SMap Bool
  bars : SMap Bar
  tbars : SMap TBar
  flumes : List Flume
  kvd : SMap Word
  recording : Recording
  bRange : Option (Nat × Nat)
  bsloads : List Retained
  satc : Nat
  zeroc : Nat
  gone : Nat
  spent : List Nat
  scrBase : Nat
  wset : Option Nat
  popped : SMap DWord
  again : SMap DWord
  ended : Bool
  savedWeirs : SMap Bool
  savedCmds : List Cmd
  deriving DecidableEq, Repr

/-- The states of a gang that outlast a step: those of R358 (FAULTED, SCRUBBING and RELAUNCH are passed within one), those of R459
(SAVING is passed within one), SERVED of R524, and `halted` for a gang that a core stop has stopped (R522). -/
inductive GangState where
  | running | killing | reported | stopped | stopping | saved | resuming | served | halted
  deriving DecidableEq, Repr

/-- A fault record (R526): its anchors (R439), the faulting warp's first, the gangs that it stopped, and its place in the order of
detection. -/
structure FaultRec where
  cause : Nat
  ocause : Nat
  cls : Nat
  asid : Nat
  world : Bool
  addr : DWord
  raddr : DWord
  cgen : Word
  core : Nat
  mask : BitVec 32
  anchors : List (List (BitVec 64))
  kills : Nat
  lrec : DWord
  bidx : Nat
  gangs : List Nat
  seen : Nat
  deriving DecidableEq, Repr

/-- A gang (R294, R295): its launch, index among the launch's gangs, first core, state, kill count (R358), how many of its blocks
have ended, when it was placed, whether it waits to be restored from its image or to be placed anew, its fault record until that is
handed on, the array operations that a kill's scrub waits for (R359), by block index the items to be delivered again (R305), and where
its slice of cluster memory stands in each core of its cluster (R316, R320). -/
structure Gang where
  launch : Nat
  index : Nat
  core : Nat
  state : GangState
  kills : Nat
  ended : Nat
  placed : Nat
  restore : Bool
  fault : Option FaultRec
  awaits : List Nat
  again : SMap (SMap DWord)
  slices : List Nat
  deriving DecidableEq, Repr

/-- The launch record of R441, its reserved fields apart. -/
structure Record where
  entr : Nat
  entf : Nat
  levels : List (BitVec 32)
  param : Nat
  code : Nat
  clen : Nat
  cgen : Word
  ptab : Nat
  ftab : Nat
  succ : Nat
  regr : Nat
  regf : Nat
  lane : Nat
  accr : Nat
  scr : Nat
  scrs : Nat
  clm : Nat
  clms : Nat
  nbar : Nat
  nfl : Nat
  ways : Nat
  xs : Bool
  res : Bool
  idem : Bool
  wset : Bool
  wld : Bool
  dcnt : Nat
  queue : Nat
  cls : Nat
  reserved : Bool
  deriving DecidableEq, Repr

/-- Where an accepted launch is: in its queue's ring, in the task store until its DCNT reaches 0, waiting for the answers of its
launch group (R511), among the queue's ready launches, with its gangs all placed, or ended (R446, R453, R455). -/
inductive LaunchState where
  | posted | stored | asked | ready | placed | ended
  deriving DecidableEq, Repr

/-- An accepted launch (R444): the address and the copy of its record, its context, queue, flume table, the next gang to place,
how many gangs have ended, its place in the ready order, its Backwater batch by die and number (R395), its launch group (R511),
whether it is to end without retiring (R455), the clusters and dies on which its CLUSTER and DIE instances run, as domain, instance and
place (R290), the cores on which it has run (R340, R455), and memory as it stood when it became ready: its old code (R340, R341). -/
structure Launch where
  addr : Nat
  asid : Nat
  record : Record
  flumes : List (Nat × Nat × Nat)
  queue : Nat
  state : LaunchState
  nextGang : Nat
  gangsEnded : Nat
  order : Nat
  batch : Option (Nat × Nat)
  group : Option Nat
  aborted : Bool
  homes : List (Nat × Nat × Nat)
  ran : List Nat
  code : List Host.Cell
  deriving DecidableEq, Repr

/-- A work queue (R445). -/
structure Queue where
  bound : Bool
  ring : Nat
  depth : Nat
  head : Word
  tail : Word
  asid : Nat
  world : Bool
  cls : Nat
  tkt : Nat
  pass : Nat
  wt : Nat
  item : Bool
  closed : Bool
  group : Nat
  wasReady : Bool
  deriving DecidableEq, Repr

/-- A context (R41, R265, R476, R507, R526): its records not yet written stand oldest first. -/
structure Context where
  world : Bool
  troot : Nat
  tvec : DWord
  poolBase : Nat
  poolSize : Nat
  seed : Word
  hflag : Word
  seq : Word
  slots : SMap FaultRec
  waiting : List FaultRec
  deriving DecidableEq, Repr

/-- A cached leaf (R476, R480): identifier, world, virtual base, page size, entry. -/
structure TlbEntry where
  asid : Nat
  world : Bool
  base : Nat
  size : Nat
  leaf : BitVec 64
  deriving DecidableEq, Repr

/-- A line held in a core's L1 (R319): its physical line, the contexts and virtual lines by which the core has accessed it (for
invalidation, R485), data, dirty bytes, side slot (R25) and the dirty ones of its twelve scales and its descriptor. -/
structure L1Line where
  line : Loc
  names : List (Nat × Nat)
  data : BitVec 1024
  dirty : BitVec 128
  side : BitVec 256
  sdirty : BitVec 13
  deriving DecidableEq, Repr

/-- An entry of a subcore's operand latch (R60, R61): the warp, the register, and the warp's issues it still serves. -/
structure Latch where
  warp : Nat
  reg : Reg
  life : Nat
  deriving DecidableEq, Repr

/-- A core of either kind: sr.cctl (R266), L1 (R319), TLB (R476), instruction cache by virtual fetch block (R340), scratch ways
(R320), weir slots (R235), each with the launch and the block whose warp set it, for which it lives, the sluice engine's queue (R360), operand latches (R60) and
last issue times by subcore (R286), and whether it is stopped (R522). -/
structure Core where
  cctl : Word
  l1 : List L1Line
  tlb : List TlbEntry
  icache : List ((Nat × Nat × Nat) × BitVec 256)
  ways : Option Nat
  weirs : SMap Bool
  weirBy : SMap (Nat × Nat)
  sluice : List Cmd
  latch : SMap (List Latch)
  issued : SMap Nat
  stopped : Bool
  deriving DecidableEq, Repr

/-- A split at an instruction of its raft: the warp, the entry, the frame of its own instruction, the lowest thread active there and
the destination of a CONVENE. -/
structure Member where
  warp : Nat
  ent : Nat
  fr : Fr
  lane : Nat
  d : Reg
  deriving DecidableEq, Repr

/-- An operation of a raft that some members have issued and at which they wait (R173): the number that the model gives it, the
instruction, the splits that issued it, from the elected thread the guard, the values of its register operands and the privilege,
the registers of members that the operation reads (R181, R186), as they stood at issue, and whether the members have agreed so far. -/
structure RaftOp where
  k : Nat
  instr : Instr
  issued : List Member
  guard : Bool
  vals : List Word
  priv : Bool
  spans : List (Nat × Word)
  same : Bool := true
  deriving DecidableEq, Repr

/-- The core scratch of a block and the B-store of its twin with their scales and metadata, as they stood (R183). -/
structure Seen where
  cells : List Host.Cell := []
  side : SMap (BitVec 256) := []
  bscale : SMap (BitVec 20) := []
  bmeta : SMap (BitVec 64) := []
  deriving DecidableEq, Repr

/-- An operation of a twin's array that is complete under R173 (R174): its raft and number, instruction, operand values,
privilege, the members' registers, the record copies it took with their addresses (R356), where the save areas of its log record
stand (R408), whether it has begun, its memory operands as they stood when it became complete (R183), and the failures held for it (R355). -/
structure ArrayOp where
  raft : Nat
  k : Nat
  instr : Instr
  vals : List Word
  priv : Bool
  spans : List (Nat × Word)
  recs : List (Nat × Shape)
  log : Option Nat
  begun : Bool
  seen : Seen := {}
  held : List Held := []
  deriving DecidableEq, Repr

/-- A raft (R170): twin, RID, the first block of its group and its gang, member count, the splits that have joined and wait for it
to form, then the members in member order, the elected thread, the members that have left, its operations that have not retired, in
order, and, while it is saved, those that its array had not begun (R459). -/
structure Raft where
  twin : Nat
  rid : Nat
  blk : Nat
  gang : Nat
  size : Nat
  formed : Bool
  joiners : List Member
  members : List Nat
  elect : Nat
  left : List Nat
  ops : List RaftOp
  kept : List ArrayOp
  deriving DecidableEq, Repr

/-- A BSLOAD whose slots are not yet written (R193): its number, the warp and split that issued it, its block, privilege and
operands, the record copies it took, the pc from which it was issued (R358), and the failures held for it (R355). -/
structure BLoad where
  num : Nat
  warp : Nat
  ent : Nat
  blk : Nat
  priv : Bool
  op : Retained
  recs : List (Nat × Shape)
  pc : DWord
  held : List Held := []
  deriving DecidableEq, Repr

/-- A twin (R343): its array's queue (R180), the operations that every member has issued and that wait for room in it, as raft and
number, the context whose data the B-store holds (R345), and loads under way. -/
structure Twin where
  ops : List ArrayOp
  line : List (Nat × Nat)
  ctx : Option Nat
  loads : List BLoad
  deriving DecidableEq, Repr

/-- A cluster: walk-ahead TLB and record cache (R354, R356). -/
structure Cluster where
  tlb : List TlbEntry
  recs : List ((Nat × Bool × Nat) × List Byte)
  deriving DecidableEq, Repr

/-- The states of an exit record (R393). -/
inductive ExitState where
  | pending | batched
  deriving DecidableEq, Repr

/-- An exit record (R393); a DONE record leaves the queue. -/
structure ExitRec where
  asid : Nat
  hdr : Nat
  seq : Nat
  pos : Nat
  exitLayer : Nat
  layer : Nat
  pages : List Nat
  slot : Nat
  state : ExitState
  since : Nat
  deriving DecidableEq, Repr

/-- A batch buffer in use (R394): its cache header, buffer number, records by number, the launch serving it, and its failures. -/
structure BwBatch where
  asid : Nat
  hdr : Nat
  buf : Nat
  recs : List Nat
  launch : Option Nat
  fails : Nat
  deriving DecidableEq, Repr

/-- One block or element of a collective's partial: codes, and the scale word of a scaled format. -/
structure Partial where
  codes : List Nat
  s20 : Nat
  deriving DecidableEq, Repr

/-- What a collective has still to write on this member (R515), what that covers whole (R530), and the events of R44. -/
structure CollOut where
  out : List LinePut
  heals : List (Nat × Bool)
  sat : Nat
  zero : Nat
  deriving DecidableEq, Repr

/-- A collective posted to a die's engine (R513): the poster's context, privilege and seed, the operation, the element count, the
descriptor's address and bytes, its place among the group's collectives, whether it has begun, and what it writes once that is known. -/
structure Collective where
  asid : Nat
  priv : Bool
  addr : Nat
  seed : Word
  op : CollOp
  count : Nat
  desc : List Byte
  index : Nat
  begun : Bool
  out : Option CollOut := none
  deriving DecidableEq, Repr

/-- A die: exit records by number, batches, and the collective engine's queue (R393, R394, R513). -/
structure Die where
  exits : SMap ExitRec
  nextExit : Nat
  batches : List BwBatch
  colls : List Collective
  deriving DecidableEq, Repr

/-- One part of a near-memory command (R466): the physical 64 KiB block that it works on, the elements or bytes it covers, its place in the
arrival order of its home once it is in the queue there (R465), its progress in elements, the lines worked out and not yet written, whether
it has failed and ends with them (R467), whether it has ended, and its status. -/
structure NmPart where
  page : Nat
  first : Nat
  count : Nat
  arrival : Option Nat
  pos : Nat
  out : List LinePut
  failed : Bool
  ended : Bool
  status : Nat
  detail : Nat
  deriving DecidableEq, Repr

/-- Who sent a near-memory command: a warp's NMQ with its handle, or Flioc for a task record (R456). -/
inductive NmIssuer where
  | warp (w : Nat) (handle : Word)
  | task (addr : Nat)
  deriving DecidableEq, Repr

/-- A near-memory command in its unit's queue (R465): issuer, rank (R468), place in the arrival order (R243), context, block for its health
counts, privilege, seed, the word, the argument record once read, the physical bytes that its spans name (R243), parts, results. -/
structure NmCmd where
  issuer : NmIssuer
  rank : Nat
  arrival : Nat
  asid : Nat
  blk : Option Nat
  priv : Bool
  seed : Word
  word : BitVec 128
  arg : List Byte
  words : List (Nat × Nat)
  started : Bool
  parts : List NmPart
  res0 : Word
  res1 : Word
  deriving DecidableEq, Repr

/-- The operands of an ingress descriptor (R519). -/
structure IngressDesc where
  stg : Nat
  dst : Nat
  cword : Nat
  n : Nat
  cval : Word
  deriving DecidableEq, Repr

/-- An ingress queue (R519). -/
structure Ingress where
  bound : Bool
  asid : Nat
  base : Nat
  size : Nat
  reg : BitVec 256
  held : List IngressDesc
  chunk : Nat
  key : Nat
  deriving DecidableEq, Repr

/-- A launch group (R511): N, own rank, generation, port route of each rank, collectives posted (R513). -/
structure Group where
  n : Nat
  rank : Nat
  gen : Nat
  routes : List Nat
  posted : Nat
  deriving DecidableEq, Repr

/-- A key slot (R371). -/
structure KeySlot where
  key : BitVec 256
  both : Bool
  deriving DecidableEq, Repr

/-- What a read from outside has been given last: its bytes, and whether the indication of poisoned data goes with them (R530). -/
structure HostRead where
  bytes : List Byte
  poisoned : Bool
  deriving DecidableEq, Repr

/-- A control mailbox (R507): the command bytes, doorbell and status words. -/
structure Mailbox where
  bytes : BitVec 512
  bell : Word
  status : Word
  deriving DecidableEq, Repr

/-- The status and identity window, apart from its fused fields (R535), and the configuration block (R537); `off` is the loss of power
(R2), `fsvnUp` the FSVN that verified images have asked for (R536), `calm` the time of the last lowering of the clocks (R540); `repair` the spare
that stands for each failing Reach core, and `spare` the spares in use as self-test has counted them (R539). -/
structure Platform where
  off : Bool
  bstate : Nat
  fail : Nat
  svn : Word
  csram : DWord
  chbm : DWord
  pwr : Nat
  plim : Nat
  tj : Nat
  clk : Nat
  sch : Nat
  sce : Nat
  fwm : BitVec 256
  cfgHash : BitVec 256
  secure : List (Nat × Nat)
  limit : Nat
  fsvnUp : Nat
  calm : Nat
  repair : SMap Nat
  spare : Option Word
  deriving DecidableEq, Repr

/-- The event ring (R508). -/
structure Ring where
  set : Bool
  base : Nat
  count : Nat
  widx : Word
  ridx : Word
  deriving DecidableEq, Repr

/-- A fault raised and not yet acted on (R521 to R524, R358): the warp, the split, cause, original cause, faulters, addresses, and of an
operand-fetch fault the members or the issuing warp with their pcs. -/
structure Raised where
  warp : Nat
  ent : Nat
  core : Nat
  gang : Nat
  cause : Nat
  ocause : Nat
  mask : BitVec 32
  pc : DWord
  addr : DWord
  raddr : DWord
  named : List (Nat × DWord) := []
  deriving DecidableEq, Repr

/-- Who takes the next step: a split issues its next instruction, or an event of the table happens. -/
inductive Turn where
  | issue (warp ent : Nat)
  | event (e : Instr)
  deriving DecidableEq, Repr

/-- Flioc's dispatch state (R448, R450, R454): decisions since each class was served, the virtual time that each class has reached, the PASS
that its last queue served held before its stride was added, the cluster reservations by cluster, with the device-wide reservation of a
resident launch, the gangs that wait to be placed again, the near-memory tasks that wait, by context and address (R455, R456), and the
commands, each with its unit, that wait for room in the unit's queue (R465). -/
structure Flioc where
  since : List Nat
  vtime : List Nat
  last : List Nat
  reserve : SMap Nat
  whole : Option Nat
  resumes : List Nat
  tasks : SMap Nat
  sends : List (Nat × NmCmd)
  deriving DecidableEq, Repr

/-- The whole device. `stage` is the race rank that has acted last in the present cycle (R323, R332). -/
structure State where
  turns : List Turn
  cur : Nat × Nat
  free : Nat
  now : Nat
  stage : Nat
  uid : Nat
  mem : List Host.Cell
  side : SMap (BitVec 256)
  poison : List Nat
  regs : SMap Word
  acc : SMap Word
  bscale : SMap (BitVec 20)
  bmeta : SMap (BitVec 64)
  warps : SMap Warp
  blocks : SMap Block
  gangs : SMap Gang
  launches : SMap Launch
  rafts : SMap Raft
  cores : SMap Core
  twins : SMap Twin
  clusters : SMap Cluster
  dies : SMap Die
  nmus : SMap (List NmCmd)
  queues : SMap Queue
  ctxs : SMap Context
  groups : SMap Group
  ingress : SMap Ingress
  keys : SMap KeySlot
  flioc : Flioc
  raised : List Raised
  events : List (Nat × Nat × List Byte)
  box0 : Mailbox
  box1 : Mailbox
  ring : Ring
  plat : Platform
  ports : SMap Bool
  replays : SMap Nat
  hostIn : HostRead
  deriving DecidableEq, Repr

/-- Why the machine stops. -/
inductive Fault where
  /-- Raised by a meaning that finds the state naming an entry that no table holds (a split of no warp, a warp of no block): a
  state that no run reaches. Safe: the hardware has no such state. -/
  | dangling
  deriving DecidableEq, Repr

/-- Why a step has no meaning. -/
inductive Refusal where
  /-- Raised by an arm of `exec` for an instruction or event that has no meaning yet. Safe: the model stops. -/
  | notModelled (mnemonic : String)
  /-- Raised by `exec` of an instruction when `State.cur` names no split: no agent issues it. Safe: the model stops. -/
  | noIssuer
  /-- Raised by `exec` of an event whose conditions do not hold in the state: the event does not happen there. Safe. -/
  | notEnabled
  deriving DecidableEq, Repr

/-- A core after reset: CHK and DBG clear (R66, R266), L1, TLB, instruction cache and engine empty, weir slots UNSET (R235). -/
def Core.reset : Core :=
  { cctl := 0, l1 := [], tlb := [], icache := [], ways := none, weirs := [], weirBy := [], sluice := [], latch := [],
    issued := [], stopped := false }

/-- A twin after reset (R175, R345). -/
def Twin.reset : Twin := { ops := [], line := [], ctx := none, loads := [] }

/-- A cluster after reset: TLB and record cache empty (R356, R476). -/
def Cluster.reset : Cluster := { tlb := [], recs := [] }

/-- A die after reset (R393, R394). -/
def Die.reset : Die := { exits := [], nextExit := 0, batches := [], colls := [] }

/-- A queue not bound: TKT 1, every other field 0 (R445). -/
def Queue.reset : Queue :=
  { bound := false, ring := 0, depth := 0, head := 0, tail := 0, asid := 0, world := false, cls := 0, tkt := 1, pass := 0,
    wt := 0, item := false, closed := false, group := 0, wasReady := false }

/-- An ingress queue not bound, its descriptor register 0 (R519). -/
def Ingress.reset : Ingress :=
  { bound := false, asid := 0, base := 0, size := 0, reg := 0, held := [], chunk := 0, key := 0 }

/-- A recording state of a block at placement (R403). -/
def Recording.reset : Recording := { isOpen := false, seg := 0, seq := 0, prod := [] }

/-- A barrier at placement (R274). -/
def Bar.reset : Bar := { expw := 0, arr := 0, phb := false, who := [] }

/-- A tile barrier at placement (R197). -/
def TBar.reset : TBar := { exp := 0, rem := 0, phn := 0 }

/-- A thread's batches at placement (R231). -/
def Batches.reset : Batches := { openNum := 0, openLeft := 0, openStatus := 0, sealed := [], carried := 0 }

/-- A mailbox after reset. -/
def Mailbox.reset : Mailbox := { bytes := 0, bell := 0, status := 0 }

/-- The status window after reset (R535): PLIM 3,600, CLK 600, every other field 0. -/
def Platform.reset : Platform :=
  { off := false, bstate := 0, fail := 0, svn := 0, csram := 0, chbm := 0, pwr := 0, plim := 3600, tj := 0, clk := 600, sch := 0, sce := 0,
    fwm := 0, cfgHash := 0, secure := [], limit := 0, fsvnUp := 0, calm := 0, repair := [], spare := none }

/-- Flioc's dispatch state at the start of a run (R448, R450). -/
def Flioc.reset : Flioc :=
  { since := [0, 0, 0, 0, 0], vtime := [0, 0, 0, 0, 0], last := [0, 0, 0, 0, 0], reserve := [], whole := none, resumes := [], tasks := [], sends := [] }

/-- The device right after reset: the boot ROM has not yet read the flash (BSTATE 0), and no core, engine, queue or port is
active (R534, R535). Memory lists nothing. -/
def State.reset : State :=
  { turns := [], cur := (0, 0), free := 0, now := 0, stage := 0, uid := 1, mem := [], side := [], poison := [], regs := [], acc := [],
    bscale := [], bmeta := [], warps := [], blocks := [], gangs := [], launches := [], rafts := [], cores := [], twins := [],
    clusters := [], dies := [], nmus := [], queues := [], ctxs := [], groups := [], ingress := [], keys := [],
    flioc := Flioc.reset, raised := [], events := [], box0 := Mailbox.reset, box1 := Mailbox.reset,
    ring := { set := false, base := 0, count := 0, widx := 0, ridx := 0 }, plat := Platform.reset, ports := [],
    replays := [], hostIn := ⟨[], false⟩ }

end Sys2Proof.Machine
end

