-- ==== Sys2Proof/Machine/Sparse.lean ====
section
/-! DEFINITION. Reading and writing the sparse tables, memory, side slots and registers of `State`. -/
namespace Sys2Proof.Machine

/-- The entry of a number, if the table lists it. -/
def tget {α : Type} : SMap α → Nat → Option α
  | [], _ => none
  | (k', v) :: r, k => if k = k' then some v else tget r k

/-- The table with the entry of a number set, in rising order of numbers. -/
def tput {α : Type} : SMap α → Nat → α → SMap α
  | [], k, v => [(k, v)]
  | (k', v') :: r, k, v =>
    if k < k' then (k, v) :: (k', v') :: r
    else if k = k' then (k, v) :: r
    else (k', v') :: tput r k v

/-- The table without the entry of a number. -/
def tdel {α : Type} : SMap α → Nat → SMap α
  | [], _ => []
  | (k', v') :: r, k => if k = k' then r else (k', v') :: tdel r k

/-- The entry of a number, or the given default. -/
def tgetD {α : Type} (m : SMap α) (k : Nat) (d : α) : α := (tget m k).getD d

/-- The table with the entry of a number set; the default is not listed. -/
def tputD {α : Type} [DecidableEq α] (m : SMap α) (k : Nat) (d v : α) : SMap α :=
  if v = d then tdel m k else tput m k v

/-- The table with the entry of a number changed, where it is listed. -/
def tmod {α : Type} (m : SMap α) (k : Nat) (f : α → α) : SMap α :=
  match tget m k with
  | some v => tput m k (f v)
  | none => m

/-- The numbers that a table lists. -/
def tkeys {α : Type} (m : SMap α) : List Nat := m.map (·.1)

/-- The keys rise strictly. -/
def tsorted {α : Type} : SMap α → Bool
  | [] => true
  | [_] => true
  | (k, _) :: (k', v') :: r => decide (k < k') && tsorted ((k', v') :: r)

/-- The number under which the cell of a location stands in `State.mem`. (DESIGN CHOICE, log 68.) -/
def Loc.key : Loc → Nat
  | .hbm a => 16 * a
  | .est a => 16 * a + 1
  | .peer r a => 16 * (r * 2 ^ 52 + a) + 2
  | .host a => 16 * a + 3
  | .scratch b a => 16 * (b * 2 ^ 52 + a) + 4
  | .clus g a => 16 * (g * 2 ^ 52 + a) + 5
  | .lane w t a => 16 * ((w * 32 + t) * 2 ^ 52 + a) + 6
  | .bst c n a => 16 * ((c * 64 + n) * 2 ^ 52 + a) + 7
  | .ring q a => 16 * (q * 2 ^ 52 + a) + 8

/-- The location `n` bytes further on. -/
def Loc.add (l : Loc) (n : Nat) : Loc :=
  match l with
  | .hbm a => .hbm (a + n)
  | .est a => .est (a + n)
  | .peer r a => .peer r (a + n)
  | .host a => .host (a + n)
  | .scratch b a => .scratch b (a + n)
  | .clus g a => .clus g (a + n)
  | .lane w t a => .lane w t (a + n)
  | .bst c k a => .bst c k (a + n)
  | .ring q a => .ring q (a + n)

/-- The offset of a location within its storage. -/
def Loc.off : Loc → Nat
  | .hbm a | .est a | .host a => a
  | .peer _ a | .scratch _ a | .clus _ a | .ring _ a => a
  | .lane _ _ a | .bst _ _ a => a

/-- The location of the first byte of the 128-byte line that holds a location. -/
def Loc.line (l : Loc) : Loc :=
  match l with
  | .hbm a => .hbm (a / 128 * 128)
  | .est a => .est (a / 128 * 128)
  | .peer r a => .peer r (a / 128 * 128)
  | .host a => .host (a / 128 * 128)
  | .scratch b a => .scratch b (a / 128 * 128)
  | .clus g a => .clus g (a / 128 * 128)
  | .lane w t a => .lane w t (a / 128 * 128)
  | .bst c k a => .bst c k (a / 128 * 128)
  | .ring q a => .ring q (a / 128 * 128)

/-- What a byte of memory that nothing has written reads as. (DESIGN CHOICE, log 2.) -/
def unlisted : Byte := 0

/-- The canonical form of memory: numbers strictly rising, no cell equal to what an unlisted byte reads as. -/
def Memory.wf (m : List Host.Cell) : Bool := tsorted m && m.all (fun c => decide (c.2 ≠ unlisted))

/-- The byte at a location. -/
def State.byte (s : State) (l : Loc) : Byte := tgetD s.mem l.key unlisted

/-- A byte written at a location. -/
def State.setByte (s : State) (l : Loc) (b : Byte) : State := { s with mem := tputD s.mem l.key unlisted b }

/-- `n` bytes from a location upward. -/
def State.bytes (s : State) (l : Loc) : Nat → List Byte
  | 0 => []
  | n + 1 => s.byte l :: s.bytes (l.add 1) n

/-- Bytes written from a location upward. -/
def State.setBytes (s : State) (l : Loc) : List Byte → State
  | [] => s
  | b :: bs => (s.setByte l b).setBytes (l.add 1) bs

/-- Bytes as a number, the first least significant (R5). -/
def ofBytes : List Byte → Nat
  | [] => 0
  | b :: bs => b.toNat + 256 * ofBytes bs

/-- A number as `n` little-endian bytes (R5). -/
def toBytes : Nat → Nat → List Byte
  | 0, _ => []
  | n + 1, v => BitVec.ofNat 8 v :: toBytes n (v / 256)

/-- The side slot of the line at a location, zero until it is written (R27). -/
def State.slotAt (s : State) (l : Loc) : BitVec 256 := tgetD s.side l.line.key 0

def State.setSlot (s : State) (l : Loc) (v : BitVec 256) : State := { s with side := tputD s.side l.line.key 0 v }

/-- The number of a register of a thread of a warp. The extended set of a pair belongs to its even warp (R56).
(DESIGN CHOICE, log 74.) -/
def regKey (warp pairWarp reg t : Nat) : Nat := ((if reg < 512 then warp else pairWarp) * 1024 + reg) * 32 + t

/-- Lists of numbers below `n`. -/
def upto (n : Nat) : List Nat := List.range n

/-- The threads of a mask, ascending. -/
def threadsOf (m : BitVec 32) : List Nat := (upto 32).filter (fun t => m.getLsbD t)

/-- The mask of a list of threads. -/
def maskOf (ts : List Nat) : BitVec 32 := ts.foldl (fun m t => m ||| (1 <<< t)) 0

/-- The change of one element of a list. -/
def setAt {α : Type} (l : List α) (i : Nat) (f : α → α) : List α :=
  match l, i with
  | [], _ => []
  | x :: r, 0 => f x :: r
  | x :: r, i + 1 => x :: setAt r i f

/-- The removal of one element of a list. -/
def dropAt {α : Type} (l : List α) (i : Nat) : List α :=
  match l, i with
  | [], _ => []
  | _ :: r, 0 => r
  | x :: r, i + 1 => x :: dropAt r i

end Sys2Proof.Machine
end

