-- ==== Sys2Proof/Machine/Ops.lean ====
section
/-! DEFINITION. The operations that the meanings share: the issuer of an instruction, its registers, the gate and the checks of
an issue, timing, pending results and operations in flight, taking a trap and returning from it, events and health counts. -/
namespace Sys2Proof.Machine
open Sys2Proof

/-- What a step answers. -/
abbrev Out := Host.Outcome State Fault Refusal

/-! ### Places -/

/-- Cores 2048 to 2175 are Riffle cores (R1). -/
def isRiffle (core : Nat) : Bool := decide (2048 ≤ core)

/-- The cluster of a core: sixteen Reach cores and one Riffle core each. -/
def clusterOf (core : Nat) : Nat := if isRiffle core then core - 2048 else core / 16

/-- The compute stack of a cluster's core: sixteen clusters each. -/
def dieOf (core : Nat) : Nat := clusterOf core / 16

/-- Riffle cycles in a cycle of a core (1.8 GHz against 600 MHz). (DESIGN CHOICE, log 6.) -/
def tickOf (core : Nat) : Nat := if isRiffle core then 1 else 3

/-- The subcore of a slot (R285). -/
def subcoreOf (core slot : Nat) : Nat := if isRiffle core then slot % 2 else slot % 4

/-! ### Tables of the state -/

def State.core (s : State) (n : Nat) : Core := tgetD s.cores n Core.reset
def State.modCore (s : State) (n : Nat) (f : Core → Core) : State :=
  { s with cores := tputD s.cores n Core.reset (f (s.core n)) }
def State.modWarp (s : State) (w : Nat) (f : Warp → Warp) : State := { s with warps := tmod s.warps w f }
def State.modBlock (s : State) (b : Nat) (f : Block → Block) : State := { s with blocks := tmod s.blocks b f }
def State.modGang (s : State) (g : Nat) (f : Gang → Gang) : State := { s with gangs := tmod s.gangs g f }
def State.modLaunch (s : State) (l : Nat) (f : Launch → Launch) : State := { s with launches := tmod s.launches l f }
def State.modCtx (s : State) (a : Nat) (f : Context → Context) : State := { s with ctxs := tmod s.ctxs a f }
def State.modRaft (s : State) (r : Nat) (f : Raft → Raft) : State := { s with rafts := tmod s.rafts r f }
def State.twin (s : State) (n : Nat) : Twin := tgetD s.twins n Twin.reset
def State.modTwin (s : State) (n : Nat) (f : Twin → Twin) : State :=
  { s with twins := tputD s.twins n Twin.reset (f (s.twin n)) }
def State.cluster (s : State) (n : Nat) : Cluster := tgetD s.clusters n Cluster.reset
def State.modCluster (s : State) (n : Nat) (f : Cluster → Cluster) : State :=
  { s with clusters := tputD s.clusters n Cluster.reset (f (s.cluster n)) }
def State.die (s : State) (n : Nat) : Die := tgetD s.dies n Die.reset
def State.modDie (s : State) (n : Nat) (f : Die → Die) : State :=
  { s with dies := tputD s.dies n Die.reset (f (s.die n)) }
def State.queue (s : State) (n : Nat) : Queue := tgetD s.queues n Queue.reset
def State.modQueue (s : State) (n : Nat) (f : Queue → Queue) : State :=
  { s with queues := tputD s.queues n Queue.reset (f (s.queue n)) }

/-- The next draw of free values. (DESIGN CHOICE, log 5.) -/
def State.bump (s : State) : State := { s with free := s.free + 1 }

/-- A register of a warp as stored, zero until it is written (R57). (DESIGN CHOICE, log 1.) -/
def State.regAt (s : State) (k : Nat) : Word := tgetD s.regs k 0
def State.setReg (s : State) (k : Nat) (v : Word) : State := { s with regs := tputD s.regs k 0 v }

/-- The number under which the poison of a register's granule of eight threads is listed (R530). -/
def regGranule (k : Nat) : Nat := 2 * (16 * (k / 8) + 9)

/-- Words written to registers; a granule of eight threads that is written whole loses its poison (R530). -/
def State.setRegs (s : State) (kvs : List (Nat × Word)) : State :=
  let s := kvs.foldl (fun s p => s.setReg p.1 p.2) s
  if s.poison = [] then s
  else
    let keys := kvs.map (·.1)
    let whole := keys.filter (fun k => decide (k % 8 = 0) && (upto 8).all (fun i => keys.contains (k + i)))
    { s with poison := s.poison.filter (fun g => !(whole.any (fun k => decide (regGranule k = g)))) }

/-- The change of a warp's split of an entry. -/
def Warp.modSplit (wp : Warp) (ent : Nat) (f : Split → Split) : Warp :=
  { wp with splits := wp.splits.map (fun sp => if sp.ent = ent then f sp else sp) }
def State.modSplit (s : State) (w ent : Nat) (f : Split → Split) : State := s.modWarp w (·.modSplit ent f)

/-- The split of a warp with an entry. -/
def Warp.split? (wp : Warp) (ent : Nat) : Option Split := wp.splits.find? (fun sp => decide (sp.ent = ent))

/-- The entries in use of a core's command queue: commands that have not started, suspended ones that have re-entered it included (R360, R364). -/
def Core.queueLen (k : Core) : Nat := (k.sluice.filter (fun x => decide (x.state ≠ .started))).length

/-- A weir slot set by a warp of a block, and slots UNSET (R235). -/
def Core.setWeir (k : Core) (n : Nat) (v : Bool) (lid blk : Nat) : Core :=
  { k with weirs := tput k.weirs n v, weirBy := tput k.weirBy n (lid, blk) }
def Core.freeWeirs (k : Core) (gone : Nat → Bool) : Core :=
  { k with weirs := k.weirs.filter (fun p => !gone p.1), weirBy := k.weirBy.filter (fun p => !gone p.1) }
def Core.freeWeir (k : Core) (n : Nat) : Core := k.freeWeirs (fun m => decide (m = n))

/-- The warps of a block, the blocks and the warps of a gang. -/
def State.warpsOfBlock (s : State) (b : Nat) : List (Nat × Warp) := s.warps.filter (fun p => decide (p.2.blk = b))
def State.blocksOfGang (s : State) (g : Nat) : List (Nat × Block) := s.blocks.filter (fun p => decide (p.2.gang = g))
def State.warpsOfGang (s : State) (g : Nat) : List (Nat × Warp) :=
  s.warps.filter (fun p => match tget s.blocks p.2.blk with | some b => decide (b.gang = g) | none => false)

/-- Whether a gang in a state holds its place: a saved gang, a served one, and one whose kill has been reported do not (R358, R459). -/
def holdsPlace (x : GangState) : Bool :=
  match x with
  | .saved | .served | .reported | .halted => false
  | _ => true

/-- Whether the gang of a block holds its place. -/
def State.placed (s : State) (blk : Nat) : Bool :=
  match (tget s.blocks blk).bind (fun b => tget s.gangs b.gang) with
  | some g => holdsPlace g.state
  | none => false

/-- The warps that run on a core. -/
def State.warpsOfCore (s : State) (c : Nat) : List (Nat × Warp) :=
  s.warps.filter (fun p => decide (p.2.core = c) && s.placed p.2.blk)

/-! ### The issuer -/

/-- What issues an instruction: warp, split, block, gang, launch, context, the threads whose guard is true, and the state at
issue, whose draw of free values the operand reads use. -/
structure Ctx where
  w : Nat
  ent : Nat
  warp : Warp
  split : Split
  block : Block
  gang : Gang
  launch : Launch
  ctx : Context
  act : BitVec 32
  uni : Bool
  pre : State

/-- What `cur` names: no split at all, an entry that no table holds, or a split with everything that it belongs to.
(DESIGN CHOICE, log 65.) -/
inductive Issuer where
  | none
  | dangling
  | ok (c : Ctx)

/-- The split that `cur` names, with everything that it belongs to. -/
def State.issuer (s : State) : Issuer :=
  match tget s.warps s.cur.1 with
  | none => .none
  | some wp =>
    match wp.split? s.cur.2 with
    | none => .none
    | some sp =>
      match tget s.blocks wp.blk with
      | none => .dangling
      | some b =>
        match tget s.gangs b.gang with
        | none => .dangling
        | some g =>
          match tget s.launches g.launch with
          | none => .dangling
          | some l =>
            match tget s.ctxs l.asid with
            | none => .dangling
            | some x => .ok { w := s.cur.1, ent := s.cur.2, warp := wp, split := sp, block := b, gang := g, launch := l, ctx := x,
                              act := sp.mask, uni := false, pre := s }

def Ctx.core (c : Ctx) : Nat := c.warp.core
def Ctx.riffle (c : Ctx) : Bool := isRiffle c.warp.core
def Ctx.tick (c : Ctx) : Nat := tickOf c.warp.core
def Ctx.asid (c : Ctx) : Nat := c.launch.asid
def Ctx.gangId (c : Ctx) : Nat := c.block.gang
/-- A latency of the core kind: Reach cycles, Riffle cycles (R63). -/
def Ctx.lat (c : Ctx) (reach riffle : Nat) : Nat := if c.riffle then riffle else reach
/-- The minimum latency of a variable-latency operation, in Riffle cycles (R63). -/
def Ctx.minLat (c : Ctx) : Nat := if c.riffle then 24 else 36
/-- Whether the issuer is a trap handler (R260). -/
def Ctx.handler (c : Ctx) : Bool := decide (64 < c.ent)
/-- Whether a warp of the block runs on another core (R339). -/
def State.hasMigrated (s : State) (b : Nat) : Bool :=
  match tget s.blocks b with
  | some blk => s.warps.any (fun p => decide (p.2.blk = b) && decide (p.2.core ≠ blk.core))
  | none => false

/-- The lowest thread of a mask, 0 for none. -/
def lowest (m : BitVec 32) : Nat := (threadsOf m).headD 0

/-- The thread whose operands thread `t` uses: its own, or the lowest active one's under UNI (R103). -/
def Ctx.from (c : Ctx) (t : Nat) : Nat := if c.uni then lowest c.act else t
def Ctx.threads (c : Ctx) : List Nat := threadsOf c.act
/-- The threads for which an operation is performed: all active ones, or the lowest under UNI. (DEDUCED, log 27.) -/
def Ctx.doers (c : Ctx) : List Nat := if c.uni then c.threads.take 1 else c.threads

/-! ### Registers -/

/-- The even warp of the pair that holds a warp's extended set: the warps of a block are numbered one after another (R56, R293). -/
def pairOf (w : Nat) (wp : Warp) : Nat := w - wp.idx % 2

/-- The key of a register of a thread. -/
def Ctx.key (c : Ctx) (r t : Nat) : Nat := regKey c.w (pairOf c.w c.warp) r t

/-- The value that an operation in flight will write to a register. -/
def inFlight (fl : List Flight) (k : Nat) : Option Word :=
  fl.foldl (fun acc x => match x.regs.find? (fun p => decide (p.1 = k)) with | some p => some p.2 | none => acc) none

/-- Whether the words of an operation in flight are known: an array operation has none to give until it is done (R173). -/
def Flight.known (x : Flight) : Bool :=
  match x.kind with
  | .tile _ => false
  | _ => true

/-- A register as a thread reads it: v0 is all ones (R51); a result in flight whose wait is missing gives the old word or the new
one, freely for each thread (R71). Results of fixed latency that are due have landed before (R64, R65). -/
def Ctx.reg (c : Ctx) (r t : Nat) : Word :=
  if r = 0 then 0xFFFFFFFF
  else
    match inFlight (c.warp.flights.filter Flight.known) (c.key r t) with
    | none => c.pre.regAt (c.key r t)
    | some v => if Config.freeBit c.pre.free (c.key r t) then v else c.pre.regAt (c.key r t)

/-- Two words as a 64-bit value, the even register low (R53). -/
def pairOfWords (lo hi : Word) : DWord := hi ++ lo
def loWord (x : DWord) : Word := x.extractLsb' 0 32
def hiWord (x : DWord) : Word := x.extractLsb' 32 32

/-- A pair of registers. -/
def Ctx.reg2 (c : Ctx) (r t : Nat) : DWord := pairOfWords (c.reg r t) (c.reg (r + 1) t)

/-- A source operand (R79). -/
def Ctx.val (c : Ctx) (x : Src) (t : Nat) : Word :=
  match x with
  | .reg r => c.reg r.toNat t
  | .lit v => v

/-- A 64-bit source operand; a literal is sign-extended (R79). -/
def Ctx.val2 (c : Ctx) (x : Src) (t : Nat) : DWord :=
  match x with
  | .reg r => c.reg2 r.toNat t
  | .lit v => v.signExtend 64

/-- An optional source, absent as the given word. -/
def Ctx.valD (c : Ctx) (x : Option Src) (d : Word) (t : Nat) : Word :=
  match x with
  | some x => c.val x t
  | none => d

/-! ### Names of an instruction -/

/-- The registers that an instruction names: the sources A, B and C with the number of registers read, and the spans it writes. -/
structure Names where
  a : Option (Nat × Nat)
  b : Option (Nat × Nat)
  c : Option (Nat × Nat)
  d : List (Nat × Nat)

def srcSpan (x : Src) (n : Nat) : Option (Nat × Nat) :=
  match x with
  | .reg r => some (r.toNat, n)
  | .lit _ => none

def Names.srcs (n : Names) : List (Nat × Nat) := [n.a, n.b, n.c].filterMap id
def Names.all (n : Names) (g : BitVec 6) : List (Nat × Nat) := (g.toNat, 1) :: n.srcs ++ n.d

def spanRegs (p : Nat × Nat) : List Nat := (upto p.2).map (p.1 + ·)

/-- Whether a span breaks R55: beyond the allocation, above 255 on a Riffle core, across v511 and v512 (R31), or past v767: what R55
says of a computed name of 768 or more holds for such a span too. (DEDUCED, log 78.) -/
def rangeBad (c : Ctx) (p : Nat × Nat) : Bool :=
  (spanRegs p).any (fun r => (decide (c.warp.alloc ≤ r) && decide (r < 512)) || (c.riffle && decide (256 ≤ r))) ||
  (decide (p.1 ≤ 511) && decide (512 < p.1 + p.2)) || decide (768 < p.1 + p.2)

/-- Whether a span names the extended set without the lock (R56). -/
def xsetBad (c : Ctx) (p : Nat × Nat) : Bool := decide (512 < p.1 + p.2) && !c.warp.xl

/-- Whether the checking scoreboard finds a source not yet written (R65, R71), or a destination that an earlier result would
overwrite. -/
def scoreBad (c : Ctx) (n : Names) (g : BitVec 6) (lat : Option Nat) : Bool :=
  let keys (p : Nat × Nat) : List Nat := (spanRegs p).flatMap (fun r => if r = 0 then [] else (threadsOf c.split.mask).map (c.key r))
  let pendKeys := c.split.pend.map (·.key)
  let src := ((g.toNat, 1) :: n.srcs).flatMap keys
  src.any (fun k => pendKeys.contains k || (inFlight c.warp.flights k).isSome) ||
  match lat with
  | none => false
  | some l => (n.d.flatMap keys).any (fun k => c.split.pend.any (fun p => decide (p.key = k) && decide (c.split.nd + l < p.due)))

/-- Whether a source register holds an uncorrectable error (R530). -/
def regPoisoned (c : Ctx) (ps : List (Nat × Nat)) : Bool :=
  ps.any (fun p => (spanRegs p).any (fun r =>
    decide (r ≠ 0) && (threadsOf c.split.mask).any (fun t => c.pre.poison.contains (regGranule (c.key r t)))))

/-- sr.cctl CHK of the running core (R66). -/
def Ctx.chk (c : Ctx) : Bool := (c.pre.core c.core).cctl.getLsbD 0

/-- The first of the checks of R58 that fails. `early` is what an instruction tests before them: a level scope that the launch
does not declare (0x01, R86) or a tile opcode on a Riffle core (0x0A, R81); an uncorrectable error comes last (R530).
(DEDUCED, log 14.) -/
def issueCheck (c : Ctx) (n : Names) (g : BitVec 6) (lat early : Option Nat) : Option Nat :=
  match early with
  | some e => some e
  | none =>
    if (n.all g).any (rangeBad c) then some 0x04
    else if (n.all g).any (xsetBad c) then some 0x05
    else if c.chk && scoreBad c n g lat then some 0x06
    else if c.pre.poison ≠ [] && regPoisoned c (((g.toNat, 1) :: n.srcs)) then some 0x40
    else none

/-! ### Results of fixed latency -/

/-- The results of a split that its nominal clock has reached are written (R64). (DEDUCED, log 15.) -/
def State.landDue (s : State) (sp : Split) : State :=
  s.setRegs ((sp.pend.filter (fun p => decide (p.due ≤ sp.nd))).map (fun p => (p.key, p.val)))

def Split.dropDue (sp : Split) : Split :=
  { sp with pend := sp.pend.filter (fun p => decide (sp.nd < p.due)), spend := sp.spend.filter (fun p => decide (sp.nd < p.due)) }

/-- A special register written as SETS, or ROLE .set, writes it (R263, R265, R196): reserved bits stay 0 (R7), a 0 clears a flag of sr.hflag. -/
def State.writeSr (s : State) (w : Nat) (sr : SReg) (v : DWord) : State :=
  match tget s.warps w with
  | none => s
  | some wp =>
    let asid : Option Nat :=
      match tget s.blocks wp.blk with
      | none => none
      | some b =>
        match tget s.gangs b.gang with
        | none => none
        | some g => (tget s.launches g.launch).map (·.asid)
    let x : Word := v.extractLsb' 0 32
    match sr, asid with
    | .seed, some a => s.modCtx a (fun k => { k with seed := x })
    | .hflag, some a => s.modCtx a (fun k => { k with hflag := k.hflag &&& x })
    | .tvec, some a => s.modCtx a (fun k => { k with tvec := v &&& ~~~0x1FFF })
    | .kvd n i, _ =>
      let x := if i = 0 then x else if i = 1 then x &&& 0x003FFFFF else 0
      s.modBlock wp.blk (fun b => { b with kvd := tputD b.kvd (4 * n.toNat + i.toNat) 0 x })
    | .cctl, _ => s.modCore wp.core (fun k => { k with cctl := x &&& 3 })
    | .role, _ => s.modWarp w (fun wp => { wp with role := (Role.ofCode x.toNat).getD .none })
    | .tpc, _ => s.modWarp w (fun wp => { wp with tpc := v })
    | _, _ => s

/-- The SETS of a split that its nominal clock has reached take effect, oldest first, once for all sides that inherit them (R264). -/
def State.landSets (s : State) (w : Nat) (sp : Split) : State :=
  let l := sp.spend.filter (fun p => decide (p.due ≤ sp.nd))
  let drop (x : Split) : Split := { x with spend := x.spend.filter (fun p => !(l.any (fun q => decide (q.num = p.num)))) }
  if l = [] then s
  else (l.foldl (fun s p => s.writeSr w p.sr p.val) s).modWarp w (fun wp =>
    { wp with splits := wp.splits.map drop, parked := wp.parked.map (fun p => (p.1, drop p.2)), starved := wp.starved.map drop })

/-- The results of some sides of the warp, and every SETS of it, are written (R67). -/
def State.landSides (s : State) (w : Nat) (q : Split → Bool) : State :=
  match tget s.warps w with
  | none => s
  | some wp =>
    let sps := wp.splits ++ wp.parked.map (·.2) ++ wp.starved
    let s := s.setRegs ((sps.filter q).flatMap (fun sp => sp.pend.map (fun p => (p.key, p.val))))
    let s := sps.foldl (fun s sp => sp.spend.foldl (fun s p => s.writeSr w p.sr p.val) s) s
    let clr (sp : Split) : Split := { sp with pend := if q sp then [] else sp.pend, spend := [] }
    s.modWarp w (fun wp => { wp with splits := wp.splits.map clr, parked := wp.parked.map (fun p => (p.1, clr p.2)),
                                     starved := wp.starved.map clr })

/-- Every result of every split of the warp is written (R67). -/
def State.landAll (s : State) (w : Nat) : State := s.landSides w (fun _ => true)

/-- Results of variable latency written: what is still in flight for their registers came earlier in program order (R72). -/
def State.landWords (s : State) (w : Nat) (kvs : List (Nat × Word)) : State :=
  let drop (sp : Split) : Split := { sp with pend := sp.pend.filter (fun p => !(kvs.any (fun x => decide (x.1 = p.key)))) }
  (s.setRegs kvs).modWarp w (fun wp =>
    { wp with splits := wp.splits.map drop, parked := wp.parked.map (fun p => (p.1, drop p.2)), starved := wp.starved.map drop })

/-- New results of fixed latency: each replaces what is in flight for its register and lands no earlier (R72). -/
def addPend (sp : Split) (kvs : List (Nat × Word)) (due : Nat) : Split :=
  { sp with pend := sp.pend.filter (fun p => decide (p.due < due) || !(kvs.any (fun x => decide (x.1 = p.key)))) ++
                    kvs.map (fun x => ⟨x.1, x.2, due⟩) }

/-- The registers leave the operations in flight: a later write suppresses an earlier one (R72). -/
def dropFlight (fl : List Flight) (keys : List Nat) : List Flight :=
  fl.map (fun x => { x with regs := x.regs.filter (fun p => !(keys.contains p.1)) })

/-! ### Counters (R68) -/

def Warp.ctr (wp : Warp) (k : Nat) : Nat := wp.ctrs.getD k 0
def Warp.incCtr (wp : Warp) (k : Nat) : Warp := { wp with ctrs := setAt wp.ctrs k (· + 1) }
def Warp.decCtr (wp : Warp) (k : Option Nat) : Warp :=
  match k with
  | some k => { wp with ctrs := setAt wp.ctrs k (· - 1) }
  | none => wp

/-- The counter that SETC names. -/
def fctr (f : Fr) : Option Nat := if f.setc = 0 then none else some (f.setc.toNat - 1)

/-- Bytes of a form (R75). -/
def flen (f : Fr) : Nat :=
  match f.form with
  | .s => 8
  | .e | .l => 12
  | .w => 16

/-- Whether the split's instruction has been counted and waits for its completion. -/
def Split.counted (sp : Split) : Bool :=
  match sp.wait with
  | some (.op k _ _) => k
  | _ => false
def Split.arrived (sp : Split) : Bool :=
  match sp.wait with
  | some (.op _ a _) => a
  | _ => false
def Split.phase (sp : Split) : Phase :=
  match sp.wait with
  | some (.op _ _ p) => p
  | _ => .none

/-- Whether the split's post by LAUNCH has still to complete (R460). -/
def Split.posting (sp : Split) : Bool :=
  match sp.phase with
  | .launch _ => true
  | _ => false

/-- The number of the phase, barrier, domain or launch. -/
def Phase.num (p : Phase) : Nat :=
  match p with
  | .none => 0
  | .tile n | .bar n _ | .gbar n | .launch n => n

/-- The gate of an issue: the stall has elapsed, no YIELD or trap holds the split, it meets no other split, the counters of WAIT
read zero, and the counter of SETC is below 63 (R62, R68, R69, R297). The core issues (R522), and the gang runs, or stops and
lets its handler run (R459). (DEDUCED, log 8.) -/
def gate (c : Ctx) (f : Fr) : Bool :=
  decide (c.split.next ≤ c.pre.now) && c.split.yield.isNone && !c.split.susp && !c.warp.ending &&
  (match c.split.wait with
   | some (.meet _) | some (.callx _ _) | some .moving => false
   | _ => true) &&
  !(c.pre.core c.core).stopped &&
  (decide (c.gang.state = .running) || (c.handler && decide (c.gang.state = .stopping))) &&
  (c.split.counted ||
    ((upto 6).all (fun k => !(f.wait.getLsbD k) || decide (c.warp.ctr k = 0)) &&
     (match fctr f with | some k => decide (c.warp.ctr k < 63) | none => true)))

/-! ### Timing -/

/-- The effective stall in the core's own cycles (R62). -/
def Ctx.stall (c : Ctx) (f : Fr) : Nat := max f.stall.toNat (c.lat 2 1)

/-- Whether a source is delivered from the operand latch (R60). -/
def latchHit (ls : List Latch) (w r : Nat) : Bool := ls.any (fun l => decide (l.warp = w) && decide (l.reg.toNat = r))

/-- The cycles that bank conflicts add to the issue (R59). -/
def bankExtra (c : Ctx) (n : Names) : Nat :=
  let ls := tgetD (c.pre.core c.core).latch (subcoreOf c.core c.warp.slot) []
  let banks := (n.srcs.filter (fun p => decide (p.1 ≠ 0) && !latchHit ls c.w p.1)).map (fun p => p.1 % 4)
  ((upto 4).map (fun b => banks.count b - 1)).sum

/-- The operand latch after an issue of the warp: its entries serve one issue less, and the held sources enter (R60, R61). A pair or
a span that is held enters under its first register: R60 speaks of one value and one register number. (DESIGN CHOICE, log 79.) -/
def latchNext (ls : List Latch) (w : Nat) (f : Fr) (n : Names) : List Latch :=
  let ls := (ls.map (fun l => if l.warp = w then { l with life := l.life - 1 } else l)).filter (fun l => decide (0 < l.life))
  let held := [(f.holdA, n.a), (f.holdB, n.b), (f.holdC, n.c)].filterMap (fun p =>
    match p.1, p.2 with
    | true, some (r, _) => if r = 0 then none else some r
    | _, _ => none)
  held.foldl (fun ls r =>
    let ls := ls.filter (fun l => !(decide (l.warp = w) && decide (l.reg.toNat = r)))
    let ls := if 3 ≤ ls.length then ls.tail else ls
    ls ++ [⟨w, BitVec.ofNat 10 r, 2⟩]) ls

/-- An issue takes its subcore's opportunity, and the latch moves on (R60, R286); an instruction that has issued and waits took it
then (R297). -/
def takeSlot (c : Ctx) (f : Fr) (n : Names) (s : State) : State :=
  let sub := subcoreOf c.core c.warp.slot
  s.modCore c.core (fun x =>
    if c.split.counted then x
    else { x with issued := tput x.issued sub c.pre.now, latch := tputD x.latch sub [] (latchNext (tgetD x.latch sub []) c.w f n) })

/-- What every issue does apart from the instruction's effect: the pc moves past the instruction, the nominal clock and the next
issue time advance, SETC counts, the opportunity is taken, and the draw of free values is used up. -/
def advance (c : Ctx) (f : Fr) (n : Names) : State :=
  let st := c.stall f
  let s := c.pre.modSplit c.w c.ent (fun sp =>
    { sp with pc := sp.pc + BitVec.ofNat 64 (flen f), nd := sp.nd + st, next := c.pre.now + (st + bankExtra c n) * c.tick,
              ready := none, passed := 0, aged := none, wait := none })
  let s := match fctr f with
    | some k => if c.split.counted then s else s.modWarp c.w (·.incCtr k)
    | none => s
  (takeSlot c f n s).bump

/-- Registers written at a nominal time: what is in flight for them, of either class, is suppressed (R72). -/
def putPend (c : Ctx) (kvs : List (Nat × Word)) (due : Nat) (s : State) : State :=
  (s.modSplit c.w c.ent (fun sp => addPend sp kvs due)).modWarp c.w (fun wp =>
    { wp with flights := dropFlight wp.flights (kvs.map (·.1)) })

/-- The write-back of a fixed-latency instruction, `l` cycles after issue (R63, R104, R151). -/
def finishFixed (c : Ctx) (f : Fr) (l : Nat) (kvs : List (Nat × Word)) (h : Health) (s : State) : State :=
  let s := s.modSplit c.w c.ent (fun sp => addPend sp kvs (c.split.nd + l))
  s.modWarp c.w (fun wp =>
    let wp := { wp with flights := dropFlight wp.flights (kvs.map (·.1)) }
    if (fctr f).isNone ∧ h.sat = 0 ∧ h.zero = 0 then wp
    else { wp with fixed := wp.fixed ++ [⟨c.pre.now + l * c.tick, fctr f, h.sat, h.zero⟩] })

/-- An operation of variable latency that has performed its access and will write the given registers (R68).
(DEDUCED, log 18.) -/
def finishFlight (c : Ctx) (f : Fr) (kvs : List (Nat × Word)) (kind : FlightKind) (s : State) : State :=
  if (fctr f).isNone ∧ kvs = [] then s
  else s.modWarp c.w (fun wp =>
    { wp with flights := dropFlight wp.flights (kvs.map (·.1)) ++ [⟨fctr f, kvs, c.pre.now + c.minLat, kind⟩] })

/-- The words that an instruction writes: for each destination register, each active thread's word, taken for the thread that
UNI names (R102, R103). Writes to v0 are discarded (R51). -/
def Ctx.outs (c : Ctx) (ds : List (Nat × (Nat → Word))) : List (Nat × Word) :=
  ds.flatMap (fun d => if d.1 = 0 then [] else c.threads.map (fun t => (c.key d.1 t, d.2 (c.from t))))

/-! ### Traps -/

/-- The causes that vector to a handler of the warp (R259). -/
def inWarpCause (k : Nat) : Bool := k = 0x0C || k = 0x0D || k = 0x0F || k = 0x27 || (0x80 ≤ k && k ≤ 0xFF)

/-- The time by which a split could go on and every result of its own is written (R63, R67): its clock reaches `due` when it has
counted `due - nd` cycles more from its next issue; where it stands before that issue, a result may be due earlier. -/
def Split.written (tick : Nat) (sp : Split) : Nat := sp.pend.foldl (fun m p => max m (sp.next + p.due * tick - sp.nd * tick)) 0

/-- The same for every split of a warp. -/
def Warp.written (wp : Warp) : Nat :=
  (wp.splits ++ wp.parked.map (·.2) ++ wp.starved).foldl (fun n sp => max n (sp.written (tickOf wp.core))) 0

/-- The cycles that the entry to a handler adds, in Riffle cycles: 4 Reach cycles; on a Riffle core none or 6, freely (R245). -/
def entryDelay (s : State) (w core : Nat) : Nat :=
  if isRiffle core then (if Config.freeBit s.free (2 ^ 64 + s.now * 2 ^ 32 + w) then 6 else 0) else 12

/-- Entry to the handler of a trap (R259): the results of the split are written, and every SETS of the warp; those of the splits that go on,
whose registers no handler reads, stay decided by their own nominal distances (R65). The split is suspended, the trap registers are set, the handler
takes reserved entry 0 at sr.tvec + 32 × cause with sr.priv set, and the warp's latch entries are discarded (R60). Its first
instruction issues later by the cycles of R245 than the stall of the instruction that trapped, `wait`, would allow.
(DEDUCED, log 19.) -/
def enterHandler (s : State) (w : Nat) (tvec : DWord) (x : Trap) (wait : Nat) : State :=
  let rest := match tget s.warps w with
    | some wp => wp.written
    | none => 0
  let s := s.landSides w (fun sp => decide (sp.ent = x.ent))
  match tget s.warps w with
  | none => s
  | some wp =>
    match wp.split? x.ent with
    | none => s
    | some sp =>
      let h : Split := { ent := 65, mask := x.mask, pc := tvec + BitVec.ofNat 64 (32 * x.cause), joins := [], rets := sp.rets,
                         spilled := sp.spilled, nd := 0, pend := [], spend := [], next := max (s.now + wait) rest + entryDelay s w wp.core,
                         ready := none, passed := 0, aged := none, yield := none, wait := none, got := [], priv := true, susp := false,
                         born := x.since }
      let s := s.modWarp w (fun wp =>
        let wp := wp.modSplit x.ent (fun sp => { sp with susp := true, wait := none })
        { wp with splits := wp.splits ++ [h], tpc := x.tpc, tcause := BitVec.ofNat 8 x.cause, tmask := x.mask,
                  targ := x.arg.getD wp.targ, taddr := (x.addrs.filter (fun p => decide (p.2 ≠ 0))), serving := some x.ent })
      s.modCore wp.core (fun k =>
        { k with latch := tputD k.latch (subcoreOf wp.core wp.slot) []
                   ((tgetD k.latch (subcoreOf wp.core wp.slot) []).filter (fun l => decide (l.warp ≠ w))) })

/-- Whether a handler runs in a warp. -/
def Warp.inHandler (wp : Warp) : Bool := wp.splits.any (fun sp => decide (64 < sp.ent))

/-- The instruction of the split is no longer counted: it traps or is abandoned. -/
def uncount (c : Ctx) (f : Fr) (s : State) : State :=
  if c.split.counted then s.modWarp c.w (fun wp => wp.decCtr (fctr f)) else s

/-- A trap raised by the issuing split, whose instruction has no effect (R58, R208): in a handler, the double fault (R260,
R521); an in-warp cause enters the handler, or waits for the running one (R259); any other cause goes to the step that its class
names (R520), and the split issues nothing until then. `addrs` are the effective addresses of the active threads. -/
def raiseTrap (c : Ctx) (f : Fr) (cause : Nat) (mask : BitVec 32) (addrs : List (Nat × DWord)) (arg : Option Word) : State :=
  let s := takeSlot c f ⟨none, none, none, []⟩ (uncount c f c.pre)
  let k := if c.handler then 0x42 else cause
  let addrs := if k = 0x07 ∨ (0x20 ≤ k ∧ k ≤ 0x28) then addrs else []
  let hold (s : State) : State := s.modSplit c.w c.ent (fun sp => { sp with susp := true, wait := none })
  if c.handler || !inWarpCause cause then
    let s := hold (match arg with | some v => s.modWarp c.w (fun wp => { wp with targ := v }) | none => s)
    { s with raised := s.raised ++ [{ warp := c.w, ent := c.ent, core := c.core, gang := c.gangId, cause := k, ocause := k,
                                      mask := mask, pc := c.split.pc,
                                      addr := ((addrs.find? (fun p => mask.getLsbD p.1)).map (·.2)).getD 0, raddr := 0 }] }
  else
    let x : Trap := { ent := c.ent, cause := cause, mask := mask, arg := arg, addrs := addrs, since := c.pre.now,
                      tpc := if arg.isSome then c.split.pc + BitVec.ofNat 64 (flen f) else c.split.pc }
    if c.warp.inHandler then (hold s).modWarp c.w (fun wp => { wp with traps := wp.traps ++ [x] })
    else enterHandler s c.w c.ctx.tvec x (c.stall f * c.tick)

/-! ### The template of an issue -/

/-- What an instruction's effect comes to: done, with the state after it; a trap; a wait at issue that changes nothing; a wait of
an instruction that has issued, with the state it leaves. -/
inductive Body where
  | done (s : State)
  | trap (cause : Nat) (mask : BitVec 32) (addrs : List (Nat × DWord)) (arg : Option Word)
  | held
  | waits (arrived : Bool) (phase : Phase) (s : State)

/-- The threads of a split whose guard is true (R52); v0 guards true. -/
def Ctx.guardMask (c : Ctx) (f : Fr) : BitVec 32 :=
  if f.g = 0 then (if f.gn then 0 else c.split.mask)
  else maskOf ((threadsOf c.split.mask).filter (fun t => (c.reg f.g.toNat t).getLsbD 0 != f.gn))

/-- The issuer with the results that are due written. -/
def Ctx.land (c : Ctx) : Ctx :=
  if c.split.pend.isEmpty && c.split.spend.isEmpty then c
  else
    let s := ((c.pre.landDue c.split).landSets c.w c.split).modSplit c.w c.ent Split.dropDue
    match s.issuer with
    | .ok c' => c'
    | _ => c

/-- The issue of one instruction: the gate, the checks, then the effect on the state that `advance` leaves. `faulters` are the threads
that a failing check names. -/
def issueFor (faulters : Ctx → Nat → BitVec 32) (f : Fr) (n : Names) (lat : Option (Nat × Nat)) (early : Ctx → Option Nat)
    (body : Ctx → State → Body) (s : State) : Out :=
  match s.issuer with
  | .none => .refused .noIssuer
  | .dangling => .fault .dangling
  | .ok c0 =>
    if gate c0 f then
      let c1 := c0.land
      let c := { c1 with act := c1.guardMask f, uni := f.uni }
      match issueCheck c n f.g (lat.map (fun p => c.lat p.1 p.2)) (early c) with
      | some k => .next (raiseTrap c f k (faulters c k) [] none)
      | none =>
        match body c (advance c f n) with
        | .done s => .next s
        | .trap k m a g => .next (raiseTrap c f k m a g)
        | .held => .next (c.pre.modSplit c.w c.ent (fun sp => { sp with wait := some (.op false false .none) }))
        | .waits arr ph s =>
          let s := match fctr f with
            | some k => if c.split.counted then s else s.modWarp c.w (·.incCtr k)
            | none => s
          .next ((takeSlot c f n s).modSplit c.w c.ent (fun sp => { sp with wait := some (.op true arr ph) })).bump
    else .next s

/-- The issue of an instruction whose failing checks concern every thread of the split (R58). (DEDUCED, log 14.) -/
def issue (f : Fr) (n : Names) (lat : Option (Nat × Nat)) (early : Ctx → Option Nat) (body : Ctx → State → Body) (s : State) : Out :=
  issueFor (fun c _ => c.split.mask) f n lat early body s

/-- No test before those of R58. -/
def noEarly (_ : Ctx) : Option Nat := none

/-- Tile opcodes, CONVENE, DISBAND, BSLOAD and EBB raise 0x0A on a Riffle core (R81, R150, R244). -/
def reachOnly (c : Ctx) : Option Nat := if c.riffle then some 0x0A else none

/-- A level scope that the launch does not declare is illegal at issue (R86). -/
def scopeLevel (x : Scope) : Option Nat :=
  match x with
  | .lv0 => some 0 | .lv1 => some 1 | .lv2 => some 2 | .lv3 => some 3
  | .lv4 => some 4 | .lv5 => some 5 | .lv6 => some 6 | .lv7 => some 7
  | _ => none

/-- EXT, DOM and SCOPE of a level entry (R287). -/
def lvlExt (v : BitVec 32) : Nat := (v.extractLsb' 0 24).toNat
def lvlDom (v : BitVec 32) : Nat := (v.extractLsb' 24 3).toNat
def lvlScope (v : BitVec 32) : Nat := (v.extractLsb' 27 3).toNat

/-- Whether an address lies in the code range that a record declares (R340). -/
def Record.covers (r : Record) (va : Nat) : Bool := decide (r.code ≤ va) && decide (va < r.code + r.clen)

/-- The declared levels of a record: those before the first extent of 0 (R287). -/
def Record.levels' (r : Record) : List (BitVec 32) := r.levels.takeWhile (fun v => decide (lvlExt v ≠ 0))

def levelEarly (x : Scope) (c : Ctx) : Option Nat :=
  match scopeLevel x with
  | some k => if k < c.launch.record.levels'.length then none else some 0x01
  | none => none

/-- The scope as a number of R86, .wp 0 to .fab 6; a level stands for its SCOPE (R291). -/
def Ctx.scope (c : Ctx) (x : Scope) : Nat :=
  match x with
  | .wp => 0 | .blk => 1 | .gng => 2 | .cls => 3 | .die => 4 | .dev => 5 | .fab => 6
  | x =>
    match scopeLevel x with
    | some k => lvlScope (c.launch.record.levels'.getD k 0)
    | none => 0

/-- A fixed-latency instruction that writes registers and nothing else. -/
def aluOp (f : Fr) (n : Names) (lat : Nat × Nat) (outs : Ctx → List (Nat × (Nat → Word))) (ev : Ctx → Health) (s : State) : Out :=
  issue f n (some lat) noEarly
    (fun c s => .done (finishFixed c f (c.lat lat.1 lat.2) (c.outs (outs c)) (ev c) s)) s

def noEvents (_ : Ctx) : Health := Health.none

/-! ### Special registers in flight (R264) -/

/-- The value of a SETS that the split's nominal clock has not reached stands apart; the register keeps its old value until then. -/
def addSpend (sp : Split) (x : SPend) : Split := { sp with spend := sp.spend ++ [x] }

/-! ### Events, errors and health counts -/

/-- A record of the event ring (R508): in the ring's slot, in host memory, before WIDX advances; a full ring loses its oldest.
(DESIGN CHOICE, log 43.) -/
def postEvent (s : State) (type asid : Nat) (detail : List Byte) : State :=
  if s.ring.set then
    let r := s.ring
    let full := decide ((r.widx - r.ridx).toNat = r.count)
    let ridx := if full then r.ridx + 1 else r.ridx
    let word0 := type % 256 + (if full then 256 else 0) + 65536 * (asid % 65536)
    let bytes := toBytes 4 word0 ++ toBytes 4 r.widx.toNat ++ (detail ++ List.replicate 24 0).take 24
    let s := s.setBytes (.host (r.base + 32 * (r.widx.toNat % r.count))) bytes
    { s with ring := { r with widx := r.widx + 1, ridx := ridx }, events := s.events ++ [(type, asid, detail)] }
  else s

/-- The number under which the poison of a granule of 32 bytes, or of a side slot, is listed (R530). (DEDUCED, log 64.) -/
def granuleKey (l : Loc) : Nat := 2 * (l.key - 16 * (l.off % 32))
def sideKey (l : Loc) : Nat := 2 * l.line.key + 1

/-- The granules that `n` bytes from a location touch, at most five. -/
def granulesOf (l : Loc) (n : Nat) : List Nat :=
  if n = 0 then [] else (upto ((l.off % 32 + n - 1) / 32 + 1)).map (fun i => granuleKey l + 32 * 32 * i)

def State.poisoned (s : State) (l : Loc) (n : Nat) : Bool :=
  if s.poison = [] then false else (granulesOf l n).any (fun g => s.poison.contains g)
def State.slotPoisoned (s : State) (l : Loc) : Bool := s.poison.contains (sideKey l)

/-- The number under which the poison of an entry of the scale store, or of the metadata store, is listed (R530). (DESIGN CHOICE, log 64.) -/
def entryGranule (k : Nat) (isMeta : Bool) : Nat := 2 * (16 * (2 * k + if isMeta then 1 else 0) + 11)

/-- The poison of entries of which `q` says which, cleared. -/
def healEntries (s : State) (q : Nat → Bool → Bool) : State :=
  if s.poison = [] then s
  else { s with poison := s.poison.filter (fun g => !(decide (g % 2 = 0) && decide (g / 2 % 16 = 11) && q (g / 64) (g / 32 % 2 == 1))) }

/-- Whether a part of a near-memory command is in progress. -/
def NmPart.begun (p : NmPart) : Bool := decide (0 < p.pos) || p.failed

/-- Whether two ranges of bytes meet. -/
def meet (p q : Nat × Nat) : Bool := decide (p.1 < q.2) && decide (q.1 < p.2)

/-- The near-memory copies in progress, NCOW, which no other command, CHUNK or KVAPP may divide (R243). -/
def State.cows (s : State) : List NmCmd :=
  s.nmus.flatMap (fun m => m.2.filter (fun c => decide ((c.word.extractLsb' 0 6).toNat = 7) && c.parts.any (fun p => p.begun && !p.ended)))

/-- Whether such a copy holds `n` bytes from a location. -/
def State.cowHolds (s : State) (l : Loc) (n : Nat) : Bool :=
  match l with
  | .hbm a => s.cows.any (fun c => c.words.any (meet (a, a + n)))
  | _ => false

/-- A write at the home of the bytes, visible at once to every later read there (R331): it clears the poison of the granules that it covers whole (R530). -/
def homeWrite (s : State) (l : Loc) (bs : List Byte) : State :=
  let s := s.setBytes l bs
  if s.poison = [] then s
  else
    let n := bs.length
    let whole := (granulesOf l n).zipIdx.filter (fun p =>
      let start := 32 * p.2
      decide (l.off % 32 ≤ start) && decide (start + 32 ≤ l.off % 32 + n))
    { s with poison := s.poison.filter (fun g => !(whole.any (fun p => decide (p.1 = g)))) }

/-- A write of a whole side slot at its home, which clears its poison (R530). -/
def homeSlot (s : State) (l : Loc) (v : BitVec 256) : State :=
  let s := s.setSlot l v
  if s.poison = [] then s else { s with poison := s.poison.filter (fun g => decide (g ≠ sideKey l)) }

/-- A write of a side slot at its home of which `dirty` says the words: the scales and the descriptor. -/
def homeSlotPart (s : State) (l : Loc) (dirty : BitVec 13) (v : BitVec 256) : State :=
  if dirty = BitVec.allOnes 13 then homeSlot s l v else s.setSlot l v

/-- An undivided 8-byte addition to the context's health area, with the flag and event of a crossing (R532, R533). -/
def addHealth1 (s : State) (asid : Nat) (pool which n : Nat) : State :=
  let at' (o : Nat) : Loc := .hbm (pool + 0x40000 + o)
  let old := ofBytes (s.bytes (at' (8 * which)) 8)
  let new := (old + n) % 2 ^ 64
  let thr := ofBytes (s.bytes (at' (0x10 + 8 * which)) 8)
  let s := homeWrite s (at' (8 * which)) (toBytes 8 new)
  if thr ≠ 0 ∧ old < thr ∧ thr ≤ new then
    postEvent (s.modCtx asid (fun x => { x with hflag := x.hflag ||| (BitVec.ofNat 32 (2 ^ which)) })) 9 asid
      (toBytes 8 which ++ toBytes 8 new)
  else s

def addHealth (s : State) (asid : Nat) (h : Health) : State :=
  match tget s.ctxs asid with
  | none => s
  | some x =>
    let s := if h.sat = 0 then s else addHealth1 s asid x.poolBase 0 h.sat
    if h.zero = 0 then s else addHealth1 s asid x.poolBase 1 h.zero

/-- The context of a block. -/
def State.asidOfBlock (s : State) (b : Nat) : Option Nat :=
  match tget s.blocks b with
  | none => none
  | some blk =>
    match tget s.gangs blk.gang with
    | none => none
    | some g => (tget s.launches g.launch).map (·.asid)

/-- A block's counters are added to the context's area and cleared (R531). -/
def flushHealth (s : State) (b : Nat) : State :=
  match tget s.blocks b, s.asidOfBlock b with
  | some blk, some a =>
    (addHealth s a ⟨blk.satc, blk.zeroc⟩).modBlock b (fun x => { x with satc := 0, zeroc := 0 })
  | _, _ => s

/-- Events counted by a block (R531); at 2^16 they are sent on by BLOCK_HEALTH_FLUSH. -/
def countHealth (s : State) (b : Nat) (h : Health) : State :=
  if h.sat = 0 ∧ h.zero = 0 then s
  else s.modBlock b (fun x => { x with satc := x.satc + h.sat, zeroc := x.zeroc + h.zero })

end Sys2Proof.Machine
end

