-- ==== Sys2Proof/Machine/Access.lean ====
section
/-! DEFINITION. Addresses: the windows (R308 to R317), translation (R476 to R485), the checks of an access (R208), and the L1
(R319) with its releases and acquires (R330, R339). -/
namespace Sys2Proof.Machine
open Sys2Proof

/-! ### Windows (R308) -/

def estBase : Nat := 0x000FFFFC00000000
def clusBase : Nat := 0x000FFFFD00000000
def coreBase : Nat := 0x000FFFFE00000000
def laneBase : Nat := 0x000FFFFF00000000

/-- The window of an address; none at or above 2^52. -/
def windowOf (va : Nat) : Option Space :=
  if va < estBase then some .glob
  else if va < clusBase then some .est
  else if va < coreBase then some .clus
  else if va < laneBase then some .core
  else if va < 2 ^ 52 then some .lane
  else none

/-- The first address of a window. -/
def windowBase (x : Space) : Nat :=
  match x with
  | .est => estBase
  | .clus => clusBase
  | .core => coreBase
  | .lane => laneBase
  | _ => 0

/-! ### Translation -/

/-- The kinds of access of R482. -/
inductive Need where
  | read | write | atomic | fetch
  deriving DecidableEq, Repr

/-- Bytes of local HBM4E: sixteen stacks of 80 GiB; and estuary bytes of a die (R1). -/
def hbmBytes : Nat := 1280 * 2 ^ 30
def estDie : Nat := 64 * 2 ^ 20

/-- Field of a page-table entry. -/
def fld (e : BitVec 64) (lo n : Nat) : Nat := (e.extractLsb' lo n).toNat

/-- What a walk ends in: a leaf and its page size, or an entry not present with its T bit (R477, R479). -/
inductive Walk where
  | leaf (e : BitVec 64) (size : Nat)
  | fail (t : Bool)
  deriving DecidableEq, Repr

/-- Whether a page of `size` bytes at a frame lies in the scaled part of its memory (R481, R537). Estuary frames of die d start
at d × 64 MiB. -/
def frameScaled (s : State) (fk frame size : Nat) : Bool :=
  if fk = 0 then decide (frame + size ≤ s.plat.sch * 64 * 2 ^ 20)
  else if fk = 1 then decide (frame % estDie + size ≤ s.plat.sce * 4 * 2 ^ 20)
  else true

/-- Whether it meets a side region. -/
def frameSide (s : State) (fk frame size : Nat) : Bool :=
  if fk = 0 then decide (hbmBytes - s.plat.sch * 16 * 2 ^ 20 < frame + size)
  else if fk = 1 then decide (0 < s.plat.sce) && decide (estDie - s.plat.sce * 2 ^ 20 < frame % estDie + size)
  else false

/-- Whether a leaf of a level is malformed (R481). -/
def leafBad (s : State) (est : Bool) (level size : Nat) (e : BitVec 64) : Bool :=
  let fk := fld e 52 4
  let frame := fld e 16 36 * 65536
  decide (level = 0) || decide (fld e 11 5 ≠ 0) || decide (fld e 62 2 ≠ 0) || decide (3 < fk) ||
  (decide (fk ≠ 2) && decide (fld e 56 6 ≠ 0)) || decide (frame % size ≠ 0) || (est != decide (fk = 1)) ||
  (e.getLsbD 9 && (e.getLsbD 8 || decide (fk = 3) || !frameScaled s fk frame size)) || frameSide s fk frame size

/-- Whether an entry that names a table is malformed; tables of level 1 and 2 are aligned to 4 KiB, of level 3 to 256 bytes. -/
def tableBad (level : Nat) (e : BitVec 64) : Bool :=
  decide (level = 3) || decide (fld e 2 6 ≠ 0) || decide (fld e 52 12 ≠ 0) || (decide (level ≠ 2) && decide (fld e 8 4 ≠ 0))

/-- The walk from a level's table (R477), each entry read at its home in local HBM4E (R478), as an undivided word (R486). (DEDUCED, log 23.) -/
def walkFrom (s : State) (est : Bool) (va : Nat) : Nat → Nat → Nat → Walk
  | 0, _, _ => .fail false
  | n + 1, level, base =>
    let shift := match level with | 0 => 39 | 1 => 30 | 2 => 21 | _ => 16
    let bits := match level with | 0 => 13 | 1 => 9 | 2 => 9 | _ => 5
    let at' := base + 8 * (va / 2 ^ shift % 2 ^ bits)
    if s.poisoned (.hbm at') 8 then .fail false
    else
      let e : BitVec 64 := BitVec.ofNat 64 (ofBytes (s.bytes (.hbm at') 8))
      if !e.getLsbD 0 then .fail (e.getLsbD 10)
      else if e.getLsbD 1 then (if leafBad s est level (2 ^ shift) e then .fail false else .leaf e (2 ^ shift))
      else if tableBad level e then .fail false
      else walkFrom s est va n (level + 1) (fld e 8 44 * 256)

/-- The first of the checks 4 to 9 of R482 that a leaf fails. -/
def permCause (world priv : Bool) (need : Need) (e : BitVec 64) : Option Nat :=
  if e.getLsbD 7 && !world then some 0x26
  else if e.getLsbD 6 && !priv then some 0x25
  else if (need = .read || need = .atomic) && !e.getLsbD 2 then some 0x21
  else if (need = .write || need = .atomic) && !e.getLsbD 3 then some 0x22
  else if need = .fetch && !e.getLsbD 4 then some 0x23
  else if need = .atomic && !e.getLsbD 5 then some 0x24
  else none

/-- Who translates: context, world, level-0 table, privilege, and the TLB that serves it. -/
structure Agent where
  asid : Nat
  world : Bool
  troot : Nat
  priv : Bool
  tlb : List TlbEntry

/-- Whether a cached leaf covers an address of the agent. -/
def TlbEntry.covers (e : TlbEntry) (x : Agent) (va : Nat) : Bool :=
  decide (e.asid = x.asid) && decide (e.world = x.world) && decide (e.base ≤ va) && decide (va < e.base + e.size)

/-- Whether an address under a leaf lies in physical memory that the firmware marked secure (R516). -/
def inSecure (s : State) (e : BitVec 64) (va size : Nat) : Bool :=
  decide (fld e 52 4 = 0) &&
  (let p := fld e 16 36 * 65536 + va % size
   s.plat.secure.any (fun r => decide (r.1 ≤ p) && decide (p < r.1 + r.2)))

/-- The walk of an address, checked (R482). A non-secure agent is kept from the secure ranges whatever the leaf's S (R516). -/
def walkChecked (s : State) (x : Agent) (va : Nat) (need : Need) : Except Nat TlbEntry :=
  match walkFrom s (decide (windowOf va = some .est)) va 4 0 x.troot with
  | .fail t => .error (if t then 0x27 else 0x20)
  | .leaf e size =>
    if !x.world && inSecure s e va size then .error 0x26
    else match permCause x.world x.priv need e with
    | some k => .error k
    | none => .ok { asid := x.asid, world := x.world, base := va / size * size, size := size, leaf := e }

/-- The translation of an address of the global or estuary window (R482); a cached leaf that would fail is walked again (R484). -/
def translate (s : State) (x : Agent) (va : Nat) (need : Need) : Except Nat TlbEntry :=
  if 2 ^ 52 ≤ va then .error 0x20
  else if need = .fetch ∧ windowOf va ≠ some .glob then .error 0x23
  else
    match x.tlb.find? (·.covers x va) with
    | some e =>
      if (permCause x.world x.priv need e.leaf).isNone && (x.world || !inSecure s e.leaf va e.size) then .ok e
      else walkChecked s x va need
    | none => walkChecked s x va need

/-- The location of an address under its leaf (R480). -/
def TlbEntry.loc (e : TlbEntry) (va : Nat) : Loc :=
  let p := fld e.leaf 16 36 * 65536 + (va - e.base)
  match fld e.leaf 52 4 with
  | 0 => .hbm p
  | 1 => .est p
  | 2 => .peer (fld e.leaf 56 6) p
  | _ => .host p

/-- O and SC of a leaf. -/
def TlbEntry.ordered (e : TlbEntry) : Bool := e.leaf.getLsbD 8
def TlbEntry.scaled (e : TlbEntry) : Bool := e.leaf.getLsbD 9

/-- A leaf enters a TLB of `cap` entries: it replaces what covers its page; in a full TLB a free choice goes (R484). -/
def tlbAdd (cap draw : Nat) (l : List TlbEntry) (e : TlbEntry) : List TlbEntry :=
  if l.contains e then l
  else
    let l := l.filter (fun x => !(decide (x.asid = e.asid) && decide (x.world = e.world) && decide (x.base = e.base)))
    let l := if cap ≤ l.length then dropAt l (Config.freePick draw 1 % cap) else l
    l ++ [e]

/-- The leaf of an address, whatever it allows. -/
def leafAt (s : State) (x : Agent) (va : Nat) : Option TlbEntry :=
  match walkFrom s (decide (windowOf va = some .est)) va 4 0 x.troot with
  | .leaf e size => some { asid := x.asid, world := x.world, base := va / size * size, size := size, leaf := e }
  | .fail _ => none

/-- The agent that a split is for its accesses: the core's TLB, sr.priv of the split (R476, R482). -/
def Ctx.agent (c : Ctx) : Agent :=
  { asid := c.asid, world := c.ctx.world, troot := c.ctx.troot, priv := c.split.priv, tlb := (c.pre.core c.core).tlb }

/-! ### The checks of an access (R208) -/

/-- An access that has passed: thread, address, bytes, location, whether the L1 serves it, and the leaf that translated it. -/
structure Acc where
  t : Nat
  va : Nat
  size : Nat
  loc : Loc
  cached : Bool
  leaf : Option TlbEntry
  deriving DecidableEq, Repr

/-- The result of the checks for one thread: the stage of R208 that fails first, with its cause. -/
inductive Chk where
  | ok (a : Acc)
  | bad (stage cause : Nat)
  deriving DecidableEq, Repr

/-- Bytes of a block's core window: the declared scratch rounded up to 256, or the ways that a WAYSET left it (R314, R321). -/
def scratchBytes (s : State) (b : Nat) (r : Record) : Nat :=
  match (tget s.blocks b).bind (·.wset) with
  | some n => n * 32768
  | none => (r.scr + 255) / 256 * 256

/-- Bytes of a gang's cluster memory (R316). -/
def clusterBytes (r : Record) : Nat := (r.clm + 4095) / 4096 * 4096

/-- The home bytes of an access that is not served by the L1, or its side slot, hold an uncorrectable error (R530). -/
def readsPoison (s : State) (a : Acc) (scaled inL1 : Bool) : Bool :=
  !inL1 && (s.poisoned a.loc a.size || (scaled && s.slotPoisoned a.loc))

/-- Whether the port that leads to a location is down: what waits on it completes as an uncorrectable error (R510). A leaf names a peer by
rank, and the routes are those of the launch groups. (DEDUCED, log 96.) -/
def State.linkDown (s : State) (l : Loc) : Bool :=
  match l with
  | .peer r _ => s.groups.any (fun g => match g.2.routes[r]? with | some p => tgetD s.ports p false | none => false)
  | _ => false

/-- Whether a peer refuses a scaled access to a location: the line lies outside its own scaled part (R481). -/
def peerRefuses (l : Loc) : Bool :=
  match l with
  | .peer r a => !Config.peerScaled r (a / 128 * 128)
  | _ => false

/-- Whether a core's L1 holds the line of a location. -/
def State.inL1 (s : State) (core : Nat) (l : Loc) : Bool := (s.core core).l1.any (fun x => decide (x.line = l.line))

/-- The checks of R208 for one thread's access of `size` bytes at `ea`; `align` is what the address is a multiple of, `spc` the
space named, `scaled` says that it is a block or scale access. -/
def resolve (c : Ctx) (spc : Space) (need : Need) (scaled : Bool) (size align t : Nat) (ea : DWord) : Chk :=
  let va := ea.toNat
  if va % align ≠ 0 then .bad 1 0x07
  else
    let win := windowOf va
    if spc ≠ .none ∧ win ≠ some spc then .bad 2 0x09
    else
      let r := c.launch.record
      let inside (limit part : Nat) (loc : Nat → Loc) : Chk :=
        let off := va % 2 ^ 32
        if limit < off + size ∨ (scaled ∧ part < off + size) then .bad 2 0x09
        else
          let a : Acc := ⟨t, va, size, loc off, false, none⟩
          if need ≠ .write && readsPoison c.pre a scaled false then .bad 4 0x40 else .ok a
      match win with
      | some .lane => if scaled then .bad 2 0x09 else inside r.lane 0 (Loc.lane c.w t)
      | some .core => inside (scratchBytes c.pre c.warp.blk r) r.scrs (Loc.scratch c.warp.blk)
      | some .clus => inside (clusterBytes r) r.clms (Loc.clus c.gangId)
      | _ =>
        let bySc : Bool :=
          scaled && decide (va < 2 ^ 52) &&
          (match (c.agent.tlb.find? (·.covers c.agent va)) with
           | some e => !e.scaled
           | none =>
             match walkFrom c.pre (decide (win = some .est)) va 4 0 c.ctx.troot with
             | .leaf e _ => !e.getLsbD 9
             | .fail _ => false)
        if bySc then .bad 2 0x09
        else
          match translate c.pre c.agent va need with
          | .error k => .bad 3 k
          | .ok e =>
            let loc := e.loc va
            let cached := decide (win = some .glob) && !e.ordered && decide (c.warp.core = c.block.core)
            let a : Acc := ⟨t, va, size, loc, cached, some e⟩
            let held := cached && c.pre.inL1 c.core loc
            if scaled && peerRefuses loc then .bad 3 0x20
            else if (!held && c.pre.linkDown loc) || (need ≠ .write && readsPoison c.pre a scaled held) then .bad 4 0x40 else .ok a

/-- The accesses of all threads, where every thread passes. -/
def allOk : List (Nat × Chk) → Option (List Acc)
  | [] => some []
  | (_, .ok a) :: r => (allOk r).map (a :: ·)
  | (_, .bad _ _) :: _ => none

/-- The trap of the first check that fails for some thread: its cause and the threads that fail it (R208). Threads that fail
translation for different causes give the lowest. -/
def firstBad (l : List (Nat × Chk)) : Nat × BitVec 32 :=
  let st := l.foldl (fun m p => match p.2 with | .bad k _ => min m k | .ok _ => m) 9
  let cs := l.foldl (fun m p => match p.2 with | .bad k n => if k = st then min m n else m | .ok _ => m) 0x100
  (cs, maskOf ((l.filter (fun p => match p.2 with | .bad k n => decide (k = st) && decide (n = cs) | .ok _ => false)).map (·.1)))

/-! ### The L1 (R319) -/

/-- Lines that a core's L1 holds: the ways that scratch does not take (R320). -/
def l1Lines (core : Nat) (k : Core) : Nat :=
  if isRiffle core then (8 - k.ways.getD 4) * 256 else (16 - k.ways.getD 8) * 256

/-- Bytes `o` to `o + n - 1` of a line. -/
def L1Line.get (l : L1Line) (o n : Nat) : List Byte := toBytes n (l.data.toNat / 256 ^ o)

/-- Bytes written into a line, dirty. -/
def L1Line.put (l : L1Line) (o : Nat) (bs : List Byte) : L1Line :=
  { l with data := putBits l.data (8 * o) (8 * bs.length) (ofBytes bs), dirty := l.dirty ||| BitVec.ofNat 128 ((2 ^ bs.length - 1) * 2 ^ o) }

/-- The dirty bytes and scale words of a line performed at its home (R330, R332). -/
def writeBackLine (s : State) (l : L1Line) : State :=
  let s := (upto 128).foldl (fun s i => if l.dirty.getLsbD i then s.setByte (l.line.add i) (BitVec.ofNat 8 (l.data.toNat / 256 ^ i)) else s) s
  let s := if s.poison = [] then s
    else
      let whole := (upto 4).filter (fun g => (upto 32).all (fun i => l.dirty.getLsbD (32 * g + i)))
      { s with poison := s.poison.filter (fun k => !(whole.any (fun g => decide (granuleKey (l.line.add (32 * g)) = k)))) }
  if l.sdirty = 0 then s
  else
    let v := s.slotAt l.line
    let v := (upto 12).foldl (fun v j => if l.sdirty.getLsbD j then slotSetScale v j (slotScale l.side j).toNat else v) v
    let v := if l.sdirty.getLsbD 12 then putBits v 240 16 (slotDesc l.side).toNat else v
    homeSlotPart s l.line l.sdirty v

def L1Line.clean (l : L1Line) : L1Line := { l with dirty := 0, sdirty := 0 }

/-- Every dirty line of a core performed at its home. -/
def writeBackAll (s : State) (core : Nat) : State :=
  let s' := (s.core core).l1.foldl writeBackLine s
  s'.modCore core (fun k => { k with l1 := k.l1.map L1Line.clean })

/-- The core's L1 written back and emptied (R330: every invalidation writes dirty bytes back first). -/
def invalidateAll (s : State) (core : Nat) : State :=
  (writeBackAll s core).modCore core (fun k => { k with l1 := [] })

/-- The line of a location written back, and removed where `drop`. -/
def flushLine (s : State) (core : Nat) (l : Loc) (drop : Bool) : State :=
  match (s.core core).l1.find? (fun x => decide (x.line = l.line)) with
  | none => s
  | some x =>
    (writeBackLine s x).modCore core (fun k =>
      { k with l1 := if drop then k.l1.filter (fun y => decide (y.line ≠ l.line))
                     else k.l1.map (fun y => if y.line = l.line then y.clean else y) })

/-- The copies that cores hold of lines whose home bytes or scales have changed since a state: they go, dirty bytes written back, so that
later accesses there find what an engine wrote at the home (R185, R419). -/
def State.settle (s : State) (before : State) (cores : List Nat) : State :=
  cores.foldl (fun s c => (s.core c).l1.foldl (fun s x =>
    if before.bytes x.line 128 = s.bytes x.line 128 ∧ before.slotAt x.line = s.slotAt x.line then s else flushLine s c x.line true) s) s

/-- A line brought into the L1 from its home; a full L1 gives up a line of free choice (R319). -/
def fillLine (s : State) (core asid : Nat) (a : Acc) : State :=
  let k := s.core core
  let s := if l1Lines core k ≤ k.l1.length then
      match k.l1[Config.freePick s.free 2 % k.l1.length]? with
      | some v => flushLine s core v.line true
      | none => s
    else s
  s.modCore core (fun k =>
    { k with l1 := k.l1 ++ [{ line := a.loc.line, names := [(asid, a.va / 128 * 128)],
                              data := BitVec.ofNat 1024 (ofBytes (s.bytes a.loc.line 128)), dirty := 0, side := s.slotAt a.loc,
                              sdirty := 0 }] })

/-- Whether a line may be brought in: it holds no uncorrectable error. -/
def fillable (s : State) (l : Loc) : Bool := s.poison = [] || !(s.poisoned l.line 128 || s.slotPoisoned l)

/-- A line that the L1 holds is accessed by a name (R485). -/
def noteName (s : State) (core asid : Nat) (a : Acc) : State :=
  let n := (asid, a.va / 128 * 128)
  s.modCore core (fun k =>
    { k with l1 := k.l1.map (fun x => if x.line = a.loc.line ∧ !x.names.contains n then { x with names := x.names ++ [n] } else x) })

/-- The access's line in the L1, after a miss has brought it in where it may. -/
def lineFor (s : State) (core asid : Nat) (a : Acc) (alloc : Bool) : State × Option L1Line :=
  match (s.core core).l1.find? (fun x => decide (x.line = a.loc.line)) with
  | some l => (noteName s core asid a, some l)
  | none =>
    if alloc && fillable s a.loc then
      let s := fillLine s core asid a
      (s, (s.core core).l1.find? (fun x => decide (x.line = a.loc.line)))
    else (s, none)

/-- The bytes of an access, and the state after it: through the L1 where that serves it, under CH (R211, R212). -/
def loadBytes (s : State) (core asid : Nat) (a : Acc) (h : Hint) : State × List Byte :=
  if a.cached then
    let (s, l) := lineFor s core asid a (decide (h = .keep))
    let bs := match l with
      | some l => l.get (a.loc.off % 128) a.size
      | none => s.bytes a.loc a.size
    (if h = .lu then flushLine s core a.loc true else s, bs)
  else (s, s.bytes a.loc a.size)

/-- Bytes stored: into the line of the L1, dirty, or at the home (R331); a page with O = 1 is held in no cache (R334). -/
def storeBytes (s : State) (core asid : Nat) (a : Acc) (h : Hint) (bs : List Byte) : State :=
  if a.cached then
    let (s, l) := lineFor s core asid a (decide (h = .keep))
    let s := match l with
      | some _ => s.modCore core (fun k => { k with l1 := k.l1.map (fun x => if x.line = a.loc.line then x.put (a.loc.off % 128) bs else x) })
      | none => homeWrite s a.loc bs
    if h = .lu then flushLine s core a.loc true else s
  else homeWrite s a.loc bs

/-- The side slot of an access's line (R25, R322), through the L1 where that serves it. -/
def loadSlot (s : State) (core asid : Nat) (a : Acc) (h : Hint) : State × BitVec 256 :=
  if a.cached then
    let (s, l) := lineFor s core asid a (decide (h = .keep))
    (s, match l with | some l => l.side | none => s.slotAt a.loc)
  else (s, s.slotAt a.loc)

/-- Scale words and descriptor written to a side slot: `dirty` says which, scales 0 to 11 and the descriptor 12. -/
def storeSlot (s : State) (core asid : Nat) (a : Acc) (h : Hint) (dirty : BitVec 13) (f : BitVec 256 → BitVec 256) : State :=
  if a.cached then
    let (s, l) := lineFor s core asid a (decide (h = .keep))
    match l with
    | some _ => s.modCore core (fun k =>
        { k with l1 := k.l1.map (fun x => if x.line = a.loc.line then { x with side := f x.side, sdirty := x.sdirty ||| dirty } else x) })
    | none => homeSlotPart s a.loc dirty (f (s.slotAt a.loc))
  else homeSlotPart s a.loc dirty (f (s.slotAt a.loc))

/-- An access at the home: the core's own copy of the line is written back and dropped first, so that the access sees the split's
own stores (R326, R330). (DEDUCED, log 24.) -/
def atHome (s : State) (core : Nat) (a : Acc) : State := if a.cached then flushLine s core a.loc true else s

/-- The leaves of accesses enter the core's TLB (R484). -/
def noteTlb (s : State) (core : Nat) (as : List Acc) : State :=
  s.modCore core (fun k => { k with tlb := as.foldl (fun l a => match a.leaf with | some e => tlbAdd 1024 s.free l e | none => l) k.tlb })

/-! ### Releases and acquires (R328 to R330) -/

/-- Whether a release or acquire at a scope takes L1 actions: from .gng on, and at .blk while a warp of the block is away (R339). -/
def l1Acts (c : Ctx) (scope : Nat) : Bool := decide (2 ≤ scope) || (decide (scope = 1) && c.pre.hasMigrated c.warp.blk)

def releaseAt (c : Ctx) (scope : Nat) (s : State) : State := if l1Acts c scope then writeBackAll s c.core else s
def acquireAt (c : Ctx) (scope : Nat) (s : State) : State := if l1Acts c scope then invalidateAll s c.core else s

end Sys2Proof.Machine
end

