-- ==== Sys2Proof/Machine/Operands.lean ====
section
/-! DEFINITION. Operand forms: the registers that an instruction names (R50 to R53, R58), and the addresses of memory operands
(R210, R213). -/
namespace Sys2Proof.Machine
open Sys2Proof

/-- A register operand, a pair, a span. -/
def reg1 (r : Reg) : Option (Nat × Nat) := some (r.toNat, 1)
def reg2 (r : Reg) : Option (Nat × Nat) := some (r.toNat, 2)
def regN (r : Reg) (n : Nat) : Option (Nat × Nat) := some (r.toNat, n)
/-- A source that a literal may replace. -/
def src1 (x : Src) : Option (Nat × Nat) := srcSpan x 1
def src2 (x : Src) : Option (Nat × Nat) := srcSpan x 2
def srcN (x : Src) (n : Nat) : Option (Nat × Nat) := srcSpan x n
def osrc (x : Option Src) : Option (Nat × Nat) := x.bind (srcSpan · 1)
def oreg (x : Option Reg) : Option (Nat × Nat) := x.map (fun r => (r.toNat, 1))

/-- The names of an instruction with destination D alone. -/
def nameD (d : Reg) (a b c : Option (Nat × Nat)) : Names := ⟨a, b, c, [(d.toNat, 1)]⟩
/-- With the pair D. -/
def nameD2 (d : Reg) (a b c : Option (Nat × Nat)) : Names := ⟨a, b, c, [(d.toNat, 2)]⟩
/-- With two destinations (R105). -/
def nameDC (d c2 : Reg) (a b : Option (Nat × Nat)) : Names := ⟨a, b, none, [(d.toNat, 1), (c2.toNat, 1)]⟩
/-- With none. -/
def nameS (a b c : Option (Nat × Nat)) : Names := ⟨a, b, c, []⟩
/-- With a span of `n` registers. -/
def nameDN (d : Reg) (n : Nat) (a b c : Option (Nat × Nat)) : Names := ⟨a, b, c, [(d.toNat, n)]⟩

/-- Bytes and registers of a size (R211). -/
def szBytes (z : Size) : Nat :=
  match z with
  | .b32 => 4 | .b64 => 8 | .b128 => 16 | .n8 => 1 | .i8 => 1 | .n16 => 2 | .i16 => 2
def szRegs (z : Size) : Nat :=
  match z with
  | .b64 => 2 | .b128 => 4 | _ => 1

/-- The effective address of a pair and an offset (R210). -/
def Ctx.ea (c : Ctx) (a : Reg) (off : Word) (t : Nat) : DWord := c.reg2 a.toNat t + off.signExtend 64

/-- The effective address of the short form: the window's base, a 32-bit register and the offset (R213). -/
def Ctx.eaShort (c : Ctx) (spc : Space) (a : Reg) (off : Word) (t : Nat) : DWord :=
  BitVec.ofNat 64 (windowBase spc) + (c.reg a.toNat t).zeroExtend 64 + off.signExtend 64

/-- The integer that a word is, signed or unsigned. -/
def ofWord (u : Bool) (x : Word) : Int := if u then (x.toNat : Int) else x.toInt
/-- An integer modulo 2^32, modulo 2^64. -/
def wordOf (i : Int) : Word := BitVec.ofInt 32 i
def dwordOf (i : Int) : DWord := BitVec.ofInt 64 i

/-- The writes of a 64-bit result to a pair. -/
def pairOuts (d : Reg) (v : Nat → DWord) : List (Nat × (Nat → Word)) :=
  if d = 0 then [] else [(d.toNat, fun t => loWord (v t)), (d.toNat + 1, fun t => hiWord (v t))]

end Sys2Proof.Machine
end

