-- ==== Sys2Proof/Machine/Flags.lean ====
section
/-! DEFINITION. The conditions of comparisons and classes (R127 to R129). The device keeps no status flags (R42, R101). -/
namespace Sys2Proof.Machine
open Sys2Proof

/-- A condition on two integers (R127). -/
def condHolds (k : Cond) (a b : Int) : Bool :=
  match k with
  | .eq => decide (a = b)
  | .ne => decide (a ≠ b)
  | .lt => decide (a < b)
  | .le => decide (a ≤ b)
  | .gt => decide (b < a)
  | .ge => decide (b ≤ a)

/-- The format of a type T (R128). -/
def ftyFmt (t : FTy) : FFmt :=
  match t with
  | .f32 => f32 | .f16 => f16 | .bf16 => bf16

/-- A condition on two float codes; `u` makes conditions 0 to 5 true when unordered (R128). -/
def fcondHolds (k : FCond) (u : Bool) (t : FTy) (a b : Word) : Bool :=
  let x := (ftyFmt t).decode a.toNat
  let y := (ftyFmt t).decode b.toNat
  let un := x.isNan || y.isNan
  match k with
  | .num => !un
  | .nan => un
  | k =>
    if un then u
    else
      let o := Num.cmp x y
      match k with
      | .eq => o == .eq
      | .ne => o != .eq
      | .lt => o == .lt
      | .le => o != .gt
      | .gt => o == .gt
      | _ => o != .lt

/-- The class of a float code, numbered as the bits of FCLASS's mask (R129). -/
def classOf (t : FTy) (w : Word) : Nat :=
  let f := ftyFmt t
  let neg := w.toNat / 2 ^ (f.ebits + f.mbits) % 2 == 1
  let e := w.toNat / 2 ^ f.mbits % 2 ^ f.ebits
  let m := w.toNat % 2 ^ f.mbits
  if e = 2 ^ f.ebits - 1 then
    if m = 0 then (if neg then 0 else 7) else if 2 ^ (f.mbits - 1) ≤ m then 9 else 8
  else if e = 0 then
    if m = 0 then (if neg then 3 else 4) else (if neg then 2 else 5)
  else (if neg then 1 else 6)

/-- A truth value as the word that comparisons write (R52). -/
def truth (b : Bool) : Word := if b then 1 else 0

end Sys2Proof.Machine
end

