-- ==== Sys2Proof/Machine/Integer.lean ====
section
/-! DEFINITION. Integer arithmetic, addresses, moves and indexed access: opcodes 0x10 to 0x1F (R107 to R119). -/
namespace Sys2Proof.Machine
open Sys2Proof

/-- The latency class of integer and logic instructions (R63, R104). -/
def intLat : Nat × Nat := (4, 2)

/-- A one-destination integer instruction. -/
def intOp (f : Fr) (n : Names) (d : Reg) (v : Ctx → Nat → Word) (s : State) : Out :=
  aluOp f n intLat (fun c => [(d.toNat, v c)]) noEvents s

/-- The range and reading of SAT (R107). -/
def satWord (sat : Sat) (v : Int) : Word :=
  match sat with
  | .wrap => wordOf v
  | .signed => wordOf (clampI (-2 ^ 31) (2 ^ 31 - 1) v)
  | .unsigned => wordOf (clampI 0 (2 ^ 32 - 1) v)

/-- IADD's value (R107). -/
def iaddVal (sat : Sat) (a b c : Word) : Word :=
  let u := decide (sat = .unsigned)
  satWord sat (ofWord u a + ofWord u b + ofWord u c)

/-- ISUB's value (R107). -/
def isubVal (sat : Sat) (a b c : Word) : Word :=
  let u := decide (sat = .unsigned)
  satWord sat (ofWord u a - ofWord u b - ofWord u c)

/-- MOV (R115). -/
def execMov (f : Fr) (d : Reg) (b : Src) (s : State) : Out :=
  intOp f (nameD d none (src1 b) none) d (fun c t => c.val b t) s

/-- IADD (R107). -/
def execIadd (f : Fr) (d : Reg) (a b : Src) (c3 : Option Src) (sat : Sat) (s : State) : Out :=
  intOp f (nameD d (src1 a) (src1 b) (osrc c3)) d (fun c t => iaddVal sat (c.val a t) (c.val b t) (c.valD c3 0 t)) s

/-- ISUB (R107). -/
def execIsub (f : Fr) (d : Reg) (a b : Src) (c3 : Option Src) (sat : Sat) (s : State) : Out :=
  intOp f (nameD d (src1 a) (src1 b) (osrc c3)) d (fun c t => isubVal sat (c.val a t) (c.val b t) (c.valD c3 0 t)) s

/-- IMUL (R108). -/
def imulVal (a b : Word) : Word := wordOf (a.toInt * b.toInt)
/-- IMUL (R108). -/
def execImul (f : Fr) (d a : Reg) (b : Src) (s : State) : Out :=
  intOp f (nameD d (reg1 a) (src1 b) none) d (fun c t => imulVal (c.reg a.toNat t) (c.val b t)) s

/-- IMULH (R108): bits 63:32 of the exact product. -/
def imulhVal (u : Bool) (a b : Word) : Word := hiWord (dwordOf (ofWord u a * ofWord u b))
/-- IMULH (R108). -/
def execImulh (f : Fr) (d a : Reg) (b : Src) (u : Bool) (s : State) : Out :=
  intOp f (nameD d (reg1 a) (src1 b) none) d (fun c t => imulhVal u (c.reg a.toNat t) (c.val b t)) s

/-- IMAD (R109), narrow and wide. -/
def imadVal (a b c : Word) : Word := wordOf (a.toInt * b.toInt + c.toInt)
def imadWide (u : Bool) (a b : Word) (c : DWord) : DWord := dwordOf (ofWord u a * ofWord u b + (c.toNat : Int))
/-- IMAD (R109). -/
def execImad (f : Fr) (d : Reg) (a b c3 : Src) (wide u : Bool) (s : State) : Out :=
  if wide then
    aluOp f (nameD2 d (src1 a) (src1 b) (src2 c3)) intLat
      (fun c => pairOuts d (fun t => imadWide u (c.val a t) (c.val b t) (c.val2 c3 t))) noEvents s
  else
    intOp f (nameD d (src1 a) (src1 b) (src1 c3)) d (fun c t => imadVal (c.val a t) (c.val b t) (c.val c3 t)) s

/-- IMIN and IMAX (R110). -/
def iminVal (u : Bool) (a b : Word) : Word := if ofWord u a ≤ ofWord u b then a else b
def imaxVal (u : Bool) (a b : Word) : Word := if ofWord u a ≤ ofWord u b then b else a
/-- IMIN (R110). -/
def execImin (f : Fr) (d a : Reg) (b : Src) (u : Bool) (s : State) : Out :=
  intOp f (nameD d (reg1 a) (src1 b) none) d (fun c t => iminVal u (c.reg a.toNat t) (c.val b t)) s
/-- IMAX (R110). -/
def execImax (f : Fr) (d a : Reg) (b : Src) (u : Bool) (s : State) : Out :=
  intOp f (nameD d (reg1 a) (src1 b) none) d (fun c t => imaxVal u (c.reg a.toNat t) (c.val b t)) s

/-- IABS (R110). -/
def iabsVal (a : Word) : Word := if a.msb then 0 - a else a
/-- IABS (R110). -/
def execIabs (f : Fr) (d a : Reg) (s : State) : Out :=
  intOp f (nameD d (reg1 a) none none) d (fun c t => iabsVal (c.reg a.toNat t)) s

/-- IADD64 (R113): B is a pair or one register, extended. -/
def bextVal (bext : BExt) (c : Ctx) (b : Reg) (t : Nat) : DWord :=
  match bext with
  | .pair => c.reg2 b.toNat t
  | .sx => (c.reg b.toNat t).signExtend 64
  | .zx => (c.reg b.toNat t).zeroExtend 64
def iadd64Val (neg : Bool) (a b : DWord) : DWord := if neg then a - b else a + b
/-- IADD64 (R113). -/
def execIadd64 (f : Fr) (d a b : Reg) (neg : Bool) (bext : BExt) (s : State) : Out :=
  aluOp f (nameD2 d (reg2 a) (if bext = .pair then reg2 b else reg1 b) none) intLat
    (fun c => pairOuts d (fun t => iadd64Val neg (c.reg2 a.toNat t) (bextVal bext c b t))) noEvents s

/-- LEA (R114). -/
def leaVal (sh : BitVec 3) (bu : Bool) (a : DWord) (b c : Word) : DWord :=
  a + ((if bu then b.zeroExtend 64 else b.signExtend 64) <<< sh.toNat) + c.signExtend 64
/-- LEA (R114). -/
def execLea (f : Fr) (d : Reg) (a b : Src) (c3 : Option Src) (sh : BitVec 3) (bu : Bool) (s : State) : Out :=
  aluOp f (nameD2 d (src2 a) (src1 b) (osrc c3)) intLat
    (fun c => pairOuts d (fun t => leaVal sh bu (c.val2 a t) (c.val b t) (c.valD c3 0 t))) noEvents s

/-- ISAD (R111). -/
def isadVal (u : Bool) (a b c : Word) : Word := wordOf ((ofWord u a - ofWord u b).natAbs + (c.toNat : Int))
/-- ISAD (R111). -/
def execIsad (f : Fr) (d : Reg) (a b c3 : Src) (u : Bool) (s : State) : Out :=
  intOp f (nameD d (src1 a) (src1 b) (src1 c3)) d (fun c t => isadVal u (c.val a t) (c.val b t) (c.val c3 t)) s

/-- Byte i of a word. -/
def byteOf (x : Word) (i : Nat) : Byte := x.extractLsb' (8 * i) 8

/-- IDOT4 (R112). -/
def idot4Val (au bu sat : Bool) (a b c : Word) : Word :=
  let bi (u : Bool) (x : Byte) : Int := if u then (x.toNat : Int) else x.toInt
  let v := (upto 4).foldl (fun v i => v + bi au (byteOf a i) * bi bu (byteOf b i)) c.toInt
  wordOf (if sat then clampI (-2 ^ 31) (2 ^ 31 - 1) v else v)
/-- IDOT4 (R112). -/
def execIdot4 (f : Fr) (d : Reg) (a b c3 : Src) (au bu sat : Bool) (s : State) : Out :=
  intOp f (nameD d (src1 a) (src1 b) (src1 c3)) d (fun c t => idot4Val au bu sat (c.val a t) (c.val b t) (c.val c3 t)) s

/-- SEL (R116). -/
def selVal (neg : Bool) (a b c : Word) : Word := if c.getLsbD 0 != neg then a else b
/-- SEL (R116). -/
def execSel (f : Fr) (d : Reg) (a b c3 : Src) (neg : Bool) (s : State) : Out :=
  intOp f (nameD d (src1 a) (src1 b) (src1 c3)) d (fun c t => selVal neg (c.val a t) (c.val b t) (c.val c3 t)) s

/-- PRMT (R117). -/
def prmtByte (swp : Bool) (a b : Word) (sel : Byte) : Byte :=
  let k := (sel &&& 7).toNat
  let x := if k < 4 then byteOf (if swp then b else a) k else byteOf (if swp then a else b) (k - 4)
  let x : Byte := if sel.getLsbD 3 then 0 else if sel.getLsbD 4 then (if x.getLsbD 7 then 0xFF else 0) else x
  if sel.getLsbD 5 then ~~~x else x
def prmtVal (swp : Bool) (a b c : Word) : Word :=
  BitVec.ofNat 32 (ofBytes ((upto 4).map (fun i => prmtByte swp a b (byteOf c i))))
/-- PRMT (R117). -/
def execPrmt (f : Fr) (d : Reg) (a b c3 : Src) (swp : Bool) (s : State) : Out :=
  intOp f (nameD d (src1 a) (src1 b) (src1 c3)) d (fun c t => prmtVal swp (c.val a t) (c.val b t) (c.val c3 t)) s

/-- The computed name of MOVI (R118). -/
def moviName (c : Ctx) (base : BitVec 10) (a : Reg) (t : Nat) : Nat := base.toNat + (c.reg a.toNat (c.from t)).toNat

/-- The threads whose computed name fails a check of R55, R56 or R65, by cause; `reads` says whether MOVI reads the register. -/
def moviBad (c : Ctx) (base : BitVec 10) (a : Reg) (reads : Bool) (k : Nat) : BitVec 32 :=
  let name := moviName c base a
  let busy (t : Nat) : Bool :=
    decide (name t ≠ 0) &&
    (if reads then c.split.pend.any (fun p => decide (p.key = c.key (name t) (c.from t))) || (inFlight c.warp.flights (c.key (name t) (c.from t))).isSome
     else c.split.pend.any (fun p => decide (p.key = c.key (name t) t) && decide (c.split.nd + c.lat 4 2 < p.due)))
  maskOf (c.threads.filter (fun t =>
    if k = 0x04 then rangeBad c (name t, 1)
    else if k = 0x05 then xsetBad c (name t, 1)
    else if k = 0x06 then c.chk && busy t
    else reads && decide (name t ≠ 0) && c.pre.poison.contains (regGranule (c.key (name t) (c.from t)))))

/-- Whether one of the registers that MOVI names by its fields fails the check of a cause. -/
def moviNamed (c : Ctx) (n : Names) (g : BitVec 6) (k : Nat) : Bool :=
  if k = 0x04 then (n.all g).any (rangeBad c)
  else if k = 0x05 then (n.all g).any (xsetBad c)
  else c.chk && scoreBad c n g (some (c.lat 4 2))

/-- The checks of R58 on the named and the computed registers together, in its order: 0x04, 0x05, 0x06 (R119). -/
def moviEarly (n : Names) (g : BitVec 6) (base : BitVec 10) (a : Reg) (reads : Bool) (c : Ctx) : Option Nat :=
  [0x04, 0x05, 0x06].find? (fun k => moviNamed c n g k || decide (moviBad c base a reads k ≠ 0))

/-- The faulters of a failing check: every thread where a named register fails it, otherwise those whose computed names fail (R55). -/
def moviFaulters (n : Names) (g : BitVec 6) (base : BitVec 10) (a : Reg) (reads : Bool) (c : Ctx) (k : Nat) : BitVec 32 :=
  if k = 0x40 ∨ moviNamed c n g k then c.split.mask else moviBad c base a reads k

/-- A MOVI of either direction: `body` where no computed register holds an uncorrectable error. (DEDUCED, log 9.) -/
def moviOp (f : Fr) (n : Names) (base : BitVec 10) (a : Reg) (reads : Bool) (body : Ctx → State → State) (s : State) : Out :=
  issueFor (moviFaulters n f.g base a reads) f n (some intLat) (moviEarly n f.g base a reads) (fun c s =>
    if moviBad c base a reads 0x40 ≠ 0 then .trap 0x40 (moviBad c base a reads 0x40) [] none else .done (body c s)) s

/-- MOVI that reads (R118, R119). -/
def execMoviRead (f : Fr) (d a : Reg) (base : BitVec 10) (s : State) : Out :=
  moviOp f (nameD d (reg1 a) none none) base a true (fun c s =>
    finishFixed c f (c.lat 4 2) (c.outs [(d.toNat, fun t => c.reg (moviName c base a t) t)]) Health.none s) s

/-- MOVI that writes (R118, R119). -/
def execMoviWrite (f : Fr) (a b : Reg) (base : BitVec 10) (s : State) : Out :=
  moviOp f (nameS (reg1 a) (reg1 b) none) base a false (fun c s =>
    finishFixed c f (c.lat 4 2) ((c.threads.filter (fun t => decide (moviName c base a t ≠ 0))).map
      (fun t => (c.key (moviName c base a t) t, c.reg b.toNat (c.from t)))) Health.none s) s

end Sys2Proof.Machine
end

