-- ==== Sys2Proof/Machine/Compare.lean ====
section
/-! DEFINITION. Comparisons, votes and matches: opcodes 0x30 to 0x34 (R127 to R132). -/
namespace Sys2Proof.Machine
open Sys2Proof

/-- The latency class of FP32 arithmetic, conversions and packed half, and of cross-lane instructions (R63, R104). -/
def fpLat : Nat × Nat := (6, 3)
def crossLat : Nat × Nat := (8, 4)

/-- A comparison: t to D, 1 − t to C (R127). -/
def cmpOuts (d c2 : Reg) (p : Nat → Bool) : List (Nat × (Nat → Word)) :=
  [(d.toNat, fun t => truth (p t)), (c2.toNat, fun t => truth (!p t))]

/-- ICMP (R127). -/
def execIcmp (f : Fr) (d c2 : Reg) (a b : Src) (cond : Cond) (u : Bool) (s : State) : Out :=
  aluOp f (nameDC d c2 (src1 a) (src1 b)) intLat
    (fun c => cmpOuts d c2 (fun t => condHolds cond (ofWord u (c.val a t)) (ofWord u (c.val b t)))) noEvents s

/-- FCMP (R128). -/
def execFcmp (f : Fr) (d c2 : Reg) (a b : Src) (cond : FCond) (u : Bool) (ty : FTy) (s : State) : Out :=
  aluOp f (nameDC d c2 (src1 a) (src1 b)) fpLat
    (fun c => cmpOuts d c2 (fun t => fcondHolds cond u ty (c.val a t) (c.val b t))) noEvents s

/-- FCLASS (R129). -/
def execFclass (f : Fr) (d a : Reg) (mask : BitVec 10) (ty : FTy) (s : State) : Out :=
  aluOp f (nameD d (reg1 a) none none) fpLat
    (fun c => [(d.toNat, fun t => truth (mask.getLsbD (classOf ty (c.reg a.toNat t))))]) noEvents s

/-- The result of a vote over the active threads' bits (R130). -/
def voteVal (op : VoteOp) (act yes : BitVec 32) : Word :=
  match op with
  | .all => truth (decide (yes = act))
  | .any => truth (decide (yes ≠ 0))
  | .eq => truth (decide (yes = act) || decide (yes = 0))
  | .ballot => yes
  | .count => BitVec.ofNat 32 (threadsOf yes).length

/-- VOTE (R130, R132). -/
def execVote (f : Fr) (op : VoteOp) (d a : Reg) (s : State) : Out :=
  aluOp f (nameD d (reg1 a) none none) crossLat
    (fun c =>
      let yes := maskOf (c.threads.filter (fun t => (c.reg a.toNat t).getLsbD 0))
      [(d.toNat, fun _ => voteVal op c.act yes)]) noEvents s

/-- MATCHW (R131, R132). -/
def execMatchw (f : Fr) (wide : Bool) (d c2 a : Reg) (s : State) : Out :=
  aluOp f (nameDC d c2 (if wide then reg2 a else reg1 a) none) crossLat
    (fun c =>
      let v (t : Nat) : DWord := if wide then c.reg2 a.toNat t else (c.reg a.toNat t).zeroExtend 64
      [(d.toNat, fun t => maskOf (c.threads.filter (fun u => decide (v u = v t)))),
       (c2.toNat, fun t => truth (c.threads.all (fun u => decide (v u = v t))))]) noEvents s

end Sys2Proof.Machine
end

