-- ==== Sys2Proof/Machine/Float.lean ====
section
/-! DEFINITION. FP32 arithmetic and special functions: opcodes 0x40 to 0x4D (R133 to R138). -/
namespace Sys2Proof.Machine
open Sys2Proof

/-- The latency class of the special functions (R63). -/
def sfuLat : Nat × Nat := (12, 6)

/-- A source under its absolute and negate bits (R134). -/
def modNum (neg abs : Bool) (x : Num) : Num :=
  let x := if abs then x.abs else x
  if neg then x.neg else x

/-- The result rounded into FP32 and, under SAT, clamped to [+0, 1] (R134). -/
def finishF32 (rnd : Rnd) (sat : Bool) (v : Num) : Word :=
  let d := toF32 (plainMode rnd) v
  if sat then
    let x := numOf d
    if x.isNan then 0 else if x.lt (.fin false 1 0 1) then (if x.neg? || x.isZero then 0 else d) else 0x3F800000
  else d

/-- Whether an exact zero sum of unlike signs is −0: under RDN alone (R134). -/
def isDown (rnd : Rnd) : Bool := decide (rnd = .rdn)

/-- The modifier bits of R133, without those of C. -/
structure FMod where
  rnd : Rnd
  na : Bool
  nb : Bool
  aa : Bool
  ab : Bool
  sat : Bool

def faddVal (m : FMod) (a b : Word) : Word :=
  finishF32 m.rnd m.sat (Num.add (isDown m.rnd) (modNum m.na m.aa (numOf a)) (modNum m.nb m.ab (numOf b)))
def fsubVal (m : FMod) (a b : Word) : Word :=
  finishF32 m.rnd m.sat (Num.add (isDown m.rnd) (modNum m.na m.aa (numOf a)) (modNum m.nb m.ab (numOf b)).neg)
def fmulVal (m : FMod) (a b : Word) : Word :=
  finishF32 m.rnd m.sat (Num.mul (modNum m.na m.aa (numOf a)) (modNum m.nb m.ab (numOf b)))
def ffmaVal (m : FMod) (nc ac : Bool) (a b c : Word) : Word :=
  finishF32 m.rnd m.sat (Num.add (isDown m.rnd) (Num.mul (modNum m.na m.aa (numOf a)) (modNum m.nb m.ab (numOf b)))
    (modNum nc ac (numOf c)))

/-- A floating-point instruction of two sources. -/
def fpOp (f : Fr) (lat : Nat × Nat) (d : Reg) (a b : Src) (v : Word → Word → Word) (s : State) : Out :=
  aluOp f (nameD d (src1 a) (src1 b) none) lat (fun c => [(d.toNat, fun t => v (c.val a t) (c.val b t))]) noEvents s

/-- A function of one source. -/
def fp1 (f : Fr) (d a : Reg) (v : Word → Word) (s : State) : Out :=
  aluOp f (nameD d (reg1 a) none none) sfuLat (fun c => [(d.toNat, fun t => v (c.reg a.toNat t))]) noEvents s

/-- FADD, FSUB, FMUL, FFMA (R133, R134). -/
def execFadd (f : Fr) (d : Reg) (a b : Src) (rnd : Rnd) (na nb aa ab sat : Bool) (s : State) : Out :=
  fpOp f fpLat d a b (faddVal ⟨rnd, na, nb, aa, ab, sat⟩) s
/-- FSUB (R134). -/
def execFsub (f : Fr) (d : Reg) (a b : Src) (rnd : Rnd) (na nb aa ab sat : Bool) (s : State) : Out :=
  fpOp f fpLat d a b (fsubVal ⟨rnd, na, nb, aa, ab, sat⟩) s
/-- FMUL (R134). -/
def execFmul (f : Fr) (d : Reg) (a b : Src) (rnd : Rnd) (na nb aa ab sat : Bool) (s : State) : Out :=
  fpOp f fpLat d a b (fmulVal ⟨rnd, na, nb, aa, ab, sat⟩) s
/-- FFMA (R134). -/
def execFfma (f : Fr) (d : Reg) (a b c3 : Src) (rnd : Rnd) (na nb aa ab sat nc ac : Bool) (s : State) : Out :=
  aluOp f (nameD d (src1 a) (src1 b) (src1 c3)) fpLat
    (fun c => [(d.toNat, fun t => ffmaVal ⟨rnd, na, nb, aa, ab, sat⟩ nc ac (c.val a t) (c.val b t) (c.val c3 t))]) noEvents s

/-- FMIN, FMAX (R135). -/
def execFmin (f : Fr) (d a : Reg) (b : Src) (s : State) : Out := fpOp f fpLat d (.reg a) b fmin32 s
/-- FMAX (R135). -/
def execFmax (f : Fr) (d a : Reg) (b : Src) (s : State) : Out := fpOp f fpLat d (.reg a) b fmax32 s

/-- The special functions (R136, R137): correctly rounded. -/
def frcpVal (a : Word) : Word := rne32 (Num.div (.fin false 1 0 1) (numOf a))
def frsqVal (a : Word) : Word := rne32 (numOf a).rsqrt
def fsqrtVal (rnd : Rnd) (a : Word) : Word := toF32 (plainMode rnd) (numOf a).sqrt
def fdivVal (rnd : Rnd) (a b : Word) : Word := toF32 (plainMode rnd) (Num.div (numOf a) (numOf b))
/-- FRCP (R136). -/
def execFrcp (f : Fr) (d a : Reg) (s : State) : Out := fp1 f d a frcpVal s
/-- FRSQ (R136). -/
def execFrsq (f : Fr) (d a : Reg) (s : State) : Out := fp1 f d a frsqVal s
/-- FSQRT (R137). -/
def execFsqrt (f : Fr) (d a : Reg) (rnd : Rnd) (s : State) : Out := fp1 f d a (fsqrtVal rnd) s
/-- FEXP2 (R136). -/
def execFexp2 (f : Fr) (d a : Reg) (s : State) : Out := fp1 f d a fexp2 s
/-- FLOG2 (R136). -/
def execFlog2 (f : Fr) (d a : Reg) (s : State) : Out := fp1 f d a flog2w s
/-- FTANH (R136). -/
def execFtanh (f : Fr) (d a : Reg) (s : State) : Out := fp1 f d a ftanh s
/-- FDIV (R137). -/
def execFdiv (f : Fr) (d a b : Reg) (rnd : Rnd) (s : State) : Out := fpOp f sfuLat d (.reg a) (.reg b) (fdivVal rnd) s

/-- FSINCOS (R138). -/
def execFsincos (f : Fr) (d c2 a : Reg) (s : State) : Out :=
  aluOp f (nameDC d c2 (reg1 a) none) sfuLat
    (fun c => [(d.toNat, fun t => ftrig 0 (c.reg a.toNat t)), (c2.toNat, fun t => ftrig 1 (c.reg a.toNat t))]) noEvents s

end Sys2Proof.Machine
end

