-- ==== Sys2Proof/Machine/Half.lean ====
section
/-! DEFINITION. Packed half: opcodes 0x50 to 0x54 (R139, R140). -/
namespace Sys2Proof.Machine
open Sys2Proof

/-- The type T of R139. -/
def halfFmt (bf : Bool) : FFmt := if bf then bf16 else f16

/-- The two lanes of a word, low and high, and their word. -/
def loHalf (x : Word) : Nat := x.toNat % 65536
def hiHalf (x : Word) : Nat := x.toNat / 65536
def ofHalves (lo hi : Nat) : Word := BitVec.ofNat 32 (lo % 65536 + 65536 * (hi % 65536))

/-- A function of one lane applied to both. -/
def lanes2 (g : Nat → Nat → Nat) (a b : Word) : Word := ofHalves (g (loHalf a) (loHalf b)) (g (hiHalf a) (hiHalf b))

def negIf (n : Bool) (x : Num) : Num := if n then x.neg else x

def h2addLane (bf : Bool) (rnd : Rnd) (na nb : Bool) (a b : Nat) : Nat :=
  (halfFmt bf).round (plainMode rnd) (Num.add (isDown rnd) (negIf na ((halfFmt bf).decode a)) (negIf nb ((halfFmt bf).decode b)))
def h2mulLane (bf : Bool) (rnd : Rnd) (na nb : Bool) (a b : Nat) : Nat :=
  (halfFmt bf).round (plainMode rnd) (Num.mul (negIf na ((halfFmt bf).decode a)) (negIf nb ((halfFmt bf).decode b)))
def h2fmaLane (bf : Bool) (rnd : Rnd) (na nb nc : Bool) (a b c : Nat) : Nat :=
  (halfFmt bf).round (plainMode rnd)
    (Num.add (isDown rnd) (Num.mul (negIf na ((halfFmt bf).decode a)) (negIf nb ((halfFmt bf).decode b)))
      (negIf nc ((halfFmt bf).decode c)))

/-- H2ADD, H2MUL, H2FMA, H2MIN, H2MAX (R139, R140). -/
def execH2add (f : Fr) (d a : Reg) (b : Src) (rnd : Rnd) (bf na nb : Bool) (s : State) : Out :=
  fpOp f fpLat d (.reg a) b (lanes2 (h2addLane bf rnd na nb)) s
/-- H2MUL (R140). -/
def execH2mul (f : Fr) (d a : Reg) (b : Src) (rnd : Rnd) (bf na nb : Bool) (s : State) : Out :=
  fpOp f fpLat d (.reg a) b (lanes2 (h2mulLane bf rnd na nb)) s
/-- H2FMA (R140). -/
def execH2fma (f : Fr) (d : Reg) (a b c3 : Src) (rnd : Rnd) (bf na nb nc : Bool) (s : State) : Out :=
  aluOp f (nameD d (src1 a) (src1 b) (src1 c3)) fpLat
    (fun c => [(d.toNat, fun t =>
      let x := c.val a t
      let y := c.val b t
      let z := c.val c3 t
      ofHalves (h2fmaLane bf rnd na nb nc (loHalf x) (loHalf y) (loHalf z)) (h2fmaLane bf rnd na nb nc (hiHalf x) (hiHalf y) (hiHalf z)))])
    noEvents s
/-- H2MIN (R140). -/
def execH2min (f : Fr) (d a : Reg) (b : Src) (bf : Bool) (s : State) : Out :=
  fpOp f fpLat d (.reg a) b (lanes2 ((halfFmt bf).minmax false)) s
/-- H2MAX (R140). -/
def execH2max (f : Fr) (d a : Reg) (b : Src) (bf : Bool) (s : State) : Out :=
  fpOp f fpLat d (.reg a) b (lanes2 ((halfFmt bf).minmax true)) s

end Sys2Proof.Machine
end

