-- ==== Sys2Proof/Machine/Convert.lean ====
section
/-! DEFINITION. Conversions: opcodes 0x58 to 0x5D (R141 to R149). -/
namespace Sys2Proof.Machine
open Sys2Proof

/-- The value of a word's low bits in a type, as the input of a conversion (R142). -/
def elemInp (e : Elem) (w : Word) : Inp := deqInp e 0 w.toNat

/-- A code as it is written to a register: floats zero-extended, INT8 and INT4 sign-extended (R142). -/
def elemWord (e : Elem) (code : Nat) : Word :=
  match e with
  | .i8 => wordOf (signedOf 8 code)
  | .i4 => wordOf (signedOf 4 code)
  | _ => BitVec.ofNat 32 code

/-- Whether a conversion into a type counts health events (R149). -/
def countsHealth (dt : Elem) : Bool := decide (elemBits dt ≤ 8)

/-- CVT, CVTI and CVTF of one word (R143 to R145). -/
def cvtQuant (sty dt : Elem) (rnd : Rnd) (w : Word) : Quant := convElem dt (plainMode rnd) (elemInp sty w)

/-- A conversion that counts its events for the threads that perform it. -/
def cvtOp (f : Fr) (d a : Reg) (sty dt : Elem) (rnd : Rnd) (s : State) : Out :=
  aluOp f (nameD d (reg1 a) none none) fpLat
    (fun c => [(d.toNat, fun t => elemWord dt (cvtQuant sty dt rnd (c.reg a.toNat t)).code)])
    (fun c => if countsHealth dt then Health.sum (c.doers.map (fun t => (cvtQuant sty dt rnd (c.reg a.toNat t)).ev)) else Health.none) s

/-- CVT (R143). -/
def execCvt (f : Fr) (d a : Reg) (sty dt : Elem) (rnd : Rnd) (s : State) : Out := cvtOp f d a sty dt rnd s
/-- CVTI (R144). -/
def execCvti (f : Fr) (d a : Reg) (sty dt : Elem) (rnd : Rnd) (s : State) : Out := cvtOp f d a sty dt rnd s
/-- CVTF (R145). -/
def execCvtf (f : Fr) (d a : Reg) (sty dt : Elem) (rnd : Rnd) (s : State) : Out := cvtOp f d a sty dt rnd s

/-- The slot width of R146. -/
def slotWidth (e : Elem) : Nat :=
  match e with
  | .f16 | .bf16 => 16
  | .e2m1 | .i4 => 4
  | _ => 8

/-- Two codes placed in slots 2K and 2K + 1 of a word (R146). -/
def packSlots (e : Elem) (k : Nat) (base : Word) (x y : Nat) : Word :=
  let w := slotWidth e
  putBits (putBits base (w * (2 * k)) w x) (w * (2 * k + 1)) w y

/-- The code of slot j (R146). -/
def slotCode (e : Elem) (j : Nat) (v : Word) : Nat := v.toNat / 2 ^ (slotWidth e * j) % 2 ^ elemBits e

/-- PACK2 (R146). -/
def execPack2 (f : Fr) (d a b : Reg) (c3 : Option Reg) (dt : Elem) (rnd : Rnd) (k : BitVec 3) (s : State) : Out :=
  let q (c : Ctx) (r : Reg) (t : Nat) : Quant := convElem dt (plainMode rnd) (inpOf (c.reg r.toNat t))
  aluOp f (nameD d (reg1 a) (reg1 b) (oreg c3)) fpLat
    (fun c => [(d.toNat, fun t =>
      packSlots dt k.toNat (match c3 with | some r => c.reg r.toNat t | none => 0) (q c a t).code (q c b t).code)])
    (fun c => if countsHealth dt then Health.sum (c.doers.flatMap (fun t => [(q c a t).ev, (q c b t).ev])) else Health.none) s

/-- The FP32 word of an element that FP32 holds exactly (R147). -/
def widen (e : Elem) (code : Nat) : Word := rne32 (elemVal e code)

/-- UNPK2 (R147). -/
def execUnpk2 (f : Fr) (d c2 a : Reg) (sty : Elem) (k : BitVec 3) (s : State) : Out :=
  aluOp f (nameDC d c2 (reg1 a) none) fpLat
    (fun c => [(d.toNat, fun t => widen sty (slotCode sty (2 * k.toNat) (c.reg a.toNat t))),
               (c2.toNat, fun t => widen sty (slotCode sty (2 * k.toNat + 1) (c.reg a.toNat t)))]) noEvents s

/-- SRND (R148): indices 2t and 2t + 1 under the seed at issue. -/
def execSrnd (f : Fr) (d : Reg) (a b : Src) (dt : Elem) (strm : BitVec 8) (s : State) : Out :=
  let q (c : Ctx) (x : Src) (j t : Nat) : Quant :=
    convElem dt (.sr (dither c.ctx.seed (2 * t + j) strm.toNat)) (inpOf (c.val x t))
  aluOp f (nameD d (src1 a) (src1 b) none) fpLat
    (fun c => [(d.toNat, fun t => packSlots dt 0 0 (q c a 0 t).code (q c b 1 t).code)])
    (fun c => if countsHealth dt then Health.sum (c.doers.flatMap (fun t => [(q c a 0 t).ev, (q c b 1 t).ev])) else Health.none) s

end Sys2Proof.Machine
end

