-- ==== Sys2Proof/Machine/Block.lean ====
section
/-! DEFINITION. Block instructions: opcodes 0x60 to 0x69 (R154 to R165), and the packed layout of R30. -/
namespace Sys2Proof.Machine
open Sys2Proof

/-! ### The packed layout (R30) -/

/-- Codes of `w` bits side by side, the first lowest. -/
def joinCodes (w : Nat) (cs : List Nat) : Nat := cs.foldr (fun c acc => c % 2 ^ w + 2 ^ w * acc) 0

/-- `n` codes of `w` bits. -/
def splitCodes (w n v : Nat) : List Nat := (upto n).map (fun i => v / 2 ^ (w * i) % 2 ^ w)

/-- The words of a number. -/
def wordsOf (n v : Nat) : List Word := (upto n).map (fun i => BitVec.ofNat 32 (v / 2 ^ (32 * i)))

/-- Whether a format splits its codes into nibble and crumb planes in registers: the six-bit ones. -/
def planed (e : Elem) : Bool := decide (elemBits e = 6)

/-- Elements of a packed span: 32, or the group of A4 and A8. -/
def spanElems (e : Elem) (g : Grp) : Nat := if isAE e then grpSize g else 32

/-- Data registers of a packed span. -/
def spanData (e : Elem) (g : Grp) : Nat := elemBits e * spanElems e g / 32

/-- All registers of a packed span, the scale register of scaled formats included. -/
def spanLen (e : Elem) (g : Grp) : Nat := spanData e g + (if isScaled e then 1 else 0)

/-- The data words of 32 elements. -/
def packWords (e : Elem) (cs : List Nat) : List Word :=
  if planed e then wordsOf 4 (joinCodes 4 cs) ++ wordsOf 2 (joinCodes 2 (cs.map (· / 16)))
  else wordsOf (elemBits e) (joinCodes (elemBits e) cs)

/-- The codes of 32 elements from their data words. -/
def unpackWords (e : Elem) (ws : List Word) : List Nat :=
  let n (ws : List Word) : Nat := joinCodes 32 (ws.map BitVec.toNat)
  if planed e then
    (List.zip (splitCodes 4 32 (n (ws.take 4))) (splitCodes 2 32 (n (ws.drop 4)))).map (fun p => p.1 + 16 * p.2)
  else splitCodes (elemBits e) 32 (n ws)

/-- Data registers of 32 elements. -/
def partRegs (e : Elem) : Nat := elemBits e

/-! ### Maxima, scales, zero points -/

/-- BMAX and BMIN (R155). -/
def bmaxVal (isMax : Bool) (kind : MaxKind) (ty : FTy) (xs : List Word) : Word :=
  let vs := xs.map (fun w => let x := (ftyFmt ty).decode w.toNat; if kind = .abs then x.abs else x)
  if vs.any Num.isNan then 0x7FC00000
  else
    match vs with
    | [] => 0
    | x :: r => rne32 (r.foldl (fun a b => if isMax then a.max2 b else a.min2 b) x)

/-- A warp-wide instruction whose every active thread receives one word (R152). -/
def wideOp (f : Fr) (n : Names) (lat : Nat × Nat) (d : Reg) (v : Ctx → Word) (s : State) : Out :=
  aluOp f n lat (fun c => let x := v c; [(d.toNat, fun _ => x)]) noEvents s

/-- BMAX (R155). -/
def execBmax (f : Fr) (kind : MaxKind) (d a : Reg) (ty : FTy) (s : State) : Out :=
  wideOp f (nameD d (reg1 a) none none) crossLat d (fun c => bmaxVal true kind ty (c.threads.map (c.reg a.toNat))) s
/-- BMIN (R155). -/
def execBmin (f : Fr) (kind : MaxKind) (d a : Reg) (ty : FTy) (s : State) : Out :=
  wideOp f (nameD d (reg1 a) none none) crossLat d (fun c => bmaxVal false kind ty (c.threads.map (c.reg a.toNat))) s

/-- BSCALE (R156). -/
def execBscale (f : Fr) (mode : SMode) (d a : Reg) (bf : BFmt) (s : State) : Out :=
  wideOp f (nameD d (reg1 a) none none) sfuLat d (fun c =>
    BitVec.ofNat 32 (chooseScale (bfElem bf) (decide (mode = .ocp)) (c.threads.map (fun t => numOf (c.reg a.toNat t))))) s

/-- BZP (R157). -/
def bzpVal (zf : ZFmt) (lo hi : List Num) : Nat :=
  if (lo ++ hi).any (fun x => x.isNan || x.isInf) then nanGroup
  else chooseA (if zf = .a4 then .a4 else .a8) (lo.foldl Num.min2 (.zero false)) (hi.foldl Num.max2 (.zero false))
/-- BZP (R157). -/
def execBzp (f : Fr) (zf : ZFmt) (d a b : Reg) (s : State) : Out :=
  wideOp f (nameD d (reg1 a) (reg1 b) none) sfuLat d (fun c =>
    BitVec.ofNat 32 (bzpVal zf (c.threads.map (fun t => numOf (c.reg a.toNat t))) (c.threads.map (fun t => numOf (c.reg b.toNat t))))) s

/-! ### Quantise and dequantise -/

/-- The scale word of a uniform register: bits 19:0 of the lowest active thread's copy (R29). -/
def Ctx.scaleOf (c : Ctx) (x : Src) : Nat := (c.val x (lowest c.act)).toNat % 2 ^ 20

/-- The block that BQUANT makes of the active threads' inputs (R159): scale word, codes in thread order, events. -/
def bquantBlock (c : Ctx) (mode : QMode) (a : Nat → Word) (given : Nat) (bf : BFmt) (rnd : Rnd) (strm : Nat) : QBlock :=
  let xs := c.threads.map (fun t => inpOf (a t))
  let ms := c.threads.map (fun t => modeOf rnd c.ctx.seed t strm)
  match mode with
  | .given => quantGiven (bfElem bf) given ms xs
  | .tight => quantBlock (bfElem bf) false ms xs
  | .ocp => quantBlock (bfElem bf) true ms xs

/-- The code of a thread in a block of the active threads. -/
def Ctx.codeOf (c : Ctx) (q : QBlock) (t : Nat) : Nat := q.codes.getD (c.threads.idxOf t) 0

/-- BQUANT (R158, R159). -/
def execBquant (f : Fr) (mode : QMode) (d c2 : Reg) (a : Src) (b : Option Src) (bf : BFmt) (rnd : Rnd) (strm : BitVec 8) (s : State) : Out :=
  let q (c : Ctx) : QBlock := bquantBlock c mode (c.val a) (match b with | some x => c.scaleOf x | none => 0) bf rnd strm.toNat
  aluOp f (nameDC d c2 (src1 a) (osrc b)) (14, 7)
    (fun c => let q := q c; [(d.toNat, fun t => BitVec.ofNat 32 (c.codeOf q t)), (c2.toNat, fun _ => BitVec.ofNat 32 q.s20)])
    (fun c => (q c).ev) s

/-- BHEALTH (R164). -/
def execBhealth (f : Fr) (mode : QMode) (d a : Reg) (b : Option Reg) (bf : BFmt) (rnd : Rnd) (s : State) : Out :=
  let q (c : Ctx) : QBlock := bquantBlock c mode (c.reg a.toNat) (match b with | some x => c.scaleOf (.reg x) | none => 0) bf rnd 0
  aluOp f (nameD d (reg1 a) (oreg b) none) sfuLat
    (fun c => let q := q c; [(d.toNat, fun _ => BitVec.ofNat 32 (q.ev.sat % 65536 + 65536 * q.ev.zero))])
    (fun c => (q c).ev) s

/-- BDEQ's type (R160). -/
def dtyFmt (t : DTy) : FFmt :=
  match t with
  | .f32 => f32 | .bf16 => bf16 | .f16 => f16

def bdeqVal (bf : BFmt) (dt : DTy) (rnd : Rnd) (s20 : Nat) (code : Word) : Word :=
  BitVec.ofNat 32 ((dtyFmt dt).round (plainMode rnd) (deqInp (bfElem bf) s20 code.toNat).val)
/-- BDEQ (R160): the scale word is the lowest active thread's (R29). -/
def execBdeq (f : Fr) (d : Reg) (a b : Src) (bf : BFmt) (dt : DTy) (rnd : Rnd) (s : State) : Out :=
  aluOp f (nameD d (src1 a) (src1 b) none) fpLat
    (fun c => let s20 := c.scaleOf b; [(d.toNat, fun t => bdeqVal bf dt rnd s20 (c.val a t))]) noEvents s

/-- BRESCALE of one code (R161). -/
def brescaleQuant (bf : BFmt) (m : Mode) (code : Word) (old new : Nat) : Quant :=
  let e := bfElem bf
  if nanScale e old then ⟨0, ⟨1, 0⟩⟩
  else
    let q := quantGiven e new [m] [deqInp e old code.toNat]
    ⟨q.codes.headD 0, q.ev⟩
/-- BRESCALE (R161): both scale words are the lowest active thread's (R29). -/
def execBrescale (f : Fr) (d : Reg) (a b c3 : Src) (bf : BFmt) (rnd : Rnd) (strm : BitVec 8) (s : State) : Out :=
  let q (c : Ctx) (t : Nat) : Quant :=
    brescaleQuant bf (modeOf rnd c.ctx.seed t strm.toNat) (c.val a t) (c.scaleOf b) (c.scaleOf c3)
  aluOp f (nameD d (src1 a) (src1 b) (src1 c3)) fpLat
    (fun c => [(d.toNat, fun t => BitVec.ofNat 32 (q c t).code)])
    (fun c => Health.sum (c.doers.map (fun t => (q c t).ev))) s

/-! ### Packing -/

/-- BPACK (R162): the data words of the named part and the scale register, in every active thread. -/
def execBpack (f : Fr) (d a b : Reg) (bf : BFmt) (grp : Grp) (part : BitVec 2) (s : State) : Out :=
  let e := bfElem bf
  aluOp f (nameDN d (spanLen e grp) (reg1 a) (reg1 b) none) crossLat
    (fun c =>
      let codes := (upto 32).map (fun t => if c.act.getLsbD t then (c.reg a.toNat t).toNat % 2 ^ elemBits e else 0)
      let ws := packWords e codes
      (upto (partRegs e)).map (fun i => (d.toNat + part.toNat * partRegs e + i, fun _ => ws.getD i 0)) ++
      [(d.toNat + spanData e grp, fun _ => BitVec.ofNat 32 (c.scaleOf (.reg b)))]) noEvents s

/-- BUNPK (R163): from the lowest active thread's span. -/
def execBunpk (f : Fr) (d c2 a : Reg) (bf : BFmt) (grp : Grp) (part : BitVec 2) (s : State) : Out :=
  let e := bfElem bf
  aluOp f ⟨regN a (spanLen e grp), none, none, [(d.toNat, 1), (c2.toNat, 1)]⟩ crossLat
    (fun c =>
      let lo := lowest c.act
      let codes := unpackWords e ((upto (partRegs e)).map (fun i => c.reg (a.toNat + part.toNat * partRegs e + i) lo))
      [(d.toNat, fun t => BitVec.ofNat 32 (codes.getD t 0)),
       (c2.toNat, fun _ => BitVec.ofNat 32 ((c.reg (a.toNat + spanData e grp) lo).toNat % 2 ^ 20))]) noEvents s

end Sys2Proof.Machine
end

