-- ==== Sys2Proof/Machine/Cross.lean ====
section
/-! DEFINITION. Cross-lane instructions: opcodes 0x70 to 0x73 (R166 to R169). -/
namespace Sys2Proof.Machine
open Sys2Proof

/-- The source thread of SHFL (R166). -/
def shflSrc (mode : ShflMode) (w t j : Nat) : Option Nat :=
  let l := t % w
  match mode with
  | .idx => some (t - l + j % w)
  | .up => if j ≤ l then some (t - j) else none
  | .down => if l + j < w then some (t + j) else none
  | .xor => some (t - l + (l ^^^ j) % w)

/-- SHFL (R166). -/
def execShfl (f : Fr) (mode : ShflMode) (d c2 : Reg) (a b : Src) (seg : BitVec 3) (s : State) : Out :=
  let src (c : Ctx) (t : Nat) : Option Nat :=
    match shflSrc mode (2 ^ seg.toNat) t ((c.val b t).toNat % 32) with
    | some u => if c.act.getLsbD u then some u else none
    | none => none
  aluOp f (nameDC d c2 (src1 a) (src1 b)) crossLat
    (fun c => [(d.toNat, fun t => c.val a ((src c t).getD t)), (c2.toNat, fun t => truth (src c t).isSome)]) noEvents s

/-- An operation of R167 and its identity. -/
def redFn (op : RedOp) (a b : Word) : Word :=
  match op with
  | .add => fadd a b
  | .min => fmin32 a b
  | .max => fmax32 a b
  | .iadd => a + b
  | .imin => iminVal false a b
  | .imax => imaxVal false a b
  | .nmin => iminVal true a b
  | .nmax => imaxVal true a b
  | .band => a &&& b
  | .bor => a ||| b
  | .bxor => a ^^^ b
def redId (op : RedOp) : Word :=
  match op with
  | .add => 0x80000000
  | .min => 0x7F800000
  | .max => 0xFF800000
  | .iadd => 0
  | .imin => 0x7FFFFFFF
  | .imax => 0x80000000
  | .nmin => 0xFFFFFFFF
  | .nmax => 0
  | .band => 0xFFFFFFFF
  | .bor => 0
  | .bxor => 0

/-- The starting values of the trees: the identity for threads that are not active (R168). -/
def redInit (op : RedOp) (c : Ctx) (a : Reg) : List Word :=
  (upto 32).map (fun t => if c.act.getLsbD t then c.reg a.toNat t else redId op)

/-- One step of the reduction tree: neighbours joined (R47). -/
def treeStep (g : Word → Word → Word) : List Word → List Word
  | x :: y :: r => g x y :: treeStep g r
  | l => l

/-- The reduction tree of R47 over 32 values: v[t] joins v[t + k] for k = 1, 2, 4, 8, 16. -/
def treeReduce (g : Word → Word → Word) (l : List Word) : Word :=
  (treeStep g (treeStep g (treeStep g (treeStep g (treeStep g l))))).headD 0

/-- One step of the scan: position t ≥ k joins position t − k (R47). -/
def scanStep (g : Word → Word → Word) (k : Nat) (l : List Word) : List Word :=
  l.take k ++ List.zipWith g l (l.drop k)

/-- The inclusive scan of R47. -/
def treeScan (g : Word → Word → Word) (l : List Word) : List Word :=
  [1, 2, 4, 8, 16].foldl (fun l k => scanStep g k l) l

/-- REDW (R167, R168). -/
def execRedw (f : Fr) (op : RedOp) (d a : Reg) (s : State) : Out :=
  wideOp f (nameD d (reg1 a) none none) crossLat d (fun c => treeReduce (redFn op) (redInit op c a)) s

/-- SCANW (R167, R168). -/
def execScanw (f : Fr) (op : RedOp) (d a : Reg) (excl : Bool) (s : State) : Out :=
  aluOp f (nameD d (reg1 a) none none) crossLat
    (fun c =>
      let l := treeScan (redFn op) (redInit op c a)
      [(d.toNat, fun t => if excl then (if t = 0 then redId op else l.getD (t - 1) 0) else l.getD t 0)]) noEvents s

/-- BCASTW (R169); the lane index is uniform and so that of the lowest active thread (R152). -/
def execBcastw (f : Fr) (d a : Reg) (b : Option Src) (low : Bool) (s : State) : Out :=
  aluOp f (nameD d (reg1 a) (osrc b) none) crossLat
    (fun c => [(d.toNat, fun _ =>
      let u := if low then lowest c.act else (c.valD b 0 (lowest c.act)).toNat % 32
      if c.act.getLsbD u then c.reg a.toNat u else 0)]) noEvents s

end Sys2Proof.Machine
end

