-- ==== Sys2Proof/Machine/Memory.lean ====
section
/-! DEFINITION. Loads, stores, blocks and scales, prefetch, flush and ways: opcodes 0x80 to 0x8C (R207 to R220, R321). -/
namespace Sys2Proof.Machine
open Sys2Proof

/-- The effective addresses of the active threads, as a trap reports them. -/
def Ctx.addrs (c : Ctx) (ea : Nat → DWord) : List (Nat × DWord) := c.threads.map (fun t => (t, ea (c.from t)))

/-- An instruction that accesses memory: with no active thread only its counter moves (R70); otherwise every thread's access is
checked before any is performed (R208). -/
def memOp (f : Fr) (n : Names) (early : Ctx → Option Nat) (chks : Ctx → List (Nat × Chk)) (ea : Ctx → Nat → DWord)
    (body : Ctx → List Acc → State → Body) (s : State) : Out :=
  issue f n none early (fun c st =>
    if c.act = 0 then .done (finishFlight c f [] .minimum st)
    else
      match allOk (chks c) with
      | none => let (k, m) := firstBad (chks c); .trap k m (c.addrs (ea c)) none
      | some as => body c as (noteTlb st c.core as)) s

/-- The checks of plain accesses. -/
def plainChks (spc : Space) (need : Need) (size : Nat) (ea : Ctx → Nat → DWord) (c : Ctx) : List (Nat × Chk) :=
  c.doers.map (fun t => (t, resolve c spc need false size (min size 16) t (ea c t)))

/-- The accesses of a load in thread order, with their bytes. -/
def loadAll (core asid : Nat) (h : Hint) : List Acc → State → State × List (Nat × List Byte)
  | [], s => (s, [])
  | a :: as, s =>
    let (s, bs) := loadBytes s core asid a h
    let (s, r) := loadAll core asid h as s
    (s, (a.t, bs) :: r)

/-- The bytes that a thread's access gave. -/
def bytesFor (l : List (Nat × List Byte)) (t : Nat) : List Byte :=
  match l.find? (fun p => decide (p.1 = t)) with
  | some p => p.2
  | none => []

/-- The words that a load writes (R212): sub-words are extended. -/
def loadWord (sz : Size) (bs : List Byte) (i : Nat) : Word :=
  match sz with
  | .n8 | .n16 => BitVec.ofNat 32 (ofBytes bs)
  | .i8 => wordOf (signedOf 8 (ofBytes bs))
  | .i16 => wordOf (signedOf 16 (ofBytes bs))
  | _ => BitVec.ofNat 32 (ofBytes bs / 2 ^ (32 * i))

/-- The writes of a load of a size. -/
def loadOuts (d : Reg) (sz : Size) (l : List (Nat × List Byte)) : List (Nat × (Nat → Word)) :=
  (upto (szRegs sz)).map (fun i => (d.toNat + i, fun t => loadWord sz (bytesFor l t) i))

/-- The bytes that a store writes (R212): the low bytes of C. -/
def storeData (c : Ctx) (x : Src) (sz : Size) (t : Nat) : List Byte :=
  match x with
  | .lit v => toBytes (szBytes sz) v.toNat
  | .reg r => (((upto (szRegs sz)).map (fun i => toBytes 4 (c.reg (r.toNat + i) t).toNat)).flatten).take (szBytes sz)

/-- The stores of an instruction in ascending thread order: the highest thread's bytes stay (R212, R324). (DEDUCED, log 25.) -/
def storeAll (core asid : Nat) (h : Hint) (data : Nat → List Byte) (as : List Acc) (s : State) : State :=
  as.foldl (fun s a => storeBytes s core asid a h (data a.t)) s

/-- A load (R212). -/
def loadOp (f : Fr) (n : Names) (spc : Space) (sz : Size) (h : Hint) (d : Reg) (ea : Ctx → Nat → DWord) (s : State) : Out :=
  memOp f n noEarly (plainChks spc .read (szBytes sz) ea) ea (fun c as s =>
    let (s, l) := loadAll c.core c.asid h as s
    .done (finishFlight c f (c.outs (loadOuts d sz l)) .access s)) s

/-- A store (R212). -/
def storeOp (f : Fr) (n : Names) (spc : Space) (sz : Size) (h : Hint) (x : Src) (ea : Ctx → Nat → DWord) (s : State) : Out :=
  memOp f n noEarly (plainChks spc .write (szBytes sz) ea) ea (fun c as s =>
    .done (finishFlight c f [] .access (storeAll c.core c.asid h (storeData c x sz) as s))) s

/-- LD and ST (R212). -/
def execLd (f : Fr) (d a : Reg) (off : Word) (spc : Space) (sz : Size) (ch : Hint) (s : State) : Out :=
  loadOp f (nameDN d (szRegs sz) (reg2 a) none none) spc sz ch d (fun c => c.ea a off) s
/-- ST (R212). -/
def execSt (f : Fr) (a : Reg) (off : Word) (x : Src) (spc : Space) (sz : Size) (ch : Hint) (s : State) : Out :=
  storeOp f (nameS (reg2 a) none (srcN x (szRegs sz))) spc sz ch x (fun c => c.ea a off) s

/-- LDS and STS (R213). -/
def execLds (f : Fr) (d a : Reg) (off : Word) (spc : Space) (sz : Size) (s : State) : Out :=
  loadOp f (nameDN d (szRegs sz) (reg1 a) none none) spc sz .keep d (fun c => c.eaShort spc a off) s
/-- STS (R213). -/
def execSts (f : Fr) (a : Reg) (off : Word) (x : Reg) (spc : Space) (sz : Size) (s : State) : Out :=
  storeOp f (nameS (reg1 a) none (regN x (szRegs sz))) spc sz .keep (.reg x) (fun c => c.eaShort spc a off) s

/-- LDAQ (R214): the access at the home, then the acquire. -/
def execLdaq (f : Fr) (d a : Reg) (off : Word) (spc : Space) (sz : Size) (scope : Scope) (s : State) : Out :=
  memOp f (nameDN d (szRegs sz) (reg2 a) none none) (levelEarly scope) (plainChks spc .read (szBytes sz) (fun c => c.ea a off))
    (fun c => c.ea a off) (fun c as s =>
      let s := as.foldl (fun s a => atHome s c.core a) s
      let l := as.map (fun a => (a.t, s.bytes a.loc a.size))
      .done (finishFlight c f (c.outs (loadOuts d sz l)) .access (acquireAt c (c.scope scope) s))) s

/-- STRL (R214): the release, then the store; from .gng on the store itself is performed at the home. -/
def execStrl (f : Fr) (a : Reg) (off : Word) (x : Reg) (spc : Space) (sz : Size) (scope : Scope) (s : State) : Out :=
  memOp f (nameS (reg2 a) none (regN x (szRegs sz))) (levelEarly scope) (plainChks spc .write (szBytes sz) (fun c => c.ea a off))
    (fun c => c.ea a off) (fun c as s =>
      let s := releaseAt c (c.scope scope) s
      let s := as.foldl (fun s a =>
        if l1Acts c (c.scope scope) then homeWrite (atHome s c.core a) a.loc (storeData c (.reg x) sz a.t)
        else storeBytes s c.core c.asid a .keep (storeData c (.reg x) sz a.t)) s
      .done (finishFlight c f [] .access s)) s

/-! ### Blocks and scales -/

/-- Bytes of a block or group in memory, planes apart (R216). -/
def blockBytes (e : Elem) (g : Grp) : Nat := if isMx6 e then 16 else elemBits e * spanElems e g / 8

/-- The checks of a block access of one thread (R216): one access, or for MXFP6 the nibble and crumb bytes of its plane unit. -/
def blockChk (c : Ctx) (need : Need) (e : Elem) (g : Grp) (a : Reg) (off : Word) (t : Nat) : List (Nat × Chk) :=
  if isMx6 e then
    let unit := (c.reg2 a.toNat t)
    if unit.toNat % 128 ≠ 0 ∨ off.toNat % 16 ≠ 0 ∨ 240 < off.toNat then [(t, .bad 1 0x07)]
    else
      let b := off.toNat / 16
      [(t, resolve c .none need true 16 16 t (unit + BitVec.ofNat 64 (b / 8 * 128 + 16 * (b % 8)))),
       (t, resolve c .none need true 8 8 t (unit + BitVec.ofNat 64 (256 + b / 8 * 64 + 8 * (b % 8))))]
  else [(t, resolve c .none need true (blockBytes e g) (blockBytes e g) t (c.ea a off t))]

/-- The scale slot of a block access (R216). -/
def blockSlot (e : Elem) (g : Grp) (a : Acc) : Nat := a.va % 128 / (if isMx6 e then 16 else blockBytes e g)

/-- The codes of a block from its bytes. -/
def blockCodes (e : Elem) (g : Grp) (bs : List (List Byte)) : List Nat :=
  if isMx6 e then
    (List.zip (splitCodes 4 32 (ofBytes (bs.getD 0 []))) (splitCodes 2 32 (ofBytes (bs.getD 1 [])))).map (fun p => p.1 + 16 * p.2)
  else splitCodes (elemBits e) (spanElems e g) (ofBytes (bs.getD 0 []))

/-- The bytes of `n` codes, as their accesses store them. -/
def blockStore (e : Elem) (cs : List Nat) : List (List Byte) :=
  if isMx6 e then [toBytes 16 (joinCodes 4 cs), toBytes 8 (joinCodes 2 (cs.map (· / 16)))]
  else [toBytes (elemBits e * cs.length / 8) (joinCodes (elemBits e) cs)]

/-- The data words of a whole span. -/
def spanWords (e : Elem) (g : Grp) (cs : List Nat) : List Word :=
  (upto (spanElems e g / 32)).flatMap (fun p => packWords e ((cs.drop (32 * p)).take 32))

/-- The accesses of one thread. -/
def accsOf (as : List Acc) (t : Nat) : List Acc := as.filter (fun a => decide (a.t = t))

/-- A block read for one thread: codes and scale word. -/
def readBlock (c : Ctx) (e : Elem) (g : Grp) (h : Hint) (as : List Acc) (s : State) : State × List Nat × Nat :=
  let (s, l) := loadAll c.core c.asid h as s
  match as with
  | [] => (s, [], 0)
  | a :: _ =>
    let (s, slot) := loadSlot s c.core c.asid a h
    (s, blockCodes e g (l.map (·.2)), (slotScale slot (blockSlot e g a)).toNat)

/-- The blocks of several threads. -/
def readBlocks (c : Ctx) (e : Elem) (g : Grp) (h : Hint) (as : List Acc) : List Nat → State → State × List (Nat × List Nat × Nat)
  | [], s => (s, [])
  | t :: ts, s =>
    let (s, x) := readBlock c e g h (accsOf as t) s
    let (s, r) := readBlocks c e g h as ts s
    (s, (t, x) :: r)

def blockFor (l : List (Nat × List Nat × Nat)) (t : Nat) : List Nat × Nat :=
  match l.find? (fun p => decide (p.1 = t)) with
  | some p => p.2
  | none => ([], 0)

/-- The descriptor written with the scales of a format (R28): CNT from R26, PL nibble line for MXFP6. -/
def describe (e : Elem) (g : Grp) (v : BitVec 256) : BitVec 256 :=
  slotSetDesc v (elemCode e) (grpCode g) (lineScales e g) (if isMx6 e then 1 else 0)
where
  /-- The format code of R21. -/
  elemCode : Elem → Nat
    | .f32 => 0 | .bf16 => 1 | .f16 => 2 | .e4m3 => 3 | .e5m2 => 4 | .e2m3 => 5 | .e3m2 => 6 | .e2m1 => 7 | .i8 => 8 | .i4 => 9
    | .mx8e4 => 10 | .mx8e5 => 11 | .mx6e2 => 12 | .mx6e3 => 13 | .mx4 => 14 | .mxi8 => 15 | .a4 => 16 | .a8 => 17
    | .i32 => 24 | .n32 => 25 | .b32 => 26
  grpCode : Grp → Nat
    | .g32 => 0 | .g64 => 1 | .g128 => 2

/-- The descriptor of a crumb line: PL 0b10, CNT 0 (R216). -/
def describeCrumb (e : Elem) (v : BitVec 256) : BitVec 256 := slotSetDesc v (describe.elemCode e) 0 0 2

/-- A block's scale and descriptors written to the slots of its lines (R216). -/
def writeScale (core asid : Nat) (h : Hint) (e : Elem) (g : Grp) (as : List Acc) (s20 : Nat) (s : State) : State :=
  match as with
  | [] => s
  | a :: r =>
    let j := blockSlot e g a
    let s := storeSlot s core asid a h (BitVec.ofNat 13 (2 ^ j + 4096)) (fun v => describe e g (slotSetScale v j s20))
    match r with
    | [] => s
    | b :: _ => storeSlot s core asid b h (BitVec.ofNat 13 4096) (describeCrumb e)

/-- The part of a block's accesses that holds elements 32·PART on (R215). -/
def partAcc (e : Elem) (part : Nat) (as : List Acc) : List Acc :=
  if isMx6 e then as
  else as.map (fun a => { a with va := a.va + part * 4 * elemBits e, size := 4 * elemBits e, loc := a.loc.add (part * 4 * elemBits e) })

def ncHint (nc : Bool) : Hint := if nc then .nc else .keep

/-- LDBS (R215, R216). With .pk, whose syntax has no part, a PART within R162's limits is accepted and plays no role.
(DEDUCED, log 94.) -/
def execLdbs (f : Fr) (pk : Bool) (d a : Reg) (off : Word) (bf : BFmt) (g : Grp) (part : BitVec 2) (nc : Bool) (s : State) : Out :=
  let e := bfElem bf
  let who (c : Ctx) : List Nat := if pk then c.doers else [lowest c.act]
  memOp f (nameDN d (if pk then spanLen e g else 2) (reg2 a) none none) noEarly
    (fun c => (who c).flatMap (blockChk c .read e g a off)) (fun c => c.ea a off) (fun c as s =>
      let (s, l) := readBlocks c e g (ncHint nc) as (who c) s
      let outs := if pk then
          (upto (spanData e g)).map (fun i => (d.toNat + i, fun t => (spanWords e g (blockFor l t).1).getD i 0)) ++
          [(d.toNat + spanData e g, fun t => BitVec.ofNat 32 (blockFor l t).2)]
        else
          let b := blockFor l (lowest c.act)
          [(d.toNat, fun t => BitVec.ofNat 32 (b.1.getD (32 * part.toNat + t) 0)), (d.toNat + 1, fun _ => BitVec.ofNat 32 b.2)]
      .done (finishFlight c f (c.outs outs) .access s)) s

/-- STBS (.pk as in LDBS, log 94; R215, R216). -/
def execStbs (f : Fr) (pk : Bool) (a : Reg) (off : Word) (x : Reg) (bf : BFmt) (g : Grp) (part : BitVec 2) (nc : Bool) (s : State) : Out :=
  let e := bfElem bf
  let h := ncHint nc
  let who (c : Ctx) : List Nat := if pk then c.doers else [lowest c.act]
  memOp f (nameS (reg2 a) none (regN x (if pk then spanLen e g else 2))) noEarly
    (fun c => (who c).flatMap (blockChk c .write e g a off)) (fun c => c.ea a off) (fun c as s =>
      let put (s : State) (as : List Acc) (cs : List Nat) : State :=
        (as.zip (blockStore e cs)).foldl (fun s p => storeBytes s c.core c.asid p.1 h p.2) s
      let s := if pk then
          (who c).foldl (fun s t =>
            let cs := (upto (spanElems e g / 32)).flatMap (fun p =>
              unpackWords e ((upto (partRegs e)).map (fun i => c.reg (x.toNat + p * partRegs e + i) t)))
            writeScale c.core c.asid h e g (accsOf as t) ((c.reg (x.toNat + spanData e g) t).toNat % 2 ^ 20) (put s (accsOf as t) cs)) s
        else
          let cs := (upto 32).map (fun t => if c.act.getLsbD t then (c.reg x.toNat (c.from t)).toNat % 2 ^ elemBits e else 0)
          writeScale c.core c.asid h e g as ((c.reg (x.toNat + 1) (lowest c.act)).toNat % 2 ^ 20) (put s (partAcc e part.toNat as) cs)
      .done (finishFlight c f [] .access s)) s

/-- The checks of a scale access: the address names a line and is a multiple of 4 (R217). -/
def slotChks (need : Need) (a : Reg) (c : Ctx) : List (Nat × Chk) :=
  c.doers.map (fun t => (t, resolve c .none need true 4 4 t (c.reg2 a.toNat t)))

/-- The side slots of accesses. -/
def loadSlots (core asid : Nat) : List Acc → State → State × List (Nat × BitVec 256)
  | [], s => (s, [])
  | a :: as, s =>
    let (s, v) := loadSlot s core asid a .keep
    let (s, r) := loadSlots core asid as s
    (s, (a.t, v) :: r)

/-- LDSC (R217). -/
def execLdsc (f : Fr) (d c2 a b : Reg) (s : State) : Out :=
  memOp f (nameDC d c2 (reg2 a) (reg1 b)) noEarly (slotChks .read a) (fun c => c.reg2 a.toNat) (fun c as s =>
    let (s, l) := loadSlots c.core c.asid as s
    let slot (t : Nat) : BitVec 256 := match l.find? (fun p => decide (p.1 = t)) with | some p => p.2 | none => 0
    let outs := [(d.toNat, fun t =>
        let j := (c.reg b.toNat t).toNat % 16
        if j < 12 then (slotScale (slot t) j).zeroExtend 32 else 0),
      (c2.toNat, fun t => (slotDesc (slot t)).zeroExtend 32)]
    .done (finishFlight c f (c.outs outs) .access s)) s

/-- STSC (R217): with .desc and a scale number of 12 or more the descriptor is written all the same. (DEDUCED, log 103.) -/
def execStsc (f : Fr) (a b x : Reg) (desc : Bool) (s : State) : Out :=
  memOp f (nameS (reg2 a) (reg1 b) (if desc then reg2 x else reg1 x)) noEarly (slotChks .write a) (fun c => c.reg2 a.toNat)
    (fun c as s =>
      let s := as.foldl (fun s p =>
        let j := (c.reg b.toNat p.t).toNat % 16
        let dirty := (if j < 12 then 2 ^ j else 0) + (if desc then 4096 else 0)
        storeSlot s c.core c.asid p .keep (BitVec.ofNat 13 dirty) (fun v =>
          let v := slotSetScale v j ((c.reg x.toNat p.t).toNat % 2 ^ 20)
          if desc then putBits v 240 16 (c.reg (x.toNat + 1) p.t).toNat else v)) s
      .done (finishFlight c f [] .access s)) s

/-! ### Prefetch, flush and ways -/

/-- PREF (R218): lines of the global window brought into the L1; an access that would fail is dropped. -/
def execPref (f : Fr) (lvl : PLevel) (a : Reg) (off : Word) (spc : Space) (s : State) : Out :=
  issue f (nameS (reg2 a) none none) none noEarly (fun c s =>
    let as := c.doers.filterMap (fun t => match resolve c spc .read false 1 1 t (c.ea a off t) with | .ok x => some x | .bad _ _ => none)
    let s := if lvl = .l1 then as.foldl (fun s x => if x.cached then (lineFor s c.core c.asid x true).1 else s) s else s
    .done (finishFlight c f [] .minimum s)) s

/-- The location of an address without any check of permission; none where no leaf maps it (R219). -/
def leafLoc (c : Ctx) (ea : DWord) : Option Loc :=
  if windowOf ea.toNat = some .glob then
    match (c.agent.tlb.find? (·.covers c.agent ea.toNat)) with
    | some e => some (e.loc ea.toNat)
    | none =>
      match walkFrom c.pre false ea.toNat 4 0 c.ctx.troot with
      | .leaf e size => some (TlbEntry.loc { asid := c.asid, world := c.ctx.world, base := ea.toNat / size * size, size := size, leaf := e } ea.toNat)
      | .fail _ => none
  else none

/-- CFLUSH of the lines of the active threads (R219). -/
def flushOp (f : Fr) (a : Reg) (drop : Bool) (s : State) : Out :=
  issue f (nameS (reg2 a) none none) none noEarly (fun c s =>
    if c.act = 0 then .done (finishFlight c f [] .minimum s)
    else
      let s := (c.threads.filterMap (fun t => leafLoc c (c.reg2 a.toNat t))).foldl (fun s l => flushLine s c.core l drop) s
      .done (finishFlight c f [] .access s)) s
/-- CFLUSH_WB (R219). -/
def execCflushWb (f : Fr) (a : Reg) (s : State) : Out := flushOp f a false s
/-- CFLUSH_WBINV (R219). -/
def execCflushWbinv (f : Fr) (a : Reg) (s : State) : Out := flushOp f a true s

/-- An instruction without operands that acts once on the state, when some thread is active. -/
def onceOp (f : Fr) (early : Ctx → Option Nat) (body : Ctx → State → State) (s : State) : Out :=
  issue f (nameS none none none) none early (fun c s =>
    if c.act = 0 then .done (finishFlight c f [] .minimum s)
    else .done (finishFlight c f [] .access (body c s))) s

/-- CFLUSH of the whole L1 (R219). -/
def execCflushWball (f : Fr) (s : State) : Out := onceOp f noEarly (fun c s => writeBackAll s c.core) s
/-- CFLUSH_WBINVALL (R219). -/
def execCflushWbinvall (f : Fr) (s : State) : Out := onceOp f noEarly (fun c s => invalidateAll s c.core) s

/-- A block's core scratch from an offset on reads as zero again, its side slots too. -/
def clearScratch (s : State) (b from_ : Nat) : State :=
  let gone (k : Nat) : Bool := decide (k % 16 = 4) && decide (k / 16 / 2 ^ 52 = b) && decide (from_ ≤ k / 16 % 2 ^ 52)
  { s with mem := s.mem.filter (fun p => !gone p.1), side := s.side.filter (fun p => !gone p.1) }

/-- The conditions of WAYSET (R220, R321): the flag, no other block on the core, no cluster slice on it. (DEDUCED, log 28.) -/
def waysetAllowed (c : Ctx) : Bool :=
  c.launch.record.wset && decide (c.core = c.block.core) &&
  decide ((c.pre.blocks.filter (fun p => decide (p.2.core = c.core) && c.pre.placed p.1)).length = 1) &&
  (c.riffle || !(c.pre.gangs.any (fun p => holdsPlace p.2.state && decide (clusterOf p.2.core = clusterOf c.core) &&
    (match tget c.pre.launches p.2.launch with | some l => decide (l.record.clm ≠ 0) | none => false))))

/-- Whether the core's engine, array and flumes have work (R321). -/
def coreBusy (c : Ctx) : Bool :=
  !(c.pre.core c.core).sluice.isEmpty || (!c.riffle && !(c.pre.twin (c.core / 2)).ops.isEmpty) ||
  c.block.flumes.any (fun x => decide (x.rin ≠ 0) || decide (x.rout ≠ 0))

/-- WAYSET (R220, R321): the ways that the block's range did not cover read as 0, and the window begins at way 0. (DESIGN CHOICE, log 105.) -/
def execWayset (f : Fr) (d a : Reg) (s : State) : Out :=
  issue f (nameD d (reg1 a) none none) none noEarly (fun c s =>
    if c.act = 0 then .done (finishFlight c f [] .minimum s)
    else if !waysetAllowed c then .trap 0x03 c.act [] none
    else
      let n := (c.reg a.toNat (lowest c.act)).toNat
      let r := c.launch.record
      let limit := if c.riffle then 7 else 15
      if limit < n ∨ n * 32768 < (r.scr + 255) / 256 * 256 + r.scrs / 4 then
        .done (finishFlight c f (c.outs [(d.toNat, fun _ => 1)]) .access s)
      else if coreBusy c then .held
      else
        let old := (c.pre.core c.core).ways.getD (if c.riffle then 4 else 8)
        let s := clearScratch (invalidateAll s c.core) c.warp.blk (min n old * 32768)
        let s := (s.modCore c.core (fun k => { k with ways := some n })).modBlock c.warp.blk (fun b => { b with scrBase := 0, wset := some n })
        .done (finishFlight c f (c.outs [(d.toNat, fun _ => 0)]) .access s)) s

end Sys2Proof.Machine
end

