-- ==== Sys2Proof/Machine/Atomic.lean ====
section
/-! DEFINITION. Atomics, reductions, fences and chunk draws: opcodes 0x90 to 0x94 (R221 to R225). -/
namespace Sys2Proof.Machine
open Sys2Proof

/-- The new value of an atomic on `n` bits (R221). -/
def atomNew (op : AtomOp) (wide : Bool) (old x : DWord) : DWord :=
  let o32 := loWord old
  let x32 := loWord x
  let z (w : Word) : DWord := w.zeroExtend 64
  let so : Int := if wide then old.toInt else o32.toInt
  let sx : Int := if wide then x.toInt else x32.toInt
  match op with
  | .add => old + x
  | .fadd => z (fadd o32 x32)
  | .smin => if so ≤ sx then old else x
  | .smax => if so ≤ sx then x else old
  | .nmin => if old.toNat ≤ x.toNat then old else x
  | .nmax => if old.toNat ≤ x.toNat then x else old
  | .band => old &&& x
  | .bor => old ||| x
  | .bxor => old ^^^ x
  | .exch => x
  | .inc => if x32.toNat ≤ o32.toNat then 0 else z (o32 + 1)
  | .dec => if o32 = 0 ∨ x32.toNat < o32.toNat then z x32 else z (o32 - 1)
  | .fmin => z (fmin32 o32 x32)
  | .fmax => z (fmax32 o32 x32)
  | .h2add => z (lanes2 (h2addLane false .rne false false) o32 x32)
  | .bf2add => z (lanes2 (h2addLane true .rne false false) o32 x32)

/-- The atomics of the threads in ascending order, each seeing the one before (R223): the old values. -/
def atomAll (core : Nat) (g : Nat → DWord → Option DWord) : List Acc → State → State × List (Nat × List Byte)
  | [], s => (s, [])
  | a :: as, s =>
    let s := atHome s core a
    let bs := s.bytes a.loc a.size
    let s := match g a.t (BitVec.ofNat 64 (ofBytes bs)) with
      | some v => homeWrite s a.loc (toBytes a.size v.toNat)
      | none => s
    let (s, r) := atomAll core g as s
    (s, (a.t, bs) :: r)

/-- Whether an order releases, whether it acquires. -/
def Ctx.relOf (ord : Order) : Bool := ord = .rel || ord = .acqrel
def Ctx.acqOf (ord : Order) : Bool := ord = .acq || ord = .acqrel

/-- An atomic instruction: release, the read-modify-writes at the home, acquire (R223). -/
def atomOp (f : Fr) (n : Names) (spc : Space) (sz : Size) (scope : Scope) (ord : Order) (a : Reg) (off : Word) (d : Option Reg)
    (g : Ctx → Nat → DWord → Option DWord) (s : State) : Out :=
  memOp f n (levelEarly scope) (plainChks spc .atomic (szBytes sz) (fun c => c.ea a off)) (fun c => c.ea a off) (fun c as s =>
    let s := if Ctx.relOf ord then releaseAt c (c.scope scope) s else s
    let (s, l) := atomAll c.core (g c) as s
    let s := if Ctx.acqOf ord then acquireAt c (c.scope scope) s else s
    .done (finishFlight c f (match d with | some d => c.outs (loadOuts d sz l) | none => []) .access s)) s

/-- The operand C of an atomic. -/
def Ctx.operand (c : Ctx) (x : Src) (sz : Size) (t : Nat) : DWord :=
  if sz = .b64 then c.val2 x t else (c.val x t).zeroExtend 64

/-- ATOM (R221, R223). -/
def execAtom (f : Fr) (op : AtomOp) (d a : Reg) (off : Word) (x : Src) (spc : Space) (sz : Size) (scope : Scope) (ord : Order)
    (s : State) : Out :=
  atomOp f (nameDN d (szRegs sz) (reg2 a) none (srcN x (szRegs sz))) spc sz scope ord a off (some d)
    (fun c t old => some (atomNew op (decide (sz = .b64)) old (c.operand x sz t))) s

/-- ATOMC (R222): the compare value, then the new one. -/
def execAtomc (f : Fr) (d a : Reg) (off : Word) (x : Reg) (spc : Space) (sz : Size) (scope : Scope) (ord : Order) (s : State) : Out :=
  atomOp f (nameDN d (szRegs sz) (reg2 a) none (regN x (2 * szRegs sz))) spc sz scope ord a off (some d)
    (fun c t old =>
      let r := x.toNat
      let (cmp, new) := if sz = .b64 then (c.reg2 r t, c.reg2 (r + 2) t) else ((c.reg r t).zeroExtend 64, (c.reg (r + 1) t).zeroExtend 64)
      if old = cmp then some new else none) s

/-- RED (R221, R223). -/
def execRed (f : Fr) (op : AtomOp) (a : Reg) (off : Word) (x : Src) (spc : Space) (sz : Size) (scope : Scope) (ord : Order)
    (s : State) : Out :=
  atomOp f (nameS (reg2 a) none (srcN x (szRegs sz))) spc sz scope ord a off none
    (fun c t old => some (atomNew op (decide (sz = .b64)) old (c.operand x sz t))) s

/-- FENCE (R224). -/
def execFenceFull (f : Fr) (scope : Scope) (s : State) : Out :=
  onceOp f (levelEarly scope) (fun c s => acquireAt c (c.scope scope) (releaseAt c (c.scope scope) s)) s
/-- FENCE_ACQ (R224). -/
def execFenceAcq (f : Fr) (scope : Scope) (s : State) : Out :=
  onceOp f (levelEarly scope) (fun c s => acquireAt c (c.scope scope) s) s
/-- FENCE_REL (R224). -/
def execFenceRel (f : Fr) (scope : Scope) (s : State) : Out :=
  onceOp f (levelEarly scope) (fun c s => releaseAt c (c.scope scope) s) s

/-- A draw from a chunk record {next, end, min, divisor} (R225): start, count, next. -/
def chunkDraw (rec_ : List Byte) : Nat × Nat :=
  let w (i : Nat) : Nat := ofBytes ((rec_.drop (4 * i)).take 4)
  let rem := w 1 - w 0
  let dv := if w 3 = 0 then 1 else w 3
  (w 0, min rem (max (w 2) ((rem + dv - 1) / dv)))

/-- The draws of the threads in ascending order. -/
def chunkAll (core : Nat) : List Acc → State → State × List (Nat × List Byte)
  | [], s => (s, [])
  | a :: as, s =>
    let s := atHome s core a
    let (start, n) := chunkDraw (s.bytes a.loc 16)
    let s := homeWrite s a.loc (toBytes 4 (start + n))
    let (s, r) := chunkAll core as s
    (s, (a.t, toBytes 4 start ++ toBytes 4 n) :: r)

/-- CHUNK (R225): the record lies in the global window; it waits for an NCOW in progress on the same words (R243). -/
def execChunk (f : Fr) (d a : Reg) (s : State) : Out :=
  memOp f (nameD2 d (reg2 a) none none) noEarly (plainChks .glob .atomic 16 (fun c => c.reg2 a.toNat)) (fun c => c.reg2 a.toNat)
    (fun c as s =>
      if as.any (fun a => c.pre.cowHolds a.loc 16) then .held else
      let (s, l) := chunkAll c.core as s
      .done (finishFlight c f (c.outs (loadOuts d .b64 l)) .access s)) s

end Sys2Proof.Machine
end

