-- ==== Sys2Proof/Machine/Fetch.lean ====
section
/-! DEFINITION. Instruction fetch (R73, R81, R340), the threads' places in the launch (R288 to R290), and when a split is ready
(R297). -/
namespace Sys2Proof.Machine
open Sys2Proof

/-- The fields of the frame of an instruction; none for an event. -/
def frOf (i : Instr) : Option Fr := (fieldsOf i).map Raw.fr

/-- A frame without guard, counter or wait, for traps that no decoded instruction raises. -/
def plainFr : Fr :=
  { form := .s, uni := false, g := 0, gn := false, stall := 0, setc := 0, wait := 0, holdA := false, holdB := false, holdC := false }

/-- The trap cause of a word that is no instruction (R81). -/
def decodeCause (e : DecodeError) : Nat :=
  match e with
  | .crossesBlock => 0x02
  | _ => 0x01

/-- What a fetch block may read as: what stands at its home, what stood there when the launch became ready, and what the core's instruction
cache holds of it (R340, R341): within the launch's code range only what the launch itself has fetched, since it has invalidated the
caches over that range and another launch may go on with older code. -/
def codeOf (s : State) (c : Ctx) (va : Nat) (loc : Loc) : List (List Byte) :=
  let mine (k : Nat × Nat × Nat) : Bool :=
    decide (k.1 = c.asid) && decide (k.2.1 = va) && (decide (k.2.2 = c.gang.launch) || !c.launch.record.covers va)
  let cached := ((s.core c.core).icache.filter (fun p => mine p.1)).map (fun p => toBytes 32 p.2.toNat)
  ({ s with mem := c.launch.code }.bytes loc 32) :: cached

/-- The 32 bytes of the fetch block of an address. Where a write has changed the block, an instruction is old or new code, freely (R340,
R341). (DEDUCED, log 16.) -/
def fetchBlock (s : State) (c : Ctx) (va : Nat) (loc : Loc) : List Byte :=
  let now := s.bytes loc 32
  let old := codeOf s c va loc
  if old.all (fun bs => decide (bs = now)) then now
  else ((now :: old)[Config.freePick s.free 1000000 % (old.length + 1)]?).getD now

/-- The bytes of a fetch block stand in the instruction cache from then on, as its launch has fetched them. -/
def noteFetch (s : State) (c : Ctx) (va : Nat) (bs : List Byte) : State :=
  let n := (c.asid, va, c.gang.launch)
  s.modCore c.core (fun k => { k with icache := k.icache.filter (fun p => decide (p.1 ≠ n)) ++ [(n, BitVec.ofNat 256 (ofBytes bs))] })

/-- What a fetch at the split's pc gives: the instruction with the state that has cached its block and leaf, or a trap cause. The
translation of the fetch block comes before every other check (R81). (DEDUCED, log 71.) -/
def fetch (s : State) (c : Ctx) : Except Nat (State × Instr) :=
  let pc := c.split.pc.toNat
  let va := pc / 32 * 32
  match translate s c.agent va .fetch with
  | .error k => .error k
  | .ok e =>
    if pc % 4 ≠ 0 then .error 0x02
    else if s.poisoned (e.loc va) 32 then .error 0x40
    else
      let bs := fetchBlock s c va (e.loc va)
      match decode (bs.drop (pc % 32)) with
      | .error x => .error (decodeCause x)
      | .ok i =>
        .ok (noteFetch (s.modCore c.core (fun k => { k with tlb := tlbAdd 1024 s.free k.tlb e })) c va bs, i)

/-- The issuer of a split, wherever `cur` stands. -/
def State.issuerOf (s : State) (w ent : Nat) : Issuer := { s with cur := (w, ent) }.issuer

/-- The split's next instruction. -/
def nextInstr (s : State) (w ent : Nat) : Option Instr :=
  match s.issuerOf w ent with
  | .ok c => match fetch s c with | .ok p => some p.2 | .error _ => none
  | _ => none

/-- Whether the split issues now: its gate is open and it does not wait in an instruction that it has begun (R297). A fetch that
traps is issued as soon as the stall has elapsed. -/
def isReady (s : State) (w ent : Nat) : Bool :=
  match s.issuerOf w ent with
  | .ok c =>
    c.split.wait.isNone &&
    (match fetch s c with
     | .ok p => (match frOf p.2 with | some f => gate c f | none => false)
     | .error _ => gate c plainFr)
  | _ => false

/-- The splits of a subcore, by warp and entry. -/
def splitsOf (s : State) (core sub : Nat) : List (Nat × Nat) :=
  ((s.warpsOfCore core).filter (fun p => decide (subcoreOf core p.2.slot = sub))).flatMap (fun p =>
    p.2.splits.map (fun sp => (p.1, sp.ent)))

/-! ### Places in the launch -/

/-- n(k) of R288. -/
def lvlSize (r : Record) (k : Nat) : Nat := ((r.levels'.take k).map lvlExt).foldl (· * ·) 1

/-- Levels bound to at most the given domain: BLOCK is 2, GANG 3. -/
def lvlCount (r : Record) (dom : Nat) : Nat := (r.levels'.takeWhile (fun v => decide (lvlDom v ≤ dom))).length
def hasLevel (r : Record) (dom : Nat) : Bool := r.levels'.any (fun v => decide (lvlDom v = dom))

/-- Threads of a block: n(b) for the highest level b bound to BLOCK; blocks of a gang: n(g) / n(b), one where no level is bound to
GANG; blocks of the launch (R288, R290). -/
def blockThreads (r : Record) : Nat := lvlSize r (lvlCount r 2 - 1)
def gangBlocks (r : Record) : Nat := if hasLevel r 3 then lvlSize r (lvlCount r 3 - 1) / blockThreads r else 1
def launchBlocks (r : Record) : Nat := lvlSize r r.levels'.length / blockThreads r
/-- Warps of a block. -/
def blockWarps (r : Record) : Nat := blockThreads r / 32

/-- The launch index of a thread (R290). -/
def Ctx.launchIndex (c : Ctx) (t : Nat) : Nat := c.block.index * blockThreads c.launch.record + 32 * c.warp.idx + t

/-- sr.lixk and sr.lextk (R265, R288). -/
def Ctx.lix (c : Ctx) (k t : Nat) : Nat :=
  let r := c.launch.record
  match r.levels'[k]? with
  | some v => c.launchIndex t / lvlSize r k % lvlExt v
  | none => 0
def Ctx.lext (c : Ctx) (k : Nat) : Nat :=
  match c.launch.record.levels'[k]? with
  | some v => lvlExt v
  | none => 0

end Sys2Proof.Machine
end

