-- ==== Sys2Proof/Machine/Control.lean ====
section
/-! DEFINITION. Control: opcodes 0x00 to 0x0F (R246 to R266): the splits of a warp, their joining, calls, traps and special
registers. -/
namespace Sys2Proof.Machine
open Sys2Proof

/-! ### Joining (R250) -/

/-- Whether a split holds the frame of a tag, and whether it waits for that frame's splits to meet. -/
def Split.holds (sp : Split) (tag : Nat) : Bool := sp.joins.any (fun x => decide (x.tag = tag))
def Split.waitsAt (sp : Split) (tag : Nat) : Bool :=
  match sp.wait with
  | some (.meet k) => decide (k = tag)
  | some (.callx k _) => decide (k = tag)
  | _ => false

/-- Every split, parked side and waiting side of a warp. -/
def Warp.sides (wp : Warp) : List Split := wp.splits ++ wp.parked.map (·.2) ++ wp.starved

/-- Whether some live split of the frame does not wait for it (R250). A parked side that has not run is not live, but what its own
frame still holds back holds back the frames below. -/
def Warp.unmet (wp : Warp) (tag : Nat) : Bool :=
  (wp.splits ++ wp.starved).any (fun sp => sp.holds tag && !sp.waitsAt tag) ||
  wp.parked.any (fun p => p.2.holds tag && !p.2.waitsAt tag && decide (p.1 ≠ tag))

/-- A tag whose live splits all wait. -/
def Warp.ripe (wp : Warp) : Option Nat :=
  ((wp.sides.flatMap (fun sp => sp.joins.map (·.tag))).eraseDups).find? (fun tag => !wp.unmet tag)

/-- The removal of the first entry that satisfies a test. -/
def takeFirst {α : Type} (q : α → Bool) : List α → Option (α × List α)
  | [] => none
  | x :: r => if q x then some (x, r) else (takeFirst q r).map (fun p => (p.1, x :: p.2))

/-- Entries freed by the warp that suit a handler's side, or an ordinary one. -/
def suits (handler : Bool) (ent : Nat) : Bool := decide (64 < ent) == handler

/-- A side that starts to run: it waits for nothing. -/
def Split.start (sp : Split) (ent : Nat) : Split := { sp with ent := ent, wait := none, ready := none, passed := 0, aged := none }

/-- The first parked side of a tag resumes in the entry of the last of the waiting splits, which waits on without one (R249, R250);
where no split waits, in an entry that the warp has freed. -/
def Warp.unpark (wp : Warp) (tag : Nat) (freed : List Nat) : Warp × List Nat :=
  match takeFirst (fun p : Nat × Split => decide (p.1 = tag) && !p.2.waitsAt tag) wp.parked with
  | none => (wp, freed)
  | some (p, parked) =>
    match takeFirst (fun sp : Split => sp.waitsAt tag) wp.splits.reverse with
    | some (v, splits) =>
      ({ wp with splits := splits.reverse ++ [p.2.start v.ent], parked := parked ++ [(tag, v)] }, freed)
    | none =>
      match takeFirst (suits (decide (64 < p.2.ent))) freed with
      | some (e, freed) => ({ wp with splits := wp.splits ++ [p.2.start e], parked := parked }, freed)
      | none => ({ wp with starved := wp.starved ++ [p.2.start p.2.ent], parked := parked }, freed)

/-- The groups of R250: address and equal return stacks. -/
def sameGroup (a b : Split) : Bool := decide (a.pc = b.pc) && decide (a.rets = b.rets) && decide (a.spilled = b.spilled)

/-- The splits of a group as one: the union of the masks, the frame popped; what is in flight is written before its next
instruction, which issues no sooner (R67). -/
def joinGroup (now tick : Nat) (a : Split) (l : List Split) : Split :=
  let m := l.foldl (fun m sp => m ||| sp.mask) 0
  let nx := l.foldl (fun n sp => max n (max sp.next (sp.written tick))) now
  { a with mask := m, joins := a.joins.tail, nd := 0, wait := none, next := nx, ready := none, passed := 0, aged := none,
           pend := l.flatMap (fun sp => sp.pend.map (fun p => { p with due := 0 })),
           spend := l.flatMap (fun sp => sp.spend.map (fun p => { p with due := 0 })) }

/-- The groups of a list, each with its members; `n` bounds the list. -/
def groupAll : Nat → List (Split × Bool) → List (List (Split × Bool))
  | 0, _ => []
  | _, [] => []
  | n + 1, x :: r => (x :: r.filter (fun y => sameGroup x.1 y.1)) :: groupAll n (r.filter (fun y => !sameGroup x.1 y.1))

/-- A merge of the splits that wait for a tag (R250): each group keeps the entry of its first member that has one; the other entries
are freed; a group without one takes a freed entry or waits for one. -/
def Warp.merge (wp : Warp) (now tick tag : Nat) (freed : List Nat) : Warp × List Nat :=
  let waiting := (wp.splits.filter (·.waitsAt tag)).map (fun sp => (sp, true)) ++
                 ((wp.parked.filter (fun p => p.2.waitsAt tag)).map (fun p => (p.2, false)))
  let base := { wp with splits := wp.splits.filter (fun sp => !sp.waitsAt tag), parked := wp.parked.filter (fun p => !p.2.waitsAt tag) }
  let ents (g : List (Split × Bool)) : List Nat := (g.filter (·.2)).map (fun x => x.1.ent)
  let gs := groupAll waiting.length waiting
  let freed := freed ++ gs.flatMap (fun g => (ents g).drop 1)
  gs.foldl (fun (acc : Warp × List Nat) g =>
    match g with
    | [] => acc
    | x :: _ =>
      let j := joinGroup now tick x.1 (g.map (·.1))
      match ents g with
      | e :: _ => ({ acc.1 with splits := acc.1.splits ++ [{ j with ent := e }] }, acc.2)
      | [] =>
        match takeFirst (suits (decide (64 < x.1.ent))) acc.2 with
        | some (e, fr) => ({ acc.1 with splits := acc.1.splits ++ [{ j with ent := e }] }, fr)
        | none => ({ acc.1 with starved := acc.1.starved ++ [j] }, acc.2)) (base, freed)

/-- The next group of a CALLX calls (R253). The last takes the entry of the split in which the groups wait; an earlier one takes a new
entry, while the groups still to call wait on as that split, or, with no new entry, that split's, or that of the group that has just
returned. -/
def Warp.callNext (wp : Warp) (start tag : Nat) (new : Option Nat) : Option Warp :=
  let isX (sp : Split) : Bool := match sp.wait with | some (.callx k _) => decide (k = tag) | _ => false
  let go (v : Split) (place : Split → Option Split → Warp) : Option Warp :=
    match v.wait with
    | some (.callx _ ((m, target) :: gs)) =>
      let mine (yes : Bool) : List Pend := v.pend.filter (fun p => m.getLsbD (p.key % 32) == yes)
      let g : Split := { v with mask := m, pc := target, rets := v.pc :: v.rets, wait := none, next := start, pend := mine true }
      let r : Split := { v with mask := v.mask &&& ~~~m, wait := some (.callx tag gs), pend := mine false }
      let r : Option Split := if gs = [] then none else some r
      some (place g r)
    | _ => none
  match takeFirst isX wp.splits with
  | some (v, splits) =>
    go v (fun g r =>
      match r, new with
      | some x, some e => { wp with splits := splits ++ [x, { g with ent := e }] }
      | some x, none => { wp with splits := splits ++ [g], parked := wp.parked ++ [(tag, x)] }
      | none, _ => { wp with splits := splits ++ [g] })
  | none =>
    match takeFirst (fun p : Nat × Split => isX p.2) wp.parked with
    | none => none
    | some (p, parked) =>
      match takeFirst (fun sp : Split => sp.waitsAt tag) wp.splits.reverse with
      | none => none
      | some (w, splits) =>
        go p.2 (fun g r => { wp with splits := splits.reverse ++ [{ g with ent := w.ent }],
                                     parked := parked ++ [(tag, w)] ++ (match r with | some x => [(tag, x)] | none => []) })

/-- Everything that becomes possible in a warp when a split waits, ends or frees an entry (R250, R253, R255): `fuel` bounds it, `new` is
an entry that a group of a CALLX may take. A freed entry goes to the first waiting side that it suits. -/
def Warp.settle (now tick start : Nat) (new : Option Nat) : Nat → Warp → List Nat → Warp
  | 0, wp, _ => wp
  | fuel + 1, wp, freed =>
    match wp.ripe with
    | some tag =>
      if wp.parked.any (fun p => decide (p.1 = tag) && !p.2.waitsAt tag) then
        let (wp, freed) := wp.unpark tag freed
        Warp.settle now tick start new fuel wp freed
      else
        match wp.callNext start tag new with
        | some wp => Warp.settle now tick start none fuel wp freed
        | none =>
          let (wp, freed) := wp.merge now tick tag freed
          Warp.settle now tick start new fuel wp freed
    | none =>
      match wp.starved with
      | [] => if wp.splits = [] then { wp with ending := true } else wp
      | _ =>
        match takeFirst (fun sp : Split => freed.any (suits (decide (64 < sp.ent)))) wp.starved with
        | none => wp
        | some (sp, r) =>
          match takeFirst (suits (decide (64 < sp.ent))) freed with
          | some (e, freed) => Warp.settle now tick start new fuel { wp with splits := wp.splits ++ [sp.start e], starved := r } freed
          | none => wp

/-! ### Dividing (R248, R249, R255) -/

/-- A side of a division: its threads, where it goes on, its stacks, what it waits for, and whether it has transferred control. -/
structure Side where
  mask : BitVec 32
  pc : DWord
  joins : List Frame
  rets : List DWord
  spilled : Nat
  wait : Option Wait
  moved : Bool

/-- The cycles that a control transfer adds, in Riffle cycles: 4 Reach cycles; on a Riffle core none or 6, freely (R245). -/
def Ctx.transfer (c : Ctx) : Nat := if c.riffle then (if Config.freeBit c.pre.free 1000001 then 6 else 0) else 12

/-- The split that a side becomes: it inherits the results in flight of its threads (R67). -/
def Side.split (c : Ctx) (sp : Split) (x : Side) : Split :=
  { sp with mask := x.mask, pc := x.pc, joins := x.joins, rets := x.rets, spilled := x.spilled, wait := x.wait,
            next := sp.next + (if x.moved then c.transfer else 0),
            pend := sp.pend.filter (fun p => x.mask.getLsbD (p.key % 32)) }

/-- Splits that a warp holds, its handler's apart (R246). -/
def Warp.held (wp : Warp) : Nat := (wp.splits.filter (fun sp => decide (sp.ent ≤ 64))).length

/-- The free shared entries of a core's braid table, lowest first (R246). -/
def freeEntries (s : State) (core : Nat) : List Nat :=
  let used := (s.warpsOfCore core).flatMap (fun p => p.2.splits.map (·.ent))
  ((upto 64).map (· + 1)).filter (fun e => !used.contains e)
def freeEntry (s : State) (core : Nat) : Option Nat := (freeEntries s core).head?

/-- The entry that a new side of the issuer may take: none for a handler (R260) or a warp of 8 splits. -/
def newEntry (c : Ctx) (s : State) : Option Nat :=
  match tget s.warps c.w with
  | none => none
  | some wp => if c.handler || decide (8 ≤ wp.held) then none else freeEntry s c.core

/-- A side beyond the first: it takes a new entry, or is parked under a tag, or waits for an entry. (DEDUCED, log 67.) -/
def addSide (c : Ctx) (sp : Split) (tag : Option Nat) (s : State) (x : Side) : State :=
  let n := x.split c sp
  match newEntry c s with
  | some e => s.modWarp c.w (fun wp => { wp with splits := wp.splits ++ [{ n with ent := e }] })
  | none =>
    match tag with
    | some k => s.modWarp c.w (fun wp => { wp with parked := wp.parked ++ [(k, n)] })
    | none => s.modWarp c.w (fun wp => { wp with starved := wp.starved ++ [n] })

/-- The issuing split becomes its sides: the first keeps the issuing entry. -/
def divide (c : Ctx) (tag : Option Nat) (sides : List Side) (s : State) : State :=
  match sides, (tget s.warps c.w).bind (·.split? c.ent) with
  | x :: r, some sp => r.foldl (addSide c sp tag) (s.modSplit c.w c.ent (fun _ => x.split c sp))
  | _, _ => s

/-- A new divergence tag of the warp. -/
def Ctx.newTag (c : Ctx) : Nat := c.warp.nextTag
def useTag (c : Ctx) (s : State) : State := s.modWarp c.w (fun wp => { wp with nextTag := wp.nextTag + 1 })

/-- What may happen next in the warp, happens; `freed` are entries that it has given up. -/
def settle (c : Ctx) (freed : List Nat) (s : State) : State :=
  s.modWarp c.w (fun wp => Warp.settle c.pre.now c.tick (c.pre.now + c.stall plainFr * c.tick + c.transfer) (newEntry c s) 4096 wp freed)

/-- The threads that take a transfer: under UNI the lowest thread of the split decides for all (R247). -/
def Ctx.takers (c : Ctx) (yes : BitVec 32) : BitVec 32 :=
  if c.uni then (if yes.getLsbD (lowest c.split.mask) then c.split.mask else 0) else yes

/-- The address after the instruction. -/
def Ctx.nextPc (c : Ctx) (f : Fr) : DWord := c.split.pc + BitVec.ofNat 64 (flen f)

/-- A side of the issuing split with its stacks. -/
def Ctx.side (c : Ctx) (mask : BitVec 32) (pc : DWord) (moved : Bool) : Side :=
  ⟨mask, pc, c.split.joins, c.split.rets, c.split.spilled, none, moved⟩

/-- A division under one new frame (R248): the depth fault for a 17th frame. -/
def diverge (c : Ctx) (j : BitVec 8) (ret : Option DWord) (sides : List Side) (s : State) : Body :=
  if 16 ≤ c.split.joins.length then .trap 0x10 c.split.mask [] none
  else
    let fr : Frame := ⟨j, c.newTag, ret⟩
    .done (settle c [] (divide c (some c.newTag) (sides.map (fun x => { x with joins := fr :: x.joins })) (useTag c s)))

/-- A control instruction: its counter moves at the minimum latency. -/
def controlOp (f : Fr) (n : Names) (lat : Option (Nat × Nat)) (body : Ctx → State → Body) (s : State) : Out :=
  issue f n lat noEarly (fun c st => body c (finishFlight c f [] .minimum st)) s

/-! ### Branches (R247, R251) -/

/-- BRA and BRA.dec: `nx` is the counter that .dec writes, in each thread. -/
def branch (f : Fr) (n : Names) (lat : Option (Nat × Nat)) (off : Word) (j : BitVec 8) (ctr : Option Reg) (s : State) : Out :=
  controlOp f n lat (fun c st =>
    if f.g = 0 ∧ f.gn then .done st
    else
      let down (r : Reg) (t : Nat) : Word := c.reg r.toNat (if c.uni then lowest c.split.mask else t) - 1
      let yes := match ctr with
        | none => c.act
        | some r => maskOf (c.threads.filter (fun t => decide (down r t ≠ 0)))
      let st := match ctr with
        | none => st
        | some r =>
          if r = 0 then st
          else putPend c ((threadsOf c.split.mask).map (fun t => (c.key r.toNat t, down r t))) (c.split.nd + c.lat 4 2) st
      let tk := c.takers yes
      let ft := c.split.mask &&& ~~~tk
      let target := c.split.pc + off.signExtend 64
      if tk = 0 then .done st
      else if ft = 0 then .done (divide c none [c.side tk target true] st)
      else
        let a := c.side ft (c.nextPc f) false
        let b := c.side tk target true
        diverge c j none (if (newEntry c st).isSome then [a, b] else [b, a]) st) s

/-- BRA (R247). -/
def execBra (f : Fr) (off : Word) (j : BitVec 8) (s : State) : Out := branch f ⟨none, none, none, []⟩ none off j none s
/-- BRA_DEC (R247). (DEDUCED, log 13.) -/
def execBraDec (f : Fr) (cr : Reg) (off : Word) (j : BitVec 8) (s : State) : Out :=
  branch f ⟨none, none, some (cr.toNat, 1), [(cr.toNat, 1)]⟩ (some (4, 2)) off j (some cr) s

/-- A list in rising order of a number, equal ones in their order. -/
def insertBy {α : Type} (g : α → Nat) (x : α) : List α → List α
  | [] => [x]
  | y :: r => if g x < g y then x :: y :: r else y :: insertBy g x r
def sortBy {α : Type} (g : α → Nat) (l : List α) : List α := l.foldl (fun acc x => insertBy g x acc) []

/-- Threads grouped by target, in ascending target order (R251). -/
def groupTargets (target : Nat → DWord) (ts : List Nat) : List (DWord × BitVec 32) :=
  let keys := sortBy id ((ts.map (fun t => (target t).toNat)).eraseDups)
  keys.map (fun k => (BitVec.ofNat 64 k, maskOf (ts.filter (fun t => decide ((target t).toNat = k)))))

/-- BRX (R251). -/
def execBrx (f : Fr) (a : Reg) (j : BitVec 8) (s : State) : Out :=
  controlOp f ⟨some (a.toNat, 2), none, none, []⟩ none (fun c st =>
    let tk := c.takers c.act
    let lo := lowest c.split.mask
    let target (t : Nat) : DWord := if tk.getLsbD t then c.reg2 a.toNat (if c.uni then lo else t) else c.nextPc f
    let sides := (groupTargets target (threadsOf c.split.mask)).map (fun g => c.side g.2 g.1 (decide (g.2 &&& tk ≠ 0)))
    match sides with
    | [x] => .done (divide c none [x] st)
    | l => diverge c j none l st) s

/-! ### Calls and returns (R252 to R255) -/

/-- The address below the stack word of a thread, in the lane window (R254). -/
def Ctx.stackEa (c : Ctx) (back : Bool) (t : Nat) : DWord :=
  BitVec.ofNat 64 laneBase + ((c.reg 1 t) - (if back then 8 else 0)).zeroExtend 64

/-- v1 moved by a spill or a reload, at the latency of R244. -/
def moveV1 (c : Ctx) (ts : List Nat) (up : Bool) (s : State) : State :=
  putPend c (ts.map (fun t => (c.key 1 t, if up then c.reg 1 t + 8 else c.reg 1 t - 8))) (c.split.nd + c.lat 4 2) s

/-- Whether the checking scoreboard finds v1 in flight. -/
def v1Early (c : Ctx) : Bool := c.chk && scoreBad c ⟨some (1, 1), none, none, []⟩ 0 none

/-- The issuing split as a call finds it after any spill (R254): its entries and spilled count, and the state. -/
def spillFirst (c : Ctx) (st : State) : Except (Nat × BitVec 32 × List (Nat × DWord)) (List DWord × Nat × State) :=
  if c.split.rets.length < 16 then .ok (c.split.rets, c.split.spilled, st)
  else if v1Early c then .error (0x06, c.split.mask, [])
  else
    let ts := threadsOf c.split.mask
    let ea := c.stackEa true
    let chks := ts.map (fun t => (t, resolve c .lane .write false 8 8 t (ea t)))
    match allOk chks with
    | none => let (k, m) := firstBad chks; .error (k, m, ts.map (fun t => (t, ea t)))
    | some as =>
      let old := c.split.rets.getLastD 0
      let st := as.foldl (fun st a => homeWrite st a.loc (toBytes 8 old.toNat)) st
      .ok (c.split.rets.dropLast, c.split.spilled + 1, moveV1 c ts false st)

/-- A call: groups by target in ascending order, and the threads that do not call. -/
def callOp (f : Fr) (n : Names) (target : Ctx → Nat → DWord) (s : State) : Out :=
  controlOp f n none (fun c st =>
    let tk := c.takers c.act
    if tk = 0 then .done st
    else
      match spillFirst c st with
      | .error (k, m, addrs) => .trap k m addrs none
      | .ok (rets, spilled, st) =>
        let ret := c.nextPc f
        let ft := c.split.mask &&& ~~~tk
        let gs := (groupTargets (target c) (threadsOf tk)).map (fun g => (g.2, g.1))
        let tag := c.newTag
        let caller (g : BitVec 32 × DWord) : Side := ⟨g.1, g.2, c.split.joins, ret :: rets, spilled, none, true⟩
        let rest : List Side := match gs.drop 1 with
          | [] => []
          | l => [⟨l.foldl (fun m g => m ||| g.1) 0, ret, c.split.joins, rets, spilled, some (.callx tag l), false⟩]
        let others : List Side := if ft = 0 then [] else [⟨ft, ret, c.split.joins, rets, spilled, some (.meet tag), false⟩]
        match gs.take 1, rest ++ others with
        | [g], [] => .done (divide c none [caller g] st)
        | [g], l => diverge c 0 (some ret) (caller g :: l) st
        | _, _ => .done st) s

/-- CALL (R252). -/
def execCall (f : Fr) (off : Word) (s : State) : Out :=
  callOp f ⟨none, none, none, []⟩ (fun c _ => c.split.pc + off.signExtend 64) s
/-- CALLX (R253). -/
def execCallx (f : Fr) (a : Reg) (s : State) : Out :=
  callOp f ⟨some (a.toNat, 2), none, none, []⟩ (fun c t => c.reg2 a.toNat (if c.uni then lowest c.split.mask else t)) s

/-- What a split had in flight when its last thread ended is written (R63, R264): its own threads' results, and each SETS that no
other split of the warp still has to use. (DEDUCED, log 50.) -/
def landEnded (w : Nat) (sps : List Split) (gone : BitVec 32) (s : State) : State :=
  let dying := sps.filter (fun sp => decide (sp.mask &&& ~~~gone = 0))
  let held := (sps.filter (fun sp => decide (sp.mask &&& ~~~gone ≠ 0))).flatMap (fun sp => sp.spend.map (·.num))
  let s := s.setRegs (dying.flatMap (fun sp => (sp.pend.filter (fun p => sp.mask.getLsbD (p.key % 32))).map (fun p => (p.key, p.val))))
  dying.foldl (fun s sp => (sp.spend.filter (fun p => !held.contains p.num)).foldl (fun s p => s.writeSr w p.sr p.val) s) s

/-- Threads end (R256): they leave the split, and with a handler's the split that its trap suspended. -/
def endThreads (c : Ctx) (gone : BitVec 32) (s : State) : State :=
  let s := match tget s.warps c.w with
    | some wp => landEnded c.w wp.sides gone s
    | none => s
  let s := s.modWarp c.w (fun wp =>
    let out (sp : Split) : Split := { sp with mask := sp.mask &&& ~~~gone }
    { wp with splits := (wp.splits.map out).filter (fun sp => decide (sp.mask ≠ 0)),
              parked := (wp.parked.map (fun p => (p.1, out p.2))).filter (fun p => decide (p.2.mask ≠ 0)),
              starved := (wp.starved.map out).filter (fun sp => decide (sp.mask ≠ 0)) })
  let left : List Nat := match tget s.warps c.w with | some wp => wp.splits.map (fun sp => sp.ent) | none => []
  settle c ((c.warp.splits.map (·.ent)).filter (fun e => !left.contains e)) s

/-- A split that has returned to the return address of its top frame waits there (R252). -/
def meetRet (x : Side) : Side :=
  match x.joins with
  | fr :: _ => if fr.ret = some x.pc then { x with wait := some (.meet fr.tag) } else x
  | [] => x

/-- RET (R255). With UNI = 1 every thread goes where the lowest one does, also where each reloads its own entry (R244, R286). -/
def execRet (f : Fr) (s : State) : Out :=
  controlOp f ⟨none, none, none, []⟩ none (fun c st =>
    let tk := c.takers c.act
    let ft := c.split.mask &&& ~~~tk
    let tag := c.split.joins.head?.map (·.tag)
    let stay : List Side := if ft = 0 then [] else [c.side ft (c.nextPc f) false]
    let put (l : List Side) (st : State) : Body :=
      .done (settle c [] (divide c tag (sortBy (fun x => x.pc.toNat) (l ++ stay)) st))
    if tk = 0 then .done st
    else
      match c.split.rets with
      | target :: rets => put [meetRet ⟨tk, target, c.split.joins, rets, c.split.spilled, none, true⟩] st
      | [] =>
        if c.split.spilled = 0 then .done (endThreads c tk st)
        else if v1Early c then .trap 0x06 c.split.mask [] none
        else
          let ts := threadsOf tk
          let ea := c.stackEa false
          let chks := ts.map (fun t => (t, resolve c .lane .read false 8 8 t (ea t)))
          match allOk chks with
          | none => let (k, m) := firstBad chks; .trap k m (ts.map (fun t => (t, ea t))) none
          | some as =>
            let st := moveV1 c ts true st
            let target (t : Nat) : DWord :=
              match as.find? (fun a => decide (a.t = if c.uni then lowest c.split.mask else t)) with
              | some a => BitVec.ofNat 64 (ofBytes (st.bytes a.loc 8))
              | none => 0
            put ((groupTargets target ts).map (fun g =>
              meetRet ⟨g.2, g.1, c.split.joins, [], c.split.spilled - 1, none, true⟩)) st) s

/-- EXIT (R256). -/
def execExit (f : Fr) (s : State) : Out :=
  controlOp f ⟨none, none, none, []⟩ none (fun c st =>
    let tk := c.takers c.act
    if tk = 0 then .done st else .done (endThreads c tk st)) s

/-- CONFL (R250). Its guard plays no part: the rule lets the split wait that issues it, and names no guard, `?!v0` included.
(DEDUCED, log 13.) -/
def execConfl (f : Fr) (j : BitVec 8) (s : State) : Out :=
  controlOp f ⟨none, none, none, []⟩ none (fun c st =>
    match c.split.joins with
    | fr :: _ =>
      if fr.j = j ∧ fr.ret = none then .done (settle c [] (st.modSplit c.w c.ent (fun sp => { sp with wait := some (.meet fr.tag) })))
      else .done st
    | [] => .done st) s

/-! ### NOP, YIELD (R257) -/

def execNop (f : Fr) (_v : Word) (s : State) : Out := controlOp f ⟨none, none, none, []⟩ none (fun _ st => .done st) s

/-- YIELD (R257): the other splits of the subcore that are ready now have to issue once, or 64 cycles to pass. -/
def execYieldw (f : Fr) (s : State) : Out :=
  controlOp f ⟨none, none, none, []⟩ none (fun c st =>
    let others := (splitsOf c.pre c.core (subcoreOf c.core c.warp.slot)).filter (fun p =>
      decide (p ≠ (c.w, c.ent)) && isReady c.pre p.1 p.2)
    if others = [] then .done st
    else .done (st.modSplit c.w c.ent (fun sp => { sp with yield := some ⟨others, c.pre.now + 64 * c.tick⟩ }))) s

/-! ### Traps and handlers (R258 to R261) -/

/-- A software trap with the guarded threads as faulters (R258). -/
def softTrap (f : Fr) (v : Word) (cause : Nat) (s : State) : Out :=
  controlOp f ⟨none, none, none, []⟩ none (fun c st =>
    if c.act = 0 then .done st else .trap cause c.act [] (some v)) s
/-- TRAP (R258). -/
def execTrap (f : Fr) (v : Word) (cause : BitVec 8) (s : State) : Out := softTrap f v cause.toNat s
/-- SVC (R258). -/
def execSvc (f : Fr) (v : Word) (s : State) : Out := softTrap f v 0x0F s

/-- BKPT (R258): a hard fault with DBG set, otherwise nothing. (DEDUCED, log 69.) -/
def execBkpt (f : Fr) (v : Word) (s : State) : Out :=
  controlOp f ⟨none, none, none, []⟩ none (fun c st =>
    if (c.pre.core c.core).cctl.getLsbD 1 ∧ c.act ≠ 0 then .trap 0x0E c.act [] (some v) else .done st) s

/-- Whether a handler has another side that has not merged: parked, waiting for an entry, or in the second reserved entry (R260). -/
def Warp.otherSide (wp : Warp) (ent : Nat) : Bool :=
  (wp.parked.map (·.2) ++ wp.starved ++ wp.splits.filter (fun sp => decide (sp.ent ≠ ent))).any (fun sp => decide (64 < sp.ent))

/-- RTH (R261). -/
def execRth (f : Fr) (s : State) : Out :=
  controlOp f ⟨none, none, none, []⟩ none (fun c st =>
    if c.act = 0 then .done st
    else if !c.handler then .trap 0x03 c.act [] none
    else if c.warp.otherSide c.ent then .trap 0x42 c.act [] none
    else
      let start := max (c.pre.now + c.stall f * c.tick) c.warp.written + c.transfer
      let st := st.landSides c.w (fun sp => decide (64 < sp.ent))
      .done (settle c [] (st.modWarp c.w (fun wp =>
        let wp := { wp with splits := wp.splits.filter (fun sp => decide (sp.ent ≤ 64)), serving := none, wdog := 0 }
        match c.warp.serving with
        | some e => wp.modSplit e (fun sp => { sp with susp := false, pc := wp.tpc, next := max sp.next start, wait := none })
        | none => wp)))) s

end Sys2Proof.Machine
end

