-- ==== Sys2Proof/Machine/System.lean ====
section
/-! DEFINITION. WAITV (R262), the special registers (R263 to R266), and the retry of an instruction that waits. -/
namespace Sys2Proof.Machine
open Sys2Proof

/-- The split's waiting instruction, performed again: an event that completes it happens only where it then waits no more.
(DEDUCED, log 17.) -/
def retry (w ent : Nat) (pick : Instr → Option (State → Out)) (s : State) : Out :=
  match s.issuerOf w ent with
  | .ok c =>
    match c.split.wait, fetch s c with
    | some (.op _ _ _), .ok (_, i) =>
      match pick i with
      | none => .refused .notEnabled
      | some g =>
        match g { s with cur := (w, ent) } with
        | .next t =>
          match ((tget t.warps w).bind (·.split? ent)).bind (·.wait) with
          | some (.op _ _ _) => .refused .notEnabled
          | _ => .next t
        | x => x
    | _, _ => .refused .notEnabled
  | .dangling => .fault .dangling
  | .none => .refused .notEnabled

/-- An access of a list at the home: the words, after the core's own copies have been written back. -/
def readHome (core : Nat) (as : List Acc) (s : State) : State × List (Nat × List Byte) :=
  let s := as.foldl (fun s a => atHome s core a) s
  (s, as.map (fun a => (a.t, s.bytes a.loc a.size)))

/-- The condition of WAITV on one thread's word (R262). -/
def waitvOk (c : Ctx) (sz : Size) (cmp : Src) (ne : Bool) (p : Nat × List Byte) : Bool :=
  decide (BitVec.ofNat 64 (ofBytes p.2) = c.operand cmp sz p.1) != ne

/-- The condition of WAITV on the words of all threads that it has still to read (R262). -/
def waitvHolds (c : Ctx) (sz : Size) (cmp : Src) (ne : Bool) (l : List (Nat × List Byte)) : Bool := l.all (waitvOk c sz cmp ne)

/-- The threads whose words have satisfied the condition in this wait, with the words (R262). -/
def Ctx.got (c : Ctx) : List (Nat × DWord) := if c.split.counted then c.split.got else []

/-- The last word read of each thread (R262): those kept and those just read, by thread. -/
def waitvWords (c : Ctx) (sz : Size) (l : List (Nat × List Byte)) : List (Nat × List Byte) :=
  sortBy (·.1) (c.got.map (fun p => (p.1, toBytes (szBytes sz) p.2.toNat)) ++ l)

/-- WAITV (R262): a word that satisfies the condition is kept, the others are read again until every thread's has; the read that
completes it is an acquire. -/
def execWaitv (f : Fr) (d a : Reg) (off : Word) (x : Src) (spc : Space) (sz : Size) (scope : Scope) (ne : Bool) (s : State) : Out :=
  let ea (c : Ctx) : Nat → DWord := c.ea a off
  issue f (nameDN d (szRegs sz) (reg2 a) none (srcN x (szRegs sz))) none (levelEarly scope) (fun c st =>
    if c.act = 0 then .done (finishFlight c f [] .minimum st)
    else
      let chks := plainChks spc .read (szBytes sz) ea c
      match allOk chks with
      | none => let (k, m) := firstBad chks; .trap k m (c.addrs (ea c)) none
      | some as =>
        let as := as.filter (fun a => !(c.got.any (fun p => decide (p.1 = a.t))))
        let (st, l) := readHome c.core as (noteTlb st c.core as)
        if waitvHolds c sz x ne l then
          .done (finishFlight c f (c.outs (loadOuts d sz (waitvWords c sz l))) .access (acquireAt c (c.scope scope) st))
        else
          let got := c.got ++ (l.filter (waitvOk c sz x ne)).map (fun p => (p.1, BitVec.ofNat 64 (ofBytes p.2)))
          .waits false .none ((readHome c.core as (noteTlb c.pre c.core as)).1.modSplit c.w c.ent (fun sp => { sp with got := got }))) s

/-- WAITV_SATISFIED. -/
def execWaitvSatisfied (w ent : Nat) (s : State) : Out :=
  retry w ent (fun i => match i with
    | .waitv f d a off x spc sz scope ne => some (execWaitv f d a off x spc sz scope ne)
    | _ => none) s

/-! ### Special registers -/

/-- Whether a special register has 64 bits (R265). -/
def srWide (sr : SReg) : Bool :=
  match sr with
  | .lclk | .tvec | .tpc | .taddr => true
  | _ => false

/-- Whether SETS needs sr.priv (R265: Access S). -/
def srPriv (sr : SReg) : Bool :=
  match sr with
  | .cctl | .tvec | .tpc => true
  | _ => false

/-- The rank of the device in the launch group of a launch (R265, R511). -/
def rankOf (s : State) (l : Launch) : Nat :=
  match l.group with
  | some g => match tget s.groups g with | some x => x.rank | none => 0
  | none => 0

/-- What MOVS reads, for a thread (R265). -/
def srRead (c : Ctx) (sr : SReg) (t : Nat) : DWord :=
  let n (v : Nat) : DWord := BitVec.ofNat 64 v
  let z (v : Word) : DWord := v.zeroExtend 64
  match sr with
  | .tid => n t
  | .warp => n c.warp.idx
  | .slot => n c.warp.slot
  | .core => n c.core
  | .clus => n (clusterOf c.core)
  | .die => n (dieOf c.core)
  | .dev => n (rankOf c.pre c.launch)
  | .kind => n (if c.riffle then 1 else 0)
  | .mask => z c.split.mask
  | .nsplit => n c.warp.held
  | .lix k => n (c.lix k.toNat t)
  | .lext k => n (c.lext k.toNat)
  | .lclk => n (c.pre.now / c.tick)
  | .seed => z c.ctx.seed
  | .role => n c.warp.role.code
  | .kvrm => z c.warp.kvrm
  | .hflag => z c.ctx.hflag
  | .migr => n c.warp.migr
  | .panch => n c.warp.panch.toNat
  | .xl => n (if c.warp.xl then 1 else 0)
  | .kvd k w => z (tgetD c.block.kvd (4 * k.toNat + w.toNat) 0)
  | .cctl => z (c.pre.core c.core).cctl
  | .tvec => c.ctx.tvec
  | .tpc => c.warp.tpc
  | .tcause => n c.warp.tcause.toNat
  | .tmask => z c.warp.tmask
  | .targ => z c.warp.targ
  | .taddr => tgetD c.warp.taddr t 0
  | .priv => n (if c.split.priv then 1 else 0)
  | .asid => n c.asid
  | .world => n (if c.ctx.world then 1 else 0)

/-- MOVS (R263). -/
def execMovs (f : Fr) (d : Reg) (sr : SReg) (s : State) : Out :=
  aluOp f (nameDN d (if srWide sr then 2 else 1) none none none) (4, 2)
    (fun c => if srWide sr then pairOuts d (srRead c sr) else [(d.toNat, fun t => loWord (srRead c sr t))]) noEvents s

/-- SETS (R263, R264): the lowest active thread's value, in effect 4 or 2 cycles later by nominal distance. -/
def execSets (f : Fr) (b : Src) (sr : SReg) (s : State) : Out :=
  issue f (nameS none (srcN b (if srWide sr then 2 else 1)) none) (some (4, 2)) noEarly (fun c st =>
    if c.act ≠ 0 ∧ srPriv sr ∧ !c.split.priv then .trap 0x03 c.act [] none
    else
      let t := lowest c.act
      let v := if srWide sr then c.val2 b t else (c.val b t).zeroExtend 64
      let st := finishFixed c f (c.lat 4 2) [] Health.none st
      if c.act = 0 then .done st
      else .done (st.modSplit c.w c.ent (fun sp => addSpend sp ⟨sr, c.pre.free, v, c.split.nd + c.lat 4 2⟩))) s

end Sys2Proof.Machine
end

