-- ==== Sys2Proof/Machine/Sync.lean ====
section
/-! DEFINITION. Barriers and the extended set: opcodes 0xE0 to 0xE3 (R274 to R277). A split that waits at a barrier keeps which one as its
phase, none once that phase has ended. -/
namespace Sys2Proof.Machine
open Sys2Proof

/-- The warps of a block that have not ended (R275). -/
def State.liveWarps (s : State) (b : Nat) : Nat := (s.warpsOfBlock b).length

def Block.bar (b : Block) (n : Nat) : Bar := tgetD b.bars n Bar.reset
def State.modBar (s : State) (b n : Nat) (f : Bar → Bar) : State :=
  s.modBlock b (fun x => { x with bars := tputD x.bars n Bar.reset (f (x.bar n)) })

/-- The waits of a warp's splits changed. -/
def Warp.mapWait (wp : Warp) (g : Wait → Wait) : Warp :=
  { wp with splits := wp.splits.map (fun sp => { sp with wait := sp.wait.map g }) }

/-- A wait for one of the given phases is over. -/
def releaseWait (ps : List Phase) (x : Wait) : Wait :=
  match x with
  | .op k true p => if ps.contains p then .op k true .none else .op k true p
  | x => x

/-- The phase of a barrier ends where enough warps have arrived (R275). -/
def barCheck (s : State) (b n : Nat) : State :=
  match tget s.blocks b with
  | none => s
  | some blk =>
    let x := blk.bar n
    let want := if x.expw = 0 then s.liveWarps b else x.expw
    if x.arr = 0 ∨ x.arr < want then s
    else
      let s := s.modBar b n (fun x => { expw := 0, arr := 0, phb := !x.phb, who := [] })
      { s with warps := s.warps.map (fun p =>
          if p.2.blk = b then (p.1, p.2.mapWait (releaseWait [.bar n true])) else p) }

/-- Whether every other split of the warp waits to arrive at one of the barriers (R275). (DEDUCED, log 22.) -/
def othersAt (c : Ctx) (ps : List Phase) : Bool :=
  c.warp.splits.all (fun sp => decide (sp.ent = c.ent) || decide (64 < sp.ent) ||
    (match sp.wait with | some (.op _ false p) => ps.contains p | _ => false))

/-- The waits of the warp's other splits at its arrival: .arr is over, .sync waits for the phase's end. -/
def arriveWait (syncs arrs : List Phase) (x : Wait) : Wait :=
  match x with
  | .op k false p => if arrs.contains p then .op k true .none else if syncs.contains p then .op k true p else .op k false p
  | x => x

/-- BAR (R274, R275). An undeclared barrier is illegal at issue; in a handler BAR is the double fault (R260). A warp arrives once per phase:
where it has arrived already, .arr is complete and .sync waits for the phase's end. (DEDUCED, log 97.) -/
def barOp (f : Fr) (a : Option Reg) (n : BitVec 4) (sync : Bool) (s : State) : Out :=
  let early (c : Ctx) : Option Nat := if c.launch.record.nbar ≤ n.toNat then some 0x01 else none
  let ps : Phase := .bar n.toNat true
  let pa : Phase := .bar n.toNat false
  issue f (nameS (oreg a) none none) none early (fun c st =>
    if c.act = 0 then .done (finishFlight c f [] .minimum st)
    else if c.handler then .trap 0x42 c.act [] none
    else if c.split.arrived then
      if c.split.phase = .none then .done (finishFlight c f [] .minimum (if sync then acquireAt c 1 st else st))
      else .waits true c.split.phase c.pre
    else
      let cnt := match a with | some r => (c.reg r.toNat (lowest c.act)).toNat | none => 0
      if a.isSome ∧ (cnt < 1 ∨ 32 < cnt) then .trap 0x08 c.act [] none
      else if (c.block.bar n.toNat).who.contains c.w then
        (if sync then .waits true ps c.pre else .done (finishFlight c f [] .minimum st))
      else if !othersAt c [ps, pa] then .waits false (if sync then ps else pa) c.pre
      else
        let go (s : State) : State :=
          let s := releaseAt c 1 s
          let s := s.modWarp c.w (·.mapWait (arriveWait [ps] [pa]))
          let s := s.modBar c.warp.blk n.toNat (fun x =>
            { x with expw := if x.arr = 0 then cnt else x.expw, arr := x.arr + 1, who := x.who ++ [c.w] })
          barCheck s c.warp.blk n.toNat
        let after := go st
        let ended : Bool := match tget after.blocks c.warp.blk with | some b => decide ((b.bar n.toNat).arr = 0) | none => false
        if !sync then .done (finishFlight c f [] .minimum after)
        else if ended then .done (finishFlight c f [] .minimum (acquireAt c 1 after))
        else .waits true ps (go c.pre)) s

/-- BAR_SYNC (R275). -/
def execBarSync (f : Fr) (a : Option Reg) (n : BitVec 4) (s : State) : Out := barOp f a n true s
/-- BAR_ARR (R275). -/
def execBarArr (f : Fr) (a : Option Reg) (n : BitVec 4) (s : State) : Out := barOp f a n false s

/-! ### GBAR (R276) -/

/-- The domain of a GBAR: 3 gang, 4 cluster, 5 die, 6 device, 7 fabric; none where it is not allowed. -/
def gbarDom (c : Ctx) (x : Scope) : Option Nat :=
  let wide (k : Nat) : Option Nat := if c.launch.record.res then some k else none
  match x with
  | .gng => some 3
  | .cls => wide 4
  | .die => wide 5
  | .dev => wide 6
  | .fab => wide 7
  | x =>
    match scopeLevel x with
    | none => none
    | some k =>
      match c.launch.record.levels'[k]? with
      | none => none
      | some v => if lvlDom v = 3 then some 3 else if 4 ≤ lvlDom v then wide (lvlDom v) else none

/-- Whether a warp of a block belongs to the instance of a domain that holds the issuer's gang, on the issuer's core. -/
def inInstance (s : State) (gang launch core dom : Nat) (w : Warp) : Bool :=
  match tget s.blocks w.blk with
  | none => false
  | some b =>
    match tget s.gangs b.gang with
    | none => false
    | some g =>
      if dom = 3 then decide (b.gang = gang)
      else
        decide (g.launch = launch) &&
        (if dom = 4 then decide (clusterOf b.core = clusterOf core)
         else if dom = 5 then decide (dieOf b.core = dieOf core)
         else true)

/-- Whether a warp has arrived at the GBAR of a domain. -/
def Warp.atGbar (wp : Warp) (dom : Nat) : Bool :=
  wp.splits.any (fun sp => match sp.wait with | some (.op _ true p) => decide (p = .gbar dom) | _ => false)

/-- Whether an instance also has warps on the other devices of the launch's group (R276, R511). -/
def beyondDevice (s : State) (launch dom : Nat) : Bool :=
  decide (dom = 7) && ((tget s.launches launch).bind (·.group)).isSome

/-- The phase of a GBAR ends where every warp of the instance that has not ended has arrived. `others` says whether those on the other
devices of a launch group have. -/
def gbarCheck (s : State) (gang launch core dom : Nat) (others : Bool) : State :=
  let mine (p : Nat × Warp) : Bool := inInstance s gang launch core dom p.2
  if (s.warps.filter mine).all (fun p => p.2.atGbar dom) && (!beyondDevice s launch dom || others) then
    { s with warps := s.warps.map (fun p => if mine p then (p.1, p.2.mapWait (releaseWait [.gbar dom])) else p) }
  else s

/-- GBAR (R276). The arrivals on the other devices of a launch group are outside the model: whether all are there is free each time that a
waiting split looks. (DESIGN CHOICE, log 91.) -/
def execGbar (f : Fr) (scope : Scope) (s : State) : Out :=
  let early (c : Ctx) : Option Nat :=
    match levelEarly scope c with
    | some k => some k
    | none => if (gbarDom c scope).isNone then some 0x01 else none
  issue f (nameS none none none) none early (fun c st =>
    let dom := (gbarDom c scope).getD 3
    let p : Phase := .gbar dom
    let sc := c.scope scope
    if c.act = 0 then .done (finishFlight c f [] .minimum st)
    else if c.handler then .trap 0x42 c.act [] none
    else if c.split.arrived && decide (c.split.phase = .none) then .done (finishFlight c f [] .minimum (acquireAt c sc st))
    else if !c.split.arrived && !othersAt c [p] then .waits false p c.pre
    else
      let arrive (s : State) : State :=
        if c.split.arrived then s else (releaseAt c sc s).modWarp c.w (·.mapWait (arriveWait [p] []))
      let go (s : State) : State :=
        let s := (arrive s).modSplit c.w c.ent (fun sp => { sp with wait := some (.op true true p) })
        gbarCheck s c.gangId c.gang.launch c.block.core dom (Config.freeBit c.pre.free 41)
      let released : Bool :=
        match ((tget (go c.pre).warps c.w).bind (·.split? c.ent)) with | some sp => decide (sp.phase = .none) | none => false
      if released then
        .done (finishFlight c f [] .minimum (acquireAt c sc ((go st).modSplit c.w c.ent (fun sp => { sp with wait := none }))))
      else .waits true p (go c.pre)) s

/-! ### The extended set (R277) -/

/-- Whether the other warp of the pair holds the set. -/
def pairHeld (c : Ctx) : Bool :=
  c.pre.warps.any (fun p => decide (p.2.blk = c.warp.blk) && decide (p.1 ≠ c.w) && decide (p.2.idx / 2 = c.warp.idx / 2) && p.2.xl)

/-- Whether a key is of the extended set. -/
def extKey (k : Nat) : Bool := decide (512 ≤ k / 32 % 1024)

/-- XLOCK and XFREE raise 0x05 on a Riffle core and where none is declared, XFREE also where the warp does not hold the set: at issue,
whatever the guard values, after a guard register beyond the allocation and before the scoreboard (R58, R81). (DEDUCED, log 14.) -/
def extEarly (f : Fr) (free : Bool) (c : Ctx) : Option Nat :=
  if rangeBad c (f.g.toNat, 1) then none
  else if c.riffle || !c.launch.record.xs || (free && !c.warp.xl) then some 0x05 else none

/-- XLOCK (R277). -/
def execXlock (f : Fr) (s : State) : Out :=
  issue f (nameS none none none) none (extEarly f false) (fun c st =>
    if c.act = 0 then .done (finishFlight c f [] .minimum st)
    else if pairHeld c then .held
    else .done (finishFlight c f [] .minimum (st.modWarp c.w (fun wp => { wp with xl := true })))) s

/-- The warp's results of fixed latency in the extended set are written. -/
def landExt (w : Nat) (s : State) : State :=
  match tget s.warps w with
  | none => s
  | some wp =>
    let s := s.setRegs (wp.sides.flatMap (fun sp => (sp.pend.filter (fun p => extKey p.key)).map (fun p => (p.key, p.val))))
    let clr (sp : Split) : Split := { sp with pend := sp.pend.filter (fun p => !extKey p.key) }
    s.modWarp w (fun wp => { wp with splits := wp.splits.map clr, parked := wp.parked.map (fun p => (p.1, clr p.2)),
                                     starved := wp.starved.map clr })

/-- The extended set is given up. -/
def freeExt (w : Nat) (s : State) : State := (landExt w s).modWarp w (fun wp => { wp with xl := false })

/-- XFREE (R277). (DEDUCED, log 21.) -/
def execXfree (f : Fr) (s : State) : Out :=
  issue f (nameS none none none) none (extEarly f true) (fun c st =>
    if c.act = 0 then .done (finishFlight c f [] .minimum st)
    else if c.warp.flights.any (fun x => x.regs.any (fun p => extKey p.1)) then .held
    else .done (finishFlight c f [] .minimum (freeExt c.w st))) s

end Sys2Proof.Machine
end

