-- ==== Sys2Proof/Machine/Queues.lean ====
section
/-! DEFINITION. Accesses that the device makes at the home for a context, the rings of work queues (R445, R446), item queues
(R447), and TQPOP and TQPUSH: opcodes 0xE6 and 0xE7 (R280). -/
namespace Sys2Proof.Machine
open Sys2Proof

/-! ### Accesses at the home in a context -/

/-- A context's agent outside any core: no privilege, no cached leaf. -/
def ctxAgent (s : State) (asid : Nat) : Option Agent :=
  (tget s.ctxs asid).map (fun x => { asid := asid, world := x.world, troot := x.troot, priv := false, tlb := [] })

/-- Bytes read at their home, line by line: the cause where a read fails, an uncorrectable error also where the way to a peer is down (R510). `fuel` bounds the lines. -/
def homeRead (s : State) (x : Agent) : Nat → Nat → Nat → Except Nat (List Byte)
  | 0, _, _ => .ok []
  | fuel + 1, va, n =>
    if n = 0 then .ok []
    else
      let k := min n (128 - va % 128)
      match translate s x va .read with
      | .error c => .error c
      | .ok e =>
        if s.linkDown (e.loc va) || s.poisoned (e.loc va) k then .error 0x40
        else
          match homeRead s x fuel (va + k) (n - k) with
          | .error c => .error c
          | .ok r => .ok (s.bytes (e.loc va) k ++ r)

/-- Bytes written at their home, line by line. -/
def homeStore (x : Agent) : Nat → State → Nat → List Byte → Except Nat State
  | 0, s, _, _ => .ok s
  | fuel + 1, s, va, bs =>
    if bs = [] then .ok s
    else
      let k := 128 - va % 128
      match translate s x va .write with
      | .error c => .error c
      | .ok e =>
        if s.linkDown (e.loc va) then .error 0x40
        else homeStore x fuel (homeWrite s (e.loc va) (bs.take k)) (va + k) (bs.drop k)

/-- Lines that a span touches, at most. -/
def spanLines (va n : Nat) : Nat := (va % 128 + n + 127) / 128

/-- A span in a context. -/
def ctxRead (s : State) (asid va n : Nat) : Except Nat (List Byte) :=
  match ctxAgent s asid with
  | none => .error 0x20
  | some x => homeRead s x (spanLines va n) va n
def ctxStore (s : State) (asid va : Nat) (bs : List Byte) : Except Nat State :=
  match ctxAgent s asid with
  | none => .error 0x20
  | some x => homeStore x (spanLines va bs.length) s va bs

/-- Where the whole lines of a span begin that moves from one address to another, lines to lines: none where the two lie otherwise on
theirs. -/
def wholeLines (src dst n : Nat) : List Nat :=
  if src % 128 ≠ dst % 128 then []
  else ((upto (n / 128 + 1)).map (fun i => (128 - dst % 128) % 128 + 128 * i)).filter (fun o => decide (o + 128 ≤ n))

/-- The side slot of a line that moves in a context from one scaled page to another (R27, R322). -/
def ctxMoveSlot (x : Agent) (src dst : Nat) (s : State) : Except Nat State :=
  match translate s x dst .write, translate s x src .read with
  | .error k, _ => .error k
  | _, .error k => .error k
  | .ok d, .ok e =>
    if !(d.scaled && e.scaled) then .ok s
    else if s.slotPoisoned (e.loc src) then .error 0x40
    else .ok (homeSlot s (d.loc dst) (s.slotAt (e.loc src)))

/-- The side slots of the whole lines of a span that has moved in a context (R27). (DEDUCED, log 87.) -/
def ctxMoveSlots (asid src dst n : Nat) (s : State) : Except Nat State :=
  match ctxAgent s asid with
  | none => .error 0x20
  | some x => (wholeLines src dst n).foldl (fun r o => r.bind (ctxMoveSlot x (src + o) (dst + o))) (.ok s)

/-! ### Rings -/

/-- The address of a ring slot (R446). The rings of the Backwater queues lie in memory of their own (R445). -/
def Queue.slotOf (q : Queue) (n : Word) : Nat := q.ring + 8 * (n.toNat % q.depth)

/-- Queues 8,184 to 8,191 belong to the Backwater engines. -/
def isBackwater (q : Nat) : Bool := decide (8184 ≤ q)

/-- A ring slot read. -/
def ringRead (s : State) (qn : Nat) (n : Word) : Except Nat DWord :=
  let q := s.queue qn
  if isBackwater qn then .ok (BitVec.ofNat 64 (ofBytes (s.bytes (.ring qn (8 * (n.toNat % q.depth))) 8)))
  else
    match ctxRead s q.asid (q.slotOf n) 8 with
    | .ok bs => .ok (BitVec.ofNat 64 (ofBytes bs))
    | .error k => .error k

/-- A ring slot written. -/
def ringWrite (s : State) (qn : Nat) (n : Word) (v : DWord) : Except Nat State :=
  let q := s.queue qn
  if isBackwater qn then .ok (s.setBytes (.ring qn (8 * (n.toNat % q.depth))) (toBytes 8 v.toNat))
  else ctxStore s q.asid (q.slotOf n) (toBytes 8 v.toNat)

/-- Event 12: a ring slot that cannot be read or written (R447): queue, slot, cause. -/
def slotEvent (s : State) (qn : Nat) (n : Word) (cause : Nat) : State :=
  let q := s.queue qn
  postEvent s 12 q.asid (toBytes 4 qn ++ toBytes 4 (n.toNat % q.depth) ++ toBytes 4 cause)

/-- The entries posted and not taken. -/
def Queue.fill (q : Queue) : Nat := (q.tail - q.head).toNat

/-! ### Item queues (R447) -/

/-- A pop: slots that cannot be read, or hold all ones, are skipped. -/
def popItem (qn : Nat) : Nat → State → State × Option DWord
  | 0, s => (s, none)
  | fuel + 1, s =>
    let q := s.queue qn
    if q.fill = 0 then (s, none)
    else
      let next (s : State) : State := s.modQueue qn (fun q => { q with head := q.head + 1 })
      match ringRead s qn q.head with
      | .error k => popItem qn fuel (next (slotEvent s qn q.head k))
      | .ok v => if v = BitVec.allOnes 64 then popItem qn fuel (next s) else (next s, some v)

def popQueue (s : State) (qn : Nat) : State × Option DWord := popItem qn ((s.queue qn).fill + 1) s

/-- What a push comes to. -/
inductive Pushed where
  | done (s : State)
  | full
  | refused (s : State)

def pushQueue (s : State) (qn : Nat) (v : DWord) : Pushed :=
  let q := s.queue qn
  if q.closed ∨ v = BitVec.allOnes 64 then .refused s
  else if q.depth ≤ q.fill then .full
  else
    match ringWrite s qn q.tail v with
    | .error k => .refused (slotEvent s qn q.tail k)
    | .ok s => .done (s.modQueue qn (fun q => { q with tail := q.tail + 1 }))

/-- Whether a queue is an item queue bound to a context (R280). -/
def itemQueue (s : State) (asid qn : Nat) : Bool :=
  (s.queue qn).bound && (s.queue qn).item && decide ((s.queue qn).asid = asid)

/-- The queue that TQPOP and TQPUSH name: A<12:0> of the lowest active thread. -/
def Ctx.queueOf (c : Ctx) (a : Reg) : Nat := (c.reg a.toNat (lowest c.act)).toNat % 8192

/-- An instruction on an item queue: 0x03 where it is not bound to the context (R280). -/
def queueOp (f : Fr) (n : Names) (a : Reg) (body : Ctx → Nat → State → Body) (s : State) : Out :=
  issue f n none noEarly (fun c st =>
    if c.act = 0 then .done (finishFlight c f [] .minimum st)
    else if !itemQueue c.pre c.asid (c.queueOf a) then .trap 0x03 c.act [] none
    else body c (c.queueOf a) st) s

/-- TQPOP (R280). A relaunched block first receives again what its predecessor last popped (R305). -/
def popOp (f : Fr) (d a : Reg) (wait : Bool) (s : State) : Out :=
  queueOp f (nameD2 d (reg1 a) none none) a (fun c q st =>
    let give (v : DWord) (s : State) : Body := .done (finishFlight c f (c.outs (pairOuts d (fun _ => v))) .access (acquireAt c 5 s))
    match tget c.block.again q with
    | some v => give v (st.modBlock c.warp.blk (fun b => { b with again := tdel b.again q, popped := tput b.popped q v }))
    | none =>
      match popQueue st q with
      | (s, some v) => give v (s.modBlock c.warp.blk (fun b => { b with popped := tput b.popped q v }))
      | (s, none) =>
        if wait ∧ !(c.pre.queue q).closed then .waits false .none (popQueue c.pre q).1
        else give (BitVec.allOnes 64) s) s

/-- TQPOP_WAIT (R280). -/
def execTqpopWait (f : Fr) (d a : Reg) (s : State) : Out := popOp f d a true s
/-- TQPOP_TRY (R280). -/
def execTqpopTry (f : Fr) (d a : Reg) (s : State) : Out := popOp f d a false s

/-- TQPUSH .wait and .try (R280). -/
def pushOp (f : Fr) (d a b : Reg) (wait : Bool) (s : State) : Out :=
  queueOp f (nameD d (reg1 a) (reg2 b) none) a (fun c q st =>
    let give (v : Word) (s : State) : Body := .done (finishFlight c f (c.outs [(d.toNat, fun _ => v)]) .access s)
    match pushQueue (releaseAt c 5 st) q (c.reg2 b.toNat (lowest c.act)) with
    | .done s => give 0 s
    | .refused s => give 2 s
    | .full => if wait then .waits false .none c.pre else give 1 (releaseAt c 5 st)) s

/-- TQPUSH_WAIT (R280). -/
def execTqpushWait (f : Fr) (d a b : Reg) (s : State) : Out := pushOp f d a b true s
/-- TQPUSH_TRY (R280). -/
def execTqpushTry (f : Fr) (d a b : Reg) (s : State) : Out := pushOp f d a b false s

/-- TQPUSH .close (R280). -/
def execTqpushClose (f : Fr) (d a : Reg) (s : State) : Out :=
  queueOp f (nameD d (reg1 a) none none) a (fun c q st =>
    let was := (c.pre.queue q).closed
    .done (finishFlight c f (c.outs [(d.toNat, fun _ => if was then 2 else 0)]) .access
      ((releaseAt c 5 st).modQueue q (fun x => { x with closed := true })))) s

end Sys2Proof.Machine
end

