-- ==== Sys2Proof/Machine/NearMem.lean ====
section
/-! DEFINITION. Near-memory commands up to their unit's queue: the command word (R87 to R89, R238), NMQ and NMWAIT: opcodes 0xE4
and 0xE5 (R278, R279). -/
namespace Sys2Proof.Machine
open Sys2Proof

/-! ### The command word (R87) -/

def nmField (w : BitVec 128) (lo n : Nat) : Nat := (w.extractLsb' lo n).toNat
def nmCode (w : BitVec 128) : Nat := nmField w 0 6
def nmFmt (w : BitVec 128) : Nat := nmField w 6 5
def nmGrp (w : BitVec 128) : Nat := nmField w 11 2
def nmRm (w : BitVec 128) : Nat := nmField w 13 3
def nmStrm (w : BitVec 128) : Nat := nmField w 16 8
def nmFl (w : BitVec 128) : Nat := nmField w 24 8
def nmArg (w : BitVec 128) : Nat := nmField w 32 52
def nmCnt (w : BitVec 128) : Nat := nmField w 84 28
def nmAux (w : BitVec 128) : Nat := nmField w 112 16

/-- Whether a slot of the key table may be used by a world (R371). -/
def keyOk (s : State) (slot : Nat) (world : Bool) : Bool :=
  decide (slot < 64) && (match tget s.keys slot with | some k => k.both || world | none => false)

/-- Whether a unit accepts a command word (R89, R238). -/
def nmOk (s : State) (world : Bool) (w : BitVec 128) : Bool :=
  let fmt := nmFmt w
  let grp := nmGrp w
  let rm := nmRm w
  let fl := nmFl w
  let cnt := nmCnt w
  let aux := nmAux w
  let noFmt := decide (fmt = 0) && decide (grp = 0)
  let noRm := decide (rm = 0) && decide (nmStrm w = 0)
  match nmCode w with
  | 0x01 => decide (fmt = 15) && decide (grp = 0) && (rm = 0 || rm = 5) && decide (fl ≤ 1) && decide (nmArg w % 64 = 0) &&
            decide (cnt % 32 = 0) && decide (cnt ≠ 0) && decide (aux = 0)
  | 0x02 => (if fmt = 15 then rm = 0 || rm = 5 else (fmt = 0 || fmt = 1) && noRm) && decide (grp = 0) && decide (fl ≤ 3) &&
            decide (nmArg w % 64 = 0) && decide (cnt % 32 = 0) && decide (cnt ≠ 0) && decide (aux = 0)
  | 0x03 => (decide (fmt ≤ 2) || (decide (10 ≤ fmt) && decide (fmt ≤ 15))) && decide (grp = 0) && decide (rm ≤ 5) && decide (fl = 0) &&
            decide (cnt % (if 10 ≤ fmt then 64 else 8) = 0) && (aux = 1 || aux = 2)
  | 0x04 => [0, 1, 2, 10, 11, 14, 15].contains fmt && decide (grp = 0) && noRm && decide (fl = 0) && decide (cnt % 32 = 0) && decide (aux = 0)
  | 0x05 => noFmt && noRm && decide (fl = 0) && decide (cnt % 16 = 0) && decide (aux = 0)
  | 0x06 => noRm && decide (fl ≤ 1) &&
            (if fl = 1 then decide (10 ≤ fmt) && fmtOk' fmt grp && decide (nmArg w % 128 = 0) && decide (cnt % 128 = 0)
             else noFmt && decide (nmArg w % 4 = 0) && decide (cnt % 4 = 0))
  | 0x07 => noFmt && noRm && decide (fl = 0) && decide (cnt ≤ 256) && decide (aux = 0)
  | 0x08 => noFmt && noRm && decide (fl = 0) && decide (nmArg w % 4 = 0) && decide (cnt = 0)
  | 0x09 => noFmt && noRm && decide (fl ≤ 2) && decide (nmArg w % 8 = 0) && (fl = 0 || aux = 0)
  | 0x0A => noFmt && noRm && decide (fl = 0) && decide (nmArg w % 16 = 0) && decide (cnt = 0) && decide (aux = 0)
  | 0x0B => fmtOk' fmt grp && decide (rm ≤ 5) && decide (fl ≤ 1) && decide (aux < 128) && fmtOk' (aux % 32) (aux / 32) &&
            decide (cnt % grpLen fmt grp = 0) && decide (cnt % grpLen (aux % 32) (aux / 32) = 0)
  | 0x0C => noFmt && noRm && decide (fl = 0) && decide (nmArg w % 65536 = 0) && decide (aux < 256) && keyOk s aux world
  | _ => false
where
  /-- FMT and GRP that go together (R21, R22). -/
  fmtOk' (fmt grp : Nat) : Bool := decide (fmt ≤ 17) && (if 16 ≤ fmt then decide (grp ≤ 2) else decide (grp = 0))
  /-- Elements of a block or group of a format; one for unscaled formats. -/
  grpLen (fmt grp : Nat) : Nat := if fmt < 10 then 1 else if fmt < 16 then 32 else 32 * 2 ^ grp

/-! ### Completion records (R237) -/

/-- A completion record. -/
def nmRecord (status cmd : Nat) (res0 res1 detail : Word) : BitVec 128 :=
  detail ++ (res1 ++ (res0 ++ BitVec.ofNat 32 (status % 256 + 256 * (cmd % 64))))

/-- A command's record delivered to the warp that holds its handle. -/
def fillHandle (s : State) (w : Nat) (h : Word) (r : BitVec 128) : State :=
  s.modWarp w (fun wp => { wp with handles := wp.handles.map (fun x => if x.num = h then { x with record := some r } else x) })

/-! ### Sending -/

/-- The home unit of a physical address of HBM4E (R463). (DESIGN CHOICE, log 7.) -/
def nmHome (a : Nat) : Nat := Config.homeHash (a / 65536) % 128

/-- The commands in a unit's queue. -/
def State.nmu (s : State) (u : Nat) : List NmCmd := tgetD s.nmus u []
def State.setNmu (s : State) (u : Nat) (l : List NmCmd) : State := { s with nmus := tputD s.nmus u [] l }

/-- What the translation of ARG gives: its unit, or a completion at once (R278, R464). -/
inductive Sent where
  | unit (u : Nat)
  | now (status detail : Nat)

/-- What a command does at ARG itself, in the order of the checks: a unit's read needs R, its write W (R482). -/
def nmArgNeeds (w : BitVec 128) : List Need :=
  match nmCode w with
  | 0x06 => [.write]
  | 0x08 => [.read, .write]
  | 0x09 => if nmFl w = 1 then [.read] else [.read, .write]
  | 0x0A => [.read, .write]
  | _ => [.read]

/-- The first cause that forbids one of several uses of an address. -/
def firstCause (s : State) (x : Agent) (va : Nat) : List Need → Option Nat
  | [] => none
  | n :: r =>
    match translate s x va n with
    | .error k => some k
    | .ok _ => firstCause s x va r

/-- The translation of ARG for a command. -/
def nmTranslate (s : State) (x : Agent) (w : BitVec 128) : Sent :=
  if windowOf (nmArg w) ≠ some .glob then .now 1 0
  else
    let ns := nmArgNeeds w
    match firstCause s x (nmArg w) ns, translate s x (nmArg w) (ns.headD .read) with
    | some k, _ => .now 2 k
    | none, .error k => .now 2 k
    | none, .ok e =>
      match e.loc (nmArg w) with
      | .hbm a => .unit (nmHome a)
      | _ => .now 1 0

/-- The parts of all commands that stand in a unit's queue: they have arrived and have not ended. -/
def partsAt (s : State) (u : Nat) : List NmPart :=
  s.nmus.flatMap (fun m => m.2.flatMap (fun c => c.parts.filter (fun p =>
    !p.ended && p.arrival.isSome && decide (nmHome (p.page * 65536) = u))))

/-- Entries of a unit's queue in use: commands and parts that have arrived and are not complete (R465). -/
def State.nmuFill (s : State) (u : Nat) : Nat := (s.nmu u).length + (partsAt s u).length

/-- The place in the arrival order of what a sender of a rank sends now: ties of one cycle go by rank (R243, R468). -/
def arrivalKey (s : State) (rank : Nat) : Nat := (s.now * 8192 + rank) * 2 ^ 64 + s.uid

/-- A command put in a unit's queue. -/
def nmEnqueue (s : State) (u : Nat) (c : NmCmd) : State :=
  ({ s with uid := s.uid + 1 }).setNmu u (insertBy (·.arrival) { c with arrival := arrivalKey s c.rank } (s.nmu u))

/-- A new command. -/
def nmNew (issuer : NmIssuer) (rank asid : Nat) (blk : Option Nat) (priv : Bool) (seed : Word) (w : BitVec 128) : NmCmd :=
  { issuer := issuer, rank := rank, arrival := 0, asid := asid, blk := blk, priv := priv, seed := seed, word := w, arg := [], words := [], started := false,
    parts := [], res0 := 0, res1 := 0 }

/-- A handle that the warp does not use: any nonzero value, freely (R278). -/
def newHandle (draw k : Nat) (used : List Word) : Word :=
  let x := Config.freeWord draw k
  if x ≠ 0 ∧ !used.contains x then x
  else (((upto (used.length + 1)).map (fun i => BitVec.ofNat 32 (i + 1))).find? (fun w => !used.contains w)).getD 1

/-- The four registers of a command word. -/
def Ctx.cmdWord (c : Ctx) (a : Reg) (t : Nat) : BitVec 128 :=
  c.reg (a.toNat + 3) t ++ (c.reg (a.toNat + 2) t ++ (c.reg (a.toNat + 1) t ++ c.reg a.toNat t))

/-- The commands of the threads sent one by one. -/
def nmSendAll (c : Ctx) (a : Reg) (scope : Scope) : List Nat → State → State × List (Nat × Word)
  | [], s => (s, [])
  | t :: ts, s =>
    let w := c.cmdWord a t
    let used := match tget s.warps c.w with | some wp => wp.handles.map (·.num) | none => []
    let h := newHandle c.pre.free (2000000 + t) used
    let put (r : Option (BitVec 128)) (s : State) : State :=
      s.modWarp c.w (fun wp => { wp with handles := wp.handles ++ [⟨h, scope, nmCode w, r⟩] })
    let s := match nmTranslate c.pre c.agent w with
      | .now st d => put (some (nmRecord st (nmCode w) 0 0 (BitVec.ofNat 32 d))) s
      | .unit u =>
        put none (nmEnqueue s u (nmNew (.warp c.w h) c.core c.asid (some c.warp.blk) c.split.priv c.ctx.seed w))
    let (s, r) := nmSendAll c a scope ts s
    (s, (t, h) :: r)

/-- The leaves of the threads' ARG enter the core's TLB (R484). -/
def noteArgs (c : Ctx) (a : Reg) (s : State) : State :=
  let note (l : List TlbEntry) (t : Nat) : List TlbEntry :=
    let w := c.cmdWord a t
    if windowOf (nmArg w) ≠ some .glob then l
    else
      match translate c.pre c.agent (nmArg w) ((nmArgNeeds w).headD .read) with
      | .ok e => tlbAdd 1024 s.free l e
      | .error _ => l
  s.modCore c.core (fun k => { k with tlb := c.doers.foldl note k.tlb })

/-- The units that the threads' commands go to. -/
def nmTargets (c : Ctx) (a : Reg) : List Nat :=
  c.doers.filterMap (fun t => match nmTranslate c.pre c.agent (c.cmdWord a t) with | .unit u => some u | .now _ _ => none)

/-- The handle or word that a thread received. -/
def wordFor (l : List (Nat × Word)) (t : Nat) : Word :=
  match l.find? (fun p => decide (p.1 = t)) with
  | some p => p.2
  | none => 0

/-- NMQ (R278): a scope bound to FABRIC is illegal at issue. -/
def execNmq (f : Fr) (d a : Reg) (scope : Scope) (s : State) : Out :=
  let early (c : Ctx) : Option Nat :=
    match levelEarly scope c with
    | some k => some k
    | none =>
      match scopeLevel scope with
      | some k => if lvlDom (c.launch.record.levels'.getD k 0) = 7 then some 0x01 else none
      | none => if scope = .fab then some 0x01 else none
  issue f (nameD d (regN a 4) none none) none early (fun c st =>
    if c.act = 0 then .done (finishFlight c f [] .minimum st)
    else
      let us := nmTargets c a
      if 64 < c.warp.handles.length + c.doers.length ∨ us.any (fun u => decide (256 < c.pre.nmuFill u + us.count u)) then .held
      else
        let (s, l) := nmSendAll c a scope c.doers (noteArgs c a (releaseAt c (c.scope scope) st))
        .done (finishFlight c f (c.outs [(d.toNat, wordFor l)]) .access s)) s

/-! ### NMWAIT (R279) -/

/-- The records of the threads' handles, delivered in ascending order, with the scopes of the deliveries. -/
def nmDeliver (c : Ctx) (a : Reg) : List Nat → List Handle → List Handle × List (Nat × BitVec 128) × List Scope
  | [], hs => (hs, [], [])
  | t :: ts, hs =>
    let h := c.reg a.toNat t
    match hs.find? (fun x => decide (x.num = h)) with
    | none =>
      let (hs, l, sc) := nmDeliver c a ts hs
      (hs, (t, nmRecord 0xFE 0 0 0 0) :: l, sc)
    | some x =>
      match x.record with
      | none =>
        let (hs, l, sc) := nmDeliver c a ts hs
        (hs, (t, nmRecord 0xFF 0 0 0 0) :: l, sc)
      | some r =>
        let (hs, l, sc) := nmDeliver c a ts (hs.filter (fun y => decide (y.num ≠ h)))
        (hs, (t, r) :: l, x.scope :: sc)

def nmwaitOp (f : Fr) (d a : Reg) (wait : Bool) (s : State) : Out :=
  issue f (nameDN d 4 (reg1 a) none none) none noEarly (fun c st =>
    if c.act = 0 then .done (finishFlight c f [] .minimum st)
    else
      let busy (t : Nat) : Bool := c.warp.handles.any (fun x => decide (x.num = c.reg a.toNat t) && x.record.isNone)
      if wait ∧ c.doers.any busy then .waits false .none c.pre
      else
        let (hs, l, sc) := nmDeliver c a c.doers c.warp.handles
        let s := st.modWarp c.w (fun wp => { wp with handles := hs })
        let s := sc.foldl (fun s x => acquireAt c (c.scope x) s) s
        let rec_ (t : Nat) : BitVec 128 := match l.find? (fun p => decide (p.1 = t)) with | some p => p.2 | none => 0
        .done (finishFlight c f (c.outs ((upto 4).map (fun i => (d.toNat + i, fun t => (rec_ t).extractLsb' (32 * i) 32)))) .access s)) s

/-- NMWAIT_WAIT (R279). -/
def execNmwaitWait (f : Fr) (d a : Reg) (s : State) : Out := nmwaitOp f d a true s
/-- NMWAIT_TEST (R279). -/
def execNmwaitTest (f : Fr) (d a : Reg) (s : State) : Out := nmwaitOp f d a false s

end Sys2Proof.Machine
end

