-- ==== Sys2Proof/Machine/Place.lean ====
section
/-! DEFINITION. Placement (R54, R292 to R295, R303, R313 to R316, R320): what a core has free, where a gang fits, and the state of
its blocks and warps at their start and at resume. -/
namespace Sys2Proof.Machine
open Sys2Proof

/-! ### What the resident gangs hold -/

/-- The record of a block's launch. -/
def recordOf (s : State) (b : Block) : Option Record :=
  match tget s.gangs b.gang with
  | none => none
  | some g => (tget s.launches g.launch).map (·.record)

/-- The blocks that hold a place on a core, with their records; the warps that run on it or are about to land there (R432), with their
blocks and records. -/
def blocksOn (s : State) (core : Nat) : List (Nat × Block × Record) :=
  s.blocks.filterMap (fun p =>
    if p.2.core = core ∧ s.placed p.1 = true then
      (recordOf s p.2).map (fun r => (p.1, p.2, r))
    else none)
def warpsOn (s : State) (core : Nat) : List (Nat × Warp × Block × Record) :=
  let here (p : Nat × Warp) : Option Warp :=
    match p.2.landing with
    | some x => if x.core = core then some { p.2 with core := core, slot := x.slot } else if p.2.core = core then some p.2 else none
    | none => if p.2.core = core then some p.2 else none
  s.warps.filterMap (fun p =>
    match here p, tget s.blocks p.2.blk with
    | some wp, some b =>
      if s.placed p.2.blk then
        (recordOf s b).map (fun r => (p.1, wp, b, r))
      else none
    | _, _ => none)

/-- The allocation of an encoding (R54). -/
def allocOf (r : Record) (riffle : Bool) : Nat := ((if riffle then r.regf else r.regr) + 15) / 16 * 16

/-- The warps of a block that run on another core. -/
def awayWarps (s : State) (b : Nat) (core : Nat) : List (Nat × Warp) :=
  s.warps.filter (fun p => decide (p.2.blk = b) && decide (p.2.core ≠ core) && !(p.2.landing.any (fun x => decide (x.core = core))))

/-- Warp-registers in use (R54, R433): those of resident blocks, less what migrated warps have released, and those of warps that
have migrated here. -/
def regsUsed (s : State) (core : Nat) : Nat :=
  ((blocksOn s core).map (fun p =>
      let away := if p.2.2.xs then 0 else (awayWarps s p.1 core).length + p.2.1.gone
      (blockWarps p.2.2 - away) * allocOf p.2.2 (isRiffle core) + (if p.2.2.xs then (blockWarps p.2.2 + 1) / 2 * 256 else 0))).sum +
  (((warpsOn s core).filter (fun p => decide (p.2.2.1.core ≠ core))).map (fun p => allocOf p.2.2.2 (isRiffle core))).sum

/-- The slots kept for the migrated warps of a block with an extended set (R433). -/
def keptSlots (s : State) (core b : Nat) (r : Record) : List Nat :=
  if r.xs && !isRiffle core then (awayWarps s b core).map (fun w => w.2.homeSlot) else []

/-- The slots that stay empty beside a last warp that has no partner in its extended pair (R293). -/
def emptySlots (s : State) (core b : Nat) (r : Record) : List Nat :=
  if r.xs && !isRiffle core then
    ((s.warpsOfBlock b).filter (fun w => decide (w.2.idx % 2 = 0) && decide (w.2.idx + 1 = blockWarps r))).map (fun w => w.2.homeSlot + 1)
  else []

/-- Slots in use: those of warps, and those kept or left empty for blocks with an extended set. -/
def slotsUsed (s : State) (core : Nat) : List Nat :=
  (warpsOn s core).map (fun p => p.2.1.slot) ++
  (blocksOn s core).flatMap (fun p => keptSlots s core p.1 p.2.2 ++ emptySlots s core p.1 p.2.2)

/-- Lane-store bytes in use in each lane of a subcore, as R313 counts them: those of warps, those that the warps of a resident block
have left on the core (R294), and those of the slots that wait for a warp to return (R432). -/
def laneWeight (core lane : Nat) : Nat := if isRiffle core then lane + 256 else 2 * (lane + 256)
def laneLimit (core : Nat) : Nat := if isRiffle core then 2048 else 4096
def laneUsed (s : State) (core sub : Nat) : Nat :=
  let here (sl lane : Nat) : Nat := if subcoreOf core sl = sub then laneWeight core lane else 0
  ((warpsOn s core).map (fun p => here p.2.1.slot p.2.2.2.lane)).sum +
  ((blocksOn s core).map (fun p => ((p.2.1.spent ++ keptSlots s core p.1 p.2.2).map (fun sl => here sl p.2.2.lane)).sum)).sum

/-- Bytes of a block's scratch range with its side slots (R314, R315); bytes of a gang's slice on core `i` of its cluster, with the side
slots of the scaled lines that the core holds (R316). -/
def scratchNeed (r : Record) : Nat := (r.scr + 255) / 256 * 256 + r.scrs / 4
def sliceNeed (r : Record) (i : Nat) : Nat :=
  clusterBytes r / 16 + (r.clms / 4096 * 256 + min 256 (r.clms % 4096 - 256 * i)) / 4

/-- The gangs that hold a slice in a cluster, each with its record. -/
def slicesIn (s : State) (cluster : Nat) : List (Nat × Gang × Record) :=
  s.gangs.filterMap (fun p =>
    if holdsPlace p.2.state ∧ p.2.slices ≠ [] ∧ clusterOf p.2.core = cluster then
      (tget s.launches p.2.launch).bind (fun l => if l.record.clm = 0 then none else some (p.1, p.2, l.record))
    else none)

/-- The ranges of a core's scratch ways in use, as base and bytes: block scratch, or all the ways that a WAYSET left (R321), and
cluster slices (R316, R320). -/
def rangesOn (s : State) (core : Nat) : List (Nat × Nat) :=
  (blocksOn s core).map (fun p => match p.2.1.wset with
    | some n => (0, n * 32768)
    | none => (p.2.1.scrBase, scratchNeed p.2.2)) ++
  (if isRiffle core then []
   else (slicesIn s (clusterOf core)).filterMap (fun p => p.2.1.slices[core % 16]?.map (fun b => (b, sliceNeed p.2.2 (core % 16)))))

/-- The lowest place for `n` contiguous units below a limit, clear of the ranges in use. -/
def fitRange (used : List (Nat × Nat)) (limit n : Nat) : Option Nat :=
  if n = 0 then some 0
  else (sortBy id (0 :: used.map (fun w => w.1 + w.2))).find? (fun b =>
    decide (b + n ≤ limit) && used.all (fun w => decide (b + n ≤ w.1) || decide (w.1 + w.2 ≤ b)))

/-- Whether a core is under a WAYSET: it takes no other block and no slice until its block ends (R321). -/
def underWayset (s : State) (core : Nat) : Bool := (blocksOn s core).any (fun p => p.2.1.wset.isSome && !p.2.1.ended)

def defaultWays (core : Nat) : Nat := if isRiffle core then 4 else 8

/-- The scratch ways of a core (R320): those of the launch whose block, or cluster slice, was the first on the empty core; where a slice alone
has come since, the default or the count that stood. (DESIGN CHOICE, log 99.) -/
def waysOf (s : State) (core : Nat) : Nat := (s.core core).ways.getD (defaultWays core)
def recordWays (core : Nat) (r : Record) : Nat := if r.ways = 0 then defaultWays core else r.ways

/-- The accumulator windows on a twin, as base and rows. -/
def windowsOn (s : State) (twin : Nat) : List (Nat × Nat) :=
  ((blocksOn s (2 * twin)) ++ (blocksOn s (2 * twin + 1))).filterMap (fun p =>
    if p.2.2.accr = 0 then none else some (p.2.1.accBase, p.2.2.accr))

/-! ### Slots -/

/-- The lowest free slots for `n` warps: a slot suits where its subcore's lanes have room (R313). `used` grows on the way. -/
def pickSlots (core lane : Nat) (room : Nat → Nat) : Nat → List Nat → List Nat → Option (List Nat)
  | 0, _, got => some got
  | n + 1, used, got =>
    let ok (sl : Nat) : Bool :=
      !used.contains sl &&
      decide (((got.filter (fun x => decide (subcoreOf core x = subcoreOf core sl))).length + 1) * laneWeight core lane ≤ room (subcoreOf core sl))
    match (upto (if isRiffle core then 16 else 48)).find? ok with
    | none => none
    | some sl => pickSlots core lane room n (sl :: used) (got ++ [sl])

/-- Pairs of slots 2i and 2i + 1 for a block with an extended set (R293); a last warp without a partner leaves its pair's odd slot
empty. -/
def pickPairs (core lane : Nat) (room : Nat → Nat) : Nat → Nat → List Nat → List Nat → Option (List Nat)
  | 0, _, _, got => some got
  | _, 0, _, got => some got
  | fuel + 1, n, used, got =>
    let cost (sl : Nat) : Nat := (got.filter (fun x => decide (subcoreOf core x = subcoreOf core sl))).length + 1
    let ok (i : Nat) : Bool :=
      !used.contains (2 * i) && !used.contains (2 * i + 1) &&
      decide (cost (2 * i) * laneWeight core lane ≤ room (subcoreOf core (2 * i))) &&
      (decide (n = 1) || decide (cost (2 * i + 1) * laneWeight core lane ≤ room (subcoreOf core (2 * i + 1))))
    match (upto 24).find? ok with
    | none => none
    | some i =>
      if n = 1 then some (got ++ [2 * i])
      else pickPairs core lane room fuel (n - 2) (2 * i :: (2 * i + 1) :: used) (got ++ [2 * i, 2 * i + 1])

/-- Slots on a core for `n` warps of a record, in warp order. -/
def slotsFor (s : State) (core n : Nat) (r : Record) : Option (List Nat) :=
  let room (sub : Nat) : Nat := laneLimit core - laneUsed s core sub
  if r.xs && !isRiffle core then pickPairs core r.lane room 32 n (slotsUsed s core) []
  else pickSlots core r.lane room n (slotsUsed s core) []

/-! ### Where a block fits -/

/-- The world that a core holds (R516), and the context that holds a twin's B-store (R345). A twin takes blocks of one context at a
time. (DEDUCED, log 48.) -/
def worldOk (s : State) (core : Nat) (world : Bool) (asid : Nat) : Bool :=
  let ctxOf (b : Nat) : Option Nat := s.asidOfBlock b
  let ctxs (core : Nat) : List Nat := (blocksOn s core).filterMap (fun p => ctxOf p.1) ++ (warpsOn s core).filterMap (fun p => ctxOf p.2.1.blk)
  (ctxs core).all (fun a => match tget s.ctxs a with | some x => decide (x.world = world) | none => false) &&
  (isRiffle core || ((ctxs (core / 2 * 2)) ++ (ctxs (core / 2 * 2 + 1))).all (fun a => decide (a = asid)))

/-- The registers that `n` warps of a record take on a core. -/
def regsNeed (core n : Nat) (r : Record) : Nat :=
  n * allocOf r (isRiffle core) + (if r.xs then (n + 1) / 2 * 256 else 0)
def regsLimit (core : Nat) : Nat := if isRiffle core then 2048 else 4096

/-- Whether a core is empty of blocks and warps, and of the slices of other gangs than one. -/
def coreEmpty (s : State) (core gid : Nat) : Bool :=
  (blocksOn s core).isEmpty && (warpsOn s core).isEmpty &&
  (isRiffle core || (slicesIn s (clusterOf core)).all (fun p => decide (p.1 = gid)))

/-- A block's place on a core. -/
structure Berth where
  slots : List Nat
  acc : Nat
  scr : Nat

/-- A block's place on a core: slots for `n` warps, its accumulator window and its scratch range; none where something does not fit
(R292). -/
def fitBlock (s : State) (core n asid : Nat) (world : Bool) (r : Record) : Option Berth :=
  if (s.core core).stopped ∨ underWayset s core ∨ !worldOk s core world asid then none
  else if (if isRiffle core then 8 else 16) ≤ (blocksOn s core).length then none
  else if regsLimit core < regsUsed s core + regsNeed core n r then none
  else
    match slotsFor s core n r, (if isRiffle core then some 0 else fitRange (windowsOn s (core / 2)) 2048 r.accr),
          fitRange (rangesOn s core) (waysOf s core * 32768) (scratchNeed r) with
    | some sl, some a, some b => some ⟨sl, a, b⟩
    | _, _, _ => none

/-- The lowest places of a gang's slice on the Reach cores of a cluster from core `i` on (R316, R320, R321). -/
def fitSlices (s : State) (cluster : Nat) (r : Record) : Nat → Nat → Option (List Nat)
  | 0, _ => some []
  | n + 1, i =>
    let core := 16 * cluster + i
    if underWayset s core then none
    else
      match fitRange (rangesOn s core) (waysOf s core * 32768) (sliceNeed r i), fitSlices s cluster r n (i + 1) with
      | some b, some l => some (b :: l)
      | _, _ => none

/-- A gang's slices allocated in the cluster of its first core, before its blocks' ranges (R320). -/
def placeSlices (s : State) (gid core : Nat) (r : Record) : Option State :=
  if r.clm = 0 then some s
  else (fitSlices s (clusterOf core) r 16 0).map (fun l => s.modGang gid (fun g => { g with slices := l }))

/-! ### A block's start -/

/-- The accumulator rows of a window read as zero again, on both cores of a twin: a write, which clears their poison (R530). -/
def clearRows (s : State) (twin base n : Nat) : State :=
  let mine (line : Nat) : Bool :=
    let row := line % 2048
    decide (line / 2048 / 2 = twin) && decide (base ≤ row) && decide (row < base + n)
  { s with acc := s.acc.filter (fun p => !mine (p.1 / 64)),
           poison := s.poison.filter (fun g => !(decide (g % 2 = 0) && decide (g / 2 % 16 = 10) && mine (g / 2 / 16 / 8))) }

/-- The B-store and the accumulators of a twin, zeroed when the twin passes to another context (R345, R516). -/
def passTwin (s : State) (twin asid : Nat) : State :=
  if (s.twin twin).ctx = some asid then s
  else
    let mine (core : Nat) : Bool := decide (core / 2 = twin)
    let s := healEntries (clearRows s twin 0 2048) (fun n _ => mine (n / 12288 / 64))
    { s.modTwin twin (fun x => { x with ctx := some asid }) with
      mem := s.mem.filter (fun p => !(decide (p.1 % 16 = 7) && mine (p.1 / 16 / 2 ^ 52 / 64)))
      bscale := s.bscale.filter (fun p => !mine (p.1 / 12288 / 64))
      bmeta := s.bmeta.filter (fun p => !mine (p.1 / 12288 / 64))
      poison := s.poison.filter (fun g => !(decide (g % 2 = 0) && decide (g / 2 % 16 = 7) && mine (g / 2 / 16 / 2 ^ 52 / 64))) }

/-- The instruction caches of a core hold nothing of the code range (R340, R444). -/
def dropCode (s : State) (core asid : Nat) (r : Record) : State :=
  s.modCore core (fun k => { k with icache := k.icache.filter (fun p =>
    !(decide (p.1.1 = asid) && r.covers p.1.2.1)) })

/-- A core before a launch's first fetch there: nothing of its code stands in the instruction caches (R340, R444). -/
def firstOn (s : State) (core lid : Nat) : State :=
  match tget s.launches lid with
  | none => s
  | some l =>
    if l.ran.contains core then s
    else (dropCode s core l.asid l.record).modLaunch lid (fun l => { l with ran := l.ran ++ [core] })

/-- A core before a block's first fetch there: its L1 holds no older copies, since the first instruction of a launched kernel's warp is an
acquire at .dev (R327, R330). -/
def primeCore (s : State) (core lid : Nat) : State := invalidateAll (firstOn s core lid) core

/-- A core before the next fetch of a resumed block: its instruction caches are invalidated again (R444, R459). -/
def reprimeCore (s : State) (core lid : Nat) : State :=
  match tget s.launches lid with
  | none => s
  | some l => dropCode (primeCore s core lid) core l.asid l.record

/-- A core takes the way count of the launch that comes to it while it is empty (R320), or the one that the coming block's WAYSET had
left (R220). -/
def takeWays (s : State) (core gid : Nat) (r : Record) (wset : Option Nat) : State :=
  if coreEmpty s core gid then s.modCore core (fun k => { k with ways := some (wset.getD (recordWays core r)) }) else s

/-- A block at placement (R294), with the items that a killed predecessor last popped (R305). -/
def newBlock (gang index core : Nat) (spot : Berth) (fl : List (Nat × Nat × Nat)) (again : SMap DWord) : Block :=
  { gang := gang, index := index, core := core, accBase := spot.acc, live := [], bars := [], tbars := [],
    flumes := fl.map (fun x => { base := x.1, size := x.2.1, depth := x.2.2, p := 0, q := 0, rin := 0, rout := 0 }),
    kvd := [], recording := Recording.reset, bRange := none, bsloads := [], satc := 0, zeroc := 0, gone := 0, spent := [],
    scrBase := spot.scr, wset := none, popped := [], again := again, ended := false, savedWeirs := [], savedCmds := [] }

/-- The first split of a warp: every thread, at the entry point (R246). -/
def firstSplit (pc : Nat) (now : Nat) : Split :=
  { ent := 0, mask := BitVec.allOnes 32, pc := BitVec.ofNat 64 pc, joins := [], rets := [], spilled := 0, nd := 0, pend := [],
    spend := [], next := now, ready := none, passed := 0, aged := none, yield := none, wait := none, got := [], priv := false,
    susp := false, born := 0 }

/-- A warp at placement. (DESIGN CHOICE, log 1.) -/
def newWarp (blk idx core slot alloc pc now : Nat) : Warp :=
  { blk := blk, idx := idx, core := core, slot := slot, homeSlot := slot, alloc := alloc, ctrs := [0, 0, 0, 0, 0, 0],
    splits := [firstSplit pc now], parked := [], starved := [], nextTag := 0, fixed := [], flights := [], role := .none, kvrm := 0,
    migr := 0, panch := 0xFFFF, pcr := 0, pcf := 0, xl := false, tpc := 0, tcause := 0, tmask := 0, targ := 0, taddr := [], traps := [], serving := none,
    member := 0, raft := none, tiles := 0, wdog := 0, handles := [], batches := [], landing := none, ending := false }

/-- The entry registers of a warp (R57): v1 is the lane-store size, v2:v3 the parameter pointer. -/
def entryRegs (s : State) (w : Nat) (r : Record) (param : Nat) : State :=
  (upto 32).foldl (fun s t =>
    ((s.setReg (regKey w w 1 t) (BitVec.ofNat 32 r.lane)).setReg (regKey w w 2 t) (BitVec.ofNat 32 param)).setReg
      (regKey w w 3 t) (BitVec.ofNat 32 (param / 2 ^ 32))) s

/-- A block started on a core, its warps numbered one after another. -/
def startBlock (s : State) (lid gang index core : Nat) (l : Launch) (spot : Berth) : State :=
  let r := l.record
  let s := primeCore s core lid
  let s := if isRiffle core then s else clearRows (passTwin s (core / 2) l.asid) (core / 2) spot.acc r.accr
  let b := s.uid
  let alloc := allocOf r (isRiffle core)
  let pc := if isRiffle core then r.entf else r.entr
  let again := match tget s.gangs gang with | some g => tgetD g.again index [] | none => []
  let s := { s with uid := b + 1 + spot.slots.length, blocks := tput s.blocks b (newBlock gang index core spot l.flumes again) }
  spot.slots.zipIdx.foldl (fun s p =>
    let w := b + 1 + p.2
    entryRegs { s with warps := tput s.warps w (newWarp b p.2 core p.1 alloc pc s.now) } w r r.param) s

/-! ### Gangs -/

/-- Whether a record's kernel runs on Riffle cores (R292). -/
def riffleOnly (r : Record) : Bool := decide (r.entr = 0)

/-- Blocks of the launch on this device and the first one's index: with a FABRIC level, the instance of the device's rank (R290). -/
def isFabric (r : Record) : Bool := (match r.levels'.getLast? with | some v => decide (lvlDom v = 7) | none => false)
def localBlocks (r : Record) : Nat :=
  if isFabric r then lvlSize r (r.levels'.length - 1) / blockThreads r else launchBlocks r
def localGangs (r : Record) : Nat := localBlocks r / gangBlocks r
def firstIndex (rank : Nat) (r : Record) (gang : Nat) : Nat := (if isFabric r then rank * localBlocks r else 0) + gang * gangBlocks r

/-- The instances of CLUSTER and DIE levels that a gang belongs to, as domain and number (R290). -/
def instancesOf (r : Record) (index : Nat) : List (Nat × Nat) :=
  [4, 5].filterMap (fun d => if hasLevel r d then some (d, index * blockThreads r / lvlSize r (lvlCount r d - 1)) else none)

/-- Whether a core may take a gang of a launch, given where its instances already run. -/
def homeOk (l : Launch) (index core : Nat) : Bool :=
  (instancesOf l.record index).all (fun p =>
    (l.homes.filter (fun h => decide (h.1 = p.1) && decide (h.2.1 = p.2))).all (fun h =>
      decide (h.2.2 = (if p.1 = 4 then clusterOf core else dieOf core))))

/-- The blocks of a gang started on consecutive cores from one, each where it fits. -/
def startBlocks (lid gang index : Nat) (l : Launch) (world : Bool) : Nat → Nat → State → Option State
  | 0, _, s => some s
  | n + 1, core, s =>
    match fitBlock s core (blockWarps l.record) l.asid world l.record with
    | none => none
    | some spot => startBlocks lid gang (index + 1) l world n (core + 1) (startBlock s lid gang index core l spot)

/-- Where a launch's CLUSTER and DIE instances run, once the gang with a first block index stands on a core. -/
def homesWith (l : Launch) (index core : Nat) : List (Nat × Nat × Nat) :=
  let hs := (instancesOf l.record index).map (fun p => (p.1, p.2, if p.1 = 4 then clusterOf core else dieOf core))
  l.homes ++ hs.filter (fun h => !l.homes.contains h)

/-- The rank of the device in the launch group of a launch, 0 without one (R290, R511). -/
def rankIn (s : State) (l : Launch) : Nat :=
  match l.group.bind (fun g => tget s.groups g) with
  | some x => x.rank
  | none => 0

/-! ### The commands of a block -/

/-- A bit field of a command's word `k`; WE and WSL (R227). -/
def Cmd.f (c : Cmd) (k lo n : Nat) : Nat := (c.words.getD k 0).toNat / 2 ^ lo % 2 ^ n
def Cmd.flag (c : Cmd) (k lo : Nat) : Bool := decide (c.f k lo 1 = 1)
def Cmd.wsl (c : Cmd) : Nat := c.f 7 0 5
def Cmd.we (c : Cmd) : Bool := c.flag 7 5

/-- The weir slots that commands which have not started are guarded by. -/
def weirsOf (cs : List Cmd) : List Nat := (cs.filter (fun c => c.we && decide (c.state = .queued))).map (·.wsl)

/-- A core's engine without the commands of some blocks, and the weir slots that guarded them UNSET, with the slots that some test names; a slot
that guards a queued command of another block keeps its value (R363, R368). (DEDUCED, log 38.) -/
def dropSome (bs : List Nat) (gone : Nat × Nat → Bool) (k : Core) : Core :=
  let named := weirsOf (k.sluice.filter (fun c => bs.contains c.blk))
  let others := weirsOf (k.sluice.filter (fun c => !bs.contains c.blk))
  { k with sluice := k.sluice.filter (fun c => !bs.contains c.blk) }.freeWeirs (fun n =>
    !others.contains n && (named.contains n || (match tget k.weirBy n with | some o => gone o | none => false)))

/-- Commands that end with their blocks; and, at a kill or a save, with the slots that their warps have set (R235, R461). -/
def dropQueue (bs : List Nat) (k : Core) : Core := dropSome bs (fun _ => false) k
def dropCmds (bs : List Nat) (k : Core) : Core := dropSome bs (fun o => bs.contains o.2) k

/-- The weir slots of a kernel return to UNSET when it ends (R2, R235). -/
def endWeirs (s : State) (lid : Nat) : State :=
  (tkeys s.cores).foldl (fun s c => s.modCore c (fun k =>
    k.freeWeirs (fun n => match tget k.weirBy n with | some o => decide (o.1 = lid) | none => false))) s

/-- Resumed commands enter the queue of a core as far as it has room, block by block (R360, R364). (DEDUCED, log 98.) -/
def refill (s : State) (core : Nat) : State :=
  (s.blocks.filter (fun p => decide (p.2.core = core) && !p.2.savedCmds.isEmpty && s.placed p.1)).foldl (fun s p =>
    let room := 64 - (s.core core).queueLen
    (s.modCore core (fun k => { k with sluice := k.sluice ++ p.2.savedCmds.take room })).modBlock p.1 (fun b =>
      { b with savedCmds := p.2.savedCmds.drop room })) s

/-! ### Resume (R459, R437, R364) -/

/-- The accumulator rows of a block stand under a number of their own while it is saved. -/
def savedRow (b half row col : Nat) : Nat := ((4096 + 2 * b + half) * 2048 + row) * 64 + col

/-- The saved rows of a block brought back to a window. -/
def restoreRows (s : State) (b twin base : Nat) : State :=
  let mine := s.acc.filter (fun p => decide (p.1 / 64 / 2048 / 2 = 2048 + b))
  let s := { s with acc := s.acc.filter (fun p => !decide (p.1 / 64 / 2048 / 2 = 2048 + b)) }
  { s with acc := mine.foldl (fun m p =>
      tputD m (((2 * twin + p.1 / 64 / 2048 % 2) * 2048 + base + p.1 / 64 % 2048) * 64 + p.1 % 64) 0 p.2) s.acc }

/-- The entry that a split of a warp has after its shared entries were given new numbers. -/
def entryAfter (m : List (Nat × Nat)) (e : Nat) : Nat :=
  match m.find? (fun p => decide (p.1 = e)) with
  | some p => p.2
  | none => e

/-- A saved warp put on a core and slot: nominal distances restart (R67), a YIELD in force ends, and its splits take free entries of the
core's braid table, under which its raft's operations know them; none where the table is short of them (R246). (DEDUCED, log 66.) -/
def wakeWarp (s : State) (w core slot homeSlot : Nat) : Option State :=
  match tget s.warps w with
  | none => some s
  | some wp =>
    let old := (wp.splits.map (·.ent)).filter (fun e => decide (1 ≤ e) && decide (e ≤ 64))
    let free := freeEntries s core
    if free.length < old.length then none
    else
      let m := old.zip free
      let member (x : Member) : Member := if x.warp = w then { x with ent := entryAfter m x.ent } else x
      let raft (r : Raft) : Raft := { r with joiners := r.joiners.map member, ops := r.ops.map (fun o => { o with issued := o.issued.map member }) }
      let s := match wp.raft with | some rid => s.modRaft rid raft | none => s
      some (s.modWarp w (fun wp =>
        { wp with core := core, slot := slot, homeSlot := homeSlot,
                  splits := wp.splits.map (fun sp => { sp with ent := entryAfter m sp.ent, nd := 0, next := s.now, yield := none }),
                  serving := wp.serving.map (entryAfter m), traps := wp.traps.map (fun x => { x with ent := entryAfter m x.ent }) }))

/-- Warps put on slots of a core one after another. -/
def wakeWarps (core : Nat) : List ((Nat × Warp) × Nat × Nat) → State → Option State
  | [], s => some s
  | (p, slot, home) :: r, s => (wakeWarp s p.1 core slot home).bind (wakeWarps core r)

/-- The warps of a block that go to its core's kind, in warp order, each with the slot that it takes of the block's slots; and the slots of
no live warp. An extended set keeps every warp's place (R293, R433); without one the live warps take the first slots. -/
def wakeSlots (xs : Bool) (here : List (Nat × Warp)) (ws : List (Nat × Warp)) (slots : List Nat) : List ((Nat × Warp) × Nat) × List Nat :=
  if xs then (here.map (fun p => (p, slots.getD p.2.idx 0)),
              (slots.zipIdx.filter (fun q => !ws.any (fun p => decide (p.2.idx = q.2)))).map (·.1))
  else (here.zip slots, slots.drop here.length)

/-- The saved weir slots of a block on its new core (R364, R368): a slot that a saved command names acts on its saved value, or is UNSET.
(DEDUCED, log 38.) -/
def wakeWeirs (lid bid : Nat) (b : Block) (k : Core) : Core :=
  let named := weirsOf b.savedCmds
  (b.savedWeirs.filter (fun p => decide (p.1 < 32))).foldl (fun k p => k.setWeir p.1 p.2 lid bid) (k.freeWeirs named.contains)

/-- Those of the other kind of core, on the Riffle core where the block's Riffle warps go on (R235, R437). -/
def wakeAway (lid bid : Nat) (b : Block) (k : Core) : Core :=
  (b.savedWeirs.filter (fun p => decide (32 ≤ p.1))).foldl (fun k p => k.setWeir (p.1 - 32) p.2 lid bid) k

/-- A saved block put on a core: its Reach warps on the core, its Riffle warps on the cluster's Riffle core (R437). `ws` are its live
warps as they were saved. -/
def wakeBlock (s : State) (lid bid : Nat) (b : Block) (ws : List (Nat × Warp)) (core : Nat) (l : Launch) (world : Bool) : Option State :=
  let r := l.record
  let here := ws.filter (fun p => decide (isRiffle p.2.core = isRiffle core))
  let away := ws.filter (fun p => decide (isRiffle p.2.core ≠ isRiffle core))
  let rc := 2048 + clusterOf core
  let xs := r.xs && !isRiffle core
  if b.wset.isSome && !coreEmpty s core b.gang then none
  else
    match fitBlock s core (if xs then blockWarps r else blockWarps r - away.length - b.gone) l.asid world r with
    | none => none
    | some spot =>
      let s1 := reprimeCore s core lid
      let s1 := if isRiffle core then s1 else clearRows (passTwin s1 (core / 2) l.asid) (core / 2) spot.acc r.accr
      let s1 := restoreRows s1 bid (core / 2) spot.acc
      let (home, spent) := wakeSlots xs here ws spot.slots
      let s1 := s1.modBlock bid (fun b => { b with core := core, accBase := spot.acc, scrBase := spot.scr, spent := spent, savedWeirs := [] })
      let s1 := refill (s1.modCore core (wakeWeirs lid bid b)) core
      match wakeWarps core (home.map (fun p => (p.1, p.2, p.2))) s1 with
      | none => none
      | some s2 =>
        if away = [] then some s2
        else if (s2.core rc).stopped ∨ regsLimit rc < regsUsed s2 rc + away.length * allocOf r true ∨ !worldOk s2 rc world l.asid then none
        else
          match pickSlots rc r.lane (fun sub => laneLimit rc - laneUsed s2 rc sub) away.length (slotsUsed s2 rc) [] with
          | none => none
          | some rs => wakeWarps rc ((away.zip rs).map (fun p =>
              (p.1, p.2, if xs then spot.slots.getD p.1.2.idx 0 else p.1.2.homeSlot))) (reprimeCore (s2.modCore rc (wakeAway lid bid b)) rc lid)

/-- The blocks of a saved gang, in index order, each with its live warps as they were saved. -/
def wakeBlocks (lid : Nat) (l : Launch) (world : Bool) (core first : Nat) : List (Nat × Block × List (Nat × Warp)) → State → Option State
  | [], s => some s
  | (bid, b, ws) :: r, s =>
    match wakeBlock s lid bid b ws (core + (b.index - first)) l world with
    | none => none
    | some s => wakeBlocks lid l world core first r s

/-- A number that no core has: where the blocks and warps of a gang stand while it is being placed. -/
def noCore : Nat := 2 ^ 20

/-! ### What a gang's place comes to -/

/-- A gang that is to be placed: the next one of its launch, a killed one anew under its number, or a saved one (R295, R358, R459). -/
inductive Coming where
  | fresh (gi : Nat)
  | anew (gid : Nat) (g : Gang)
  | saved (gid : Nat)

/-- The first block index of a gang that comes. -/
def Coming.first (s : State) (l : Launch) (x : Coming) : Nat :=
  match x with
  | .fresh gi => firstIndex (rankIn s l) l.record gi
  | .anew _ g => firstIndex (rankIn s l) l.record g.index
  | .saved gid => ((s.blocksOfGang gid).map (fun p => p.2.index)).foldl min (2 ^ 64)

/-- A new gang's entry. -/
def newGang (lid gi core now kills : Nat) (again : SMap (SMap DWord)) : Gang :=
  { launch := lid, index := gi, core := core, state := .running, kills := kills, ended := 0, placed := now, restore := false,
    fault := none, awaits := [], again := again, slices := [] }

/-- A gang that comes to a core's cluster, before it has its slices and its blocks their places: its number, and the state. A saved one is
RESUMING, and its blocks and warps stand nowhere. -/
def enterGang (s : State) (lid core : Nat) (x : Coming) : Nat × State :=
  match x with
  | .fresh gi => (s.uid, { s with uid := s.uid + 1, gangs := tput s.gangs s.uid (newGang lid gi core s.now 0 []) })
  | .anew gid g => (gid, { s with uid := s.uid + 1, gangs := tput s.gangs gid (newGang lid g.index core s.now g.kills g.again) })
  | .saved gid =>
    let names := (s.blocksOfGang gid).map (·.1)
    (gid, { s.modGang gid (fun x => { x with core := core, state := .resuming, placed := s.now, slices := [] }) with
      blocks := s.blocks.map (fun p => if names.contains p.1 then (p.1, { p.2 with core := noCore }) else p),
      warps := s.warps.map (fun p => if names.contains p.2.blk then (p.1, { p.2 with core := noCore, landing := none }) else p) })

/-- The way counts of the cores that a gang comes to while they are empty: its blocks' and, where it has cluster memory, those of its cluster,
on which a slice counts as a block of the gang (R320, R321). (DEDUCED, log 99.) -/
def gangWays (s : State) (r : Record) (gid core : Nat) : State :=
  if r.clm = 0 ∨ riffleOnly r = true then s
  else (upto 16).foldl (fun s i => takeWays s (16 * clusterOf core + i) gid r none) s

/-- The blocks of a gang whose slices stand, started or woken from a core; `s0` is the state before it came. -/
def seatGang (s0 s : State) (lid : Nat) (l : Launch) (world : Bool) (x : Coming) (gid core : Nat) : Option State :=
  let r := l.record
  let s := s.modGang gid (fun g => { g with core := core })
  match x with
  | .saved _ =>
    let bs := (s0.blocksOfGang gid).map (fun p => (p.1, p.2, s0.warpsOfBlock p.1))
    let first := x.first s0 l
    let s := bs.foldl (fun s p => takeWays s (core + (p.2.1.index - first)) gid r p.2.1.wset) s
    wakeBlocks lid l world core first bs s
  | _ =>
    let index := x.first s0 l
    let s := (upto (gangBlocks r)).foldl (fun s j => takeWays s (core + j) gid r none) s
    (startBlocks lid gid index l world (gangBlocks r) core s).map (fun s =>
      s.modLaunch lid (fun l => { l with homes := homesWith l index core }))

/-- A gang placed on the cores from one on, its slices before its blocks (R295, R320, R459); none where it does not fit. -/
def placeAt (s : State) (lid : Nat) (l : Launch) (world : Bool) (x : Coming) (core : Nat) : Option State :=
  if !homeOk l (x.first s l) core then none
  else
    let (gid, s1) := enterGang s lid core x
    (placeSlices (gangWays s1 l.record gid core) gid core l.record).bind (fun s2 => seatGang s s2 lid l world x gid core)

/-- The cores from which a gang of `n` blocks may stand (R295), in one cluster or in all. -/
def basesOf (r : Record) : List Nat :=
  if riffleOnly r then (upto 128).map (· + 2048)
  else
    let n := gangBlocks r
    (upto 2048).filter (fun c => (decide (n = 1) || decide (c % 2 = 0)) && decide (c % 16 + n ≤ 16))

/-- Whether a cluster admits a gang of a class and queue (R454). -/
def admits (s : State) (cluster queue cls : Nat) : Bool :=
  decide (cls = 0) ||
  ((match tget s.flioc.reserve cluster with | some q => decide (q = queue) | none => true) &&
   (match s.flioc.whole with | some q => decide (q = queue) | none => true))

/-- The places where a gang fits, freely chosen among. -/
def placeGang (s : State) (lid : Nat) (l : Launch) (world : Bool) (x : Coming) : Option State :=
  let fits := (basesOf l.record).filterMap (fun c =>
    if admits s (clusterOf c) l.queue l.record.cls then placeAt s lid l world x c else none)
  fits[Config.freePick s.free 10 % fits.length]?

/-! ### Resident launches (R303) -/

/-- The cores of a cluster from which a gang may stand. -/
def basesIn (r : Record) (cl : Nat) : List Nat := (basesOf r).filter (fun c => decide (clusterOf c = cl))

/-- A core of a cluster's kind for a record. -/
def coreIn (r : Record) (cl : Nat) : Nat := if riffleOnly r then 2048 + cl else 16 * cl

/-- Several gangs that enter a cluster. -/
def enterAll (lid core : Nat) : List Coming → State → List (Coming × Nat) × State
  | [], s => ([], s)
  | x :: r, s =>
    let (gid, s) := enterGang s lid core x
    let (l, s) := enterAll lid core r s
    ((x, gid) :: l, s)

/-- Several gangs of a launch placed in a cluster together: all their slices first, then each one's blocks at the first place that takes them. -/
def seatAll (s0 : State) (lid : Nat) (l : Launch) (world : Bool) (cl : Nat) (xs : List Coming) : Option State :=
  if xs = [] then some s0
  else if !admits s0 cl l.queue l.record.cls then none
  else
    let core := coreIn l.record cl
    let (gs, s) := enterAll lid core xs s0
    let s := gangWays s l.record 0 core
    let s := gs.foldl (fun (o : Option State) g => o.bind (fun s => placeSlices s g.2 core l.record)) (some s)
    gs.foldl (fun (o : Option State) g => o.bind (fun s =>
      (basesIn l.record cl).findSome? (fun c => seatGang s0 s lid l world g.1 g.2 c))) s

/-- How many new gangs of a launch, at most `k + n`, a cluster takes in a state, wherever the launch's instances run. -/
def clusterRoom (s : State) (lid : Nat) (l : Launch) (world : Bool) (cl : Nat) : Nat → Nat → Nat
  | 0, k => k
  | n + 1, k =>
    if (seatAll s lid l world cl ((upto (k + 1)).map Coming.fresh)).isSome then clusterRoom s lid l world cl n (k + 1) else k

/-- Gangs of one instance of a level bound to a domain; one where the launch has no such level. -/
def instanceGangs (r : Record) (dom : Nat) : Nat :=
  if hasLevel r dom then lvlSize r (lvlCount r dom - 1) / blockThreads r / gangBlocks r else 1

/-- The clusters in which the next gang of a resident launch may start so that every gang has room: the home of its instances, or a cluster
with room for a whole CLUSTER instance in a die with room for a whole DIE instance. `room` is by cluster. -/
def residentHomes (l : Launch) (room : List Nat) (index : Nat) : List Nat :=
  let m := instanceGangs l.record 4
  let fresh (dom : Nat) : Bool :=
    (instancesOf l.record index).all (fun p => decide (p.1 ≠ dom) || !(l.homes.any (fun h => decide (h.1 = dom) && decide (h.2.1 = p.2))))
  let instances (d : Nat) : Nat := ((upto 16).map (fun i => room.getD (16 * d + i) 0 / m)).sum
  (upto 128).filter (fun cl =>
    (!(fresh 4) || decide (m ≤ room.getD cl 0)) &&
    (!(fresh 5) || decide (max 1 (instanceGangs l.record 5 / m) ≤ instances (cl / 16))))

/-- A cluster for each gang of a list, by first block index: one with room left, where its instances may run. -/
def assignGangs (l : Launch) : List Nat → List Nat → Option (List Nat)
  | [], _ => some []
  | index :: r, room =>
    match (residentHomes l room index).find? (fun cl => decide (0 < room.getD cl 0) && homeOk l index (coreIn l.record cl)) with
    | none => none
    | some cl =>
      (assignGangs { l with homes := homesWith l index (coreIn l.record cl) } r (setAt room cl (· - 1))).map (cl :: ·)

/-- Every gang of a list placed in one decision, or none (R303). -/
def placeAll (s : State) (lid : Nat) (l : Launch) (world : Bool) (xs : List Coming) : Option State :=
  let room := (upto 128).map (fun cl => clusterRoom s lid l world cl xs.length 0)
  match assignGangs l (xs.map (fun x => x.first s l)) room with
  | none => none
  | some cls =>
    (upto 128).foldl (fun (o : Option State) cl => o.bind (fun s =>
      seatAll s lid l world cl ((xs.zip cls).filterMap (fun p => if p.2 = cl then some p.1 else none)))) (some s)

/-! ### An empty device (R443, R303) -/

/-- The device without any gang. -/
def emptied (s : State) : State :=
  { s with gangs := [], blocks := [], warps := [], rafts := [], flioc := { s.flioc with reserve := [], whole := none },
           cores := [], twins := [] }

/-- Whether so many gangs of a resident launch fit on an empty device whose every cluster takes `room` of them (R290, R303). -/
def deviceHolds (r : Record) (room gangs : Nat) : Bool :=
  let m := instanceGangs r 4
  let perDie := 16 * (room / m)
  let die := max 1 (instanceGangs r 5 / m)
  decide (gangs ≤ 8 * (perDie / die * die) * m)

/-- Whether one gang of a launch fits on an empty cluster, and all of a resident launch on an empty device. -/
def fitsEmpty (s : State) (l : Launch) (world : Bool) : Bool :=
  let lid := s.uid
  let s := { emptied s with launches := tput s.launches lid l, uid := s.uid + 1 }
  (seatAll s lid l world 0 [.fresh 0]).isSome &&
  (!l.record.res || deviceHolds l.record (clusterRoom s lid l world 0 (localGangs l.record) 0) (localGangs l.record))

end Sys2Proof.Machine
end

