-- ==== Sys2Proof/Machine/Flioc.lean ====
section
/-! DEFINITION. Launch records and queues (R441 to R446, R511), the task graph (R455, R456), and LAUNCH: opcode 0xE8 (R281). -/
namespace Sys2Proof.Machine
open Sys2Proof

/-! ### Records -/

/-- The fields of a launch record (R441). -/
def parseRecord (bs : List Byte) : Record :=
  let w (o n : Nat) : Nat := ofBytes ((bs.drop o).take n)
  let fl := w 0x78 4
  let q := w 0x7C 4
  { entr := w 0 8, entf := w 8 8, levels := (upto 8).map (fun k => BitVec.ofNat 32 (w (0x10 + 4 * k) 4)), param := w 0x30 8,
    code := w 0x38 8 % 2 ^ 52, clen := w 0x40 4, cgen := BitVec.ofNat 32 (w 0x44 4), ptab := w 0x48 8, ftab := w 0x50 8, succ := w 0x58 8,
    regr := w 0x60 2, regf := w 0x62 2, lane := w 0x64 2, accr := w 0x66 2, scr := w 0x68 4, scrs := w 0x6C 4, clm := w 0x70 4,
    clms := w 0x74 4, nbar := fl % 32, nfl := fl / 32 % 32, ways := fl / 1024 % 16, xs := fl / 2 ^ 14 % 2 == 1,
    res := fl / 2 ^ 15 % 2 == 1, idem := fl / 2 ^ 16 % 2 == 1, wset := fl / 2 ^ 17 % 2 == 1, wld := fl / 2 ^ 18 % 2 == 1,
    dcnt := q % 65536, queue := q / 65536 % 8192, cls := q / 2 ^ 29,
    reserved := decide (w 0x38 8 / 2 ^ 52 ≠ 0) || decide (fl / 2 ^ 19 ≠ 0) }

/-- Whether the level entries obey R287 and R289. -/
def levelsOk (r : Record) : Bool :=
  let ls := r.levels'
  let n := ls.length
  let lvl (k : Nat) : BitVec 32 := ls.getD k 0
  (r.levels.drop (n + 1)).all (fun v => decide (v = 0)) &&
  (r.levels.take (n + 1)).all (fun v => decide (v.extractLsb' 30 2 = 0) && decide (lvlScope v ≠ 7)) &&
  decide (0 < n) && decide (lvlDom (lvl 0) = 0) &&
  (upto (n - 1)).all (fun k => decide (lvlDom (lvl k) ≤ lvlDom (lvl (k + 1)))) &&
  (upto n).all (fun k =>
    let d := lvlDom (lvl k)
    let m := lvlSize r k
    (decide (d ≠ 0) || decide (m = 1)) && (decide (d ≠ 1) || [1, 2, 4, 8, 16, 32].contains m) &&
    decide ([0, 0, 1, 2, 3, 4, 5, 6].getD d 0 ≤ lvlScope (lvl k)) && (decide (d ≠ 7) || decide (k + 1 = n))) &&
  hasLevel r 2 &&
  decide (blockThreads r % 32 = 0) && decide (32 ≤ blockThreads r) && decide (blockThreads r ≤ 1024) && decide (gangBlocks r ≤ 16)

/-- Whether the fields of a record keep their limits (R441, R443), the flume table and the placement apart. -/
def fieldsOk (r : Record) : Bool :=
  let entry (e : Nat) : Bool := decide (e = 0) || (decide (e % 4 = 0) && decide (r.code ≤ e) && decide (e < r.code + r.clen))
  !r.reserved && levelsOk r && decide (r.entr ≠ 0 ∨ r.entf ≠ 0) && entry r.entr && entry r.entf &&
  decide (r.code % 32 = 0) && decide (r.clen ≠ 0) && decide (r.clen % 32 = 0) &&
  (decide (r.ptab = 0) || (decide (r.code ≤ r.ptab) && decide (r.ptab < r.code + r.clen))) &&
  (if r.entr = 0 then decide (r.regr = 0) else decide (16 ≤ r.regr) && decide (r.regr ≤ 512)) &&
  (if r.entf = 0 then decide (r.regf = 0) else decide (16 ≤ r.regf) && decide (r.regf ≤ 256)) &&
  decide (r.lane % 16 = 0) && decide (r.lane ≤ 1792) && decide (r.accr % 16 = 0) && decide (r.accr ≤ 2048) &&
  decide (r.scrs % 128 = 0) && decide (r.scrs ≤ r.scr) && decide (r.clms % 128 = 0) && decide (r.clms ≤ r.clm) &&
  decide (r.nbar ≤ 16) && decide (r.nfl ≤ 16) && (decide (r.nfl = 0) || decide (r.ftab ≠ 0)) &&
  decide (r.ways ≤ (if r.entr = 0 then 7 else 15)) &&
  (decide (r.entr ≠ 0) || (!r.xs && decide (r.accr = 0) && decide (gangBlocks r = 1))) && decide (r.cls ≤ 4)

/-- The flume table (R442): offset, element size and depth of each flume; none where it breaks its limits or cannot be read. -/
def readFlumes (s : State) (asid : Nat) (r : Record) : Option (List (Nat × Nat × Nat)) :=
  if r.nfl = 0 then some []
  else
    match ctxRead s asid r.ftab (8 * r.nfl) with
    | .error _ => none
    | .ok bs =>
      let es := (upto r.nfl).map (fun k =>
        let v := ofBytes ((bs.drop (8 * k)).take 8)
        (v % 2 ^ 32, v / 2 ^ 32 % 65536, v / 2 ^ 48))
      if es.all (fun e => decide (e.2.1 ≠ 0) && decide (e.2.1 % 4 = 0) && decide (1 ≤ e.2.2) && decide (e.1 + e.2.1 * e.2.2 ≤ r.scr))
      then some es else none

/-! ### Acceptance (R443, R444, R511) -/

/-- The bytes of a record. -/
def recordBytes (s : State) (asid addr : Nat) : Option (List Byte) :=
  if addr % 128 = 0 ∧ windowOf addr = some .glob then
    match ctxRead s asid addr 128 with
    | .ok bs => some bs
    | .error _ => none
  else none

/-- Whether a FABRIC record may be accepted here: on rank 0 of the queue's group, with an extent of N (R511). -/
def fabricOk (s : State) (qn : Nat) (r : Record) : Bool :=
  !isFabric r ||
  (match tget s.groups (s.queue qn).group with
   | some g => decide ((s.queue qn).group ≠ 0) && decide (g.rank = 0) && decide (lvlExt (r.levels'.getLastD 0) = g.n)
   | none => false)

/-- The launch that a record makes in a context on a queue; none where it is refused (R443). -/
def acceptRecord (s : State) (asid qn addr : Nat) (bs : List Byte) : Option Launch :=
  let r := parseRecord bs
  match tget s.ctxs asid, readFlumes s asid r with
  | some x, some fl =>
    let grp := if isFabric r then some (s.queue qn).group else none
    let l : Launch := { addr := addr, asid := asid, record := r, flumes := fl, queue := qn, state := .posted, nextGang := 0,
                        gangsEnded := 0, order := 2 ^ 64 + s.uid, batch := none, group := grp, aborted := false, homes := [], ran := [], code := [] }
    if fieldsOk r && decide (r.cls = (s.queue qn).cls) && fabricOk s qn r && fitsEmpty s l x.world then some l else none
  | _, _ => none

/-- A launch entered under a new number. -/
def addLaunch (s : State) (l : Launch) : State :=
  { s with uid := s.uid + 1, launches := tput s.launches s.uid { l with code := s.mem } }

/-! ### Ready queues (R448, R450) -/

/-- The launches of a queue that are ready, in their order. -/
def readyLaunches (s : State) (qn : Nat) : List (Nat × Launch) :=
  sortBy (fun p => p.2.order) (s.launches.filter (fun p => decide (p.2.queue = qn) && decide (p.2.state = .ready)))

/-- The gangs of a queue that wait to be placed again, in order. -/
def resumesOf (s : State) (qn : Nat) : List Nat :=
  s.flioc.resumes.filter (fun g =>
    match tget s.gangs g with
    | some x => (match tget s.launches x.launch with | some l => decide (l.queue = qn) | none => false)
    | none => false)

def queueReady (s : State) (qn : Nat) : Bool := !(readyLaunches s qn).isEmpty || !(resumesOf s qn).isEmpty

/-- The queues of a class that are ready. -/
def readyQueues (s : State) (cls : Nat) : List (Nat × Queue) :=
  s.queues.filter (fun p => decide (p.2.cls = cls) && queueReady s p.1)

/-- The virtual time of a class (R450): the lowest PASS among its ready queues, or where none is ready the PASS that the last queue served
held; it never decreases. -/
def classTime (s : State) (cls : Nat) : Nat :=
  match (s.queues.filter (fun p => decide (p.2.cls = cls) && p.2.wasReady)).map (fun p => p.2.pass) with
  | [] => max (s.flioc.vtime.getD cls 0) (s.flioc.last.getD cls 0)
  | p :: r => max (s.flioc.vtime.getD cls 0) (r.foldl min p)

/-- The virtual time that a class has reached is kept before its ready queues change. -/
def keepTime (s : State) (cls : Nat) : State :=
  { s with flioc := { s.flioc with vtime := setAt s.flioc.vtime cls (fun _ => classTime s cls) } }

/-- A queue that becomes ready takes at least its class's virtual time as its PASS (R450). -/
def noteReady (s : State) (qn : Nat) : State :=
  let q := s.queue qn
  let now := queueReady s qn
  if now = q.wasReady then s
  else (keepTime s q.cls).modQueue qn (fun x => { x with wasReady := now, pass := if now then max x.pass (classTime s q.cls) else x.pass })

/-- A launch whose DCNT is 0 enters its queue's ready order; one of a group first asks the members (R511). -/
def releaseLaunch (s : State) (lid : Nat) (first : Bool) : State :=
  match tget s.launches lid with
  | none => s
  | some l =>
    let st : LaunchState := if l.group.isSome then .asked else .ready
    noteReady ({ s with uid := s.uid + 1 }.modLaunch lid (fun l =>
      { l with state := st, order := if first then 2 ^ 64 - s.uid else l.order, code := s.mem })) l.queue

/-! ### The task graph (R455, R456) -/

/-- A 16-bit count at the home of an address, read and replaced undivided. -/
def countAt (s : State) (asid addr : Nat) : Option Nat :=
  match ctxRead s asid addr 2 with
  | .ok bs => some (ofBytes bs)
  | .error _ => none
def setCount (s : State) (asid addr v : Nat) : State :=
  match ctxStore s asid addr (toBytes 2 v) with
  | .ok s => s
  | .error _ => s

/-- The number under which a near-memory task of a context waits. -/
def taskKey (asid addr : Nat) : Nat := asid * 2 ^ 52 + addr
def holdTask (s : State) (asid addr : Nat) : State :=
  { s with flioc := { s.flioc with tasks := tput s.flioc.tasks (taskKey asid addr) asid } }
def dropTask (s : State) (asid addr : Nat) : State :=
  { s with flioc := { s.flioc with tasks := tdel s.flioc.tasks (taskKey asid addr) } }

/-- The entries of a successor list: 1 to 64 of them, their reserved bits 0 (R7, R455). (DEDUCED, log 59.) -/
def successors (s : State) (asid addr : Nat) : List Nat :=
  if addr = 0 ∨ addr % 8 ≠ 0 then []
  else
    match ctxRead s asid addr 8 with
    | .error _ => []
    | .ok bs =>
      let n := ofBytes bs
      if n = 0 ∨ 64 < n then []
      else
        match ctxRead s asid (addr + 8) (8 * n) with
        | .error _ => []
        | .ok bs =>
          let es := (upto n).map (fun k => ofBytes ((bs.drop (8 * k)).take 8))
          if es.all (fun e => decide (e / 2 % 32 = 0) && decide (e < 2 ^ 52)) then es else []

/-- The task address of an entry. -/
def entryAddr (e : Nat) : Nat := e / 64 * 64

/-- The near-memory tasks of a list that goes undecremented wait for the host (R455, R456). -/
def parkTasks (s : State) (asid succ : Nat) : State :=
  (successors s asid succ).foldl (fun s e => if e % 2 = 1 then holdTask s asid (entryAddr e) else s) s

/-- A near-memory task that has failed: DONE is written, the event is posted, and its successors wait (R456). -/
def failTask (s : State) (asid addr st : Nat) (r : BitVec 128) : State :=
  let s := match ctxStore s asid (addr + 0x20) (toBytes 16 r.toNat) with | .ok s => s | .error _ => s
  let s := match ctxRead s asid (addr + 8) 8 with | .ok bs => parkTasks s asid (ofBytes bs) | .error _ => s
  postEvent s 4 asid (toBytes 8 addr ++ toBytes 4 st)

/-- The rank of Flioc's sends: after every core's, before those for the Backwater engine (R468). -/
def fliocRank : Nat := 3000

/-- The command of a task record sent to its unit (R456), where it waits for room (R465); one whose ARG fails, or whose record has a nonzero reserved field (R7), is completed
at once. (DEDUCED, log 59.) -/
def sendTask (s : State) (asid addr : Nat) : State :=
  match ctxRead s asid addr 32, ctxAgent s asid, tget s.ctxs asid with
  | .ok bs, some x, some k =>
    let w : BitVec 128 := BitVec.ofNat 128 (ofBytes (bs.drop 16))
    if ofBytes ((bs.drop 2).take 6) ≠ 0 then failTask s asid addr 1 (nmRecord 1 (nmCode w) 0 0 0)
    else
      match nmTranslate s x w with
      | .unit u =>
        let c := nmNew (.task addr) fliocRank asid none false k.seed w
        if s.nmuFill u < 256 then nmEnqueue s u c else { s with flioc := { s.flioc with sends := s.flioc.sends ++ [(u, c)] } }
      | .now st d => failTask s asid addr st (nmRecord st (nmCode w) 0 0 (BitVec.ofNat 32 d))
  | _, _, _ => s

/-- One successor's count less one (R455). -/
def decrement (s : State) (asid : Nat) (entry : Nat) : State :=
  let addr := entryAddr entry
  let nm := decide (entry % 2 = 1)
  let at' := if nm then addr else addr + 0x7C
  match countAt s asid at' with
  | none => s
  | some 0 => postEvent s 3 asid (toBytes 8 addr)
  | some (n + 1) =>
    let s := setCount s asid at' n
    if nm then
      if n = 0 then sendTask (dropTask s asid addr) asid addr else holdTask s asid addr
    else if n = 0 then
      match s.launches.find? (fun p => decide (p.2.addr = addr) && decide (p.2.asid = asid) && decide (p.2.state = .stored)) with
      | some (lid, _) => releaseLaunch s lid true
      | none => s
    else s

/-- The successors of a task or launch that has ended well, decremented in list order. -/
def decrementAll (s : State) (asid succ : Nat) : State := (successors s asid succ).foldl (fun s e => decrement s asid e) s

/-! ### The end of a launch -/

/-- Memory, registers and saved accumulator rows of blocks, of their warps, and of a gang's cluster slices, no longer kept. -/
def sweep (s : State) (gid : Nat) (bs ws : List Nat) : State :=
  let dead (k : Nat) : Bool :=
    match k % 16 with
    | 4 => bs.contains (k / 16 / 2 ^ 52)
    | 5 => decide (k / 16 / 2 ^ 52 = gid)
    | 6 => ws.contains (k / 16 / 2 ^ 52 / 32)
    | 9 => ws.contains (k / 16 * 8 / 32 / 1024)
    | _ => false
  { s with mem := s.mem.filter (fun c => !dead c.1), side := s.side.filter (fun c => !dead c.1),
           poison := s.poison.filter (fun g => !dead (g / 2)), regs := s.regs.filter (fun c => !ws.contains (c.1 / 32 / 1024)),
           acc := s.acc.filter (fun c => !(decide (8192 ≤ c.1 / 64 / 2048 * 2) && bs.contains (c.1 / 64 / 2048 / 2 - 2048))) }

/-- A core whose last block has gone has its default ways again (R320). -/
def restCore (s : State) (core gid : Nat) : State :=
  if coreEmpty s core gid then s.modCore core (fun k => { k with ways := none }) else s

/-- The blocks of a gang gone, with their warps, rafts, commands, loads and operations in the arrays; the gang itself stays listed. -/
def clearGang (s : State) (gid : Nat) : State :=
  let bs := (s.blocksOfGang gid).map (·.1)
  let ws := (s.warpsOfGang gid).map (·.1)
  let cores := ((s.blocksOfGang gid).map (fun p => p.2.core) ++ (s.warpsOfGang gid).map (fun p => p.2.core)).eraseDups
  let rs := (s.rafts.filter (fun p => decide (p.2.gang = gid))).map (·.1)
  let s := sweep (bs.foldl flushHealth s) gid bs ws
  let s := { s with blocks := s.blocks.filter (fun p => !bs.contains p.1), warps := s.warps.filter (fun p => !bs.contains p.2.blk),
                    rafts := s.rafts.filter (fun p => !rs.contains p.1) }
  let s := (tkeys s.twins).foldl (fun s t => s.modTwin t (fun x =>
    { x with ops := x.ops.filter (fun o => !rs.contains o.raft), line := x.line.filter (fun p => !rs.contains p.1),
             loads := x.loads.filter (fun l => !bs.contains l.blk) })) s
  cores.foldl (fun s c =>
    restCore (s.modCore c (fun k =>
      { dropQueue bs k with latch := k.latch.map (fun p => (p.1, p.2.filter (fun l => !ws.contains l.warp))) })) c gid) s

/-- The end of a launch by retirement is a release at .dev (R330, R455): what the cores on which it ran hold dirty in their L1s reaches its
home. -/
def publishEnd (s : State) (l : Launch) : State := l.ran.foldl writeBackAll s

/-- A launch that has ended by retirement: its writes are released, its weir slots UNSET, and its successors decremented (R235, R455). A Backwater launch says so
to its batch. -/
def retireLaunch (s : State) (lid : Nat) : State :=
  match tget s.launches lid with
  | none => s
  | some l =>
    let s := publishEnd ((endWeirs s lid).modLaunch lid (fun l => { l with state := .ended })) l
    noteReady (decrementAll s l.asid l.record.succ) l.queue

/-! ### Posts (R446) -/

/-- What a post by LAUNCH comes to. -/
inductive Posted where
  | status (v : Nat) (s : State)
  | await (lid : Nat) (s : State)

/-- LAUNCH's post: permission, room, acceptance, then the ring (R281, R443, R446). A group launch waits for its members (R511).
(DEDUCED, log 47.) -/
def postLaunch (s : State) (asid : Nat) (world : Bool) (addr : Nat) : Posted :=
  match recordBytes s asid addr with
  | none => .status 2 s
  | some bs =>
    let r := parseRecord bs
    let q := s.queue r.queue
    if !q.bound ∨ q.item ∨ q.asid ≠ asid ∨ isBackwater r.queue ∨ (r.wld ∧ !world) then .status 3 s
    else if q.depth ≤ q.fill then .status 1 s
    else
      match acceptRecord s asid r.queue addr bs with
      | none => .status 2 s
      | some l =>
        match ringWrite s r.queue q.tail (BitVec.ofNat 64 addr) with
        | .error _ => .status 2 s
        | .ok s1 =>
          let s1 := (addLaunch s1 l).modQueue r.queue (fun q => { q with tail := q.tail + 1 })
          if l.group.isSome then .await s.uid s1 else .status 0 s1

/-- LAUNCH (R281). -/
def execLaunch (f : Fr) (d a : Reg) (s : State) : Out :=
  issue f (nameD d (reg2 a) none none) none noEarly (fun c st =>
    let give (v : Nat) (s : State) : Body := .done (finishFlight c f (c.outs [(d.toNat, fun _ => BitVec.ofNat 32 v)]) .access s)
    if c.act = 0 then .done (finishFlight c f [] .minimum st)
    else if c.split.arrived then
      match tget c.pre.launches c.split.phase.num with
      | none => give 2 st
      | some l => if l.state = .posted ∨ l.state = .stored ∨ l.state = .asked then .waits true c.split.phase c.pre else give 0 st
    else
      let addr := (c.reg2 a.toNat (lowest c.act)).toNat
      match postLaunch (releaseAt c 5 st) c.asid c.ctx.world addr with
      | .status v s => give v s
      | .await lid _ =>
        match postLaunch (releaseAt c 5 c.pre) c.asid c.ctx.world addr with
        | .await _ s => .waits true (.launch lid) s
        | .status v _ => give v st) s

/-- QUEUE_ENTRY_TAKEN (R446): the next entry of a launch queue comes to the head. It stands there until its launch is placed, or
moves to the task store while its DCNT is not 0. A host's record is accepted here; one that is refused leaves the ring. -/
def execQueueEntryTaken (qn : Nat) (s : State) : Out :=
  let q := s.queue qn
  if !q.bound ∨ q.item ∨ q.fill = 0 ∨
     s.launches.any (fun p => decide (p.2.queue = qn) && (decide (p.2.state = .ready) || decide (p.2.state = .asked))) = true then
    .refused .notEnabled
  else
    let s1 := s.modQueue qn (fun q => { q with head := q.head + 1 })
    match ringRead s qn q.head with
    | .error k => .next (slotEvent s1 qn q.head k)
    | .ok v =>
      let addr := v.toNat
      let go (s : State) (lid : Nat) (l : Launch) : Out :=
        let n := (countAt s l.asid (addr + 0x7C)).getD l.record.dcnt
        if n = 0 then .next (releaseLaunch s lid false)
        else .next (s.modLaunch lid (fun l => { l with state := .stored }))
      match s1.launches.find? (fun p => decide (p.2.queue = qn) && decide (p.2.addr = addr) && decide (p.2.state = .posted)) with
      | some (lid, l) => go s1 lid l
      | none =>
        match recordBytes s1 q.asid addr with
        | none => .next s1
        | some bs =>
          let r := parseRecord bs
          let world := match tget s1.ctxs q.asid with | some x => x.world | none => false
          if r.queue ≠ qn ∨ (r.wld ∧ !world) then .next s1
          else
            match acceptRecord s1 q.asid qn addr bs with
            | none => .next s1
            | some l => go (addLaunch s1 l) s1.uid l

/-! ### Launch groups (R511) -/

/-- LAUNCH_PACKET_ANSWER: every member has accepted, or some member has refused and the launch is dropped. -/
def execLaunchPacketAnswer (lid : Nat) (accepted : Bool) (s : State) : Out :=
  match tget s.launches lid with
  | none => .refused .notEnabled
  | some l =>
    if l.state ≠ .asked then .refused .notEnabled
    else if accepted then .next (noteReady (s.modLaunch lid (fun l => { l with state := .ready })) l.queue)
    else .next { s with launches := tdel s.launches lid }

/-- LAUNCH_PACKET (R511, R512): a member takes the packet into the same queue of its own context, or drops it. The launch waits for
rank 0's answer, the start barrier. -/
def execLaunchPacket (group : Nat) (gen : Word) (qn : Nat) (bs : List Byte) (s : State) : Out :=
  match tget s.groups group with
  | none => .refused .notEnabled
  | some g =>
    if gen.toNat ≠ g.gen then
      .next (postEvent s 2 0 (toBytes 4 group ++ toBytes 4 gen.toNat ++ toBytes 4 g.gen))
    else
      let q := s.queue qn
      let r := parseRecord bs
      match tget s.ctxs q.asid, readFlumes s q.asid r with
      | some x, some fl =>
        let l : Launch := { addr := 0, asid := q.asid, record := { r with dcnt := 0 }, flumes := fl, queue := qn, state := .asked, nextGang := 0,
                            gangsEnded := 0, order := 2 ^ 64 + s.uid, batch := none, group := some group, aborted := false, homes := [],
                            ran := [], code := [] }
        if q.bound && !q.item && decide (q.group = group) && fieldsOk r && isFabric r && decide (r.cls = q.cls) && (!r.wld || x.world) &&
           fitsEmpty s l x.world then .next (addLaunch s l)
        else .next s
      | _, _ => .next s

end Sys2Proof.Machine
end

