-- ==== Sys2Proof/Machine/Shapes.lean ====
section
/-! DEFINITION. The engines' side of memory: their translations (R354, R355), shape records (R348 to R353, R356, R357), and the
elements, blocks and scales that records and runs describe. -/
namespace Sys2Proof.Machine
open Sys2Proof

/-- An engine acting for a block: context, world, privilege, the block's windows, its cluster, and the core whose L1 serves it
where that holds the line (R323, R335); the array and BSLOAD read at the home, and so do the commands of a migrated warp (R339);
the failures that its walkers found ahead of what it transfers (R355). (DEDUCED, log 81.) -/
structure Eng where
  asid : Nat
  world : Bool
  troot : Nat
  priv : Bool
  blk : Nat
  blkCore : Nat
  gang : Nat
  lrec : Record
  cluster : Nat
  l1 : Option Nat
  held : List Held := []

/-- How an engine's access fails: a scaled end where no scales are, which STOPs a sluice command (R361); an operand-fetch fault
with its original cause and address (R355). -/
inductive EngErr where
  | stop (va : Nat)
  | fault (cause va : Nat)
  deriving DecidableEq, Repr

abbrev EngM := Except EngErr

def Eng.agent (e : Eng) (s : State) : Agent :=
  { asid := e.asid, world := e.world, troot := e.troot, priv := e.priv, tlb := (s.cluster e.cluster).tlb }

/-- The engine of a block that is resident: none where a table misses. -/
def engOf (s : State) (blk : Nat) (priv : Bool) (core : Nat) (l1 : Bool) : Option Eng :=
  match tget s.blocks blk with
  | none => none
  | some b =>
    match tget s.gangs b.gang with
    | none => none
    | some g =>
      match tget s.launches g.launch with
      | none => none
      | some l =>
        match tget s.ctxs l.asid with
        | none => none
        | some x => some { asid := l.asid, world := x.world, troot := x.troot, priv := priv, blk := blk, blkCore := b.core,
                           gang := b.gang, lrec := l.record, cluster := clusterOf core, l1 := if l1 && decide (b.core = core) then some core else none }

/-- The cause of the failure that is held for an access of an engine (R355). -/
def Eng.heldAt (e : Eng) (need : Need) (va : Nat) : Option Nat :=
  (e.held.find? (fun x => x.write == decide (need = .write) && decide (x.page = va / 65536))).map (·.cause)

/-- An address as an engine translates it: a failure found ahead is raised when the transfer reaches its page (R355). -/
def engLeaf (s : State) (e : Eng) (need : Need) (va : Nat) : Except Nat TlbEntry :=
  match e.heldAt need va with
  | some k => .error k
  | none => translate s (e.agent s) va need

/-- An engine's access of `size` bytes within one line (R355). (DEDUCED, log 26.) -/
def engAcc (s : State) (e : Eng) (need : Need) (scaled : Bool) (va size : Nat) : EngM Acc :=
  let inside (limit part : Nat) (loc : Nat → Loc) : EngM Acc :=
    let off := va % 2 ^ 32
    if limit < off + size then .error (.fault 0x09 va)
    else if scaled ∧ part < off + size then .error (.stop va)
    else
      let a : Acc := ⟨0, va, size, loc off, false, none⟩
      if need ≠ .write && readsPoison s a scaled false then .error (.fault 0x40 va) else .ok a
  match windowOf va with
  | some .lane => .error (.fault 0x09 va)
  | some .core => inside (scratchBytes s e.blk e.lrec) e.lrec.scrs (Loc.scratch e.blk)
  | some .clus => inside (clusterBytes e.lrec) e.lrec.clms (Loc.clus e.gang)
  | win =>
    match engLeaf s e need va with
    | .error k => .error (.fault k va)
    | .ok p =>
      if scaled && !p.scaled then .error (.stop va)
      else
        let loc := p.loc va
        let cached := match e.l1 with
          | some c => decide (win = some .glob) && !p.ordered && s.inL1 c loc
          | none => false
        let a : Acc := ⟨0, va, size, loc, cached, some p⟩
        if scaled && peerRefuses loc then .error (.fault 0x20 va)
        else if (!cached && s.linkDown loc) || (need ≠ .write && readsPoison s a scaled cached) then .error (.fault 0x40 va) else .ok a

/-- Bytes within one line as they stand, for a write that replaces only some of their bits. -/
def engOld (s : State) (e : Eng) (scaled : Bool) (va size : Nat) : EngM (List Byte) :=
  match engAcc s e .write scaled va size with
  | .error k => .error k
  | .ok a => .ok (match e.l1 with | some c => (loadBytes s c e.asid a .nc).2 | none => s.bytes a.loc size)

/-- The leaf of an address that an engine translates enters the cluster's TLB (R354). -/
def noteEng (e : Eng) (s : State) (va : Nat) : State :=
  if windowOf va ≠ some .glob ∧ windowOf va ≠ some .est then s
  else if (e.agent s).tlb.any (·.covers (e.agent s) va) then s
  else
    match leafAt s (e.agent s) va with
    | some p => s.modCluster e.cluster (fun k => { k with tlb := tlbAdd 4096 s.free k.tlb p })
    | none => s
def noteAll (s : State) (e : Eng) (vas : List Nat) : State := vas.foldl (noteEng e) s

/-- The walkers go ahead of a transfer's pages (R355): which of them they reach before the transfer does is a free choice. A leaf enters
the TLB; a failure is held, and no page table changes. (DEDUCED, log 82.) -/
def lookAhead (e : Eng) (write : Bool) (vas : List Nat) (s : State) : State × List Held :=
  vas.foldl (fun (p : State × List Held) va =>
    if windowOf va ≠ some .glob ∧ windowOf va ≠ some .est then p
    else if !Config.freeBit s.free (va / 65536) then p
    else
      match translate p.1 (e.agent p.1) va (if write then .write else .read) with
      | .ok _ => (noteEng e p.1 va, p.2)
      | .error k => (p.1, p.2 ++ [⟨write, va / 65536, k⟩])) (s, [])

/-- An address in each 64 KiB that a span reaches. -/
def pagesOf (va n : Nat) : List Nat := (upto ((va + n - 1) / 65536 - va / 65536 + 1)).map (fun i => if i = 0 then va else va / 65536 * 65536 + 65536 * i)

/-- Bytes read within one line: from the L1 that holds it, otherwise at the home. -/
def engRead (s : State) (e : Eng) (scaled : Bool) (va size : Nat) : EngM (List Byte) :=
  match engAcc s e .read scaled va size with
  | .error k => .error k
  | .ok a => .ok (match e.l1 with | some c => (loadBytes s c e.asid a .nc).2 | none => s.bytes a.loc size)

/-- Bytes of a span, line by line, of a scaled end or not; `n` bounds the lines. -/
def engSpanOf (s : State) (e : Eng) (scaled : Bool) : Nat → Nat → Nat → EngM (List Byte)
  | 0, _, _ => .ok []
  | fuel + 1, va, size =>
    if size = 0 then .ok []
    else
      let k := min size (128 - va % 128)
      match engRead s e scaled va k with
      | .error x => .error x
      | .ok bs =>
        match engSpanOf s e scaled fuel (va + k) (size - k) with
        | .error x => .error x
        | .ok r => .ok (bs ++ r)
def engSpan (s : State) (e : Eng) (fuel va size : Nat) : EngM (List Byte) := engSpanOf s e false fuel va size

/-- Bytes written within one line. -/
def engWrite (s : State) (e : Eng) (scaled : Bool) (va : Nat) (bs : List Byte) : EngM State :=
  match engAcc s e .write scaled va bs.length with
  | .error k => .error k
  | .ok a => .ok (match e.l1 with | some c => storeBytes s c e.asid a .nc bs | none => homeWrite s a.loc bs)

/-- Bytes written to a span, line by line. -/
def engWriteOf (e : Eng) (scaled : Bool) : Nat → State → Nat → List Byte → EngM State
  | 0, s, _, _ => .ok s
  | fuel + 1, s, va, bs =>
    if bs = [] then .ok s
    else
      let k := 128 - va % 128
      match engWrite s e scaled va (bs.take k) with
      | .error x => .error x
      | .ok s => engWriteOf e scaled fuel s (va + k) (bs.drop k)
def engWriteSpan (e : Eng) (fuel : Nat) (s : State) (va : Nat) (bs : List Byte) : EngM State := engWriteOf e false fuel s va bs

/-- The side slot of an address. -/
def engSlot (s : State) (e : Eng) (va : Nat) : EngM (BitVec 256) :=
  match engAcc s e .read true va 1 with
  | .error k => .error k
  | .ok a => .ok (match e.l1 with | some c => (loadSlot s c e.asid a .nc).2 | none => s.slotAt a.loc)

/-- A side slot changed. -/
def engSetSlot (s : State) (e : Eng) (va : Nat) (dirty : BitVec 13) (f : BitVec 256 → BitVec 256) : EngM State :=
  match engAcc s e .write true va 1 with
  | .error k => .error k
  | .ok a => .ok (match e.l1 with | some c => storeSlot s c e.asid a .nc dirty f | none => homeSlotPart s a.loc dirty (f (s.slotAt a.loc)))

/-! ### Shape records -/

/-- The element type of a format code (R21). -/
def codeElem (k : Nat) : Option Elem :=
  [Elem.f32, .bf16, .f16, .e4m3, .e5m2, .e2m3, .e3m2, .e2m1, .i8, .i4, .mx8e4, .mx8e5, .mx6e2, .mx6e3, .mx4, .mxi8, .a4, .a8][k]?

/-- The group size of a GRP value (R22). -/
def codeGrp (k : Nat) : Nat := if k = 1 then 64 else if k = 2 then 128 else 32
def grpOfCode (k : Nat) : Grp := if k = 1 then .g64 else if k = 2 then .g128 else .g32

/-- Whether FMT and GRP go together (R21, R22). -/
def fmtOk (fmt grp : Nat) : Bool := decide (fmt ≤ 17) && (if 16 ≤ fmt then decide (grp ≤ 2) else decide (grp = 0))

/-- The fields of a record (R348). -/
def parseShape (bs : List Byte) : Shape :=
  let w (o n : Nat) : Nat := ofBytes ((bs.drop o).take n)
  let a := w 0 8
  let b := w 8 4
  { base := a % 2 ^ 52, fmt := b % 32, grp := b / 32 % 4, ndim := b / 128 % 8, bax := b / 1024 % 8, oob := b / 8192 % 4,
    wb := decide (b / 32768 % 2 = 1), fill := w 0xC 4,
    ext := (upto 5).map (fun k => w (0x10 + 4 * k) 4), str := 0 :: (upto 4).map (fun k => w (0x24 + 4 * k) 4),
    box := (upto 5).map (fun k => w (0x34 + 2 * k) 2),
    reserved := decide (a / 2 ^ 52 ≠ 0) || decide (b / 65536 ≠ 0) || decide (w 0x3E 2 ≠ 0) }

def Shape.elem (h : Shape) : Elem := (codeElem h.fmt).getD .f32
def Shape.group (h : Shape) : Nat := codeGrp h.grp
def Shape.scaled (h : Shape) : Bool := decide (10 ≤ h.fmt)
def Shape.dim (l : List Nat) (k : Nat) : Nat := l.getD k 0

/-- Whether a record is valid (R349, R350). BAX has the width of R348: 0 and 1 are its only values. -/
def Shape.valid (h : Shape) : Bool :=
  let w := storeBits h.elem
  let sc := h.scaled
  let mx6 := isMx6 h.elem
  !h.reserved && fmtOk h.fmt h.grp && decide (h.fill / 2 ^ w = 0) && decide (1 ≤ h.ndim) && decide (h.ndim ≤ 5) &&
  (upto 5).all (fun k =>
    if k < h.ndim then decide (1 ≤ Shape.dim h.ext k) && decide (1 ≤ Shape.dim h.box k)
    else decide (Shape.dim h.ext k = 0) && decide (Shape.dim h.box k = 0) && decide (Shape.dim h.str k = 0)) &&
  (decide (h.bax = 0) || (decide (h.bax = 1) && sc && !mx6 && decide (2 ≤ h.ndim))) &&
  (decide (h.oob = 0) || (decide (h.oob = 1) && !sc)) &&
  decide (h.base % 16 = 0) &&
  (!sc || (decide (h.base % 128 = 0) && h.str.all (fun x => decide (x % 8 = 0)) &&
    decide (Shape.dim h.ext h.bax % h.group = 0) && (!mx6 || decide (Shape.dim h.ext 0 % 512 = 0))))

/-- A place of an element's bits: byte offset from BASE, bit shift within the byte, number of bits. -/
structure Spot where
  off : Nat
  sh : Nat
  n : Nat
  deriving DecidableEq, Repr

/-- The bytes that an index of the dimensions above the run adds (R349). -/
def Shape.upper (h : Shape) (i : List Nat) : Nat :=
  let d := Shape.dim i
  let s (k : Nat) : Nat := 16 * Shape.dim h.str k
  d 2 * s 2 + d 3 * s 3 + d 4 * s 4 + (if h.bax = 1 then d 1 / h.group * s 1 else d 1 * s 1)

/-- Where an element's bits lie (R349); the nibble and the crumb for MXFP6 (R24). -/
def Shape.spots (h : Shape) (i : List Nat) : List Spot :=
  let d := Shape.dim i
  let w := storeBits h.elem
  let u := h.upper i
  if isMx6 h.elem then
    let j := d 0 / 32
    let r := d 0 % 32
    let unit := u + j / 16 * 384
    let b := j % 16
    [⟨unit + b / 8 * 128 + 16 * (b % 8) + r / 2, 4 * (r % 2), 4⟩, ⟨unit + 256 + b / 8 * 64 + 8 * (b % 8) + r / 4, 2 * (r % 4), 2⟩]
  else if h.bax = 1 then
    let x := d 1 % h.group * w
    [⟨x / 8 + d 0 * (h.group * w / 8) + u, x % 8, w⟩]
  else
    let x := d 0 * w
    [⟨x / 8 + u, x % 8, w⟩]

/-- Where the block of an element starts, and the bytes of a block in its line (R25, R216). -/
def Shape.blockAt (h : Shape) (i : List Nat) : Nat × Nat :=
  let d := Shape.dim i
  let u := h.upper i
  let g := h.group
  if isMx6 h.elem then
    let j := d 0 / 32
    let b := j % 16
    (u + j / 16 * 384 + b / 8 * 128 + 16 * (b % 8), 16)
  else
    let sz := g * storeBits h.elem / 8
    let off := if h.bax = 1 then d 0 * sz + u else d 0 / g * sz + u
    (off, sz)

/-- Whether an index lies within the extents (R351). -/
def Shape.inside (h : Shape) (i : List Nat) : Bool :=
  (upto 5).all (fun k => if k < h.ndim then decide (Shape.dim i k < Shape.dim h.ext k) else decide (Shape.dim i k = 0))

/-- One end of a transfer: a record or a run, with the byte offsets that a flume maps to its slots. -/
structure End where
  h : Shape
  org : List Nat
  flume : Option (Nat × Nat × Nat × Nat)

/-- A contiguous run of `n` elements from an address (R370). -/
def runEnd (va fmt grp n : Nat) : End :=
  { h := { base := va, fmt := fmt, grp := grp, ndim := 1, bax := 0, oob := 0, wb := false, fill := 0, ext := [n], str := [], box := [n],
           reserved := false }, org := [], flume := none }

/-- The address of a byte offset: through the slots of a flume (base, element size, depth, first count), or BASE plus it. -/
def End.addr (x : End) (off : Nat) : Nat :=
  match x.flume with
  | some (base, size, depth, c) => coreBase + base + (c + off / size) % 2 ^ 32 % depth * size + off % size
  | none => x.h.base + off

/-- The address of an element's block and the number of its scale in the side slot of that line (R25). -/
def End.blockSlot (x : End) (i : List Nat) : Nat × Nat :=
  let (off, sz) := x.h.blockAt i
  (x.addr off, x.addr off % 128 / sz)

/-- The index of element `k` of the box, dimension 0 fastest, at the origin (R375, R543). -/
def End.index (x : End) (k : Nat) : List Nat :=
  let b (d : Nat) : Nat := max 1 (Shape.dim x.h.box d)
  let o := Shape.dim x.org
  [o 0 + k % b 0, o 1 + k / b 0 % b 1, o 2 + k / (b 0 * b 1) % b 2, o 3 + k / (b 0 * b 1 * b 2) % b 3,
   o 4 + k / (b 0 * b 1 * b 2 * b 3)]

/-- The elements of the box. -/
def End.count (x : End) : Nat := (upto 5).foldl (fun n d => n * max 1 (Shape.dim x.h.box d)) 1

/-- The bits at spots, the first spot lowest. -/
def readSpots (s : State) (e : Eng) (x : End) (scaled : Bool) : List Spot → EngM Nat
  | [] => .ok 0
  | p :: ps =>
    match engSpanOf s e scaled 2 (x.addr p.off) ((p.sh + p.n + 7) / 8) with
    | .error k => .error k
    | .ok bs =>
      match readSpots s e x scaled ps with
      | .error k => .error k
      | .ok r => .ok (ofBytes bs / 2 ^ p.sh % 2 ^ p.n + 2 ^ p.n * r)

/-- An element's code; out of bounds it is 0, or FILL (R351). Of an unscaled E2M3 or E3M2 element bits 7:6 are ignored, also where a BSLOAD moves
it. (DEDUCED, log 106.) -/
def readCode (s : State) (e : Eng) (x : End) (i : List Nat) : EngM Nat :=
  if x.h.inside i then
    match readSpots s e x x.h.scaled (x.h.spots i) with
    | .error k => .error k
    | .ok v => .ok (v % 2 ^ elemBits x.h.elem)
  else .ok (if x.h.oob = 1 then x.h.fill % 2 ^ elemBits x.h.elem else 0)

/-- The scale word of an element's block; 0 for an unscaled format and out of bounds. -/
def readScaleOf (s : State) (e : Eng) (x : End) (i : List Nat) : EngM Nat :=
  if x.h.scaled && x.h.inside i then
    let (va, j) := x.blockSlot i
    match engSlot s e va with
    | .error k => .error k
    | .ok v => .ok (slotScale v j).toNat
  else .ok 0

/-- The exact value of an element, with the sign bit of its code (R16, R43). -/
def readInp (s : State) (e : Eng) (x : End) (i : List Nat) : EngM Inp :=
  match readCode s e x i, readScaleOf s e x i with
  | .ok c, .ok sc => .ok (deqInp x.h.elem sc c)
  | .error k, _ => .error k
  | _, .error k => .error k

/-- The bits at spots replaced, byte by byte. -/
def writeSpots (e : Eng) (x : End) (scaled : Bool) : List Spot → Nat → State → EngM State
  | [], _, s => .ok s
  | p :: ps, v, s =>
    let n := (p.sh + p.n + 7) / 8
    let old : EngM (List Byte) := if p.sh = 0 ∧ p.n % 8 = 0 then .ok [] else engOld s e scaled (x.addr p.off) n
    match old with
    | .error k => .error k
    | .ok bs =>
      let o := ofBytes bs
      let m := 2 ^ p.n * 2 ^ p.sh
      let new := o % 2 ^ p.sh + v % 2 ^ p.n * 2 ^ p.sh + o / m * m
      match engWriteOf e scaled 2 s (x.addr p.off) (toBytes n new) with
      | .error k => .error k
      | .ok s => writeSpots e x scaled ps (v / 2 ^ p.n) s

/-- An element's code written; a write out of bounds is dropped (R351). -/
def writeCode (e : Eng) (x : End) (i : List Nat) (c : Nat) (s : State) : EngM State :=
  if x.h.inside i then writeSpots e x x.h.scaled (x.h.spots i) c s else .ok s

/-- A block's scale word written, with the descriptors of its lines (R28, R216). -/
def writeScaleOf (e : Eng) (x : End) (i : List Nat) (s20 : Nat) (s : State) : EngM State :=
  if x.h.inside i then
    let (va, j) := x.blockSlot i
    let el := x.h.elem
    let g := grpOfCode x.h.grp
    match engSetSlot s e va (BitVec.ofNat 13 (2 ^ j + 4096)) (fun v => describe el g (slotSetScale v j s20)) with
    | .error k => .error k
    | .ok s =>
      if isMx6 el then
        engSetSlot s e (x.addr ((x.h.spots i).getD 1 ⟨0, 0, 0⟩).off) (BitVec.ofNat 13 4096) (describeCrumb el)
      else .ok s
  else .ok s

/-! ### What an engine writes, word by word (R335, R337) -/

/-- Bits that an engine changes: of `n` bytes from an address, or of the side slot of an address. -/
inductive Put where
  | bits (va n mask val : Nat)
  | slot (va : Nat) (mask val : BitVec 256)

/-- Bytes, words and a side slot as bits that an engine changes. -/
def bytesPut (va : Nat) (bs : List Byte) : Put := .bits va bs.length (2 ^ (8 * bs.length) - 1) (ofBytes bs)
def wordsPut (va : Nat) (ws : List Word) : Put := bytesPut va (ws.flatMap (fun w => toBytes 4 w.toNat))
def slotPut (va : Nat) (f : BitVec 256 → BitVec 256) : Put :=
  let m := ~~~(f 0 ^^^ f (BitVec.allOnes 256))
  .slot va m (f 0 &&& m)

/-- An element's code, at its spots. -/
def spotPuts (y : End) : List Spot → Nat → List Put
  | [], _ => []
  | p :: ps, v => .bits (y.addr p.off) ((p.sh + p.n + 7) / 8) ((2 ^ p.n - 1) * 2 ^ p.sh) (v % 2 ^ p.n * 2 ^ p.sh) :: spotPuts y ps (v / 2 ^ p.n)
def codePuts (y : End) (k c : Nat) : List Put := if y.h.inside (y.index k) then spotPuts y (y.h.spots (y.index k)) c else []

/-- The scale word of the block of element `k`, with the descriptors of its lines (R28, R216). -/
def scalePuts (y : End) (k s20 : Nat) : List Put :=
  let i := y.index k
  if y.h.inside i then
    let (va, j) := y.blockSlot i
    let el := y.h.elem
    slotPut va (fun v => describe el (grpOfCode y.h.grp) (slotSetScale v j s20)) ::
    (if isMx6 el then [slotPut (y.addr ((y.h.spots i).getD 1 ⟨0, 0, 0⟩).off) (describeCrumb el)] else [])
  else []

/-- The lines of bits that change. -/
def Put.lines (x : Put) : List LinePut :=
  match x with
  | .bits va n mask val =>
    let sh := 2 ^ (8 * (va % 128))
    (upto ((va % 128 + n + 127) / 128)).map (fun i =>
      ⟨va / 128 * 128 + 128 * i, BitVec.ofNat 1024 (mask * sh / 2 ^ (1024 * i)), BitVec.ofNat 1024 (val * sh / 2 ^ (1024 * i)), 0, 0⟩)
  | .slot va mask val => [⟨va / 128 * 128, 0, 0, mask, val⟩]

/-- A line joined to those that wait: later bits go over earlier ones. -/
def addLine (l : List LinePut) (x : LinePut) : List LinePut :=
  if l.any (fun y => decide (y.va = x.va)) then
    l.map (fun y => if y.va = x.va then
      ⟨y.va, y.mask ||| x.mask, (y.data &&& ~~~x.mask) ||| x.data, y.smask ||| x.smask, (y.sdata &&& ~~~x.smask) ||| x.sdata⟩ else y)
  else l ++ [x]
def addPuts (l : List LinePut) (ps : List Put) : List LinePut := (ps.flatMap Put.lines).foldl addLine l

/-- Whether bytes of an end can be written, line by line; otherwise why not. -/
def writeFails (s : State) (e : Eng) (scaled : Bool) : Nat → Nat → Nat → Option EngErr
  | 0, _, _ => none
  | fuel + 1, va, n =>
    if n = 0 then none
    else
      let k := min n (128 - va % 128)
      match engAcc s e .write scaled va k with
      | .error x => some x
      | .ok _ => writeFails s e scaled fuel (va + k) (n - k)

/-- Why the first of several writes fails that does. -/
def putsFail (s : State) (e : Eng) (scaled : Bool) (l : List Put) : Option EngErr :=
  l.findSome? (fun p =>
    match p with
    | .bits va n _ _ => writeFails s e scaled (n / 128 + 2) va n
    | .slot va _ _ => writeFails s e true 1 va 1)

/-- The bits of the line that item `i` writes: word `i` of the line below 32, then the scale words of the side slot, then its descriptor. -/
def itemMask (i : Nat) : BitVec 1024 := if i < 32 then BitVec.ofNat 1024 ((2 ^ 32 - 1) * 2 ^ (32 * i)) else 0
def itemSlot (i : Nat) : BitVec 256 :=
  if i < 32 then 0 else if i = 44 then BitVec.ofNat 256 ((2 ^ 16 - 1) * 2 ^ 240) else BitVec.ofNat 256 ((2 ^ 20 - 1) * 2 ^ (20 * (i - 32)))

/-- The items of a line that are still to be written. -/
def LinePut.items (x : LinePut) : List Nat := (upto 45).filter (fun i => decide (x.mask &&& itemMask i ≠ 0) || decide (x.smask &&& itemSlot i ≠ 0))

/-- The items of lines: line and item. -/
def putItems (l : List LinePut) : List (Nat × Nat) := l.zipIdx.flatMap (fun p => p.1.items.map (fun i => (p.2, i)))

/-- An item written: a 4-byte word of which the bytes that change are written, or a scale word or descriptor (R326, R335). -/
def putItem (e : Eng) (scaled : Bool) (x : LinePut) (i : Nat) (s : State) : EngM State :=
  if i < 32 then
    (upto 4).foldl (fun (r : EngM State) j =>
      let o := 4 * i + j
      let m : Byte := x.mask.extractLsb' (8 * o) 8
      if m = 0 then r
      else r.bind (fun s =>
        match (if m = BitVec.allOnes 8 then .ok [0] else engOld s e scaled (x.va + o) 1) with
        | .error k => .error k
        | .ok bs => engWrite s e scaled (x.va + o) [(bs.headD 0 &&& ~~~m) ||| (x.data.extractLsb' (8 * o) 8 &&& m)])) (.ok s)
  else
    let m := x.smask &&& itemSlot i
    engSetSlot s e x.va (BitVec.ofNat 13 (2 ^ (i - 32))) (fun v => (v &&& ~~~m) ||| (x.sdata &&& m))

/-- Lines without an item that has been written. -/
def dropItem (l : List LinePut) (k i : Nat) : List LinePut :=
  (setAt l k (fun x => { x with mask := x.mask &&& ~~~itemMask i, smask := x.smask &&& ~~~itemSlot i })).filter
    (fun x => decide (x.mask ≠ 0) || decide (x.smask ≠ 0))

/-- The granules of 32 bytes, and the side slots, that lines cover whole. -/
def wholePuts (l : List LinePut) : List (Nat × Bool) :=
  l.flatMap (fun x =>
    ((upto 4).filter (fun g => decide (x.mask.extractLsb' (256 * g) 256 = BitVec.allOnes 256))).map (fun g => (x.va + 32 * g, false)) ++
    (if x.smask = BitVec.allOnes 256 then [(x.va, true)] else []))

/-- What has been covered whole loses its poison where it stands at its home (R530). -/
def healPuts (e : Eng) (s : State) (l : List (Nat × Bool)) : State :=
  if s.poison = [] then s
  else l.foldl (fun s p =>
    match engAcc s e .write p.2 p.1 1 with
    | .error _ => s
    | .ok a =>
      if a.cached then s
      else
        let key := if p.2 then sideKey a.loc else granuleKey a.loc
        { s with poison := s.poison.filter (fun g => decide (g ≠ key)) }) s

/-- The next write of lines, of free choice: the state after it with the lines that are left, or why it fails. -/
def putNext (e : Eng) (scaled : Bool) (l : List LinePut) (s : State) : EngM (State × List LinePut) :=
  let items := putItems l
  match items[Config.freePick s.free 80 % max 1 items.length]? with
  | none => .ok (s, [])
  | some (k, i) =>
    match l[k]? with
    | none => .ok (s, [])
    | some x =>
      match putItem e scaled x i s with
      | .error f => .error f
      | .ok s => .ok (s, dropItem l k i)

/-- A list of actions, left to right, up to the first that fails. -/
def engAll {α : Type} (g : α → State → EngM State) : List α → State → EngM State
  | [], s => .ok s
  | a :: as, s =>
    match g a s with
    | .error k => .error k
    | .ok s => engAll g as s

def engMap {α β : Type} (g : α → EngM β) : List α → EngM (List β)
  | [] => .ok []
  | a :: as =>
    match g a with
    | .error k => .error k
    | .ok b =>
      match engMap g as with
      | .error k => .error k
      | .ok r => .ok (b :: r)

/-! ### The record cache (R356) -/

/-- The bytes at a record's address, of the cache where it holds them, with the state that caches them. `n` is 64 for records and
headers. -/
def cachedRecord (s : State) (e : Eng) (addr n : Nat) : EngM (State × List Byte) :=
  let key := (e.asid, e.world, addr)
  match (s.cluster e.cluster).recs.find? (fun p => decide (p.1 = key)) with
  | some p => .ok (s, p.2)
  | none =>
    match engSpan s { e with l1 := none } 3 addr n with
    | .error k => .error k
    | .ok bs =>
      .ok (s.modCluster e.cluster (fun k =>
        let l := if 256 ≤ k.recs.length then dropAt k.recs (Config.freePick s.free 3 % 256) else k.recs
        { k with recs := l ++ [(key, bs)] }), bs)

/-- Why a record cannot be used: it is not valid (R350), or its fetch fails (R355). -/
inductive RecErr where
  | invalid
  | fetch (k : EngErr)
  deriving DecidableEq, Repr

/-- A record taken for use (R350, R356, R357): aligned to 64 bytes, valid, and of the context's world. -/
def takeRecord (s : State) (e : Eng) (addr : DWord) : Except RecErr (State × Shape) :=
  if addr.toNat % 64 ≠ 0 then .error .invalid
  else
    match cachedRecord s e addr.toNat 64 with
    | .error k => .error (.fetch k)
    | .ok (s, bs) =>
      let h := parseShape bs
      if !h.valid then .error .invalid
      else if h.wb && !e.world then .error (.fetch (.fault 0x26 addr.toNat))
      else .ok (s, h)

end Sys2Proof.Machine
end

