-- ==== Sys2Proof/Machine/Tile.lean ====
section
/-! DEFINITION. Tiles: accumulators and the B-store (R175, R176, R343 to R347), the operands of matrix operations (R177 to R181),
their arithmetic (R45, R46, R182), the tile functions (R184 to R192), and the tests made before an operation begins (R153). -/
namespace Sys2Proof.Machine
open Sys2Proof

/-! ### Accumulators -/

/-- The number of an accumulator: core, row of the accumulator memory, column of the core (R344). -/
def accKey (core row col : Nat) : Nat := (core * 2048 + row) * 64 + col

/-- The number under which the poison of eight accumulators of a row is listed (R530). -/
def accGranule (core row col : Nat) : Nat := 2 * (16 * ((core * 2048 + row) * 8 + col / 8) + 10)

/-- Column `n` of a row of a twin: 0 to 63 on the leader, 64 to 127 on the follower (R176, R344). -/
def State.accAt (s : State) (twin row n : Nat) : Word := tgetD s.acc (accKey (2 * twin + n / 64) row (n % 64)) 0
def State.setAcc (s : State) (twin row n : Nat) (v : Word) : State :=
  { s with acc := tputD s.acc (accKey (2 * twin + n / 64) row (n % 64)) 0 v }

/-- A row of 128 columns. -/
def readRow (s : State) (twin row : Nat) : List Word := (upto 128).map (s.accAt twin row)

/-- The poison of the granules of a row that `n` columns from a column cover is cleared (R530). -/
def healCols (s : State) (twin row col n : Nat) : State :=
  if s.poison = [] then s
  else
    let gs := ((upto 16).filter (fun g => decide (col ≤ 8 * g) && decide (8 * g + 8 ≤ col + n))).map (fun g =>
      accGranule (2 * twin + g / 8) row (g % 8 * 8))
    { s with poison := s.poison.filter (fun g => !gs.contains g) }

/-- Columns of a row written from a column on. -/
def writeCols (s : State) (twin row col : Nat) (ws : List Word) : State :=
  healCols (ws.zipIdx.foldl (fun s p => s.setAcc twin row (col + p.2) p.1) s) twin row col ws.length
def writeRow (s : State) (twin row : Nat) (ws : List Word) : State := writeCols s twin row 0 ws

/-- A tile: its first row in the window and its rows (R176). -/
structure Tile where
  row : Nat
  m : Nat
  deriving DecidableEq, Repr

/-- The tile of a descriptor; bits from 11 on are ignored (R176). -/
def tileOf (v : Nat) : Tile := ⟨16 * (v % 128), 16 * (v / 128 % 16 + 1)⟩

/-- The descriptor of a header's tile. -/
def headerTile (h : Header) : Nat := h.row16.toNat + 128 * h.mq.toNat

/-- The rows of a tile in a window that starts at `base`. -/
def readTile (s : State) (twin base : Nat) (t : Tile) : List (List Word) := (upto t.m).map (fun i => readRow s twin (base + t.row + i))
def writeTile (s : State) (twin base : Nat) (t : Tile) (rows : List (List Word)) : State :=
  rows.zipIdx.foldl (fun s p => writeRow s twin (base + t.row + p.2) p.1) s

/-- Whether a tile holds an uncorrectable error. -/
def tilePoisoned (s : State) (twin base : Nat) (t : Tile) : Bool :=
  s.poison ≠ [] && (upto t.m).any (fun i => (upto 16).any (fun g =>
    s.poison.contains (accGranule (2 * twin + g / 8) (base + t.row + i) (g % 8 * 8))))

/-! ### The B-store (R345, R346) -/

/-- Bytes of a column slice. -/
def sliceBytes : Nat := 98304

/-- The number of a scale-store or metadata-store entry. -/
def bentry (core col off : Nat) : Nat := (core * 64 + col) * 12288 + off / 8

/-- Bytes of a slot of 32 elements. -/
def slotBytes (e : Elem) : Nat := 4 * storeBits e

/-- The codes of a K-block from its bytes: MXFP6 as 16 nibble bytes and 8 crumb bytes (R24, R408). -/
def codesOf (e : Elem) (bs : List Byte) : List Nat :=
  if isMx6 e then
    (List.zip (splitCodes 4 32 (ofBytes (bs.take 16))) (splitCodes 2 32 (ofBytes (bs.drop 16)))).map (fun p => p.1 + 16 * p.2)
  else (splitCodes (storeBits e) 32 (ofBytes bs)).map (· % 2 ^ elemBits e)

/-- The bytes of a K-block's codes: of MXFP6 the nibbles before the crumbs, also in the B-store. (DEDUCED, log 107.) -/
def bytesOf (e : Elem) (cs : List Nat) : List Byte :=
  if isMx6 e then toBytes (cs.length / 2) (joinCodes 4 cs) ++ toBytes (cs.length / 4) (joinCodes 2 (cs.map (· / 16)))
  else toBytes (cs.length * storeBits e / 8) (joinCodes (storeBits e) cs)

/-- A K-block or group of an operand: its codes and its scale word. -/
structure KBlock where
  codes : List Nat
  s20 : Nat
  deriving DecidableEq, Repr

/-- A slot of column `n` of a twin at an offset. -/
def readSlot (s : State) (twin n off : Nat) (e : Elem) : KBlock :=
  let core := 2 * twin + n / 64
  ⟨codesOf e (s.bytes (.bst core (n % 64) off) (slotBytes e)), (tgetD s.bscale (bentry core (n % 64) off) 0).toNat⟩

/-- The metadata of a slot. -/
def readMeta (s : State) (twin n off : Nat) : Nat := (tgetD s.bmeta (bentry (2 * twin + n / 64) (n % 64) off) 0).toNat

/-- Core scratch of a block and the B-store of a twin as they stand. -/
def State.look (s : State) (blk twin : Nat) : Seen :=
  let scratch (k : Nat) : Bool := decide (k % 16 = 4) && decide (k / 16 / 2 ^ 52 = blk)
  let store (k : Nat) : Bool := decide (k % 16 = 7) && decide (k / 16 / 2 ^ 52 / 128 = twin)
  let entry (k : Nat) : Bool := decide (k / 12288 / 128 = twin)
  { cells := s.mem.filter (fun c => scratch c.1 || store c.1), side := s.side.filter (fun c => scratch c.1),
    bscale := s.bscale.filter (fun c => entry c.1), bmeta := s.bmeta.filter (fun c => entry c.1) }

/-- A side slot of which each scale word is old or new, freely. -/
def mixSlot (draw key : Nat) (old new : BitVec 256) : BitVec 256 :=
  (upto 12).foldl (fun w j =>
    if slotScale old j = slotScale new j then w
    else if Config.freeBit draw (4 * (16 * key + j) + 3) then w
    else slotSetScale w j (slotScale old j).toNat) new

/-- The state in which an operation reads core scratch: each 4-byte word, and each scale word, is the one that stood when it became
complete or the present one, freely (R183). -/
def State.mixed (s : State) (o : Seen) : State :=
  let mine (k : Nat) : Bool := decide (k % 16 = 4)
  let cells := (o.cells ++ s.mem).filter (fun c => mine c.1 && decide (tgetD o.cells c.1 unlisted ≠ tgetD s.mem c.1 unlisted))
  let mem := cells.foldl (fun m c =>
    if Config.freeBit s.free (4 * (c.1 / 64) + 1) then m else tputD m c.1 unlisted (tgetD o.cells c.1 unlisted)) s.mem
  let keys := ((o.side ++ s.side).filter (fun c => mine c.1)).map (·.1)
  let side := keys.foldl (fun m k => tputD m k 0 (mixSlot s.free k (tgetD o.side k 0) (tgetD s.side k 0))) s.side
  { s with mem := mem, side := side }

/-- The B-store as it stood. -/
def State.before (s : State) (o : Seen) : State := { s with mem := o.cells, bscale := o.bscale, bmeta := o.bmeta }

/-- Elements in runs of `g`. -/
def chunksOf {α : Type} (g : Nat) : Nat → List α → List (List α)
  | 0, _ => []
  | k + 1, l => l.take g :: chunksOf g k (l.drop g)

/-- Slots joined into groups of `g` elements; a group has the scale of its first slot (R46), the last group too where K ends inside it. -/
def joinSlots (g : Nat) (bs : List KBlock) : List KBlock :=
  if g ≤ 32 then bs
  else (chunksOf (g / 32) ((bs.length * 32 + g - 1) / g) bs).map (fun l => ⟨l.flatMap (·.codes), (l.head?.map (·.s20)).getD 0⟩)

/-- The kept values of a slot put back at the first N set bits of each group of M logical elements, zero codes elsewhere: two
K-blocks of 32 under the slot's scale (R240, R347). -/
def unsparse (n m : Nat) (b : KBlock) (mask : Nat) : List KBlock :=
  let codes := (upto 64).map (fun i =>
    let g := i / m
    let bit (k : Nat) : Bool := mask / 2 ^ k % 2 == 1
    let r := ((upto (i % m)).filter (fun k => bit (g * m + k))).length
    if bit i && decide (r < n) then b.codes.getD (g * n + r) 0 else 0)
  [⟨codes.take 32, b.s20⟩, ⟨codes.drop 32, b.s20⟩]

/-! ### Matrix operations -/

/-- The four matrix opcodes (R177). -/
inductive MKind where
  | plain | w | z | s
  deriving DecidableEq, Repr

/-- A matrix instruction: opcode, header, group of B. -/
def matrixOf (i : Instr) : Option (MKind × Header × Grp) :=
  match i with
  | .tmma _ _ _ h => some (.plain, h, .g32)
  | .tmmaw _ _ _ h g => some (.w, h, g)
  | .tmmaz _ _ _ h g => some (.z, h, g)
  | .tmmas _ _ _ h => some (.s, h, .g32)
  | _ => none

/-- Kp of R180. -/
def passK (k : MKind) (h : Header) : Nat :=
  if k = .w ∨ elemBits h.afmt = 16 ∨ elemBits h.bfmt = 16 then 64
  else if elemBits h.afmt ≤ 4 ∧ elemBits h.bfmt ≤ 4 then 256
  else 128

/-- The K that B's stored elements span, and the logical K of the operation (R180). -/
def storedK (k : MKind) (h : Header) : Nat := (h.np.toNat + 1) * passK k h
def logicalK (k : MKind) (h : Header) : Nat := if k = MKind.s then 2 * storedK k h else storedK k h
def headerM (h : Header) : Nat := 16 * (h.mq.toNat + 1)

/-- N and M of a sparse operation. -/
def sparsity (h : Header) : Nat × Nat := if h.sp = 1 then (2, 4) else (4, 8)

/-- Registers of a thread's raft-register operand (R181): its half of the K of the pass, in runs of 32; of TMMAS, half of the logical K that
R180 gives its pass. (DESIGN CHOICE, log 83.) -/
def raftRun (e : Elem) : Nat := partRegs e + (if isScaled e then 1 else 0)
def raftSpan (k : MKind) (h : Header) : Nat := logicalK k h / 64 * raftRun h.afmt

/-- The exact value that a matrix operation takes for an element of B (R46). -/
def effB (k : MKind) (e : Elem) (s20 c : Nat) : Num :=
  let v := scaledVal e s20 c
  if k = .w then bf16.decode (bf16.round .rne v) else v

/-- The values of an operand's lines. -/
def valsOf (g : Nat → Nat → Num) (bs : List KBlock) : List Num := bs.flatMap (fun b => b.codes.map (g b.s20))

/-- The exact sum of a list, −0 only where every term is −0 (R45). -/
def exactSum : List Num → Num
  | [] => .zero false
  | x :: r => r.foldl (Num.add false) x

/-- An accumulator plus the contributions of the K-blocks of `g` elements, in ascending order, each with one rounding (R45, R46). -/
def accumulate (g : Nat) (a b : List Num) (acc : Word) : Word :=
  let ps := List.zipWith Num.mul a b
  (chunksOf g ((ps.length + g - 1) / g) ps).foldl (fun acc c => rne32 (Num.add false (numOf acc) (exactSum c))) acc

/-- The elements that one contribution covers. -/
def kGroup (k : MKind) (g : Grp) : Nat := if k = .z then grpSize g else 32

/-- The tile after a matrix operation (R182): rows of A, columns of B, the tile before. (DEDUCED, log 36.) -/
def matrixResult (k : MKind) (h : Header) (g : Grp) (a b : List (List Num)) (acc : List (List Word)) : List (List Word) :=
  List.zipWith (fun row old =>
    List.zipWith (fun col w => accumulate (kGroup k g) row col (if h.za then 0 else w)) b old) a acc

/-! ### Operands from records -/

/-- An index with the given first two places. -/
def index2 (a b : Nat) : List Nat := [a, b, 0, 0, 0]

/-- The `n` K-blocks of `g` elements of line `l` of a record, from an element along K; `cross` says that the record's dimension 0
runs across K. -/
def recordLine (s : State) (e : Eng) (h : Shape) (cross : Bool) (l k0 g n : Nat) : EngM (List KBlock) :=
  let x : End := { h := h, org := [], flume := none }
  let at' (k : Nat) : List Nat := if cross then index2 l k else index2 k l
  engMap (fun j =>
    match engMap (fun i => readCode s e x (at' (k0 + g * j + i))) (upto g), readScaleOf s e x (at' (k0 + g * j)) with
    | .ok cs, .ok sc => .ok ⟨cs, sc⟩
    | .error k, _ => .error k
    | _, .error k => .error k) (upto n)

/-- The eight metadata bytes of slot `j` of a column, from the K origin of the kept values (R347). -/
def recordMeta (s : State) (e : Eng) (h : Shape) (n k0 j : Nat) : EngM Nat :=
  let x : End := { h := h, org := [], flume := none }
  match engMap (fun i => readCode s e x (index2 (k0 / 4 + 8 * j + i) n)) (upto 8) with
  | .ok cs => .ok (joinCodes 8 cs)
  | .error k => .error k

/-! ### What an operation acts with -/

/-- An array operation's surroundings: twin, the window of member 0's block as base and rows, the engine, members as warps. -/
structure TileEnv where
  twin : Nat
  blk : Nat
  gang : Nat
  base : Nat
  rows : Nat
  eng : Eng
  members : List (Nat × Warp)

/-- The surroundings of an operation of a raft: the block that holds member 0 gives the window and the record addresses (R175). -/
def tileEnv (s : State) (r : Raft) (priv : Bool) : Option TileEnv :=
  let ms := r.members.filterMap (fun w => (tget s.warps w).map (fun wp => (w, wp)))
  match ms with
  | [] => none
  | (_, w0) :: _ =>
    match tget s.blocks w0.blk, engOf s w0.blk priv (2 * r.twin) false with
    | some b, some e =>
      some { twin := r.twin, blk := w0.blk, gang := b.gang, base := b.accBase, rows := e.lrec.accr, eng := e, members := ms }
    | _, _ => none

/-- Operand values of an operation, in the order that `operands` captures them. -/
def opVal (vals : List Word) (k : Nat) : Nat := (vals.getD k 0).toNat
def opAddr (vals : List Word) (k : Nat) : DWord := pairOfWords (vals.getD k 0) (vals.getD (k + 1) 0)

/-- Rows of A from the members' registers (R181). -/
def raftRows (k : MKind) (h : Header) (a : Nat) (ms : List (Nat × Warp)) (spans : List (Nat × Word)) : List (List KBlock) :=
  let e := h.afmt
  let word (w : Nat) (wp : Warp) (r t : Nat) : Word :=
    match spans.find? (fun p => decide (p.1 = regKey w (pairOf w wp) r t)) with
    | some p => p.2
    | none => 0
  ms.flatMap (fun p =>
    (upto 16).map (fun i =>
      (upto 2).flatMap (fun half =>
        (upto (logicalK k h / 64)).map (fun j =>
          let r := a + j * raftRun e
          let t := i + 16 * half
          ⟨unpackWords e ((upto (partRegs e)).map (fun x => word p.1 p.2 (r + x) t)),
           if isScaled e then (word p.1 p.2 (r + partRegs e) t).toNat % 2 ^ 20 else 0⟩))))

/-- Rows of A as K-blocks. -/
def operandA (s : State) (v : TileEnv) (k : MKind) (h : Header) (areg : Nat) (vals : List Word) (spans : List (Nat × Word))
    (recs : List (Nat × Shape)) : EngM (List (List KBlock)) :=
  if h.asrc then .ok (raftRows k h areg v.members spans)
  else
    match recs with
    | [] => .ok []
    | (_, x) :: _ =>
      engMap (fun i => recordLine s v.eng x h.ta (opVal vals 2 + i) (opVal vals 3) 32 (logicalK k h / 32)) (upto (headerM h))

/-- Columns of B as stored: K-blocks or groups, with the metadata words of a sparse operand. A slot of the B-store is read as a whole with
its scale and metadata, as it stood when the operation became complete or as it stands, freely (R183). -/
def operandB (s : State) (old : Seen) (v : TileEnv) (k : MKind) (h : Header) (g : Grp) (vals : List Word) (recs : List (Nat × Shape)) :
    EngM (List (List KBlock × List Nat)) :=
  let grp := if isAE h.bfmt then grpSize g else 32
  let n := storedK k h / 32
  if h.tb then
    let rs := if h.asrc then recs else recs.drop 1
    match rs with
    | [] => .ok []
    | (_, x) :: r =>
      engMap (fun c =>
        let l := opVal vals 6 + c
        match recordLine s v.eng x false l (opVal vals 7) grp (storedK k h / grp),
          (match r with
           | (_, m) :: _ => if k = MKind.s then engMap (recordMeta s v.eng m l (opVal vals 7)) (upto n) else .ok []
           | [] => .ok []) with
        | .ok bs, .ok ms => .ok (bs, ms)
        | .error z, _ => .error z
        | _, .error z => .error z) (upto 128)
  else
    let at' (j : Nat) : Nat := opVal vals 4 + j * slotBytes h.bfmt
    let slot (c j : Nat) : KBlock × Nat :=
      let get (s : State) : KBlock × Nat := (readSlot s v.twin c (at' j) h.bfmt, readMeta s v.twin c (at' j))
      if get s = get (s.before old) then get s
      else if Config.freeBit s.free (4 * (c * 65536 + j) + 2) then get s
      else get (s.before old)
    .ok ((upto 128).map (fun c =>
      (joinSlots grp ((upto n).map (fun j => (slot c j).1)), if k = MKind.s then (upto n).map (fun j => (slot c j).2) else [])))

/-- A column's effective values over the logical K. -/
def columnVals (k : MKind) (h : Header) (c : List KBlock × List Nat) : List Num :=
  let (n, m) := sparsity h
  let bs := if k = MKind.s then (List.zipWith (unsparse n m) c.1 c.2).flatten else c.1
  valsOf (effB k h.bfmt) bs

/-- Rows of A's values. -/
def rowVals (h : Header) (r : List KBlock) : List Num := valsOf (scaledVal h.afmt) r

/-- Whether a slot of the B-store that the operation reads holds an uncorrectable error. -/
def slotsPoisoned (s : State) (v : TileEnv) (k : MKind) (h : Header) (vals : List Word) : Bool :=
  s.poison ≠ [] && !h.tb && (upto 128).any (fun c =>
    s.poisoned (.bst (2 * v.twin + c / 64) (c % 64) (opVal vals 4)) (storedK k h * storeBits h.bfmt / 8) ||
    (upto ((storedK k h + 31) / 32)).any (fun j =>
      let n := bentry (2 * v.twin + c / 64) (c % 64) (opVal vals 4 + j * slotBytes h.bfmt)
      (isScaled h.bfmt && s.poison.contains (entryGranule n false)) || (decide (k = MKind.s) && s.poison.contains (entryGranule n true))))

/-! ### Tile functions (R187 to R192) -/

/-- A NaN result is canonical. -/
def canon (w : Word) : Word := if (numOf w).isNan then 0x7FC00000 else w
def negW (w : Word) : Word := w ^^^ 0x80000000

/-- 1 / (1 + exp(−x)). -/
def sigmoid (x : Word) : Word := fdiv 0x3F800000 (fadd 0x3F800000 (fexp (negW x)))

/-- The inner argument of .gelu: c0 × (x + c1 × x × x × x). -/
def geluArg (x : Word) : Word := fmul 0x3F4C422A (fadd x (fmul (fmul (fmul 0x3D372713 x) x) x))

/-- TEW's functions of one source (R188); `c` is the scalar of .scl. -/
def tewVal (fn : TewFn) (x b c : Word) : Word :=
  match fn with
  | .copy => canon x
  | .relu => if (numOf x).isNan then 0x7FC00000 else if Num.lt (.zero false) (numOf x) then x else 0
  | .gelu => fmul (fmul 0x3F000000 x) (fadd 0x3F800000 (ftanh (geluArg x)))
  | .silu => canon (fdiv x (fadd 0x3F800000 (fexp (negW x))))
  | .exp => fexp x
  | .tanh => canon (ftanh x)
  | .sigm => sigmoid x
  | .add => fadd x b
  | .mul => fmul x b
  | .scl => fmul x c

/-- Whether TEW's function takes a second source. -/
def tewBinary (fn : TewFn) : Bool :=
  match fn with
  | .add | .mul => true
  | _ => false

/-- A tree of 128 values: steps k = 1, 2, … 64 (R47, R189). -/
def tree128 (g : Word → Word → Word) (l : List Word) : Word :=
  ((upto 7).foldl (fun l _ => treeStep g l) l).headD 0
def treeSum (l : List Word) : Word := tree128 fadd l

/-- The greatest of a row: NaN where any is, −0 below +0 (R189). -/
def rowMax (l : List Word) : Word :=
  if l.any (fun w => (numOf w).isNan) then 0x7FC00000 else l.foldl fmax32 0xFF800000

def tredVal (op : TredOp) (row : List Word) : Word :=
  match op with
  | .add => treeSum row
  | .max => rowMax row

/-- TSMX of a row (R190). -/
def softmaxRow (c : Word) (row : List Word) : List Word :=
  let xs := row.map (fun a => fmul a c)
  let m := rowMax xs
  if m = 0xFF800000 then xs.map (fun _ => 0)
  else
    let es := xs.map (fun x => fexp (fsub x m))
    let t := treeSum es
    es.map (fun x => fdiv x t)

/-- r of TNORM (R191): 1 / √(s × 2^-7 + ε). -/
def normFactor (eps : Word) (row : List Word) : Word :=
  rne32 (numOf (fadd (fmul (treeSum (row.map (fun x => fmul x x))) 0x3C000000) eps)).rsqrt

def normRow (eps : Word) (row : List Word) : List Word := row.map (fun x => fmul x (normFactor eps row))

/-- A row's blocks of 32 quantised (R192): mode by element, `i0` the SR index of the row's first column. -/
def quantRow (e : Elem) (ocp : Bool) (rnd : Rnd) (seed : Word) (i0 strm : Nat) (row : List Word) : List QBlock :=
  (chunksOf 32 4 row).zipIdx.map (fun p =>
    let ms := (upto 32).map (fun k => modeOf rnd seed (i0 + 32 * p.2 + k) strm)
    if isScaled e then quantBlock e ocp ms (p.1.map inpOf) else convAll e ms (p.1.map inpOf))

def tcvtRow (e : Elem) (ocp : Bool) (rnd : Rnd) (seed : Word) (i strm : Nat) (row : List Word) : List Word × Health :=
  let qs := quantRow e ocp rnd seed (128 * i) strm row
  (qs.flatMap (fun q => q.codes.map (fun c => rne32 (scaledVal e q.s20 c))), Health.sum (qs.map (·.ev)))

/-! ### The tests before an operation begins (R153, R176, R182, R185 to R187, R352, R353, R542) -/

/-- Why an operation does not begin: the tile-state trap, or an operand-fetch fault with cause, address and record. -/
inductive NoStart where
  | state
  | fetch (cause va rec_ : Nat)
  deriving DecidableEq, Repr

/-- An engine failure as an operand-fetch fault; a scaled end without scales has original cause 0x09 here (R355). -/
def noStart (rec_ : Nat) (k : EngErr) : NoStart :=
  match k with
  | .stop va => .fetch 0x09 va rec_
  | .fault c va => .fetch c va rec_

/-- A record for the array (R350, R356). -/
def arrayRecord (s : State) (e : Eng) (addr : DWord) : Except NoStart (State × (Nat × Shape)) :=
  match takeRecord s e addr with
  | .error .invalid => .error .state
  | .error (.fetch k) => .error (noStart addr.toNat k)
  | .ok (s, h) => .ok (s, (addr.toNat, h))

/-- The tests of an operand's record. -/
def operandOk (h : Shape) (fmt : Elem) (grp : Nat) (cross : Bool) (org k : Nat) : Bool :=
  decide (h.elem = fmt) && decide (h.grp = grp) && decide (windowOf h.base = some .core) &&
  (if h.scaled then decide (h.bax = if cross then 1 else 0) && decide (org % h.group = 0) && decide (k % h.group = 0)
   else !cross || decide (16 * Shape.dim h.str 1 % 256 = 128))

def grpField (e : Elem) (g : Grp) : Nat :=
  if isAE e then (match g with | .g32 => 0 | .g64 => 1 | .g128 => 2) else 0

/-- The records of a matrix operation, where it may begin: A, B, and the metadata of a sparse B, which stands behind B's record as for a
BSLOAD (R347). (DESIGN CHOICE, log 84.) -/
def matrixStart (s : State) (v : TileEnv) (k : MKind) (h : Header) (g : Grp) (vals : List Word) :
    Except NoStart (State × List (Nat × Shape)) :=
  let t := tileOf (headerTile h)
  if v.rows < t.row + t.m then .error .state
  else if h.asrc ∧ t.m ≠ 16 * v.members.length then .error .state
  else if !h.tb ∧ (opVal vals 4 % 32 ≠ 0 ∨ sliceBytes < opVal vals 4 + storedK k h * storeBits h.bfmt / 8) then .error .state
  else
    let a : Except NoStart (State × List (Nat × Shape)) :=
      if h.asrc then .ok (s, [])
      else
        match arrayRecord s v.eng (opAddr vals 0) with
        | .error x => .error x
        | .ok (s, x) => if operandOk x.2 h.afmt 0 h.ta (opVal vals 3) (logicalK k h) then .ok (s, [x]) else .error .state
    match a with
    | .error x => .error x
    | .ok (s, l) =>
      if !h.tb then .ok (s, l)
      else
        match arrayRecord s v.eng (opAddr vals 4) with
        | .error x => .error x
        | .ok (s, x) =>
          if !operandOk x.2 h.bfmt (grpField h.bfmt g) false (opVal vals 7) (storedK k h) then .error .state
          else if k = MKind.s then
            match arrayRecord s v.eng (opAddr vals 4 + 64) with
            | .error y => .error y
            | .ok (s, y) =>
              if decide (y.2.fmt = 8) && decide (windowOf y.2.base = some .core) then .ok (s, l ++ [x, y]) else .error .state
          else .ok (s, l ++ [x])

/-- The rows and columns of a tile that TRD and TWR transfer: those of the record's box (R352), which has one row where the record has no second
dimension. (DEDUCED, log 108.) -/
def boxRows (h : Shape) (m : Nat) : Nat := min m (max 1 (Shape.dim h.box (if h.bax = 1 then 0 else 1)))
def boxCols (h : Shape) : Nat := min 128 (Shape.dim h.box (if h.bax = 1 then 1 else 0))

/-- The index of row `i`, column `n` of a tile in a record (R185). -/
def tileIndex (h : Shape) (vals : List Word) (i n : Nat) : List Nat :=
  let a := opVal vals 6 + i
  let b := opVal vals 7 + n
  if h.bax = 1 then index2 a b else index2 b a

/-- The record of TRD or TWR, where the transfer may begin. -/
def transferStart (s : State) (v : TileEnv) (dt : Elem) (t : Tile) (vals : List Word) : Except NoStart (State × List (Nat × Shape)) :=
  if v.rows < t.row + t.m then .error .state
  else
    match arrayRecord s v.eng (opAddr vals 4) with
    | .error x => .error x
    | .ok (s, x) =>
      let h := x.2
      if decide (h.elem = dt) &&
         (!h.scaled || (decide (opVal vals 7 % h.group = 0) && decide (Shape.dim h.box h.bax % h.group = 0) && decide (128 % h.group = 0)))
      then .ok (s, [x]) else .error .state

/-- The tests of an operation on tiles alone: every tile within the window, of one M. -/
def tilesStart (s : State) (v : TileEnv) (ts : List Nat) : Except NoStart (State × List (Nat × Shape)) :=
  if ts.all (fun d => decide ((tileOf d).row + (tileOf d).m ≤ v.rows)) &&
     (match ts with | [] => true | d :: r => r.all (fun x => decide ((tileOf x).m = (tileOf d).m)))
  then .ok (s, []) else .error .state

/-- Whether an operation may begin; its record copies. -/
def tileStart (s : State) (v : TileEnv) (i : Instr) (vals : List Word) : Except NoStart (State × List (Nat × Shape)) :=
  let a := opVal vals 0
  let regTile : Except NoStart (State × List (Nat × Shape)) :=
    if (tileOf a).m ≠ 16 * v.members.length then .error .state else tilesStart s v [a]
  match matrixOf i with
  | some (k, h, g) => matrixStart s v k h g vals
  | none =>
    match i with
    | .trdReg .. => regTile
    | .twrReg .. => regTile
    | .trdRec _ _ _ _ dt _ _ => transferStart s v dt (tileOf a) vals
    | .twrRec _ _ _ dt => transferStart s v dt (tileOf a) vals
    | .tew _ fn _ _ _ td _ _ => tilesStart s v (if tewBinary fn then [td.toNat, a, opVal vals 4] else [td.toNat, a])
    | .tred _ _ _ td _ => tilesStart s v [td.toNat, a]
    | .tsmx _ _ _ td _ => tilesStart s v [td.toNat, a]
    | .tnorm _ _ _ td _ => tilesStart s v [td.toNat, a]
    | _ => tilesStart s v [a]

end Sys2Proof.Machine
end

