-- ==== Sys2Proof/Machine/Record.lean ====
section
/-! DEFINITION. What an array operation does (R182 to R192), and the recording of operations in the ebb log (R403 to R411, R421). -/
namespace Sys2Proof.Machine
open Sys2Proof

/-! ### Fields of descriptors and records in memory -/

/-- A little-endian field read, and written, through the engine. -/
def engField (s : State) (e : Eng) (va n : Nat) : EngM Nat :=
  match engSpan s e 3 va n with
  | .ok bs => .ok (ofBytes bs)
  | .error k => .error k
def engPut (s : State) (e : Eng) (va n v : Nat) : EngM State := engWriteSpan e 3 s va (toBytes n v)

/-! ### Recorded operations (R407 to R410) -/

/-- Whether an operation is of a recorded opcode (R409). -/
def recorded (i : Instr) : Bool :=
  match i with
  | .tmma .. | .tmmaw .. | .tmmaz .. | .tmmas .. | .tew .. | .tred .. | .tsmx .. | .tnorm .. | .tcvt .. => true
  | _ => false

/-- S flags of the first source, the second and the output (R409). -/
def saveFlags (i : Instr) : Bool × Bool × Bool :=
  match matrixOf i with
  | some (_, h, _) => (h.sva || h.asrc, h.svb, false)
  | none =>
    match i with
    | .tew _ fn _ _ _ _ a b => (a, b && tewBinary fn, false)
    | .tred _ _ _ _ a => (a, false, false)
    | .tsmx _ _ _ _ y => (false, false, y)
    | .tnorm _ _ _ _ a => (a, false, false)
    | _ => (false, false, false)

/-- The destination tile, and the tiles that are first and second source (R187, R410). -/
def destTile (i : Instr) (vals : List Word) : Nat :=
  match matrixOf i with
  | some (_, h, _) => headerTile h
  | none =>
    match i with
    | .tew _ _ _ _ _ d _ _ => d.toNat
    | .tred _ _ _ d _ => d.toNat
    | .tsmx _ _ _ d _ => d.toNat
    | .tnorm _ _ _ d _ => d.toNat
    | _ => opVal vals 0 % 2048
def sourceTiles (i : Instr) (vals : List Word) : Option Nat × Option Nat :=
  match i with
  | .tew _ fn _ _ _ _ _ _ => (some (opVal vals 0 % 2048), if tewBinary fn then some (opVal vals 4 % 2048) else none)
  | .tred .. | .tsmx .. | .tnorm .. | .tcvt .. => (some (opVal vals 0 % 2048), none)
  | _ => (none, none)

/-- Whether the operation adds into the tile's prior value. -/
def addsPrior (i : Instr) : Bool :=
  match matrixOf i with
  | some (_, h, _) => !h.za
  | none => false

/-- Bytes of a save area of a memory or raft-register operand (R408, R421): lines, elements of a line, elements of a K-block, of which the
last one of a line may hold fewer (R182). -/
def operandBytes (e : Elem) (lines k g : Nat) : Nat :=
  lines * (k * storeBits e / 8) + (if isScaled e then lines * ((k + g - 1) / g) * 4 else 0)

def groupLen (e : Elem) (g : Grp) : Nat := if isAE e then grpSize g else 32

/-- Bytes of the save areas. -/
def saveBytes (i : Instr) (vals : List Word) : Nat :=
  let (sa, sb, sy) := saveFlags i
  match matrixOf i with
  | some (k, h, g) =>
    let gb := groupLen h.bfmt g
    (if sa then operandBytes h.afmt (headerM h) (logicalK k h) 32 else 0) +
    (if sb then operandBytes h.bfmt 128 (storedK k h) gb + (if k = MKind.s then 128 * (storedK k h / 32) * 8 else 0) else 0)
  | none =>
    let tile (f : Bool) (d : Option Nat) : Nat := match f, d with | true, some d => 512 * (tileOf d).m | _, _ => 0
    tile sa (sourceTiles i vals).1 + tile sb (sourceTiles i vals).2 + tile sy (some (destTile i vals))

/-- The producer of a tile: the record that last wrote all its rows, where that record's tile is the same (R410). -/
def producer (r : Recording) (d : Option Nat) : Nat :=
  match d with
  | none => 0xFFFFFFFF
  | some d =>
    let t := tileOf d
    let es := (upto (t.m / 16)).map (fun i => tget r.prod (t.row / 16 + i))
    match es.head? with
    | some (some p) => if es.all (fun x => decide (x = some p)) && decide (p.2 = d) then p.1.toNat else 0xFFFFFFFF
    | _ => 0xFFFFFFFF

/-- The first `n` rows of a tile written by a record, or by an operation that leaves none. -/
def setProducer (r : Recording) (d n : Nat) (p : Option (Word × Nat)) : Recording :=
  let t := tileOf d
  { r with prod := (upto ((n + 15) / 16)).foldl (fun m i =>
      match p with
      | some x => tput m (t.row / 16 + i) x
      | none => tdel m (t.row / 16 + i)) r.prod }

/-- The 96 bytes before the save areas (R406, R407). -/
def recordHead (r : Recording) (i : Instr) (vals : List Word) (len : Nat) : List Byte :=
  match fieldsOf i with
  | none => []
  | some raw =>
    let (sa, sb, sy) := saveFlags i
    let b (x : Bool) : Nat := if x then 1 else 0
    let src := sourceTiles i vals
    let none32 := 0xFFFFFFFF
    let word0 := raw.opc + 256 * raw.sub + 2 ^ 13 * b sa + 2 ^ 14 * b sb + 2 ^ 15 * b sy + 65536 * (len / 32 % 65536)
    let ab : List Nat := match matrixOf i with
      | some _ => (upto 8).map (opVal vals)
      | none => [src.1.getD 0, 0, 0, 0, src.2.getD 0, 0, 0, 0]
    let scalar : Nat := match i with
      | .tew _ .scl .. => opVal vals 8
      | .tsmx .. => opVal vals 8
      | .tnorm .. => opVal vals 8
      | _ => 0
    let ac := addsPrior i
    let words := [word0, r.seq.toNat, producer r src.1, producer r src.2, none32, none32, none32, destTile i vals + 2048 * b ac,
                  (match matrixOf i with | some _ => raw.lit | none => 0), raw.mod + 2 ^ 14 * raw.lsel] ++ ab ++
                 [scalar, if ac then producer r (some (destTile i vals)) else none32, none32, 0, 0, 0]
    words.flatMap (toBytes 4)

/-- What the record of an operation comes to: it stands at an address, or it does not fit anywhere (R411). -/
inductive Logged where
  | at_ (s : State) (addr : Nat)
  | full (s : State)

/-- Whether the first words of a descriptor keep its alignment, reserved bits and limits (R404, R7): BASE, FULL, GFULL and CLOSED; SIZE; GBASE. -/
def descFits (addr w0 size gbase : Nat) : Bool :=
  decide (addr % 64 = 0) && decide (w0 / 2 ^ 55 = 0) && decide (w0 % 2 ^ 52 % 32 = 0) && decide (size % 32 = 0) && decide (gbase / 2 ^ 52 = 0)

/-- The bytes from CUR on in a segment, where `len` fit; otherwise FULL, or the chained segment (R411). A chained descriptor that R7 refuses
is no segment to take. (DESIGN CHOICE, log 89.) -/
def takeSpace (e : Eng) (blk : Nat) (seq : Word) (len : Nat) : Nat → Nat → State → EngM Logged
  | 0, _, s => .ok (.full s)
  | fuel + 1, seg, s =>
    match engField s e seg 8, engField s e (seg + 8) 4, engField s e (seg + 0xC) 4, engField s e (seg + 0x28) 8 with
    | .ok w0, .ok size, .ok cur, .ok next =>
      if cur + len ≤ size then
        match engPut s e (seg + 0xC) 4 (cur + len) with
        | .ok s => .ok (.at_ s (w0 % 2 ^ 52 + cur))
        | .error k => .error k
      else if next = 0 then
        match engPut s e seg 8 (w0 / 2 ^ 53 * 2 ^ 53 + 2 ^ 52 + w0 % 2 ^ 52) with
        | .ok s => .ok (.full s)
        | .error k => .error k
      else
        match engField s e next 8, engField s e (next + 8) 4, engField s e (next + 0x10) 8 with
        | .error k, _, _ => .error k
        | _, .error k, _ => .error k
        | _, _, .error k => .error k
        | .ok v0, .ok size', .ok gbase =>
          if !descFits next v0 size' gbase then
            match engPut s e seg 8 (w0 / 2 ^ 53 * 2 ^ 53 + 2 ^ 52 + w0 % 2 ^ 52) with
            | .ok s => .ok (.full s)
            | .error k => .error k
          else
          match engAll (fun (p : Nat × Nat × Nat) s => engPut s e (next + p.1) p.2.1 p.2.2)
              [(0, 8, v0 / 2 ^ 55 * 2 ^ 55 + v0 % 2 ^ 52), (0xC, 4, 0), (0x20, 8, seg), (0x28, 8, 0), (0x38, 4, seq.toNat), (0x3C, 4, 0)] s with
          | .error k => .error k
          | .ok s =>
            takeSpace e blk seq len fuel next (s.modBlock blk (fun b => { b with recording := { b.recording with seg := next } }))
    | .error k, _, _, _ => .error k
    | _, .error k, _, _ => .error k
    | _, _, .error k, _ => .error k
    | _, _, _, .error k => .error k

/-- The record of an operation that becomes complete, its save areas zero until `writeSaves` (R408). -/
def logRecord (s : State) (v : TileEnv) (i : Instr) (vals : List Word) : EngM Logged :=
  match tget s.blocks v.blk with
  | none => .ok (.full s)
  | some b =>
    let r := b.recording
    let len := (96 + saveBytes i vals + 31) / 32 * 32
    match takeSpace v.eng v.blk r.seq len 3 r.seg s with
    | .error k => .error k
    | .ok (.full s) => .ok (.full s)
    | .ok (.at_ s addr) =>
      let bs := recordHead r i vals len ++ List.replicate (len - 96) 0
      match engWriteSpan v.eng (spanLines addr len) s addr bs with
      | .error k => .error k
      | .ok s =>
        .ok (.at_ (s.modBlock v.blk (fun b => { b with recording :=
          { setProducer b.recording (destTile i vals) (tileOf (destTile i vals)).m (some (r.seq, destTile i vals)) with seq := r.seq + 1 } })) addr)

/-- An unrecorded operation that writes rows leaves them without a producer (R410): TWR through a record writes the rows of its box. -/
def clearProducer (s : State) (v : TileEnv) (i : Instr) (vals : List Word) (recs : List (Nat × Shape)) : State :=
  let d := opVal vals 0 % 2048
  let clear (n : Nat) : State := s.modBlock v.blk (fun b => { b with recording := setProducer b.recording d n none })
  match i with
  | .taccZero .. | .taccMul .. | .twrReg .. => clear (tileOf d).m
  | .twrRec .. => (match recs with | (_, h) :: _ => clear (boxRows h (tileOf d).m) | [] => s)
  | _ => s

/-- The save area of an operand: element bytes of all lines, then all scales (R408, R421). -/
def operandSave (e : Elem) (lines : List (List KBlock)) : List Byte :=
  lines.flatMap (fun l => l.flatMap (fun b => bytesOf e b.codes)) ++
  (if isScaled e then lines.flatMap (fun l => l.flatMap (fun b => toBytes 4 b.s20)) else [])
def tileSave (rows : List (List Word)) : List Byte := rows.flatMap (fun r => r.flatMap (fun w => toBytes 4 w.toNat))

/-! ### Performing an operation -/

/-- Why an operation does not end: an operand-fetch fault, or an uncorrectable error in the accumulators or the B-store (R530). -/
inductive TileBad where
  | fetch (cause va rec_ : Nat)
  | hard
  deriving DecidableEq, Repr

/-- What an operation comes to: the state, words for registers of members, health events, and whether it fails. -/
structure TileEnd where
  s : State
  regs : List (Nat × Word)
  ev : Health
  bad : Option TileBad

def TileEnd.ok (s : State) : TileEnd := ⟨s, [], Health.none, none⟩

/-- An engine failure of a transfer. -/
def tileBad (rec_ : Nat) (k : EngErr) : TileBad :=
  match k with
  | .stop va => .fetch 0x09 va rec_
  | .fault c va => .fetch c va rec_

/-- Actions in order, up to the first that fails; what was done before it stays (R359). -/
def engRun {α : Type} (g : α → State → EngM State) : List α → State → State × Option EngErr
  | [], s => (s, none)
  | a :: as, s =>
    match g a s with
    | .error k => (s, some k)
    | .ok s => engRun g as s

/-- The save areas written behind a record's operand block. -/
def writeSaves (s : State) (e : Eng) (log : Option Nat) (bs : List Byte) : EngM State :=
  match log with
  | none => .ok s
  | some a => if bs = [] then .ok s else engWriteSpan e (spanLines (a + 96) bs.length) s (a + 96) bs

/-- The rows that a tile function gives, with its health events (R188 to R192): sources `x` and `b`, the destination's rows before. -/
def tileResult (i : Instr) (vals : List Word) (x b old : List (List Word)) : List (List Word) × Health :=
  let c : Word := vals.getD 8 0
  match i with
  | .tew _ fn _ _ _ _ _ _ =>
    (if tewBinary fn then List.zipWith (List.zipWith (fun p q => tewVal fn p q c)) x b else x.map (fun r => r.map (fun p => tewVal fn p 0 c)),
     Health.none)
  | .tred _ op _ _ _ => (List.zipWith (fun r o => tredVal op r :: o.tail) x old, Health.none)
  | .tsmx .. => (x.map (softmaxRow c), Health.none)
  | .tnorm .. => (x.map (normRow c), Health.none)
  | .tcvt _ mode _ bf rnd strm =>
    let rs := x.zipIdx.map (fun p => tcvtRow (bfElem bf) (decide (mode = .ocp)) rnd (vals.getD 9 0) p.2 strm.toNat p.1)
    (rs.map (·.1), Health.sum (rs.map (·.2)))
  | _ => (x, Health.none)

/-- The first raft register of a matrix instruction's A (R181). -/
def areaReg (i : Instr) : Nat :=
  match i with
  | .tmma _ a _ _ => a.toNat
  | .tmmaw _ a _ _ _ => a.toNat
  | .tmmaz _ a _ _ _ => a.toNat
  | .tmmas _ a _ _ => a.toNat
  | _ => 0

/-- The operands of a matrix operation as they are read: A's rows, and B's columns with their metadata. The error gives the record. -/
def matrixOperands (s : State) (v : TileEnv) (op : ArrayOp) (k : MKind) (h : Header) (g : Grp) :
    Except TileBad (List (List KBlock) × List (List KBlock × List Nat)) :=
  let m := s.mixed op.seen
  match operandA m v k h (areaReg op.instr) op.vals op.spans op.recs, operandB m op.seen v k h g op.vals op.recs with
  | .ok a, .ok b => .ok (a, b)
  | .error z, _ => .error (tileBad ((op.recs.head?.map (·.1)).getD 0) z)
  | _, .error z => .error (tileBad ((op.recs.getLast?.map (·.1)).getD 0) z)

/-- The save areas of a matrix operation (R408). -/
def matrixSaves (i : Instr) (h : Header) (a : List (List KBlock)) (b : List (List KBlock × List Nat)) : List Byte :=
  let (sa, sb, _) := saveFlags i
  (if sa then operandSave h.afmt a else []) ++
  (if sb then operandSave h.bfmt (b.map (·.1)) ++ b.flatMap (fun c => c.2.flatMap (toBytes 8)) else [])

/-- A tile function's sources, and its result with its health events. -/
def functionValues (s : State) (v : TileEnv) (op : ArrayOp) : List (List Word) × List (List Word) × List (List Word) × Health :=
  let src := sourceTiles op.instr op.vals
  let x := readTile s v.twin v.base (tileOf (src.1.getD 0))
  let b := match src.2 with | some b => readTile s v.twin v.base (tileOf b) | none => []
  let (y, ev) := tileResult op.instr op.vals x b (readTile s v.twin v.base (tileOf (destTile op.instr op.vals)))
  (x, b, y, ev)

/-- The save areas of a tile function (R408). -/
def functionSaves (i : Instr) (x b y : List (List Word)) : List Byte :=
  let (sa, sb, sy) := saveFlags i
  (if sa then tileSave x else []) ++ (if sb then tileSave b else []) ++ (if sy then tileSave y else [])

/-- The save areas of an operation as its sources stand: written when it becomes complete and when it begins, so that the record holds
values before any result is written (R408). What the operation reads at last stands in them when it is done. (DEDUCED, log 90.) -/
def opSaves (s : State) (v : TileEnv) (op : ArrayOp) : List Byte :=
  if op.log.isNone then []
  else
    match matrixOf op.instr with
    | some (k, h, g) =>
      (match matrixOperands s v op k h g with
       | .ok (a, b) => matrixSaves op.instr h a b
       | .error _ => [])
    | none => let (x, b, y, _) := functionValues s v op; functionSaves op.instr x b y

/-- A matrix operation performed. -/
def matrixPerform (s : State) (v : TileEnv) (op : ArrayOp) (k : MKind) (h : Header) (g : Grp) : TileEnd :=
  let t := tileOf (headerTile h)
  if (!h.za && tilePoisoned s v.twin v.base t) || slotsPoisoned s v k h op.vals then ⟨s, [], Health.none, some .hard⟩
  else
    match matrixOperands s v op k h g with
    | .error z => ⟨s, [], Health.none, some z⟩
    | .ok (a, b) =>
      match writeSaves s v.eng op.log (matrixSaves op.instr h a b) with
      | .error z => ⟨s, [], Health.none, some (tileBad 0 z)⟩
      | .ok s =>
        TileEnd.ok (writeTile s v.twin v.base t
          (matrixResult k h g (a.map (rowVals h)) (b.map (columnVals k h)) (readTile s v.twin v.base t)))

/-- A tile function performed. -/
def functionPerform (s : State) (v : TileEnv) (op : ArrayOp) : TileEnd :=
  let src := sourceTiles op.instr op.vals
  let a := tileOf (src.1.getD 0)
  let d := tileOf (destTile op.instr op.vals)
  let poisoned := tilePoisoned s v.twin v.base a ||
    (match src.2 with | some b => tilePoisoned s v.twin v.base (tileOf b) | none => false)
  if poisoned then ⟨s, [], Health.none, some .hard⟩
  else
    let (x, b, y, ev) := functionValues s v op
    match writeSaves s v.eng op.log (functionSaves op.instr x b y) with
    | .error z => ⟨s, [], Health.none, some (tileBad 0 z)⟩
    | .ok s =>
      let s := match op.instr with
        | .tred .. => y.zipIdx.foldl (fun s p => writeCols s v.twin (v.base + d.row + p.2) 0 (p.1.take 1)) s
        | _ => writeTile s v.twin v.base d y
      { TileEnd.ok s with ev := ev }

/-- A word of a tile read out in a format of TRD .reg (R185). -/
def readOut (dt : Elem) (rnd : Rnd) (w : Word) : Nat :=
  if dt = .f32 then w.toNat else (convElem dt (plainMode rnd) (inpOf w)).code

/-- TRD .reg (R185): the words of every thread of every member. -/
def trdRegs (s : State) (v : TileEnv) (t : Tile) (d : Reg) (dt : Elem) (q : Nat) (rnd : Rnd) : List (Nat × Word) :=
  v.members.zipIdx.flatMap (fun p =>
    let (w, wp) := p.1
    (upto 32).flatMap (fun th =>
      let row := v.base + t.row + 16 * p.2 + th % 16
      let cs := (upto 16).map (fun c => readOut dt rnd (s.accAt v.twin row (32 * q + 16 * (th / 16) + c)))
      let ws : List Word := if dt = .f32 then cs.map (BitVec.ofNat 32) else wordsOf 8 (joinCodes 16 cs)
      ws.zipIdx.map (fun x => (regKey w (pairOf w wp) (d.toNat + x.2) th, x.1))))

/-- TWR .reg (R186): the members' spans into the tile. -/
def twrRegs (s : State) (v : TileEnv) (t : Tile) (d : Reg) (dt : Elem) (q : Nat) (spans : List (Nat × Word)) : State :=
  let n := if dt = .f32 then 16 else 8
  v.members.zipIdx.foldl (fun s p =>
    let (w, wp) := p.1
    (upto 32).foldl (fun s th =>
      let ws := (upto n).map (fun i =>
        match spans.find? (fun x => decide (x.1 = regKey w (pairOf w wp) (d.toNat + i) th)) with
        | some x => x.2.toNat
        | none => 0)
      let cs := if dt = .f32 then ws else splitCodes 16 16 (joinCodes 32 ws)
      writeCols s v.twin (v.base + t.row + 16 * p.2 + th % 16) (32 * q + 16 * (th / 16)) (cs.map (fun c => rne32 (elemVal dt c)))) s) s

/-- TRD .rec (R185): the tile's blocks written through the record. -/
def trdRecord (s : State) (v : TileEnv) (t : Tile) (h : Shape) (rec_ : Nat) (vals : List Word) (rnd : Rnd) (ocp : Bool) : TileEnd :=
  let x : End := { h := h, org := [], flume := none }
  let cols := boxCols h
  let blocks := (upto (boxRows h t.m)).flatMap (fun i =>
    (quantRow h.elem ocp rnd (vals.getD 9 0) (128 * i) (opVal vals 8 % 256) ((readRow s v.twin (v.base + t.row + i)).take cols)).zipIdx.map (fun q => (i, q)))
  let blocks := blocks.filter (fun p => decide (32 * p.2.2 < cols))
  let put (p : Nat × QBlock × Nat) (s : State) : EngM State :=
    let at' (c : Nat) : List Nat := tileIndex h vals p.1 (32 * p.2.2 + c)
    match engAll (fun (c : Nat × Nat) s => writeCode v.eng x (at' c.2) c.1 s) p.2.1.codes.zipIdx s with
    | .error k => .error k
    | .ok s => if h.scaled then writeScaleOf v.eng x (at' 0) p.2.1.s20 s else .ok s
  let (s, err) := engRun put blocks s
  ⟨s, [], Health.sum (blocks.map (fun p => p.2.1.ev)), err.map (tileBad rec_)⟩

/-- TWR .rec (R186): the record's elements, exactly converted, into the tile. -/
def twrRecord (s : State) (v : TileEnv) (t : Tile) (h : Shape) (rec_ : Nat) (vals : List Word) : TileEnd :=
  let x : End := { h := h, org := [], flume := none }
  let cols := boxCols h
  match engMap (fun i => engMap (fun n => readInp s v.eng x (tileIndex h vals i n)) (upto cols)) (upto (boxRows h t.m)) with
  | .error k => ⟨s, [], Health.none, some (tileBad rec_ k)⟩
  | .ok rows =>
    TileEnd.ok (rows.zipIdx.foldl (fun s p => writeCols s v.twin (v.base + t.row + p.2) 0 (p.1.map (fun i => rne32 i.val))) s)

/-- The pages of the record that a transfer goes through, for the walk-ahead TLB (R354). -/
def opPages (op : ArrayOp) : List Nat :=
  let t := tileOf (opVal op.vals 0)
  let pages (h : Shape) : List Nat :=
    let x : End := { h := h, org := [], flume := none }
    ((upto (boxRows h t.m)).flatMap (fun i => (upto (boxCols h)).flatMap (fun n =>
      if h.inside (tileIndex h op.vals i n) then (h.spots (tileIndex h op.vals i n)).map (fun p => x.addr p.off / 65536 * 65536) else []))).eraseDups
  match op.instr with
  | .trdRec .. | .twrRec .. => op.recs.flatMap (fun p => pages p.2)
  | _ => []

/-- An operation of the array performed (R182, R184 to R192). -/
def tilePerform (s : State) (v : TileEnv) (op : ArrayOp) : TileEnd :=
  let t := tileOf (opVal op.vals 0)
  let whenSound (r : TileEnd) : TileEnd := if tilePoisoned s v.twin v.base t then ⟨s, [], Health.none, some .hard⟩ else r
  let zeros := (upto t.m).map (fun _ => List.replicate 128 (0 : Word))
  let live (b : Bool) : TileEnd :=
    TileEnd.ok (s.modBlock v.blk (fun x => { x with live := (upto (t.m / 16)).foldl (fun m i => tputD m (t.row / 16 + i) false b) x.live }))
  match op.instr with
  | .tmma _ _ _ h => matrixPerform s v op .plain h .g32
  | .tmmaw _ _ _ h g => matrixPerform s v op .w h g
  | .tmmaz _ _ _ h g => matrixPerform s v op .z h g
  | .tmmas _ _ _ h => matrixPerform s v op .s h .g32
  | .taccZero .. => TileEnd.ok (writeTile s v.twin v.base t zeros)
  | .taccLive .. => live true
  | .taccDead .. => live false
  | .taccMul .. =>
    whenSound (TileEnd.ok (writeTile s v.twin v.base t
      ((readTile s v.twin v.base t).map (fun r => r.map (fun w => fmul w (op.vals.getD 8 0))))))
  | .trdReg _ d _ dt q rnd => whenSound { TileEnd.ok s with regs := trdRegs s v t d dt q.toNat rnd }
  | .twrReg _ d _ dt q => TileEnd.ok (twrRegs s v t d dt q.toNat op.spans)
  | .trdRec _ _ _ _ _ rnd ocp =>
    match op.recs with
    | (a, h) :: _ => whenSound (trdRecord s v t h a op.vals rnd ocp)
    | [] => TileEnd.ok s
  | .twrRec .. =>
    match op.recs with
    | (a, h) :: _ => twrRecord s v t h a op.vals
    | [] => TileEnd.ok s
  | _ => functionPerform s v op

end Sys2Proof.Machine
end

