-- ==== Sys2Proof/Machine/Ebb.lean ====
section
/-! DEFINITION. Ebb (R404, R406, R412 to R423): the records of a log, the gradient areas, the forward values that a walk obtains, the
adjoints, and one step of a walk. -/
namespace Sys2Proof.Machine
open Sys2Proof

/-- Why a step of a walk does not end: an operand-fetch fault; a descriptor or record refused (R269); no room for a gradient buffer,
with what has been allocated, or a ninth area needed, with the GFULL bits that the search has set (R414); an uncorrectable error in the accumulators or the B-store. -/
inductive WalkErr where
  | fetch (cause va : Nat)
  | refused
  | full (s : State)
  | ninth (s : State)
  | hard

abbrev WalkM := Except WalkErr

def walkErr (k : EngErr) : WalkErr :=
  match k with
  | .stop va => .fetch 0x09 va
  | .fault c va => .fetch c va

/-- An engine action within a walk. -/
def lift {α : Type} (x : EngM α) : WalkM α :=
  match x with
  | .ok a => .ok a
  | .error k => .error (walkErr k)

def WalkM.guard' (b : Bool) : WalkM Unit := if b then .ok () else .error .refused

/-- A span of any length read as 32-bit words. -/
def wordsAt (s : State) (e : Eng) (va n : Nat) : WalkM (List Word) :=
  match lift (engSpan s e (spanLines va (4 * n)) va (4 * n)) with
  | .error k => .error k
  | .ok bs => .ok ((chunksOf 4 n bs).map (fun l => BitVec.ofNat 32 (ofBytes l)))
def putWords (s : State) (e : Eng) (va : Nat) (ws : List Word) : WalkM State :=
  lift (engWriteSpan e (spanLines va (4 * ws.length)) s va (ws.flatMap (fun w => toBytes 4 w.toNat)))

/-! ### Segments and records -/

/-- A log record in memory: its address and its 24 words (R406, R407). -/
structure LogRec where
  addr : Nat
  words : List Word
  instr : Instr
  deriving DecidableEq, Repr

def LogRec.w (r : LogRec) (k : Nat) : Nat := (r.words.getD k 0).toNat
def LogRec.seq (r : LogRec) : Nat := r.w 1
def LogRec.sa (r : LogRec) : Bool := r.w 0 / 2 ^ 13 % 2 == 1
def LogRec.sb (r : LogRec) : Bool := r.w 0 / 2 ^ 14 % 2 == 1
def LogRec.sy (r : LogRec) : Bool := r.w 0 / 2 ^ 15 % 2 == 1
def LogRec.dtile (r : LogRec) : Nat := r.w 7 % 2048
def LogRec.adds (r : LogRec) : Bool := r.w 7 / 2 ^ 11 % 2 == 1

/-- The operand values of a record, as `operands` orders them. -/
def LogRec.vals (r : LogRec) (seed : Word) : List Word := (upto 8).map (fun k => r.words.getD (10 + k) 0) ++ [r.words.getD 18 0, seed]

/-- The instruction that a record names; its registers stand in the operand block. -/
def recordInstr (ws : List Word) : Option Instr :=
  let w (k : Nat) : Nat := (ws.getD k 0).toNat
  let opc := w 0 % 256
  let mat : Bool := opc = 0xB2 || opc = 0xB3 || opc = 0xB4 || opc = 0xBF
  let sub := w 0 / 256 % 32
  let raw : Raw :=
    { form := if mat then .w else .e, opc := opc, uni := false, g := 0, gn := false, d := 0,
      a := 4, b := if mat || (opc = 0xB8 && (sub = 7 || sub = 8)) then 8 else 0,
      c := if (opc = 0xB8 && sub = 9) || opc = 0xBB then 12 else 0,
      stall := 0, setc := 0, wait := 0, holdA := false, holdB := false, holdC := false, sub := sub,
      mod := w 9 % 2 ^ 14, lsel := if mat then 1 else 0, lit := if mat then w 8 else 0 }
  match parse raw with
  | some i => if recorded i then some i else none
  | none => none

/-- The record at an address; refused where a reserved field is not zero or no instruction is named (R7). -/
def readLog (s : State) (e : Eng) (addr : Nat) : WalkM LogRec :=
  match wordsAt s e addr 24 with
  | .error k => .error k
  | .ok ws =>
    let w (k : Nat) : Nat := (ws.getD k 0).toNat
    match recordInstr ws with
    | some i => if w 7 / 4096 = 0 ∧ w 21 = 0 ∧ w 22 = 0 ∧ w 23 = 0 then .ok ⟨addr, ws, i⟩ else .error .refused
    | none => .error .refused

/-- A descriptor that is aligned and keeps its reserved fields zero and its limits (R404). -/
def descOk (s : State) (e : Eng) (d : Nat) : WalkM (List Word) :=
  if d % 64 ≠ 0 then .error .refused
  else
    match wordsAt s e d 16 with
    | .error k => .error k
    | .ok ws =>
      let w (k : Nat) : Nat := (ws.getD k 0).toNat
      let base := w 0 + 2 ^ 32 * (w 1 % 2 ^ 20)
      let gbase := w 4 + 2 ^ 32 * w 5
      let seed := w 12 + 2 ^ 32 * w 13
      if w 1 / 2 ^ 23 = 0 ∧ base % 32 = 0 ∧ w 2 % 32 = 0 ∧ w 3 ≤ w 2 ∧ gbase % 128 = 0 ∧ gbase / 2 ^ 52 = 0 ∧ seed % 128 = 0 then .ok ws
      else .error .refused

/-- BASE and the end of the bytes written of a descriptor's log area. -/
def logBase (ws : List Word) : Nat := (ws.getD 0 0).toNat + 2 ^ 32 * ((ws.getD 1 0).toNat % 2 ^ 20)
def logEnd (ws : List Word) : Nat := logBase ws + (ws.getD 3 0).toNat
def logPrev (ws : List Word) : Nat := (ws.getD 8 0).toNat + 2 ^ 32 * (ws.getD 9 0).toNat

/-- The place `n` records further on in a log area that ends at `stop`. -/
def stepOver (s : State) (e : Eng) (stop : Nat) : Nat → Nat → WalkM Nat
  | 0, a => if a < stop then .ok a else .error .refused
  | n + 1, a =>
    if stop ≤ a then .error .refused
    else
      match wordsAt s e a 1 with
      | .error k => .error k
      | .ok ws =>
        let len := (ws.getD 0 0).toNat / 65536 * 32
        if len < 96 then .error .refused else stepOver s e stop n (a + len)

/-- Segments that a log may have. -/
def logFuel : Nat := 1048576

/-- The record of a sequence number, found through SEQ0 and PREV from the last segment (R413), and whether no record follows it. -/
def seekLog (s : State) (e : Eng) (seq : Nat) : Nat → Bool → Nat → WalkM (LogRec × Bool)
  | 0, _, _ => .error .refused
  | fuel + 1, last, d =>
    if d = 0 then .error .refused
    else
      match descOk s e d with
      | .error k => .error k
      | .ok ws =>
        let seq0 := (ws.getD 14 0).toNat
        if seq < seq0 then seekLog s e seq fuel (last && decide ((ws.getD 3 0).toNat = 0)) (logPrev ws)
        else
          match stepOver s e (logEnd ws) (seq - seq0) (logBase ws) with
          | .error k => .error k
          | .ok a =>
            match readLog s e a with
            | .error k => .error k
            | .ok r =>
              let stop := a + r.w 0 / 65536 * 32
              if r.seq = seq ∧ stop ≤ logEnd ws then .ok (r, last && decide (stop = logEnd ws)) else .error .refused

def findLog (s : State) (e : Eng) (d seq : Nat) : WalkM LogRec := (seekLog s e seq logFuel true d).map (·.1)

/-! ### Gradient areas (R413, R414, R422) -/

def none32 : Nat := 0xFFFFFFFF

/-- A descriptor as a gradient area (R404): aligned, its reserved bits zero, GBASE a multiple of 128. -/
def areaOk (s : State) (e : Eng) (d : Nat) : WalkM Unit :=
  if d % 64 ≠ 0 then .error .refused
  else
    match lift (engField s e d 8), lift (engField s e (d + 0x10) 8) with
    | .ok w0, .ok g => WalkM.guard' (decide (w0 / 2 ^ 55 = 0) && decide (g % 128 = 0) && decide (g / 2 ^ 52 = 0))
    | .error x, _ => .error x
    | _, .error x => .error x

/-- The descriptor of area `k` from area 0's; a descriptor on the way that R7 refuses ends the walk. -/
def areaDesc (s : State) (e : Eng) : Nat → Nat → WalkM Nat
  | 0, d => (areaOk s e d).map (fun _ => d)
  | k + 1, d =>
    match areaOk s e d, lift (engField s e (d + 0x28) 8) with
    | .error x, _ => .error x
    | _, .error x => .error x
    | .ok _, .ok n => if n = 0 then .error .refused else areaDesc s e k n

/-- The address of a gradient reference. -/
def refAddr (s : State) (e : Eng) (d ref : Nat) : WalkM Nat :=
  match areaDesc s e (ref / 2 ^ 29) d with
  | .error x => .error x
  | .ok a =>
    match lift (engField s e (a + 0x10) 8) with
    | .error x => .error x
    | .ok g => .ok (g % 2 ^ 52 + 128 * (ref % 2 ^ 29))

/-- A buffer of `units` of 128 bytes allocated in the current area and cleared: its reference (R414). -/
def allocate (e : Eng) (d0 units : Nat) : Nat → Nat → Nat → State → WalkM (State × Nat)
  | 0, _, _, s => .error (.ninth s)
  | fuel + 1, k, d, s =>
    match areaOk s e d with
    | .error x => .error x
    | .ok _ =>
    match lift (engField s e d 8), lift (engField s e (d + 0x18) 4), lift (engField s e (d + 0x1C) 4), lift (engField s e (d + 0x28) 8) with
    | .ok w0, .ok size, .ok cur, .ok next =>
      if w0 / 2 ^ 53 % 2 = 0 ∧ cur + units ≤ size then
        match lift (engPut s e (d + 0x1C) 4 (cur + units)), refAddr s e d0 (k * 2 ^ 29 + cur) with
        | .ok s, .ok a =>
          match putWords s e a (List.replicate (32 * units) 0) with
          | .ok s => .ok (s, k * 2 ^ 29 + cur)
          | .error x => .error x
        | .error x, _ => .error x
        | _, .error x => .error x
      else
        match (if w0 / 2 ^ 53 % 2 = 1 then .ok s else lift (engPut s e d 8 (w0 + 2 ^ 53))) with
        | .error x => .error x
        | .ok s => if next = 0 then .error (.full s) else allocate e d0 units fuel (k + 1) next s
    | .error x, _, _, _ => .error x
    | _, .error x, _, _ => .error x
    | _, _, .error x, _ => .error x
    | _, _, _, .error x => .error x

/-- A reference of a record's header: 4 GY, 5 GA, 6 GB, 20 GC, as word numbers. -/
def setRef (s : State) (e : Eng) (r : LogRec) (k ref : Nat) : WalkM State := putWords s e (r.addr + 4 * k) [BitVec.ofNat 32 ref]

/-- A reference as memory holds it now. -/
def getRef (s : State) (e : Eng) (r : LogRec) (k : Nat) : WalkM Nat :=
  match wordsAt s e (r.addr + 4 * k) 1 with
  | .error x => .error x
  | .ok ws => .ok (ws.getD 0 0).toNat

/-- A reference made where it is none. -/
def ensureRef (s : State) (e : Eng) (d : Nat) (r : LogRec) (k bytes : Nat) : WalkM State :=
  match getRef s e r k with
  | .error x => .error x
  | .ok v =>
    if v ≠ none32 then .ok s
    else
      match allocate e d (bytes / 128) 8 0 d s with
      | .error x => .error x
      | .ok (s, ref) => setRef s e r k ref

/-- The reference of a source with a producer: the producer's GY, allocated first where it is none (R413). -/
def linkRef (s : State) (e : Eng) (d : Nat) (r : LogRec) (k p : Nat) : WalkM State :=
  match getRef s e r k with
  | .error x => .error x
  | .ok v =>
    if v ≠ none32 ∨ p = none32 then .ok s
    else
      match findLog s e d p with
      | .error x => .error x
      | .ok pr =>
        match ensureRef s e d pr 4 (512 * (tileOf pr.dtile).m) with
        | .error x => .error x
        | .ok s =>
          match getRef s e pr 4 with
          | .error x => .error x
          | .ok g => setRef s e r k g

/-- A buffer's words in rows of `cols`. -/
def getBuf (s : State) (e : Eng) (d ref rows cols : Nat) : WalkM (List (List Word)) :=
  match refAddr s e d ref with
  | .error x => .error x
  | .ok a =>
    match wordsAt s e a (rows * cols) with
    | .error x => .error x
    | .ok ws => .ok (chunksOf cols rows ws)
def putBuf (s : State) (e : Eng) (d ref : Nat) (rows : List (List Word)) : WalkM State :=
  match refAddr s e d ref with
  | .error x => .error x
  | .ok a => putWords s e a rows.flatten

/-- Contributions added into a buffer, each with one rounding (R415). -/
def addBuf (s : State) (e : Eng) (d ref : Nat) (rows : List (List Word)) : WalkM State :=
  match getBuf s e d ref rows.length ((rows.head?.map (·.length)).getD 0) with
  | .error x => .error x
  | .ok old => putBuf s e d ref (List.zipWith (List.zipWith fadd) old rows)

/-! ### Forward values (R412) -/

/-- The operand of a save area: lines of `k` elements in K-blocks of `g`, and the bytes behind it. -/
def unsave (el : Elem) (lines k g : Nat) (bs : List Byte) : List (List KBlock) × List Byte :=
  let n := (k + g - 1) / g
  let sz := k * storeBits el / 8
  let data := (chunksOf sz lines bs).flatMap (chunksOf (g * storeBits el / 8) n)
  let rest := bs.drop (lines * sz)
  let scales : List Nat := if isScaled el then (chunksOf 4 (lines * n) rest).map (fun l => ofBytes l % 2 ^ 20) else List.replicate (lines * n) 0
  let blocks := List.zipWith (fun d sc =>
    let codes := if isMx6 el then codesOf el d else (splitCodes (storeBits el) (8 * d.length / storeBits el) (ofBytes d)).map (· % 2 ^ elemBits el)
    KBlock.mk codes sc) data scales
  (chunksOf n lines blocks, rest.drop (if isScaled el then lines * n * 4 else 0))

/-- Rows of A and columns of B of a matrix record, with the kept positions of a sparse B. -/
structure MatIn where
  a : List (List Num)
  b : List (List Num)
  kept : List (List Bool)

/-- The kept positions of a column of a sparse operand. -/
def keptOf (h : Header) (metas : List Nat) : List Bool :=
  let (n, m) := sparsity h
  metas.flatMap (fun mask => (upto 64).map (fun i =>
    let bit (k : Nat) : Bool := mask / 2 ^ k % 2 == 1
    let g := i / m
    bit i && decide (((upto (i % m)).filter (fun k => bit (g * m + k))).length < n)))

def matIn (s : State) (v : TileEnv) (r : LogRec) (seed : Word) (k : MKind) (h : Header) (g : Grp) : WalkM MatIn :=
  let gb := groupLen h.bfmt g
  let lenA := if r.sa then operandBytes h.afmt (headerM h) (logicalK k h) 32 else 0
  let lenB := if r.sb then operandBytes h.bfmt 128 (storedK k h) gb + (if k = MKind.s then 128 * (storedK k h / 32) * 8 else 0) else 0
  match lift (engSpan s v.eng (spanLines (r.addr + 96) (lenA + lenB)) (r.addr + 96) (lenA + lenB)) with
  | .error x => .error x
  | .ok bs =>
    let recA : WalkM (List (Nat × Shape)) :=
      if r.sa || h.asrc then .ok []
      else match takeRecord s v.eng (opAddr (r.vals seed) 0) with
        | .ok (_, x) => .ok [((opAddr (r.vals seed) 0).toNat, x)]
        | .error .invalid => .error .refused
        | .error (.fetch z) => .error (walkErr z)
    let recB : WalkM (List (Nat × Shape)) :=
      if r.sb || !h.tb then .ok []
      else
        match takeRecord s v.eng (opAddr (r.vals seed) 4) with
        | .ok (_, x) =>
          if k = MKind.s then
            match takeRecord s v.eng (opAddr (r.vals seed) 4 + 64) with
            | .ok (_, y) => .ok [(0, x), (0, y)]
            | .error .invalid => .error .refused
            | .error (.fetch z) => .error (walkErr z)
          else .ok [(0, x)]
        | .error .invalid => .error .refused
        | .error (.fetch z) => .error (walkErr z)
    match recA, recB with
    | .ok ra, .ok rb =>
      let a : WalkM (List (List KBlock)) :=
        if r.sa then .ok (unsave h.afmt (headerM h) (logicalK k h) 32 bs).1
        else if h.asrc then .error .refused
        else lift (operandA s v k h 0 (r.vals seed) [] ra)
      let b : WalkM (List (List KBlock × List Nat)) :=
        if r.sb then
          let (cols, rest) := unsave h.bfmt 128 (storedK k h) gb (bs.drop lenA)
          let metas := chunksOf (storedK k h / 32) 128 ((chunksOf 8 (128 * (storedK k h / 32)) rest).map ofBytes)
          .ok (cols.zipIdx.map (fun p => (p.1, if k = MKind.s then metas.getD p.2 [] else [])))
        else if slotsPoisoned s v k h (r.vals seed) then .error .hard
        else lift (operandB s (s.look v.blk v.twin) v k { h with asrc := true } g (r.vals seed) rb)
      match a, b with
      | .ok a, .ok b =>
        .ok ⟨a.map (rowVals h), b.map (columnVals k h),
             b.map (fun c => if k = MKind.s then keptOf h c.2 else List.replicate (logicalK k h) true)⟩
      | .error x, _ => .error x
      | _, .error x => .error x
    | .error x, _ => .error x
    | _, .error x => .error x

/-- The rows of a tile as they stand. -/
def standing (s : State) (v : TileEnv) (d : Nat) : WalkM (List (List Word)) :=
  let t := tileOf d
  if v.rows < t.row + t.m then .error .refused
  else if tilePoisoned s v.twin v.base t then .error .hard
  else .ok (readTile s v.twin v.base t)

/-- The value that a record wrote to its tile, its operation performed again from its own operands; `fuel` bounds the chain of
producers, each of a lower number. -/
def forward (s : State) (v : TileEnv) (log : Nat) (seed : Word) : Nat → Nat → WalkM (List (List Word))
  | 0, _ => .error .refused
  | fuel + 1, seq =>
    let source (d p : Nat) (saved : Option Nat) : WalkM (List (List Word)) :=
      match saved with
      | some a =>
        match wordsAt s v.eng a (128 * (tileOf d).m) with
        | .ok ws => .ok (chunksOf 128 (tileOf d).m ws)
        | .error x => .error x
      | none => if p = none32 then standing s v d else if seq ≤ p then .error .refused else forward s v log seed fuel p
    match findLog s v.eng log seq with
    | .error x => .error x
    | .ok r =>
      match matrixOf r.instr with
      | some (k, h, g) =>
        let old : WalkM (List (List Word)) :=
          if h.za then .ok ((upto (headerM h)).map (fun _ => List.replicate 128 0)) else source r.dtile (r.w 19) none
        match old, matIn s v r seed k h g with
        | .ok old, .ok m => .ok (matrixResult k h g m.a m.b old)
        | .error x, _ => .error x
        | _, .error x => .error x
      | none =>
        let (da, db) := sourceTiles r.instr (r.vals seed)
        let xa := source (da.getD 0) (r.w 2) (if r.sa then some (r.addr + 96) else none)
        let after := r.addr + 96 + (if r.sa then 512 * (tileOf (da.getD 0)).m else 0)
        let xb : WalkM (List (List Word)) := match db with
          | some d => source d (r.w 3) (if r.sb then some after else none)
          | none => .ok []
        match xa, xb with
        | .ok a, .ok b =>
          let old := readTile s v.twin v.base (tileOf r.dtile)
          .ok (tileResult r.instr (r.vals seed) a b old).1
        | .error x, _ => .error x
        | _, .error x => .error x

/-! ### Adjoints (R416 to R418) -/

/-- TEW's contributions to its first and second source (R417). -/
def tewGrad (fn : TewFn) (dy x b c : Word) : Word × Word :=
  let one : Word := 0x3F800000
  match fn with
  | .copy => (dy, 0)
  | .relu => (if Num.lt (.zero false) (numOf x) then dy else 0, 0)
  | .gelu =>
    let t := ftanh (geluArg x)
    let p := fmul 0x3F000000 (fadd one t)
    let q := fmul (fmul (fmul (fmul 0x3F000000 x) (fsub one (fmul t t))) 0x3F4C422A)
                  (fadd one (fmul (fmul (fmul 0x40400000 0x3D372713) x) x))
    (fmul dy (fadd p q), 0)
  | .silu => let g := sigmoid x; (fmul dy (fmul g (fadd one (fmul x (fsub one g)))), 0)
  | .exp => (fmul dy (fexp x), 0)
  | .tanh => let t := ftanh x; (fmul dy (fsub one (fmul t t)), 0)
  | .sigm => let g := sigmoid x; (fmul dy (fmul g (fsub one g)), 0)
  | .add => (dy, dy)
  | .mul => (fmul dy b, fmul dy x)
  | .scl => (fmul dy c, 0)

/-- The row adjoints of TRED, TSMX, TNORM and TCVT (R418): `x` the source row, `y` the output row. -/
def rowGrad (i : Instr) (c : Word) (dy x y : List Word) : List Word :=
  match i with
  | .tred _ op _ _ _ =>
    match op with
    | .add => x.map (fun _ => dy.headD 0)
    | .max =>
      let isNan (w : Word) : Bool := (numOf w).isNan
      let j := match x.findIdx? isNan with
        | some j => j
        | none => (x.findIdx? (fun w => decide (w = rowMax x))).getD 0
      (upto 128).map (fun k => if k = j then dy.headD 0 else 0)
  | .tsmx .. =>
    if y.all (fun w => decide (w = 0)) then y.map (fun _ => 0)
    else
      let t := treeSum (List.zipWith fmul dy y)
      List.zipWith (fun d w => fmul (fmul w (fsub d t)) c) dy y
  | .tnorm .. =>
    let r := normFactor c x
    let g := treeSum (List.zipWith fmul dy x)
    let w := fmul (fmul (fmul r r) g) 0x3C000000
    List.zipWith (fun d x => fmul r (fsub d (fmul x w))) dy x
  | _ => dy

/-- Rows as columns. -/
def transpose (cols : Nat) (rows : List (List Num)) : List (List Num) := (upto cols).map (fun j => rows.map (fun r => r.getD j (.zero false)))

/-- The contributions of a matrix record (R416): dA, then dB, then the prior value. -/
def matrixGrad (s : State) (v : TileEnv) (d : Nat) (r : LogRec) (seed : Word) (k : MKind) (h : Header) (g : Grp)
    (gy : List (List Word)) : WalkM State :=
  let kk := logicalK k h
  match matIn s v r seed k h g with
  | .error x => .error x
  | .ok m =>
    let gn := gy.map (fun l => l.map numOf)
    let bRows := transpose kk m.b
    match getRef s v.eng r 5 with
    | .error x => .error x
    | .ok ga =>
      match getBuf s v.eng d ga (headerM h) kk with
      | .error x => .error x
      | .ok da =>
        match putBuf s v.eng d ga (List.zipWith (fun gr old => List.zipWith (fun br w => accumulate 32 gr br w) bRows old) gn da) with
        | .error x => .error x
        | .ok s =>
          match getRef s v.eng r 6 with
          | .error x => .error x
          | .ok gb =>
            match getBuf s v.eng d gb kk 128 with
            | .error x => .error x
            | .ok dbv =>
              let aCols := transpose kk m.a
              let gCols := transpose 128 gn
              let rows := (List.zip aCols dbv).zipIdx.map (fun p =>
                (List.zip gCols p.1.2).zipIdx.map (fun q =>
                  if (m.kept.getD q.2 []).getD p.2 true then accumulate 32 q.1.1 p.1.1 q.1.2 else q.1.2))
              match putBuf s v.eng d gb rows with
              | .error x => .error x
              | .ok s =>
                if h.za then .ok s
                else
                  match getRef s v.eng r 20 with
                  | .error x => .error x
                  | .ok gc => addBuf s v.eng d gc gy

/-- Whether a tile function's adjoint needs its first source's values (R417, R418); .mul alone needs the second's. -/
def needsSource (r : LogRec) : Bool :=
  match r.instr with
  | .tew _ fn _ _ _ _ _ _ => (match fn with | .copy | .add | .scl => false | _ => true)
  | .tred _ op _ _ _ => decide (op = .max)
  | .tsmx .. => !r.sy
  | .tnorm .. => true
  | _ => false
def needsSecond (r : LogRec) : Bool :=
  match r.instr with
  | .tew _ .mul _ _ _ _ _ _ => true
  | _ => false

/-- The contributions of a tile function's record (R417, R418); only the forward values that they need are obtained (R412). -/
def functionGrad (s : State) (v : TileEnv) (d : Nat) (r : LogRec) (seed : Word) (gy : List (List Word)) : WalkM State :=
  let (da, db) := sourceTiles r.instr (r.vals seed)
  let ta := tileOf (da.getD 0)
  let saved (a n : Nat) : WalkM (List (List Word)) :=
    match wordsAt s v.eng a (128 * n) with
    | .ok ws => .ok (chunksOf 128 n ws)
    | .error x => .error x
  let source (d p : Nat) : WalkM (List (List Word)) :=
    if p = none32 then standing s v d else if r.seq ≤ p then .error .refused else forward s v d seed (p + 1) p
  let zeros : List (List Word) := gy.map (fun l => l.map (fun _ => 0))
  let xa : WalkM (List (List Word)) := if !needsSource r then .ok zeros else if r.sa then saved (r.addr + 96) ta.m else source (da.getD 0) (r.w 2)
  let after := r.addr + 96 + (if r.sa then 512 * ta.m else 0)
  let xb : WalkM (List (List Word)) := match db with
    | some t => if !needsSecond r then .ok zeros else if r.sb then saved after (tileOf t).m else source t (r.w 3)
    | none => .ok []
  let c : Word := r.words.getD 18 0
  match r.instr with
  | .tew _ fn _ _ _ _ _ _ =>
    match xa, xb with
    | .ok x, .ok b =>
      let bs := if tewBinary fn then b else x
      let grads := List.zipWith (fun g p => List.zipWith (fun dy q => tewGrad fn dy q.1 q.2 c) g p) gy (List.zipWith List.zip x bs)
      match getRef s v.eng r 5 with
      | .error z => .error z
      | .ok ga =>
        match addBuf s v.eng d ga (grads.map (fun l => l.map (·.1))) with
        | .error z => .error z
        | .ok s =>
          if !tewBinary fn then .ok s
          else
            match getRef s v.eng r 6 with
            | .error z => .error z
            | .ok gb => addBuf s v.eng d gb (grads.map (fun l => l.map (·.2)))
    | .error z, _ => .error z
    | _, .error z => .error z
  | _ =>
    let rows : WalkM (List (List Word)) :=
      if r.sy then
        match saved after ta.m with
        | .ok y => .ok (List.zipWith (fun dy y => rowGrad r.instr c dy y y) gy y)
        | .error z => .error z
      else
        match xa with
        | .error z => .error z
        | .ok x => .ok (List.zipWith (fun dy x => rowGrad r.instr c dy x (softmaxRow c x)) gy x)
    match rows, getRef s v.eng r 5 with
    | .ok rows, .ok ga => addBuf s v.eng d ga rows
    | .error z, _ => .error z
    | _, .error z => .error z

/-- The buffers that a record's adjoint adds into: header word, producer, bytes of an own buffer (R413). -/
def gradTargets (r : LogRec) (seed : Word) : List (Nat × Nat × Nat) :=
  match matrixOf r.instr with
  | some (k, h, _) =>
    [(5, none32, 4 * headerM h * logicalK k h), (6, none32, 512 * logicalK k h)] ++
    (if h.za then [] else [(20, r.w 19, 512 * headerM h)])
  | none =>
    let (da, db) := sourceTiles r.instr (r.vals seed)
    (match da with | some d => [(5, r.w 2, 512 * (tileOf d).m)] | none => []) ++
    (match db with | some d => [(6, r.w 3, 512 * (tileOf d).m)] | none => [])

/-- A list of actions, left to right. -/
def walkAll {α : Type} (g : α → State → WalkM State) : List α → State → WalkM State
  | [], s => .ok s
  | a :: as, s =>
    match g a s with
    | .error x => .error x
    | .ok s => walkAll g as s

/-- One record of a walk (R413). -/
def walkRecord (s : State) (v : TileEnv) (d : Nat) (last : Bool) (sd : Nat) (seed : Word) (r : LogRec) : WalkM State :=
  let m := (tileOf r.dtile).m
  let seeded : WalkM State :=
    match getRef s v.eng r 4 with
    | .error x => .error x
    | .ok gy =>
      if last ∧ sd ≠ 0 ∧ gy = none32 then
        match ensureRef s v.eng d r 4 (512 * m) with
        | .error x => .error x
        | .ok s =>
          match wordsAt s v.eng sd (128 * m), getRef s v.eng r 4 with
          | .ok ws, .ok gy => putBuf s v.eng d gy [ws]
          | .error x, _ => .error x
          | _, .error x => .error x
      else .ok s
  match seeded with
  | .error x => .error x
  | .ok s =>
    match getRef s v.eng r 4 with
    | .error x => .error x
    | .ok gy =>
      if gy = none32 then .ok s
      else
        let ts := gradTargets r seed
        match walkAll (fun (t : Nat × Nat × Nat) s => linkRef s v.eng d r t.1 t.2.1) ts s with
        | .error x => .error x
        | .ok s =>
          match walkAll (fun (t : Nat × Nat × Nat) s => ensureRef s v.eng d r t.1 t.2.2) ts s with
          | .error x => .error x
          | .ok s =>
            match getBuf s v.eng d gy m 128 with
            | .error x => .error x
            | .ok g =>
              match matrixOf r.instr with
              | some (k, h, gr) => matrixGrad s v d r seed k h gr g
              | none => functionGrad s v d r seed g

/-- What a step of a walk comes to: more records to walk, or the status of EBB (R269). -/
inductive Walked where
  | more (s : State)
  | done (s : State) (status : Nat)

/-- One step: the record of number WREM − 1, found through SEQ0 and PREV, and the cursor (R413). A log is empty where its last segment
holds no record and begins with number 0. (DEDUCED, log 37.) -/
def walkStep (s : State) (v : TileEnv) (d : Nat) (seed : Word) : WalkM Walked :=
  match descOk s v.eng d with
  | .error x => .error x
  | .ok ws =>
    let wrem := (ws.getD 15 0).toNat
    let sd := (ws.getD 12 0).toNat + 2 ^ 32 * (ws.getD 13 0).toNat
    if (ws.getD 3 0).toNat = 0 ∧ (ws.getD 14 0).toNat = 0 then .ok (.done s 1)
    else if wrem = 0 then .ok (.done s 0)
    else
      match seekLog s v.eng (wrem - 1) logFuel true d with
      | .error x => .error x
      | .ok (r, last) =>
        match walkRecord s v d last sd seed r with
        | .error x => .error x
        | .ok s =>
          match putWords s v.eng (d + 0x3C) [BitVec.ofNat 32 (wrem - 1)] with
          | .error x => .error x
          | .ok s => .ok (if wrem = 1 then .done s 0 else .more s)

end Sys2Proof.Machine
end

