-- ==== Sys2Proof/Machine/Raft.lean ====
section
/-! DEFINITION. Rafts (R170 to R173): CONVENE and DISBAND, the tile instructions, opcodes 0xB0 to 0xBC and 0xBF, EBB (R269), and the
operations of a twin's array (R174, R180, R183). -/
namespace Sys2Proof.Machine
open Sys2Proof

/-! ### Members -/

/-- The issuer that a member is, its threads those whose guard is true. -/
def memberCtx (s : State) (m : Member) : Option Ctx :=
  match s.issuerOf m.warp m.ent with
  | .ok c => some { c with act := c.guardMask m.fr, uni := false }
  | _ => none

/-- A change that a member makes, whoever takes the step. -/
def asMember (s : State) (m : Member) (g : Ctx → State) : State :=
  match memberCtx s m with
  | some c => { g c with cur := s.cur }
  | none => s

/-- The member's split goes on past its instruction; what the instruction still has to write is given as a flight. -/
def completeMember (n : Names) (kind : FlightKind) (regs : Ctx → List (Nat × Word)) (s : State) (m : Member) : State :=
  asMember s m (fun c => finishFlight c m.fr (regs c) kind (advance c m.fr n))

/-- A trap in a member, whose instruction has no effect (R153, R173). -/
def trapMember (cause : Nat) (s : State) (m : Member) : State :=
  asMember s m (fun c => raiseTrap c m.fr cause (if c.act = 0 then c.split.mask else c.act) [] none)

/-! ### Forming and ending (R170 to R172) -/

/-- The formed rafts on a twin whose gangs hold their places. -/
def raftsOn (s : State) (twin : Nat) : List (Nat × Raft) :=
  s.rafts.filter (fun p => decide (p.2.twin = twin) && p.2.formed &&
    (match tget s.gangs p.2.gang with | some g => holdsPlace g.state | none => false))

/-- Members in member order: those on the leader core first, in ascending slot. -/
def memberOrder (s : State) (twin : Nat) (ms : List Member) : List Member :=
  sortBy (fun m => match tget s.warps m.warp with
    | some wp => 64 * (wp.core - 2 * twin) + wp.slot
    | none => 0) ms

/-- A raft forms: every joiner's CONVENE completes, its D the member index. -/
def formRaft (s : State) (rid : Nat) (r : Raft) : State :=
  let ms := memberOrder s r.twin r.joiners
  let s := s.modRaft rid (fun x => { x with formed := true, joiners := [], members := ms.map (·.warp),
                                            elect := (ms.head?.map (·.lane)).getD 0 })
  ms.zipIdx.foldl (fun s p =>
    let s := s.modWarp p.1.warp (fun wp => { wp with member := p.2, tiles := 0 })
    completeMember (nameD p.1.d none none none) .access (fun c => c.outs [(p.1.d.toNat, fun _ => BitVec.ofNat 32 p.2)]) s p.1) s

/-- The rafts of a twin that are full and wait for one to end. -/
def fullRafts (s : State) (twin : Nat) : List (Nat × Raft) :=
  s.rafts.filter (fun p => decide (p.2.twin = twin) && !p.2.formed && decide (p.2.joiners.length = p.2.size) &&
    (match tget s.gangs p.2.gang with | some g => holdsPlace g.state | none => false))

/-- A raft that waits forms where the twin holds fewer than eight; which one is free. (DEDUCED, log 35.) -/
def formOne (twin : Nat) (s : State) (n : Nat) : State :=
  let l := fullRafts s twin
  if (raftsOn s twin).length < 8 then
    match l[Config.freePick s.free (20 + n) % l.length]? with
    | some (rid, r) => formRaft s rid r
    | none => s
  else s

/-- The rafts that wait form, as many as the twin has room for (R170, R307). -/
def formWaiting (s : State) (twin : Nat) : State := (upto 8).foldl (formOne twin) s

/-- A warp leaves its raft, which ends with its last member. -/
def leaveRaft (s : State) (w : Nat) : State :=
  match (tget s.warps w).bind (·.raft) with
  | none => s
  | some rid =>
    let s := s.modWarp w (fun wp => { wp with raft := none, member := 0, tiles := 0 })
    match tget s.rafts rid with
    | none => s
    | some r =>
      let left := r.left ++ [w]
      if r.members.all (fun m => left.contains m) then formWaiting { s with rafts := tdel s.rafts rid } r.twin
      else s.modRaft rid (fun r => { r with left := left })

/-- The first block of the group of a warp: its block's, or that of the two blocks of its gang on the twin (R170). -/
def groupBlock (s : State) (c : Ctx) : Nat :=
  let on := (s.blocksOfGang c.gangId).filter (fun p => decide (p.2.core / 2 = c.core / 2))
  (on.map (·.1)).foldl min c.warp.blk

/-- CONVENE (R170, R171). A raft that has formed takes no member, also after one of them has left it: R171 names the trap for a raft
that already has its members. (DEDUCED, log 95.) -/
def execConvene (f : Fr) (d : Reg) (rid : BitVec 2) (kc : BitVec 3) (s : State) : Out :=
  issue f (nameD d none none none) none reachOnly (fun c st =>
    let blk := groupBlock c.pre c
    let me : Member := { warp := c.w, ent := c.ent, fr := f, lane := lowest c.act, d := d }
    let key (p : Nat × Raft) : Bool := decide (p.2.gang = c.gangId) && decide (p.2.rid = rid.toNat) && decide (p.2.blk = blk)
    if c.act = 0 then .done (finishFlight c f [] .minimum st)
    else if c.handler then .trap 0x42 c.act [] none
    else if c.split.arrived then .waits true c.split.phase c.pre
    else if c.warp.raft.isSome then .trap 0x08 c.act [] none
    else
      let wait (s : State) : State :=
        let s := match fctr f with | some k => s.modWarp c.w (·.incCtr k) | none => s
        ((takeSlot c f (nameD d none none none) s).modSplit c.w c.ent (fun sp =>
          { sp with wait := some (.op true true .none) })).bump
      let join (s : State) (id : Nat) (r : Raft) : Body :=
        let s := wait ((s.modWarp c.w (fun wp => { wp with raft := some id })))
        .done (formWaiting { s with rafts := tput s.rafts id { r with joiners := r.joiners ++ [me] } } r.twin)
      match c.pre.rafts.find? key with
      | some (id, r) =>
        if r.size ≠ kc.toNat + 1 ∨ r.formed ∨ r.size ≤ r.joiners.length then .trap 0x08 c.act [] none
        else join c.pre id r
      | none =>
        join { c.pre with uid := c.pre.uid + 1 } c.pre.uid
          { twin := c.core / 2, rid := rid.toNat, blk := blk, gang := c.gangId, size := kc.toNat + 1, formed := false, joiners := [],
            members := [], elect := 0, left := [], ops := [], kept := [] }) s

/-- The raft of a warp, where it has formed. -/
def Ctx.raft? (c : Ctx) : Option (Nat × Raft) :=
  match c.warp.raft with
  | none => none
  | some id =>
    match tget c.pre.rafts id with
    | some r => if r.formed then some (id, r) else none
    | none => none

/-- DISBAND (R172). -/
def execDisband (f : Fr) (s : State) : Out :=
  issue f (nameS none none none) none reachOnly (fun c st =>
    if c.act = 0 then .done (finishFlight c f [] .minimum st)
    else
      match c.raft? with
      | none => .trap 0x08 c.act [] none
      | some (_, r) =>
        if r.ops.any (fun o => o.issued.any (fun m => decide (m.warp = c.w))) then .waits false .none c.pre
        else .done (finishFlight c f [] .minimum (leaveRaft st c.w))) s

/-- DISBAND_COMPLETE. -/
def execDisbandComplete (w ent : Nat) (s : State) : Out :=
  retry w ent (fun i => match i with | .disband f => some (execDisband f) | _ => none) s

/-! ### What a tile instruction names -/

/-- The registers that a tile instruction names (R177, R181, R184 to R192). TWR's source span stands in the place of C. -/
def tileNames (i : Instr) : Names :=
  match i with
  | .tmma _ a b h => nameS (regN a (if h.asrc then raftSpan .plain h else 4)) (regN b (if h.tb then 4 else 1)) none
  | .tmmaw _ a b h _ => nameS (regN a (if h.asrc then raftSpan .w h else 4)) (regN b (if h.tb then 4 else 1)) none
  | .tmmaz _ a b h _ => nameS (regN a (if h.asrc then raftSpan .z h else 4)) (regN b (if h.tb then 4 else 1)) none
  | .tmmas _ a b h => nameS (regN a (if h.asrc then raftSpan .s h else 4)) (regN b (if h.tb then 4 else 1)) none
  | .taccZero _ a => nameS (src1 a) none none
  | .taccLive _ a => nameS (src1 a) none none
  | .taccDead _ a => nameS (src1 a) none none
  | .taccMul _ a x => nameS (src1 a) none (src1 x)
  | .trdReg _ d a dt _ _ => nameDN d (if dt = .f32 then 16 else 8) (src1 a) none none
  | .trdRec _ a b x _ _ _ => nameS (src1 a) (regN b 4) (src1 x)
  | .twrReg _ d a dt _ => nameS (src1 a) none (regN d (if dt = .f32 then 16 else 8))
  | .twrRec _ a b _ => nameS (src1 a) (regN b 4) none
  | .tew _ _ a b x _ _ _ => nameS (src1 a) (osrc b) (osrc x)
  | .tred _ _ a _ _ => nameS (src1 a) none none
  | .tsmx _ a x _ _ => nameS (src1 a) none (osrc x)
  | .tnorm _ a x _ _ => nameS (src1 a) none (src1 x)
  | .tcvt _ _ a _ _ _ => nameS (src1 a) none none
  | .ebb _ d a => nameD d (reg2 a) none none
  | _ => nameS none none none

/-- The values of the operands in a thread: A as up to four registers, B likewise, C, and sr.seed. -/
def tileVals (c : Ctx) (i : Instr) (t : Nat) : List Word :=
  let four (r : Reg) : List Word := (upto 4).map (fun k => c.reg (r.toNat + k) t)
  let one (x : Word) : List Word := [x, 0, 0, 0]
  let mk (a b : List Word) (x : Word) : List Word := a ++ b ++ [x, c.ctx.seed]
  let matrix (a b : Reg) (h : Header) : List Word :=
    mk (if h.asrc then one 0 else four a) (if h.tb then four b else one (c.reg b.toNat t)) 0
  match i with
  | .tmma _ a b h => matrix a b h
  | .tmmaw _ a b h _ => matrix a b h
  | .tmmaz _ a b h _ => matrix a b h
  | .tmmas _ a b h => matrix a b h
  | .taccZero _ a => mk (one (c.val a t)) (one 0) 0
  | .taccLive _ a => mk (one (c.val a t)) (one 0) 0
  | .taccDead _ a => mk (one (c.val a t)) (one 0) 0
  | .taccMul _ a x => mk (one (c.val a t)) (one 0) (c.val x t)
  | .trdReg _ _ a _ _ _ => mk (one (c.val a t)) (one 0) 0
  | .trdRec _ a b x _ _ _ => mk (one (c.val a t)) (four b) (c.val x t)
  | .twrReg _ _ a _ _ => mk (one (c.val a t)) (one 0) 0
  | .twrRec _ a b _ => mk (one (c.val a t)) (four b) 0
  | .tew _ _ a b x _ _ _ => mk (one (c.val a t)) (one (c.valD b 0 t)) (c.valD x 0 t)
  | .tred _ _ a _ _ => mk (one (c.val a t)) (one 0) 0
  | .tsmx _ a x _ _ => mk (one (c.val a t)) (one 0) (c.valD x 0x3F800000 t)
  | .tnorm _ a x _ _ => mk (one (c.val a t)) (one 0) (c.val x t)
  | .tcvt _ _ a _ _ _ => mk (one (c.val a t)) (one 0) 0
  | .ebb _ _ a => mk [c.reg a.toNat t, c.reg (a.toNat + 1) t, 0, 0] (one 0) 0
  | _ => mk (one 0) (one 0) 0

/-- The span of every member's registers that the operation reads (R181, R186). -/
def tileSpan (i : Instr) : Option (Nat × Nat) :=
  match i with
  | .tmma _ _ _ h => if h.asrc then (tileNames i).a else none
  | .tmmaw _ _ _ h _ => if h.asrc then (tileNames i).a else none
  | .tmmaz _ _ _ h _ => if h.asrc then (tileNames i).a else none
  | .tmmas _ _ _ h => if h.asrc then (tileNames i).a else none
  | .twrReg .. => (tileNames i).c
  | _ => none

/-- Words of a span in all threads, as they stand. -/
def memberSpan (c : Ctx) (i : Instr) : List (Nat × Word) :=
  match tileSpan i with
  | none => []
  | some p => (spanRegs p).flatMap (fun r => (upto 32).map (fun t => (c.key r t, c.reg r t)))

/-- What an operation leaves to write in a member: TRD's span, in every thread (R185). Its new words are not known until it is done, when
they are written at once; until then its registers keep their old ones (R71). -/
def tileOuts (i : Instr) (c : Ctx) : List (Nat × Word) :=
  match i with
  | .trdReg .. =>
    ((tileNames i).d.flatMap spanRegs).flatMap (fun r =>
      if r = 0 then [] else (upto 32).map (fun t => (c.key r t, c.pre.regAt (c.key r t))))
  | _ => []

/-- The fields in which the k-th instructions of all members agree (R173). -/
def agreed (i : Instr) : Option Raw :=
  (fieldsOf i).map (fun r => { r with stall := 0, setc := 0, wait := 0, holdA := false, holdB := false, holdC := false, g := 0, gn := false })

/-! ### Operations become complete (R173, R174, R180) -/

/-- An operation leaves its raft. -/
def dropOp (s : State) (rid k : Nat) : State :=
  s.modRaft rid (fun r => { r with ops := r.ops.filter (fun o => decide (o.k ≠ k)) })

/-- Every member that has issued an operation traps, and its count of tile instructions is as before. -/
def trapAll (s : State) (rid : Nat) (o : RaftOp) (cause : Nat) : State :=
  let s := dropOp s rid o.k
  let s := o.issued.foldl (fun s m => s.modWarp m.warp (fun wp => { wp with tiles := wp.tiles - 1 })) s
  o.issued.foldl (trapMember cause) s

/-- The split of a warp that a thread is in; the first where it is in none. -/
def Warp.splitOf (wp : Warp) (t : Nat) : Option Split :=
  match (wp.splits ++ wp.parked.map (·.2) ++ wp.starved).find? (fun sp => sp.mask.getLsbD t) with
  | some sp => some sp
  | none => wp.splits.head?

/-- The pc of a thread of a warp, for the anchors of a fault record (R358, R439). -/
def State.pcOf (s : State) (w t : Nat) : DWord :=
  match (tget s.warps w).bind (fun wp => wp.splitOf t) with
  | some sp => sp.pc
  | none => 0

/-- The split of a warp that is a handler (R260). -/
def State.handlerAt (s : State) (w ent : Nat) : Option Split := if 64 < ent then (tget s.warps w).bind (·.split? ent) else none

/-- The double fault of a handler's operation that fails while the handler runs (R260, R521): a hard fault of its warp. -/
def State.raiseDouble (s : State) (w : Nat) (sp : Split) (core gang : Nat) (pc : DWord) : State :=
  { s with raised := s.raised ++ [{ warp := w, ent := sp.ent, core := core, gang := gang, cause := 0x42, ocause := 0x42, mask := sp.mask,
                                    pc := pc, addr := 0, raddr := 0 }] }

/-- An operand-fetch fault of a raft's operation (R183, R358), or an uncorrectable error in its twin (R530), detected on the core
that its gang's block has there: it names the members, each with the pc of the split that issued the operation. Where a handler issued it,
the fault is that handler's double fault (R521). -/
def raiseRaft (s : State) (r : Raft) (issued : List Member) (cause ocause va raddr : Nat) : State :=
  match issued.filterMap (fun m => (s.handlerAt m.warp m.ent).map (fun sp => (m, sp))) with
  | h :: hs => (h :: hs).foldl (fun s p =>
      s.raiseDouble p.1.warp p.2 (match tget s.warps p.1.warp with | some wp => wp.core | none => 2 * r.twin) r.gang (s.pcOf p.1.warp p.1.lane)) s
  | [] =>
  match r.members with
  | [] => s
  | w :: _ =>
    match tget s.warps w with
    | none => s
    | some wp =>
      let lane (w : Nat) : Nat := match issued.find? (fun m => decide (m.warp = w)) with | some m => m.lane | none => 0
      { s with raised := s.raised ++ [{ warp := w, ent := match wp.splitOf (lane w) with | some sp => sp.ent | none => 0,
                                        core := if cause = 0x40 then 2 * r.twin else wp.core,
                                        gang := r.gang, cause := cause, ocause := ocause,
                                        mask := 0, pc := s.pcOf w (lane w), addr := BitVec.ofNat 64 va, raddr := BitVec.ofNat 64 raddr,
                                        named := r.members.map (fun w => (w, s.pcOf w (lane w))) }] }

/-- The block that holds member 0 (R175). -/
def leadBlock (s : State) (r : Raft) : Option (Nat × Block) :=
  match r.members with
  | [] => none
  | w :: _ =>
    match tget s.warps w with
    | none => none
    | some wp => (tget s.blocks wp.blk).map (fun b => (wp.blk, b))

/-- The scratch of a raft's first block and the B-store of its twin as they stand, for a matrix operation (R183). -/
def seenBy (s : State) (r : Raft) (i : Instr) : Seen :=
  match matrixOf i, leadBlock s r with
  | some _, some (b, _) => s.look b r.twin
  | _, _ => {}

/-- The cores on which members of a raft run, and the other warps of its first block, for which its records are ordered (R419). -/
def raftCores (s : State) (r : Raft) : List Nat :=
  let mates := match leadBlock s r with | some (b, _) => (s.warpsOfBlock b).map (·.2.core) | none => []
  (r.members.filterMap (fun w => (tget s.warps w).map (·.core)) ++ mates).eraseDups

/-- The save areas of an operation's log record written as its sources stand (R408); where that fails, it fails when the operation is done. -/
def saveSources (s : State) (r : Raft) (a : ArrayOp) : State :=
  match tileEnv s r a.priv with
  | none => s
  | some v =>
    match writeSaves s v.eng a.log (opSaves s v a) with
    | .ok s' => s'.settle s (raftCores s r)
    | .error _ => s

/-- An operation enters the array's queue, and its members go on. -/
def enterArray (s : State) (rid : Nat) (r : Raft) (o : RaftOp) (recs : List (Nat × Shape)) (log : Option Nat) : State :=
  let a : ArrayOp := { raft := rid, k := o.k, instr := o.instr, vals := o.vals, priv := o.priv, spans := o.spans, recs := recs,
                       log := log, begun := false, seen := seenBy s r o.instr }
  let (s, held) := match tileEnv s r o.priv with
    | some v => lookAhead v.eng (match o.instr with | .trdRec .. => true | _ => false) (opPages a) s
    | none => (s, [])
  let s := (saveSources s r a).modTwin r.twin (fun t => { t with ops := t.ops ++ [{ a with held := held }] })
  match o.instr with
  | .ebb .. => s
  | i => o.issued.foldl (completeMember (tileNames i) (.tile o.k) (tileOuts i)) s

/-- An operation that every member has issued becomes complete: it is skipped, traps, faults, or enters the array's queue, its log
record written (R173, R153, R411). (DEDUCED, log 33.) -/
def raftReady (s : State) (rid k : Nat) : State :=
  match tget s.rafts rid with
  | none => s
  | some r =>
    match r.ops.find? (fun o => decide (o.k = k)) with
    | none => s
    | some o =>
      if !o.guard then o.issued.foldl (completeMember (tileNames o.instr) .minimum (fun _ => [])) (dropOp s rid k)
      else
        match tileEnv s r o.priv, leadBlock s r with
        | some v, some (_, b) =>
          match o.instr with
          | .ebb .. => if b.recording.isOpen then trapAll s rid o 0x08 else enterArray s rid r o [] none
          | i =>
            match tileStart s v i o.vals with
            | .error .state => trapAll s rid o 0x08
            | .error (.fetch cause va rec_) => raiseRaft s r o.issued 0x28 cause va rec_
            | .ok (s, recs) =>
              let s := noteAll s v.eng (recs.map (·.1))
              if b.recording.isOpen && recorded i then
                match logRecord s v i o.vals with
                | .error (.stop va) => raiseRaft s r o.issued 0x28 0x09 va 0
                | .error (.fault cause va) => raiseRaft s r o.issued 0x28 cause va 0
                | .ok (.full s') => trapAll (s'.settle s (raftCores s r)) rid o 0x0C
                | .ok (.at_ s' addr) => enterArray (s'.settle s (raftCores s r)) rid r o recs (some addr)
              else enterArray (clearProducer s v i o.vals recs) rid r o recs none
        | _, _ => s

/-- Whether a raft's gang lets its operations enter the array. -/
def raftRuns (s : State) (rid : Nat) : Bool :=
  match tget s.rafts rid with
  | none => false
  | some r => match tget s.gangs r.gang with | some g => decide (g.state = .running) | none => false

/-- Operations that wait for room enter the array's queue in the order in which their last members issued them, while it holds
fewer than two (R180). -/
def pumpTwin (twin : Nat) : Nat → State → State
  | 0, s => s
  | fuel + 1, s =>
    if 2 ≤ (s.twin twin).ops.length then s
    else
      match takeFirst (fun p : Nat × Nat => raftRuns s p.1) (s.twin twin).line with
      | none => s
      | some ((rid, k), rest) => pumpTwin twin fuel (raftReady (s.modTwin twin (fun t => { t with line := rest })) rid k)

def pump (s : State) (twin : Nat) : State := pumpTwin twin ((s.twin twin).line.length) s

/-- An operation of a raft that every member has issued joins the line before its twin's array. -/
def lineUp (s : State) (rid k twin : Nat) : State :=
  pump (s.modTwin twin (fun t => { t with line := t.line ++ [(rid, k)] })) twin

/-- A tile instruction or EBB at issue (R173): the split waits until the operation becomes complete, its counter counted. When every
member has issued its k-th instruction and two of them disagree, every member traps. -/
def tileIssue (f : Fr) (i : Instr) (s : State) : Out :=
  issue f (tileNames i) none reachOnly (fun c st =>
    match c.raft? with
    | none => if c.act = 0 then .done (finishFlight c f [] .minimum st) else .trap 0x08 c.act [] none
    | some (rid, r) =>
      if c.split.arrived then .waits true c.split.phase c.pre
      else if r.left ≠ [] then (if c.act = 0 then .done (finishFlight c f [] .minimum st) else .trap 0x08 c.act [] none)
      else
        let me : Member := { warp := c.w, ent := c.ent, fr := f, lane := lowest c.split.mask, d := 0 }
        let lead := decide (r.members.head? = some c.w)
        let fill (o : RaftOp) : RaftOp :=
          let o := { o with issued := o.issued ++ [me], spans := o.spans ++ memberSpan c i, same := o.same && decide (agreed o.instr = agreed i) }
          if lead then { o with guard := c.act.getLsbD r.elect, vals := tileVals c i r.elect, priv := c.split.priv } else o
        let s := match fctr f with | some k => c.pre.modWarp c.w (·.incCtr k) | none => c.pre
        let s := ((takeSlot c f (tileNames i) s).modWarp c.w (fun wp => { wp with tiles := wp.tiles + 1 })).modSplit c.w c.ent (fun sp =>
          { sp with wait := some (.op true true .none) })
        let whole (s : State) (o : RaftOp) : Body :=
          if o.issued.length < r.members.length then .done s.bump
          else if o.same then .done (lineUp s rid o.k r.twin).bump
          else .done (trapAll s rid o 0x08)
        match r.ops.find? (fun o => !o.issued.any (fun m => decide (m.warp = c.w))) with
        | some o =>
          let o' := fill o
          let s := s.modRaft rid (fun r => { r with ops := r.ops.map (fun x => if x.k = o.k then o' else x) })
          whole s o'
        | none =>
          let o := fill { k := s.uid, instr := i, issued := [], guard := false, vals := [], priv := false, spans := [] }
          whole ({ s with uid := s.uid + 1 }.modRaft rid (fun r => { r with ops := r.ops ++ [o] })) o) s

/-- TMMA (R182). -/
def execTmma (f : Fr) (a b : Reg) (h : Header) (s : State) : Out := tileIssue f (.tmma f a b h) s
/-- TMMAW (R182). -/
def execTmmaw (f : Fr) (a b : Reg) (h : Header) (g : Grp) (s : State) : Out := tileIssue f (.tmmaw f a b h g) s
/-- TMMAZ (R182). -/
def execTmmaz (f : Fr) (a b : Reg) (h : Header) (g : Grp) (s : State) : Out := tileIssue f (.tmmaz f a b h g) s
/-- TMMAS (R182). -/
def execTmmas (f : Fr) (a b : Reg) (h : Header) (s : State) : Out := tileIssue f (.tmmas f a b h) s
/-- TACC_ZERO (R184). -/
def execTaccZero (f : Fr) (a : Src) (s : State) : Out := tileIssue f (.taccZero f a) s
/-- TACC_LIVE (R184). -/
def execTaccLive (f : Fr) (a : Src) (s : State) : Out := tileIssue f (.taccLive f a) s
/-- TACC_DEAD (R184). -/
def execTaccDead (f : Fr) (a : Src) (s : State) : Out := tileIssue f (.taccDead f a) s
/-- TACC_MUL (R184). -/
def execTaccMul (f : Fr) (a x : Src) (s : State) : Out := tileIssue f (.taccMul f a x) s
/-- TRD_REG (R185). -/
def execTrdReg (f : Fr) (d : Reg) (a : Src) (dt : Elem) (q : BitVec 2) (rnd : Rnd) (s : State) : Out :=
  tileIssue f (.trdReg f d a dt q rnd) s
/-- TRD_REC (R185). -/
def execTrdRec (f : Fr) (a : Src) (b : Reg) (x : Src) (dt : Elem) (rnd : Rnd) (ocp : Bool) (s : State) : Out :=
  tileIssue f (.trdRec f a b x dt rnd ocp) s
/-- TWR_REG (R186). -/
def execTwrReg (f : Fr) (d : Reg) (a : Src) (dt : Elem) (q : BitVec 2) (s : State) : Out := tileIssue f (.twrReg f d a dt q) s
/-- TWR_REC (R186). -/
def execTwrRec (f : Fr) (a : Src) (b : Reg) (dt : Elem) (s : State) : Out := tileIssue f (.twrRec f a b dt) s
/-- TEW (R188). -/
def execTew (f : Fr) (fn : TewFn) (a : Src) (b x : Option Src) (dtile : BitVec 11) (sa sb : Bool) (s : State) : Out :=
  tileIssue f (.tew f fn a b x dtile sa sb) s
/-- TRED (R189). -/
def execTred (f : Fr) (op : TredOp) (a : Src) (dtile : BitVec 11) (sa : Bool) (s : State) : Out := tileIssue f (.tred f op a dtile sa) s
/-- TSMX (R190). -/
def execTsmx (f : Fr) (a : Src) (x : Option Src) (dtile : BitVec 11) (sy : Bool) (s : State) : Out := tileIssue f (.tsmx f a x dtile sy) s
/-- TNORM (R191). -/
def execTnorm (f : Fr) (a x : Src) (dtile : BitVec 11) (sa : Bool) (s : State) : Out := tileIssue f (.tnorm f a x dtile sa) s
/-- TCVT (R192). -/
def execTcvt (f : Fr) (mode : SMode) (a : Src) (bf : BFmt) (rnd : Rnd) (strm : BitVec 8) (s : State) : Out :=
  tileIssue f (.tcvt f mode a bf rnd strm) s

/-- EBB (R269): the members wait while the walk goes on in the array. -/
def execEbb (f : Fr) (d a : Reg) (s : State) : Out := tileIssue f (.ebb f d a) s

/-! ### The array (R174, R180, R183, R343) -/

/-- The flights of an operation end: registers that no later write has taken get their words, and the counters are released. -/
def endTile (k : Nat) (regs : List (Nat × Word)) (s : State) (w : Nat) : State :=
  match tget s.warps w with
  | none => s
  | some wp =>
    let mine := wp.flights.filter (fun x => decide (x.kind = .tile k))
    let kvs := (mine.flatMap (·.regs)).filterMap (fun p => (regs.find? (fun q => decide (q.1 = p.1))))
    (s.landWords w kvs).modWarp w (fun wp =>
      mine.foldl (fun wp x => wp.decCtr x.ctr) { wp with flights := wp.flights.filter (fun x => decide (x.kind ≠ .tile k)) })

/-- ARRAY_OPERATION_START: the twin's array begins its next operation. The members' registers are read: one that has been written
since the issue is old or new (R181, R183). TWR .reg completes for its members here (R186). (DEDUCED, log 34.) -/
def execArrayOperationStart (twin : Nat) (s : State) : Out :=
  match (s.twin twin).ops with
  | [] => .refused .notEnabled
  | a :: rest =>
    let runs : Bool := match (tget s.rafts a.raft).bind (fun r => tget s.gangs r.gang) with | some g => decide (g.state = .running) | none => false
    if a.begun || !runs then .refused .notEnabled
    else
      let read (p : Nat × Word) : Nat × Word :=
        let now := s.regAt p.1
        (p.1, if p.1 / 32 % 1024 = 0 then 0xFFFFFFFF else if now = p.2 then p.2 else if Config.freeBit s.free p.1 then now else p.2)
      let a' := { a with begun := true, spans := a.spans.map read }
      let s := (s.modTwin twin (fun t => { t with ops := a' :: rest })).bump
      match a.instr, tget s.rafts a.raft with
      | .twrReg .., some r => .next (r.members.foldl (endTile a.k []) s)
      | _, some r => .next (saveSources s r a')
      | _, none => .next s

/-- The operation at the head of the array's queue is gone, and those that wait for room move up. -/
def popArray (s : State) (twin : Nat) : State := pump (s.modTwin twin (fun t => { t with ops := t.ops.tail })) twin

/-- One step of the walk of an EBB (R413): between two adjoint operations it may stop. -/
def ebbDone (s : State) (twin : Nat) (a : ArrayOp) (r : Raft) (v : TileEnv) (d : Reg) : State :=
  match r.ops.find? (fun o => decide (o.k = a.k)) with
  | none => popArray s twin
  | some o =>
    let finish (s : State) (st : Nat) : State :=
      let s := dropOp s a.raft a.k
      popArray (o.issued.foldl (completeMember (tileNames a.instr) .access
        (fun c => c.outs [(d.toNat, fun _ => BitVec.ofNat 32 st)])) s) twin
    let seen (t : State) : State := t.settle s (raftCores s r)
    match walkStep s v (opAddr a.vals 0).toNat (a.vals.getD 9 0) with
    | .ok (.more s) => seen s
    | .ok (.done s st) => finish (seen s) st
    | .error .refused => finish s 2
    | .error (.ninth s) => finish (seen s) 2
    | .error (.full s) => popArray (trapAll (seen s) a.raft o 0x0C) twin
    | .error (.fetch cause va) => popArray (raiseRaft s r o.issued 0x28 cause va 0) twin
    | .error .hard => popArray (raiseRaft s r o.issued 0x40 0x40 0 0) twin

/-- ARRAY_OPERATION_DONE: the operation in progress makes its last write (R182, R184 to R192), its members' counters are released,
and the next operation becomes complete where one waits for room. -/
def execArrayOperationDone (twin : Nat) (s : State) : Out :=
  match (s.twin twin).ops with
  | [] => .refused .notEnabled
  | a :: _ =>
    if !a.begun then .refused .notEnabled
    else
      match tget s.rafts a.raft with
      | none => .next (popArray s twin).bump
      | some r =>
        match tileEnv s r a.priv with
        | none => .next (popArray s twin).bump
        | some v =>
          match a.instr with
          | .ebb _ d _ => .next (ebbDone s twin a r v d).bump
          | _ =>
            let s0 := s
            let e := tilePerform s { v with eng := { v.eng with held := a.held } } a
            let s := countHealth (noteAll e.s v.eng (opPages a)) v.blk e.ev
            let issued := match r.ops.find? (fun o => decide (o.k = a.k)) with | some o => o.issued | none => []
            match e.bad with
            | some (.fetch cause va rec_) => .next (popArray (raiseRaft s r issued 0x28 cause va rec_) twin).bump
            | some .hard => .next (popArray (raiseRaft s r issued 0x40 0x40 0 0) twin).bump
            | none => .next (popArray (dropOp (r.members.foldl (endTile a.k e.regs) (s.settle s0 (raftCores s0 r))) a.raft a.k) twin).bump

end Sys2Proof.Machine
end

