-- ==== Sys2Proof/Machine/Bstore.lean ====
section
/-! DEFINITION. Loads of the B-store (R193, R194, R345 to R347), RCFENCE (R195), and the recording of a block: RECON, RECOFF and
EBBSTAT (R267, R268, R270, R405): opcodes 0xBD, 0xBE, 0xD0, 0xD1 and 0xD3. -/
namespace Sys2Proof.Machine
open Sys2Proof

/-! ### BSLOAD -/

/-- Bytes that the K-blocks of a load take in each slice (R346). -/
def loadBytesOf (h : Shape) : Nat := Shape.dim h.box 0 * storeBits h.elem / 8

/-- Whether a load keeps the limits of R193, R352 and R353. -/
def loadOk (h : Shape) (op : Retained) : Bool :=
  decide (op.off.toNat % 32 = 0) && decide (op.off.toNat < sliceBytes) && decide (op.off.toNat + loadBytesOf h ≤ sliceBytes) &&
  decide (op.ko.toNat % 32 = 0) && decide (Shape.dim h.box 0 % 32 = 0) &&
  (!h.scaled || (decide (h.bax = 0) && decide (op.ko.toNat % h.group = 0) && decide (Shape.dim h.box 0 % h.group = 0)))

/-- The copies of the records that a load takes when it begins (R356), where it may begin: the value record, and with SP the metadata
record behind it (R347). -/
def loadRecords (s : State) (e : Eng) (op : Retained) : Except NoStart (State × List (Nat × Shape)) :=
  match arrayRecord s e op.addr with
  | .error x => .error x
  | .ok (s, x) =>
    if !loadOk x.2 op then .error .state
    else if op.sp then
      match arrayRecord s e (op.addr + 64) with
      | .error y => .error y
      | .ok (s, y) => if y.2.fmt = 8 then .ok (s, [x, y]) else .error .state
    else .ok (s, [x])

/-- A slot of a column written with its scale and its metadata (R346, R347). A record without scales writes scale word 0 beside the slot, and a
dense load leaves the slot's metadata. (DESIGN CHOICE, log 85.) -/
def writeSlot (s : State) (twin n off : Nat) (e : Elem) (b : KBlock) (m : Option Nat) : State :=
  let core := 2 * twin + n / 64
  let col := n % 64
  let s := homeWrite s (.bst core col off) (bytesOf e b.codes)
  let k := bentry core col off
  let s := { healEntries s (fun n isMeta => decide (n = k) && (!isMeta || m.isSome)) with bscale := tputD s.bscale k 0 (BitVec.ofNat 20 b.s20) }
  match m with
  | some v => { s with bmeta := tputD s.bmeta k 0 (BitVec.ofNat 64 v) }
  | none => s

/-- The B range of a block takes in bytes that a load of it writes (R345). -/
def widenRange (r : Option (Nat × Nat)) (lo hi : Nat) : Option (Nat × Nat) :=
  match r with
  | none => some (lo, hi)
  | some (a, b) => some (min a lo, max b hi)

/-- Slot `j` of column `n` of a load read and written: its bytes join the block's B range. -/
def loadSlotAt (e : Eng) (blk twin : Nat) (op : Retained) (h : Shape) (m : Option Shape) (p : Nat × Nat) (s : State) : EngM State :=
  let (n, j) := p
  let off := op.off.toNat + j * slotBytes h.elem
  let put (b : KBlock) (v : Option Nat) : State :=
    (writeSlot s twin n off h.elem b v).modBlock blk (fun x => { x with bRange := widenRange x.bRange off (off + slotBytes h.elem) })
  match recordLine s e h false (op.no.toNat + n) (op.ko.toNat + 32 * j) 32 1 with
  | .error k => .error k
  | .ok bs =>
    match m with
    | none => .ok (put (bs.headD ⟨[], 0⟩) none)
    | some y =>
      match recordMeta s e y (op.no.toNat + n) op.ko.toNat j with
      | .error k => .error k
      | .ok v => .ok (put (bs.headD ⟨[], 0⟩) (some v))

/-- The slots of a load: column by column, K-block by K-block. -/
def slotsOf (h : Shape) : List (Nat × Nat) := (upto 128).flatMap (fun n => (upto (Shape.dim h.box 0 / 32)).map (fun j => (n, j)))

/-- The slots of a load written in both cores' slices, up to the first that cannot be read: the state, and why it stopped. -/
def performLoad (s : State) (blk twin : Nat) (e : Eng) (op : Retained) (recs : List (Nat × Shape)) : State × Option EngErr :=
  match recs with
  | [] => (s, none)
  | (_, h) :: r => engRun (loadSlotAt e blk twin op h (r.head?.map (·.2))) (slotsOf h) s

/-- An operand-fetch fault of a block's load or command (R358); of a handler's load, which runs, a double fault (R521). -/
def raiseFetch (s : State) (w ent core gang ocause va raddr : Nat) (pc : DWord) : State :=
  match s.handlerAt w ent with
  | some sp => s.raiseDouble w sp core gang pc
  | none =>
    { s with raised := s.raised ++ [{ warp := w, ent := ent, core := core, gang := gang, cause := 0x28, ocause := ocause, mask := 0,
                                      pc := pc, addr := BitVec.ofNat 64 va, raddr := BitVec.ofNat 64 raddr, named := [(w, pc)] }] }

/-- The pages that a load goes through, for the walk-ahead TLB (R354). -/
def loadPages (op : Retained) (recs : List (Nat × Shape)) : List Nat :=
  match recs with
  | [] => []
  | (_, h) :: _ =>
    ((upto 128).flatMap (fun n => (upto (Shape.dim h.box 0)).flatMap (fun k =>
      let i := index2 (op.ko.toNat + k) (op.no.toNat + n)
      if h.inside i then (h.spots i).map (fun p => (h.base + p.off) / 65536 * 65536) else []))).eraseDups

/-- The latest eight loads of a block, oldest first (R194). -/
def retain (l : List Retained) (op : Retained) : List Retained := if 8 ≤ l.length then l.tail ++ [op] else l ++ [op]

/-- BSLOAD (R193): its records are read and tested at issue; the slots are written when it completes. -/
def execBsload (f : Fr) (a b : Reg) (sp : Bool) (s : State) : Out :=
  issue f (nameS (regN a 4) (reg1 b) none) none reachOnly (fun c st =>
    if c.act = 0 then .done (finishFlight c f [] .minimum st)
    else
      let t := lowest c.act
      let op : Retained := { addr := c.reg2 a.toNat t, no := c.reg (a.toNat + 2) t, ko := c.reg (a.toNat + 3) t, off := c.reg b.toNat t, sp := sp }
      match engOf st c.warp.blk c.split.priv c.core false with
      | none => .trap 0x08 c.act [] none
      | some e =>
        if op.off.toNat % 32 ≠ 0 ∨ sliceBytes ≤ op.off.toNat then .trap 0x08 c.act [] none
        else
          match loadRecords st e op with
          | .error .state => .trap 0x08 c.act [] none
          | .error (.fetch cause va rec_) => .done (raiseFetch st c.w c.ent c.core c.gangId cause va rec_ c.split.pc)
          | .ok (st, recs) =>
            let (st, held) := lookAhead e false (loadPages op recs) (noteAll st e (recs.map (·.1)))
            let num := st.uid
            let x : BLoad := { num := num, warp := c.w, ent := c.ent, blk := c.warp.blk, priv := c.split.priv, op := op, recs := recs,
                               pc := c.split.pc, held := held }
            let st := { st with uid := num + 1 }.modTwin (c.core / 2) (fun t => { t with loads := t.loads ++ [x] })
            let st := st.modBlock c.warp.blk (fun k => { k with bsloads := retain k.bsloads op })
            .done (st.modWarp c.w (fun wp => { wp with flights := wp.flights ++ [⟨fctr f, [], c.pre.now + c.minLat, .load num⟩] }))) s

/-- A load completes: its slots are written, or its fetch faults. -/
def loadDone (s : State) (twin num : Nat) : State :=
  match (s.twin twin).loads.find? (fun x => decide (x.num = num)) with
  | none => s
  | some x =>
    let s := s.modTwin twin (fun t => { t with loads := t.loads.filter (fun y => decide (y.num ≠ num)) })
    match engOf s x.blk x.priv (2 * twin) false, tget s.blocks x.blk with
    | some e, some b =>
      match performLoad s x.blk twin { e with held := x.held } x.op x.recs with
      | (s, none) => noteAll s e (loadPages x.op x.recs)
      | (s, some k) =>
        let (cause, va) := match k with | .stop va => (0x09, va) | .fault cause va => (cause, va)
        raiseFetch s x.warp x.ent b.core b.gang cause va x.op.addr.toNat x.pc
    | _, _ => s

/-- The retained loads of a block made again, in order, up to the first that fails (R194): a record that fails has original cause
0x08. -/
def reload (blk twin : Nat) (e : Eng) : List Retained → State → State × Option (Nat × Nat × Nat)
  | [], s => (s, none)
  | op :: r, s =>
    match loadRecords s e op with
    | .error .state => (s, some (0x08, 0, op.addr.toNat))
    | .error (.fetch cause va rec_) => (s, some (cause, va, rec_))
    | .ok (s, recs) =>
      match performLoad s blk twin e op recs with
      | (s, none) => reload blk twin e r s
      | (s, some (.stop va)) => (s, some (0x09, va, op.addr.toNat))
      | (s, some (.fault cause va)) => (s, some (cause, va, op.addr.toNat))

/-- RCFENCE (R195). -/
def execRcfence (f : Fr) (s : State) : Out :=
  issue f (nameS none none none) none noEarly (fun c st =>
    if c.act = 0 then .done (finishFlight c f [] .minimum st)
    else .done (finishFlight c f [] .access (st.modCluster (clusterOf c.core) (fun k => { k with recs := [] })))) s

/-! ### Recording (R267, R268, R403 to R405) -/

/-- A segment descriptor opened for recording; none where it is refused or cannot be read (R267, R405). -/
def openLog (s : State) (e : Eng) (addr : Nat) : Option State :=
  match engField s e addr 8, engField s e (addr + 8) 4, engField s e (addr + 0x10) 8 with
  | .ok w0, .ok size, .ok gbase =>
    if !descFits addr w0 size gbase then none
    else
      match engAll (fun (p : Nat × Nat × Nat) s => engPut s e (addr + p.1) p.2.1 p.2.2)
          [(0, 8, w0 % 2 ^ 52), (0xC, 4, 0), (0x20, 8, 0), (0x28, 8, 0), (0x38, 4, 0), (0x3C, 4, 0)] s with
      | .ok s => some s
      | .error _ => none
  | _, _, _ => none

/-- The cores on which warps of a block run. -/
def blockCores (s : State) (blk : Nat) : List Nat := ((s.warpsOfBlock blk).map (·.2.core)).eraseDups

/-- RECON (R267). -/
def execRecon (f : Fr) (d a : Reg) (s : State) : Out :=
  issue f (nameD d (reg2 a) none none) none noEarly (fun c st =>
    let give (v : Nat) (s : State) : Body := .done (finishFlight c f (c.outs [(d.toNat, fun _ => BitVec.ofNat 32 v)]) .access s)
    let addr := (c.reg2 a.toNat (lowest c.act)).toNat
    if c.act = 0 then .done (finishFlight c f [] .minimum st)
    else if c.block.recording.isOpen then give 1 st
    else
      match (engOf st c.warp.blk c.split.priv c.core false).bind (fun e => openLog st e addr) with
      | none => give 2 st
      | some s => give 0 ((s.settle st (blockCores st c.warp.blk)).modBlock c.warp.blk (fun b => { b with recording := { isOpen := true, seg := addr, seq := 0, prod := [] } }))) s

/-- Whether a logged operation of a raft whose member 0 belongs to the block has still to retire. -/
def logPending (s : State) (blk : Nat) : Bool :=
  let mine (rid : Nat) : Bool :=
    match tget s.rafts rid with
    | some r => (match leadBlock s r with | some (b, _) => decide (b = blk) | none => false)
    | none => false
  s.twins.any (fun t => t.2.ops.any (fun a => a.log.isSome && mine a.raft)) ||
  s.rafts.any (fun p => mine p.1 && p.2.kept.any (fun a => a.log.isSome))

/-- RECOFF (R268, R405): it waits until every logged operation has retired. -/
def execRecoff (f : Fr) (s : State) : Out :=
  issue f (nameS none none none) none noEarly (fun c st =>
    if c.act = 0 ∨ !c.block.recording.isOpen then .done (finishFlight c f [] .minimum st)
    else if logPending c.pre c.warp.blk then .waits false .none c.pre
    else
      let r := c.block.recording
      match engOf st c.warp.blk c.split.priv c.core false with
      | none => .done st
      | some e =>
        let close (s : State) : EngM State :=
          match engField s e r.seg 8 with
          | .error k => .error k
          | .ok w0 =>
            let w0 := w0 / 2 ^ 55 * 2 ^ 55 + 2 ^ 54 + w0 % 2 ^ 54
            engAll (fun (p : Nat × Nat × Nat) s => engPut s e (r.seg + p.1) p.2.1 p.2.2) [(0x3C, 4, r.seq.toNat), (0, 8, w0)] s
        match close st with
        | .ok s => .done (finishFlight c f [] .access ((s.settle st (blockCores st c.warp.blk)).modBlock c.warp.blk (fun b => { b with recording := { b.recording with isOpen := false } })))
        | .error (.stop va) => .trap 0x09 c.act (c.threads.map (fun t => (t, BitVec.ofNat 64 va))) none
        | .error (.fault cause va) => .trap cause c.act (c.threads.map (fun t => (t, BitVec.ofNat 64 va))) none) s

/-- EBBSTAT (R270): WREM of the descriptor that the lowest active thread names. An address that is a multiple of 4 is taken, and a word that
cannot be read traps with its cause. (DEDUCED, log 104.) -/
def execEbbstat (f : Fr) (fld : EbbField) (d a : Reg) (s : State) : Out :=
  issue f (nameD d (reg2 a) none none) none noEarly (fun c st =>
    if c.act = 0 then .done (finishFlight c f [] .minimum st)
    else
      let t := lowest c.act
      let va := c.reg2 a.toNat t + 0x3C
      let chks := [(t, resolve c .none .read false 4 4 t va)]
      match allOk chks with
      | none => let (k, m) := firstBad chks; .trap k m [(t, va)] none
      | some as =>
        let (st, l) := readHome c.core as (noteTlb st c.core as)
        let wrem : Word := BitVec.ofNat 32 (match l with | p :: _ => ofBytes p.2 | [] => 0)
        let v : Word := match fld with | .rem => wrem | .seq => wrem - 1
        .done (finishFlight c f (c.outs [(d.toNat, fun _ => v)]) .access st)) s

end Sys2Proof.Machine
end

