-- ==== Sys2Proof/Machine/Kv.lean ====
section
/-! DEFINITION. Key-value caches (R379 to R391): descriptors, headers, the resolution of an entry, appends, exits, and the Backwater
engines (R392 to R395). -/
namespace Sys2Proof.Machine
open Sys2Proof

/-! ### Headers -/

/-- The fields of a cache header (R380). -/
structure KvHdr where
  dir : Nat
  pool : Nat
  cntb : Nat
  hst : Nat
  bfl : Nat
  blb : Nat
  layers : Nat
  bmax : Nat
  hsz : Nat
  esz : Nat
  fq : Nat
  nseq : Nat
  npage : Nat
  reserved : Bool
  deriving DecidableEq, Repr

def parseHdr (bs : List Byte) : KvHdr :=
  let w (o n : Nat) : Nat := ofBytes ((bs.drop o).take n)
  let a := w 0x30 4
  let b := w 0x34 4
  { dir := w 0 8, pool := w 8 8, cntb := w 0x10 8, hst := w 0x18 8, bfl := w 0x20 8, blb := w 0x28 8, layers := a % 4096,
    bmax := a / 4096 % 256, hsz := a / 2 ^ 20, esz := b % 65536, fq := b / 65536 % 8192, nseq := w 0x38 4, npage := w 0x3C 4,
    reserved := decide (b / 2 ^ 29 ≠ 0) }

/-- Whether a header keeps the limits of R380. -/
def KvHdr.valid (h : KvHdr) : Bool :=
  !h.reserved && decide (h.dir % 32 = 0) && decide (h.pool % 4096 = 0) && decide (h.cntb % 4 = 0) && decide (h.hst % 128 = 0) &&
  decide (h.bfl % 128 = 0) && decide (h.blb % 128 = 0) && decide (1 ≤ h.layers) && decide (h.hsz ≠ 0) &&
  decide (h.esz % 16 = 0) && decide (32 ≤ h.esz) && decide (h.esz ≤ 4096) && decide (1 ≤ h.nseq) && decide (h.nseq ≤ 2 ^ 20)

/-- Bytes of a batch buffer (R394). -/
def KvHdr.bufBytes (h : KvHdr) : Nat :=
  let n := h.bmax + 1
  (64 + 32 * n + n * (h.esz - 16) + 127) / 128 * 128

/-- A descriptor of a block: its header's address and its policy; none where it is not valid (R379, R381). -/
def descriptor (b : Block) (n : Nat) : Option (Nat × Bool) :=
  let w0 := (tgetD b.kvd (4 * n) 0).toNat
  let w1 := (tgetD b.kvd (4 * n + 1) 0).toNat
  if w1 / 2 ^ 21 % 2 = 1 ∧ w0 % 64 = 0 then some (w1 % 2 ^ 20 * 2 ^ 32 + w0, decide (w1 / 2 ^ 20 % 2 = 1)) else none

/-- What a descriptor's header comes to: it breaks R380, it cannot be read, or it stands with its address and policy (R381). -/
inductive HdrRead where
  | bad
  | lost
  | ok (s : State) (addr : Nat) (pol : Bool) (h : KvHdr)

/-- The header of a descriptor through the record cache. -/
def readHdr (s : State) (e : Eng) (b : Block) (n : Nat) : HdrRead :=
  match descriptor b n with
  | none => .bad
  | some (addr, pol) =>
    match cachedRecord s e addr 64 with
    | .error _ => .lost
    | .ok (s, bs) => if (parseHdr bs).valid then .ok s addr pol (parseHdr bs) else .bad

/-! ### Accesses at the home -/

/-- Whether an address lies in a window that pages map. -/
def pagedVa (va : Nat) : Bool :=
  match windowOf va with
  | some .glob => true
  | some .est => true
  | _ => false

/-- Bytes within a line read at the home, the core's own copy written back first. -/
def kvLine (s : State) (x : Agent) (core va n : Nat) : Except Nat (State × List Byte) :=
  if !pagedVa va then .error 0x20
  else
    match translate s x va .read with
    | .error k => .error k
    | .ok e =>
      let s := flushLine s core (e.loc va) true
      if s.linkDown (e.loc va) || s.poisoned (e.loc va) n then .error 0x40 else .ok (s, s.bytes (e.loc va) n)

/-- A span read line by line. -/
def kvSpan (x : Agent) (core : Nat) : Nat → State → Nat → Nat → Except Nat (State × List Byte)
  | 0, s, _, _ => .ok (s, [])
  | fuel + 1, s, va, n =>
    if n = 0 then .ok (s, [])
    else
      let k := min n (128 - va % 128)
      match kvLine s x core va k with
      | .error c => .error c
      | .ok (s, bs) =>
        match kvSpan x core fuel s (va + k) (n - k) with
        | .error c => .error c
        | .ok (s, r) => .ok (s, bs ++ r)
def kvRead (s : State) (x : Agent) (core va n : Nat) : Except Nat (State × List Byte) := kvSpan x core (spanLines va n) s va n

/-- A span written at the home, line by line. -/
def kvStoreSpan (x : Agent) (core : Nat) : Nat → State → Nat → List Byte → Except Nat State
  | 0, s, _, _ => .ok s
  | fuel + 1, s, va, bs =>
    if bs = [] then .ok s
    else if !pagedVa va then .error 0x20
    else
      let k := 128 - va % 128
      match translate s x va .write with
      | .error c => .error c
      | .ok e =>
        if s.linkDown (e.loc va) then .error 0x40
        else kvStoreSpan x core fuel (homeWrite (flushLine s core (e.loc va) true) (e.loc va) (bs.take k)) (va + k) (bs.drop k)
def kvStore (s : State) (x : Agent) (core va : Nat) (bs : List Byte) : Except Nat State := kvStoreSpan x core (spanLines va bs.length) s va bs

/-! ### Directory, pages and entries (R382 to R384) -/

/-- A directory entry: LEN, PEND, PT, CAP. -/
structure KvDir where
  len : Nat
  pend : Nat
  pt : Nat
  cap : Nat
  deriving DecidableEq, Repr

def KvHdr.dirAt (h : KvHdr) (seq : Nat) : Nat := h.dir + 32 * seq
def KvHdr.pageAt (h : KvHdr) (x : Nat) : Nat := h.pool + x * 256 * h.esz
def KvHdr.entryAt (h : KvHdr) (x pos : Nat) : Nat := h.pageAt x + pos % 256 * h.esz
def KvHdr.countWord (h : KvHdr) (x : Nat) : Nat := h.cntb + 4 * x
def KvHdr.hidden (h : KvHdr) (seq pos : Nat) : Nat := h.hst + (8 * seq + pos % 8) * h.hsz * 128
def KvDir.ptrAt (d : KvDir) (layer page : Nat) : Nat := d.pt + 4 * (layer * d.cap + page)

/-- A directory entry (R382); one with a reserved field that is not 0 cannot be used (R7), as one that cannot be read. (DEDUCED, log 88.) -/
def readDir (s : State) (x : Agent) (core : Nat) (h : KvHdr) (seq : Nat) : Except Nat (State × KvDir) :=
  match kvRead s x core (h.dirAt seq) 32 with
  | .error k => .error k
  | .ok (s, bs) =>
    let w (o n : Nat) : Nat := ofBytes ((bs.drop o).take n)
    if w 6 2 ≠ 0 ∨ w 0x14 12 ≠ 0 then .error 0
    else .ok (s, { len := w 0 4, pend := w 4 2, pt := w 8 8, cap := w 0x10 4 })

/-- A word at the home. -/
def kvWord (s : State) (x : Agent) (core va : Nat) : Except Nat (State × Nat) :=
  match kvRead s x core va 4 with
  | .error k => .error k
  | .ok (s, bs) => .ok (s, ofBytes bs)
def kvPut (s : State) (x : Agent) (core va v : Nat) : Except Nat State := kvStore s x core va (toBytes 4 v)

/-- The page of a position of a layer; an error where it is missing. -/
def pageOf (s : State) (x : Agent) (core : Nat) (h : KvHdr) (d : KvDir) (layer pos : Nat) : Except Nat (State × Nat) :=
  if d.cap ≤ pos / 256 then .error 0
  else
    match kvWord s x core (d.ptrAt layer (pos / 256)) with
    | .error k => .error k
    | .ok (s, p) => if h.npage ≤ p ∨ p = 0xFFFFFFFF then .error 0 else .ok (s, p)

/-- A state word (R384): whether it is PROVISIONAL, X, and ALIAS; none where a field has a reserved value. -/
def stateWord (v : Nat) : Option (Bool × Bool × Nat) :=
  if v % 4 < 2 ∧ v / 8 % 2 = 0 ∧ v / 65536 = 0 then some (decide (v % 4 = 1), decide (v / 4 % 2 = 1), v / 16 % 4096) else none

/-- What an entry resolves to (R386): an address for D and a status. -/
def kvResolve (s : State) (x : Agent) (core : Nat) (h : KvHdr) (pol : Bool) (seq layer pos : Nat) : State × Nat × Nat :=
  if h.nseq ≤ seq ∨ h.layers ≤ layer then (s, 0, 3)
  else
    match readDir s x core h seq with
    | .error _ => (s, 0, 3)
    | .ok (s, d) =>
      if d.len ≤ pos then (s, 0, 4)
      else
        match pageOf s x core h d layer pos with
        | .error _ => (s, 0, 3)
        | .ok (s, p) =>
          let e := h.entryAt p pos
          match kvWord s x core e with
          | .error _ => (s, 0, 3)
          | .ok (s, v) =>
            match stateWord v with
            | none => (s, 0, 3)
            | some (false, _, _) => (s, e + 16, 0)
            | some (true, _, k) =>
              if pol then (s, e + 16, 2)
              else if h.layers ≤ k then (s, 0, 3)
              else
                match pageOf s x core h d k pos with
                | .error _ => (s, 0, 3)
                | .ok (s, q) => (s, h.entryAt q pos + 16, 1)

/-! ### Appending (R387, R388) -/

/-- The state words of a page that can be read (R384): none for a word with a reserved value. -/
def pageStates (s : State) (x : Agent) (core : Nat) (h : KvHdr) (p : Nat) : List (Option (Bool × Bool × Nat)) :=
  (upto 256).filterMap (fun n => match kvWord s x core (h.entryAt p n) with | .ok (_, v) => some (stateWord v) | .error _ => none)

/-- The state words of the tail pages that an append to a sequence would copy, in all layers (R388). -/
def tailStates (s : State) (x : Agent) (core : Nat) (h : KvHdr) (seq : Nat) : List (Option (Bool × Bool × Nat)) :=
  if h.nseq ≤ seq then []
  else
    match readDir s x core h seq with
    | .error _ => []
    | .ok (s, d) =>
      if d.len % 256 = 0 then []
      else (upto h.layers).flatMap (fun k =>
        match pageOf s x core h d k d.len with
        | .error _ => []
        | .ok (s, p) =>
          match kvWord s x core (h.countWord p) with
          | .error _ => []
          | .ok (s, n) => if 1 < n then pageStates s x core h p else [])

/-- Whether the test of an append meets a state word with a reserved value: its lane returns status 3 (R384, R7). -/
def tailReserved (s : State) (x : Agent) (core : Nat) (h : KvHdr) (seq : Nat) : Bool := (tailStates s x core h seq).contains none

/-- Whether an append to a sequence would copy a tail page that holds a PROVISIONAL entry, in some layer: it waits (R388). -/
def mustWait (s : State) (x : Agent) (core : Nat) (h : KvHdr) (seq : Nat) : Bool :=
  !tailReserved s x core h seq &&
  (tailStates s x core h seq).any (fun w => match w with | some (prov, _, _) => prov | none => false)

/-- A page index taken from the header's queue (R447). -/
def popPage (s : State) (asid : Nat) (h : KvHdr) : State × Option DWord :=
  if itemQueue s asid h.fq then popQueue s h.fq else (s, none)

/-- The side slot of a line of a copied page: the source line's where bytes came from there, 0 where it was zeroed (R27, R242).
(DESIGN CHOICE, log 57.) -/
def kvSlot (x : Agent) (core src dst copied : Nat) (s : State) : Except Nat State :=
  match translate s x dst .write, translate s x src .read with
  | .error k, _ => .error k
  | .ok d, .ok e =>
    if !d.scaled then .ok s
    else if copied = 0 then .ok (homeSlot (flushLine s core (d.loc dst) true) (d.loc dst) 0)
    else if !e.scaled then .ok s
    else if s.slotPoisoned (e.loc src) then .error 0x40
    else
      let s := flushLine (flushLine s core (d.loc dst) true) core (e.loc src) true
      .ok (homeSlot s (d.loc dst) (s.slotAt (e.loc src)))
  | .ok d, .error k => if copied = 0 then (if d.scaled then .ok (homeSlot (flushLine s core (d.loc dst) true) (d.loc dst) 0) else .ok s) else .error k
def kvSlots (x : Agent) (core src dst m : Nat) : List Nat → State → Except Nat State
  | [], s => .ok s
  | i :: r, s =>
    match kvSlot x core (src + 128 * i) (dst + 128 * i) (m - 128 * i) s with
    | .error k => .error k
    | .ok s => kvSlots x core src dst m r s

/-- One layer of an append (R387): the state, the indices popped so far, and the layer's status. The error gives the indices. -/
def appendLayer (x : Agent) (core : Nat) (h : KvHdr) (d : KvDir) (k : Nat) (s : State) (popped : List DWord) :
    Except (List DWord) (State × List DWord × Nat) :=
  let p := d.len
  let zeros (n : Nat) : List Byte := List.replicate n 0
  let chk {α : Type} (l : List DWord) (r : Except Nat α) : Except (List DWord) α := match r with | .ok a => .ok a | .error _ => .error l
  let fresh (s : State) : Except (List DWord) (State × List DWord × Nat) :=
    match popPage s x.asid h with
    | (_, none) => .error popped
    | (s, some v) => .ok (s, popped ++ [v], v.toNat % 2 ^ 32)
  let ptr := d.ptrAt k (p / 256)
  if p % 256 = 0 then
    match fresh s with
    | .error l => .error l
    | .ok (s, l, y) =>
      match chk l (kvPut s x core ptr y) with
      | .error l => .error l
      | .ok s =>
        match chk l (kvPut s x core (h.countWord y) 1) with
        | .error l => .error l
        | .ok s =>
          match chk l (kvStore s x core (h.entryAt y p) (zeros h.esz)) with
          | .error l => .error l
          | .ok s => .ok (s, l, 2)
  else
    match chk popped (pageOf s x core h d k p) with
    | .error l => .error l
    | .ok (s, q) =>
      match chk popped (kvWord s x core (h.countWord q)) with
      | .error l => .error l
      | .ok (s, n) =>
        if n ≤ 1 then
          match chk popped (kvStore s x core (h.entryAt q p) (zeros h.esz)) with
          | .error l => .error l
          | .ok s => .ok (s, popped, 0)
        else
          match fresh s with
          | .error l => .error l
          | .ok (s, l, y) =>
            let m := p % 256 * h.esz
            match chk l (kvRead s x core (h.pageAt q) m) with
            | .error l => .error l
            | .ok (s, bs) =>
              match chk l ((kvStore s x core (h.pageAt y) (bs ++ zeros (256 * h.esz - m))).bind
                  (kvSlots x core (h.pageAt q) (h.pageAt y) m (upto (2 * h.esz)))) with
              | .error l => .error l
              | .ok s =>
                match chk l (kvPut s x core (h.countWord y) 1) with
                | .error l => .error l
                | .ok s =>
                  match chk l (kvPut s x core (h.countWord q) (n - 1)) with
                  | .error l => .error l
                  | .ok s =>
                    match chk l (kvPut s x core ptr y) with
                    | .error l => .error l
                    | .ok s => .ok (s, l, 1)

/-- The layers of an append, with the greatest status. -/
def appendLayers (x : Agent) (core : Nat) (h : KvHdr) (d : KvDir) : List Nat → State → List DWord → Nat → Except (List DWord) (State × Nat)
  | [], s, _, m => .ok (s, m)
  | k :: ks, s, l, m =>
    match appendLayer x core h d k s l with
    | .error l => .error l
    | .ok (s, l, st) => appendLayers x core h d ks s l (max m st)

/-- Indices popped and pushed back: HEAD and TAIL have both moved (R387). -/
def pushBack (s : State) (x : Agent) (h : KvHdr) (l : List DWord) : State :=
  let s := l.foldl (fun s _ => (popPage s x.asid h).1) s
  l.foldl (fun s v => match pushQueue s h.fq v with | .done s => s | .refused s => s | .full => s) s

/-- One lane's append: the position and the status (R387). -/
def appendLane (s : State) (x : Agent) (core : Nat) (h : KvHdr) (seq : Nat) : State × Nat × Nat :=
  if h.nseq ≤ seq then (s, 0, 3)
  else
    match readDir s x core h seq with
    | .error _ => (s, 0, 3)
    | .ok (s0, d) =>
      if d.len = 2 ^ 32 - 1 ∨ d.cap ≤ d.len / 256 then (s0, d.len, 3)
      else
        match appendLayers x core h d (upto h.layers) s0 [] 0 with
        | .error l => (pushBack s0 x h l, d.len, 3)
        | .ok (s, st) =>
          match kvPut s x core (h.dirAt seq) (d.len + 1) with
          | .ok s => (s, d.len, st)
          | .error _ => (s0, d.len, 3)

/-! ### Exits (R392, R393) -/

/-- What an exit of a token would do: the status at once, or the record that it posts with the writes that it makes. -/
inductive ExitPlan where
  | status (v : Nat)
  | post (seq pos l : Nat) (pages : List Nat) (slot : Nat)

/-- The pages of a position for the layers from one on. -/
def pagesFrom (x : Agent) (core : Nat) (h : KvHdr) (d : KvDir) (pos : Nat) : List Nat → State → Except Nat (List Nat)
  | [], _ => .ok []
  | k :: ks, s =>
    match pageOf s x core h d k pos with
    | .error c => .error c
    | .ok (s, p) => (pagesFrom x core h d pos ks s).map (p :: ·)

/-- The state words of a position's entries. -/
def wordsOfEntries (x : Agent) (core : Nat) (h : KvHdr) (pos : Nat) : List Nat → State → Except Nat (List Nat)
  | [], _ => .ok []
  | p :: ps, s =>
    match kvWord s x core (h.entryAt p pos) with
    | .error c => .error c
    | .ok (s, v) => (wordsOfEntries x core h pos ps s).map (v :: ·)

/-- What one lane of EXITTOK does: a status, or the exit record that it posts (R203, R393). (DEDUCED, log 40.) -/
def exitPlan (s : State) (x : Agent) (core : Nat) (h : KvHdr) (seq l : Nat) : ExitPlan :=
  if h.nseq ≤ seq then .status 3
  else
    match readDir s x core h seq with
    | .error _ => .status 3
    | .ok (s, d) =>
      if h.layers ≤ l ∨ d.len = 0 then .status 2
      else
        let pos := d.len - 1
        match pagesFrom x core h d pos (upto h.layers) s with
        | .error _ => .status 3
        | .ok ps =>
          match wordsOfEntries x core h pos ps s with
          | .error _ => .status 3
          | .ok ws =>
            if ws.any (fun v => (stateWord v).isNone) then .status 3
            else if ws.any (fun v => decide (v / 4 % 2 = 1)) then .status 2
            else if l + 1 = h.layers then .status 1
            else .post seq pos l (ps.drop l) (h.hidden seq pos)

/-- The states of R385 for layer l and those above it: `ps` are the pages from layer l on. -/
def exitWrites (x : Agent) (core : Nat) (h : KvHdr) (pos l : Nat) : List Nat → Bool → State → Except Nat State
  | [], _, s => .ok s
  | p :: ps, first, s =>
    let e := h.entryAt p pos
    if first then
      match kvPut s x core e 4 with
      | .error k => .error k
      | .ok s => exitWrites x core h pos l ps false s
    else
      match kvPut s x core e (1 + 16 * l) with
      | .error k => .error k
      | .ok s =>
        match kvStore s x core (e + 16) (List.replicate (h.esz - 16) 0) with
        | .error k => .error k
        | .ok s => exitWrites x core h pos l ps false s

/-- A half-word added to PEND at the home. -/
def addPend16 (s : State) (x : Agent) (core : Nat) (h : KvHdr) (seq n : Nat) : Except Nat State :=
  match kvRead s x core (h.dirAt seq + 4) 2 with
  | .error k => .error k
  | .ok (s, bs) => kvStore s x core (h.dirAt seq + 4) (toBytes 2 (ofBytes bs + n))

/-- Whether the exit record that last used a slot is not DONE, on any die. -/
def slotBusy (s : State) (asid slot : Nat) : Bool :=
  s.dies.any (fun p => p.2.exits.any (fun r => decide (r.2.asid = asid) && decide (r.2.slot = slot)))

/-- One lane's exit performed: the status (R203, R392). -/
def exitLane (s : State) (x : Agent) (core die hdr : Nat) (h : KvHdr) (seq l : Nat) : State × Nat :=
  match exitPlan s x core h seq l with
  | .status v => (s, v)
  | .post seq pos l ps slot =>
    match exitWrites x core h pos l ps true s with
    | .error _ => (s, 3)
    | .ok s1 =>
      match addPend16 s1 x core h seq 1 with
      | .error _ => (s, 3)
      | .ok s2 =>
        let r : ExitRec := { asid := x.asid, hdr := hdr, seq := seq, pos := pos, exitLayer := l, layer := l + 1, pages := ps.drop 1,
                             slot := slot, state := .pending, since := s2.now }
        (s2.modDie die (fun d => { d with exits := tput d.exits d.nextExit r, nextExit := d.nextExit + 1 }), 0)

/-! ### The Backwater engine (R394, R395) -/

/-- The header as the engine reads it at its home. -/
def engineHdr (s : State) (asid hdr : Nat) : Option KvHdr :=
  match ctxRead s asid hdr 64 with
  | .ok bs => if (parseHdr bs).valid then some (parseHdr bs) else none
  | .error _ => none

/-- Reach cycles after which the oldest record makes a batch, in Riffle cycles. -/
def batchAge : Nat := 16384 * 3

/-- The PENDING records of a die, oldest first. -/
def pendingExits (d : Die) : List (Nat × ExitRec) := d.exits.filter (fun p => decide (p.2.state = .pending))

/-- The records of the batch that starts with a record. -/
def batchOf (l : List (Nat × ExitRec)) (r : ExitRec) : List (Nat × ExitRec) :=
  l.filter (fun p => decide (p.2.asid = r.asid) && decide (p.2.hdr = r.hdr) && decide (p.2.layer = r.layer))

/-- Whether a batch is to be filled: enough records share a header and a layer, or the oldest has waited long enough. -/
def batchDue (s : State) (d : Die) : Bool :=
  let l := pendingExits d
  match l with
  | [] => false
  | (_, o) :: _ =>
    decide (o.since + batchAge ≤ s.now) ||
    l.any (fun p => match engineHdr s p.2.asid p.2.hdr with | some h => decide (h.bmax < (batchOf l p.2).length) | none => false)

/-- The page of a record for its next layer. -/
def ExitRec.page (r : ExitRec) : Nat := r.pages.getD (r.layer - r.exitLayer - 1) 0

/-- The bytes of a batch buffer before the staging area (R394). -/
def batchBytes (h : KvHdr) (hdr buf : Nat) (items : List ExitRec) : List Byte :=
  let n := h.bmax + 1
  let layer := (items.head?.map (·.layer)).getD 0
  toBytes 4 items.length ++ toBytes 4 layer ++ toBytes 8 hdr ++ List.replicate 48 0 ++
  items.zipIdx.flatMap (fun p =>
    let r := p.1
    toBytes 4 r.seq ++ toBytes 4 r.pos ++ toBytes 8 (h.entryAt r.page r.pos + 16) ++ toBytes 8 r.slot ++
    toBytes 8 (buf + 64 + 32 * n + p.2 * (h.esz - 16)))

/-- The launch of a batch posted to the engine's queue: the record at BFL, in the records' context, with the buffer as parameter
pointer, in the backfill class (R395). None where it is refused. -/
def postBatch (s : State) (die : Nat) (asid : Nat) (h : KvHdr) (buf : Nat) : Option (State × Nat) :=
  let qn := 8184 + die
  match recordBytes s asid h.bfl with
  | none => none
  | some bs =>
    match acceptRecord s asid qn h.bfl
        (bs.take 0x30 ++ toBytes 8 buf ++ (bs.drop 0x38).take 0x46 ++ toBytes 2 (qn + 2 ^ 13 * 2)) with
    | none => none
    | some l =>
      let world := match tget s.ctxs asid with | some x => x.world | none => false
      if l.record.wld && !world then none
      else
        match ringWrite s qn (s.queue qn).tail (BitVec.ofNat 64 h.bfl) with
        | .error _ => none
        | .ok s1 => some ((addLaunch s1 { l with batch := some (die, buf) }).modQueue qn (fun q => { q with tail := q.tail + 1 }), s1.uid)

/-- The batch of a die changed. -/
def modBatch (s : State) (die i : Nat) (f : BwBatch → BwBatch) : State :=
  s.modDie die (fun d => { d with batches := setAt d.batches i f })

/-- A backfill launch is refused, or has ended in a core stop: the first time the batch is launched again, the second time event 5
says so and its records stay BATCHED. -/
def failBatch (s : State) (die i : Nat) : State :=
  match (s.die die).batches[i]? with
  | none => s
  | some b =>
    let s := modBatch s die i (fun b => { b with launch := none, fails := b.fails + 1 })
    if b.fails = 0 then s
    else
      let layer := match b.recs with | r :: _ => (match tget (s.die die).exits r with | some x => x.layer | none => 0) | [] => 0
      postEvent s 5 b.asid (toBytes 8 b.hdr ++ toBytes 4 layer)

/-- Batches without a launch are posted while the engine's queue has room. `fuel` bounds the tries. -/
def postBatches (die : Nat) : Nat → State → State
  | 0, s => s
  | fuel + 1, s =>
    let q := s.queue (8184 + die)
    if q.depth ≤ q.fill then s
    else
      match ((s.die die).batches.zipIdx).find? (fun p => p.1.launch.isNone && decide (p.1.fails < 2)) with
      | none => s
      | some (b, i) =>
        match engineHdr s b.asid b.hdr with
        | none => postBatches die fuel (failBatch s die i)
        | some h =>
          match postBatch s die b.asid h (h.blb + b.buf * h.bufBytes) with
          | none => postBatches die fuel (failBatch s die i)
          | some (s, lid) => postBatches die fuel (modBatch s die i (fun b => { b with launch := some lid }))

/-- A batch filled from the oldest record into the lowest buffer of its header that no die's engine uses (R394, R399); none where
none is to be.
(DEDUCED, log 42.) -/
def fillBatch (s : State) (die : Nat) : Option State :=
  let d := s.die die
  let q := s.queue (8184 + die)
  if !batchDue s d ∨ q.depth ≤ q.fill then none
  else
    let l := pendingExits d
    match l with
    | [] => none
    | (_, o) :: _ =>
      match engineHdr s o.asid o.hdr with
      | none => none
      | some h =>
        let used := (((upto 8).flatMap (fun k => (s.die k).batches)).filter
            (fun b => decide (b.asid = o.asid) && decide (b.hdr = o.hdr))).map (·.buf)
        match [0, 1].find? (fun b => !used.contains b) with
        | none => none
        | some b =>
          let items := (batchOf l o).take (h.bmax + 1)
          let buf := h.blb + b * h.bufBytes
          let s1 := s.modDie die (fun d =>
            { d with exits := items.foldl (fun m p => tput m p.1 { p.2 with state := .batched }) d.exits,
                     batches := d.batches ++ [{ asid := o.asid, hdr := o.hdr, buf := b, recs := items.map (·.1), launch := none, fails := 0 }] })
          match ctxStore s1 o.asid buf (batchBytes h o.hdr buf (items.map (·.2))) with
          | .ok s2 => some (postBatches die 4 s2)
          | .error _ => some (postBatches die 4 (failBatch s1 die d.batches.length))

/-- Every batch that is to be filled now (R394). -/
def fillBatches (die : Nat) : Nat → State → State
  | 0, s => s
  | fuel + 1, s =>
    match fillBatch s die with
    | none => s
    | some s => fillBatches die fuel s

/-- BACKWATER_AGE_TIMEOUT (R394): the oldest record has waited long enough. -/
def execBackwaterAgeTimeout (die : Nat) (s : State) : Out :=
  match fillBatch s die with
  | none => .refused .notEnabled
  | some s => .next (fillBatches die 2 s).bump

/-- Bytes stored in a context up to the first line that fails, with the state so far. -/
def storeUpTo (asid : Nat) : Nat → State → Nat → List Byte → Except State State
  | 0, s, _, _ => .ok s
  | fuel + 1, s, va, bs =>
    if bs = [] then .ok s
    else
      let k := 128 - va % 128
      match ctxStore s asid va (bs.take k) with
      | .error _ => .error s
      | .ok s => storeUpTo asid fuel s (va + k) (bs.drop k)

/-- One item of a batch that has ended (R395): the staging bytes into the entry, with the side slots of whole lines (R27), the flip, and
the record's next layer. A state word with a reserved value is no entry to flip (R384, R7), as one that cannot be read. (DEDUCED, log 88.) -/
def flipItem (die : Nat) (h : KvHdr) (asid hdr buf : Nat) (s : State) (item : Nat × Nat) : State :=
  match tget (s.die die).exits item.1 with
  | none => s
  | some r =>
    let e := h.entryAt r.page r.pos
    let n := h.bmax + 1
    let stg := buf + 64 + 32 * n + item.2 * (h.esz - 16)
    let flip : Except State State :=
      match ctxRead s asid stg (h.esz - 16) with
      | .error _ => .error s
      | .ok bs =>
        match storeUpTo asid (spanLines (e + 16) bs.length) s (e + 16) bs with
        | .error s => .error s
        | .ok s =>
          match ctxMoveSlots asid stg (e + 16) bs.length s with
          | .error _ => .error s
          | .ok s =>
          match ctxRead s asid e 4 with
          | .error _ => .error s
          | .ok w =>
            match stateWord (ofBytes w) with
            | none => .error s
            | some (_, x, _) => (match ctxStore s asid e (toBytes 4 (if x then 4 else 0)) with | .error _ => .error s | .ok s => .ok s)
    match flip with
    | .error s => postEvent s 5 asid (toBytes 8 hdr ++ toBytes 4 r.layer)
    | .ok s =>
      if r.layer + 1 = h.layers then
        let s := s.modDie die (fun d => { d with exits := tdel d.exits item.1 })
        match ctxRead s asid (h.dirAt r.seq + 4) 2 with
        | .error _ => s
        | .ok bs => match ctxStore s asid (h.dirAt r.seq + 4) (toBytes 2 (ofBytes bs + 65535)) with | .ok s => s | .error _ => s
      else
        s.modDie die (fun d => { d with exits := tput d.exits item.1 { r with layer := r.layer + 1, state := .pending, since := s.now } })

/-- BACKFILL_LAUNCH_END (R395): a batch's launch has ended; an end by a core stop counts as a failure. -/
def execBackfillLaunchEnd (die batch : Nat) (s : State) : Out :=
  match (s.die die).batches[batch]? with
  | none => .refused .notEnabled
  | some b =>
    match b.launch with
    | none => .refused .notEnabled
    | some lid =>
      let ended : Option Bool := match tget s.launches lid with | none => some true | some l => if l.state = .ended then some l.aborted else none
      match ended with
      | none => .refused .notEnabled
      | some aborted =>
        let s := { s with launches := tdel s.launches lid }
        if aborted then .next (fillBatches die 2 (postBatches die 4 (failBatch s die batch))).bump
        else
          let drop (s : State) : State := s.modDie die (fun d => { d with batches := dropAt d.batches batch })
          let s := match engineHdr s b.asid b.hdr with
            | none => b.recs.foldl (fun s k => postEvent s 5 b.asid (toBytes 8 b.hdr ++
                toBytes 4 (match tget (s.die die).exits k with | some r => r.layer | none => 0))) s
            | some h => b.recs.zipIdx.foldl (flipItem die h b.asid b.hdr (h.blb + b.buf * h.bufBytes)) s
          .next (fillBatches die 2 (postBatches die 4 (drop s))).bump

end Sys2Proof.Machine
end

