-- ==== Sys2Proof/Machine/Attention.lean ====
section
/-! DEFINITION. Key-value instructions, roles, tile barriers and CFTEST: opcodes 0xC0 to 0xC6 (R196 to R206). -/
namespace Sys2Proof.Machine
open Sys2Proof

/-! ### Key-value instructions (R199) -/

/-- What each thread that acts comes to: thread, words for D, status. -/
abbrev KvAnswers := List (Nat × DWord × Nat)

def kvAnswer (l : KvAnswers) (t : Nat) : DWord × Nat :=
  match l.find? (fun p => decide (p.1 = t)) with
  | some p => p.2
  | none => (0, 3)

/-- A key-value instruction that has acted: its registers, its counter and sr.kvrm are written when it completes (R199). -/
def finishKv (c : Ctx) (f : Fr) (kvs : List (Nat × Word)) (lost : BitVec 32) (s : State) : State :=
  s.modWarp c.w (fun wp =>
    { wp with flights := dropFlight wp.flights (kvs.map (·.1)) ++ [⟨fctr f, kvs, c.pre.now + c.minLat, .kv lost⟩] })

/-- The bits of sr.kvrm: the threads that acted and whose status is 3 (R199); with UNI = 1 only the lowest active thread acts (R103). -/
def lostOf (c : Ctx) (l : KvAnswers) : BitVec 32 := maskOf (c.doers.filter (fun t => decide ((kvAnswer l t).2 = 3)))

/-- Status 3 for every thread: with a header that cannot be read every active lane's bit is set (R381). -/
def allLost (c : Ctx) : KvAnswers := c.doers.map (fun t => (t, 0, 3))

/-- A key-value instruction: the descriptor, its header, then the body. -/
def kvOp (f : Fr) (n : Names) (k : BitVec 4) (outs : Ctx → KvAnswers → List (Nat × Word))
    (bad : KvHdr → Bool) (body : Ctx → Eng → Nat → Bool → KvHdr → State → (KvAnswers → State → Body) → Body) (s : State) : Out :=
  issue f n none noEarly (fun c st =>
    let give (l : KvAnswers) (s : State) : Body := .done (finishKv c f (outs c l) (lostOf c l) s)
    let lost (s : State) : Body := .done (finishKv c f (outs c (allLost c)) c.act s)
    if c.act = 0 then .done (finishFlight c f [] .minimum st)
    else
      match engOf st c.warp.blk c.split.priv c.core false with
      | none => lost st
      | some e =>
        match readHdr st e c.block k.toNat with
        | .bad => .trap 0x08 c.act [] none
        | .lost => lost st
        | .ok st addr pol h => if bad h then .trap 0x08 c.act [] none else body c e addr pol h st give) s

/-- Threads one after another. -/
def kvEach (g : State → Nat → State × DWord × Nat) : List Nat → State → State × KvAnswers
  | [], s => (s, [])
  | t :: ts, s =>
    let (s, v, st) := g s t
    let (s, l) := kvEach g ts s
    (s, (t, v, st) :: l)

/-- Sequence and layer of A (R200). -/
def seqOf (v : Word) : Nat := v.toNat % 2 ^ 20
def layerOf (v : Word) : Nat := v.toNat / 2 ^ 20

/-- KVXLT (R200, R386). Where C is the second register of D, which of the two words it keeps is free. (DEDUCED, log 11.) -/
def execKvxlt (f : Fr) (d c2 : Reg) (a b : Src) (k : BitVec 4) (acq : Bool) (s : State) : Out :=
  let outs (c : Ctx) (l : KvAnswers) : List (Nat × Word) :=
    let addr := c.outs (pairOuts d (fun t => (kvAnswer l t).1))
    let st := c.outs [(c2.toNat, fun t => BitVec.ofNat 32 (kvAnswer l t).2)]
    let keys := st.map (·.1)
    if Config.freeBit c.pre.free 1000002 then addr.filter (fun p => !keys.contains p.1) ++ st
    else addr ++ st.filter (fun p => !(addr.map (·.1)).contains p.1)
  kvOp f ⟨srcN a 1, srcN b 1, none, [(d.toNat, 2), (c2.toNat, 1)]⟩ k outs (fun _ => false) (fun c _ _ pol h st give =>
    let (st, l) := kvEach (fun s t =>
      let v := c.val a t
      let (s, addr, x) := kvResolve s c.agent c.core h pol (seqOf v) (layerOf v) (c.val b t).toNat
      (s, BitVec.ofNat 64 addr, x)) c.doers st
    give l (if acq then acquireAt c 5 st else st)) s

/-- KVAPP (R201, R387, R388). A lane whose test meets a reserved state word has status 3 (R384). No NCOW is in progress
when it acts (R243). With status 3 no position is appended, and the spec states no value for D: it is free.
(DESIGN CHOICE, log 41.) -/
def execKvapp (f : Fr) (d c2 : Reg) (a : Src) (k : BitVec 4) (s : State) : Out :=
  kvOp f ⟨srcN a 1, none, none, [(d.toNat, 1), (c2.toNat, 1)]⟩ k
    (fun c l => c.outs [(d.toNat, fun t => if (kvAnswer l t).2 = 3 then Config.freeWord c.pre.free (1000100 + t) else loWord (kvAnswer l t).1),
      (c2.toNat, fun t => BitVec.ofNat 32 (kvAnswer l t).2)])
    (fun _ => false) (fun c _ _ _ h st give =>
      if c.pre.cows ≠ [] then .held
      else if c.doers.any (fun t => mustWait c.pre c.agent c.core h (c.val a t).toNat) then .waits false .none c.pre
      else
        let (st, l) := kvEach (fun s t =>
          let seq := (c.val a t).toNat
          let (s, p, x) := if tailReserved c.pre c.agent c.core h seq then (s, 0, 3) else appendLane s c.agent c.core h seq
          (s, BitVec.ofNat 64 p, x)) c.doers (releaseAt c 5 st)
        give l st) s

/-- KVAPP_PROCEED: the entries that a waiting KVAPP waits for are FINAL. -/
def execKvappProceed (w ent : Nat) (s : State) : Out :=
  retry w ent (fun i => match i with | .kvapp f d c2 a k => some (execKvapp f d c2 a k) | _ => none) s

/-- EXITTOK (R203, R392). It waits at issue for its slots and for room among the die's records. -/
def execExittok (f : Fr) (d a b : Reg) (k : BitVec 4) (s : State) : Out :=
  kvOp f (nameD d (reg1 a) (reg1 b) none) k (fun c l => c.outs [(d.toNat, fun t => BitVec.ofNat 32 (kvAnswer l t).2)])
    (fun h => decide (h.bfl = 0)) (fun c _ addr _ h st give =>
      let die := dieOf c.core
      let layer (t : Nat) : Nat := (c.reg b.toNat t).toNat % 4096
      let slots := c.doers.filterMap (fun t =>
        match exitPlan c.pre c.agent c.core h (c.reg a.toNat t).toNat (layer t) with
        | .post _ _ _ _ slot => some slot
        | .status _ => none)
      if slots.any (slotBusy c.pre c.asid) ∨ (slots ≠ [] ∧ 4096 < (c.pre.die die).exits.length + slots.eraseDups.length) then .held
      else
        let (st, l) := kvEach (fun s t =>
          let (s, x) := exitLane s c.agent c.core die addr h (c.reg a.toNat t).toNat (layer t)
          (s, 0, x)) c.doers (releaseAt c 5 st)
        give l (fillBatches die 2 st)) s

/-- BFWAIT (R204). -/
def execBfwait (f : Fr) (d a b : Reg) (k : BitVec 4) (s : State) : Out :=
  kvOp f (nameD d (reg1 a) (reg1 b) none) k (fun c l => c.outs [(d.toNat, fun t => BitVec.ofNat 32 (kvAnswer l t).2)])
    (fun _ => false) (fun c _ _ _ h st give =>
      let (st, l) := kvEach (fun s t =>
        let v := c.reg a.toNat t
        let (s, _, x) := kvResolve s c.agent c.core h true (seqOf v) (layerOf v) (c.reg b.toNat t).toNat
        (s, 0, x)) c.doers st
      if l.any (fun p => decide (p.2.2 = 2)) then .waits false .none c.pre
      else give l (acquireAt c 5 st)) s

/-- BFWAIT_SATISFIED. -/
def execBfwaitSatisfied (w ent : Nat) (s : State) : Out :=
  retry w ent (fun i => match i with | .bfwait f d a b k => some (execBfwait f d a b k) | _ => none) s

/-! ### Roles (R196) -/

def execRoleGet (f : Fr) (d : Reg) (s : State) : Out :=
  aluOp f (nameD d none none none) (4, 2) (fun c => [(d.toNat, fun _ => BitVec.ofNat 32 c.warp.role.code)]) noEvents s

/-- ROLE_SET (R196). -/
def execRoleSet (f : Fr) (role : Role) (s : State) : Out :=
  issue f (nameS none none none) (some (4, 2)) noEarly (fun c st =>
    let st := finishFixed c f (c.lat 4 2) [] Health.none st
    if c.act = 0 then .done st
    else .done (st.modSplit c.w c.ent (fun sp => addSpend sp ⟨.role, c.pre.free, BitVec.ofNat 64 role.code, c.split.nd + c.lat 4 2⟩))) s

/-! ### Tile barriers (R197, R198) -/

def Block.tbar (b : Block) (n : Nat) : TBar := tgetD b.tbars n TBar.reset
def State.modTBar (s : State) (b n : Nat) (f : TBar → TBar) : State :=
  s.modBlock b (fun x => { x with tbars := tputD x.tbars n TBar.reset (f (x.tbar n)) })

/-- `k` arrivals, each phase ending at the arrival that brings REM to 0. -/
def TBar.arrive (x : TBar) (k : Nat) : TBar :=
  if k < x.rem then { x with rem := x.rem - k }
  else { x with rem := x.exp - (k - x.rem) % x.exp, phn := (x.phn + 1 + (k - x.rem) / x.exp) % 65536 }

/-- Whether a phase is complete. -/
def TBar.done (x : TBar) (q : Nat) : Bool :=
  let d := (x.phn + 65536 - q % 65536) % 65536
  decide (1 ≤ d) && decide (d ≤ 32767)

/-- TBAR with the lowest active thread's A; in a handler it is the double fault (R260). -/
def tbarOp (f : Fr) (d a : Reg) (body : Ctx → Nat → State → (Nat → State → Body) → Body) (s : State) : Out :=
  issue f (nameD d (reg1 a) none none) none noEarly (fun c st =>
    if c.act = 0 then .done (finishFlight c f [] .minimum st)
    else if c.handler then .trap 0x42 c.act [] none
    else
      body c ((c.reg a.toNat (lowest c.act)).toNat % 65536) st (fun v s =>
        .done (finishFlight c f (c.outs [(d.toNat, fun _ => BitVec.ofNat 32 v)]) .access s))) s

/-- TBAR_INIT (R198). -/
def execTbarInit (f : Fr) (d a : Reg) (n : BitVec 4) (s : State) : Out :=
  tbarOp f d a (fun c v st give =>
    if v = 0 then .trap 0x08 c.act [] none
    else give 0 (st.modTBar c.warp.blk n.toNat (fun _ => { exp := v, rem := v, phn := 0 }))) s

/-- TBAR_ARRIVE (R198). -/
def execTbarArrive (f : Fr) (d a : Reg) (n : BitVec 4) (s : State) : Out :=
  tbarOp f d a (fun c v st give =>
    let x := c.block.tbar n.toNat
    if v = 0 then give x.phn (releaseAt c 1 st)
    else if x.exp = 0 then .trap 0x08 c.act [] none
    else give x.phn ((releaseAt c 1 st).modTBar c.warp.blk n.toNat (·.arrive v))) s

/-- TBAR_WAIT (R198). -/
def execTbarWait (f : Fr) (d a : Reg) (n : BitVec 4) (s : State) : Out :=
  tbarOp f d a (fun c v st give =>
    let x := c.block.tbar n.toNat
    if x.exp ≠ 0 ∧ x.done v then give x.phn (acquireAt c 1 st) else .waits false .none c.pre) s

/-- .arwt: one arrival, then a wait for its phase, whose number the split keeps. -/
def execTbarArwt (f : Fr) (d a : Reg) (n : BitVec 4) (s : State) : Out :=
  tbarOp f d a (fun c _ st give =>
    let x := c.block.tbar n.toNat
    if c.split.arrived then
      if x.done c.split.phase.num then give x.phn (acquireAt c 1 st) else .waits true c.split.phase c.pre
    else if x.exp = 0 then .trap 0x08 c.act [] none
    else
      let go (s : State) : State := (releaseAt c 1 s).modTBar c.warp.blk n.toNat (·.arrive 1)
      if (x.arrive 1).done x.phn then give (x.arrive 1).phn (acquireAt c 1 (go st))
      else .waits true (.tile x.phn) (go c.pre)) s

/-! ### CFTEST (R206) -/

/-- p1 from the active threads' maxima and sums, in ascending order of threads. -/
def topProbability (l : List (Word × Word)) : Word :=
  let m := rowMax (l.map (·.1))
  fdiv 0x3F800000 (l.foldl (fun acc p => fadd acc (fmul p.2 (fexp (fsub p.1 m)))) 0)

/-- CFTEST (R206): the threshold is uniform, the lowest active thread's (R152). -/
def execCftest (f : Fr) (d : Reg) (a b x : Src) (s : State) : Out :=
  aluOp f (nameD2 d (src1 a) (src1 b) (src1 x)) (40, 20)
    (fun c =>
      let p := topProbability (c.threads.map (fun t => (c.val a t, c.val b t)))
      let thr := numOf (c.val x (lowest c.act))
      pairOuts d (fun _ => pairOfWords (if !(numOf p).isNan && !thr.isNan && !Num.lt (numOf p) thr then 1 else 0) p))
    noEvents s

end Sys2Proof.Machine
end

