-- ==== Sys2Proof/Machine/Sha.lean ====
section
/-! DEFINITION. SHA-256 and HMAC-SHA-256 (R371, R519, R536), which the spec names and their standards define. -/
namespace Sys2Proof.Machine

/-- The eight words of a state. -/
structure Sha where
  a : Word
  b : Word
  c : Word
  d : Word
  e : Word
  f : Word
  g : Word
  h : Word
  deriving DecidableEq, Repr

/-- The primes from `p` on among the next `fuel` numbers. -/
def primesFrom (p fuel : Nat) : List Nat := ((upto fuel).map (p + ·)).filter (fun n => (upto n).all (fun d => decide (d < 2) || decide (n % d ≠ 0)))

/-- The first 64 primes: those up to 311. -/
def shaPrimes : List Nat := primesFrom 2 310

/-- The first 32 bits of the fraction of a number's `k`-th root, for roots below 32: bit by bit, the largest number whose power does not
exceed it. -/
def rootFraction (k p : Nat) : Word :=
  BitVec.ofNat 32 ((upto 37).foldl (fun x i =>
    let y := x + 2 ^ (36 - i)
    if y ^ k ≤ p * 2 ^ (32 * k) then y else x) 0)

/-- The first state: the square roots of the first eight primes. -/
def Sha.init : Sha :=
  let h (i : Nat) : Word := rootFraction 2 (shaPrimes.getD i 0)
  ⟨h 0, h 1, h 2, h 3, h 4, h 5, h 6, h 7⟩

/-- The round constants: the cube roots of the first 64 primes. -/
def shaK : List Word := shaPrimes.map (rootFraction 3)

def Sha.round (x : Sha) (k w : Word) : Sha :=
  let s1 := x.e.rotateRight 6 ^^^ x.e.rotateRight 11 ^^^ x.e.rotateRight 25
  let ch := (x.e &&& x.f) ^^^ (~~~x.e &&& x.g)
  let t1 := x.h + s1 + ch + k + w
  let s0 := x.a.rotateRight 2 ^^^ x.a.rotateRight 13 ^^^ x.a.rotateRight 22
  let mj := (x.a &&& x.b) ^^^ (x.a &&& x.c) ^^^ (x.b &&& x.c)
  ⟨t1 + (s0 + mj), x.a, x.b, x.c, x.d + t1, x.e, x.f, x.g⟩

/-- The message schedule, newest word first. -/
def shaWords : Nat → List Word → List Word
  | 0, ws => ws
  | n + 1, ws =>
    let w2 := ws.getD 1 0
    let w15 := ws.getD 14 0
    let s0 := w15.rotateRight 7 ^^^ w15.rotateRight 18 ^^^ (w15 >>> 3)
    let s1 := w2.rotateRight 17 ^^^ w2.rotateRight 19 ^^^ (w2 >>> 10)
    shaWords n ((ws.getD 15 0 + s0 + ws.getD 6 0 + s1) :: ws)

/-- A big-endian number. -/
def ofBytesBE (bs : List Byte) : Nat := ofBytes bs.reverse

def shaBlock (x : Sha) (bs : List Byte) : Sha :=
  let ws := (shaWords 48 ((upto 16).map (fun i => BitVec.ofNat 32 (ofBytesBE ((bs.drop (4 * i)).take 4)))).reverse).reverse
  let y := (List.zip shaK ws).foldl (fun y p => y.round p.1 p.2) x
  ⟨x.a + y.a, x.b + y.b, x.c + y.c, x.d + y.d, x.e + y.e, x.f + y.f, x.g + y.g, x.h + y.h⟩

def shaBlocks : Nat → Sha → List Byte → Sha
  | 0, x, _ => x
  | n + 1, x, bs => shaBlocks n (shaBlock x (bs.take 64)) (bs.drop 64)

/-- SHA-256 of a message: 32 bytes. (PRESUMED, log 29.) -/
def sha256 (bs : List Byte) : List Byte :=
  let n := bs.length
  let pad := (119 - n % 64) % 64
  let msg := bs ++ [0x80] ++ List.replicate pad 0 ++ (toBytes 8 (8 * n)).reverse
  let x := shaBlocks (msg.length / 64) Sha.init msg
  [x.a, x.b, x.c, x.d, x.e, x.f, x.g, x.h].flatMap (fun w => (toBytes 4 w.toNat).reverse)

/-- HMAC-SHA-256 under a key of 32 bytes. -/
def hmac (key msg : List Byte) : List Byte :=
  let k := (key ++ List.replicate 64 0).take 64
  sha256 (k.map (· ^^^ 0x5C) ++ sha256 (k.map (· ^^^ 0x36) ++ msg))

/-- The 16-byte tag of a chunk (R371). -/
def chunkTag (key : BitVec 256) (chunk : List Byte) (i : Nat) : List Byte := (hmac (toBytes 32 key.toNat) (chunk ++ toBytes 8 i)).take 16

end Sys2Proof.Machine
end

