-- ==== Sys2Proof/Machine/Sluice.lean ====
section
/-! DEFINITION. Posting to the sluice engine and waiting for it: opcodes 0xA0 to 0xA7 (R226 to R236, R365, R370, R371). -/
namespace Sys2Proof.Machine
open Sys2Proof

/-! ### Commands (R227) -/

def Cmd.cnt (c : Cmd) : Nat := c.f 4 0 32
def Cmd.aux (c : Cmd) : Nat := c.f 5 0 32
def Cmd.sfmt (c : Cmd) : Nat := c.f 6 0 5
def Cmd.dfmt (c : Cmd) : Nat := c.f 6 5 5
def Cmd.grp (c : Cmd) : Nat := c.f 6 10 2
def Cmd.rm (c : Cmd) : Nat := c.f 6 12 3
def Cmd.ocp (c : Cmd) : Bool := c.flag 6 15
def Cmd.strm (c : Cmd) : Nat := c.f 6 16 8
def Cmd.tbn (c : Cmd) : Nat := c.f 6 24 4
def Cmd.tbe (c : Cmd) : Bool := c.flag 6 28
def Cmd.srcRec (c : Cmd) : Bool := c.flag 6 29
def Cmd.dstRec (c : Cmd) : Bool := c.flag 6 30
def Cmd.fin (c : Cmd) : Nat := c.f 7 6 4
def Cmd.fie (c : Cmd) : Bool := c.flag 7 10
def Cmd.fout (c : Cmd) : Nat := c.f 7 11 4
def Cmd.foe (c : Cmd) : Bool := c.flag 7 15
def Cmd.kvd (c : Cmd) : Nat := c.f 7 16 4
def Cmd.sgrp (c : Cmd) : Nat := c.f 7 16 2
def Cmd.kvn (c : Cmd) : Nat := c.f 7 20 12

/-- The modes of R226. -/
def mCopy : Nat := 0
def mCvt : Nat := 1
def mRescale : Nat := 2
def mTr : Nat := 3
def mFill : Nat := 4
def mKvg : Nat := 5
def mTagck : Nat := 6

def Cmd.selem (c : Cmd) : Elem := (codeElem c.sfmt).getD .f32
def Cmd.delem (c : Cmd) : Elem := (codeElem c.dfmt).getD .f32
/-- Whether the command's ends are scaled. -/
def Cmd.sscaled (c : Cmd) : Bool := decide (10 ≤ c.sfmt)
def Cmd.dscaled (c : Cmd) : Bool := decide (10 ≤ c.dfmt)
/-- The group size of a source without a record: SGRP of .cvt, otherwise GRP (R370). -/
def Cmd.sgroup (c : Cmd) : Nat := if c.mode = mCvt then c.sgrp else c.grp
/-- The rounding mode of RM. -/
def Cmd.rnd (c : Cmd) : Rnd := [Rnd.rne, .rz, .rup, .rdn, .rna, .sr].getD c.rm .rne

/-- Bits that the command covers at an end of elements of a format (R365). -/
def Cmd.bitsAt (c : Cmd) (e : Elem) : Nat := if c.mode = mCopy ∨ c.mode = mFill then 8 * c.cnt else c.cnt * storeBits e

/-! ### The checks at acceptance (R228, R361) -/

/-- Whether a flume end keeps the limits of R365: the byte count is whole elements, one to the flume's depth. -/
def flumeOk (b : Block) (n bits : Nat) : Bool :=
  match b.flumes[n]? with
  | none => false
  | some f =>
    decide (bits % (8 * f.size) = 0) && decide (1 ≤ bits / (8 * f.size)) && decide (bits / (8 * f.size) ≤ f.depth)

/-- Whether an address lies in the lane window (R312). -/
def inLane (va : Nat) : Bool := decide (windowOf va = some .lane)

/-- The limits of a run of a scaled format: its start, and whole groups, or plane units for MXFP6 (R370). -/
def runOk (va n fmt grp : Nat) : Bool :=
  decide (va % 128 = 0) && decide (n % (if fmt = 12 ∨ fmt = 13 then 512 else codeGrp grp) = 0)

/-- Whether the engine accepts a command: every check that needs no memory (R228). R227 calls C+7<17:16> reserved in the other modes and
leaves bits 19:18, KVD's upper half, to .kvg: elsewhere all four are taken as reserved. (DEDUCED, log 93.) -/
def cmdOk (s : State) (b : Block) (world : Bool) (c : Cmd) : Bool :=
  let m := c.mode
  let noRec := !c.srcRec && !c.dstRec
  let isConv := decide (m = mCvt ∨ m = mRescale)
  let sixes := decide (c.sfmt = 12 ∨ c.sfmt = 13 ∨ c.dfmt = 12 ∨ c.dfmt = 13)
  c.f 6 31 1 = 0 && decide (c.sfmt ≤ 17) && fmtOk c.dfmt c.grp && decide (c.rm ≤ 5) &&
  (if m = mKvg then true
   else c.f 7 18 2 = 0 && (if m = mCvt ∧ !c.srcRec ∧ 16 ≤ c.sfmt then decide (c.sgrp ≤ 2) else decide (c.sgrp = 0))) &&
  (decide (m ≠ mCopy) || decide (c.sfmt = c.dfmt)) &&
  (decide (m ≠ mRescale) || (decide (c.sfmt = c.dfmt) && c.sscaled)) &&
  (decide (m ≠ mTr) || (c.srcRec && c.dstRec && !c.fie && !c.foe)) &&
  (decide (m ≠ mFill) || (noRec && !c.fie && decide (c.cnt % 4 = 0))) &&
  (decide (m ≠ mKvg) || (noRec && !c.fie && !c.foe && (descriptor b c.kvd).isSome)) &&
  (decide (m ≠ mTagck) || (noRec && !c.fie && !c.foe && decide (c.src.toNat % 65536 = 0) && decide (c.dst.toNat % 65536 = 0) &&
    keyOk s (c.aux % 256) world)) &&
  (!c.fie || (decide (c.src = 0) && !c.srcRec && flumeOk b c.fin (c.bitsAt c.selem))) &&
  (!c.foe || (decide (c.dst = 0) && !c.dstRec &&
    (if c.srcRec then decide (c.fout < b.flumes.length) else flumeOk b c.fout (c.bitsAt c.delem)))) &&
  -- ends that are runs
  (c.srcRec || c.fie || decide (m = mFill) || decide (m = mKvg) || !inLane c.src.toNat) &&
  (c.dstRec || c.foe || !inLane c.dst.toNat) &&
  (decide (m ≠ mCopy) || !c.sscaled ||
    ((c.srcRec || c.fie || decide (c.src.toNat % 128 = 0)) && (c.dstRec || c.foe || decide (c.dst.toNat % 128 = 0)) &&
     (!noRec || decide (c.cnt % 128 = 0)))) &&
  (!isConv ||
    ((!noRec || !sixes || decide (c.cnt % 512 = 0)) &&
     (!c.sscaled || c.srcRec || runOk c.src.toNat c.cnt c.sfmt c.sgroup) &&
     (!c.dscaled || c.dstRec || (if c.srcRec then decide (c.dst.toNat % 128 = 0) else runOk c.dst.toNat c.cnt c.dfmt c.grp))))

/-! ### Batches (R231) -/

/-- The batches of a thread, changed. -/
def State.modBatches (s : State) (w t : Nat) (f : Batches → Batches) : State :=
  s.modWarp w (fun wp => { wp with batches := tputD wp.batches t Batches.reset (f (tgetD wp.batches t Batches.reset)) })

/-- A command joins the open batch, or its refusal is recorded there. -/
def Batches.join (b : Batches) : Batches := { b with openLeft := b.openLeft + 1 }
def Batches.refuse (b : Batches) : Batches := { b with openStatus := max b.openStatus 2 }

/-- A command of batch `n` completes with a status. -/
def Batches.complete (b : Batches) (n : BitVec 16) (status : Nat) : Batches :=
  if b.openNum % 65536 = n.toNat ∧ 0 < b.openLeft then
    { b with openLeft := b.openLeft - 1, openStatus := max b.openStatus status }
  else
    { b with sealed := b.sealed.map (fun x =>
        if x.num = n.toNat then { x with left := x.left - 1, status := max x.status status } else x) }

/-! ### SLX (R226) -/

/-- The command of a thread: the eight words with A added to the destination and B to the source. -/
def slxCmd (c : Ctx) (mode : Nat) (a b : Option Src) (x : Reg) (t : Nat) : Cmd :=
  let ws := (upto 8).map (fun k => c.reg (x.toNat + k) t)
  let off (y : Option Src) : DWord := match y with | some v => (c.val v t).signExtend 64 | none => 0
  let bs := match tget c.warp.batches t with | some b => b | none => Batches.reset
  { warp := c.w, thread := t, blk := c.warp.blk, asid := c.asid, priv := c.split.priv, seed := c.ctx.seed, mode := mode,
    src := pairOfWords (ws.getD 0 0) (ws.getD 1 0) + off b, dst := pairOfWords (ws.getD 2 0) (ws.getD 3 0) + off a, words := ws,
    batch := BitVec.ofNat 16 bs.openNum,
    kv := if mode = mKvg then descriptor c.block ((ws.getD 7 0).toNat / 65536 % 16) else none, state := .queued, progress := 0, srec := none, drec := none, hdr := [], cin := 0, cout := 0,
    status := 0 }

/-- Whether resumed commands still wait for room in a core's queue, ahead of all that are posted (R364). -/
def State.cmdsDue (s : State) (core : Nat) : Bool :=
  s.blocks.any (fun p => decide (p.2.core = core) && !p.2.savedCmds.isEmpty && s.placed p.1)

def slxOp (f : Fr) (d : Reg) (mode : Nat) (a b : Option Src) (x : Reg) (s : State) : Out :=
  issue f (nameD d (osrc a) (osrc b) (some (x.toNat, 8))) none noEarly (fun c st =>
    if c.act = 0 then .done (finishFlight c f [] .minimum st)
    else
      let cmds := c.doers.map (slxCmd c mode a b x)
      let ok := cmds.filter (cmdOk c.pre c.block c.ctx.world)
      if 64 < (c.pre.core c.core).queueLen + ok.length ∨ (ok ≠ [] ∧ c.pre.cmdsDue c.core = true) then .held
      else
        let st := cmds.foldl (fun s k =>
          s.modBatches c.w k.thread (fun b => if cmdOk c.pre c.block c.ctx.world k then b.join else b.refuse)) st
        let st := st.modCore c.core (fun k => { k with sluice := k.sluice ++ ok })
        let num (t : Nat) : Word :=
          match cmds.find? (fun k => decide (k.thread = t)) with | some k => k.batch.zeroExtend 32 | none => 0
        .done (finishFlight c f (c.outs [(d.toNat, num)]) .access st)) s

/-- SLX_COPY (R228). -/
def execSlxCopy (f : Fr) (d : Reg) (a b : Option Src) (x : Reg) (s : State) : Out := slxOp f d mCopy a b x s
/-- SLX_CVT (R228). -/
def execSlxCvt (f : Fr) (d : Reg) (a b : Option Src) (x : Reg) (s : State) : Out := slxOp f d mCvt a b x s
/-- SLX_RESCALE (R228). -/
def execSlxRescale (f : Fr) (d : Reg) (a b : Option Src) (x : Reg) (s : State) : Out := slxOp f d mRescale a b x s
/-- SLX_TR (R369). -/
def execSlxTr (f : Fr) (d : Reg) (a b : Option Src) (x : Reg) (s : State) : Out := slxOp f d mTr a b x s
/-- SLX_FILL (R228). -/
def execSlxFill (f : Fr) (d : Reg) (a b : Option Src) (x : Reg) (s : State) : Out := slxOp f d mFill a b x s
/-- SLX_KVG (R391). -/
def execSlxKvg (f : Fr) (d : Reg) (a b : Option Src) (x : Reg) (s : State) : Out := slxOp f d mKvg a b x s
/-- SLX_TAGCK (R371). -/
def execSlxTagck (f : Fr) (d : Reg) (a b : Option Src) (x : Reg) (s : State) : Out := slxOp f d mTagck a b x s

/-! ### BSEAL and BWAIT (R231) -/

def Ctx.batches (c : Ctx) (t : Nat) : Batches := tgetD c.warp.batches t Batches.reset

/-- The open batch sealed; with 8 sealed batches the oldest is retired first, its status carried. -/
def Batches.close (b : Batches) : Batches :=
  let b := if 8 ≤ b.sealed.length then
      match b.sealed with
      | x :: r => { b with sealed := r, carried := max b.carried x.status }
      | [] => b
    else b
  { b with sealed := b.sealed ++ [⟨b.openNum % 65536, b.openLeft, b.openStatus⟩], openNum := b.openNum + 1, openLeft := 0, openStatus := 0 }

/-- Whether BSEAL has to wait for the thread's oldest batch. -/
def Batches.crowded (b : Batches) : Bool :=
  decide (8 ≤ b.sealed.length) && (match b.sealed with | x :: _ => decide (x.left ≠ 0) | [] => false)

/-- BSEAL (R231). -/
def execBseal (f : Fr) (d : Reg) (s : State) : Out :=
  issue f (nameD d none none none) none noEarly (fun c st =>
    if c.act = 0 then .done (finishFlight c f [] .minimum st)
    else if c.doers.any (fun t => (c.batches t).crowded) then .held
    else
      let st := c.doers.foldl (fun s t => s.modBatches c.w t Batches.close) st
      .done (finishFlight c f (c.outs [(d.toNat, fun t => BitVec.ofNat 32 ((c.batches t).openNum % 65536))]) .access st)) s

/-- Whether number `n` has been sealed; the batches that a BWAIT of it waits for. (DEDUCED, log 73.) -/
def Batches.isSealed (b : Batches) (n : Nat) : Bool :=
  let d := (b.openNum + 65536 - n) % 65536
  decide (1 ≤ d) && decide (d ≤ b.openNum)
def Batches.upTo (b : Batches) (n : Nat) : List Batch := b.sealed.filter (fun x => decide ((n + 65536 - x.num) % 65536 < 8))

/-- What a BWAIT of `n` gives, and the batches after it. -/
def Batches.wait (b : Batches) (n : Nat) : Nat × Batches :=
  if b.isSealed n then
    let l := b.upTo n
    (l.foldl (fun m x => max m x.status) b.carried, { b with sealed := b.sealed.filter (fun x => !l.contains x), carried := 0 })
  else (max 1 b.carried, { b with carried := 0 })

/-- BWAIT (R231). -/
def execBwait (f : Fr) (d a : Reg) (s : State) : Out :=
  issue f (nameD d (reg1 a) none none) none noEarly (fun c st =>
    if c.act = 0 then .done (finishFlight c f [] .minimum st)
    else
      let n (t : Nat) : Nat := (c.reg a.toNat t).toNat % 65536
      let busy (t : Nat) : Bool := (c.batches t).isSealed (n t) && ((c.batches t).upTo (n t)).any (fun x => decide (x.left ≠ 0))
      if c.doers.any busy then .waits false .none c.pre
      else
        let st := c.doers.foldl (fun s t => s.modBatches c.w t (fun b => (b.wait (n t)).2)) st
        .done (finishFlight c f (c.outs [(d.toNat, fun t => BitVec.ofNat 32 ((c.batches t).wait (n t)).1)]) .access st)) s

/-! ### Flumes (R233, R234, R367) -/

def Flume.fill (f : Flume) : Nat := (f.p - f.q).toNat
def Flume.room (f : Flume) : Nat := f.depth - f.fill
/-- The core-window offset of the slot of a count. -/
def Flume.slotOf (f : Flume) (k : Word) : Nat := f.base + k.toNat % f.depth * f.size
def State.modFlume (s : State) (b n : Nat) (g : Flume → Flume) : State := s.modBlock b (fun x => { x with flumes := setAt x.flumes n g })

/-- A flume instruction: an undeclared flume is illegal at issue; a count beyond the depth raises 0x08. -/
def flumeOp (f : Fr) (d a : Reg) (n : BitVec 4) (body : Ctx → Flume → Nat → State → (Word → State → Body) → Body) (s : State) : Out :=
  let early (c : Ctx) : Option Nat := if n.toNat < c.block.flumes.length then none else some 0x01
  issue f (nameD d (reg1 a) none none) none early (fun c st =>
    if c.act = 0 then .done (finishFlight c f [] .minimum st)
    else
      match c.block.flumes[n.toNat]? with
      | none => .trap 0x01 c.act [] none
      | some x =>
        let k := (c.reg a.toNat (lowest c.act)).toNat
        if x.depth < k then .trap 0x08 c.act [] none
        else body c x k st (fun v s => .done (finishFlight c f (c.outs [(d.toNat, fun _ => v)]) .access s))) s

/-- FLPUT (R234). -/
def execFlput (f : Fr) (d a : Reg) (n : BitVec 4) (s : State) : Out :=
  flumeOp f d a n (fun c x k st give =>
    if x.depth < x.fill + k then .trap 0x08 c.act [] none
    else
      let p := x.p + BitVec.ofNat 32 k
      give p ((releaseAt c 1 st).modFlume c.warp.blk n.toNat (fun x => { x with p := p }))) s

/-- FLGET (R234). -/
def execFlget (f : Fr) (d a : Reg) (n : BitVec 4) (s : State) : Out :=
  flumeOp f d a n (fun c x k st give =>
    if x.fill < k then .trap 0x08 c.act [] none
    else
      let q := x.q + BitVec.ofNat 32 k
      give q ((releaseAt c 1 st).modFlume c.warp.blk n.toNat (fun x => { x with q := q }))) s

/-- FLWAIT_DATA (R367). -/
def execFlwaitData (f : Fr) (d a : Reg) (n : BitVec 4) (s : State) : Out :=
  flumeOp f d a n (fun c x k st give =>
    if x.rin + k ≤ x.fill then give (BitVec.ofNat 32 (x.slotOf (x.q + BitVec.ofNat 32 x.rin))) (acquireAt c 1 st)
    else .waits false .none c.pre) s

/-- FLWAIT_ROOM (R367). -/
def execFlwaitRoom (f : Fr) (d a : Reg) (n : BitVec 4) (s : State) : Out :=
  flumeOp f d a n (fun c x k st give =>
    if x.rout + k ≤ x.room then give (BitVec.ofNat 32 (x.slotOf (x.p + BitVec.ofNat 32 x.rout))) st
    else .waits false .none c.pre) s

/-- FLUME_WAIT_SATISFIED. -/
def execFlumeWaitSatisfied (w ent : Nat) (s : State) : Out :=
  retry w ent (fun i => match i with
    | .flwaitData f d a n => some (execFlwaitData f d a n)
    | .flwaitRoom f d a n => some (execFlwaitRoom f d a n)
    | _ => none) s

/-! ### Weir slots and ENGSYNC (R235, R236) -/

def execWeirsetSet (f : Fr) (a : Reg) (w : BitVec 5) (s : State) : Out :=
  issue f (nameS (reg1 a) none none) none noEarly (fun c st =>
    if c.act = 0 then .done (finishFlight c f [] .minimum st)
    else
      let v := (c.reg a.toNat (lowest c.act)).getLsbD 0
      .done (finishFlight c f [] .minimum (st.modCore c.core (fun k => k.setWeir w.toNat v c.gang.launch c.warp.blk)))) s

/-- WEIRSET_CLR (R235). -/
def execWeirsetClr (f : Fr) (w : BitVec 5) (s : State) : Out :=
  issue f (nameS none none none) none noEarly (fun c st =>
    if c.act = 0 then .done (finishFlight c f [] .minimum st)
    else .done (finishFlight c f [] .minimum (st.modCore c.core (fun k => k.freeWeir w.toNat)))) s

/-- Whether a warp has commands that have not completed, on any core. -/
def State.hasCmds (s : State) (w : Nat) : Bool :=
  s.cores.any (fun p => p.2.sluice.any (fun x => decide (x.warp = w))) || s.blocks.any (fun p => p.2.savedCmds.any (fun x => decide (x.warp = w)))

def engsyncOp (f : Fr) (early : Ctx → Option Nat) (fin : Ctx → State → State) (s : State) : Out :=
  issue f (nameS none none none) none early (fun c st =>
    if c.act = 0 then .done (finishFlight c f [] .minimum st)
    else if c.pre.hasCmds c.w then .waits false .none c.pre
    else .done (finishFlight c f [] .minimum (fin c st))) s

/-- ENGSYNC_CMP (R236). -/
def execEngsyncCmp (f : Fr) (s : State) : Out := engsyncOp f noEarly (fun _ s => s) s
/-- ENGSYNC_PUB (R236). -/
def execEngsyncPub (f : Fr) (scope : Scope) (s : State) : Out := engsyncOp f (levelEarly scope) (fun c s => releaseAt c (c.scope scope) s) s

end Sys2Proof.Machine
end

