-- ==== Sys2Proof/Machine/Engine.lean ====
section
/-! DEFINITION. The sluice engine's own steps: the start of a command, its discard at a weir slot, and its granules (R228 to R230,
R352, R360 to R375, R391, R542, R543). -/
namespace Sys2Proof.Machine
open Sys2Proof

/-! ### The ends of a started command -/

/-- The extent of a record's box in a dimension, 1 where the record has no such dimension. -/
def Shape.boxDim (h : Shape) (k : Nat) : Nat := max 1 (Shape.dim h.box k)

/-- A tile origin, which counts boxes (R227). -/
def tileOrg (h : Shape) (v : Nat) : List Nat := [v % 65536 * h.boxDim 0, v / 65536 * h.boxDim 1]

def recEnd (h : Shape) (v : Nat) : End := { h := h, org := tileOrg h v, flume := none }

/-- The elements that a command covers: those of the source box, of the destination box, or of CNT. -/
def Cmd.elems (c : Cmd) : Nat :=
  match c.srec, c.drec with
  | some h, _ => (recEnd h c.cnt).count
  | none, some h => (recEnd h c.aux).count
  | none, none => c.bitsAt c.selem / storeBits c.selem

/-- Bits that the command covers at its output flume (R365): with a source record, those of its box. -/
def Cmd.outBits (c : Cmd) : Nat := if c.srcRec then c.elems * storeBits c.delem else c.bitsAt c.delem

/-- A flume's part in an end. -/
def flumeMap (b : Block) (on : Bool) (n : Nat) (count : Word) : Option (Nat × Nat × Nat × Nat) :=
  if on then (b.flumes[n]?).map (fun f => (f.base, f.size, f.depth, count.toNat)) else none

def Cmd.source (c : Cmd) (b : Block) : End :=
  match c.srec with
  | some h => recEnd h c.cnt
  | none => { runEnd c.src.toNat c.sfmt c.sgroup c.elems with flume := flumeMap b c.fie c.fin c.cin }

def Cmd.target (c : Cmd) (b : Block) : End :=
  match c.drec with
  | some h => recEnd h c.aux
  | none => { runEnd c.dst.toNat c.dfmt c.grp c.elems with flume := flumeMap b c.foe c.fout c.cout }

/-- The elements that a command takes from its input flume and gives to its output flume. -/
def Cmd.kin (c : Cmd) (b : Block) : Nat := if c.fie then c.bitsAt c.selem / 8 / ((b.flumes[c.fin]?).map (·.size)).getD 1 else 0
def Cmd.kout (c : Cmd) (b : Block) : Nat := if c.foe then c.outBits / 8 / ((b.flumes[c.fout]?).map (·.size)).getD 1 else 0

/-! ### The start -/

/-- The tests that need the records (R352, R357, R369, R370, R542, R543): a command that fails one is refused.
(DEDUCED, log 32.) -/
def Cmd.startOk (c : Cmd) (b : Block) : Bool :=
  let conv := decide (c.mode = mCvt ∨ c.mode = mRescale)
  let boxOk (h : Shape) (v : Nat) : Bool :=
    !inLane h.base && (!h.scaled ||
      (decide (h.boxDim h.bax % h.group = 0) && decide ((tileOrg h v).getD h.bax 0 % h.group = 0)))
  let unit := if c.dfmt = 12 ∨ c.dfmt = 13 then 512 else codeGrp c.grp
  (match c.srec with
   | none => true
   | some h => decide (h.fmt = c.sfmt) && (!(decide (c.mode = mCopy ∨ c.mode = mRescale)) || decide (h.grp = c.grp)) && boxOk h c.cnt) &&
  (match c.drec with
   | none => true
   | some h => decide (h.fmt = c.dfmt) && decide (h.grp = c.grp) && boxOk h c.aux) &&
  (match c.srec, c.drec with
   | some x, some y =>
     if c.mode = mTr then
       [2, 3, 4].all (fun k => decide (Shape.dim x.box k = 1) && decide (Shape.dim y.box k = 1)) &&
       decide (y.boxDim 0 = x.boxDim 1) && decide (y.boxDim 1 = x.boxDim 0)
     else (upto 5).all (fun k => decide (x.boxDim k = y.boxDim k))
   | none, some _ => decide (c.bitsAt c.delem = c.elems * storeBits c.delem)
   | some _, none => !conv || !c.dscaled || decide (c.elems % unit = 0)
   | none, none => true) &&
  (decide (c.mode ≠ mCopy) || !c.sscaled || decide ((c.srec.map (·.bax)).getD 0 = (c.drec.map (·.bax)).getD 0)) &&
  (!(c.foe && c.srcRec) || flumeOk b c.fout c.outBits)

/-- The record of an end, where the command has one there. -/
def takeEnd (s : State) (e : Eng) (on : Bool) (addr : DWord) : Except RecErr (State × Option Shape) :=
  if on then
    match takeRecord s e addr with
    | .error k => .error k
    | .ok (s, h) => .ok (s, some h)
  else .ok (s, none)

/-- The copy of the cache header of a .kvg (R381): none where it breaks R380; empty where it cannot be read. -/
def takeHdr (s : State) (e : Eng) (c : Cmd) : Option (State × List Byte) :=
  match c.kv with
  | none => some (s, [])
  | some (addr, _) =>
    match cachedRecord s e addr 64 with
    | .error _ => some (s, [])
    | .ok (s, bs) => if (parseHdr bs).valid then some (s, bs) else none

/-- A command with its copies, or why it has none. -/
inductive Take where
  | ok (s : State) (c : Cmd)
  | refused
  | fault (cause va raddr : Nat)

def takeFault (k : EngErr) (raddr : DWord) : Take :=
  match k with
  | .stop va => .fault 0x09 va raddr.toNat
  | .fault cause va => .fault cause va raddr.toNat

/-- The copies that a command takes at its start (R356, R361). -/
def Cmd.take (s : State) (e : Eng) (b : Block) (c : Cmd) : Take :=
  match takeEnd s e c.srcRec c.src with
  | .error .invalid => .refused
  | .error (.fetch k) => takeFault k c.src
  | .ok (s, x) =>
    match takeEnd s e c.dstRec c.dst with
    | .error .invalid => .refused
    | .error (.fetch k) => takeFault k c.dst
    | .ok (s, y) =>
      match takeHdr s e c with
      | none => .refused
      | some (s, bs) =>
        let c := { c with srec := x, drec := y, hdr := bs }
        if c.startOk b then .ok s c else .refused

/-- The command that stands at the head of a core's queue, with its place in the engine's list. -/
def headCmd (l : List Cmd) : Option (Nat × Cmd) :=
  (l.zipIdx.find? (fun p => decide (p.1.state ≠ .started))).map (fun p => (p.2, p.1))

/-- The change of a core's engine list. -/
def State.modSluice (s : State) (core : Nat) (f : List Cmd → List Cmd) : State :=
  s.modCore core (fun k => { k with sluice := f k.sluice })

/-- Whether a block's gang runs, so that its commands do (R358, R363). -/
def State.blockRuns (s : State) (blk : Nat) : Bool :=
  match tget s.blocks blk with
  | none => false
  | some b =>
    match tget s.gangs b.gang with
    | none => false
    | some g => decide (g.state = .running)

/-- A command leaves the engine and completes in its batch (R361). -/
def retireCmd (s : State) (core i : Nat) (c : Cmd) (status : Nat) : State :=
  (s.modSluice core (fun l => dropAt l i)).modBatches c.warp c.thread (fun x => x.complete c.batch status)

/-- An operand-fetch fault of a command (R229), which names the warp that posted it. -/
def cmdFault (s : State) (core : Nat) (c : Cmd) (gang cause va raddr : Nat) : State :=
  raiseFetch s c.warp 0 core gang cause va raddr (s.pcOf c.warp c.thread)

/-- The room test of a flume end (R367). -/
def flumeFits (b : Block) (on : Bool) (n : Nat) (g : Flume → Bool) : Bool := !on || (match b.flumes[n]? with | some f => g f | none => false)

/-- Whether the head command meets its flume conditions (R367): what it covers of an output flume may follow from its source's record. -/
def Cmd.flumesFit (c : Cmd) (b : Block) : Bool :=
  flumeFits b c.fie c.fin (fun f => decide (f.rin + c.kin b ≤ f.fill)) &&
  ((c.srcRec && c.srec.isNone) || flumeFits b c.foe c.fout (fun f => decide (f.rout + c.kout b ≤ f.room)))

/-- A command with the counts reserved for it (R366), and for a .kvg whose header cannot be read an entry size, which is free
(R381, DESIGN CHOICE, log 86). -/
def Cmd.reserve (c : Cmd) (s : State) (b : Block) : Cmd :=
  let cin : Word := match b.flumes[c.fin]? with | some f => f.q + BitVec.ofNat 32 f.rin | none => 0
  let cout : Word := match b.flumes[c.fout]? with | some f => f.p + BitVec.ofNat 32 f.rout | none => 0
  { c with state := .started, cout := cout,
           cin := if c.mode = mKvg then BitVec.ofNat 32 (16 * (2 + Config.freePick s.free 60 % 255)) else cin }

/-- Whether each scaled flume end of a conversion starts on a line (R370). -/
def Cmd.aligned (c : Cmd) (b : Block) : Bool :=
  decide (c.mode ≠ mCvt ∧ c.mode ≠ mRescale) ||
  ((!(c.fie && c.sscaled) || decide ((c.source b).addr 0 % 128 = 0)) && (!(c.foe && c.dscaled) || decide ((c.target b).addr 0 % 128 = 0)))

/-- The pages of an end with a record. -/
def End.pages (x : End) : List Nat :=
  (((upto x.count).filter (fun k => x.h.inside (x.index k))).flatMap (fun k => (x.h.spots (x.index k)).map (fun p =>
    x.addr p.off / 65536 * 65536))).eraseDups

/-- The entry size of a .kvg. -/
def Cmd.esz (c : Cmd) : Nat := if c.hdr = [] then c.cin.toNat else (parseHdr c.hdr).esz

/-- The pages of a command's records and header (R354). -/
def Cmd.recPages (c : Cmd) : List Nat :=
  (if c.srcRec then [c.src.toNat] else []) ++ (if c.dstRec then [c.dst.toNat] else []) ++ (match c.kv with | some (a, _) => [a] | none => [])

/-- The pages that a command reads from and writes to through its ends (R354, R355). -/
def Cmd.srcPages (c : Cmd) (b : Block) : List Nat :=
  if c.mode = mTagck then pagesOf c.src.toNat (65552 * c.cnt)
  else if c.mode = mKvg then []
  else if c.srcRec then (c.source b).pages
  else if c.fie ∨ c.mode = mFill then [] else pagesOf c.src.toNat ((c.bitsAt c.selem + 7) / 8)
def Cmd.dstPages (c : Cmd) (b : Block) : List Nat :=
  if c.mode = mTagck then pagesOf c.dst.toNat (65536 * c.cnt)
  else if c.mode = mKvg then pagesOf c.dst.toNat ((c.kvn + 1) * (c.esz - 16))
  else if c.dstRec then (c.target b).pages
  else if c.foe then [] else pagesOf c.dst.toNat ((c.outBits + 7) / 8)
def Cmd.pages (c : Cmd) (b : Block) : List Nat := c.recPages ++ c.srcPages b ++ c.dstPages b

/-- The walkers go ahead of a command (R355): the failures held for it. -/
def Cmd.ahead (c : Cmd) (e : Eng) (b : Block) (s : State) : State × List Held :=
  let (s, x) := lookAhead e false (c.srcPages b) s
  let (s, y) := lookAhead e true (c.dstPages b) s
  (s, c.held ++ x ++ y)

/-- The start of the head command of a core's engine (R360, R361, R366, R367): its records are read when its weir slot and its flumes let it
start. A suspended one goes on where it stood (R364). The entry that it leaves goes to a resumed command that waits for one. -/
def execSluiceCommandStart (core : Nat) (s : State) : Out :=
  let k := s.core core
  if k.stopped || decide (4 ≤ (k.sluice.filter (fun c => decide (c.state = .started))).length) then .refused .notEnabled
  else
    match headCmd k.sluice with
    | none => .refused .notEnabled
    | some (i, c) =>
      if !s.blockRuns c.blk then .refused .notEnabled
      else if c.state = .suspended then .next (refill (s.modSluice core (fun l => setAt l i (fun c => { c with state := .started }))) core)
      else if c.we ∧ tget k.weirs c.wsl ≠ some true then .refused .notEnabled
      else
        match tget s.blocks c.blk, engOf s c.blk c.priv core true with
        | some b, some e =>
          let free (s : State) : State := if c.we then s.modCore core (fun k => k.freeWeir c.wsl) else s
          if !c.flumesFit b then .refused .notEnabled
          else
            match c.take s e b with
            | .refused => .next (refill (retireCmd (free s) core i c 2) core).bump
            | .fault cause va raddr => .next (cmdFault s core c b.gang cause va raddr).bump
            | .ok s c =>
              if !c.flumesFit b then .refused .notEnabled
              else
                let c := c.reserve s b
                if !c.aligned b then .next (refill (retireCmd (free s) core i c 2) core).bump
                else
                  let (s, held) := c.ahead e b (noteAll (free s) e (c.recPages))
                  let c := { c with held := held }
                  let s := if c.fie then s.modFlume c.blk c.fin (fun f => { f with rin := f.rin + c.kin b }) else s
                  let s := if c.foe then s.modFlume c.blk c.fout (fun f => { f with rout := f.rout + c.kout b }) else s
                  .next (refill (s.modSluice core (fun l => setAt l i (fun _ => c))) core).bump
        | _, _ => .fault .dangling

/-- The head command whose slot is FALSE is discarded (R235, R368). -/
def execWeirDiscard (core : Nat) (s : State) : Out :=
  let k := s.core core
  match headCmd k.sluice with
  | none => .refused .notEnabled
  | some (i, c) =>
    if !k.stopped && s.blockRuns c.blk && decide (c.state = .queued) && c.we && decide (tget k.weirs c.wsl = some false) then
      .next (refill ((retireCmd s core i c 0).modCore core (fun k => k.freeWeir c.wsl)) core)
    else .refused .notEnabled

/-! ### Granules (R362) -/

/-- Runs of an end's bytes that lie in one 128-byte line and one slot of a flume: offset and length. -/
def End.pieces (x : End) : Nat → Nat → Nat → List (Nat × Nat)
  | 0, _, _ => []
  | fuel + 1, off, n =>
    if n = 0 then []
    else
      let k := min n (128 - x.addr off % 128)
      let k := match x.flume with | some (_, size, _, _) => min k (size - off % size) | none => k
      (off, k) :: x.pieces fuel (off + k) (n - k)

/-- Bytes of an end. -/
def endRead (s : State) (e : Eng) (x : End) (scaled : Bool) (off n : Nat) : EngM (List Byte) :=
  match engMap (fun p => engRead s e scaled (x.addr p.1) p.2) (x.pieces (n + 1) off n) with
  | .error k => .error k
  | .ok l => .ok l.flatten

/-- The line of an offset. -/
def End.lineKey (x : End) (off : Nat) : Nat := x.addr off / 128

/-- The lines of offsets, in destination order (R362). -/
def End.linesOf (x : End) (offs : List Nat) : List Nat := ((sortBy id offs).map x.lineKey).eraseDups

/-- The elements of a destination within bounds, by number in box order. -/
def End.within (x : End) : List Nat := (upto x.count).filter (fun k => x.h.inside (x.index k))

/-- The first elements of the blocks of a scaled destination, in destination order: a block is one index, also where another block lies at
the same place (R350, R543). -/
def End.heads (x : End) : List Nat :=
  sortBy (fun k => (x.h.blockAt (x.index k)).1) (x.within.filter (fun k => decide (Shape.dim (x.index k) x.h.bax % x.h.group = 0)))

/-- The elements of the block that begins with element `k`. -/
def End.blockElems (x : End) (k : Nat) : List Nat := (upto x.h.group).map (fun m => k + m * (if x.h.bax = 1 then x.h.boxDim 0 else 1))

/-- Where an element's first bits lie: an element that lies in two lines is written with the granule of this one. (DESIGN CHOICE, log 109.) -/
def End.firstOff (x : End) (k : Nat) : Nat :=
  match x.h.spots (x.index k) with
  | p :: _ => p.off
  | [] => 0

/-- The granules of a conversion, as elements: blocks, or lines of an unscaled destination. -/
def cvtGranules (y : End) : List (List Nat) :=
  if y.h.scaled then y.heads.map y.blockElems
  else (y.linesOf (y.within.map y.firstOff)).map (fun key => y.within.filter (fun k => decide (y.lineKey (y.firstOff k) = key)))

/-- The granules of a copy with a record: the lines in which an element's bits lie. -/
def copyKeys (y : End) : List Nat := y.linesOf (y.within.flatMap (fun k => (y.h.spots (y.index k)).map (·.off)))

/-- The granules of a run: the runs of its bytes that lie in one line (R362). -/
def End.runs (x : End) (n : Nat) : List (List (Nat × Nat)) :=
  let ps := x.pieces (n + 1) 0 n
  ((ps.map (fun p => x.lineKey p.1)).eraseDups).map (fun k => ps.filter (fun p => decide (x.lineKey p.1 = k)))

/-- The destination rows of a transpose: the indices of its box on the non-block axis. -/
def trRows (h : Shape) : Nat := h.boxDim (1 - h.bax)

/-- How many granules a command has. -/
def Cmd.granules (c : Cmd) (b : Block) : Nat :=
  let y := c.target b
  if c.mode = mTagck then c.cnt
  else if c.mode = mKvg then c.kvn + 1
  else if c.mode = mTr then trRows y.h
  else if c.mode = mCvt ∨ c.mode = mRescale then (cvtGranules y).length
  else if c.srcRec ∨ c.dstRec then (copyKeys y).length
  else (y.runs c.cnt).length

/-- What a granule comes to: worked out, with what it writes, its events and the status that it records; a wait; a stop with its status; an
operand-fetch fault. -/
inductive Granule where
  | ok (s : State) (l : List Put) (ev : Health) (status : Nat)
  | waits
  | stop (s : State) (status : Nat)
  | fault (cause va raddr : Nat)

def granErr (s : State) (raddr : DWord) (on : Bool) (k : EngErr) : Granule :=
  match k with
  | .stop _ => .stop s 2
  | .fault cause va => .fault cause va (if on then raddr.toNat else 0)

/-- The line number of a run's offset, counted from the line of its first byte: every third line of MXFP6 holds crumbs (R24). -/
def End.runLine (x : End) (off : Nat) : Nat :=
  match x.flume with
  | some _ => off / 128
  | none => (x.h.base % 128 + off) / 128

/-- Bytes of a block in a line of a run. -/
def runBlock (el : Elem) (g : Grp) : Nat := if isMx6 el then 16 else groupLen el g * storeBits el / 8

/-- The offsets at which blocks start in a run of bytes. -/
def blockStarts (sz : Nat) (p : Nat × Nat) : List Nat :=
  ((upto (p.2 / sz + 1)).map (fun i => (p.1 + sz - 1) / sz * sz + sz * i)).filter (fun o => decide (o < p.1 + p.2))

/-- The side slot of a written line gets the format's descriptor and the given scale words (R28, R228). -/
def runSlot (c : Cmd) (y : End) (ps : List (Nat × Nat)) (ws : List (Nat × Nat)) : List Put :=
  let el := c.delem
  let g := grpOfCode c.grp
  match ps with
  | [] => []
  | (off, _) :: _ =>
    [slotPut (y.addr off) (if isMx6 el && decide (y.runLine off % 3 = 2) then describeCrumb el
      else fun w => describe el g (ws.foldl (fun w p => slotSetScale w p.1 p.2) w))]

/-- The side slot of a line that moves from one page to another, where both are scaled (R27, R322). -/
def moveSlot (s : State) (e : Eng) (src dst : Nat) : EngM (List Put) :=
  match engSlot s e src, engAcc s e .write true dst 1 with
  | .error (.stop _), _ => .ok []
  | _, .error (.stop _) => .ok []
  | .error k, _ => .error k
  | _, .error k => .error k
  | .ok v, .ok _ => .ok [.slot dst (BitVec.allOnes 256) v]

/-- The side slots of the whole lines of a span that moves line by line. (DEDUCED, log 87.) -/
def moveSlots (s : State) (e : Eng) (src dst n : Nat) : EngM (List Put) :=
  match engMap (fun o => moveSlot s e (src + o) (dst + o)) (wholeLines src dst n) with
  | .error k => .error k
  | .ok l => .ok l.flatten

/-- The bytes of a span, line by line. -/
def spanPuts : Nat → Nat → List Byte → List Put
  | 0, _, _ => []
  | fuel + 1, va, bs =>
    if bs = [] then []
    else
      let k := 128 - va % 128
      bytesPut va (bs.take k) :: spanPuts fuel (va + k) (bs.drop k)

/-- One granule of a .copy of a run (R228): each block's scale word goes with it; of unscaled ends, the side slots of whole lines go (R27,
R322). (DEDUCED, log 87.) -/
def copyRun (c : Cmd) (e : Eng) (x y : End) (ps : List (Nat × Nat)) (s : State) : Granule :=
  let sz := runBlock c.delem (grpOfCode c.grp)
  let crumb (p : Nat × Nat) : Bool := isMx6 c.delem && decide (y.runLine p.1 % 3 = 2)
  let starts := if c.sscaled then (ps.filter (fun p => !crumb p)).flatMap (blockStarts sz) else []
  let scale (o : Nat) : EngM (Nat × Nat) :=
    match engSlot s e (x.addr o) with
    | .error k => .error k
    | .ok v => .ok (y.addr o % 128 / sz, (slotScale v (x.addr o % 128 / sz)).toNat)
  let slots (ws : List (Nat × Nat)) : EngM (List Put) :=
    if c.dscaled then .ok (runSlot c y ps ws)
    else if c.sscaled then .ok []
    else match engMap (fun (p : Nat × Nat) => moveSlots s e (x.addr p.1) (y.addr p.1) p.2) ps with
      | .error k => .error k
      | .ok l => .ok l.flatten
  match engMap (fun (p : Nat × Nat) => endRead s e x c.sscaled p.1 p.2) ps, engMap scale starts with
  | .error k, _ => granErr s 0 false k
  | _, .error k => granErr s 0 false k
  | .ok bss, .ok ws =>
    match slots ws with
    | .error k => granErr s 0 false k
    | .ok l => .ok s ((ps.zip bss).map (fun p => bytesPut (y.addr p.1.1) p.2) ++ l) Health.none 0

/-- One granule of a .fill (R228): the pattern's bytes, and on a scaled destination scale word 0 for every block that it meets. -/
def fillRun (c : Cmd) (y : End) (ps : List (Nat × Nat)) (s : State) : Granule :=
  let sz := runBlock c.delem (grpOfCode c.grp)
  let bytes (p : Nat × Nat) : List Byte := (upto p.2).map (fun i => BitVec.ofNat 8 (c.src.toNat / 256 ^ ((p.1 + i) % 4)))
  let met (p : Nat × Nat) : List (Nat × Nat) :=
    let a := y.addr p.1 % 128
    ((upto (lineScales c.delem (grpOfCode c.grp))).filter (fun j => decide (a / sz ≤ j) && decide (j ≤ (a + p.2 - 1) / sz))).map (fun j => (j, 0))
  .ok s (ps.map (fun p => bytesPut (y.addr p.1) (bytes p)) ++ (if c.dscaled then runSlot c y ps (ps.flatMap met) else [])) Health.none 0

/-- One spot of an element of a .copy with a record: which element, which of its spots. -/
structure Bit where
  k : Nat
  p : Nat
  spot : Spot
  deriving DecidableEq, Repr

/-- The spots of a destination in one of its lines. -/
def lineBits (y : End) (key : Nat) : List Bit :=
  y.within.flatMap (fun k => ((y.h.spots (y.index k)).zipIdx.filter (fun p => decide (y.lineKey p.1.off = key))).map (fun p => ⟨k, p.2, p.1⟩))

/-- An element's bits at one of its spots: the nibble and the crumb of MXFP6, otherwise the whole code. -/
def codePart (h : Shape) (p code : Nat) : Nat := if isMx6 h.elem then (if p = 0 then code % 16 else code / 16) else code

/-- One granule of a .copy with a record (R228). -/
def copyRec (c : Cmd) (e : Eng) (x y : End) (key : Nat) (s : State) : Granule :=
  let bits := lineBits y key
  let firsts := if y.h.scaled then bits.filter (fun b => decide (b.p = 0) && decide (Shape.dim (y.index b.k) y.h.bax % y.h.group = 0)) else []
  match engMap (fun (b : Bit) => readCode s e x (x.index b.k)) bits, engMap (fun (b : Bit) => readScaleOf s e x (x.index b.k)) firsts with
  | .error k, _ => granErr s c.src c.srcRec k
  | _, .error k => granErr s c.src c.srcRec k
  | .ok cs, .ok ss =>
    .ok s ((bits.zip cs).flatMap (fun p => spotPuts y [p.1.spot] (codePart y.h p.1.p p.2)) ++
      (firsts.zip ss).flatMap (fun p => scalePuts y p.1.k p.2)) Health.none 0

/-- Destination elements quantised as blocks, or one by one for an unscaled format: the SR index is the element's number (R375). -/
def quantElems (c : Cmd) (y : End) (ks : List Nat) (vs : List Inp) : QBlock :=
  let ms := ks.map (fun k => modeOf c.rnd c.seed k c.strm)
  if y.h.scaled then quantBlock y.h.elem c.ocp ms vs else convAll y.h.elem ms vs

/-- The codes of a block or line, with the block's scale. -/
def elemPuts (y : End) (ks : List Nat) (q : QBlock) : List Put :=
  (ks.zip q.codes).flatMap (fun p => codePuts y p.1 p.2) ++ (if y.h.scaled then (ks.take 1).flatMap (fun k => scalePuts y k q.s20) else [])

/-- One granule of a .cvt or .rescale (R370, R543): the elements of a block or line; its events are counted (R44). -/
def cvtGranule (c : Cmd) (e : Eng) (x y : End) (ks : List Nat) (s : State) : Granule :=
  match engMap (fun k => readInp s e x (x.index k)) ks with
  | .error k => granErr s c.src c.srcRec k
  | .ok vs =>
    let q := quantElems c y ks vs
    .ok s (elemPuts y ks q) q.ev 0

/-- A value beyond the largest finite FP32 as the infinity of its sign (R369). -/
def clampF32 (x : Inp) : Inp :=
  match x.val with
  | .fin sg n e d => if (f32.decode f32.maxCode).lt (Num.fin false n e d) then { x with val := .inf sg } else x
  | _ => x

/-- One granule of a .tr: the destination blocks of one index on the non-block axis (R369). -/
def trGranule (c : Cmd) (e : Eng) (x y : End) (row : Nat) (s : State) : Granule :=
  let b0 := y.h.boxDim 0
  let mine (k : Nat) : Bool := decide ((if y.h.bax = 0 then k / b0 else k % b0) = row)
  let groups := if y.h.scaled then (y.heads.filter mine).map y.blockElems else [y.within.filter mine]
  let srcOf (k : Nat) : Nat := k / b0 + k % b0 * x.h.boxDim 0
  match engMap (fun g => engMap (fun k => readInp s e x (x.index (srcOf k))) g) groups with
  | .error k => granErr s c.src c.srcRec k
  | .ok vss =>
    let qs := (groups.zip vss).map (fun p => (p.1, quantElems c y p.1 (p.2.map clampF32)))
    .ok s (qs.flatMap (fun p => elemPuts y p.1 p.2)) (Health.sum (qs.map (fun p => p.2.ev))) 0

/-- One position of a .kvg (R391): with a header that cannot be read every position has status 3 (R381). -/
def kvgGranule (c : Cmd) (e : Eng) (core i : Nat) (s : State) : Granule :=
  let h := parseHdr c.hdr
  let pol := match c.kv with | some (_, p) => p | none => false
  let n := c.esz - 16
  let va := c.dst.toNat + i * n
  let zero (s : State) : Granule := .ok s (spanPuts (spanLines va n) va (List.replicate n 0)) Health.none 4
  if c.hdr = [] then zero s
  else
    let (s1, a, st) := kvResolve s (e.agent s) core h pol (c.cnt % 2 ^ 20) (c.cnt / 2 ^ 20) (c.aux + i)
    if st = 2 then .waits
    else if 3 ≤ st then zero s1
    else
      match kvRead s1 (e.agent s1) core a n with
      | .error _ => zero s1
      | .ok (s1, bs) =>
        match moveSlots s1 e a va n with
        | .error _ => zero s1
        | .ok l => .ok s1 (spanPuts (spanLines va n) va bs ++ l) Health.none 0

/-- One chunk of a .tagck (R371): its lines move with their side slots. -/
def tagckGranule (c : Cmd) (e : Eng) (i : Nat) (s : State) : Granule :=
  let src := c.src.toNat + 65536 * i
  let dst := c.dst.toNat + 65536 * i
  match engSpan s e 513 src 65536, engSpan s e 2 (c.src.toNat + 65536 * c.cnt + 16 * i) 16 with
  | .error k, _ => granErr s 0 false k
  | _, .error k => granErr s 0 false k
  | .ok bs, .ok tag =>
    let key := match tget s.keys (c.aux % 256) with | some k => k.key | none => 0
    if chunkTag key bs i = tag then
      match moveSlots s e src dst 65536 with
      | .error k => granErr s 0 false k
      | .ok l => .ok s (spanPuts 513 dst bs ++ l) Health.none 0
    else .stop (postEvent s 1 c.asid (toBytes 4 e.blkCore ++ toBytes 4 i ++ toBytes 4 (c.aux % 256) ++ toBytes 8 c.dst.toNat)) 3

/-- What the next granule of a command comes to, before anything of it is written. -/
def workGranule (c : Cmd) (e : Eng) (b : Block) (core : Nat) (s : State) : Granule :=
  let x := c.source b
  let y := c.target b
  let i := c.progress
  if c.mode = mTagck then tagckGranule c e i s
  else if c.mode = mKvg then kvgGranule c e core i s
  else if c.mode = mTr then trGranule c e x y i s
  else if c.mode = mCvt ∨ c.mode = mRescale then cvtGranule c e x y ((cvtGranules y).getD i []) s
  else if c.srcRec ∨ c.dstRec then copyRec c e x y ((copyKeys y).getD i 0) s
  else
    let ps := (y.runs c.cnt).getD i []
    if c.mode = mFill then fillRun c y ps s else copyRun c e x y ps s

/-- Whether the bytes that a command writes lie on pages with scales (R361). -/
def Cmd.putScaled (c : Cmd) : Bool := c.dscaled && decide (c.mode ≠ mTagck) && decide (c.mode ≠ mKvg)

/-- The next granule of a command: worked out only where all of it can be written. -/
def performGranule (c : Cmd) (e : Eng) (b : Block) (core : Nat) (s : State) : Granule :=
  match workGranule c e b core s with
  | .ok s1 l ev st =>
    (match putsFail s1 e c.putScaled l with
     | some k => granErr s c.dst c.dstRec k
     | none => .ok s1 l ev st)
  | g => g

/-! ### Completion -/

/-- The reservations of a command released; the counts advance where it is done (R366). -/
def settleFlumes (s : State) (c : Cmd) (b : Block) (done : Bool) : State :=
  let k := c.kin b
  let n := c.kout b
  let s := if c.fie then s.modFlume c.blk c.fin (fun f =>
      { f with rin := f.rin - k, q := if done then f.q + BitVec.ofNat 32 k else f.q }) else s
  if c.foe then s.modFlume c.blk c.fout (fun f =>
      { f with rout := f.rout - n, p := if done then f.p + BitVec.ofNat 32 n else f.p }) else s

/-- A command is DONE (R361, R366, R372): its writes are released to the block, its flumes advance, it arrives on its tile barrier,
and it completes in its batch. On a tile barrier with EXP = 0 it makes no arrival, and status 2 is recorded (R198). -/
def cmdDone (s : State) (core i : Nat) (c : Cmd) (b : Block) : State :=
  let s := if s.hasMigrated c.blk && (c.fie || c.foe || c.tbe) then writeBackAll s core else s
  let s := settleFlumes s c b true
  let dead := c.tbe && decide ((b.tbar c.tbn).exp = 0)
  let s := if c.tbe && !dead then s.modTBar c.blk c.tbn (fun x => x.arrive 1) else s
  retireCmd s core i c (if dead then max 2 c.status else c.status)

/-- The runs of bytes that a command writes, each within a line. -/
def Cmd.writes (c : Cmd) (b : Block) : List (Nat × Nat) :=
  let y := c.target b
  let run (va n : Nat) : List (Nat × Nat) := ((runEnd va 8 0 n).pieces (n + 1) 0 n).map (fun p => (va + p.1, p.2))
  if c.mode = mTagck then run c.dst.toNat (65536 * c.cnt)
  else if c.mode = mKvg then run c.dst.toNat ((c.kvn + 1) * (c.esz - 16))
  else if c.dstRec then (y.within.flatMap (fun k => y.h.spots (y.index k))).map (fun p => (y.addr p.off, (p.sh + p.n + 7) / 8))
  else let n := (c.outBits + 7) / 8; (y.pieces (n + 1) 0 n).map (fun p => (y.addr p.1, p.2))

/-- Where an address of an engine leads, as it is translated now. -/
def Eng.place (e : Eng) (s : State) (va : Nat) : Option Loc :=
  match windowOf va with
  | some .lane => none
  | some .core => some (.scratch e.blk (va % 2 ^ 32))
  | some .clus => some (.clus e.gang (va % 2 ^ 32))
  | _ =>
    match (e.agent s).tlb.find? (·.covers (e.agent s) va) with
    | some p => some (p.loc va)
    | none => (leafAt s (e.agent s) va).map (·.loc va)

/-- The storage that a command of a core's engine writes: the kind, and first and last byte. -/
def Cmd.storage (s : State) (core : Nat) (c : Cmd) : List (Nat × Nat × Nat) :=
  match tget s.blocks c.blk, engOf s c.blk c.priv core true with
  | some b, some e => (c.writes b).filterMap (fun p => (e.place s p.1).map (fun l => (l.key % 16, l.key / 16, l.key / 16 + p.2)))
  | _, _ => []

/-- Whether two commands of a core's engine write one byte (R230), by whatever names. (DESIGN CHOICE, log 31.) -/
def overlaps (s : State) (core : Nat) (x y : Cmd) : Bool :=
  (x.storage s core).any (fun p => (y.storage s core).any (fun q =>
    decide (p.1 = q.1) && decide (p.2.1 < q.2.2) && decide (q.2.1 < p.2.2)))

/-- The walkers go on to the runs of queued commands of a core's engine, up to 7 of them (R355). -/
def aheadQueue (core : Nat) (s : State) : State :=
  let runs := (s.core core).sluice.zipIdx.filter (fun p => decide (p.1.state = .queued) && !p.1.srcRec && !p.1.dstRec && decide (p.1.mode ≠ mKvg))
  (runs.take 7).foldl (fun s p =>
    match tget s.blocks p.1.blk, engOf s p.1.blk p.1.priv core true with
    | some b, some e =>
      let (s, held) := p.1.ahead e b s
      s.modSluice core (fun l => setAt l p.2 (fun c => { c with held := held }))
    | _, _ => s) s

/-- A command after a granule: the next one, or DONE. -/
def granuleDone (s : State) (core i : Nat) (c : Cmd) (b : Block) : State :=
  let c := { c with progress := c.progress + 1, out := [], heals := [] }
  if c.granules b ≤ c.progress then cmdDone s core i c ((tget s.blocks c.blk).getD b) else s.modSluice core (fun l => setAt l i (fun _ => c))

/-- Why a command ends early. -/
def granuleFails (s : State) (core i : Nat) (c : Cmd) (b : Block) (g : Granule) : Out :=
  match g with
  | .stop s status => .next (retireCmd (settleFlumes s c b false) core i c (max status c.status)).bump
  | .fault cause va raddr => .next (cmdFault s core c b.gang cause va raddr).bump
  | _ => .refused .notEnabled

/-- Whether a command may go on: its gang runs, or it finishes the granule that it is writing (R363). -/
def Cmd.runs (c : Cmd) (s : State) : Bool :=
  s.blockRuns c.blk ||
  (!c.out.isEmpty && (match (tget s.blocks c.blk).bind (fun b => tget s.gangs b.gang) with | some g => decide (g.state = .stopping) | none => false))

/-- The next act of command `i` of a core's engine (R335, R362, R372): a granule is worked out, its sources read, and then written word by word; a
command that writes the same bytes as an earlier started one waits for it (R230); one with every granule performed is DONE. -/
def execSluiceGranule (core i : Nat) (s : State) : Out :=
  let k := s.core core
  match k.sluice[i]? with
  | none => .refused .notEnabled
  | some c =>
    if k.stopped || decide (c.state ≠ .started) || !c.runs s ||
       (k.sluice.take i).any (fun x => decide (x.state = .started) && overlaps s core x c) then .refused .notEnabled
    else
      match tget s.blocks c.blk, (engOf s c.blk c.priv core true).map (fun e => { e with held := c.held }) with
      | some b, some e =>
        if c.out ≠ [] then
          match putNext e c.putScaled c.out s with
          | .error f => granuleFails s core i c b (granErr s c.dst c.dstRec f)
          | .ok (s, []) => .next (granuleDone (healPuts e s c.heals) core i c b).bump
          | .ok (s, l) => .next (s.modSluice core (fun q => setAt q i (fun c => { c with out := l }))).bump
        else if c.granules b ≤ c.progress then .next (cmdDone s core i c b)
        else
          match performGranule c e b core s with
          | .ok s l ev status =>
            let s := aheadQueue core (noteAll (countHealth s c.blk ev) e (c.pages b))
            let c := { c with status := max c.status status }
            let lines := addPuts [] l
            .next (if lines = [] then granuleDone s core i c b
                   else s.modSluice core (fun q => setAt q i (fun _ => { c with out := lines, heals := wholePuts lines }))).bump
          | g => granuleFails s core i c b g
      | _, _ => .fault .dangling

end Sys2Proof.Machine
end

