-- ==== Sys2Proof/Machine/Portage.lean ====
section
/-! DEFINITION. Migration between the core kinds: MIGR and PORTAGE, opcodes 0xD4 and 0xD5 (R271 to R273, R428 to R436), and the
portage anchor of a warp (R439). -/
namespace Sys2Proof.Machine
open Sys2Proof

/-! ### MIGR (R271) -/

/-- MIGR: the request held afterwards, and the status. -/
def migrOp (f : Fr) (d : Reg) (plan : Ctx → Nat × Nat) (s : State) : Out :=
  issue f (nameD d none none none) none noEarly (fun c st =>
    if c.act = 0 then .done (finishFlight c f [] .minimum st)
    else
      let (held, v) := plan c
      .done (finishFlight c f (c.outs [(d.toNat, fun _ => BitVec.ofNat 32 v)]) .access
        (st.modWarp c.w (fun wp => { wp with migr := held })))) s

/-- MIGR.riffle. -/
def execMigrRiffle (f : Fr) (d : Reg) (s : State) : Out :=
  migrOp f d (fun c =>
    if c.riffle then (c.warp.migr, 1) else if c.launch.record.entf = 0 then (c.warp.migr, 2) else (1, 0)) s

/-- MIGR.reach. -/
def execMigrReach (f : Fr) (d : Reg) (s : State) : Out :=
  migrOp f d (fun c =>
    if !c.riffle then (c.warp.migr, 1) else if c.launch.record.entr = 0 then (c.warp.migr, 2) else (2, 0)) s

/-- MIGR.cancel. -/
def execMigrCancel (f : Fr) (d : Reg) (s : State) : Out :=
  migrOp f d (fun c => if c.warp.migr = 0 then (0, 1) else (0, 0)) s

/-! ### Portage records (R428 to R430) -/

/-- Bytes fetched as code from an address, fetch block by fetch block (R340); the error is a cause with its address. -/
def codeBytes (c : Ctx) : Nat → State → Nat → Nat → Except (Nat × Nat) (State × List Byte)
  | 0, s, _, _ => .ok (s, [])
  | fuel + 1, s, va, n =>
    if n = 0 then .ok (s, [])
    else
      let k := min n (32 - va % 32)
      match translate s c.agent va .fetch with
      | .error e => .error (e, va)
      | .ok e =>
        let blk := va / 32 * 32
        if s.poisoned (e.loc blk) 32 then .error (0x40, va)
        else
          let bs := fetchBlock s c blk (e.loc blk)
          let s := noteFetch (s.modCore c.core (fun k => { k with tlb := tlbAdd 1024 s.free k.tlb e })) c blk bs
          match codeBytes c fuel s (va + k) (n - k) with
          | .error x => .error x
          | .ok (s, r) => .ok (s, (bs.drop (va % 32)).take k ++ r)

/-- A portage record: the two addresses and the pairs, Reach register first. -/
structure Portage where
  pcr : DWord
  pcf : DWord
  pairs : List (Nat × Nat)
  deriving DecidableEq, Repr

/-- The number of a field of `n` bytes. -/
def fieldAt (bs : List Byte) (o n : Nat) : Nat := ofBytes ((bs.drop o).take n)

/-- Whether no number stands twice. -/
def distinct : List Nat → Bool
  | [] => true
  | x :: r => !r.contains x && distinct r

/-- The record of a point in a launch's table; none where R430 finds it absent or malformed. -/
def findPortage (c : Ctx) (k : Nat) (s : State) : Except (Nat × Nat) (State × Option Portage) :=
  let r := c.launch.record
  if r.ptab = 0 then .ok (s, none)
  else
    match codeBytes c 2 s r.ptab 16 with
    | .error x => .error x
    | .ok (s, hd) =>
      if fieldAt hd 0 4 ≤ k ∨ fieldAt hd 4 12 ≠ 0 then .ok (s, none)
      else
        match codeBytes c 2 s (r.ptab + 16 + 8 * k) 8 with
        | .error x => .error x
        | .ok (s, o) =>
          let off := fieldAt o 0 8
          if off = 0 then .ok (s, none)
          else
            match codeBytes c 2 s (r.ptab + off) 24 with
            | .error x => .error x
            | .ok (s, h) =>
              let np := fieldAt h 2 2
              if fieldAt h 0 2 ≠ k ∨ 255 < np ∨ fieldAt h 4 4 ≠ 0 then .ok (s, none)
              else
                match codeBytes c 34 s (r.ptab + off + 24) ((4 * np + 7) / 8 * 8) with
                | .error x => .error x
                | .ok (s, ps) =>
                  let w (j : Nat) : Nat := fieldAt ps (4 * j) 4
                  let pairs := (upto np).map (fun j => (w j % 1024, w j / 1024 % 1024))
                  let p : Portage := ⟨BitVec.ofNat 64 (fieldAt h 8 8), BitVec.ofNat 64 (fieldAt h 16 8), pairs⟩
                  let own := if c.riffle then p.pcf else p.pcr
                  let ok := (upto np).all (fun j => decide (w j / 2 ^ 20 = 0)) && decide (np % 2 = 0 ∨ w np = 0) &&
                    decide (p.pcr.toNat % 4 = 0) && decide (p.pcf.toNat % 4 = 0) && decide (own = c.split.pc) &&
                    pairs.all (fun x => decide (x.1 ≠ 0) && decide (x.1 < allocOf r false) && decide (x.2 ≠ 0) && decide (x.2 < allocOf r true)) &&
                    distinct (pairs.map (·.1)) && distinct (pairs.map (·.2))
                  .ok (s, if ok then some p else none)

/-! ### PORTAGE (R272, R432 to R434) -/

/-- The slot that a warp takes on a target core (R432, R433); none where it has no place there. -/
def landingSlot (s : State) (wp : Warp) (b : Block) (l : Launch) (world : Bool) (target : Nat) : Option Nat :=
  let r := l.record
  if (s.core target).stopped || !worldOk s target world l.asid then none
  else if r.xs && !isRiffle target then (if target = b.core then some wp.homeSlot else none)
  else if regsLimit target < regsUsed s target + allocOf r (isRiffle target) then none
  else
    match pickSlots target r.lane (fun sub => laneLimit target - laneUsed s target sub) 1 (slotsUsed s target) [] with
    | some (sl :: _) => some sl
    | _ => none

/-- The cores that a request may lead to, in order (R273). -/
def targetCores (c : Ctx) : List Nat :=
  if c.riffle then [c.block.core, if c.block.core % 2 = 0 then c.block.core + 1 else c.block.core - 1]
  else [2048 + clusterOf c.block.core]

/-- Whether the warp may migrate at a portage point, its place apart (R272). -/
def mayMigrate (c : Ctx) : Bool :=
  decide (c.warp.migr = (if c.riffle then 2 else 1)) && decide (c.warp.splits.length = 1) && c.warp.parked.isEmpty &&
  c.warp.starved.isEmpty && !c.handler && c.warp.raft.isNone && !c.warp.xl && c.split.rets.isEmpty && decide (c.split.spilled = 0)

/-- Where a warp would land: the first target core with a slot for it. -/
def landingOf (c : Ctx) (f : Fr) (p : Portage) : Option Landing :=
  (targetCores c).findSome? (fun t =>
    (landingSlot c.pre c.warp c.block c.launch c.ctx.world t).map (fun sl =>
      { core := t, slot := sl, pc := (if isRiffle t then p.pcf else p.pcr) + BitVec.ofNat 64 (flen f),
        pairs := if isRiffle t then p.pairs else p.pairs.map (fun x => (x.2, x.1)) }))

/-- PORTAGE (R272, R430): the record is checked and sr.panch set; where the warp is to migrate, its place is taken and it waits for
its counters. -/
def execPortage (f : Fr) (v : Word) (s : State) : Out :=
  controlOp f ⟨none, none, none, []⟩ none (fun c st =>
    if c.act = 0 then .done st
    else if 0xFFFF ≤ v.toNat then .trap 0x0B c.act [] none
    else
      match findPortage c v.toNat st with
      | .error (k, va) => .trap k c.act (c.threads.map (fun t => (t, BitVec.ofNat 64 va))) none
      | .ok (_, none) => .trap 0x0B c.act [] none
      | .ok (st, some p) =>
        let st := st.modWarp c.w (fun wp => { wp with panch := v.setWidth 16, pcr := p.pcr, pcf := p.pcf })
        if mayMigrate c then
          match landingOf c f p with
          | none => .done st
          | some x =>
            .done ((st.modWarp c.w (fun wp => { wp with landing := some x })).modSplit c.w c.ent (fun sp => { sp with wait := some .moving }))
        else .done st) s

/-! ### MIGRATE (R273, R339, R435, R436) -/

/-- The registers of a warp after its pairs are applied: a target register takes its source's word and poison; every other one of the
warp reads as zero. (DEDUCED, log 51.) -/
def moveRegs (s : State) (w : Nat) (pairs : List (Nat × Nat)) : State :=
  let mine (k : Nat) : Bool := decide (k / 32 / 1024 = w) && decide (k / 32 % 1024 < 512)
  let moved := pairs.flatMap (fun p => (upto 32).map (fun t => (regKey w w p.2 t, s.regAt (regKey w w p.1 t))))
  let granules (f : Nat × Nat → Nat) : List (Nat × Nat) :=
    pairs.flatMap (fun p => (upto 4).map (fun g => (regGranule (regKey w w p.2 (8 * g)), regGranule (regKey w w (f p) (8 * g)))))
  let own := ((upto 512).flatMap (fun r => (upto 4).map (fun g => regGranule (regKey w w r (8 * g)))))
  let bad := if s.poison = [] then []
    else s.poison.filter (fun g => !own.contains g) ++ ((granules (·.1)).filter (fun x => s.poison.contains x.2)).map (·.1)
  let s := { s with regs := s.regs.filter (fun p => !mine p.1), poison := bad }
  moved.foldl (fun s p => s.setReg p.1 p.2) s

/-- Whether a warp's migration may be made: its counters read 0, its results are written, and its copy commands are complete. -/
def Warp.settled (wp : Warp) : Bool := wp.ctrs.all (fun n => decide (n = 0)) && wp.flights.isEmpty && wp.fixed.isEmpty

/-- MIGRATE: the warp moves to its landing place and goes on in the other encoding. -/
def execMigrate (w : Nat) (s : State) : Out :=
  match tget s.warps w with
  | none => .refused .notEnabled
  | some wp =>
    match wp.landing with
    | none => .refused .notEnabled
    | some x =>
      match tget s.blocks wp.blk with
      | none => .fault .dangling
      | some b =>
        match tget s.gangs b.gang, recordOf s b with
        | some g, some r =>
          if !wp.settled || s.hasCmds w || !(decide (g.state = .running) || decide (g.state = .stopping)) then .refused .notEnabled
          else
            let s := s.landAll w
            let s := primeCore (writeBackAll s wp.core) x.core g.launch
            let s := moveRegs s w x.pairs
            let sub := subcoreOf wp.core wp.slot
            let s := s.modCore wp.core (fun k =>
              { k with latch := tputD k.latch sub [] ((tgetD k.latch sub []).filter (fun l => decide (l.warp ≠ w))) })
            .next (s.modWarp w (fun wp =>
              { wp with core := x.core, slot := x.slot, alloc := allocOf r (isRiffle x.core), migr := 0, landing := none,
                        splits := wp.splits.map (fun sp =>
                          { sp with ent := 0, pc := x.pc, nd := 0, next := s.now, ready := none, passed := 0, aged := none, wait := none }) }))
        | _, _ => .fault .dangling

/-! ### The portage anchor (R439) -/

/-- The 32-byte anchor of a warp with a given pc, as four 8-byte words: PCR and PCF are those of the point that the warp passed last, as its
PORTAGE read them. (DEDUCED, log 51.) -/
def anchor (wp : Warp) (pc : DWord) : List (BitVec 64) :=
  let w3 := wp.panch.toNat + 65536 * ((if isRiffle wp.core then 1 else 0) + 2 * wp.migr) + 2 ^ 32 * wp.core
  [pc, wp.pcr, wp.pcf, BitVec.ofNat 64 w3]

end Sys2Proof.Machine
end

