-- ==== Sys2Proof/Machine/Collect.lean ====
section
/-! DEFINITION. Collectives: COLL, opcode 0xE9 (R282), and the collective engine's start and end (R513 to R515). -/
namespace Sys2Proof.Machine
open Sys2Proof

/-! ### Descriptors (R513) -/

def Collective.src (x : Collective) : Nat := fieldAt x.desc 0 8
def Collective.dst (x : Collective) : Nat := fieldAt x.desc 8 8
def Collective.cword (x : Collective) : Nat := fieldAt x.desc 0x10 8
def Collective.cval (x : Collective) : Nat := fieldAt x.desc 0x18 4
def Collective.fmt (x : Collective) : Nat := fieldAt x.desc 0x20 1 % 32
def Collective.rm (x : Collective) : Nat := fieldAt x.desc 0x20 1 / 32
def Collective.hopq (x : Collective) : Bool := fieldAt x.desc 0x21 1 % 2 == 1
def Collective.strm (x : Collective) : Nat := fieldAt x.desc 0x22 1
def Collective.gid (x : Collective) : Nat := fieldAt x.desc 0x24 2
def Collective.elem (x : Collective) : Elem := (codeElem x.fmt).getD .f32

def segmented : CollOp → Bool
  | .ared => false
  | _ => true

/-- Whether the engine takes a descriptor; otherwise COLL answers 1 (R282, R513). -/
def collOk (s : State) (x : Collective) : Bool :=
  match tget s.groups x.gid with
  | none => false
  | some g =>
    decide (fieldAt x.desc 0x20 2 / 512 = 0) && decide (fieldAt x.desc 0x23 1 = 0) && decide (fieldAt x.desc 0x26 26 = 0) &&
    [0, 1, 2, 10, 11, 12, 13, 14, 15].contains x.fmt && decide (x.rm ≤ 5) && decide (x.cval ≠ 0) && decide (x.cword % 4 = 0) &&
    (!isScaled x.elem || (decide (x.count % 32 = 0) && (!segmented x.op || decide (x.count % (32 * g.n) = 0))))

/-- COLL (R282). How many collectives wait before the engine is full is not stated, and a descriptor that cannot be read traps with its cause.
(DEDUCED, log 104.) -/
def execColl (f : Fr) (op : CollOp) (d a : Reg) (b : Src) (s : State) : Out :=
  issue f (nameD d (reg2 a) (srcN b 1) none) none noEarly (fun c st =>
    if c.act = 0 then .done (finishFlight c f [] .minimum st)
    else
      let t := lowest c.act
      let va := c.reg2 a.toNat t
      let die := dieOf c.core
      let give (v : Nat) (s : State) : Body := .done (finishFlight c f (c.outs [(d.toNat, fun _ => BitVec.ofNat 32 v)]) .access s)
      if va.toNat % 64 ≠ 0 then give 1 (releaseAt c 6 st)
      else
        let chks := [(t, resolve c .none .read false 64 1 t va)]
        match allOk chks with
        | none => let (k, m) := firstBad chks; .trap k m [(t, va)] none
        | some as =>
          let st := releaseAt c 6 st
          let (st, l) := readHome c.core as (noteTlb st c.core as)
          let x : Collective := { asid := c.asid, priv := c.split.priv, addr := va.toNat, seed := c.ctx.seed, op := op, count := (c.val b t).toNat,
                                  desc := (match l with | p :: _ => p.2 | [] => []), index := 0, begun := false }
          if !collOk c.pre x then give 1 st
          else if !(c.pre.die die).colls.isEmpty && decide (Config.collDepth < (c.pre.die die).colls.length) then .held
          else
            let k := match tget st.groups x.gid with | some g => g.posted | none => 0
            let st := { st with groups := tmod st.groups x.gid (fun g => { g with posted := g.posted + 1 }) }
            give 0 (st.modDie die (fun y => { y with colls := y.colls ++ [{ x with index := k }] }))) s

/-! ### The engine -/

/-- The first collective of a list that has not begun, or that has, with its place. -/
def findColl (l : List Collective) (begun : Bool) : Option (Nat × Collective) :=
  (l.zipIdx.find? (fun p => p.1.begun == begun)).map (fun p => (p.2, p.1))

/-- The engine of a die acting for a collective: no window but the global and estuary ones is its own. -/
def collEng (s : State) (x : Collective) : Option Eng :=
  (tget s.ctxs x.asid).map (fun k =>
    { asid := x.asid, world := k.world, troot := k.troot, priv := x.priv, blk := 0, blkCore := 0, gang := 0, lrec := parseRecord [],
      cluster := 128, l1 := none })

/-- A contiguous run of the collective's format. -/
def collRun (x : Collective) (va n : Nat) : End := runEnd va x.fmt 0 n

/-- Elements of a segment; the segment of an element, the last one taking what is left over. (DESIGN CHOICE, log 61.) -/
def segLen (x : Collective) (n : Nat) : Nat := if isScaled x.elem then x.count / 32 / n * 32 else x.count / n
def segOf (x : Collective) (n i : Nat) : Nat := min (n - 1) (i / max 1 (segLen x n))

/-- Elements per unit: a block of 32, or one element. -/
def unitOf (x : Collective) : Nat := if isScaled x.elem then 32 else 1

/-- The first `n` units at an address, up to the first that cannot be read. -/
def readUnits (s : State) (e : Eng) (x : Collective) (va n : Nat) : EngM (List Partial) :=
  let u := unitOf x
  let y := collRun x va (n * u)
  engMap (fun b =>
    match engMap (fun j => readCode s e y (y.index (b * u + j))) (upto u) with
    | .error k => .error k
    | .ok cs =>
      match readScaleOf s e y (y.index (b * u)) with
      | .error k => .error k
      | .ok v => .ok ⟨cs, v⟩) (upto n)

/-- The writes of units from an address on. -/
def unitPuts (x : Collective) (dst : Nat) (l : List Partial) : List Put :=
  let u := unitOf x
  let y := collRun x dst (l.length * u)
  l.zipIdx.flatMap (fun p =>
    p.1.codes.zipIdx.flatMap (fun q => codePuts y (p.2 * u + q.2) q.1) ++ (if y.h.scaled then scalePuts y (p.2 * u) p.1.s20 else []))

/-- What the message of another member begins with: its operation and format, whether its source holds an uncorrectable error, its element
count, and which of the group's collectives it has posted. (DESIGN CHOICE, log 61.) -/
structure PeerPost where
  op : Nat
  fmt : Nat
  bad : Bool
  count : Nat
  index : Nat
  deriving DecidableEq, Repr

def peerPost (bs : List Byte) : Option PeerPost :=
  if bs.length < 12 then none else some ⟨fieldAt bs 0 1, fieldAt bs 1 1, fieldAt bs 2 1 == 1, fieldAt bs 4 4, fieldAt bs 8 4⟩

/-- SUB of an operation (R282). -/
def collCode : CollOp → Nat
  | .ared => 0
  | .rsc => 1
  | .agat => 2
  | .a2a => 3

/-- Whether another member's post agrees with this one (R513). -/
def Collective.fits (x : Collective) (p : PeerPost) : Bool :=
  decide (p.op = collCode x.op) && decide (p.fmt = x.fmt) && decide (p.count = x.count)

/-- The units of a member that this one needs: for the reductions all of them, since each member counts the events of what it quantises (R514). -/
def peerCount (x : Collective) (n : Nat) : Nat :=
  match x.op with
  | .ared | .rsc => x.count / unitOf x
  | .agat | .a2a => segLen x n / unitOf x

/-- The messages of the other members, by rank. -/
def otherPosts (n own : Nat) (peers : List (List Byte)) : List (List Byte) :=
  ((upto n).filter (fun r => decide (r ≠ own))).map (fun r => peers.getD r [])

/-- Whether a message is that of the matched post (R513), whole where its units are needed. -/
def Collective.matched (x : Collective) (n : Nat) (bs : List Byte) : Bool :=
  match peerPost bs with
  | none => false
  | some p =>
    decide (p.index = x.index) &&
    (p.bad || !x.fits p || decide (bs.length = 12 + 4 * peerCount x n * (unitOf x + if isScaled x.elem then 1 else 0)))

/-- A member's partial as its message carries it: the codes as 4-byte words, then the scale words. -/
def peerUnits (x : Collective) (n : Nat) (bs : List Byte) : List Partial :=
  let u := unitOf x
  (upto n).map (fun b => ⟨(upto u).map (fun j => fieldAt bs (4 * (b * u + j)) 4), if isScaled x.elem then fieldAt bs (4 * (n * u + b)) 4 else 0⟩)

/-- The exact values of a unit's elements, with the signs of their codes (R16, R43). -/
def unitInps (x : Collective) (p : Partial) : List Inp :=
  p.codes.map (deqInp x.elem p.s20)

/-- Quantisation of a unit whose first element has a position (R514). -/
def collQuant (x : Collective) (rnd : Rnd) (first strm : Nat) (vs : List Inp) : QBlock :=
  let ms := (upto vs.length).map (fun j => modeOf rnd x.seed (first + j) (strm % 256))
  if isScaled x.elem then quantBlock x.elem false ms vs else convAll x.elem ms vs

/-- The sum of a unit's partials in the order of R514, with the events of the quantisations that this member makes. `get r` is rank r's
unit; `steps` counts down. -/
def reduceUnit (x : Collective) (n own first s0 : Nat) (get : Nat → Partial) : Nat → List Inp → Health → Partial × Health
  | 0, acc, ev =>
    let q := collQuant x ([Rnd.rne, .rz, .rup, .rdn, .rna, .sr].getD x.rm .rne) first (x.strm + n - 1) acc
    let ev := if (s0 + n - 1) % n = own then ev.add q.ev else ev
    (⟨q.codes, q.s20⟩, ev)
  | k + 1, acc, ev =>
    let step := n - 1 - k
    let r := (s0 + step) % n
    let acc := (acc.zip (unitInps x (get r))).map (fun p => inpOf (rne32 (Num.add false p.1.val p.2.val)))
    if x.hopq && decide (step < n - 1) then
      let q := collQuant x .sr first (x.strm + step) acc
      let ev := if r = own then ev.add q.ev else ev
      reduceUnit x n own first s0 get k (unitInps x ⟨q.codes, q.s20⟩) ev
    else reduceUnit x n own first s0 get k acc ev

/-- A unit reduced over the group; `i` is its number among the collective's units. -/
def reduceAt (x : Collective) (n own h i : Nat) (get : Nat → Partial) : Partial × Health :=
  let first := i * unitOf x
  let s0 := (segOf x n first + h) % n
  reduceUnit x n own first s0 get (n - 1) (unitInps x (get s0)) Health.none

/-- The end of a collective: STAT, then CVAL to the completion word (R515). It leaves the engine. -/
def finishColl (s : State) (die i : Nat) (x : Collective) (stat : Nat) : State :=
  let put (s : State) (va v : Nat) : State :=
    match collEng s x with
    | none => s
    | some e => match engWrite s e false va (toBytes 4 v) with | .ok s => s | .error _ => s
  let s := s.modDie die (fun y => { y with colls := dropAt y.colls i })
  put (put s (x.addr + 0x1C) stat) x.cword x.cval

/-- What the engine writes: the units of DST with the address of the first, and the events, of an .rsc also those of the quantisations that this
member makes for the other ranks' segments (R514). -/
def collResult (x : Collective) (n own h : Nat) (mine : List Partial) (peers : List (List Byte)) : Nat × List Partial × Health :=
  let u := unitOf x
  let seg := segLen x n / u
  let zero : Partial := ⟨List.replicate u 0, 0⟩
  let bytes (r : Nat) : List Byte := (peers.getD r []).drop 12
  match x.op with
  | .agat => (x.dst, (upto n).flatMap (fun r => if r = own then mine else peerUnits x seg (bytes r)), Health.none)
  | .a2a => (x.dst, (upto n).flatMap (fun r => if r = own then (mine.drop (own * seg)).take seg else peerUnits x seg (bytes r)), Health.none)
  | op =>
    let all := x.count / u
    let ps := (upto n).map (fun r => if r = own then mine else peerUnits x all (bytes r))
    let l := (upto all).map (fun i => reduceAt x n own h i (fun r => (ps.getD r []).getD i zero))
    (x.dst, if op = .rsc then ((l.map (·.1)).drop (own * seg)).take seg else l.map (·.1), Health.sum (l.map (·.2)))

/-- The units that a member reads at SRC. -/
def srcUnits (x : Collective) (n : Nat) : Nat :=
  match x.op with
  | .agat => segLen x n / unitOf x
  | _ => x.count / unitOf x

/-- What a collective has still to write. -/
def setOut (s : State) (die i : Nat) (o : CollOut) : State :=
  s.modDie die (fun y => { y with colls := setAt y.colls i (fun x => { x with out := some o }) })

/-- The status of a failing access of the engine. -/
def collStat (k : EngErr) : Nat := match k with | .fault 0x40 _ => 1 | _ => 2

/-- COLLECTIVE_START (R513): matched posts on every member begin. Where the group is gone, or a port of its routes is down, the collective ends
(R515). -/
def execCollectiveStart (die : Nat) (s : State) : Out :=
  match findColl (s.die die).colls false with
  | none => .refused .notEnabled
  | some (i, x) =>
    match tget s.groups x.gid with
    | none => .next (finishColl s die i x 3).bump
    | some g =>
      if g.routes.any (fun p => tgetD s.ports p false) then .next (finishColl s die i x 1).bump
      else .next (s.modDie die (fun y => { y with colls := setAt y.colls i (fun x => { x with begun := true }) }))

/-- COLLECTIVE_END (R513 to R515): with the messages of the other members' matched posts, by rank, the result is known, and `agree` says whether
they agree with this member's; posts that differ end with STAT 4, an uncorrectable error of any member with STAT 1 (R530). Then DST
is written word by word, and after the last word the collective ends. (DESIGN CHOICE, log 61.) -/
def execCollectiveEnd (die : Nat) (peers : List (List Byte)) (agree : Bool) (s : State) : Out :=
  match findColl (s.die die).colls true with
  | none => .refused .notEnabled
  | some (i, x) =>
    match tget s.groups x.gid, collEng s x with
    | some g, some e =>
      match x.out with
      | none =>
        let posts := otherPosts g.n g.rank peers
        let heads := posts.filterMap peerPost
        if !posts.all (x.matched g.n) || agree != heads.all x.fits then .refused .notEnabled
        else if !agree then .next (finishColl s die i x 4).bump
        else if heads.any (·.bad) then .next (finishColl s die i x 1).bump
        else
          match readUnits s e x x.src (srcUnits x g.n) with
          | .error k => .next (finishColl s die i x (collStat k)).bump
          | .ok mine =>
            let (va, ps, ev) := collResult x g.n g.rank (Config.freePick s.free 20 % g.n) mine peers
            let lines := addPuts [] (unitPuts x va ps)
            .next (setOut s die i ⟨lines, wholePuts lines, ev.sat, ev.zero⟩).bump
      | some o =>
        if o.out = [] then .next (finishColl (addHealth (healPuts e s o.heals) x.asid ⟨o.sat, o.zero⟩) die i x 0).bump
        else
          match putNext e (isScaled x.elem) o.out s with
          | .error k => .next (finishColl s die i x (collStat k)).bump
          | .ok (s, l) => .next (setOut s die i { o with out := l }).bump
    | _, _ => .next (finishColl s die i x 3).bump

/-- Every collective of a group, posted or begun, ends on this member with a status (R510, R515). -/
def endColls (s : State) (gid stat : Nat) : State :=
  (tkeys s.dies).foldl (fun s d =>
    let ours := ((s.die d).colls.zipIdx.filter (fun p => decide (p.1.gid = gid))).reverse
    ours.foldl (fun s p => finishColl s d p.2 p.1 stat) s) s

end Sys2Proof.Machine
end

