-- ==== Sys2Proof/Machine/Finish.lean ====
section
/-! DEFINITION. What ends: results and operations (R63, R68, R70), a wait for a trap (R259), YIELD (R257) and ageing (R298), warps,
blocks, gangs and launches (R256, R294, R455); the fetch that gives no instruction (R81, R83), L1 evictions (R319), and a block's health
counts sent on (R531). -/
namespace Sys2Proof.Machine
open Sys2Proof

/-! ### Results and completions -/

/-- The first of a warp's write-backs that is due, with its place. -/
def dueFixed (s : State) (wp : Warp) : Option (Nat × Fixed) :=
  (wp.fixed.zipIdx.find? (fun p => decide (p.1.due ≤ s.now))).map (fun p => (p.2, p.1))

/-- RESULT_WRITEBACK (R63, R104, R151): a fixed-latency instruction is complete: its counter moves and its events are counted. -/
def execResultWriteback (w : Nat) (s : State) : Out :=
  match tget s.warps w with
  | none => .refused .notEnabled
  | some wp =>
    match dueFixed s wp with
    | none => .refused .notEnabled
    | some (i, x) =>
      let s := s.modWarp w (fun wp => ({ wp with fixed := dropAt wp.fixed i }).decCtr x.ctr)
      .next (countHealth s wp.blk ⟨x.sat, x.zero⟩)

/-- The `k`-th flight of a warp, where it is of a kind that may end at this time. -/
def dueFlight (s : State) (w k : Nat) (minimum : Bool) : Option (Warp × Flight) :=
  match tget s.warps w with
  | none => none
  | some wp =>
    match wp.flights[k]? with
    | none => none
    | some x =>
      let right : Bool := match x.kind with
        | .access | .load _ | .kv _ => !minimum
        | .minimum => minimum
        | .tile _ => false
      if right && decide (x.due ≤ s.now) then some (wp, x) else none

/-- The end of a flight: its registers, then its counter. -/
def endFlight (s : State) (w k : Nat) (x : Flight) : State :=
  (s.landWords w x.regs).modWarp w (fun wp => ({ wp with flights := dropAt wp.flights k }).decCtr x.ctr)

/-- INSTRUCTION_COMPLETION (R68): a variable-latency operation completes, its last register written; a BSLOAD when its slots are (R193); a
key-value instruction rewrites sr.kvrm (R199). -/
def execInstructionCompletion (w k : Nat) (s : State) : Out :=
  match dueFlight s w k false with
  | none => .refused .notEnabled
  | some (wp, x) =>
    let s := endFlight s w k x
    match x.kind with
    | .load num => .next (loadDone s (wp.core / 2) num).bump
    | .kv lost => .next (s.modWarp w (fun wp => { wp with kvrm := lost }))
    | _ => .next s

/-- MINIMUM_LATENCY_RELEASE (R70, R244). -/
def execMinimumLatencyRelease (w k : Nat) (s : State) : Out :=
  match dueFlight s w k true with
  | none => .refused .notEnabled
  | some (_, x) => .next (endFlight s w k x)

/-! ### Traps, fetches, yields and ageing -/

/-- IN_WARP_TRAP_ENTRY (R259): the oldest trap that waited for a running handler enters its own. (DEDUCED, log 20.) -/
def execInWarpTrapEntry (w : Nat) (s : State) : Out :=
  match tget s.warps w with
  | none => .refused .notEnabled
  | some wp =>
    match wp.traps with
    | [] => .refused .notEnabled
    | x :: r =>
      match s.issuerOf w x.ent with
      | .ok c =>
        let runs := decide (c.gang.state = .running) || decide (c.gang.state = .stopping)
        if wp.inHandler || !runs || (s.core wp.core).stopped then .refused .notEnabled
        else .next (enterHandler (s.modWarp w (fun wp => { wp with traps := r })) w c.ctx.tvec x 0)
      | .dangling => .fault .dangling
      | .none => .next (s.modWarp w (fun wp => { wp with traps := r }))

/-- A split whose fetch gives no instruction takes the trap of the fetch, where the cause is one of the event's. -/
def fetchTrap (w ent : Nat) (mine : Nat → Bool) (s : State) : Out :=
  match s.issuerOf w ent with
  | .none => .refused .notEnabled
  | .dangling => .fault .dangling
  | .ok c =>
    match fetch s c with
    | .ok _ => .refused .notEnabled
    | .error k =>
      if mine k && gate c plainFr && c.split.wait.isNone then
        .next (raiseTrap c plainFr k c.split.mask ((threadsOf c.split.mask).map (fun t => (t, c.split.pc))) none).bump
      else .refused .notEnabled

/-- ILLEGAL_INSTRUCTION (R83): the word at the pc is no instruction. -/
def execIllegalInstruction (w ent : Nat) (s : State) : Out := fetchTrap w ent (fun k => decide (k = 0x01)) s

/-- FETCH_FAULT (R81): the fetch itself fails. -/
def execFetchFault (w ent : Nat) (s : State) : Out := fetchTrap w ent (fun k => decide (k ≠ 0x01)) s

/-- SPLIT_AGED (R298). -/
def execSplitAged (w ent : Nat) (s : State) : Out :=
  match (tget s.warps w).bind (·.split? ent) with
  | none => .refused .notEnabled
  | some sp =>
    if 64 ≤ sp.passed ∧ sp.aged = none then .next (s.modSplit w ent (fun sp => { sp with aged := some s.now })) else .refused .notEnabled

/-- YIELD_RELEASE (R257). -/
def execYieldRelease (w ent : Nat) (s : State) : Out :=
  match (tget s.warps w).bind (·.split? ent) with
  | none => .refused .notEnabled
  | some sp =>
    match sp.yield with
    | none => .refused .notEnabled
    | some y => if y.others = [] ∨ y.limit ≤ s.now then .next (s.modSplit w ent (fun sp => { sp with yield := none })) else .refused .notEnabled

/-- L1_EVICTION (R319): line `k` of a core's L1 leaves it, written back. -/
def execL1Eviction (core k : Nat) (s : State) : Out :=
  match (s.core core).l1[k]? with
  | none => .refused .notEnabled
  | some x => .next (flushLine s core x.line true)

/-- BLOCK_HEALTH_FLUSH (R531). -/
def execBlockHealthFlush (blk : Nat) (s : State) : Out :=
  match tget s.blocks blk with
  | none => .refused .notEnabled
  | some b => if 65536 ≤ b.satc ∨ 65536 ≤ b.zeroc then .next (flushHealth s blk) else .refused .notEnabled

/-! ### Ends of gangs and launches -/

/-- The twins' arrays go on after a gang has gone: operations that wait for room enter, rafts that wait form. -/
def resumeTwins (s : State) : State := (tkeys s.twins).foldl (fun s t => formWaiting (pump s t) t) s

/-- A gang gone with everything of it. -/
def dropGang (s : State) (gid : Nat) : State :=
  let s := clearGang s gid
  resumeTwins { s with gangs := tdel s.gangs gid,
                       flioc := { s.flioc with resumes := s.flioc.resumes.filter (fun g => decide (g ≠ gid)) } }

/-- A launch ended by a core stop or an acknowledgement, whole: nothing is decremented (R455). -/
def abortLaunch (s : State) (lid : Nat) : State :=
  match tget s.launches lid with
  | none => s
  | some l =>
    let gs := (s.gangs.filter (fun p => decide (p.2.launch = lid))).map (·.1)
    let s := gs.foldl dropGang s
    let s := (endWeirs s lid).modLaunch lid (fun l => { l with state := .ended, aborted := true })
    noteReady (parkTasks s l.asid l.record.succ) l.queue

/-- A gang whose blocks have all ended is freed (R294); the launch ends with its last gang. -/
def gangEnds (s : State) (gid : Nat) (g : Gang) : State :=
  let s := (dropGang s gid).modLaunch g.launch (fun l => { l with gangsEnded := l.gangsEnded + 1 })
  match tget s.launches g.launch with
  | none => s
  | some l => if l.gangsEnded = localGangs l.record then retireLaunch s g.launch else s

/-- A block ends with its last warp; its gang when all its blocks have. -/
def blockEnds (s : State) (blk : Nat) (b : Block) : State :=
  let s := (flushHealth s blk).modBlock blk (fun b => { b with ended := true })
  let s := s.modGang b.gang (fun g => { g with ended := g.ended + 1 })
  match tget s.gangs b.gang with
  | none => s
  | some g => if g.ended = (s.blocksOfGang b.gang).length then gangEnds s b.gang g else s

/-- What a warp's end changes for the barriers that no longer expect it (R256, R275, R276). -/
def barriersAfter (s : State) (w : Warp) (b : Block) : State :=
  let s := (upto 16).foldl (fun s n => barCheck s w.blk n) s
  match tget s.gangs b.gang with
  | none => s
  | some g => [3, 4, 5, 6, 7].foldl (fun s d => gbarCheck s b.gang g.launch b.core d false) s

/-- Whether an ending warp has nothing left to wait for: counters, copy commands, and its raft's operations (R172, R256). -/
def warpDone (s : State) (w : Nat) (wp : Warp) : Bool :=
  wp.ending && wp.settled && !s.hasCmds w &&
  (match wp.raft with
   | none => true
   | some rid =>
     match tget s.rafts rid with
     | none => true
     | some r => !r.ops.any (fun o => o.issued.any (fun m => decide (m.warp = w))))

/-- WARP_END (R256). -/
def execWarpEnd (w : Nat) (s : State) : Out :=
  match tget s.warps w with
  | none => .refused .notEnabled
  | some wp =>
    match tget s.blocks wp.blk with
    | none => .fault .dangling
    | some b =>
      let runs : Bool := match tget s.gangs b.gang with | some g => decide (g.state = .running) || decide (g.state = .stopping) | none => false
      if !warpDone s w wp || !runs || (s.core wp.core).stopped then .refused .notEnabled
      else
        let s := if wp.xl then freeExt w s else s
        let s := leaveRaft s w
        let s := { s with warps := tdel s.warps w }
        let s := s.modBlock wp.blk (fun b =>
          if wp.core = b.core then { b with spent := b.spent ++ [wp.slot] } else { b with gone := b.gone + 1 })
        let s := barriersAfter s wp b
        .next (if (s.warpsOfBlock wp.blk).isEmpty then blockEnds s wp.blk b else s).bump

end Sys2Proof.Machine
end

