-- ==== Sys2Proof/Machine/Faults.lean ====
section
/-! DEFINITION. The faults that leave a warp (R520 to R528): the kill of an operand-fetch fault (R358, R359), the core stop (R522), the
swap-out of a host-served fault (R524), fault records (R526) and the watchdog (R528). -/
namespace Sys2Proof.Machine
open Sys2Proof

/-! ### Classes (R520) -/

/-- The hard class of R520. (DEDUCED, log 52.) -/
def isHard (k : Nat) : Bool :=
  (decide (1 ≤ k) && decide (k ≤ 0x0B)) || decide (k = 0x0E) || decide (k = 0x10) || (decide (0x40 ≤ k) && decide (k ≤ 0x42))
/-- The host-served class of R520. -/
def isServed (k : Nat) : Bool := decide (0x20 ≤ k) && decide (k ≤ 0x26)

/-! ### Records -/

/-- The anchor of a warp (R439); `pc` where the fault names one. -/
def anchorOf (s : State) (w : Nat) (pc : Option DWord) : List (BitVec 64) :=
  match tget s.warps w with
  | none => [0, 0, 0, 0]
  | some wp => anchor wp (pc.getD (s.pcOf w 0))

/-- Warps in ascending core and then slot order. -/
def bySlot (s : State) (ws : List Nat) : List Nat :=
  sortBy (fun w => match tget s.warps w with | some wp => 64 * wp.core + wp.slot | none => 0) ws

/-- The launch whose record a fault record names: the faulting gang's, or, for a hard fault, that of the stopped gang with the lowest core
(R526). -/
def lowestLaunch (s : State) (x : Raised) (cls : Nat) (gangs : List Nat) : Option Launch :=
  let first := if cls = 1 then (bySlot s (gangs.flatMap (fun g => (s.warpsOfGang g).map (·.1)))).head? else none
  let gid := match (first.bind (fun w => tget s.warps w)).bind (fun wp => tget s.blocks wp.blk) with | some b => b.gang | none => x.gang
  (tget s.gangs gid).bind (fun g => tget s.launches g.launch)

/-- A fault's record: the faulting warp's anchor, then those of the other warps named. -/
def capture (s : State) (x : Raised) (cls kills : Nat) (pcs : List (Nat × DWord)) (ws gangs : List Nat) : FaultRec :=
  let l := (tget s.gangs x.gang).bind (fun g => tget s.launches g.launch)
  let asid := match l with | some l => l.asid | none => 0
  let rest := (bySlot s ws).filter (fun w => decide (w ≠ x.warp))
  let pcOf (w : Nat) : Option DWord := (pcs.find? (fun p => decide (p.1 = w))).map (·.2)
  { cause := x.cause, ocause := x.ocause, cls := cls, asid := asid,
    world := (match tget s.ctxs asid with | some k => k.world | none => false), addr := x.addr, raddr := x.raddr,
    cgen := (match l with | some l => l.record.cgen | none => 0), core := x.core, mask := x.mask,
    anchors := (anchorOf s x.warp (some x.pc) :: rest.map (fun w => anchorOf s w (pcOf w))).take 512, kills := kills,
    lrec := (match lowestLaunch s x cls gangs with | some l => BitVec.ofNat 64 l.addr | none => 0),
    bidx := (match (tget s.warps x.warp).bind (fun wp => tget s.blocks wp.blk) with | some b => b.index | none => 0),
    gangs := gangs, seen := s.uid }

/-- A record handed to its context, in the order of detection (R526). -/
def handOn (s : State) (r : FaultRec) : State := s.modCtx r.asid (fun x => { x with waiting := insertBy (·.seen) r x.waiting })

/-- The bytes of a record with its SEQ and STATE. -/
def faultBytes (r : FaultRec) (seq : Nat) (state : Nat) : List Byte :=
  toBytes 4 (r.cause + 256 * r.ocause + 65536 * r.cls) ++ toBytes 4 (r.asid + (if r.world then 65536 else 0)) ++ toBytes 8 r.addr.toNat ++
  toBytes 8 r.raddr.toNat ++ toBytes 4 r.cgen.toNat ++ toBytes 4 r.core ++ toBytes 4 r.mask.toNat ++
  toBytes 4 (r.anchors.length + 65536 * (r.kills % 256)) ++ toBytes 8 r.lrec.toNat ++ toBytes 4 r.bidx ++ toBytes 4 seq ++ toBytes 4 0 ++
  toBytes 4 state ++ r.anchors.flatMap (fun a => a.flatMap (fun w => toBytes 8 w.toNat))

/-- The address of a slot of a context's fault area. -/
def faultSlot (x : Context) (k : Nat) : Nat := x.poolBase + 32768 * k

/-- The oldest waiting record of a context goes to its lowest free slot, STATE last, and event 7 is posted (R526); nothing where no record waits or
no slot is free. -/
def postRecord (s : State) (asid : Nat) : Option State :=
  match tget s.ctxs asid with
  | none => none
  | some x =>
    match x.waiting, (upto 8).find? (fun k => (tget x.slots k).isNone) with
    | r :: rest, some k =>
      let seq := x.seq + 1
      let at' := faultSlot x k
      let s := s.modCtx asid (fun x => { x with waiting := rest, slots := tput x.slots k r, seq := seq })
      let s := homeWrite s (.hbm at') (faultBytes r seq.toNat 0)
      let s := homeWrite s (.hbm (at' + 0x3C)) (toBytes 4 1)
      some (postEvent s 7 asid (toBytes 8 at' ++ toBytes 4 r.cause ++ toBytes 4 r.core))
    | _, _ => none

/-- FAULT_RECORD_POST (R526). -/
def execFaultRecordPost (asid : Nat) (s : State) : Out :=
  match postRecord s asid with
  | some t => .next t
  | none => .refused .notEnabled

/-! ### Stopping a gang -/

/-- Whether a raised fault stops its core (R522): one of the hard class, and the operand-fetch fault of a gang that is not killed for it (R358). -/
def stopsCore (s : State) (x : Raised) : Bool :=
  isHard x.cause ||
  (decide (x.cause = 0x28) &&
   (match tget s.gangs x.gang with | some g => decide (g.state = .stopped) || decide (g.state = .halted) | none => false))

/-- Whether a core stop is due that takes a gang: on a core where one of its warps runs, or for a fault of its own (R296, R523). -/
def stopDue (s : State) (gid : Nat) : Bool :=
  s.raised.any (fun x => stopsCore s x && (decide (x.gang = gid) || (s.warpsOfGang gid).any (fun p => decide (p.2.core = x.core))))

/-- The fixed-latency instructions that a warp has issued complete: their results and SETS are written, their events counted (R358, R522). -/
def finishIssued (s : State) (w : Nat) : State :=
  match tget s.warps w with
  | none => s
  | some wp => countHealth (s.landAll w) wp.blk (Health.sum (wp.fixed.map (fun x => ⟨x.sat, x.zero⟩)))

/-- The operations, commands and rafts of a gang abandoned, and what its warps have in flight (R358, R522). NMU commands run on, and a hard fault
of one of its warps still stops its core (R523). No chunk that a CHUNK has drawn goes back (R457): no counter in memory changes. -/
def quell (s : State) (gid : Nat) : State :=
  let bs := (s.blocksOfGang gid).map (·.1)
  let rs := (s.rafts.filter (fun p => decide (p.2.gang = gid))).map (·.1)
  let stopped : Bool := match tget s.gangs gid with | some g => decide (g.state = .stopped) || decide (g.state = .halted) | none => false
  let s := bs.foldl flushHealth (((s.warpsOfGang gid).map (·.1)).foldl finishIssued s)
  let s := { s with rafts := s.rafts.filter (fun p => !rs.contains p.1),
                    raised := s.raised.filter (fun x => decide (x.gang ≠ gid) || isHard x.cause || (stopped && decide (x.cause = 0x28))),
                    warps := s.warps.map (fun p => if bs.contains p.2.blk then
                      (p.1, { p.2 with flights := [], fixed := [], handles := [], raft := none, landing := none, traps := [] }) else p) }
  let s := (tkeys s.twins).foldl (fun s t => s.modTwin t (fun x =>
    { x with ops := x.ops.filter (fun o => !rs.contains o.raft), line := x.line.filter (fun p => !rs.contains p.1),
             loads := x.loads.filter (fun l => !bs.contains l.blk) })) s
  (tkeys s.cores).foldl (fun s c => s.modCore c (dropCmds bs)) s

/-- The items that the relaunched blocks of a gang receive again (R305). -/
def itemsOf (s : State) (gid : Nat) : SMap (SMap DWord) :=
  (s.blocksOfGang gid).foldl (fun m p => tput m p.2.index (p.2.popped.foldl (fun m q => tput m q.1 q.2) p.2.again)) []

/-- A stopped or killed gang waits to be placed anew, its kill count raised (R358). -/
def queueRelaunch (s : State) (gid : Nat) : State :=
  let again := itemsOf s gid
  let s := clearGang s gid
  let s := s.modGang gid (fun g =>
    { g with state := .saved, restore := false, kills := g.kills + 1, ended := 0, fault := none,
             again := again.foldl (fun m p => tput m p.1 p.2) g.again })
  let s := resumeTwins { s with flioc := { s.flioc with resumes := s.flioc.resumes ++ [gid] } }
  match (tget s.gangs gid).bind (fun g => tget s.launches g.launch) with
  | some l => noteReady s l.queue
  | none => s

/-! ### The kill (R358, R359) -/

/-- Whether a fault of a gang in a state still counts (R296, R358). -/
def faultable (x : GangState) : Bool :=
  match x with
  | .running | .stopping | .resuming => true
  | _ => false

/-- OPERAND_FETCH_FAULT (R358): the fault of the lower core is captured, and the gang is killed, or stops with every core it occupies where its
launch is not idempotent or it has been killed eight times. A core stop that is due acts first (R523). -/
def execOperandFetchFault (gid : Nat) (s : State) : Out :=
  match tget s.gangs gid, sortBy (·.core) (s.raised.filter (fun x => decide (x.gang = gid) && decide (x.cause = 0x28))) with
  | some g, x :: _ =>
    if g.state = .stopped ∨ stopDue s gid then .refused .notEnabled
    else
      let s0 := { s with raised := s.raised.filter (fun x => !(decide (x.gang = gid) && decide (x.cause = 0x28))), uid := s.uid + 1 }
      if !faultable g.state then .next s0
      else
        match tget s.launches g.launch with
        | none => .fault .dangling
        | some l =>
          if !l.record.idem ∨ g.kills = 8 then
            let cores := ((s.blocksOfGang gid).map (fun p => p.2.core) ++ (s.warpsOfGang gid).map (fun p => p.2.core)).eraseDups
            .next ({ s0 with raised := s0.raised ++ cores.map (fun c => { x with core := c }) }.modGang gid (fun g => { g with state := .stopped }))
          else
            let r := capture s x 3 g.kills x.named (x.named.map (·.1)) [gid]
            let rs := (s.rafts.filter (fun p => decide (p.2.gang = gid))).map (·.1)
            let others := s.twins.flatMap (fun t =>
              (t.2.ops.filter (fun o => !rs.contains o.raft)).map (·.k) ++ (t.2.line.filter (fun p => !rs.contains p.1)).map (·.2))
            .next ((quell s0 gid).modGang gid (fun g => { g with state := .killing, fault := some r, awaits := others }))
  | _, _ => .refused .notEnabled

/-- The B range of a block zeroed on both cores of its twin, scales and metadata too: a write, which clears the poison of whole granules
(R359, R530). -/
def scrubB (s : State) (twin : Nat) (range : Option (Nat × Nat)) : State :=
  match range with
  | none => s
  | some (lo, hi) =>
    let mine (col : Nat) : Bool := decide (col / 64 / 2 = twin)
    let entry (k : Nat) : Bool := mine (k / 12288) && decide (lo ≤ k % 12288 * 8) && decide (k % 12288 * 8 < hi)
    let s := healEntries s (fun n _ => entry n)
    { s with mem := s.mem.filter (fun c =>
               let off := c.1 / 16 % 2 ^ 52
               !(decide (c.1 % 16 = 7) && mine (c.1 / 16 / 2 ^ 52) && decide (lo ≤ off) && decide (off < hi))),
             bscale := s.bscale.filter (fun c => !entry c.1), bmeta := s.bmeta.filter (fun c => !entry c.1),
             poison := s.poison.filter (fun g =>
               let off := g / 2 / 16 % 2 ^ 52
               !(decide (g % 2 = 0) && decide (g / 2 % 16 = 7) && mine (g / 2 / 16 / 2 ^ 52) && decide (lo ≤ off) && decide (off + 32 ≤ hi))) }

/-- GANG_SCRUB (R358, R359): after the operations that were complete before the fault, the accumulator windows and B ranges of the gang's blocks are
zeroed and everything it held is released; its record goes to the host. -/
def execGangScrub (gid : Nat) (s : State) : Out :=
  match tget s.gangs gid with
  | none => .refused .notEnabled
  | some g =>
    if g.state ≠ .killing ∨ s.twins.any (fun t => t.2.ops.any (fun o => g.awaits.contains o.k) || t.2.line.any (fun p => g.awaits.contains p.2)) = true then
      .refused .notEnabled
    else
      let rows : Nat := match tget s.launches g.launch with | some l => l.record.accr | none => 0
      let s1 := (s.blocksOfGang gid).foldl (fun s p => scrubB (clearRows s (p.2.core / 2) p.2.accBase rows) (p.2.core / 2) p.2.bRange) s
      let again := itemsOf s1 gid
      let s1 := (clearGang s1 gid).modGang gid (fun g =>
        { g with state := .reported, fault := none, awaits := [], again := again.foldl (fun m p => tput m p.1 p.2) g.again })
      .next (resumeTwins (match g.fault with | some r => handOn s1 r | none => s1))

/-! ### The core stop (R522, R523, R438) -/

/-- CORE_STOP: the core stops with every gang that has a warp on it, and a record names every warp that ran there, also those of a gang that the
stop of another core has stopped and that waits (R523: a gang on both is named in both). The fault of the lower slot gives the cause. -/
def execCoreStop (core : Nat) (s : State) : Out :=
  let mine (x : Raised) : Bool := decide (x.core = core) && stopsCore s x
  let slot (x : Raised) : Nat := match tget s.warps x.warp with | some wp => wp.slot | none => 0
  match sortBy slot (s.raised.filter mine) with
  | [] => .refused .notEnabled
  | x :: _ =>
    let stops (g : Gang) : Bool :=
      faultable g.state || decide (g.state = .stopped) || decide (g.state = .halted) || decide (g.state = .killing)
    let gs := (s.gangs.filter (fun p => stops p.2 && (decide (p.1 = x.gang) || (s.warpsOfGang p.1).any (fun q => decide (q.2.core = core))))).map (·.1)
    let ws := (gs.flatMap (fun g => (s.warpsOfGang g).filter (fun q => decide (q.2.core = core)))).map (·.1)
    let pcs := (s.raised.filter mine).map (fun y => (y.warp, y.pc))
    let r := capture s x 1 0 pcs ws gs
    let s := { s with uid := s.uid + 1, raised := s.raised.filter (fun y => !decide (y.core = core)) }
    let s := gs.foldl (fun s g => (quell s g).modGang g (fun g => { g with state := .halted, fault := none, awaits := [] })) s
    let s := s.modCore core (fun k => { k with stopped := true })
    .next (resumeTwins (handOn s r))

/-! ### Host-served faults (R524) -/

/-- HOST_SERVED_FAULT: the gang is to be saved, the faulting instructions abandoned; its record follows when it is SERVED. A core stop or a
kill of the gang that is due acts first (R296). -/
def execHostServedFault (gid : Nat) (s : State) : Out :=
  let slot (x : Raised) : Nat := match tget s.warps x.warp with | some wp => 64 * x.core + wp.slot | none => 0
  let mine (x : Raised) : Bool := decide (x.gang = gid) && isServed x.cause
  match tget s.gangs gid, sortBy slot (s.raised.filter mine) with
  | some g, x :: xs =>
    let s0 := { s with raised := s.raised.filter (fun y => !mine y), uid := s.uid + 1 }
    if stopDue s gid || s.raised.any (fun y => decide (y.gang = gid) && decide (y.cause = 0x28)) then .refused .notEnabled
    else if !faultable g.state then .next s0
    else
      let r := capture s x 2 g.kills ((x :: xs).map (fun y => (y.warp, y.pc))) ((x :: xs).map (·.warp)) [gid]
      let s1 := (x :: xs).foldl (fun s y => s.modSplit y.warp y.ent (fun sp => { sp with susp := false })) s0
      .next (s1.modGang gid (fun g => { g with state := .stopping, fault := some r }))
  | _, _ => .refused .notEnabled

/-! ### The watchdog (R528) -/

/-- One million Reach cycles, in cycles of 1.8 GHz. -/
def watchdogLimit : Nat := 3000000

/-- Whether a warp's watchdog counts: it holds a handler split, or its gang is STOPPING and something of it is still under way.
(DEDUCED, log 54.) -/
def wdogCounts (s : State) (wp : Warp) : Bool :=
  wp.inHandler ||
  (match (tget s.blocks wp.blk).bind (fun b => tget s.gangs b.gang) with
   | some g => decide (g.state = .stopping) && (!wp.flights.isEmpty || !wp.fixed.isEmpty || wp.landing.isSome ||
      wp.splits.any (·.posting))
   | none => false)

/-- WATCHDOG_EXPIRY. -/
def execWatchdogExpiry (w : Nat) (s : State) : Out :=
  match tget s.warps w with
  | none => .refused .notEnabled
  | some wp =>
    match tget s.blocks wp.blk with
    | none => .fault .dangling
    | some b =>
      if wp.wdog < watchdogLimit ∨ !wdogCounts s wp then .refused .notEnabled
      else
        let sp := match wp.splits.find? (fun sp => decide (64 < sp.ent)) with | some sp => some sp | none => wp.splits.head?
        let s := s.modWarp w (fun wp => { wp with wdog := 0 })
        let ent := match sp with | some sp => sp.ent | none => 0
        let mask := match sp with | some sp => sp.mask | none => 0
        let pc := match sp with | some sp => sp.pc | none => 0
        let x : Raised := { warp := w, ent := ent, core := wp.core, gang := b.gang, cause := 0x41, ocause := 0x41, mask := mask, pc := pc,
                            addr := 0, raddr := 0 }
        .next { s with raised := s.raised ++ [x] }

end Sys2Proof.Machine
end

