-- ==== Sys2Proof/Machine/Decide.lean ====
section
/-! DEFINITION. Saving and resuming a gang (R194, R363, R364, R437, R458 to R461), the dispatch decision (R448 to R450, R453) and the
reservation of a cluster (R454). -/
namespace Sys2Proof.Machine
open Sys2Proof

/-! ### Pre-emption -/

/-- The gangs that a pre-emption of a gang takes: itself, or every gang of a resident launch (R458). -/
def preemptSet (s : State) (gid : Nat) : List Nat :=
  match tget s.gangs gid with
  | none => []
  | some g =>
    match tget s.launches g.launch with
    | some l => if l.record.res then (s.gangs.filter (fun p => decide (p.2.launch = g.launch))).map (·.1) else [gid]
    | none => [gid]

/-- A running gang begins to stop; in any other state the request has no effect (R462). -/
def stopGang (s : State) (gid : Nat) : State :=
  s.modGang gid (fun g => if g.state = .running then { g with state := .stopping } else g)

def preempt (s : State) (gid : Nat) : State := (preemptSet s gid).foldl stopGang s

/-! ### The save (R459 to R461) -/

/-- Whether an operation of a twin's array is one that a save waits for: begun, and not an EBB, which stops between two operations. -/
def inProgress (o : ArrayOp) : Bool := o.begun && (match o.instr with | .ebb .. => false | _ => true)

/-- Whether nothing of a warp is in flight: operations that its array has not begun are kept. -/
def warpQuiet (wp : Warp) : Bool :=
  !wp.inHandler && wp.traps.isEmpty && wp.fixed.isEmpty && wp.landing.isNone &&
  wp.flights.all (fun x => match x.kind with | .tile _ => true | _ => false) && wp.splits.all (fun sp => !sp.posting)

/-- Whether a block's warps are all ending, and one of them has nothing left to wait for: the block ends rather than being saved (R462). -/
def aboutToEnd (s : State) (bid : Nat) : Bool :=
  let ws := s.warpsOfBlock bid
  ws.all (fun p => p.2.ending) && ws.any (fun p => warpDone s p.1 p.2)

/-- Whether a stopping gang may be saved. (DEDUCED, log 49.) -/
def gangQuiet (s : State) (gid : Nat) : Bool :=
  let rs := (s.rafts.filter (fun p => decide (p.2.gang = gid))).map (·.1)
  (s.warpsOfGang gid).all (fun p => warpQuiet p.2) && !(s.blocksOfGang gid).any (fun p => aboutToEnd s p.1) &&
  !s.twins.any (fun t => t.2.ops.any (fun o => rs.contains o.raft && inProgress o)) &&
  !s.cores.any (fun k => k.2.sluice.any (fun c => !c.out.isEmpty && (s.blocksOfGang gid).any (fun b => decide (b.1 = c.blk)))) &&
  !s.raised.any (fun x => decide (x.gang = gid)) && !stopDue s gid

/-- The live accumulator rows of a block kept under numbers of its own, its window given up (R175). -/
def saveRows (s : State) (bid : Nat) (b : Block) (rows : Nat) : State :=
  let twin := b.core / 2
  let keep := s.acc.filterMap (fun p =>
    let core := p.1 / 64 / 2048
    let row := p.1 / 64 % 2048
    if core / 2 = twin ∧ b.accBase ≤ row ∧ row < b.accBase + rows ∧ tgetD b.live ((row - b.accBase) / 16) false = true then
      some (savedRow bid (core % 2) (row - b.accBase) (p.1 % 64), p.2)
    else none)
  let s := clearRows s twin b.accBase rows
  { s with acc := keep.foldl (fun m p => tputD m p.1 0 p.2) s.acc }

/-- The weir slots that a block's image keeps: on any core those that guard its queued commands, which go to its new core, and those that its
warps have set, for the core of that kind (R235, R363, R435, R461). -/
def weirImage (s : State) (bid : Nat) (b : Block) : SMap Bool :=
  let named (k : Nat × Core) : List Nat := weirsOf (k.2.sluice.filter (fun c => decide (c.blk = bid)))
  let set (k : Nat × Core) (n : Nat) : Bool := match tget k.2.weirBy n with | some o => decide (o.2 = bid) | none => false
  let kind (k : Nat × Core) (n : Nat) : Nat := if (named k).contains n || (isRiffle k.1 == isRiffle b.core) then n else 32 + n
  (s.cores.flatMap (fun k => (k.2.weirs.filter (fun p => (named k).contains p.1 || set k p.1)).map (fun p => (kind k p.1, p.2)))).foldl
    (fun m p => tput m p.1 p.2) []

/-- A block saved: its commands leave the engines with their progress and weir slots, its rows are kept. (DEDUCED, log 38.) -/
def saveBlock (rows : Nat) (s : State) (p : Nat × Block) : State :=
  let (bid, b) := p
  let mine := (s.cores.flatMap (fun k => k.2.sluice)).filter (fun c => decide (c.blk = bid))
  let cmds := mine.map (fun c => { c with state := match c.state with | .started => .suspended | x => x, held := [] }) ++ b.savedCmds
  let weirs := weirImage s bid b
  let s := (tkeys s.cores).foldl (fun s c => s.modCore c (dropCmds [bid])) s
  let s := if isRiffle b.core || decide (rows = 0) then s else saveRows s bid b rows
  (flushHealth s bid).modBlock bid (fun x => { x with savedCmds := cmds, savedWeirs := weirs, bRange := none })

/-- The rafts of a gang taken from their arrays: operations complete but not begun are kept; an EBB is begun again at resume. -/
def saveRafts (s : State) (gid : Nat) : State :=
  let rs := (s.rafts.filter (fun p => decide (p.2.gang = gid))).map (·.1)
  let kept := s.twins.flatMap (fun t => t.2.ops.filter (fun o => rs.contains o.raft && !o.begun))
  let s := rs.foldl (fun s r => s.modRaft r (fun x => { x with kept := kept.filter (fun o => decide (o.raft = r)) })) s
  (tkeys s.twins).foldl (fun s t => s.modTwin t (fun x =>
    { x with ops := x.ops.filter (fun o => !rs.contains o.raft), line := x.line.filter (fun p => !rs.contains p.1) })) s

/-- The CONVENE that would form a ninth raft, the last to join one that waits for room, is abandoned without effect: its split issues it again
(R460). -/
def abandonNinth (s : State) (gid : Nat) : State :=
  (s.rafts.filter (fun p => decide (p.2.gang = gid) && !p.2.formed && decide (p.2.joiners.length = p.2.size))).foldl (fun s p =>
    match p.2.joiners.getLast? with
    | none => s
    | some m =>
      let s := s.modWarp m.warp (fun wp =>
        ({ wp with raft := none }.modSplit m.ent (fun sp => { sp with wait := none })).decCtr (fctr m.fr))
      if p.2.joiners.length = 1 then { s with rafts := tdel s.rafts p.1 }
      else s.modRaft p.1 (fun r => { r with joiners := r.joiners.dropLast })) s

/-- GANG_SAVE (R459): results are written, what a WAITV has read is forgotten, so that its words are all read again (R460), the L1s of its cores are written back, and what the image holds is kept; a served gang's record goes to
the host (R524), any other gang waits for resume. -/
def execGangSave (gid : Nat) (s : State) : Out :=
  match tget s.gangs gid with
  | none => .refused .notEnabled
  | some g =>
    match tget s.launches g.launch with
    | none => .fault .dangling
    | some l =>
      if g.state ≠ .stopping ∨ !gangQuiet s gid then .refused .notEnabled
      else
        let s := abandonNinth s gid
        let ws := s.warpsOfGang gid
        let cores := ((s.blocksOfGang gid).map (fun p => p.2.core) ++ ws.map (fun p => p.2.core)).eraseDups
        let s := ws.foldl (fun s p => (s.landAll p.1).modWarp p.1 (fun wp =>
          { wp with wdog := 0, splits := wp.splits.map (fun sp => { sp with got := [] }) })) s
        let s := cores.foldl writeBackAll s
        let s := saveRafts ((s.blocksOfGang gid).foldl (saveBlock l.record.accr) s) gid
        let names := ws.map (·.1)
        let s := cores.foldl (fun s c => s.modCore c (fun k =>
          { k with latch := k.latch.map (fun p => (p.1, p.2.filter (fun x => !names.contains x.warp))) })) s
        let done (s : State) : State := resumeTwins (cores.foldl (fun s c => restCore s c gid) s)
        match g.fault with
        | some r => .next (done (handOn (s.modGang gid (fun g => { g with state := .served, restore := true, fault := none })) r)).bump
        | none =>
          let s := s.modGang gid (fun g => { g with state := .saved, restore := true })
          .next (noteReady (done { s with flioc := { s.flioc with resumes := s.flioc.resumes ++ [gid] } }) l.queue).bump

/-! ### The resume (R194, R364, R459) -/

/-- The twin of a raft: that of its first member, or of its first joiner. -/
def raftTwin (s : State) (r : Raft) : Nat :=
  match r.members ++ r.joiners.map (·.warp) with
  | w :: _ => (match tget s.warps w with | some wp => wp.core / 2 | none => r.twin)
  | [] => r.twin

/-- The rafts of a resumed gang stand on their new twins; none where a twin would hold more than eight. -/
def reseatRafts (s : State) (gid : Nat) : Option State :=
  let rs := s.rafts.filter (fun p => decide (p.2.gang = gid))
  let s := rs.foldl (fun s p => s.modRaft p.1 (fun r => { r with twin := raftTwin s r })) s
  if rs.all (fun p => decide ((raftsOn s (raftTwin s p.2)).length ≤ 8)) then some s else none

/-- Kept operations re-enter their arrays, and those that every member had issued line up again. -/
def restartRafts (s : State) (gid : Nat) : State :=
  let rs := s.rafts.filter (fun p => decide (p.2.gang = gid) && p.2.formed)
  rs.foldl (fun s p =>
    let (rid, r) := p
    let ks := r.kept.map (·.k)
    let kept := r.kept.map (fun a => { a with seen := seenBy s r a.instr, held := [] })
    let s := (s.modTwin r.twin (fun t => { t with ops := t.ops ++ kept })).modRaft rid (fun r => { r with kept := [] })
    let again := r.ops.filter (fun o => decide (o.issued.length = r.members.length) && !ks.contains o.k &&
      o.issued.all (fun m => match (tget s.warps m.warp).bind (·.split? m.ent) with
        | some sp => (match sp.wait with | some (.op _ true _) => true | _ => false)
        | none => false))
    again.foldl (fun s o => lineUp s rid o.k r.twin) s) s

/-- The retained loads of a gang's blocks made again: an error is an operand-fetch fault, taken from RESUMING. (DEDUCED, log 39.) They read
memory unprivileged, and the fault names the block's first warp, since R194 keeps neither who issued a load nor from where.
(DESIGN CHOICE, log 100.) -/
def reloadBlocks (gid : Nat) : List (Nat × Block) → State → State × Bool
  | [], s => (s, true)
  | (bid, b) :: r, s =>
    match engOf s bid false b.core false with
    | none => reloadBlocks gid r s
    | some e =>
      match reload bid (b.core / 2) e b.bsloads s with
      | (s, none) => reloadBlocks gid r s
      | (s, some (cause, va, rec_)) =>
        let w := ((s.warpsOfBlock bid).map (·.1)).headD 0
        (raiseFetch s w 0 b.core gid cause va rec_ (s.pcOf w 0), false)

/-- What a gang that waits to be placed again comes as: a saved one from its image, a killed one anew (R295, R358). -/
def comingOf (gid : Nat) (g : Gang) : Coming := if g.restore then .saved gid else .anew gid g

/-- A gang placed again goes on: a saved one once its rafts and its loads stand (R194, R459). It waits no more. -/
def goOn (gid : Nat) (g : Gang) (s : State) : Option State :=
  let off (s : State) : State := { s with flioc := { s.flioc with resumes := s.flioc.resumes.filter (fun x => decide (x ≠ gid)) } }
  if !g.restore then some (off s)
  else
    match reseatRafts s gid with
    | none => none
    | some s =>
      match reloadBlocks gid (s.blocksOfGang gid) s with
      | (s, false) => some (off s)
      | (s, true) => some (off (restartRafts (s.modGang gid (fun g => { g with state := .running, restore := false })) gid))

/-- Gangs of one launch that wait to be placed again, all placed, or none: one at a place of free choice, those of a resident launch together
(R303). -/
def replaceAll (l : List Nat) (s : State) : Option State :=
  let gs := l.filterMap (fun g => (tget s.gangs g).map (fun x => (g, x)))
  match gs with
  | [] => none
  | (gid, g) :: rest =>
    match tget s.launches g.launch with
    | none => none
    | some k =>
      let world := match tget s.ctxs k.asid with | some x => x.world | none => false
      let xs := gs.map (fun p => comingOf p.1 p.2)
      let placed := if rest = [] then placeGang s g.launch k world (comingOf gid g) else placeAll s g.launch k world xs
      gs.foldl (fun (o : Option State) p => o.bind (goOn p.1 p.2)) placed

/-! ### DISPATCH_DECISION (R448 to R450, R453) -/

/-- The gangs that go together when a queue's first waiting gang is placed again: a resident launch is resumed whole (R303), once none of its
gangs is still stopping. -/
def resumeSet (s : State) (gid : Nat) : Option (List Nat) :=
  match tget s.gangs gid with
  | none => some [gid]
  | some g =>
    match tget s.launches g.launch with
    | none => some [gid]
    | some l =>
      if l.record.res then
        let gs := s.gangs.filter (fun p => decide (p.2.launch = g.launch))
        if gs.any (fun p => decide (p.2.state = .stopping)) then none
        else some (s.flioc.resumes.filter (fun x => gs.any (fun p => decide (p.1 = x))))
      else some [gid]

/-- What a queue's turn places: a waiting gang first, then the head launch's next gang, or all of a resident launch; none where it does not fit. -/
def serveQueue (s : State) (qn : Nat) : Option State :=
  match resumesOf s qn with
  | g :: _ => (resumeSet s g).bind (fun l => replaceAll l s)
  | [] =>
    match readyLaunches s qn with
    | [] => none
    | (lid, l) :: _ =>
      let world := match tget s.ctxs l.asid with | some x => x.world | none => false
      let n := localGangs l.record
      if l.record.res then
        (placeAll s lid l world ((upto n).map Coming.fresh)).map (fun s => s.modLaunch lid (fun l => { l with nextGang := n, state := .placed }))
      else
        (placeGang s lid l world (.fresh l.nextGang)).map (fun s => s.modLaunch lid (fun l =>
          { l with nextGang := l.nextGang + 1, state := if l.nextGang + 1 = n then .placed else l.state }))

/-- The stride of a queue (R449). -/
def stride (tkt : Nat) : Nat := 2 ^ 24 / max 1 tkt

/-- A queue served: its PASS moves on, its WT and its reservation end. Where it was the last of its class that was ready, the class's time is
the PASS that it held before (R450). -/
def charge (s : State) (qn : Nat) : State :=
  let q := s.queue qn
  let ready := queueReady s qn
  let s := (keepTime s q.cls).modQueue qn (fun q => { q with pass := q.pass + stride q.tkt, wt := 0, wasReady := ready })
  { s with flioc := { s.flioc with
    last := setAt s.flioc.last q.cls (fun _ => q.pass),
    reserve := s.flioc.reserve.filter (fun p => decide (p.2 ≠ qn)),
    whole := if s.flioc.whole = some qn then none else s.flioc.whole } }

/-- The queues of a class tried in the order of PASS and number: those that cannot place are passed over (R449). -/
def tryQueues : List Nat → State → State × Option Nat
  | [], s => (s, none)
  | q :: r, s =>
    match serveQueue s q with
    | some s => (charge s q, some q)
    | none => tryQueues r (s.modQueue q (fun x => { x with wt := min 127 (x.wt + 1) }))

/-- The classes tried in turn, up to the first that places. -/
def tryClasses : List Nat → State → State × Option Nat
  | [], s => (s, none)
  | c :: r, s =>
    match tryQueues ((sortBy (fun p => p.2.pass) (readyQueues s c)).map (·.1)) s with
    | (s, some _) => (s, some c)
    | (s, none) => tryClasses r s

/-! ### CLUSTER_RESERVATION (R454) -/

/-- The head of a queue: a gang that waits to be placed again, or the head launch with its next gang. -/
inductive Head where
  | again (gid : Nat)
  | launch (lid : Nat) (l : Launch)
  | none

def headOf (s : State) (qn : Nat) : Head :=
  match resumesOf s qn with
  | g :: _ => .again g
  | [] => match readyLaunches s qn with | (lid, l) :: _ => .launch lid l | [] => .none

/-- Whether the head gang of a queue fits on the cores of some clusters in a state; `anew` asks after a place for all that its launch declares. -/
def headFits (s : State) (qn : Nat) (anew : Bool) (within : Nat → Bool) : Bool :=
  let world (l : Launch) : Bool := match tget s.ctxs l.asid with | some x => x.world | none => false
  let bases (l : Launch) : List Nat := (basesOf l.record).filter (fun c => within (clusterOf c))
  match headOf s qn with
  | .launch lid l => (bases l).any (fun c => (placeAt s lid l (world l) (.fresh l.nextGang) c).isSome)
  | .again gid =>
    (match tget s.gangs gid with
     | none => false
     | some g =>
       match tget s.launches g.launch with
       | none => false
       | some l => (bases l).any (fun c => (placeAt s g.launch l (world l) (if anew then .anew gid g else comingOf gid g) c).isSome))
  | .none => false

/-- The launch at the head of a queue. -/
def headLaunch (s : State) (qn : Nat) : Option Launch :=
  match headOf s qn with
  | .launch _ l => some l
  | .again gid => (tget s.gangs gid).bind (fun g => tget s.launches g.launch)
  | .none => none

/-- A state in which some gangs hold no place. -/
def without (s : State) (gs : List Nat) : State :=
  gs.foldl (fun s g => s.modGang g (fun x => { x with state := .saved })) s

/-- Whether the head of a queue can be placed on some clusters in a state: its gang, or all of a resident launch (R454). -/
def headPlaces (s : State) (qn : Nat) (whole : Bool) (within : Nat → Bool) : Bool :=
  if whole then (serveQueue s qn).isSome else headFits s qn false within

/-- The shortest prefix of a list of gangs without which the head of a queue can be placed, or all of them; those that are stopping already
hold no place for long. -/
def victims (s : State) (qn : Nat) (whole : Bool) (within : Nat → Bool) (l : List Nat) : List Nat :=
  let s := without s ((s.gangs.filter (fun p => decide (p.2.state = .stopping))).map (·.1))
  match (upto (l.length + 1)).find? (fun n => headPlaces (without s (l.take n)) qn whole within) with
  | some n => l.take n
  | none => l

/-- The running gangs of lower classes on some clusters, lowest class first and latest placed first. -/
def lowerGangs (s : State) (cls : Nat) (within : Nat → Bool) : List Nat :=
  let clsOf (g : Gang) : Nat := match tget s.launches g.launch with | some k => k.record.cls | none => 0
  let gs := s.gangs.filter (fun p => decide (p.2.state = .running) && within (clusterOf p.2.core) && decide (cls < clsOf p.2))
  (sortBy (fun p => (4 - clsOf p.2) * 2 ^ 64 + (2 ^ 64 - 1 - p.2.placed)) gs).map (·.1)

/-- The state after a queue whose WT has reached 64 has made its reservation: a cluster that, empty, holds the head gang, or the whole device for a
resident launch; a cluster holds at most one reservation. Gangs of lower classes there are pre-empted until the head can be placed, also later
while the reservation stands. None where nothing changes. (DEDUCED, log 70.) -/
def reserved (s : State) (qn : Nat) : Option State :=
  let q := s.queue qn
  match headLaunch s qn with
  | none => none
  | some l =>
    let take (whole : Bool) (within : Nat → Bool) (s : State) : State :=
      (victims s qn whole within (lowerGangs s q.cls within)).foldl preempt s
    let more (whole : Bool) (within : Nat → Bool) : Option State :=
      if victims s qn whole within (lowerGangs s q.cls within) = [] then none else some (take whole within s)
    if s.flioc.whole = some qn then more l.record.res (fun _ => true)
    else
      match s.flioc.reserve.find? (fun p => decide (p.2 = qn)) with
      | some p => more false (fun d => decide (d = p.1))
      | none =>
        if q.wt < 64 ∨ s.flioc.whole.isSome then none
        else if l.record.res then
          if s.flioc.reserve = [] then some (take true (fun _ => true) { s with flioc := { s.flioc with whole := some qn } }) else none
        else
          let empty := { emptied s with gangs := s.gangs.map (fun p => (p.1, { p.2 with state := .saved })) }
          let free := (upto 128).filter (fun c => (tget s.flioc.reserve c).isNone && headFits empty qn true (fun d => decide (d = c)))
          (free[Config.freePick s.free 12 % free.length]?).map (fun c =>
            take false (fun d => decide (d = c)) { s with flioc := { s.flioc with reserve := tput s.flioc.reserve c qn } })

/-- CLUSTER_RESERVATION. -/
def execClusterReservation (qn : Nat) (s : State) : Out :=
  match reserved s qn with
  | none => .refused .notEnabled
  | some s => .next s.bump

/-! ### DISPATCH_DECISION -/

/-- DISPATCH_DECISION: a class that has starved takes the decision first (R448); a reservation that is due is made before (R454). -/
def execDispatchDecision (s : State) : Out :=
  let ready (c : Nat) : Bool := !(readyQueues s c).isEmpty
  let all := upto 5
  if !all.any ready || s.queues.any (fun p => (reserved s p.1).isSome) then .refused .notEnabled
  else
    let starved := all.filter (fun c => ready c && decide (4096 ≤ s.flioc.since.getD c 0))
    let order := starved.take 1 ++ all.filter (fun c => !(starved.take 1).contains c)
    let (s1, served) := tryClasses order s
    let since := all.map (fun c => if served = some c ∨ !ready c then 0 else s.flioc.since.getD c 0 + 1)
    .next { s1 with flioc := { s1.flioc with since := since } }.bump

end Sys2Proof.Machine
end

