-- ==== Sys2Proof/Machine/Logic.lean ====
section
/-! DEFINITION. Logic, shifts and bit fields: opcodes 0x20 to 0x2D (R120 to R126). -/
namespace Sys2Proof.Machine
open Sys2Proof

/-- The shape of the two-operand instructions with forms s and l. -/
def logicOp (f : Fr) (d a : Reg) (b : Src) (v : Word → Word → Word) (s : State) : Out :=
  intOp f (nameD d (reg1 a) (src1 b) none) d (fun c t => v (c.reg a.toNat t) (c.val b t)) s

/-- AND, OR, XOR, ANDN (R121). -/
def execAnd (f : Fr) (d a : Reg) (b : Src) (s : State) : Out := logicOp f d a b (fun x y => x &&& y) s
/-- OR (R121). -/
def execOr (f : Fr) (d a : Reg) (b : Src) (s : State) : Out := logicOp f d a b (fun x y => x ||| y) s
/-- XOR (R121). -/
def execXor (f : Fr) (d a : Reg) (b : Src) (s : State) : Out := logicOp f d a b (fun x y => x ^^^ y) s
/-- ANDN (R121). -/
def execAndn (f : Fr) (d a : Reg) (b : Src) (s : State) : Out := logicOp f d a b (fun x y => x &&& ~~~y) s

/-- SHL, SHR, SAR, ROT (R122). -/
def shlVal (x k : Word) : Word := if 32 ≤ k.toNat then 0 else x <<< k.toNat
def shrVal (x k : Word) : Word := if 32 ≤ k.toNat then 0 else x >>> k.toNat
def sarVal (x k : Word) : Word := x.sshiftRight (min k.toNat 32)
def rotVal (x k : Word) : Word := x.rotateLeft (k.toNat % 32)
/-- SHL (R122). -/
def execShl (f : Fr) (d a : Reg) (b : Src) (s : State) : Out := logicOp f d a b shlVal s
/-- SHR (R122). -/
def execShr (f : Fr) (d a : Reg) (b : Src) (s : State) : Out := logicOp f d a b shrVal s
/-- SAR (R122). -/
def execSar (f : Fr) (d a : Reg) (b : Src) (s : State) : Out := logicOp f d a b sarVal s
/-- ROT (R122). -/
def execRot (f : Fr) (d a : Reg) (b : Src) (s : State) : Out := logicOp f d a b rotVal s

/-- POPC, CLZ, BREV (R123). -/
def popcVal (x : Word) : Word := BitVec.ofNat 32 ((upto 32).countP (fun i => x.getLsbD i))
def clzVal (x : Word) : Word := if x = 0 then 32 else BitVec.ofNat 32 (31 - x.toNat.log2)
def brevVal (x : Word) : Word := maskOf ((upto 32).filter (fun i => x.getLsbD (31 - i)))
/-- POPC (R123). -/
def execPopc (f : Fr) (d a : Reg) (s : State) : Out := intOp f (nameD d (reg1 a) none none) d (fun c t => popcVal (c.reg a.toNat t)) s
/-- CLZ (R123). -/
def execClz (f : Fr) (d a : Reg) (s : State) : Out := intOp f (nameD d (reg1 a) none none) d (fun c t => clzVal (c.reg a.toNat t)) s
/-- BREV (R123). -/
def execBrev (f : Fr) (d a : Reg) (s : State) : Out := intOp f (nameD d (reg1 a) none none) d (fun c t => brevVal (c.reg a.toNat t)) s

/-- Position and length of a field, each clamped to 32 (R124). -/
def fieldPos (b : Word) : Nat := min (b.toNat % 256) 32
def fieldLen (b : Word) : Nat := min (b.toNat / 256 % 256) 32

/-- BFX (R124). -/
def bfxVal (sx : Bool) (a b : Word) : Word :=
  let len := fieldLen b
  let x : DWord := if sx then a.signExtend 64 else a.zeroExtend 64
  let v := x.toNat / 2 ^ fieldPos b % 2 ^ len
  if len = 0 then 0
  else if sx && decide (2 ^ (len - 1) ≤ v) then wordOf ((v : Int) - 2 ^ len) else BitVec.ofNat 32 v
/-- BFX (R124). -/
def execBfx (f : Fr) (d : Reg) (a b : Src) (sx : Bool) (s : State) : Out :=
  intOp f (nameD d (src1 a) (src1 b) none) d (fun c t => bfxVal sx (c.val a t) (c.val b t)) s

/-- BFI (R125). -/
def bfiVal (a b c : Word) : Word :=
  let m : Word := BitVec.ofNat 32 ((2 ^ fieldLen b - 1) * 2 ^ fieldPos b)
  (c &&& ~~~m) ||| (BitVec.ofNat 32 (a.toNat % 2 ^ fieldLen b * 2 ^ fieldPos b) &&& m)
/-- BFI (R125). -/
def execBfi (f : Fr) (d : Reg) (a b c3 : Src) (s : State) : Out :=
  intOp f (nameD d (src1 a) (src1 b) (src1 c3)) d (fun c t => bfiVal (c.val a t) (c.val b t) (c.val c3 t)) s

/-- LOP3 (R126): bit k of the table for the bits of A, B and C. -/
def lop3Val (tt : BitVec 8) (a b c : Word) : Word :=
  maskOf ((upto 32).filter (fun i => tt.getLsbD ((a.getLsbD i).toNat + 2 * (b.getLsbD i).toNat + 4 * (c.getLsbD i).toNat)))
/-- LOP3 (R126). -/
def execLop3 (f : Fr) (d : Reg) (a b c3 : Src) (tt : BitVec 8) (s : State) : Out :=
  intOp f (nameD d (src1 a) (src1 b) (src1 c3)) d (fun c t => lop3Val tt (c.val a t) (c.val b t) (c.val c3 t)) s

end Sys2Proof.Machine
end

