-- ==== Sys2Proof/Machine/NearUnit.lean ====
section
/-! DEFINITION. The near-memory units at work: starting and dividing a command, its granules, and its completion (R237 to R243, R336,
R337, R464 to R471). -/
namespace Sys2Proof.Machine
open Sys2Proof

/-! ### The plan of a command: its primary span and the spans that it names -/

/-- Elements of a block or group of a format code, one for an unscaled format. -/
def nmGroup (fmt grp : Nat) : Nat := if fmt < 10 then 1 else if fmt < 16 then 32 else 32 * 2 ^ grp

/-- Storage bits of a format code. -/
def nmBits (fmt : Nat) : Nat := storeBits ((codeElem fmt).getD .f32)

/-- Whether a format code is MXFP6. -/
def nmMx6 (fmt : Nat) : Bool := decide (fmt = 12 ∨ fmt = 13)

/-- Bytes of `n` elements of a format. -/
def nmBytes (fmt n : Nat) : Nat := if nmMx6 fmt then (n + 511) / 512 * 384 else (n * nmBits fmt + 7) / 8

/-- Whether an address may start a span of a format: a whole element, block, group or plane unit (R24, R216). -/
def nmAligned (va fmt grp : Nat) : Bool :=
  if nmMx6 fmt then decide (va % 128 = 0)
  else decide (va % max 1 (nmGroup fmt grp * nmBits fmt / 8) = 0)

/-- A run of a format that may start within a line. -/
def nmEnd (va fmt grp n : Nat) : End :=
  if fmt < 10 ∨ nmMx6 fmt then runEnd va fmt grp n
  else
    let pad := va % 128 * 8 / nmBits fmt
    { h := { (runEnd (va - va % 128) fmt grp n).h with ext := [pad + n] }, org := [pad], flume := none }

/-- A command divided: the primary address, the elements that go together with their bytes there, elements in all, and the spans with their
bytes; the spans that it writes, each with an address and the elements that take so many bytes there; `single` where the command is one
part (R466); `tail` where its last element stands for what it does once every line is written. -/
structure NmPlan where
  prim : Nat
  unit : Nat
  ub : Nat
  total : Nat
  spans : List (Nat × Nat)
  dests : List (Nat × Nat × Nat)
  single : Bool
  tail : Bool

/-- Elements of a format that take whole bytes together, or whole lines, and those bytes. -/
def nmRun (fmt : Nat) : Nat × Nat := if nmMx6 fmt then (512, 384) else if nmBits fmt = 4 then (2, 1) else (1, nmBits fmt / 8)

/-- The plan of elements that are written to one span: a block or plane unit goes together. -/
def linePlan (va fmt grp n : Nat) (spans : List (Nat × Nat)) : NmPlan :=
  let d := [(va, nmRun fmt)]
  if nmMx6 fmt then ⟨va, 512, 384, n, spans, d, false, false⟩
  else
    let g := nmGroup fmt grp
    ⟨va, g, g * nmBits fmt / 8, n, spans, d, false, false⟩

/-- Bytes of the argument record (R238). -/
def nmArgBytes (code : Nat) : Nat :=
  if code = 1 ∨ code = 2 then 64 else if code = 3 then 24 else if code = 4 ∨ code = 5 ∨ code = 11 then 16 else if code = 7 then 40 else 0

/-- Address `i` of an argument record, and its word at an offset. -/
def argAddr (bs : List Byte) (i : Nat) : Nat := fieldAt bs (8 * i) 8
def argWord (bs : List Byte) (o : Nat) : Word := BitVec.ofNat 32 (fieldAt bs o 4)

/-- The plan of a command whose word the unit accepts; none where the record's fields are refused (R239, R7).
(DESIGN CHOICE, log 56.) -/
def nmPlan (w : BitVec 128) (bs : List Byte) : Option NmPlan :=
  let n := nmCnt w
  let fmt := nmFmt w
  let a := argAddr bs
  let gfmt := if nmFl w % 2 = 1 then 1 else 0
  let check (b : Bool) (p : NmPlan) : Option NmPlan := if b then some p else none
  let weight : List (Nat × Nat) := if a 4 = 0 then [] else [(a 4, 2 * n)]
  let weightAt : List (Nat × Nat × Nat) := if a 4 = 0 then [] else [(a 4, 1, 2)]
  match nmCode w with
  | 0x01 =>
    check (decide (fieldAt bs 56 4 ≠ 0) && nmAligned (a 0) 0 0 && nmAligned (a 1) gfmt 0 && nmAligned (a 2) 15 0 && nmAligned (a 3) 15 0 &&
        nmAligned (a 4) 1 0)
      ⟨a 0, 32, 128, n, [(a 0, 4 * n), (a 1, nmBytes gfmt n), (a 2, n), (a 3, n)] ++ weight,
       [(a 0, 1, 4), (a 2, 1, 1), (a 3, 1, 1)] ++ weightAt, false, false⟩
  | 0x02 =>
    check (decide (a 3 = 0) && decide (fieldAt bs 48 8 = 0) && nmAligned (a 0) 0 0 && nmAligned (a 1) gfmt 0 && nmAligned (a 2) fmt 0 &&
        nmAligned (a 4) 1 0)
      ⟨a 0, nmGroup fmt 0, 4 * nmGroup fmt 0, n, [(a 0, 4 * n), (a 1, nmBytes gfmt n), (a 2, nmBytes fmt n)] ++ weight,
       [(a 0, 1, 4), (a 2, nmRun fmt)] ++ weightAt, false, false⟩
  | 0x03 =>
    let g := if nmMx6 fmt then 512 else if fmt < 10 then 8 else 64
    check (nmAligned (a 0) fmt 0 && nmAligned (a 1) fmt 0)
      ⟨a 0, g, if nmMx6 fmt then 384 else g * nmBits fmt / 8, n, [(a 0, nmBytes fmt n), (a 1, nmBytes fmt (n / 2)), (a 2, n / 8)],
       [(a 1, 2 * (nmRun fmt).1, (nmRun fmt).2), (a 2, 8, 1)], false, false⟩
  | 0x04 => check (nmAligned (a 0) fmt 0 && nmAligned (a 1) 0 0) (linePlan (a 1) 0 0 n [(a 1, 4 * n), (a 0, nmBytes fmt n)])
  | 0x05 => some (linePlan (a 1) 8 0 n [(a 1, n), (a 0, n)])
  | 0x06 => some (linePlan (nmArg w) 8 0 n [(nmArg w, n)])
  | 0x07 =>
    let e := fieldAt bs 32 4
    check (decide (a 2 % 4 = 0) && decide (a 3 % 4 = 0) && decide (fieldAt bs 36 4 = 0))
      ⟨a 1, 1, 1, 256 * e + 1, [(a 1, 256 * e), (a 0, n * e), (a 2, 4), (a 3, 4)], [(a 1, 1, 1)], true, true⟩
  | 0x0B =>
    let sf := nmAux w % 32
    check (nmAligned (a 0) sf (nmAux w / 32) && nmAligned (a 1) fmt (nmGrp w))
      (linePlan (a 1) fmt (nmGrp w) n [(a 1, nmBytes fmt n), (a 0, nmBytes sf n)])
  | 0x0C => some ⟨nmArg w, 1, 65536, n, [(nmArg w, (65536 + 16) * n)], [], false, false⟩
  | k => some ⟨nmArg w, 1, 16, 1, [(nmArg w, if k = 8 then 4 else if k = 9 then 8 else 16)], [], true, false⟩

/-- The 64 KiB blocks of a span. -/
def blocksOf (va n : Nat) : List Nat :=
  if n = 0 then [] else (upto ((va + n - 1) / 65536 - va / 65536 + 1)).map (fun i => va / 65536 * 65536 + 65536 * i)

/-- Whether a span reaches anything but local HBM4E: another window, or a frame of another kind (R464). An empty span stands where its first
byte would. -/
def nmOutside (s : State) (x : Agent) (va n : Nat) : Bool :=
  (blocksOf va (max 1 n)).any (fun a =>
    match windowOf a with
    | none => false
    | some .glob => (match leafAt s x a with | some e => decide (fld e.leaf 52 4 ≠ 0) | none => false)
    | some _ => true)

/-- An NCOPY that the pages refuse: on scaled pages it takes whole lines, and a scaled source a scaled destination (R238, R241). -/
def copyRefused (s : State) (x : Agent) (src dst n : Nat) : Bool :=
  let sc (a : Nat) : Option Bool := (leafAt s x a).map (·.scaled)
  (decide (n % 128 ≠ 0) && (blocksOf dst n).any (fun a => sc a = some true)) ||
  (blocksOf src n).any (fun a =>
    sc a = some true &&
    (decide (src % 128 ≠ 0) || decide (dst % 128 ≠ 0) || decide (n % 128 ≠ 0) ||
     (let lo := max a src
      let hi := min (a + 65536) (src + n)
      (blocksOf (dst + (lo - src)) (hi - lo)).any (fun d => sc d = some false))))

/-- The engine that a command's accesses are made as: the issuing context's tables, at the home (R336, R464). -/
def nmEng (s : State) (c : NmCmd) : Option Eng :=
  (tget s.ctxs c.asid).map (fun k =>
    { asid := c.asid, world := k.world, troot := k.troot, priv := c.priv, blk := 0, blkCore := 0, gang := 0, lrec := parseRecord [],
      cluster := 128, l1 := none })

/-- STATUS and DETAIL of an access that fails (R237, R464). -/
def nmStatus (k : EngErr) : Nat × Nat :=
  match k with
  | .stop _ => (2, 0x09)
  | .fault 0x40 _ => (4, 0)
  | .fault c _ => (2, c)

/-! ### The start of a command: the record read, the parts formed (R466) -/

/-- The address at which the unit of element `i` stands. -/
def NmPlan.addrOf (p : NmPlan) (i : Nat) : Nat := p.prim + i / p.unit * p.ub

/-- The first element after `i` that a granule or a part leaves to the next: units that lie whole within the line of element `i`, or one unit;
units that begin within its 64 KiB block: one that lies in two goes with the part in which it begins. (DESIGN CHOICE, log 56.) -/
def NmPlan.lineCut (p : NmPlan) (i : Nat) : Nat :=
  max (i / p.unit + 1) ((p.addrOf i / 128 * 128 + 128 - p.prim) / p.ub) * p.unit
def NmPlan.blockCut (p : NmPlan) (i : Nat) : Nat :=
  max (i / p.unit + 1) ((p.addrOf i / 65536 * 65536 + 65536 - p.prim + p.ub - 1) / p.ub) * p.unit

/-- One part from an element on: its 64 KiB block, or its end where that has no translation; what the page allows is tested line by line. -/
def nmPart (s : State) (x : Agent) (p : NmPlan) (first count : Nat) : NmPart :=
  let va := p.addrOf first
  let ended (st d : Nat) : NmPart := ⟨0, first, count, none, 0, [], true, true, st, d⟩
  match leafAt s x va with
  | none => ended 2 (match translate s x va .read with | .error k => k | .ok _ => 0x20)
  | some e =>
    match e.loc va with
    | .hbm a => ⟨a / 65536, first, count, none, 0, [], false, false, 0, 0⟩
    | _ => ended 1 0

/-- The parts of a plan from an element on, at most `fuel`. -/
def nmPartsFrom (s : State) (x : Agent) (p : NmPlan) : Nat → Nat → List NmPart
  | 0, _ => []
  | fuel + 1, i =>
    if p.total ≤ i then []
    else
      let j := min p.total (p.blockCut i)
      nmPart s x p i (j - i) :: nmPartsFrom s x p fuel j

/-- The parts of a plan. -/
def nmParts (s : State) (x : Agent) (p : NmPlan) : List NmPart :=
  if p.total = 0 then []
  else if p.single then [nmPart s x p 0 p.total]
  else nmPartsFrom s x p ((p.total + p.unit) / p.unit * p.ub / 65536 + 2) 0

/-- A command that has ended as one part. -/
def NmCmd.over (c : NmCmd) (st d : Nat) : NmCmd := { c with started := true, parts := [⟨0, 0, 0, none, 0, [], true, true, st, d⟩] }

/-- The physical bytes that spans name in HBM4E. -/
def nmNames (s : State) (x : Agent) (spans : List (Nat × Nat)) : List (Nat × Nat) :=
  spans.flatMap (fun q => (blocksOf q.1 q.2).filterMap (fun b =>
    let lo := max b q.1
    match (leafAt s x lo).map (fun (e : TlbEntry) => e.loc lo) with
    | some (.hbm a) => some (a, a + (min (b + 65536) (q.1 + q.2) - lo))
    | _ => none))

/-- A command read and divided. -/
def nmStart (s : State) (c : NmCmd) : NmCmd :=
  match nmEng s c, tget s.ctxs c.asid with
  | some e, some k =>
    let x := e.agent s
    let w := c.word
    let n := nmArgBytes (nmCode w)
    if !nmOk s k.world w || nmOutside s x (nmArg w) n then c.over 1 0
    else
      match engSpan s e (spanLines (nmArg w) n) (nmArg w) n with
      | .error f => let (st, d) := nmStatus f; c.over st d
      | .ok bs =>
        match nmPlan w bs with
        | none => c.over 1 0
        | some p =>
          if p.spans.any (fun q => nmOutside s x q.1 q.2) then c.over 1 0
          else if nmCode w = 5 && copyRefused s x (argAddr bs 0) (argAddr bs 1) (nmCnt w) then c.over 1 0
          else { c with started := true, arg := bs, words := nmNames s x ((nmArg w, n) :: p.spans), parts := nmParts s x p }
  | _, _ => c.over 2 0x20

/-! ### Granules -/

/-- What a granule comes to: done at once, with its health events and results; worked out, to be written line by line; or its part's end
with a status. -/
inductive NmGran where
  | ok (s : State) (ev : Health) (res : Option (Word × Word))
  | puts (l : List Put) (ev : Health)
  | bad (s : State) (status detail : Nat) (res : Option (Word × Word))

def nmBad (s : State) (k : EngErr) : NmGran := let (st, d) := nmStatus k; .bad s st d none

/-- The access that writes a line. -/
def lineAcc (s : State) (e : Eng) (x : LinePut) : EngM Acc := engAcc s e .write (decide (x.smask ≠ 0)) x.va 128

/-- A line and its side slot written as one unit (R337): what it does not change stays as the home holds it (R471). -/
def putLine (e : Eng) (x : LinePut) (s : State) : EngM State :=
  match lineAcc s e x with
  | .error k => .error k
  | .ok a =>
    let new := (BitVec.ofNat 1024 (ofBytes (s.bytes a.loc 128)) &&& ~~~x.mask) ||| x.data
    let put (s : State) (i : Nat) : State :=
      let m : BitVec 256 := x.mask.extractLsb' (256 * i) 256
      let bs := toBytes 32 (new.extractLsb' (256 * i) 256).toNat
      if m = BitVec.allOnes 256 then homeWrite s (a.loc.add (32 * i)) bs
      else if m = 0 then s else s.setBytes (a.loc.add (32 * i)) bs
    let s := (upto 4).foldl put s
    .ok (if x.smask = 0 then s
         else homeSlotPart s a.loc (if x.smask = BitVec.allOnes 256 then BitVec.allOnes 13 else 0) ((s.slotAt a.loc &&& ~~~x.smask) ||| x.sdata))

/-- Lines up to the first that cannot be written, in ascending address, and why it cannot. -/
def soundLines (s : State) (e : Eng) : List LinePut → List LinePut × Option EngErr
  | [] => ([], none)
  | x :: r =>
    match lineAcc s e x with
    | .error k => ([], some k)
    | .ok _ => let (l, k) := soundLines s e r; (x :: l, k)

/-- A rounding mode of R38 by its code. -/
def rndOfCode (k : Nat) : Rnd := [Rnd.rne, .rz, .rup, .rdn, .rna, .sr].getD k .rne

/-- FP32 words of a span. -/
def readWords (s : State) (e : Eng) (va n : Nat) : EngM (List Word) :=
  match engSpan s e (spanLines va (4 * n)) va (4 * n) with
  | .error k => .error k
  | .ok bs => .ok ((upto n).map (fun i => BitVec.ofNat 32 (fieldAt bs (4 * i) 4)))

/-- Elements of a run from element `i` on. -/
def nmRead (s : State) (e : Eng) (x : End) (i n : Nat) : EngM (List Inp) := engMap (fun k => readInp s e x (x.index (i + k))) (upto n)

/-- Elements `i` on of a destination quantised: a scaled one block by block, any other element by element; the events of
formats of 8 bits or fewer (R44). The SR index is the element's number (R41). -/
def nmWrite (y : End) (ocp : Bool) (r : Rnd) (seed : Word) (strm i : Nat) (xs : List Inp) : List Put × Health :=
  let el := y.h.elem
  let g := if y.h.scaled then y.h.group else xs.length
  let group (b : Nat) : QBlock :=
    let vs := (xs.drop (b * g)).take g
    let ms := (upto vs.length).map (fun k => modeOf r seed (i + b * g + k) strm)
    if y.h.scaled then quantBlock el ocp ms vs else convAll el ms vs
  let put (b : Nat) (q : QBlock) : List Put :=
    ((upto g).zip q.codes).flatMap (fun p => codePuts y (i + b * g + p.1) p.2) ++ (if y.h.scaled then scalePuts y (i + b * g) q.s20 else [])
  let qs := (upto ((xs.length + g - 1) / max 1 g)).map (fun b => (b, group b))
  (qs.flatMap (fun p => put p.1 p.2), Health.sum (qs.map (fun p => p.2.ev)))

/-- The FP32 word of an exact value. -/
def f32Inp (w : Word) : Inp := inpOf w

/-- BF16 codes of words, written (R239). -/
def bf16Put (va : Nat) (ws : List Word) : Put := bytesPut va (ws.flatMap (fun w => toBytes 2 (convElem .bf16 .rne (inpOf w)).code))

/-- One parameter of NADAM: master, first and second moment from gradient, master and the old moments (R239). -/
def adamStep (lr b1 b2 eps wd : Word) (t : Nat) (g w0 : Word) (m0 v0 : Num) : Word × Word × Word :=
  let c1 := fsub 0x3F800000 b1
  let c2 := fsub 0x3F800000 b2
  let k1 := fsub 0x3F800000 (fpow b1 t)
  let k2 := fsub 0x3F800000 (fpow b2 t)
  let m := fadd (rne32 (Num.mul (numOf b1) m0)) (fmul c1 g)
  let v := fadd (rne32 (Num.mul (numOf b2) v0)) (fmul c2 (fmul g g))
  let u := fdiv (fdiv m k1) (fadd (rne32 (numOf (fdiv v k2)).sqrt) eps)
  let u := fadd u (fmul wd w0)
  (fsub w0 (fmul lr u), m, v)

/-- One parameter of NSGDM: master and moment. -/
def sgdStep (lr mu wd : Word) (nest : Bool) (g w0 : Word) (m0 : Num) : Word × Word :=
  let m := fadd (rne32 (Num.mul (numOf mu) m0)) g
  let u := if nest then fadd g (fmul mu m) else m
  let u := fadd u (fmul wd w0)
  (fsub w0 (fmul lr u), m)

/-- Gradients of a granule as FP32 words. -/
def readGrads (s : State) (e : Eng) (bf : Bool) (va i n : Nat) : EngM (List Word) :=
  match nmRead s e (runEnd va (if bf then 1 else 0) 0 (i + n)) i n with
  | .error k => .error k
  | .ok l => .ok (l.map (fun x => (f32OfInp x)))
where
  /-- The FP32 word of a value that FP32 holds. -/
  f32OfInp (x : Inp) : Word := BitVec.ofNat 32 (convElem .f32 .rne x).code

/-- A granule of NADAM or NSGDM: 32 parameters from `i` (R239). -/
def optGranule (c : NmCmd) (e : Eng) (i n : Nat) (s : State) : NmGran :=
  let w := c.word
  let bs := c.arg
  let a := argAddr bs
  let p := argWord bs
  let adam := decide (nmCode w = 1)
  let total := nmCnt w
  let mEnd := nmEnd (a 2) (nmFmt w) 0 total
  let vEnd := nmEnd (a 3) 15 0 total
  match readWords s e (a 0 + 4 * i) n, readGrads s e (decide (nmFl w % 2 = 1)) (a 1) i n, nmRead s e mEnd i n,
        (if adam then nmRead s e vEnd i n else .ok []) with
  | .error k, _, _, _ => nmBad s k
  | _, .error k, _, _ => nmBad s k
  | _, _, .error k, _ => nmBad s k
  | _, _, _, .error k => nmBad s k
  | .ok ws, .ok gs, .ok ms, .ok vs =>
    let zero : Inp := ⟨.zero false, false⟩
    let new (j : Nat) : Word × Word × Word :=
      let g := gs.getD j 0
      let w0 := ws.getD j 0
      let m0 := (ms.getD j zero).val
      if adam then adamStep (p 40) (p 44) (p 48) (p 52) (p 60) (fieldAt bs 56 4) g w0 m0 (vs.getD j zero).val
      else
        let (x, m) := sgdStep (p 40) (p 44) (p 60) (decide (nmFl w / 2 % 2 = 1)) g w0 m0
        (x, m, 0)
    let l := (upto n).map new
    let r := rndOfCode (nmRm w)
    let (mp, ev) := nmWrite mEnd false r c.seed (nmStrm w) i (l.map (fun q => f32Inp q.2.1))
    let (vp, ev') := if adam then nmWrite vEnd false r c.seed ((nmStrm w + 1) % 256) i (l.map (fun q => f32Inp q.2.2)) else ([], Health.none)
    .puts (wordsPut (a 0 + 4 * i) (l.map (·.1)) :: (if a 4 = 0 then [] else [bf16Put (a 4 + 2 * i) (l.map (·.1))]) ++ mp ++ vp) (ev.add ev')

/-- Whether element `k` of a group is kept (R240): fewer than `n` others are larger, a NaN counting as largest, ties to the lower. -/
def keeps (xs : List Inp) (n k : Nat) : Bool :=
  let v (i : Nat) : Num := ((xs[i]?).map (fun x => x.val.abs)).getD (.zero false)
  let larger (a b : Num) : Bool := if a.isNan then !b.isNan else if b.isNan then false else b.lt a
  let beats (j : Nat) : Bool := larger (v j) (v k) || (decide (j < k) && !larger (v k) (v j))
  decide (((upto xs.length).filter (fun j => decide (j ≠ k) && beats j)).length < n)

/-- A granule of NMSEARCH (R240). -/
def searchGranule (c : NmCmd) (e : Eng) (i n : Nat) (s : State) : NmGran :=
  let w := c.word
  let a := argAddr c.arg
  let fmt := nmFmt w
  let total := nmCnt w
  let m := if nmAux w = 1 then 4 else 8
  let src := nmEnd (a 0) fmt 0 total
  let val := nmEnd (a 1) fmt 0 (total / 2)
  match nmRead s e src i n, engMap (fun k => readCode s e src (src.index (i + k))) (upto n) with
  | .error k, _ => nmBad s k
  | _, .error k => nmBad s k
  | .ok xs, .ok cs =>
    let keep := (upto (n / m)).flatMap (fun g => (upto m).map (keeps ((xs.drop (g * m)).take m) (m / 2)))
    let pick {α : Type} (l : List α) : List α := ((l.zip keep).filter (·.2)).map (·.1)
    let meta' : List Byte := (upto (n / 8)).map (fun b =>
      BitVec.ofNat 8 (((upto 8).map (fun k => if keep.getD (8 * b + k) false then 2 ^ k else 0)).sum))
    let (vp, ev) := if fmt < 10 then (((upto n).zip (pick cs)).flatMap (fun q => codePuts val (i / 2 + q.1) q.2), Health.none)
      else nmWrite val false (rndOfCode (nmRm w)) c.seed (nmStrm w) (i / 2) (pick xs)
    .puts (vp ++ [bytesPut (a 2 + i / 8) meta']) ev

/-- A granule of NREDADD (R241). -/
def redaddGranule (c : NmCmd) (e : Eng) (i n : Nat) (s : State) : NmGran :=
  let a := argAddr c.arg
  match nmRead s e (nmEnd (a 0) (nmFmt c.word) 0 (nmCnt c.word)) i n, readWords s e (a 1 + 4 * i) n with
  | .error k, _ => nmBad s k
  | _, .error k => nmBad s k
  | .ok xs, .ok ws =>
    .puts [wordsPut (a 1 + 4 * i) ((ws.zip xs).map (fun p => rne32 (Num.add false (numOf p.1) p.2.val)))] Health.none

/-- A granule of NQUANT (R241). -/
def quantGranule (c : NmCmd) (e : Eng) (i n : Nat) (s : State) : NmGran :=
  let w := c.word
  let a := argAddr c.arg
  match nmRead s e (nmEnd (a 0) (nmAux w % 32) (nmAux w / 32) (nmCnt w)) i n with
  | .error k => nmBad s k
  | .ok xs =>
    let (l, ev) := nmWrite (nmEnd (a 1) (nmFmt w) (nmGrp w) (nmCnt w)) (decide (nmFl w % 2 = 1)) (rndOfCode (nmRm w)) c.seed (nmStrm w) i xs
    .puts l ev

/-- A granule of NCOPY (R241): the bytes, and the side slot of a scaled source's line. -/
def copyGranule (c : NmCmd) (e : Eng) (i n : Nat) (s : State) : NmGran :=
  let src := argAddr c.arg 0 + i
  let dst := argAddr c.arg 1 + i
  match engSpan s e (spanLines src n) src n, engAcc s e .read false src 1 with
  | .error k, _ => nmBad s k
  | _, .error k => nmBad s k
  | .ok bs, .ok ac =>
    if (ac.leaf.map (·.scaled)).getD false then
      if src % 128 ≠ 0 ∨ dst % 128 ≠ 0 ∨ n ≠ 128 then .bad s 1 0 none
      else
        match engSlot s e src, engAcc s e .write true dst 1 with
        | .error k, _ => nmBad s k
        | _, .error (.stop _) => .bad s 1 0 none
        | _, .error k => nmBad s k
        | .ok v, .ok _ => .puts [bytesPut dst bs, .slot dst (BitVec.allOnes 256) v] Health.none
    else .puts [bytesPut dst bs] Health.none

/-- A granule of NFILL (R241): the pattern, and with SC the slot with zero scales and the descriptor. -/
def fillGranule (c : NmCmd) (_ : Eng) (i n : Nat) (_ : State) : NmGran :=
  let w := c.word
  let va := nmArg w + i
  let pat : List Byte := toBytes 2 (nmAux w)
  let line := bytesPut va ((upto n).map (fun k => pat.getD ((i + k) % 2) 0))
  if nmFl w % 2 = 1 then
    let el := (codeElem (nmFmt w)).getD .f32
    let v := if isMx6 el && decide (i / 128 % 3 = 2) then describeCrumb el 0 else describe el (grpOfCode (nmGrp w)) 0
    .puts [line, .slot va (BitVec.allOnes 256) v] Health.none
  else .puts [line] Health.none

/-- A count word that a unit reads and writes undivided: R, then W (R482). -/
def atomicWord (s : State) (e : Eng) (va n : Nat) (f : Nat → Option Nat) : EngM (Nat × Option State) :=
  match engAcc s e .read false va n, engAcc s e .write false va n with
  | .error k, _ => .error k
  | _, .error k => .error k
  | .ok a, .ok _ =>
    let old := ofBytes (s.bytes a.loc n)
    .ok (old, (f old).map (fun v => homeWrite s a.loc (toBytes n v)))

/-- The side slot of a whole line that NCOW writes: the source line's where bytes come from there, 0 where the line is zeroed (R27).
(DESIGN CHOICE, log 57.) -/
def cowSlot (s : State) (e : Eng) (src dst copied n : Nat) : EngM (List Put) :=
  let scaled (va : Nat) : Bool :=
    match engAcc s e .read false va 1 with
    | .ok a => (a.leaf.map (·.scaled)).getD false
    | .error _ => false
  if n ≠ 128 || !scaled dst then .ok []
  else if copied = 0 then .ok [.slot dst (BitVec.allOnes 256) 0]
  else if scaled src && decide (src % 128 = 0) then
    match engSlot s e src with
    | .error k => .error k
    | .ok v => .ok [.slot dst (BitVec.allOnes 256) v]
  else .ok []

/-- The end of NCOW (R242): the destination's count 1, the source's one less, in one step (R243). -/
def cowEnd (c : NmCmd) (e : Eng) (s : State) : NmGran :=
  let a := argAddr c.arg
  match engWrite s e false (a 3) (toBytes 4 1) with
  | .error k => nmBad s k
  | .ok s1 =>
    match atomicWord s1 e (a 2) 4 (fun v => if v = 0 then none else some (v - 1)) with
    | .error k => nmBad s k
    | .ok (_, none) => .bad s 5 0 (some (0, 0))
    | .ok (v, some s2) => .ok s2 Health.none (some (BitVec.ofNat 32 (v - 1), 0))

/-- A line of NCOW (R242): the copied positions and zeros, after the test of the counts; behind the last line it ends. -/
def cowGranule (c : NmCmd) (e : Eng) (i n : Nat) (s : State) : NmGran :=
  let a := argAddr c.arg
  let esz := fieldAt c.arg 32 4
  if i = 256 * esz then cowEnd c e s
  else
    let copied := min n (nmCnt c.word * esz - i)
    match atomicWord s e (a 2) 4 (fun _ => none), engAcc s e .write false (a 3) 4, engSpan s e (spanLines (a 0 + i) copied) (a 0 + i) copied,
          cowSlot s e (a 0 + i) (a 1 + i) copied n with
    | .error k, _, _, _ => nmBad s k
    | _, .error k, _, _ => nmBad s k
    | _, _, .error k, _ => nmBad s k
    | _, _, _, .error k => nmBad s k
    | .ok (old, _), .ok _, .ok bs, .ok l =>
      if i = 0 ∧ old = 0 then .bad s 5 0 (some (0, 0))
      else .puts (bytesPut (a 1 + i) (bs ++ List.replicate (n - copied) 0) :: l) Health.none

/-- A unit's access that has several uses, each tested in turn (R482). -/
def nmAccess (s : State) (e : Eng) (va n : Nat) : List Need → EngM Acc
  | [] => engAcc s e .read false va n
  | [x] => engAcc s e x false va n
  | x :: r =>
    match engAcc s e x false va n with
    | .error k => .error k
    | .ok _ => nmAccess s e va n r

/-- NREF (R242). (DESIGN CHOICE, log 57.) -/
def refStep (c : NmCmd) (e : Eng) (s : State) : NmGran :=
  let delta : Int := (BitVec.ofNat 16 (nmAux c.word)).toInt
  let new (old : Nat) : Option Nat := let v := (old : Int) + delta; if 0 ≤ v ∧ v < 2 ^ 32 then some v.toNat else none
  match atomicWord s e (nmArg c.word) 4 new with
  | .error k => nmBad s k
  | .ok (old, none) => .bad s 5 0 (some (BitVec.ofNat 32 old, BitVec.ofNat 32 old))
  | .ok (old, some s1) => .ok s1 Health.none (some (BitVec.ofNat 32 old, BitVec.ofNat 32 ((new old).getD 0)))

/-- NCNT (R242): the old value, low and high; the addition wraps. -/
def cntStep (c : NmCmd) (e : Eng) (new : Nat → Option Nat) (s : State) : NmGran :=
  match nmAccess s e (nmArg c.word) 8 (nmArgNeeds c.word) with
  | .error k => nmBad s k
  | .ok a =>
    let old := ofBytes (s.bytes a.loc 8)
    let s1 := match new old with | some v => homeWrite s a.loc (toBytes 8 v) | none => s
    .ok s1 Health.none (some (BitVec.ofNat 32 old, BitVec.ofNat 32 (old / 2 ^ 32)))

/-- NCHUNK (R242, R225). -/
def chunkStep (c : NmCmd) (e : Eng) (s : State) : NmGran :=
  match nmAccess s e (nmArg c.word) 16 (nmArgNeeds c.word) with
  | .error k => nmBad s k
  | .ok a =>
    let (start, n) := chunkDraw (s.bytes a.loc 16)
    .ok (homeWrite s a.loc (toBytes 4 (start + n))) Health.none (some (BitVec.ofNat 32 start, BitVec.ofNat 32 n))

/-- The core of a command's issuer in an event, all ones for a task. -/
def issuerCore (c : NmCmd) : Nat :=
  match c.issuer with
  | .warp _ _ => c.rank
  | .task _ => 2 ^ 32 - 1

/-- A chunk of NTAGCHK (R242, R371). -/
def tagStep (c : NmCmd) (e : Eng) (i : Nat) (s : State) : NmGran :=
  let w := c.word
  let va := nmArg w + 65536 * i
  let tag := nmArg w + 65536 * nmCnt w + 16 * i
  match tget s.keys (nmAux w) with
  | none => .bad s 1 0 none
  | some k =>
    match engSpan s e 512 va 65536, engSpan s e 2 tag 16 with
    | .error k, _ => nmBad s k
    | _, .error k => nmBad s k
    | .ok bs, .ok t =>
      if chunkTag k.key bs i = t then .ok s Health.none none
      else .bad (postEvent s 1 c.asid (toBytes 4 (issuerCore c) ++ toBytes 4 i ++ toBytes 4 (nmAux w) ++ toBytes 8 0)) 3 i none

/-! ### The steps of a unit -/

/-- The places in the arrival order of what stands in a unit's queue and has not started. -/
def waitingAt (s : State) (u : Nat) : List Nat :=
  ((s.nmu u).filter (fun c => !c.started)).map (·.arrival) ++ ((partsAt s u).filter (fun p => !p.begun)).filterMap (·.arrival)

/-- Whether what arrived at a unit as `key` is next to start: nothing that arrived before it waits there (R465). -/
def nextAt (s : State) (u key : Nat) : Bool := (waitingAt s u).all (fun k => decide (key ≤ k))

/-- Whether a command is one of those that no other may divide (R243). -/
def NmCmd.indivisible (c : NmCmd) : Bool := [7, 8, 9, 10].contains (nmCode c.word)

/-- The physical bytes that a command names, also before it is divided. -/
def nmWords (s : State) (c : NmCmd) : List (Nat × Nat) := if c.started then c.words else (nmStart s c).words

/-- Whether another command stands before a part on a word, of two of which one is indivisible (R243, R466): one that has arrived before it and
is not complete, or is in progress. -/
def wordTaken (s : State) (c : NmCmd) (key : Nat) : Bool :=
  s.nmus.any (fun m => m.2.any (fun d =>
    decide (d.arrival ≠ c.arrival) && (c.indivisible || d.indivisible) &&
    ((!d.started && decide (d.arrival < key)) ||
      d.parts.any (fun q => !q.ended && (match q.arrival with | some k => q.begun || decide (k < key) | none => false))) &&
    (nmWords s c).any (fun p => (nmWords s d).any (meet p))))

/-- Whether a part of a command may start: in arrival order at its unit, with a place in the active set, no earlier part on its block still in
progress, and the words of indivisible commands free (R243, R465, R466). -/
def mayStart (s : State) (c : NmCmd) (p : NmPart) : Bool :=
  let u := nmHome (p.page * 65536)
  match p.arrival with
  | none => false
  | some key =>
    nextAt s u key && decide (((partsAt s u).filter NmPart.begun).length < 8) &&
    !((partsAt s u).any (fun q => q.begun && decide (q.page = p.page))) && !wordTaken s c key

/-- The parts of a command that may go on. (DESIGN CHOICE, log 55.) -/
def openParts (s : State) (c : NmCmd) : List (Nat × NmPart) :=
  (c.parts.zipIdx.filter (fun p => !p.1.ended && (p.1.begun || mayStart s c p.1))).map (fun p => (p.2, p.1))

/-- The part of a command that goes on, a free choice among those that may. -/
def nextPart (s : State) (c : NmCmd) : Option (Nat × NmPart) :=
  (openParts s c)[Config.freePick s.free 30 % (openParts s c).length]?

/-- The unit that takes the next step of a command: the one that received it until it is divided, then the home of the part that goes on. -/
def nmRunner (s : State) (u k : Nat) : Nat :=
  match (s.nmu u)[k]? with
  | none => u
  | some c => if c.started then (match nextPart s c with | some (_, p) => nmHome (p.page * 65536) | none => u) else u

/-- Elements of the granule at an element, at most `left`. -/
def NmPlan.len (p : NmPlan) (i left : Nat) : Nat :=
  min (if p.tail && decide (1 < left) then left - 1 else left) (p.lineCut i - i)

/-- Whether a part's elements from `i` on may still change a line that it has worked out. -/
def NmPlan.openAt (p : NmPlan) (i va : Nat) : Bool :=
  p.dests.any (fun (b, u, ub) =>
    let a := b + i / u * ub
    decide (a / 128 ≤ va / 128) && decide (va / 128 ≤ (a + (if i % u = 0 then 0 else ub - 1)) / 128))

/-- A line that a part can write, since nothing that it still has to work out changes it, and the others. -/
def NmPart.ready (p : NmPart) (pl : NmPlan) : Option (LinePut × List LinePut) :=
  let done := p.failed || decide (p.count ≤ p.pos + (if pl.tail then 1 else 0))
  takeFirst (fun x => done || !pl.openAt (p.first + p.pos) x.va) p.out

/-- A part whose work is done, or which has failed, ends when its lines are written (R467). -/
def NmPart.close (p : NmPart) : NmPart := { p with ended := decide (p.out = []) && (p.failed || decide (p.count ≤ p.pos)) }

/-- A part that fails stops before the line that failed; what it worked out before is still written. -/
def NmPart.fail (p : NmPart) (st d : Nat) : NmPart := { p with failed := true, status := st, detail := d }.close

/-- A granule worked out: its lines join those that wait. Where one of them cannot be written the part stops before it (R467): a span written
alone up to that line, several spans before the granule. (DESIGN CHOICE, log 56.) -/
def NmPart.take (s : State) (e : Eng) (pl : NmPlan) (p : NmPart) (n : Nat) (ps : List Put) : NmPart :=
  match soundLines s e (sortBy (·.va) (addPuts [] ps)) with
  | (l, none) => { p with pos := p.pos + n, out := l.foldl addLine p.out }.close
  | (l, some k) =>
    let (st, d) := nmStatus k
    { p with out := (if pl.dests.length = 1 then l else []).foldl addLine p.out }.fail st d

/-- Health events counted for the block that issued a command while it runs, otherwise for its context (R469, R531).
(DEDUCED, log 60.) -/
def nmHealth (s : State) (c : NmCmd) (ev : Health) : State :=
  match c.blk with
  | some b => if s.blockRuns b then countHealth s b ev else addHealth s c.asid ev
  | none => addHealth s c.asid ev

/-- Command `k` of a unit as changed. -/
def setNm (s : State) (u k : Nat) (c : NmCmd) : State := s.setNmu u (setAt (s.nmu u) k (fun _ => c))

/-- The first part that waits for room in its home's queue there, of the command that arrived first: unit, command and part. -/
def waitingPart (s : State) (v : Nat) : Option (Nat × Nat × Nat) :=
  let cs := s.nmus.flatMap (fun m => m.2.zipIdx.map (fun c => (m.1, c.2, c.1)))
  (sortBy (fun q => q.2.2.arrival) cs).findSome? (fun q =>
    (q.2.2.parts.zipIdx.find? (fun p => !p.1.ended && p.1.arrival.isNone && decide (nmHome (p.1.page * 65536) = v))).map (fun p => (q.1, q.2.1, p.2)))

/-- Whether a unit's queue has room for a part: a divided command does not stand in the way of parts, its own among them.
(DESIGN CHOICE, log 55.) -/
def partRoom (s : State) (v : Nat) : Bool := decide (((s.nmu v).filter (fun c => !c.started)).length + (partsAt s v).length < 256)

/-- What waits for room in a unit's queue enters it while there is room, parts before Flioc's sends (R465). (DESIGN CHOICE, log 55.) -/
def admitNm (v : Nat) : Nat → State → State
  | 0, s => s
  | fuel + 1, s =>
    match waitingPart s v with
    | some (u, k, i) =>
      if !partRoom s v then s
      else
        let enter (c : NmCmd) : NmCmd := { c with parts := setAt c.parts i (fun p => { p with arrival := some (arrivalKey s c.rank) }) }
        admitNm v fuel ({ s with uid := s.uid + 1 }.setNmu u (setAt (s.nmu u) k enter))
    | none =>
      if 256 ≤ s.nmuFill v then s
      else
        match s.flioc.sends.find? (fun q => decide (q.1 = v)) with
        | some q => admitNm v fuel (nmEnqueue { s with flioc := { s.flioc with sends := s.flioc.sends.erase q } } v q.2)
        | none => s

/-- Every unit's queue filled up. -/
def admitAll (s : State) : State := (upto 128).foldl (fun s v => admitNm v 257 s) s

/-- One step of command `k` of a unit, where it carries the code: its start, in arrival order; or a part of free choice writes a line that it has
worked out (R337), works out its next granule, or does at once what takes one step. -/
def nmStep (code : Nat) (fl : Option Nat) (gran : NmCmd → Eng → Nat → Nat → State → NmGran) (u k : Nat) (s : State) : Out :=
  match (s.nmu u)[k]? with
  | none => .refused .notEnabled
  | some c =>
    if nmCode c.word ≠ code ∨ (fl.any (fun x => decide (x ≠ nmFl c.word))) then .refused .notEnabled
    else if !c.started then
      if nextAt s u c.arrival then .next (admitAll (setNm s u k (nmStart s c))).bump else .refused .notEnabled
    else
      match nextPart s c, nmEng s c, nmPlan c.word c.arg with
      | some (i, p), some e, some pl =>
        let put (s : State) (q : NmPart) (res : Option (Word × Word)) : Out :=
          .next (admitAll (setNm s u k { c with parts := setAt c.parts i (fun _ => q), res0 := (res.map (·.1)).getD c.res0,
                                                res1 := (res.map (·.2)).getD c.res1 })).bump
        match p.ready pl with
        | some (x, rest) =>
          match putLine e x s with
          | .ok s1 => put s1 { p with out := rest }.close none
          | .error f => let (st, d) := nmStatus f; put s ({ p with out := rest }.fail st d) none
        | none =>
          let n := pl.len (p.first + p.pos) (p.count - p.pos)
          match gran c e (p.first + p.pos) n s with
          | .ok s1 ev res => put (nmHealth s1 c ev) { p with pos := p.pos + n }.close res
          | .puts l ev => put (nmHealth s c ev) (p.take s e pl n l) none
          | .bad s1 st d res => put s1 (p.fail st d) res
      | none, _, _ => .refused .notEnabled
      | _, _, _ => .fault .dangling

/-- NADAM (R239). -/
def execNadam (unit k : Nat) (s : State) : Out := nmStep 1 none optGranule unit k s
/-- NSGDM (R239). -/
def execNsgdm (unit k : Nat) (s : State) : Out := nmStep 2 none optGranule unit k s
/-- NMSEARCH (R240). -/
def execNmsearch (unit k : Nat) (s : State) : Out := nmStep 3 none searchGranule unit k s
/-- NREDADD (R241). -/
def execNredadd (unit k : Nat) (s : State) : Out := nmStep 4 none redaddGranule unit k s
/-- NCOPY (R241). -/
def execNcopy (unit k : Nat) (s : State) : Out := nmStep 5 none copyGranule unit k s
/-- NFILL (R241). -/
def execNfill (unit k : Nat) (s : State) : Out := nmStep 6 none fillGranule unit k s
/-- NCOW (R242). -/
def execNcow (unit k : Nat) (s : State) : Out := nmStep 7 none cowGranule unit k s
/-- NREF (R242). -/
def execNref (unit k : Nat) (s : State) : Out := nmStep 8 none (fun c e _ _ => refStep c e) unit k s
/-- NCNT add (R242): the addend is AUX, sign-extended. -/
def execNcntAdd (unit k : Nat) (s : State) : Out :=
  nmStep 9 (some 0) (fun c e _ _ => cntStep c e (fun old =>
    some ((((old : Int) + (BitVec.ofNat 16 (nmAux c.word)).toInt) % 2 ^ 64).toNat))) unit k s
/-- NCNT read (R242). -/
def execNcntRead (unit k : Nat) (s : State) : Out := nmStep 9 (some 1) (fun c e _ _ => cntStep c e (fun _ => none)) unit k s
/-- NCNT write (R242); a command with the reserved FL 3, which is refused, starts here. -/
def execNcntWrite (unit k : Nat) (s : State) : Out :=
  match (s.nmu unit)[k]? with
  | none => .refused .notEnabled
  | some c =>
    if nmFl c.word < 2 then .refused .notEnabled
    else nmStep 9 none (fun c e _ _ => cntStep c e (fun _ => some (nmCnt c.word))) unit k s
/-- NCHUNK (R242). -/
def execNchunk (unit k : Nat) (s : State) : Out := nmStep 10 none (fun c e _ _ => chunkStep c e) unit k s
/-- NQUANT (R241). -/
def execNquant (unit k : Nat) (s : State) : Out := nmStep 11 none quantGranule unit k s
/-- NTAGCHK (R242). -/
def execNtagchk (unit k : Nat) (s : State) : Out := nmStep 12 none (fun c e i _ => tagStep c e i) unit k s

/-! ### Completion (R237, R456, R467) -/

/-- The completion record of a command all of whose parts have ended (R467). (DEDUCED, log 58.) -/
def nmDone (c : NmCmd) : Nat × BitVec 128 :=
  let bad := c.parts.find? (fun p => decide (p.status ≠ 0))
  let st := (bad.map (·.status)).getD 0
  let d := if st = 2 ∨ st = 3 then (bad.map (·.detail)).getD 0 else 0
  let code := nmCode c.word
  let r0 : Word := if code = 12 then (match bad with | some p => BitVec.ofNat 32 p.first | none => BitVec.allOnes 32) else c.res0
  (st, nmRecord st code r0 c.res1 (BitVec.ofNat 32 d))

/-- The completion of command `k` of a unit (R237, R456, R467). A word that the unit refuses at its start for its command code
completes here without a start. -/
def execNmuCommandComplete (u k : Nat) (s : State) : Out :=
  match (s.nmu u)[k]? with
  | none => .refused .notEnabled
  | some c =>
    let unknown := decide (nmCode c.word = 0 ∨ 12 < nmCode c.word)
    let c := if unknown then c.over 1 0 else c
    if !c.started || !c.parts.all (·.ended) || (unknown && !nextAt s u c.arrival) then .refused .notEnabled
    else
      let (st, r) := nmDone c
      let s := (admitAll (s.setNmu u (dropAt (s.nmu u) k))).bump
      match c.issuer with
      | .warp w h => .next (fillHandle s w h r)
      | .task addr =>
        if st = 0 then
          let s := match ctxStore s c.asid (addr + 0x20) (toBytes 16 r.toNat) with | .ok s => s | .error _ => s
          match ctxRead s c.asid (addr + 8) 8 with
          | .ok bs => .next (decrementAll s c.asid (ofBytes bs))
          | .error _ => .next s
        else .next (failTask s c.asid addr st r)

end Sys2Proof.Machine
end

