-- ==== Sys2Proof/Machine/Outside.lean ====
section
/-! DEFINITION. What reaches the device from outside: BAR 4 (R505, R506), queue kicks (R446), the event ring's index (R508), peers
and their links (R509, R510), ingress from flash (R517 to R519), and other register writes (R505, R507, R534). -/
namespace Sys2Proof.Machine
open Sys2Proof

/-- Whether the run has begun: before it every write is dropped and every read but the status window's returns all ones (R534). -/
def State.inRun (s : State) : Bool := decide (s.plat.bstate = 2) && !s.plat.off

/-- A write from outside: it has its effect in the run only. -/
def outside (s : State) (f : State → Out) : Out :=
  if s.plat.off then .refused .notEnabled else if s.inRun then f s else .next s

/-! ### BAR 4 -/

/-- Whether bytes of HBM4E lie in the side region (R537), whether they meet a secure range (R516). (DEDUCED, log 72.) -/
def inSideRegion (s : State) (a n : Nat) : Bool := decide (0 < s.plat.sch) && decide (hbmBytes - s.plat.sch * 16 * 2 ^ 20 < a + n)
def meetsSecure (s : State) (a n : Nat) : Bool := s.plat.secure.any (fun r => decide (r.1 < a + n) && decide (a < r.1 + r.2))

/-- The pieces of a span by lines. -/
def linePieces : Nat → Nat → Nat → List (Nat × Nat)
  | 0, _, _ => []
  | fuel + 1, a, n =>
    if n = 0 then []
    else
      let k := min n (128 - a % 128)
      (a, k) :: linePieces fuel (a + k) (n - k)

/-- The pieces of a write performed in order: one to a side region is dropped, one to a secure frame is dropped and reported. -/
def hostWrites (sec : Bool) : List (Nat × Nat) → List Byte → State → State
  | [], _, s => s
  | (a, k) :: r, bs, s =>
    let s :=
      if inSideRegion s a k then s
      else if !sec && meetsSecure s a k then postEvent s 6 0 (toBytes 8 a)
      else homeWrite s (.hbm a) (bs.take k)
    hostWrites sec r (bs.drop k) s

/-- The bytes that a read gives: all ones for a side region, a secure frame through the non-secure path, and a poisoned granule, which alone
brings the indication of poisoned data (R506, R530, R537). -/
def hostBytes (s : State) (sec : Bool) (a k : Nat) : HostRead :=
  if inSideRegion s a k || (!sec && meetsSecure s a k) then ⟨List.replicate k 0xFF, false⟩
  else if s.poisoned (.hbm a) k then ⟨List.replicate k 0xFF, true⟩
  else ⟨s.bytes (.hbm a) k, false⟩

/-- HOST_WRITE (R506). -/
def execHostWrite (sec : Bool) (addr : Nat) (bytes : List Byte) (s : State) : Out :=
  if hbmBytes < addr + bytes.length then .refused .notEnabled
  else outside s (fun s => .next (hostWrites sec (linePieces (spanLines addr bytes.length) addr bytes.length) bytes s))

/-- HOST_READ (R506): what the host receives stands in `hostIn`. -/
def execHostRead (sec : Bool) (addr n : Nat) (s : State) : Out :=
  if hbmBytes < addr + n ∨ s.plat.off then .refused .notEnabled
  else if !s.inRun then .next { s with hostIn := ⟨List.replicate n 0xFF, false⟩ }
  else
    let l := (linePieces (spanLines addr n) addr n).map (fun p => hostBytes s sec p.1 p.2)
    .next { s with hostIn := ⟨l.flatMap (·.bytes), l.any (·.poisoned)⟩ }

/-! ### Registers -/

/-- QUEUE_KICK (R446, R447): a value beyond the ring's room is ignored and reported. A closed queue takes no push; the Backwater queues
take no post of the host (R445). -/
def execQueueKick (queue : Nat) (tail : Word) (s : State) : Out :=
  if 8192 ≤ queue then .refused .notEnabled
  else outside s (fun s =>
    let q := s.queue queue
    if q.depth < (tail - q.head).toNat ∨ q.depth < (tail - q.tail).toNat ∨ isBackwater queue then
      .next (postEvent s 11 q.asid (toBytes 4 queue ++ toBytes 4 tail.toNat))
    else if q.closed then .next s
    else .next (s.modQueue queue (fun q => { q with tail := tail })))

/-- RIDX_WRITE (R508): a value outside the ring is ignored. -/
def execRidxWrite (v : Word) (s : State) : Out :=
  outside s (fun s =>
    if s.ring.count < (s.ring.widx - v).toNat then .next s else .next { s with ring := { s.ring with ridx := v } })

/-- Bytes written into a register of `n` bits. -/
def putBytes {n : Nat} (v : BitVec n) (off : Nat) (bs : List Byte) : BitVec n := putBits v (8 * off) (8 * bs.length) (ofBytes bs)

/-- The command in a mailbox: its code, and an operand of `n` bytes at an offset (R507). -/
def Mailbox.code (m : Mailbox) : Nat := (m.bytes.extractLsb' 0 8).toNat
def Mailbox.operand (m : Mailbox) (off n : Nat) : Nat := (m.bytes.extractLsb' (8 * off) (8 * n)).toNat

/-- A write to the mailbox at an offset: command bytes, or the doorbell. A doorbell of 1 stands until the command has been executed; a command of
no code is refused at once (R507, R538, R540). -/
def mailboxWrite (m : Mailbox) (off : Nat) (bs : List Byte) : Mailbox :=
  if off + bs.length ≤ 64 then { m with bytes := putBytes m.bytes off bs }
  else if off = 0x40 then
    let v := ofBytes (bs.take 4)
    if v = 1 ∧ (m.code = 0 ∨ 0x0F < m.code) then { m with bell := 0, status := 1 } else { m with bell := BitVec.ofNat 32 v }
  else m

/-- REGISTER_WRITE_OTHER (R505): the mailboxes, and the first three words of an ingress descriptor; every other register is read-only or does
not exist. Whether the secure mailbox is written over a stream bound under TDISP is not for the device to say: a free choice (R507). (DESIGN
CHOICE, log 44.) -/
def execRegisterWriteOther (bar addr : Nat) (bytes : List Byte) (s : State) : Out :=
  let inJ := decide (bar = 2) && decide (0x10000 ≤ addr) && decide (addr < 0x10200)
  if inJ && decide (24 < addr % 32 + bytes.length) then .refused .notEnabled
  else if bar = 2 ∧ addr < 0x10000 then .refused .notEnabled
  else if bar = 0 ∧ addr = 0x3004 then .refused .notEnabled
  else outside s (fun s =>
    if inJ then
      let j := (addr - 0x10000) / 32
      .next { s with ingress := tput s.ingress j (let x := tgetD s.ingress j Ingress.reset; { x with reg := putBytes x.reg (addr % 32) bytes }) }
    else if bar = 0 ∧ addr < 0x1000 then .next { s with box0 := mailboxWrite s.box0 addr bytes }
    else if bar = 0 ∧ addr < 0x2000 then
      .next (if Config.freeBit s.free 3 then { s with box1 := mailboxWrite s.box1 (addr - 0x1000) bytes } else s).bump
    else .next s)

/-! ### Peers (R509, R510) -/

/-- An undivided atomic of a peer: the old value goes back. -/
def peerAtomic (s : State) (addr : Nat) (wide : Bool) (f : DWord → Option DWord) : State :=
  let n := if wide then 8 else 4
  if s.poisoned (.hbm addr) n then { s with hostIn := ⟨List.replicate n 0xFF, true⟩ }
  else
    let old := s.bytes (.hbm addr) n
    let s1 := match f (BitVec.ofNat 64 (ofBytes old)) with | some v => homeWrite s (.hbm addr) (toBytes n v.toNat) | none => s
    { s1 with hostIn := ⟨old, false⟩ }

/-- A line with its side slot, as it travels (R509); a poisoned granule reads as ones, with the indication. -/
def lineOut (s : State) (l : Loc) : HostRead :=
  ⟨(if s.poisoned l 128 then List.replicate 128 0xFF else s.bytes l 128) ++
   (if s.slotPoisoned l then List.replicate 32 0xFF else toBytes 32 (s.slotAt l).toNat), s.poisoned l 128 || s.slotPoisoned l⟩

/-- Whether an access of a peer is refused: a non-secure one of a secure range (R516), a scaled one outside the scaled part (R481). -/
def peerBad (s : State) (addr size : Nat) (world scaled : Bool) : Bool :=
  (!world && meetsSecure s addr size) || (scaled && !frameScaled s 0 addr size)

/-- PEER_ACCESS (R509): performed at the home, a line and its slot in one; what a read or an atomic gives back stands in `hostIn`, nothing
where the access is refused. (DESIGN CHOICE, log 46.) -/
def execPeerAccess (rank addr : Nat) (access : PeerOp) (s : State) : Out :=
  let size : Nat := match access.act with
    | .write .. | .read _ => 128
    | .atomic _ wide _ | .compare wide _ _ => if wide then 8 else 4
  let scaled : Bool := match access.act with
    | .write _ _ _ sdirty => decide (sdirty ≠ 0)
    | .read x => x
    | _ => false
  if !s.inRun ∨ hbmBytes < addr + size ∨ addr % size ≠ 0 ∨ 64 ≤ rank then .refused .notEnabled
  else if peerBad s addr size access.world scaled then .next { s with hostIn := ⟨[], false⟩ }
  else
    match access.act with
    | .write data dirty side sdirty =>
      .next (writeBackLine s { line := .hbm addr, names := [], data := data, dirty := dirty, side := side, sdirty := sdirty })
    | .read _ => .next { s with hostIn := lineOut s (.hbm addr) }
    | .atomic op wide c => .next (peerAtomic s addr wide (fun old => some (atomNew op wide old c)))
    | .compare wide c new => .next (peerAtomic s addr wide (fun old => if old = c then some new else none))

/-- FLIT_REPLAY (R510): the next replay of the flit on a port, or, after sixteen, the first of a later flit. -/
def execFlitReplay (port : Nat) (s : State) : Out :=
  if 16 ≤ port ∨ !s.inRun ∨ tgetD s.ports port false = true then .refused .notEnabled
  else .next { s with replays := tputD s.replays port 0 (tgetD s.replays port 0 % 16 + 1) }

/-- PORT_DOWN (R510): a flit has failed after sixteen replays. The collectives of every group with a route over the port end (R515). -/
def execPortDown (port : Nat) (s : State) : Out :=
  if 16 ≤ port ∨ !s.inRun ∨ tgetD s.ports port false = true ∨ tgetD s.replays port 0 ≠ 16 then .refused .notEnabled
  else
    let s := { s with ports := tputD s.ports port false true, replays := tputD s.replays port 0 0 }
    .next ((s.groups.filter (fun g => g.2.routes.contains port)).foldl (fun s g => endColls s g.1 1) s).bump

/-! ### Ingress (R517 to R519) -/

def State.ingressOf (s : State) (j : Nat) : Ingress := tgetD s.ingress j Ingress.reset
def State.modIngress (s : State) (j : Nat) (f : Ingress → Ingress) : State :=
  { s with ingress := tputD s.ingress j Ingress.reset (f (s.ingressOf j)) }

/-- The descriptor in a register. -/
def parseIngress (v : BitVec 256) : IngressDesc :=
  let w (o n : Nat) : Nat := (v.extractLsb' o n).toNat
  { stg := w 0 64, dst := w 64 64, cword := w 128 64, n := w 192 32, cval := v.extractLsb' 224 32 }

/-- INGRESS_DESCRIPTOR_TRIGGER: the write of bytes 24 to 31, or of all 32, latches the register (R519). -/
def execIngressDescriptorTrigger (j : Nat) (bytes : List Byte) (s : State) : Out :=
  if 16 ≤ j ∨ (bytes.length ≠ 8 ∧ bytes.length ≠ 32) then .refused .notEnabled
  else outside s (fun s =>
    let s := s.modIngress j (fun x => { x with reg := putBytes x.reg (32 - bytes.length) bytes })
    let x := s.ingressOf j
    let d := parseIngress x.reg
    if !x.bound ∨ 16 ≤ x.held.length ∨ d.n = 0 ∨ d.cval.msb ∨ d.stg % 65536 ≠ 0 ∨ d.dst % 65536 ≠ 0 ∨ d.cword % 4 ≠ 0 then
      .next (postEvent s 10 x.asid (toBytes 4 j ++ toBytes 8 d.stg ++ toBytes 8 d.dst))
    else .next (s.modIngress j (fun x => { x with held := x.held ++ [d] })))

/-- Whether a chunk is the header chunk of a container, whether its version and sections are accepted, and its key slot (R517, R518). -/
def isHeader (d : IngressDesc) (bs : List Byte) : Bool := decide (d.n = 1) && decide (fieldAt bs 0 4 = 0x43564B4E)
def headerOk (bs : List Byte) : Bool :=
  let n := fieldAt bs 0x14 4
  decide (fieldAt bs 4 2 = 1) && decide (1 ≤ n) && decide (n ≤ 1024) &&
  (upto n).all (fun k =>
    let type := fieldAt bs (0x40 + 16 * k) 2
    decide (fieldAt bs (0x42 + 16 * k) 6 / 2 = 0) &&
    ((decide (1 ≤ type) && decide (type ≤ 3)) || decide (fieldAt bs (0x42 + 16 * k) 1 % 2 = 0)))
def headerKey (bs : List Byte) : Nat := fieldAt bs 0x10 1

/-- The end of the run at the head: the completion value written with a release, the descriptor gone. -/
def endIngress (s : State) (j : Nat) (x : Ingress) (d : IngressDesc) (bad : Bool) : State :=
  let v : Word := if bad then d.cval ||| 0x80000000 else d.cval
  let s := match ctxStore s x.asid d.cword (toBytes 4 v.toNat) with | .ok s => s | .error _ => s
  s.modIngress j (fun x => { x with held := x.held.drop 1, chunk := 0 })

/-- The side slots of a chunk's lines of the scaled part go with them to a page that holds scales (R27, R322). (DEDUCED, log 87.) -/
def landSlots (s : State) (asid src dst n : Nat) : State :=
  match ctxAgent s asid with
  | none => s
  | some x => (wholeLines src dst n).foldl (fun t o =>
      match translate s x (dst + o) .write with
      | .ok d =>
        if d.scaled && frameScaled s 0 (src + o) 128 && !s.slotPoisoned (.hbm (src + o)) then
          homeSlot t (d.loc (dst + o)) (s.slotAt (.hbm (src + o)))
        else t
      | .error _ => t) s

/-- INGRESS_RUN: the next chunk of the run at the head is checked, and written where its tag matches (R519).
(DESIGN CHOICE, log 62.) -/
def execIngressRun (j : Nat) (s : State) : Out :=
  let x := s.ingressOf j
  match x.held with
  | [] => .refused .notEnabled
  | d :: _ =>
    if !s.inRun then .refused .notEnabled
    else
      let i := x.chunk
      let world := match tget s.ctxs x.asid with | some k => k.world | none => false
      let stage (o n : Nat) : Option (List Byte) :=
        let a := x.base + d.stg + o
        if x.size < d.stg + o + n ∨ s.poisoned (.hbm a) n = true ∨ (!world && meetsSecure s a n) = true then none else some (s.bytes (.hbm a) n)
      match stage (65536 * i) 65536, stage (65536 * d.n + 16 * i) 16 with
      | some bs, some tag =>
        let hdr := isHeader d bs
        let slot := if hdr then headerKey bs else x.key
        let good := keyOk s slot world && (match tget s.keys slot with | some k => decide (chunkTag k.key bs i = tag) | none => false) &&
          (!hdr || headerOk bs)
        if good then
          match ctxStore s x.asid (d.dst + 65536 * i) bs with
          | .error _ => .next (endIngress s j x d true)
          | .ok s =>
            let s := landSlots s x.asid (x.base + d.stg + 65536 * i) (d.dst + 65536 * i) 65536
            let s := if hdr then s.modIngress j (fun x => { x with key := slot }) else s
            .next (if i + 1 = d.n then endIngress s j x d false else s.modIngress j (fun x => { x with chunk := i + 1 }))
        else
          .next (endIngress (postEvent s 1 x.asid (toBytes 4 j ++ toBytes 4 i ++ toBytes 4 slot ++ toBytes 8 d.dst)) j x d true)
      | _, _ => .next (endIngress (postEvent s 1 x.asid (toBytes 4 j ++ toBytes 4 i ++ toBytes 4 x.key ++ toBytes 8 d.dst)) j x d true)

end Sys2Proof.Machine
end

