-- ==== Sys2Proof/Machine/Mailbox.lean ====
section
/-! DEFINITION. Control commands (R507): contexts, queues, invalidation, pre-emption, tasks, fault acknowledgement, launch groups, keys,
ingress queues, the event ring, attestation and the power limit. -/
namespace Sys2Proof.Machine
open Sys2Proof

/-- The mailbox that a command comes from. -/
def State.box (s : State) (sec : Bool) : Mailbox := if sec then s.box1 else s.box0

/-- A command executed from a mailbox whose doorbell stands and whose bytes hold it: its status is written and the doorbell cleared. Before the
run it is dropped (R534). `holds` compares the operands whose places the spec gives. (DESIGN CHOICE, log 44.) -/
def commandOf (sec : Bool) (code : Nat) (holds : Mailbox → Bool) (s : State) (f : State → State × Nat) : Out :=
  outside s (fun s =>
    let m := s.box sec
    if m.bell ≠ 1 ∨ m.code ≠ code ∨ holds m = false then .refused .notEnabled
    else
      let (s, st) := f s
      let done (m : Mailbox) : Mailbox := { m with bell := 0, status := BitVec.ofNat 32 st }
      .next (if sec then { s with box1 := done s.box1 } else { s with box0 := done s.box0 }))

/-- A command whose operands the event names. -/
def command (sec : Bool) (code : Nat) (s : State) (f : State → State × Nat) : Out := commandOf sec code (fun _ => true) s f

/-- Whether a mailbox may name a context or queue: the non-secure one names no secure one (R507). -/
def mayName (s : State) (sec : Bool) (asid : Nat) : Bool :=
  sec || (match tget s.ctxs asid with | some x => !x.world | none => true)
def mayQueue (s : State) (sec : Bool) (q : Nat) : Bool := sec || !(s.queue q).world

/-- Whether a number is a power of two. -/
def isPow2 (n : Nat) : Bool := decide (n ≠ 0) && decide (2 ^ Nat.log2 n = n)

/-! ### Contexts -/

/-- The fields of a save pool that a new context finds at 0: those of its eight fault slots (R526) and its health area (R532), as far as
the pool has room for them. (DEDUCED, log 44.) -/
def clearPool (s : State) (x : Context) : State :=
  ((upto 9).map (32768 * ·)).foldl (fun s o =>
    if o + 64 ≤ x.poolSize then homeWrite s (.hbm (x.poolBase + o)) (List.replicate 64 0) else s) s

/-- CREATE_CONTEXT (R476, R507): TROOT and the save pool are multiples of 64 KiB; an identifier in use is busy. -/
def execCreateContext (sec : Bool) (asid : BitVec 16) (world : Bool) (troot tvec poolBase poolSize : DWord) (s : State) : Out :=
  command sec 0x01 s (fun s =>
    if (world && !sec) || !mayName s sec asid.toNat then (s, 2)
    else if troot.toNat % 65536 ≠ 0 ∨ 2 ^ 52 ≤ troot.toNat ∨ poolBase.toNat % 65536 ≠ 0 ∨ hbmBytes < poolBase.toNat + poolSize.toNat then (s, 1)
    else if (tget s.ctxs asid.toNat).isSome then (s, 3)
    else
      let x : Context :=
        { world := world, troot := troot.toNat, tvec := tvec &&& ~~~0x1FFF, poolBase := poolBase.toNat, poolSize := poolSize.toNat, seed := 0,
          hflag := 0, seq := 0, slots := [], waiting := [] }
      (clearPool { s with ctxs := tput s.ctxs asid.toNat x } x, 0))

/-- Leaves of a context from `lo` to below `hi` leave every TLB, and what was stored into lines by a name of that range is written back, by
whatever name they were brought in (R485). -/
def invalidateRange (s : State) (asid lo hi : Nat) : State :=
  let hit (e : TlbEntry) : Bool := decide (e.asid = asid) && decide (lo < e.base + e.size) && decide (e.base < hi)
  let s := (tkeys s.cores).foldl (fun s c =>
    let mine (x : L1Line) : Bool := x.names.any (fun n => decide (n.1 = asid) && decide (lo < n.2 + 128) && decide (n.2 < hi))
    let s := (((s.core c).l1.filter mine).map (·.line)).foldl (fun s l => flushLine s c l false) s
    s.modCore c (fun k => { k with tlb := k.tlb.filter (fun e => !hit e) })) s
  (tkeys s.clusters).foldl (fun s c => s.modCluster c (fun k => { k with tlb := k.tlb.filter (fun e => !hit e) })) s

/-- INVALIDATE (R485). -/
def execInvalidate (sec : Bool) (asid : BitVec 16) (base len : DWord) (s : State) : Out :=
  command sec 0x05 s (fun s =>
    if (tget s.ctxs asid.toNat).isNone then (s, 1)
    else if !mayName s sec asid.toNat then (s, 2)
    else (invalidateRange s asid.toNat base.toNat (base.toNat + len.toNat), 0))

/-- Everything of a context gone: its translations, cached code and records, queues, exit records, batches and tasks. A twin whose
B-store holds its data passes to no context without being zeroed (R345). -/
def forgetContext (s : State) (a : Nat) : State :=
  let s := invalidateRange s a 0 (2 ^ 64)
  let s := (tkeys s.cores).foldl (fun s c => s.modCore c (fun k =>
    { k with l1 := k.l1.filter (fun x => !x.names.all (fun n => decide (n.1 = a))), icache := k.icache.filter (fun x => decide (x.1.1 ≠ a)) })) s
  let s := (tkeys s.clusters).foldl (fun s c => s.modCluster c (fun k => { k with recs := k.recs.filter (fun x => decide (x.1.1 ≠ a)) })) s
  let s := (tkeys s.twins).foldl (fun s t => s.modTwin t (fun x => { x with ctx := if x.ctx = some a then some 65536 else x.ctx })) s
  let s := (tkeys s.dies).foldl (fun s d => s.modDie d (fun x =>
    { x with exits := x.exits.filter (fun e => decide (e.2.asid ≠ a)), batches := x.batches.filter (fun b => decide (b.asid ≠ a)) })) s
  { s with ctxs := tdel s.ctxs a, queues := s.queues.filter (fun q => decide (q.2.asid ≠ a) || isBackwater q.1),
           ingress := s.ingress.filter (fun x => !x.2.bound || decide (x.2.asid ≠ a)),
           launches := s.launches.filter (fun l => decide (l.2.asid ≠ a)),
           flioc := { s.flioc with tasks := s.flioc.tasks.filter (fun t => decide (t.2 ≠ a)) } }

/-- DESTROY_CONTEXT (R470, R485, R507, R515): it waits for the context's near-memory commands and collectives; a context with a launch that
has been accepted and has not ended is busy, also one that waits in the task store. (DEDUCED, log 44.) -/
def execDestroyContext (sec : Bool) (asid : BitVec 16) (s : State) : Out :=
  let a := asid.toNat
  let waits := s.nmus.any (fun u => u.2.any (fun c => decide (c.asid = a))) || s.flioc.sends.any (fun q => decide (q.2.asid = a)) || s.dies.any (fun d => d.2.colls.any (fun c => decide (c.asid = a)))
  if s.inRun && (tget s.ctxs a).isSome && mayName s sec a && waits then .refused .notEnabled
  else command sec 0x02 s (fun s =>
    if (tget s.ctxs a).isNone then (s, 1)
    else if !mayName s sec a then (s, 2)
    else if s.launches.any (fun l => decide (l.2.asid = a) && decide (l.2.state ≠ .ended)) then (s, 3)
    else (forgetContext s a, 0))

/-! ### Queues -/

/-- BIND_QUEUE (R445): a queue that holds entries or launches is busy. -/
def execBindQueue (sec : Bool) (queue : Nat) (asid : BitVec 16) (item : Bool) (ring : DWord) (depth cls tkt group : Nat) (s : State) : Out :=
  command sec 0x03 s (fun s =>
    if !mayName s sec asid.toNat || !mayQueue s sec queue then (s, 2)
    else match tget s.ctxs asid.toNat with
    | none => (s, 1)
    | some x =>
      if 8184 ≤ queue then (s, 1)
      else if ring.toNat % 8 ≠ 0 ∨ 2 ^ 52 ≤ ring.toNat ∨ !isPow2 depth ∨ 4096 < depth ∨ 4 < cls ∨ tkt = 0 ∨ 65535 < tkt ∨
          (group ≠ 0 ∧ (tget s.groups group).isNone) then (s, 1)
      else if (s.queue queue).fill ≠ 0 ∨ s.launches.any (fun l => decide (l.2.queue = queue) && decide (l.2.state ≠ .ended)) = true then (s, 3)
      else
        (s.modQueue queue (fun _ =>
          { Queue.reset with bound := true, ring := ring.toNat, depth := depth, asid := asid.toNat, world := x.world, cls := cls, tkt := tkt,
                             item := item, group := group }), 0))

/-- SET_TICKETS (R451). -/
def execSetTickets (sec : Bool) (queue tkt : Nat) (s : State) : Out :=
  command sec 0x04 s (fun s =>
    let q := s.queue queue
    if !mayQueue s sec queue then (s, 2)
    else if 8192 ≤ queue ∨ !q.bound ∨ q.item ∨ tkt = 0 ∨ 65535 < tkt then (s, 1)
    else
      let v := classTime s q.cls
      (s.modQueue queue (fun q => { q with tkt := tkt, pass := v + (q.pass - v) * stride tkt / stride q.tkt }), 0))

/-- The item queue that a command names. -/
def itemCommand (sec : Bool) (queue : Nat) (closed : Bool) (s : State) : Out :=
  command sec 0x0F s (fun s =>
    let q := s.queue queue
    if !mayQueue s sec queue then (s, 2)
    else if 8192 ≤ queue ∨ !q.bound ∨ !q.item then (s, 1)
    else (s.modQueue queue (fun q => { q with closed := closed }), 0))

/-- CLOSE_ITEM_QUEUE and OPEN_ITEM_QUEUE (R447). -/
def execCloseItemQueue (sec : Bool) (queue : Nat) (s : State) : Out := itemCommand sec queue true s
/-- OPEN_ITEM_QUEUE (R447). -/
def execOpenItemQueue (sec : Bool) (queue : Nat) (s : State) : Out := itemCommand sec queue false s

/-! ### Pre-emption and tasks -/

/-- The launches that a pre-empt command names (R458). -/
def targetLaunches (s : State) (what : PreTarget) : List (Nat × Launch) :=
  s.launches.filter (fun p => decide (p.2.state ≠ .ended) &&
    (match what with
     | .context a => decide (p.2.asid = a.toNat)
     | .queue q => decide (p.2.queue = q)
     | .launch addr => decide (p.2.addr = addr.toNat)))

/-- PRE_EMPT (R458): the gangs already placed begin to stop. -/
def execPreEmpt (sec : Bool) (what : PreTarget) (s : State) : Out :=
  command sec 0x06 s (fun s =>
    let ls := targetLaunches s what
    let named : Bool := match what with
      | .context a => mayName s sec a.toNat
      | .queue q => mayQueue s sec q
      | .launch _ => ls.all (fun p => mayName s sec p.2.asid)
    let known : Bool := match what with
      | .context a => (tget s.ctxs a.toNat).isSome
      | .queue q => decide (q < 8192) && (s.queue q).bound
      | .launch _ => !ls.isEmpty
    if !named then (s, 2)
    else if !known then (s, 1)
    else (((s.gangs.filter (fun g => ls.any (fun l => decide (l.1 = g.2.launch)))).map (·.1)).foldl preempt s, 0))

/-- A task that a command names: a launch of the task store, or a near-memory task that waits. -/
inductive Task where
  | launch (lid : Nat) (asid : Nat)
  | near (asid : Nat)

def taskAt (s : State) (addr : Nat) : Option Task :=
  match s.launches.find? (fun p => decide (p.2.addr = addr) && decide (p.2.state = .stored)) with
  | some (lid, l) => some (.launch lid l.asid)
  | none => (s.flioc.tasks.find? (fun p => decide (p.1 % 2 ^ 52 = addr))).map (fun p => .near p.2)

/-- TASK_RELEASE (R455): the task goes on as if its count had reached 0. -/
def execTaskRelease (sec : Bool) (addr : DWord) (s : State) : Out :=
  command sec 0x07 s (fun s =>
    match taskAt s addr.toNat with
    | none => (s, 1)
    | some (.launch lid a) => if mayName s sec a then (releaseLaunch s lid true, 0) else (s, 2)
    | some (.near a) =>
      if mayName s sec a then (sendTask (dropTask s a addr.toNat) a addr.toNat, 0) else (s, 2))

/-- TASK_REMOVAL (R455). -/
def execTaskRemoval (sec : Bool) (addr : DWord) (s : State) : Out :=
  command sec 0x07 s (fun s =>
    match taskAt s addr.toNat with
    | none => (s, 1)
    | some (.launch lid a) => if mayName s sec a then ({ s with launches := tdel s.launches lid }, 0) else (s, 2)
    | some (.near a) => if mayName s sec a then (dropTask s a addr.toNat, 0) else (s, 2))

/-! ### Fault records (R525) -/

/-- The posted record at an address: its context and slot. -/
def recordSlot (s : State) (addr : Nat) : Option (Nat × Nat × FaultRec) :=
  s.ctxs.findSome? (fun p => p.2.slots.findSome? (fun q => if faultSlot p.2 q.1 = addr then some (p.1, q.1, q.2) else none))

/-- What an acknowledgement does for one gang of a record: placed again, or its kernel ended. (DEDUCED, log 53.) -/
def answerGang (r : FaultRec) (again : Bool) (s : State) (gid : Nat) : State :=
  match tget s.gangs gid with
  | none => s
  | some g =>
    let idem := match tget s.launches g.launch with | some l => l.record.idem | none => false
    let queue (s : State) : State :=
      match tget s.launches g.launch with
      | some l => noteReady s l.queue
      | none => s
    if r.cls = 2 then
      if g.state ≠ .served then s
      else if again then
        queue ({ s with flioc := { s.flioc with resumes := s.flioc.resumes ++ [gid] } }.modGang gid (fun g => { g with state := .saved }))
      else abortLaunch s g.launch
    else if r.cls = 3 then
      if g.state ≠ .reported then s else if again then queueRelaunch s gid else abortLaunch s g.launch
    else if g.state ≠ .halted then s
    else if again && idem then queueRelaunch s gid
    else abortLaunch s g.launch

/-- ACKNOWLEDGE_FAULT (R525): ACTION 0 goes on, ACTION 1 ends the kernel; a hard fault's core is free again. -/
def execAcknowledgeFault (sec : Bool) (addr : DWord) (action : BitVec 8) (s : State) : Out :=
  command sec 0x08 s (fun s =>
    match recordSlot s addr.toNat with
    | none => (s, 1)
    | some (a, k, r) =>
      if !mayName s sec a then (s, 2)
      else if 2 ≤ action.toNat ∨ ofBytes (s.bytes (.hbm (addr.toNat + 0x3C)) 4) ≠ 1 then (s, 1)
      else
        let s := if r.cls = 1 then s.modCore r.core (fun c => { c with stopped := false }) else s
        let s := r.gangs.foldl (answerGang r (decide (action = 0))) s
        let s := homeWrite s (.hbm (addr.toNat + 0x3C)) (toBytes 4 0)
        let s := s.modCtx a (fun x => { x with slots := tdel x.slots k })
        ((postRecord s a).getD s, 0))

/-! ### Groups, keys, ingress, events, attestation, power -/

/-- SET_LAUNCH_GROUP (R511): 2 to 64 members. A new generation ends the group's collectives (R515). -/
def execSetLaunchGroup (sec : Bool) (group n rank : Nat) (gen : Word) (routes : List Nat) (s : State) : Out :=
  command sec 0x09 s (fun s =>
    if group = 0 ∨ 65536 ≤ group ∨ n < 2 ∨ 64 < n ∨ n ≤ rank ∨ routes.length ≠ n ∨ routes.any (fun p => decide (16 ≤ p)) = true then (s, 1)
    else
      let old := tget s.groups group
      let moved : Bool := match old with | some g => decide (g.gen ≠ gen.toNat) | none => false
      let s := if moved then (endColls s group 3).bump else s
      let posted := match old with | some g => if moved then 0 else g.posted | none => 0
      ({ s with groups := tput s.groups group { n := n, rank := rank, gen := gen.toNat, routes := routes, posted := posted } }, 0))

/-- INSTALL_KEY (R371): only from the secure mailbox. -/
def execInstallKey (sec : Bool) (slot : Nat) (key : BitVec 256) (both : Bool) (s : State) : Out :=
  command sec 0x0A s (fun s =>
    if !sec then (s, 2)
    else if 64 ≤ slot then (s, 1)
    else ({ s with keys := tput s.keys slot { key := key, both := both } }, 0))

/-- BIND_INGRESS_QUEUE (R519): one that holds descriptors is busy. -/
def execBindIngressQueue (sec : Bool) (j : Nat) (asid : BitVec 16) (base size : DWord) (s : State) : Out :=
  command sec 0x0B s (fun s =>
    if !mayName s sec asid.toNat || ((s.ingressOf j).bound && !mayName s sec (s.ingressOf j).asid) then (s, 2)
    else if 16 ≤ j ∨ (tget s.ctxs asid.toNat).isNone ∨ hbmBytes < base.toNat + size.toNat then (s, 1)
    else if (s.ingressOf j).held ≠ [] then (s, 3)
    else (s.modIngress j (fun _ => { Ingress.reset with bound := true, asid := asid.toNat, base := base.toNat, size := size.toNat }), 0))

/-- SET_EVENT_RING (R508). -/
def execSetEventRing (sec : Bool) (base count : DWord) (s : State) : Out :=
  command sec 0x0C s (fun s =>
    if !isPow2 count.toNat ∨ 2 ^ 32 ≤ count.toNat then (s, 1)
    else ({ s with ring := { set := true, base := base.toNat, count := count.toNat, widx := 0, ridx := 0 } }, 0))

/-- PART, "SLN42176" in ASCII (R535). (DEDUCED, log 63.) -/
def partBytes : List Byte := [0x53, 0x4C, 0x4E, 0x34, 0x32, 0x31, 0x37, 0x36]

/-- The SPARE word: the spares in use as self-test has counted them, and until then what is fused (R535, R539). -/
def spareOf (p : Platform) : Word := p.spare.getD (BitVec.ofNat 32 (Config.fused 3).toNat)

/-- The signed part of an attestation report (R538). -/
def reportBytes (s : State) (nonce : BitVec 256) : List Byte :=
  let p := s.plat
  partBytes ++ toBytes 8 (Config.fused 1).toNat ++ toBytes 4 p.svn.toNat ++ toBytes 4 (spareOf p).toNat ++
  toBytes 32 p.fwm.toNat ++ toBytes 32 p.cfgHash.toNat ++ toBytes 32 nonce.toNat

/-- ATTESTATION (R538): the nonce stands at byte 8 of the mailbox, the address at byte 40; the report with its signature of 17,088 bytes, and the certificate at 17,216. -/
def execAttestation (sec : Bool) (nonce : BitVec 256) (addr : DWord) (s : State) : Out :=
  commandOf sec 0x0D (fun m => decide (m.operand 8 32 = nonce.toNat) && decide (m.operand 40 8 = addr.toNat)) s (fun s =>
    let a := addr.toNat
    let cert := Config.certificate
    if a % 64 ≠ 0 ∨ hbmBytes < a + 17216 + cert.length then (s, 1)
    else if !sec && meetsSecure s a (17216 + cert.length) then (s, 2)
    else
      let body := reportBytes s nonce
      let sig := (Config.sign body ++ List.replicate 17088 0).take 17088
      (homeWrite (homeWrite s (.hbm a) (body ++ sig)) (.hbm (a + 17216)) cert, 0))

/-- SET_POWER_LIMIT (R540): the watts stand at byte 8 of the mailbox, in 8 bytes. (DESIGN CHOICE, log 44.) -/
def execSetPowerLimit (sec : Bool) (watts : DWord) (s : State) : Out :=
  commandOf sec 0x0E (fun m => decide (m.operand 8 8 = watts.toNat)) s (fun s =>
    if watts.toNat < 2400 ∨ 3600 < watts.toNat then (s, 1) else ({ s with plat := { s.plat with plim := watts.toNat } }, 0))

end Sys2Proof.Machine
end

