-- ==== Sys2Proof/Machine/Power.lean ====
section
/-! DEFINITION. Reset and loss of power, bring-up (R2, R445, R534 to R539), clocks and temperature (R540), bit errors and the scrubber (R529,
R530). -/
namespace Sys2Proof.Machine
open Sys2Proof

/-! ### Reset -/

/-- The state after a reset: what the part keeps is the FSVN that verified images have asked for (R536). The agents' turns and the
draws of free values go on. -/
def resetFrom (s : State) : State :=
  { State.reset with turns := s.turns, free := s.free + 1, plat := { Platform.reset with fsvnUp := s.plat.fsvnUp } }

/-- POWER_ON_RESET (R534, R535). -/
def execPowerOnReset (s : State) : Out := .next (resetFrom s)

/-- POWER_LOSS (R2): the run ends, and nothing acts until power returns. -/
def execPowerLoss (s : State) : Out :=
  let s := resetFrom s
  .next { s with plat := { s.plat with off := true } }

/-! ### Bring-up -/

/-- The Backwater queue of a die, bound at the start of each run (R445). -/
def backwaterQueue : Queue := { Queue.reset with bound := true, depth := 2, cls := 2, tkt := 1024 }

/-- The lowest SVN that the fuses accept: the part's own, of 16 bits, or a higher one that an image has asked for (R535, R536). -/
def fsvn (s : State) : Nat := max ((Config.fused 2).toNat % 65536) s.plat.fsvnUp

/-- The failing Reach cores of a die in ascending order, and its spares that self-test finds good, in fuse order (R539). (DESIGN CHOICE, log 45.) -/
def failingReach (x : FirmwareImage) (d : Nat) : List Nat :=
  sortBy id ((x.failing.filter (fun c => decide (c < 2048) && decide (dieOf c = d))).eraseDups)
def goodSpares (x : FirmwareImage) (d : Nat) : List Nat := (upto 8).filter (fun k => !x.badSpares.contains (8 * d + k))

/-- Whether every failing core has a spare of its die; a failing Riffle core has none (R539). -/
def repairable (x : FirmwareImage) : Bool :=
  !x.failing.any isRiffle && (upto 8).all (fun d => decide ((failingReach x d).length ≤ (goodSpares x d).length))

/-- The spare that stands for each failing core, and the SPARE word that counts those in use (R535, R539). -/
def repairMap (x : FirmwareImage) : SMap Nat :=
  (upto 8).flatMap (fun d => (failingReach x d).zip ((goodSpares x d).map (8 * d + ·)))
def spareWord (x : FirmwareImage) : Word := BitVec.ofNat 32 (((upto 8).map (fun d => (failingReach x d).length * 16 ^ d)).sum)

/-- The scaled parts that a configuration block fixes, within their ranges (R535, R537). -/
def imageSch (x : FirmwareImage) : Nat := min 16384 (Config.configSch x.config)
def imageSce (x : FirmwareImage) : Nat := min 12 (Config.configSce x.config)
def imageSvn (x : FirmwareImage) : Word := Config.manifestSvn x.manifest

/-- Whether an image is signed: the signature over the manifest is good, and the digests that the manifest holds match (R536). -/
def imageSigned (x : FirmwareImage) : Bool :=
  Config.signatureOk x.manifest && decide (sha256 x.code = toBytes 32 (Config.manifestCodeHash x.manifest).toNat) &&
  decide (sha256 x.config = toBytes 32 (Config.manifestConfigHash x.manifest).toNat)

/-- The first check of R536 that an image fails; 0 where it passes them all. -/
def bootFail (s : State) (x : FirmwareImage) : Nat :=
  if !x.readable then 4
  else if !imageSigned x then 1
  else if (imageSvn x).toNat < fsvn s then 2
  else if !repairable x then 3
  else 0

/-- FIRMWARE_VERIFY (R535 to R537, R539): first the flash is read, BSTATE 1; then the image is verified and the run starts, and sr.lclk counts
from there (R265), or the device stays failed until the next reset. (DEDUCED, log 45.) -/
def execFirmwareVerify (x : FirmwareImage) (s : State) : Out :=
  let fails (k : Nat) : Out := .next { s with plat := { s.plat with bstate := 3, fail := k } }
  if s.plat.off ∨ 2 ≤ s.plat.bstate then .refused .notEnabled
  else if s.plat.bstate = 0 then (if x.readable then .next { s with plat := { s.plat with bstate := 1 } } else fails 4)
  else if bootFail s x ≠ 0 then fails (bootFail s x)
  else
    let image := x.manifest ++ x.code ++ x.config
    .next { s with
      now := 0
      queues := (upto 8).foldl (fun m d => tput m (8184 + d) backwaterQueue) s.queues,
      plat := { s.plat with
        bstate := 2, svn := imageSvn x, fwm := BitVec.ofNat 256 (ofBytes (sha256 image)),
        cfgHash := BitVec.ofNat 256 (ofBytes (sha256 x.config)), sch := imageSch x, sce := imageSce x,
        secure := Config.configSecure x.config, limit := Config.configLimit x.config,
        fsvnUp := if Config.manifestRaises x.manifest then max s.plat.fsvnUp ((imageSvn x).toNat % 65536) else s.plat.fsvnUp,
        repair := repairMap x, spare := some (spareWord x) } }

/-! ### Clocks (R540) -/

/-- What the sensors report. -/
def sensed (p : Platform) (pwr tj : Nat) : Platform := { p with pwr := pwr, tj := tj }

/-- THROTTLE: one step of 25 MHz, not below 300 MHz. The power that would exceed PLIM does not: the average stays at most there. At 110 °C the
device resets itself instead. -/
def execThrottle (pwr tj : Nat) (s : State) : Out :=
  if !s.inRun ∨ (pwr ≤ s.plat.plim ∧ tj < 100) ∨ 110 ≤ tj then .refused .notEnabled
  else .next { s with plat := { sensed s.plat (min pwr s.plat.plim) tj with clk := max 300 (s.plat.clk - 25), calm := s.now } }

/-- 10 ms in cycles of three to a Reach cycle, at a Reach clock in MHz. -/
def calmCycles (clk : Nat) : Nat := 30000 * clk

/-- CLOCK_RESTORE: both conditions have been clear for 10 ms. -/
def execClockRestore (pwr tj : Nat) (s : State) : Out :=
  if !s.inRun ∨ s.plat.plim < pwr ∨ 100 ≤ tj ∨ 600 ≤ s.plat.clk ∨ s.now < s.plat.calm + calmCycles s.plat.clk then .refused .notEnabled
  else .next { s with plat := { sensed s.plat pwr tj with clk := 600 } }

/-- OVERTEMP_RESET. -/
def execOvertempReset (tj : Nat) (s : State) : Out :=
  if s.plat.off ∨ tj < 110 then .refused .notEnabled else .next (resetFrom s)

/-- The sensors in a run report what they find: no power above PLIM, and a temperature at which nothing is done; a higher one comes with a
THROTTLE or a reset (R535, R540). (DESIGN CHOICE, log 45.) -/
def State.sense (s : State) : Platform :=
  if s.inRun then sensed s.plat (Config.freePick s.free 50 % (s.plat.plim + 1)) (Config.freePick s.free 51 % 100) else s.plat

/-! ### Bit errors -/

/-- The number of the granule that an uncorrectable error poisons (R530). -/
def poisonKey (x : SoftError) : Option Nat :=
  match x with
  | .corrected _ => none
  | .hbm a => some (granuleKey (.hbm a))
  | .est a => some (granuleKey (.est a))
  | .scratch b o => some (granuleKey (.scratch b o))
  | .clus g o => some (granuleKey (.clus g o))
  | .lane w t o => some (granuleKey (.lane w t o))
  | .side true l => some (sideKey (.hbm (128 * l)))
  | .side false l => some (sideKey (.est (128 * l)))
  | .scratchSide b l => some (sideKey (.scratch b (128 * l)))
  | .clusSide g l => some (sideKey (.clus g (128 * l)))
  | .register w r t => some (regGranule ((w * 1024 + r) * 32 + t % 32))
  | .accumulator c r k => some (accGranule c r k)
  | .bstore c k o => some (granuleKey (.bst c k o))
  | .bscale c k o => some (entryGranule (bentry c k o) false)
  | .bmeta c k o => some (entryGranule (bentry c k o) true)

/-- SOFT_ERROR: a corrected error is counted and changes nothing (R529); an uncorrectable one poisons its granule (R530). -/
def execSoftError (x : SoftError) (s : State) : Out :=
  if s.plat.off then .refused .notEnabled
  else
    match x, poisonKey x with
    | .corrected hbm, _ =>
      .next { s with plat := if hbm then { s.plat with chbm := s.plat.chbm + 1 } else { s.plat with csram := s.plat.csram + 1 } }
    | _, none => .next s
    | _, some k => .next (if s.poison.contains k then s else { s with poison := s.poison ++ [k] })

/-- The detail of event 8: the address within its storage, and the unit: the home of an HBM4E address, for any other storage its kind. -/
def poisonDetail (k : Nat) : List Byte :=
  let n := k / 2
  let a := n / 16
  toBytes 8 a ++ toBytes 4 (if n % 16 = 0 then nmHome a else 128 + n % 16)

/-- SCRUB_PASS (R529): corrected errors are counted, poison that is found is reported. -/
def execScrubPass (corrected hbm : Nat) (s : State) : Out :=
  if !s.inRun then .refused .notEnabled
  else
    let s := { s with plat := { s.plat with csram := s.plat.csram + BitVec.ofNat 64 corrected, chbm := s.plat.chbm + BitVec.ofNat 64 hbm } }
    .next (s.poison.foldl (fun s k => postEvent s 8 0 (poisonDetail k)) s)

end Sys2Proof.Machine
end

