-- ==== Sys2Proof/Machine/Dispatch.lean ====
section
/-! DEFINITION. One arm per constructor of `Instr`. -/
namespace Sys2Proof.Machine

/-- What an instruction or an event does to a state. An instruction acts for the split that `State.cur` names. -/
def exec (i : Instr) (s : State) : Host.Outcome State Fault Refusal :=
  match i with
  | .nop f v => Sys2Proof.Machine.execNop f v s
  | .bra f off j => Sys2Proof.Machine.execBra f off j s
  | .braDec f c off j => Sys2Proof.Machine.execBraDec f c off j s
  | .brx f a j => Sys2Proof.Machine.execBrx f a j s
  | .call f off => Sys2Proof.Machine.execCall f off s
  | .callx f a => Sys2Proof.Machine.execCallx f a s
  | .ret f => Sys2Proof.Machine.execRet f s
  | .confl f j => Sys2Proof.Machine.execConfl f j s
  | .exit f => Sys2Proof.Machine.execExit f s
  | .trap f v cause => Sys2Proof.Machine.execTrap f v cause s
  | .svc f v => Sys2Proof.Machine.execSvc f v s
  | .bkpt f v => Sys2Proof.Machine.execBkpt f v s
  | .rth f => Sys2Proof.Machine.execRth f s
  | .yieldw f => Sys2Proof.Machine.execYieldw f s
  | .waitv f d a off c spc sz scope ne => Sys2Proof.Machine.execWaitv f d a off c spc sz scope ne s
  | .movs f d sr => Sys2Proof.Machine.execMovs f d sr s
  | .sets f b sr => Sys2Proof.Machine.execSets f b sr s
  | .mov f d b => Sys2Proof.Machine.execMov f d b s
  | .iadd f d a b c sat => Sys2Proof.Machine.execIadd f d a b c sat s
  | .isub f d a b c sat => Sys2Proof.Machine.execIsub f d a b c sat s
  | .imul f d a b => Sys2Proof.Machine.execImul f d a b s
  | .imulh f d a b u => Sys2Proof.Machine.execImulh f d a b u s
  | .imad f d a b c wide u => Sys2Proof.Machine.execImad f d a b c wide u s
  | .imin f d a b u => Sys2Proof.Machine.execImin f d a b u s
  | .imax f d a b u => Sys2Proof.Machine.execImax f d a b u s
  | .iabs f d a => Sys2Proof.Machine.execIabs f d a s
  | .iadd64 f d a b neg bext => Sys2Proof.Machine.execIadd64 f d a b neg bext s
  | .lea f d a b c sh bu => Sys2Proof.Machine.execLea f d a b c sh bu s
  | .isad f d a b c u => Sys2Proof.Machine.execIsad f d a b c u s
  | .idot4 f d a b c au bu sat => Sys2Proof.Machine.execIdot4 f d a b c au bu sat s
  | .sel f d a b c neg => Sys2Proof.Machine.execSel f d a b c neg s
  | .prmt f d a b c swp => Sys2Proof.Machine.execPrmt f d a b c swp s
  | .moviRead f d a base => Sys2Proof.Machine.execMoviRead f d a base s
  | .moviWrite f a b base => Sys2Proof.Machine.execMoviWrite f a b base s
  | .and f d a b => Sys2Proof.Machine.execAnd f d a b s
  | .or f d a b => Sys2Proof.Machine.execOr f d a b s
  | .xor f d a b => Sys2Proof.Machine.execXor f d a b s
  | .andn f d a b => Sys2Proof.Machine.execAndn f d a b s
  | .shl f d a b => Sys2Proof.Machine.execShl f d a b s
  | .shr f d a b => Sys2Proof.Machine.execShr f d a b s
  | .sar f d a b => Sys2Proof.Machine.execSar f d a b s
  | .rot f d a b => Sys2Proof.Machine.execRot f d a b s
  | .popc f d a => Sys2Proof.Machine.execPopc f d a s
  | .clz f d a => Sys2Proof.Machine.execClz f d a s
  | .brev f d a => Sys2Proof.Machine.execBrev f d a s
  | .bfx f d a b sx => Sys2Proof.Machine.execBfx f d a b sx s
  | .bfi f d a b c => Sys2Proof.Machine.execBfi f d a b c s
  | .lop3 f d a b c tt => Sys2Proof.Machine.execLop3 f d a b c tt s
  | .icmp f d c2 a b cond u => Sys2Proof.Machine.execIcmp f d c2 a b cond u s
  | .fcmp f d c2 a b cond u t => Sys2Proof.Machine.execFcmp f d c2 a b cond u t s
  | .fclass f d a mask t => Sys2Proof.Machine.execFclass f d a mask t s
  | .vote f op d a => Sys2Proof.Machine.execVote f op d a s
  | .matchw f wide d c2 a => Sys2Proof.Machine.execMatchw f wide d c2 a s
  | .fadd f d a b rnd na nb aa ab sat => Sys2Proof.Machine.execFadd f d a b rnd na nb aa ab sat s
  | .fsub f d a b rnd na nb aa ab sat => Sys2Proof.Machine.execFsub f d a b rnd na nb aa ab sat s
  | .fmul f d a b rnd na nb aa ab sat => Sys2Proof.Machine.execFmul f d a b rnd na nb aa ab sat s
  | .ffma f d a b c rnd na nb aa ab sat nc ac => Sys2Proof.Machine.execFfma f d a b c rnd na nb aa ab sat nc ac s
  | .fmin f d a b => Sys2Proof.Machine.execFmin f d a b s
  | .fmax f d a b => Sys2Proof.Machine.execFmax f d a b s
  | .frcp f d a => Sys2Proof.Machine.execFrcp f d a s
  | .frsq f d a => Sys2Proof.Machine.execFrsq f d a s
  | .fsqrt f d a rnd => Sys2Proof.Machine.execFsqrt f d a rnd s
  | .fexp2 f d a => Sys2Proof.Machine.execFexp2 f d a s
  | .flog2 f d a => Sys2Proof.Machine.execFlog2 f d a s
  | .fsincos f d c2 a => Sys2Proof.Machine.execFsincos f d c2 a s
  | .ftanh f d a => Sys2Proof.Machine.execFtanh f d a s
  | .fdiv f d a b rnd => Sys2Proof.Machine.execFdiv f d a b rnd s
  | .h2add f d a b rnd bf na nb => Sys2Proof.Machine.execH2add f d a b rnd bf na nb s
  | .h2mul f d a b rnd bf na nb => Sys2Proof.Machine.execH2mul f d a b rnd bf na nb s
  | .h2fma f d a b c rnd bf na nb nc => Sys2Proof.Machine.execH2fma f d a b c rnd bf na nb nc s
  | .h2min f d a b bf => Sys2Proof.Machine.execH2min f d a b bf s
  | .h2max f d a b bf => Sys2Proof.Machine.execH2max f d a b bf s
  | .cvt f d a sty dt rnd => Sys2Proof.Machine.execCvt f d a sty dt rnd s
  | .cvti f d a sty dt rnd => Sys2Proof.Machine.execCvti f d a sty dt rnd s
  | .cvtf f d a sty dt rnd => Sys2Proof.Machine.execCvtf f d a sty dt rnd s
  | .pack2 f d a b c dt rnd k => Sys2Proof.Machine.execPack2 f d a b c dt rnd k s
  | .unpk2 f d c2 a sty k => Sys2Proof.Machine.execUnpk2 f d c2 a sty k s
  | .srnd f d a b dt strm => Sys2Proof.Machine.execSrnd f d a b dt strm s
  | .bmax f kind d a t => Sys2Proof.Machine.execBmax f kind d a t s
  | .bmin f kind d a t => Sys2Proof.Machine.execBmin f kind d a t s
  | .bscale f mode d a bf => Sys2Proof.Machine.execBscale f mode d a bf s
  | .bzp f zf d a b => Sys2Proof.Machine.execBzp f zf d a b s
  | .bquant f mode d c2 a b bf rnd strm => Sys2Proof.Machine.execBquant f mode d c2 a b bf rnd strm s
  | .bdeq f d a b bf dt rnd => Sys2Proof.Machine.execBdeq f d a b bf dt rnd s
  | .bpack f d a b bf grp part => Sys2Proof.Machine.execBpack f d a b bf grp part s
  | .bunpk f d c2 a bf grp part => Sys2Proof.Machine.execBunpk f d c2 a bf grp part s
  | .bhealth f mode d a b bf rnd => Sys2Proof.Machine.execBhealth f mode d a b bf rnd s
  | .brescale f d a b c bf rnd strm => Sys2Proof.Machine.execBrescale f d a b c bf rnd strm s
  | .shfl f mode d c2 a b seg => Sys2Proof.Machine.execShfl f mode d c2 a b seg s
  | .redw f op d a => Sys2Proof.Machine.execRedw f op d a s
  | .scanw f op d a excl => Sys2Proof.Machine.execScanw f op d a excl s
  | .bcastw f d a b low => Sys2Proof.Machine.execBcastw f d a b low s
  | .ld f d a off spc sz ch => Sys2Proof.Machine.execLd f d a off spc sz ch s
  | .st f a off c spc sz ch => Sys2Proof.Machine.execSt f a off c spc sz ch s
  | .lds f d a off spc sz => Sys2Proof.Machine.execLds f d a off spc sz s
  | .sts f a off c spc sz => Sys2Proof.Machine.execSts f a off c spc sz s
  | .ldbs f pk d a off bf grp part nc => Sys2Proof.Machine.execLdbs f pk d a off bf grp part nc s
  | .stbs f pk a off c bf grp part nc => Sys2Proof.Machine.execStbs f pk a off c bf grp part nc s
  | .ldsc f d c2 a b => Sys2Proof.Machine.execLdsc f d c2 a b s
  | .stsc f a b c desc => Sys2Proof.Machine.execStsc f a b c desc s
  | .ldaq f d a off spc sz scope => Sys2Proof.Machine.execLdaq f d a off spc sz scope s
  | .strl f a off c spc sz scope => Sys2Proof.Machine.execStrl f a off c spc sz scope s
  | .pref f lvl a off spc => Sys2Proof.Machine.execPref f lvl a off spc s
  | .cflushWb f a => Sys2Proof.Machine.execCflushWb f a s
  | .cflushWbinv f a => Sys2Proof.Machine.execCflushWbinv f a s
  | .cflushWball f => Sys2Proof.Machine.execCflushWball f s
  | .cflushWbinvall f => Sys2Proof.Machine.execCflushWbinvall f s
  | .wayset f d a => Sys2Proof.Machine.execWayset f d a s
  | .atom f op d a off c spc sz scope ord => Sys2Proof.Machine.execAtom f op d a off c spc sz scope ord s
  | .atomc f d a off c spc sz scope ord => Sys2Proof.Machine.execAtomc f d a off c spc sz scope ord s
  | .red f op a off c spc sz scope ord => Sys2Proof.Machine.execRed f op a off c spc sz scope ord s
  | .fenceFull f scope => Sys2Proof.Machine.execFenceFull f scope s
  | .fenceAcq f scope => Sys2Proof.Machine.execFenceAcq f scope s
  | .fenceRel f scope => Sys2Proof.Machine.execFenceRel f scope s
  | .chunk f d a => Sys2Proof.Machine.execChunk f d a s
  | .slxCopy f d a b c => Sys2Proof.Machine.execSlxCopy f d a b c s
  | .slxCvt f d a b c => Sys2Proof.Machine.execSlxCvt f d a b c s
  | .slxRescale f d a b c => Sys2Proof.Machine.execSlxRescale f d a b c s
  | .slxTr f d a b c => Sys2Proof.Machine.execSlxTr f d a b c s
  | .slxFill f d a b c => Sys2Proof.Machine.execSlxFill f d a b c s
  | .slxKvg f d a b c => Sys2Proof.Machine.execSlxKvg f d a b c s
  | .slxTagck f d a b c => Sys2Proof.Machine.execSlxTagck f d a b c s
  | .bseal f d => Sys2Proof.Machine.execBseal f d s
  | .bwait f d a => Sys2Proof.Machine.execBwait f d a s
  | .flput f d a n => Sys2Proof.Machine.execFlput f d a n s
  | .flget f d a n => Sys2Proof.Machine.execFlget f d a n s
  | .flwaitData f d a n => Sys2Proof.Machine.execFlwaitData f d a n s
  | .flwaitRoom f d a n => Sys2Proof.Machine.execFlwaitRoom f d a n s
  | .weirsetSet f a w => Sys2Proof.Machine.execWeirsetSet f a w s
  | .weirsetClr f w => Sys2Proof.Machine.execWeirsetClr f w s
  | .engsyncCmp f => Sys2Proof.Machine.execEngsyncCmp f s
  | .engsyncPub f scope => Sys2Proof.Machine.execEngsyncPub f scope s
  | .convene f d rid kc => Sys2Proof.Machine.execConvene f d rid kc s
  | .disband f => Sys2Proof.Machine.execDisband f s
  | .tmma f a b hdr => Sys2Proof.Machine.execTmma f a b hdr s
  | .tmmaw f a b hdr grp => Sys2Proof.Machine.execTmmaw f a b hdr grp s
  | .tmmaz f a b hdr grp => Sys2Proof.Machine.execTmmaz f a b hdr grp s
  | .tmmas f a b hdr => Sys2Proof.Machine.execTmmas f a b hdr s
  | .taccZero f a => Sys2Proof.Machine.execTaccZero f a s
  | .taccLive f a => Sys2Proof.Machine.execTaccLive f a s
  | .taccDead f a => Sys2Proof.Machine.execTaccDead f a s
  | .taccMul f a c => Sys2Proof.Machine.execTaccMul f a c s
  | .trdReg f d a dt q rnd => Sys2Proof.Machine.execTrdReg f d a dt q rnd s
  | .trdRec f a b c dt rnd ocp => Sys2Proof.Machine.execTrdRec f a b c dt rnd ocp s
  | .twrReg f d a dt q => Sys2Proof.Machine.execTwrReg f d a dt q s
  | .twrRec f a b dt => Sys2Proof.Machine.execTwrRec f a b dt s
  | .tew f fn a b c dtile sx s2 => Sys2Proof.Machine.execTew f fn a b c dtile sx s2 s
  | .tred f op a dtile sx => Sys2Proof.Machine.execTred f op a dtile sx s
  | .tsmx f a c dtile sx => Sys2Proof.Machine.execTsmx f a c dtile sx s
  | .tnorm f a c dtile sx => Sys2Proof.Machine.execTnorm f a c dtile sx s
  | .tcvt f mode a bf rnd strm => Sys2Proof.Machine.execTcvt f mode a bf rnd strm s
  | .bsload f a b sp => Sys2Proof.Machine.execBsload f a b sp s
  | .rcfence f => Sys2Proof.Machine.execRcfence f s
  | .kvxlt f d c2 a b n acq => Sys2Proof.Machine.execKvxlt f d c2 a b n acq s
  | .kvapp f d c2 a n => Sys2Proof.Machine.execKvapp f d c2 a n s
  | .roleGet f d => Sys2Proof.Machine.execRoleGet f d s
  | .roleSet f role => Sys2Proof.Machine.execRoleSet f role s
  | .tbarInit f d a n => Sys2Proof.Machine.execTbarInit f d a n s
  | .tbarArrive f d a n => Sys2Proof.Machine.execTbarArrive f d a n s
  | .tbarWait f d a n => Sys2Proof.Machine.execTbarWait f d a n s
  | .tbarArwt f d a n => Sys2Proof.Machine.execTbarArwt f d a n s
  | .cftest f d a b c => Sys2Proof.Machine.execCftest f d a b c s
  | .exittok f d a b n => Sys2Proof.Machine.execExittok f d a b n s
  | .bfwait f d a b n => Sys2Proof.Machine.execBfwait f d a b n s
  | .recon f d a => Sys2Proof.Machine.execRecon f d a s
  | .recoff f => Sys2Proof.Machine.execRecoff f s
  | .ebb f d a => Sys2Proof.Machine.execEbb f d a s
  | .ebbstat f fld d a => Sys2Proof.Machine.execEbbstat f fld d a s
  | .migrRiffle f d => Sys2Proof.Machine.execMigrRiffle f d s
  | .migrReach f d => Sys2Proof.Machine.execMigrReach f d s
  | .migrCancel f d => Sys2Proof.Machine.execMigrCancel f d s
  | .portage f v => Sys2Proof.Machine.execPortage f v s
  | .barSync f a n => Sys2Proof.Machine.execBarSync f a n s
  | .barArr f a n => Sys2Proof.Machine.execBarArr f a n s
  | .gbar f scope => Sys2Proof.Machine.execGbar f scope s
  | .xlock f => Sys2Proof.Machine.execXlock f s
  | .xfree f => Sys2Proof.Machine.execXfree f s
  | .nmq f d a scope => Sys2Proof.Machine.execNmq f d a scope s
  | .nmwaitWait f d a => Sys2Proof.Machine.execNmwaitWait f d a s
  | .nmwaitTest f d a => Sys2Proof.Machine.execNmwaitTest f d a s
  | .tqpopWait f d a => Sys2Proof.Machine.execTqpopWait f d a s
  | .tqpopTry f d a => Sys2Proof.Machine.execTqpopTry f d a s
  | .tqpushWait f d a b => Sys2Proof.Machine.execTqpushWait f d a b s
  | .tqpushTry f d a b => Sys2Proof.Machine.execTqpushTry f d a b s
  | .tqpushClose f d a => Sys2Proof.Machine.execTqpushClose f d a s
  | .launch f d a => Sys2Proof.Machine.execLaunch f d a s
  | .coll f op d a b => Sys2Proof.Machine.execColl f op d a b s
  | .resultWriteback warp => Sys2Proof.Machine.execResultWriteback warp s
  | .instructionCompletion warp k => Sys2Proof.Machine.execInstructionCompletion warp k s
  | .minimumLatencyRelease warp k => Sys2Proof.Machine.execMinimumLatencyRelease warp k s
  | .inWarpTrapEntry warp => Sys2Proof.Machine.execInWarpTrapEntry warp s
  | .splitAged warp ent => Sys2Proof.Machine.execSplitAged warp ent s
  | .yieldRelease warp ent => Sys2Proof.Machine.execYieldRelease warp ent s
  | .waitvSatisfied warp ent => Sys2Proof.Machine.execWaitvSatisfied warp ent s
  | .flumeWaitSatisfied warp ent => Sys2Proof.Machine.execFlumeWaitSatisfied warp ent s
  | .bfwaitSatisfied warp ent => Sys2Proof.Machine.execBfwaitSatisfied warp ent s
  | .disbandComplete warp ent => Sys2Proof.Machine.execDisbandComplete warp ent s
  | .kvappProceed warp ent => Sys2Proof.Machine.execKvappProceed warp ent s
  | .arrayOperationStart twin => Sys2Proof.Machine.execArrayOperationStart twin s
  | .arrayOperationDone twin => Sys2Proof.Machine.execArrayOperationDone twin s
  | .migrate warp => Sys2Proof.Machine.execMigrate warp s
  | .warpEnd warp => Sys2Proof.Machine.execWarpEnd warp s
  | .sluiceCommandStart core => Sys2Proof.Machine.execSluiceCommandStart core s
  | .weirDiscard core => Sys2Proof.Machine.execWeirDiscard core s
  | .sluiceGranule core k => Sys2Proof.Machine.execSluiceGranule core k s
  | .operandFetchFault gang => Sys2Proof.Machine.execOperandFetchFault gang s
  | .gangScrub gang => Sys2Proof.Machine.execGangScrub gang s
  | .coreStop core => Sys2Proof.Machine.execCoreStop core s
  | .hostServedFault gang => Sys2Proof.Machine.execHostServedFault gang s
  | .faultRecordPost asid => Sys2Proof.Machine.execFaultRecordPost asid s
  | .watchdogExpiry warp => Sys2Proof.Machine.execWatchdogExpiry warp s
  | .gangSave gang => Sys2Proof.Machine.execGangSave gang s
  | .dispatchDecision => Sys2Proof.Machine.execDispatchDecision s
  | .clusterReservation queue => Sys2Proof.Machine.execClusterReservation queue s
  | .queueEntryTaken queue => Sys2Proof.Machine.execQueueEntryTaken queue s
  | .nadam unit k => Sys2Proof.Machine.execNadam unit k s
  | .nsgdm unit k => Sys2Proof.Machine.execNsgdm unit k s
  | .nmsearch unit k => Sys2Proof.Machine.execNmsearch unit k s
  | .nredadd unit k => Sys2Proof.Machine.execNredadd unit k s
  | .ncopy unit k => Sys2Proof.Machine.execNcopy unit k s
  | .nfill unit k => Sys2Proof.Machine.execNfill unit k s
  | .ncow unit k => Sys2Proof.Machine.execNcow unit k s
  | .nref unit k => Sys2Proof.Machine.execNref unit k s
  | .ncntAdd unit k => Sys2Proof.Machine.execNcntAdd unit k s
  | .ncntRead unit k => Sys2Proof.Machine.execNcntRead unit k s
  | .ncntWrite unit k => Sys2Proof.Machine.execNcntWrite unit k s
  | .nchunk unit k => Sys2Proof.Machine.execNchunk unit k s
  | .nquant unit k => Sys2Proof.Machine.execNquant unit k s
  | .ntagchk unit k => Sys2Proof.Machine.execNtagchk unit k s
  | .nmuCommandComplete unit k => Sys2Proof.Machine.execNmuCommandComplete unit k s
  | .backwaterAgeTimeout die => Sys2Proof.Machine.execBackwaterAgeTimeout die s
  | .backfillLaunchEnd die batch => Sys2Proof.Machine.execBackfillLaunchEnd die batch s
  | .collectiveStart die => Sys2Proof.Machine.execCollectiveStart die s
  | .ingressRun j => Sys2Proof.Machine.execIngressRun j s
  | .blockHealthFlush blk => Sys2Proof.Machine.execBlockHealthFlush blk s
  | .illegalInstruction warp ent => Sys2Proof.Machine.execIllegalInstruction warp ent s
  | .fetchFault warp ent => Sys2Proof.Machine.execFetchFault warp ent s
  | .l1Eviction core k => Sys2Proof.Machine.execL1Eviction core k s
  | .collectiveEnd die peers match_ => Sys2Proof.Machine.execCollectiveEnd die peers match_ s
  | .launchPacket group gen queue bytes => Sys2Proof.Machine.execLaunchPacket group gen queue bytes s
  | .launchPacketAnswer launch accepted => Sys2Proof.Machine.execLaunchPacketAnswer launch accepted s
  | .portDown port => Sys2Proof.Machine.execPortDown port s
  | .flitReplay port => Sys2Proof.Machine.execFlitReplay port s
  | .peerAccess rank addr access => Sys2Proof.Machine.execPeerAccess rank addr access s
  | .hostWrite sec addr bytes => Sys2Proof.Machine.execHostWrite sec addr bytes s
  | .hostRead sec addr n => Sys2Proof.Machine.execHostRead sec addr n s
  | .queueKick queue tail => Sys2Proof.Machine.execQueueKick queue tail s
  | .ingressDescriptorTrigger j bytes => Sys2Proof.Machine.execIngressDescriptorTrigger j bytes s
  | .ridxWrite v => Sys2Proof.Machine.execRidxWrite v s
  | .registerWriteOther bar addr bytes => Sys2Proof.Machine.execRegisterWriteOther bar addr bytes s
  | .createContext sec asid world troot tvec poolBase poolSize => Sys2Proof.Machine.execCreateContext sec asid world troot tvec poolBase poolSize s
  | .destroyContext sec asid => Sys2Proof.Machine.execDestroyContext sec asid s
  | .bindQueue sec queue asid item ring depth cls tkt group => Sys2Proof.Machine.execBindQueue sec queue asid item ring depth cls tkt group s
  | .setTickets sec queue tkt => Sys2Proof.Machine.execSetTickets sec queue tkt s
  | .invalidate sec asid base len => Sys2Proof.Machine.execInvalidate sec asid base len s
  | .preEmpt sec what => Sys2Proof.Machine.execPreEmpt sec what s
  | .taskRelease sec addr => Sys2Proof.Machine.execTaskRelease sec addr s
  | .taskRemoval sec addr => Sys2Proof.Machine.execTaskRemoval sec addr s
  | .acknowledgeFault sec addr action => Sys2Proof.Machine.execAcknowledgeFault sec addr action s
  | .setLaunchGroup sec group n rank gen routes => Sys2Proof.Machine.execSetLaunchGroup sec group n rank gen routes s
  | .installKey sec slot key both => Sys2Proof.Machine.execInstallKey sec slot key both s
  | .bindIngressQueue sec j asid base size => Sys2Proof.Machine.execBindIngressQueue sec j asid base size s
  | .setEventRing sec base count => Sys2Proof.Machine.execSetEventRing sec base count s
  | .attestation sec nonce addr => Sys2Proof.Machine.execAttestation sec nonce addr s
  | .setPowerLimit sec watts => Sys2Proof.Machine.execSetPowerLimit sec watts s
  | .closeItemQueue sec queue => Sys2Proof.Machine.execCloseItemQueue sec queue s
  | .openItemQueue sec queue => Sys2Proof.Machine.execOpenItemQueue sec queue s
  | .scrubPass corrected hbm => Sys2Proof.Machine.execScrubPass corrected hbm s
  | .softError granule => Sys2Proof.Machine.execSoftError granule s
  | .powerOnReset => Sys2Proof.Machine.execPowerOnReset s
  | .firmwareVerify image => Sys2Proof.Machine.execFirmwareVerify image s
  | .throttle pwr tj => Sys2Proof.Machine.execThrottle pwr tj s
  | .clockRestore pwr tj => Sys2Proof.Machine.execClockRestore pwr tj s
  | .overtempReset tj => Sys2Proof.Machine.execOvertempReset tj s
  | .powerLoss => Sys2Proof.Machine.execPowerLoss s

end Sys2Proof.Machine
end

