-- ==== Sys2Proof/Machine/Schedule.lean ====
section
/-! DEFINITION. Who goes next: the issue of a split's instruction, the choice among ready splits (R286, R297, R298), the events that the
device's own agents bring about, and the passing of time. Outside events come only from `State.turns`. -/
namespace Sys2Proof.Machine
open Sys2Proof

/-! ### One issue -/

/-- The state in which a split's fetched instruction is executed. -/
def readied (s : State) (w ent : Nat) : State := { s with cur := (w, ent) }

/-- Whether a split waits in an instruction that has issued: it takes no issue opportunity (R297). -/
def waitsIssued (s : State) (w ent : Nat) : Bool :=
  match ((tget s.warps w).bind (·.split? ent)).bind (·.wait) with
  | some (.op true _ _) => true
  | _ => false

/-- Whether a subcore has an issue opportunity (R286). -/
def hasSlot (s : State) (core sub : Nat) : Bool :=
  match tget (s.core core).issued sub with
  | none => true
  | some t => decide (t + (if isRiffle core then 1 else 6) ≤ s.now)

/-- Whether a split may be tried: its subcore has an opportunity, or it only completes what it has issued (R286, R297). -/
def mayTry (s : State) (c : Ctx) (w ent : Nat) : Bool := waitsIssued s w ent || hasSlot s c.core (subcoreOf c.core c.warp.slot)

/-- A split's fetch, and what its instruction does. -/
def attempt (w ent : Nat) (s : State) : Out :=
  match s.issuerOf w ent with
  | .none => .refused .noIssuer
  | .dangling => .fault .dangling
  | .ok c =>
    match fetch s c with
    | .error k => if k = 0x01 then exec (.illegalInstruction w ent) s else exec (.fetchFault w ent) s
    | .ok (s1, i) => exec i (readied s1 w ent)

/-- Whether a waiting split's instruction, performed again, gets any further. -/
def moves (s : State) (w ent : Nat) : Bool :=
  let wait (s : State) : Option (Option Wait × List (Nat × DWord)) :=
    ((tget s.warps w).bind (·.split? ent)).map (fun sp => (sp.wait, sp.got))
  match attempt w ent s with
  | .next t => decide (wait t ≠ wait s)
  | _ => false

/-- Whether a split is ready: nothing holds it, or what it waited for at issue is there (R297). -/
def readyNow (s : State) (w ent : Nat) : Bool :=
  match ((tget s.warps w).bind (·.split? ent)).bind (·.wait) with
  | none => isReady s w ent
  | some (.op false _ _) => moves s w ent
  | _ => false

/-- After an issue of a split, those that were ready beside it have been passed over once more, and no YIELD waits for it any longer
(R257, R298). Where no opportunity was taken, nothing has been passed over. -/
def noteIssue (pre : State) (w ent : Nat) (s : State) : State :=
  match tget pre.warps w with
  | none => s
  | some wp =>
    let sub := subcoreOf wp.core wp.slot
    if waitsIssued pre w ent || decide (tget (s.core wp.core).issued sub = tget (pre.core wp.core).issued sub) then s
    else
      ((splitsOf pre wp.core sub).filter (fun p => decide (p ≠ (w, ent)))).foldl (fun s p =>
        let ready := readyNow pre p.1 p.2
        s.modSplit p.1 p.2 (fun sp =>
          { sp with passed := if ready then sp.passed + 1 else 0, aged := if ready then sp.aged else none,
                    yield := sp.yield.map (fun y => { y with others := y.others.filter (fun q => decide (q ≠ (w, ent))) }) })) s

/-- The issue of a split where its subcore has an opportunity; without one nothing happens (R286). -/
def issueTurn (w ent : Nat) (s : State) : Out :=
  match s.issuerOf w ent with
  | .none => .refused .noIssuer
  | .dangling => .fault .dangling
  | .ok c =>
    if mayTry s c w ent then
      match attempt w ent s with
      | .next t => .next (noteIssue s w ent t)
      | x => x
    else .next s

/-! ### Time and race ranks (R323, R332) -/

/-- One cycle of 1.8 GHz: the watchdogs that count advance (R528), the sensors report (R535), and every rank may act again. -/
def tick (s : State) : State :=
  { s with now := s.now + 1, stage := 0, plat := s.sense,
           warps := s.warps.map (fun p => if wdogCounts s p.2 then (p.1, { p.2 with wdog := p.2.wdog + 1 }) else p) }

/-- A race rank as a number: its fields compare one after another. -/
def raceRank (a b slot thread : Nat) : Nat := ((a * 4 + b) * 64 + slot) * 32 + thread

/-- The race rank of a warp's split, of its first thread (R323). -/
def splitRank (s : State) (w : Nat) (ent : Option Nat) : Nat :=
  match tget s.warps w with
  | none => 0
  | some wp => raceRank wp.core 0 wp.slot (((ent.bind wp.split?).map (fun sp => lowest sp.mask)).getD 0)

/-- The race rank of the agent of an event (R323, R447, R468): engines, arrays, Flioc between the cores and the Backwater engines, the host and
the peers, the near-memory units. What no agent does has rank 0. -/
def eventRank (s : State) (e : Instr) : Nat :=
  match e with
  | .migrate w | .warpEnd w => splitRank s w none
  | .instructionCompletion w i =>
    match tget s.warps w with
    | none => 0
    | some wp =>
      match wp.flights[i]? with
      | some ⟨_, _, _, .load _⟩ => raceRank (wp.core / 2 * 2) 2 0 0
      | _ => splitRank s w none
  | .waitvSatisfied w ent | .flumeWaitSatisfied w ent | .bfwaitSatisfied w ent | .disbandComplete w ent | .kvappProceed w ent => splitRank s w (some ent)
  | .l1Eviction core _ => raceRank core 0 0 0
  | .sluiceCommandStart core | .weirDiscard core | .sluiceGranule core _ => raceRank core 1 0 0
  | .arrayOperationStart twin | .arrayOperationDone twin => raceRank (2 * twin) 2 0 0
  | .gangSave _ | .dispatchDecision | .clusterReservation _ | .queueEntryTaken _ => raceRank fliocRank 0 0 0
  | .backwaterAgeTimeout die | .backfillLaunchEnd die _ => raceRank (3072 + die) 0 0 0
  | .collectiveStart die | .collectiveEnd die _ _ => raceRank (3080 + die) 0 0 0
  | .peerAccess p _ _ => raceRank (3600 + p) 0 0 0
  | .nadam u k | .nsgdm u k | .nmsearch u k | .nredadd u k | .ncopy u k | .nfill u k | .ncow u k | .nref u k | .ncntAdd u k | .ncntRead u k
  | .ncntWrite u k | .nchunk u k | .nquant u k | .ntagchk u k => raceRank (4096 + nmRunner s u k) 0 0 0
  | .nmuCommandComplete u _ => raceRank (4096 + u) 0 0 0
  | .hostWrite .. | .hostRead .. | .queueKick .. | .ingressDescriptorTrigger .. | .ridxWrite .. | .registerWriteOther .. | .ingressRun _
  | .launchPacket .. | .launchPacketAnswer .. | .createContext .. | .destroyContext .. | .bindQueue .. | .setTickets .. | .invalidate ..
  | .preEmpt .. | .taskRelease .. | .taskRemoval .. | .acknowledgeFault .. | .setLaunchGroup .. | .installKey .. | .bindIngressQueue ..
  | .setEventRing .. | .attestation .. | .setPowerLimit .. | .closeItemQueue .. | .openItemQueue .. => raceRank 3584 0 0 0
  | _ => s.stage

/-- A state in which an agent of a rank acts: in the present cycle where no higher rank has acted, otherwise in the next one.
(DESIGN CHOICE, log 4.) -/
def onStage (s : State) (r : Nat) : State := { (if s.stage ≤ r then s else tick s) with stage := r }

/-- One turn. (DESIGN CHOICE, log 4.) -/
def runTurn (s : State) : Turn → Out
  | .issue w ent => issueTurn w ent (onStage s (splitRank s w (some ent)))
  | .event e => exec e (onStage s (eventRank s e))

/-! ### The choice among ready splits -/

/-- The order of R298 as a number: handlers by the time of their trap, aged splits by the time at which they aged, then by role; within
one role by how long the split has been ready, then by slot and entry. (DEDUCED, log 66.) -/
def issueRank (s : State) (wp : Warp) (sp : Split) : Nat :=
  let (cls, t) : Nat × Nat :=
    if 64 < sp.ent then (0, sp.born)
    else match sp.aged with
      | some t => (1, t)
      | none => ((match wp.role with | .mma => 2 | .norm => 3 | _ => 4), sp.ready.getD s.now)
  ((cls * 2 ^ 64 + t) * 64 + wp.slot) * 128 + sp.ent

/-- The split that a subcore issues. -/
def chosen (s : State) (core sub : Nat) : Option (Nat × Nat) :=
  if hasSlot s core sub then
    let key (p : Nat × Nat) : Nat :=
      match tget s.warps p.1 with
      | none => 0
      | some wp => match wp.split? p.2 with | some sp => issueRank s wp sp | none => 0
    (sortBy key ((splitsOf s core sub).filter (fun p => readyNow s p.1 p.2))).head?
  else none

/-- The subcores on which warps run. -/
def subcores (s : State) : List (Nat × Nat) := (s.warps.map (fun p => (p.2.core, subcoreOf p.2.core p.2.slot))).eraseDups

/-- The time since which each split has been ready, brought up to date. -/
def refresh (s : State) : State :=
  { s with warps := s.warps.map (fun p =>
      (p.1, { p.2 with splits := p.2.splits.map (fun sp =>
        if readyNow s p.1 sp.ent then { sp with ready := some (sp.ready.getD s.now) } else { sp with ready := none, passed := 0, aged := none }) })) }

/-! ### Events of the device's own agents -/

/-- The urgent events of a split and of a warp. -/
def splitUrgent (w : Nat) (sp : Split) : List Instr := [.splitAged w sp.ent, .yieldRelease w sp.ent]
def warpUrgent (p : Nat × Warp) : List Instr :=
  let own : List Instr := [.resultWriteback p.1, .inWarpTrapEntry p.1, .watchdogExpiry p.1]
  let ends : List Instr := (upto p.2.flights.length).map (Instr.minimumLatencyRelease p.1)
  own ++ ends ++ p.2.splits.flatMap (splitUrgent p.1)

/-- What the faults of a cycle bring about at its end, where those that meet in it are all known (R523): of the events of one gang, the core stop
and the kill before the swap-out (R296). -/
def faultEvents (s : State) : List Instr :=
  let stops : List Instr := s.raised.map (fun x => Instr.coreStop x.core)
  let kills : List Instr := s.raised.map (fun x => Instr.operandFetchFault x.gang)
  let swaps : List Instr := s.raised.map (fun x => Instr.hostServedFault x.gang)
  stops ++ kills ++ swaps

/-- Events that happen as soon as they can. -/
def urgentEvents (s : State) : List Instr :=
  let posts : List Instr := (tkeys s.ctxs).map Instr.faultRecordPost
  let flushes : List Instr := (tkeys s.blocks).map Instr.blockHealthFlush
  let scrubs : List Instr := (tkeys s.gangs).map Instr.gangScrub
  posts ++ flushes ++ s.warps.flatMap warpUrgent ++ scrubs

/-- The event that works on a near-memory command. -/
def nmEvent (u k : Nat) (c : NmCmd) : Instr :=
  match nmCode c.word with
  | 0x01 => .nadam u k
  | 0x02 => .nsgdm u k
  | 0x03 => .nmsearch u k
  | 0x04 => .nredadd u k
  | 0x05 => .ncopy u k
  | 0x06 => .nfill u k
  | 0x07 => .ncow u k
  | 0x08 => .nref u k
  | 0x09 => if nmFl c.word = 0 then .ncntAdd u k else if nmFl c.word = 1 then .ncntRead u k else .ncntWrite u k
  | 0x0A => .nchunk u k
  | 0x0B => .nquant u k
  | _ => .ntagchk u k

/-- The events that may happen to a split, a warp, a twin, a core, a queue, a unit and a die. -/
def splitEvents (w : Nat) (sp : Split) : List Instr :=
  [.waitvSatisfied w sp.ent, .flumeWaitSatisfied w sp.ent, .bfwaitSatisfied w sp.ent, .disbandComplete w sp.ent, .kvappProceed w sp.ent]
def warpEvents (p : Nat × Warp) : List Instr :=
  let own : List Instr := [.migrate p.1, .warpEnd p.1]
  let ends : List Instr := (upto p.2.flights.length).map (Instr.instructionCompletion p.1)
  own ++ ends ++ p.2.splits.flatMap (splitEvents p.1)
def twinEvents (t : Nat) : List Instr := [.arrayOperationStart t, .arrayOperationDone t]
def coreEvents (p : Nat × Core) : List Instr :=
  let own : List Instr := [.sluiceCommandStart p.1, .weirDiscard p.1]
  let granules : List Instr := (upto p.2.sluice.length).map (Instr.sluiceGranule p.1)
  own ++ granules ++ (upto p.2.l1.length).map (Instr.l1Eviction p.1)
def queueEvents (q : Nat) : List Instr := [.clusterReservation q, .queueEntryTaken q]
def unitEvents (u : Nat × List NmCmd) : List Instr :=
  u.2.zipIdx.flatMap (fun p => [nmEvent u.1 p.2 p.1, Instr.nmuCommandComplete u.1 p.2])
def dieEvents (d : Nat × Die) : List Instr :=
  let own : List Instr := [.backwaterAgeTimeout d.1, .collectiveStart d.1] ++
    (if d.2.colls.any (fun x => x.begun && x.out.isSome) then [.collectiveEnd d.1 [] true] else [])
  own ++ (upto d.2.batches.length).map (Instr.backfillLaunchEnd d.1)

/-- Events that may happen now or later. -/
def freeEvents (s : State) : List Instr :=
  let saves : List Instr := (tkeys s.gangs).map Instr.gangSave
  let runs : List Instr := (upto 16).map Instr.ingressRun
  s.warps.flatMap warpEvents ++ (tkeys s.twins).flatMap twinEvents ++ s.cores.flatMap coreEvents ++ saves ++ [Instr.dispatchDecision] ++
  runs ++ (tkeys s.queues).flatMap queueEvents ++ s.nmus.flatMap unitEvents ++ s.dies.flatMap dieEvents

/-- Whether an event can happen. -/
def can (s : State) (e : Instr) : Bool :=
  match exec e s with
  | .next _ => true
  | _ => false

/-- Instructions that have issued and now complete. -/
def completions (s : State) : List Turn :=
  s.warps.flatMap (fun p => (p.2.splits.filter (fun sp => waitsIssued s p.1 sp.ent && moves s p.1 sp.ent)).map (fun sp => .issue p.1 sp.ent))

/-! ### The step of the device's own agents -/

/-- The end of a cycle: what its faults bring about, one event a step, and then the next cycle. -/
def endCycle (s : State) : Out :=
  match (faultEvents s).find? (can s) with
  | some e => exec e s
  | none => .next (tick s)

/-- The race rank of a turn. -/
def turnRank (s : State) : Turn → Nat
  | .issue w ent => splitRank s w (some ent)
  | .event e => eventRank s e

/-- The step of the device's own agents: an urgent event; otherwise, freely, an issue that a subcore makes, an event that can happen, or, where
no subcore issues, the end of the cycle. In one cycle agents act in the order of their ranks (R323, R332, R434). (DESIGN CHOICE, log 4.) -/
def ownStep (s0 : State) : Out :=
  let s := refresh s0.bump
  match (urgentEvents s).find? (can s) with
  | some e => exec e s
  | none =>
    let due (t : Turn) : Bool := decide (s.stage ≤ turnRank s t)
    let issues := ((subcores s).filterMap (fun p => (chosen s p.1 p.2).map (fun q => Turn.issue q.1 q.2))).filter due
    let acts := issues ++ (completions s ++ ((freeEvents s).filter (can s)).map Turn.event).filter due
    let n := acts.length + (if issues = [] then 1 else 0)
    match acts[Config.freePick s0.free 40 % n]? with
    | some t => runTurn s t
    | none => endCycle s

end Sys2Proof.Machine
end

