-- ==== Sys2Proof/Machine/Loader.lean ====
section
/-! DEFINITION. A program put where the next step runs it: a run, a context whose pages map the first GiB of HBM4E onto itself, and a launch of
one block of one warp on core 0, as Flioc would leave them after a launch whose code is loaded from outside. -/
namespace Sys2Proof.Machine
open Sys2Proof

/-- Where the program stands, its level-0 and level-1 tables, and the save pool. -/
def loadPc : Nat := 0x100000
def loadRoot : Nat := 0x200000
def loadTable : Nat := 0x210000
def loadPool : Nat := 0x300000

/-- The launch record of a one-warp block of 512 registers. -/
def loadRecord : Record :=
  { entr := loadPc, entf := 0, levels := [0x00000020, 0x0A000001, 0, 0, 0, 0, 0, 0], param := 0, code := loadPc, clen := 32, cgen := 0, ptab := 0,
    ftab := 0, succ := 0, regr := 512, regf := 0, lane := 0, accr := 0, scr := 0, scrs := 0, clm := 0, clms := 0, nbar := 0, nfl := 0,
    ways := 0, xs := false, res := false, idem := false, wset := false, wld := false, dcnt := 0, queue := 0, cls := 3, reserved := false }

/-- A context of the non-secure world. -/
def loadCtx : Context :=
  { world := false, troot := loadRoot, tvec := 0, poolBase := loadPool, poolSize := 0x100000, seed := 0, hflag := 0, seq := 0, slots := [],
    waiting := [] }

/-- The launch, its one gang and one block. -/
def loadLaunch : Launch :=
  { addr := 0, asid := 0, record := loadRecord, flumes := [], queue := 0, state := .placed, nextGang := 1, gangsEnded := 0, order := 0, batch := none,
    group := none, aborted := false, homes := [], ran := [0], code := [] }
def loadGang : Gang :=
  { launch := 1, index := 0, core := 0, state := .running, kills := 0, ended := 0, placed := 0, restore := false, fault := none, awaits := [],
    again := [], slices := [] }

/-- A state with the program's bytes at the pc of warp 4 on core 0, whose turn is next. (DESIGN CHOICE, log 3.) -/
def loadProgram (s : State) (bs : List Byte) : State :=
  let s := { s with
    plat := { s.plat with off := false, bstate := 2 },
    ctxs := tput s.ctxs 0 loadCtx,
    queues := tput s.queues 0 { Queue.reset with bound := true, depth := 1, cls := 3 },
    launches := tput s.launches 1 loadLaunch,
    gangs := tput s.gangs 2 loadGang,
    blocks := tput s.blocks 3 (newBlock 2 0 0 ⟨[0], 0, 0⟩ [] []),
    warps := tput s.warps 4 (newWarp 3 0 0 0 512 loadPc 0),
    cores := tdel s.cores 0,
    uid := max s.uid 5,
    poison := [],
    turns := .issue 4 0 :: s.turns }
  let s := s.setBytes (.hbm loadRoot) (toBytes 8 (1 + loadTable))
  let s := s.setBytes (.hbm loadTable) (toBytes 8 0x3F)
  let s := s.setBytes (.hbm loadPc) bs
  s.modLaunch 1 (fun l => { l with code := s.mem })

end Sys2Proof.Machine
end

