-- ==== Sys2Proof/Machine/Step.lean ====
section
/-! DEFINITION. The step of the device: the turn at the head of `State.turns`; where none stands there, the step of its own agents. -/
namespace Sys2Proof.Machine
open Sys2Proof

/-- One step. -/
def step (s : State) : Host.Outcome State Fault Refusal :=
  match s.turns with
  | t :: r => runTurn { s with turns := r } t
  | [] => ownStep s

/-- The state with an instruction of the given bits where the next step runs it; every bit above `nbits` is 0. -/
def State.withFetchWord (s : State) (nbits w : Nat) : State := loadProgram s (toBytes 32 (w % 2 ^ nbits))

end Sys2Proof.Machine
end

