-- ==== Sys2Proof/Machine/Window.lean ====
section
/-! DEFINITION. What a read of the device's registers gives: the status and identity window (R534, R535), the mailboxes (R507), the event
ring's indices (R508) and the ingress descriptor registers (R519). -/
namespace Sys2Proof.Machine
open Sys2Proof

/-- The 96 bytes of the status and identity window (R535). -/
def statusWindow (s : State) : List Byte :=
  let p := s.plat
  toBytes 4 (p.bstate % 16 + 256 * (p.fail % 256)) ++ toBytes 4 p.svn.toNat ++ partBytes ++ toBytes 8 (Config.fused 1).toNat ++
  toBytes 2 0x0004 ++ toBytes 2 (fsvn s) ++ toBytes 4 (spareOf p).toNat ++ toBytes 8 p.csram.toNat ++ toBytes 8 p.chbm.toNat ++
  toBytes 2 p.pwr ++ toBytes 2 p.plim ++ toBytes 2 p.tj ++ toBytes 2 p.clk ++ toBytes 4 p.sch ++ toBytes 4 (p.sce % 256) ++
  toBytes 32 p.fwm.toNat

/-- The 72 bytes of a mailbox: command, doorbell, status (R507). -/
def mailboxBytes (m : Mailbox) : List Byte := toBytes 64 m.bytes.toNat ++ toBytes 4 m.bell.toNat ++ toBytes 4 m.status.toNat

/-- Bytes of a block of registers that stands at an offset of its BAR; none outside it. -/
def within (base : Nat) (bs : List Byte) (addr n : Nat) : Option (List Byte) :=
  if base ≤ addr ∧ addr + n ≤ base + bs.length then some ((bs.drop (addr - base)).take n) else none

/-- The ingress descriptor registers of BAR 2 (R519). -/
def ingressRead (s : State) (addr n : Nat) : Option (List Byte) :=
  if 0x10000 ≤ addr ∧ addr < 0x10200 then
    let j := (addr - 0x10000) / 32
    within (0x10000 + 32 * j) (toBytes 32 (s.ingressOf j).reg.toNat) addr n
  else none

/-- The registers of BAR 0 and BAR 2 that the spec gives a value to read. -/
def runRead (s : State) (bar addr n : Nat) : Option (List Byte) :=
  if bar = 0 then
    within 0 (mailboxBytes s.box0) addr n <|> within 0x1000 (mailboxBytes s.box1) addr n <|>
    within 0x3000 (toBytes 4 s.ring.widx.toNat ++ toBytes 4 s.ring.ridx.toNat) addr n
  else if bar = 2 then ingressRead s addr n
  else none

/-- What a read of BAR 0 or BAR 2 is answered with: the status window at any time, all ones before the run (R534), in the run the register's
bytes; none where the spec states nothing of the read. Without power nothing answers (R2). (DEDUCED, log 63.) -/
def registerRead (s : State) (bar addr n : Nat) : Option (List Byte) :=
  if s.plat.off then none
  else
    match (if bar = 0 then within 0x2000 (statusWindow s) addr n else none) with
    | some bs => some bs
    | none => if s.inRun then runRead s bar addr n else some (List.replicate n 0xFF)

end Sys2Proof.Machine
end

