-- ==== Sys2Proof/Safety.lean ====
section
/-! DEFINITION. What counts as a safe run, and the terms in which statements speak of an instruction that issues. -/
namespace Sys2Proof.Machine
open Sys2Proof

/-! ### Runs -/

/-- The state after `n` steps that all answer a next state. -/
def runs : Nat → State → Option State
  | 0, s => some s
  | n + 1, s =>
    match step s with
    | .next t => runs n t
    | _ => none

/-- A run is safe when no step of it ends in a fault. -/
def Safe (s : State) : Prop := ∀ n t, runs n s = some t → ∀ e, step t ≠ .fault e

/-! ### An instruction that issues -/

/-- The issuer as an instruction sees it: the results that are due have landed, and its guard and UNI pick the active threads (R52,
R64, R103). -/
def Ctx.guarded (c : Ctx) (f : Fr) : Ctx := { c.land with act := c.land.guardMask f, uni := f.uni }

/-- The split that `s.cur` names comes to an instruction of frame `f`: the gate of R62, R68, R69 and R297 is open. `c` is the issuer. -/
def Comes (s : State) (f : Fr) (c : Ctx) : Prop := ∃ c0, s.issuer = .ok c0 ∧ gate c0 f = true ∧ c = c0.guarded f

/-- The split that `s.cur` names issues an instruction of frame `f` with names `n`: the gate of R62, R68, R69 and R297 is open, and
none of the checks of R58 fails. `c` is the issuer that results. -/
def Issues (s : State) (f : Fr) (n : Names) (lat : Option (Nat × Nat)) (early : Ctx → Option Nat) (c : Ctx) : Prop :=
  ∃ c0, s.issuer = .ok c0 ∧ gate c0 f = true ∧ c = c0.guarded f ∧
    issueCheck c n f.g (lat.map (fun p => c.lat p.1 p.2)) (early c) = none

/-- The state after an instruction of fixed latency that writes `w` and does nothing else: the split has moved past it, and its words
are due after the latency (R63, R64, R104). -/
def fixedNext (c : Ctx) (f : Fr) (n : Names) (lat : Nat × Nat) (w : List (Nat × (Nat → Word))) (h : Health) : State :=
  finishFixed c f (c.lat lat.1 lat.2) (c.outs w) h (advance c f n)

/-- The state after an instruction of variable latency that has left `s` and will write `w` when it completes (R68). -/
def flightNext (c : Ctx) (f : Fr) (w : List (Nat × Word)) (s : State) : State := finishFlight c f w .access s

/-- The same for one that completes at the minimum latency (R63, R70). -/
def minimumNext (c : Ctx) (f : Fr) (s : State) : State := finishFlight c f [] .minimum s

/-! ### A device that has not begun its run -/

/-- No warp, gang, launch, queue, context, engine or port is active (R534). -/
def State.idle (s : State) : Bool :=
  s.warps.isEmpty && s.blocks.isEmpty && s.gangs.isEmpty && s.launches.isEmpty && s.rafts.isEmpty && s.twins.isEmpty &&
  s.cores.isEmpty && s.dies.isEmpty && s.nmus.isEmpty && s.queues.isEmpty && s.ctxs.isEmpty && s.groups.isEmpty && s.ingress.isEmpty &&
  s.raised.isEmpty

end Sys2Proof.Machine
end

