-- ==== Sys2Proof/Certificates/Slice0/Obligations.lean ====
section
/-! DEFINITION. The statements for the provers. Each statement about an instruction says for which states and operands it completes, and the
state that it leaves: `Issues s f n lat early c` says that the split that `s.cur` names issues an instruction of frame `f` that names the
registers `n`, with no check of R58 failing, and `fixedNext`, `flightNext` and `minimumNext` are the ends of R63, R68 and R70. -/
open Sys2Proof Sys2Proof.Machine

namespace Sys2Proof.Claims

/-- The split of a warp with an entry, in a state. -/
def splitAt (t : State) (w ent : Nat) : Option Split := (tget t.warps w).bind (fun wp => wp.split? ent)

/-- An instruction of fixed latency that, wherever it issues, writes `w` and nothing else. -/
def FixedWrites (i : Instr) (f : Fr) (n : Names) (lat : Nat × Nat) (w : Ctx → List (Nat × (Nat → Word))) : Prop :=
  ∀ (s : State) (c : Ctx), Issues s f n (some lat) noEarly c → exec i s = .next (fixedNext c f n lat (w c) Health.none)

/-- The same for one that also counts health events (R149). -/
def FixedCounts (i : Instr) (f : Fr) (n : Names) (lat : Nat × Nat) (w : Ctx → List (Nat × (Nat → Word))) (h : Ctx → Health) : Prop :=
  ∀ (s : State) (c : Ctx), Issues s f n (some lat) noEarly c → exec i s = .next (fixedNext c f n lat (w c) (h c))

/-- A word by its bits. -/
def word (p : Nat → Bool) : Word := (BitVec.iunfoldr (w := 32) (fun i (u : Unit) => (u, p i.val)) ()).2

/-- An exact integer saturated as signed 32-bit, as unsigned 32-bit. -/
def satS (v : Int) : Word := if v < -2147483648 then 0x80000000 else if 2147483647 < v then 0x7FFFFFFF else BitVec.ofInt 32 v
def satU (v : Int) : Word := if v < 0 then 0 else if 4294967295 < v then 0xFFFFFFFF else BitVec.ofInt 32 v

/-- The sum of R107. -/
def sum (sat : Sat) (a b c : Word) : Word :=
  match sat with
  | .wrap => a + b + c
  | .signed => satS (a.toInt + b.toInt + c.toInt)
  | .unsigned => satU ((a.toNat : Int) + b.toNat + c.toNat)

/-- The difference of R107. -/
def diff (sat : Sat) (a b c : Word) : Word :=
  match sat with
  | .wrap => a - b - c
  | .signed => satS (a.toInt - b.toInt - c.toInt)
  | .unsigned => satU ((a.toNat : Int) - b.toNat - c.toNat)

/-- Byte `i` of a word as an integer (R112). -/
def byteInt (u : Bool) (x : Word) (i : Nat) : Int :=
  if u then ((x.extractLsb' (8 * i) 8).toNat : Int) else (x.extractLsb' (8 * i) 8).toInt

/-- Byte `i` of PRMT's result (R117). -/
def prmtByteOf (swp : Bool) (a b : Word) (sel : Byte) : Byte :=
  let src : BitVec 64 := if swp then a ++ b else b ++ a
  let x : Byte := src.extractLsb' (8 * (sel.extractLsb' 0 3).toNat) 8
  let y : Byte := if sel.getLsbD 3 then 0 else if sel.getLsbD 4 then (if x.msb then 0xFF else 0x00) else x
  if sel.getLsbD 5 then ~~~y else y

/-- The reduction tree of R47: at step k the value of thread t joins that of thread t + k. -/
def reduce (g : Word → Word → Word) (v : Nat → Word) : Word :=
  let st (k : Nat) (v : Nat → Word) : Nat → Word := fun t => g (v t) (v (t + k))
  st 16 (st 8 (st 4 (st 2 (st 1 v)))) 0

/-- The inclusive scan of R47: at step k the value of thread t ≥ k joins that of thread t − k. -/
def scan (g : Word → Word → Word) (v : Nat → Word) : Nat → Word :=
  let st (k : Nat) (v : Nat → Word) : Nat → Word := fun t => if k ≤ t then g (v (t - k)) (v t) else v t
  st 16 (st 8 (st 4 (st 2 (st 1 v))))

/-- A source under its absolute and negate bits (R134). -/
def operand (neg abs : Bool) (x : Machine.Num) : Machine.Num :=
  match abs, neg with
  | false, false => x
  | true, false => x.abs
  | false, true => x.neg
  | true, true => x.abs.neg

/-- A value rounded once into FP32 under RND, then held to [+0, 1] where SAT is set: a NaN becomes +0 (R134). -/
def rounded (rnd : Rnd) (sat : Bool) (v : Machine.Num) : Word :=
  let d := toF32 (plainMode rnd) v
  if sat then
    (if (numOf d).isNan || (numOf d).neg? || (numOf d).isZero then 0 else if (numOf d).lt (.fin false 1 0 1) then d else 0x3F800000)
  else d

/-- The data words of a span's part that BPACK writes: the codes of the 32 threads, inactive ones 0, packed tight (R162). -/
def packed (c : Ctx) (e : Elem) (a : Reg) (d part : Nat) : List (Nat × (Nat → Word)) :=
  let codes : List Nat := (List.range 32).map (fun t => if c.act.getLsbD t then (c.reg a.toNat t).toNat % 2 ^ elemBits e else 0)
  (List.range (elemBits e)).map (fun i => (d + part * elemBits e + i, fun _ => (packWords e codes).getD i 0))

/-- The code that BUNPACK gives thread `t`: code `t` of the packed words from register `n` of the lowest active thread (R163). -/
def unpacked (c : Ctx) (e : Elem) (n : Nat) (t : Nat) : Word :=
  BitVec.ofNat 32 ((unpackWords e ((List.range (elemBits e)).map (fun i => c.reg (n + i) (lowest c.act)))).getD t 0)

end Sys2Proof.Claims
open Sys2Proof.Claims


/-! ### Instruction words (R73 to R83) -/

/-- Decode and encode agree: every well-formed instruction, at every value of every operand, is read back from its own words, whatever follows
them in its fetch block. -/
def Obligations.DecodeOfEncode : Prop :=
  ∀ (i : Instr) (rest : List Byte), i.wf = true → i.isWord = true → decode (encode i ++ rest) = .ok i

/-- R73: LEN gives the length, words are little-endian and hold every bit that was read, no instruction crosses its fetch block, and one whose
address is not a multiple of 4 raises 0x02. What is decoded is well-formed; what R81 refuses is refused. -/
def Obligations.DecodedIsWellFormed : Prop :=
  (∀ (bs : List Byte) (i : Instr), decode bs = .ok i →
    i.wf = true ∧ i.isWord = true ∧ encode i = bs.take i.bytes ∧ i.bytes ≤ bs.length ∧ i.bytes = 8 + 4 * ((bs.getD 0 0).toNat % 4) ∧
    (i.bytes = 8 ∨ i.bytes = 12 ∨ i.bytes = 16) ∧
    (∃ r, fieldsOf i = some r ∧ r.opc = leNat bs / 4 % 256 ∧ r.form ∈ formsOf r.opc ∧ r.setc ≠ 7 ∧
      (∀ k, k < 64 → (leNat (encode i)).testBit k = r.w0.testBit k) ∧
      (r.form ≠ .s → ∀ k, k < 32 → (leNat (encode i)).testBit (64 + k) = (if r.form = .l then r.lit else r.ext).testBit k) ∧
      (r.form = .w → ∀ k, k < 32 → (leNat (encode i)).testBit (96 + k) = r.lit.testBit k))) ∧
  (∀ (s s1 : State) (c : Ctx) (i : Instr), fetch s c = .ok (s1, i) → c.split.pc.toNat % 4 = 0 ∧ c.split.pc.toNat % 32 + i.bytes ≤ 32) ∧
  (∀ (s : State) (c : Ctx) (e : TlbEntry), translate s c.agent (c.split.pc.toNat / 32 * 32) .fetch = .ok e →
    (c.split.pc.toNat % 4 ≠ 0 → fetch s c = .error 0x02) ∧
    (∀ x, c.split.pc.toNat % 4 = 0 → s.poisoned (e.loc (c.split.pc.toNat / 32 * 32)) 32 = false →
      decode ((fetchBlock s c (c.split.pc.toNat / 32 * 32) (e.loc (c.split.pc.toNat / 32 * 32))).drop (c.split.pc.toNat % 32)) = .error x →
      fetch s c = .error (if x = .crossesBlock then 0x02 else 0x01))) ∧
  -- LEN 3, a word that would cross its fetch block, X outside form l, an opcode without a form, SETC 7
  (∀ bs : List Byte, let n := leNat (bs.take 16)
    (n % 4 = 3 → decode bs = .error .lenReserved) ∧
    (n % 4 ≠ 3 → bs.length < 8 + 4 * (n % 4) → decode bs = .error .crossesBlock) ∧
    (n % 4 ≠ 3 → n % 4 ≠ 1 → 8 + 4 * (n % 4) ≤ bs.length → n.testBit 63 = true → decode bs = .error .extensionKind) ∧
    (n % 4 ≠ 3 → 8 + 4 * (n % 4) ≤ bs.length → (n % 4 = 1 ∨ n.testBit 63 = false) → formsOf (n / 4 % 256) = [] → decode bs = .error .opcode) ∧
    (∀ i, n / 2 ^ 52 % 8 = 7 → decode bs ≠ .ok i))

namespace Sys2Proof.Claims

def hex (l : List Nat) : List Byte := l.map (BitVec.ofNat 8)

end Sys2Proof.Claims

/-- Words that the spec writes out bit by bit, one for each family: the examples of its sections 03 to 08, 13, 14, 16, 18, 19, 22 and 24. -/
def Obligations.DecodedWords : Prop :=
  -- IADD v10, v4, v5 :s2
  decode (hex [0x44, 0x00, 0x28, 0x40, 0x40, 0x01, 0x02, 0x00]) =
    .ok (.iadd ⟨.s, false, 0, false, 2, 0, 0, false, false, false⟩ 10 (.reg 4) (.reg 5) none .wrap) ∧
  -- ?!v7 FMUL v12, v10, #1.5 :s6 :wait d0
  decode (hex [0x09, 0x39, 0x32, 0xA0, 0x00, 0x00, 0x86, 0x80, 0x00, 0x00, 0xC0, 0x3F]) =
    .ok (.fmul ⟨.l, false, 7, true, 6, 0, 1, false, false, false⟩ 12 (.reg 10) (.lit 0x3FC00000) .rne false false false false false) ∧
  -- ICMP.lt.i32 v8, v9, v4, v5 :s4
  decode (hex [0xC1, 0x00, 0x20, 0x40, 0x40, 0x01, 0x04, 0x00, 0x09, 0x00, 0x02, 0x00]) =
    .ok (.icmp ⟨.e, false, 0, false, 4, 0, 0, false, false, false⟩ 8 9 (.reg 4) (.reg 5) .lt false) ∧
  -- TMMA v40, v44, #0x084131CE :set d2
  (∃ h, decode (hex [0xCA, 0x02, 0x00, 0x80, 0x02, 0x0B, 0x30, 0x00, 0x00, 0x00, 0x00, 0x40, 0xCE, 0x31, 0x41, 0x08]) =
    .ok (.tmma ⟨.w, false, 0, false, 0, 3, 0, false, false, false⟩ 40 44 h) ∧
    h.afmt = .mx4 ∧ h.bfmt = .mx4 ∧ h.mq = 3 ∧ h.np = 1 ∧ h.za = true ∧ h.row16 = 4) ∧
  -- LD.glob.b32 v12, [v30+0x40] :set d0
  decode (hex [0x02, 0x02, 0x30, 0xE0, 0x01, 0x00, 0x10, 0x00, 0x00, 0x00, 0x05, 0x00, 0x40, 0x00, 0x00, 0x00]) =
    .ok (.ld ⟨.w, false, 0, false, 0, 1, 0, false, false, false⟩ 12 30 0x40 .glob .b32 .keep) ∧
  -- ?!v9 ST.glob.n16 [v26], v19 :set d3
  decode (hex [0x05, 0x4A, 0x02, 0xA0, 0x01, 0x00, 0x40, 0x00, 0x13, 0x00, 0x2D, 0x00]) =
    .ok (.st ⟨.e, false, 9, true, 0, 4, 0, false, false, false⟩ 26 0 (.reg 19) .glob .n16 .keep) ∧
  -- ?v8 BRA.j3 +0x2C
  decode (hex [0x05, 0x40, 0x00, 0x00, 0xC0, 0x00, 0x00, 0x80, 0x2C, 0x00, 0x00, 0x00]) =
    .ok (.bra ⟨.l, false, 8, false, 0, 0, 0, false, false, false⟩ 0x2C 3) ∧
  -- LDBS.mx4 v30, [v36+0x480] :set d1
  decode (hex [0x12, 0x02, 0x78, 0x40, 0x02, 0x00, 0x20, 0x00, 0x00, 0x00, 0x04, 0x00, 0x80, 0x04, 0x00, 0x00]) =
    .ok (.ldbs ⟨.w, false, 0, false, 0, 2, 0, false, false, false⟩ false 30 36 0x480 .mx4 .g32 0 false) ∧
  -- SLX.copy.uni v4, v40 :set d0
  decode (hex [0x81, 0x06, 0x10, 0x00, 0x00, 0x00, 0x10, 0x00, 0x28, 0x00, 0x00, 0x00]) =
    .ok (.slxCopy ⟨.e, true, 0, false, 0, 1, 0, false, false, false⟩ 4 none none 40) ∧
  -- KVXLT.uni.acq.k0 v32, v34, v16, v8 :set d1 :wait d4
  decode (hex [0x01, 0x07, 0x80, 0x00, 0x01, 0x02, 0x20, 0x08, 0x22, 0x00, 0x10, 0x00]) =
    .ok (.kvxlt ⟨.e, true, 0, false, 0, 2, 16, false, false, false⟩ 32 34 (.reg 16) (.reg 8) 0 true) ∧
  -- EBB v56, v48 :set d3 :wait d3
  decode (hex [0x49, 0x03, 0xE0, 0x00, 0x03, 0x00, 0x40, 0x04, 0x00, 0x00, 0x00, 0x00]) =
    .ok (.ebb ⟨.e, false, 0, false, 0, 4, 8, false, false, false⟩ 56 48) ∧
  -- MIGR.riffle v9
  decode (hex [0x51, 0x03, 0x24, 0x00, 0x00, 0x00, 0x00, 0x00, 0x00, 0x00, 0x00, 0x00]) =
    .ok (.migrRiffle ⟨.e, false, 0, false, 0, 0, 0, false, false, false⟩ 9) ∧
  -- NMQ.uni.dev v49, v32 :set d3
  decode (hex [0x91, 0x07, 0xC4, 0x00, 0x02, 0x00, 0x40, 0x00, 0x00, 0x00, 0x00, 0x05]) =
    .ok (.nmq ⟨.e, true, 0, false, 0, 4, 0, false, false, false⟩ 49 32 .dev) ∧
  -- ?v61 TRAP #0x0D, #0
  decode (hex [0x21, 0xE8, 0x01, 0x00, 0x40, 0x03, 0x00, 0x80, 0x00, 0x00, 0x00, 0x00]) =
    .ok (.trap ⟨.l, false, 61, false, 0, 0, 0, false, false, false⟩ 0 0x0D)

/-! ### Reset, the step, issue (R2, R62, R64, R297, R534, R535) -/

/-- The state after reset: nothing is active (R534), the status window holds the reset values of R535, memory lists nothing, and the mailboxes and
the event ring are empty; it has not begun a run (`Claims.NotBegun`). That a byte reads 0 is the model's choice (log entry 2). -/
def Obligations.ResetState : Prop :=
  let s := State.reset
  s.idle = true ∧ s.inRun = false ∧ s.plat.bstate = 0 ∧ s.plat.fail = 0 ∧ s.plat.svn = 0 ∧ s.plat.csram = 0 ∧ s.plat.chbm = 0 ∧ s.plat.pwr = 0 ∧
  s.plat.plim = 3600 ∧ s.plat.tj = 0 ∧ s.plat.clk = 600 ∧ s.plat.sch = 0 ∧ s.plat.sce = 0 ∧ s.plat.fwm = 0 ∧ s.mem = [] ∧ Memory.wf s.mem = true ∧
  s.side = [] ∧ s.poison = [] ∧ s.ring.set = false ∧ s.ring.widx = 0 ∧ s.ring.ridx = 0 ∧ (∀ k, (s.core k).cctl = 0) ∧ (∀ l, s.byte l = 0)

/-- A step runs the instruction that its turn fetches, in the state in which it stands, where the split's subcore has an issue opportunity or the
instruction has issued before, or lets the event of its turn happen, in the cycle in which its rank may act (log entry 4); without a turn the
device's own agents go on. -/
def Obligations.StepRunsDecoded : Prop :=
  (∀ (s : State) (w ent : Nat) (r : List Turn) (c : Ctx) (s1 : State) (i : Instr), s.turns = .issue w ent :: r →
    let u0 : State := { s with turns := r }
    -- in the present cycle where no higher rank has acted in it, otherwise in the next one (log 4)
    let u : State := onStage u0 (splitRank u0 w (some ent))
    u.issuerOf w ent = .ok c →
      (mayTry u c w ent = true → fetch u c = .ok (s1, i) →
        step s = (match exec i (readied s1 w ent) with
          | .next t => .next (noteIssue u w ent t)
          | .refused x => .refused x
          | .fault x => .fault x)) ∧
      (mayTry u c w ent = false → step s = .next u)) ∧
  -- the fetch reads the 32 bytes at the translated address; what it decodes stands at the pc
  (∀ (s : State) (c : Ctx) (e : TlbEntry) (i : Instr),
    let pc := c.split.pc.toNat
    let va := pc / 32 * 32
    translate s c.agent va .fetch = .ok e → pc % 4 = 0 → s.poisoned (e.loc va) 32 = false →
    (∀ bs ∈ codeOf s c va (e.loc va), bs = s.bytes (e.loc va) 32) → decode ((s.bytes (e.loc va) 32).drop (pc % 32)) = .ok i →
    ∃ s1, fetch s c = .ok (s1, i) ∧ s1.mem = s.mem ∧ s1.regs = s.regs ∧ s1.warps = s.warps) ∧
  (∀ (s : State) (e : Instr) (r : List Turn), s.turns = .event e :: r →
    let u : State := { s with turns := r }
    step s = exec e (onStage u (eventRank u e)) ∧
    (s.stage ≤ eventRank u e → onStage u (eventRank u e) = { u with stage := eventRank u e })) ∧
  (∀ s : State, s.turns = [] → step s = ownStep s)

/-- R62 and R64. An instruction whose gate is closed does nothing; the gate is closed until the stall of the one before has elapsed; the nominal
clock of a split advances by the effective stall, and a result is read once the clock has reached its distance, the old value before.
That the gate holds the split that issued, and not the whole warp, is the model's reading (log entry 8). -/
def Obligations.StallsAndDistances : Prop :=
  (∀ (i : Instr) (f : Fr) (s : State) (c : Ctx), frOf i = some f → s.issuer = .ok c → gate c f = false → exec i s = .next s) ∧
  (∀ (i : Instr) (f : Fr) (s : State), frOf i = some f → s.issuer = .none → exec i s = .refused .noIssuer) ∧
  (∀ (c : Ctx) (f : Fr), c.pre.now < c.split.next → gate c f = false) ∧
  (∀ (s : State) (f : Fr) (n : Names) (l : Option (Nat × Nat)) (early : Ctx → Option Nat) (c : Ctx), Issues s f n l early c →
    let stall := if c.riffle then max f.stall.toNat 1 else max f.stall.toNat 2
    let cycle := if c.riffle then 1 else 3
    (∃ sp, splitAt (advance c f n) c.w c.ent = some sp ∧ c.pre.now + stall * cycle ≤ sp.next ∧ sp.nd = c.split.nd + stall) ∧
    (∀ lat w h, ∃ sp, splitAt (fixedNext c f n lat w h) c.w c.ent = some sp ∧ c.pre.now + stall * cycle ≤ sp.next ∧ sp.nd = c.split.nd + stall ∧
      ∀ x ∈ c.outs w, ⟨x.1, x.2, c.split.nd + (if c.riffle then lat.2 else lat.1)⟩ ∈ sp.pend)) ∧
  (∀ (s : State) (c : Ctx) (f : Fr) (p : Pend), s.issuer = .ok c → tsorted s.regs = true → p ∈ c.split.pend →
    (∀ q ∈ c.split.pend, q.key = p.key → q = p) →
    (p.due ≤ c.split.nd → (c.guarded f).pre.regAt p.key = p.val) ∧ (c.split.nd < p.due → (c.guarded f).pre.regAt p.key = s.regAt p.key)) ∧
  (∀ (c : Ctx) (r t : Nat), r ≠ 0 → inFlight c.warp.flights (c.key r t) = none → c.reg r t = c.pre.regAt (c.key r t)) ∧
  (∀ (c : Ctx) (t : Nat), c.reg 0 t = 0xFFFFFFFF)

namespace Sys2Proof.Claims

/-- No run has begun, and none of the images that stand in the turns can begin one. -/
def NotBegun (s : State) : Prop :=
  s.idle = true ∧ s.plat.bstate ≠ 2 ∧ ∀ x, Turn.event (.firmwareVerify x) ∈ s.turns → bootFail s x ≠ 0

end Sys2Proof.Claims

/-- R534: until firmware that passes R536 starts a run, nothing of the device becomes active: no core, engine, queue, context or port, whatever
comes from outside. -/
def Obligations.NotBegunStays : Prop := ∀ s t : State, NotBegun s → step s = .next t → NotBegun t

/-- The state after reset is one that has not begun. -/
def Obligations.NotBegunAtReset : Prop := NotBegun State.reset
/-! ### Integer arithmetic and moves (R107 to R118) -/

/-- The results of integer arithmetic: R107 to R114. -/
def Obligations.IntegerArithmeticResults : Prop :=
  ∀ (f : Fr) (d : Reg),
    (∀ (a b : Src) (c3 : Option Src) (sat : Sat), FixedWrites (.iadd f d a b c3 sat) f (nameD d (src1 a) (src1 b) (osrc c3)) (4, 2)
      (fun c => [(d.toNat, fun t => sum sat (c.val a t) (c.val b t) (c.valD c3 0 t))])) ∧
    (∀ (a b : Src) (c3 : Option Src) (sat : Sat), FixedWrites (.isub f d a b c3 sat) f (nameD d (src1 a) (src1 b) (osrc c3)) (4, 2)
      (fun c => [(d.toNat, fun t => diff sat (c.val a t) (c.val b t) (c.valD c3 0 t))])) ∧
    (∀ (a : Reg) (b : Src), FixedWrites (.imul f d a b) f (nameD d (reg1 a) (src1 b) none) (4, 2)
      (fun c => [(d.toNat, fun t => c.reg a.toNat t * c.val b t)])) ∧
    (∀ (a : Reg) (b : Src) (u : Bool), FixedWrites (.imulh f d a b u) f (nameD d (reg1 a) (src1 b) none) (4, 2)
      (fun c => [(d.toNat, fun t =>
        if u then BitVec.ofNat 32 ((c.reg a.toNat t).toNat * (c.val b t).toNat / 2 ^ 32)
        else BitVec.ofInt 32 ((c.reg a.toNat t).toInt * (c.val b t).toInt / 2 ^ 32))])) ∧
    (∀ (a b c3 : Src) (u : Bool), FixedWrites (.imad f d a b c3 false u) f (nameD d (src1 a) (src1 b) (src1 c3)) (4, 2)
      (fun c => [(d.toNat, fun t => c.val a t * c.val b t + c.val c3 t)])) ∧
    (∀ (a b c3 : Src) (u : Bool), FixedWrites (.imad f d a b c3 true u) f (nameD2 d (src1 a) (src1 b) (src2 c3)) (4, 2)
      (fun c => pairOuts d (fun t =>
        (if u then (c.val a t).zeroExtend 64 * (c.val b t).zeroExtend 64 else (c.val a t).signExtend 64 * (c.val b t).signExtend 64)
          + c.val2 c3 t))) ∧
    (∀ (a : Reg) (b : Src) (u : Bool), FixedWrites (.imin f d a b u) f (nameD d (reg1 a) (src1 b) none) (4, 2)
      (fun c => [(d.toNat, fun t =>
        if (if u then (c.reg a.toNat t).ule (c.val b t) else (c.reg a.toNat t).sle (c.val b t)) then c.reg a.toNat t else c.val b t)])) ∧
    (∀ (a : Reg) (b : Src) (u : Bool), FixedWrites (.imax f d a b u) f (nameD d (reg1 a) (src1 b) none) (4, 2)
      (fun c => [(d.toNat, fun t =>
        if (if u then (c.reg a.toNat t).ule (c.val b t) else (c.reg a.toNat t).sle (c.val b t)) then c.val b t else c.reg a.toNat t)])) ∧
    (∀ (a : Reg), FixedWrites (.iabs f d a) f (nameD d (reg1 a) none none) (4, 2)
      (fun c => [(d.toNat, fun t => if (c.reg a.toNat t).slt 0 then -(c.reg a.toNat t) else c.reg a.toNat t)])) ∧
    (∀ (a b : Reg) (neg : Bool), FixedWrites (.iadd64 f d a b neg .pair) f (nameD2 d (reg2 a) (reg2 b) none) (4, 2)
      (fun c => pairOuts d (fun t => if neg then c.reg2 a.toNat t - c.reg2 b.toNat t else c.reg2 a.toNat t + c.reg2 b.toNat t))) ∧
    (∀ (a b : Reg) (neg sx : Bool), FixedWrites (.iadd64 f d a b neg (if sx then .sx else .zx)) f (nameD2 d (reg2 a) (reg1 b) none) (4, 2)
      (fun c => pairOuts d (fun t =>
        let y : DWord := if sx then (c.reg b.toNat t).signExtend 64 else (c.reg b.toNat t).zeroExtend 64
        if neg then c.reg2 a.toNat t - y else c.reg2 a.toNat t + y))) ∧
    (∀ (a b : Src) (c3 : Option Src) (sh : BitVec 3) (bu : Bool),
      FixedWrites (.lea f d a b c3 sh bu) f (nameD2 d (src2 a) (src1 b) (osrc c3)) (4, 2)
        (fun c => pairOuts d (fun t =>
          c.val2 a t + (if bu then (c.val b t).zeroExtend 64 else (c.val b t).signExtend 64) * 2#64 ^ sh.toNat
            + (c.valD c3 0 t).signExtend 64))) ∧
    (∀ (a b c3 : Src) (u : Bool), FixedWrites (.isad f d a b c3 u) f (nameD d (src1 a) (src1 b) (src1 c3)) (4, 2)
      (fun c => [(d.toNat, fun t =>
        (if (if u then (c.val a t).ult (c.val b t) else (c.val a t).slt (c.val b t)) then c.val b t - c.val a t else c.val a t - c.val b t)
          + c.val c3 t)])) ∧
    (∀ (a b c3 : Src) (au bu sat : Bool), FixedWrites (.idot4 f d a b c3 au bu sat) f (nameD d (src1 a) (src1 b) (src1 c3)) (4, 2)
      (fun c => [(d.toNat, fun t =>
        let p (i : Nat) : Int := byteInt au (c.val a t) i * byteInt bu (c.val b t) i
        let v : Int := (c.val c3 t).toInt + p 0 + p 1 + p 2 + p 3
        if sat then satS v else BitVec.ofInt 32 v)]))

/-- Logic, shifts, counts and bit fields: R121 to R126. -/
def Obligations.LogicAndFieldResults : Prop :=
  ∀ (f : Fr) (d : Reg),
    (∀ (a : Reg) (b : Src), FixedWrites (.and f d a b) f (nameD d (reg1 a) (src1 b) none) (4, 2)
      (fun c => [(d.toNat, fun t => c.reg a.toNat t &&& c.val b t)])) ∧
    (∀ (a : Reg) (b : Src), FixedWrites (.or f d a b) f (nameD d (reg1 a) (src1 b) none) (4, 2)
      (fun c => [(d.toNat, fun t => c.reg a.toNat t ||| c.val b t)])) ∧
    (∀ (a : Reg) (b : Src), FixedWrites (.xor f d a b) f (nameD d (reg1 a) (src1 b) none) (4, 2)
      (fun c => [(d.toNat, fun t => c.reg a.toNat t ^^^ c.val b t)])) ∧
    (∀ (a : Reg) (b : Src), FixedWrites (.andn f d a b) f (nameD d (reg1 a) (src1 b) none) (4, 2)
      (fun c => [(d.toNat, fun t => c.reg a.toNat t &&& ~~~(c.val b t))])) ∧
    (∀ (a : Reg) (b : Src), FixedWrites (.shl f d a b) f (nameD d (reg1 a) (src1 b) none) (4, 2)
      (fun c => [(d.toNat, fun t => c.reg a.toNat t <<< c.val b t)])) ∧
    (∀ (a : Reg) (b : Src), FixedWrites (.shr f d a b) f (nameD d (reg1 a) (src1 b) none) (4, 2)
      (fun c => [(d.toNat, fun t => c.reg a.toNat t >>> c.val b t)])) ∧
    (∀ (a : Reg) (b : Src), FixedWrites (.sar f d a b) f (nameD d (reg1 a) (src1 b) none) (4, 2)
      (fun c => [(d.toNat, fun t => (c.reg a.toNat t).sshiftRight' (c.val b t))])) ∧
    (∀ (a : Reg) (b : Src), FixedWrites (.rot f d a b) f (nameD d (reg1 a) (src1 b) none) (4, 2)
      (fun c => [(d.toNat, fun t => word (fun i => (c.reg a.toNat t).getLsbD ((i + 32 - (c.val b t).toNat % 32) % 32)))])) ∧
    (∀ (a : Reg), FixedWrites (.popc f d a) f (nameD d (reg1 a) none none) (4, 2)
      (fun c => [(d.toNat, fun t => BitVec.ofNat 32 ((List.range 32).filter (fun i => (c.reg a.toNat t).getLsbD i)).length)])) ∧
    (∀ (a : Reg), FixedWrites (.clz f d a) f (nameD d (reg1 a) none none) (4, 2)
      (fun c => [(d.toNat, fun t => BitVec.ofNat 32 (32 - (c.reg a.toNat t).toNat.size))])) ∧
    (∀ (a : Reg), FixedWrites (.brev f d a) f (nameD d (reg1 a) none none) (4, 2)
      (fun c => [(d.toNat, fun t => word (fun i => (c.reg a.toNat t).getLsbD (31 - i)))])) ∧
    (∀ (a b : Src) (sx : Bool), FixedWrites (.bfx f d a b sx) f (nameD d (src1 a) (src1 b) none) (4, 2)
      (fun c => [(d.toNat, fun t =>
        let pos := min ((c.val b t).extractLsb' 0 8).toNat 32
        let len := min ((c.val b t).extractLsb' 8 8).toNat 32
        let x : DWord := if sx then (c.val a t).signExtend 64 else (c.val a t).zeroExtend 64
        let v : BitVec len := (x >>> pos).setWidth len
        if sx then v.signExtend 32 else v.zeroExtend 32)])) ∧
    (∀ (a b c3 : Src), FixedWrites (.bfi f d a b c3) f (nameD d (src1 a) (src1 b) (src1 c3)) (4, 2)
      (fun c => [(d.toNat, fun t =>
        let pos := min ((c.val b t).extractLsb' 0 8).toNat 32
        let len := min ((c.val b t).extractLsb' 8 8).toNat 32
        word (fun i => if pos ≤ i ∧ i < pos + len then (c.val a t).getLsbD (i - pos) else (c.val c3 t).getLsbD i))])) ∧
    (∀ (a b c3 : Src) (tt : BitVec 8), FixedWrites (.lop3 f d a b c3 tt) f (nameD d (src1 a) (src1 b) (src1 c3)) (4, 2)
      (fun c => [(d.toNat, fun t => word (fun i =>
        tt.getLsbD (((c.val a t).getLsbD i).toNat + 2 * ((c.val b t).getLsbD i).toNat + 4 * ((c.val c3 t).getLsbD i).toNat)))])) ∧
    -- the opcodes, and the forms they have
    (∀ (a : Reg) (b : Src),
      let ops : List (Instr × Nat) := [(.and f d a b, 0x20), (.or f d a b, 0x21), (.xor f d a b, 0x22), (.andn f d a b, 0x23)]
      let one : List (Instr × Nat) := [(.popc f d a, 0x28), (.clz f d a, 0x29), (.brev f d a, 0x2A)]
      (∀ p ∈ ops, ∃ r, fieldsOf p.1 = some r ∧ r.opc = p.2 ∧ formsOf r.opc = [.s, .l] ∧ (p.1.wf = true → r.form = .s ∨ r.form = .l)) ∧
      (∀ p ∈ one, ∃ r, fieldsOf p.1 = some r ∧ r.opc = p.2 ∧ formsOf r.opc = [.s] ∧ r.b = 0 ∧ (p.1.wf = true → r.form = .s)))

/-! ### Moves, selections, comparisons and votes (R115 to R119, R127 to R131) -/

/-- MOV, SEL, PRMT and MOVI: R115 to R118. MOVI completes where every computed name is a register that the thread may name (R55,
R56), no checking scoreboard is on and no register holds an uncorrectable error. -/
def Obligations.MoveAndSelectResults : Prop :=
  ∀ (f : Fr) (d : Reg),
    (∀ (b : Src), FixedWrites (.mov f d b) f (nameD d none (src1 b) none) (4, 2) (fun c => [(d.toNat, fun t => c.val b t)])) ∧
    (∀ (a b c3 : Src) (neg : Bool), FixedWrites (.sel f d a b c3 neg) f (nameD d (src1 a) (src1 b) (src1 c3)) (4, 2)
      (fun c => [(d.toNat, fun t => if xor ((c.val c3 t).getLsbD 0) neg then c.val a t else c.val b t)])) ∧
    (∀ (a b c3 : Src) (swp : Bool), FixedWrites (.prmt f d a b c3 swp) f (nameD d (src1 a) (src1 b) (src1 c3)) (4, 2)
      (fun c => [(d.toNat, fun t =>
        let y (i : Nat) : Byte := prmtByteOf swp (c.val a t) (c.val b t) ((c.val c3 t).extractLsb' (8 * i) 8)
        y 3 ++ y 2 ++ y 1 ++ y 0)])) ∧
    (∀ (a b : Reg) (base : BitVec 10) (s : State) (c : Ctx),
      let name (t : Nat) : Nat := base.toNat + (c.reg a.toNat (c.from t)).toNat
      (∀ t ∈ c.threads, (name t < c.warp.alloc ∧ name t < 512 ∨ 512 ≤ name t ∧ name t < 768 ∧ c.warp.xl = true) ∧
        (c.riffle = true → name t < 256)) →
      c.chk = false → c.pre.poison = [] →
      (Issues s f (nameD d (reg1 a) none none) (some (4, 2)) noEarly c →
        exec (.moviRead f d a base) s = .next (fixedNext c f (nameD d (reg1 a) none none) (4, 2) [(d.toNat, fun t => c.reg (base.toNat + (c.reg a.toNat (c.from t)).toNat) t)] Health.none)) ∧
      (Issues s f (nameS (reg1 a) (reg1 b) none) (some (4, 2)) noEarly c →
        exec (.moviWrite f a b base) s = .next (finishFixed c f (c.lat 4 2)
          ((c.threads.filter (fun t => decide (name t ≠ 0))).map (fun t => (c.key (name t) t, c.reg b.toNat (c.from t)))) Health.none
          (advance c f (nameS (reg1 a) (reg1 b) none)))))

/-- ICMP, FCMP, FCLASS, VOTE and MATCHW: R127 to R131. -/
def Obligations.CompareAndVoteResults : Prop :=
  ∀ (f : Fr) (d c2 : Reg),
    (∀ (a b : Src) (k : Cond) (u : Bool), FixedWrites (.icmp f d c2 a b k u) f (nameDC d c2 (src1 a) (src1 b)) (4, 2)
      (fun c =>
        let p (t : Nat) : Bool :=
          let x := c.val a t
          let y := c.val b t
          match k with
          | .eq => x == y
          | .ne => x != y
          | .lt => if u then x.ult y else x.slt y
          | .le => if u then x.ule y else x.sle y
          | .gt => if u then y.ult x else y.slt x
          | .ge => if u then y.ule x else y.sle x
        [(d.toNat, fun t => if p t then 1 else 0), (c2.toNat, fun t => if p t then 0 else 1)])) ∧
    (∀ (a b : Src) (k : FCond) (u : Bool) (ty : FTy), FixedWrites (.fcmp f d c2 a b k u ty) f (nameDC d c2 (src1 a) (src1 b)) (6, 3)
      (fun c =>
        let p (t : Nat) : Bool :=
          let x := (ftyFmt ty).decode (c.val a t).toNat
          let y := (ftyFmt ty).decode (c.val b t).toNat
          let un := x.isNan || y.isNan
          match k with
          | .num => !un
          | .nan => un
          | .eq => if un then u else !(x.lt y) && !(y.lt x)
          | .ne => if un then u else x.lt y || y.lt x
          | .lt => if un then u else x.lt y
          | .le => if un then u else !(y.lt x)
          | .gt => if un then u else y.lt x
          | .ge => if un then u else !(x.lt y)
        [(d.toNat, fun t => if p t then 1 else 0), (c2.toNat, fun t => if p t then 0 else 1)])) ∧
    (∀ (a : Reg) (mask : BitVec 10) (ty : FTy), FixedWrites (.fclass f d a mask ty) f (nameD d (reg1 a) none none) (6, 3)
      (fun c => [(d.toNat, fun t => if mask.getLsbD (classOf ty (c.reg a.toNat t)) then 1 else 0)])) ∧
    (∀ (op : VoteOp) (a : Reg), FixedWrites (.vote f op d a) f (nameD d (reg1 a) none none) (8, 4)
      (fun c =>
        let p (t : Nat) : Bool := (c.reg a.toNat t).getLsbD 0
        [(d.toNat, fun _ =>
          match op with
          | .all => if c.threads.all p then 1 else 0
          | .any => if c.threads.any p then 1 else 0
          | .eq => if c.threads.all p || c.threads.all (fun t => !(p t)) then 1 else 0
          | .ballot => word (fun t => c.act.getLsbD t && p t)
          | .count => BitVec.ofNat 32 (c.threads.filter p).length)])) ∧
    (∀ (a : Reg), FixedWrites (.matchw f false d c2 a) f (nameDC d c2 (reg1 a) none) (8, 4)
      (fun c =>
        [(d.toNat, fun t => word (fun u => c.act.getLsbD u && decide (c.reg a.toNat u = c.reg a.toNat t))),
         (c2.toNat, fun t => if c.threads.all (fun u => decide (c.reg a.toNat u = c.reg a.toNat t)) then 1 else 0)])) ∧
    (∀ (a : Reg), FixedWrites (.matchw f true d c2 a) f (nameDC d c2 (reg2 a) none) (8, 4)
      (fun c =>
        [(d.toNat, fun t => word (fun u => c.act.getLsbD u && decide (c.reg2 a.toNat u = c.reg2 a.toNat t))),
         (c2.toNat, fun t => if c.threads.all (fun u => decide (c.reg2 a.toNat u = c.reg2 a.toNat t)) then 1 else 0)]))

/-! ### Floating point (R133 to R149) -/

/-- FP32 arithmetic and the special functions: R134 to R138. Each value is exact and rounded once. Of FEXP2, FLOG2, FTANH and FSINCOS it says the
results at the edges and the exact ones; elsewhere the result is the rounding of an end of the first enclosure whose two ends round alike: that
these enclosures hold the exact values, so that the error is that of one rounding, is log 30. -/
def Obligations.FloatResults : Prop :=
  (∀ (f : Fr) (d : Reg),
    (∀ (a b : Src) (rnd : Rnd) (na nb aa ab sat : Bool), FixedWrites (.fadd f d a b rnd na nb aa ab sat) f (nameD d (src1 a) (src1 b) none) (6, 3)
      (fun c => [(d.toNat, fun t =>
        rounded rnd sat (Machine.Num.add (decide (rnd = .rdn)) (operand na aa (numOf (c.val a t))) (operand nb ab (numOf (c.val b t)))))])) ∧
    (∀ (a b : Src) (rnd : Rnd) (na nb aa ab sat : Bool), FixedWrites (.fsub f d a b rnd na nb aa ab sat) f (nameD d (src1 a) (src1 b) none) (6, 3)
      (fun c => [(d.toNat, fun t =>
        rounded rnd sat (Machine.Num.add (decide (rnd = .rdn)) (operand na aa (numOf (c.val a t))) (operand nb ab (numOf (c.val b t))).neg))])) ∧
    (∀ (a b : Src) (rnd : Rnd) (na nb aa ab sat : Bool), FixedWrites (.fmul f d a b rnd na nb aa ab sat) f (nameD d (src1 a) (src1 b) none) (6, 3)
      (fun c => [(d.toNat, fun t =>
        rounded rnd sat (Machine.Num.mul (operand na aa (numOf (c.val a t))) (operand nb ab (numOf (c.val b t)))))])) ∧
    (∀ (a b c3 : Src) (rnd : Rnd) (na nb aa ab sat nc ac : Bool),
      FixedWrites (.ffma f d a b c3 rnd na nb aa ab sat nc ac) f (nameD d (src1 a) (src1 b) (src1 c3)) (6, 3)
        (fun c => [(d.toNat, fun t =>
          rounded rnd sat (Machine.Num.add (decide (rnd = .rdn)) (Machine.Num.mul (operand na aa (numOf (c.val a t))) (operand nb ab (numOf (c.val b t))))
            (operand nc ac (numOf (c.val c3 t)))))])) ∧
    (∀ (a : Reg) (b : Src) (isMax : Bool),
      FixedWrites (if isMax then .fmax f d a b else .fmin f d a b) f (nameD d (reg1 a) (src1 b) none) (6, 3)
        (fun c => [(d.toNat, fun t =>
          let x := c.reg a.toNat t
          let y := c.val b t
          if (numOf x).isNan && (numOf y).isNan then 0x7FC00000
          else if (numOf x).isNan then y
          else if (numOf y).isNan then x
          else if (numOf x).isZero && (numOf y).isZero then (if (numOf x).neg? == isMax then y else x)
          else if isMax then (if (numOf x).lt (numOf y) then y else x) else (if (numOf y).lt (numOf x) then y else x))])) ∧
    (∀ (a : Reg), FixedWrites (.frcp f d a) f (nameD d (reg1 a) none none) (12, 6)
      (fun c => [(d.toNat, fun t => toF32 .rne (Machine.Num.div (.fin false 1 0 1) (numOf (c.reg a.toNat t))))])) ∧
    (∀ (a : Reg), FixedWrites (.frsq f d a) f (nameD d (reg1 a) none none) (12, 6)
      (fun c => [(d.toNat, fun t => toF32 .rne (Machine.Num.rsqrt (numOf (c.reg a.toNat t))))])) ∧
    (∀ (a : Reg) (rnd : Rnd), FixedWrites (.fsqrt f d a rnd) f (nameD d (reg1 a) none none) (12, 6)
      (fun c => [(d.toNat, fun t => toF32 (plainMode rnd) (Machine.Num.sqrt (numOf (c.reg a.toNat t))))])) ∧
    (∀ (a b : Reg) (rnd : Rnd), FixedWrites (.fdiv f d a b rnd) f (nameD d (reg1 a) (reg1 b) none) (12, 6)
      (fun c => [(d.toNat, fun t => toF32 (plainMode rnd) (Machine.Num.div (numOf (c.reg a.toNat t)) (numOf (c.reg b.toNat t))))])) ∧
    (∀ (a : Reg), FixedWrites (.fexp2 f d a) f (nameD d (reg1 a) none none) (12, 6) (fun c => [(d.toNat, fun t => fexp2 (c.reg a.toNat t))])) ∧
    (∀ (a : Reg), FixedWrites (.flog2 f d a) f (nameD d (reg1 a) none none) (12, 6) (fun c => [(d.toNat, fun t => flog2w (c.reg a.toNat t))])) ∧
    (∀ (a : Reg), FixedWrites (.ftanh f d a) f (nameD d (reg1 a) none none) (12, 6) (fun c => [(d.toNat, fun t => ftanh (c.reg a.toNat t))])) ∧
    (∀ (a c2 : Reg), FixedWrites (.fsincos f d c2 a) f (nameDC d c2 (reg1 a) none) (12, 6)
      (fun c => [(d.toNat, fun t => ftrig 0 (c.reg a.toNat t)), (c2.toNat, fun t => ftrig 1 (c.reg a.toNat t))]))) ∧
  -- the edges of R136: NaN, zeros, infinities, negative arguments
  (∀ w : Word, (numOf w).isNan = true → fexp2 w = 0x7FC00000 ∧ flog2w w = 0x7FC00000 ∧ ftanh w = 0x7FC00000 ∧ ftrig 0 w = 0x7FC00000 ∧
    ftrig 1 w = 0x7FC00000) ∧
  (fexp2 0 = 0x3F800000 ∧ fexp2 0x80000000 = 0x3F800000 ∧ fexp2 0x7F800000 = 0x7F800000 ∧ fexp2 0xFF800000 = 0 ∧
    flog2w 0 = 0xFF800000 ∧ flog2w 0x80000000 = 0xFF800000 ∧ flog2w 0x7F800000 = 0x7F800000 ∧ flog2w 0xFF800000 = 0x7FC00000 ∧
    flog2w 0x3F800000 = 0 ∧ ftanh 0 = 0 ∧ ftanh 0x80000000 = 0x80000000 ∧ ftanh 0x7F800000 = 0x3F800000 ∧ ftanh 0xFF800000 = 0xBF800000 ∧
    ftrig 0 0 = 0 ∧ ftrig 0 0x80000000 = 0x80000000 ∧ ftrig 1 0 = 0x3F800000 ∧ ftrig 1 0x80000000 = 0x3F800000 ∧
    ftrig 0 0x7F800000 = 0x7FC00000 ∧ ftrig 1 0x7F800000 = 0x7FC00000 ∧ ftrig 0 0xFF800000 = 0x7FC00000 ∧ ftrig 1 0xFF800000 = 0x7FC00000) ∧
  (∀ w : Word, w.msb = true → (numOf w).isZero = false → flog2w w = 0x7FC00000) ∧
  -- 2^A overflows from 2^8 on
  (∀ (w : Word) (n d : Nat) (e : Int), numOf w = .fin false n e d → n ≠ 0 → 8 ≤ Machine.flog2 n e d → fexp2 w = 0x7F800000) ∧
  -- exact: integers of FEXP2, powers of two of FLOG2
  (∀ k : Int, -149 ≤ k → k ≤ 127 → fexp2 (rne32 (Machine.Num.ofInt k)) = rne32 (.fin false 1 k 1) ∧
    flog2w (rne32 (.fin false 1 k 1)) = rne32 (Machine.Num.ofInt k)) ∧
  -- elsewhere: an end of an enclosure, both ends of which round alike or which is the last (log 30)
  (∀ (g : Nat → Encl) (ps : List Nat), ps ≠ [] → ∃ p ∈ ps, roundEncl g ps = rne32 (Encl.num (g p).lo (g p).p) ∧
    (rne32 (Encl.num (g p).lo (g p).p) = rne32 (Encl.num (g p).hi (g p).p) ∨ ps.getLast? = some p)) ∧
  (∀ (w : Word) (neg : Bool) (n d : Nat) (e : Int), numOf w = .fin neg n e d → n ≠ 0 →
    (Machine.flog2 n e d < 8 → (inUnits n e d 0).2.1 ≠ 0 →
      fexp2 w = roundEncl (fun p => exEncl p ((Machine.Num.fin neg n e d).fix p * ln2 p / (2 ^ p : Int)) (512 * p)) precisions) ∧
    (∀ q : Int, ftrig q w = roundEncl (fun p => trigEncl q (.fin neg n e d) (p + 200)) precisions) ∧
    -- tanh is odd, and is ±1 from 2^5 on
    (5 ≤ Machine.flog2 n e d → ftanh w = if neg then 0xBF800000 else 0x3F800000))

/-- Packed half: R139, R140. The two lanes are computed alone. -/
def Obligations.PackedHalfResults : Prop :=
  ∀ (f : Fr) (d : Reg),
    (∀ (a : Reg) (b : Src) (rnd : Rnd) (bf na nb mul : Bool),
      FixedWrites (if mul then .h2mul f d a b rnd bf na nb else .h2add f d a b rnd bf na nb) f (nameD d (reg1 a) (src1 b) none) (6, 3)
        (fun c => [(d.toNat, fun t =>
          let fm := if bf then bf16 else f16
          let lane (i : Nat) : BitVec 16 :=
            let x := operand na false (fm.decode ((c.reg a.toNat t).extractLsb' (16 * i) 16).toNat)
            let y := operand nb false (fm.decode ((c.val b t).extractLsb' (16 * i) 16).toNat)
            BitVec.ofNat 16 (fm.round (plainMode rnd) (if mul then Machine.Num.mul x y else Machine.Num.add (decide (rnd = .rdn)) x y))
          lane 1 ++ lane 0)])) ∧
    (∀ (a b c3 : Src) (rnd : Rnd) (bf na nb nc : Bool), FixedWrites (.h2fma f d a b c3 rnd bf na nb nc) f (nameD d (src1 a) (src1 b) (src1 c3)) (6, 3)
      (fun c => [(d.toNat, fun t =>
        let fm := if bf then bf16 else f16
        let lane (i : Nat) : BitVec 16 :=
          let x := operand na false (fm.decode ((c.val a t).extractLsb' (16 * i) 16).toNat)
          let y := operand nb false (fm.decode ((c.val b t).extractLsb' (16 * i) 16).toNat)
          let z := operand nc false (fm.decode ((c.val c3 t).extractLsb' (16 * i) 16).toNat)
          BitVec.ofNat 16 (fm.round (plainMode rnd) (Machine.Num.add (decide (rnd = .rdn)) (Machine.Num.mul x y) z))
        lane 1 ++ lane 0)])) ∧
    (∀ (a : Reg) (b : Src) (bf isMax : Bool),
      FixedWrites (if isMax then .h2max f d a b bf else .h2min f d a b bf) f (nameD d (reg1 a) (src1 b) none) (6, 3)
        (fun c => [(d.toNat, fun t =>
          let fm := if bf then bf16 else f16
          let lane (i : Nat) : BitVec 16 :=
            BitVec.ofNat 16 (fm.minmax isMax ((c.reg a.toNat t).extractLsb' (16 * i) 16).toNat ((c.val b t).extractLsb' (16 * i) 16).toNat)
          lane 1 ++ lane 0)]))

/-- Conversions: R142 to R149, with the health events that types of 8 bits or fewer count. -/
def Obligations.ConversionResults : Prop :=
  ∀ (f : Fr) (d : Reg),
    (∀ (a : Reg) (sty dt : Elem) (rnd : Rnd) (i : Instr),
      i ∈ [Instr.cvt f d a sty dt rnd, .cvti f d a sty dt rnd, .cvtf f d a sty dt rnd] →
      FixedCounts i f (nameD d (reg1 a) none none) (6, 3)
        (fun c => [(d.toNat, fun t => elemWord dt (convElem dt (plainMode rnd) (elemInp sty (c.reg a.toNat t))).code)])
        (fun c => if elemBits dt ≤ 8 then Health.sum (c.doers.map (fun t => (convElem dt (plainMode rnd) (elemInp sty (c.reg a.toNat t))).ev))
          else Health.none)) ∧
    (∀ (a b : Reg) (c3 : Option Reg) (dt : Elem) (rnd : Rnd) (k : BitVec 3),
      FixedCounts (.pack2 f d a b c3 dt rnd k) f (nameD d (reg1 a) (reg1 b) (oreg c3)) (6, 3)
        (fun c => [(d.toNat, fun t =>
          let q (r : Reg) : Nat := (convElem dt (plainMode rnd) (inpOf (c.reg r.toNat t))).code
          let w := slotWidth dt
          let old : Word := match c3 with | some r => c.reg r.toNat t | none => 0
          putBits (putBits old (w * (2 * k.toNat)) w (q a)) (w * (2 * k.toNat + 1)) w (q b))])
        (fun c => if elemBits dt ≤ 8 then
            Health.sum (c.doers.flatMap (fun t => [(convElem dt (plainMode rnd) (inpOf (c.reg a.toNat t))).ev, (convElem dt (plainMode rnd) (inpOf (c.reg b.toNat t))).ev]))
          else Health.none)) ∧
    (∀ (a c2 : Reg) (sty : Elem) (k : BitVec 3), FixedWrites (.unpk2 f d c2 a sty k) f (nameDC d c2 (reg1 a) none) (6, 3)
      (fun c =>
        let v (j t : Nat) : Word := toF32 .rne (elemVal sty ((c.reg a.toNat t).toNat / 2 ^ (slotWidth sty * j) % 2 ^ elemBits sty))
        [(d.toNat, v (2 * k.toNat)), (c2.toNat, v (2 * k.toNat + 1))])) ∧
    (∀ (a b : Src) (dt : Elem) (strm : BitVec 8), FixedCounts (.srnd f d a b dt strm) f (nameD d (src1 a) (src1 b) none) (6, 3)
      (fun c => [(d.toNat, fun t =>
        let q (x : Src) (j : Nat) : Nat := (convElem dt (.sr (dither c.ctx.seed (2 * t + j) strm.toNat)) (inpOf (c.val x t))).code
        let w := slotWidth dt
        putBits (putBits 0 0 w (q a 0)) w w (q b 1))])
      (fun c => if elemBits dt ≤ 8 then
          Health.sum (c.doers.flatMap (fun t =>
            [(convElem dt (.sr (dither c.ctx.seed (2 * t) strm.toNat)) (inpOf (c.val a t))).ev,
             (convElem dt (.sr (dither c.ctx.seed (2 * t + 1) strm.toNat)) (inpOf (c.val b t))).ev]))
        else Health.none))

/-! ### Block and cross-lane instructions (R150 to R169) -/

namespace Sys2Proof.Claims

/-- The rational value of a finite number. -/
def ratOf : Machine.Num → ℚ
  | .fin neg n e d => (if neg then -1 else 1) * n * (2 : ℚ) ^ e / d
  | _ => 0

/-- The scale words of R32 to R35, of inputs whose largest magnitude is `a`, and those of a NaN block. -/
def MxScales : Prop :=
  (∀ (e : Elem) (ocp : Bool) (ws : List Word), (∃ w ∈ ws, (numOf w).isNan = true ∨ (numOf w).isInf = true) →
    chooseScale e ocp (ws.map numOf) = 0xFF000) ∧
  (∀ (e : Elem) (ws : List Word) (a : ℚ), isMxE e = true → (∀ w ∈ ws, (numOf w).isNan = false ∧ (numOf w).isInf = false) →
    (∀ w ∈ ws, |ratOf (numOf w)| ≤ a) → (∃ w ∈ ws, |ratOf (numOf w)| = a) →
      (a = 0 → ∀ ocp, chooseScale e ocp (ws.map numOf) = 0) ∧
      (a ≠ 0 →
        -- tight: the exponent and the mantissa, rounded up, of amax / maxfinite
        (∃ l : Int, let t := a / ratOf (maxFinite e)
          (2 : ℚ) ^ l ≤ t ∧ t < (2 : ℚ) ^ (l + 1) ∧
          let m : Int := ⌈(t / (2 : ℚ) ^ l - 1) * 4096⌉
          let x : Int := if m = 4096 then l + 128 else l + 127
          let y : Int := if m = 4096 then 0 else m
          chooseScale e false (ws.map numOf) = if x < 0 then 0 else if 254 < x then 254 * 4096 + 4095 else (x * 4096 + y).toNat) ∧
        -- OCP: the exponent of amax less emax, clamped
        (∃ l : Int, (2 : ℚ) ^ l ≤ a ∧ a < (2 : ℚ) ^ (l + 1) ∧
          chooseScale e true (ws.map numOf) = (max 0 (min 254 (l - emaxOf e + 127))).toNat * 4096))) ∧
  (ratOf (maxFinite .mx8e4) = 448 ∧ ratOf (maxFinite .mx8e5) = 57344 ∧ ratOf (maxFinite .mx6e2) = 15 / 2 ∧ ratOf (maxFinite .mx6e3) = 28 ∧
    ratOf (maxFinite .mx4) = 6 ∧ ratOf (maxFinite .mxi8) = 127 / 64) ∧
  (emaxOf .mx8e4 = 8 ∧ emaxOf .mx8e5 = 15 ∧ emaxOf .mx6e2 = 2 ∧ emaxOf .mx6e3 = 4 ∧ emaxOf .mx4 = 2 ∧ emaxOf .mxi8 = 0)

/-- The scale word of an A4 or A8 group from the exact minima and maxima (R37, R157). -/
def GroupScales : Prop :=
  ∀ (zf : ZFmt) (lo hi : List Machine.Num),
    ((∃ x ∈ lo ++ hi, x.isNan = true ∨ x.isInf = true) → bzpVal zf lo hi = 0x7E000) ∧
    ((∀ x ∈ lo ++ hi, x.isNan = false ∧ x.isInf = false) →
      let l := lo.foldl Machine.Num.min2 (.zero false)
      let h := hi.foldl Machine.Num.max2 (.zero false)
      let range := Machine.Num.add false (h.max2 (.zero false)) (l.min2 (.zero false)).neg
      let f := if zf = .a4 then f16 else fp12
      let qmax : Nat := if zf = .a4 then 15 else 255
      (range.isZero = true → bzpVal zf lo hi = 0) ∧
      (range.isZero = false →
        let c0 := f.round .rup (Machine.Num.div range (.ofInt qmax))
        let c := if (f.decode c0).isInf = true then f.maxCode else c0
        let z := ((Machine.Num.div (l.min2 (.zero false)).neg (f.decode c)).toIntRound .rne).getD 0
        bzpVal zf lo hi = c * (if zf = .a4 then 16 else 256) + (max 0 (min (qmax : Int) z)).toNat))

/-- An element of a block under a scale word (R36, R37, R159), with its events (R44). -/
def Quantised : Prop :=
  (∀ (e : Elem) (s20 : Nat) (ms : List Mode) (xs : List Inp), nanScale e s20 = true →
    quantGiven e s20 ms xs = ⟨s20, xs.map (fun _ => 0), ⟨xs.length, 0⟩⟩) ∧
  (∀ (e : Elem) (s20 : Nat) (ms : List Mode) (xs : List Inp) (i : Nat) (x : Inp) (m : Mode), nanScale e s20 = false → xs[i]? = some x → ms[i]? = some m →
    (quantGiven e s20 ms xs).s20 = s20 ∧
    (quantGiven e s20 ms xs).codes[i]? = some (if isAE e then (quantA e m (aScale e s20).1 (aScale e s20).2 x).code else (quantMx e m (mxScale s20) x).code)) ∧
  -- MX: the exact quotient rounded once; an overflow saturates
  (∀ (e : Elem) (f : FFmt) (m : Mode) (scale : Machine.Num) (neg inpNeg : Bool) (n d : Nat) (x : Int), floatOf e = some f →
    let v : Machine.Num := .fin neg n x d
    let r := f.roundTo m (Machine.Num.div v scale)
    let zero : Prop := n ≠ 0 ∧ r.code % 2 ^ (f.ebits + f.mbits) = 0
    (r.ovf = true → quantMx e m scale ⟨v, inpNeg⟩ = ⟨f.signBit neg + f.maxCode, ⟨1, 0⟩⟩) ∧
    (r.ovf = false → zero → quantMx e m scale ⟨v, inpNeg⟩ = ⟨r.code, ⟨0, 1⟩⟩) ∧
    (r.ovf = false → ¬ zero → quantMx e m scale ⟨v, inpNeg⟩ = ⟨r.code, ⟨0, 0⟩⟩)) ∧
  (∀ (m : Mode) (scale : Machine.Num) (neg inpNeg : Bool) (n d : Nat) (x : Int),
    let v : Machine.Num := .fin neg n x d
    let k := ((Machine.Num.mul (Machine.Num.div v scale) (.fin false 64 0 1)).toIntRound m).getD 0
    (quantMx .mxi8 m scale ⟨v, inpNeg⟩).code = ((max (-127) (min 127 k)) % 256).toNat) ∧
  -- A4 and A8: the quotient rounded, plus the zero point, clamped; under a scale of 0 the zero point (log 80)
  (∀ (e : Elem) (m : Mode) (scale : Machine.Num) (z : Nat) (neg inpNeg : Bool) (n d : Nat) (x : Int),
    let v : Machine.Num := .fin neg n x d
    let qmax : Int := if e = .a4 then 15 else 255
    let k := ((Machine.Num.div v scale).toIntRound m).getD 0 + z
    (scale.isZero = false → (quantA e m scale z ⟨v, inpNeg⟩).code = (max 0 (min qmax k)).toNat ∧
      ((quantA e m scale z ⟨v, inpNeg⟩).ev.sat = 1 ↔ k < 0 ∨ qmax < k)) ∧
    (scale.isZero = true → quantA e m scale z ⟨v, inpNeg⟩ = ⟨z, ⟨0, if n = 0 then 0 else 1⟩⟩)) ∧
  (∀ (e : Elem) (m : Mode) (scale : Machine.Num) (z : Nat) (inpNeg : Bool), quantA e m scale z ⟨.nan, inpNeg⟩ = ⟨z, ⟨1, 0⟩⟩ ∧
    quantA e m scale z ⟨.inf true, inpNeg⟩ = ⟨0, ⟨1, 0⟩⟩ ∧ quantA e m scale z ⟨.inf false, inpNeg⟩ = ⟨if e = .a4 then 15 else 255, ⟨1, 0⟩⟩)

/-- What the block instructions compute of the active threads' values (R155, R159, R161). -/
def BlockValues : Prop :=
  (∀ (isMax : Bool) (kind : MaxKind) (ty : FTy) (xs : List Word),
    let v (w : Word) : Machine.Num := let x := (ftyFmt ty).decode w.toNat; if kind = .abs then x.abs else x
    ((∃ w ∈ xs, (v w).isNan = true) → bmaxVal isMax kind ty xs = 0x7FC00000) ∧
    ((∀ w ∈ xs, (v w).isNan = false) → xs ≠ [] → ∃ w ∈ xs, bmaxVal isMax kind ty xs = rne32 (v w) ∧
      ∀ y ∈ xs, (if isMax then (v w).lt (v y) else (v y).lt (v w)) = false)) ∧
  (∀ (c : Ctx) (mode : QMode) (a : Nat → Word) (given : Nat) (bf : BFmt) (rnd : Rnd) (strm : Nat),
    let e : Elem := bfElem bf
    let q : QBlock := bquantBlock c mode a given bf rnd strm
    -- the scale word: that given, or the one chosen of the active inputs
    (mode = .given → q.s20 = given) ∧
    (mode ≠ .given → isAE e = false → q.s20 = chooseScale e (decide (mode = .ocp)) (c.threads.map (fun t => numOf (a t)))) ∧
    -- each active thread's code, under it; with a NaN scale every code is 0 and one saturation an element is counted
    ((mode = .given ∨ isAE e = false) → nanScale e q.s20 = true → q.codes = c.threads.map (fun _ => 0) ∧ q.ev = ⟨c.threads.length, 0⟩) ∧
    (∀ i t, (mode = .given ∨ isAE e = false) → nanScale e q.s20 = false → c.threads[i]? = some t →
      q.codes.getD i 0 = (quantGiven e q.s20 [modeOf rnd c.ctx.seed t strm] [inpOf (a t)]).codes.getD 0 0)) ∧
  (∀ (bf : BFmt) (m : Mode) (code : Word) (old new : Nat), let e := bfElem bf
    (nanScale e old = true → brescaleQuant bf m code old new = ⟨0, ⟨1, 0⟩⟩) ∧
    (nanScale e old = false → nanScale e new = true → brescaleQuant bf m code old new = ⟨0, ⟨1, 0⟩⟩) ∧
    (nanScale e old = false → nanScale e new = false →
      brescaleQuant bf m code old new = if isAE e then quantA e m (aScale e new).1 (aScale e new).2 (deqInp e old code.toNat)
        else quantMx e m (mxScale new) (deqInp e old code.toNat)))

end Sys2Proof.Claims

/-- Block instructions: R155 to R164. Each active thread receives the result, and the values that the instruction reads as uniform are
those of the lowest active thread (R29, R152). What they compute is stated of the scale words (R32 to R35, R37), of the elements (R36, R37, R44)
and of each instruction; a group word with scale 0 is log 80. -/
def Obligations.BlockResults : Prop :=
  MxScales ∧ GroupScales ∧ Quantised ∧ BlockValues ∧
  ∀ (f : Fr) (d : Reg),
    (∀ (kind : MaxKind) (a : Reg) (ty : FTy) (isMax : Bool),
      FixedWrites (if isMax then .bmax f kind d a ty else .bmin f kind d a ty) f (nameD d (reg1 a) none none) (8, 4)
        (fun c => [(d.toNat, fun _ => bmaxVal isMax kind ty (c.threads.map (fun t => c.reg a.toNat t)))])) ∧
    (∀ (mode : SMode) (a : Reg) (bf : BFmt), FixedWrites (.bscale f mode d a bf) f (nameD d (reg1 a) none none) (12, 6)
      (fun c => [(d.toNat, fun _ =>
        BitVec.ofNat 32 (chooseScale (bfElem bf) (decide (mode = .ocp)) (c.threads.map (fun t => numOf (c.reg a.toNat t)))))])) ∧
    (∀ (zf : ZFmt) (a b : Reg), FixedWrites (.bzp f zf d a b) f (nameD d (reg1 a) (reg1 b) none) (12, 6)
      (fun c => [(d.toNat, fun _ =>
        BitVec.ofNat 32 (bzpVal zf (c.threads.map (fun t => numOf (c.reg a.toNat t))) (c.threads.map (fun t => numOf (c.reg b.toNat t)))))])) ∧
    (∀ (mode : QMode) (c2 : Reg) (a : Src) (b : Option Src) (bf : BFmt) (rnd : Rnd) (strm : BitVec 8),
      let q (c : Ctx) : QBlock := bquantBlock c mode (c.val a) ((b.elim 0 (fun x => c.val x (lowest c.act))).toNat % 2 ^ 20) bf rnd strm.toNat
      FixedCounts (.bquant f mode d c2 a b bf rnd strm) f (nameDC d c2 (src1 a) (osrc b)) (14, 7)
        (fun c => [(d.toNat, fun t => BitVec.ofNat 32 ((q c).codes.getD (c.threads.idxOf t) 0)), (c2.toNat, fun _ => BitVec.ofNat 32 (q c).s20)])
        (fun c => (q c).ev)) ∧
    (∀ (a b : Src) (bf : BFmt) (dt : DTy) (rnd : Rnd), FixedWrites (.bdeq f d a b bf dt rnd) f (nameD d (src1 a) (src1 b) none) (6, 3)
      (fun c => [(d.toNat, fun t =>
        BitVec.ofNat 32 ((dtyFmt dt).round (plainMode rnd)
          (scaledVal (bfElem bf) ((c.val b (lowest c.act)).toNat % 2 ^ 20) ((c.val a t).toNat % 2 ^ elemBits (bfElem bf)))))])) ∧
    (∀ (a b : Reg) (bf : BFmt) (grp : Grp) (part : BitVec 2),
      FixedWrites (.bpack f d a b bf grp part) f (nameDN d (spanLen (bfElem bf) grp) (reg1 a) (reg1 b) none) (8, 4)
        (fun c => packed c (bfElem bf) a d.toNat part.toNat ++
          [(d.toNat + spanData (bfElem bf) grp, fun _ => BitVec.ofNat 32 ((c.reg b.toNat (lowest c.act)).toNat % 2 ^ 20))])) ∧
    (∀ (a c2 : Reg) (bf : BFmt) (grp : Grp) (part : BitVec 2),
      FixedWrites (.bunpk f d c2 a bf grp part) f ⟨regN a (spanLen (bfElem bf) grp), none, none, [(d.toNat, 1), (c2.toNat, 1)]⟩ (8, 4)
        (fun c => [(d.toNat, unpacked c (bfElem bf) (a.toNat + part.toNat * elemBits (bfElem bf))),
          (c2.toNat, fun _ => BitVec.ofNat 32 ((c.reg (a.toNat + spanData (bfElem bf) grp) (lowest c.act)).toNat % 2 ^ 20))])) ∧
    (∀ (mode : QMode) (a : Reg) (b : Option Reg) (bf : BFmt) (rnd : Rnd),
      let q (c : Ctx) : QBlock := bquantBlock c mode (c.reg a.toNat) ((b.elim 0 (fun x => c.reg x.toNat (lowest c.act))).toNat % 2 ^ 20) bf rnd 0
      FixedCounts (.bhealth f mode d a b bf rnd) f (nameD d (reg1 a) (oreg b) none) (12, 6)
        (fun c => [(d.toNat, fun _ => BitVec.ofNat 32 ((q c).ev.sat % 65536 + 65536 * (q c).ev.zero))]) (fun c => (q c).ev)) ∧
    (∀ (a b c3 : Src) (bf : BFmt) (rnd : Rnd) (strm : BitVec 8),
      let q (c : Ctx) (t : Nat) : Quant := brescaleQuant bf (modeOf rnd c.ctx.seed t strm.toNat) (c.val a t)
        ((c.val b (lowest c.act)).toNat % 2 ^ 20) ((c.val c3 (lowest c.act)).toNat % 2 ^ 20)
      FixedCounts (.brescale f d a b c3 bf rnd strm) f (nameD d (src1 a) (src1 b) (src1 c3)) (6, 3)
        (fun c => [(d.toNat, fun t => BitVec.ofNat 32 (q c t).code)]) (fun c => Health.sum (c.doers.map (fun t => (q c t).ev))))

/-- Cross-lane instructions: R166 to R169. -/
def Obligations.CrossLaneResults : Prop :=
  ∀ (f : Fr) (d : Reg),
    (∀ (mode : ShflMode) (c2 : Reg) (a b : Src) (seg : BitVec 3), FixedWrites (.shfl f mode d c2 a b seg) f (nameDC d c2 (src1 a) (src1 b)) (8, 4)
      (fun c =>
        let w := 2 ^ seg.toNat
        let src (t : Nat) : Option Nat :=
          let j := (c.val b t).toNat % 32
          let l := t % w
          match mode with
          | .idx => some (t - l + j % w)
          | .up => if j ≤ l then some (t - j) else none
          | .down => if l + j < w then some (t + j) else none
          | .xor => some (t - l + (l ^^^ j) % w)
        let ok (t : Nat) : Bool := match src t with | some u => c.act.getLsbD u | none => false
        [(d.toNat, fun t => if ok t then c.val a ((src t).getD t) else c.val a t), (c2.toNat, fun t => if ok t then 1 else 0)])) ∧
    (∀ (op : RedOp) (a : Reg), FixedWrites (.redw f op d a) f (nameD d (reg1 a) none none) (8, 4)
      (fun c => [(d.toNat, fun _ => reduce (redFn op) (fun t => if c.act.getLsbD t then c.reg a.toNat t else redId op))])) ∧
    (∀ (op : RedOp) (a : Reg) (excl : Bool), FixedWrites (.scanw f op d a excl) f (nameD d (reg1 a) none none) (8, 4)
      (fun c => [(d.toNat, fun t =>
        let v := scan (redFn op) (fun t => if c.act.getLsbD t then c.reg a.toNat t else redId op)
        if excl then (if t = 0 then redId op else v (t - 1)) else v t)])) ∧
    (∀ (a : Reg) (b : Option Src) (low : Bool), FixedWrites (.bcastw f d a b low) f (nameD d (reg1 a) (osrc b) none) (8, 4)
      (fun c => [(d.toNat, fun _ =>
        let u := if low then lowest c.act else (c.valD b 0 (lowest c.act)).toNat % 32
        if c.act.getLsbD u then c.reg a.toNat u else 0)])) ∧
    (∀ (x y : Word),
      redFn .iadd x y = x + y ∧ redFn .band x y = x &&& y ∧ redFn .bor x y = x ||| y ∧ redFn .bxor x y = x ^^^ y ∧
      redFn .imin x y = (if x.sle y then x else y) ∧ redFn .imax x y = (if x.sle y then y else x) ∧
      redFn .nmin x y = (if x.ule y then x else y) ∧ redFn .nmax x y = (if x.ule y then y else x) ∧
      redFn .add x y = toF32 .rne (Machine.Num.add false (numOf x) (numOf y)) ∧
      redFn .iadd (redId .iadd) y = y ∧ redFn .band (redId .band) y = y ∧ redFn .bor (redId .bor) y = y ∧ redFn .bxor (redId .bxor) y = y ∧
      redFn .imin (redId .imin) y = y ∧ redFn .imax (redId .imax) y = y ∧ redFn .nmin (redId .nmin) y = y ∧ redFn .nmax (redId .nmax) y = y)


/-! ### Memory instructions (R207 to R225) -/

namespace Sys2Proof.Claims

/-- The names of an instruction that names no register. -/
def noNames : Names := ⟨none, none, none, []⟩

/-- The split waits at its instruction, which has (`counted`) or has not issued. -/
def WaitsAt (i : Instr) (s : State) (c : Ctx) (counted arrived : Bool) (phase : Phase) : Prop :=
  ∃ t sp, exec i s = .next t ∧ splitAt t c.w c.ent = some sp ∧ sp.wait = some (.op counted arrived phase) ∧ sp.pc = c.split.pc

/-- With no active thread an instruction of variable latency changes nothing: only its counter moves (R70). -/
def Passes (i : Instr) (f : Fr) (n : Names) (early : Ctx → Option Nat) : Prop :=
  ∀ (s : State) (c : Ctx), Issues s f n none early c → c.act = 0 → exec i s = .next (minimumNext c f (advance c f n))

/-- How an instruction that accesses memory ends, wherever it issues: with no active thread only its counter moves (R70); where every
access passes its checks, `after` is the state; otherwise the first check that fails decides the trap, and no access is performed
(R208). -/
def Accesses (i : Instr) (f : Fr) (n : Names) (early : Ctx → Option Nat) (chks : Ctx → List (Nat × Chk)) (ea : Ctx → Nat → DWord)
    (after : Ctx → List Acc → State → State) : Prop :=
  ∀ (s : State) (c : Ctx), Issues s f n none early c →
    (c.act = 0 → exec i s = .next (minimumNext c f (advance c f n))) ∧
    (∀ as, c.act ≠ 0 → allOk (chks c) = some as → exec i s = .next (after c as (noteTlb (advance c f n) c.core as))) ∧
    (c.act ≠ 0 → allOk (chks c) = none →
      exec i s = .next (raiseTrap c f (firstBad (chks c)).1 (firstBad (chks c)).2 (c.threads.map (fun t => (t, ea c (c.from t)))) none))

/-- The state after loads of the accesses `as` in thread order, the words going to `d`. -/
def loaded (f : Fr) (d : Reg) (sz : Size) (h : Hint) (c : Ctx) (as : List Acc) (s : State) : State :=
  let r := loadAll c.core c.asid h as s
  flightNext c f (c.outs (loadOuts d sz r.2)) r.1

/-- The state after stores of the accesses `as`, ascending, the bytes those of the data operand. -/
def stored (f : Fr) (x : Src) (sz : Size) (h : Hint) (c : Ctx) (as : List Acc) (s : State) : State :=
  flightNext c f [] (as.foldl (fun s a => storeBytes s c.core c.asid a h (storeData c x sz a.t)) s)

/-- The state after atomics of the accesses `as`, with the release and the acquire that ORD asks for. -/
def atomics (f : Fr) (d : Option Reg) (sz : Size) (scope : Scope) (ord : Order) (g : Ctx → Nat → DWord → Option DWord) (c : Ctx)
    (as : List Acc) (s : State) : State :=
  let s1 := if ord = .rel ∨ ord = .acqrel then releaseAt c (c.scope scope) s else s
  let r := atomAll c.core (g c) as s1
  let s2 := if ord = .acq ∨ ord = .acqrel then acquireAt c (c.scope scope) r.1 else r.1
  flightNext c f (match d with | some d => c.outs (loadOuts d sz r.2) | none => []) s2

end Sys2Proof.Claims

/-- LD, ST, LDS and STS: R208, R210, R212, R213. -/
def Obligations.LoadsAndStores : Prop :=
  ∀ (f : Fr) (a : Reg) (off : Word) (spc : Space) (sz : Size),
    (∀ (d : Reg) (ch : Hint), Accesses (.ld f d a off spc sz ch) f (nameDN d (szRegs sz) (reg2 a) none none) noEarly
      (plainChks spc .read (szBytes sz) (fun c t => c.reg2 a.toNat t + off.signExtend 64)) (fun c t => c.reg2 a.toNat t + off.signExtend 64)
      (loaded f d sz ch)) ∧
    (∀ (x : Src) (ch : Hint), Accesses (.st f a off x spc sz ch) f (nameS (reg2 a) none (srcN x (szRegs sz))) noEarly
      (plainChks spc .write (szBytes sz) (fun c t => c.reg2 a.toNat t + off.signExtend 64)) (fun c t => c.reg2 a.toNat t + off.signExtend 64)
      (stored f x sz ch)) ∧
    (∀ (d : Reg), Accesses (.lds f d a off spc sz) f (nameDN d (szRegs sz) (reg1 a) none none) noEarly
      (plainChks spc .read (szBytes sz) (fun c t => BitVec.ofNat 64 (windowBase spc) + (c.reg a.toNat t).zeroExtend 64 + off.signExtend 64))
      (fun c t => BitVec.ofNat 64 (windowBase spc) + (c.reg a.toNat t).zeroExtend 64 + off.signExtend 64) (loaded f d sz .keep)) ∧
    (∀ (x : Reg), Accesses (.sts f a off x spc sz) f (nameS (reg1 a) none (regN x (szRegs sz))) noEarly
      (plainChks spc .write (szBytes sz) (fun c t => BitVec.ofNat 64 (windowBase spc) + (c.reg a.toNat t).zeroExtend 64 + off.signExtend 64))
      (fun c t => BitVec.ofNat 64 (windowBase spc) + (c.reg a.toNat t).zeroExtend 64 + off.signExtend 64) (stored f (.reg x) sz .keep))

/-- LDAQ and STRL: R214. The acquire follows the loads, the release precedes the stores, and both accesses reach the home. -/
def Obligations.OrderedAccesses : Prop :=
  ∀ (f : Fr) (a : Reg) (off : Word) (spc : Space) (sz : Size) (scope : Scope),
    (∀ (d : Reg), Accesses (.ldaq f d a off spc sz scope) f (nameDN d (szRegs sz) (reg2 a) none none) (levelEarly scope)
      (plainChks spc .read (szBytes sz) (fun c => c.ea a off)) (fun c => c.ea a off)
      (fun c as s =>
        let s1 := as.foldl (fun s x => atHome s c.core x) s
        flightNext c f (c.outs (loadOuts d sz (as.map (fun x => (x.t, s1.bytes x.loc x.size))))) (acquireAt c (c.scope scope) s1))) ∧
    (∀ (x : Reg), Accesses (.strl f a off x spc sz scope) f (nameS (reg2 a) none (regN x (szRegs sz))) (levelEarly scope)
      (plainChks spc .write (szBytes sz) (fun c => c.ea a off)) (fun c => c.ea a off)
      (fun c as s =>
        flightNext c f [] (as.foldl (fun s y =>
            if l1Acts c (c.scope scope) then homeWrite (atHome s c.core y) y.loc (storeData c (.reg x) sz y.t)
            else storeBytes s c.core c.asid y .keep (storeData c (.reg x) sz y.t))
          (releaseAt c (c.scope scope) s)))) ∧
    -- a scope of .gng or wider takes the actions of R330 on the whole L1, a narrower one none unless a warp of the block is away
    (∀ (c : Ctx) (k : Nat) (s : State), 2 ≤ k →
      releaseAt c k s = writeBackAll s c.core ∧ acquireAt c k s = (writeBackAll s c.core).modCore c.core (fun y => { y with l1 := [] })) ∧
    (∀ (c : Ctx) (k : Nat) (s : State), k < 2 → c.pre.hasMigrated c.warp.blk = false → releaseAt c k s = s ∧ acquireAt c k s = s)

/-- ATOM, ATOMC, RED and CHUNK: R221 to R223, R225. -/
def Obligations.AtomicAccesses : Prop :=
  ∀ (f : Fr) (a : Reg) (off : Word) (spc : Space) (sz : Size) (scope : Scope) (ord : Order),
    (∀ (op : AtomOp) (d : Reg) (x : Src),
      Accesses (.atom f op d a off x spc sz scope ord) f (nameDN d (szRegs sz) (reg2 a) none (srcN x (szRegs sz))) (levelEarly scope)
        (plainChks spc .atomic (szBytes sz) (fun c => c.ea a off)) (fun c => c.ea a off)
        (atomics f (some d) sz scope ord (fun c t old =>
          some (atomNew op (decide (sz = .b64)) old (if sz = .b64 then c.val2 x t else (c.val x t).zeroExtend 64))))) ∧
    (∀ (op : AtomOp) (x : Src),
      Accesses (.red f op a off x spc sz scope ord) f (nameS (reg2 a) none (srcN x (szRegs sz))) (levelEarly scope)
        (plainChks spc .atomic (szBytes sz) (fun c => c.ea a off)) (fun c => c.ea a off)
        (atomics f none sz scope ord (fun c t old =>
          some (atomNew op (decide (sz = .b64)) old (if sz = .b64 then c.val2 x t else (c.val x t).zeroExtend 64))))) ∧
    (∀ (d x : Reg),
      Accesses (.atomc f d a off x spc sz scope ord) f (nameDN d (szRegs sz) (reg2 a) none (regN x (2 * szRegs sz))) (levelEarly scope)
        (plainChks spc .atomic (szBytes sz) (fun c => c.ea a off)) (fun c => c.ea a off)
        (atomics f (some d) sz scope ord (fun c t old =>
          if sz = .b64 then (if old = c.reg2 x.toNat t then some (c.reg2 (x.toNat + 2) t) else none)
          else (if old = (c.reg x.toNat t).zeroExtend 64 then some ((c.reg (x.toNat + 1) t).zeroExtend 64) else none)))) ∧
    (∀ (d : Reg) (s : State) (c : Ctx),
      let n : Names := nameD2 d (reg2 a) none none
      let chks := plainChks .glob .atomic 16 (fun c => c.reg2 a.toNat) c
      Issues s f n none noEarly c →
        (c.act = 0 → exec (.chunk f d a) s = .next (minimumNext c f (advance c f n))) ∧
        (c.act ≠ 0 → allOk chks = none →
          exec (.chunk f d a) s = .next (raiseTrap c f (firstBad chks).1 (firstBad chks).2 (c.threads.map (fun t => (t, c.reg2 a.toNat (c.from t)))) none)) ∧
        (∀ as, c.act ≠ 0 → allOk chks = some as →
          ((∀ x ∈ as, c.pre.cowHolds x.loc 16 = false) →
            let r := chunkAll c.core as (noteTlb (advance c f n) c.core as)
            exec (.chunk f d a) s = .next (flightNext c f (c.outs (loadOuts d .b64 r.2)) r.1)) ∧
          -- it waits for an NCOW in progress on the words it draws from
          ((∃ x ∈ as, c.pre.cowHolds x.loc 16 = true) → WaitsAt (.chunk f d a) s c false false .none))) ∧
    -- threads act one after another, each on what the one before has left at the home
    (∀ (core : Nat) (g : Nat → DWord → Option DWord) (x : Acc) (as : List Acc) (s : State),
      let s1 := atHome s core x
      let old := s1.bytes x.loc x.size
      let s2 := match g x.t (BitVec.ofNat 64 (ofBytes old)) with | some v => homeWrite s1 x.loc (toBytes x.size v.toNat) | none => s1
      atomAll core g (x :: as) s = ((atomAll core g as s2).1, (x.t, old) :: (atomAll core g as s2).2) ∧ atomAll core g [] s = (s, []))

/-- What a load gives for its bytes: R212's extensions and words, little-endian. The new values of R221's table, on 32-bit and on 64-bit words. A draw of R225. -/
def Obligations.LoadedAndStoredValues : Prop :=
  (∀ b : Byte, loadWord .n8 [b] 0 = b.zeroExtend 32 ∧ loadWord .i8 [b] 0 = b.signExtend 32) ∧
  (∀ b0 b1 : Byte, loadWord .n16 [b0, b1] 0 = (b1 ++ b0).zeroExtend 32 ∧ loadWord .i16 [b0, b1] 0 = (b1 ++ b0).signExtend 32) ∧
  (∀ b0 b1 b2 b3 : Byte, loadWord .b32 [b0, b1, b2, b3] 0 = b3 ++ b2 ++ b1 ++ b0) ∧
  (∀ (v : List Word) (i : Nat), (v.length = 2 ∧ i < 2 → loadWord .b64 (v.flatMap (fun x => toBytes 4 x.toNat)) i = v.getD i 0) ∧
    (v.length = 4 ∧ i < 4 → loadWord .b128 (v.flatMap (fun x => toBytes 4 x.toNat)) i = v.getD i 0)) ∧
  (∀ o x : Word,
    let new (op : AtomOp) : Word := loWord (atomNew op false (o.zeroExtend 64) (x.zeroExtend 64))
    new .add = o + x ∧ new .smin = (if o.sle x then o else x) ∧ new .smax = (if o.sle x then x else o) ∧
    new .nmin = (if o.ule x then o else x) ∧ new .nmax = (if o.ule x then x else o) ∧ new .band = o &&& x ∧ new .bor = o ||| x ∧
    new .bxor = o ^^^ x ∧ new .exch = x ∧ new .inc = (if x.ule o then 0 else o + 1) ∧
    new .dec = (if o = 0 ∨ x.ult o = true then x else o - 1) ∧
    new .fadd = toF32 .rne (Machine.Num.add false (numOf o) (numOf x)) ∧ new .fmin = fmin32 o x ∧ new .fmax = fmax32 o x ∧
    new .h2add = ofHalves (f16.round .rne (Machine.Num.add false (f16.decode (loHalf o)) (f16.decode (loHalf x))))
      (f16.round .rne (Machine.Num.add false (f16.decode (hiHalf o)) (f16.decode (hiHalf x)))) ∧
    new .bf2add = ofHalves (bf16.round .rne (Machine.Num.add false (bf16.decode (loHalf o)) (bf16.decode (loHalf x))))
      (bf16.round .rne (Machine.Num.add false (bf16.decode (hiHalf o)) (bf16.decode (hiHalf x))))) ∧
  (∀ o x : DWord,
    let new (op : AtomOp) : DWord := atomNew op true o x
    new .add = o + x ∧ new .smin = (if o.sle x then o else x) ∧ new .smax = (if o.sle x then x else o) ∧
    new .nmin = (if o.ule x then o else x) ∧ new .nmax = (if o.ule x then x else o) ∧ new .band = o &&& x ∧ new .bor = o ||| x ∧
    new .bxor = o ^^^ x ∧ new .exch = x) ∧
  -- a draw of R225 from a record {next, end, min, divisor}: the next item, and a count within what is left that is 0 only when nothing is left
  (∀ (next stop least dv : Word),
      let r : List Byte := toBytes 4 next.toNat ++ toBytes 4 stop.toNat ++ toBytes 4 least.toNat ++ toBytes 4 dv.toNat
      let left : Nat := if next.toNat < stop.toNat then stop.toNat - next.toNat else 0
      let d : Nat := if dv = 0 then 1 else dv.toNat
      (chunkDraw r).1 = next.toNat ∧
      (chunkDraw r).2 = min left (max least.toNat ((left + d - 1) / d)) ∧
      ((chunkDraw r).2 = 0 ↔ left = 0) ∧ (next.toNat ≤ stop.toNat → (chunkDraw r).1 + (chunkDraw r).2 ≤ stop.toNat))

/-- LDBS, STBS, LDSC and STSC: R215 to R217. -/
def Obligations.BlockAndScaleAccesses : Prop :=
  ∀ (f : Fr) (a : Reg),
    (∀ (d : Reg) (off : Word) (bf : BFmt) (g : Grp) (part : BitVec 2) (nc : Bool),
      let e := bfElem bf
      let h : Hint := if nc then .nc else .keep
      Accesses (.ldbs f false d a off bf g part nc) f (nameDN d 2 (reg2 a) none none) noEarly
          (fun c => blockChk c .read e g a off (lowest c.act)) (fun c => c.ea a off)
          (fun c as s =>
            let r := readBlock c e g h (accsOf as (lowest c.act)) s
            flightNext c f (c.outs [(d.toNat, fun t => BitVec.ofNat 32 (r.2.1.getD (32 * part.toNat + t) 0)), (d.toNat + 1, fun _ => BitVec.ofNat 32 r.2.2)]) r.1) ∧
      Accesses (.ldbs f true d a off bf g part nc) f (nameDN d (spanLen e g) (reg2 a) none none) noEarly
          (fun c => c.doers.flatMap (blockChk c .read e g a off)) (fun c => c.ea a off)
          (fun c as s =>
            let r := readBlocks c e g h as c.doers s
            flightNext c f (c.outs (((List.range (spanData e g)).map (fun (i : Nat) =>
                ((d.toNat + i, fun (t : Nat) => (spanWords e g (blockFor r.2 t).1).getD i 0) : Nat × (Nat → Word)))) ++
              [(d.toNat + spanData e g, fun t => BitVec.ofNat 32 (blockFor r.2 t).2)])) r.1)) ∧
    (∀ (x : Reg) (off : Word) (bf : BFmt) (g : Grp) (part : BitVec 2) (nc : Bool),
      let e := bfElem bf
      let h : Hint := if nc then .nc else .keep
      let put (c : Ctx) (s : State) (as : List Acc) (cs : List Nat) : State :=
        (as.zip (blockStore e cs)).foldl (fun s p => storeBytes s c.core c.asid p.1 h p.2) s
      Accesses (.stbs f false a off x bf g part nc) f (nameS (reg2 a) none (regN x 2)) noEarly
          (fun c => blockChk c .write e g a off (lowest c.act)) (fun c => c.ea a off)
          (fun c as s =>
            let cs : List Nat := (List.range 32).map (fun t => if c.act.getLsbD t then (c.reg x.toNat (c.from t)).toNat % 2 ^ elemBits e else 0)
            flightNext c f [] (writeScale c.core c.asid h e g as ((c.reg (x.toNat + 1) (lowest c.act)).toNat % 2 ^ 20)
              (put c s (partAcc e part.toNat as) cs))) ∧
      Accesses (.stbs f true a off x bf g part nc) f (nameS (reg2 a) none (regN x (spanLen e g))) noEarly
          (fun c => c.doers.flatMap (blockChk c .write e g a off)) (fun c => c.ea a off)
          (fun c as s => flightNext c f [] (c.doers.foldl (fun s t =>
            let cs := (List.range (spanElems e g / 32)).flatMap (fun p =>
              unpackWords e ((List.range (elemBits e)).map (fun i => c.reg (x.toNat + p * elemBits e + i) t)))
            writeScale c.core c.asid h e g (accsOf as t) ((c.reg (x.toNat + spanData e g) t).toNat % 2 ^ 20) (put c s (accsOf as t) cs)) s))) ∧
    (∀ (d c2 b : Reg), Accesses (.ldsc f d c2 a b) f (nameDC d c2 (reg2 a) (reg1 b)) noEarly
      (fun c => c.doers.map (fun t => (t, resolve c .none .read true 4 4 t (c.reg2 a.toNat t)))) (fun c => c.reg2 a.toNat)
      (fun c as s =>
        let r := loadSlots c.core c.asid as s
        let slot (t : Nat) : BitVec 256 := ((r.2.find? (fun p => decide (p.1 = t))).map (·.2)).getD 0
        flightNext c f (c.outs
          [(d.toNat, fun t =>
            let j := (c.reg b.toNat t).toNat % 16
            if j < 12 then ((slot t).extractLsb' (20 * j) 20).zeroExtend 32 else 0),
           (c2.toNat, fun t => ((slot t).extractLsb' 240 16).zeroExtend 32)]) r.1)) ∧
    (∀ (b x : Reg) (desc : Bool), Accesses (.stsc f a b x desc) f (nameS (reg2 a) (reg1 b) (if desc then reg2 x else reg1 x)) noEarly
      (fun c => c.doers.map (fun t => (t, resolve c .none .write true 4 4 t (c.reg2 a.toNat t)))) (fun c => c.reg2 a.toNat)
      (fun c as s => flightNext c f [] (as.foldl (fun s p =>
        let j := (c.reg b.toNat p.t).toNat % 16
        storeSlot s c.core c.asid p .keep (BitVec.ofNat 13 ((if j < 12 then 2 ^ j else 0) + (if desc then 4096 else 0))) (fun v =>
          let v1 := if j < 12 then putBits v (20 * j) 20 ((c.reg x.toNat p.t).toNat % 2 ^ 20) else v
          if desc then putBits v1 240 16 (c.reg (x.toNat + 1) p.t).toNat else v1)) s)))

/-- PREF, CFLUSH, FENCE and WAYSET: R218 to R220, R224, R321. -/
def Obligations.CacheAndFences : Prop :=
  (∀ (f : Fr) (d a : Reg) (scope : Scope), Passes (.cflushWb f a) f (nameS (reg2 a) none none) noEarly ∧
    Passes (.cflushWbinv f a) f (nameS (reg2 a) none none) noEarly ∧ Passes (.cflushWball f) f noNames noEarly ∧
    Passes (.cflushWbinvall f) f noNames noEarly ∧ Passes (.fenceRel f scope) f noNames (levelEarly scope) ∧
    Passes (.fenceAcq f scope) f noNames (levelEarly scope) ∧ Passes (.fenceFull f scope) f noNames (levelEarly scope) ∧
    Passes (.wayset f d a) f (nameD d (reg1 a) none none) noEarly) ∧
  ∀ (f : Fr) (s : State) (c : Ctx),
    (∀ (lvl : PLevel) (a : Reg) (off : Word) (spc : Space), Issues s f (nameS (reg2 a) none none) none noEarly c →
      let as := c.doers.filterMap (fun t => match resolve c spc .read false 1 1 t (c.ea a off t) with | .ok x => some x | .bad _ _ => none)
      exec (.pref f lvl a off spc) s = .next (minimumNext c f
        (if lvl = .l1 then as.foldl (fun s x => if x.cached then (lineFor s c.core c.asid x true).1 else s) (advance c f (nameS (reg2 a) none none))
         else advance c f (nameS (reg2 a) none none)))) ∧
    (∀ (a : Reg) (inv : Bool), Issues s f (nameS (reg2 a) none none) none noEarly c → c.act ≠ 0 →
      exec (if inv then .cflushWbinv f a else .cflushWb f a) s = .next (flightNext c f []
        ((c.threads.filterMap (fun t => leafLoc c (c.reg2 a.toNat t))).foldl (fun s l => flushLine s c.core l inv)
          (advance c f (nameS (reg2 a) none none))))) ∧
    (∀ (inv : Bool), Issues s f (nameS none none none) none noEarly c → c.act ≠ 0 →
      exec (if inv then .cflushWbinvall f else .cflushWball f) s = .next (flightNext c f []
        (if inv then (writeBackAll (advance c f (nameS none none none)) c.core).modCore c.core (fun y => { y with l1 := [] })
         else writeBackAll (advance c f (nameS none none none)) c.core))) ∧
    (∀ (scope : Scope), Issues s f (nameS none none none) none (levelEarly scope) c → c.act ≠ 0 →
      let k := c.scope scope
      let s1 := advance c f (nameS none none none)
      exec (.fenceRel f scope) s = .next (flightNext c f [] (releaseAt c k s1)) ∧
      exec (.fenceAcq f scope) s = .next (flightNext c f [] (acquireAt c k s1)) ∧
      exec (.fenceFull f scope) s = .next (flightNext c f [] (acquireAt c k (releaseAt c k s1)))) ∧
    (∀ (d a : Reg), Issues s f (nameD d (reg1 a) none none) none noEarly c → c.act ≠ 0 →
      let n := (c.reg a.toNat (lowest c.act)).toNat
      let s1 := advance c f (nameD d (reg1 a) none none)
      let refused : Prop := (if c.riffle then 7 else 15) < n ∨
        n * 32768 < (c.launch.record.scr + 255) / 256 * 256 + c.launch.record.scrs / 4
      (waysetAllowed c = false → exec (.wayset f d a) s = .next (raiseTrap c f 0x03 c.act [] none)) ∧
      (waysetAllowed c = true → refused → exec (.wayset f d a) s = .next (flightNext c f (c.outs [(d.toNat, fun _ => 1)]) s1)) ∧
      (waysetAllowed c = true → ¬ refused → coreBusy c = false →
        exec (.wayset f d a) s = .next (flightNext c f (c.outs [(d.toNat, fun _ => 0)])
          (((clearScratch (invalidateAll s1 c.core) c.warp.blk
              (min n ((c.pre.core c.core).ways.getD (if c.riffle then 4 else 8)) * 32768)).modCore c.core
            (fun k => { k with ways := some n })).modBlock c.warp.blk (fun x => { x with scrBase := 0, wset := some n })))))

/-! ### Control (R246 to R261) -/

namespace Sys2Proof.Claims

/-- Nothing of the warp waits for other splits: none meets, and none is parked or waits for an entry. -/
def Apart (wp : Warp) : Prop := (∀ sp ∈ wp.splits, ∀ k, sp.waitsAt k = false) ∧ wp.parked = [] ∧ wp.starved = []

/-- The state after a control instruction that changes nothing: the split has moved past it. -/
def passed (c : Ctx) (f : Fr) (n : Names) : State := minimumNext c f (advance c f n)

/-- The split `ent` goes on at `pc` with threads `m` under the frames `js`, and has transferred control. -/
def GoesTo (c : Ctx) (t : State) (ent : Nat) (m : BitVec 32) (pc : DWord) (js : List Frame) (rets : List DWord) : Prop :=
  ∃ sp, splitAt t c.w ent = some sp ∧ sp.mask = m ∧ sp.pc = pc ∧ sp.joins = js ∧ sp.rets = rets ∧ sp.wait = none

/-- Where a branch of the threads `yes` goes, from the state `st` that it leaves otherwise (R247 to R249). -/
def Branches (i : Instr) (s : State) (c : Ctx) (f : Fr) (off : Word) (j : BitVec 8) (yes : BitVec 32) (st : State) : Prop :=
  let tk := c.takers yes
  let ft := c.split.mask &&& ~~~tk
  let target := c.split.pc + off.signExtend 64
  let fr : Frame := ⟨j, c.newTag, none⟩
  -- no thread takes the branch
  (tk = 0 → exec i s = .next st) ∧
  -- all do
  (tk ≠ 0 → ft = 0 → ∃ t, exec i s = .next t ∧ GoesTo c t c.ent tk target c.split.joins c.split.rets) ∧
  -- the split divides: the fall-through side keeps the entry and the taken side gets a new one
  (∀ e, tk ≠ 0 → ft ≠ 0 → c.split.joins.length < 16 → Apart c.warp → newEntry c st = some e →
    ∃ t, exec i s = .next t ∧ GoesTo c t c.ent ft (c.nextPc f) (fr :: c.split.joins) c.split.rets ∧
      GoesTo c t e tk target (fr :: c.split.joins) c.split.rets) ∧
  -- without a new entry the taken side runs first, and the other is parked
  (tk ≠ 0 → ft ≠ 0 → c.split.joins.length < 16 → Apart c.warp → newEntry c st = none →
    ∃ t wp p, exec i s = .next t ∧ GoesTo c t c.ent tk target (fr :: c.split.joins) c.split.rets ∧
      tget t.warps c.w = some wp ∧ wp.parked = [(c.newTag, p)] ∧ p.mask = ft ∧ p.pc = c.nextPc f ∧ p.joins = fr :: c.split.joins) ∧
  -- a 17th frame traps
  (tk ≠ 0 → ft ≠ 0 → 16 ≤ c.split.joins.length → exec i s = .next (raiseTrap c f 0x10 c.split.mask [] none))

end Sys2Proof.Claims

/-- NOP, BRA, BRA.dec and BRX: R244, R247 to R249, R251. -/
def Obligations.Branching : Prop :=
  ∀ (f : Fr) (s : State) (c : Ctx),
    (∀ v, Issues s f noNames none noEarly c → exec (.nop f v) s = .next (passed c f noNames)) ∧
    (∀ off j, Issues s f noNames none noEarly c → Branches (.bra f off j) s c f off j c.act (passed c f noNames)) ∧
    (∀ (x : Reg) off j, let n : Names := ⟨none, none, some (x.toNat, 1), [(x.toNat, 1)]⟩
      let down (t : Nat) : Word := c.reg x.toNat (if c.uni then lowest c.split.mask else t) - 1
      Issues s f n (some (4, 2)) noEarly c →
      (f.g = 0 → f.gn = true → exec (.braDec f x off j) s = .next (passed c f n)) ∧
      (¬ (f.g = 0 ∧ f.gn = true) →
        Branches (.braDec f x off j) s c f off j (maskOf (c.threads.filter (fun t => decide (down t ≠ 0))))
          (if x = 0 then passed c f n
           else putPend c ((threadsOf c.split.mask).map (fun t => (c.key x.toNat t, down t))) (c.split.nd + c.lat 4 2) (passed c f n)))) ∧
    (∀ (a : Reg) j, let n : Names := ⟨some (a.toNat, 2), none, none, []⟩
      Issues s f n none noEarly c →
      let tk := c.takers c.act
      let target (t : Nat) : DWord := if tk.getLsbD t then c.reg2 a.toNat (if c.uni then lowest c.split.mask else t) else c.nextPc f
      (∀ pc, c.split.mask ≠ 0 → (∀ t ∈ threadsOf c.split.mask, target t = pc) →
        ∃ t, exec (.brx f a j) s = .next t ∧ GoesTo c t c.ent c.split.mask pc c.split.joins c.split.rets) ∧
      -- several targets: the lowest keeps the entry
      (∀ pc m g gs, groupTargets target (threadsOf c.split.mask) = (pc, m) :: g :: gs → c.split.joins.length < 16 → Apart c.warp →
        ∃ t, exec (.brx f a j) s = .next t ∧ GoesTo c t c.ent m pc (⟨j, c.newTag, none⟩ :: c.split.joins) c.split.rets))

/-- CALL, CALLX and RET: R252 to R255. -/
def Obligations.CallsAndReturns : Prop :=
  ∀ (f : Fr) (s : State) (c : Ctx) (call : Bool) (off : Word) (a : Reg),
    let i : Instr := if call then .call f off else .callx f a
    let n : Names := if call then noNames else ⟨some (a.toNat, 2), none, none, []⟩
    let target (t : Nat) : DWord :=
      if call then c.split.pc + off.signExtend 64 else c.reg2 a.toNat (if c.uni then lowest c.split.mask else t)
    let tk := c.takers c.act
    let ret := c.nextPc f
    (Issues s f n none noEarly c →
      (tk = 0 → exec i s = .next (passed c f n)) ∧
      -- one target for all threads: the return address is pushed
      (∀ pc, tk = c.split.mask → tk ≠ 0 → c.split.rets.length < 16 → (∀ t ∈ threadsOf tk, target t = pc) →
        ∃ t, exec i s = .next t ∧ GoesTo c t c.ent tk pc c.split.joins (ret :: c.split.rets)) ∧
      -- otherwise the lowest target is called first, under a frame that meets at the return address
      (∀ pc m gs, groupTargets target (threadsOf tk) = (pc, m) :: gs → tk ≠ 0 → (gs ≠ [] ∨ c.split.mask &&& ~~~tk ≠ 0) →
        c.split.rets.length < 16 → c.split.joins.length < 16 → Apart c.warp →
        ∃ t, exec i s = .next t ∧ GoesTo c t c.ent m pc (⟨0, c.newTag, some ret⟩ :: c.split.joins) (ret :: c.split.rets)) ∧
      -- a full stack of return addresses spills its oldest one below v1, which moves down
      (∀ pc as, tk = c.split.mask → tk ≠ 0 → c.split.rets.length = 16 → (∀ t ∈ threadsOf tk, target t = pc) → v1Early c = false →
        allOk ((threadsOf tk).map (fun t => (t, resolve c .lane .write false 8 8 t (c.stackEa true t)))) = some as →
        ∃ t sp, exec i s = .next t ∧ splitAt t c.w c.ent = some sp ∧ sp.pc = pc ∧ sp.rets = ret :: c.split.rets.dropLast ∧
          sp.spilled = c.split.spilled + 1 ∧ (∀ l ∈ threadsOf tk, ∃ p ∈ sp.pend, p.key = c.key 1 l ∧ p.val = c.reg 1 l - 8) ∧
          t.mem = (as.foldl (fun st x => homeWrite st x.loc (toBytes 8 (c.split.rets.getLastD 0).toNat)) c.pre).mem)) ∧
    (Issues s f noNames none noEarly c →
      (tk = 0 → exec (.ret f) s = .next (passed c f noNames)) ∧
      (∀ pc r, tk = c.split.mask → tk ≠ 0 → c.split.rets = pc :: r → Apart c.warp → (∀ fr ∈ c.split.joins.head?, fr.ret ≠ some pc) →
        ∃ t, exec (.ret f) s = .next t ∧ GoesTo c t c.ent tk pc c.split.joins r) ∧
      -- an empty stack with spilled entries takes the one that v1 names in the lane store, and v1 moves up
      (∀ pc as, tk = c.split.mask → tk ≠ 0 → c.split.rets = [] → c.split.spilled ≠ 0 → v1Early c = false → Apart c.warp →
        allOk ((threadsOf tk).map (fun t => (t, resolve c .lane .read false 8 8 t (c.stackEa false t)))) = some as →
        (∀ x ∈ as, BitVec.ofNat 64 (ofBytes (c.pre.bytes x.loc 8)) = pc) → (∀ fr ∈ c.split.joins.head?, fr.ret ≠ some pc) →
        ∃ t sp, exec (.ret f) s = .next t ∧ splitAt t c.w c.ent = some sp ∧ sp.mask = tk ∧ sp.pc = pc ∧ sp.rets = [] ∧ sp.joins = c.split.joins ∧
          sp.spilled = c.split.spilled - 1 ∧ (∀ l ∈ threadsOf tk, ∃ p ∈ sp.pend, p.key = c.key 1 l ∧ p.val = c.reg 1 l + 8)) ∧
      -- where a thread may not read it there, the return traps
      (tk ≠ 0 → c.split.rets = [] → c.split.spilled ≠ 0 → v1Early c = false →
        let chks := (threadsOf tk).map (fun t => (t, resolve c .lane .read false 8 8 t (c.stackEa false t)))
        allOk chks = none → exec (.ret f) s = .next (raiseTrap c f (firstBad chks).1 (firstBad chks).2
          ((threadsOf tk).map (fun t => (t, c.stackEa false t))) none)) ∧
      -- a return with nothing to return to ends the threads
      (tk = c.split.mask → tk ≠ 0 → c.split.rets = [] → c.split.spilled = 0 → c.warp.splits = [c.split] → c.warp.parked = [] →
        c.warp.starved = [] →
        ∃ t wp, exec (.ret f) s = .next t ∧ tget t.warps c.w = some wp ∧ wp.splits = [] ∧ wp.ending = true))

/-- CONFL, EXIT and YIELD: R250, R256, R257. That CONFL acts whatever its guard, ?!v0 included, is the model's reading (log entry 13). -/
def Obligations.JoiningAndEnding : Prop :=
  ∀ (f : Fr) (s : State) (c : Ctx), Issues s f noNames none noEarly c →
    (∀ j, (∀ fr ∈ c.split.joins.head?, fr.j ≠ j ∨ fr.ret ≠ none) → exec (.confl f j) s = .next (passed c f noNames)) ∧
    -- a split that meets others waits while one of them is still under way
    (∀ j tag r, c.split.joins = ⟨j, tag, none⟩ :: r → Apart c.warp → (∃ sp ∈ c.warp.splits, sp.ent ≠ c.ent ∧ sp.holds tag = true) →
      ∃ t sp, exec (.confl f j) s = .next t ∧ splitAt t c.w c.ent = some sp ∧ sp.wait = some (.meet tag) ∧ sp.pc = c.nextPc f) ∧
    -- the last of two makes one split of them
    (∀ j tag r b, c.split.joins = ⟨j, tag, none⟩ :: r → (c.warp.splits = [c.split, b] ∨ c.warp.splits = [b, c.split]) →
      c.warp.parked = [] → c.warp.starved = [] → b.ent ≠ c.ent → b.wait = some (.meet tag) → b.joins = c.split.joins →
      b.pc = c.nextPc f → b.rets = c.split.rets → b.spilled = c.split.spilled →
      ∃ t wp x, exec (.confl f j) s = .next t ∧ tget t.warps c.w = some wp ∧ wp.splits = [x] ∧ x.mask = c.split.mask ||| b.mask ∧
        x.joins = r ∧ x.pc = c.nextPc f ∧ x.wait = none) ∧
    (c.takers c.act = 0 → exec (.exit f) s = .next (passed c f noNames)) ∧
    -- threads that end leave every split of the warp; the warp ends with its last split
    (c.takers c.act = c.split.mask → c.takers c.act ≠ 0 → c.warp.splits = [c.split] → c.warp.parked = [] → c.warp.starved = [] →
      ∃ t wp, exec (.exit f) s = .next t ∧ tget t.warps c.w = some wp ∧ wp.splits = [] ∧ wp.ending = true) ∧
    (c.split.mask &&& ~~~ c.takers c.act ≠ 0 → c.takers c.act ≠ 0 → Apart c.warp →
      ∃ t sp, exec (.exit f) s = .next t ∧ splitAt t c.w c.ent = some sp ∧ sp.mask = c.split.mask &&& ~~~ c.takers c.act ∧
        sp.pc = c.nextPc f) ∧
    (let others := (splitsOf c.pre c.core (subcoreOf c.core c.warp.slot)).filter (fun p => decide (p ≠ (c.w, c.ent)) && isReady c.pre p.1 p.2)
     exec (.yieldw f) s = .next (if others = [] then passed c f noNames
       else (passed c f noNames).modSplit c.w c.ent (fun sp => { sp with yield := some ⟨others, c.pre.now + 64 * c.tick⟩ })))

/-- TRAP, SVC, BKPT and RTH: R258 to R261, R265, R520. -/
def Obligations.TrapsAndReturns : Prop :=
  ∀ (f : Fr) (s : State) (c : Ctx), Issues s f noNames none noEarly c →
    (∀ (v : Word) (cause : BitVec 8) (svc : Bool), c.act ≠ 0 → c.handler = false → c.warp.inHandler = false →
      (if svc then cause = 0x0F else inWarpCause cause.toNat = true) →
      ∃ t wp h, exec (if svc then .svc f v else .trap f v cause) s = .next t ∧ tget t.warps c.w = some wp ∧
        wp.tpc = c.nextPc f ∧ wp.tcause = cause ∧ wp.tmask = c.act ∧ wp.targ = v ∧ wp.taddr = [] ∧ wp.serving = some c.ent ∧
        (∀ sp, wp.split? c.ent = some sp → sp.susp = true) ∧
        wp.split? 65 = some h ∧ h.mask = c.act ∧ h.pc = c.ctx.tvec + BitVec.ofNat 64 (32 * cause.toNat) ∧ h.priv = true ∧ h.joins = []) ∧
    (∀ (v : Word) (cause : BitVec 8) (svc : Bool), c.act = 0 → exec (if svc then .svc f v else .trap f v cause) s = .next (passed c f noNames)) ∧
    (∀ v, ((c.pre.core c.core).cctl.getLsbD 1 = false ∨ c.act = 0) → exec (.bkpt f v) s = .next (passed c f noNames)) ∧
    (∀ v, (c.pre.core c.core).cctl.getLsbD 1 = true → c.act ≠ 0 → c.handler = false →
      ∃ t x, exec (.bkpt f v) s = .next t ∧ t.raised = c.pre.raised ++ [x] ∧ x.cause = 0x0E ∧ x.mask = c.act ∧ x.pc = c.split.pc ∧
        (∀ sp, splitAt t c.w c.ent = some sp → sp.susp = true)) ∧
    (c.act = 0 → exec (.rth f) s = .next (passed c f noNames)) ∧
    (c.act ≠ 0 → c.handler = false → exec (.rth f) s = .next (raiseTrap c f 0x03 c.act [] none)) ∧
    -- while another side of the handler has not merged it is a double fault; otherwise the suspended split goes on at sr.tpc, and the
    -- handler is gone
    (c.act ≠ 0 → c.handler = true → (∃ sp ∈ c.warp.splits ++ c.warp.starved, sp.ent ≠ c.ent ∧ 64 < sp.ent) →
      exec (.rth f) s = .next (raiseTrap c f 0x42 c.act [] none)) ∧
    (∀ e, c.act ≠ 0 → c.handler = true → Apart c.warp → c.warp.serving = some e → e ≤ 64 → (∃ sp ∈ c.warp.splits, sp.ent = e) →
      (∀ sp ∈ c.warp.splits, 64 < sp.ent → sp.ent = c.ent) →
      ∃ t wp sp, exec (.rth f) s = .next t ∧ tget t.warps c.w = some wp ∧ wp.split? e = some sp ∧ sp.pc = wp.tpc ∧ sp.susp = false ∧
        wp.serving = none ∧ wp.inHandler = false)

/-! ### Special registers, waits and barriers (R262 to R266, R274 to R277) -/

/-- MOVS and SETS: R263 to R266. -/
def Obligations.SpecialRegisters : Prop :=
  (∀ (f : Fr) (d : Reg) (sr : SReg), FixedWrites (.movs f d sr) f (nameDN d (if srWide sr then 2 else 1) none none none) (4, 2)
    (fun c => if srWide sr then (if d = 0 then [] else [(d.toNat, fun t => (srRead c sr t).extractLsb' 0 32), (d.toNat + 1, fun t => (srRead c sr t).extractLsb' 32 32)])
      else [(d.toNat, fun t => (srRead c sr t).extractLsb' 0 32)])) ∧
  -- what the registers read as
  (∀ (c : Ctx) (t : Nat),
    (srRead c .tid t).toNat = t % 2 ^ 64 ∧ (srRead c .mask t) = c.split.mask.zeroExtend 64 ∧ (srRead c .asid t).toNat = c.launch.asid % 2 ^ 64 ∧
    (srRead c .kind t).toNat = (if 2048 ≤ c.warp.core then 1 else 0) ∧ (srRead c .priv t).toNat = (if c.split.priv then 1 else 0) ∧
    (srRead c .xl t).toNat = (if c.warp.xl then 1 else 0) ∧ srRead c .tvec t = c.ctx.tvec ∧ srRead c .tpc t = c.warp.tpc ∧
    srRead c .taddr t = tgetD c.warp.taddr t 0 ∧ (srRead c .lclk t).toNat = c.pre.now / tickOf c.warp.core % 2 ^ 64 ∧
    srRead c .seed t = c.ctx.seed.zeroExtend 64 ∧ srRead c .hflag t = c.ctx.hflag.zeroExtend 64 ∧ srRead c .targ t = c.warp.targ.zeroExtend 64) ∧
  (∀ (f : Fr) (b : Src) (sr : SReg) (s : State) (c : Ctx),
    let n : Names := nameS none (srcN b (if srWide sr then 2 else 1)) none
    let st := fixedNext c f n (4, 2) [] Health.none
    Issues s f n (some (4, 2)) noEarly c →
      (c.act = 0 → exec (.sets f b sr) s = .next st) ∧
      -- tvec, cctl and tpc need sr.priv
      (c.act ≠ 0 → (sr = .cctl ∨ sr = .tvec ∨ sr = .tpc) → c.split.priv = false →
        exec (.sets f b sr) s = .next (raiseTrap c f 0x03 c.act [] none)) ∧
      -- the lowest active thread's value takes effect after the latency
      (c.act ≠ 0 → ¬ ((sr = .cctl ∨ sr = .tvec ∨ sr = .tpc) ∧ c.split.priv = false) →
        exec (.sets f b sr) s = .next (st.modSplit c.w c.ent (fun sp => { sp with
          spend := sp.spend ++ [⟨sr, c.pre.free, if srWide sr then c.val2 b (lowest c.act) else (c.val b (lowest c.act)).zeroExtend 64,
            c.split.nd + c.lat 4 2⟩] })))) ∧
  -- what a value written does
  (∀ (s : State) (w : Nat) (v : DWord) (wp : Warp) (b : Block) (g : Gang) (l : Launch), tget s.warps w = some wp → tget s.blocks wp.blk = some b →
    tget s.gangs b.gang = some g → tget s.launches g.launch = some l →
      s.writeSr w .hflag v = s.modCtx l.asid (fun k => { k with hflag := k.hflag &&& v.extractLsb' 0 32 }) ∧
      s.writeSr w .seed v = s.modCtx l.asid (fun k => { k with seed := v.extractLsb' 0 32 }) ∧
      s.writeSr w .tvec v = s.modCtx l.asid (fun k => { k with tvec := v &&& 0xFFFFFFFFFFFFE000 }) ∧
      s.writeSr w .cctl v = s.modCore wp.core (fun k => { k with cctl := v.extractLsb' 0 32 &&& 3 }) ∧
      s.writeSr w .tpc v = s.modWarp w (fun x => { x with tpc := v }) ∧
      s.writeSr w .mask v = s ∧ s.writeSr w .priv v = s)

/-- WAITV: R262. -/
def Obligations.WaitForValue : Prop :=
  ∀ (f : Fr) (d a : Reg) (off : Word) (x : Src) (spc : Space) (sz : Size) (scope : Scope) (ne : Bool) (s : State) (c : Ctx),
    let n := nameDN d (szRegs sz) (reg2 a) none (srcN x (szRegs sz))
    let i : Instr := .waitv f d a off x spc sz scope ne
    let chks := plainChks spc .read (szBytes sz) (fun c => c.ea a off) c
    Issues s f n none (levelEarly scope) c →
      (c.act = 0 → exec i s = .next (passed c f n)) ∧
      (c.act ≠ 0 → allOk chks = none →
        exec i s = .next (raiseTrap c f (firstBad chks).1 (firstBad chks).2 (c.threads.map (fun t => (t, c.ea a off (c.from t)))) none)) ∧
      (c.split.counted = false → c.got = []) ∧
      (∀ as, c.act ≠ 0 → allOk chks = some as →
        -- the words that have not satisfied the condition yet are read
        let todo := as.filter (fun a => !(c.got.any (fun p => decide (p.1 = a.t))))
        let r := readHome c.core todo (noteTlb (advance c f n) c.core todo)
        let ok (p : Nat × List Byte) : Bool := decide (BitVec.ofNat 64 (ofBytes p.2) = c.operand x sz p.1) != ne
        -- every active thread's word satisfies the condition, those read before kept
        (r.2.all ok = true →
          exec i s = .next (flightNext c f (c.outs (loadOuts d sz (waitvWords c sz r.2))) (acquireAt c (c.scope scope) r.1))) ∧
        -- some does not: the split waits at the instruction, with the words that do
        (r.2.all ok = false →
          ∃ t sp, exec i s = .next t ∧ splitAt t c.w c.ent = some sp ∧ sp.wait = some (.op true false .none) ∧ sp.pc = c.split.pc ∧
            sp.got = c.got ++ (r.2.filter ok).map (fun p => (p.1, BitVec.ofNat 64 (ofBytes p.2)))))

/-- XLOCK and XFREE: R277, R56. They raise 0x05 at issue, whatever the guard values, on a Riffle core, where no extended set is declared, and
XFREE where the warp does not hold it (that the check stands before the scoreboard and after the guard register's range is log entry 14). -/
def Obligations.ExtendedSetLock : Prop :=
  ∀ (f : Fr) (s : State) (c : Ctx),
    (Issues s f noNames none (extEarly f false) c →
      (c.act = 0 → exec (.xlock f) s = .next (passed c f noNames)) ∧
      (c.act ≠ 0 → pairHeld c = false → ∃ t wp, exec (.xlock f) s = .next t ∧ tget t.warps c.w = some wp ∧ wp.xl = true ∧
        GoesTo c t c.ent c.split.mask (c.nextPc f) c.split.joins c.split.rets) ∧
      -- the pair's other warp holds it: the split waits
      (c.act ≠ 0 → pairHeld c = true → ∃ t sp, exec (.xlock f) s = .next t ∧ splitAt t c.w c.ent = some sp ∧
        sp.wait = some (.op false false .none) ∧ sp.pc = c.split.pc)) ∧
    (Issues s f noNames none (extEarly f true) c →
      (c.act = 0 → exec (.xfree f) s = .next (passed c f noNames)) ∧
      (c.act ≠ 0 → (∀ x ∈ c.warp.flights, ∀ p ∈ x.regs, extKey p.1 = false) →
        ∃ t wp, exec (.xfree f) s = .next t ∧ tget t.warps c.w = some wp ∧ wp.xl = false ∧
          GoesTo c t c.ent c.split.mask (c.nextPc f) c.split.joins c.split.rets)) ∧
    (Comes s f c → rangeBad c (f.g.toNat, 1) = false →
      ((c.riffle = true ∨ c.launch.record.xs = false) →
        exec (.xlock f) s = .next (raiseTrap c f 0x05 c.split.mask [] none) ∧ exec (.xfree f) s = .next (raiseTrap c f 0x05 c.split.mask [] none)) ∧
      (c.warp.xl = false → exec (.xfree f) s = .next (raiseTrap c f 0x05 c.split.mask [] none)))

namespace Sys2Proof.Claims

/-- The issue-time test of GBAR: a level or a domain that the launch does not allow is illegal. -/
def gbarEarly (scope : Scope) (c : Ctx) : Option Nat :=
  match levelEarly scope c with
  | some k => some k
  | none => if (gbarDom c scope).isNone then some 0x01 else none

end Sys2Proof.Claims

/-- BAR and GBAR: R274 to R276. Which arrivals from the other devices of a launch group are there is free (log entry 91), so only an instance
that lies on this device alone is known to be complete. -/
def Obligations.Barriers : Prop :=
  (∀ (f : Fr) (a : Option Reg) (n : BitVec 4) (s : State) (c : Ctx),
    let m : Names := nameS (oreg a) none none
    let cnt := match a with | some r => (c.reg r.toNat (lowest c.act)).toNat | none => 0
    let ps : Phase := .bar n.toNat true
    let pa : Phase := .bar n.toNat false
    let x := c.block.bar n.toNat
    -- the barrier with this arrival, and the arrivals that its phase wants: the count of the first, or every warp of the block
    let y : Bar := { x with expw := if x.arr = 0 then cnt else x.expw, arr := x.arr + 1, who := x.who ++ [c.w] }
    let allowed : Prop := c.act ≠ 0 ∧ c.handler = false ∧ c.split.arrived = false ∧ (a.isSome = true → 1 ≤ cnt ∧ cnt ≤ 32)
    let want := if y.expw = 0 then (c.pre.warps.filter (fun p => decide (p.2.blk = c.warp.blk))).length else y.expw
    let ends (t : State) : Prop := ∃ b, tget t.blocks c.warp.blk = some b ∧
      b.bars = tputD (tputD c.block.bars n.toNat Bar.reset y) n.toNat Bar.reset ⟨0, 0, !x.phb, []⟩
    let counts (t : State) : Prop := ∃ b, tget t.blocks c.warp.blk = some b ∧ b.bar n.toNat = y
    let goesOn (t : State) : Prop := GoesTo c t c.ent c.split.mask (c.nextPc f) c.split.joins c.split.rets
    Issues s f m none (fun c => if c.launch.record.nbar ≤ n.toNat then some 0x01 else none) c →
      (c.act = 0 → exec (.barSync f a n) s = .next (passed c f m) ∧ exec (.barArr f a n) s = .next (passed c f m)) ∧
      (c.act ≠ 0 → c.handler = true →
        exec (.barSync f a n) s = .next (raiseTrap c f 0x42 c.act [] none) ∧ exec (.barArr f a n) s = .next (raiseTrap c f 0x42 c.act [] none)) ∧
      (c.act ≠ 0 → c.handler = false → c.split.arrived = false → a.isSome = true → (cnt < 1 ∨ 32 < cnt) →
        exec (.barSync f a n) s = .next (raiseTrap c f 0x08 c.act [] none) ∧ exec (.barArr f a n) s = .next (raiseTrap c f 0x08 c.act [] none)) ∧
      -- a warp that has arrived in this phase is not counted again: .arr completes, .sync waits for its end (log entry 97)
      (allowed → c.w ∈ x.who → exec (.barArr f a n) s = .next (passed c f m) ∧ WaitsAt (.barSync f a n) s c true true ps) ∧
      -- the warp's other splits must come to the barrier first
      (allowed → c.w ∉ x.who → othersAt c [ps, pa] = false →
        WaitsAt (.barArr f a n) s c true false pa ∧ WaitsAt (.barSync f a n) s c true false ps) ∧
      (allowed → c.w ∉ x.who → othersAt c [ps, pa] = true →
        -- the last arrival ends the phase, and both forms complete
        (want ≤ y.arr →
          (∃ t, exec (.barSync f a n) s = .next t ∧ goesOn t ∧ ends t) ∧ (∃ t, exec (.barArr f a n) s = .next t ∧ goesOn t ∧ ends t)) ∧
        -- an earlier one counts: .arr completes, .sync waits
        (y.arr < want →
          (∃ t, exec (.barArr f a n) s = .next t ∧ goesOn t ∧ counts t) ∧
          (∃ t sp, exec (.barSync f a n) s = .next t ∧ splitAt t c.w c.ent = some sp ∧ sp.wait = some (.op true true ps) ∧ sp.pc = c.split.pc ∧
            counts t))) ∧
      -- a split whose phase has ended completes
      (c.act ≠ 0 → c.handler = false → c.split.arrived = true → c.split.phase = .none →
        exec (.barSync f a n) s = .next (minimumNext c f (acquireAt c 1 (advance c f m))) ∧
        exec (.barArr f a n) s = .next (minimumNext c f (advance c f m)))) ∧
  (∀ (f : Fr) (scope : Scope) (dom : Nat) (s : State) (c : Ctx),
    let p : Phase := .gbar dom
    let mine (q : Nat × Warp) : Prop := inInstance c.pre c.gangId c.gang.launch c.block.core dom q.2 = true
    Issues s f noNames none (gbarEarly scope) c → gbarDom c scope = some dom →
      (c.act = 0 → exec (.gbar f scope) s = .next (passed c f noNames)) ∧
      (c.act ≠ 0 → c.handler = true → exec (.gbar f scope) s = .next (raiseTrap c f 0x42 c.act [] none)) ∧
      -- every other warp of the instance is there: the barrier completes
      (c.act ≠ 0 → c.handler = false → c.split.arrived = false → othersAt c [p] = true → tsorted c.pre.warps = true →
        (dom = 7 → ∀ l, tget c.pre.launches c.gang.launch = some l → l.group = none) →
        (∀ q ∈ c.pre.warps, mine q → q.1 = c.w ∨ q.2.atGbar dom = true) →
        ∃ t, exec (.gbar f scope) s = .next t ∧ GoesTo c t c.ent c.split.mask (c.nextPc f) c.split.joins c.split.rets) ∧
      -- one is not: the split waits
      (c.act ≠ 0 → c.handler = false → c.split.arrived = false → othersAt c [p] = true →
        (∃ q ∈ c.pre.warps, mine q ∧ q.1 ≠ c.w ∧ q.2.atGbar dom = false) →
        ∃ t sp, exec (.gbar f scope) s = .next t ∧ splitAt t c.w c.ent = some sp ∧ sp.wait = some (.op true true p) ∧ sp.pc = c.split.pc) ∧
      -- a split whose phase has ended completes
      (c.act ≠ 0 → c.handler = false → c.split.arrived = true → c.split.phase = .none →
        exec (.gbar f scope) s = .next (minimumNext c f (acquireAt c (c.scope scope) (advance c f noNames)))))

/-! ### The sluice engine, batches, flumes and weir slots as instructions see them (R226 to R236) -/

namespace Sys2Proof.Claims

/-- SLX by mode. -/
def slx (m : Nat) (f : Fr) (d : Reg) (a b : Option Src) (x : Reg) : Instr :=
  match m with
  | 0 => .slxCopy f d a b x
  | 1 => .slxCvt f d a b x
  | 2 => .slxRescale f d a b x
  | 3 => .slxTr f d a b x
  | 4 => .slxFill f d a b x
  | 5 => .slxKvg f d a b x
  | _ => .slxTagck f d a b x

end Sys2Proof.Claims

/-- SLX: R226 to R228, R361. Every active thread posts its command; a refused one counts as status 2 of the open batch, whose number D
receives. -/
def Obligations.PostingCopyCommands : Prop :=
  (∀ (m : Nat) (f : Fr) (d : Reg) (a b : Option Src) (x : Reg) (s : State) (c : Ctx), m ≤ 6 →
    let n := nameD d (osrc a) (osrc b) (some (x.toNat, 8))
    let cmds := c.doers.map (slxCmd c m a b x)
    let ok (k : Cmd) : Bool := cmdOk c.pre c.block c.ctx.world k
    -- the entries in use: every command that has not started, suspended ones that have re-entered the queue among them
    let queued := ((c.pre.core c.core).sluice.filter (fun k => decide (k.state ≠ .started))).length
    let takes : Prop := queued + (cmds.filter ok).length ≤ 64 ∧ (cmds.filter ok = [] ∨ c.pre.cmdsDue c.core = false)
    Issues s f n none noEarly c →
      (c.act = 0 → exec (slx m f d a b x) s = .next (passed c f n)) ∧
      (c.act ≠ 0 → takes →
        exec (slx m f d a b x) s = .next (flightNext c f
          (c.outs [(d.toNat, fun t => ((cmds.find? (fun k => decide (k.thread = t))).map (fun k => k.batch.zeroExtend 32)).getD 0)])
          ((cmds.foldl (fun s k => s.modBatches c.w k.thread (fun b =>
              if ok k then { b with openLeft := b.openLeft + 1 } else { b with openStatus := max b.openStatus 2 })) (advance c f n)).modCore c.core
            (fun k => { k with sluice := k.sluice ++ cmds.filter ok })))) ∧
      -- no room among the 64, or commands of a resumed block that come before: it waits
      (c.act ≠ 0 → ¬ takes → WaitsAt (slx m f d a b x) s c false false .none)) ∧
  (∀ (c : Ctx) (m : Nat) (a b : Option Src) (x : Reg) (t : Nat),
    let k := slxCmd c m a b x t
    let off (y : Option Src) : DWord := y.elim 0 (fun v => (c.val v t).signExtend 64)
    k.src = c.reg2 x.toNat t + off b ∧ k.dst = c.reg2 (x.toNat + 2) t + off a ∧ k.mode = m ∧ k.thread = t ∧ k.asid = c.launch.asid ∧
    k.words = (List.range 8).map (fun i => c.reg (x.toNat + i) t) ∧ k.batch.toNat = (c.batches t).openNum % 65536 ∧ k.state = .queued ∧
    k.priv = c.split.priv)

/-- BSEAL, BWAIT and ENGSYNC: R231, R236. -/
def Obligations.CopyBatches : Prop :=
  (∀ (f : Fr) (d a : Reg) (scope : Scope), Passes (.bseal f d) f (nameD d none none none) noEarly ∧
    Passes (.bwait f d a) f (nameD d (reg1 a) none none) noEarly ∧ Passes (.engsyncCmp f) f noNames noEarly ∧
    Passes (.engsyncPub f scope) f noNames (levelEarly scope)) ∧
  ∀ (f : Fr) (d a : Reg) (s : State) (c : Ctx),
    (Issues s f (nameD d none none none) none noEarly c → c.act ≠ 0 → (∀ t ∈ c.doers, (c.batches t).crowded = false) →
      exec (.bseal f d) s = .next (flightNext c f (c.outs [(d.toNat, fun t => BitVec.ofNat 32 ((c.batches t).openNum % 65536))])
        (c.doers.foldl (fun s t => s.modBatches c.w t Batches.close) (advance c f (nameD d none none none))))) ∧
    (Issues s f (nameD d none none none) none noEarly c → c.act ≠ 0 → (∃ t ∈ c.doers, (c.batches t).crowded = true) →
      WaitsAt (.bseal f d) s c false false .none) ∧
    (let n (t : Nat) : Nat := (c.reg a.toNat t).toNat % 65536
     let busy (t : Nat) : Prop := (c.batches t).isSealed (n t) = true ∧ ∃ x ∈ (c.batches t).upTo (n t), x.left ≠ 0
     Issues s f (nameD d (reg1 a) none none) none noEarly c → c.act ≠ 0 →
       ((∀ t ∈ c.doers, ¬ busy t) → exec (.bwait f d a) s = .next (flightNext c f
         (c.outs [(d.toNat, fun t => BitVec.ofNat 32 ((c.batches t).wait (n t)).1)])
         (c.doers.foldl (fun s t => s.modBatches c.w t (fun b => (b.wait (n t)).2)) (advance c f (nameD d (reg1 a) none none))))) ∧
       ((∃ t ∈ c.doers, busy t) → WaitsAt (.bwait f d a) s c true false .none)) ∧
    -- a sealed batch keeps the open one's number, commands and status; with eight the oldest is retired, its status carried
    (∀ b : Batches, b.sealed.length < 8 →
      b.close = { b with sealed := b.sealed ++ [⟨b.openNum % 65536, b.openLeft, b.openStatus⟩], openNum := b.openNum + 1, openLeft := 0, openStatus := 0 }) ∧
    (∀ (b : Batches) (x : Batch) (r : List Batch), b.sealed = x :: r → 8 ≤ b.sealed.length →
      b.close.sealed = r ++ [⟨b.openNum % 65536, b.openLeft, b.openStatus⟩] ∧ b.close.carried = max b.carried x.status) ∧
    -- a wait gives the highest status of the batches up to its number, or at least 1 for a number never sealed
    (∀ (b : Batches) (n : Nat), b.isSealed n = true →
      (∀ x ∈ b.upTo n, x.status ≤ (b.wait n).1) ∧ b.carried ≤ (b.wait n).1 ∧ ((b.wait n).1 = b.carried ∨ ∃ x ∈ b.upTo n, (b.wait n).1 = x.status) ∧
      (b.wait n).2.carried = 0 ∧ ∀ x, x ∈ (b.wait n).2.sealed ↔ x ∈ b.sealed ∧ x ∉ b.upTo n) ∧
    (∀ (b : Batches) (n : Nat), b.isSealed n = false → b.wait n = (max 1 b.carried, { b with carried := 0 })) ∧
    (Issues s f noNames none noEarly c → c.act ≠ 0 → c.pre.hasCmds c.w = false → exec (.engsyncCmp f) s = .next (passed c f noNames)) ∧
    (∀ scope, Issues s f noNames none (levelEarly scope) c → c.act ≠ 0 → c.pre.hasCmds c.w = false →
      exec (.engsyncPub f scope) s = .next (minimumNext c f (releaseAt c (c.scope scope) (advance c f noNames)))) ∧
    (Issues s f noNames none noEarly c → c.act ≠ 0 → c.pre.hasCmds c.w = true → WaitsAt (.engsyncCmp f) s c true false .none)

/-- FLPUT, FLGET and FLWAIT: R233, R234, R367; WEIRSET: R235. -/
def Obligations.FlumesAndWeirSlots : Prop :=
  (∀ (f : Fr) (d a : Reg) (k : BitVec 4) (w : BitVec 5),
    (∀ i ∈ [Instr.flput f d a k, .flget f d a k, .flwaitData f d a k, .flwaitRoom f d a k],
      Passes i f (nameD d (reg1 a) none none) (fun c => if k.toNat < c.block.flumes.length then none else some 0x01)) ∧
    Passes (.weirsetSet f a w) f (nameS (reg1 a) none none) noEarly ∧ Passes (.weirsetClr f w) f noNames noEarly) ∧
  ∀ (f : Fr) (d a : Reg) (k : BitVec 4) (s : State) (c : Ctx) (x : Flume),
    let n := nameD d (reg1 a) none none
    let v := (c.reg a.toNat (lowest c.act)).toNat
    let fill := (x.p - x.q).toNat
    let st := advance c f n
    let give (w : Word) (s : State) : Out := .next (flightNext c f (c.outs [(d.toNat, fun _ => w)]) s)
    let tooMany : Out := .next (raiseTrap c f 0x08 c.act [] none)
    (Issues s f n none (fun c => if k.toNat < c.block.flumes.length then none else some 0x01) c → c.act ≠ 0 →
      c.block.flumes[k.toNat]? = some x →
      -- a count beyond the depth
      (x.depth < v → exec (.flput f d a k) s = tooMany ∧ exec (.flget f d a k) s = tooMany ∧ exec (.flwaitData f d a k) s = tooMany ∧
        exec (.flwaitRoom f d a k) s = tooMany) ∧
      (v ≤ x.depth →
        exec (.flput f d a k) s = (if x.depth < fill + v then tooMany
          else give (x.p + BitVec.ofNat 32 v) ((releaseAt c 1 st).modFlume c.warp.blk k.toNat (fun y => { y with p := x.p + BitVec.ofNat 32 v }))) ∧
        exec (.flget f d a k) s = (if fill < v then tooMany
          else give (x.q + BitVec.ofNat 32 v) ((releaseAt c 1 st).modFlume c.warp.blk k.toNat (fun y => { y with q := x.q + BitVec.ofNat 32 v }))) ∧
        -- the waits give the slot behind the engine's reservations
        (x.rin + v ≤ fill → exec (.flwaitData f d a k) s =
          give (BitVec.ofNat 32 (x.base + (x.q + BitVec.ofNat 32 x.rin).toNat % x.depth * x.size)) (acquireAt c 1 st)) ∧
        (fill < x.rin + v → WaitsAt (.flwaitData f d a k) s c true false .none) ∧
        (x.rout + v ≤ x.depth - fill → exec (.flwaitRoom f d a k) s =
          give (BitVec.ofNat 32 (x.base + (x.p + BitVec.ofNat 32 x.rout).toNat % x.depth * x.size)) st) ∧
        (x.depth - fill < x.rout + v → WaitsAt (.flwaitRoom f d a k) s c true false .none))) ∧
    (∀ w : BitVec 5,
      (Issues s f (nameS (reg1 a) none none) none noEarly c → c.act ≠ 0 →
        exec (.weirsetSet f a w) s = .next (minimumNext c f ((advance c f (nameS (reg1 a) none none)).modCore c.core
          (fun y => { y with weirs := tput y.weirs w.toNat ((c.reg a.toNat (lowest c.act)).getLsbD 0),
                             weirBy := tput y.weirBy w.toNat (c.gang.launch, c.warp.blk) })))) ∧
      (Issues s f noNames none noEarly c → c.act ≠ 0 →
        exec (.weirsetClr f w) s = .next (minimumNext c f ((advance c f noNames).modCore c.core (fun y => { y with
          weirs := y.weirs.filter (fun p => decide (p.1 ≠ w.toNat)), weirBy := y.weirBy.filter (fun p => decide (p.1 ≠ w.toNat)) })))))

/-! ### Rafts and the array (R170 to R195, R269) -/

namespace Sys2Proof.Claims

/-- The instructions that a raft performs in the array, with their frames. -/
def raftInstr (i : Instr) : Option Fr :=
  match i with
  | .tmma f _ _ _ | .tmmaw f _ _ _ _ | .tmmaz f _ _ _ _ | .tmmas f _ _ _ | .taccZero f _ | .taccLive f _ | .taccDead f _
  | .taccMul f _ _ | .trdReg f _ _ _ _ _ | .trdRec f _ _ _ _ _ _ | .twrReg f _ _ _ _ | .twrRec f _ _ _ | .tew f _ _ _ _ _ _ _
  | .tred f _ _ _ _ | .tsmx f _ _ _ _ | .tnorm f _ _ _ _ | .tcvt f _ _ _ _ _ | .ebb f _ _ => some f
  | _ => none

/-- The issuer as a member of its raft. -/
def asMemberOf (c : Ctx) (f : Fr) : Member := { warp := c.w, ent := c.ent, fr := f, lane := lowest c.split.mask, d := 0 }

/-- SETC counts. -/
def counted (c : Ctx) (f : Fr) (s : State) : State :=
  match fctr f with
  | some k => s.modWarp c.w (·.incCtr k)
  | none => s

/-- The state in which the issuer of an instruction with the given names waits for its raft's operation: counted, its opportunity taken, one tile
instruction more. -/
def raftWaits (c : Ctx) (f : Fr) (n : Names) : State :=
  ((takeSlot c f n (counted c f c.pre)).modWarp c.w (fun wp => { wp with tiles := wp.tiles + 1 })).modSplit
    c.w c.ent (fun sp => { sp with wait := some (.op true true .none) })

end Sys2Proof.Claims

/-- CONVENE and DISBAND: R170 to R172. Which of several full rafts forms first is free (log entry 35); that CONVENE into a formed raft traps also
after a member has left is the model's reading (log entry 95). -/
def Obligations.RaftMembership : Prop :=
  (∀ (f : Fr) (d : Reg) (rid : BitVec 2) (kc : BitVec 3), Passes (.convene f d rid kc) f (nameD d none none none) reachOnly ∧
    Passes (.disband f) f noNames reachOnly) ∧
  (∀ (f : Fr) (d : Reg) (rid : BitVec 2) (kc : BitVec 3) (s : State) (c : Ctx),
    let blk := groupBlock c.pre c
    let me : Member := { warp := c.w, ent := c.ent, fr := f, lane := lowest c.act, d := d }
    let found := c.pre.rafts.find? (fun p => decide (p.2.gang = c.gangId) && decide (p.2.rid = rid.toNat) && decide (p.2.blk = blk))
    let waits (s : State) (id : Nat) : State :=
      ((takeSlot c f (nameD d none none none) (counted c f (s.modWarp c.w (fun wp => { wp with raft := some id })))).modSplit c.w c.ent (fun sp =>
        { sp with wait := some (.op true true .none) })).bump
    Issues s f (nameD d none none none) none reachOnly c → c.act ≠ 0 → c.handler = false → c.split.arrived = false →
      -- a warp holds one raft at most
      (c.warp.raft ≠ none → exec (.convene f d rid kc) s = .next (raiseTrap c f 0x08 c.act [] none)) ∧
      -- the first to join makes the raft
      (c.warp.raft = none → found = none →
        exec (.convene f d rid kc) s = .next (formWaiting { waits { c.pre with uid := c.pre.uid + 1 } c.pre.uid with
          rafts := tput (waits { c.pre with uid := c.pre.uid + 1 } c.pre.uid).rafts c.pre.uid
            { twin := c.core / 2, rid := rid.toNat, blk := blk, gang := c.gangId, size := kc.toNat + 1, formed := false, joiners := [me],
              members := [], elect := 0, left := [], ops := [], kept := [] } } (c.core / 2))) ∧
      -- others join it, up to its size
      (∀ id r, c.warp.raft = none → found = some (id, r) → r.size = kc.toNat + 1 → r.formed = false → r.joiners.length < r.size →
        exec (.convene f d rid kc) s = .next (formWaiting { waits c.pre id with
          rafts := tput (waits c.pre id).rafts id { r with joiners := r.joiners ++ [me] } } r.twin)) ∧
      (∀ id r, c.warp.raft = none → found = some (id, r) → (r.size ≠ kc.toNat + 1 ∨ r.formed = true ∨ r.size ≤ r.joiners.length) →
        exec (.convene f d rid kc) s = .next (raiseTrap c f 0x08 c.act [] none))) ∧
  -- full rafts form one after another while their twin holds fewer than eight, which one first being free: member numbers follow cores and slots
  (∀ (s : State) (twin : Nat), formWaiting s twin = (upto 8).foldl (formOne twin) s) ∧
  (∀ (s : State) (twin k : Nat), (raftsOn s twin).length < 8 → fullRafts s twin ≠ [] → ∃ p ∈ fullRafts s twin, formOne twin s k = formRaft s p.1 p.2) ∧
  (∀ (s : State) (twin : Nat), fullRafts s twin = [] → formWaiting s twin = s) ∧
  (∀ (s : State) (twin : Nat), 8 ≤ (raftsOn s twin).length → formWaiting s twin = s) ∧
  (∀ (f : Fr) (s : State) (c : Ctx), Issues s f noNames none reachOnly c → c.act ≠ 0 →
    (c.raft? = none → exec (.disband f) s = .next (raiseTrap c f 0x08 c.act [] none)) ∧
    (∀ id r, c.raft? = some (id, r) →
      ((∀ o ∈ r.ops, ∀ m ∈ o.issued, m.warp ≠ c.w) → exec (.disband f) s = .next (minimumNext c f (leaveRaft (advance c f noNames) c.w))) ∧
      ((∃ o ∈ r.ops, ∃ m ∈ o.issued, m.warp = c.w) → WaitsAt (.disband f) s c true false .none)))

/-- Tile instructions and EBB at issue: R173. -/
def Obligations.RaftOperations : Prop :=
  (∀ (i : Instr) (f : Fr) (s : State) (c : Ctx), raftInstr i = some f → Issues s f (tileNames i) none reachOnly c →
    (c.raft? = none →
      exec i s = .next (if c.act = 0 then passed c f (tileNames i) else raiseTrap c f 0x08 c.act [] none)) ∧
    (∀ rid r, c.raft? = some (rid, r) → c.split.arrived = false → r.left = [] →
      let lead := decide (r.members.head? = some c.w)
      let fill (o : RaftOp) : RaftOp :=
        let o := { o with issued := o.issued ++ [asMemberOf c f], spans := o.spans ++ memberSpan c i,
                          same := o.same && decide (agreed o.instr = agreed i) }
        if lead then { o with guard := c.act.getLsbD r.elect, vals := tileVals c i r.elect, priv := c.split.priv } else o
      let s1 := raftWaits c f (tileNames i)
      -- the first member to come to the operation opens it
      (r.ops.find? (fun o => !o.issued.any (fun m => decide (m.warp = c.w))) = none →
        let o := fill { k := s1.uid, instr := i, issued := [], guard := false, vals := [], priv := false, spans := [] }
        let s2 := { s1 with uid := s1.uid + 1 }.modRaft rid (fun r => { r with ops := r.ops ++ [o] })
        exec i s = .next (if r.members.length = 1 then lineUp s2 rid o.k r.twin else s2).bump) ∧
      -- with the last member the operation is complete; where two have brought different instructions, every member traps then
      (∀ o, r.ops.find? (fun o => !o.issued.any (fun m => decide (m.warp = c.w))) = some o →
        let s2 := s1.modRaft rid (fun r => { r with ops := r.ops.map (fun x => if x.k = o.k then fill o else x) })
        (o.issued.length + 1 < r.members.length → exec i s = .next s2.bump) ∧
        (o.issued.length + 1 = r.members.length → o.same = true → agreed o.instr = agreed i →
          exec i s = .next (lineUp s2 rid o.k r.twin).bump) ∧
        (o.issued.length + 1 = r.members.length → (o.same = false ∨ agreed o.instr ≠ agreed i) →
          exec i s = .next (trapAll s2 rid (fill o) 0x08))))) ∧
  -- a complete operation enters the array where it has room and its tests pass
  (∀ (s : State) (rid k twin : Nat), (s.twin twin).line = [] → (s.twin twin).ops.length < 2 → raftRuns s rid = true →
    lineUp s rid k twin = raftReady ((s.modTwin twin (fun t => { t with line := [(rid, k)] })).modTwin twin (fun t => { t with line := [] })) rid k) ∧
  (∀ (s : State) (rid k : Nat) (r : Raft) (o : RaftOp), tget s.rafts rid = some r → r.ops.find? (fun o => decide (o.k = k)) = some o →
    (o.guard = false → raftReady s rid k = o.issued.foldl (completeMember (tileNames o.instr) .minimum (fun _ => [])) (dropOp s rid k)) ∧
    (∀ v wb t, o.guard = true → tileEnv s r o.priv = some v → leadBlock s r = some wb → wb.2.recording.isOpen = false →
      (∀ f d a, o.instr ≠ .ebb f d a) → tileStart s v o.instr o.vals = .ok t →
      raftReady s rid k = enterArray (clearProducer (noteAll t.1 v.eng (t.2.map (·.1))) v o.instr o.vals t.2) rid r o t.2 none) ∧
    (∀ v wb, o.guard = true → tileEnv s r o.priv = some v → leadBlock s r = some wb → (∀ f d a, o.instr ≠ .ebb f d a) →
      tileStart s v o.instr o.vals = .error .state → raftReady s rid k = trapAll s rid o 0x08) ∧
    (∀ v wb, o.guard = true → tileEnv s r o.priv = some v → leadBlock s r = some wb → (∃ f d a, o.instr = .ebb f d a) →
      raftReady s rid k = if wb.2.recording.isOpen then trapAll s rid o 0x08 else enterArray s rid r o [] none))

/-- ARRAY_OPERATION_START and ARRAY_OPERATION_DONE: R174, R180, R183. That register words are those of the issue or of the start is the model's
reading (log entry 34), and so is the time at which save areas are written (log entry 90). -/
def Obligations.ArrayProgress : Prop :=
  ∀ (s : State) (twin : Nat) (a : ArrayOp) (rest : List ArrayOp), (s.twin twin).ops = a :: rest →
    (∀ r g, tget s.rafts a.raft = some r → tget s.gangs r.gang = some g → g.state = .running → a.begun = false →
      ∃ b, b.begun = true ∧ b.instr = a.instr ∧ b.vals = a.vals ∧ b.recs = a.recs ∧ b.log = a.log ∧ b.seen = a.seen ∧
        -- TWR .reg completes for its members; any other operation's save areas are written as its sources then stand, where it is logged
        (let t := (s.modTwin twin (fun x => { x with ops := b :: rest })).bump
         exec (.arrayOperationStart twin) s =
           .next (match a.instr with | .twrReg .. => r.members.foldl (endTile a.k []) t | _ => saveSources t r b) ∧
         (a.log = none → saveSources t r b = t)) ∧
        -- the words it reads are those of the issue, or those that the registers hold now
        b.spans.length = a.spans.length ∧
        (∀ p q, (p, q) ∈ a.spans.zip b.spans → q.1 = p.1 ∧ (p.1 / 32 % 1024 ≠ 0 → q.2 = p.2 ∨ q.2 = s.regAt p.1))) ∧
    (∀ r v, tget s.rafts a.raft = some r → tileEnv s r a.priv = some v → a.begun = true → (∀ f d x, a.instr ≠ .ebb f d x) →
      let e := tilePerform s v a
      let s1 := countHealth (noteAll e.s v.eng (opPages a)) v.blk e.ev
      let issued : List Member := ((r.ops.find? (fun o => decide (o.k = a.k))).map (·.issued)).getD []
      (e.bad = none → exec (.arrayOperationDone twin) s =
        .next (popArray (dropOp (r.members.foldl (endTile a.k e.regs) (s1.settle s (raftCores s r))) a.raft a.k) twin).bump) ∧
      -- a failure names the members, each with the pc of the split that issued the operation
      (∀ cause va rec_, e.bad = some (.fetch cause va rec_) → exec (.arrayOperationDone twin) s =
        .next (popArray (raiseRaft s1 r issued 0x28 cause va rec_) twin).bump) ∧
      (e.bad = some .hard → exec (.arrayOperationDone twin) s = .next (popArray (raiseRaft s1 r issued 0x40 0x40 0 0) twin).bump) ∧
      (∀ x cause ocause va raddr, (raiseRaft s1 r issued cause ocause va raddr).raised = s1.raised ++ [x] →
        x.cause = cause ∧ x.gang = r.gang ∧ x.named.map (·.1) = r.members ∧
        ∀ m, issued.find? (fun y => decide (y.warp = m.warp)) = some m → m.warp ∈ r.members → (m.warp, s1.pcOf m.warp m.lane) ∈ x.named))

namespace Sys2Proof.Claims

/-- The tree of R47 over 128 values, at steps 1, 2, … 64 (R189). -/
def tree (g : Word → Word → Word) (v : Nat → Word) : Word :=
  let st (k : Nat) (v : Nat → Word) : Nat → Word := fun t => g (v t) (v (t + k))
  st 64 (st 32 (st 16 (st 8 (st 4 (st 2 (st 1 v)))))) 0

/-- The steps of the tile functions (R188 to R191), one rounding an operation, in the order written. -/
def TileFunctions : Prop :=
  (∀ x b c : Word, tewVal .relu x b c = (if (numOf x).isNan then 0x7FC00000 else if Machine.Num.lt (.zero false) (numOf x) then x else 0) ∧
    tewVal .copy x b c = (if (numOf x).isNan then 0x7FC00000 else x) ∧ tewVal .add x b c = fadd x b ∧ tewVal .mul x b c = fmul x b ∧
    tewVal .scl x b c = fmul x c ∧ tewVal .exp x b c = fexp x ∧ tewVal .tanh x b c = canon (ftanh x) ∧
    tewVal .gelu x b c = fmul (fmul 0x3F000000 x)
      (fadd 0x3F800000 (ftanh (fmul 0x3F4C422A (fadd x (fmul (fmul (fmul 0x3D372713 x) x) x))))) ∧
    tewVal .silu x b c = canon (fdiv x (fadd 0x3F800000 (fexp (x ^^^ 0x80000000)))) ∧
    tewVal .sigm x b c = fdiv 0x3F800000 (fadd 0x3F800000 (fexp (x ^^^ 0x80000000)))) ∧
  -- TRED: the tree sum; the greatest, NaN where any element is
  (∀ row : List Word, row.length = 128 → tredVal .add row = tree fadd (fun n => row.getD n 0)) ∧
  (∀ row : List Word, (∃ w ∈ row, (numOf w).isNan = true) → tredVal .max row = 0x7FC00000) ∧
  (∀ row : List Word, row ≠ [] → (∀ w ∈ row, (numOf w).isNan = false) →
    tredVal .max row ∈ row ∧ ∀ w ∈ row, (numOf (tredVal .max row)).lt (numOf w) = false) ∧
  -- TSMX
  (∀ (c : Word) (row : List Word), row.length = 128 →
    let x (n : Nat) : Word := fmul (row.getD n 0) c
    let m := tredVal .max (row.map (fun a => fmul a c))
    let e (n : Nat) : Word := fexp (fsub (x n) m)
    (m = 0xFF800000 → softmaxRow c row = List.replicate 128 0) ∧
    (m ≠ 0xFF800000 → softmaxRow c row = (List.range 128).map (fun n => fdiv (e n) (tree fadd e)))) ∧
  -- TNORM
  (∀ (eps : Word) (row : List Word), row.length = 128 →
    let s := tree fadd (fun n => fmul (row.getD n 0) (row.getD n 0))
    let r := rne32 (numOf (fadd (fmul s 0x3C000000) eps)).rsqrt
    normRow eps row = row.map (fun x => fmul x r))

/-- What the matrix operations take of their operands (R46, R182): TMMAW rounds each scaled weight to BF16, TMMAS puts the kept elements back at
the set bits of their group's mask and zero codes elsewhere. -/
def MatrixOperands : Prop :=
  (∀ (e : Elem) (s20 c : Nat), effB .w e s20 c = bf16.decode (bf16.round .rne (scaledVal e s20 c)) ∧ effB .plain e s20 c = scaledVal e s20 c ∧
    effB .z e s20 c = scaledVal e s20 c ∧ effB .s e s20 c = scaledVal e s20 c) ∧
  (∀ (k : MKind) (h : Header) (bs : List KBlock) (ms : List Nat), k ≠ .s →
    columnVals k h (bs, ms) = bs.flatMap (fun b => b.codes.map (effB k h.bfmt b.s20))) ∧
  (∀ (h : Header) (bs : List KBlock) (ms : List Nat),
    columnVals .s h (bs, ms) =
      ((List.zipWith (unsparse (sparsity h).1 (sparsity h).2) bs ms).flatten).flatMap (fun b => b.codes.map (effB .s h.bfmt b.s20))) ∧
  (∀ (n m : Nat) (b : KBlock) (mask i : Nat), i < 64 →
    let set (k : Nat) : Bool := mask.testBit (i / m * m + k)
    let rank := ((List.range (i % m)).filter set).length
    ((unsparse n m b mask).flatMap (·.codes))[i]? = some (if mask.testBit i = true ∧ rank < n then b.codes.getD (i / m * n + rank) 0 else 0) ∧
    ∀ x ∈ unsparse n m b mask, x.s20 = b.s20) ∧
  (∀ (h : Header) (r : List KBlock), rowVals h r = r.flatMap (fun b => b.codes.map (scaledVal h.afmt b.s20))) ∧
  -- TMMAZ: a group is one contribution; the others go by 32
  (∀ g : Grp, kGroup .z g = grpSize g ∧ kGroup .plain g = 32 ∧ kGroup .w g = 32 ∧ kGroup .s g = 32)

end Sys2Proof.Claims

/-- What the array's operations write: R45, R46, R182 and R184 to R192, with what the sparse, weight and zero-point forms take of their operands
and the steps of the tile functions. -/
def Obligations.TileResults : Prop :=
  (∀ (s : State) (v : TileEnv) (op : ArrayOp), s.poison = [] →
    let t := tileOf (opVal op.vals 0)
    let old := readTile s v.twin v.base t
    let write (rows : List (List Word)) : TileEnd := TileEnd.ok (writeTile s v.twin v.base t rows)
    let at' (d : Nat) : List (List Word) := readTile s v.twin v.base (tileOf d)
    let put (d : BitVec 11) (rows : List (List Word)) : TileEnd := TileEnd.ok (writeTile s v.twin v.base (tileOf d.toNat) rows)
    (∀ f a, op.instr = .taccZero f a → tilePerform s v op = write (List.replicate t.m (List.replicate 128 0))) ∧
    (∀ f a x, op.instr = .taccMul f a x → tilePerform s v op = write (old.map (fun r => r.map (fun w => fmul w (op.vals.getD 8 0))))) ∧
    -- the four matrix forms
    (∀ k h g x y, matrixOf op.instr = some (k, h, g) → op.log = none → matrixOperands s v op k h g = .ok (x, y) →
      tilePerform s v op = TileEnd.ok (writeTile s v.twin v.base (tileOf (headerTile h))
        (matrixResult k h g (x.map (rowVals h)) (y.map (columnVals k h)) (at' (headerTile h))))) ∧
    (∀ f a b h g, matrixOf (.tmma f a b h) = some (.plain, h, .g32) ∧ matrixOf (.tmmaw f a b h g) = some (.w, h, g) ∧
      matrixOf (.tmmaz f a b h g) = some (.z, h, g) ∧ matrixOf (.tmmas f a b h) = some (.s, h, .g32)) ∧
    -- TACC.live and .dead set and clear the live bits of the tile's rows
    (∀ f a, op.instr = .taccLive f a ∨ op.instr = .taccDead f a → ∃ set : SMap Bool → SMap Bool,
      tilePerform s v op = TileEnd.ok (s.modBlock v.blk (fun x => { x with live := set x.live })) ∧
      ∀ m k, tsorted m = true → tgetD (set m) k false =
        if t.row / 16 ≤ k ∧ k < t.row / 16 + t.m / 16 then decide (op.instr = .taccLive f a) else tgetD m k false) ∧
    -- TRD.reg: thread th of member j has 16 columns of row 16j + th mod 16, in FP32, or two to a register
    (∀ f d a dt q rnd j w wp th k, op.instr = .trdReg f d a dt q rnd → v.members[j]? = some (w, wp) → th < 32 →
      let acc (n : Nat) : Word := s.accAt v.twin (v.base + t.row + 16 * j + th % 16) (32 * q.toNat + 16 * (th / 16) + n)
      let half (n : Nat) : Nat := (convElem dt (plainMode rnd) (inpOf (acc n))).code % 65536
      let e := tilePerform s v op
      e.s = s ∧ e.bad = none ∧
      (dt = .f32 → k < 16 → (regKey w (pairOf w wp) (d.toNat + k) th, acc k) ∈ e.regs) ∧
      (dt ≠ .f32 → k < 8 → (regKey w (pairOf w wp) (d.toNat + k) th, BitVec.ofNat 32 (half (2 * k) + 65536 * half (2 * k + 1))) ∈ e.regs)) ∧
    -- TWR.reg: the same places, from the members' words
    (∀ f d a dt q, op.instr = .twrReg f d a dt q → tilePerform s v op = TileEnd.ok (twrRegs s v t d dt q.toNat op.spans)) ∧
    -- TRD.rec and TWR.rec: through the record's box
    (∀ f a b c dt rnd ocp adr h r, op.instr = .trdRec f a b c dt rnd ocp → op.recs = (adr, h) :: r →
      tilePerform s v op = trdRecord s v t h adr op.vals rnd ocp) ∧
    (∀ f a b dt adr h r rows, op.instr = .twrRec f a b dt → op.recs = (adr, h) :: r →
      let cols := min 128 (Shape.dim h.box (if h.bax = 1 then 1 else 0))
      let x : End := { h := h, org := [], flume := none }
      engMap (fun i => engMap (fun n => readInp s v.eng x (tileIndex h op.vals i n)) (List.range cols)) (List.range (boxRows h t.m)) = .ok rows →
      tilePerform s v op =
        TileEnd.ok (rows.zipIdx.foldl (fun s p => writeCols s v.twin (v.base + t.row + p.2) 0 (p.1.map (fun i => rne32 i.val))) s)) ∧
    -- TRED: column 0 of each row, the other columns stay
    (∀ f o a d sa, op.instr = .tred f o a d sa → op.log = none → (tileOf d.toNat).m = (tileOf (opVal op.vals 0 % 2048)).m → tsorted s.acc = true →
      ∀ i n, i < (tileOf d.toNat).m → n < 128 →
        (tilePerform s v op).s.accAt v.twin (v.base + (tileOf d.toNat).row + i) n =
          if n = 0 then tredVal o ((at' (opVal op.vals 0 % 2048)).getD i []) else s.accAt v.twin (v.base + (tileOf d.toNat).row + i) n) ∧
    -- TCVT: each row's blocks of 32 columns quantised and written back as their exact values
    (∀ f mode a bf rnd strm, op.instr = .tcvt f mode a bf rnd strm →
      let rs := (at' (opVal op.vals 0 % 2048)).zipIdx.map (fun p =>
        tcvtRow (bfElem bf) (decide (mode = .ocp)) rnd (op.vals.getD 9 0) p.2 strm.toNat p.1)
      op.log = none → tilePerform s v op =
        { TileEnd.ok (writeTile s v.twin v.base (tileOf (opVal op.vals 0 % 2048)) (rs.map (·.1))) with ev := Health.sum (rs.map (·.2)) }) ∧
    (∀ f fn a x d sa sb, op.instr = .tew f fn a none x d sa sb → op.log = none → tewBinary fn = false →
      tilePerform s v op = put d ((at' (opVal op.vals 0 % 2048)).map (fun r => r.map (fun p => tewVal fn p 0 (op.vals.getD 8 0))))) ∧
    (∀ f fn a b x d sa sb, op.instr = .tew f fn a (some b) x d sa sb → op.log = none → tewBinary fn = true →
      tilePerform s v op = put d (List.zipWith (List.zipWith (fun p q => tewVal fn p q (op.vals.getD 8 0)))
        (at' (opVal op.vals 0 % 2048)) (at' (opVal op.vals 4 % 2048)))) ∧
    (∀ f a x d sy, op.instr = .tsmx f a x d sy → op.log = none →
      tilePerform s v op = put d ((at' (opVal op.vals 0 % 2048)).map (softmaxRow (op.vals.getD 8 0)))) ∧
    (∀ f a x d sa, op.instr = .tnorm f a x d sa → op.log = none →
      tilePerform s v op = put d ((at' (opVal op.vals 0 % 2048)).map (normRow (op.vals.getD 8 0))))) ∧
  -- each group of 32 products, and what is left behind the last one, makes one contribution, rounded once, in ascending order
  (∀ (a b : List Machine.Num) (w : Word), 0 < a.length → a.length ≤ 32 → b.length = a.length →
    accumulate 32 a b w = toF32 (plainMode .rne) (Machine.Num.add false (numOf w) (exactSum (List.zipWith Machine.Num.mul a b)))) ∧
  (∀ (a b a' b' : List Machine.Num) (w : Word), a.length = 32 → b.length = 32 → a'.length = b'.length →
    accumulate 32 (a ++ a') (b ++ b') w = accumulate 32 a' b' (accumulate 32 a b w)) ∧
  -- a header with ZA starts from zero
  (∀ (k : MKind) (h : Header) (g : Grp) (row col : List Machine.Num) (w : Word),
    matrixResult k h g [row] [col] [[w]] = [[accumulate (kGroup k g) row col (if h.za then 0 else w)]]) ∧
  -- a row of TCVT: the SR index is the row number times 128 plus the column
  (∀ (e : Elem) (ocp : Bool) (rnd : Rnd) (seed : Word) (i strm n : Nat) (row : List Word), isScaled e = true → row.length = 128 → n < 128 →
    let q := quantBlock e ocp ((List.range 32).map (fun k => modeOf rnd seed (128 * i + 32 * (n / 32) + k) strm))
      (((row.drop (32 * (n / 32))).take 32).map inpOf)
    (tcvtRow e ocp rnd seed i strm row).1.getD n 0 = rne32 (scaledVal e q.s20 (q.codes.getD (n % 32) 0))) ∧
  -- a place of TWR.reg: the word that the member's thread has there
  (∀ (s : State) (v : TileEnv) (t : Tile) (d : Reg) (q j th k : Nat) (w : Nat) (wp : Warp) (spans : List (Nat × Word)) (x : Nat × Word),
    tsorted s.acc = true → v.members[j]? = some (w, wp) → th < 32 → k < 16 →
    spans.find? (fun x => decide (x.1 = regKey w (pairOf w wp) (d.toNat + k) th)) = some x → q < 4 → v.members.length ≤ 8 →
      (twrRegs s v t d .f32 q spans).accAt v.twin (v.base + t.row + 16 * j + th % 16) (32 * q + 16 * (th / 16) + k) = rne32 (numOf x.2)) ∧
  TileFunctions ∧ MatrixOperands

/-! ### The B-store and recording (R193 to R195, R267 to R270, R403 to R413) -/

/-- BSLOAD and RCFENCE: R193 to R195. What a load leaves of a slot's scale and metadata that its record does not give is the model's choice (log
entry 85); which pages are translated ahead is free (log entry 82). -/
def Obligations.StoreLoads : Prop :=
  (∀ (f : Fr) (a b : Reg) (sp : Bool) (s : State) (c : Ctx) (e : Eng),
    let n := nameS (regN a 4) (reg1 b) none
    let t := lowest c.act
    let op : Retained := { addr := c.reg2 a.toNat t, no := c.reg (a.toNat + 2) t, ko := c.reg (a.toNat + 3) t, off := c.reg b.toNat t, sp := sp }
    let st := advance c f n
    Issues s f n none reachOnly c → c.act ≠ 0 → engOf st c.warp.blk c.split.priv c.core false = some e →
      -- the offset must be a slot's
      ((op.off.toNat % 32 ≠ 0 ∨ 98304 ≤ op.off.toNat) → exec (.bsload f a b sp) s = .next (raiseTrap c f 0x08 c.act [] none)) ∧
      (op.off.toNat % 32 = 0 → op.off.toNat < 98304 →
        (loadRecords st e op = .error .state → exec (.bsload f a b sp) s = .next (raiseTrap c f 0x08 c.act [] none)) ∧
        -- the load is under way, and retained with the block's latest eight
        (∀ st1 recs, loadRecords st e op = .ok (st1, recs) →
          -- pages may be translated ahead of the transfer: which of them is free (log entry 82)
          let ahead := lookAhead e false (loadPages op recs) (noteAll st1 e (recs.map (·.1)))
          let st1 := ahead.1
          let x : BLoad := { num := st1.uid, warp := c.w, ent := c.ent, blk := c.warp.blk, priv := c.split.priv, op := op, recs := recs,
                             pc := c.split.pc, held := ahead.2 }
          let st2 : State := { st1 with uid := st1.uid + 1 }
          exec (.bsload f a b sp) s = .next (((st2.modTwin (c.core / 2) (fun t => { t with loads := t.loads ++ [x] })).modBlock c.warp.blk (fun k => { k with bsloads := (if 8 ≤ k.bsloads.length then k.bsloads.tail else k.bsloads) ++ [op] })).modWarp c.w (fun wp =>
            { wp with flights := wp.flights ++ [⟨fctr f, [], c.pre.now + c.minLat, .load st1.uid⟩] }))))) ∧
  -- every slot gets the codes, the scale and the metadata of its block
  (∀ (s : State) (twin n off : Nat) (e : Elem) (b : KBlock) (m : Option Nat), s.poison = [] →
    (writeSlot s twin n off e b m).mem = (s.setBytes (.bst (2 * twin + n / 64) (n % 64) off) (bytesOf e b.codes)).mem ∧
    (writeSlot s twin n off e b m).bscale = tputD s.bscale (bentry (2 * twin + n / 64) (n % 64) off) 0 (BitVec.ofNat 20 b.s20) ∧
    (writeSlot s twin n off e b m).bmeta =
      (match m with | some v => tputD s.bmeta (bentry (2 * twin + n / 64) (n % 64) off) 0 (BitVec.ofNat 64 v) | none => s.bmeta)) ∧
  (∀ (f : Fr) (s : State) (c : Ctx), Issues s f noNames none noEarly c →
    (c.act = 0 → exec (.rcfence f) s = .next (passed c f noNames)) ∧
    (c.act ≠ 0 → exec (.rcfence f) s = .next (flightNext c f []
      ((advance c f noNames).modCluster (clusterOf c.core) (fun k => { k with recs := [] })))))

/-- RECON, RECOFF, EBBSTAT and the end of an EBB: R267 to R270, R405, R413. -/
def Obligations.Recording : Prop :=
  (∀ (f : Fr) (d a : Reg) (s : State) (c : Ctx),
    let n := nameD d (reg2 a) none none
    let give (v : Nat) (s : State) : Out := .next (flightNext c f (c.outs [(d.toNat, fun _ => BitVec.ofNat 32 v)]) s)
    let addr := (c.reg2 a.toNat (lowest c.act)).toNat
    let log := (engOf (advance c f n) c.warp.blk c.split.priv c.core false).bind (fun e => openLog (advance c f n) e addr)
    Issues s f n none noEarly c → c.act ≠ 0 →
      (c.block.recording.isOpen = true → exec (.recon f d a) s = give 1 (advance c f n)) ∧
      (c.block.recording.isOpen = false → log = none → exec (.recon f d a) s = give 2 (advance c f n)) ∧
      (∀ t, c.block.recording.isOpen = false → log = some t →
        exec (.recon f d a) s = give 0 ((t.settle (advance c f n) (blockCores (advance c f n) c.warp.blk)).modBlock c.warp.blk (fun b => { b with recording := { isOpen := true, seg := addr, seq := 0, prod := [] } })))) ∧
  (∀ (f : Fr) (s : State) (c : Ctx), Issues s f noNames none noEarly c →
    let st := advance c f noNames
    let r := c.block.recording
    ((c.act = 0 ∨ r.isOpen = false) → exec (.recoff f) s = .next (passed c f noNames)) ∧
    (c.act ≠ 0 → r.isOpen = true → logPending c.pre c.warp.blk = true → WaitsAt (.recoff f) s c true false .none) ∧
    -- the segment's record count and its CLOSED bit are written
    (∀ e w t, c.act ≠ 0 → r.isOpen = true → logPending c.pre c.warp.blk = false →
      engOf st c.warp.blk c.split.priv c.core false = some e → engField st e r.seg 8 = .ok w →
      engAll (fun (p : Nat × Nat × Nat) s => engPut s e (r.seg + p.1) p.2.1 p.2.2)
        [(0x3C, 4, r.seq.toNat), (0, 8, w / 2 ^ 55 * 2 ^ 55 + 2 ^ 54 + w % 2 ^ 54)] st = .ok t →
      exec (.recoff f) s = .next (flightNext c f [] ((t.settle st (blockCores st c.warp.blk)).modBlock c.warp.blk (fun b => { b with recording := { b.recording with isOpen := false } }))))) ∧
  (∀ (f : Fr) (fld : EbbField) (d a : Reg) (s : State) (c : Ctx),
    let n := nameD d (reg2 a) none none
    let t := lowest c.act
    let va := c.reg2 a.toNat t + 0x3C
    let chks := [(t, resolve c .none .read false 4 4 t va)]
    Issues s f n none noEarly c → c.act ≠ 0 →
      (allOk chks = none → exec (.ebbstat f fld d a) s = .next (raiseTrap c f (firstBad chks).1 (firstBad chks).2 [(t, va)] none)) ∧
      (∀ x, allOk chks = some [x] →
        let st := atHome (noteTlb (advance c f n) c.core [x]) c.core x
        let wrem : Word := BitVec.ofNat 32 (ofBytes (st.bytes x.loc x.size))
        exec (.ebbstat f fld d a) s = .next (flightNext c f (c.outs [(d.toNat, fun _ => if fld = .rem then wrem else wrem - 1)]) st))) ∧
  (∀ (s : State) (twin : Nat) (x : ArrayOp) (r : Raft) (v : TileEnv) (f : Fr) (d a : Reg),
    (s.twin twin).ops.head? = some x → x.begun = true → x.instr = .ebb f d a → tget s.rafts x.raft = some r → tileEnv s r x.priv = some v →
      exec (.arrayOperationDone twin) s = .next (ebbDone s twin x r v d).bump ∧
      -- the walk stops between adjoint operations, and with its end D receives the status
      (∀ o t, r.ops.find? (fun o => decide (o.k = x.k)) = some o →
        walkStep s v (opAddr x.vals 0).toNat (x.vals.getD 9 0) = .ok (.more t) → ebbDone s twin x r v d = t.settle s (raftCores s r)) ∧
      (∀ o t st, r.ops.find? (fun o => decide (o.k = x.k)) = some o →
        walkStep s v (opAddr x.vals 0).toNat (x.vals.getD 9 0) = .ok (.done t st) → ebbDone s twin x r v d =
          popArray (o.issued.foldl (completeMember (tileNames x.instr) .access (fun c => c.outs [(d.toNat, fun _ => BitVec.ofNat 32 st)]))
            (dropOp (t.settle s (raftCores s r)) x.raft x.k)) twin))

/-! ### Key-value caches, roles, tile barriers (R196 to R206, R379 to R393) -/

namespace Sys2Proof.Claims

/-- The header that a key-value instruction finds through descriptor `k`, in the state `st`. -/
def FindsHeader (c : Ctx) (f : Fr) (n : Names) (k : BitVec 4) (st : State) (addr : Nat) (pol : Bool) (h : KvHdr) : Prop :=
  ∃ e, engOf (advance c f n) c.warp.blk c.split.priv c.core false = some e ∧ readHdr (advance c f n) e c.block k.toNat = .ok st addr pol h

/-- The words and sr.kvrm are written when the instruction completes: the bits of the threads that acted and whose status is 3. -/
def answered (c : Ctx) (f : Fr) (ws : List (Nat × Word)) (l : KvAnswers) (s : State) : Out :=
  .next (s.modWarp c.w (fun wp => { wp with flights := dropFlight wp.flights (ws.map (·.1)) ++
    [⟨fctr f, ws, c.pre.now + c.minLat, .kv (maskOf (c.doers.filter (fun t => decide ((kvAnswer l t).2 = 3))))⟩] }))

end Sys2Proof.Claims

/-- KVXLT, KVAPP, EXITTOK and BFWAIT: R199 to R204, R386, R387, R392. What KVAPP leaves in D where its status is 3 is a free value
(log entry 41); that under UNI = 1 sr.kvrm takes the lowest thread's bit alone is log entry 27, and either value where C lies in KVXLT's pair
D is log entry 11. -/
def Obligations.KeyValueInstructions : Prop :=
  (∀ (f : Fr) (d c2 a b : Reg) (x y : Src) (k : BitVec 4) (acq : Bool),
    Passes (.kvxlt f d c2 x y k acq) f ⟨srcN x 1, srcN y 1, none, [(d.toNat, 2), (c2.toNat, 1)]⟩ noEarly ∧
    Passes (.kvapp f d c2 x k) f ⟨srcN x 1, none, none, [(d.toNat, 1), (c2.toNat, 1)]⟩ noEarly ∧
    Passes (.exittok f d a b k) f (nameD d (reg1 a) (reg1 b) none) noEarly ∧ Passes (.bfwait f d a b k) f (nameD d (reg1 a) (reg1 b) none) noEarly) ∧
  (∀ (f : Fr) (d c2 : Reg) (a b : Src) (k : BitVec 4) (acq : Bool) (s : State) (c : Ctx) (st : State) (addr : Nat) (pol : Bool) (h : KvHdr),
    let n : Names := ⟨srcN a 1, srcN b 1, none, [(d.toNat, 2), (c2.toNat, 1)]⟩
    Issues s f n none noEarly c → c.act ≠ 0 → FindsHeader c f n k st addr pol h →
    let r := kvEach (fun s t =>
      let x := kvResolve s c.agent c.core h pol ((c.val a t).toNat % 2 ^ 20) ((c.val a t).toNat / 2 ^ 20) (c.val b t).toNat
      (x.1, BitVec.ofNat 64 x.2.1, x.2.2)) c.doers st
    let words := c.outs (pairOuts d (fun t => (kvAnswer r.2 t).1)) ++ c.outs [(c2.toNat, fun t => BitVec.ofNat 32 (kvAnswer r.2 t).2)]
    -- the address to the pair D and the status to C; where C is of the pair, either stays
    ∃ ws, exec (.kvxlt f d c2 a b k acq) s = answered c f ws r.2 (if acq then acquireAt c 5 r.1 else r.1) ∧
      (∀ p ∈ ws, p ∈ words) ∧ ∀ p ∈ words, ∃ q ∈ ws, q.1 = p.1) ∧
  (∀ (f : Fr) (d c2 : Reg) (a : Src) (k : BitVec 4) (s : State) (c : Ctx) (st : State) (addr : Nat) (pol : Bool) (h : KvHdr),
    let n : Names := ⟨srcN a 1, none, none, [(d.toNat, 1), (c2.toNat, 1)]⟩
    Issues s f n none noEarly c → c.act ≠ 0 → FindsHeader c f n k st addr pol h →
    -- a lane whose test meets a state word with a reserved value has status 3 and appends nothing
    let r := kvEach (fun s t =>
      let x := if tailReserved c.pre c.agent c.core h (c.val a t).toNat then (s, 0, 3) else appendLane s c.agent c.core h (c.val a t).toNat
      (x.1, BitVec.ofNat 64 x.2.1, x.2.2)) c.doers (releaseAt c 5 st)
    -- it does not act between the steps of an NCOW in progress
    (c.pre.cows ≠ [] → WaitsAt (.kvapp f d c2 a k) s c false false .none) ∧
    (c.pre.cows = [] → (∀ t ∈ c.doers, mustWait c.pre c.agent c.core h (c.val a t).toNat = false) →
      ∃ free : Nat → Word, exec (.kvapp f d c2 a k) s = answered c f
        (c.outs [(d.toNat, fun t => if (kvAnswer r.2 t).2 = 3 then free t else (kvAnswer r.2 t).1.extractLsb' 0 32),
                 (c2.toNat, fun t => BitVec.ofNat 32 (kvAnswer r.2 t).2)]) r.2 r.1) ∧
    (c.pre.cows = [] → (∃ t ∈ c.doers, mustWait c.pre c.agent c.core h (c.val a t).toNat = true) → WaitsAt (.kvapp f d c2 a k) s c true false .none)) ∧
  (∀ (f : Fr) (d a b : Reg) (k : BitVec 4) (s : State) (c : Ctx) (st : State) (addr : Nat) (pol : Bool) (h : KvHdr),
    let n : Names := nameD d (reg1 a) (reg1 b) none
    Issues s f n none noEarly c → c.act ≠ 0 → FindsHeader c f n k st addr pol h →
    let die := dieOf c.core
    let layer (t : Nat) : Nat := (c.reg b.toNat t).toNat % 4096
    let slots := c.doers.filterMap (fun t =>
      match exitPlan c.pre c.agent c.core h (c.reg a.toNat t).toNat (layer t) with
      | .post _ _ _ _ slot => some slot
      | .status _ => none)
    let r := kvEach (fun s t => let x := exitLane s c.agent c.core die addr h (c.reg a.toNat t).toNat (layer t); (x.1, 0, x.2)) c.doers (releaseAt c 5 st)
    let w := kvEach (fun s t =>
      let v := c.reg a.toNat t
      let x := kvResolve s c.agent c.core h true (v.toNat % 2 ^ 20) (v.toNat / 2 ^ 20) (c.reg b.toNat t).toNat
      (x.1, 0, x.2.2)) c.doers st
    let status (l : KvAnswers) : List (Nat × Word) := c.outs [(d.toNat, fun t => BitVec.ofNat 32 (kvAnswer l t).2)]
    (h.bfl = 0 → exec (.exittok f d a b k) s = .next (raiseTrap c f 0x08 c.act [] none)) ∧
    (h.bfl ≠ 0 → (∀ x ∈ slots, slotBusy c.pre c.asid x = false) → (slots = [] ∨ (c.pre.die die).exits.length + slots.eraseDups.length ≤ 4096) →
      exec (.exittok f d a b k) s = answered c f (status r.2) r.2 (fillBatches die 2 r.1)) ∧
    (h.bfl ≠ 0 → (∃ x ∈ slots, slotBusy c.pre c.asid x = true) → WaitsAt (.exittok f d a b k) s c false false .none) ∧
    -- BFWAIT waits while an entry is PROVISIONAL
    ((∀ p ∈ w.2, p.2.2 ≠ 2) → exec (.bfwait f d a b k) s = answered c f (status w.2) w.2 (acquireAt c 5 w.1)) ∧
    ((∃ p ∈ w.2, p.2.2 = 2) → WaitsAt (.bfwait f d a b k) s c true false .none))

/-- What a key-value entry resolves to: R386, from the directory entry `d`, the page `p` and the state word `v`. -/
def Obligations.EntryResolution : Prop :=
  ∀ (s : State) (x : Agent) (core : Nat) (h : KvHdr) (pol : Bool) (seq layer pos : Nat),
    ((h.nseq ≤ seq ∨ h.layers ≤ layer) → kvResolve s x core h pol seq layer pos = (s, 0, 3)) ∧
    (∀ s1 d, seq < h.nseq → layer < h.layers → readDir s x core h seq = .ok (s1, d) →
      (d.len ≤ pos → kvResolve s x core h pol seq layer pos = (s1, 0, 4)) ∧
      (pos < d.len → ∀ s2 p s3 v, pageOf s1 x core h d layer pos = .ok (s2, p) → kvWord s2 x core (h.entryAt p pos) = .ok (s3, v) →
        -- a word with a reserved value in a field
        ((2 ≤ v % 4 ∨ v / 8 % 2 = 1 ∨ v / 65536 ≠ 0) → kvResolve s x core h pol seq layer pos = (s3, 0, 3)) ∧
        (v / 8 % 2 = 0 → v / 65536 = 0 →
          -- FINAL; PROVISIONAL under the policy that waits; PROVISIONAL read through its alias layer
          (v % 4 = 0 → kvResolve s x core h pol seq layer pos = (s3, h.pool + p * 256 * h.esz + pos % 256 * h.esz + 16, 0)) ∧
          (v % 4 = 1 → pol = true → kvResolve s x core h pol seq layer pos = (s3, h.pool + p * 256 * h.esz + pos % 256 * h.esz + 16, 2)) ∧
          (∀ s4 q, v % 4 = 1 → pol = false → v / 16 % 4096 < h.layers → pageOf s3 x core h d (v / 16 % 4096) pos = .ok (s4, q) →
            kvResolve s x core h pol seq layer pos = (s4, h.pool + q * 256 * h.esz + pos % 256 * h.esz + 16, 1)))))

/-- ROLE, TBAR and CFTEST: R196 to R198, R206. -/
def Obligations.RolesAndTileBarriers : Prop :=
  (∀ (f : Fr) (d : Reg), FixedWrites (.roleGet f d) f (nameD d none none none) (4, 2) (fun c => [(d.toNat, fun _ => BitVec.ofNat 32 c.warp.role.code)])) ∧
  (∀ (f : Fr) (role : Role) (s : State) (c : Ctx), Issues s f noNames (some (4, 2)) noEarly c →
    let st := fixedNext c f noNames (4, 2) [] Health.none
    (c.act = 0 → exec (.roleSet f role) s = .next st) ∧
    (c.act ≠ 0 → exec (.roleSet f role) s = .next (st.modSplit c.w c.ent (fun sp =>
      { sp with spend := sp.spend ++ [⟨.role, c.pre.free, BitVec.ofNat 64 role.code, c.split.nd + c.lat 4 2⟩] })))) ∧
  (∀ (f : Fr) (d a : Reg) (k : BitVec 4) (s : State) (c : Ctx),
    let n := nameD d (reg1 a) none none
    let v := (c.reg a.toNat (lowest c.act)).toNat % 65536
    let x := c.block.tbar k.toNat
    let st := advance c f n
    let give (w : Nat) (s : State) : Out := .next (flightNext c f (c.outs [(d.toNat, fun _ => BitVec.ofNat 32 w)]) s)
    let invalid : Out := .next (raiseTrap c f 0x08 c.act [] none)
    let arrive (j : Nat) (s : State) : State := (releaseAt c 1 s).modTBar c.warp.blk k.toNat (fun y => y.arrive j)
    Issues s f n none noEarly c → c.act ≠ 0 → c.handler = false →
      exec (.tbarInit f d a k) s = (if v = 0 then invalid else give 0 (st.modTBar c.warp.blk k.toNat (fun _ => ⟨v, v, 0⟩))) ∧
      exec (.tbarArrive f d a k) s =
        (if v = 0 then give x.phn (releaseAt c 1 st) else if x.exp = 0 then invalid else give x.phn (arrive v st)) ∧
      (x.exp ≠ 0 → x.done v = true → exec (.tbarWait f d a k) s = give x.phn (acquireAt c 1 st)) ∧
      (¬ (x.exp ≠ 0 ∧ x.done v = true) → WaitsAt (.tbarWait f d a k) s c true false .none) ∧
      (c.split.arrived = false → x.exp = 0 → exec (.tbarArwt f d a k) s = invalid) ∧
      (c.split.arrived = false → x.exp ≠ 0 → (x.arrive 1).done x.phn = true →
        exec (.tbarArwt f d a k) s = give (x.arrive 1).phn (acquireAt c 1 (arrive 1 st))) ∧
      (c.split.arrived = false → x.exp ≠ 0 → (x.arrive 1).done x.phn = false → WaitsAt (.tbarArwt f d a k) s c true true (.tile x.phn)) ∧
      (c.split.arrived = true → x.done c.split.phase.num = true → exec (.tbarArwt f d a k) s = give x.phn (acquireAt c 1 st))) ∧
  -- arrivals count down, and the one that reaches 0 ends the phase
  (∀ x : TBar, x.exp ≠ 0 → 1 ≤ x.rem →
    (∀ k, k < x.rem → x.arrive k = { x with rem := x.rem - k }) ∧ x.arrive x.rem = ⟨x.exp, x.exp, (x.phn + 1) % 65536⟩) ∧
  (∀ x : TBar, x.phn < 65536 → x.done x.phn = false ∧ x.done ((x.phn + 65535) % 65536) = true) ∧
  (∀ (f : Fr) (d : Reg) (a b x : Src), FixedWrites (.cftest f d a b x) f (nameD2 d (src1 a) (src1 b) (src1 x)) (40, 20) (fun c =>
    let p := topProbability (c.threads.map (fun t => (c.val a t, c.val b t)))
    let thr := numOf (c.val x (lowest c.act))
    if d = 0 then [] else
      [(d.toNat, fun _ => if !(numOf p).isNan && !thr.isNan && !Machine.Num.lt (numOf p) thr then 1 else 0), (d.toNat + 1, fun _ => p)]))

/-! ### Migration, near-memory commands, queues, launches and collectives as instructions see them (R271, R272, R278 to R282) -/

/-- MIGR and PORTAGE: R271, R272, R430. -/
def Obligations.MigrationRequests : Prop :=
  (∀ (f : Fr) (d : Reg) (s : State) (c : Ctx),
    let n := nameD d none none none
    let give (held v : Nat) : Out := .next (flightNext c f (c.outs [(d.toNat, fun _ => BitVec.ofNat 32 v)])
      ((advance c f n).modWarp c.w (fun wp => { wp with migr := held })))
    Issues s f n none noEarly c →
      (c.act = 0 → exec (.migrRiffle f d) s = .next (passed c f n) ∧ exec (.migrReach f d) s = .next (passed c f n) ∧
        exec (.migrCancel f d) s = .next (passed c f n)) ∧
      (c.act ≠ 0 →
        exec (.migrRiffle f d) s = (if c.riffle then give c.warp.migr 1 else if c.launch.record.entf = 0 then give c.warp.migr 2 else give 1 0) ∧
        exec (.migrReach f d) s = (if c.riffle = false then give c.warp.migr 1 else if c.launch.record.entr = 0 then give c.warp.migr 2 else give 2 0) ∧
        exec (.migrCancel f d) s = (if c.warp.migr = 0 then give 0 1 else give 0 0))) ∧
  (∀ (f : Fr) (v : Word) (s : State) (c : Ctx), Issues s f noNames none noEarly c →
    let st := passed c f noNames
    (c.act = 0 → exec (.portage f v) s = .next st) ∧
    (c.act ≠ 0 → 0xFFFF ≤ v.toNat → exec (.portage f v) s = .next (raiseTrap c f 0x0B c.act [] none)) ∧
    (∀ t, c.act ≠ 0 → v.toNat < 0xFFFF → findPortage c v.toNat st = .ok (t, none) →
      exec (.portage f v) s = .next (raiseTrap c f 0x0B c.act [] none)) ∧
    (∀ t p, c.act ≠ 0 → v.toNat < 0xFFFF → findPortage c v.toNat st = .ok (t, some p) →
      let t1 := t.modWarp c.w (fun wp => { wp with panch := v.setWidth 16, pcr := p.pcr, pcf := p.pcf })
      -- no request that can be met: the warp goes on
      ((mayMigrate c = false ∨ landingOf c f p = none) → exec (.portage f v) s = .next t1) ∧
      -- otherwise its place is taken, and it waits to move
      (∀ x, mayMigrate c = true → landingOf c f p = some x →
        exec (.portage f v) s = .next ((t1.modWarp c.w (fun wp => { wp with landing := some x })).modSplit c.w c.ent (fun sp =>
          { sp with wait := some .moving })) ∧
        x.core ∈ targetCores c ∧ x.pc = (if isRiffle x.core then p.pcf else p.pcr) + BitVec.ofNat 64 (flen f))) ∧
    -- the request and the state that a migration needs
    (mayMigrate c = true → c.warp.migr = (if c.riffle then 2 else 1) ∧ c.warp.splits.length = 1 ∧ c.warp.raft = none ∧ c.warp.xl = false ∧
      c.split.rets = [] ∧ c.split.spilled = 0 ∧ c.handler = false))

namespace Sys2Proof.Claims

/-- The issue-time test of NMQ: a level that the launch does not declare, or a scope that is or is bound to FABRIC, is illegal. -/
def nmqEarly (scope : Scope) (c : Ctx) : Option Nat :=
  match levelEarly scope c with
  | some k => some k
  | none =>
    match scopeLevel scope with
    | some k => if lvlDom (c.launch.record.levels'.getD k 0) = 7 then some 0x01 else none
    | none => if scope = .fab then some 0x01 else none

end Sys2Proof.Claims

/-- NMQ and NMWAIT: R278, R279. -/
def Obligations.NearMemoryPosts : Prop :=
  (∀ (f : Fr) (d a : Reg) (scope : Scope),
    Passes (.nmq f d a scope) f (nameD d (regN a 4) none none) (nmqEarly scope) ∧
    Passes (.nmwaitWait f d a) f (nameDN d 4 (reg1 a) none none) noEarly ∧ Passes (.nmwaitTest f d a) f (nameDN d 4 (reg1 a) none none) noEarly) ∧
  (∀ (f : Fr) (d a : Reg) (scope : Scope) (s : State) (c : Ctx),
    let n := nameD d (regN a 4) none none
    let us := nmTargets c a
    -- the leaves of ARG enter the core's TLB behind the release; a unit's queue holds commands not yet divided and parts, 256 in all
    let r := nmSendAll c a scope c.doers (noteArgs c a (releaseAt c (c.scope scope) (advance c f n)))
    Issues s f n none (nmqEarly scope) c → c.act ≠ 0 →
      (c.warp.handles.length + c.doers.length ≤ 64 → (∀ u ∈ us, c.pre.nmuFill u + us.count u ≤ 256) →
        exec (.nmq f d a scope) s = .next (flightNext c f (c.outs [(d.toNat, wordFor r.2)]) r.1)) ∧
      ((64 < c.warp.handles.length + c.doers.length ∨ ∃ u ∈ us, 256 < c.pre.nmuFill u + us.count u) →
        WaitsAt (.nmq f d a scope) s c false false .none)) ∧
  (∀ (f : Fr) (d a : Reg) (wait : Bool) (s : State) (c : Ctx),
    let n := nameDN d 4 (reg1 a) none none
    let i : Instr := if wait then .nmwaitWait f d a else .nmwaitTest f d a
    let busy (t : Nat) : Prop := ∃ x ∈ c.warp.handles, x.num = c.reg a.toNat t ∧ x.record = none
    let r := nmDeliver c a c.doers c.warp.handles
    let record (t : Nat) : BitVec 128 := ((r.2.1.find? (fun p => decide (p.1 = t))).map (·.2)).getD 0
    Issues s f n none noEarly c → c.act ≠ 0 →
      ((wait = false ∨ ∀ t ∈ c.doers, ¬ busy t) → exec i s = .next (flightNext c f
        (c.outs ((List.range 4).map (fun k => ((d.toNat + k, fun t => (record t).extractLsb' (32 * k) 32) : Nat × (Nat → Word)))))
        (r.2.2.foldl (fun s x => acquireAt c (c.scope x) s) ((advance c f n).modWarp c.w (fun wp => { wp with handles := r.1 }))))) ∧
      (wait = true → (∃ t ∈ c.doers, busy t) → WaitsAt i s c true false .none)) ∧
  -- a handle that is not held, one whose command runs, and a completed one, which is given up
  (∀ (c : Ctx) (a : Reg) (t : Nat) (hs : List Handle),
    (hs.find? (fun x => decide (x.num = c.reg a.toNat t)) = none → nmDeliver c a [t] hs = (hs, [(t, nmRecord 0xFE 0 0 0 0)], [])) ∧
    (∀ x, hs.find? (fun x => decide (x.num = c.reg a.toNat t)) = some x →
      (x.record = none → nmDeliver c a [t] hs = (hs, [(t, nmRecord 0xFF 0 0 0 0)], [])) ∧
      (∀ r, x.record = some r → nmDeliver c a [t] hs = (hs.filter (fun y => decide (y.num ≠ c.reg a.toNat t)), [(t, r)], [x.scope])))) ∧
  (∀ (status cmd : Nat) (r0 r1 detail : Word), status < 256 → cmd < 64 →
    let r := nmRecord status cmd r0 r1 detail
    (r.extractLsb' 0 8).toNat = status ∧ (r.extractLsb' 8 6).toNat = cmd ∧ r.extractLsb' 14 18 = 0 ∧ r.extractLsb' 32 32 = r0 ∧
    r.extractLsb' 64 32 = r1 ∧ r.extractLsb' 96 32 = detail)

/-- TQPOP and TQPUSH: R280, R447. -/
def Obligations.ItemQueues : Prop :=
  (∀ (f : Fr) (d a b : Reg), Passes (.tqpopTry f d a) f (nameD2 d (reg1 a) none none) noEarly ∧
    Passes (.tqpopWait f d a) f (nameD2 d (reg1 a) none none) noEarly ∧ Passes (.tqpushTry f d a b) f (nameD d (reg1 a) (reg2 b) none) noEarly ∧
    Passes (.tqpushWait f d a b) f (nameD d (reg1 a) (reg2 b) none) noEarly ∧ Passes (.tqpushClose f d a) f (nameD d (reg1 a) none none) noEarly) ∧
  (∀ (f : Fr) (d a b : Reg) (wait : Bool) (s : State) (c : Ctx),
    let q := c.queueOf a
    let pop : Instr := if wait then .tqpopWait f d a else .tqpopTry f d a
    let push : Instr := if wait then .tqpushWait f d a b else .tqpushTry f d a b
    let np := nameD2 d (reg1 a) none none
    let nq := nameD d (reg1 a) (reg2 b) none
    let nc := nameD d (reg1 a) none none
    let give (v : DWord) (s : State) : Out := .next (flightNext c f (c.outs (pairOuts d (fun _ => v))) (acquireAt c 5 s))
    let answer (v : Word) (s : State) : Out := .next (flightNext c f (c.outs [(d.toNat, fun _ => v)]) s)
    (Issues s f np none noEarly c → c.act ≠ 0 →
      (itemQueue c.pre c.asid q = false → exec pop s = .next (raiseTrap c f 0x03 c.act [] none)) ∧
      (itemQueue c.pre c.asid q = true →
        -- a block placed anew receives again what it had last popped
        (∀ v, tget c.block.again q = some v → exec pop s = give v
          ((advance c f np).modBlock c.warp.blk (fun b => { b with again := tdel b.again q, popped := tput b.popped q v }))) ∧
        (∀ t v, tget c.block.again q = none → popQueue (advance c f np) q = (t, some v) →
          exec pop s = give v (t.modBlock c.warp.blk (fun b => { b with popped := tput b.popped q v }))) ∧
        -- an empty queue: all ones, but for .wait while it is open
        (∀ t, tget c.block.again q = none → popQueue (advance c f np) q = (t, none) →
          ((wait = false ∨ (c.pre.queue q).closed = true) → exec pop s = give (BitVec.allOnes 64) t) ∧
          (wait = true → (c.pre.queue q).closed = false →
            exec pop s = .next ((takeSlot c f np (if c.split.counted then (popQueue c.pre q).1 else counted c f (popQueue c.pre q).1)).modSplit c.w c.ent
              (fun sp => { sp with wait := some (.op true false .none) })).bump)))) ∧
    (Issues s f nq none noEarly c → c.act ≠ 0 → itemQueue c.pre c.asid q = true →
      let st := releaseAt c 5 (advance c f nq)
      (∀ t, pushQueue st q (c.reg2 b.toNat (lowest c.act)) = .done t → exec push s = answer 0 t) ∧
      (∀ t, pushQueue st q (c.reg2 b.toNat (lowest c.act)) = .refused t → exec push s = answer 2 t) ∧
      (pushQueue st q (c.reg2 b.toNat (lowest c.act)) = .full → wait = false → exec push s = answer 1 st) ∧
      (pushQueue st q (c.reg2 b.toNat (lowest c.act)) = .full → wait = true → WaitsAt push s c true false .none)) ∧
    (Issues s f nc none noEarly c → c.act ≠ 0 → itemQueue c.pre c.asid q = true →
      exec (.tqpushClose f d a) s = answer (if (c.pre.queue q).closed then 2 else 0)
        ((releaseAt c 5 (advance c f nc)).modQueue q (fun x => { x with closed := true })))) ∧
  -- a closed queue and the reserved item refuse a push, a full one holds it up, and a push goes to the slot at TAIL
  (∀ (s : State) (q : Nat) (v : DWord),
    ((s.queue q).closed = true ∨ v = BitVec.allOnes 64 → pushQueue s q v = .refused s) ∧
    ((s.queue q).closed = false → v ≠ BitVec.allOnes 64 → (s.queue q).depth ≤ ((s.queue q).tail - (s.queue q).head).toNat → pushQueue s q v = .full) ∧
    (∀ t, (s.queue q).closed = false → v ≠ BitVec.allOnes 64 → ((s.queue q).tail - (s.queue q).head).toNat < (s.queue q).depth →
      ringWrite s q (s.queue q).tail v = .ok t → pushQueue s q v = .done (t.modQueue q (fun x => { x with tail := x.tail + 1 }))) ∧
    (∀ w, (s.queue q).tail ≠ (s.queue q).head → ringRead s q (s.queue q).head = .ok w → w ≠ BitVec.allOnes 64 →
      popQueue s q = (s.modQueue q (fun x => { x with head := x.head + 1 }), some w)))

/-- LAUNCH and COLL: R281, R282, R446, R513. The order in which LAUNCH tries its statuses is the model's choice (log entry 47); that a
descriptor of COLL which cannot be read traps is log entry 104. -/
def Obligations.LaunchesAndCollectives : Prop :=
  (∀ (f : Fr) (op : CollOp) (d a : Reg) (b : Src), Passes (.launch f d a) f (nameD d (reg2 a) none none) noEarly ∧
    Passes (.coll f op d a b) f (nameD d (reg2 a) (srcN b 1) none) noEarly) ∧
  (∀ (f : Fr) (d a : Reg) (s : State) (c : Ctx),
    let n := nameD d (reg2 a) none none
    let addr := (c.reg2 a.toNat (lowest c.act)).toNat
    let post (u : State) : Posted := postLaunch (releaseAt c 5 u) c.asid c.ctx.world addr
    Issues s f n none noEarly c → c.act ≠ 0 → c.split.arrived = false →
      (∀ v t, post (advance c f n) = .status v t →
        exec (.launch f d a) s = .next (flightNext c f (c.outs [(d.toNat, fun _ => BitVec.ofNat 32 v)]) t)) ∧
      -- a launch of a group waits for its members
      (∀ k t k' t', post (advance c f n) = .await k t → post c.pre = .await k' t' →
        exec (.launch f d a) s = .next ((takeSlot c f n (if c.split.counted then t' else counted c f t')).modSplit c.w c.ent (fun sp =>
          { sp with wait := some (.op true true (.launch k)) })).bump)) ∧
  -- what a post comes to: a record that cannot be read, a queue that is not the context's, a full ring, a refused record, or acceptance
  (∀ (s : State) (asid : Nat) (world : Bool) (addr : Nat),
    (recordBytes s asid addr = none → postLaunch s asid world addr = .status 2 s) ∧
    (∀ bs, recordBytes s asid addr = some bs →
      let r := parseRecord bs
      let q := s.queue r.queue
      let allowed : Prop := q.bound = true ∧ q.item = false ∧ q.asid = asid ∧ isBackwater r.queue = false ∧ (r.wld = true → world = true)
      (¬ allowed → postLaunch s asid world addr = .status 3 s) ∧
      (allowed → q.depth ≤ (q.tail - q.head).toNat → postLaunch s asid world addr = .status 1 s) ∧
      (allowed → (q.tail - q.head).toNat < q.depth → acceptRecord s asid r.queue addr bs = none → postLaunch s asid world addr = .status 2 s) ∧
      (∀ l t, allowed → (q.tail - q.head).toNat < q.depth → acceptRecord s asid r.queue addr bs = some l → l.group = none →
        ringWrite s r.queue q.tail (BitVec.ofNat 64 addr) = .ok t →
        postLaunch s asid world addr = .status 0 ((addLaunch t l).modQueue r.queue (fun q => { q with tail := q.tail + 1 }))))) ∧
  (∀ (f : Fr) (op : CollOp) (d a : Reg) (b : Src) (s : State) (c : Ctx),
    let n := nameD d (reg2 a) (srcN b 1) none
    let t := lowest c.act
    let va := c.reg2 a.toNat t
    let give (v : Nat) (s : State) : Out := .next (flightNext c f (c.outs [(d.toNat, fun _ => BitVec.ofNat 32 v)]) s)
    let chks := [(t, resolve c .none .read false 64 1 t va)]
    Issues s f n none noEarly c → c.act ≠ 0 →
      (va.toNat % 64 ≠ 0 → exec (.coll f op d a b) s = give 1 (releaseAt c 6 (advance c f n))) ∧
      (va.toNat % 64 = 0 → allOk chks = none →
        exec (.coll f op d a b) s = .next (raiseTrap c f (firstBad chks).1 (firstBad chks).2 [(t, va)] none)) ∧
      (∀ y, va.toNat % 64 = 0 → allOk chks = some [y] →
        let r := readHome c.core [y] (noteTlb (releaseAt c 6 (advance c f n)) c.core [y])
        let x : Collective := { asid := c.asid, priv := c.split.priv, addr := va.toNat, seed := c.ctx.seed, op := op, count := (c.val b t).toNat,
                                desc := r.1.bytes y.loc y.size, index := 0, begun := false }
        (collOk c.pre x = false → exec (.coll f op d a b) s = give 1 r.1) ∧
        (collOk c.pre x = true → (c.pre.die (dieOf c.core)).colls = [] →
          let k := ((tget r.1.groups x.gid).map (·.posted)).getD 0
          let u : State := { r.1 with groups := tmod r.1.groups x.gid (fun g => { g with posted := g.posted + 1 }) }
          exec (.coll f op d a b) s = give 0 (u.modDie (dieOf c.core) (fun y => { y with colls := y.colls ++ [{ x with index := k }] })))))

/-! ### What ends: results, operations, waits, warps (R63 to R70, R256 to R259, R298, R319, R531) -/

/-- RESULT_WRITEBACK, INSTRUCTION_COMPLETION and MINIMUM_LATENCY_RELEASE: R63, R68, R70, R104, R149, R193. -/
def Obligations.ResultsAndCompletions : Prop :=
  -- the first result of a warp that is due: its counter moves, its events are counted; before one is due nothing completes
  (∀ (s : State) (w i : Nat) (wp : Warp) (x : Fixed), tget s.warps w = some wp → wp.fixed[i]? = some x → x.due ≤ s.now →
    (∀ j y, j < i → wp.fixed[j]? = some y → s.now < y.due) →
    exec (.resultWriteback w) s = .next (countHealth (s.modWarp w (fun wp => ({ wp with fixed := dropAt wp.fixed i }).decCtr x.ctr)) wp.blk ⟨x.sat, x.zero⟩)) ∧
  (∀ (s : State) (w : Nat) (wp : Warp), tget s.warps w = some wp → (∀ y ∈ wp.fixed, s.now < y.due) →
    exec (.resultWriteback w) s = .refused .notEnabled) ∧
  -- an operation of variable latency, once its time has come: its registers are written, then its counter moves
  (∀ (s : State) (w k : Nat) (wp : Warp) (x : Flight), tget s.warps w = some wp → wp.flights[k]? = some x → x.due ≤ s.now →
    let t := (s.landWords w x.regs).modWarp w (fun wp => ({ wp with flights := dropAt wp.flights k }).decCtr x.ctr)
    (x.kind = .access → exec (.instructionCompletion w k) s = .next t) ∧
    -- a key-value instruction rewrites sr.kvrm when it completes
    (∀ lost, x.kind = .kv lost → exec (.instructionCompletion w k) s = .next (t.modWarp w (fun wp => { wp with kvrm := lost }))) ∧
    (∀ num, x.kind = .load num → exec (.instructionCompletion w k) s = .next (loadDone t (wp.core / 2) num).bump) ∧
    (x.kind = .minimum → exec (.minimumLatencyRelease w k) s = .next t)) ∧
  (∀ (s : State) (w k : Nat) (wp : Warp) (x : Flight), tget s.warps w = some wp → wp.flights[k]? = some x → s.now < x.due →
    exec (.instructionCompletion w k) s = .refused .notEnabled ∧ exec (.minimumLatencyRelease w k) s = .refused .notEnabled)

/-- IN_WARP_TRAP_ENTRY, SPLIT_AGED, YIELD_RELEASE, ILLEGAL_INSTRUCTION, FETCH_FAULT, L1_EVICTION, BLOCK_HEALTH_FLUSH and WARP_END:
R81, R83, R256, R257, R259, R298, R319, R531. -/
def Obligations.EndsAndReleases : Prop :=
  -- the oldest trap that waits enters its handler when none runs
  (∀ (s : State) (w : Nat) (wp : Warp) (x : Trap) (r : List Trap) (c : Ctx), tget s.warps w = some wp → wp.traps = x :: r →
    s.issuerOf w x.ent = .ok c → wp.inHandler = false → (c.gang.state = .running ∨ c.gang.state = .stopping) → (s.core wp.core).stopped = false →
    exec (.inWarpTrapEntry w) s = .next (enterHandler (s.modWarp w (fun wp => { wp with traps := r })) w c.ctx.tvec x 0)) ∧
  (∀ (s : State) (w ent : Nat) (sp : Split), splitAt s w ent = some sp →
    (64 ≤ sp.passed → sp.aged = none → exec (.splitAged w ent) s = .next (s.modSplit w ent (fun sp => { sp with aged := some s.now }))) ∧
    (sp.passed < 64 ∨ sp.aged ≠ none → exec (.splitAged w ent) s = .refused .notEnabled) ∧
    (∀ y, sp.yield = some y →
      (y.others = [] ∨ y.limit ≤ s.now → exec (.yieldRelease w ent) s = .next (s.modSplit w ent (fun sp => { sp with yield := none }))) ∧
      (y.others ≠ [] → s.now < y.limit → exec (.yieldRelease w ent) s = .refused .notEnabled))) ∧
  -- a fetch that gives no instruction traps, at the pc of the split: 0x01 for a word that is none, the fetch's own cause otherwise
  (∀ (s : State) (w ent k : Nat) (c : Ctx), s.issuerOf w ent = .ok c → fetch s c = .error k → gate c plainFr = true → c.split.wait = none →
    let trap : Out := .next (raiseTrap c plainFr k c.split.mask ((threadsOf c.split.mask).map (fun t => (t, c.split.pc))) none).bump
    (k = 0x01 → exec (.illegalInstruction w ent) s = trap) ∧ (k ≠ 0x01 → exec (.fetchFault w ent) s = trap)) ∧
  (∀ (s : State) (core k : Nat) (x : L1Line), (s.core core).l1[k]? = some x → exec (.l1Eviction core k) s = .next (flushLine s core x.line true)) ∧
  (∀ (s : State) (b : Nat) (x : Block), tget s.blocks b = some x →
    (65536 ≤ x.satc ∨ 65536 ≤ x.zeroc → exec (.blockHealthFlush b) s = .next (flushHealth s b)) ∧
    (x.satc < 65536 → x.zeroc < 65536 → exec (.blockHealthFlush b) s = .refused .notEnabled)) ∧
  -- a warp ends when all its threads have exited and nothing of it is under way; its block with the last of its warps
  (∀ (s : State) (w : Nat) (wp : Warp) (b : Block) (g : Gang), tget s.warps w = some wp → tget s.blocks wp.blk = some b →
    tget s.gangs b.gang = some g → (g.state = .running ∨ g.state = .stopping) → (s.core wp.core).stopped = false →
    wp.ending = true → wp.settled = true → s.hasCmds w = false →
    (∀ rid r, wp.raft = some rid → tget s.rafts rid = some r → ∀ o ∈ r.ops, ∀ m ∈ o.issued, m.warp ≠ w) →
    -- it leaves its raft; its slot is not used anew while its block runs, and a warp that has moved away is counted
    let s1 := leaveRaft (if wp.xl then freeExt w s else s) w
    let s2 : State := { s1 with warps := tdel s1.warps w }
    let s3 := barriersAfter (s2.modBlock wp.blk (fun b =>
      if wp.core = b.core then { b with spent := b.spent ++ [wp.slot] } else { b with gone := b.gone + 1 })) wp b
    exec (.warpEnd w) s = .next (if (s3.warpsOfBlock wp.blk).isEmpty then blockEnds s3 wp.blk b else s3).bump) ∧
  (∀ (s : State) (w : Nat) (wp : Warp) (b : Block), tget s.warps w = some wp → tget s.blocks wp.blk = some b →
    (wp.ending = false ∨ wp.settled = false ∨ s.hasCmds w = true) → exec (.warpEnd w) s = .refused .notEnabled)

namespace Sys2Proof.Claims

/-- Split `ent` of warp `w` waits at the instruction `i`, performed again as the issuer `c`. -/
def Waiting (i : Instr) (s : State) (w ent : Nat) (f : Fr) (n : Names) (early : Ctx → Option Nat) (c : Ctx) : Prop :=
  Issues { s with cur := (w, ent) } f n none early c ∧
  ∃ c0 a b p z, s.issuerOf w ent = .ok c0 ∧ c0.split.wait = some (.op a b p) ∧ fetch s c0 = .ok (z, i)

/-- The event completes the instruction, as the instruction itself does. -/
def Completes (e i : Instr) (s : State) (w ent : Nat) : Prop := ∃ t, exec e s = .next t ∧ exec i { s with cur := (w, ent) } = .next t

end Sys2Proof.Claims

/-- WAITV_SATISFIED, FLUME_WAIT_SATISFIED, DISBAND_COMPLETE, KVAPP_PROCEED and BFWAIT_SATISFIED: a waiting instruction completes once its
condition holds, and not before (R172, R202, R204, R234, R262). -/
def Obligations.WaitingInstructionsComplete : Prop :=
  (∀ (s : State) (w ent : Nat) (f : Fr) (c : Ctx) (d a : Reg) (off : Word) (x : Src) (spc : Space) (sz : Size) (scope : Scope) (ne : Bool),
    let n := nameDN d (szRegs sz) (reg2 a) none (srcN x (szRegs sz))
    let i : Instr := .waitv f d a off x spc sz scope ne
    Waiting i s w ent f n (levelEarly scope) c → c.act ≠ 0 →
    ∀ as, allOk (plainChks spc .read (szBytes sz) (fun c => c.ea a off) c) = some as →
      -- the words still to be read
      let todo := as.filter (fun a => !(c.got.any (fun p => decide (p.1 = a.t))))
      let r := readHome c.core todo (noteTlb (advance c f n) c.core todo)
      (waitvHolds c sz x ne r.2 = true → Completes (.waitvSatisfied w ent) i s w ent) ∧
      (waitvHolds c sz x ne r.2 = false → exec (.waitvSatisfied w ent) s = .refused .notEnabled)) ∧
  (∀ (s : State) (w ent : Nat) (f : Fr) (c : Ctx) (d a : Reg) (k : BitVec 4) (x : Flume),
    let n := nameD d (reg1 a) none none
    let v := (c.reg a.toNat (lowest c.act)).toNat
    let early (c : Ctx) : Option Nat := if k.toNat < c.block.flumes.length then none else some 0x01
    c.act ≠ 0 → c.block.flumes[k.toNat]? = some x → v ≤ x.depth →
      (Waiting (.flwaitData f d a k) s w ent f n early c →
        (x.rin + v ≤ (x.p - x.q).toNat → Completes (.flumeWaitSatisfied w ent) (.flwaitData f d a k) s w ent) ∧
        ((x.p - x.q).toNat < x.rin + v → exec (.flumeWaitSatisfied w ent) s = .refused .notEnabled)) ∧
      (Waiting (.flwaitRoom f d a k) s w ent f n early c →
        (x.rout + v ≤ x.depth - (x.p - x.q).toNat → Completes (.flumeWaitSatisfied w ent) (.flwaitRoom f d a k) s w ent) ∧
        (x.depth - (x.p - x.q).toNat < x.rout + v → exec (.flumeWaitSatisfied w ent) s = .refused .notEnabled))) ∧
  (∀ (s : State) (w ent : Nat) (f : Fr) (c : Ctx) (id : Nat) (r : Raft), Waiting (.disband f) s w ent f noNames reachOnly c → c.act ≠ 0 →
    c.raft? = some (id, r) →
      ((∀ o ∈ r.ops, ∀ m ∈ o.issued, m.warp ≠ c.w) → Completes (.disbandComplete w ent) (.disband f) s w ent) ∧
      ((∃ o ∈ r.ops, ∃ m ∈ o.issued, m.warp = c.w) → exec (.disbandComplete w ent) s = .refused .notEnabled)) ∧
  (∀ (s : State) (w ent : Nat) (f : Fr) (c : Ctx) (d c2 : Reg) (a : Src) (k : BitVec 4) (st : State) (addr : Nat) (pol : Bool) (h : KvHdr),
    let n : Names := ⟨srcN a 1, none, none, [(d.toNat, 1), (c2.toNat, 1)]⟩
    Waiting (.kvapp f d c2 a k) s w ent f n noEarly c → c.act ≠ 0 → FindsHeader c f n k st addr pol h →
      ((∀ t ∈ c.doers, mustWait c.pre c.agent c.core h (c.val a t).toNat = false) → Completes (.kvappProceed w ent) (.kvapp f d c2 a k) s w ent) ∧
      ((∃ t ∈ c.doers, mustWait c.pre c.agent c.core h (c.val a t).toNat = true) → exec (.kvappProceed w ent) s = .refused .notEnabled)) ∧
  (∀ (s : State) (w ent : Nat) (f : Fr) (c : Ctx) (d a b : Reg) (k : BitVec 4) (st : State) (addr : Nat) (pol : Bool) (h : KvHdr),
    let n : Names := nameD d (reg1 a) (reg1 b) none
    let r := kvEach (fun s t =>
      let v := c.reg a.toNat t
      let x := kvResolve s c.agent c.core h true (v.toNat % 2 ^ 20) (v.toNat / 2 ^ 20) (c.reg b.toNat t).toNat
      (x.1, 0, x.2.2)) c.doers st
    Waiting (.bfwait f d a b k) s w ent f n noEarly c → c.act ≠ 0 → FindsHeader c f n k st addr pol h →
      ((∀ p ∈ r.2, p.2.2 ≠ 2) → Completes (.bfwaitSatisfied w ent) (.bfwait f d a b k) s w ent) ∧
      ((∃ p ∈ r.2, p.2.2 = 2) → exec (.bfwaitSatisfied w ent) s = .refused .notEnabled))

/-! ### Faults that leave a warp (R358, R359, R520 to R528) -/

/-- OPERAND_FETCH_FAULT, GANG_SCRUB, CORE_STOP, HOST_SERVED_FAULT, FAULT_RECORD_POST and WATCHDOG_EXPIRY; no drawn chunk goes back (R457). The
detail bytes of event 7 are log entry 43, and where the watchdog counts while a gang stops is log entry 54. -/
def Obligations.FaultEvents : Prop :=
  -- an operand-fetch fault kills the gang, or stops it for good, or no longer counts
  (∀ (s : State) (gid : Nat) (g : Gang) (l : Launch) (x : Raised) (r : List Raised),
    let mine (x : Raised) : Bool := decide (x.gang = gid) && decide (x.cause = 0x28)
    let s0 : State := { s with raised := s.raised.filter (fun x => !mine x), uid := s.uid + 1 }
    let rs : List Nat := (s.rafts.filter (fun (p : Nat × Raft) => decide (p.2.gang = gid))).map (·.1)
    tget s.gangs gid = some g → tget s.launches g.launch = some l → sortBy (·.core) (s.raised.filter mine) = x :: r →
      -- a core stop that takes the gang acts first
      (stopDue s gid = true → exec (.operandFetchFault gid) s = .refused .notEnabled) ∧
      (stopDue s gid = false → g.state ≠ .stopped → faultable g.state = false → exec (.operandFetchFault gid) s = .next s0) ∧
      (stopDue s gid = false → faultable g.state = true → l.record.idem = true → g.kills ≠ 8 →
        exec (.operandFetchFault gid) s = .next ((quell s0 gid).modGang gid (fun g =>
          { g with state := .killing, fault := some (capture s x 3 g.kills x.named (x.named.map (·.1)) [gid]),
                   -- the operations of other rafts that were complete, in the array or waiting for room in it
                   awaits := s.twins.flatMap (fun t => (t.2.ops.filter (fun o => !rs.contains o.raft)).map (·.k) ++
                     (t.2.line.filter (fun p => !rs.contains p.1)).map (·.2)) }))) ∧
      (stopDue s gid = false → faultable g.state = true → (l.record.idem = false ∨ g.kills = 8) →
        let cores : List Nat := ((s.blocksOfGang gid).map (fun (p : Nat × Block) => p.2.core) ++
          (s.warpsOfGang gid).map (fun (p : Nat × Warp) => p.2.core)).eraseDups
        let t : State := { s0 with raised := s0.raised ++ cores.map (fun c => { x with core := c }) }
        exec (.operandFetchFault gid) s = .next (t.modGang gid (fun g => { g with state := .stopped })))) ∧
  -- a killed gang is scrubbed once the operations before its fault are over, and its record goes to the host
  (∀ (s : State) (gid : Nat) (g : Gang) (l : Launch) (r : FaultRec), tget s.gangs gid = some g → tget s.launches g.launch = some l →
    g.state = .killing → g.fault = some r →
    let s1 := (s.blocksOfGang gid).foldl (fun s p => scrubB (clearRows s (p.2.core / 2) p.2.accBase l.record.accr) (p.2.core / 2) p.2.bRange) s
    ((∀ t ∈ s.twins, (∀ o ∈ t.2.ops, o.k ∉ g.awaits) ∧ ∀ p ∈ t.2.line, p.2 ∉ g.awaits) →
      exec (.gangScrub gid) s = .next (resumeTwins (handOn ((clearGang s1 gid).modGang gid (fun g =>
        { g with state := .reported, fault := none, awaits := [], again := (itemsOf s1 gid).foldl (fun m p => tput m p.1 p.2) g.again })) r))) ∧
    ((∃ t ∈ s.twins, (∃ o ∈ t.2.ops, o.k ∈ g.awaits) ∨ ∃ p ∈ t.2.line, p.2 ∈ g.awaits) → exec (.gangScrub gid) s = .refused .notEnabled)) ∧
  -- no drawn chunk goes back: a kill, a core stop and the end of a gang write no byte of global memory but a context's health counts (R457)
  (∀ (s : State) (gid a : Nat), (∀ asid x, tget s.ctxs asid = some x → a < x.poolBase + 0x40000 ∨ x.poolBase + 0x40010 ≤ a) →
    (quell s gid).byte (.hbm a) = s.byte (.hbm a) ∧ (clearGang s gid).byte (.hbm a) = s.byte (.hbm a)) ∧
  -- a core with a hard fault stops, with every gang that has a warp on it
  (∀ (s : State) (core : Nat) (x : Raised) (r : List Raised),
    let mine (x : Raised) : Bool := decide (x.core = core) && stopsCore s x
    let slot (x : Raised) : Nat := match tget s.warps x.warp with | some wp => wp.slot | none => 0
    let stops (p : Nat × Gang) : Bool :=
      (faultable p.2.state || decide (p.2.state = .stopped) || decide (p.2.state = .halted) || decide (p.2.state = .killing)) &&
      (decide (p.1 = x.gang) || (s.warpsOfGang p.1).any (fun q => decide (q.2.core = core)))
    let gs := (s.gangs.filter stops).map (·.1)
    let ws := (gs.flatMap (fun g => (s.warpsOfGang g).filter (fun q => decide (q.2.core = core)))).map (·.1)
    let s0 : State := { s with uid := s.uid + 1, raised := s.raised.filter (fun y => !decide (y.core = core)) }
    let s1 := gs.foldl (fun s g => (quell s g).modGang g (fun g => { g with state := .halted, fault := none, awaits := [] })) s0
    sortBy slot (s.raised.filter mine) = x :: r →
      exec (.coreStop core) s = .next (resumeTwins (handOn (s1.modCore core (fun k => { k with stopped := true }))
        (capture s x 1 0 ((s.raised.filter mine).map (fun y => (y.warp, y.pc))) ws gs)))) ∧
  -- the stop of one core leaves the hard faults of the others standing
  (∀ (s : State) (gid : Nat), (∀ x ∈ s.raised, isHard x.cause = true → x ∈ (quell s gid).raised)) ∧
  (∀ (s : State) (core : Nat), (∀ x ∈ s.raised, x.core ≠ core) → exec (.coreStop core) s = .refused .notEnabled) ∧
  -- a host-served fault: the gang is to be saved, and its splits perform their instructions anew
  (∀ (s : State) (gid : Nat) (g : Gang) (x : Raised) (xs : List Raised),
    let slot (x : Raised) : Nat := match tget s.warps x.warp with | some wp => 64 * x.core + wp.slot | none => 0
    let mine (x : Raised) : Bool := decide (x.gang = gid) && isServed x.cause
    let s0 : State := { s with raised := s.raised.filter (fun y => !mine y), uid := s.uid + 1 }
    let graver : Bool := stopDue s gid || s.raised.any (fun y => decide (y.gang = gid) && decide (y.cause = 0x28))
    tget s.gangs gid = some g → sortBy slot (s.raised.filter mine) = x :: xs →
      -- a core stop or a kill of the gang that is due acts first
      (graver = true → exec (.hostServedFault gid) s = .refused .notEnabled) ∧
      (graver = false → faultable g.state = false → exec (.hostServedFault gid) s = .next s0) ∧
      (graver = false → faultable g.state = true →
        exec (.hostServedFault gid) s = .next (((x :: xs).foldl (fun s y => s.modSplit y.warp y.ent (fun sp => { sp with susp := false })) s0).modGang gid
          (fun h => { h with state := .stopping, fault := some (capture s x 2 g.kills ((x :: xs).map (fun y => (y.warp, y.pc))) ((x :: xs).map (·.warp)) [gid]) })))) ∧
  -- the oldest waiting record goes to the lowest free slot, its STATE last, with event 7
  (∀ (s : State) (asid k : Nat) (x : Context) (r : FaultRec) (rest : List FaultRec), tget s.ctxs asid = some x → x.waiting = r :: rest →
    k < 8 → tget x.slots k = none → (∀ j, j < k → (tget x.slots j).isSome = true) →
    let a := x.poolBase + 32768 * k
    let s1 := s.modCtx asid (fun x => { x with waiting := rest, slots := tput x.slots k r, seq := x.seq + 1 })
    let s2 := homeWrite (homeWrite s1 (.hbm a) (faultBytes r (x.seq + 1).toNat 0)) (.hbm (a + 0x3C)) (toBytes 4 1)
    exec (.faultRecordPost asid) s = .next (postEvent s2 7 asid (toBytes 8 a ++ toBytes 4 r.cause ++ toBytes 4 r.core))) ∧
  (∀ (s : State) (asid : Nat) (x : Context), tget s.ctxs asid = some x → (x.waiting = [] ∨ ∀ k, k < 8 → (tget x.slots k).isSome = true) →
    exec (.faultRecordPost asid) s = .refused .notEnabled) ∧
  -- one million Reach cycles in a handler, or in a gang that cannot be saved, raise 0x41 on the handler's split, or the first
  (∀ (s : State) (w : Nat) (wp : Warp) (b : Block), tget s.warps w = some wp → tget s.blocks wp.blk = some b →
    (3000000 ≤ wp.wdog → wdogCounts s wp = true →
      ∀ sp, (wp.splits.find? (fun sp => decide (64 < sp.ent)) = some sp ∨
        (wp.splits.find? (fun sp => decide (64 < sp.ent)) = none ∧ wp.splits.head? = some sp)) →
        let t : State := s.modWarp w (fun wp => { wp with wdog := 0 })
        let x : Raised := ⟨w, sp.ent, wp.core, b.gang, 0x41, 0x41, sp.mask, sp.pc, 0, 0, []⟩
        exec (.watchdogExpiry w) s = .next { t with raised := t.raised ++ [x] }) ∧
    (wp.wdog < 3000000 ∨ wdogCounts s wp = false → exec (.watchdogExpiry w) s = .refused .notEnabled))

/-! ### Placing, saving and moving (R273, R294 to R304, R435, R445 to R460, R511) -/

/-- DISPATCH_DECISION, CLUSTER_RESERVATION, QUEUE_ENTRY_TAKEN, LAUNCH_PACKET, LAUNCH_PACKET_ANSWER, GANG_SAVE and MIGRATE. That a cluster holds one
reservation and the device none beside it, and that a reservation comes before the next decision, is log entry 70; the detail bytes of event
2 are log entry 43. -/
def Obligations.DispatchEvents : Prop :=
  -- a class that has starved for 4,096 decisions is tried first; otherwise the classes in order
  (∀ s : State, (∃ c, c < 5 ∧ readyQueues s c ≠ []) → s.queues.any (fun p => (reserved s p.1).isSome) = false →
    let ready (c : Nat) : Bool := !(readyQueues s c).isEmpty
    let classes := [0, 1, 2, 3, 4]
    let first := (classes.filter (fun c => ready c && decide (4096 ≤ s.flioc.since.getD c 0))).take 1
    let r := tryClasses (first ++ classes.filter (fun c => !first.contains c)) s
    exec .dispatchDecision s = .next { r.1 with flioc := { r.1.flioc with
      since := classes.map (fun c => if r.2 = some c ∨ ready c = false then 0 else s.flioc.since.getD c 0 + 1) } }.bump) ∧
  (∀ s : State, (∀ c, c < 5 → readyQueues s c = []) → exec .dispatchDecision s = .refused .notEnabled) ∧
  -- a reservation that is due is made before the next decision
  (∀ s : State, s.queues.any (fun p => (reserved s p.1).isSome) = true → exec .dispatchDecision s = .refused .notEnabled) ∧
  -- the queues of a class in the order of PASS: the first that can place is served and charged its stride, the ones before it wait
  (∀ (s : State) (q : Nat) (r : List Nat), (∀ t, serveQueue s q = some t → tryQueues (q :: r) s = (charge t q, some q)) ∧
    (serveQueue s q = none → tryQueues (q :: r) s = tryQueues r (s.modQueue q (fun x => { x with wt := min 127 (x.wt + 1) })))) ∧
  (∀ (s : State) (q : Nat), tsorted s.queues = true →
    ((charge s q).queue q).pass = (s.queue q).pass + 2 ^ 24 / max 1 (s.queue q).tkt ∧ ((charge s q).queue q).wt = 0 ∧
    -- a class without a ready queue keeps as its time the PASS that the queue served last held, before its stride (R450)
    ((s.queue q).cls < s.flioc.vtime.length → (s.queue q).cls < s.flioc.last.length →
      (∀ p ∈ (charge s q).queues, p.2.cls = (s.queue q).cls → p.2.wasReady = false) →
      classTime (charge s q) (s.queue q).cls = max (classTime s (s.queue q).cls) (s.queue q).pass)) ∧
  -- a queue that has waited 64 decisions reserves: the whole device for a resident launch, a cluster otherwise
  (∀ (s : State) (q : Nat) (l : Launch), headLaunch s q = some l →
    let lower (within : Nat → Bool) : List Nat :=
      let gs := s.gangs.filter (fun p => decide (p.2.state = .running) && within (clusterOf p.2.core) &&
        decide ((s.queue q).cls < (match tget s.launches p.2.launch with | some k => k.record.cls | none => 0)))
      let cls (p : Nat × Gang) : Nat := match tget s.launches p.2.launch with | some k => k.record.cls | none => 0
      (sortBy (fun p => (4 - cls p) * 2 ^ 64 + (2 ^ 64 - 1 - p.2.placed)) gs).map (·.1)
    let free := (List.range 128).filter (fun c => (tget s.flioc.reserve c).isNone &&
      headFits { emptied s with gangs := s.gangs.map (fun p => (p.1, { p.2 with state := .saved })) } q true (fun d => decide (d = c)))
    let all (_ : Nat) : Bool := true
    let only (c : Nat) (d : Nat) : Bool := decide (d = c)
    let take (whole : Bool) (within : Nat → Bool) (s : State) : State := (victims s q whole within (lower within)).foldl preempt s
    let nothing : Prop := exec (.clusterReservation q) s = .refused .notEnabled
    -- while the reservation stands, gangs of lower classes are pre-empted until the head can be placed
    (s.flioc.whole = some q →
      (victims s q l.record.res all (lower all) = [] → nothing) ∧
      (victims s q l.record.res all (lower all) ≠ [] → exec (.clusterReservation q) s = .next (take l.record.res all s).bump)) ∧
    (∀ c, s.flioc.whole ≠ some q → s.flioc.reserve.find? (fun p => decide (p.2 = q)) = some (c, q) →
      (victims s q false (only c) (lower (only c)) = [] → nothing) ∧
      (victims s q false (only c) (lower (only c)) ≠ [] → exec (.clusterReservation q) s = .next (take false (only c) s).bump)) ∧
    (s.flioc.whole ≠ some q → (∀ p ∈ s.flioc.reserve, p.2 ≠ q) →
      ((s.queue q).wt < 64 ∨ s.flioc.whole ≠ none → nothing) ∧
      (64 ≤ (s.queue q).wt → s.flioc.whole = none →
        (l.record.res = true → s.flioc.reserve = [] → exec (.clusterReservation q) s =
          .next (take true all { s with flioc := { s.flioc with whole := some q } }).bump) ∧
        (l.record.res = true → s.flioc.reserve ≠ [] → nothing) ∧
        (l.record.res = false → free ≠ [] → ∃ c ∈ free, exec (.clusterReservation q) s =
          .next (take false (only c) { s with flioc := { s.flioc with reserve := tput s.flioc.reserve c q } }).bump) ∧
        (l.record.res = false → free = [] → nothing)))) ∧
  -- those that are pre-empted are the first of the list, until the head can be placed without them, or all of it
  (∀ (s : State) (q : Nat) (whole : Bool) (within : Nat → Bool) (l : List Nat),
    let s1 := without s ((s.gangs.filter (fun p => decide (p.2.state = .stopping))).map (·.1))
    victims s q whole within l <+: l ∧
    (victims s q whole within l = l ∨ headPlaces (without s1 (victims s q whole within l)) q whole within = true) ∧
    ∀ n, n < (victims s q whole within l).length → headPlaces (without s1 (l.take n)) q whole within = false) ∧
  -- the next entry of a launch queue comes to its head: an accepted launch is ready, or stored while tasks precede it
  (∀ (s : State) (q : Nat) (v : DWord), (s.queue q).bound = true → (s.queue q).item = false → (s.queue q).fill ≠ 0 →
    (∀ p ∈ s.launches, p.2.queue = q → p.2.state ≠ .ready ∧ p.2.state ≠ .asked) →
    let s1 := s.modQueue q (fun q => { q with head := q.head + 1 })
    ringRead s q (s.queue q).head = .ok v →
      let known (p : Nat × Launch) : Bool := decide (p.2.queue = q) && decide (p.2.addr = v.toNat) && decide (p.2.state = .posted)
      let go (s : State) (lid : Nat) (l : Launch) : Out :=
        if (countAt s l.asid (v.toNat + 0x7C)).getD l.record.dcnt = 0 then .next (releaseLaunch s lid false)
        else .next (s.modLaunch lid (fun l => { l with state := .stored }))
      (∀ lid l, s1.launches.find? known = some (lid, l) → exec (.queueEntryTaken q) s = go s1 lid l) ∧
      (s1.launches.find? known = none →
        (recordBytes s1 (s.queue q).asid v.toNat = none → exec (.queueEntryTaken q) s = .next s1) ∧
        (∀ bs, recordBytes s1 (s.queue q).asid v.toNat = some bs →
          let own : Prop := (parseRecord bs).queue = q ∧ ((parseRecord bs).wld = true → ∃ x, tget s.ctxs (s.queue q).asid = some x ∧ x.world = true)
          (¬ own → exec (.queueEntryTaken q) s = .next s1) ∧
          (own → acceptRecord s1 (s.queue q).asid q v.toNat bs = none → exec (.queueEntryTaken q) s = .next s1) ∧
          (∀ l, own → acceptRecord s1 (s.queue q).asid q v.toNat bs = some l → exec (.queueEntryTaken q) s = go (addLaunch s1 l) s1.uid l)))) ∧
  -- the start barrier of a launch group
  (∀ (s : State) (lid : Nat) (l : Launch), tget s.launches lid = some l → l.state = .asked →
    exec (.launchPacketAnswer lid true) s = .next (noteReady (s.modLaunch lid (fun l => { l with state := .ready })) l.queue) ∧
    exec (.launchPacketAnswer lid false) s = .next { s with launches := tdel s.launches lid }) ∧
  (∀ (s : State) (k q : Nat) (gen : Word) (bs : List Byte) (g : Group), tget s.groups k = some g →
    (gen.toNat ≠ g.gen → exec (.launchPacket k gen q bs) s = .next (postEvent s 2 0 (toBytes 4 k ++ toBytes 4 gen.toNat ++ toBytes 4 g.gen))) ∧
    (∀ x fl, gen.toNat = g.gen → tget s.ctxs (s.queue q).asid = some x → readFlumes s (s.queue q).asid (parseRecord bs) = some fl →
      let r := parseRecord bs
      let l : Launch := { addr := 0, asid := (s.queue q).asid, record := { r with dcnt := 0 }, flumes := fl, queue := q, state := .asked, nextGang := 0,
                          gangsEnded := 0, order := 2 ^ 64 + s.uid, batch := none, group := some k, aborted := false, homes := [],
                          ran := [], code := [] }
      let taken : Prop := (s.queue q).bound = true ∧ (s.queue q).item = false ∧ (s.queue q).group = k ∧ fieldsOk r = true ∧ isFabric r = true ∧
        r.cls = (s.queue q).cls ∧ (r.wld = true → x.world = true) ∧ fitsEmpty s l x.world = true
      (taken → exec (.launchPacket k gen q bs) s = .next (addLaunch s l)) ∧ (¬ taken → exec (.launchPacket k gen q bs) s = .next s))) ∧
  -- a stopping gang is saved once nothing of it is under way: it waits in its queue, or, after a host-served fault, for the host
  (∀ (s : State) (gid : Nat) (g : Gang) (l : Launch), tget s.gangs gid = some g → tget s.launches g.launch = some l → g.state = .stopping →
    let s0 := abandonNinth s gid
    let ws := s0.warpsOfGang gid
    let cores := ((s0.blocksOfGang gid).map (fun p => p.2.core) ++ ws.map (fun p => p.2.core)).eraseDups
    -- results land, what a WAITV has read is forgotten (R460), the L1s are written back
    let s1 := cores.foldl writeBackAll (ws.foldl (fun s p => (s.landAll p.1).modWarp p.1 (fun wp =>
      { wp with wdog := 0, splits := wp.splits.map (fun sp => { sp with got := [] }) })) s0)
    let s2 := saveRafts ((s1.blocksOfGang gid).foldl (saveBlock l.record.accr) s1) gid
    let s3 := cores.foldl (fun s c => s.modCore c (fun k =>
      { k with latch := k.latch.map (fun p => (p.1, p.2.filter (fun x => !(ws.map (·.1)).contains x.warp))) })) s2
    let free (s : State) : State := resumeTwins (cores.foldl (fun s c => restCore s c gid) s)
    (gangQuiet s gid = false → exec (.gangSave gid) s = .refused .notEnabled) ∧
    (gangQuiet s gid = true → g.fault = none →
      let s4 := s3.modGang gid (fun g => { g with state := .saved, restore := true })
      exec (.gangSave gid) s = .next (noteReady (free { s4 with flioc := { s4.flioc with resumes := s4.flioc.resumes ++ [gid] } }) l.queue).bump) ∧
    (∀ r, gangQuiet s gid = true → g.fault = some r →
      exec (.gangSave gid) s = .next (free (handOn (s3.modGang gid (fun g => { g with state := .served, restore := true, fault := none })) r)).bump)) ∧
  -- a settled warp moves to its landing place: its pairs go over, its other registers read as zero, its split goes on there
  (∀ (s : State) (w : Nat) (wp : Warp) (x : Landing) (b : Block) (g : Gang) (r : Record), tget s.warps w = some wp → wp.landing = some x →
    tget s.blocks wp.blk = some b → tget s.gangs b.gang = some g → recordOf s b = some r → (g.state = .running ∨ g.state = .stopping) →
    (wp.settled = true → s.hasCmds w = false → ∃ t wq, exec (.migrate w) s = .next t ∧ tget t.warps w = some wq ∧ wq.core = x.core ∧ wq.slot = x.slot ∧
      wq.migr = 0 ∧ wq.landing = none ∧ wq.alloc = allocOf r (isRiffle x.core) ∧ (∀ sp ∈ wq.splits, sp.ent = 0 ∧ sp.pc = x.pc ∧ sp.wait = none) ∧
      wq.panch = wp.panch ∧ wq.blk = wp.blk) ∧
    (wp.settled = false ∨ s.hasCmds w = true → exec (.migrate w) s = .refused .notEnabled)) ∧
  (∀ (s : State) (w a b : Nat), a < 512 → b < 512 → ∀ t, t < 32 →
    (moveRegs s w [(a, b)]).regAt (regKey w w b t) = s.regAt (regKey w w a t)) ∧
  (∀ (s : State) (w a b r : Nat), a < 512 → b < 512 → r < 512 → r ≠ b → ∀ t, t < 32 → (moveRegs s w [(a, b)]).regAt (regKey w w r t) = 0)

/-! ### Engines (R230, R235, R360 to R368, R372, R394, R395, R513 to R515) -/

/-- SLUICE_COMMAND_START, WEIR_DISCARD and SLUICE_GRANULE. That a command refused at its start has consumed its weir slot is log 32; that
granules wait for an earlier command that writes the same bytes, and in which order a granule's words are written, is log 31; the entry size of
a .kvg whose header cannot be read is log 86; the queue entries of resumed commands are log 98. -/
def Obligations.CopyEngine : Prop :=
  (∀ (s : State) (core i : Nat) (c : Cmd) (b : Block) (e : Eng),
    let k := s.core core
    let started := (k.sluice.filter (fun c => decide (c.state = .started))).length
    let free (s : State) : State := if c.we then s.modCore core (fun k => k.freeWeir c.wsl) else s
    k.stopped = false → started < 4 → headCmd k.sluice = some (i, c) → s.blockRuns c.blk = true → tget s.blocks c.blk = some b →
    engOf s c.blk c.priv core true = some e →
      -- a suspended command goes on where it stood
      (c.state = .suspended →
        exec (.sluiceCommandStart core) s = .next (refill (s.modSluice core (fun l => setAt l i (fun c => { c with state := .started }))) core)) ∧
      -- a weir slot that is not TRUE holds it; one that is FALSE discards it, complete with status 0
      (c.state = .queued → c.we = true → tget k.weirs c.wsl ≠ some true → exec (.sluiceCommandStart core) s = .refused .notEnabled) ∧
      (c.state = .queued → c.we = true → tget k.weirs c.wsl = some false →
        exec (.weirDiscard core) s = .next (refill ((retireCmd s core i c 0).modCore core (fun k => k.freeWeir c.wsl)) core)) ∧
      (c.state = .queued → (c.we = true → tget k.weirs c.wsl = some true) →
        let fits (on : Bool) (n : Nat) (g : Flume → Prop) : Prop := on = true → ∃ f, b.flumes[n]? = some f ∧ g f
        -- what it covers of an output flume may only follow from its source's record
        let room (d : Cmd) : Prop := fits d.fie d.fin (fun f => f.rin + d.kin b ≤ f.fill) ∧
          ((d.srcRec = true ∧ d.srec = none) ∨ fits d.foe d.fout (fun f => f.rout + d.kout b ≤ f.room))
        -- it waits for its flumes before its records are read
        (¬ room c → exec (.sluiceCommandStart core) s = .refused .notEnabled) ∧
        -- refused: it completes with status 2; a fault of its records is an operand-fetch fault
        (room c → c.take s e b = .refused → exec (.sluiceCommandStart core) s = .next (refill (retireCmd (free s) core i c 2) core).bump) ∧
        (∀ cause va raddr, room c → c.take s e b = .fault cause va raddr →
          exec (.sluiceCommandStart core) s = .next (cmdFault s core c b.gang cause va raddr).bump) ∧
        -- with its slots in the flumes it starts, and reserves them
        (∀ t d, room c → c.take s e b = .ok t d →
          let cin : Word := match b.flumes[d.fin]? with | some f => f.q + BitVec.ofNat 32 f.rin | none => 0
          let cout : Word := match b.flumes[d.fout]? with | some f => f.p + BitVec.ofNat 32 f.rout | none => 0
          -- a .kvg has no input flume: the entry size that it takes where its header cannot be read is free (log 86)
          let x : Cmd := { d with state := .started, cout := cout,
                                  cin := if d.mode = mKvg then BitVec.ofNat 32 (16 * (2 + Config.freePick t.free 60 % 255)) else cin }
          -- the walkers have its records' pages, and go ahead of its transfer (R355)
          let ahead := x.ahead e b (noteAll (free t) e x.recPages)
          let y : Cmd := { x with held := ahead.2 }
          let t2 := if y.fie then ahead.1.modFlume y.blk y.fin (fun f => { f with rin := f.rin + y.kin b }) else ahead.1
          let t3 := if y.foe then t2.modFlume y.blk y.fout (fun f => { f with rout := f.rout + y.kout b }) else t2
          -- the scaled flume end of a conversion starts on a line
          let conv : Prop := d.mode = mCvt ∨ d.mode = mRescale
          let off : Prop := conv ∧ ((x.fie = true ∧ x.sscaled = true ∧ (x.source b).addr 0 % 128 ≠ 0) ∨
            (x.foe = true ∧ x.dscaled = true ∧ (x.target b).addr 0 % 128 ≠ 0))
          (¬ room d → exec (.sluiceCommandStart core) s = .refused .notEnabled) ∧
          (room d → off → exec (.sluiceCommandStart core) s = .next (refill (retireCmd (free t) core i x 2) core).bump) ∧
          (room d → ¬ off →
            exec (.sluiceCommandStart core) s = .next (refill (t3.modSluice core (fun l => setAt l i (fun _ => y))) core).bump)))) ∧
  -- where no resumed command waits for an entry of a core's queue, the queue stays as it is
  (∀ (s : State) (core : Nat), (∀ p ∈ s.blocks, p.2.core = core → p.2.savedCmds = []) → refill s core = s) ∧
  (∀ (s : State) (core i : Nat) (c : Cmd) (b : Block) (e0 : Eng), (s.core core).sluice[i]? = some c → (s.core core).stopped = false →
    c.state = .started → tget s.blocks c.blk = some b → engOf s c.blk c.priv core true = some e0 →
      let e : Eng := { e0 with held := c.held }
      let ends (x : Cmd) (t : State) (status : Nat) : State := (retireCmd (settleFlumes t x b false) core i x (max status x.status)).bump
      -- it goes on while its gang runs, and, for a granule that it is writing, while its gang stops
      (c.runs s = false → exec (.sluiceGranule core i) s = .refused .notEnabled) ∧
      -- a command that writes the same bytes as an earlier one waits for it
      ((∃ x ∈ (s.core core).sluice.take i, x.state = .started ∧ overlaps s core x c = true) → exec (.sluiceGranule core i) s = .refused .notEnabled) ∧
      (c.runs s = true → (∀ x ∈ (s.core core).sluice.take i, x.state = .started → overlaps s core x c = false) →
        -- the granule in hand is written word by word; after its last word it is performed
        (c.out ≠ [] →
          (∀ t, putNext e c.putScaled c.out s = .ok (t, []) →
            exec (.sluiceGranule core i) s = .next (granuleDone (healPuts e t c.heals) core i c b).bump) ∧
          (∀ t l, l ≠ [] → putNext e c.putScaled c.out s = .ok (t, l) →
            exec (.sluiceGranule core i) s = .next (t.modSluice core (fun q => setAt q i (fun c => { c with out := l }))).bump) ∧
          (∀ st, putNext e c.putScaled c.out s = .error (.stop st) → exec (.sluiceGranule core i) s = .next (ends c s 2)) ∧
          (∀ cause va, putNext e c.putScaled c.out s = .error (.fault cause va) →
            exec (.sluiceGranule core i) s = .next (cmdFault s core c b.gang cause va (if c.dstRec then c.dst.toNat else 0)).bump)) ∧
        (c.out = [] → c.granules b ≤ c.progress → exec (.sluiceGranule core i) s = .next (cmdDone s core i c b)) ∧
        (c.out = [] → c.progress < c.granules b →
          (∀ t status, performGranule c e b core s = .stop t status → exec (.sluiceGranule core i) s = .next (ends c t status)) ∧
          (∀ cause va raddr, performGranule c e b core s = .fault cause va raddr →
            exec (.sluiceGranule core i) s = .next (cmdFault s core c b.gang cause va raddr).bump) ∧
          (performGranule c e b core s = .waits → exec (.sluiceGranule core i) s = .refused .notEnabled) ∧
          -- worked out: its events are counted, and its lines are still to be written
          (∀ t' l ev status, performGranule c e b core s = .ok t' l ev status →
            let t := aheadQueue core (noteAll (countHealth t' c.blk ev) e (c.pages b))
            let d : Cmd := { c with status := max c.status status }
            (addPuts [] l = [] → exec (.sluiceGranule core i) s = .next (granuleDone t core i d b).bump) ∧
            (addPuts [] l ≠ [] → exec (.sluiceGranule core i) s =
              .next (t.modSluice core (fun q => setAt q i (fun _ => { d with out := addPuts [] l, heals := wholePuts (addPuts [] l) }))).bump))))) ∧
  -- one granule more: the last makes the command DONE
  (∀ (s : State) (core i : Nat) (c : Cmd) (b : Block),
    let d : Cmd := { c with progress := c.progress + 1, out := [], heals := [] }
    (d.granules b ≤ c.progress + 1 → granuleDone s core i c b = cmdDone s core i d ((tget s.blocks c.blk).getD b)) ∧
    (c.progress + 1 < d.granules b → granuleDone s core i c b = s.modSluice core (fun l => setAt l i (fun _ => d)))) ∧
  -- a word of a line is written with the bytes that change, the others stay; the line keeps the words not yet written
  (∀ (e : Eng) (scaled : Bool) (s : State) (x : LinePut) (rest : List LinePut), x.items ≠ [] →
    ∃ k y n, (x :: rest)[k]? = some y ∧ n ∈ y.items ∧
      putNext e scaled (x :: rest) s = (putItem e scaled y n s).map (fun t => (t, dropItem (x :: rest) k n))) ∧
  -- of a word in which one whole byte changes, that byte alone is written
  (∀ (e : Eng) (scaled : Bool) (s : State) (x : LinePut) (n j : Nat), n < 32 → j < 4 → x.mask.extractLsb' (8 * (4 * n + j)) 8 = 0xFF →
    (∀ j', j' < 4 → j' ≠ j → x.mask.extractLsb' (8 * (4 * n + j')) 8 = 0) →
      putItem e scaled x n s = engWrite s e scaled (x.va + (4 * n + j)) [x.data.extractLsb' (8 * (4 * n + j)) 8])

/-- BACKWATER_AGE_TIMEOUT, BACKFILL_LAUNCH_END, COLLECTIVE_START and COLLECTIVE_END. The division of a collective into segments and units, the
messages that stand for the other members, and the order in which words are written are log 61, a reserved state word at a flip log 88, and the
detail bytes of event 5 log 43. -/
def Obligations.BackwaterAndCollectives : Prop :=
  (∀ (s : State) (die : Nat), (∀ t, fillBatch s die = some t → exec (.backwaterAgeTimeout die) s = .next (fillBatches die 2 t).bump) ∧
    (fillBatch s die = none → exec (.backwaterAgeTimeout die) s = .refused .notEnabled)) ∧
  -- a batch that has ended: its entries flip, or, after a core stop, it has failed
  (∀ (s : State) (die n lid : Nat) (b : BwBatch) (l : Launch), (s.die die).batches[n]? = some b → b.launch = some lid →
    tget s.launches lid = some l →
    let s1 : State := { s with launches := tdel s.launches lid }
    (l.state ≠ .ended → exec (.backfillLaunchEnd die n) s = .refused .notEnabled) ∧
    (l.state = .ended → l.aborted = true → exec (.backfillLaunchEnd die n) s = .next (fillBatches die 2 (postBatches die 4 (failBatch s1 die n))).bump) ∧
    (∀ h, l.state = .ended → l.aborted = false → engineHdr s1 b.asid b.hdr = some h →
      let s2 : State := b.recs.zipIdx.foldl (flipItem die h b.asid b.hdr (h.blb + b.buf * h.bufBytes)) s1
      exec (.backfillLaunchEnd die n) s =
        .next (fillBatches die 2 (postBatches die 4 (s2.modDie die (fun d => { d with batches := dropAt d.batches n })))).bump)) ∧
  -- an item of it: the staged bytes go into the entry, whose state becomes that of FINAL, and its record goes on to the next layer or is gone
  (∀ (s s1 s2 : State) (die asid hdr buf slot pos : Nat) (h : KvHdr) (r : ExitRec) (bs w : List Byte),
    let e := h.entryAt r.page r.pos
    tget (s.die die).exits slot = some r → ctxRead s asid (buf + 64 + 32 * (h.bmax + 1) + pos * (h.esz - 16)) (h.esz - 16) = .ok bs →
    storeUpTo asid (spanLines (e + 16) bs.length) s (e + 16) bs = .ok s1 →
    ctxMoveSlots asid (buf + 64 + 32 * (h.bmax + 1) + pos * (h.esz - 16)) (e + 16) bs.length s1 = .ok s2 → ctxRead s2 asid e 4 = .ok w →
    r.layer + 1 ≠ h.layers →
      (∀ p x al s3, stateWord (ofBytes w) = some (p, x, al) → ctxStore s2 asid e (toBytes 4 (if x then 4 else 0)) = .ok s3 →
        flipItem die h asid hdr buf s (slot, pos) =
          s3.modDie die (fun d => { d with exits := tput d.exits slot { r with layer := r.layer + 1, state := .pending, since := s3.now } })) ∧
      -- what was copied stays where the state word is no state word (R384)
      (stateWord (ofBytes w) = none →
        flipItem die h asid hdr buf s (slot, pos) = postEvent s2 5 asid (toBytes 8 hdr ++ toBytes 4 r.layer))) ∧
  (∀ (s : State) (die i : Nat) (x : Collective),
    (findColl (s.die die).colls false = some (i, x) →
      (tget s.groups x.gid = none → exec (.collectiveStart die) s = .next (finishColl s die i x 3).bump) ∧
      (∀ g, tget s.groups x.gid = some g → (∃ p ∈ g.routes, tgetD s.ports p false = true) →
        exec (.collectiveStart die) s = .next (finishColl s die i x 1).bump) ∧
      (∀ g, tget s.groups x.gid = some g → (∀ p ∈ g.routes, tgetD s.ports p false = false) →
        exec (.collectiveStart die) s = .next (s.modDie die (fun y => { y with colls := setAt y.colls i (fun x => { x with begun := true }) })))) ∧
    (findColl (s.die die).colls false = none → exec (.collectiveStart die) s = .refused .notEnabled) ∧
    (findColl (s.die die).colls true = some (i, x) →
      -- posts that differ, a group that is gone
      (∀ peers m, tget s.groups x.gid = none → exec (.collectiveEnd die peers m) s = .next (finishColl s die i x 3).bump) ∧
      (∀ peers g e, tget s.groups x.gid = some g → collEng s x = some e →
        let posts := otherPosts g.n g.rank peers
        let heads := posts.filterMap peerPost
        (x.out = none →
          ((∃ bs ∈ posts, x.matched g.n bs = false) → ∀ m, exec (.collectiveEnd die peers m) s = .refused .notEnabled) ∧
          ((∀ bs ∈ posts, x.matched g.n bs = true) →
            ((∃ p ∈ heads, x.fits p = false) → exec (.collectiveEnd die peers false) s = .next (finishColl s die i x 4).bump) ∧
            ((∀ p ∈ heads, x.fits p = true) →
              -- an uncorrectable error in a member's source
              ((∃ p ∈ heads, p.bad = true) → exec (.collectiveEnd die peers true) s = .next (finishColl s die i x 1).bump) ∧
              ((∀ p ∈ heads, p.bad = false) →
                (∀ k, readUnits s e x x.src (srcUnits x g.n) = .error k →
                  exec (.collectiveEnd die peers true) s = .next (finishColl s die i x (collStat k)).bump) ∧
                -- the result stands when the other members' data are there
                (∀ mine, readUnits s e x x.src (srcUnits x g.n) = .ok mine → 0 < g.n → ∃ h, h < g.n ∧
                  let r := collResult x g.n g.rank h mine peers
                  let lines := addPuts [] (unitPuts x r.1 r.2.1)
                  exec (.collectiveEnd die peers true) s = .next (setOut s die i ⟨lines, wholePuts lines, r.2.2.sat, r.2.2.zero⟩).bump))))) ∧
        -- then it is written word by word, and after the last word the collective ends
        (∀ o m, x.out = some o → o.out ≠ [] →
          (∀ t l, putNext e (isScaled x.elem) o.out s = .ok (t, l) →
            exec (.collectiveEnd die peers m) s = .next (setOut t die i { o with out := l }).bump) ∧
          (∀ k, putNext e (isScaled x.elem) o.out s = .error k →
            exec (.collectiveEnd die peers m) s = .next (finishColl s die i x (collStat k)).bump)) ∧
        (∀ o m, x.out = some o → o.out = [] →
          exec (.collectiveEnd die peers m) s = .next (finishColl (addHealth (healPuts e s o.heals) x.asid ⟨o.sat, o.zero⟩) die i x 0).bump)))) ∧
  -- posts agree in operation, format and element count (R513)
  (∀ (x : Collective) (p : PeerPost), x.fits p = true ↔ p.op = collCode x.op ∧ p.fmt = x.fmt ∧ p.count = x.count) ∧
  -- an error in the poster's own read ends with STAT 1 for poison or a lost link, and with STAT 2 otherwise
  (∀ cause va, collStat (.fault cause va) = if cause = 0x40 then 1 else 2) ∧ (∀ va, collStat (.stop va) = 2) ∧
  -- the end of a collective: STAT, then CVAL to the completion word
  (∀ (s s1 s2 : State) (die i stat : Nat) (x : Collective) (e : Eng),
    let s0 := s.modDie die (fun y => { y with colls := dropAt y.colls i })
    collEng s0 x = some e → collEng s1 x = some e → engWrite s0 e false (x.addr + 0x1C) (toBytes 4 stat) = .ok s1 →
    engWrite s1 e false x.cword (toBytes 4 x.cval) = .ok s2 → finishColl s die i x stat = s2)

/-! ### Near-memory units (R237 to R243, R464 to R471) -/

namespace Sys2Proof.Claims

/-- What the steps of one near-memory command do: started in the order of arrival; then a part that may go on writes one line that it has worked
out, whole with its side slot (R337), or works out its next granule `gran`, or does at once what takes one step. The choice of the part is log 55. -/
def NmRuns (e : Nat → Nat → Instr) (code : Nat) (fl : Nat → Prop) (gran : NmCmd → Eng → Nat → Nat → State → NmGran) : Prop :=
  ∀ (s : State) (u k : Nat) (c : NmCmd), (s.nmu u)[k]? = some c → nmCode c.word = code → fl (nmFl c.word) →
    (c.started = false → nextAt s u c.arrival = true → exec (e u k) s = .next (admitAll (setNm s u k (nmStart s c))).bump) ∧
    (c.started = false → nextAt s u c.arrival = false → exec (e u k) s = .refused .notEnabled) ∧
    (c.started = true → openParts s c = [] → exec (e u k) s = .refused .notEnabled) ∧
    (∀ en pl, c.started = true → nmEng s c = some en → nmPlan c.word c.arg = some pl → openParts s c ≠ [] →
      ∃ i p, (i, p) ∈ openParts s c ∧
        let first := p.first + p.pos
        let n := pl.len first (p.count - p.pos)
        let put (t : State) (q : NmPart) (res : Option (Word × Word)) : State :=
          (admitAll (setNm t u k { c with parts := setAt c.parts i (fun _ => q), res0 := (res.map (·.1)).getD c.res0,
                                          res1 := (res.map (·.2)).getD c.res1 })).bump
        -- a line that nothing still to be worked out changes is written; where that fails, the part ends with a status
        (∀ x rest, p.ready pl = some (x, rest) →
          (∀ t, putLine en x s = .ok t → exec (e u k) s = .next (put t { p with out := rest }.close none)) ∧
          (∀ f, putLine en x s = .error f →
            exec (e u k) s = .next (put s ({ p with out := rest }.fail (nmStatus f).1 (nmStatus f).2) none))) ∧
        (p.ready pl = none →
          (∀ t ev res, gran c en first n s = .ok t ev res → exec (e u k) s = .next (put (nmHealth t c ev) { p with pos := p.pos + n }.close res)) ∧
          (∀ l ev, gran c en first n s = .puts l ev → exec (e u k) s = .next (put (nmHealth s c ev) (p.take s en pl n l) none)) ∧
          (∀ t st d res, gran c en first n s = .bad t st d res → exec (e u k) s = .next (put t (p.fail st d) res))))

end Sys2Proof.Claims

/-- Every near-memory command: its start and its granules; its completion; what the short ones compute. Which part goes on is a free choice of
log 55, how far a part goes before a line that fails is log 56, the accesses of NREF and NCNT are log 57, and the detail bytes of events 1 and 4
are log 43. -/
def Obligations.NearMemoryCommands : Prop :=
  NmRuns .nadam 1 (fun _ => True) optGranule ∧ NmRuns .nsgdm 2 (fun _ => True) optGranule ∧
  NmRuns .nmsearch 3 (fun _ => True) searchGranule ∧ NmRuns .nredadd 4 (fun _ => True) redaddGranule ∧
  NmRuns .ncopy 5 (fun _ => True) copyGranule ∧ NmRuns .nfill 6 (fun _ => True) fillGranule ∧
  NmRuns .ncow 7 (fun _ => True) cowGranule ∧ NmRuns .nref 8 (fun _ => True) (fun c e _ _ => refStep c e) ∧
  NmRuns .ncntAdd 9 (fun fl => fl = 0) (fun c e _ _ => cntStep c e (fun old =>
    some ((((old : Int) + (BitVec.ofNat 16 (nmAux c.word)).toInt) % 2 ^ 64).toNat))) ∧
  NmRuns .ncntRead 9 (fun fl => fl = 1) (fun c e _ _ => cntStep c e (fun _ => none)) ∧
  NmRuns .ncntWrite 9 (fun fl => 2 ≤ fl) (fun c e _ _ => cntStep c e (fun _ => some (nmCnt c.word))) ∧
  NmRuns .nchunk 10 (fun _ => True) (fun c e _ _ => chunkStep c e) ∧ NmRuns .nquant 11 (fun _ => True) quantGranule ∧
  NmRuns .ntagchk 12 (fun _ => True) (fun c e i _ => tagStep c e i) ∧
  -- completion: to the handle of a warp; to a task's record, whose successors are counted down, or event 4
  (∀ (s : State) (u k : Nat) (c : NmCmd), (s.nmu u)[k]? = some c → 1 ≤ nmCode c.word → nmCode c.word ≤ 12 →
    let s0 := (admitAll (s.setNmu u (dropAt (s.nmu u) k))).bump
    let r := nmDone c
    ((c.started = false ∨ ∃ p ∈ c.parts, p.ended = false) → exec (.nmuCommandComplete u k) s = .refused .notEnabled) ∧
    (c.started = true → (∀ p ∈ c.parts, p.ended = true) →
      (∀ w h, c.issuer = .warp w h → exec (.nmuCommandComplete u k) s = .next (fillHandle s0 w h r.2)) ∧
      (∀ a s1, c.issuer = .task a → ctxStore s0 c.asid (a + 0x20) (toBytes 16 r.2.toNat) = .ok s1 →
        -- after a failure the successors wait for the host
        (∀ bs, r.1 ≠ 0 → ctxRead s1 c.asid (a + 8) 8 = .ok bs → exec (.nmuCommandComplete u k) s =
          .next (postEvent (parkTasks s1 c.asid (ofBytes bs)) 4 c.asid (toBytes 8 a ++ toBytes 4 r.1))) ∧
        (∀ bs, r.1 = 0 → ctxRead s1 c.asid (a + 8) 8 = .ok bs →
          exec (.nmuCommandComplete u k) s = .next (decrementAll s1 c.asid (ofBytes bs)))))) ∧
  -- a word with a command code that does not exist completes with STATUS 1 in its turn
  (∀ (s : State) (u k w h : Nat) (c : NmCmd), (s.nmu u)[k]? = some c → nmCode c.word = 0 ∨ 12 < nmCode c.word → c.issuer = .warp w h →
    (nextAt s u c.arrival = true → exec (.nmuCommandComplete u k) s =
      .next (fillHandle (admitAll (s.setNmu u (dropAt (s.nmu u) k))).bump w h (nmDone (c.over 1 0)).2)) ∧
    (nextAt s u c.arrival = false → exec (.nmuCommandComplete u k) s = .refused .notEnabled)) ∧
  -- a part ends when its work is done and its lines are written; one that has failed when the lines before the failing one are (R467)
  (∀ p : NmPart, p.close.ended = true ↔ p.out = [] ∧ (p.failed = true ∨ p.count ≤ p.pos)) ∧
  (∀ (p : NmPart) (st d : Nat), (p.fail st d).status = st ∧ (p.fail st d).detail = d ∧ (p.fail st d).out = p.out ∧
    ((p.fail st d).ended = true ↔ p.out = [])) ∧
  -- the status of a command is that of its first part that failed
  (∀ (c : NmCmd) (p : NmPart), c.parts.find? (fun p => decide (p.status ≠ 0)) = some p → (nmDone c).1 = p.status) ∧
  (∀ c : NmCmd, (∀ p ∈ c.parts, p.status = 0) → (nmDone c).1 = 0) ∧
  -- NREF: the count with its delta, within 32 bits; otherwise it stays, with STATUS 5
  (∀ (s : State) (c : NmCmd) (e : Eng) (a a' : Acc), engAcc s e .read false (nmArg c.word) 4 = .ok a →
    engAcc s e .write false (nmArg c.word) 4 = .ok a' →
    let old := ofBytes (s.bytes a.loc 4)
    let v : Int := (old : Int) + (BitVec.ofNat 16 (nmAux c.word)).toInt
    (0 ≤ v → v < 2 ^ 32 → refStep c e s = .ok (homeWrite s a.loc (toBytes 4 v.toNat)) Health.none (some (BitVec.ofNat 32 old, BitVec.ofInt 32 v))) ∧
    ((v < 0 ∨ 2 ^ 32 ≤ v) → ∃ x, refStep c e s = .bad s 5 0 x)) ∧
  -- NCNT: what the word held, and the new one
  (∀ (s : State) (c : NmCmd) (e : Eng) (a : Acc) (new : Nat → Option Nat), nmAccess s e (nmArg c.word) 8 (nmArgNeeds c.word) = .ok a →
    let old := ofBytes (s.bytes a.loc 8)
    cntStep c e new s = .ok ((new old).elim s (fun v => homeWrite s a.loc (toBytes 8 v))) Health.none
      (some (BitVec.ofNat 32 old, BitVec.ofNat 32 (old / 2 ^ 32)))) ∧
  -- NCHUNK: the next chunk of a work counter
  (∀ (s : State) (c : NmCmd) (e : Eng) (a : Acc), nmAccess s e (nmArg c.word) 16 (nmArgNeeds c.word) = .ok a →
    let d := chunkDraw (s.bytes a.loc 16)
    chunkStep c e s = .ok (homeWrite s a.loc (toBytes 4 (d.1 + d.2))) Health.none (some (BitVec.ofNat 32 d.1, BitVec.ofNat 32 d.2))) ∧
  -- NTAGCHK: a chunk whose tag differs ends with STATUS 3 and event 1
  (∀ (s : State) (c : NmCmd) (e : Eng) (i : Nat) (k : KeySlot) (bs tag : List Byte), tget s.keys (nmAux c.word) = some k →
    engSpan s e 512 (nmArg c.word + 65536 * i) 65536 = .ok bs → engSpan s e 2 (nmArg c.word + 65536 * nmCnt c.word + 16 * i) 16 = .ok tag →
    (chunkTag k.key bs i = tag → tagStep c e i s = .ok s Health.none none) ∧
    (chunkTag k.key bs i ≠ tag → ∃ detail, tagStep c e i s = .bad (postEvent s 1 c.asid detail) 3 i none)) ∧
  -- NFILL without a scale: the pattern
  (∀ (s : State) (c : NmCmd) (e : Eng) (i n : Nat), nmFl c.word % 2 = 0 →
    fillGranule c e i n s =
      .puts [bytesPut (nmArg c.word + i) ((List.range n).map (fun k => (toBytes 2 (nmAux c.word)).getD ((i + k) % 2) 0))] Health.none) ∧
  -- NREDADD: each word is the rounded sum of what it held and the source's element
  (∀ (s : State) (c : NmCmd) (e : Eng) (i n : Nat) (xs : List Inp) (ws : List Word),
    nmRead s e (nmEnd (argAddr c.arg 0) (nmFmt c.word) 0 (nmCnt c.word)) i n = .ok xs → readWords s e (argAddr c.arg 1 + 4 * i) n = .ok ws →
    redaddGranule c e i n s =
      .puts [wordsPut (argAddr c.arg 1 + 4 * i) ((ws.zip xs).map (fun p => rne32 (Machine.Num.add false (numOf p.1) p.2.val)))] Health.none) ∧
  -- the updates of R239, one rounding to FP32 an operation
  (∀ (lr b1 b2 eps wd g w0 : Word) (t : Nat) (m0 v0 : Machine.Num),
    let m := fadd (rne32 (Machine.Num.mul (numOf b1) m0)) (fmul (fsub 0x3F800000 b1) g)
    let v := fadd (rne32 (Machine.Num.mul (numOf b2) v0)) (fmul (fsub 0x3F800000 b2) (fmul g g))
    let mh := fdiv m (fsub 0x3F800000 (fpow b1 t))
    let vh := fdiv v (fsub 0x3F800000 (fpow b2 t))
    let u := fdiv mh (fadd (rne32 (numOf vh).sqrt) eps)
    adamStep lr b1 b2 eps wd t g w0 m0 v0 = (fsub w0 (fmul lr (fadd u (fmul wd w0))), m, v)) ∧
  (∀ (lr mu wd g w0 : Word) (nest : Bool) (m0 : Machine.Num),
    let m := fadd (rne32 (Machine.Num.mul (numOf mu) m0)) g
    let u := if nest then fadd g (fmul mu m) else m
    sgdStep lr mu wd nest g w0 m0 = (fsub w0 (fmul lr (fadd u (fmul wd w0))), m))

/-! ### What reaches the device from outside (R505 to R519) -/

/-- HOST_WRITE, HOST_READ, QUEUE_KICK, RIDX_WRITE, REGISTER_WRITE_OTHER, PEER_ACCESS, FLIT_REPLAY, PORT_DOWN, INGRESS_DESCRIPTOR_TRIGGER and
INGRESS_RUN, while the device runs. What a refused peer access gives back and the count after a 17th replay are log 46, the detail bytes of events
1, 6, 10 and 11 log 43, the secure mailbox's stream and a doorbell with an unknown code log 44, an ingress run log 62 and its side slots log 87. -/
def Obligations.OutsideAccesses : Prop :=
  (∀ s : State, s.inRun = true →
    (∀ (sec : Bool) (a : Nat) (bs : List Byte), a + bs.length ≤ hbmBytes →
      exec (.hostWrite sec a bs) s = .next (hostWrites sec (linePieces (spanLines a bs.length) a bs.length) bs s)) ∧
    (∀ (sec : Bool) (a n : Nat), a + n ≤ hbmBytes → exec (.hostRead sec a n) s =
      let l := (linePieces (spanLines a n) a n).map (fun p => hostBytes s sec p.1 p.2)
      .next { s with hostIn := ⟨l.flatMap (·.bytes), l.any (·.poisoned)⟩ }) ∧
    -- a kick beyond the ring's room is ignored and reported; otherwise TAIL takes the value
    (∀ (q : Nat) (v : Word), q < 8184 →
      (((s.queue q).depth < (v - (s.queue q).head).toNat ∨ (s.queue q).depth < (v - (s.queue q).tail).toNat) →
        exec (.queueKick q v) s = .next (postEvent s 11 (s.queue q).asid (toBytes 4 q ++ toBytes 4 v.toNat))) ∧
      -- a closed queue takes no push
      ((v - (s.queue q).head).toNat ≤ (s.queue q).depth → (v - (s.queue q).tail).toNat ≤ (s.queue q).depth →
        exec (.queueKick q v) s = .next (if (s.queue q).closed = true then s else s.modQueue q (fun q => { q with tail := v })))) ∧
    -- the Backwater queues take no post of the host
    (∀ (q : Nat) (v : Word), 8184 ≤ q → q < 8192 →
      exec (.queueKick q v) s = .next (postEvent s 11 (s.queue q).asid (toBytes 4 q ++ toBytes 4 v.toNat))) ∧
    (∀ v : Word, exec (.ridxWrite v) s = .next (if s.ring.count < (s.ring.widx - v).toNat then s else { s with ring := { s.ring with ridx := v } })) ∧
    -- other registers: an ingress descriptor's words, the bytes of a mailbox; what does not exist takes nothing
    (∀ (a : Nat) (bs : List Byte), 0x10000 ≤ a → a < 0x10200 → a % 32 + bs.length ≤ 24 →
      exec (.registerWriteOther 2 a bs) s = .next (let j := (a - 0x10000) / 32
        { s with ingress := tput s.ingress j (let x := tgetD s.ingress j Ingress.reset; { x with reg := putBytes x.reg (a % 32) bs }) })) ∧
    (∀ (a : Nat) (bs : List Byte), a + bs.length ≤ 64 → a < 0x40 →
      exec (.registerWriteOther 0 a bs) s = .next { s with box0 := { s.box0 with bytes := putBytes s.box0.bytes a bs } } ∧
      -- the secure one takes a write over a secure stream only, which is not for the device to tell: a free choice (log 44)
      ((exec (.registerWriteOther 0 (0x1000 + a) bs) s = .next { s with box1 := { s.box1 with bytes := putBytes s.box1.bytes a bs } }.bump) ∨
        exec (.registerWriteOther 0 (0x1000 + a) bs) s = .next s.bump)) ∧
    -- the doorbell: a command of no code is refused at once; any other stands until it has been executed
    (∀ v : Word,
      let none' : Prop := v = 1 ∧ ((s.box0.bytes.extractLsb' 0 8).toNat = 0 ∨ 0x0F < (s.box0.bytes.extractLsb' 0 8).toNat)
      (none' → exec (.registerWriteOther 0 0x40 (toBytes 4 v.toNat)) s = .next { s with box0 := { s.box0 with bell := 0, status := 1 } }) ∧
      (¬ none' → exec (.registerWriteOther 0 0x40 (toBytes 4 v.toNat)) s = .next { s with box0 := { s.box0 with bell := v } })) ∧
    (∀ (a : Nat) (bs : List Byte), 0x10200 ≤ a → exec (.registerWriteOther 2 a bs) s = .next s) ∧
    -- peers: at the home, whole lines and undivided atomics
    (∀ (r a : Nat) (x : Bool) (data : BitVec 1024) (dirty : BitVec 128) (side : BitVec 256) (sdirty : BitVec 13),
      r < 64 → a + 128 ≤ hbmBytes → a % 128 = 0 →
      exec (.peerAccess r a ⟨x, .write data dirty side sdirty⟩) s =
        .next (if peerBad s a 128 x (decide (sdirty ≠ 0)) = true then { s with hostIn := ⟨[], false⟩ }
          else writeBackLine s { line := .hbm a, names := [], data := data, dirty := dirty, side := side, sdirty := sdirty })) ∧
    (∀ (r a : Nat) (x sc : Bool), r < 64 → a + 128 ≤ hbmBytes → a % 128 = 0 →
      let bad := s.poisoned (.hbm a) 128
      let sbad := s.slotPoisoned (.hbm a)
      let line : List Byte := if bad then List.replicate 128 0xFF else s.bytes (.hbm a) 128
      let slot : List Byte := if sbad then List.replicate 32 0xFF else toBytes 32 (s.slotAt (.hbm a)).toNat
      exec (.peerAccess r a ⟨x, .read sc⟩) s =
        .next { s with hostIn := if peerBad s a 128 x sc = true then ⟨[], false⟩ else ⟨line ++ slot, bad || sbad⟩ }) ∧
    (∀ (r a : Nat) (w wide : Bool) (op : AtomOp) (x new : DWord), r < 64 → a + (if wide then 8 else 4) ≤ hbmBytes → a % (if wide then 8 else 4) = 0 →
      let n := if wide then 8 else 4
      let old := s.bytes (.hbm a) n
      let v : DWord := BitVec.ofNat 64 (ofBytes old)
      let give (t : State) : Out := .next (if peerBad s a n w false = true then { s with hostIn := ⟨[], false⟩ } else t)
      -- a poisoned word stays, and is answered as such (R530)
      (s.poisoned (.hbm a) n = true →
        let t : State := { s with hostIn := ⟨List.replicate n 0xFF, true⟩ }
        exec (.peerAccess r a ⟨w, .atomic op wide x⟩) s = give t ∧ exec (.peerAccess r a ⟨w, .compare wide x new⟩) s = give t) ∧
      (s.poisoned (.hbm a) n = false →
        exec (.peerAccess r a ⟨w, .atomic op wide x⟩) s =
          give { homeWrite s (.hbm a) (toBytes n (atomNew op wide v x).toNat) with hostIn := ⟨old, false⟩ } ∧
        exec (.peerAccess r a ⟨w, .compare wide x new⟩) s =
          give { (if v = x then homeWrite s (.hbm a) (toBytes n new.toNat) else s) with hostIn := ⟨old, false⟩ })) ∧
    -- a flit is sent again up to sixteen times; then the port is down, and the collectives over it end
    (∀ p, p < 16 → tgetD s.ports p false = false →
      exec (.flitReplay p) s = .next { s with replays := tputD s.replays p 0 (tgetD s.replays p 0 % 16 + 1) } ∧
      (tgetD s.replays p 0 = 16 →
        let t : State := { s with ports := tputD s.ports p false true, replays := tputD s.replays p 0 0 }
        exec (.portDown p) s = .next ((s.groups.filter (fun g => g.2.routes.contains p)).foldl (fun s g => endColls s g.1 1) t).bump) ∧
      (tgetD s.replays p 0 ≠ 16 → exec (.portDown p) s = .refused .notEnabled)) ∧
    -- the last bytes of a descriptor latch it: it is held, or refused with event 10
    (∀ (j : Nat) (bs : List Byte), j < 16 → (bs.length = 8 ∨ bs.length = 32) →
      let t := s.modIngress j (fun x => { x with reg := putBytes x.reg (32 - bs.length) bs })
      let x := t.ingressOf j
      let d := parseIngress x.reg
      let good : Prop := x.bound = true ∧ x.held.length < 16 ∧ d.n ≠ 0 ∧ d.cval.msb = false ∧ d.stg % 65536 = 0 ∧ d.dst % 65536 = 0 ∧ d.cword % 4 = 0
      (good → exec (.ingressDescriptorTrigger j bs) s = .next (t.modIngress j (fun x => { x with held := x.held ++ [d] }))) ∧
      (¬ good → exec (.ingressDescriptorTrigger j bs) s = .next (postEvent t 10 x.asid (toBytes 4 j ++ toBytes 8 d.stg ++ toBytes 8 d.dst)))) ∧
    -- a chunk of the staging area whose tag holds goes to its place; one whose tag does not ends the run with event 1 and bit 31 of CVAL
    (∀ (j : Nat) (d : IngressDesc) (r : List IngressDesc), (s.ingressOf j).held = d :: r →
      let x := s.ingressOf j
      let i := x.chunk
      let at' (o : Nat) : Nat := x.base + d.stg + o
      let bs := s.bytes (.hbm (at' (65536 * i))) 65536
      let tag := s.bytes (.hbm (at' (65536 * d.n + 16 * i))) 16
      let slot := if isHeader d bs then headerKey bs else x.key
      let world : Prop := ∃ c, tget s.ctxs x.asid = some c ∧ c.world = true
      let reads (o n : Nat) : Prop := d.stg + o + n ≤ x.size ∧ s.poisoned (.hbm (at' o)) n = false ∧ (world ∨ meetsSecure s (at' o) n = false)
      let bad (key : Nat) : State :=
        endIngress (postEvent s 1 x.asid (toBytes 4 j ++ toBytes 4 i ++ toBytes 4 key ++ toBytes 8 d.dst)) j x d true
      (reads (65536 * i) 65536 → reads (65536 * d.n + 16 * i) 16 →
        (∀ k c t, tget s.ctxs x.asid = some c → keyOk s slot c.world = true → tget s.keys slot = some k → chunkTag k.key bs i = tag →
          (isHeader d bs = true → headerOk bs = true) → ctxStore s x.asid (d.dst + 65536 * i) bs = .ok t →
          -- the side slots of its lines go with it
          let t1 := landSlots t x.asid (at' (65536 * i)) (d.dst + 65536 * i) 65536
          let u := if isHeader d bs then t1.modIngress j (fun x => { x with key := slot }) else t1
          exec (.ingressRun j) s = .next (if i + 1 = d.n then endIngress u j x d false else u.modIngress j (fun x => { x with chunk := i + 1 }))) ∧
        ((∀ k, tget s.keys slot = some k → chunkTag k.key bs i ≠ tag) → exec (.ingressRun j) s = .next (bad slot))) ∧
      -- a chunk or tag outside the staging area, poisoned, or of a secure range that the queue's context may not read
      (¬ reads (65536 * i) 65536 ∨ ¬ reads (65536 * d.n + 16 * i) 16 → exec (.ingressRun j) s = .next (bad x.key)))) ∧
  -- before the run a write is dropped and a read answers all ones
  (∀ s : State, s.inRun = false → s.plat.off = false →
    (∀ sec a bs, a + List.length bs ≤ hbmBytes → exec (.hostWrite sec a bs) s = .next s) ∧
    (∀ sec a n, a + n ≤ hbmBytes → exec (.hostRead sec a n) s = .next { s with hostIn := ⟨List.replicate n 0xFF, false⟩ }) ∧
    (∀ q v, q < 8192 → exec (.queueKick q v) s = .next s) ∧ (∀ v, exec (.ridxWrite v) s = .next s)) ∧
  -- each piece of a read: all ones in the side region and in a secure frame, all ones with the indication where it is poisoned (R530)
  (∀ (s : State) (sec : Bool) (a k : Nat),
    let shut : Prop := inSideRegion s a k = true ∨ (sec = false ∧ meetsSecure s a k = true)
    (shut → hostBytes s sec a k = ⟨List.replicate k 0xFF, false⟩) ∧
    (¬ shut → s.poisoned (.hbm a) k = true → hostBytes s sec a k = ⟨List.replicate k 0xFF, true⟩) ∧
    (¬ shut → s.poisoned (.hbm a) k = false → hostBytes s sec a k = ⟨s.bytes (.hbm a) k, false⟩)) ∧
  -- each piece of a write: dropped in the side region, dropped and reported in a secure frame, stored elsewhere
  (∀ (s : State) (sec : Bool) (a k : Nat) (r : List (Nat × Nat)) (bs : List Byte),
    hostWrites sec ((a, k) :: r) bs s = hostWrites sec r (bs.drop k)
      (if inSideRegion s a k then s else if !sec && meetsSecure s a k then postEvent s 6 0 (toBytes 8 a) else homeWrite s (.hbm a) (bs.take k)))

/-! ### Control commands (R445, R447, R451, R455, R458, R507, R508, R511, R519, R525, R538, R540) -/

namespace Sys2Proof.Claims

/-- A command whose mailbox rings, with its code at byte 0: it leaves `t` and the status `st`, and clears the doorbell. -/
def Answers (i : Instr) (code : Nat) (sec : Bool) (s t : State) (st : Word) : Prop :=
  let m := if sec then s.box1 else s.box0
  m.bell = 1 → (m.bytes.extractLsb' 0 8).toNat = code → exec i s = .next (if sec then { t with box1 := { t.box1 with bell := 0, status := st } } else { t with box0 := { t.box0 with bell := 0, status := st } })

/-- The mailbox and the code of each control command (R507). -/
def mailCode (i : Instr) : Option (Bool × Nat) :=
  match i with
  | .createContext sec _ _ _ _ _ _ => some (sec, 0x01)
  | .destroyContext sec _ => some (sec, 0x02)
  | .invalidate sec _ _ _ => some (sec, 0x05)
  | .bindQueue sec _ _ _ _ _ _ _ _ => some (sec, 0x03)
  | .setTickets sec _ _ => some (sec, 0x04)
  | .closeItemQueue sec _ => some (sec, 0x0F)
  | .openItemQueue sec _ => some (sec, 0x0F)
  | .preEmpt sec _ => some (sec, 0x06)
  | .taskRelease sec _ => some (sec, 0x07)
  | .taskRemoval sec _ => some (sec, 0x07)
  | .acknowledgeFault sec _ _ => some (sec, 0x08)
  | .setLaunchGroup sec _ _ _ _ _ => some (sec, 0x09)
  | .installKey sec _ _ _ => some (sec, 0x0A)
  | .bindIngressQueue sec _ _ _ _ => some (sec, 0x0B)
  | .setEventRing sec _ _ => some (sec, 0x0C)
  | .attestation sec _ _ => some (sec, 0x0D)
  | .setPowerLimit sec _ => some (sec, 0x0E)
  | _ => none

end Sys2Proof.Claims

/-- The control commands while the device runs, from a mailbox whose doorbell stands and whose bytes hold the code: status 0 with the command's
effect, otherwise why not and no effect. Which status answers first, what is busy, the fields of groups and contexts, the cleared pool and the
places of operands that the spec does not give are log 44. -/
def Obligations.ControlCommands : Prop :=
  -- a command that no mailbox holds is not executed
  (∀ (s : State) (i : Instr) (sec : Bool) (code : Nat), mailCode i = some (sec, code) → s.inRun = true →
    let m := if sec then s.box1 else s.box0
    (m.bell ≠ 1 ∨ (m.bytes.extractLsb' 0 8).toNat ≠ code) → exec i s = .refused .notEnabled) ∧
  (∀ (s : State) (sec : Bool), s.inRun = true →
    -- contexts
    (∀ (asid : BitVec 16) (world : Bool) (troot tvec pool size : DWord),
      let fields : Prop := troot.toNat % 65536 = 0 ∧ troot.toNat < 2 ^ 52 ∧ pool.toNat % 65536 = 0 ∧ pool.toNat + size.toNat ≤ hbmBytes
      let x : Context := ⟨world, troot.toNat, tvec &&& 0xFFFFFFFFFFFFE000, pool.toNat, size.toNat, 0, 0, 0, [], []⟩
      let i : Instr := .createContext sec asid world troot tvec pool size
      -- the non-secure mailbox makes no secure context, and names none
      let barred : Prop := sec = false ∧ (world = true ∨ ∃ y, tget s.ctxs asid.toNat = some y ∧ y.world = true)
      (barred → Answers i 0x01 sec s s 2) ∧
      (¬ barred → (¬ fields → Answers i 0x01 sec s s 1) ∧
        (fields → (tget s.ctxs asid.toNat ≠ none → Answers i 0x01 sec s s 3) ∧
          -- the fault slots and the health area of its save pool stand at 0
          (tget s.ctxs asid.toNat = none → Answers i 0x01 sec s ((List.range 9).foldl (fun s k => if 32768 * k + 64 ≤ x.poolSize then
            homeWrite s (.hbm (x.poolBase + 32768 * k)) (List.replicate 64 0) else s) { s with ctxs := tput s.ctxs asid.toNat x }) 0)))) ∧
    (∀ (asid : BitVec 16),
      let a := asid.toNat
      let held : Prop := (∃ u ∈ s.nmus, ∃ c ∈ u.2, c.asid = a) ∨ (∃ q ∈ s.flioc.sends, q.2.asid = a) ∨ ∃ d ∈ s.dies, ∃ c ∈ d.2.colls, c.asid = a
      -- also one that waits in the task store
      let live : Prop := ∃ l ∈ s.launches, l.2.asid = a ∧ l.2.state ≠ .ended
      (tget s.ctxs a = none → Answers (.destroyContext sec asid) 0x02 sec s s 1) ∧
      (∀ x, tget s.ctxs a = some x → (x.world = true → sec = false → Answers (.destroyContext sec asid) 0x02 sec s s 2) ∧
        ((x.world = true → sec = true) → (held → exec (.destroyContext sec asid) s = .refused .notEnabled) ∧
          (¬ held → (live → Answers (.destroyContext sec asid) 0x02 sec s s 3) ∧ (¬ live → Answers (.destroyContext sec asid) 0x02 sec s (forgetContext s a) 0))))) ∧
    (∀ (asid : BitVec 16) (base len : DWord),
      (tget s.ctxs asid.toNat = none → Answers (.invalidate sec asid base len) 0x05 sec s s 1) ∧
      (∀ x, tget s.ctxs asid.toNat = some x → (x.world = true → sec = false → Answers (.invalidate sec asid base len) 0x05 sec s s 2) ∧
        ((x.world = true → sec = true) →
          Answers (.invalidate sec asid base len) 0x05 sec s (invalidateRange s asid.toNat base.toNat (base.toNat + len.toNat)) 0))) ∧
    -- queues
    (∀ (q : Nat) (asid : BitVec 16) (item : Bool) (ring : DWord) (depth cls tkt group : Nat) (x : Context), tget s.ctxs asid.toNat = some x → q < 8184 →
      let i : Instr := .bindQueue sec q asid item ring depth cls tkt group
      let fields : Prop := ring.toNat % 8 = 0 ∧ ring.toNat < 2 ^ 52 ∧ (∃ n, n ≤ 12 ∧ depth = 2 ^ n) ∧ cls ≤ 4 ∧ 1 ≤ tkt ∧ tkt ≤ 65535 ∧
        (group = 0 ∨ tget s.groups group ≠ none)
      let busy : Prop := (s.queue q).fill ≠ 0 ∨ ∃ l ∈ s.launches, l.2.queue = q ∧ l.2.state ≠ .ended
      let y : Queue := { Queue.reset with bound := true, ring := ring.toNat, depth := depth, asid := asid.toNat, world := x.world, cls := cls,
                                          tkt := tkt, item := item, group := group }
      (sec = false → (x.world = true ∨ (s.queue q).world = true) → Answers i 0x03 sec s s 2) ∧
      ((sec = true ∨ (x.world = false ∧ (s.queue q).world = false)) → (¬ fields → Answers i 0x03 sec s s 1) ∧
        (fields → (busy → Answers i 0x03 sec s s 3) ∧ (¬ busy → Answers i 0x03 sec s (s.modQueue q (fun _ => y)) 0)))) ∧
    (∀ (q tkt : Nat), q < 8192 → (s.queue q).bound = true → (s.queue q).item = false → 1 ≤ tkt → tkt ≤ 65535 →
      let v := classTime s (s.queue q).cls
      (sec = true ∨ (s.queue q).world = false) → Answers (.setTickets sec q tkt) 0x04 sec s (s.modQueue q (fun q =>
        { q with tkt := tkt, pass := v + (q.pass - v) * (2 ^ 24 / max 1 tkt) / (2 ^ 24 / max 1 q.tkt) })) 0) ∧
    -- a secure queue is not named from the non-secure mailbox; then the queue's kind and the tickets are tested
    (∀ (q tkt : Nat), sec = false → (s.queue q).world = true → Answers (.setTickets sec q tkt) 0x04 sec s s 2 ∧
      Answers (.closeItemQueue sec q) 0x0F sec s s 2 ∧ Answers (.openItemQueue sec q) 0x0F sec s s 2) ∧
    (∀ (q tkt : Nat), (sec = true ∨ (s.queue q).world = false) →
      ((8192 ≤ q ∨ (s.queue q).bound = false ∨ (s.queue q).item = true ∨ tkt = 0 ∨ 65535 < tkt) → Answers (.setTickets sec q tkt) 0x04 sec s s 1) ∧
      ((8192 ≤ q ∨ (s.queue q).bound = false ∨ (s.queue q).item = false) →
        Answers (.closeItemQueue sec q) 0x0F sec s s 1 ∧ Answers (.openItemQueue sec q) 0x0F sec s s 1)) ∧
    (∀ q, q < 8192 → (s.queue q).bound = true → (s.queue q).item = true → (sec = true ∨ (s.queue q).world = false) →
      Answers (.closeItemQueue sec q) 0x0F sec s (s.modQueue q (fun q => { q with closed := true })) 0 ∧
      Answers (.openItemQueue sec q) 0x0F sec s (s.modQueue q (fun q => { q with closed := false })) 0) ∧
    -- pre-emption: every gang of the launches named begins to stop
    (∀ q, q < 8192 → (s.queue q).bound = true → (sec = true ∨ (s.queue q).world = false) →
      let ls := s.launches.filter (fun p => decide (p.2.state ≠ .ended) && decide (p.2.queue = q))
      Answers (.preEmpt sec (.queue q)) 0x06 sec s (((s.gangs.filter (fun g => ls.any (fun l => decide (l.1 = g.2.launch)))).map (·.1)).foldl preempt s) 0) ∧
    (∀ asid x, tget s.ctxs (BitVec.toNat asid) = some x → (sec = true ∨ x.world = false) →
      let ls := s.launches.filter (fun p => decide (p.2.state ≠ .ended) && decide (p.2.asid = BitVec.toNat asid))
      Answers (.preEmpt sec (.context asid)) 0x06 sec s (((s.gangs.filter (fun g => ls.any (fun l => decide (l.1 = g.2.launch)))).map (·.1)).foldl preempt s) 0) ∧
    (∀ addr, let ls := s.launches.filter (fun p => decide (p.2.state ≠ .ended) && decide (p.2.addr = BitVec.toNat addr))
      (ls = [] → Answers (.preEmpt sec (.launch addr)) 0x06 sec s s 1) ∧
      (ls ≠ [] → (∀ p ∈ ls, mayName s sec p.2.asid = true) → Answers (.preEmpt sec (.launch addr)) 0x06 sec s
        (((s.gangs.filter (fun g => ls.any (fun l => decide (l.1 = g.2.launch)))).map (·.1)).foldl preempt s) 0)) ∧
    -- tasks
    (∀ addr : DWord,
      (taskAt s addr.toNat = none → Answers (.taskRelease sec addr) 0x07 sec s s 1 ∧ Answers (.taskRemoval sec addr) 0x07 sec s s 1) ∧
      (∀ lid a, taskAt s addr.toNat = some (.launch lid a) → mayName s sec a = true →
        Answers (.taskRelease sec addr) 0x07 sec s (releaseLaunch s lid true) 0 ∧ Answers (.taskRemoval sec addr) 0x07 sec s { s with launches := tdel s.launches lid } 0) ∧
      (∀ a, taskAt s addr.toNat = some (.near a) → mayName s sec a = true →
        let t := dropTask s a addr.toNat
        Answers (.taskRelease sec addr) 0x07 sec s (sendTask t a addr.toNat) 0 ∧ Answers (.taskRemoval sec addr) 0x07 sec s t 0)) ∧
    -- fault records: the gangs go on or end, the core of a hard fault is free, STATE becomes 0 and the slot is free
    (∀ (addr : DWord) (action : BitVec 8),
      (recordSlot s addr.toNat = none → Answers (.acknowledgeFault sec addr action) 0x08 sec s s 1) ∧
      (∀ a k r, recordSlot s addr.toNat = some (a, k, r) → mayName s sec a = true → action.toNat < 2 →
        ofBytes (s.bytes (.hbm (addr.toNat + 0x3C)) 4) = 1 →
        let t := if r.cls = 1 then s.modCore r.core (fun c => { c with stopped := false }) else s
        let u := homeWrite (r.gangs.foldl (answerGang r (decide (action = 0))) t) (.hbm (addr.toNat + 0x3C)) (toBytes 4 0)
        -- the slot is free, and the oldest waiting record takes the lowest free slot at once
        let v := u.modCtx a (fun x => { x with slots := tdel x.slots k })
        Answers (.acknowledgeFault sec addr action) 0x08 sec s ((postRecord v a).getD v) 0)) ∧
    -- launch groups, keys, ingress queues, the event ring, attestation, power
    (∀ (group n rank : Nat) (gen : Word) (routes : List Nat),
      let fields : Prop := 1 ≤ group ∧ group < 65536 ∧ 2 ≤ n ∧ n ≤ 64 ∧ rank < n ∧ routes.length = n ∧ ∀ p ∈ routes, p < 16
      let i : Instr := .setLaunchGroup sec group n rank gen routes
      (¬ fields → Answers i 0x09 sec s s 1) ∧
      (fields → tget s.groups group = none → Answers i 0x09 sec s { s with groups := tput s.groups group ⟨n, rank, gen.toNat, routes, 0⟩ } 0) ∧
      (∀ g, fields → tget s.groups group = some g →
        (g.gen = gen.toNat → Answers i 0x09 sec s { s with groups := tput s.groups group ⟨n, rank, gen.toNat, routes, g.posted⟩ } 0) ∧
        (g.gen ≠ gen.toNat → let t := (endColls s group 3).bump
          Answers i 0x09 sec s { t with groups := tput t.groups group ⟨n, rank, gen.toNat, routes, 0⟩ } 0))) ∧
    (∀ (slot : Nat) (key : BitVec 256) (both : Bool),
      (sec = false → Answers (.installKey sec slot key both) 0x0A sec s s 2) ∧
      (sec = true → slot < 64 → Answers (.installKey sec slot key both) 0x0A sec s { s with keys := tput s.keys slot ⟨key, both⟩ } 0) ∧
      (sec = true → 64 ≤ slot → Answers (.installKey sec slot key both) 0x0A sec s s 1)) ∧
    (∀ (j : Nat) (asid : BitVec 16) (base size : DWord), j < 16 → tget s.ctxs asid.toNat ≠ none → base.toNat + size.toNat ≤ hbmBytes →
      mayName s sec asid.toNat = true → ((s.ingressOf j).bound = true → mayName s sec (s.ingressOf j).asid = true) →
      let i : Instr := .bindIngressQueue sec j asid base size
      ((s.ingressOf j).held ≠ [] → Answers i 0x0B sec s s 3) ∧
      ((s.ingressOf j).held = [] → Answers i 0x0B sec s (s.modIngress j (fun _ =>
        { Ingress.reset with bound := true, asid := asid.toNat, base := base.toNat, size := size.toNat })) 0)) ∧
    (∀ base count : DWord, ((∃ n, n < 32 ∧ count.toNat = 2 ^ n) →
        Answers (.setEventRing sec base count) 0x0C sec s { s with ring := ⟨true, base.toNat, count.toNat, 0, 0⟩ } 0) ∧
      (¬ (∃ n, n < 32 ∧ count.toNat = 2 ^ n) → Answers (.setEventRing sec base count) 0x0C sec s s 1)) ∧
    (∀ (nonce : BitVec 256) (addr : DWord),
      let n := 17216 + Config.certificate.length
      let body := reportBytes s nonce
      -- the nonce stands at byte 8 of the mailbox, the address at byte 40
      let m := if sec then s.box1 else s.box0
      (m.bytes.extractLsb' (8 * 8) 256).toNat = nonce.toNat → (m.bytes.extractLsb' (8 * 40) 64).toNat = addr.toNat →
      addr.toNat % 64 = 0 → addr.toNat + n ≤ hbmBytes → (sec = true ∨ meetsSecure s addr.toNat n = false) →
      Answers (.attestation sec nonce addr) 0x0D sec s (homeWrite (homeWrite s (.hbm addr.toNat)
        (body ++ (Config.sign body ++ List.replicate 17088 0).take 17088)) (.hbm (addr.toNat + 17216)) Config.certificate) 0) ∧
    (∀ w : DWord, let m := if sec then s.box1 else s.box0
      -- the watts stand at byte 8
      (m.bytes.extractLsb' (8 * 8) 64).toNat = w.toNat →
      (2400 ≤ w.toNat → w.toNat ≤ 3600 → Answers (.setPowerLimit sec w) 0x0E sec s { s with plat := { s.plat with plim := w.toNat } } 0) ∧
      ((w.toNat < 2400 ∨ 3600 < w.toNat) → Answers (.setPowerLimit sec w) 0x0E sec s s 1)))

/-! ### The part (R2, R529, R530, R534 to R540) -/

/-- POWER_ON_RESET, POWER_LOSS, FIRMWARE_VERIFY, THROTTLE, CLOCK_RESTORE, OVERTEMP_RESET, SOFT_ERROR and SCRUB_PASS. Verification in two steps,
what a manifest and a configuration block hold, the clock back at 600 MHz at once and the state without power are log 45; the detail bytes of
event 8 are log 43, and what a read of the registers is answered with is log 63. -/
def Obligations.PlatformEvents : Prop :=
  -- a reset leaves the state of reset, but for what the part keeps: the SVN that verified images have asked for
  (∀ s : State, ∃ t, exec .powerOnReset s = .next t ∧ t.plat = { Platform.reset with fsvnUp := s.plat.fsvnUp } ∧
    { t with turns := [], free := 0, plat := Platform.reset } = { State.reset with turns := [], free := 0, plat := Platform.reset }) ∧
  (∀ s : State, ∃ t, exec .powerLoss s = .next t ∧ t.plat.off = true ∧ t.warps = [] ∧ t.mem = [] ∧ t.regs = []) ∧
  (∀ (s : State) (tj : Nat), s.plat.off = false →
    (110 ≤ tj → exec (.overtempReset tj) s = exec .powerOnReset s) ∧ (tj < 110 → exec (.overtempReset tj) s = .refused .notEnabled)) ∧
  (∀ (s : State) (x : FirmwareImage), s.plat.off = false →
    -- the checks in order: flash, then, of what was read, signature and digests, SVN, self-test
    let signed : Prop := Config.signatureOk x.manifest = true ∧ sha256 x.code = toBytes 32 (Config.manifestCodeHash x.manifest).toNat ∧
      sha256 x.config = toBytes 32 (Config.manifestConfigHash x.manifest).toNat
    let svn := Config.manifestSvn x.manifest
    let low := max ((Config.fused 2).toNat % 65536) s.plat.fsvnUp
    -- a spare of its own die for each failing Reach core; none for a Riffle core
    let repaired : Prop := (∀ c ∈ x.failing, isRiffle c = false) ∧
      ∀ d, d < 8 → (failingReach x d).length ≤ ((List.range 8).filter (fun k => !x.badSpares.contains (8 * d + k))).length
    let failed (k : Nat) : Out := .next { s with plat := { s.plat with bstate := 3, fail := k } }
    (s.plat.bstate = 0 → x.readable = false → exec (.firmwareVerify x) s = failed 4) ∧
    (s.plat.bstate = 0 → x.readable = true → exec (.firmwareVerify x) s = .next { s with plat := { s.plat with bstate := 1 } }) ∧
    (s.plat.bstate = 1 → x.readable = true →
      (¬ signed → exec (.firmwareVerify x) s = failed 1) ∧
      (signed → svn.toNat < low → exec (.firmwareVerify x) s = failed 2) ∧
      (signed → low ≤ svn.toNat →
        (¬ repaired → exec (.firmwareVerify x) s = failed 3) ∧
        -- what is verified fixes the run: the manifest its SVN, the configuration block the scaled parts and the secure ranges
        (repaired → ∃ t, exec (.firmwareVerify x) s = .next t ∧ t.inRun = true ∧ t.plat.sch = min 16384 (Config.configSch x.config) ∧
          t.plat.sce = min 12 (Config.configSce x.config) ∧ t.plat.secure = Config.configSecure x.config ∧ t.plat.svn = svn ∧
          toBytes 32 t.plat.cfgHash.toNat = sha256 x.config ∧ toBytes 32 t.plat.fwm.toNat = sha256 (x.manifest ++ x.code ++ x.config) ∧
          t.plat.fsvnUp = (if Config.manifestRaises x.manifest = true then max s.plat.fsvnUp (svn.toNat % 65536) else s.plat.fsvnUp) ∧
          -- SPARE counts the spares in use, four bits a die (R535, R539)
          (∀ d, d < 8 → ((spareOf t.plat).extractLsb' (4 * d) 4).toNat = (failingReach x d).length) ∧
          (∀ d, d < 8 → t.queue (8184 + d) = backwaterQueue) ∧ t.mem = s.mem ∧ t.warps = s.warps ∧ t.now = 0)))) ∧
  (∀ (s : State) (pwr tj : Nat), s.inRun = true →
    -- the average stays at most at the limit; at 110 degrees the device resets itself
    ((s.plat.plim < pwr ∨ 100 ≤ tj) → tj < 110 →
      exec (.throttle pwr tj) s =
        .next { s with plat := { s.plat with pwr := min pwr s.plat.plim, tj := tj, clk := max 300 (s.plat.clk - 25), calm := s.now } }) ∧
    (110 ≤ tj → exec (.throttle pwr tj) s = .refused .notEnabled) ∧
    (pwr ≤ s.plat.plim → tj < 100 → exec (.throttle pwr tj) s = .refused .notEnabled) ∧
    (pwr ≤ s.plat.plim → tj < 100 → s.plat.clk < 600 →
      (s.plat.calm + 30000 * s.plat.clk ≤ s.now →
        exec (.clockRestore pwr tj) s = .next { s with plat := { s.plat with pwr := pwr, tj := tj, clk := 600 } }) ∧
      (s.now < s.plat.calm + 30000 * s.plat.clk → exec (.clockRestore pwr tj) s = .refused .notEnabled))) ∧
  -- a corrected error is counted and changes nothing else; any other poisons its granule
  (∀ (s : State) (x : SoftError), s.plat.off = false →
    (∀ hbm, x = .corrected hbm → exec (.softError x) s =
      .next { s with plat := if hbm then { s.plat with chbm := s.plat.chbm + 1 } else { s.plat with csram := s.plat.csram + 1 } }) ∧
    (∀ k, poisonKey x = some k → ∃ t, exec (.softError x) s = .next t ∧ k ∈ t.poison ∧ (∀ j, j ∈ t.poison ↔ j = k ∨ j ∈ s.poison) ∧
      t.mem = s.mem ∧ t.regs = s.regs ∧ t.acc = s.acc)) ∧
  (∀ (s : State) (n m : Nat), s.inRun = true →
    let t : State := { s with plat := { s.plat with csram := s.plat.csram + BitVec.ofNat 64 n, chbm := s.plat.chbm + BitVec.ofNat 64 m } }
    exec (.scrubPass n m) s = .next (s.poison.foldl (fun s k => postEvent s 8 0 (poisonDetail k)) t)) ∧
  -- before the run a read of BAR 0 or BAR 2 outside the status window returns all ones; the window is read at any time
  (∀ (s : State) (bar addr n : Nat), s.plat.off = false → s.inRun = false → (bar = 0 → ¬ (0x2000 ≤ addr ∧ addr + n ≤ 0x2060)) →
    registerRead s bar addr n = some (List.replicate n 0xFF)) ∧
  (∀ s : State, s.plat.off = false →
    registerRead s 0 0x2008 8 = some [0x53, 0x4C, 0x4E, 0x34, 0x32, 0x31, 0x37, 0x36] ∧ registerRead s 0 0x2018 2 = some [4, 0] ∧
    registerRead s 0 0x2000 2 = some [BitVec.ofNat 8 (s.plat.bstate % 16), BitVec.ofNat 8 s.plat.fail])

/-! ### Frames (R51, R102, R207 to R212, R325) -/

namespace Sys2Proof.Claims

/-- What an issue of the split `c0` leaves alone: everything but its own warp's progress, the results of it that were due, its core's issue time and
operand latch, and the draws of free values. -/
def LeavesRest (s t : State) (c0 : Ctx) : Prop :=
  { t with warps := s.warps, cores := s.cores, regs := s.regs, poison := s.poison, free := s.free } = s ∧
  (∀ k, (∀ p ∈ c0.split.pend, p.due ≤ c0.split.nd → p.key ≠ k) → t.regAt k = s.regAt k) ∧
  (∀ v, v ≠ c0.w → tget t.warps v = tget s.warps v) ∧
  (∃ wq, tget t.warps c0.w = some wq ∧
    { wq with splits := c0.warp.splits, flights := c0.warp.flights, fixed := c0.warp.fixed, ctrs := c0.warp.ctrs } = c0.warp ∧
    ∀ e, e ≠ c0.ent → wq.split? e = c0.warp.split? e) ∧
  (∀ k, k ≠ c0.core → t.core k = s.core k) ∧
  { t.core c0.core with issued := (s.core c0.core).issued, latch := (s.core c0.core).latch } = s.core c0.core

/-- A memory instruction as its frame needs it: its frame, names and checks, the accesses whose bytes it stores, and the scale words (numbers 0 to
11; 12 is the descriptor) that it stores in the side slots of accesses. -/
structure MemForm where
  f : Fr
  n : Names
  early : Ctx → Option Nat
  chks : Ctx → List (Nat × Chk)
  bytes : Ctx → List Acc → List Acc
  slots : Ctx → List Acc → List (Acc × Nat)

/-- The slots that a stored block writes: its scale word and descriptor, and for MXFP6 the descriptor of its crumb line (R216). -/
def blockSlots (e : Elem) (g : Grp) (as : List Acc) : List (Acc × Nat) :=
  match as with
  | [] => []
  | a :: r => (a, blockSlot e g a) :: (a :: r).map (·, 12)

/-- The memory instructions (R207 to R217, R221 to R225). -/
def memForm (i : Instr) : Option MemForm :=
  let loads (f : Fr) (n : Names) (early : Ctx → Option Nat) (chks : Ctx → List (Nat × Chk)) : Option MemForm :=
    some ⟨f, n, early, chks, fun _ _ => [], fun _ _ => []⟩
  let stores (f : Fr) (n : Names) (early : Ctx → Option Nat) (chks : Ctx → List (Nat × Chk)) : Option MemForm :=
    some ⟨f, n, early, chks, fun _ as => as, fun _ _ => []⟩
  match i with
  | .ld f d a off spc sz _ => loads f (nameDN d (szRegs sz) (reg2 a) none none) noEarly (plainChks spc .read (szBytes sz) (fun c => c.ea a off))
  | .lds f d a off spc sz => loads f (nameDN d (szRegs sz) (reg1 a) none none) noEarly (plainChks spc .read (szBytes sz) (fun c => c.eaShort spc a off))
  | .ldaq f d a off spc sz scope =>
    loads f (nameDN d (szRegs sz) (reg2 a) none none) (levelEarly scope) (plainChks spc .read (szBytes sz) (fun c => c.ea a off))
  | .st f a off x spc sz _ => stores f (nameS (reg2 a) none (srcN x (szRegs sz))) noEarly (plainChks spc .write (szBytes sz) (fun c => c.ea a off))
  | .sts f a off x spc sz => stores f (nameS (reg1 a) none (regN x (szRegs sz))) noEarly (plainChks spc .write (szBytes sz) (fun c => c.eaShort spc a off))
  | .strl f a off x spc sz scope =>
    stores f (nameS (reg2 a) none (regN x (szRegs sz))) (levelEarly scope) (plainChks spc .write (szBytes sz) (fun c => c.ea a off))
  | .atom f _ d a off x spc sz scope _ =>
    stores f (nameDN d (szRegs sz) (reg2 a) none (srcN x (szRegs sz))) (levelEarly scope) (plainChks spc .atomic (szBytes sz) (fun c => c.ea a off))
  | .atomc f d a off x spc sz scope _ =>
    stores f (nameDN d (szRegs sz) (reg2 a) none (regN x (2 * szRegs sz))) (levelEarly scope) (plainChks spc .atomic (szBytes sz) (fun c => c.ea a off))
  | .red f _ a off x spc sz scope _ =>
    stores f (nameS (reg2 a) none (srcN x (szRegs sz))) (levelEarly scope) (plainChks spc .atomic (szBytes sz) (fun c => c.ea a off))
  -- CHUNK stores the first word of its record
  | .chunk f d a => some ⟨f, nameD2 d (reg2 a) none none, noEarly, plainChks .glob .atomic 16 (fun c => c.reg2 a.toNat),
      fun _ as => as.map (fun x => { x with size := 4 }), fun _ _ => []⟩
  | .ldbs f pk d a off bf g _ _ =>
    loads f (nameDN d (if pk then spanLen (bfElem bf) g else 2) (reg2 a) none none) noEarly
      (fun c => (if pk then c.doers else [lowest c.act]).flatMap (blockChk c .read (bfElem bf) g a off))
  | .stbs f pk a off x bf g part _ => some ⟨f, nameS (reg2 a) none (regN x (if pk then spanLen (bfElem bf) g else 2)), noEarly,
      fun c => (if pk then c.doers else [lowest c.act]).flatMap (blockChk c .write (bfElem bf) g a off),
      fun _ as => if pk then as else partAcc (bfElem bf) part.toNat as,
      fun c as => if pk then c.doers.flatMap (fun t => blockSlots (bfElem bf) g (accsOf as t)) else blockSlots (bfElem bf) g as⟩
  | .ldsc f d c2 a b => loads f (nameDC d c2 (reg2 a) (reg1 b)) noEarly
      (fun c => c.doers.map (fun t => (t, resolve c .none .read true 4 4 t (c.reg2 a.toNat t))))
  | .stsc f a b x desc => some ⟨f, nameS (reg2 a) (reg1 b) (if desc then reg2 x else reg1 x), noEarly,
      fun c => c.doers.map (fun t => (t, resolve c .none .write true 4 4 t (c.reg2 a.toNat t))), fun _ _ => [],
      fun c as => as.flatMap (fun p => (if (c.reg b.toNat p.t).toNat % 16 < 12 then [(p, (c.reg b.toNat p.t).toNat % 16)] else []) ++
        (if desc then [(p, 12)] else []))⟩
  | _ => none

/-- Whether a byte is one of those of an access. -/
def covers (x : Acc) (k : Loc) : Prop := ∃ i, i < x.size ∧ (x.loc.add i).key = k.key

/-- A byte at its home stays, or is one that the core had stored before into a line of its L1, now performed (R319, R330). -/
def ByteKept (s t : State) (core : Nat) (k : Loc) : Prop :=
  t.byte k = s.byte k ∨
  ∃ x ∈ (s.core core).l1, ∃ i, i < 128 ∧ x.dirty.getLsbD i = true ∧ (x.line.add i).key = k.key ∧ t.byte k = BitVec.ofNat 8 (x.data.toNat / 256 ^ i)

/-- A scale word of a side slot, or, number 12, its descriptor; it stays likewise. -/
def slotPart (v : BitVec 256) (j : Nat) : BitVec 20 := if j < 12 then v.extractLsb' (20 * j) 20 else (v.extractLsb' 240 16).zeroExtend 20
def SlotKept (s t : State) (core : Nat) (k : Loc) (j : Nat) : Prop :=
  slotPart (t.slotAt k) j = slotPart (s.slotAt k) j ∨
  ∃ x ∈ (s.core core).l1, x.sdirty.getLsbD j = true ∧ x.line.line.key = k.line.key ∧ slotPart (t.slotAt k) j = slotPart x.side j

end Sys2Proof.Claims

/-- The frame of every instruction that only writes registers (each whose result statement says `FixedWrites`, `FixedCounts`, or ends in `flightNext`,
`minimumNext` or `passed` over `advance`): no memory, no accumulator, no special register, no other warp; registers only as results land, and only
its own destinations are added to what is to land. No SETS is due at that moment (R264). -/
def Obligations.RegisterInstructionFrame : Prop :=
  (∀ (i : Instr) (f : Fr) (n : Names) (lat : Nat × Nat) (w : Ctx → List (Nat × (Nat → Word))) (h : Ctx → Health), FixedCounts i f n lat w h →
    ∀ (s : State) (c0 : Ctx), s.issuer = .ok c0 → gate c0 f = true → (∀ p ∈ c0.split.spend, c0.split.nd < p.due) →
      Issues s f n (some lat) noEarly (c0.guarded f) →
      ∃ t sp, exec i s = .next t ∧ LeavesRest s t c0 ∧ splitAt t c0.w c0.ent = some sp ∧ sp.mask = c0.split.mask ∧ sp.joins = c0.split.joins ∧
        sp.rets = c0.split.rets ∧ sp.priv = c0.split.priv ∧
        ∀ p ∈ sp.pend, p ∈ c0.split.pend ∨ ∃ d ∈ w (c0.guarded f), ∃ l, d.1 ≠ 0 ∧ (c0.guarded f).act.getLsbD l = true ∧ p.key = c0.key d.1 l) ∧
  (∀ (i : Instr) (f : Fr) (n : Names) (w : List (Nat × Word)) (kind : FlightKind) (s t : State) (c0 : Ctx),
    s.issuer = .ok c0 → (∀ p ∈ c0.split.spend, c0.split.nd < p.due) →
    t = finishFlight (c0.guarded f) f w kind (advance (c0.guarded f) f n) → exec i s = .next t →
      LeavesRest s t c0 ∧ ∀ wq, tget t.warps c0.w = some wq → ∀ x ∈ wq.flights, ∀ p ∈ x.regs, p ∈ w ∨ ∃ y ∈ c0.warp.flights, p ∈ y.regs)

/-- The frame of LD, LDS, LDAQ, ST, STS, STRL, ATOM, ATOMC, RED, CHUNK, LDBS, STBS, LDSC and STSC, at the addresses that their own checks resolve:
every byte of memory outside the bytes stored, and every scale word and descriptor outside those stored, stays, but that what the core's L1 held
dirty may be performed; no accumulator, register or other warp changes. -/
def Obligations.MemoryInstructionFrame : Prop :=
  ∀ (i : Instr) (m : MemForm), memForm i = some m →
    ∀ (s t : State) (c : Ctx) (as : List Acc), Issues s m.f m.n none m.early c → c.act ≠ 0 → allOk (m.chks c) = some as → exec i s = .next t →
      (∀ k, (∀ x ∈ m.bytes c as, ¬ covers x k) → ByteKept s t c.core k) ∧
      (∀ k j, j < 13 → (∀ p ∈ m.slots c as, ¬ (p.2 = j ∧ p.1.loc.line.key = k.line.key)) → SlotKept s t c.core k j) ∧
      t.acc = s.acc ∧ t.bscale = s.bscale ∧ t.bmeta = s.bmeta ∧ t.regs = c.pre.regs ∧ t.blocks = c.pre.blocks ∧ t.gangs = s.gangs ∧
      t.queues = s.queues ∧ t.plat = s.plat ∧ (∀ v, v ≠ c.w → tget t.warps v = tget s.warps v) ∧
      (∃ wq, tget t.warps c.w = some wq ∧
        { wq with splits := c.warp.splits, flights := c.warp.flights, fixed := c.warp.fixed, ctrs := c.warp.ctrs } = c.warp) ∧
      (∀ k, k ≠ c.core → t.core k = s.core k)
end

