-- ==== Sys2Proof/Laws/Bits.lean ====
section
/-! SUPPORT. Masks and lists of threads. -/
namespace Sys2Proof.Machine

theorem getLsbD_one_shift (t i : Nat) : (BitVec.ofNat 32 (1 <<< t)).getLsbD i = (decide (i < 32) && decide (t = i)) := by
  rw [BitVec.getLsbD_ofNat, Nat.one_shiftLeft, Nat.testBit_two_pow]

theorem getLsbD_foldl_mask (ts : List Nat) (m : BitVec 32) (i : Nat) :
    (ts.foldl (fun m t => m ||| BitVec.ofNat 32 (1 <<< t)) m).getLsbD i = (m.getLsbD i || (decide (i < 32) && ts.contains i)) := by
  induction ts generalizing m with
  | nil => simp
  | cons t r ih =>
    rw [List.foldl_cons, ih, BitVec.getLsbD_or, getLsbD_one_shift]
    by_cases h : i < 32 <;> by_cases h1 : t = i <;> simp [h, h1, Bool.or_assoc, Ne.symm, @eq_comm _ i t]

/-- Bit `i` of the mask of a list of threads: whether the list holds `i`. -/
@[simp] theorem getLsbD_maskOf (ts : List Nat) (i : Nat) : (maskOf ts).getLsbD i = (decide (i < 32) && ts.contains i) := by
  have h := getLsbD_foldl_mask ts 0 i
  simpa [maskOf] using h

@[simp] theorem mem_threadsOf (m : BitVec 32) (t : Nat) : t ∈ threadsOf m ↔ t < 32 ∧ m.getLsbD t = true := by
  simp [threadsOf, upto]

/-- A mask is the mask of its threads. -/
@[simp] theorem maskOf_threadsOf (m : BitVec 32) : maskOf (threadsOf m) = m := by
  apply BitVec.eq_of_getLsbD_eq
  intro i hi
  simp only [getLsbD_maskOf, hi, decide_true, Bool.true_and]
  rw [Bool.eq_iff_iff]
  simp [hi]

end Sys2Proof.Machine
end

