-- ==== Sys2Proof/Laws/Exec.lean ====
section
/-! SUPPORT. Which meaning each instruction and event has. -/
namespace Sys2Proof.Machine
open Sys2Proof

theorem exec_nop (f : Fr) (v : Word) (st : State) : exec (.nop f v) st = execNop f v st := rfl
theorem exec_bra (f : Fr) (off : Word) (j : BitVec 8) (st : State) : exec (.bra f off j) st = execBra f off j st := rfl
theorem exec_braDec (f : Fr) (c : Reg) (off : Word) (j : BitVec 8) (st : State) : exec (.braDec f c off j) st = execBraDec f c off j st := rfl
theorem exec_brx (f : Fr) (a : Reg) (j : BitVec 8) (st : State) : exec (.brx f a j) st = execBrx f a j st := rfl
theorem exec_call (f : Fr) (off : Word) (st : State) : exec (.call f off) st = execCall f off st := rfl
theorem exec_callx (f : Fr) (a : Reg) (st : State) : exec (.callx f a) st = execCallx f a st := rfl
theorem exec_ret (f : Fr) (st : State) : exec (.ret f) st = execRet f st := rfl
theorem exec_confl (f : Fr) (j : BitVec 8) (st : State) : exec (.confl f j) st = execConfl f j st := rfl
theorem exec_exit (f : Fr) (st : State) : exec (.exit f) st = execExit f st := rfl
theorem exec_trap (f : Fr) (v : Word) (cause : BitVec 8) (st : State) : exec (.trap f v cause) st = execTrap f v cause st := rfl
theorem exec_svc (f : Fr) (v : Word) (st : State) : exec (.svc f v) st = execSvc f v st := rfl
theorem exec_bkpt (f : Fr) (v : Word) (st : State) : exec (.bkpt f v) st = execBkpt f v st := rfl
theorem exec_rth (f : Fr) (st : State) : exec (.rth f) st = execRth f st := rfl
theorem exec_yieldw (f : Fr) (st : State) : exec (.yieldw f) st = execYieldw f st := rfl
theorem exec_waitv (f : Fr) (d : Reg) (a : Reg) (off : Word) (c : Src) (spc : Space) (sz : Size) (scope : Scope) (ne : Bool) (st : State) : exec (.waitv f d a off c spc sz scope ne) st = execWaitv f d a off c spc sz scope ne st := rfl
theorem exec_movs (f : Fr) (d : Reg) (sr : SReg) (st : State) : exec (.movs f d sr) st = execMovs f d sr st := rfl
theorem exec_sets (f : Fr) (b : Src) (sr : SReg) (st : State) : exec (.sets f b sr) st = execSets f b sr st := rfl
theorem exec_mov (f : Fr) (d : Reg) (b : Src) (st : State) : exec (.mov f d b) st = execMov f d b st := rfl
theorem exec_iadd (f : Fr) (d : Reg) (a : Src) (b : Src) (c : Option Src) (sat : Sat) (st : State) : exec (.iadd f d a b c sat) st = execIadd f d a b c sat st := rfl
theorem exec_isub (f : Fr) (d : Reg) (a : Src) (b : Src) (c : Option Src) (sat : Sat) (st : State) : exec (.isub f d a b c sat) st = execIsub f d a b c sat st := rfl
theorem exec_imul (f : Fr) (d : Reg) (a : Reg) (b : Src) (st : State) : exec (.imul f d a b) st = execImul f d a b st := rfl
theorem exec_imulh (f : Fr) (d : Reg) (a : Reg) (b : Src) (u : Bool) (st : State) : exec (.imulh f d a b u) st = execImulh f d a b u st := rfl
theorem exec_imad (f : Fr) (d : Reg) (a : Src) (b : Src) (c : Src) (wide : Bool) (u : Bool) (st : State) : exec (.imad f d a b c wide u) st = execImad f d a b c wide u st := rfl
theorem exec_imin (f : Fr) (d : Reg) (a : Reg) (b : Src) (u : Bool) (st : State) : exec (.imin f d a b u) st = execImin f d a b u st := rfl
theorem exec_imax (f : Fr) (d : Reg) (a : Reg) (b : Src) (u : Bool) (st : State) : exec (.imax f d a b u) st = execImax f d a b u st := rfl
theorem exec_iabs (f : Fr) (d : Reg) (a : Reg) (st : State) : exec (.iabs f d a) st = execIabs f d a st := rfl
theorem exec_iadd64 (f : Fr) (d : Reg) (a : Reg) (b : Reg) (neg : Bool) (bext : BExt) (st : State) : exec (.iadd64 f d a b neg bext) st = execIadd64 f d a b neg bext st := rfl
theorem exec_lea (f : Fr) (d : Reg) (a : Src) (b : Src) (c : Option Src) (sh : BitVec 3) (bu : Bool) (st : State) : exec (.lea f d a b c sh bu) st = execLea f d a b c sh bu st := rfl
theorem exec_isad (f : Fr) (d : Reg) (a : Src) (b : Src) (c : Src) (u : Bool) (st : State) : exec (.isad f d a b c u) st = execIsad f d a b c u st := rfl
theorem exec_idot4 (f : Fr) (d : Reg) (a : Src) (b : Src) (c : Src) (au : Bool) (bu : Bool) (sat : Bool) (st : State) : exec (.idot4 f d a b c au bu sat) st = execIdot4 f d a b c au bu sat st := rfl
theorem exec_sel (f : Fr) (d : Reg) (a : Src) (b : Src) (c : Src) (neg : Bool) (st : State) : exec (.sel f d a b c neg) st = execSel f d a b c neg st := rfl
theorem exec_prmt (f : Fr) (d : Reg) (a : Src) (b : Src) (c : Src) (swp : Bool) (st : State) : exec (.prmt f d a b c swp) st = execPrmt f d a b c swp st := rfl
theorem exec_moviRead (f : Fr) (d : Reg) (a : Reg) (base : BitVec 10) (st : State) : exec (.moviRead f d a base) st = execMoviRead f d a base st := rfl
theorem exec_moviWrite (f : Fr) (a : Reg) (b : Reg) (base : BitVec 10) (st : State) : exec (.moviWrite f a b base) st = execMoviWrite f a b base st := rfl
theorem exec_and (f : Fr) (d : Reg) (a : Reg) (b : Src) (st : State) : exec (.and f d a b) st = execAnd f d a b st := rfl
theorem exec_or (f : Fr) (d : Reg) (a : Reg) (b : Src) (st : State) : exec (.or f d a b) st = execOr f d a b st := rfl
theorem exec_xor (f : Fr) (d : Reg) (a : Reg) (b : Src) (st : State) : exec (.xor f d a b) st = execXor f d a b st := rfl
theorem exec_andn (f : Fr) (d : Reg) (a : Reg) (b : Src) (st : State) : exec (.andn f d a b) st = execAndn f d a b st := rfl
theorem exec_shl (f : Fr) (d : Reg) (a : Reg) (b : Src) (st : State) : exec (.shl f d a b) st = execShl f d a b st := rfl
theorem exec_shr (f : Fr) (d : Reg) (a : Reg) (b : Src) (st : State) : exec (.shr f d a b) st = execShr f d a b st := rfl
theorem exec_sar (f : Fr) (d : Reg) (a : Reg) (b : Src) (st : State) : exec (.sar f d a b) st = execSar f d a b st := rfl
theorem exec_rot (f : Fr) (d : Reg) (a : Reg) (b : Src) (st : State) : exec (.rot f d a b) st = execRot f d a b st := rfl
theorem exec_popc (f : Fr) (d : Reg) (a : Reg) (st : State) : exec (.popc f d a) st = execPopc f d a st := rfl
theorem exec_clz (f : Fr) (d : Reg) (a : Reg) (st : State) : exec (.clz f d a) st = execClz f d a st := rfl
theorem exec_brev (f : Fr) (d : Reg) (a : Reg) (st : State) : exec (.brev f d a) st = execBrev f d a st := rfl
theorem exec_bfx (f : Fr) (d : Reg) (a : Src) (b : Src) (sx : Bool) (st : State) : exec (.bfx f d a b sx) st = execBfx f d a b sx st := rfl
theorem exec_bfi (f : Fr) (d : Reg) (a : Src) (b : Src) (c : Src) (st : State) : exec (.bfi f d a b c) st = execBfi f d a b c st := rfl
theorem exec_lop3 (f : Fr) (d : Reg) (a : Src) (b : Src) (c : Src) (tt : BitVec 8) (st : State) : exec (.lop3 f d a b c tt) st = execLop3 f d a b c tt st := rfl
theorem exec_icmp (f : Fr) (d : Reg) (c2 : Reg) (a : Src) (b : Src) (cond : Cond) (u : Bool) (st : State) : exec (.icmp f d c2 a b cond u) st = execIcmp f d c2 a b cond u st := rfl
theorem exec_fcmp (f : Fr) (d : Reg) (c2 : Reg) (a : Src) (b : Src) (cond : FCond) (u : Bool) (t : FTy) (st : State) : exec (.fcmp f d c2 a b cond u t) st = execFcmp f d c2 a b cond u t st := rfl
theorem exec_fclass (f : Fr) (d : Reg) (a : Reg) (mask : BitVec 10) (t : FTy) (st : State) : exec (.fclass f d a mask t) st = execFclass f d a mask t st := rfl
theorem exec_vote (f : Fr) (op : VoteOp) (d : Reg) (a : Reg) (st : State) : exec (.vote f op d a) st = execVote f op d a st := rfl
theorem exec_matchw (f : Fr) (wide : Bool) (d : Reg) (c2 : Reg) (a : Reg) (st : State) : exec (.matchw f wide d c2 a) st = execMatchw f wide d c2 a st := rfl
theorem exec_fadd (f : Fr) (d : Reg) (a : Src) (b : Src) (rnd : Rnd) (na : Bool) (nb : Bool) (aa : Bool) (ab : Bool) (sat : Bool) (st : State) : exec (.fadd f d a b rnd na nb aa ab sat) st = execFadd f d a b rnd na nb aa ab sat st := rfl
theorem exec_fsub (f : Fr) (d : Reg) (a : Src) (b : Src) (rnd : Rnd) (na : Bool) (nb : Bool) (aa : Bool) (ab : Bool) (sat : Bool) (st : State) : exec (.fsub f d a b rnd na nb aa ab sat) st = execFsub f d a b rnd na nb aa ab sat st := rfl
theorem exec_fmul (f : Fr) (d : Reg) (a : Src) (b : Src) (rnd : Rnd) (na : Bool) (nb : Bool) (aa : Bool) (ab : Bool) (sat : Bool) (st : State) : exec (.fmul f d a b rnd na nb aa ab sat) st = execFmul f d a b rnd na nb aa ab sat st := rfl
theorem exec_ffma (f : Fr) (d : Reg) (a : Src) (b : Src) (c : Src) (rnd : Rnd) (na : Bool) (nb : Bool) (aa : Bool) (ab : Bool) (sat : Bool) (nc : Bool) (ac : Bool) (st : State) : exec (.ffma f d a b c rnd na nb aa ab sat nc ac) st = execFfma f d a b c rnd na nb aa ab sat nc ac st := rfl
theorem exec_fmin (f : Fr) (d : Reg) (a : Reg) (b : Src) (st : State) : exec (.fmin f d a b) st = execFmin f d a b st := rfl
theorem exec_fmax (f : Fr) (d : Reg) (a : Reg) (b : Src) (st : State) : exec (.fmax f d a b) st = execFmax f d a b st := rfl
theorem exec_frcp (f : Fr) (d : Reg) (a : Reg) (st : State) : exec (.frcp f d a) st = execFrcp f d a st := rfl
theorem exec_frsq (f : Fr) (d : Reg) (a : Reg) (st : State) : exec (.frsq f d a) st = execFrsq f d a st := rfl
theorem exec_fsqrt (f : Fr) (d : Reg) (a : Reg) (rnd : Rnd) (st : State) : exec (.fsqrt f d a rnd) st = execFsqrt f d a rnd st := rfl
theorem exec_fexp2 (f : Fr) (d : Reg) (a : Reg) (st : State) : exec (.fexp2 f d a) st = execFexp2 f d a st := rfl
theorem exec_flog2 (f : Fr) (d : Reg) (a : Reg) (st : State) : exec (.flog2 f d a) st = execFlog2 f d a st := rfl
theorem exec_fsincos (f : Fr) (d : Reg) (c2 : Reg) (a : Reg) (st : State) : exec (.fsincos f d c2 a) st = execFsincos f d c2 a st := rfl
theorem exec_ftanh (f : Fr) (d : Reg) (a : Reg) (st : State) : exec (.ftanh f d a) st = execFtanh f d a st := rfl
theorem exec_fdiv (f : Fr) (d : Reg) (a : Reg) (b : Reg) (rnd : Rnd) (st : State) : exec (.fdiv f d a b rnd) st = execFdiv f d a b rnd st := rfl
theorem exec_h2add (f : Fr) (d : Reg) (a : Reg) (b : Src) (rnd : Rnd) (bf : Bool) (na : Bool) (nb : Bool) (st : State) : exec (.h2add f d a b rnd bf na nb) st = execH2add f d a b rnd bf na nb st := rfl
theorem exec_h2mul (f : Fr) (d : Reg) (a : Reg) (b : Src) (rnd : Rnd) (bf : Bool) (na : Bool) (nb : Bool) (st : State) : exec (.h2mul f d a b rnd bf na nb) st = execH2mul f d a b rnd bf na nb st := rfl
theorem exec_h2fma (f : Fr) (d : Reg) (a : Src) (b : Src) (c : Src) (rnd : Rnd) (bf : Bool) (na : Bool) (nb : Bool) (nc : Bool) (st : State) : exec (.h2fma f d a b c rnd bf na nb nc) st = execH2fma f d a b c rnd bf na nb nc st := rfl
theorem exec_h2min (f : Fr) (d : Reg) (a : Reg) (b : Src) (bf : Bool) (st : State) : exec (.h2min f d a b bf) st = execH2min f d a b bf st := rfl
theorem exec_h2max (f : Fr) (d : Reg) (a : Reg) (b : Src) (bf : Bool) (st : State) : exec (.h2max f d a b bf) st = execH2max f d a b bf st := rfl
theorem exec_cvt (f : Fr) (d : Reg) (a : Reg) (sty : Elem) (dt : Elem) (rnd : Rnd) (st : State) : exec (.cvt f d a sty dt rnd) st = execCvt f d a sty dt rnd st := rfl
theorem exec_cvti (f : Fr) (d : Reg) (a : Reg) (sty : Elem) (dt : Elem) (rnd : Rnd) (st : State) : exec (.cvti f d a sty dt rnd) st = execCvti f d a sty dt rnd st := rfl
theorem exec_cvtf (f : Fr) (d : Reg) (a : Reg) (sty : Elem) (dt : Elem) (rnd : Rnd) (st : State) : exec (.cvtf f d a sty dt rnd) st = execCvtf f d a sty dt rnd st := rfl
theorem exec_pack2 (f : Fr) (d : Reg) (a : Reg) (b : Reg) (c : Option Reg) (dt : Elem) (rnd : Rnd) (k : BitVec 3) (st : State) : exec (.pack2 f d a b c dt rnd k) st = execPack2 f d a b c dt rnd k st := rfl
theorem exec_unpk2 (f : Fr) (d : Reg) (c2 : Reg) (a : Reg) (sty : Elem) (k : BitVec 3) (st : State) : exec (.unpk2 f d c2 a sty k) st = execUnpk2 f d c2 a sty k st := rfl
theorem exec_srnd (f : Fr) (d : Reg) (a : Src) (b : Src) (dt : Elem) (strm : BitVec 8) (st : State) : exec (.srnd f d a b dt strm) st = execSrnd f d a b dt strm st := rfl
theorem exec_bmax (f : Fr) (kind : MaxKind) (d : Reg) (a : Reg) (t : FTy) (st : State) : exec (.bmax f kind d a t) st = execBmax f kind d a t st := rfl
theorem exec_bmin (f : Fr) (kind : MaxKind) (d : Reg) (a : Reg) (t : FTy) (st : State) : exec (.bmin f kind d a t) st = execBmin f kind d a t st := rfl
theorem exec_bscale (f : Fr) (mode : SMode) (d : Reg) (a : Reg) (bf : BFmt) (st : State) : exec (.bscale f mode d a bf) st = execBscale f mode d a bf st := rfl
theorem exec_bzp (f : Fr) (zf : ZFmt) (d : Reg) (a : Reg) (b : Reg) (st : State) : exec (.bzp f zf d a b) st = execBzp f zf d a b st := rfl
theorem exec_bquant (f : Fr) (mode : QMode) (d : Reg) (c2 : Reg) (a : Src) (b : Option Src) (bf : BFmt) (rnd : Rnd) (strm : BitVec 8) (st : State) : exec (.bquant f mode d c2 a b bf rnd strm) st = execBquant f mode d c2 a b bf rnd strm st := rfl
theorem exec_bdeq (f : Fr) (d : Reg) (a : Src) (b : Src) (bf : BFmt) (dt : DTy) (rnd : Rnd) (st : State) : exec (.bdeq f d a b bf dt rnd) st = execBdeq f d a b bf dt rnd st := rfl
theorem exec_bpack (f : Fr) (d : Reg) (a : Reg) (b : Reg) (bf : BFmt) (grp : Grp) (part : BitVec 2) (st : State) : exec (.bpack f d a b bf grp part) st = execBpack f d a b bf grp part st := rfl
theorem exec_bunpk (f : Fr) (d : Reg) (c2 : Reg) (a : Reg) (bf : BFmt) (grp : Grp) (part : BitVec 2) (st : State) : exec (.bunpk f d c2 a bf grp part) st = execBunpk f d c2 a bf grp part st := rfl
theorem exec_bhealth (f : Fr) (mode : QMode) (d : Reg) (a : Reg) (b : Option Reg) (bf : BFmt) (rnd : Rnd) (st : State) : exec (.bhealth f mode d a b bf rnd) st = execBhealth f mode d a b bf rnd st := rfl
theorem exec_brescale (f : Fr) (d : Reg) (a : Src) (b : Src) (c : Src) (bf : BFmt) (rnd : Rnd) (strm : BitVec 8) (st : State) : exec (.brescale f d a b c bf rnd strm) st = execBrescale f d a b c bf rnd strm st := rfl
theorem exec_shfl (f : Fr) (mode : ShflMode) (d : Reg) (c2 : Reg) (a : Src) (b : Src) (seg : BitVec 3) (st : State) : exec (.shfl f mode d c2 a b seg) st = execShfl f mode d c2 a b seg st := rfl
theorem exec_redw (f : Fr) (op : RedOp) (d : Reg) (a : Reg) (st : State) : exec (.redw f op d a) st = execRedw f op d a st := rfl
theorem exec_scanw (f : Fr) (op : RedOp) (d : Reg) (a : Reg) (excl : Bool) (st : State) : exec (.scanw f op d a excl) st = execScanw f op d a excl st := rfl
theorem exec_bcastw (f : Fr) (d : Reg) (a : Reg) (b : Option Src) (low : Bool) (st : State) : exec (.bcastw f d a b low) st = execBcastw f d a b low st := rfl
theorem exec_ld (f : Fr) (d : Reg) (a : Reg) (off : Word) (spc : Space) (sz : Size) (ch : Hint) (st : State) : exec (.ld f d a off spc sz ch) st = execLd f d a off spc sz ch st := rfl
theorem exec_st (f : Fr) (a : Reg) (off : Word) (c : Src) (spc : Space) (sz : Size) (ch : Hint) (st : State) : exec (.st f a off c spc sz ch) st = execSt f a off c spc sz ch st := rfl
theorem exec_lds (f : Fr) (d : Reg) (a : Reg) (off : Word) (spc : Space) (sz : Size) (st : State) : exec (.lds f d a off spc sz) st = execLds f d a off spc sz st := rfl
theorem exec_sts (f : Fr) (a : Reg) (off : Word) (c : Reg) (spc : Space) (sz : Size) (st : State) : exec (.sts f a off c spc sz) st = execSts f a off c spc sz st := rfl
theorem exec_ldbs (f : Fr) (pk : Bool) (d : Reg) (a : Reg) (off : Word) (bf : BFmt) (grp : Grp) (part : BitVec 2) (nc : Bool) (st : State) : exec (.ldbs f pk d a off bf grp part nc) st = execLdbs f pk d a off bf grp part nc st := rfl
theorem exec_stbs (f : Fr) (pk : Bool) (a : Reg) (off : Word) (c : Reg) (bf : BFmt) (grp : Grp) (part : BitVec 2) (nc : Bool) (st : State) : exec (.stbs f pk a off c bf grp part nc) st = execStbs f pk a off c bf grp part nc st := rfl
theorem exec_ldsc (f : Fr) (d : Reg) (c2 : Reg) (a : Reg) (b : Reg) (st : State) : exec (.ldsc f d c2 a b) st = execLdsc f d c2 a b st := rfl
theorem exec_stsc (f : Fr) (a : Reg) (b : Reg) (c : Reg) (desc : Bool) (st : State) : exec (.stsc f a b c desc) st = execStsc f a b c desc st := rfl
theorem exec_ldaq (f : Fr) (d : Reg) (a : Reg) (off : Word) (spc : Space) (sz : Size) (scope : Scope) (st : State) : exec (.ldaq f d a off spc sz scope) st = execLdaq f d a off spc sz scope st := rfl
theorem exec_strl (f : Fr) (a : Reg) (off : Word) (c : Reg) (spc : Space) (sz : Size) (scope : Scope) (st : State) : exec (.strl f a off c spc sz scope) st = execStrl f a off c spc sz scope st := rfl
theorem exec_pref (f : Fr) (lvl : PLevel) (a : Reg) (off : Word) (spc : Space) (st : State) : exec (.pref f lvl a off spc) st = execPref f lvl a off spc st := rfl
theorem exec_cflushWb (f : Fr) (a : Reg) (st : State) : exec (.cflushWb f a) st = execCflushWb f a st := rfl
theorem exec_cflushWbinv (f : Fr) (a : Reg) (st : State) : exec (.cflushWbinv f a) st = execCflushWbinv f a st := rfl
theorem exec_cflushWball (f : Fr) (st : State) : exec (.cflushWball f) st = execCflushWball f st := rfl
theorem exec_cflushWbinvall (f : Fr) (st : State) : exec (.cflushWbinvall f) st = execCflushWbinvall f st := rfl
theorem exec_wayset (f : Fr) (d : Reg) (a : Reg) (st : State) : exec (.wayset f d a) st = execWayset f d a st := rfl
theorem exec_atom (f : Fr) (op : AtomOp) (d : Reg) (a : Reg) (off : Word) (c : Src) (spc : Space) (sz : Size) (scope : Scope) (ord : Order) (st : State) : exec (.atom f op d a off c spc sz scope ord) st = execAtom f op d a off c spc sz scope ord st := rfl
theorem exec_atomc (f : Fr) (d : Reg) (a : Reg) (off : Word) (c : Reg) (spc : Space) (sz : Size) (scope : Scope) (ord : Order) (st : State) : exec (.atomc f d a off c spc sz scope ord) st = execAtomc f d a off c spc sz scope ord st := rfl
theorem exec_red (f : Fr) (op : AtomOp) (a : Reg) (off : Word) (c : Src) (spc : Space) (sz : Size) (scope : Scope) (ord : Order) (st : State) : exec (.red f op a off c spc sz scope ord) st = execRed f op a off c spc sz scope ord st := rfl
theorem exec_fenceFull (f : Fr) (scope : Scope) (st : State) : exec (.fenceFull f scope) st = execFenceFull f scope st := rfl
theorem exec_fenceAcq (f : Fr) (scope : Scope) (st : State) : exec (.fenceAcq f scope) st = execFenceAcq f scope st := rfl
theorem exec_fenceRel (f : Fr) (scope : Scope) (st : State) : exec (.fenceRel f scope) st = execFenceRel f scope st := rfl
theorem exec_chunk (f : Fr) (d : Reg) (a : Reg) (st : State) : exec (.chunk f d a) st = execChunk f d a st := rfl
theorem exec_slxCopy (f : Fr) (d : Reg) (a : Option Src) (b : Option Src) (c : Reg) (st : State) : exec (.slxCopy f d a b c) st = execSlxCopy f d a b c st := rfl
theorem exec_slxCvt (f : Fr) (d : Reg) (a : Option Src) (b : Option Src) (c : Reg) (st : State) : exec (.slxCvt f d a b c) st = execSlxCvt f d a b c st := rfl
theorem exec_slxRescale (f : Fr) (d : Reg) (a : Option Src) (b : Option Src) (c : Reg) (st : State) : exec (.slxRescale f d a b c) st = execSlxRescale f d a b c st := rfl
theorem exec_slxTr (f : Fr) (d : Reg) (a : Option Src) (b : Option Src) (c : Reg) (st : State) : exec (.slxTr f d a b c) st = execSlxTr f d a b c st := rfl
theorem exec_slxFill (f : Fr) (d : Reg) (a : Option Src) (b : Option Src) (c : Reg) (st : State) : exec (.slxFill f d a b c) st = execSlxFill f d a b c st := rfl
theorem exec_slxKvg (f : Fr) (d : Reg) (a : Option Src) (b : Option Src) (c : Reg) (st : State) : exec (.slxKvg f d a b c) st = execSlxKvg f d a b c st := rfl
theorem exec_slxTagck (f : Fr) (d : Reg) (a : Option Src) (b : Option Src) (c : Reg) (st : State) : exec (.slxTagck f d a b c) st = execSlxTagck f d a b c st := rfl
theorem exec_bseal (f : Fr) (d : Reg) (st : State) : exec (.bseal f d) st = execBseal f d st := rfl
theorem exec_bwait (f : Fr) (d : Reg) (a : Reg) (st : State) : exec (.bwait f d a) st = execBwait f d a st := rfl
theorem exec_flput (f : Fr) (d : Reg) (a : Reg) (n : BitVec 4) (st : State) : exec (.flput f d a n) st = execFlput f d a n st := rfl
theorem exec_flget (f : Fr) (d : Reg) (a : Reg) (n : BitVec 4) (st : State) : exec (.flget f d a n) st = execFlget f d a n st := rfl
theorem exec_flwaitData (f : Fr) (d : Reg) (a : Reg) (n : BitVec 4) (st : State) : exec (.flwaitData f d a n) st = execFlwaitData f d a n st := rfl
theorem exec_flwaitRoom (f : Fr) (d : Reg) (a : Reg) (n : BitVec 4) (st : State) : exec (.flwaitRoom f d a n) st = execFlwaitRoom f d a n st := rfl
theorem exec_weirsetSet (f : Fr) (a : Reg) (w : BitVec 5) (st : State) : exec (.weirsetSet f a w) st = execWeirsetSet f a w st := rfl
theorem exec_weirsetClr (f : Fr) (w : BitVec 5) (st : State) : exec (.weirsetClr f w) st = execWeirsetClr f w st := rfl
theorem exec_engsyncCmp (f : Fr) (st : State) : exec (.engsyncCmp f) st = execEngsyncCmp f st := rfl
theorem exec_engsyncPub (f : Fr) (scope : Scope) (st : State) : exec (.engsyncPub f scope) st = execEngsyncPub f scope st := rfl
theorem exec_convene (f : Fr) (d : Reg) (rid : BitVec 2) (kc : BitVec 3) (st : State) : exec (.convene f d rid kc) st = execConvene f d rid kc st := rfl
theorem exec_disband (f : Fr) (st : State) : exec (.disband f) st = execDisband f st := rfl
theorem exec_tmma (f : Fr) (a : Reg) (b : Reg) (hdr : Header) (st : State) : exec (.tmma f a b hdr) st = execTmma f a b hdr st := rfl
theorem exec_tmmaw (f : Fr) (a : Reg) (b : Reg) (hdr : Header) (grp : Grp) (st : State) : exec (.tmmaw f a b hdr grp) st = execTmmaw f a b hdr grp st := rfl
theorem exec_tmmaz (f : Fr) (a : Reg) (b : Reg) (hdr : Header) (grp : Grp) (st : State) : exec (.tmmaz f a b hdr grp) st = execTmmaz f a b hdr grp st := rfl
theorem exec_tmmas (f : Fr) (a : Reg) (b : Reg) (hdr : Header) (st : State) : exec (.tmmas f a b hdr) st = execTmmas f a b hdr st := rfl
theorem exec_taccZero (f : Fr) (a : Src) (st : State) : exec (.taccZero f a) st = execTaccZero f a st := rfl
theorem exec_taccLive (f : Fr) (a : Src) (st : State) : exec (.taccLive f a) st = execTaccLive f a st := rfl
theorem exec_taccDead (f : Fr) (a : Src) (st : State) : exec (.taccDead f a) st = execTaccDead f a st := rfl
theorem exec_taccMul (f : Fr) (a : Src) (c : Src) (st : State) : exec (.taccMul f a c) st = execTaccMul f a c st := rfl
theorem exec_trdReg (f : Fr) (d : Reg) (a : Src) (dt : Elem) (q : BitVec 2) (rnd : Rnd) (st : State) : exec (.trdReg f d a dt q rnd) st = execTrdReg f d a dt q rnd st := rfl
theorem exec_trdRec (f : Fr) (a : Src) (b : Reg) (c : Src) (dt : Elem) (rnd : Rnd) (ocp : Bool) (st : State) : exec (.trdRec f a b c dt rnd ocp) st = execTrdRec f a b c dt rnd ocp st := rfl
theorem exec_twrReg (f : Fr) (d : Reg) (a : Src) (dt : Elem) (q : BitVec 2) (st : State) : exec (.twrReg f d a dt q) st = execTwrReg f d a dt q st := rfl
theorem exec_twrRec (f : Fr) (a : Src) (b : Reg) (dt : Elem) (st : State) : exec (.twrRec f a b dt) st = execTwrRec f a b dt st := rfl
theorem exec_tew (f : Fr) (fn : TewFn) (a : Src) (b : Option Src) (c : Option Src) (dtile : BitVec 11) (s : Bool) (s2 : Bool) (st : State) : exec (.tew f fn a b c dtile s s2) st = execTew f fn a b c dtile s s2 st := rfl
theorem exec_tred (f : Fr) (op : TredOp) (a : Src) (dtile : BitVec 11) (s : Bool) (st : State) : exec (.tred f op a dtile s) st = execTred f op a dtile s st := rfl
theorem exec_tsmx (f : Fr) (a : Src) (c : Option Src) (dtile : BitVec 11) (s : Bool) (st : State) : exec (.tsmx f a c dtile s) st = execTsmx f a c dtile s st := rfl
theorem exec_tnorm (f : Fr) (a : Src) (c : Src) (dtile : BitVec 11) (s : Bool) (st : State) : exec (.tnorm f a c dtile s) st = execTnorm f a c dtile s st := rfl
theorem exec_tcvt (f : Fr) (mode : SMode) (a : Src) (bf : BFmt) (rnd : Rnd) (strm : BitVec 8) (st : State) : exec (.tcvt f mode a bf rnd strm) st = execTcvt f mode a bf rnd strm st := rfl
theorem exec_bsload (f : Fr) (a : Reg) (b : Reg) (sp : Bool) (st : State) : exec (.bsload f a b sp) st = execBsload f a b sp st := rfl
theorem exec_rcfence (f : Fr) (st : State) : exec (.rcfence f) st = execRcfence f st := rfl
theorem exec_kvxlt (f : Fr) (d : Reg) (c2 : Reg) (a : Src) (b : Src) (n : BitVec 4) (acq : Bool) (st : State) : exec (.kvxlt f d c2 a b n acq) st = execKvxlt f d c2 a b n acq st := rfl
theorem exec_kvapp (f : Fr) (d : Reg) (c2 : Reg) (a : Src) (n : BitVec 4) (st : State) : exec (.kvapp f d c2 a n) st = execKvapp f d c2 a n st := rfl
theorem exec_roleGet (f : Fr) (d : Reg) (st : State) : exec (.roleGet f d) st = execRoleGet f d st := rfl
theorem exec_roleSet (f : Fr) (role : Role) (st : State) : exec (.roleSet f role) st = execRoleSet f role st := rfl
theorem exec_tbarInit (f : Fr) (d : Reg) (a : Reg) (n : BitVec 4) (st : State) : exec (.tbarInit f d a n) st = execTbarInit f d a n st := rfl
theorem exec_tbarArrive (f : Fr) (d : Reg) (a : Reg) (n : BitVec 4) (st : State) : exec (.tbarArrive f d a n) st = execTbarArrive f d a n st := rfl
theorem exec_tbarWait (f : Fr) (d : Reg) (a : Reg) (n : BitVec 4) (st : State) : exec (.tbarWait f d a n) st = execTbarWait f d a n st := rfl
theorem exec_tbarArwt (f : Fr) (d : Reg) (a : Reg) (n : BitVec 4) (st : State) : exec (.tbarArwt f d a n) st = execTbarArwt f d a n st := rfl
theorem exec_cftest (f : Fr) (d : Reg) (a : Src) (b : Src) (c : Src) (st : State) : exec (.cftest f d a b c) st = execCftest f d a b c st := rfl
theorem exec_exittok (f : Fr) (d : Reg) (a : Reg) (b : Reg) (n : BitVec 4) (st : State) : exec (.exittok f d a b n) st = execExittok f d a b n st := rfl
theorem exec_bfwait (f : Fr) (d : Reg) (a : Reg) (b : Reg) (n : BitVec 4) (st : State) : exec (.bfwait f d a b n) st = execBfwait f d a b n st := rfl
theorem exec_recon (f : Fr) (d : Reg) (a : Reg) (st : State) : exec (.recon f d a) st = execRecon f d a st := rfl
theorem exec_recoff (f : Fr) (st : State) : exec (.recoff f) st = execRecoff f st := rfl
theorem exec_ebb (f : Fr) (d : Reg) (a : Reg) (st : State) : exec (.ebb f d a) st = execEbb f d a st := rfl
theorem exec_ebbstat (f : Fr) (fld : EbbField) (d : Reg) (a : Reg) (st : State) : exec (.ebbstat f fld d a) st = execEbbstat f fld d a st := rfl
theorem exec_migrRiffle (f : Fr) (d : Reg) (st : State) : exec (.migrRiffle f d) st = execMigrRiffle f d st := rfl
theorem exec_migrReach (f : Fr) (d : Reg) (st : State) : exec (.migrReach f d) st = execMigrReach f d st := rfl
theorem exec_migrCancel (f : Fr) (d : Reg) (st : State) : exec (.migrCancel f d) st = execMigrCancel f d st := rfl
theorem exec_portage (f : Fr) (v : Word) (st : State) : exec (.portage f v) st = execPortage f v st := rfl
theorem exec_barSync (f : Fr) (a : Option Reg) (n : BitVec 4) (st : State) : exec (.barSync f a n) st = execBarSync f a n st := rfl
theorem exec_barArr (f : Fr) (a : Option Reg) (n : BitVec 4) (st : State) : exec (.barArr f a n) st = execBarArr f a n st := rfl
theorem exec_gbar (f : Fr) (scope : Scope) (st : State) : exec (.gbar f scope) st = execGbar f scope st := rfl
theorem exec_xlock (f : Fr) (st : State) : exec (.xlock f) st = execXlock f st := rfl
theorem exec_xfree (f : Fr) (st : State) : exec (.xfree f) st = execXfree f st := rfl
theorem exec_nmq (f : Fr) (d : Reg) (a : Reg) (scope : Scope) (st : State) : exec (.nmq f d a scope) st = execNmq f d a scope st := rfl
theorem exec_nmwaitWait (f : Fr) (d : Reg) (a : Reg) (st : State) : exec (.nmwaitWait f d a) st = execNmwaitWait f d a st := rfl
theorem exec_nmwaitTest (f : Fr) (d : Reg) (a : Reg) (st : State) : exec (.nmwaitTest f d a) st = execNmwaitTest f d a st := rfl
theorem exec_tqpopWait (f : Fr) (d : Reg) (a : Reg) (st : State) : exec (.tqpopWait f d a) st = execTqpopWait f d a st := rfl
theorem exec_tqpopTry (f : Fr) (d : Reg) (a : Reg) (st : State) : exec (.tqpopTry f d a) st = execTqpopTry f d a st := rfl
theorem exec_tqpushWait (f : Fr) (d : Reg) (a : Reg) (b : Reg) (st : State) : exec (.tqpushWait f d a b) st = execTqpushWait f d a b st := rfl
theorem exec_tqpushTry (f : Fr) (d : Reg) (a : Reg) (b : Reg) (st : State) : exec (.tqpushTry f d a b) st = execTqpushTry f d a b st := rfl
theorem exec_tqpushClose (f : Fr) (d : Reg) (a : Reg) (st : State) : exec (.tqpushClose f d a) st = execTqpushClose f d a st := rfl
theorem exec_launch (f : Fr) (d : Reg) (a : Reg) (st : State) : exec (.launch f d a) st = execLaunch f d a st := rfl
theorem exec_coll (f : Fr) (op : CollOp) (d : Reg) (a : Reg) (b : Src) (st : State) : exec (.coll f op d a b) st = execColl f op d a b st := rfl
theorem exec_resultWriteback (warp : Nat) (st : State) : exec (.resultWriteback warp) st = execResultWriteback warp st := rfl
theorem exec_instructionCompletion (warp k : Nat) (st : State) : exec (.instructionCompletion warp k) st = execInstructionCompletion warp k st := rfl
theorem exec_minimumLatencyRelease (warp k : Nat) (st : State) : exec (.minimumLatencyRelease warp k) st = execMinimumLatencyRelease warp k st := rfl
theorem exec_inWarpTrapEntry (warp : Nat) (st : State) : exec (.inWarpTrapEntry warp) st = execInWarpTrapEntry warp st := rfl
theorem exec_splitAged (warp ent : Nat) (st : State) : exec (.splitAged warp ent) st = execSplitAged warp ent st := rfl
theorem exec_yieldRelease (warp ent : Nat) (st : State) : exec (.yieldRelease warp ent) st = execYieldRelease warp ent st := rfl
theorem exec_waitvSatisfied (warp ent : Nat) (st : State) : exec (.waitvSatisfied warp ent) st = execWaitvSatisfied warp ent st := rfl
theorem exec_flumeWaitSatisfied (warp ent : Nat) (st : State) : exec (.flumeWaitSatisfied warp ent) st = execFlumeWaitSatisfied warp ent st := rfl
theorem exec_bfwaitSatisfied (warp ent : Nat) (st : State) : exec (.bfwaitSatisfied warp ent) st = execBfwaitSatisfied warp ent st := rfl
theorem exec_disbandComplete (warp ent : Nat) (st : State) : exec (.disbandComplete warp ent) st = execDisbandComplete warp ent st := rfl
theorem exec_kvappProceed (warp ent : Nat) (st : State) : exec (.kvappProceed warp ent) st = execKvappProceed warp ent st := rfl
theorem exec_arrayOperationStart (twin : Nat) (st : State) : exec (.arrayOperationStart twin) st = execArrayOperationStart twin st := rfl
theorem exec_arrayOperationDone (twin : Nat) (st : State) : exec (.arrayOperationDone twin) st = execArrayOperationDone twin st := rfl
theorem exec_migrate (warp : Nat) (st : State) : exec (.migrate warp) st = execMigrate warp st := rfl
theorem exec_warpEnd (warp : Nat) (st : State) : exec (.warpEnd warp) st = execWarpEnd warp st := rfl
theorem exec_sluiceCommandStart (core : Nat) (st : State) : exec (.sluiceCommandStart core) st = execSluiceCommandStart core st := rfl
theorem exec_weirDiscard (core : Nat) (st : State) : exec (.weirDiscard core) st = execWeirDiscard core st := rfl
theorem exec_sluiceGranule (core k : Nat) (st : State) : exec (.sluiceGranule core k) st = execSluiceGranule core k st := rfl
theorem exec_operandFetchFault (gang : Nat) (st : State) : exec (.operandFetchFault gang) st = execOperandFetchFault gang st := rfl
theorem exec_gangScrub (gang : Nat) (st : State) : exec (.gangScrub gang) st = execGangScrub gang st := rfl
theorem exec_coreStop (core : Nat) (st : State) : exec (.coreStop core) st = execCoreStop core st := rfl
theorem exec_hostServedFault (gang : Nat) (st : State) : exec (.hostServedFault gang) st = execHostServedFault gang st := rfl
theorem exec_faultRecordPost (asid : Nat) (st : State) : exec (.faultRecordPost asid) st = execFaultRecordPost asid st := rfl
theorem exec_watchdogExpiry (warp : Nat) (st : State) : exec (.watchdogExpiry warp) st = execWatchdogExpiry warp st := rfl
theorem exec_gangSave (gang : Nat) (st : State) : exec (.gangSave gang) st = execGangSave gang st := rfl
theorem exec_dispatchDecision (st : State) : exec (.dispatchDecision) st = execDispatchDecision st := rfl
theorem exec_clusterReservation (queue : Nat) (st : State) : exec (.clusterReservation queue) st = execClusterReservation queue st := rfl
theorem exec_queueEntryTaken (queue : Nat) (st : State) : exec (.queueEntryTaken queue) st = execQueueEntryTaken queue st := rfl
theorem exec_nadam (unit k : Nat) (st : State) : exec (.nadam unit k) st = execNadam unit k st := rfl
theorem exec_nsgdm (unit k : Nat) (st : State) : exec (.nsgdm unit k) st = execNsgdm unit k st := rfl
theorem exec_nmsearch (unit k : Nat) (st : State) : exec (.nmsearch unit k) st = execNmsearch unit k st := rfl
theorem exec_nredadd (unit k : Nat) (st : State) : exec (.nredadd unit k) st = execNredadd unit k st := rfl
theorem exec_ncopy (unit k : Nat) (st : State) : exec (.ncopy unit k) st = execNcopy unit k st := rfl
theorem exec_nfill (unit k : Nat) (st : State) : exec (.nfill unit k) st = execNfill unit k st := rfl
theorem exec_ncow (unit k : Nat) (st : State) : exec (.ncow unit k) st = execNcow unit k st := rfl
theorem exec_nref (unit k : Nat) (st : State) : exec (.nref unit k) st = execNref unit k st := rfl
theorem exec_ncntAdd (unit k : Nat) (st : State) : exec (.ncntAdd unit k) st = execNcntAdd unit k st := rfl
theorem exec_ncntRead (unit k : Nat) (st : State) : exec (.ncntRead unit k) st = execNcntRead unit k st := rfl
theorem exec_ncntWrite (unit k : Nat) (st : State) : exec (.ncntWrite unit k) st = execNcntWrite unit k st := rfl
theorem exec_nchunk (unit k : Nat) (st : State) : exec (.nchunk unit k) st = execNchunk unit k st := rfl
theorem exec_nquant (unit k : Nat) (st : State) : exec (.nquant unit k) st = execNquant unit k st := rfl
theorem exec_ntagchk (unit k : Nat) (st : State) : exec (.ntagchk unit k) st = execNtagchk unit k st := rfl
theorem exec_nmuCommandComplete (unit k : Nat) (st : State) : exec (.nmuCommandComplete unit k) st = execNmuCommandComplete unit k st := rfl
theorem exec_backwaterAgeTimeout (die : Nat) (st : State) : exec (.backwaterAgeTimeout die) st = execBackwaterAgeTimeout die st := rfl
theorem exec_backfillLaunchEnd (die batch : Nat) (st : State) : exec (.backfillLaunchEnd die batch) st = execBackfillLaunchEnd die batch st := rfl
theorem exec_collectiveStart (die : Nat) (st : State) : exec (.collectiveStart die) st = execCollectiveStart die st := rfl
theorem exec_ingressRun (j : Nat) (st : State) : exec (.ingressRun j) st = execIngressRun j st := rfl
theorem exec_blockHealthFlush (blk : Nat) (st : State) : exec (.blockHealthFlush blk) st = execBlockHealthFlush blk st := rfl
theorem exec_illegalInstruction (warp ent : Nat) (st : State) : exec (.illegalInstruction warp ent) st = execIllegalInstruction warp ent st := rfl
theorem exec_fetchFault (warp ent : Nat) (st : State) : exec (.fetchFault warp ent) st = execFetchFault warp ent st := rfl
theorem exec_l1Eviction (core k : Nat) (st : State) : exec (.l1Eviction core k) st = execL1Eviction core k st := rfl
theorem exec_collectiveEnd (die : Nat) (peers : List (List Byte)) (match_ : Bool) (st : State) : exec (.collectiveEnd die peers match_) st = execCollectiveEnd die peers match_ st := rfl
theorem exec_launchPacket (group : Nat) (gen : Word) (queue : Nat) (bytes : List Byte) (st : State) : exec (.launchPacket group gen queue bytes) st = execLaunchPacket group gen queue bytes st := rfl
theorem exec_launchPacketAnswer (launch : Nat) (accepted : Bool) (st : State) : exec (.launchPacketAnswer launch accepted) st = execLaunchPacketAnswer launch accepted st := rfl
theorem exec_portDown (port : Nat) (st : State) : exec (.portDown port) st = execPortDown port st := rfl
theorem exec_flitReplay (port : Nat) (st : State) : exec (.flitReplay port) st = execFlitReplay port st := rfl
theorem exec_peerAccess (rank addr : Nat) (access : PeerOp) (st : State) : exec (.peerAccess rank addr access) st = execPeerAccess rank addr access st := rfl
theorem exec_hostWrite (sec : Bool) (addr : Nat) (bytes : List Byte) (st : State) : exec (.hostWrite sec addr bytes) st = execHostWrite sec addr bytes st := rfl
theorem exec_hostRead (sec : Bool) (addr n : Nat) (st : State) : exec (.hostRead sec addr n) st = execHostRead sec addr n st := rfl
theorem exec_queueKick (queue : Nat) (tail : Word) (st : State) : exec (.queueKick queue tail) st = execQueueKick queue tail st := rfl
theorem exec_ingressDescriptorTrigger (j : Nat) (bytes : List Byte) (st : State) : exec (.ingressDescriptorTrigger j bytes) st = execIngressDescriptorTrigger j bytes st := rfl
theorem exec_ridxWrite (v : Word) (st : State) : exec (.ridxWrite v) st = execRidxWrite v st := rfl
theorem exec_registerWriteOther (bar addr : Nat) (bytes : List Byte) (st : State) : exec (.registerWriteOther bar addr bytes) st = execRegisterWriteOther bar addr bytes st := rfl
theorem exec_createContext (sec : Bool) (asid : BitVec 16) (world : Bool) (troot tvec poolBase poolSize : DWord) (st : State) : exec (.createContext sec asid world troot tvec poolBase poolSize) st = execCreateContext sec asid world troot tvec poolBase poolSize st := rfl
theorem exec_destroyContext (sec : Bool) (asid : BitVec 16) (st : State) : exec (.destroyContext sec asid) st = execDestroyContext sec asid st := rfl
theorem exec_bindQueue (sec : Bool) (queue : Nat) (asid : BitVec 16) (item : Bool) (ring : DWord) (depth cls tkt group : Nat) (st : State) : exec (.bindQueue sec queue asid item ring depth cls tkt group) st = execBindQueue sec queue asid item ring depth cls tkt group st := rfl
theorem exec_setTickets (sec : Bool) (queue tkt : Nat) (st : State) : exec (.setTickets sec queue tkt) st = execSetTickets sec queue tkt st := rfl
theorem exec_invalidate (sec : Bool) (asid : BitVec 16) (base len : DWord) (st : State) : exec (.invalidate sec asid base len) st = execInvalidate sec asid base len st := rfl
theorem exec_preEmpt (sec : Bool) (what : PreTarget) (st : State) : exec (.preEmpt sec what) st = execPreEmpt sec what st := rfl
theorem exec_taskRelease (sec : Bool) (addr : DWord) (st : State) : exec (.taskRelease sec addr) st = execTaskRelease sec addr st := rfl
theorem exec_taskRemoval (sec : Bool) (addr : DWord) (st : State) : exec (.taskRemoval sec addr) st = execTaskRemoval sec addr st := rfl
theorem exec_acknowledgeFault (sec : Bool) (addr : DWord) (action : BitVec 8) (st : State) : exec (.acknowledgeFault sec addr action) st = execAcknowledgeFault sec addr action st := rfl
theorem exec_setLaunchGroup (sec : Bool) (group n rank : Nat) (gen : Word) (routes : List Nat) (st : State) : exec (.setLaunchGroup sec group n rank gen routes) st = execSetLaunchGroup sec group n rank gen routes st := rfl
theorem exec_installKey (sec : Bool) (slot : Nat) (key : BitVec 256) (both : Bool) (st : State) : exec (.installKey sec slot key both) st = execInstallKey sec slot key both st := rfl
theorem exec_bindIngressQueue (sec : Bool) (j : Nat) (asid : BitVec 16) (base size : DWord) (st : State) : exec (.bindIngressQueue sec j asid base size) st = execBindIngressQueue sec j asid base size st := rfl
theorem exec_setEventRing (sec : Bool) (base count : DWord) (st : State) : exec (.setEventRing sec base count) st = execSetEventRing sec base count st := rfl
theorem exec_attestation (sec : Bool) (nonce : BitVec 256) (addr : DWord) (st : State) : exec (.attestation sec nonce addr) st = execAttestation sec nonce addr st := rfl
theorem exec_setPowerLimit (sec : Bool) (watts : DWord) (st : State) : exec (.setPowerLimit sec watts) st = execSetPowerLimit sec watts st := rfl
theorem exec_closeItemQueue (sec : Bool) (queue : Nat) (st : State) : exec (.closeItemQueue sec queue) st = execCloseItemQueue sec queue st := rfl
theorem exec_openItemQueue (sec : Bool) (queue : Nat) (st : State) : exec (.openItemQueue sec queue) st = execOpenItemQueue sec queue st := rfl
theorem exec_scrubPass (corrected hbm : Nat) (st : State) : exec (.scrubPass corrected hbm) st = execScrubPass corrected hbm st := rfl
theorem exec_softError (granule : SoftError) (st : State) : exec (.softError granule) st = execSoftError granule st := rfl
theorem exec_powerOnReset (st : State) : exec (.powerOnReset) st = execPowerOnReset st := rfl
theorem exec_firmwareVerify (image : FirmwareImage) (st : State) : exec (.firmwareVerify image) st = execFirmwareVerify image st := rfl
theorem exec_throttle (pwr tj : Nat) (st : State) : exec (.throttle pwr tj) st = execThrottle pwr tj st := rfl
theorem exec_clockRestore (pwr tj : Nat) (st : State) : exec (.clockRestore pwr tj) st = execClockRestore pwr tj st := rfl
theorem exec_overtempReset (tj : Nat) (st : State) : exec (.overtempReset tj) st = execOvertempReset tj st := rfl
theorem exec_powerLoss (st : State) : exec (.powerLoss) st = execPowerLoss st := rfl

end Sys2Proof.Machine
end

