-- ==== Sys2Proof/Laws/Fields.lean ====
section
/-! SUPPORT. The fields of words: that each part of an instruction is read back from the fields that hold it. -/
namespace Sys2Proof

/-- The fields stand within their widths, and those that a form lacks are 0 (R74 to R77). -/
def Raw.fits (r : Raw) : Bool :=
  decide (r.opc < 256) && decide (r.g < 64) && decide (r.d < 1024) && decide (r.a < 1024) && decide (r.b < 1024) && decide (r.stall < 16) &&
  decide (r.setc < 8) && decide (r.wait < 64) && decide (r.lit < 2 ^ 32) &&
  (match r.form with
   | .s => decide (r.c = 0 ∧ r.holdC = false ∧ r.sub = 0 ∧ r.mod = 0 ∧ r.lsel = 0 ∧ r.lit = 0)
   | .l => decide (r.b = 0 ∧ r.mod < 1024 ∧ r.c = 0 ∧ r.holdC = false ∧ r.sub = 0 ∧ r.lsel = 0)
   | .e => decide (r.c < 1024 ∧ r.sub < 32 ∧ r.mod < 16384 ∧ r.lsel < 4 ∧ r.lit = 0)
   | .w => decide (r.c < 1024 ∧ r.sub < 32 ∧ r.mod < 16384 ∧ r.lsel < 4))

/-! ### The fields of an instruction built from its parts -/

theorem fr_mk (f : Fr) (o s m d a b c) : (mkRaw f o s m d a b c).fr = f := by
  cases f; simp [Raw.fr, mkRaw]
theorem rd_mk (f : Fr) (o s m d a b c) : (mkRaw f o s m d a b c).rd = d := by simp [Raw.rd, mkRaw]
theorem ra_mk (f : Fr) (o s m d a b c) : (mkRaw f o s m d (.reg a) b c).ra = a := by simp [Raw.ra, mkRaw, Src.num]
theorem rb_mk (f : Fr) (o s m d a b c) : (mkRaw f o s m d a (.reg b) c).rb = b := by simp [Raw.rb, mkRaw, Src.num]
theorem rc_mk (f : Fr) (o s m d a b c) : (mkRaw f o s m d a b (.reg c)).rc = c := by simp [Raw.rc, mkRaw, Src.num]
theorem m_mk (f : Fr) (o s m d a b c lo w) : (mkRaw f o s m d a b c).m lo w = m / 2 ^ lo % 2 ^ w := rfl
theorem form_mk (f : Fr) (o s m d a b c) : (mkRaw f o s m d a b c).form = f.form := rfl
theorem opc_mk (f : Fr) (o s m d a b c) : (mkRaw f o s m d a b c).opc = o := rfl
theorem sub_mk (f : Fr) (o s m d a b c) : (mkRaw f o s m d a b c).sub = s := rfl
theorem setc_mk (f : Fr) (o s m d a b c) : (mkRaw f o s m d a b c).setc = f.setc.toNat := rfl

theorem sa_mk {f : Fr} {o s m d} {a b c : Src} (h : f.form.litsOk a.isLit b.isLit c.isLit = true) : (mkRaw f o s m d a b c).sa = a := by
  unfold Raw.sa mkRaw litOf Raw.ra
  rcases f with ⟨fm⟩
  cases fm <;> cases a <;> cases b <;> cases c <;> simp_all [Form.litsOk, Src.isLit, Src.num]
theorem sb_mk {f : Fr} {o s m d} {a b c : Src} (h : f.form.litsOk a.isLit b.isLit c.isLit = true) : (mkRaw f o s m d a b c).sb = b := by
  unfold Raw.sb mkRaw litOf Raw.rb
  rcases f with ⟨fm⟩
  cases fm <;> cases a <;> cases b <;> cases c <;> simp_all [Form.litsOk, Src.isLit, Src.num]
theorem sc_mk {f : Fr} {o s m d} {a b c : Src} (h : f.form.litsOk a.isLit b.isLit c.isLit = true) : (mkRaw f o s m d a b c).sc = c := by
  unfold Raw.sc mkRaw litOf Raw.rc
  rcases f with ⟨fm⟩
  cases fm <;> cases a <;> cases b <;> cases c <;> simp_all [Form.litsOk, Src.isLit, Src.num]

theorem off_mk {f : Fr} {o s m d} {a c : Src} {v : Word} (h : f.form.litsOk a.isLit true c.isLit = true) :
   (mkRaw f o s m d a (.lit v) c).offset = v := by
  unfold Raw.offset mkRaw litOf
  rcases f with ⟨fm⟩
  cases fm <;> cases a <;> cases c <;> simp_all [Form.litsOk, Src.isLit, Src.num]

theorem srcOff (fm : Form) (k : Bool) (v : Word) : Src.offset fm k v = if fm = .w ∧ k = false then .lit v else .reg 0 := rfl

theorem fits_mk {f : Fr} {o s m : Nat} {d : Reg} {a b c : Src} {ha hb hc : Bool} (ho : o < 256) (hl : f.form.litsOk a.isLit b.isLit c.isLit = true)
   (hh : f.holdsOk ha hb hc = true)
   (hs : s < 32) (hm : m < 16384) (h1 : f.form = .s → s = 0 ∧ m = 0 ∧ c.num = 0) (h2 : f.form = .l → s = 0 ∧ m < 1024 ∧ c.num = 0) : (mkRaw f o s m d a b c).fits = true := by
  have ga (x : Src) : x.num < 1024 := by cases x <;> simp [Src.num]; exact BitVec.isLt _
  have := ga a; have := ga b; have := ga c
  have := d.isLt; have := f.g.isLt; have := f.stall.isLt; have := f.setc.isLt; have := f.wait.isLt
  unfold Raw.fits mkRaw litOf
  rcases f with ⟨fm, u, g, gn, st, sc, wt, h1', h2', h3'⟩
  cases fm <;> cases a <;> cases b <;> cases c <;> simp_all [Form.litsOk, Src.isLit, Src.num, Fr.holdsOk] <;> (try omega)

theorem Sat.code_lt (x : Sat) : x.code < 4 := by cases x <;> decide
theorem Sat.ofCode_code (x : Sat) : Sat.ofCode x.code = some x := by cases x <;> rfl
theorem Rnd.code_lt (x : Rnd) : x.code < 8 := by cases x <;> decide
theorem Rnd.ofCode_code (x : Rnd) : Rnd.ofCode x.code = some x := by cases x <;> rfl
theorem Cond.code_lt (x : Cond) : x.code < 8 := by cases x <;> decide
theorem Cond.ofCode_code (x : Cond) : Cond.ofCode x.code = some x := by cases x <;> rfl
theorem FCond.code_lt (x : FCond) : x.code < 8 := by cases x <;> decide
theorem FCond.ofCode_code (x : FCond) : FCond.ofCode x.code = some x := by cases x <;> rfl
theorem FTy.code_lt (x : FTy) : x.code < 4 := by cases x <;> decide
theorem FTy.ofCode_code (x : FTy) : FTy.ofCode x.code = some x := by cases x <;> rfl
theorem DTy.code_lt (x : DTy) : x.code < 4 := by cases x <;> decide
theorem DTy.ofCode_code (x : DTy) : DTy.ofCode x.code = some x := by cases x <;> rfl
theorem Elem.code_lt (x : Elem) : x.code < 32 := by cases x <;> decide
theorem Elem.ofCode_code (x : Elem) : Elem.ofCode x.code = some x := by cases x <;> rfl
theorem BFmt.code_lt (x : BFmt) : x.code < 8 := by cases x <;> decide
theorem BFmt.ofCode_code (x : BFmt) : BFmt.ofCode x.code = some x := by cases x <;> rfl
theorem Grp.code_lt (x : Grp) : x.code < 4 := by cases x <;> decide
theorem Grp.ofCode_code (x : Grp) : Grp.ofCode x.code = some x := by cases x <;> rfl
theorem Space.code_lt (x : Space) : x.code < 8 := by cases x <;> decide
theorem Space.ofCode_code (x : Space) : Space.ofCode x.code = some x := by cases x <;> rfl
theorem Size.code_lt (x : Size) : x.code < 8 := by cases x <;> decide
theorem Size.ofCode_code (x : Size) : Size.ofCode x.code = some x := by cases x <;> rfl
theorem Hint.code_lt (x : Hint) : x.code < 4 := by cases x <;> decide
theorem Hint.ofCode_code (x : Hint) : Hint.ofCode x.code = some x := by cases x <;> rfl
theorem Scope.code_lt (x : Scope) : x.code < 16 := by cases x <;> decide
theorem Scope.ofCode_code (x : Scope) : Scope.ofCode x.code = some x := by cases x <;> rfl
theorem Order.code_lt (x : Order) : x.code < 4 := by cases x <;> decide
theorem Order.ofCode_code (x : Order) : Order.ofCode x.code = some x := by cases x <;> rfl
theorem AtomOp.code_lt (x : AtomOp) : x.code < 16 := by cases x <;> decide
theorem AtomOp.ofCode_code (x : AtomOp) : AtomOp.ofCode x.code = some x := by cases x <;> rfl
theorem BExt.code_lt (x : BExt) : x.code < 4 := by cases x <;> decide
theorem BExt.ofCode_code (x : BExt) : BExt.ofCode x.code = some x := by cases x <;> rfl
theorem VoteOp.code_lt (x : VoteOp) : x.code < 8 := by cases x <;> decide
theorem VoteOp.ofCode_code (x : VoteOp) : VoteOp.ofCode x.code = some x := by cases x <;> rfl
theorem MaxKind.code_lt (x : MaxKind) : x.code < 2 := by cases x <;> decide
theorem MaxKind.ofCode_code (x : MaxKind) : MaxKind.ofCode x.code = some x := by cases x <;> rfl
theorem SMode.code_lt (x : SMode) : x.code < 2 := by cases x <;> decide
theorem SMode.ofCode_code (x : SMode) : SMode.ofCode x.code = some x := by cases x <;> rfl
theorem ZFmt.code_lt (x : ZFmt) : x.code < 2 := by cases x <;> decide
theorem ZFmt.ofCode_code (x : ZFmt) : ZFmt.ofCode x.code = some x := by cases x <;> rfl
theorem QMode.code_lt (x : QMode) : x.code < 4 := by cases x <;> decide
theorem QMode.ofCode_code (x : QMode) : QMode.ofCode x.code = some x := by cases x <;> rfl
theorem ShflMode.code_lt (x : ShflMode) : x.code < 4 := by cases x <;> decide
theorem ShflMode.ofCode_code (x : ShflMode) : ShflMode.ofCode x.code = some x := by cases x <;> rfl
theorem RedOp.code_lt (x : RedOp) : x.code < 16 := by cases x <;> decide
theorem RedOp.ofCode_code (x : RedOp) : RedOp.ofCode x.code = some x := by cases x <;> rfl
theorem PLevel.code_lt (x : PLevel) : x.code < 2 := by cases x <;> decide
theorem PLevel.ofCode_code (x : PLevel) : PLevel.ofCode x.code = some x := by cases x <;> rfl
theorem TewFn.code_lt (x : TewFn) : x.code < 16 := by cases x <;> decide
theorem TewFn.ofCode_code (x : TewFn) : TewFn.ofCode x.code = some x := by cases x <;> rfl
theorem TredOp.code_lt (x : TredOp) : x.code < 2 := by cases x <;> decide
theorem TredOp.ofCode_code (x : TredOp) : TredOp.ofCode x.code = some x := by cases x <;> rfl
theorem Role.code_lt (x : Role) : x.code < 4 := by cases x <;> decide
theorem Role.ofCode_code (x : Role) : Role.ofCode x.code = some x := by cases x <;> rfl
theorem EbbField.code_lt (x : EbbField) : x.code < 2 := by cases x <;> decide
theorem EbbField.ofCode_code (x : EbbField) : EbbField.ofCode x.code = some x := by cases x <;> rfl
theorem CollOp.code_lt (x : CollOp) : x.code < 4 := by cases x <;> decide
theorem CollOp.ofCode_code (x : CollOp) : CollOp.ofCode x.code = some x := by cases x <;> rfl
theorem Fr.ok_forms {f : Fr} {l : List Form} {u : Bool} (h : f.ok l u = true) : f.form ∈ l ∧ f.setc.toNat ≠ 7 := by
  simp only [Fr.ok, Bool.and_eq_true, decide_eq_true_eq] at h
  refine ⟨h.1.1, fun e => h.1.2 ?_⟩
  exact BitVec.eq_of_toNat_eq e

theorem toNat_beq_one (x : Bool) : (x.toNat == 1) = x := by cases x <;> rfl
theorem toNat_eq_one (x : Bool) : (x.toNat = 1) = (x = true) := by cases x <;> simp
theorem isLit_offset (fm : Form) (k : Bool) (v : Word) : (Src.offset fm k v).isLit = (fm == .w && !k) := by
  cases fm <;> cases k <;> rfl
theorem isLit_reg (r : Reg) : (Src.reg r).isLit = false := rfl
theorem isLit_lit (v : Word) : (Src.lit v).isLit = true := rfl

theorem offset_mk {f : Fr} {o s m d} {a c : Src} {k : Bool} {v : Word} (h : f.form.litsOk a.isLit (Src.offset f.form k v).isLit c.isLit = true)
   (hv : ¬ (f.form = .w ∧ k = false) → v = 0) : (mkRaw f o s m d a (Src.offset f.form k v) c).offset = v := by
  by_cases e : f.form = .w ∧ k = false
  · have e1 : Src.offset f.form k v = .lit v := if_pos e
    rw [e1] at h ⊢; exact off_mk h
  · have e1 : Src.offset f.form k v = .reg 0 := if_neg e
    rw [e1] at h ⊢
    rw [hv e]
    unfold Raw.offset mkRaw litOf
    rcases f with ⟨fm⟩
    cases fm <;> cases a <;> cases c <;> simp_all [Form.litsOk, Src.isLit, Src.num]

theorem SReg.code_lt (x : SReg) : x.code < 1024 := by
  cases x <;> simp [SReg.code] <;> omega
theorem lit_mk {f : Fr} {o s m d} {a b : Src} {v : Word} (h : f.form.litsOk a.isLit b.isLit true = true) : (mkRaw f o s m d a b (.lit v)).lit = v.toNat := by
  unfold mkRaw litOf
  rcases f with ⟨fm⟩
  cases fm <;> cases a <;> cases b <;> simp_all [Form.litsOk, Src.isLit]

theorem num_zero : (Src.reg 0#10).num = 0 := rfl
theorem boolOfCode_toNat (x : Bool) : boolOfCode x.toNat = some x := by cases x <;> rfl
theorem SReg.ofCode_code (x : SReg) : SReg.ofCode x.code = some x := by
  cases x
  case lix k => revert k; decide
  case lext k => revert k; decide
  case kvd n w => revert n w; decide
  all_goals rfl

/-- Fields laid side by side are cut apart again. -/
theorem splitBits_joinBits (l : List (Nat × Nat)) (h : ∀ p ∈ l, p.2 < 2 ^ p.1) : splitBits (l.map (·.1)) (joinBits l) = l.map (·.2) := by
  induction l with
  | nil => rfl
  | cons p r ih =>
    obtain ⟨w, v⟩ := p
    have hv : v < 2 ^ w := h (w, v) (List.mem_cons_self ..)
    have hpos : 0 < 2 ^ w := Nat.two_pow_pos w
    simp only [List.map_cons, joinBits, splitBits]
    rw [Nat.add_mul_mod_self_left, Nat.mod_eq_of_lt hv, Nat.add_mul_div_left _ _ hpos, Nat.div_eq_of_lt hv, Nat.zero_add,
      ih (fun p hp => h p (List.mem_cons_of_mem _ hp))]

/-- They stay below the power of the sum of their widths. -/
theorem joinBits_lt (l : List (Nat × Nat)) (h : ∀ p ∈ l, p.2 < 2 ^ p.1) : joinBits l < 2 ^ (l.map (·.1)).sum := by
  induction l with
  | nil => simp [joinBits]
  | cons p r ih =>
    obtain ⟨w, v⟩ := p
    have hv : v < 2 ^ w := h (w, v) (List.mem_cons_self ..)
    have hr := ih (fun p hp => h p (List.mem_cons_of_mem _ hp))
    simp only [List.map_cons, List.sum_cons, joinBits, pow_add]
    calc v + 2 ^ w * joinBits r < 2 ^ w + 2 ^ w * joinBits r := by omega
      _ = 2 ^ w * (joinBits r + 1) := by ring
      _ ≤ 2 ^ w * 2 ^ (r.map (·.1)).sum := Nat.mul_le_mul_left _ hr

theorem Header.ofWord_toWord (h : Header) : Header.ofWord (BitVec.ofNat 32 h.toWord.toNat) = some h := by
  obtain ⟨af, bf, ta, tb, mq, np, sp, asrc, za, sva, svb, row⟩ := h
  have hb : ∀ p ∈ [(5, af.code), (5, bf.code), (1, ta.toNat), (1, tb.toNat), (4, mq.toNat), (3, np.toNat), (2, sp.toNat),
      (1, asrc.toNat), (1, za.toNat), (1, sva.toNat), (1, svb.toNat), (7, row.toNat)], p.2 < 2 ^ p.1 := by
    have h1 := Elem.code_lt af; have h2 := Elem.code_lt bf; have h3 := Bool.toNat_lt ta; have h4 := Bool.toNat_lt tb
    have h5 := mq.isLt; have h6 := np.isLt; have h7 := sp.isLt; have h8 := Bool.toNat_lt asrc; have h9 := Bool.toNat_lt za
    have h10 := Bool.toNat_lt sva; have h11 := Bool.toNat_lt svb; have h12 := row.isLt
    simp only [List.forall_mem_cons, List.not_mem_nil, false_implies, implies_true, and_true]
    exact ⟨h1, h2, h3, h4, h5, h6, h7, h8, h9, h10, h11, h12⟩
  have hl := joinBits_lt _ hb
  have hs := splitBits_joinBits _ hb
  have hv : (Header.toWord ⟨af, bf, ta, tb, mq, np, sp, asrc, za, sva, svb, row⟩).toNat =
      joinBits [(5, af.code), (5, bf.code), (1, ta.toNat), (1, tb.toNat), (4, mq.toNat), (3, np.toNat), (2, sp.toNat),
        (1, asrc.toNat), (1, za.toNat), (1, sva.toNat), (1, svb.toNat), (7, row.toNat)] := by
    simp only [Header.toWord, BitVec.toNat_ofNat]
    exact Nat.mod_eq_of_lt hl
  simp only [BitVec.ofNat_toNat, BitVec.setWidth_eq]
  unfold Header.ofWord
  rw [hv]
  generalize joinBits _ = v at hs
  simp only [List.map_cons, List.map_nil, splitBits, List.cons.injEq, and_true, Nat.div_div_eq_div_mul] at hs
  norm_num at hs ⊢
  obtain ⟨e1, e2, e3, e4, e5, e6, e7, e8, e9, e10, e11, e12⟩ := hs
  have g5 : BitVec.ofNat 4 (v / 4096) = mq := BitVec.eq_of_toNat_eq (by simpa using e5)
  have g6 : BitVec.ofNat 3 (v / 65536) = np := BitVec.eq_of_toNat_eq (by simpa using e6)
  have g7 : BitVec.ofNat 2 (v / 524288) = sp := BitVec.eq_of_toNat_eq (by simpa using e7)
  have g12 : BitVec.ofNat 7 (v / 33554432) = row := BitVec.eq_of_toNat_eq (by simpa using e12)
  simp only [e1, e2, e3, e4, g5, g6, g7, e8, e9, e10, e11, g12, Elem.ofCode_code, Option.bind, toNat_beq_one]

end Sys2Proof
end

