-- ==== Sys2Proof/Laws/State.lean ====
section
/-! SUPPORT. What each update of the state does to each of its fields. -/
namespace Sys2Proof.Machine
open Sys2Proof

/-! ### State.modCore -/

@[simp] theorem State.modCore_turns (s : State) (n : Nat) (f : Core → Core) : (s.modCore n f).turns = s.turns := rfl
@[simp] theorem State.modCore_cur (s : State) (n : Nat) (f : Core → Core) : (s.modCore n f).cur = s.cur := rfl
@[simp] theorem State.modCore_free (s : State) (n : Nat) (f : Core → Core) : (s.modCore n f).free = s.free := rfl
@[simp] theorem State.modCore_now (s : State) (n : Nat) (f : Core → Core) : (s.modCore n f).now = s.now := rfl
@[simp] theorem State.modCore_stage (s : State) (n : Nat) (f : Core → Core) : (s.modCore n f).stage = s.stage := rfl
@[simp] theorem State.modCore_uid (s : State) (n : Nat) (f : Core → Core) : (s.modCore n f).uid = s.uid := rfl
@[simp] theorem State.modCore_mem (s : State) (n : Nat) (f : Core → Core) : (s.modCore n f).mem = s.mem := rfl
@[simp] theorem State.modCore_side (s : State) (n : Nat) (f : Core → Core) : (s.modCore n f).side = s.side := rfl
@[simp] theorem State.modCore_poison (s : State) (n : Nat) (f : Core → Core) : (s.modCore n f).poison = s.poison := rfl
@[simp] theorem State.modCore_regs (s : State) (n : Nat) (f : Core → Core) : (s.modCore n f).regs = s.regs := rfl
@[simp] theorem State.modCore_acc (s : State) (n : Nat) (f : Core → Core) : (s.modCore n f).acc = s.acc := rfl
@[simp] theorem State.modCore_bscale (s : State) (n : Nat) (f : Core → Core) : (s.modCore n f).bscale = s.bscale := rfl
@[simp] theorem State.modCore_bmeta (s : State) (n : Nat) (f : Core → Core) : (s.modCore n f).bmeta = s.bmeta := rfl
@[simp] theorem State.modCore_warps (s : State) (n : Nat) (f : Core → Core) : (s.modCore n f).warps = s.warps := rfl
@[simp] theorem State.modCore_blocks (s : State) (n : Nat) (f : Core → Core) : (s.modCore n f).blocks = s.blocks := rfl
@[simp] theorem State.modCore_gangs (s : State) (n : Nat) (f : Core → Core) : (s.modCore n f).gangs = s.gangs := rfl
@[simp] theorem State.modCore_launches (s : State) (n : Nat) (f : Core → Core) : (s.modCore n f).launches = s.launches := rfl
@[simp] theorem State.modCore_rafts (s : State) (n : Nat) (f : Core → Core) : (s.modCore n f).rafts = s.rafts := rfl
@[simp] theorem State.modCore_cores (s : State) (n : Nat) (f : Core → Core) : (s.modCore n f).cores = tputD s.cores n Core.reset (f (s.core n)) := rfl
@[simp] theorem State.modCore_twins (s : State) (n : Nat) (f : Core → Core) : (s.modCore n f).twins = s.twins := rfl
@[simp] theorem State.modCore_clusters (s : State) (n : Nat) (f : Core → Core) : (s.modCore n f).clusters = s.clusters := rfl
@[simp] theorem State.modCore_dies (s : State) (n : Nat) (f : Core → Core) : (s.modCore n f).dies = s.dies := rfl
@[simp] theorem State.modCore_nmus (s : State) (n : Nat) (f : Core → Core) : (s.modCore n f).nmus = s.nmus := rfl
@[simp] theorem State.modCore_queues (s : State) (n : Nat) (f : Core → Core) : (s.modCore n f).queues = s.queues := rfl
@[simp] theorem State.modCore_ctxs (s : State) (n : Nat) (f : Core → Core) : (s.modCore n f).ctxs = s.ctxs := rfl
@[simp] theorem State.modCore_groups (s : State) (n : Nat) (f : Core → Core) : (s.modCore n f).groups = s.groups := rfl
@[simp] theorem State.modCore_ingress (s : State) (n : Nat) (f : Core → Core) : (s.modCore n f).ingress = s.ingress := rfl
@[simp] theorem State.modCore_keys (s : State) (n : Nat) (f : Core → Core) : (s.modCore n f).keys = s.keys := rfl
@[simp] theorem State.modCore_flioc (s : State) (n : Nat) (f : Core → Core) : (s.modCore n f).flioc = s.flioc := rfl
@[simp] theorem State.modCore_raised (s : State) (n : Nat) (f : Core → Core) : (s.modCore n f).raised = s.raised := rfl
@[simp] theorem State.modCore_events (s : State) (n : Nat) (f : Core → Core) : (s.modCore n f).events = s.events := rfl
@[simp] theorem State.modCore_box0 (s : State) (n : Nat) (f : Core → Core) : (s.modCore n f).box0 = s.box0 := rfl
@[simp] theorem State.modCore_box1 (s : State) (n : Nat) (f : Core → Core) : (s.modCore n f).box1 = s.box1 := rfl
@[simp] theorem State.modCore_ring (s : State) (n : Nat) (f : Core → Core) : (s.modCore n f).ring = s.ring := rfl
@[simp] theorem State.modCore_plat (s : State) (n : Nat) (f : Core → Core) : (s.modCore n f).plat = s.plat := rfl
@[simp] theorem State.modCore_ports (s : State) (n : Nat) (f : Core → Core) : (s.modCore n f).ports = s.ports := rfl
@[simp] theorem State.modCore_replays (s : State) (n : Nat) (f : Core → Core) : (s.modCore n f).replays = s.replays := rfl
@[simp] theorem State.modCore_hostIn (s : State) (n : Nat) (f : Core → Core) : (s.modCore n f).hostIn = s.hostIn := rfl

/-! ### State.modWarp -/

@[simp] theorem State.modWarp_turns (s : State) (n : Nat) (f : Warp → Warp) : (s.modWarp n f).turns = s.turns := rfl
@[simp] theorem State.modWarp_cur (s : State) (n : Nat) (f : Warp → Warp) : (s.modWarp n f).cur = s.cur := rfl
@[simp] theorem State.modWarp_free (s : State) (n : Nat) (f : Warp → Warp) : (s.modWarp n f).free = s.free := rfl
@[simp] theorem State.modWarp_now (s : State) (n : Nat) (f : Warp → Warp) : (s.modWarp n f).now = s.now := rfl
@[simp] theorem State.modWarp_stage (s : State) (n : Nat) (f : Warp → Warp) : (s.modWarp n f).stage = s.stage := rfl
@[simp] theorem State.modWarp_uid (s : State) (n : Nat) (f : Warp → Warp) : (s.modWarp n f).uid = s.uid := rfl
@[simp] theorem State.modWarp_mem (s : State) (n : Nat) (f : Warp → Warp) : (s.modWarp n f).mem = s.mem := rfl
@[simp] theorem State.modWarp_side (s : State) (n : Nat) (f : Warp → Warp) : (s.modWarp n f).side = s.side := rfl
@[simp] theorem State.modWarp_poison (s : State) (n : Nat) (f : Warp → Warp) : (s.modWarp n f).poison = s.poison := rfl
@[simp] theorem State.modWarp_regs (s : State) (n : Nat) (f : Warp → Warp) : (s.modWarp n f).regs = s.regs := rfl
@[simp] theorem State.modWarp_acc (s : State) (n : Nat) (f : Warp → Warp) : (s.modWarp n f).acc = s.acc := rfl
@[simp] theorem State.modWarp_bscale (s : State) (n : Nat) (f : Warp → Warp) : (s.modWarp n f).bscale = s.bscale := rfl
@[simp] theorem State.modWarp_bmeta (s : State) (n : Nat) (f : Warp → Warp) : (s.modWarp n f).bmeta = s.bmeta := rfl
@[simp] theorem State.modWarp_warps (s : State) (n : Nat) (f : Warp → Warp) : (s.modWarp n f).warps = tmod s.warps n f := rfl
@[simp] theorem State.modWarp_blocks (s : State) (n : Nat) (f : Warp → Warp) : (s.modWarp n f).blocks = s.blocks := rfl
@[simp] theorem State.modWarp_gangs (s : State) (n : Nat) (f : Warp → Warp) : (s.modWarp n f).gangs = s.gangs := rfl
@[simp] theorem State.modWarp_launches (s : State) (n : Nat) (f : Warp → Warp) : (s.modWarp n f).launches = s.launches := rfl
@[simp] theorem State.modWarp_rafts (s : State) (n : Nat) (f : Warp → Warp) : (s.modWarp n f).rafts = s.rafts := rfl
@[simp] theorem State.modWarp_cores (s : State) (n : Nat) (f : Warp → Warp) : (s.modWarp n f).cores = s.cores := rfl
@[simp] theorem State.modWarp_twins (s : State) (n : Nat) (f : Warp → Warp) : (s.modWarp n f).twins = s.twins := rfl
@[simp] theorem State.modWarp_clusters (s : State) (n : Nat) (f : Warp → Warp) : (s.modWarp n f).clusters = s.clusters := rfl
@[simp] theorem State.modWarp_dies (s : State) (n : Nat) (f : Warp → Warp) : (s.modWarp n f).dies = s.dies := rfl
@[simp] theorem State.modWarp_nmus (s : State) (n : Nat) (f : Warp → Warp) : (s.modWarp n f).nmus = s.nmus := rfl
@[simp] theorem State.modWarp_queues (s : State) (n : Nat) (f : Warp → Warp) : (s.modWarp n f).queues = s.queues := rfl
@[simp] theorem State.modWarp_ctxs (s : State) (n : Nat) (f : Warp → Warp) : (s.modWarp n f).ctxs = s.ctxs := rfl
@[simp] theorem State.modWarp_groups (s : State) (n : Nat) (f : Warp → Warp) : (s.modWarp n f).groups = s.groups := rfl
@[simp] theorem State.modWarp_ingress (s : State) (n : Nat) (f : Warp → Warp) : (s.modWarp n f).ingress = s.ingress := rfl
@[simp] theorem State.modWarp_keys (s : State) (n : Nat) (f : Warp → Warp) : (s.modWarp n f).keys = s.keys := rfl
@[simp] theorem State.modWarp_flioc (s : State) (n : Nat) (f : Warp → Warp) : (s.modWarp n f).flioc = s.flioc := rfl
@[simp] theorem State.modWarp_raised (s : State) (n : Nat) (f : Warp → Warp) : (s.modWarp n f).raised = s.raised := rfl
@[simp] theorem State.modWarp_events (s : State) (n : Nat) (f : Warp → Warp) : (s.modWarp n f).events = s.events := rfl
@[simp] theorem State.modWarp_box0 (s : State) (n : Nat) (f : Warp → Warp) : (s.modWarp n f).box0 = s.box0 := rfl
@[simp] theorem State.modWarp_box1 (s : State) (n : Nat) (f : Warp → Warp) : (s.modWarp n f).box1 = s.box1 := rfl
@[simp] theorem State.modWarp_ring (s : State) (n : Nat) (f : Warp → Warp) : (s.modWarp n f).ring = s.ring := rfl
@[simp] theorem State.modWarp_plat (s : State) (n : Nat) (f : Warp → Warp) : (s.modWarp n f).plat = s.plat := rfl
@[simp] theorem State.modWarp_ports (s : State) (n : Nat) (f : Warp → Warp) : (s.modWarp n f).ports = s.ports := rfl
@[simp] theorem State.modWarp_replays (s : State) (n : Nat) (f : Warp → Warp) : (s.modWarp n f).replays = s.replays := rfl
@[simp] theorem State.modWarp_hostIn (s : State) (n : Nat) (f : Warp → Warp) : (s.modWarp n f).hostIn = s.hostIn := rfl

/-! ### State.modSplit -/

@[simp] theorem State.modSplit_turns (s : State) (w e : Nat) (f : Split → Split) : (s.modSplit w e f).turns = s.turns := rfl
@[simp] theorem State.modSplit_cur (s : State) (w e : Nat) (f : Split → Split) : (s.modSplit w e f).cur = s.cur := rfl
@[simp] theorem State.modSplit_free (s : State) (w e : Nat) (f : Split → Split) : (s.modSplit w e f).free = s.free := rfl
@[simp] theorem State.modSplit_now (s : State) (w e : Nat) (f : Split → Split) : (s.modSplit w e f).now = s.now := rfl
@[simp] theorem State.modSplit_stage (s : State) (w e : Nat) (f : Split → Split) : (s.modSplit w e f).stage = s.stage := rfl
@[simp] theorem State.modSplit_uid (s : State) (w e : Nat) (f : Split → Split) : (s.modSplit w e f).uid = s.uid := rfl
@[simp] theorem State.modSplit_mem (s : State) (w e : Nat) (f : Split → Split) : (s.modSplit w e f).mem = s.mem := rfl
@[simp] theorem State.modSplit_side (s : State) (w e : Nat) (f : Split → Split) : (s.modSplit w e f).side = s.side := rfl
@[simp] theorem State.modSplit_poison (s : State) (w e : Nat) (f : Split → Split) : (s.modSplit w e f).poison = s.poison := rfl
@[simp] theorem State.modSplit_regs (s : State) (w e : Nat) (f : Split → Split) : (s.modSplit w e f).regs = s.regs := rfl
@[simp] theorem State.modSplit_acc (s : State) (w e : Nat) (f : Split → Split) : (s.modSplit w e f).acc = s.acc := rfl
@[simp] theorem State.modSplit_bscale (s : State) (w e : Nat) (f : Split → Split) : (s.modSplit w e f).bscale = s.bscale := rfl
@[simp] theorem State.modSplit_bmeta (s : State) (w e : Nat) (f : Split → Split) : (s.modSplit w e f).bmeta = s.bmeta := rfl
@[simp] theorem State.modSplit_warps (s : State) (w e : Nat) (f : Split → Split) : (s.modSplit w e f).warps = tmod s.warps w (·.modSplit e f) := rfl
@[simp] theorem State.modSplit_blocks (s : State) (w e : Nat) (f : Split → Split) : (s.modSplit w e f).blocks = s.blocks := rfl
@[simp] theorem State.modSplit_gangs (s : State) (w e : Nat) (f : Split → Split) : (s.modSplit w e f).gangs = s.gangs := rfl
@[simp] theorem State.modSplit_launches (s : State) (w e : Nat) (f : Split → Split) : (s.modSplit w e f).launches = s.launches := rfl
@[simp] theorem State.modSplit_rafts (s : State) (w e : Nat) (f : Split → Split) : (s.modSplit w e f).rafts = s.rafts := rfl
@[simp] theorem State.modSplit_cores (s : State) (w e : Nat) (f : Split → Split) : (s.modSplit w e f).cores = s.cores := rfl
@[simp] theorem State.modSplit_twins (s : State) (w e : Nat) (f : Split → Split) : (s.modSplit w e f).twins = s.twins := rfl
@[simp] theorem State.modSplit_clusters (s : State) (w e : Nat) (f : Split → Split) : (s.modSplit w e f).clusters = s.clusters := rfl
@[simp] theorem State.modSplit_dies (s : State) (w e : Nat) (f : Split → Split) : (s.modSplit w e f).dies = s.dies := rfl
@[simp] theorem State.modSplit_nmus (s : State) (w e : Nat) (f : Split → Split) : (s.modSplit w e f).nmus = s.nmus := rfl
@[simp] theorem State.modSplit_queues (s : State) (w e : Nat) (f : Split → Split) : (s.modSplit w e f).queues = s.queues := rfl
@[simp] theorem State.modSplit_ctxs (s : State) (w e : Nat) (f : Split → Split) : (s.modSplit w e f).ctxs = s.ctxs := rfl
@[simp] theorem State.modSplit_groups (s : State) (w e : Nat) (f : Split → Split) : (s.modSplit w e f).groups = s.groups := rfl
@[simp] theorem State.modSplit_ingress (s : State) (w e : Nat) (f : Split → Split) : (s.modSplit w e f).ingress = s.ingress := rfl
@[simp] theorem State.modSplit_keys (s : State) (w e : Nat) (f : Split → Split) : (s.modSplit w e f).keys = s.keys := rfl
@[simp] theorem State.modSplit_flioc (s : State) (w e : Nat) (f : Split → Split) : (s.modSplit w e f).flioc = s.flioc := rfl
@[simp] theorem State.modSplit_raised (s : State) (w e : Nat) (f : Split → Split) : (s.modSplit w e f).raised = s.raised := rfl
@[simp] theorem State.modSplit_events (s : State) (w e : Nat) (f : Split → Split) : (s.modSplit w e f).events = s.events := rfl
@[simp] theorem State.modSplit_box0 (s : State) (w e : Nat) (f : Split → Split) : (s.modSplit w e f).box0 = s.box0 := rfl
@[simp] theorem State.modSplit_box1 (s : State) (w e : Nat) (f : Split → Split) : (s.modSplit w e f).box1 = s.box1 := rfl
@[simp] theorem State.modSplit_ring (s : State) (w e : Nat) (f : Split → Split) : (s.modSplit w e f).ring = s.ring := rfl
@[simp] theorem State.modSplit_plat (s : State) (w e : Nat) (f : Split → Split) : (s.modSplit w e f).plat = s.plat := rfl
@[simp] theorem State.modSplit_ports (s : State) (w e : Nat) (f : Split → Split) : (s.modSplit w e f).ports = s.ports := rfl
@[simp] theorem State.modSplit_replays (s : State) (w e : Nat) (f : Split → Split) : (s.modSplit w e f).replays = s.replays := rfl
@[simp] theorem State.modSplit_hostIn (s : State) (w e : Nat) (f : Split → Split) : (s.modSplit w e f).hostIn = s.hostIn := rfl

/-! ### State.modBlock -/

@[simp] theorem State.modBlock_turns (s : State) (n : Nat) (f : Block → Block) : (s.modBlock n f).turns = s.turns := rfl
@[simp] theorem State.modBlock_cur (s : State) (n : Nat) (f : Block → Block) : (s.modBlock n f).cur = s.cur := rfl
@[simp] theorem State.modBlock_free (s : State) (n : Nat) (f : Block → Block) : (s.modBlock n f).free = s.free := rfl
@[simp] theorem State.modBlock_now (s : State) (n : Nat) (f : Block → Block) : (s.modBlock n f).now = s.now := rfl
@[simp] theorem State.modBlock_stage (s : State) (n : Nat) (f : Block → Block) : (s.modBlock n f).stage = s.stage := rfl
@[simp] theorem State.modBlock_uid (s : State) (n : Nat) (f : Block → Block) : (s.modBlock n f).uid = s.uid := rfl
@[simp] theorem State.modBlock_mem (s : State) (n : Nat) (f : Block → Block) : (s.modBlock n f).mem = s.mem := rfl
@[simp] theorem State.modBlock_side (s : State) (n : Nat) (f : Block → Block) : (s.modBlock n f).side = s.side := rfl
@[simp] theorem State.modBlock_poison (s : State) (n : Nat) (f : Block → Block) : (s.modBlock n f).poison = s.poison := rfl
@[simp] theorem State.modBlock_regs (s : State) (n : Nat) (f : Block → Block) : (s.modBlock n f).regs = s.regs := rfl
@[simp] theorem State.modBlock_acc (s : State) (n : Nat) (f : Block → Block) : (s.modBlock n f).acc = s.acc := rfl
@[simp] theorem State.modBlock_bscale (s : State) (n : Nat) (f : Block → Block) : (s.modBlock n f).bscale = s.bscale := rfl
@[simp] theorem State.modBlock_bmeta (s : State) (n : Nat) (f : Block → Block) : (s.modBlock n f).bmeta = s.bmeta := rfl
@[simp] theorem State.modBlock_warps (s : State) (n : Nat) (f : Block → Block) : (s.modBlock n f).warps = s.warps := rfl
@[simp] theorem State.modBlock_blocks (s : State) (n : Nat) (f : Block → Block) : (s.modBlock n f).blocks = tmod s.blocks n f := rfl
@[simp] theorem State.modBlock_gangs (s : State) (n : Nat) (f : Block → Block) : (s.modBlock n f).gangs = s.gangs := rfl
@[simp] theorem State.modBlock_launches (s : State) (n : Nat) (f : Block → Block) : (s.modBlock n f).launches = s.launches := rfl
@[simp] theorem State.modBlock_rafts (s : State) (n : Nat) (f : Block → Block) : (s.modBlock n f).rafts = s.rafts := rfl
@[simp] theorem State.modBlock_cores (s : State) (n : Nat) (f : Block → Block) : (s.modBlock n f).cores = s.cores := rfl
@[simp] theorem State.modBlock_twins (s : State) (n : Nat) (f : Block → Block) : (s.modBlock n f).twins = s.twins := rfl
@[simp] theorem State.modBlock_clusters (s : State) (n : Nat) (f : Block → Block) : (s.modBlock n f).clusters = s.clusters := rfl
@[simp] theorem State.modBlock_dies (s : State) (n : Nat) (f : Block → Block) : (s.modBlock n f).dies = s.dies := rfl
@[simp] theorem State.modBlock_nmus (s : State) (n : Nat) (f : Block → Block) : (s.modBlock n f).nmus = s.nmus := rfl
@[simp] theorem State.modBlock_queues (s : State) (n : Nat) (f : Block → Block) : (s.modBlock n f).queues = s.queues := rfl
@[simp] theorem State.modBlock_ctxs (s : State) (n : Nat) (f : Block → Block) : (s.modBlock n f).ctxs = s.ctxs := rfl
@[simp] theorem State.modBlock_groups (s : State) (n : Nat) (f : Block → Block) : (s.modBlock n f).groups = s.groups := rfl
@[simp] theorem State.modBlock_ingress (s : State) (n : Nat) (f : Block → Block) : (s.modBlock n f).ingress = s.ingress := rfl
@[simp] theorem State.modBlock_keys (s : State) (n : Nat) (f : Block → Block) : (s.modBlock n f).keys = s.keys := rfl
@[simp] theorem State.modBlock_flioc (s : State) (n : Nat) (f : Block → Block) : (s.modBlock n f).flioc = s.flioc := rfl
@[simp] theorem State.modBlock_raised (s : State) (n : Nat) (f : Block → Block) : (s.modBlock n f).raised = s.raised := rfl
@[simp] theorem State.modBlock_events (s : State) (n : Nat) (f : Block → Block) : (s.modBlock n f).events = s.events := rfl
@[simp] theorem State.modBlock_box0 (s : State) (n : Nat) (f : Block → Block) : (s.modBlock n f).box0 = s.box0 := rfl
@[simp] theorem State.modBlock_box1 (s : State) (n : Nat) (f : Block → Block) : (s.modBlock n f).box1 = s.box1 := rfl
@[simp] theorem State.modBlock_ring (s : State) (n : Nat) (f : Block → Block) : (s.modBlock n f).ring = s.ring := rfl
@[simp] theorem State.modBlock_plat (s : State) (n : Nat) (f : Block → Block) : (s.modBlock n f).plat = s.plat := rfl
@[simp] theorem State.modBlock_ports (s : State) (n : Nat) (f : Block → Block) : (s.modBlock n f).ports = s.ports := rfl
@[simp] theorem State.modBlock_replays (s : State) (n : Nat) (f : Block → Block) : (s.modBlock n f).replays = s.replays := rfl
@[simp] theorem State.modBlock_hostIn (s : State) (n : Nat) (f : Block → Block) : (s.modBlock n f).hostIn = s.hostIn := rfl

/-! ### State.modGang -/

@[simp] theorem State.modGang_turns (s : State) (n : Nat) (f : Gang → Gang) : (s.modGang n f).turns = s.turns := rfl
@[simp] theorem State.modGang_cur (s : State) (n : Nat) (f : Gang → Gang) : (s.modGang n f).cur = s.cur := rfl
@[simp] theorem State.modGang_free (s : State) (n : Nat) (f : Gang → Gang) : (s.modGang n f).free = s.free := rfl
@[simp] theorem State.modGang_now (s : State) (n : Nat) (f : Gang → Gang) : (s.modGang n f).now = s.now := rfl
@[simp] theorem State.modGang_stage (s : State) (n : Nat) (f : Gang → Gang) : (s.modGang n f).stage = s.stage := rfl
@[simp] theorem State.modGang_uid (s : State) (n : Nat) (f : Gang → Gang) : (s.modGang n f).uid = s.uid := rfl
@[simp] theorem State.modGang_mem (s : State) (n : Nat) (f : Gang → Gang) : (s.modGang n f).mem = s.mem := rfl
@[simp] theorem State.modGang_side (s : State) (n : Nat) (f : Gang → Gang) : (s.modGang n f).side = s.side := rfl
@[simp] theorem State.modGang_poison (s : State) (n : Nat) (f : Gang → Gang) : (s.modGang n f).poison = s.poison := rfl
@[simp] theorem State.modGang_regs (s : State) (n : Nat) (f : Gang → Gang) : (s.modGang n f).regs = s.regs := rfl
@[simp] theorem State.modGang_acc (s : State) (n : Nat) (f : Gang → Gang) : (s.modGang n f).acc = s.acc := rfl
@[simp] theorem State.modGang_bscale (s : State) (n : Nat) (f : Gang → Gang) : (s.modGang n f).bscale = s.bscale := rfl
@[simp] theorem State.modGang_bmeta (s : State) (n : Nat) (f : Gang → Gang) : (s.modGang n f).bmeta = s.bmeta := rfl
@[simp] theorem State.modGang_warps (s : State) (n : Nat) (f : Gang → Gang) : (s.modGang n f).warps = s.warps := rfl
@[simp] theorem State.modGang_blocks (s : State) (n : Nat) (f : Gang → Gang) : (s.modGang n f).blocks = s.blocks := rfl
@[simp] theorem State.modGang_gangs (s : State) (n : Nat) (f : Gang → Gang) : (s.modGang n f).gangs = tmod s.gangs n f := rfl
@[simp] theorem State.modGang_launches (s : State) (n : Nat) (f : Gang → Gang) : (s.modGang n f).launches = s.launches := rfl
@[simp] theorem State.modGang_rafts (s : State) (n : Nat) (f : Gang → Gang) : (s.modGang n f).rafts = s.rafts := rfl
@[simp] theorem State.modGang_cores (s : State) (n : Nat) (f : Gang → Gang) : (s.modGang n f).cores = s.cores := rfl
@[simp] theorem State.modGang_twins (s : State) (n : Nat) (f : Gang → Gang) : (s.modGang n f).twins = s.twins := rfl
@[simp] theorem State.modGang_clusters (s : State) (n : Nat) (f : Gang → Gang) : (s.modGang n f).clusters = s.clusters := rfl
@[simp] theorem State.modGang_dies (s : State) (n : Nat) (f : Gang → Gang) : (s.modGang n f).dies = s.dies := rfl
@[simp] theorem State.modGang_nmus (s : State) (n : Nat) (f : Gang → Gang) : (s.modGang n f).nmus = s.nmus := rfl
@[simp] theorem State.modGang_queues (s : State) (n : Nat) (f : Gang → Gang) : (s.modGang n f).queues = s.queues := rfl
@[simp] theorem State.modGang_ctxs (s : State) (n : Nat) (f : Gang → Gang) : (s.modGang n f).ctxs = s.ctxs := rfl
@[simp] theorem State.modGang_groups (s : State) (n : Nat) (f : Gang → Gang) : (s.modGang n f).groups = s.groups := rfl
@[simp] theorem State.modGang_ingress (s : State) (n : Nat) (f : Gang → Gang) : (s.modGang n f).ingress = s.ingress := rfl
@[simp] theorem State.modGang_keys (s : State) (n : Nat) (f : Gang → Gang) : (s.modGang n f).keys = s.keys := rfl
@[simp] theorem State.modGang_flioc (s : State) (n : Nat) (f : Gang → Gang) : (s.modGang n f).flioc = s.flioc := rfl
@[simp] theorem State.modGang_raised (s : State) (n : Nat) (f : Gang → Gang) : (s.modGang n f).raised = s.raised := rfl
@[simp] theorem State.modGang_events (s : State) (n : Nat) (f : Gang → Gang) : (s.modGang n f).events = s.events := rfl
@[simp] theorem State.modGang_box0 (s : State) (n : Nat) (f : Gang → Gang) : (s.modGang n f).box0 = s.box0 := rfl
@[simp] theorem State.modGang_box1 (s : State) (n : Nat) (f : Gang → Gang) : (s.modGang n f).box1 = s.box1 := rfl
@[simp] theorem State.modGang_ring (s : State) (n : Nat) (f : Gang → Gang) : (s.modGang n f).ring = s.ring := rfl
@[simp] theorem State.modGang_plat (s : State) (n : Nat) (f : Gang → Gang) : (s.modGang n f).plat = s.plat := rfl
@[simp] theorem State.modGang_ports (s : State) (n : Nat) (f : Gang → Gang) : (s.modGang n f).ports = s.ports := rfl
@[simp] theorem State.modGang_replays (s : State) (n : Nat) (f : Gang → Gang) : (s.modGang n f).replays = s.replays := rfl
@[simp] theorem State.modGang_hostIn (s : State) (n : Nat) (f : Gang → Gang) : (s.modGang n f).hostIn = s.hostIn := rfl

/-! ### State.modLaunch -/

@[simp] theorem State.modLaunch_turns (s : State) (n : Nat) (f : Launch → Launch) : (s.modLaunch n f).turns = s.turns := rfl
@[simp] theorem State.modLaunch_cur (s : State) (n : Nat) (f : Launch → Launch) : (s.modLaunch n f).cur = s.cur := rfl
@[simp] theorem State.modLaunch_free (s : State) (n : Nat) (f : Launch → Launch) : (s.modLaunch n f).free = s.free := rfl
@[simp] theorem State.modLaunch_now (s : State) (n : Nat) (f : Launch → Launch) : (s.modLaunch n f).now = s.now := rfl
@[simp] theorem State.modLaunch_stage (s : State) (n : Nat) (f : Launch → Launch) : (s.modLaunch n f).stage = s.stage := rfl
@[simp] theorem State.modLaunch_uid (s : State) (n : Nat) (f : Launch → Launch) : (s.modLaunch n f).uid = s.uid := rfl
@[simp] theorem State.modLaunch_mem (s : State) (n : Nat) (f : Launch → Launch) : (s.modLaunch n f).mem = s.mem := rfl
@[simp] theorem State.modLaunch_side (s : State) (n : Nat) (f : Launch → Launch) : (s.modLaunch n f).side = s.side := rfl
@[simp] theorem State.modLaunch_poison (s : State) (n : Nat) (f : Launch → Launch) : (s.modLaunch n f).poison = s.poison := rfl
@[simp] theorem State.modLaunch_regs (s : State) (n : Nat) (f : Launch → Launch) : (s.modLaunch n f).regs = s.regs := rfl
@[simp] theorem State.modLaunch_acc (s : State) (n : Nat) (f : Launch → Launch) : (s.modLaunch n f).acc = s.acc := rfl
@[simp] theorem State.modLaunch_bscale (s : State) (n : Nat) (f : Launch → Launch) : (s.modLaunch n f).bscale = s.bscale := rfl
@[simp] theorem State.modLaunch_bmeta (s : State) (n : Nat) (f : Launch → Launch) : (s.modLaunch n f).bmeta = s.bmeta := rfl
@[simp] theorem State.modLaunch_warps (s : State) (n : Nat) (f : Launch → Launch) : (s.modLaunch n f).warps = s.warps := rfl
@[simp] theorem State.modLaunch_blocks (s : State) (n : Nat) (f : Launch → Launch) : (s.modLaunch n f).blocks = s.blocks := rfl
@[simp] theorem State.modLaunch_gangs (s : State) (n : Nat) (f : Launch → Launch) : (s.modLaunch n f).gangs = s.gangs := rfl
@[simp] theorem State.modLaunch_launches (s : State) (n : Nat) (f : Launch → Launch) : (s.modLaunch n f).launches = tmod s.launches n f := rfl
@[simp] theorem State.modLaunch_rafts (s : State) (n : Nat) (f : Launch → Launch) : (s.modLaunch n f).rafts = s.rafts := rfl
@[simp] theorem State.modLaunch_cores (s : State) (n : Nat) (f : Launch → Launch) : (s.modLaunch n f).cores = s.cores := rfl
@[simp] theorem State.modLaunch_twins (s : State) (n : Nat) (f : Launch → Launch) : (s.modLaunch n f).twins = s.twins := rfl
@[simp] theorem State.modLaunch_clusters (s : State) (n : Nat) (f : Launch → Launch) : (s.modLaunch n f).clusters = s.clusters := rfl
@[simp] theorem State.modLaunch_dies (s : State) (n : Nat) (f : Launch → Launch) : (s.modLaunch n f).dies = s.dies := rfl
@[simp] theorem State.modLaunch_nmus (s : State) (n : Nat) (f : Launch → Launch) : (s.modLaunch n f).nmus = s.nmus := rfl
@[simp] theorem State.modLaunch_queues (s : State) (n : Nat) (f : Launch → Launch) : (s.modLaunch n f).queues = s.queues := rfl
@[simp] theorem State.modLaunch_ctxs (s : State) (n : Nat) (f : Launch → Launch) : (s.modLaunch n f).ctxs = s.ctxs := rfl
@[simp] theorem State.modLaunch_groups (s : State) (n : Nat) (f : Launch → Launch) : (s.modLaunch n f).groups = s.groups := rfl
@[simp] theorem State.modLaunch_ingress (s : State) (n : Nat) (f : Launch → Launch) : (s.modLaunch n f).ingress = s.ingress := rfl
@[simp] theorem State.modLaunch_keys (s : State) (n : Nat) (f : Launch → Launch) : (s.modLaunch n f).keys = s.keys := rfl
@[simp] theorem State.modLaunch_flioc (s : State) (n : Nat) (f : Launch → Launch) : (s.modLaunch n f).flioc = s.flioc := rfl
@[simp] theorem State.modLaunch_raised (s : State) (n : Nat) (f : Launch → Launch) : (s.modLaunch n f).raised = s.raised := rfl
@[simp] theorem State.modLaunch_events (s : State) (n : Nat) (f : Launch → Launch) : (s.modLaunch n f).events = s.events := rfl
@[simp] theorem State.modLaunch_box0 (s : State) (n : Nat) (f : Launch → Launch) : (s.modLaunch n f).box0 = s.box0 := rfl
@[simp] theorem State.modLaunch_box1 (s : State) (n : Nat) (f : Launch → Launch) : (s.modLaunch n f).box1 = s.box1 := rfl
@[simp] theorem State.modLaunch_ring (s : State) (n : Nat) (f : Launch → Launch) : (s.modLaunch n f).ring = s.ring := rfl
@[simp] theorem State.modLaunch_plat (s : State) (n : Nat) (f : Launch → Launch) : (s.modLaunch n f).plat = s.plat := rfl
@[simp] theorem State.modLaunch_ports (s : State) (n : Nat) (f : Launch → Launch) : (s.modLaunch n f).ports = s.ports := rfl
@[simp] theorem State.modLaunch_replays (s : State) (n : Nat) (f : Launch → Launch) : (s.modLaunch n f).replays = s.replays := rfl
@[simp] theorem State.modLaunch_hostIn (s : State) (n : Nat) (f : Launch → Launch) : (s.modLaunch n f).hostIn = s.hostIn := rfl

/-! ### State.modCtx -/

@[simp] theorem State.modCtx_turns (s : State) (n : Nat) (f : Context → Context) : (s.modCtx n f).turns = s.turns := rfl
@[simp] theorem State.modCtx_cur (s : State) (n : Nat) (f : Context → Context) : (s.modCtx n f).cur = s.cur := rfl
@[simp] theorem State.modCtx_free (s : State) (n : Nat) (f : Context → Context) : (s.modCtx n f).free = s.free := rfl
@[simp] theorem State.modCtx_now (s : State) (n : Nat) (f : Context → Context) : (s.modCtx n f).now = s.now := rfl
@[simp] theorem State.modCtx_stage (s : State) (n : Nat) (f : Context → Context) : (s.modCtx n f).stage = s.stage := rfl
@[simp] theorem State.modCtx_uid (s : State) (n : Nat) (f : Context → Context) : (s.modCtx n f).uid = s.uid := rfl
@[simp] theorem State.modCtx_mem (s : State) (n : Nat) (f : Context → Context) : (s.modCtx n f).mem = s.mem := rfl
@[simp] theorem State.modCtx_side (s : State) (n : Nat) (f : Context → Context) : (s.modCtx n f).side = s.side := rfl
@[simp] theorem State.modCtx_poison (s : State) (n : Nat) (f : Context → Context) : (s.modCtx n f).poison = s.poison := rfl
@[simp] theorem State.modCtx_regs (s : State) (n : Nat) (f : Context → Context) : (s.modCtx n f).regs = s.regs := rfl
@[simp] theorem State.modCtx_acc (s : State) (n : Nat) (f : Context → Context) : (s.modCtx n f).acc = s.acc := rfl
@[simp] theorem State.modCtx_bscale (s : State) (n : Nat) (f : Context → Context) : (s.modCtx n f).bscale = s.bscale := rfl
@[simp] theorem State.modCtx_bmeta (s : State) (n : Nat) (f : Context → Context) : (s.modCtx n f).bmeta = s.bmeta := rfl
@[simp] theorem State.modCtx_warps (s : State) (n : Nat) (f : Context → Context) : (s.modCtx n f).warps = s.warps := rfl
@[simp] theorem State.modCtx_blocks (s : State) (n : Nat) (f : Context → Context) : (s.modCtx n f).blocks = s.blocks := rfl
@[simp] theorem State.modCtx_gangs (s : State) (n : Nat) (f : Context → Context) : (s.modCtx n f).gangs = s.gangs := rfl
@[simp] theorem State.modCtx_launches (s : State) (n : Nat) (f : Context → Context) : (s.modCtx n f).launches = s.launches := rfl
@[simp] theorem State.modCtx_rafts (s : State) (n : Nat) (f : Context → Context) : (s.modCtx n f).rafts = s.rafts := rfl
@[simp] theorem State.modCtx_cores (s : State) (n : Nat) (f : Context → Context) : (s.modCtx n f).cores = s.cores := rfl
@[simp] theorem State.modCtx_twins (s : State) (n : Nat) (f : Context → Context) : (s.modCtx n f).twins = s.twins := rfl
@[simp] theorem State.modCtx_clusters (s : State) (n : Nat) (f : Context → Context) : (s.modCtx n f).clusters = s.clusters := rfl
@[simp] theorem State.modCtx_dies (s : State) (n : Nat) (f : Context → Context) : (s.modCtx n f).dies = s.dies := rfl
@[simp] theorem State.modCtx_nmus (s : State) (n : Nat) (f : Context → Context) : (s.modCtx n f).nmus = s.nmus := rfl
@[simp] theorem State.modCtx_queues (s : State) (n : Nat) (f : Context → Context) : (s.modCtx n f).queues = s.queues := rfl
@[simp] theorem State.modCtx_ctxs (s : State) (n : Nat) (f : Context → Context) : (s.modCtx n f).ctxs = tmod s.ctxs n f := rfl
@[simp] theorem State.modCtx_groups (s : State) (n : Nat) (f : Context → Context) : (s.modCtx n f).groups = s.groups := rfl
@[simp] theorem State.modCtx_ingress (s : State) (n : Nat) (f : Context → Context) : (s.modCtx n f).ingress = s.ingress := rfl
@[simp] theorem State.modCtx_keys (s : State) (n : Nat) (f : Context → Context) : (s.modCtx n f).keys = s.keys := rfl
@[simp] theorem State.modCtx_flioc (s : State) (n : Nat) (f : Context → Context) : (s.modCtx n f).flioc = s.flioc := rfl
@[simp] theorem State.modCtx_raised (s : State) (n : Nat) (f : Context → Context) : (s.modCtx n f).raised = s.raised := rfl
@[simp] theorem State.modCtx_events (s : State) (n : Nat) (f : Context → Context) : (s.modCtx n f).events = s.events := rfl
@[simp] theorem State.modCtx_box0 (s : State) (n : Nat) (f : Context → Context) : (s.modCtx n f).box0 = s.box0 := rfl
@[simp] theorem State.modCtx_box1 (s : State) (n : Nat) (f : Context → Context) : (s.modCtx n f).box1 = s.box1 := rfl
@[simp] theorem State.modCtx_ring (s : State) (n : Nat) (f : Context → Context) : (s.modCtx n f).ring = s.ring := rfl
@[simp] theorem State.modCtx_plat (s : State) (n : Nat) (f : Context → Context) : (s.modCtx n f).plat = s.plat := rfl
@[simp] theorem State.modCtx_ports (s : State) (n : Nat) (f : Context → Context) : (s.modCtx n f).ports = s.ports := rfl
@[simp] theorem State.modCtx_replays (s : State) (n : Nat) (f : Context → Context) : (s.modCtx n f).replays = s.replays := rfl
@[simp] theorem State.modCtx_hostIn (s : State) (n : Nat) (f : Context → Context) : (s.modCtx n f).hostIn = s.hostIn := rfl

/-! ### State.modRaft -/

@[simp] theorem State.modRaft_turns (s : State) (n : Nat) (f : Raft → Raft) : (s.modRaft n f).turns = s.turns := rfl
@[simp] theorem State.modRaft_cur (s : State) (n : Nat) (f : Raft → Raft) : (s.modRaft n f).cur = s.cur := rfl
@[simp] theorem State.modRaft_free (s : State) (n : Nat) (f : Raft → Raft) : (s.modRaft n f).free = s.free := rfl
@[simp] theorem State.modRaft_now (s : State) (n : Nat) (f : Raft → Raft) : (s.modRaft n f).now = s.now := rfl
@[simp] theorem State.modRaft_stage (s : State) (n : Nat) (f : Raft → Raft) : (s.modRaft n f).stage = s.stage := rfl
@[simp] theorem State.modRaft_uid (s : State) (n : Nat) (f : Raft → Raft) : (s.modRaft n f).uid = s.uid := rfl
@[simp] theorem State.modRaft_mem (s : State) (n : Nat) (f : Raft → Raft) : (s.modRaft n f).mem = s.mem := rfl
@[simp] theorem State.modRaft_side (s : State) (n : Nat) (f : Raft → Raft) : (s.modRaft n f).side = s.side := rfl
@[simp] theorem State.modRaft_poison (s : State) (n : Nat) (f : Raft → Raft) : (s.modRaft n f).poison = s.poison := rfl
@[simp] theorem State.modRaft_regs (s : State) (n : Nat) (f : Raft → Raft) : (s.modRaft n f).regs = s.regs := rfl
@[simp] theorem State.modRaft_acc (s : State) (n : Nat) (f : Raft → Raft) : (s.modRaft n f).acc = s.acc := rfl
@[simp] theorem State.modRaft_bscale (s : State) (n : Nat) (f : Raft → Raft) : (s.modRaft n f).bscale = s.bscale := rfl
@[simp] theorem State.modRaft_bmeta (s : State) (n : Nat) (f : Raft → Raft) : (s.modRaft n f).bmeta = s.bmeta := rfl
@[simp] theorem State.modRaft_warps (s : State) (n : Nat) (f : Raft → Raft) : (s.modRaft n f).warps = s.warps := rfl
@[simp] theorem State.modRaft_blocks (s : State) (n : Nat) (f : Raft → Raft) : (s.modRaft n f).blocks = s.blocks := rfl
@[simp] theorem State.modRaft_gangs (s : State) (n : Nat) (f : Raft → Raft) : (s.modRaft n f).gangs = s.gangs := rfl
@[simp] theorem State.modRaft_launches (s : State) (n : Nat) (f : Raft → Raft) : (s.modRaft n f).launches = s.launches := rfl
@[simp] theorem State.modRaft_rafts (s : State) (n : Nat) (f : Raft → Raft) : (s.modRaft n f).rafts = tmod s.rafts n f := rfl
@[simp] theorem State.modRaft_cores (s : State) (n : Nat) (f : Raft → Raft) : (s.modRaft n f).cores = s.cores := rfl
@[simp] theorem State.modRaft_twins (s : State) (n : Nat) (f : Raft → Raft) : (s.modRaft n f).twins = s.twins := rfl
@[simp] theorem State.modRaft_clusters (s : State) (n : Nat) (f : Raft → Raft) : (s.modRaft n f).clusters = s.clusters := rfl
@[simp] theorem State.modRaft_dies (s : State) (n : Nat) (f : Raft → Raft) : (s.modRaft n f).dies = s.dies := rfl
@[simp] theorem State.modRaft_nmus (s : State) (n : Nat) (f : Raft → Raft) : (s.modRaft n f).nmus = s.nmus := rfl
@[simp] theorem State.modRaft_queues (s : State) (n : Nat) (f : Raft → Raft) : (s.modRaft n f).queues = s.queues := rfl
@[simp] theorem State.modRaft_ctxs (s : State) (n : Nat) (f : Raft → Raft) : (s.modRaft n f).ctxs = s.ctxs := rfl
@[simp] theorem State.modRaft_groups (s : State) (n : Nat) (f : Raft → Raft) : (s.modRaft n f).groups = s.groups := rfl
@[simp] theorem State.modRaft_ingress (s : State) (n : Nat) (f : Raft → Raft) : (s.modRaft n f).ingress = s.ingress := rfl
@[simp] theorem State.modRaft_keys (s : State) (n : Nat) (f : Raft → Raft) : (s.modRaft n f).keys = s.keys := rfl
@[simp] theorem State.modRaft_flioc (s : State) (n : Nat) (f : Raft → Raft) : (s.modRaft n f).flioc = s.flioc := rfl
@[simp] theorem State.modRaft_raised (s : State) (n : Nat) (f : Raft → Raft) : (s.modRaft n f).raised = s.raised := rfl
@[simp] theorem State.modRaft_events (s : State) (n : Nat) (f : Raft → Raft) : (s.modRaft n f).events = s.events := rfl
@[simp] theorem State.modRaft_box0 (s : State) (n : Nat) (f : Raft → Raft) : (s.modRaft n f).box0 = s.box0 := rfl
@[simp] theorem State.modRaft_box1 (s : State) (n : Nat) (f : Raft → Raft) : (s.modRaft n f).box1 = s.box1 := rfl
@[simp] theorem State.modRaft_ring (s : State) (n : Nat) (f : Raft → Raft) : (s.modRaft n f).ring = s.ring := rfl
@[simp] theorem State.modRaft_plat (s : State) (n : Nat) (f : Raft → Raft) : (s.modRaft n f).plat = s.plat := rfl
@[simp] theorem State.modRaft_ports (s : State) (n : Nat) (f : Raft → Raft) : (s.modRaft n f).ports = s.ports := rfl
@[simp] theorem State.modRaft_replays (s : State) (n : Nat) (f : Raft → Raft) : (s.modRaft n f).replays = s.replays := rfl
@[simp] theorem State.modRaft_hostIn (s : State) (n : Nat) (f : Raft → Raft) : (s.modRaft n f).hostIn = s.hostIn := rfl

/-! ### State.modTwin -/

@[simp] theorem State.modTwin_turns (s : State) (n : Nat) (f : Twin → Twin) : (s.modTwin n f).turns = s.turns := rfl
@[simp] theorem State.modTwin_cur (s : State) (n : Nat) (f : Twin → Twin) : (s.modTwin n f).cur = s.cur := rfl
@[simp] theorem State.modTwin_free (s : State) (n : Nat) (f : Twin → Twin) : (s.modTwin n f).free = s.free := rfl
@[simp] theorem State.modTwin_now (s : State) (n : Nat) (f : Twin → Twin) : (s.modTwin n f).now = s.now := rfl
@[simp] theorem State.modTwin_stage (s : State) (n : Nat) (f : Twin → Twin) : (s.modTwin n f).stage = s.stage := rfl
@[simp] theorem State.modTwin_uid (s : State) (n : Nat) (f : Twin → Twin) : (s.modTwin n f).uid = s.uid := rfl
@[simp] theorem State.modTwin_mem (s : State) (n : Nat) (f : Twin → Twin) : (s.modTwin n f).mem = s.mem := rfl
@[simp] theorem State.modTwin_side (s : State) (n : Nat) (f : Twin → Twin) : (s.modTwin n f).side = s.side := rfl
@[simp] theorem State.modTwin_poison (s : State) (n : Nat) (f : Twin → Twin) : (s.modTwin n f).poison = s.poison := rfl
@[simp] theorem State.modTwin_regs (s : State) (n : Nat) (f : Twin → Twin) : (s.modTwin n f).regs = s.regs := rfl
@[simp] theorem State.modTwin_acc (s : State) (n : Nat) (f : Twin → Twin) : (s.modTwin n f).acc = s.acc := rfl
@[simp] theorem State.modTwin_bscale (s : State) (n : Nat) (f : Twin → Twin) : (s.modTwin n f).bscale = s.bscale := rfl
@[simp] theorem State.modTwin_bmeta (s : State) (n : Nat) (f : Twin → Twin) : (s.modTwin n f).bmeta = s.bmeta := rfl
@[simp] theorem State.modTwin_warps (s : State) (n : Nat) (f : Twin → Twin) : (s.modTwin n f).warps = s.warps := rfl
@[simp] theorem State.modTwin_blocks (s : State) (n : Nat) (f : Twin → Twin) : (s.modTwin n f).blocks = s.blocks := rfl
@[simp] theorem State.modTwin_gangs (s : State) (n : Nat) (f : Twin → Twin) : (s.modTwin n f).gangs = s.gangs := rfl
@[simp] theorem State.modTwin_launches (s : State) (n : Nat) (f : Twin → Twin) : (s.modTwin n f).launches = s.launches := rfl
@[simp] theorem State.modTwin_rafts (s : State) (n : Nat) (f : Twin → Twin) : (s.modTwin n f).rafts = s.rafts := rfl
@[simp] theorem State.modTwin_cores (s : State) (n : Nat) (f : Twin → Twin) : (s.modTwin n f).cores = s.cores := rfl
@[simp] theorem State.modTwin_twins (s : State) (n : Nat) (f : Twin → Twin) : (s.modTwin n f).twins = tputD s.twins n Twin.reset (f (s.twin n)) := rfl
@[simp] theorem State.modTwin_clusters (s : State) (n : Nat) (f : Twin → Twin) : (s.modTwin n f).clusters = s.clusters := rfl
@[simp] theorem State.modTwin_dies (s : State) (n : Nat) (f : Twin → Twin) : (s.modTwin n f).dies = s.dies := rfl
@[simp] theorem State.modTwin_nmus (s : State) (n : Nat) (f : Twin → Twin) : (s.modTwin n f).nmus = s.nmus := rfl
@[simp] theorem State.modTwin_queues (s : State) (n : Nat) (f : Twin → Twin) : (s.modTwin n f).queues = s.queues := rfl
@[simp] theorem State.modTwin_ctxs (s : State) (n : Nat) (f : Twin → Twin) : (s.modTwin n f).ctxs = s.ctxs := rfl
@[simp] theorem State.modTwin_groups (s : State) (n : Nat) (f : Twin → Twin) : (s.modTwin n f).groups = s.groups := rfl
@[simp] theorem State.modTwin_ingress (s : State) (n : Nat) (f : Twin → Twin) : (s.modTwin n f).ingress = s.ingress := rfl
@[simp] theorem State.modTwin_keys (s : State) (n : Nat) (f : Twin → Twin) : (s.modTwin n f).keys = s.keys := rfl
@[simp] theorem State.modTwin_flioc (s : State) (n : Nat) (f : Twin → Twin) : (s.modTwin n f).flioc = s.flioc := rfl
@[simp] theorem State.modTwin_raised (s : State) (n : Nat) (f : Twin → Twin) : (s.modTwin n f).raised = s.raised := rfl
@[simp] theorem State.modTwin_events (s : State) (n : Nat) (f : Twin → Twin) : (s.modTwin n f).events = s.events := rfl
@[simp] theorem State.modTwin_box0 (s : State) (n : Nat) (f : Twin → Twin) : (s.modTwin n f).box0 = s.box0 := rfl
@[simp] theorem State.modTwin_box1 (s : State) (n : Nat) (f : Twin → Twin) : (s.modTwin n f).box1 = s.box1 := rfl
@[simp] theorem State.modTwin_ring (s : State) (n : Nat) (f : Twin → Twin) : (s.modTwin n f).ring = s.ring := rfl
@[simp] theorem State.modTwin_plat (s : State) (n : Nat) (f : Twin → Twin) : (s.modTwin n f).plat = s.plat := rfl
@[simp] theorem State.modTwin_ports (s : State) (n : Nat) (f : Twin → Twin) : (s.modTwin n f).ports = s.ports := rfl
@[simp] theorem State.modTwin_replays (s : State) (n : Nat) (f : Twin → Twin) : (s.modTwin n f).replays = s.replays := rfl
@[simp] theorem State.modTwin_hostIn (s : State) (n : Nat) (f : Twin → Twin) : (s.modTwin n f).hostIn = s.hostIn := rfl

/-! ### State.modCluster -/

@[simp] theorem State.modCluster_turns (s : State) (n : Nat) (f : Cluster → Cluster) : (s.modCluster n f).turns = s.turns := rfl
@[simp] theorem State.modCluster_cur (s : State) (n : Nat) (f : Cluster → Cluster) : (s.modCluster n f).cur = s.cur := rfl
@[simp] theorem State.modCluster_free (s : State) (n : Nat) (f : Cluster → Cluster) : (s.modCluster n f).free = s.free := rfl
@[simp] theorem State.modCluster_now (s : State) (n : Nat) (f : Cluster → Cluster) : (s.modCluster n f).now = s.now := rfl
@[simp] theorem State.modCluster_stage (s : State) (n : Nat) (f : Cluster → Cluster) : (s.modCluster n f).stage = s.stage := rfl
@[simp] theorem State.modCluster_uid (s : State) (n : Nat) (f : Cluster → Cluster) : (s.modCluster n f).uid = s.uid := rfl
@[simp] theorem State.modCluster_mem (s : State) (n : Nat) (f : Cluster → Cluster) : (s.modCluster n f).mem = s.mem := rfl
@[simp] theorem State.modCluster_side (s : State) (n : Nat) (f : Cluster → Cluster) : (s.modCluster n f).side = s.side := rfl
@[simp] theorem State.modCluster_poison (s : State) (n : Nat) (f : Cluster → Cluster) : (s.modCluster n f).poison = s.poison := rfl
@[simp] theorem State.modCluster_regs (s : State) (n : Nat) (f : Cluster → Cluster) : (s.modCluster n f).regs = s.regs := rfl
@[simp] theorem State.modCluster_acc (s : State) (n : Nat) (f : Cluster → Cluster) : (s.modCluster n f).acc = s.acc := rfl
@[simp] theorem State.modCluster_bscale (s : State) (n : Nat) (f : Cluster → Cluster) : (s.modCluster n f).bscale = s.bscale := rfl
@[simp] theorem State.modCluster_bmeta (s : State) (n : Nat) (f : Cluster → Cluster) : (s.modCluster n f).bmeta = s.bmeta := rfl
@[simp] theorem State.modCluster_warps (s : State) (n : Nat) (f : Cluster → Cluster) : (s.modCluster n f).warps = s.warps := rfl
@[simp] theorem State.modCluster_blocks (s : State) (n : Nat) (f : Cluster → Cluster) : (s.modCluster n f).blocks = s.blocks := rfl
@[simp] theorem State.modCluster_gangs (s : State) (n : Nat) (f : Cluster → Cluster) : (s.modCluster n f).gangs = s.gangs := rfl
@[simp] theorem State.modCluster_launches (s : State) (n : Nat) (f : Cluster → Cluster) : (s.modCluster n f).launches = s.launches := rfl
@[simp] theorem State.modCluster_rafts (s : State) (n : Nat) (f : Cluster → Cluster) : (s.modCluster n f).rafts = s.rafts := rfl
@[simp] theorem State.modCluster_cores (s : State) (n : Nat) (f : Cluster → Cluster) : (s.modCluster n f).cores = s.cores := rfl
@[simp] theorem State.modCluster_twins (s : State) (n : Nat) (f : Cluster → Cluster) : (s.modCluster n f).twins = s.twins := rfl
@[simp] theorem State.modCluster_clusters (s : State) (n : Nat) (f : Cluster → Cluster) : (s.modCluster n f).clusters = tputD s.clusters n Cluster.reset (f (s.cluster n)) := rfl
@[simp] theorem State.modCluster_dies (s : State) (n : Nat) (f : Cluster → Cluster) : (s.modCluster n f).dies = s.dies := rfl
@[simp] theorem State.modCluster_nmus (s : State) (n : Nat) (f : Cluster → Cluster) : (s.modCluster n f).nmus = s.nmus := rfl
@[simp] theorem State.modCluster_queues (s : State) (n : Nat) (f : Cluster → Cluster) : (s.modCluster n f).queues = s.queues := rfl
@[simp] theorem State.modCluster_ctxs (s : State) (n : Nat) (f : Cluster → Cluster) : (s.modCluster n f).ctxs = s.ctxs := rfl
@[simp] theorem State.modCluster_groups (s : State) (n : Nat) (f : Cluster → Cluster) : (s.modCluster n f).groups = s.groups := rfl
@[simp] theorem State.modCluster_ingress (s : State) (n : Nat) (f : Cluster → Cluster) : (s.modCluster n f).ingress = s.ingress := rfl
@[simp] theorem State.modCluster_keys (s : State) (n : Nat) (f : Cluster → Cluster) : (s.modCluster n f).keys = s.keys := rfl
@[simp] theorem State.modCluster_flioc (s : State) (n : Nat) (f : Cluster → Cluster) : (s.modCluster n f).flioc = s.flioc := rfl
@[simp] theorem State.modCluster_raised (s : State) (n : Nat) (f : Cluster → Cluster) : (s.modCluster n f).raised = s.raised := rfl
@[simp] theorem State.modCluster_events (s : State) (n : Nat) (f : Cluster → Cluster) : (s.modCluster n f).events = s.events := rfl
@[simp] theorem State.modCluster_box0 (s : State) (n : Nat) (f : Cluster → Cluster) : (s.modCluster n f).box0 = s.box0 := rfl
@[simp] theorem State.modCluster_box1 (s : State) (n : Nat) (f : Cluster → Cluster) : (s.modCluster n f).box1 = s.box1 := rfl
@[simp] theorem State.modCluster_ring (s : State) (n : Nat) (f : Cluster → Cluster) : (s.modCluster n f).ring = s.ring := rfl
@[simp] theorem State.modCluster_plat (s : State) (n : Nat) (f : Cluster → Cluster) : (s.modCluster n f).plat = s.plat := rfl
@[simp] theorem State.modCluster_ports (s : State) (n : Nat) (f : Cluster → Cluster) : (s.modCluster n f).ports = s.ports := rfl
@[simp] theorem State.modCluster_replays (s : State) (n : Nat) (f : Cluster → Cluster) : (s.modCluster n f).replays = s.replays := rfl
@[simp] theorem State.modCluster_hostIn (s : State) (n : Nat) (f : Cluster → Cluster) : (s.modCluster n f).hostIn = s.hostIn := rfl

/-! ### State.modDie -/

@[simp] theorem State.modDie_turns (s : State) (n : Nat) (f : Die → Die) : (s.modDie n f).turns = s.turns := rfl
@[simp] theorem State.modDie_cur (s : State) (n : Nat) (f : Die → Die) : (s.modDie n f).cur = s.cur := rfl
@[simp] theorem State.modDie_free (s : State) (n : Nat) (f : Die → Die) : (s.modDie n f).free = s.free := rfl
@[simp] theorem State.modDie_now (s : State) (n : Nat) (f : Die → Die) : (s.modDie n f).now = s.now := rfl
@[simp] theorem State.modDie_stage (s : State) (n : Nat) (f : Die → Die) : (s.modDie n f).stage = s.stage := rfl
@[simp] theorem State.modDie_uid (s : State) (n : Nat) (f : Die → Die) : (s.modDie n f).uid = s.uid := rfl
@[simp] theorem State.modDie_mem (s : State) (n : Nat) (f : Die → Die) : (s.modDie n f).mem = s.mem := rfl
@[simp] theorem State.modDie_side (s : State) (n : Nat) (f : Die → Die) : (s.modDie n f).side = s.side := rfl
@[simp] theorem State.modDie_poison (s : State) (n : Nat) (f : Die → Die) : (s.modDie n f).poison = s.poison := rfl
@[simp] theorem State.modDie_regs (s : State) (n : Nat) (f : Die → Die) : (s.modDie n f).regs = s.regs := rfl
@[simp] theorem State.modDie_acc (s : State) (n : Nat) (f : Die → Die) : (s.modDie n f).acc = s.acc := rfl
@[simp] theorem State.modDie_bscale (s : State) (n : Nat) (f : Die → Die) : (s.modDie n f).bscale = s.bscale := rfl
@[simp] theorem State.modDie_bmeta (s : State) (n : Nat) (f : Die → Die) : (s.modDie n f).bmeta = s.bmeta := rfl
@[simp] theorem State.modDie_warps (s : State) (n : Nat) (f : Die → Die) : (s.modDie n f).warps = s.warps := rfl
@[simp] theorem State.modDie_blocks (s : State) (n : Nat) (f : Die → Die) : (s.modDie n f).blocks = s.blocks := rfl
@[simp] theorem State.modDie_gangs (s : State) (n : Nat) (f : Die → Die) : (s.modDie n f).gangs = s.gangs := rfl
@[simp] theorem State.modDie_launches (s : State) (n : Nat) (f : Die → Die) : (s.modDie n f).launches = s.launches := rfl
@[simp] theorem State.modDie_rafts (s : State) (n : Nat) (f : Die → Die) : (s.modDie n f).rafts = s.rafts := rfl
@[simp] theorem State.modDie_cores (s : State) (n : Nat) (f : Die → Die) : (s.modDie n f).cores = s.cores := rfl
@[simp] theorem State.modDie_twins (s : State) (n : Nat) (f : Die → Die) : (s.modDie n f).twins = s.twins := rfl
@[simp] theorem State.modDie_clusters (s : State) (n : Nat) (f : Die → Die) : (s.modDie n f).clusters = s.clusters := rfl
@[simp] theorem State.modDie_dies (s : State) (n : Nat) (f : Die → Die) : (s.modDie n f).dies = tputD s.dies n Die.reset (f (s.die n)) := rfl
@[simp] theorem State.modDie_nmus (s : State) (n : Nat) (f : Die → Die) : (s.modDie n f).nmus = s.nmus := rfl
@[simp] theorem State.modDie_queues (s : State) (n : Nat) (f : Die → Die) : (s.modDie n f).queues = s.queues := rfl
@[simp] theorem State.modDie_ctxs (s : State) (n : Nat) (f : Die → Die) : (s.modDie n f).ctxs = s.ctxs := rfl
@[simp] theorem State.modDie_groups (s : State) (n : Nat) (f : Die → Die) : (s.modDie n f).groups = s.groups := rfl
@[simp] theorem State.modDie_ingress (s : State) (n : Nat) (f : Die → Die) : (s.modDie n f).ingress = s.ingress := rfl
@[simp] theorem State.modDie_keys (s : State) (n : Nat) (f : Die → Die) : (s.modDie n f).keys = s.keys := rfl
@[simp] theorem State.modDie_flioc (s : State) (n : Nat) (f : Die → Die) : (s.modDie n f).flioc = s.flioc := rfl
@[simp] theorem State.modDie_raised (s : State) (n : Nat) (f : Die → Die) : (s.modDie n f).raised = s.raised := rfl
@[simp] theorem State.modDie_events (s : State) (n : Nat) (f : Die → Die) : (s.modDie n f).events = s.events := rfl
@[simp] theorem State.modDie_box0 (s : State) (n : Nat) (f : Die → Die) : (s.modDie n f).box0 = s.box0 := rfl
@[simp] theorem State.modDie_box1 (s : State) (n : Nat) (f : Die → Die) : (s.modDie n f).box1 = s.box1 := rfl
@[simp] theorem State.modDie_ring (s : State) (n : Nat) (f : Die → Die) : (s.modDie n f).ring = s.ring := rfl
@[simp] theorem State.modDie_plat (s : State) (n : Nat) (f : Die → Die) : (s.modDie n f).plat = s.plat := rfl
@[simp] theorem State.modDie_ports (s : State) (n : Nat) (f : Die → Die) : (s.modDie n f).ports = s.ports := rfl
@[simp] theorem State.modDie_replays (s : State) (n : Nat) (f : Die → Die) : (s.modDie n f).replays = s.replays := rfl
@[simp] theorem State.modDie_hostIn (s : State) (n : Nat) (f : Die → Die) : (s.modDie n f).hostIn = s.hostIn := rfl

/-! ### State.modQueue -/

@[simp] theorem State.modQueue_turns (s : State) (n : Nat) (f : Queue → Queue) : (s.modQueue n f).turns = s.turns := rfl
@[simp] theorem State.modQueue_cur (s : State) (n : Nat) (f : Queue → Queue) : (s.modQueue n f).cur = s.cur := rfl
@[simp] theorem State.modQueue_free (s : State) (n : Nat) (f : Queue → Queue) : (s.modQueue n f).free = s.free := rfl
@[simp] theorem State.modQueue_now (s : State) (n : Nat) (f : Queue → Queue) : (s.modQueue n f).now = s.now := rfl
@[simp] theorem State.modQueue_stage (s : State) (n : Nat) (f : Queue → Queue) : (s.modQueue n f).stage = s.stage := rfl
@[simp] theorem State.modQueue_uid (s : State) (n : Nat) (f : Queue → Queue) : (s.modQueue n f).uid = s.uid := rfl
@[simp] theorem State.modQueue_mem (s : State) (n : Nat) (f : Queue → Queue) : (s.modQueue n f).mem = s.mem := rfl
@[simp] theorem State.modQueue_side (s : State) (n : Nat) (f : Queue → Queue) : (s.modQueue n f).side = s.side := rfl
@[simp] theorem State.modQueue_poison (s : State) (n : Nat) (f : Queue → Queue) : (s.modQueue n f).poison = s.poison := rfl
@[simp] theorem State.modQueue_regs (s : State) (n : Nat) (f : Queue → Queue) : (s.modQueue n f).regs = s.regs := rfl
@[simp] theorem State.modQueue_acc (s : State) (n : Nat) (f : Queue → Queue) : (s.modQueue n f).acc = s.acc := rfl
@[simp] theorem State.modQueue_bscale (s : State) (n : Nat) (f : Queue → Queue) : (s.modQueue n f).bscale = s.bscale := rfl
@[simp] theorem State.modQueue_bmeta (s : State) (n : Nat) (f : Queue → Queue) : (s.modQueue n f).bmeta = s.bmeta := rfl
@[simp] theorem State.modQueue_warps (s : State) (n : Nat) (f : Queue → Queue) : (s.modQueue n f).warps = s.warps := rfl
@[simp] theorem State.modQueue_blocks (s : State) (n : Nat) (f : Queue → Queue) : (s.modQueue n f).blocks = s.blocks := rfl
@[simp] theorem State.modQueue_gangs (s : State) (n : Nat) (f : Queue → Queue) : (s.modQueue n f).gangs = s.gangs := rfl
@[simp] theorem State.modQueue_launches (s : State) (n : Nat) (f : Queue → Queue) : (s.modQueue n f).launches = s.launches := rfl
@[simp] theorem State.modQueue_rafts (s : State) (n : Nat) (f : Queue → Queue) : (s.modQueue n f).rafts = s.rafts := rfl
@[simp] theorem State.modQueue_cores (s : State) (n : Nat) (f : Queue → Queue) : (s.modQueue n f).cores = s.cores := rfl
@[simp] theorem State.modQueue_twins (s : State) (n : Nat) (f : Queue → Queue) : (s.modQueue n f).twins = s.twins := rfl
@[simp] theorem State.modQueue_clusters (s : State) (n : Nat) (f : Queue → Queue) : (s.modQueue n f).clusters = s.clusters := rfl
@[simp] theorem State.modQueue_dies (s : State) (n : Nat) (f : Queue → Queue) : (s.modQueue n f).dies = s.dies := rfl
@[simp] theorem State.modQueue_nmus (s : State) (n : Nat) (f : Queue → Queue) : (s.modQueue n f).nmus = s.nmus := rfl
@[simp] theorem State.modQueue_queues (s : State) (n : Nat) (f : Queue → Queue) : (s.modQueue n f).queues = tputD s.queues n Queue.reset (f (s.queue n)) := rfl
@[simp] theorem State.modQueue_ctxs (s : State) (n : Nat) (f : Queue → Queue) : (s.modQueue n f).ctxs = s.ctxs := rfl
@[simp] theorem State.modQueue_groups (s : State) (n : Nat) (f : Queue → Queue) : (s.modQueue n f).groups = s.groups := rfl
@[simp] theorem State.modQueue_ingress (s : State) (n : Nat) (f : Queue → Queue) : (s.modQueue n f).ingress = s.ingress := rfl
@[simp] theorem State.modQueue_keys (s : State) (n : Nat) (f : Queue → Queue) : (s.modQueue n f).keys = s.keys := rfl
@[simp] theorem State.modQueue_flioc (s : State) (n : Nat) (f : Queue → Queue) : (s.modQueue n f).flioc = s.flioc := rfl
@[simp] theorem State.modQueue_raised (s : State) (n : Nat) (f : Queue → Queue) : (s.modQueue n f).raised = s.raised := rfl
@[simp] theorem State.modQueue_events (s : State) (n : Nat) (f : Queue → Queue) : (s.modQueue n f).events = s.events := rfl
@[simp] theorem State.modQueue_box0 (s : State) (n : Nat) (f : Queue → Queue) : (s.modQueue n f).box0 = s.box0 := rfl
@[simp] theorem State.modQueue_box1 (s : State) (n : Nat) (f : Queue → Queue) : (s.modQueue n f).box1 = s.box1 := rfl
@[simp] theorem State.modQueue_ring (s : State) (n : Nat) (f : Queue → Queue) : (s.modQueue n f).ring = s.ring := rfl
@[simp] theorem State.modQueue_plat (s : State) (n : Nat) (f : Queue → Queue) : (s.modQueue n f).plat = s.plat := rfl
@[simp] theorem State.modQueue_ports (s : State) (n : Nat) (f : Queue → Queue) : (s.modQueue n f).ports = s.ports := rfl
@[simp] theorem State.modQueue_replays (s : State) (n : Nat) (f : Queue → Queue) : (s.modQueue n f).replays = s.replays := rfl
@[simp] theorem State.modQueue_hostIn (s : State) (n : Nat) (f : Queue → Queue) : (s.modQueue n f).hostIn = s.hostIn := rfl

/-! ### State.setReg -/

@[simp] theorem State.setReg_turns (s : State) (k : Nat) (v : Word) : (s.setReg k v).turns = s.turns := rfl
@[simp] theorem State.setReg_cur (s : State) (k : Nat) (v : Word) : (s.setReg k v).cur = s.cur := rfl
@[simp] theorem State.setReg_free (s : State) (k : Nat) (v : Word) : (s.setReg k v).free = s.free := rfl
@[simp] theorem State.setReg_now (s : State) (k : Nat) (v : Word) : (s.setReg k v).now = s.now := rfl
@[simp] theorem State.setReg_stage (s : State) (k : Nat) (v : Word) : (s.setReg k v).stage = s.stage := rfl
@[simp] theorem State.setReg_uid (s : State) (k : Nat) (v : Word) : (s.setReg k v).uid = s.uid := rfl
@[simp] theorem State.setReg_mem (s : State) (k : Nat) (v : Word) : (s.setReg k v).mem = s.mem := rfl
@[simp] theorem State.setReg_side (s : State) (k : Nat) (v : Word) : (s.setReg k v).side = s.side := rfl
@[simp] theorem State.setReg_poison (s : State) (k : Nat) (v : Word) : (s.setReg k v).poison = s.poison := rfl
@[simp] theorem State.setReg_regs (s : State) (k : Nat) (v : Word) : (s.setReg k v).regs = tputD s.regs k 0 v := rfl
@[simp] theorem State.setReg_acc (s : State) (k : Nat) (v : Word) : (s.setReg k v).acc = s.acc := rfl
@[simp] theorem State.setReg_bscale (s : State) (k : Nat) (v : Word) : (s.setReg k v).bscale = s.bscale := rfl
@[simp] theorem State.setReg_bmeta (s : State) (k : Nat) (v : Word) : (s.setReg k v).bmeta = s.bmeta := rfl
@[simp] theorem State.setReg_warps (s : State) (k : Nat) (v : Word) : (s.setReg k v).warps = s.warps := rfl
@[simp] theorem State.setReg_blocks (s : State) (k : Nat) (v : Word) : (s.setReg k v).blocks = s.blocks := rfl
@[simp] theorem State.setReg_gangs (s : State) (k : Nat) (v : Word) : (s.setReg k v).gangs = s.gangs := rfl
@[simp] theorem State.setReg_launches (s : State) (k : Nat) (v : Word) : (s.setReg k v).launches = s.launches := rfl
@[simp] theorem State.setReg_rafts (s : State) (k : Nat) (v : Word) : (s.setReg k v).rafts = s.rafts := rfl
@[simp] theorem State.setReg_cores (s : State) (k : Nat) (v : Word) : (s.setReg k v).cores = s.cores := rfl
@[simp] theorem State.setReg_twins (s : State) (k : Nat) (v : Word) : (s.setReg k v).twins = s.twins := rfl
@[simp] theorem State.setReg_clusters (s : State) (k : Nat) (v : Word) : (s.setReg k v).clusters = s.clusters := rfl
@[simp] theorem State.setReg_dies (s : State) (k : Nat) (v : Word) : (s.setReg k v).dies = s.dies := rfl
@[simp] theorem State.setReg_nmus (s : State) (k : Nat) (v : Word) : (s.setReg k v).nmus = s.nmus := rfl
@[simp] theorem State.setReg_queues (s : State) (k : Nat) (v : Word) : (s.setReg k v).queues = s.queues := rfl
@[simp] theorem State.setReg_ctxs (s : State) (k : Nat) (v : Word) : (s.setReg k v).ctxs = s.ctxs := rfl
@[simp] theorem State.setReg_groups (s : State) (k : Nat) (v : Word) : (s.setReg k v).groups = s.groups := rfl
@[simp] theorem State.setReg_ingress (s : State) (k : Nat) (v : Word) : (s.setReg k v).ingress = s.ingress := rfl
@[simp] theorem State.setReg_keys (s : State) (k : Nat) (v : Word) : (s.setReg k v).keys = s.keys := rfl
@[simp] theorem State.setReg_flioc (s : State) (k : Nat) (v : Word) : (s.setReg k v).flioc = s.flioc := rfl
@[simp] theorem State.setReg_raised (s : State) (k : Nat) (v : Word) : (s.setReg k v).raised = s.raised := rfl
@[simp] theorem State.setReg_events (s : State) (k : Nat) (v : Word) : (s.setReg k v).events = s.events := rfl
@[simp] theorem State.setReg_box0 (s : State) (k : Nat) (v : Word) : (s.setReg k v).box0 = s.box0 := rfl
@[simp] theorem State.setReg_box1 (s : State) (k : Nat) (v : Word) : (s.setReg k v).box1 = s.box1 := rfl
@[simp] theorem State.setReg_ring (s : State) (k : Nat) (v : Word) : (s.setReg k v).ring = s.ring := rfl
@[simp] theorem State.setReg_plat (s : State) (k : Nat) (v : Word) : (s.setReg k v).plat = s.plat := rfl
@[simp] theorem State.setReg_ports (s : State) (k : Nat) (v : Word) : (s.setReg k v).ports = s.ports := rfl
@[simp] theorem State.setReg_replays (s : State) (k : Nat) (v : Word) : (s.setReg k v).replays = s.replays := rfl
@[simp] theorem State.setReg_hostIn (s : State) (k : Nat) (v : Word) : (s.setReg k v).hostIn = s.hostIn := rfl

/-! ### State.setByte -/

@[simp] theorem State.setByte_turns (s : State) (l : Loc) (b : Byte) : (s.setByte l b).turns = s.turns := rfl
@[simp] theorem State.setByte_cur (s : State) (l : Loc) (b : Byte) : (s.setByte l b).cur = s.cur := rfl
@[simp] theorem State.setByte_free (s : State) (l : Loc) (b : Byte) : (s.setByte l b).free = s.free := rfl
@[simp] theorem State.setByte_now (s : State) (l : Loc) (b : Byte) : (s.setByte l b).now = s.now := rfl
@[simp] theorem State.setByte_stage (s : State) (l : Loc) (b : Byte) : (s.setByte l b).stage = s.stage := rfl
@[simp] theorem State.setByte_uid (s : State) (l : Loc) (b : Byte) : (s.setByte l b).uid = s.uid := rfl
@[simp] theorem State.setByte_mem (s : State) (l : Loc) (b : Byte) : (s.setByte l b).mem = tputD s.mem l.key unlisted b := rfl
@[simp] theorem State.setByte_side (s : State) (l : Loc) (b : Byte) : (s.setByte l b).side = s.side := rfl
@[simp] theorem State.setByte_poison (s : State) (l : Loc) (b : Byte) : (s.setByte l b).poison = s.poison := rfl
@[simp] theorem State.setByte_regs (s : State) (l : Loc) (b : Byte) : (s.setByte l b).regs = s.regs := rfl
@[simp] theorem State.setByte_acc (s : State) (l : Loc) (b : Byte) : (s.setByte l b).acc = s.acc := rfl
@[simp] theorem State.setByte_bscale (s : State) (l : Loc) (b : Byte) : (s.setByte l b).bscale = s.bscale := rfl
@[simp] theorem State.setByte_bmeta (s : State) (l : Loc) (b : Byte) : (s.setByte l b).bmeta = s.bmeta := rfl
@[simp] theorem State.setByte_warps (s : State) (l : Loc) (b : Byte) : (s.setByte l b).warps = s.warps := rfl
@[simp] theorem State.setByte_blocks (s : State) (l : Loc) (b : Byte) : (s.setByte l b).blocks = s.blocks := rfl
@[simp] theorem State.setByte_gangs (s : State) (l : Loc) (b : Byte) : (s.setByte l b).gangs = s.gangs := rfl
@[simp] theorem State.setByte_launches (s : State) (l : Loc) (b : Byte) : (s.setByte l b).launches = s.launches := rfl
@[simp] theorem State.setByte_rafts (s : State) (l : Loc) (b : Byte) : (s.setByte l b).rafts = s.rafts := rfl
@[simp] theorem State.setByte_cores (s : State) (l : Loc) (b : Byte) : (s.setByte l b).cores = s.cores := rfl
@[simp] theorem State.setByte_twins (s : State) (l : Loc) (b : Byte) : (s.setByte l b).twins = s.twins := rfl
@[simp] theorem State.setByte_clusters (s : State) (l : Loc) (b : Byte) : (s.setByte l b).clusters = s.clusters := rfl
@[simp] theorem State.setByte_dies (s : State) (l : Loc) (b : Byte) : (s.setByte l b).dies = s.dies := rfl
@[simp] theorem State.setByte_nmus (s : State) (l : Loc) (b : Byte) : (s.setByte l b).nmus = s.nmus := rfl
@[simp] theorem State.setByte_queues (s : State) (l : Loc) (b : Byte) : (s.setByte l b).queues = s.queues := rfl
@[simp] theorem State.setByte_ctxs (s : State) (l : Loc) (b : Byte) : (s.setByte l b).ctxs = s.ctxs := rfl
@[simp] theorem State.setByte_groups (s : State) (l : Loc) (b : Byte) : (s.setByte l b).groups = s.groups := rfl
@[simp] theorem State.setByte_ingress (s : State) (l : Loc) (b : Byte) : (s.setByte l b).ingress = s.ingress := rfl
@[simp] theorem State.setByte_keys (s : State) (l : Loc) (b : Byte) : (s.setByte l b).keys = s.keys := rfl
@[simp] theorem State.setByte_flioc (s : State) (l : Loc) (b : Byte) : (s.setByte l b).flioc = s.flioc := rfl
@[simp] theorem State.setByte_raised (s : State) (l : Loc) (b : Byte) : (s.setByte l b).raised = s.raised := rfl
@[simp] theorem State.setByte_events (s : State) (l : Loc) (b : Byte) : (s.setByte l b).events = s.events := rfl
@[simp] theorem State.setByte_box0 (s : State) (l : Loc) (b : Byte) : (s.setByte l b).box0 = s.box0 := rfl
@[simp] theorem State.setByte_box1 (s : State) (l : Loc) (b : Byte) : (s.setByte l b).box1 = s.box1 := rfl
@[simp] theorem State.setByte_ring (s : State) (l : Loc) (b : Byte) : (s.setByte l b).ring = s.ring := rfl
@[simp] theorem State.setByte_plat (s : State) (l : Loc) (b : Byte) : (s.setByte l b).plat = s.plat := rfl
@[simp] theorem State.setByte_ports (s : State) (l : Loc) (b : Byte) : (s.setByte l b).ports = s.ports := rfl
@[simp] theorem State.setByte_replays (s : State) (l : Loc) (b : Byte) : (s.setByte l b).replays = s.replays := rfl
@[simp] theorem State.setByte_hostIn (s : State) (l : Loc) (b : Byte) : (s.setByte l b).hostIn = s.hostIn := rfl

/-! ### State.setSlot -/

@[simp] theorem State.setSlot_turns (s : State) (l : Loc) (v : BitVec 256) : (s.setSlot l v).turns = s.turns := rfl
@[simp] theorem State.setSlot_cur (s : State) (l : Loc) (v : BitVec 256) : (s.setSlot l v).cur = s.cur := rfl
@[simp] theorem State.setSlot_free (s : State) (l : Loc) (v : BitVec 256) : (s.setSlot l v).free = s.free := rfl
@[simp] theorem State.setSlot_now (s : State) (l : Loc) (v : BitVec 256) : (s.setSlot l v).now = s.now := rfl
@[simp] theorem State.setSlot_stage (s : State) (l : Loc) (v : BitVec 256) : (s.setSlot l v).stage = s.stage := rfl
@[simp] theorem State.setSlot_uid (s : State) (l : Loc) (v : BitVec 256) : (s.setSlot l v).uid = s.uid := rfl
@[simp] theorem State.setSlot_mem (s : State) (l : Loc) (v : BitVec 256) : (s.setSlot l v).mem = s.mem := rfl
@[simp] theorem State.setSlot_side (s : State) (l : Loc) (v : BitVec 256) : (s.setSlot l v).side = tputD s.side l.line.key 0 v := rfl
@[simp] theorem State.setSlot_poison (s : State) (l : Loc) (v : BitVec 256) : (s.setSlot l v).poison = s.poison := rfl
@[simp] theorem State.setSlot_regs (s : State) (l : Loc) (v : BitVec 256) : (s.setSlot l v).regs = s.regs := rfl
@[simp] theorem State.setSlot_acc (s : State) (l : Loc) (v : BitVec 256) : (s.setSlot l v).acc = s.acc := rfl
@[simp] theorem State.setSlot_bscale (s : State) (l : Loc) (v : BitVec 256) : (s.setSlot l v).bscale = s.bscale := rfl
@[simp] theorem State.setSlot_bmeta (s : State) (l : Loc) (v : BitVec 256) : (s.setSlot l v).bmeta = s.bmeta := rfl
@[simp] theorem State.setSlot_warps (s : State) (l : Loc) (v : BitVec 256) : (s.setSlot l v).warps = s.warps := rfl
@[simp] theorem State.setSlot_blocks (s : State) (l : Loc) (v : BitVec 256) : (s.setSlot l v).blocks = s.blocks := rfl
@[simp] theorem State.setSlot_gangs (s : State) (l : Loc) (v : BitVec 256) : (s.setSlot l v).gangs = s.gangs := rfl
@[simp] theorem State.setSlot_launches (s : State) (l : Loc) (v : BitVec 256) : (s.setSlot l v).launches = s.launches := rfl
@[simp] theorem State.setSlot_rafts (s : State) (l : Loc) (v : BitVec 256) : (s.setSlot l v).rafts = s.rafts := rfl
@[simp] theorem State.setSlot_cores (s : State) (l : Loc) (v : BitVec 256) : (s.setSlot l v).cores = s.cores := rfl
@[simp] theorem State.setSlot_twins (s : State) (l : Loc) (v : BitVec 256) : (s.setSlot l v).twins = s.twins := rfl
@[simp] theorem State.setSlot_clusters (s : State) (l : Loc) (v : BitVec 256) : (s.setSlot l v).clusters = s.clusters := rfl
@[simp] theorem State.setSlot_dies (s : State) (l : Loc) (v : BitVec 256) : (s.setSlot l v).dies = s.dies := rfl
@[simp] theorem State.setSlot_nmus (s : State) (l : Loc) (v : BitVec 256) : (s.setSlot l v).nmus = s.nmus := rfl
@[simp] theorem State.setSlot_queues (s : State) (l : Loc) (v : BitVec 256) : (s.setSlot l v).queues = s.queues := rfl
@[simp] theorem State.setSlot_ctxs (s : State) (l : Loc) (v : BitVec 256) : (s.setSlot l v).ctxs = s.ctxs := rfl
@[simp] theorem State.setSlot_groups (s : State) (l : Loc) (v : BitVec 256) : (s.setSlot l v).groups = s.groups := rfl
@[simp] theorem State.setSlot_ingress (s : State) (l : Loc) (v : BitVec 256) : (s.setSlot l v).ingress = s.ingress := rfl
@[simp] theorem State.setSlot_keys (s : State) (l : Loc) (v : BitVec 256) : (s.setSlot l v).keys = s.keys := rfl
@[simp] theorem State.setSlot_flioc (s : State) (l : Loc) (v : BitVec 256) : (s.setSlot l v).flioc = s.flioc := rfl
@[simp] theorem State.setSlot_raised (s : State) (l : Loc) (v : BitVec 256) : (s.setSlot l v).raised = s.raised := rfl
@[simp] theorem State.setSlot_events (s : State) (l : Loc) (v : BitVec 256) : (s.setSlot l v).events = s.events := rfl
@[simp] theorem State.setSlot_box0 (s : State) (l : Loc) (v : BitVec 256) : (s.setSlot l v).box0 = s.box0 := rfl
@[simp] theorem State.setSlot_box1 (s : State) (l : Loc) (v : BitVec 256) : (s.setSlot l v).box1 = s.box1 := rfl
@[simp] theorem State.setSlot_ring (s : State) (l : Loc) (v : BitVec 256) : (s.setSlot l v).ring = s.ring := rfl
@[simp] theorem State.setSlot_plat (s : State) (l : Loc) (v : BitVec 256) : (s.setSlot l v).plat = s.plat := rfl
@[simp] theorem State.setSlot_ports (s : State) (l : Loc) (v : BitVec 256) : (s.setSlot l v).ports = s.ports := rfl
@[simp] theorem State.setSlot_replays (s : State) (l : Loc) (v : BitVec 256) : (s.setSlot l v).replays = s.replays := rfl
@[simp] theorem State.setSlot_hostIn (s : State) (l : Loc) (v : BitVec 256) : (s.setSlot l v).hostIn = s.hostIn := rfl

/-! ### State.bump -/

@[simp] theorem State.bump_turns (s : State) : (s.bump).turns = s.turns := rfl
@[simp] theorem State.bump_cur (s : State) : (s.bump).cur = s.cur := rfl
@[simp] theorem State.bump_free (s : State) : (s.bump).free = s.free + 1 := rfl
@[simp] theorem State.bump_now (s : State) : (s.bump).now = s.now := rfl
@[simp] theorem State.bump_stage (s : State) : (s.bump).stage = s.stage := rfl
@[simp] theorem State.bump_uid (s : State) : (s.bump).uid = s.uid := rfl
@[simp] theorem State.bump_mem (s : State) : (s.bump).mem = s.mem := rfl
@[simp] theorem State.bump_side (s : State) : (s.bump).side = s.side := rfl
@[simp] theorem State.bump_poison (s : State) : (s.bump).poison = s.poison := rfl
@[simp] theorem State.bump_regs (s : State) : (s.bump).regs = s.regs := rfl
@[simp] theorem State.bump_acc (s : State) : (s.bump).acc = s.acc := rfl
@[simp] theorem State.bump_bscale (s : State) : (s.bump).bscale = s.bscale := rfl
@[simp] theorem State.bump_bmeta (s : State) : (s.bump).bmeta = s.bmeta := rfl
@[simp] theorem State.bump_warps (s : State) : (s.bump).warps = s.warps := rfl
@[simp] theorem State.bump_blocks (s : State) : (s.bump).blocks = s.blocks := rfl
@[simp] theorem State.bump_gangs (s : State) : (s.bump).gangs = s.gangs := rfl
@[simp] theorem State.bump_launches (s : State) : (s.bump).launches = s.launches := rfl
@[simp] theorem State.bump_rafts (s : State) : (s.bump).rafts = s.rafts := rfl
@[simp] theorem State.bump_cores (s : State) : (s.bump).cores = s.cores := rfl
@[simp] theorem State.bump_twins (s : State) : (s.bump).twins = s.twins := rfl
@[simp] theorem State.bump_clusters (s : State) : (s.bump).clusters = s.clusters := rfl
@[simp] theorem State.bump_dies (s : State) : (s.bump).dies = s.dies := rfl
@[simp] theorem State.bump_nmus (s : State) : (s.bump).nmus = s.nmus := rfl
@[simp] theorem State.bump_queues (s : State) : (s.bump).queues = s.queues := rfl
@[simp] theorem State.bump_ctxs (s : State) : (s.bump).ctxs = s.ctxs := rfl
@[simp] theorem State.bump_groups (s : State) : (s.bump).groups = s.groups := rfl
@[simp] theorem State.bump_ingress (s : State) : (s.bump).ingress = s.ingress := rfl
@[simp] theorem State.bump_keys (s : State) : (s.bump).keys = s.keys := rfl
@[simp] theorem State.bump_flioc (s : State) : (s.bump).flioc = s.flioc := rfl
@[simp] theorem State.bump_raised (s : State) : (s.bump).raised = s.raised := rfl
@[simp] theorem State.bump_events (s : State) : (s.bump).events = s.events := rfl
@[simp] theorem State.bump_box0 (s : State) : (s.bump).box0 = s.box0 := rfl
@[simp] theorem State.bump_box1 (s : State) : (s.bump).box1 = s.box1 := rfl
@[simp] theorem State.bump_ring (s : State) : (s.bump).ring = s.ring := rfl
@[simp] theorem State.bump_plat (s : State) : (s.bump).plat = s.plat := rfl
@[simp] theorem State.bump_ports (s : State) : (s.bump).ports = s.ports := rfl
@[simp] theorem State.bump_replays (s : State) : (s.bump).replays = s.replays := rfl
@[simp] theorem State.bump_hostIn (s : State) : (s.bump).hostIn = s.hostIn := rfl

end Sys2Proof.Machine
end

