-- ==== Sys2Proof/Laws/Table.lean ====
section
/-! SUPPORT. Reading after writing in the sparse tables, and their order. -/
namespace Sys2Proof.Machine

variable {α : Type}

/-! ### Reading after writing -/

@[simp] theorem tget_nil (k : Nat) : tget ([] : SMap α) k = none := rfl

@[simp] theorem tget_tput_self (m : SMap α) (k : Nat) (v : α) : tget (tput m k v) k = some v := by
  induction m with
  | nil => simp [tput, tget]
  | cons p r ih =>
    obtain ⟨k', v'⟩ := p
    simp only [tput]
    split
    · simp [tget]
    · split
      · simp [tget]
      · rename_i h
        simp [tget, h, ih]

theorem tget_tput_ne (m : SMap α) {k j : Nat} (v : α) (h : j ≠ k) : tget (tput m k v) j = tget m j := by
  induction m with
  | nil => simp [tput, tget, h]
  | cons p r ih =>
    obtain ⟨k', v'⟩ := p
    simp only [tput]
    split
    · simp [tget, h]
    · split
      · rename_i hk; subst hk; simp [tget, h]
      · simp only [tget, ih]

theorem tget_tput (m : SMap α) (k j : Nat) (v : α) : tget (tput m k v) j = if j = k then some v else tget m j := by
  by_cases h : j = k
  · subst h; simp
  · simp [tget_tput_ne m v h, h]

theorem tget_tdel_ne (m : SMap α) {k j : Nat} (h : j ≠ k) : tget (tdel m k) j = tget m j := by
  induction m with
  | nil => rfl
  | cons p r ih =>
    obtain ⟨k', v'⟩ := p
    simp only [tdel]
    split
    · rename_i hk; subst hk; simp [tget, h]
    · simp only [tget, ih]

/-! ### Order -/

/-- A number below every key of a table is not listed, and neither is one that the table starts above. -/
theorem tget_none_of_lt {m : SMap α} (hs : tsorted m = true) {k : Nat} (h : ∀ p ∈ m, k < p.1) : tget m k = none := by
  induction m with
  | nil => rfl
  | cons p r ih =>
    obtain ⟨k', v'⟩ := p
    have h1 : k < k' := h (k', v') (by simp)
    have h2 : k ≠ k' := by omega
    simp only [tget, h2, if_false]
    refine ih ?_ (fun q hq => h q (by simp [hq]))
    cases r with
    | nil => rfl
    | cons q r => obtain ⟨a, b⟩ := q; simp [tsorted] at hs; exact hs.2

theorem tsorted_tail {p : Nat × α} {r : SMap α} (h : tsorted (p :: r) = true) : tsorted r = true := by
  cases r with
  | nil => rfl
  | cons q r => obtain ⟨a, b⟩ := q; obtain ⟨c, d⟩ := p; simp [tsorted] at h; exact h.2

theorem tsorted_lt {p : Nat × α} {r : SMap α} (h : tsorted (p :: r) = true) : ∀ q ∈ r, p.1 < q.1 := by
  induction r generalizing p with
  | nil => simp
  | cons q r ih =>
    obtain ⟨a, b⟩ := q
    obtain ⟨c, d⟩ := p
    simp only [tsorted, Bool.and_eq_true, decide_eq_true_eq] at h
    intro x hx
    simp only [List.mem_cons] at hx
    rcases hx with rfl | hx
    · exact h.1
    · exact Nat.lt_trans h.1 (ih h.2 x hx)

theorem tsorted_cons {p : Nat × α} {r : SMap α} (hr : tsorted r = true) (h : ∀ q ∈ r, p.1 < q.1) : tsorted (p :: r) = true := by
  cases r with
  | nil => rfl
  | cons q r => obtain ⟨a, b⟩ := q; obtain ⟨c, d⟩ := p; simp only [tsorted, Bool.and_eq_true, decide_eq_true_eq]; exact ⟨h (a, b) (by simp), hr⟩

theorem mem_tput {m : SMap α} {k : Nat} {v : α} {p : Nat × α} (h : p ∈ tput m k v) : p = (k, v) ∨ p ∈ m := by
  induction m with
  | nil => simp [tput] at h; exact .inl h
  | cons q r ih =>
    obtain ⟨k', v'⟩ := q
    simp only [tput] at h
    split at h
    · simp only [List.mem_cons] at h ⊢; exact h
    · split at h
      · simp only [List.mem_cons] at h ⊢; tauto
      · simp only [List.mem_cons] at h ⊢
        rcases h with h | h
        · exact .inr (.inl h)
        · rcases ih h with h | h
          · exact .inl h
          · exact .inr (.inr h)

theorem mem_tdel {m : SMap α} {k : Nat} {p : Nat × α} (h : p ∈ tdel m k) : p ∈ m := by
  induction m with
  | nil => simp [tdel] at h
  | cons q r ih =>
    obtain ⟨k', v'⟩ := q
    simp only [tdel] at h
    split at h
    · simp [h]
    · simp only [List.mem_cons] at h ⊢
      rcases h with h | h
      · exact .inl h
      · exact .inr (ih h)

theorem tsorted_tput {m : SMap α} (hs : tsorted m = true) (k : Nat) (v : α) : tsorted (tput m k v) = true := by
  induction m with
  | nil => rfl
  | cons p r ih =>
    obtain ⟨k', v'⟩ := p
    have hl := tsorted_lt hs
    have hr := tsorted_tail hs
    simp only [tput]
    split
    · rename_i h
      refine tsorted_cons hs ?_
      intro q hq
      simp only [List.mem_cons] at hq
      rcases hq with rfl | hq
      · exact h
      · exact Nat.lt_trans h (hl q hq)
    · split
      · rename_i h; subst h; exact tsorted_cons hr hl
      · rename_i h1 h2
        refine tsorted_cons (ih hr) ?_
        intro q hq
        rcases mem_tput hq with rfl | hq
        · show k' < k; omega
        · exact hl q hq

theorem tsorted_tdel {m : SMap α} (hs : tsorted m = true) (k : Nat) : tsorted (tdel m k) = true := by
  induction m with
  | nil => rfl
  | cons p r ih =>
    obtain ⟨k', v'⟩ := p
    simp only [tdel]
    split
    · exact tsorted_tail hs
    · exact tsorted_cons (ih (tsorted_tail hs)) (fun q hq => tsorted_lt hs q (mem_tdel hq))

theorem tget_tdel_self {m : SMap α} (hs : tsorted m = true) (k : Nat) : tget (tdel m k) k = none := by
  induction m with
  | nil => rfl
  | cons p r ih =>
    obtain ⟨k', v'⟩ := p
    simp only [tdel]
    split
    · rename_i h; subst h; exact tget_none_of_lt (tsorted_tail hs) (tsorted_lt hs)
    · rename_i h; simp [tget, h, ih (tsorted_tail hs)]

/-! ### Tables with a default -/

theorem tsorted_tputD [DecidableEq α] {m : SMap α} (hs : tsorted m = true) (k : Nat) (d v : α) : tsorted (tputD m k d v) = true := by
  unfold tputD
  split
  · exact tsorted_tdel hs k
  · exact tsorted_tput hs k v

theorem tgetD_tputD_ne [DecidableEq α] (m : SMap α) {k j : Nat} (d v : α) (h : j ≠ k) : tgetD (tputD m k d v) j d = tgetD m j d := by
  unfold tgetD tputD
  split
  · rw [tget_tdel_ne m h]
  · rw [tget_tput_ne m v h]

theorem tgetD_tputD_self [DecidableEq α] {m : SMap α} (hs : tsorted m = true) (k : Nat) (d v : α) : tgetD (tputD m k d v) k d = v := by
  unfold tgetD tputD
  split
  · rename_i h; rw [tget_tdel_self hs]; simp [h]
  · simp

/-- A write of a value other than the default reads back whatever the table. -/
theorem tgetD_tputD_of_ne [DecidableEq α] (m : SMap α) (k : Nat) {d v : α} (h : v ≠ d) : tgetD (tputD m k d v) k d = v := by
  simp [tgetD, tputD, h]

theorem tget_tmod_ne (m : SMap α) {k j : Nat} (f : α → α) (h : j ≠ k) : tget (tmod m k f) j = tget m j := by
  unfold tmod
  split
  · exact tget_tput_ne m _ h
  · rfl

@[simp] theorem tget_tmod_self (m : SMap α) (k : Nat) (f : α → α) : tget (tmod m k f) k = (tget m k).map f := by
  unfold tmod
  split
  · rename_i h; simp [h]
  · rename_i h; simp [h]

/-- A table changed at a number reads there as the changed entry, elsewhere as before. -/
theorem tget_tmod (m : SMap α) (k j : Nat) (f : α → α) : tget (tmod m k f) j = if j = k then (tget m k).map f else tget m j := by
  by_cases h : j = k
  · subst h; simp
  · simp [h, tget_tmod_ne m f h]

theorem tsorted_tmod {m : SMap α} (hs : tsorted m = true) (k : Nat) (f : α → α) : tsorted (tmod m k f) = true := by
  unfold tmod
  split
  · exact tsorted_tput hs k _
  · exact hs

end Sys2Proof.Machine
end

