-- ==== Sys2Proof/Laws/Memory.lean ====
section
/-! SUPPORT. Memory: a byte written is the byte read, other bytes stay, and every memory operation keeps the canonical form. -/
namespace Sys2Proof.Machine
open Sys2Proof

/-! ### Bytes -/

theorem Memory.wf_sorted {m : List Host.Cell} (h : Memory.wf m = true) : tsorted (α := Byte) m = true := by
  simp only [Memory.wf, Bool.and_eq_true] at h; exact h.1

theorem byte_setByte_self {s : State} (h : Memory.wf s.mem = true) (l : Loc) (b : Byte) : (s.setByte l b).byte l = b := by
  simp only [State.byte, State.setByte]
  exact tgetD_tputD_self (Memory.wf_sorted h) _ _ _

theorem byte_setByte_ne (s : State) {l k : Loc} (b : Byte) (h : k.key ≠ l.key) : (s.setByte l b).byte k = s.byte k := by
  simp only [State.byte, State.setByte]
  exact tgetD_tputD_ne _ _ _ h

/-- Whether `k` is one of the `n` bytes from `l` upward. -/
def Loc.within (k l : Loc) : Nat → Bool
  | 0 => false
  | n + 1 => decide (k.key = l.key) || k.within (l.add 1) n

theorem byte_setBytes_out (s : State) (l k : Loc) (bs : List Byte) (h : k.within l bs.length = false) :
    (s.setBytes l bs).byte k = s.byte k := by
  induction bs generalizing s l with
  | nil => rfl
  | cons b r ih =>
    simp only [List.length_cons, Loc.within, Bool.or_eq_false_iff, decide_eq_false_iff_not] at h
    simp only [State.setBytes]
    rw [ih _ _ h.2, byte_setByte_ne _ _ h.1]

/-! ### The canonical form -/

theorem Memory.wf_tputD {m : List Host.Cell} (h : Memory.wf m = true) (k : Nat) (b : Byte) :
    Memory.wf (tputD m k unlisted b) = true := by
  have hs := Memory.wf_sorted h
  simp only [Memory.wf, Bool.and_eq_true, List.all_eq_true, decide_eq_true_eq] at h ⊢
  refine ⟨tsorted_tputD hs k unlisted b, ?_⟩
  intro c hc
  unfold tputD at hc
  split at hc
  · exact h.2 c (mem_tdel hc)
  · rename_i hb
    rcases mem_tput hc with rfl | hc
    · exact hb
    · exact h.2 c hc

theorem wf_setByte {s : State} (h : Memory.wf s.mem = true) (l : Loc) (b : Byte) : Memory.wf (s.setByte l b).mem = true :=
  Memory.wf_tputD h _ _

theorem wf_setBytes {s : State} (h : Memory.wf s.mem = true) (l : Loc) (bs : List Byte) : Memory.wf (s.setBytes l bs).mem = true := by
  induction bs generalizing s l with
  | nil => exact h
  | cons b r ih => exact ih (wf_setByte h l b) _

theorem wf_reset : Memory.wf State.reset.mem = true := rfl

@[simp] theorem homeWrite_mem (s : State) (l : Loc) (bs : List Byte) : (homeWrite s l bs).mem = (s.setBytes l bs).mem := by
  unfold homeWrite; dsimp only; split <;> rfl

@[simp] theorem homeSlot_mem (s : State) (l : Loc) (v : BitVec 256) : (homeSlot s l v).mem = s.mem := by
  unfold homeSlot; dsimp only; split <;> rfl

@[simp] theorem homeSlotPart_mem (s : State) (l : Loc) (d : BitVec 13) (v : BitVec 256) : (homeSlotPart s l d v).mem = s.mem := by
  unfold homeSlotPart; split
  · exact homeSlot_mem s l v
  · rfl

@[simp] theorem noteName_mem (s : State) (core asid : Nat) (a : Acc) : (noteName s core asid a).mem = s.mem := by
  simp [noteName]

theorem wf_homeWrite {s : State} (h : Memory.wf s.mem = true) (l : Loc) (bs : List Byte) : Memory.wf (homeWrite s l bs).mem = true := by
  rw [homeWrite_mem]; exact wf_setBytes h l bs

/-- A fold of steps that each keep the canonical form keeps it. -/
theorem wf_foldl {β : Type} (g : State → β → State) (hg : ∀ s b, Memory.wf s.mem = true → Memory.wf (g s b).mem = true)
    (l : List β) {s : State} (h : Memory.wf s.mem = true) : Memory.wf (l.foldl g s).mem = true := by
  induction l generalizing s with
  | nil => exact h
  | cons b r ih => exact ih (hg s b h)

theorem wf_writeBackLine {s : State} (h : Memory.wf s.mem = true) (l : L1Line) : Memory.wf (writeBackLine s l).mem = true := by
  have h1 := wf_foldl (fun (s : State) i => if l.dirty.getLsbD i then s.setByte (l.line.add i) (BitVec.ofNat 8 (l.data.toNat / 256 ^ i)) else s)
    (fun s i hs => by
      split
      · exact wf_setByte hs _ _
      · exact hs) (upto 128) h
  unfold writeBackLine
  dsimp only
  repeat' split
  all_goals simpa using h1

theorem wf_writeBackAll {s : State} (h : Memory.wf s.mem = true) (core : Nat) : Memory.wf (writeBackAll s core).mem = true := by
  unfold writeBackAll
  simpa using wf_foldl writeBackLine (fun _ l hs => wf_writeBackLine hs l) _ h

theorem wf_invalidateAll {s : State} (h : Memory.wf s.mem = true) (core : Nat) : Memory.wf (invalidateAll s core).mem = true := by
  simpa [invalidateAll] using wf_writeBackAll h core

theorem wf_flushLine {s : State} (h : Memory.wf s.mem = true) (core : Nat) (l : Loc) (drop : Bool) :
    Memory.wf (flushLine s core l drop).mem = true := by
  unfold flushLine
  split
  · exact h
  · rename_i x _
    simpa using wf_writeBackLine h x

theorem wf_fillLine {s : State} (h : Memory.wf s.mem = true) (core asid : Nat) (a : Acc) : Memory.wf (fillLine s core asid a).mem = true := by
  unfold fillLine
  simp only [State.modCore_mem]
  split
  · split
    · exact wf_flushLine h _ _ _
    · exact h
  · exact h

theorem wf_lineFor {s : State} (h : Memory.wf s.mem = true) (core asid : Nat) (a : Acc) (alloc : Bool) :
    Memory.wf (lineFor s core asid a alloc).1.mem = true := by
  unfold lineFor
  split
  · simpa using h
  · split
    · exact wf_fillLine h core asid a
    · exact h

theorem wf_loadBytes {s : State} (h : Memory.wf s.mem = true) (core asid : Nat) (a : Acc) (hint : Hint) :
    Memory.wf (loadBytes s core asid a hint).1.mem = true := by
  unfold loadBytes
  have h1 := wf_lineFor h core asid a (decide (hint = .keep))
  split
  · dsimp only
    split
    · exact wf_flushLine h1 _ _ _
    · exact h1
  · exact h

theorem wf_storeBytes {s : State} (h : Memory.wf s.mem = true) (core asid : Nat) (a : Acc) (hint : Hint) (bs : List Byte) :
    Memory.wf (storeBytes s core asid a hint bs).mem = true := by
  unfold storeBytes
  have h1 := wf_lineFor h core asid a (decide (hint = .keep))
  split
  · generalize lineFor s core asid a (decide (hint = .keep)) = p at h1
    obtain ⟨s1, o⟩ := p
    dsimp only at h1 ⊢
    cases o with
    | none =>
      dsimp only
      split
      · exact wf_flushLine (wf_homeWrite h1 _ _) _ _ _
      · exact wf_homeWrite h1 _ _
    | some l =>
      dsimp only
      split
      · exact wf_flushLine (by simpa using h1) _ _ _
      · simpa using h1
  · exact wf_homeWrite h _ _

theorem wf_loadSlot {s : State} (h : Memory.wf s.mem = true) (core asid : Nat) (a : Acc) (hint : Hint) :
    Memory.wf (loadSlot s core asid a hint).1.mem = true := by
  unfold loadSlot
  split
  · exact wf_lineFor h core asid a _
  · exact h

theorem wf_storeSlot {s : State} (h : Memory.wf s.mem = true) (core asid : Nat) (a : Acc) (hint : Hint) (d : BitVec 13)
    (f : BitVec 256 → BitVec 256) : Memory.wf (storeSlot s core asid a hint d f).mem = true := by
  unfold storeSlot
  have h1 := wf_lineFor h core asid a (decide (hint = .keep))
  split
  · generalize lineFor s core asid a (decide (hint = .keep)) = p at h1
    obtain ⟨s1, o⟩ := p
    cases o <;> simpa using h1
  · simpa using h

theorem wf_atHome {s : State} (h : Memory.wf s.mem = true) (core : Nat) (a : Acc) : Memory.wf (atHome s core a).mem = true := by
  unfold atHome
  split
  · exact wf_flushLine h _ _ _
  · exact h

@[simp] theorem noteTlb_mem (s : State) (core : Nat) (as : List Acc) : (noteTlb s core as).mem = s.mem := rfl

theorem wf_releaseAt {s : State} (h : Memory.wf s.mem = true) (c : Ctx) (k : Nat) : Memory.wf (releaseAt c k s).mem = true := by
  unfold releaseAt
  split
  · exact wf_writeBackAll h _
  · exact h

theorem wf_acquireAt {s : State} (h : Memory.wf s.mem = true) (c : Ctx) (k : Nat) : Memory.wf (acquireAt c k s).mem = true := by
  unfold acquireAt
  split
  · exact wf_invalidateAll h _
  · exact h

theorem wf_postEvent {s : State} (h : Memory.wf s.mem = true) (t asid : Nat) (d : List Byte) : Memory.wf (postEvent s t asid d).mem = true := by
  unfold postEvent
  split
  · exact wf_setBytes h _ _
  · exact h

theorem wf_addHealth1 {s : State} (h : Memory.wf s.mem = true) (asid pool which n : Nat) :
    Memory.wf (addHealth1 s asid pool which n).mem = true := by
  unfold addHealth1
  dsimp only
  split
  · exact wf_postEvent (by simpa using wf_homeWrite h _ _) _ _ _
  · exact wf_homeWrite h _ _

end Sys2Proof.Machine
end

