-- ==== Sys2Proof/Laws/Issue.lean ====
section
/-! SUPPORT. What the issue of one instruction can do: its four ends, what moving past an instruction changes, and what delivering a result
changes. -/
namespace Sys2Proof.Machine
open Sys2Proof

/-! ### The four ends of an issue -/

variable {s : State} {f : Fr} {n : Names} {lat : Option (Nat × Nat)} {early : Ctx → Option Nat} {c : Ctx} {body : Ctx → State → Body}

/-- The issue of an instruction whose gate is open and whose checks pass is what its body comes to. -/
theorem issue_eq (h : Issues s f n lat early c) :
    issue f n lat early body s =
      match body c (advance c f n) with
      | .done s => .next s
      | .trap k m a g => .next (raiseTrap c f k m a g)
      | .held => .next (c.pre.modSplit c.w c.ent (fun sp => { sp with wait := some (.op false false .none) }))
      | .waits arr ph s =>
        .next ((takeSlot c f n (match fctr f with
            | some k => if c.split.counted then s else s.modWarp c.w (·.incCtr k)
            | none => s)).modSplit c.w c.ent (fun sp => { sp with wait := some (.op true arr ph) })).bump := by
  obtain ⟨c0, h0, hg, rfl, hk⟩ := h
  unfold issue issueFor
  rw [h0]
  simp only [hg, if_true]
  rw [show ({ c0.land with act := c0.land.guardMask f, uni := f.uni } : Ctx) = c0.guarded f from rfl, hk]
  rfl

theorem issue_done {t : State} (h : Issues s f n lat early c) (hb : body c (advance c f n) = .done t) :
    issue f n lat early body s = .next t := by rw [issue_eq h, hb]

theorem issue_trap {k : Nat} {m : BitVec 32} {a : List (Nat × DWord)} {g : Option Word} (h : Issues s f n lat early c)
    (hb : body c (advance c f n) = .trap k m a g) : issue f n lat early body s = .next (raiseTrap c f k m a g) := by
  rw [issue_eq h, hb]

theorem issue_held (h : Issues s f n lat early c) (hb : body c (advance c f n) = .held) :
    issue f n lat early body s = .next (c.pre.modSplit c.w c.ent (fun sp => { sp with wait := some (.op false false .none) })) := by
  rw [issue_eq h, hb]

/-- An issue whose checks fail raises the trap that they name, with the split's threads as faulters (R58). -/
theorem issue_refused {c0 : Ctx} {k : Nat} (h0 : s.issuer = .ok c0) (hg : gate c0 f = true)
    (hk : issueCheck (c0.guarded f) n f.g (lat.map (fun p => (c0.guarded f).lat p.1 p.2)) (early (c0.guarded f)) = some k) :
    issue f n lat early body s = .next (raiseTrap (c0.guarded f) f k (c0.guarded f).split.mask [] none) := by
  unfold issue issueFor
  rw [h0]
  simp only [hg, if_true]
  rw [show ({ c0.land with act := c0.land.guardMask f, uni := f.uni } : Ctx) = c0.guarded f from rfl, hk]
  rfl

/-- A closed gate changes nothing. -/
theorem issue_closed {c0 : Ctx} (h0 : s.issuer = .ok c0) (hg : gate c0 f = false) : issue f n lat early body s = .next s := by
  unfold issue issueFor
  rw [h0]
  simp [hg]

/-- An instruction of a split that stands nowhere is refused. -/
theorem issue_none (h0 : s.issuer = .none) : issue f n lat early body s = .refused .noIssuer := by
  unfold issue issueFor
  rw [h0]

/-- A fixed-latency instruction that only writes registers completes. -/
theorem aluOp_next {l : Nat × Nat} {outs : Ctx → List (Nat × (Nat → Word))} {ev : Ctx → Health} (h : Issues s f n (some l) noEarly c) :
    aluOp f n l outs ev s = .next (fixedNext c f n l (outs c) (ev c)) := issue_done h rfl

/-! ### What the issuer is -/

theorem issuer_pre {c0 : Ctx} (h : s.issuer = .ok c0) : c0.pre = s := by
  unfold State.issuer at h
  repeat' split at h
  all_goals first | cases h; rfl | cases h

theorem issuer_w {c0 : Ctx} (h : s.issuer = .ok c0) : c0.w = s.cur.1 := by
  unfold State.issuer at h
  repeat' split at h
  all_goals first | cases h; rfl | cases h

theorem issuer_warp {c0 : Ctx} (h : s.issuer = .ok c0) : tget s.warps c0.w = some c0.warp := by
  unfold State.issuer at h
  repeat' split at h
  all_goals first | cases h; assumption | cases h

/-! ### Moving past an instruction -/

@[simp] theorem advance_turns (c : Ctx) (f : Fr) (n : Names) : (advance c f n).turns = c.pre.turns := by
  unfold advance; dsimp only; split <;> (try split) <;> rfl
@[simp] theorem advance_cur (c : Ctx) (f : Fr) (n : Names) : (advance c f n).cur = c.pre.cur := by
  unfold advance; dsimp only; split <;> (try split) <;> rfl
@[simp] theorem advance_now (c : Ctx) (f : Fr) (n : Names) : (advance c f n).now = c.pre.now := by
  unfold advance; dsimp only; split <;> (try split) <;> rfl
@[simp] theorem advance_stage (c : Ctx) (f : Fr) (n : Names) : (advance c f n).stage = c.pre.stage := by
  unfold advance; dsimp only; split <;> (try split) <;> rfl
@[simp] theorem advance_uid (c : Ctx) (f : Fr) (n : Names) : (advance c f n).uid = c.pre.uid := by
  unfold advance; dsimp only; split <;> (try split) <;> rfl
@[simp] theorem advance_mem (c : Ctx) (f : Fr) (n : Names) : (advance c f n).mem = c.pre.mem := by
  unfold advance; dsimp only; split <;> (try split) <;> rfl
@[simp] theorem advance_side (c : Ctx) (f : Fr) (n : Names) : (advance c f n).side = c.pre.side := by
  unfold advance; dsimp only; split <;> (try split) <;> rfl
@[simp] theorem advance_poison (c : Ctx) (f : Fr) (n : Names) : (advance c f n).poison = c.pre.poison := by
  unfold advance; dsimp only; split <;> (try split) <;> rfl
@[simp] theorem advance_regs (c : Ctx) (f : Fr) (n : Names) : (advance c f n).regs = c.pre.regs := by
  unfold advance; dsimp only; split <;> (try split) <;> rfl
@[simp] theorem advance_acc (c : Ctx) (f : Fr) (n : Names) : (advance c f n).acc = c.pre.acc := by
  unfold advance; dsimp only; split <;> (try split) <;> rfl
@[simp] theorem advance_bscale (c : Ctx) (f : Fr) (n : Names) : (advance c f n).bscale = c.pre.bscale := by
  unfold advance; dsimp only; split <;> (try split) <;> rfl
@[simp] theorem advance_bmeta (c : Ctx) (f : Fr) (n : Names) : (advance c f n).bmeta = c.pre.bmeta := by
  unfold advance; dsimp only; split <;> (try split) <;> rfl
@[simp] theorem advance_blocks (c : Ctx) (f : Fr) (n : Names) : (advance c f n).blocks = c.pre.blocks := by
  unfold advance; dsimp only; split <;> (try split) <;> rfl
@[simp] theorem advance_gangs (c : Ctx) (f : Fr) (n : Names) : (advance c f n).gangs = c.pre.gangs := by
  unfold advance; dsimp only; split <;> (try split) <;> rfl
@[simp] theorem advance_launches (c : Ctx) (f : Fr) (n : Names) : (advance c f n).launches = c.pre.launches := by
  unfold advance; dsimp only; split <;> (try split) <;> rfl
@[simp] theorem advance_rafts (c : Ctx) (f : Fr) (n : Names) : (advance c f n).rafts = c.pre.rafts := by
  unfold advance; dsimp only; split <;> (try split) <;> rfl
@[simp] theorem advance_twins (c : Ctx) (f : Fr) (n : Names) : (advance c f n).twins = c.pre.twins := by
  unfold advance; dsimp only; split <;> (try split) <;> rfl
@[simp] theorem advance_clusters (c : Ctx) (f : Fr) (n : Names) : (advance c f n).clusters = c.pre.clusters := by
  unfold advance; dsimp only; split <;> (try split) <;> rfl
@[simp] theorem advance_dies (c : Ctx) (f : Fr) (n : Names) : (advance c f n).dies = c.pre.dies := by
  unfold advance; dsimp only; split <;> (try split) <;> rfl
@[simp] theorem advance_nmus (c : Ctx) (f : Fr) (n : Names) : (advance c f n).nmus = c.pre.nmus := by
  unfold advance; dsimp only; split <;> (try split) <;> rfl
@[simp] theorem advance_queues (c : Ctx) (f : Fr) (n : Names) : (advance c f n).queues = c.pre.queues := by
  unfold advance; dsimp only; split <;> (try split) <;> rfl
@[simp] theorem advance_ctxs (c : Ctx) (f : Fr) (n : Names) : (advance c f n).ctxs = c.pre.ctxs := by
  unfold advance; dsimp only; split <;> (try split) <;> rfl
@[simp] theorem advance_groups (c : Ctx) (f : Fr) (n : Names) : (advance c f n).groups = c.pre.groups := by
  unfold advance; dsimp only; split <;> (try split) <;> rfl
@[simp] theorem advance_ingress (c : Ctx) (f : Fr) (n : Names) : (advance c f n).ingress = c.pre.ingress := by
  unfold advance; dsimp only; split <;> (try split) <;> rfl
@[simp] theorem advance_keys (c : Ctx) (f : Fr) (n : Names) : (advance c f n).keys = c.pre.keys := by
  unfold advance; dsimp only; split <;> (try split) <;> rfl
@[simp] theorem advance_flioc (c : Ctx) (f : Fr) (n : Names) : (advance c f n).flioc = c.pre.flioc := by
  unfold advance; dsimp only; split <;> (try split) <;> rfl
@[simp] theorem advance_raised (c : Ctx) (f : Fr) (n : Names) : (advance c f n).raised = c.pre.raised := by
  unfold advance; dsimp only; split <;> (try split) <;> rfl
@[simp] theorem advance_events (c : Ctx) (f : Fr) (n : Names) : (advance c f n).events = c.pre.events := by
  unfold advance; dsimp only; split <;> (try split) <;> rfl
@[simp] theorem advance_box0 (c : Ctx) (f : Fr) (n : Names) : (advance c f n).box0 = c.pre.box0 := by
  unfold advance; dsimp only; split <;> (try split) <;> rfl
@[simp] theorem advance_box1 (c : Ctx) (f : Fr) (n : Names) : (advance c f n).box1 = c.pre.box1 := by
  unfold advance; dsimp only; split <;> (try split) <;> rfl
@[simp] theorem advance_ring (c : Ctx) (f : Fr) (n : Names) : (advance c f n).ring = c.pre.ring := by
  unfold advance; dsimp only; split <;> (try split) <;> rfl
@[simp] theorem advance_plat (c : Ctx) (f : Fr) (n : Names) : (advance c f n).plat = c.pre.plat := by
  unfold advance; dsimp only; split <;> (try split) <;> rfl
@[simp] theorem advance_ports (c : Ctx) (f : Fr) (n : Names) : (advance c f n).ports = c.pre.ports := by
  unfold advance; dsimp only; split <;> (try split) <;> rfl
@[simp] theorem advance_replays (c : Ctx) (f : Fr) (n : Names) : (advance c f n).replays = c.pre.replays := by
  unfold advance; dsimp only; split <;> (try split) <;> rfl
@[simp] theorem advance_hostIn (c : Ctx) (f : Fr) (n : Names) : (advance c f n).hostIn = c.pre.hostIn := by
  unfold advance; dsimp only; split <;> (try split) <;> rfl

/-! ### Results of fixed and of variable latency -/

@[simp] theorem finishFixed_turns (c : Ctx) (f : Fr) (l : Nat) (kvs : List (Nat × Word)) (h : Health) (s : State) : (finishFixed c f l kvs h s).turns = s.turns := rfl
@[simp] theorem finishFixed_cur (c : Ctx) (f : Fr) (l : Nat) (kvs : List (Nat × Word)) (h : Health) (s : State) : (finishFixed c f l kvs h s).cur = s.cur := rfl
@[simp] theorem finishFixed_free (c : Ctx) (f : Fr) (l : Nat) (kvs : List (Nat × Word)) (h : Health) (s : State) : (finishFixed c f l kvs h s).free = s.free := rfl
@[simp] theorem finishFixed_now (c : Ctx) (f : Fr) (l : Nat) (kvs : List (Nat × Word)) (h : Health) (s : State) : (finishFixed c f l kvs h s).now = s.now := rfl
@[simp] theorem finishFixed_stage (c : Ctx) (f : Fr) (l : Nat) (kvs : List (Nat × Word)) (h : Health) (s : State) : (finishFixed c f l kvs h s).stage = s.stage := rfl
@[simp] theorem finishFixed_uid (c : Ctx) (f : Fr) (l : Nat) (kvs : List (Nat × Word)) (h : Health) (s : State) : (finishFixed c f l kvs h s).uid = s.uid := rfl
@[simp] theorem finishFixed_mem (c : Ctx) (f : Fr) (l : Nat) (kvs : List (Nat × Word)) (h : Health) (s : State) : (finishFixed c f l kvs h s).mem = s.mem := rfl
@[simp] theorem finishFixed_side (c : Ctx) (f : Fr) (l : Nat) (kvs : List (Nat × Word)) (h : Health) (s : State) : (finishFixed c f l kvs h s).side = s.side := rfl
@[simp] theorem finishFixed_poison (c : Ctx) (f : Fr) (l : Nat) (kvs : List (Nat × Word)) (h : Health) (s : State) : (finishFixed c f l kvs h s).poison = s.poison := rfl
@[simp] theorem finishFixed_regs (c : Ctx) (f : Fr) (l : Nat) (kvs : List (Nat × Word)) (h : Health) (s : State) : (finishFixed c f l kvs h s).regs = s.regs := rfl
@[simp] theorem finishFixed_acc (c : Ctx) (f : Fr) (l : Nat) (kvs : List (Nat × Word)) (h : Health) (s : State) : (finishFixed c f l kvs h s).acc = s.acc := rfl
@[simp] theorem finishFixed_bscale (c : Ctx) (f : Fr) (l : Nat) (kvs : List (Nat × Word)) (h : Health) (s : State) : (finishFixed c f l kvs h s).bscale = s.bscale := rfl
@[simp] theorem finishFixed_bmeta (c : Ctx) (f : Fr) (l : Nat) (kvs : List (Nat × Word)) (h : Health) (s : State) : (finishFixed c f l kvs h s).bmeta = s.bmeta := rfl
@[simp] theorem finishFixed_blocks (c : Ctx) (f : Fr) (l : Nat) (kvs : List (Nat × Word)) (h : Health) (s : State) : (finishFixed c f l kvs h s).blocks = s.blocks := rfl
@[simp] theorem finishFixed_gangs (c : Ctx) (f : Fr) (l : Nat) (kvs : List (Nat × Word)) (h : Health) (s : State) : (finishFixed c f l kvs h s).gangs = s.gangs := rfl
@[simp] theorem finishFixed_launches (c : Ctx) (f : Fr) (l : Nat) (kvs : List (Nat × Word)) (h : Health) (s : State) : (finishFixed c f l kvs h s).launches = s.launches := rfl
@[simp] theorem finishFixed_rafts (c : Ctx) (f : Fr) (l : Nat) (kvs : List (Nat × Word)) (h : Health) (s : State) : (finishFixed c f l kvs h s).rafts = s.rafts := rfl
@[simp] theorem finishFixed_cores (c : Ctx) (f : Fr) (l : Nat) (kvs : List (Nat × Word)) (h : Health) (s : State) : (finishFixed c f l kvs h s).cores = s.cores := rfl
@[simp] theorem finishFixed_twins (c : Ctx) (f : Fr) (l : Nat) (kvs : List (Nat × Word)) (h : Health) (s : State) : (finishFixed c f l kvs h s).twins = s.twins := rfl
@[simp] theorem finishFixed_clusters (c : Ctx) (f : Fr) (l : Nat) (kvs : List (Nat × Word)) (h : Health) (s : State) : (finishFixed c f l kvs h s).clusters = s.clusters := rfl
@[simp] theorem finishFixed_dies (c : Ctx) (f : Fr) (l : Nat) (kvs : List (Nat × Word)) (h : Health) (s : State) : (finishFixed c f l kvs h s).dies = s.dies := rfl
@[simp] theorem finishFixed_nmus (c : Ctx) (f : Fr) (l : Nat) (kvs : List (Nat × Word)) (h : Health) (s : State) : (finishFixed c f l kvs h s).nmus = s.nmus := rfl
@[simp] theorem finishFixed_queues (c : Ctx) (f : Fr) (l : Nat) (kvs : List (Nat × Word)) (h : Health) (s : State) : (finishFixed c f l kvs h s).queues = s.queues := rfl
@[simp] theorem finishFixed_ctxs (c : Ctx) (f : Fr) (l : Nat) (kvs : List (Nat × Word)) (h : Health) (s : State) : (finishFixed c f l kvs h s).ctxs = s.ctxs := rfl
@[simp] theorem finishFixed_groups (c : Ctx) (f : Fr) (l : Nat) (kvs : List (Nat × Word)) (h : Health) (s : State) : (finishFixed c f l kvs h s).groups = s.groups := rfl
@[simp] theorem finishFixed_ingress (c : Ctx) (f : Fr) (l : Nat) (kvs : List (Nat × Word)) (h : Health) (s : State) : (finishFixed c f l kvs h s).ingress = s.ingress := rfl
@[simp] theorem finishFixed_keys (c : Ctx) (f : Fr) (l : Nat) (kvs : List (Nat × Word)) (h : Health) (s : State) : (finishFixed c f l kvs h s).keys = s.keys := rfl
@[simp] theorem finishFixed_flioc (c : Ctx) (f : Fr) (l : Nat) (kvs : List (Nat × Word)) (h : Health) (s : State) : (finishFixed c f l kvs h s).flioc = s.flioc := rfl
@[simp] theorem finishFixed_raised (c : Ctx) (f : Fr) (l : Nat) (kvs : List (Nat × Word)) (h : Health) (s : State) : (finishFixed c f l kvs h s).raised = s.raised := rfl
@[simp] theorem finishFixed_events (c : Ctx) (f : Fr) (l : Nat) (kvs : List (Nat × Word)) (h : Health) (s : State) : (finishFixed c f l kvs h s).events = s.events := rfl
@[simp] theorem finishFixed_box0 (c : Ctx) (f : Fr) (l : Nat) (kvs : List (Nat × Word)) (h : Health) (s : State) : (finishFixed c f l kvs h s).box0 = s.box0 := rfl
@[simp] theorem finishFixed_box1 (c : Ctx) (f : Fr) (l : Nat) (kvs : List (Nat × Word)) (h : Health) (s : State) : (finishFixed c f l kvs h s).box1 = s.box1 := rfl
@[simp] theorem finishFixed_ring (c : Ctx) (f : Fr) (l : Nat) (kvs : List (Nat × Word)) (h : Health) (s : State) : (finishFixed c f l kvs h s).ring = s.ring := rfl
@[simp] theorem finishFixed_plat (c : Ctx) (f : Fr) (l : Nat) (kvs : List (Nat × Word)) (h : Health) (s : State) : (finishFixed c f l kvs h s).plat = s.plat := rfl
@[simp] theorem finishFixed_ports (c : Ctx) (f : Fr) (l : Nat) (kvs : List (Nat × Word)) (h : Health) (s : State) : (finishFixed c f l kvs h s).ports = s.ports := rfl
@[simp] theorem finishFixed_replays (c : Ctx) (f : Fr) (l : Nat) (kvs : List (Nat × Word)) (h : Health) (s : State) : (finishFixed c f l kvs h s).replays = s.replays := rfl
@[simp] theorem finishFixed_hostIn (c : Ctx) (f : Fr) (l : Nat) (kvs : List (Nat × Word)) (h : Health) (s : State) : (finishFixed c f l kvs h s).hostIn = s.hostIn := rfl

@[simp] theorem finishFlight_turns (c : Ctx) (f : Fr) (kvs : List (Nat × Word)) (k : FlightKind) (s : State) : (finishFlight c f kvs k s).turns = s.turns := by
  unfold finishFlight; split <;> rfl
@[simp] theorem finishFlight_cur (c : Ctx) (f : Fr) (kvs : List (Nat × Word)) (k : FlightKind) (s : State) : (finishFlight c f kvs k s).cur = s.cur := by
  unfold finishFlight; split <;> rfl
@[simp] theorem finishFlight_free (c : Ctx) (f : Fr) (kvs : List (Nat × Word)) (k : FlightKind) (s : State) : (finishFlight c f kvs k s).free = s.free := by
  unfold finishFlight; split <;> rfl
@[simp] theorem finishFlight_now (c : Ctx) (f : Fr) (kvs : List (Nat × Word)) (k : FlightKind) (s : State) : (finishFlight c f kvs k s).now = s.now := by
  unfold finishFlight; split <;> rfl
@[simp] theorem finishFlight_stage (c : Ctx) (f : Fr) (kvs : List (Nat × Word)) (k : FlightKind) (s : State) : (finishFlight c f kvs k s).stage = s.stage := by
  unfold finishFlight; split <;> rfl
@[simp] theorem finishFlight_uid (c : Ctx) (f : Fr) (kvs : List (Nat × Word)) (k : FlightKind) (s : State) : (finishFlight c f kvs k s).uid = s.uid := by
  unfold finishFlight; split <;> rfl
@[simp] theorem finishFlight_mem (c : Ctx) (f : Fr) (kvs : List (Nat × Word)) (k : FlightKind) (s : State) : (finishFlight c f kvs k s).mem = s.mem := by
  unfold finishFlight; split <;> rfl
@[simp] theorem finishFlight_side (c : Ctx) (f : Fr) (kvs : List (Nat × Word)) (k : FlightKind) (s : State) : (finishFlight c f kvs k s).side = s.side := by
  unfold finishFlight; split <;> rfl
@[simp] theorem finishFlight_poison (c : Ctx) (f : Fr) (kvs : List (Nat × Word)) (k : FlightKind) (s : State) : (finishFlight c f kvs k s).poison = s.poison := by
  unfold finishFlight; split <;> rfl
@[simp] theorem finishFlight_regs (c : Ctx) (f : Fr) (kvs : List (Nat × Word)) (k : FlightKind) (s : State) : (finishFlight c f kvs k s).regs = s.regs := by
  unfold finishFlight; split <;> rfl
@[simp] theorem finishFlight_acc (c : Ctx) (f : Fr) (kvs : List (Nat × Word)) (k : FlightKind) (s : State) : (finishFlight c f kvs k s).acc = s.acc := by
  unfold finishFlight; split <;> rfl
@[simp] theorem finishFlight_bscale (c : Ctx) (f : Fr) (kvs : List (Nat × Word)) (k : FlightKind) (s : State) : (finishFlight c f kvs k s).bscale = s.bscale := by
  unfold finishFlight; split <;> rfl
@[simp] theorem finishFlight_bmeta (c : Ctx) (f : Fr) (kvs : List (Nat × Word)) (k : FlightKind) (s : State) : (finishFlight c f kvs k s).bmeta = s.bmeta := by
  unfold finishFlight; split <;> rfl
@[simp] theorem finishFlight_blocks (c : Ctx) (f : Fr) (kvs : List (Nat × Word)) (k : FlightKind) (s : State) : (finishFlight c f kvs k s).blocks = s.blocks := by
  unfold finishFlight; split <;> rfl
@[simp] theorem finishFlight_gangs (c : Ctx) (f : Fr) (kvs : List (Nat × Word)) (k : FlightKind) (s : State) : (finishFlight c f kvs k s).gangs = s.gangs := by
  unfold finishFlight; split <;> rfl
@[simp] theorem finishFlight_launches (c : Ctx) (f : Fr) (kvs : List (Nat × Word)) (k : FlightKind) (s : State) : (finishFlight c f kvs k s).launches = s.launches := by
  unfold finishFlight; split <;> rfl
@[simp] theorem finishFlight_rafts (c : Ctx) (f : Fr) (kvs : List (Nat × Word)) (k : FlightKind) (s : State) : (finishFlight c f kvs k s).rafts = s.rafts := by
  unfold finishFlight; split <;> rfl
@[simp] theorem finishFlight_cores (c : Ctx) (f : Fr) (kvs : List (Nat × Word)) (k : FlightKind) (s : State) : (finishFlight c f kvs k s).cores = s.cores := by
  unfold finishFlight; split <;> rfl
@[simp] theorem finishFlight_twins (c : Ctx) (f : Fr) (kvs : List (Nat × Word)) (k : FlightKind) (s : State) : (finishFlight c f kvs k s).twins = s.twins := by
  unfold finishFlight; split <;> rfl
@[simp] theorem finishFlight_clusters (c : Ctx) (f : Fr) (kvs : List (Nat × Word)) (k : FlightKind) (s : State) : (finishFlight c f kvs k s).clusters = s.clusters := by
  unfold finishFlight; split <;> rfl
@[simp] theorem finishFlight_dies (c : Ctx) (f : Fr) (kvs : List (Nat × Word)) (k : FlightKind) (s : State) : (finishFlight c f kvs k s).dies = s.dies := by
  unfold finishFlight; split <;> rfl
@[simp] theorem finishFlight_nmus (c : Ctx) (f : Fr) (kvs : List (Nat × Word)) (k : FlightKind) (s : State) : (finishFlight c f kvs k s).nmus = s.nmus := by
  unfold finishFlight; split <;> rfl
@[simp] theorem finishFlight_queues (c : Ctx) (f : Fr) (kvs : List (Nat × Word)) (k : FlightKind) (s : State) : (finishFlight c f kvs k s).queues = s.queues := by
  unfold finishFlight; split <;> rfl
@[simp] theorem finishFlight_ctxs (c : Ctx) (f : Fr) (kvs : List (Nat × Word)) (k : FlightKind) (s : State) : (finishFlight c f kvs k s).ctxs = s.ctxs := by
  unfold finishFlight; split <;> rfl
@[simp] theorem finishFlight_groups (c : Ctx) (f : Fr) (kvs : List (Nat × Word)) (k : FlightKind) (s : State) : (finishFlight c f kvs k s).groups = s.groups := by
  unfold finishFlight; split <;> rfl
@[simp] theorem finishFlight_ingress (c : Ctx) (f : Fr) (kvs : List (Nat × Word)) (k : FlightKind) (s : State) : (finishFlight c f kvs k s).ingress = s.ingress := by
  unfold finishFlight; split <;> rfl
@[simp] theorem finishFlight_keys (c : Ctx) (f : Fr) (kvs : List (Nat × Word)) (k : FlightKind) (s : State) : (finishFlight c f kvs k s).keys = s.keys := by
  unfold finishFlight; split <;> rfl
@[simp] theorem finishFlight_flioc (c : Ctx) (f : Fr) (kvs : List (Nat × Word)) (k : FlightKind) (s : State) : (finishFlight c f kvs k s).flioc = s.flioc := by
  unfold finishFlight; split <;> rfl
@[simp] theorem finishFlight_raised (c : Ctx) (f : Fr) (kvs : List (Nat × Word)) (k : FlightKind) (s : State) : (finishFlight c f kvs k s).raised = s.raised := by
  unfold finishFlight; split <;> rfl
@[simp] theorem finishFlight_events (c : Ctx) (f : Fr) (kvs : List (Nat × Word)) (k : FlightKind) (s : State) : (finishFlight c f kvs k s).events = s.events := by
  unfold finishFlight; split <;> rfl
@[simp] theorem finishFlight_box0 (c : Ctx) (f : Fr) (kvs : List (Nat × Word)) (k : FlightKind) (s : State) : (finishFlight c f kvs k s).box0 = s.box0 := by
  unfold finishFlight; split <;> rfl
@[simp] theorem finishFlight_box1 (c : Ctx) (f : Fr) (kvs : List (Nat × Word)) (k : FlightKind) (s : State) : (finishFlight c f kvs k s).box1 = s.box1 := by
  unfold finishFlight; split <;> rfl
@[simp] theorem finishFlight_ring (c : Ctx) (f : Fr) (kvs : List (Nat × Word)) (k : FlightKind) (s : State) : (finishFlight c f kvs k s).ring = s.ring := by
  unfold finishFlight; split <;> rfl
@[simp] theorem finishFlight_plat (c : Ctx) (f : Fr) (kvs : List (Nat × Word)) (k : FlightKind) (s : State) : (finishFlight c f kvs k s).plat = s.plat := by
  unfold finishFlight; split <;> rfl
@[simp] theorem finishFlight_ports (c : Ctx) (f : Fr) (kvs : List (Nat × Word)) (k : FlightKind) (s : State) : (finishFlight c f kvs k s).ports = s.ports := by
  unfold finishFlight; split <;> rfl
@[simp] theorem finishFlight_replays (c : Ctx) (f : Fr) (kvs : List (Nat × Word)) (k : FlightKind) (s : State) : (finishFlight c f kvs k s).replays = s.replays := by
  unfold finishFlight; split <;> rfl
@[simp] theorem finishFlight_hostIn (c : Ctx) (f : Fr) (kvs : List (Nat × Word)) (k : FlightKind) (s : State) : (finishFlight c f kvs k s).hostIn = s.hostIn := by
  unfold finishFlight; split <;> rfl

/-! ### Words written to registers -/

theorem foldl_setReg_field {β : Type} (g : State → β) (hg : ∀ s k v, g (State.setReg s k v) = g s) (kvs : List (Nat × Word)) (s : State) :
    g (kvs.foldl (fun s p => s.setReg p.1 p.2) s) = g s := by
  induction kvs generalizing s with
  | nil => rfl
  | cons p r ih => rw [List.foldl_cons, ih, hg]

theorem setRegs_field {β : Type} (g : State → β) (hg : ∀ s k v, g (State.setReg s k v) = g s)
    (hp : ∀ (s : State) l, g { s with poison := l } = g s) (kvs : List (Nat × Word)) (s : State) : g (s.setRegs kvs) = g s := by
  unfold State.setRegs
  dsimp only
  split
  · exact foldl_setReg_field g hg kvs s
  · rw [hp]; exact foldl_setReg_field g hg kvs s

@[simp] theorem setRegs_turns (s : State) (kvs : List (Nat × Word)) : (s.setRegs kvs).turns = s.turns := setRegs_field (·.turns) (fun _ _ _ => rfl) (fun _ _ => rfl) kvs s
@[simp] theorem setRegs_cur (s : State) (kvs : List (Nat × Word)) : (s.setRegs kvs).cur = s.cur := setRegs_field (·.cur) (fun _ _ _ => rfl) (fun _ _ => rfl) kvs s
@[simp] theorem setRegs_free (s : State) (kvs : List (Nat × Word)) : (s.setRegs kvs).free = s.free := setRegs_field (·.free) (fun _ _ _ => rfl) (fun _ _ => rfl) kvs s
@[simp] theorem setRegs_now (s : State) (kvs : List (Nat × Word)) : (s.setRegs kvs).now = s.now := setRegs_field (·.now) (fun _ _ _ => rfl) (fun _ _ => rfl) kvs s
@[simp] theorem setRegs_stage (s : State) (kvs : List (Nat × Word)) : (s.setRegs kvs).stage = s.stage := setRegs_field (·.stage) (fun _ _ _ => rfl) (fun _ _ => rfl) kvs s
@[simp] theorem setRegs_uid (s : State) (kvs : List (Nat × Word)) : (s.setRegs kvs).uid = s.uid := setRegs_field (·.uid) (fun _ _ _ => rfl) (fun _ _ => rfl) kvs s
@[simp] theorem setRegs_mem (s : State) (kvs : List (Nat × Word)) : (s.setRegs kvs).mem = s.mem := setRegs_field (·.mem) (fun _ _ _ => rfl) (fun _ _ => rfl) kvs s
@[simp] theorem setRegs_side (s : State) (kvs : List (Nat × Word)) : (s.setRegs kvs).side = s.side := setRegs_field (·.side) (fun _ _ _ => rfl) (fun _ _ => rfl) kvs s
@[simp] theorem setRegs_acc (s : State) (kvs : List (Nat × Word)) : (s.setRegs kvs).acc = s.acc := setRegs_field (·.acc) (fun _ _ _ => rfl) (fun _ _ => rfl) kvs s
@[simp] theorem setRegs_bscale (s : State) (kvs : List (Nat × Word)) : (s.setRegs kvs).bscale = s.bscale := setRegs_field (·.bscale) (fun _ _ _ => rfl) (fun _ _ => rfl) kvs s
@[simp] theorem setRegs_bmeta (s : State) (kvs : List (Nat × Word)) : (s.setRegs kvs).bmeta = s.bmeta := setRegs_field (·.bmeta) (fun _ _ _ => rfl) (fun _ _ => rfl) kvs s
@[simp] theorem setRegs_warps (s : State) (kvs : List (Nat × Word)) : (s.setRegs kvs).warps = s.warps := setRegs_field (·.warps) (fun _ _ _ => rfl) (fun _ _ => rfl) kvs s
@[simp] theorem setRegs_blocks (s : State) (kvs : List (Nat × Word)) : (s.setRegs kvs).blocks = s.blocks := setRegs_field (·.blocks) (fun _ _ _ => rfl) (fun _ _ => rfl) kvs s
@[simp] theorem setRegs_gangs (s : State) (kvs : List (Nat × Word)) : (s.setRegs kvs).gangs = s.gangs := setRegs_field (·.gangs) (fun _ _ _ => rfl) (fun _ _ => rfl) kvs s
@[simp] theorem setRegs_launches (s : State) (kvs : List (Nat × Word)) : (s.setRegs kvs).launches = s.launches := setRegs_field (·.launches) (fun _ _ _ => rfl) (fun _ _ => rfl) kvs s
@[simp] theorem setRegs_rafts (s : State) (kvs : List (Nat × Word)) : (s.setRegs kvs).rafts = s.rafts := setRegs_field (·.rafts) (fun _ _ _ => rfl) (fun _ _ => rfl) kvs s
@[simp] theorem setRegs_cores (s : State) (kvs : List (Nat × Word)) : (s.setRegs kvs).cores = s.cores := setRegs_field (·.cores) (fun _ _ _ => rfl) (fun _ _ => rfl) kvs s
@[simp] theorem setRegs_twins (s : State) (kvs : List (Nat × Word)) : (s.setRegs kvs).twins = s.twins := setRegs_field (·.twins) (fun _ _ _ => rfl) (fun _ _ => rfl) kvs s
@[simp] theorem setRegs_clusters (s : State) (kvs : List (Nat × Word)) : (s.setRegs kvs).clusters = s.clusters := setRegs_field (·.clusters) (fun _ _ _ => rfl) (fun _ _ => rfl) kvs s
@[simp] theorem setRegs_dies (s : State) (kvs : List (Nat × Word)) : (s.setRegs kvs).dies = s.dies := setRegs_field (·.dies) (fun _ _ _ => rfl) (fun _ _ => rfl) kvs s
@[simp] theorem setRegs_nmus (s : State) (kvs : List (Nat × Word)) : (s.setRegs kvs).nmus = s.nmus := setRegs_field (·.nmus) (fun _ _ _ => rfl) (fun _ _ => rfl) kvs s
@[simp] theorem setRegs_queues (s : State) (kvs : List (Nat × Word)) : (s.setRegs kvs).queues = s.queues := setRegs_field (·.queues) (fun _ _ _ => rfl) (fun _ _ => rfl) kvs s
@[simp] theorem setRegs_ctxs (s : State) (kvs : List (Nat × Word)) : (s.setRegs kvs).ctxs = s.ctxs := setRegs_field (·.ctxs) (fun _ _ _ => rfl) (fun _ _ => rfl) kvs s
@[simp] theorem setRegs_groups (s : State) (kvs : List (Nat × Word)) : (s.setRegs kvs).groups = s.groups := setRegs_field (·.groups) (fun _ _ _ => rfl) (fun _ _ => rfl) kvs s
@[simp] theorem setRegs_ingress (s : State) (kvs : List (Nat × Word)) : (s.setRegs kvs).ingress = s.ingress := setRegs_field (·.ingress) (fun _ _ _ => rfl) (fun _ _ => rfl) kvs s
@[simp] theorem setRegs_keys (s : State) (kvs : List (Nat × Word)) : (s.setRegs kvs).keys = s.keys := setRegs_field (·.keys) (fun _ _ _ => rfl) (fun _ _ => rfl) kvs s
@[simp] theorem setRegs_flioc (s : State) (kvs : List (Nat × Word)) : (s.setRegs kvs).flioc = s.flioc := setRegs_field (·.flioc) (fun _ _ _ => rfl) (fun _ _ => rfl) kvs s
@[simp] theorem setRegs_raised (s : State) (kvs : List (Nat × Word)) : (s.setRegs kvs).raised = s.raised := setRegs_field (·.raised) (fun _ _ _ => rfl) (fun _ _ => rfl) kvs s
@[simp] theorem setRegs_events (s : State) (kvs : List (Nat × Word)) : (s.setRegs kvs).events = s.events := setRegs_field (·.events) (fun _ _ _ => rfl) (fun _ _ => rfl) kvs s
@[simp] theorem setRegs_box0 (s : State) (kvs : List (Nat × Word)) : (s.setRegs kvs).box0 = s.box0 := setRegs_field (·.box0) (fun _ _ _ => rfl) (fun _ _ => rfl) kvs s
@[simp] theorem setRegs_box1 (s : State) (kvs : List (Nat × Word)) : (s.setRegs kvs).box1 = s.box1 := setRegs_field (·.box1) (fun _ _ _ => rfl) (fun _ _ => rfl) kvs s
@[simp] theorem setRegs_ring (s : State) (kvs : List (Nat × Word)) : (s.setRegs kvs).ring = s.ring := setRegs_field (·.ring) (fun _ _ _ => rfl) (fun _ _ => rfl) kvs s
@[simp] theorem setRegs_plat (s : State) (kvs : List (Nat × Word)) : (s.setRegs kvs).plat = s.plat := setRegs_field (·.plat) (fun _ _ _ => rfl) (fun _ _ => rfl) kvs s
@[simp] theorem setRegs_ports (s : State) (kvs : List (Nat × Word)) : (s.setRegs kvs).ports = s.ports := setRegs_field (·.ports) (fun _ _ _ => rfl) (fun _ _ => rfl) kvs s
@[simp] theorem setRegs_replays (s : State) (kvs : List (Nat × Word)) : (s.setRegs kvs).replays = s.replays := setRegs_field (·.replays) (fun _ _ _ => rfl) (fun _ _ => rfl) kvs s
@[simp] theorem setRegs_hostIn (s : State) (kvs : List (Nat × Word)) : (s.setRegs kvs).hostIn = s.hostIn := setRegs_field (·.hostIn) (fun _ _ _ => rfl) (fun _ _ => rfl) kvs s

@[simp] theorem landDue_turns (s : State) (sp : Split) : (s.landDue sp).turns = s.turns := setRegs_turns s _
@[simp] theorem landDue_cur (s : State) (sp : Split) : (s.landDue sp).cur = s.cur := setRegs_cur s _
@[simp] theorem landDue_free (s : State) (sp : Split) : (s.landDue sp).free = s.free := setRegs_free s _
@[simp] theorem landDue_now (s : State) (sp : Split) : (s.landDue sp).now = s.now := setRegs_now s _
@[simp] theorem landDue_stage (s : State) (sp : Split) : (s.landDue sp).stage = s.stage := setRegs_stage s _
@[simp] theorem landDue_uid (s : State) (sp : Split) : (s.landDue sp).uid = s.uid := setRegs_uid s _
@[simp] theorem landDue_mem (s : State) (sp : Split) : (s.landDue sp).mem = s.mem := setRegs_mem s _
@[simp] theorem landDue_side (s : State) (sp : Split) : (s.landDue sp).side = s.side := setRegs_side s _
@[simp] theorem landDue_acc (s : State) (sp : Split) : (s.landDue sp).acc = s.acc := setRegs_acc s _
@[simp] theorem landDue_bscale (s : State) (sp : Split) : (s.landDue sp).bscale = s.bscale := setRegs_bscale s _
@[simp] theorem landDue_bmeta (s : State) (sp : Split) : (s.landDue sp).bmeta = s.bmeta := setRegs_bmeta s _
@[simp] theorem landDue_warps (s : State) (sp : Split) : (s.landDue sp).warps = s.warps := setRegs_warps s _
@[simp] theorem landDue_blocks (s : State) (sp : Split) : (s.landDue sp).blocks = s.blocks := setRegs_blocks s _
@[simp] theorem landDue_gangs (s : State) (sp : Split) : (s.landDue sp).gangs = s.gangs := setRegs_gangs s _
@[simp] theorem landDue_launches (s : State) (sp : Split) : (s.landDue sp).launches = s.launches := setRegs_launches s _
@[simp] theorem landDue_rafts (s : State) (sp : Split) : (s.landDue sp).rafts = s.rafts := setRegs_rafts s _
@[simp] theorem landDue_cores (s : State) (sp : Split) : (s.landDue sp).cores = s.cores := setRegs_cores s _
@[simp] theorem landDue_twins (s : State) (sp : Split) : (s.landDue sp).twins = s.twins := setRegs_twins s _
@[simp] theorem landDue_clusters (s : State) (sp : Split) : (s.landDue sp).clusters = s.clusters := setRegs_clusters s _
@[simp] theorem landDue_dies (s : State) (sp : Split) : (s.landDue sp).dies = s.dies := setRegs_dies s _
@[simp] theorem landDue_nmus (s : State) (sp : Split) : (s.landDue sp).nmus = s.nmus := setRegs_nmus s _
@[simp] theorem landDue_queues (s : State) (sp : Split) : (s.landDue sp).queues = s.queues := setRegs_queues s _
@[simp] theorem landDue_ctxs (s : State) (sp : Split) : (s.landDue sp).ctxs = s.ctxs := setRegs_ctxs s _
@[simp] theorem landDue_groups (s : State) (sp : Split) : (s.landDue sp).groups = s.groups := setRegs_groups s _
@[simp] theorem landDue_ingress (s : State) (sp : Split) : (s.landDue sp).ingress = s.ingress := setRegs_ingress s _
@[simp] theorem landDue_keys (s : State) (sp : Split) : (s.landDue sp).keys = s.keys := setRegs_keys s _
@[simp] theorem landDue_flioc (s : State) (sp : Split) : (s.landDue sp).flioc = s.flioc := setRegs_flioc s _
@[simp] theorem landDue_raised (s : State) (sp : Split) : (s.landDue sp).raised = s.raised := setRegs_raised s _
@[simp] theorem landDue_events (s : State) (sp : Split) : (s.landDue sp).events = s.events := setRegs_events s _
@[simp] theorem landDue_box0 (s : State) (sp : Split) : (s.landDue sp).box0 = s.box0 := setRegs_box0 s _
@[simp] theorem landDue_box1 (s : State) (sp : Split) : (s.landDue sp).box1 = s.box1 := setRegs_box1 s _
@[simp] theorem landDue_ring (s : State) (sp : Split) : (s.landDue sp).ring = s.ring := setRegs_ring s _
@[simp] theorem landDue_plat (s : State) (sp : Split) : (s.landDue sp).plat = s.plat := setRegs_plat s _
@[simp] theorem landDue_ports (s : State) (sp : Split) : (s.landDue sp).ports = s.ports := setRegs_ports s _
@[simp] theorem landDue_replays (s : State) (sp : Split) : (s.landDue sp).replays = s.replays := setRegs_replays s _
@[simp] theorem landDue_hostIn (s : State) (sp : Split) : (s.landDue sp).hostIn = s.hostIn := setRegs_hostIn s _

/-! ### Special registers written -/

theorem writeSr_field {β : Type} (g : State → β) (h1 : ∀ s k f, g (State.modCtx s k f) = g s) (h2 : ∀ s k f, g (State.modBlock s k f) = g s)
    (h3 : ∀ s k f, g (State.modCore s k f) = g s) (h4 : ∀ s k f, g (State.modWarp s k f) = g s) (s : State) (w : Nat) (sr : SReg) (v : DWord) :
    g (s.writeSr w sr v) = g s := by
  unfold State.writeSr
  split
  · rfl
  · dsimp only
    split <;> first | rfl | exact h1 .. | exact h2 .. | exact h3 .. | exact h4 ..

@[simp] theorem writeSr_turns (s : State) (w : Nat) (sr : SReg) (v : DWord) : (s.writeSr w sr v).turns = s.turns :=
  writeSr_field (·.turns) (fun _ _ _ => rfl) (fun _ _ _ => rfl) (fun _ _ _ => rfl) (fun _ _ _ => rfl) s w sr v
@[simp] theorem writeSr_cur (s : State) (w : Nat) (sr : SReg) (v : DWord) : (s.writeSr w sr v).cur = s.cur :=
  writeSr_field (·.cur) (fun _ _ _ => rfl) (fun _ _ _ => rfl) (fun _ _ _ => rfl) (fun _ _ _ => rfl) s w sr v
@[simp] theorem writeSr_free (s : State) (w : Nat) (sr : SReg) (v : DWord) : (s.writeSr w sr v).free = s.free :=
  writeSr_field (·.free) (fun _ _ _ => rfl) (fun _ _ _ => rfl) (fun _ _ _ => rfl) (fun _ _ _ => rfl) s w sr v
@[simp] theorem writeSr_now (s : State) (w : Nat) (sr : SReg) (v : DWord) : (s.writeSr w sr v).now = s.now :=
  writeSr_field (·.now) (fun _ _ _ => rfl) (fun _ _ _ => rfl) (fun _ _ _ => rfl) (fun _ _ _ => rfl) s w sr v
@[simp] theorem writeSr_stage (s : State) (w : Nat) (sr : SReg) (v : DWord) : (s.writeSr w sr v).stage = s.stage :=
  writeSr_field (·.stage) (fun _ _ _ => rfl) (fun _ _ _ => rfl) (fun _ _ _ => rfl) (fun _ _ _ => rfl) s w sr v
@[simp] theorem writeSr_uid (s : State) (w : Nat) (sr : SReg) (v : DWord) : (s.writeSr w sr v).uid = s.uid :=
  writeSr_field (·.uid) (fun _ _ _ => rfl) (fun _ _ _ => rfl) (fun _ _ _ => rfl) (fun _ _ _ => rfl) s w sr v
@[simp] theorem writeSr_mem (s : State) (w : Nat) (sr : SReg) (v : DWord) : (s.writeSr w sr v).mem = s.mem :=
  writeSr_field (·.mem) (fun _ _ _ => rfl) (fun _ _ _ => rfl) (fun _ _ _ => rfl) (fun _ _ _ => rfl) s w sr v
@[simp] theorem writeSr_side (s : State) (w : Nat) (sr : SReg) (v : DWord) : (s.writeSr w sr v).side = s.side :=
  writeSr_field (·.side) (fun _ _ _ => rfl) (fun _ _ _ => rfl) (fun _ _ _ => rfl) (fun _ _ _ => rfl) s w sr v
@[simp] theorem writeSr_poison (s : State) (w : Nat) (sr : SReg) (v : DWord) : (s.writeSr w sr v).poison = s.poison :=
  writeSr_field (·.poison) (fun _ _ _ => rfl) (fun _ _ _ => rfl) (fun _ _ _ => rfl) (fun _ _ _ => rfl) s w sr v
@[simp] theorem writeSr_regs (s : State) (w : Nat) (sr : SReg) (v : DWord) : (s.writeSr w sr v).regs = s.regs :=
  writeSr_field (·.regs) (fun _ _ _ => rfl) (fun _ _ _ => rfl) (fun _ _ _ => rfl) (fun _ _ _ => rfl) s w sr v
@[simp] theorem writeSr_acc (s : State) (w : Nat) (sr : SReg) (v : DWord) : (s.writeSr w sr v).acc = s.acc :=
  writeSr_field (·.acc) (fun _ _ _ => rfl) (fun _ _ _ => rfl) (fun _ _ _ => rfl) (fun _ _ _ => rfl) s w sr v
@[simp] theorem writeSr_bscale (s : State) (w : Nat) (sr : SReg) (v : DWord) : (s.writeSr w sr v).bscale = s.bscale :=
  writeSr_field (·.bscale) (fun _ _ _ => rfl) (fun _ _ _ => rfl) (fun _ _ _ => rfl) (fun _ _ _ => rfl) s w sr v
@[simp] theorem writeSr_bmeta (s : State) (w : Nat) (sr : SReg) (v : DWord) : (s.writeSr w sr v).bmeta = s.bmeta :=
  writeSr_field (·.bmeta) (fun _ _ _ => rfl) (fun _ _ _ => rfl) (fun _ _ _ => rfl) (fun _ _ _ => rfl) s w sr v
@[simp] theorem writeSr_gangs (s : State) (w : Nat) (sr : SReg) (v : DWord) : (s.writeSr w sr v).gangs = s.gangs :=
  writeSr_field (·.gangs) (fun _ _ _ => rfl) (fun _ _ _ => rfl) (fun _ _ _ => rfl) (fun _ _ _ => rfl) s w sr v
@[simp] theorem writeSr_launches (s : State) (w : Nat) (sr : SReg) (v : DWord) : (s.writeSr w sr v).launches = s.launches :=
  writeSr_field (·.launches) (fun _ _ _ => rfl) (fun _ _ _ => rfl) (fun _ _ _ => rfl) (fun _ _ _ => rfl) s w sr v
@[simp] theorem writeSr_rafts (s : State) (w : Nat) (sr : SReg) (v : DWord) : (s.writeSr w sr v).rafts = s.rafts :=
  writeSr_field (·.rafts) (fun _ _ _ => rfl) (fun _ _ _ => rfl) (fun _ _ _ => rfl) (fun _ _ _ => rfl) s w sr v
@[simp] theorem writeSr_twins (s : State) (w : Nat) (sr : SReg) (v : DWord) : (s.writeSr w sr v).twins = s.twins :=
  writeSr_field (·.twins) (fun _ _ _ => rfl) (fun _ _ _ => rfl) (fun _ _ _ => rfl) (fun _ _ _ => rfl) s w sr v
@[simp] theorem writeSr_clusters (s : State) (w : Nat) (sr : SReg) (v : DWord) : (s.writeSr w sr v).clusters = s.clusters :=
  writeSr_field (·.clusters) (fun _ _ _ => rfl) (fun _ _ _ => rfl) (fun _ _ _ => rfl) (fun _ _ _ => rfl) s w sr v
@[simp] theorem writeSr_dies (s : State) (w : Nat) (sr : SReg) (v : DWord) : (s.writeSr w sr v).dies = s.dies :=
  writeSr_field (·.dies) (fun _ _ _ => rfl) (fun _ _ _ => rfl) (fun _ _ _ => rfl) (fun _ _ _ => rfl) s w sr v
@[simp] theorem writeSr_nmus (s : State) (w : Nat) (sr : SReg) (v : DWord) : (s.writeSr w sr v).nmus = s.nmus :=
  writeSr_field (·.nmus) (fun _ _ _ => rfl) (fun _ _ _ => rfl) (fun _ _ _ => rfl) (fun _ _ _ => rfl) s w sr v
@[simp] theorem writeSr_queues (s : State) (w : Nat) (sr : SReg) (v : DWord) : (s.writeSr w sr v).queues = s.queues :=
  writeSr_field (·.queues) (fun _ _ _ => rfl) (fun _ _ _ => rfl) (fun _ _ _ => rfl) (fun _ _ _ => rfl) s w sr v
@[simp] theorem writeSr_groups (s : State) (w : Nat) (sr : SReg) (v : DWord) : (s.writeSr w sr v).groups = s.groups :=
  writeSr_field (·.groups) (fun _ _ _ => rfl) (fun _ _ _ => rfl) (fun _ _ _ => rfl) (fun _ _ _ => rfl) s w sr v
@[simp] theorem writeSr_ingress (s : State) (w : Nat) (sr : SReg) (v : DWord) : (s.writeSr w sr v).ingress = s.ingress :=
  writeSr_field (·.ingress) (fun _ _ _ => rfl) (fun _ _ _ => rfl) (fun _ _ _ => rfl) (fun _ _ _ => rfl) s w sr v
@[simp] theorem writeSr_keys (s : State) (w : Nat) (sr : SReg) (v : DWord) : (s.writeSr w sr v).keys = s.keys :=
  writeSr_field (·.keys) (fun _ _ _ => rfl) (fun _ _ _ => rfl) (fun _ _ _ => rfl) (fun _ _ _ => rfl) s w sr v
@[simp] theorem writeSr_flioc (s : State) (w : Nat) (sr : SReg) (v : DWord) : (s.writeSr w sr v).flioc = s.flioc :=
  writeSr_field (·.flioc) (fun _ _ _ => rfl) (fun _ _ _ => rfl) (fun _ _ _ => rfl) (fun _ _ _ => rfl) s w sr v
@[simp] theorem writeSr_raised (s : State) (w : Nat) (sr : SReg) (v : DWord) : (s.writeSr w sr v).raised = s.raised :=
  writeSr_field (·.raised) (fun _ _ _ => rfl) (fun _ _ _ => rfl) (fun _ _ _ => rfl) (fun _ _ _ => rfl) s w sr v
@[simp] theorem writeSr_events (s : State) (w : Nat) (sr : SReg) (v : DWord) : (s.writeSr w sr v).events = s.events :=
  writeSr_field (·.events) (fun _ _ _ => rfl) (fun _ _ _ => rfl) (fun _ _ _ => rfl) (fun _ _ _ => rfl) s w sr v
@[simp] theorem writeSr_box0 (s : State) (w : Nat) (sr : SReg) (v : DWord) : (s.writeSr w sr v).box0 = s.box0 :=
  writeSr_field (·.box0) (fun _ _ _ => rfl) (fun _ _ _ => rfl) (fun _ _ _ => rfl) (fun _ _ _ => rfl) s w sr v
@[simp] theorem writeSr_box1 (s : State) (w : Nat) (sr : SReg) (v : DWord) : (s.writeSr w sr v).box1 = s.box1 :=
  writeSr_field (·.box1) (fun _ _ _ => rfl) (fun _ _ _ => rfl) (fun _ _ _ => rfl) (fun _ _ _ => rfl) s w sr v
@[simp] theorem writeSr_ring (s : State) (w : Nat) (sr : SReg) (v : DWord) : (s.writeSr w sr v).ring = s.ring :=
  writeSr_field (·.ring) (fun _ _ _ => rfl) (fun _ _ _ => rfl) (fun _ _ _ => rfl) (fun _ _ _ => rfl) s w sr v
@[simp] theorem writeSr_plat (s : State) (w : Nat) (sr : SReg) (v : DWord) : (s.writeSr w sr v).plat = s.plat :=
  writeSr_field (·.plat) (fun _ _ _ => rfl) (fun _ _ _ => rfl) (fun _ _ _ => rfl) (fun _ _ _ => rfl) s w sr v
@[simp] theorem writeSr_ports (s : State) (w : Nat) (sr : SReg) (v : DWord) : (s.writeSr w sr v).ports = s.ports :=
  writeSr_field (·.ports) (fun _ _ _ => rfl) (fun _ _ _ => rfl) (fun _ _ _ => rfl) (fun _ _ _ => rfl) s w sr v
@[simp] theorem writeSr_replays (s : State) (w : Nat) (sr : SReg) (v : DWord) : (s.writeSr w sr v).replays = s.replays :=
  writeSr_field (·.replays) (fun _ _ _ => rfl) (fun _ _ _ => rfl) (fun _ _ _ => rfl) (fun _ _ _ => rfl) s w sr v
@[simp] theorem writeSr_hostIn (s : State) (w : Nat) (sr : SReg) (v : DWord) : (s.writeSr w sr v).hostIn = s.hostIn :=
  writeSr_field (·.hostIn) (fun _ _ _ => rfl) (fun _ _ _ => rfl) (fun _ _ _ => rfl) (fun _ _ _ => rfl) s w sr v

theorem foldl_writeSr_field {β : Type} (g : State → β) (w : Nat) (hg : ∀ s sr v, g (State.writeSr s w sr v) = g s) (l : List SPend) (s : State) :
    g (l.foldl (fun s p => s.writeSr w p.sr p.val) s) = g s := by
  induction l generalizing s with
  | nil => rfl
  | cons p r ih => rw [List.foldl_cons, ih, hg]

@[simp] theorem landSets_turns (s : State) (w : Nat) (sp : Split) : (s.landSets w sp).turns = s.turns := by
  unfold State.landSets; dsimp only; split
  · rfl
  · exact foldl_writeSr_field (·.turns) w (fun s sr v => writeSr_turns s w sr v) _ s
@[simp] theorem landSets_cur (s : State) (w : Nat) (sp : Split) : (s.landSets w sp).cur = s.cur := by
  unfold State.landSets; dsimp only; split
  · rfl
  · exact foldl_writeSr_field (·.cur) w (fun s sr v => writeSr_cur s w sr v) _ s
@[simp] theorem landSets_free (s : State) (w : Nat) (sp : Split) : (s.landSets w sp).free = s.free := by
  unfold State.landSets; dsimp only; split
  · rfl
  · exact foldl_writeSr_field (·.free) w (fun s sr v => writeSr_free s w sr v) _ s
@[simp] theorem landSets_now (s : State) (w : Nat) (sp : Split) : (s.landSets w sp).now = s.now := by
  unfold State.landSets; dsimp only; split
  · rfl
  · exact foldl_writeSr_field (·.now) w (fun s sr v => writeSr_now s w sr v) _ s
@[simp] theorem landSets_stage (s : State) (w : Nat) (sp : Split) : (s.landSets w sp).stage = s.stage := by
  unfold State.landSets; dsimp only; split
  · rfl
  · exact foldl_writeSr_field (·.stage) w (fun s sr v => writeSr_stage s w sr v) _ s
@[simp] theorem landSets_uid (s : State) (w : Nat) (sp : Split) : (s.landSets w sp).uid = s.uid := by
  unfold State.landSets; dsimp only; split
  · rfl
  · exact foldl_writeSr_field (·.uid) w (fun s sr v => writeSr_uid s w sr v) _ s
@[simp] theorem landSets_mem (s : State) (w : Nat) (sp : Split) : (s.landSets w sp).mem = s.mem := by
  unfold State.landSets; dsimp only; split
  · rfl
  · exact foldl_writeSr_field (·.mem) w (fun s sr v => writeSr_mem s w sr v) _ s
@[simp] theorem landSets_side (s : State) (w : Nat) (sp : Split) : (s.landSets w sp).side = s.side := by
  unfold State.landSets; dsimp only; split
  · rfl
  · exact foldl_writeSr_field (·.side) w (fun s sr v => writeSr_side s w sr v) _ s
@[simp] theorem landSets_poison (s : State) (w : Nat) (sp : Split) : (s.landSets w sp).poison = s.poison := by
  unfold State.landSets; dsimp only; split
  · rfl
  · exact foldl_writeSr_field (·.poison) w (fun s sr v => writeSr_poison s w sr v) _ s
@[simp] theorem landSets_regs (s : State) (w : Nat) (sp : Split) : (s.landSets w sp).regs = s.regs := by
  unfold State.landSets; dsimp only; split
  · rfl
  · exact foldl_writeSr_field (·.regs) w (fun s sr v => writeSr_regs s w sr v) _ s
@[simp] theorem landSets_acc (s : State) (w : Nat) (sp : Split) : (s.landSets w sp).acc = s.acc := by
  unfold State.landSets; dsimp only; split
  · rfl
  · exact foldl_writeSr_field (·.acc) w (fun s sr v => writeSr_acc s w sr v) _ s
@[simp] theorem landSets_bscale (s : State) (w : Nat) (sp : Split) : (s.landSets w sp).bscale = s.bscale := by
  unfold State.landSets; dsimp only; split
  · rfl
  · exact foldl_writeSr_field (·.bscale) w (fun s sr v => writeSr_bscale s w sr v) _ s
@[simp] theorem landSets_bmeta (s : State) (w : Nat) (sp : Split) : (s.landSets w sp).bmeta = s.bmeta := by
  unfold State.landSets; dsimp only; split
  · rfl
  · exact foldl_writeSr_field (·.bmeta) w (fun s sr v => writeSr_bmeta s w sr v) _ s
@[simp] theorem landSets_gangs (s : State) (w : Nat) (sp : Split) : (s.landSets w sp).gangs = s.gangs := by
  unfold State.landSets; dsimp only; split
  · rfl
  · exact foldl_writeSr_field (·.gangs) w (fun s sr v => writeSr_gangs s w sr v) _ s
@[simp] theorem landSets_launches (s : State) (w : Nat) (sp : Split) : (s.landSets w sp).launches = s.launches := by
  unfold State.landSets; dsimp only; split
  · rfl
  · exact foldl_writeSr_field (·.launches) w (fun s sr v => writeSr_launches s w sr v) _ s
@[simp] theorem landSets_rafts (s : State) (w : Nat) (sp : Split) : (s.landSets w sp).rafts = s.rafts := by
  unfold State.landSets; dsimp only; split
  · rfl
  · exact foldl_writeSr_field (·.rafts) w (fun s sr v => writeSr_rafts s w sr v) _ s
@[simp] theorem landSets_twins (s : State) (w : Nat) (sp : Split) : (s.landSets w sp).twins = s.twins := by
  unfold State.landSets; dsimp only; split
  · rfl
  · exact foldl_writeSr_field (·.twins) w (fun s sr v => writeSr_twins s w sr v) _ s
@[simp] theorem landSets_clusters (s : State) (w : Nat) (sp : Split) : (s.landSets w sp).clusters = s.clusters := by
  unfold State.landSets; dsimp only; split
  · rfl
  · exact foldl_writeSr_field (·.clusters) w (fun s sr v => writeSr_clusters s w sr v) _ s
@[simp] theorem landSets_dies (s : State) (w : Nat) (sp : Split) : (s.landSets w sp).dies = s.dies := by
  unfold State.landSets; dsimp only; split
  · rfl
  · exact foldl_writeSr_field (·.dies) w (fun s sr v => writeSr_dies s w sr v) _ s
@[simp] theorem landSets_nmus (s : State) (w : Nat) (sp : Split) : (s.landSets w sp).nmus = s.nmus := by
  unfold State.landSets; dsimp only; split
  · rfl
  · exact foldl_writeSr_field (·.nmus) w (fun s sr v => writeSr_nmus s w sr v) _ s
@[simp] theorem landSets_queues (s : State) (w : Nat) (sp : Split) : (s.landSets w sp).queues = s.queues := by
  unfold State.landSets; dsimp only; split
  · rfl
  · exact foldl_writeSr_field (·.queues) w (fun s sr v => writeSr_queues s w sr v) _ s
@[simp] theorem landSets_groups (s : State) (w : Nat) (sp : Split) : (s.landSets w sp).groups = s.groups := by
  unfold State.landSets; dsimp only; split
  · rfl
  · exact foldl_writeSr_field (·.groups) w (fun s sr v => writeSr_groups s w sr v) _ s
@[simp] theorem landSets_ingress (s : State) (w : Nat) (sp : Split) : (s.landSets w sp).ingress = s.ingress := by
  unfold State.landSets; dsimp only; split
  · rfl
  · exact foldl_writeSr_field (·.ingress) w (fun s sr v => writeSr_ingress s w sr v) _ s
@[simp] theorem landSets_keys (s : State) (w : Nat) (sp : Split) : (s.landSets w sp).keys = s.keys := by
  unfold State.landSets; dsimp only; split
  · rfl
  · exact foldl_writeSr_field (·.keys) w (fun s sr v => writeSr_keys s w sr v) _ s
@[simp] theorem landSets_flioc (s : State) (w : Nat) (sp : Split) : (s.landSets w sp).flioc = s.flioc := by
  unfold State.landSets; dsimp only; split
  · rfl
  · exact foldl_writeSr_field (·.flioc) w (fun s sr v => writeSr_flioc s w sr v) _ s
@[simp] theorem landSets_raised (s : State) (w : Nat) (sp : Split) : (s.landSets w sp).raised = s.raised := by
  unfold State.landSets; dsimp only; split
  · rfl
  · exact foldl_writeSr_field (·.raised) w (fun s sr v => writeSr_raised s w sr v) _ s
@[simp] theorem landSets_events (s : State) (w : Nat) (sp : Split) : (s.landSets w sp).events = s.events := by
  unfold State.landSets; dsimp only; split
  · rfl
  · exact foldl_writeSr_field (·.events) w (fun s sr v => writeSr_events s w sr v) _ s
@[simp] theorem landSets_box0 (s : State) (w : Nat) (sp : Split) : (s.landSets w sp).box0 = s.box0 := by
  unfold State.landSets; dsimp only; split
  · rfl
  · exact foldl_writeSr_field (·.box0) w (fun s sr v => writeSr_box0 s w sr v) _ s
@[simp] theorem landSets_box1 (s : State) (w : Nat) (sp : Split) : (s.landSets w sp).box1 = s.box1 := by
  unfold State.landSets; dsimp only; split
  · rfl
  · exact foldl_writeSr_field (·.box1) w (fun s sr v => writeSr_box1 s w sr v) _ s
@[simp] theorem landSets_ring (s : State) (w : Nat) (sp : Split) : (s.landSets w sp).ring = s.ring := by
  unfold State.landSets; dsimp only; split
  · rfl
  · exact foldl_writeSr_field (·.ring) w (fun s sr v => writeSr_ring s w sr v) _ s
@[simp] theorem landSets_plat (s : State) (w : Nat) (sp : Split) : (s.landSets w sp).plat = s.plat := by
  unfold State.landSets; dsimp only; split
  · rfl
  · exact foldl_writeSr_field (·.plat) w (fun s sr v => writeSr_plat s w sr v) _ s
@[simp] theorem landSets_ports (s : State) (w : Nat) (sp : Split) : (s.landSets w sp).ports = s.ports := by
  unfold State.landSets; dsimp only; split
  · rfl
  · exact foldl_writeSr_field (·.ports) w (fun s sr v => writeSr_ports s w sr v) _ s
@[simp] theorem landSets_replays (s : State) (w : Nat) (sp : Split) : (s.landSets w sp).replays = s.replays := by
  unfold State.landSets; dsimp only; split
  · rfl
  · exact foldl_writeSr_field (·.replays) w (fun s sr v => writeSr_replays s w sr v) _ s
@[simp] theorem landSets_hostIn (s : State) (w : Nat) (sp : Split) : (s.landSets w sp).hostIn = s.hostIn := by
  unfold State.landSets; dsimp only; split
  · rfl
  · exact foldl_writeSr_field (·.hostIn) w (fun s sr v => writeSr_hostIn s w sr v) _ s

theorem foldl_splits_field {β : Type} (g : State → β) (w : Nat) (hg : ∀ s sr v, g (State.writeSr s w sr v) = g s) (sps : List Split) (s : State) :
    g (sps.foldl (fun s sp => sp.spend.foldl (fun s p => s.writeSr w p.sr p.val) s) s) = g s := by
  induction sps generalizing s with
  | nil => rfl
  | cons p r ih => rw [List.foldl_cons, ih, foldl_writeSr_field g w hg]

@[simp] theorem landSides_turns (s : State) (w : Nat) (q : Split → Bool) : (s.landSides w q).turns = s.turns := by
  unfold State.landSides; split
  · rfl
  · exact (foldl_splits_field (·.turns) w (fun s sr v => writeSr_turns s w sr v) _ _).trans (setRegs_turns s _)
@[simp] theorem landSides_cur (s : State) (w : Nat) (q : Split → Bool) : (s.landSides w q).cur = s.cur := by
  unfold State.landSides; split
  · rfl
  · exact (foldl_splits_field (·.cur) w (fun s sr v => writeSr_cur s w sr v) _ _).trans (setRegs_cur s _)
@[simp] theorem landSides_free (s : State) (w : Nat) (q : Split → Bool) : (s.landSides w q).free = s.free := by
  unfold State.landSides; split
  · rfl
  · exact (foldl_splits_field (·.free) w (fun s sr v => writeSr_free s w sr v) _ _).trans (setRegs_free s _)
@[simp] theorem landSides_now (s : State) (w : Nat) (q : Split → Bool) : (s.landSides w q).now = s.now := by
  unfold State.landSides; split
  · rfl
  · exact (foldl_splits_field (·.now) w (fun s sr v => writeSr_now s w sr v) _ _).trans (setRegs_now s _)
@[simp] theorem landSides_stage (s : State) (w : Nat) (q : Split → Bool) : (s.landSides w q).stage = s.stage := by
  unfold State.landSides; split
  · rfl
  · exact (foldl_splits_field (·.stage) w (fun s sr v => writeSr_stage s w sr v) _ _).trans (setRegs_stage s _)
@[simp] theorem landSides_uid (s : State) (w : Nat) (q : Split → Bool) : (s.landSides w q).uid = s.uid := by
  unfold State.landSides; split
  · rfl
  · exact (foldl_splits_field (·.uid) w (fun s sr v => writeSr_uid s w sr v) _ _).trans (setRegs_uid s _)
@[simp] theorem landSides_mem (s : State) (w : Nat) (q : Split → Bool) : (s.landSides w q).mem = s.mem := by
  unfold State.landSides; split
  · rfl
  · exact (foldl_splits_field (·.mem) w (fun s sr v => writeSr_mem s w sr v) _ _).trans (setRegs_mem s _)
@[simp] theorem landSides_side (s : State) (w : Nat) (q : Split → Bool) : (s.landSides w q).side = s.side := by
  unfold State.landSides; split
  · rfl
  · exact (foldl_splits_field (·.side) w (fun s sr v => writeSr_side s w sr v) _ _).trans (setRegs_side s _)
@[simp] theorem landSides_acc (s : State) (w : Nat) (q : Split → Bool) : (s.landSides w q).acc = s.acc := by
  unfold State.landSides; split
  · rfl
  · exact (foldl_splits_field (·.acc) w (fun s sr v => writeSr_acc s w sr v) _ _).trans (setRegs_acc s _)
@[simp] theorem landSides_bscale (s : State) (w : Nat) (q : Split → Bool) : (s.landSides w q).bscale = s.bscale := by
  unfold State.landSides; split
  · rfl
  · exact (foldl_splits_field (·.bscale) w (fun s sr v => writeSr_bscale s w sr v) _ _).trans (setRegs_bscale s _)
@[simp] theorem landSides_bmeta (s : State) (w : Nat) (q : Split → Bool) : (s.landSides w q).bmeta = s.bmeta := by
  unfold State.landSides; split
  · rfl
  · exact (foldl_splits_field (·.bmeta) w (fun s sr v => writeSr_bmeta s w sr v) _ _).trans (setRegs_bmeta s _)
@[simp] theorem landSides_gangs (s : State) (w : Nat) (q : Split → Bool) : (s.landSides w q).gangs = s.gangs := by
  unfold State.landSides; split
  · rfl
  · exact (foldl_splits_field (·.gangs) w (fun s sr v => writeSr_gangs s w sr v) _ _).trans (setRegs_gangs s _)
@[simp] theorem landSides_launches (s : State) (w : Nat) (q : Split → Bool) : (s.landSides w q).launches = s.launches := by
  unfold State.landSides; split
  · rfl
  · exact (foldl_splits_field (·.launches) w (fun s sr v => writeSr_launches s w sr v) _ _).trans (setRegs_launches s _)
@[simp] theorem landSides_rafts (s : State) (w : Nat) (q : Split → Bool) : (s.landSides w q).rafts = s.rafts := by
  unfold State.landSides; split
  · rfl
  · exact (foldl_splits_field (·.rafts) w (fun s sr v => writeSr_rafts s w sr v) _ _).trans (setRegs_rafts s _)
@[simp] theorem landSides_twins (s : State) (w : Nat) (q : Split → Bool) : (s.landSides w q).twins = s.twins := by
  unfold State.landSides; split
  · rfl
  · exact (foldl_splits_field (·.twins) w (fun s sr v => writeSr_twins s w sr v) _ _).trans (setRegs_twins s _)
@[simp] theorem landSides_clusters (s : State) (w : Nat) (q : Split → Bool) : (s.landSides w q).clusters = s.clusters := by
  unfold State.landSides; split
  · rfl
  · exact (foldl_splits_field (·.clusters) w (fun s sr v => writeSr_clusters s w sr v) _ _).trans (setRegs_clusters s _)
@[simp] theorem landSides_dies (s : State) (w : Nat) (q : Split → Bool) : (s.landSides w q).dies = s.dies := by
  unfold State.landSides; split
  · rfl
  · exact (foldl_splits_field (·.dies) w (fun s sr v => writeSr_dies s w sr v) _ _).trans (setRegs_dies s _)
@[simp] theorem landSides_nmus (s : State) (w : Nat) (q : Split → Bool) : (s.landSides w q).nmus = s.nmus := by
  unfold State.landSides; split
  · rfl
  · exact (foldl_splits_field (·.nmus) w (fun s sr v => writeSr_nmus s w sr v) _ _).trans (setRegs_nmus s _)
@[simp] theorem landSides_queues (s : State) (w : Nat) (q : Split → Bool) : (s.landSides w q).queues = s.queues := by
  unfold State.landSides; split
  · rfl
  · exact (foldl_splits_field (·.queues) w (fun s sr v => writeSr_queues s w sr v) _ _).trans (setRegs_queues s _)
@[simp] theorem landSides_groups (s : State) (w : Nat) (q : Split → Bool) : (s.landSides w q).groups = s.groups := by
  unfold State.landSides; split
  · rfl
  · exact (foldl_splits_field (·.groups) w (fun s sr v => writeSr_groups s w sr v) _ _).trans (setRegs_groups s _)
@[simp] theorem landSides_ingress (s : State) (w : Nat) (q : Split → Bool) : (s.landSides w q).ingress = s.ingress := by
  unfold State.landSides; split
  · rfl
  · exact (foldl_splits_field (·.ingress) w (fun s sr v => writeSr_ingress s w sr v) _ _).trans (setRegs_ingress s _)
@[simp] theorem landSides_keys (s : State) (w : Nat) (q : Split → Bool) : (s.landSides w q).keys = s.keys := by
  unfold State.landSides; split
  · rfl
  · exact (foldl_splits_field (·.keys) w (fun s sr v => writeSr_keys s w sr v) _ _).trans (setRegs_keys s _)
@[simp] theorem landSides_flioc (s : State) (w : Nat) (q : Split → Bool) : (s.landSides w q).flioc = s.flioc := by
  unfold State.landSides; split
  · rfl
  · exact (foldl_splits_field (·.flioc) w (fun s sr v => writeSr_flioc s w sr v) _ _).trans (setRegs_flioc s _)
@[simp] theorem landSides_raised (s : State) (w : Nat) (q : Split → Bool) : (s.landSides w q).raised = s.raised := by
  unfold State.landSides; split
  · rfl
  · exact (foldl_splits_field (·.raised) w (fun s sr v => writeSr_raised s w sr v) _ _).trans (setRegs_raised s _)
@[simp] theorem landSides_events (s : State) (w : Nat) (q : Split → Bool) : (s.landSides w q).events = s.events := by
  unfold State.landSides; split
  · rfl
  · exact (foldl_splits_field (·.events) w (fun s sr v => writeSr_events s w sr v) _ _).trans (setRegs_events s _)
@[simp] theorem landSides_box0 (s : State) (w : Nat) (q : Split → Bool) : (s.landSides w q).box0 = s.box0 := by
  unfold State.landSides; split
  · rfl
  · exact (foldl_splits_field (·.box0) w (fun s sr v => writeSr_box0 s w sr v) _ _).trans (setRegs_box0 s _)
@[simp] theorem landSides_box1 (s : State) (w : Nat) (q : Split → Bool) : (s.landSides w q).box1 = s.box1 := by
  unfold State.landSides; split
  · rfl
  · exact (foldl_splits_field (·.box1) w (fun s sr v => writeSr_box1 s w sr v) _ _).trans (setRegs_box1 s _)
@[simp] theorem landSides_ring (s : State) (w : Nat) (q : Split → Bool) : (s.landSides w q).ring = s.ring := by
  unfold State.landSides; split
  · rfl
  · exact (foldl_splits_field (·.ring) w (fun s sr v => writeSr_ring s w sr v) _ _).trans (setRegs_ring s _)
@[simp] theorem landSides_plat (s : State) (w : Nat) (q : Split → Bool) : (s.landSides w q).plat = s.plat := by
  unfold State.landSides; split
  · rfl
  · exact (foldl_splits_field (·.plat) w (fun s sr v => writeSr_plat s w sr v) _ _).trans (setRegs_plat s _)
@[simp] theorem landSides_ports (s : State) (w : Nat) (q : Split → Bool) : (s.landSides w q).ports = s.ports := by
  unfold State.landSides; split
  · rfl
  · exact (foldl_splits_field (·.ports) w (fun s sr v => writeSr_ports s w sr v) _ _).trans (setRegs_ports s _)
@[simp] theorem landSides_replays (s : State) (w : Nat) (q : Split → Bool) : (s.landSides w q).replays = s.replays := by
  unfold State.landSides; split
  · rfl
  · exact (foldl_splits_field (·.replays) w (fun s sr v => writeSr_replays s w sr v) _ _).trans (setRegs_replays s _)
@[simp] theorem landSides_hostIn (s : State) (w : Nat) (q : Split → Bool) : (s.landSides w q).hostIn = s.hostIn := by
  unfold State.landSides; split
  · rfl
  · exact (foldl_splits_field (·.hostIn) w (fun s sr v => writeSr_hostIn s w sr v) _ _).trans (setRegs_hostIn s _)

/-! ### Taking a trap -/

@[simp] theorem enterHandler_turns (s : State) (w : Nat) (tv : DWord) (x : Trap) (k : Nat) : (enterHandler s w tv x k).turns = s.turns := by
  unfold enterHandler; dsimp only; split
  · exact landSides_turns s w _
  · split
    · exact landSides_turns s w _
    · exact landSides_turns s w _
@[simp] theorem enterHandler_cur (s : State) (w : Nat) (tv : DWord) (x : Trap) (k : Nat) : (enterHandler s w tv x k).cur = s.cur := by
  unfold enterHandler; dsimp only; split
  · exact landSides_cur s w _
  · split
    · exact landSides_cur s w _
    · exact landSides_cur s w _
@[simp] theorem enterHandler_free (s : State) (w : Nat) (tv : DWord) (x : Trap) (k : Nat) : (enterHandler s w tv x k).free = s.free := by
  unfold enterHandler; dsimp only; split
  · exact landSides_free s w _
  · split
    · exact landSides_free s w _
    · exact landSides_free s w _
@[simp] theorem enterHandler_now (s : State) (w : Nat) (tv : DWord) (x : Trap) (k : Nat) : (enterHandler s w tv x k).now = s.now := by
  unfold enterHandler; dsimp only; split
  · exact landSides_now s w _
  · split
    · exact landSides_now s w _
    · exact landSides_now s w _
@[simp] theorem enterHandler_stage (s : State) (w : Nat) (tv : DWord) (x : Trap) (k : Nat) : (enterHandler s w tv x k).stage = s.stage := by
  unfold enterHandler; dsimp only; split
  · exact landSides_stage s w _
  · split
    · exact landSides_stage s w _
    · exact landSides_stage s w _
@[simp] theorem enterHandler_uid (s : State) (w : Nat) (tv : DWord) (x : Trap) (k : Nat) : (enterHandler s w tv x k).uid = s.uid := by
  unfold enterHandler; dsimp only; split
  · exact landSides_uid s w _
  · split
    · exact landSides_uid s w _
    · exact landSides_uid s w _
@[simp] theorem enterHandler_mem (s : State) (w : Nat) (tv : DWord) (x : Trap) (k : Nat) : (enterHandler s w tv x k).mem = s.mem := by
  unfold enterHandler; dsimp only; split
  · exact landSides_mem s w _
  · split
    · exact landSides_mem s w _
    · exact landSides_mem s w _
@[simp] theorem enterHandler_side (s : State) (w : Nat) (tv : DWord) (x : Trap) (k : Nat) : (enterHandler s w tv x k).side = s.side := by
  unfold enterHandler; dsimp only; split
  · exact landSides_side s w _
  · split
    · exact landSides_side s w _
    · exact landSides_side s w _
@[simp] theorem enterHandler_acc (s : State) (w : Nat) (tv : DWord) (x : Trap) (k : Nat) : (enterHandler s w tv x k).acc = s.acc := by
  unfold enterHandler; dsimp only; split
  · exact landSides_acc s w _
  · split
    · exact landSides_acc s w _
    · exact landSides_acc s w _
@[simp] theorem enterHandler_bscale (s : State) (w : Nat) (tv : DWord) (x : Trap) (k : Nat) : (enterHandler s w tv x k).bscale = s.bscale := by
  unfold enterHandler; dsimp only; split
  · exact landSides_bscale s w _
  · split
    · exact landSides_bscale s w _
    · exact landSides_bscale s w _
@[simp] theorem enterHandler_bmeta (s : State) (w : Nat) (tv : DWord) (x : Trap) (k : Nat) : (enterHandler s w tv x k).bmeta = s.bmeta := by
  unfold enterHandler; dsimp only; split
  · exact landSides_bmeta s w _
  · split
    · exact landSides_bmeta s w _
    · exact landSides_bmeta s w _
@[simp] theorem enterHandler_gangs (s : State) (w : Nat) (tv : DWord) (x : Trap) (k : Nat) : (enterHandler s w tv x k).gangs = s.gangs := by
  unfold enterHandler; dsimp only; split
  · exact landSides_gangs s w _
  · split
    · exact landSides_gangs s w _
    · exact landSides_gangs s w _
@[simp] theorem enterHandler_launches (s : State) (w : Nat) (tv : DWord) (x : Trap) (k : Nat) : (enterHandler s w tv x k).launches = s.launches := by
  unfold enterHandler; dsimp only; split
  · exact landSides_launches s w _
  · split
    · exact landSides_launches s w _
    · exact landSides_launches s w _
@[simp] theorem enterHandler_rafts (s : State) (w : Nat) (tv : DWord) (x : Trap) (k : Nat) : (enterHandler s w tv x k).rafts = s.rafts := by
  unfold enterHandler; dsimp only; split
  · exact landSides_rafts s w _
  · split
    · exact landSides_rafts s w _
    · exact landSides_rafts s w _
@[simp] theorem enterHandler_twins (s : State) (w : Nat) (tv : DWord) (x : Trap) (k : Nat) : (enterHandler s w tv x k).twins = s.twins := by
  unfold enterHandler; dsimp only; split
  · exact landSides_twins s w _
  · split
    · exact landSides_twins s w _
    · exact landSides_twins s w _
@[simp] theorem enterHandler_clusters (s : State) (w : Nat) (tv : DWord) (x : Trap) (k : Nat) : (enterHandler s w tv x k).clusters = s.clusters := by
  unfold enterHandler; dsimp only; split
  · exact landSides_clusters s w _
  · split
    · exact landSides_clusters s w _
    · exact landSides_clusters s w _
@[simp] theorem enterHandler_dies (s : State) (w : Nat) (tv : DWord) (x : Trap) (k : Nat) : (enterHandler s w tv x k).dies = s.dies := by
  unfold enterHandler; dsimp only; split
  · exact landSides_dies s w _
  · split
    · exact landSides_dies s w _
    · exact landSides_dies s w _
@[simp] theorem enterHandler_nmus (s : State) (w : Nat) (tv : DWord) (x : Trap) (k : Nat) : (enterHandler s w tv x k).nmus = s.nmus := by
  unfold enterHandler; dsimp only; split
  · exact landSides_nmus s w _
  · split
    · exact landSides_nmus s w _
    · exact landSides_nmus s w _
@[simp] theorem enterHandler_queues (s : State) (w : Nat) (tv : DWord) (x : Trap) (k : Nat) : (enterHandler s w tv x k).queues = s.queues := by
  unfold enterHandler; dsimp only; split
  · exact landSides_queues s w _
  · split
    · exact landSides_queues s w _
    · exact landSides_queues s w _
@[simp] theorem enterHandler_groups (s : State) (w : Nat) (tv : DWord) (x : Trap) (k : Nat) : (enterHandler s w tv x k).groups = s.groups := by
  unfold enterHandler; dsimp only; split
  · exact landSides_groups s w _
  · split
    · exact landSides_groups s w _
    · exact landSides_groups s w _
@[simp] theorem enterHandler_ingress (s : State) (w : Nat) (tv : DWord) (x : Trap) (k : Nat) : (enterHandler s w tv x k).ingress = s.ingress := by
  unfold enterHandler; dsimp only; split
  · exact landSides_ingress s w _
  · split
    · exact landSides_ingress s w _
    · exact landSides_ingress s w _
@[simp] theorem enterHandler_keys (s : State) (w : Nat) (tv : DWord) (x : Trap) (k : Nat) : (enterHandler s w tv x k).keys = s.keys := by
  unfold enterHandler; dsimp only; split
  · exact landSides_keys s w _
  · split
    · exact landSides_keys s w _
    · exact landSides_keys s w _
@[simp] theorem enterHandler_flioc (s : State) (w : Nat) (tv : DWord) (x : Trap) (k : Nat) : (enterHandler s w tv x k).flioc = s.flioc := by
  unfold enterHandler; dsimp only; split
  · exact landSides_flioc s w _
  · split
    · exact landSides_flioc s w _
    · exact landSides_flioc s w _
@[simp] theorem enterHandler_raised (s : State) (w : Nat) (tv : DWord) (x : Trap) (k : Nat) : (enterHandler s w tv x k).raised = s.raised := by
  unfold enterHandler; dsimp only; split
  · exact landSides_raised s w _
  · split
    · exact landSides_raised s w _
    · exact landSides_raised s w _
@[simp] theorem enterHandler_events (s : State) (w : Nat) (tv : DWord) (x : Trap) (k : Nat) : (enterHandler s w tv x k).events = s.events := by
  unfold enterHandler; dsimp only; split
  · exact landSides_events s w _
  · split
    · exact landSides_events s w _
    · exact landSides_events s w _
@[simp] theorem enterHandler_box0 (s : State) (w : Nat) (tv : DWord) (x : Trap) (k : Nat) : (enterHandler s w tv x k).box0 = s.box0 := by
  unfold enterHandler; dsimp only; split
  · exact landSides_box0 s w _
  · split
    · exact landSides_box0 s w _
    · exact landSides_box0 s w _
@[simp] theorem enterHandler_box1 (s : State) (w : Nat) (tv : DWord) (x : Trap) (k : Nat) : (enterHandler s w tv x k).box1 = s.box1 := by
  unfold enterHandler; dsimp only; split
  · exact landSides_box1 s w _
  · split
    · exact landSides_box1 s w _
    · exact landSides_box1 s w _
@[simp] theorem enterHandler_ring (s : State) (w : Nat) (tv : DWord) (x : Trap) (k : Nat) : (enterHandler s w tv x k).ring = s.ring := by
  unfold enterHandler; dsimp only; split
  · exact landSides_ring s w _
  · split
    · exact landSides_ring s w _
    · exact landSides_ring s w _
@[simp] theorem enterHandler_plat (s : State) (w : Nat) (tv : DWord) (x : Trap) (k : Nat) : (enterHandler s w tv x k).plat = s.plat := by
  unfold enterHandler; dsimp only; split
  · exact landSides_plat s w _
  · split
    · exact landSides_plat s w _
    · exact landSides_plat s w _
@[simp] theorem enterHandler_ports (s : State) (w : Nat) (tv : DWord) (x : Trap) (k : Nat) : (enterHandler s w tv x k).ports = s.ports := by
  unfold enterHandler; dsimp only; split
  · exact landSides_ports s w _
  · split
    · exact landSides_ports s w _
    · exact landSides_ports s w _
@[simp] theorem enterHandler_replays (s : State) (w : Nat) (tv : DWord) (x : Trap) (k : Nat) : (enterHandler s w tv x k).replays = s.replays := by
  unfold enterHandler; dsimp only; split
  · exact landSides_replays s w _
  · split
    · exact landSides_replays s w _
    · exact landSides_replays s w _
@[simp] theorem enterHandler_hostIn (s : State) (w : Nat) (tv : DWord) (x : Trap) (k : Nat) : (enterHandler s w tv x k).hostIn = s.hostIn := by
  unfold enterHandler; dsimp only; split
  · exact landSides_hostIn s w _
  · split
    · exact landSides_hostIn s w _
    · exact landSides_hostIn s w _

/-! ### An opportunity taken, an instruction no longer counted -/

@[simp] theorem takeSlot_turns (c : Ctx) (f : Fr) (n : Names) (s : State) : (takeSlot c f n s).turns = s.turns := rfl
@[simp] theorem takeSlot_cur (c : Ctx) (f : Fr) (n : Names) (s : State) : (takeSlot c f n s).cur = s.cur := rfl
@[simp] theorem takeSlot_free (c : Ctx) (f : Fr) (n : Names) (s : State) : (takeSlot c f n s).free = s.free := rfl
@[simp] theorem takeSlot_now (c : Ctx) (f : Fr) (n : Names) (s : State) : (takeSlot c f n s).now = s.now := rfl
@[simp] theorem takeSlot_stage (c : Ctx) (f : Fr) (n : Names) (s : State) : (takeSlot c f n s).stage = s.stage := rfl
@[simp] theorem takeSlot_uid (c : Ctx) (f : Fr) (n : Names) (s : State) : (takeSlot c f n s).uid = s.uid := rfl
@[simp] theorem takeSlot_mem (c : Ctx) (f : Fr) (n : Names) (s : State) : (takeSlot c f n s).mem = s.mem := rfl
@[simp] theorem takeSlot_side (c : Ctx) (f : Fr) (n : Names) (s : State) : (takeSlot c f n s).side = s.side := rfl
@[simp] theorem takeSlot_acc (c : Ctx) (f : Fr) (n : Names) (s : State) : (takeSlot c f n s).acc = s.acc := rfl
@[simp] theorem takeSlot_bscale (c : Ctx) (f : Fr) (n : Names) (s : State) : (takeSlot c f n s).bscale = s.bscale := rfl
@[simp] theorem takeSlot_bmeta (c : Ctx) (f : Fr) (n : Names) (s : State) : (takeSlot c f n s).bmeta = s.bmeta := rfl
@[simp] theorem takeSlot_gangs (c : Ctx) (f : Fr) (n : Names) (s : State) : (takeSlot c f n s).gangs = s.gangs := rfl
@[simp] theorem takeSlot_launches (c : Ctx) (f : Fr) (n : Names) (s : State) : (takeSlot c f n s).launches = s.launches := rfl
@[simp] theorem takeSlot_rafts (c : Ctx) (f : Fr) (n : Names) (s : State) : (takeSlot c f n s).rafts = s.rafts := rfl
@[simp] theorem takeSlot_twins (c : Ctx) (f : Fr) (n : Names) (s : State) : (takeSlot c f n s).twins = s.twins := rfl
@[simp] theorem takeSlot_clusters (c : Ctx) (f : Fr) (n : Names) (s : State) : (takeSlot c f n s).clusters = s.clusters := rfl
@[simp] theorem takeSlot_dies (c : Ctx) (f : Fr) (n : Names) (s : State) : (takeSlot c f n s).dies = s.dies := rfl
@[simp] theorem takeSlot_nmus (c : Ctx) (f : Fr) (n : Names) (s : State) : (takeSlot c f n s).nmus = s.nmus := rfl
@[simp] theorem takeSlot_queues (c : Ctx) (f : Fr) (n : Names) (s : State) : (takeSlot c f n s).queues = s.queues := rfl
@[simp] theorem takeSlot_groups (c : Ctx) (f : Fr) (n : Names) (s : State) : (takeSlot c f n s).groups = s.groups := rfl
@[simp] theorem takeSlot_ingress (c : Ctx) (f : Fr) (n : Names) (s : State) : (takeSlot c f n s).ingress = s.ingress := rfl
@[simp] theorem takeSlot_keys (c : Ctx) (f : Fr) (n : Names) (s : State) : (takeSlot c f n s).keys = s.keys := rfl
@[simp] theorem takeSlot_flioc (c : Ctx) (f : Fr) (n : Names) (s : State) : (takeSlot c f n s).flioc = s.flioc := rfl
@[simp] theorem takeSlot_events (c : Ctx) (f : Fr) (n : Names) (s : State) : (takeSlot c f n s).events = s.events := rfl
@[simp] theorem takeSlot_box0 (c : Ctx) (f : Fr) (n : Names) (s : State) : (takeSlot c f n s).box0 = s.box0 := rfl
@[simp] theorem takeSlot_box1 (c : Ctx) (f : Fr) (n : Names) (s : State) : (takeSlot c f n s).box1 = s.box1 := rfl
@[simp] theorem takeSlot_ring (c : Ctx) (f : Fr) (n : Names) (s : State) : (takeSlot c f n s).ring = s.ring := rfl
@[simp] theorem takeSlot_plat (c : Ctx) (f : Fr) (n : Names) (s : State) : (takeSlot c f n s).plat = s.plat := rfl
@[simp] theorem takeSlot_ports (c : Ctx) (f : Fr) (n : Names) (s : State) : (takeSlot c f n s).ports = s.ports := rfl
@[simp] theorem takeSlot_replays (c : Ctx) (f : Fr) (n : Names) (s : State) : (takeSlot c f n s).replays = s.replays := rfl
@[simp] theorem takeSlot_hostIn (c : Ctx) (f : Fr) (n : Names) (s : State) : (takeSlot c f n s).hostIn = s.hostIn := rfl
@[simp] theorem takeSlot_raised (c : Ctx) (f : Fr) (n : Names) (s : State) : (takeSlot c f n s).raised = s.raised := rfl
@[simp] theorem takeSlot_warps (c : Ctx) (f : Fr) (n : Names) (s : State) : (takeSlot c f n s).warps = s.warps := rfl
@[simp] theorem takeSlot_regs (c : Ctx) (f : Fr) (n : Names) (s : State) : (takeSlot c f n s).regs = s.regs := rfl
@[simp] theorem takeSlot_poison (c : Ctx) (f : Fr) (n : Names) (s : State) : (takeSlot c f n s).poison = s.poison := rfl
@[simp] theorem takeSlot_blocks (c : Ctx) (f : Fr) (n : Names) (s : State) : (takeSlot c f n s).blocks = s.blocks := rfl
@[simp] theorem takeSlot_ctxs (c : Ctx) (f : Fr) (n : Names) (s : State) : (takeSlot c f n s).ctxs = s.ctxs := rfl
@[simp] theorem uncount_turns (c : Ctx) (f : Fr) (s : State) : (uncount c f s).turns = s.turns := by unfold uncount; split <;> rfl
@[simp] theorem uncount_cur (c : Ctx) (f : Fr) (s : State) : (uncount c f s).cur = s.cur := by unfold uncount; split <;> rfl
@[simp] theorem uncount_free (c : Ctx) (f : Fr) (s : State) : (uncount c f s).free = s.free := by unfold uncount; split <;> rfl
@[simp] theorem uncount_now (c : Ctx) (f : Fr) (s : State) : (uncount c f s).now = s.now := by unfold uncount; split <;> rfl
@[simp] theorem uncount_stage (c : Ctx) (f : Fr) (s : State) : (uncount c f s).stage = s.stage := by unfold uncount; split <;> rfl
@[simp] theorem uncount_uid (c : Ctx) (f : Fr) (s : State) : (uncount c f s).uid = s.uid := by unfold uncount; split <;> rfl
@[simp] theorem uncount_mem (c : Ctx) (f : Fr) (s : State) : (uncount c f s).mem = s.mem := by unfold uncount; split <;> rfl
@[simp] theorem uncount_side (c : Ctx) (f : Fr) (s : State) : (uncount c f s).side = s.side := by unfold uncount; split <;> rfl
@[simp] theorem uncount_acc (c : Ctx) (f : Fr) (s : State) : (uncount c f s).acc = s.acc := by unfold uncount; split <;> rfl
@[simp] theorem uncount_bscale (c : Ctx) (f : Fr) (s : State) : (uncount c f s).bscale = s.bscale := by unfold uncount; split <;> rfl
@[simp] theorem uncount_bmeta (c : Ctx) (f : Fr) (s : State) : (uncount c f s).bmeta = s.bmeta := by unfold uncount; split <;> rfl
@[simp] theorem uncount_gangs (c : Ctx) (f : Fr) (s : State) : (uncount c f s).gangs = s.gangs := by unfold uncount; split <;> rfl
@[simp] theorem uncount_launches (c : Ctx) (f : Fr) (s : State) : (uncount c f s).launches = s.launches := by unfold uncount; split <;> rfl
@[simp] theorem uncount_rafts (c : Ctx) (f : Fr) (s : State) : (uncount c f s).rafts = s.rafts := by unfold uncount; split <;> rfl
@[simp] theorem uncount_twins (c : Ctx) (f : Fr) (s : State) : (uncount c f s).twins = s.twins := by unfold uncount; split <;> rfl
@[simp] theorem uncount_clusters (c : Ctx) (f : Fr) (s : State) : (uncount c f s).clusters = s.clusters := by unfold uncount; split <;> rfl
@[simp] theorem uncount_dies (c : Ctx) (f : Fr) (s : State) : (uncount c f s).dies = s.dies := by unfold uncount; split <;> rfl
@[simp] theorem uncount_nmus (c : Ctx) (f : Fr) (s : State) : (uncount c f s).nmus = s.nmus := by unfold uncount; split <;> rfl
@[simp] theorem uncount_queues (c : Ctx) (f : Fr) (s : State) : (uncount c f s).queues = s.queues := by unfold uncount; split <;> rfl
@[simp] theorem uncount_groups (c : Ctx) (f : Fr) (s : State) : (uncount c f s).groups = s.groups := by unfold uncount; split <;> rfl
@[simp] theorem uncount_ingress (c : Ctx) (f : Fr) (s : State) : (uncount c f s).ingress = s.ingress := by unfold uncount; split <;> rfl
@[simp] theorem uncount_keys (c : Ctx) (f : Fr) (s : State) : (uncount c f s).keys = s.keys := by unfold uncount; split <;> rfl
@[simp] theorem uncount_flioc (c : Ctx) (f : Fr) (s : State) : (uncount c f s).flioc = s.flioc := by unfold uncount; split <;> rfl
@[simp] theorem uncount_events (c : Ctx) (f : Fr) (s : State) : (uncount c f s).events = s.events := by unfold uncount; split <;> rfl
@[simp] theorem uncount_box0 (c : Ctx) (f : Fr) (s : State) : (uncount c f s).box0 = s.box0 := by unfold uncount; split <;> rfl
@[simp] theorem uncount_box1 (c : Ctx) (f : Fr) (s : State) : (uncount c f s).box1 = s.box1 := by unfold uncount; split <;> rfl
@[simp] theorem uncount_ring (c : Ctx) (f : Fr) (s : State) : (uncount c f s).ring = s.ring := by unfold uncount; split <;> rfl
@[simp] theorem uncount_plat (c : Ctx) (f : Fr) (s : State) : (uncount c f s).plat = s.plat := by unfold uncount; split <;> rfl
@[simp] theorem uncount_ports (c : Ctx) (f : Fr) (s : State) : (uncount c f s).ports = s.ports := by unfold uncount; split <;> rfl
@[simp] theorem uncount_replays (c : Ctx) (f : Fr) (s : State) : (uncount c f s).replays = s.replays := by unfold uncount; split <;> rfl
@[simp] theorem uncount_hostIn (c : Ctx) (f : Fr) (s : State) : (uncount c f s).hostIn = s.hostIn := by unfold uncount; split <;> rfl
@[simp] theorem uncount_raised (c : Ctx) (f : Fr) (s : State) : (uncount c f s).raised = s.raised := by unfold uncount; split <;> rfl
@[simp] theorem uncount_regs (c : Ctx) (f : Fr) (s : State) : (uncount c f s).regs = s.regs := by unfold uncount; split <;> rfl
@[simp] theorem uncount_poison (c : Ctx) (f : Fr) (s : State) : (uncount c f s).poison = s.poison := by unfold uncount; split <;> rfl
@[simp] theorem uncount_blocks (c : Ctx) (f : Fr) (s : State) : (uncount c f s).blocks = s.blocks := by unfold uncount; split <;> rfl
@[simp] theorem uncount_ctxs (c : Ctx) (f : Fr) (s : State) : (uncount c f s).ctxs = s.ctxs := by unfold uncount; split <;> rfl
@[simp] theorem uncount_cores (c : Ctx) (f : Fr) (s : State) : (uncount c f s).cores = s.cores := by unfold uncount; split <;> rfl

@[simp] theorem raiseTrap_turns (c : Ctx) (f : Fr) (k : Nat) (m : BitVec 32) (a : List (Nat × DWord)) (g : Option Word) : (raiseTrap c f k m a g).turns = c.pre.turns := by
  unfold raiseTrap; dsimp only
  split <;> (try split) <;> simp
@[simp] theorem raiseTrap_cur (c : Ctx) (f : Fr) (k : Nat) (m : BitVec 32) (a : List (Nat × DWord)) (g : Option Word) : (raiseTrap c f k m a g).cur = c.pre.cur := by
  unfold raiseTrap; dsimp only
  split <;> (try split) <;> simp
@[simp] theorem raiseTrap_free (c : Ctx) (f : Fr) (k : Nat) (m : BitVec 32) (a : List (Nat × DWord)) (g : Option Word) : (raiseTrap c f k m a g).free = c.pre.free := by
  unfold raiseTrap; dsimp only
  split <;> (try split) <;> simp
@[simp] theorem raiseTrap_now (c : Ctx) (f : Fr) (k : Nat) (m : BitVec 32) (a : List (Nat × DWord)) (g : Option Word) : (raiseTrap c f k m a g).now = c.pre.now := by
  unfold raiseTrap; dsimp only
  split <;> (try split) <;> simp
@[simp] theorem raiseTrap_stage (c : Ctx) (f : Fr) (k : Nat) (m : BitVec 32) (a : List (Nat × DWord)) (g : Option Word) : (raiseTrap c f k m a g).stage = c.pre.stage := by
  unfold raiseTrap; dsimp only
  split <;> (try split) <;> simp
@[simp] theorem raiseTrap_uid (c : Ctx) (f : Fr) (k : Nat) (m : BitVec 32) (a : List (Nat × DWord)) (g : Option Word) : (raiseTrap c f k m a g).uid = c.pre.uid := by
  unfold raiseTrap; dsimp only
  split <;> (try split) <;> simp
@[simp] theorem raiseTrap_mem (c : Ctx) (f : Fr) (k : Nat) (m : BitVec 32) (a : List (Nat × DWord)) (g : Option Word) : (raiseTrap c f k m a g).mem = c.pre.mem := by
  unfold raiseTrap; dsimp only
  split <;> (try split) <;> simp
@[simp] theorem raiseTrap_side (c : Ctx) (f : Fr) (k : Nat) (m : BitVec 32) (a : List (Nat × DWord)) (g : Option Word) : (raiseTrap c f k m a g).side = c.pre.side := by
  unfold raiseTrap; dsimp only
  split <;> (try split) <;> simp
@[simp] theorem raiseTrap_acc (c : Ctx) (f : Fr) (k : Nat) (m : BitVec 32) (a : List (Nat × DWord)) (g : Option Word) : (raiseTrap c f k m a g).acc = c.pre.acc := by
  unfold raiseTrap; dsimp only
  split <;> (try split) <;> simp
@[simp] theorem raiseTrap_bscale (c : Ctx) (f : Fr) (k : Nat) (m : BitVec 32) (a : List (Nat × DWord)) (g : Option Word) : (raiseTrap c f k m a g).bscale = c.pre.bscale := by
  unfold raiseTrap; dsimp only
  split <;> (try split) <;> simp
@[simp] theorem raiseTrap_bmeta (c : Ctx) (f : Fr) (k : Nat) (m : BitVec 32) (a : List (Nat × DWord)) (g : Option Word) : (raiseTrap c f k m a g).bmeta = c.pre.bmeta := by
  unfold raiseTrap; dsimp only
  split <;> (try split) <;> simp
@[simp] theorem raiseTrap_gangs (c : Ctx) (f : Fr) (k : Nat) (m : BitVec 32) (a : List (Nat × DWord)) (g : Option Word) : (raiseTrap c f k m a g).gangs = c.pre.gangs := by
  unfold raiseTrap; dsimp only
  split <;> (try split) <;> simp
@[simp] theorem raiseTrap_launches (c : Ctx) (f : Fr) (k : Nat) (m : BitVec 32) (a : List (Nat × DWord)) (g : Option Word) : (raiseTrap c f k m a g).launches = c.pre.launches := by
  unfold raiseTrap; dsimp only
  split <;> (try split) <;> simp
@[simp] theorem raiseTrap_rafts (c : Ctx) (f : Fr) (k : Nat) (m : BitVec 32) (a : List (Nat × DWord)) (g : Option Word) : (raiseTrap c f k m a g).rafts = c.pre.rafts := by
  unfold raiseTrap; dsimp only
  split <;> (try split) <;> simp
@[simp] theorem raiseTrap_twins (c : Ctx) (f : Fr) (k : Nat) (m : BitVec 32) (a : List (Nat × DWord)) (g : Option Word) : (raiseTrap c f k m a g).twins = c.pre.twins := by
  unfold raiseTrap; dsimp only
  split <;> (try split) <;> simp
@[simp] theorem raiseTrap_clusters (c : Ctx) (f : Fr) (k : Nat) (m : BitVec 32) (a : List (Nat × DWord)) (g : Option Word) : (raiseTrap c f k m a g).clusters = c.pre.clusters := by
  unfold raiseTrap; dsimp only
  split <;> (try split) <;> simp
@[simp] theorem raiseTrap_dies (c : Ctx) (f : Fr) (k : Nat) (m : BitVec 32) (a : List (Nat × DWord)) (g : Option Word) : (raiseTrap c f k m a g).dies = c.pre.dies := by
  unfold raiseTrap; dsimp only
  split <;> (try split) <;> simp
@[simp] theorem raiseTrap_nmus (c : Ctx) (f : Fr) (k : Nat) (m : BitVec 32) (a : List (Nat × DWord)) (g : Option Word) : (raiseTrap c f k m a g).nmus = c.pre.nmus := by
  unfold raiseTrap; dsimp only
  split <;> (try split) <;> simp
@[simp] theorem raiseTrap_queues (c : Ctx) (f : Fr) (k : Nat) (m : BitVec 32) (a : List (Nat × DWord)) (g : Option Word) : (raiseTrap c f k m a g).queues = c.pre.queues := by
  unfold raiseTrap; dsimp only
  split <;> (try split) <;> simp
@[simp] theorem raiseTrap_groups (c : Ctx) (f : Fr) (k : Nat) (m : BitVec 32) (a : List (Nat × DWord)) (g : Option Word) : (raiseTrap c f k m a g).groups = c.pre.groups := by
  unfold raiseTrap; dsimp only
  split <;> (try split) <;> simp
@[simp] theorem raiseTrap_ingress (c : Ctx) (f : Fr) (k : Nat) (m : BitVec 32) (a : List (Nat × DWord)) (g : Option Word) : (raiseTrap c f k m a g).ingress = c.pre.ingress := by
  unfold raiseTrap; dsimp only
  split <;> (try split) <;> simp
@[simp] theorem raiseTrap_keys (c : Ctx) (f : Fr) (k : Nat) (m : BitVec 32) (a : List (Nat × DWord)) (g : Option Word) : (raiseTrap c f k m a g).keys = c.pre.keys := by
  unfold raiseTrap; dsimp only
  split <;> (try split) <;> simp
@[simp] theorem raiseTrap_flioc (c : Ctx) (f : Fr) (k : Nat) (m : BitVec 32) (a : List (Nat × DWord)) (g : Option Word) : (raiseTrap c f k m a g).flioc = c.pre.flioc := by
  unfold raiseTrap; dsimp only
  split <;> (try split) <;> simp
@[simp] theorem raiseTrap_events (c : Ctx) (f : Fr) (k : Nat) (m : BitVec 32) (a : List (Nat × DWord)) (g : Option Word) : (raiseTrap c f k m a g).events = c.pre.events := by
  unfold raiseTrap; dsimp only
  split <;> (try split) <;> simp
@[simp] theorem raiseTrap_box0 (c : Ctx) (f : Fr) (k : Nat) (m : BitVec 32) (a : List (Nat × DWord)) (g : Option Word) : (raiseTrap c f k m a g).box0 = c.pre.box0 := by
  unfold raiseTrap; dsimp only
  split <;> (try split) <;> simp
@[simp] theorem raiseTrap_box1 (c : Ctx) (f : Fr) (k : Nat) (m : BitVec 32) (a : List (Nat × DWord)) (g : Option Word) : (raiseTrap c f k m a g).box1 = c.pre.box1 := by
  unfold raiseTrap; dsimp only
  split <;> (try split) <;> simp
@[simp] theorem raiseTrap_ring (c : Ctx) (f : Fr) (k : Nat) (m : BitVec 32) (a : List (Nat × DWord)) (g : Option Word) : (raiseTrap c f k m a g).ring = c.pre.ring := by
  unfold raiseTrap; dsimp only
  split <;> (try split) <;> simp
@[simp] theorem raiseTrap_plat (c : Ctx) (f : Fr) (k : Nat) (m : BitVec 32) (a : List (Nat × DWord)) (g : Option Word) : (raiseTrap c f k m a g).plat = c.pre.plat := by
  unfold raiseTrap; dsimp only
  split <;> (try split) <;> simp
@[simp] theorem raiseTrap_ports (c : Ctx) (f : Fr) (k : Nat) (m : BitVec 32) (a : List (Nat × DWord)) (g : Option Word) : (raiseTrap c f k m a g).ports = c.pre.ports := by
  unfold raiseTrap; dsimp only
  split <;> (try split) <;> simp
@[simp] theorem raiseTrap_replays (c : Ctx) (f : Fr) (k : Nat) (m : BitVec 32) (a : List (Nat × DWord)) (g : Option Word) : (raiseTrap c f k m a g).replays = c.pre.replays := by
  unfold raiseTrap; dsimp only
  split <;> (try split) <;> simp
@[simp] theorem raiseTrap_hostIn (c : Ctx) (f : Fr) (k : Nat) (m : BitVec 32) (a : List (Nat × DWord)) (g : Option Word) : (raiseTrap c f k m a g).hostIn = c.pre.hostIn := by
  unfold raiseTrap; dsimp only
  split <;> (try split) <;> simp

/-! ### Results due at an issue -/

theorem land_field {β : Type} (g : State → β) (h : ∀ s w sp e k, g ((State.landSets (State.landDue s sp) w sp).modSplit w e k) = g s)
    {s : State} {c : Ctx} (hc : s.issuer = .ok c) : g c.land.pre = g s := by
  have hp := issuer_pre hc
  unfold Ctx.land
  split
  · rw [hp]
  · dsimp only
    split
    · rename_i c' h'
      rw [issuer_pre h', h, hp]
    · rw [hp]

theorem guarded_turns {s : State} {c : Ctx} (f : Fr) (hc : s.issuer = .ok c) : (c.guarded f).pre.turns = s.turns :=
  land_field (·.turns) (fun s w sp e k => by simp) hc
theorem guarded_cur {s : State} {c : Ctx} (f : Fr) (hc : s.issuer = .ok c) : (c.guarded f).pre.cur = s.cur :=
  land_field (·.cur) (fun s w sp e k => by simp) hc
theorem guarded_free {s : State} {c : Ctx} (f : Fr) (hc : s.issuer = .ok c) : (c.guarded f).pre.free = s.free :=
  land_field (·.free) (fun s w sp e k => by simp) hc
theorem guarded_now {s : State} {c : Ctx} (f : Fr) (hc : s.issuer = .ok c) : (c.guarded f).pre.now = s.now :=
  land_field (·.now) (fun s w sp e k => by simp) hc
theorem guarded_stage {s : State} {c : Ctx} (f : Fr) (hc : s.issuer = .ok c) : (c.guarded f).pre.stage = s.stage :=
  land_field (·.stage) (fun s w sp e k => by simp) hc
theorem guarded_uid {s : State} {c : Ctx} (f : Fr) (hc : s.issuer = .ok c) : (c.guarded f).pre.uid = s.uid :=
  land_field (·.uid) (fun s w sp e k => by simp) hc
theorem guarded_mem {s : State} {c : Ctx} (f : Fr) (hc : s.issuer = .ok c) : (c.guarded f).pre.mem = s.mem :=
  land_field (·.mem) (fun s w sp e k => by simp) hc
theorem guarded_side {s : State} {c : Ctx} (f : Fr) (hc : s.issuer = .ok c) : (c.guarded f).pre.side = s.side :=
  land_field (·.side) (fun s w sp e k => by simp) hc
theorem guarded_acc {s : State} {c : Ctx} (f : Fr) (hc : s.issuer = .ok c) : (c.guarded f).pre.acc = s.acc :=
  land_field (·.acc) (fun s w sp e k => by simp) hc
theorem guarded_bscale {s : State} {c : Ctx} (f : Fr) (hc : s.issuer = .ok c) : (c.guarded f).pre.bscale = s.bscale :=
  land_field (·.bscale) (fun s w sp e k => by simp) hc
theorem guarded_bmeta {s : State} {c : Ctx} (f : Fr) (hc : s.issuer = .ok c) : (c.guarded f).pre.bmeta = s.bmeta :=
  land_field (·.bmeta) (fun s w sp e k => by simp) hc
theorem guarded_gangs {s : State} {c : Ctx} (f : Fr) (hc : s.issuer = .ok c) : (c.guarded f).pre.gangs = s.gangs :=
  land_field (·.gangs) (fun s w sp e k => by simp) hc
theorem guarded_launches {s : State} {c : Ctx} (f : Fr) (hc : s.issuer = .ok c) : (c.guarded f).pre.launches = s.launches :=
  land_field (·.launches) (fun s w sp e k => by simp) hc
theorem guarded_rafts {s : State} {c : Ctx} (f : Fr) (hc : s.issuer = .ok c) : (c.guarded f).pre.rafts = s.rafts :=
  land_field (·.rafts) (fun s w sp e k => by simp) hc
theorem guarded_twins {s : State} {c : Ctx} (f : Fr) (hc : s.issuer = .ok c) : (c.guarded f).pre.twins = s.twins :=
  land_field (·.twins) (fun s w sp e k => by simp) hc
theorem guarded_clusters {s : State} {c : Ctx} (f : Fr) (hc : s.issuer = .ok c) : (c.guarded f).pre.clusters = s.clusters :=
  land_field (·.clusters) (fun s w sp e k => by simp) hc
theorem guarded_dies {s : State} {c : Ctx} (f : Fr) (hc : s.issuer = .ok c) : (c.guarded f).pre.dies = s.dies :=
  land_field (·.dies) (fun s w sp e k => by simp) hc
theorem guarded_nmus {s : State} {c : Ctx} (f : Fr) (hc : s.issuer = .ok c) : (c.guarded f).pre.nmus = s.nmus :=
  land_field (·.nmus) (fun s w sp e k => by simp) hc
theorem guarded_queues {s : State} {c : Ctx} (f : Fr) (hc : s.issuer = .ok c) : (c.guarded f).pre.queues = s.queues :=
  land_field (·.queues) (fun s w sp e k => by simp) hc
theorem guarded_groups {s : State} {c : Ctx} (f : Fr) (hc : s.issuer = .ok c) : (c.guarded f).pre.groups = s.groups :=
  land_field (·.groups) (fun s w sp e k => by simp) hc
theorem guarded_ingress {s : State} {c : Ctx} (f : Fr) (hc : s.issuer = .ok c) : (c.guarded f).pre.ingress = s.ingress :=
  land_field (·.ingress) (fun s w sp e k => by simp) hc
theorem guarded_keys {s : State} {c : Ctx} (f : Fr) (hc : s.issuer = .ok c) : (c.guarded f).pre.keys = s.keys :=
  land_field (·.keys) (fun s w sp e k => by simp) hc
theorem guarded_flioc {s : State} {c : Ctx} (f : Fr) (hc : s.issuer = .ok c) : (c.guarded f).pre.flioc = s.flioc :=
  land_field (·.flioc) (fun s w sp e k => by simp) hc
theorem guarded_raised {s : State} {c : Ctx} (f : Fr) (hc : s.issuer = .ok c) : (c.guarded f).pre.raised = s.raised :=
  land_field (·.raised) (fun s w sp e k => by simp) hc
theorem guarded_events {s : State} {c : Ctx} (f : Fr) (hc : s.issuer = .ok c) : (c.guarded f).pre.events = s.events :=
  land_field (·.events) (fun s w sp e k => by simp) hc
theorem guarded_box0 {s : State} {c : Ctx} (f : Fr) (hc : s.issuer = .ok c) : (c.guarded f).pre.box0 = s.box0 :=
  land_field (·.box0) (fun s w sp e k => by simp) hc
theorem guarded_box1 {s : State} {c : Ctx} (f : Fr) (hc : s.issuer = .ok c) : (c.guarded f).pre.box1 = s.box1 :=
  land_field (·.box1) (fun s w sp e k => by simp) hc
theorem guarded_ring {s : State} {c : Ctx} (f : Fr) (hc : s.issuer = .ok c) : (c.guarded f).pre.ring = s.ring :=
  land_field (·.ring) (fun s w sp e k => by simp) hc
theorem guarded_plat {s : State} {c : Ctx} (f : Fr) (hc : s.issuer = .ok c) : (c.guarded f).pre.plat = s.plat :=
  land_field (·.plat) (fun s w sp e k => by simp) hc
theorem guarded_ports {s : State} {c : Ctx} (f : Fr) (hc : s.issuer = .ok c) : (c.guarded f).pre.ports = s.ports :=
  land_field (·.ports) (fun s w sp e k => by simp) hc
theorem guarded_replays {s : State} {c : Ctx} (f : Fr) (hc : s.issuer = .ok c) : (c.guarded f).pre.replays = s.replays :=
  land_field (·.replays) (fun s w sp e k => by simp) hc
theorem guarded_hostIn {s : State} {c : Ctx} (f : Fr) (hc : s.issuer = .ok c) : (c.guarded f).pre.hostIn = s.hostIn :=
  land_field (·.hostIn) (fun s w sp e k => by simp) hc

end Sys2Proof.Machine
end

