-- ==== Sys2Proof/Laws/PerInstr.lean ====
section
/-! SUPPORT. The per-instruction family of LAWS.json: the fields of a well-formed instruction stand within the widths of its form, and parsing
them gives the instruction back. -/
namespace Sys2Proof.Laws.Encoding

/-- The fields of a well-formed instruction's words are those of one of its opcode's forms, each within its width, and they parse to the
instruction; an event row has no words. -/
def Statement (i : Instr) : Prop :=
  i.wf = true → ∀ r, fieldsOf i = some r → r.fits = true ∧ r.form ∈ formsOf r.opc ∧ r.setc ≠ 7 ∧ parse r = some i

theorem nop (f : Fr) (v : Word) : Statement (.nop f v) := by
  intro h r hr
  obtain rfl := Option.some.inj hr
  replace h : (f.ok [.s, .e, .w] true && decide (f.form ≠ .w → v = 0) && f.form.litsOk false (f.form == .w) false && f.holdsOk false false false) = true := h
  simp only [Bool.and_eq_true] at h
  obtain ⟨⟨⟨h0, h1⟩, h2⟩, h3⟩ := h
  obtain ⟨hf, hs⟩ := Fr.ok_forms h0
  have hl : f.form.litsOk ((Src.reg 0)).isLit ((Src.offset f.form false v)).isLit ((Src.reg 0)).isLit = true := by
    have h := h2
    first | exact h | (simp only [isLit_reg, isLit_lit, isLit_offset, Option.getD, Option.any, Bool.not_false, Bool.and_true] at h ⊢; exact h)
  refine ⟨fits_mk (by decide) hl h3 (by decide) (by decide) ?_ ?_, ?_, hs, ?_⟩
  · intro e; decide
  · intro e; rw [e] at hf; simp at hf
  · simp only [form_mk, opc_mk]; rw [show formsOf 0x00 = [.s, .e, .w] from by decide]; exact hf
  · rw [show parse (mkRaw f 0x00 0 (0) 0 (Src.reg 0) (Src.offset f.form false v) (Src.reg 0)) = parseNop (mkRaw f 0x00 0 (0) 0 (Src.reg 0) (Src.offset f.form false v) (Src.reg 0)) from by simp [parse, parseRow0, opc_mk, sub_mk]]
    unfold parseNop
    simp only [m_mk, fr_mk, offset_mk hl (by intro e; have h := h1; simp only [decide_eq_true_eq, Bool.or_eq_true, beq_iff_eq, Bool.and_eq_true, Bool.not_eq_true', not_and] at h e; tauto)]
    try simp [Option.bind, toNat_beq_one, toNat_eq_one, boolOfCode_toNat, Header.ofWord_toWord]

theorem bra (f : Fr) (off : Word) (j : BitVec 8) : Statement (.bra f off j) := by
  intro h r hr
  obtain rfl := Option.some.inj hr
  replace h : (f.ok [.l, .w] true && f.form.litsOk false true false && f.holdsOk false true false && decide (off.toNat % 4 = 0)) = true := h
  simp only [Bool.and_eq_true] at h
  obtain ⟨⟨⟨h0, h1⟩, h2⟩, h3⟩ := h
  obtain ⟨hf, hs⟩ := Fr.ok_forms h0
  have := j.isLt
  have hl : f.form.litsOk ((Src.reg 0)).isLit ((Src.lit off)).isLit ((Src.reg 0)).isLit = true := by
    have h := h1
    first | exact h | (simp only [isLit_reg, isLit_lit, isLit_offset, Option.getD, Option.any, Bool.not_false, Bool.and_true] at h ⊢; exact h)
  refine ⟨fits_mk (by decide) hl h2 (by decide) (by omega) ?_ ?_, ?_, hs, ?_⟩
  · intro e; rw [e] at hf; simp at hf
  · intro e; simp_all [Src.num, num_zero, Sat.code, Rnd.code, BExt.code, Option.getD] <;> omega
  · simp only [form_mk, opc_mk]; rw [show formsOf 0x01 = [.l, .w] from by decide]; exact hf
  · rw [show parse (mkRaw f 0x01 0 (j.toNat) 0 (Src.reg 0) (Src.lit off) (Src.reg 0)) = parseBra (mkRaw f 0x01 0 (j.toNat) 0 (Src.reg 0) (Src.lit off) (Src.reg 0)) from by simp [parse, parseRow0, opc_mk, sub_mk]]
    have e0 : (j.toNat) / 2 ^ 0 % 2 ^ 8 = j.toNat := by omega
    unfold parseBra
    simp only [m_mk, fr_mk, off_mk hl, e0]
    try simp [Option.bind, toNat_beq_one, toNat_eq_one, boolOfCode_toNat, Header.ofWord_toWord]

theorem braDec (f : Fr) (c : Reg) (off : Word) (j : BitVec 8) : Statement (.braDec f c off j) := by
  intro h r hr
  obtain rfl := Option.some.inj hr
  replace h : (f.ok [.w] true && c.ok && f.form.litsOk false true false && f.holdsOk false true true && decide (off.toNat % 4 = 0)) = true := h
  simp only [Bool.and_eq_true] at h
  obtain ⟨⟨⟨⟨h0, h1⟩, h2⟩, h3⟩, h4⟩ := h
  obtain ⟨hf, hs⟩ := Fr.ok_forms h0
  have := j.isLt
  have hl : f.form.litsOk ((Src.reg 0)).isLit ((Src.lit off)).isLit ((Src.reg c)).isLit = true := by
    have h := h2
    first | exact h | (simp only [isLit_reg, isLit_lit, isLit_offset, Option.getD, Option.any, Bool.not_false, Bool.and_true] at h ⊢; exact h)
  refine ⟨fits_mk (by decide) hl h3 (by decide) (by omega) ?_ ?_, ?_, hs, ?_⟩
  · intro e; rw [e] at hf; simp at hf
  · intro e; rw [e] at hf; simp at hf
  · simp only [form_mk, opc_mk]; simp [formsOf]; exact Or.inr (by simpa using hf)
  · rw [show parse (mkRaw f 0x01 1 (j.toNat) 0 (Src.reg 0) (Src.lit off) (Src.reg c)) = parseBraDec (mkRaw f 0x01 1 (j.toNat) 0 (Src.reg 0) (Src.lit off) (Src.reg c)) from by simp [parse, parseRow0, opc_mk, sub_mk]]
    have e0 : (j.toNat) / 2 ^ 0 % 2 ^ 8 = j.toNat := by omega
    unfold parseBraDec
    simp only [m_mk, fr_mk, rc_mk, off_mk hl, e0]
    try simp [Option.bind, toNat_beq_one, toNat_eq_one, boolOfCode_toNat, Header.ofWord_toWord]

theorem brx (f : Fr) (a : Reg) (j : BitVec 8) : Statement (.brx f a j) := by
  intro h r hr
  obtain rfl := Option.some.inj hr
  replace h : (f.ok [.s, .e] true && a.pairOk && f.form.litsOk false false false && f.holdsOk true false false && decide (f.form = .s → j = 0)) = true := h
  simp only [Bool.and_eq_true] at h
  obtain ⟨⟨⟨⟨h0, h1⟩, h2⟩, h3⟩, h4⟩ := h
  obtain ⟨hf, hs⟩ := Fr.ok_forms h0
  have := j.isLt
  have hl : f.form.litsOk ((Src.reg a)).isLit ((Src.reg 0)).isLit ((Src.reg 0)).isLit = true := by
    have h := h2
    first | exact h | (simp only [isLit_reg, isLit_lit, isLit_offset, Option.getD, Option.any, Bool.not_false, Bool.and_true] at h ⊢; exact h)
  refine ⟨fits_mk (by decide) hl h3 (by decide) (by omega) ?_ ?_, ?_, hs, ?_⟩
  · intro e; simp_all [Src.num, num_zero, Sat.code, Rnd.code, BExt.code, Option.getD] <;> omega
  · intro e; rw [e] at hf; simp at hf
  · simp only [form_mk, opc_mk]; rw [show formsOf 0x02 = [.s, .e] from by decide]; exact hf
  · rw [show parse (mkRaw f 0x02 0 (j.toNat) 0 (Src.reg a) (Src.reg 0) (Src.reg 0)) = parseBrx (mkRaw f 0x02 0 (j.toNat) 0 (Src.reg a) (Src.reg 0) (Src.reg 0)) from by simp [parse, parseRow0, opc_mk, sub_mk]]
    have e0 : (j.toNat) / 2 ^ 0 % 2 ^ 8 = j.toNat := by omega
    unfold parseBrx
    simp only [m_mk, fr_mk, ra_mk, e0]
    try simp [Option.bind, toNat_beq_one, toNat_eq_one, boolOfCode_toNat, Header.ofWord_toWord]

theorem call (f : Fr) (off : Word) : Statement (.call f off) := by
  intro h r hr
  obtain rfl := Option.some.inj hr
  replace h : (f.ok [.l] true && f.form.litsOk false true false && f.holdsOk false true false && decide (off.toNat % 4 = 0)) = true := h
  simp only [Bool.and_eq_true] at h
  obtain ⟨⟨⟨h0, h1⟩, h2⟩, h3⟩ := h
  obtain ⟨hf, hs⟩ := Fr.ok_forms h0
  have hl : f.form.litsOk ((Src.reg 0)).isLit ((Src.lit off)).isLit ((Src.reg 0)).isLit = true := by
    have h := h1
    first | exact h | (simp only [isLit_reg, isLit_lit, isLit_offset, Option.getD, Option.any, Bool.not_false, Bool.and_true] at h ⊢; exact h)
  refine ⟨fits_mk (by decide) hl h2 (by decide) (by decide) ?_ ?_, ?_, hs, ?_⟩
  · intro e; rw [e] at hf; simp at hf
  · intro e; decide
  · simp only [form_mk, opc_mk]; rw [show formsOf 0x03 = [.l] from by decide]; exact hf
  · rw [show parse (mkRaw f 0x03 0 (0) 0 (Src.reg 0) (Src.lit off) (Src.reg 0)) = parseCall (mkRaw f 0x03 0 (0) 0 (Src.reg 0) (Src.lit off) (Src.reg 0)) from by simp [parse, parseRow0, opc_mk, sub_mk]]
    unfold parseCall
    simp only [m_mk, fr_mk, off_mk hl]
    try simp [Option.bind, toNat_beq_one, toNat_eq_one, boolOfCode_toNat, Header.ofWord_toWord]

theorem callx (f : Fr) (a : Reg) : Statement (.callx f a) := by
  intro h r hr
  obtain rfl := Option.some.inj hr
  replace h : (f.ok [.s] true && a.pairOk && f.form.litsOk false false false && f.holdsOk true false false) = true := h
  simp only [Bool.and_eq_true] at h
  obtain ⟨⟨⟨h0, h1⟩, h2⟩, h3⟩ := h
  obtain ⟨hf, hs⟩ := Fr.ok_forms h0
  have hl : f.form.litsOk ((Src.reg a)).isLit ((Src.reg 0)).isLit ((Src.reg 0)).isLit = true := by
    have h := h2
    first | exact h | (simp only [isLit_reg, isLit_lit, isLit_offset, Option.getD, Option.any, Bool.not_false, Bool.and_true] at h ⊢; exact h)
  refine ⟨fits_mk (by decide) hl h3 (by decide) (by decide) ?_ ?_, ?_, hs, ?_⟩
  · intro e; decide
  · intro e; rw [e] at hf; simp at hf
  · simp only [form_mk, opc_mk]; rw [show formsOf 0x04 = [.s] from by decide]; exact hf
  · rw [show parse (mkRaw f 0x04 0 (0) 0 (Src.reg a) (Src.reg 0) (Src.reg 0)) = parseCallx (mkRaw f 0x04 0 (0) 0 (Src.reg a) (Src.reg 0) (Src.reg 0)) from by simp [parse, parseRow0, opc_mk, sub_mk]]
    unfold parseCallx
    simp only [m_mk, fr_mk, ra_mk]
    try simp [Option.bind, toNat_beq_one, toNat_eq_one, boolOfCode_toNat, Header.ofWord_toWord]

theorem ret (f : Fr) : Statement (.ret f) := by
  intro h r hr
  obtain rfl := Option.some.inj hr
  replace h : (f.ok [.s] true && f.form.litsOk false false false && f.holdsOk false false false) = true := h
  simp only [Bool.and_eq_true] at h
  obtain ⟨⟨h0, h1⟩, h2⟩ := h
  obtain ⟨hf, hs⟩ := Fr.ok_forms h0
  have hl : f.form.litsOk ((Src.reg 0)).isLit ((Src.reg 0)).isLit ((Src.reg 0)).isLit = true := by
    have h := h1
    first | exact h | (simp only [isLit_reg, isLit_lit, isLit_offset, Option.getD, Option.any, Bool.not_false, Bool.and_true] at h ⊢; exact h)
  refine ⟨fits_mk (by decide) hl h2 (by decide) (by decide) ?_ ?_, ?_, hs, ?_⟩
  · intro e; decide
  · intro e; rw [e] at hf; simp at hf
  · simp only [form_mk, opc_mk]; rw [show formsOf 0x05 = [.s] from by decide]; exact hf
  · rw [show parse (mkRaw f 0x05 0 (0) 0 (Src.reg 0) (Src.reg 0) (Src.reg 0)) = parseRet (mkRaw f 0x05 0 (0) 0 (Src.reg 0) (Src.reg 0) (Src.reg 0)) from by simp [parse, parseRow0, opc_mk, sub_mk]]
    unfold parseRet
    simp only [m_mk, fr_mk]
    try simp [Option.bind, toNat_beq_one, toNat_eq_one, boolOfCode_toNat, Header.ofWord_toWord]

theorem confl (f : Fr) (j : BitVec 8) : Statement (.confl f j) := by
  intro h r hr
  obtain rfl := Option.some.inj hr
  replace h : (f.ok [.e] true && f.form.litsOk false false false && f.holdsOk false false false) = true := h
  simp only [Bool.and_eq_true] at h
  obtain ⟨⟨h0, h1⟩, h2⟩ := h
  obtain ⟨hf, hs⟩ := Fr.ok_forms h0
  have := j.isLt
  have hl : f.form.litsOk ((Src.reg 0)).isLit ((Src.reg 0)).isLit ((Src.reg 0)).isLit = true := by
    have h := h1
    first | exact h | (simp only [isLit_reg, isLit_lit, isLit_offset, Option.getD, Option.any, Bool.not_false, Bool.and_true] at h ⊢; exact h)
  refine ⟨fits_mk (by decide) hl h2 (by decide) (by omega) ?_ ?_, ?_, hs, ?_⟩
  · intro e; rw [e] at hf; simp at hf
  · intro e; rw [e] at hf; simp at hf
  · simp only [form_mk, opc_mk]; rw [show formsOf 0x06 = [.e] from by decide]; exact hf
  · rw [show parse (mkRaw f 0x06 0 (j.toNat) 0 (Src.reg 0) (Src.reg 0) (Src.reg 0)) = parseConfl (mkRaw f 0x06 0 (j.toNat) 0 (Src.reg 0) (Src.reg 0) (Src.reg 0)) from by simp [parse, parseRow0, opc_mk, sub_mk]]
    have e0 : (j.toNat) / 2 ^ 0 % 2 ^ 8 = j.toNat := by omega
    unfold parseConfl
    simp only [m_mk, fr_mk, e0]
    try simp [Option.bind, toNat_beq_one, toNat_eq_one, boolOfCode_toNat, Header.ofWord_toWord]

theorem exit (f : Fr) : Statement (.exit f) := by
  intro h r hr
  obtain rfl := Option.some.inj hr
  replace h : (f.ok [.s] true && f.form.litsOk false false false && f.holdsOk false false false) = true := h
  simp only [Bool.and_eq_true] at h
  obtain ⟨⟨h0, h1⟩, h2⟩ := h
  obtain ⟨hf, hs⟩ := Fr.ok_forms h0
  have hl : f.form.litsOk ((Src.reg 0)).isLit ((Src.reg 0)).isLit ((Src.reg 0)).isLit = true := by
    have h := h1
    first | exact h | (simp only [isLit_reg, isLit_lit, isLit_offset, Option.getD, Option.any, Bool.not_false, Bool.and_true] at h ⊢; exact h)
  refine ⟨fits_mk (by decide) hl h2 (by decide) (by decide) ?_ ?_, ?_, hs, ?_⟩
  · intro e; decide
  · intro e; rw [e] at hf; simp at hf
  · simp only [form_mk, opc_mk]; rw [show formsOf 0x07 = [.s] from by decide]; exact hf
  · rw [show parse (mkRaw f 0x07 0 (0) 0 (Src.reg 0) (Src.reg 0) (Src.reg 0)) = parseExit (mkRaw f 0x07 0 (0) 0 (Src.reg 0) (Src.reg 0) (Src.reg 0)) from by simp [parse, parseRow0, opc_mk, sub_mk]]
    unfold parseExit
    simp only [m_mk, fr_mk]
    try simp [Option.bind, toNat_beq_one, toNat_eq_one, boolOfCode_toNat, Header.ofWord_toWord]

theorem trap (f : Fr) (v : Word) (cause : BitVec 8) : Statement (.trap f v cause) := by
  intro h r hr
  obtain rfl := Option.some.inj hr
  replace h : (f.ok [.l] false && f.form.litsOk false true false && f.holdsOk false true false && decide (cause = 0x0D ∨ 0x80 ≤ cause.toNat)) = true := h
  simp only [Bool.and_eq_true] at h
  obtain ⟨⟨⟨h0, h1⟩, h2⟩, h3⟩ := h
  obtain ⟨hf, hs⟩ := Fr.ok_forms h0
  have := cause.isLt
  have hl : f.form.litsOk ((Src.reg 0)).isLit ((Src.lit v)).isLit ((Src.reg 0)).isLit = true := by
    have h := h1
    first | exact h | (simp only [isLit_reg, isLit_lit, isLit_offset, Option.getD, Option.any, Bool.not_false, Bool.and_true] at h ⊢; exact h)
  refine ⟨fits_mk (by decide) hl h2 (by decide) (by omega) ?_ ?_, ?_, hs, ?_⟩
  · intro e; rw [e] at hf; simp at hf
  · intro e; simp_all [Src.num, num_zero, Sat.code, Rnd.code, BExt.code, Option.getD] <;> omega
  · simp only [form_mk, opc_mk]; rw [show formsOf 0x08 = [.l] from by decide]; exact hf
  · rw [show parse (mkRaw f 0x08 0 (cause.toNat) 0 (Src.reg 0) (Src.lit v) (Src.reg 0)) = parseTrap (mkRaw f 0x08 0 (cause.toNat) 0 (Src.reg 0) (Src.lit v) (Src.reg 0)) from by simp [parse, parseRow0, opc_mk, sub_mk]]
    have e0 : (cause.toNat) / 2 ^ 0 % 2 ^ 8 = cause.toNat := by omega
    unfold parseTrap
    simp only [m_mk, fr_mk, off_mk hl, e0]
    try simp [Option.bind, toNat_beq_one, toNat_eq_one, boolOfCode_toNat, Header.ofWord_toWord]

theorem svc (f : Fr) (v : Word) : Statement (.svc f v) := by
  intro h r hr
  obtain rfl := Option.some.inj hr
  replace h : (f.ok [.l] false && f.form.litsOk false true false && f.holdsOk false true false) = true := h
  simp only [Bool.and_eq_true] at h
  obtain ⟨⟨h0, h1⟩, h2⟩ := h
  obtain ⟨hf, hs⟩ := Fr.ok_forms h0
  have hl : f.form.litsOk ((Src.reg 0)).isLit ((Src.lit v)).isLit ((Src.reg 0)).isLit = true := by
    have h := h1
    first | exact h | (simp only [isLit_reg, isLit_lit, isLit_offset, Option.getD, Option.any, Bool.not_false, Bool.and_true] at h ⊢; exact h)
  refine ⟨fits_mk (by decide) hl h2 (by decide) (by decide) ?_ ?_, ?_, hs, ?_⟩
  · intro e; rw [e] at hf; simp at hf
  · intro e; decide
  · simp only [form_mk, opc_mk]; rw [show formsOf 0x09 = [.l] from by decide]; exact hf
  · rw [show parse (mkRaw f 0x09 0 (0) 0 (Src.reg 0) (Src.lit v) (Src.reg 0)) = parseSvc (mkRaw f 0x09 0 (0) 0 (Src.reg 0) (Src.lit v) (Src.reg 0)) from by simp [parse, parseRow0, opc_mk, sub_mk]]
    unfold parseSvc
    simp only [m_mk, fr_mk, off_mk hl]
    try simp [Option.bind, toNat_beq_one, toNat_eq_one, boolOfCode_toNat, Header.ofWord_toWord]

theorem bkpt (f : Fr) (v : Word) : Statement (.bkpt f v) := by
  intro h r hr
  obtain rfl := Option.some.inj hr
  replace h : (f.ok [.l] false && f.form.litsOk false true false && f.holdsOk false true false) = true := h
  simp only [Bool.and_eq_true] at h
  obtain ⟨⟨h0, h1⟩, h2⟩ := h
  obtain ⟨hf, hs⟩ := Fr.ok_forms h0
  have hl : f.form.litsOk ((Src.reg 0)).isLit ((Src.lit v)).isLit ((Src.reg 0)).isLit = true := by
    have h := h1
    first | exact h | (simp only [isLit_reg, isLit_lit, isLit_offset, Option.getD, Option.any, Bool.not_false, Bool.and_true] at h ⊢; exact h)
  refine ⟨fits_mk (by decide) hl h2 (by decide) (by decide) ?_ ?_, ?_, hs, ?_⟩
  · intro e; rw [e] at hf; simp at hf
  · intro e; decide
  · simp only [form_mk, opc_mk]; rw [show formsOf 0x0F = [.l] from by decide]; exact hf
  · rw [show parse (mkRaw f 0x0F 0 (0) 0 (Src.reg 0) (Src.lit v) (Src.reg 0)) = parseBkpt (mkRaw f 0x0F 0 (0) 0 (Src.reg 0) (Src.lit v) (Src.reg 0)) from by simp [parse, parseRow0, opc_mk, sub_mk]]
    unfold parseBkpt
    simp only [m_mk, fr_mk, off_mk hl]
    try simp [Option.bind, toNat_beq_one, toNat_eq_one, boolOfCode_toNat, Header.ofWord_toWord]

theorem rth (f : Fr) : Statement (.rth f) := by
  intro h r hr
  obtain rfl := Option.some.inj hr
  replace h : (f.ok [.s] false && f.form.litsOk false false false && f.holdsOk false false false) = true := h
  simp only [Bool.and_eq_true] at h
  obtain ⟨⟨h0, h1⟩, h2⟩ := h
  obtain ⟨hf, hs⟩ := Fr.ok_forms h0
  have hl : f.form.litsOk ((Src.reg 0)).isLit ((Src.reg 0)).isLit ((Src.reg 0)).isLit = true := by
    have h := h1
    first | exact h | (simp only [isLit_reg, isLit_lit, isLit_offset, Option.getD, Option.any, Bool.not_false, Bool.and_true] at h ⊢; exact h)
  refine ⟨fits_mk (by decide) hl h2 (by decide) (by decide) ?_ ?_, ?_, hs, ?_⟩
  · intro e; decide
  · intro e; rw [e] at hf; simp at hf
  · simp only [form_mk, opc_mk]; rw [show formsOf 0x0A = [.s] from by decide]; exact hf
  · rw [show parse (mkRaw f 0x0A 0 (0) 0 (Src.reg 0) (Src.reg 0) (Src.reg 0)) = parseRth (mkRaw f 0x0A 0 (0) 0 (Src.reg 0) (Src.reg 0) (Src.reg 0)) from by simp [parse, parseRow0, opc_mk, sub_mk]]
    unfold parseRth
    simp only [m_mk, fr_mk]
    try simp [Option.bind, toNat_beq_one, toNat_eq_one, boolOfCode_toNat, Header.ofWord_toWord]

theorem yieldw (f : Fr) : Statement (.yieldw f) := by
  intro h r hr
  obtain rfl := Option.some.inj hr
  replace h : (f.ok [.s] true && f.form.litsOk false false false && f.holdsOk false false false) = true := h
  simp only [Bool.and_eq_true] at h
  obtain ⟨⟨h0, h1⟩, h2⟩ := h
  obtain ⟨hf, hs⟩ := Fr.ok_forms h0
  have hl : f.form.litsOk ((Src.reg 0)).isLit ((Src.reg 0)).isLit ((Src.reg 0)).isLit = true := by
    have h := h1
    first | exact h | (simp only [isLit_reg, isLit_lit, isLit_offset, Option.getD, Option.any, Bool.not_false, Bool.and_true] at h ⊢; exact h)
  refine ⟨fits_mk (by decide) hl h2 (by decide) (by decide) ?_ ?_, ?_, hs, ?_⟩
  · intro e; decide
  · intro e; rw [e] at hf; simp at hf
  · simp only [form_mk, opc_mk]; rw [show formsOf 0x0B = [.s] from by decide]; exact hf
  · rw [show parse (mkRaw f 0x0B 0 (0) 0 (Src.reg 0) (Src.reg 0) (Src.reg 0)) = parseYieldw (mkRaw f 0x0B 0 (0) 0 (Src.reg 0) (Src.reg 0) (Src.reg 0)) from by simp [parse, parseRow0, opc_mk, sub_mk]]
    unfold parseYieldw
    simp only [m_mk, fr_mk]
    try simp [Option.bind, toNat_beq_one, toNat_eq_one, boolOfCode_toNat, Header.ofWord_toWord]

theorem waitv (f : Fr) (d : Reg) (a : Reg) (off : Word) (c : Src) (spc : Space) (sz : Size) (scope : Scope) (ne : Bool) : Statement (.waitv f d a off c spc sz scope ne) := by
  intro h r hr
  obtain rfl := Option.some.inj hr
  replace h : (f.ok [.e, .w] true && d.ok && a.pairOk && c.ok && (((f.form == .w && !c.isLit) || off == 0)) && f.form.litsOk false (f.form == .w && !c.isLit) c.isLit && f.holdsOk true (f.form == .w && !c.isLit) true && decide (sz.atomic ∧ sz.regs d ∧ c.sized sz)) = true := h
  simp only [Bool.and_eq_true] at h
  obtain ⟨⟨⟨⟨⟨⟨⟨h0, h1⟩, h2⟩, h3⟩, h4⟩, h5⟩, h6⟩, h7⟩ := h
  obtain ⟨hf, hs⟩ := Fr.ok_forms h0
  have := Space.code_lt spc
  have := Size.code_lt sz
  have := Scope.code_lt scope
  have := Bool.toNat_lt ne
  have hl : f.form.litsOk ((Src.reg a)).isLit ((Src.offset f.form c.isLit off)).isLit (c).isLit = true := by
    have h := h5
    first | exact h | (simp only [isLit_reg, isLit_lit, isLit_offset, Option.getD, Option.any, Bool.not_false, Bool.and_true] at h ⊢; exact h)
  refine ⟨fits_mk (by decide) hl h6 (by decide) (by omega) ?_ ?_, ?_, hs, ?_⟩
  · intro e; rw [e] at hf; simp at hf
  · intro e; rw [e] at hf; simp at hf
  · simp only [form_mk, opc_mk]; rw [show formsOf 0x0C = [.e, .w] from by decide]; exact hf
  · rw [show parse (mkRaw f 0x0C 0 (spc.code + 8 * sz.code + 256 * scope.code + 4096 * ne.toNat) d (Src.reg a) (Src.offset f.form c.isLit off) c) = parseWaitv (mkRaw f 0x0C 0 (spc.code + 8 * sz.code + 256 * scope.code + 4096 * ne.toNat) d (Src.reg a) (Src.offset f.form c.isLit off) c) from by simp [parse, parseRow0, opc_mk, sub_mk]]
    have e0 : (spc.code + 8 * sz.code + 256 * scope.code + 4096 * ne.toNat) / 2 ^ 0 % 2 ^ 3 = spc.code := by omega
    have e1 : (spc.code + 8 * sz.code + 256 * scope.code + 4096 * ne.toNat) / 2 ^ 3 % 2 ^ 3 = sz.code := by clear e0; omega
    have e2 : (spc.code + 8 * sz.code + 256 * scope.code + 4096 * ne.toNat) / 2 ^ 8 % 2 ^ 4 = scope.code := by clear e0 e1; omega
    have e3 : (spc.code + 8 * sz.code + 256 * scope.code + 4096 * ne.toNat) / 2 ^ 12 % 2 ^ 1 = ne.toNat := by clear e0 e1 e2; omega
    unfold parseWaitv
    simp only [m_mk, fr_mk, rd_mk, ra_mk, sc_mk hl, offset_mk hl (by intro e; have h := h4; simp only [decide_eq_true_eq, Bool.or_eq_true, beq_iff_eq, Bool.and_eq_true, Bool.not_eq_true', not_and] at h e; tauto), e0, e1, e2, e3]
    try simp [Option.bind, toNat_beq_one, toNat_eq_one, boolOfCode_toNat, Header.ofWord_toWord, Scope.ofCode_code, Size.ofCode_code, Space.ofCode_code]

theorem movs (f : Fr) (d : Reg) (sr : SReg) : Statement (.movs f d sr) := by
  intro h r hr
  obtain rfl := Option.some.inj hr
  replace h : (f.ok [.e] true && d.ok && f.form.litsOk false false false && f.holdsOk false false false && decide ((sr.wide → d.pairOk))) = true := h
  simp only [Bool.and_eq_true] at h
  obtain ⟨⟨⟨⟨h0, h1⟩, h2⟩, h3⟩, h4⟩ := h
  obtain ⟨hf, hs⟩ := Fr.ok_forms h0
  have := SReg.code_lt sr
  have hl : f.form.litsOk ((Src.reg 0)).isLit ((Src.reg 0)).isLit ((Src.reg 0)).isLit = true := by
    have h := h2
    first | exact h | (simp only [isLit_reg, isLit_lit, isLit_offset, Option.getD, Option.any, Bool.not_false, Bool.and_true] at h ⊢; exact h)
  refine ⟨fits_mk (by decide) hl h3 (by decide) (by omega) ?_ ?_, ?_, hs, ?_⟩
  · intro e; rw [e] at hf; simp at hf
  · intro e; rw [e] at hf; simp at hf
  · simp only [form_mk, opc_mk]; rw [show formsOf 0x0D = [.e] from by decide]; exact hf
  · rw [show parse (mkRaw f 0x0D 0 (sr.code) d (Src.reg 0) (Src.reg 0) (Src.reg 0)) = parseMovs (mkRaw f 0x0D 0 (sr.code) d (Src.reg 0) (Src.reg 0) (Src.reg 0)) from by simp [parse, parseRow0, opc_mk, sub_mk]]
    have e0 : (sr.code) / 2 ^ 0 % 2 ^ 10 = sr.code := by omega
    unfold parseMovs
    simp only [m_mk, fr_mk, rd_mk, e0]
    try simp [Option.bind, toNat_beq_one, toNat_eq_one, boolOfCode_toNat, Header.ofWord_toWord, SReg.ofCode_code]

theorem sets (f : Fr) (b : Src) (sr : SReg) : Statement (.sets f b sr) := by
  intro h r hr
  obtain rfl := Option.some.inj hr
  replace h : (f.ok [.e, .w] true && b.ok && f.form.litsOk false b.isLit false && f.holdsOk false true false && decide (sr.writable ∧ (sr.wide → b.pairOk))) = true := h
  simp only [Bool.and_eq_true] at h
  obtain ⟨⟨⟨⟨h0, h1⟩, h2⟩, h3⟩, h4⟩ := h
  obtain ⟨hf, hs⟩ := Fr.ok_forms h0
  have := SReg.code_lt sr
  have hl : f.form.litsOk ((Src.reg 0)).isLit (b).isLit ((Src.reg 0)).isLit = true := by
    have h := h2
    first | exact h | (simp only [isLit_reg, isLit_lit, isLit_offset, Option.getD, Option.any, Bool.not_false, Bool.and_true] at h ⊢; exact h)
  refine ⟨fits_mk (by decide) hl h3 (by decide) (by omega) ?_ ?_, ?_, hs, ?_⟩
  · intro e; rw [e] at hf; simp at hf
  · intro e; rw [e] at hf; simp at hf
  · simp only [form_mk, opc_mk]; rw [show formsOf 0x0E = [.e, .w] from by decide]; exact hf
  · rw [show parse (mkRaw f 0x0E 0 (sr.code) 0 (Src.reg 0) b (Src.reg 0)) = parseSets (mkRaw f 0x0E 0 (sr.code) 0 (Src.reg 0) b (Src.reg 0)) from by simp [parse, parseRow0, opc_mk, sub_mk]]
    have e0 : (sr.code) / 2 ^ 0 % 2 ^ 10 = sr.code := by omega
    unfold parseSets
    simp only [m_mk, fr_mk, sb_mk hl, e0]
    try simp [Option.bind, toNat_beq_one, toNat_eq_one, boolOfCode_toNat, Header.ofWord_toWord, SReg.ofCode_code]

theorem mov (f : Fr) (d : Reg) (b : Src) : Statement (.mov f d b) := by
  intro h r hr
  obtain rfl := Option.some.inj hr
  replace h : (f.ok [.s, .l] true && d.ok && b.ok && f.form.litsOk false b.isLit false && f.holdsOk false true false) = true := h
  simp only [Bool.and_eq_true] at h
  obtain ⟨⟨⟨⟨h0, h1⟩, h2⟩, h3⟩, h4⟩ := h
  obtain ⟨hf, hs⟩ := Fr.ok_forms h0
  have hl : f.form.litsOk ((Src.reg 0)).isLit (b).isLit ((Src.reg 0)).isLit = true := by
    have h := h3
    first | exact h | (simp only [isLit_reg, isLit_lit, isLit_offset, Option.getD, Option.any, Bool.not_false, Bool.and_true] at h ⊢; exact h)
  refine ⟨fits_mk (by decide) hl h4 (by decide) (by decide) ?_ ?_, ?_, hs, ?_⟩
  · intro e; decide
  · intro e; decide
  · simp only [form_mk, opc_mk]; rw [show formsOf 0x10 = [.s, .l] from by decide]; exact hf
  · rw [show parse (mkRaw f 0x10 0 (0) d (Src.reg 0) b (Src.reg 0)) = parseMov (mkRaw f 0x10 0 (0) d (Src.reg 0) b (Src.reg 0)) from by simp [parse, parseRow1, opc_mk, sub_mk]]
    unfold parseMov
    simp only [m_mk, fr_mk, rd_mk, sb_mk hl]
    try simp [Option.bind, toNat_beq_one, toNat_eq_one, boolOfCode_toNat, Header.ofWord_toWord]

theorem iadd (f : Fr) (d : Reg) (a : Src) (b : Src) (c : Option Src) (sat : Sat) : Statement (.iadd f d a b c sat) := by
  intro h r hr
  obtain rfl := Option.some.inj hr
  replace h : (f.ok [.s, .e, .l, .w] true && d.ok && a.ok && b.ok && c.all Src.ok && f.form.litsOk a.isLit b.isLit (c.any Src.isLit) && f.holdsOk true true c.isSome && decide ((f.form = .s → sat = .wrap ∧ c = none) ∧ (f.form = .l → c = none))) = true := h
  simp only [Bool.and_eq_true] at h
  obtain ⟨⟨⟨⟨⟨⟨⟨h0, h1⟩, h2⟩, h3⟩, h4⟩, h5⟩, h6⟩, h7⟩ := h
  obtain ⟨hf, hs⟩ := Fr.ok_forms h0
  have := Bool.toNat_lt c.isSome
  have := Sat.code_lt sat
  have hl : f.form.litsOk (a).isLit (b).isLit ((c.getD (Src.reg 0))).isLit = true := by
    have h := h5
    cases c <;> first | exact h | (simp only [isLit_reg, isLit_lit, isLit_offset, Option.getD, Option.any, Bool.not_false, Bool.and_true] at h ⊢; exact h)
  refine ⟨fits_mk (by decide) hl h6 (by decide) (by omega) ?_ ?_, ?_, hs, ?_⟩
  · intro e; cases c <;> simp_all [Src.num, num_zero, Sat.code, Rnd.code, BExt.code, Option.getD] <;> omega
  · intro e; cases c <;> simp_all [Src.num, num_zero, Sat.code, Rnd.code, BExt.code, Option.getD] <;> omega
  · simp only [form_mk, opc_mk]; rw [show formsOf 0x11 = [.s, .e, .l, .w] from by decide]; exact hf
  · rw [show parse (mkRaw f 0x11 0 (sat.code + 4 * c.isSome.toNat) d a b (c.getD (Src.reg 0))) = parseIadd (mkRaw f 0x11 0 (sat.code + 4 * c.isSome.toNat) d a b (c.getD (Src.reg 0))) from by simp [parse, parseRow1, opc_mk, sub_mk]]
    have e0 : (sat.code + 4 * c.isSome.toNat) / 2 ^ 0 % 2 ^ 2 = sat.code := by omega
    have e1 : (sat.code + 4 * c.isSome.toNat) / 2 ^ 2 % 2 ^ 1 = c.isSome.toNat := by clear e0; omega
    unfold parseIadd
    simp only [m_mk, fr_mk, rd_mk, sa_mk hl, sb_mk hl, sc_mk hl, e0, e1]
    cases c <;> try simp [Option.bind, toNat_beq_one, toNat_eq_one, boolOfCode_toNat, Header.ofWord_toWord, Sat.ofCode_code] <;> simp_all

theorem isub (f : Fr) (d : Reg) (a : Src) (b : Src) (c : Option Src) (sat : Sat) : Statement (.isub f d a b c sat) := by
  intro h r hr
  obtain rfl := Option.some.inj hr
  replace h : (f.ok [.s, .e, .l, .w] true && d.ok && a.ok && b.ok && c.all Src.ok && f.form.litsOk a.isLit b.isLit (c.any Src.isLit) && f.holdsOk true true c.isSome && decide ((f.form = .s → sat = .wrap ∧ c = none) ∧ (f.form = .l → c = none))) = true := h
  simp only [Bool.and_eq_true] at h
  obtain ⟨⟨⟨⟨⟨⟨⟨h0, h1⟩, h2⟩, h3⟩, h4⟩, h5⟩, h6⟩, h7⟩ := h
  obtain ⟨hf, hs⟩ := Fr.ok_forms h0
  have := Bool.toNat_lt c.isSome
  have := Sat.code_lt sat
  have hl : f.form.litsOk (a).isLit (b).isLit ((c.getD (Src.reg 0))).isLit = true := by
    have h := h5
    cases c <;> first | exact h | (simp only [isLit_reg, isLit_lit, isLit_offset, Option.getD, Option.any, Bool.not_false, Bool.and_true] at h ⊢; exact h)
  refine ⟨fits_mk (by decide) hl h6 (by decide) (by omega) ?_ ?_, ?_, hs, ?_⟩
  · intro e; cases c <;> simp_all [Src.num, num_zero, Sat.code, Rnd.code, BExt.code, Option.getD] <;> omega
  · intro e; cases c <;> simp_all [Src.num, num_zero, Sat.code, Rnd.code, BExt.code, Option.getD] <;> omega
  · simp only [form_mk, opc_mk]; rw [show formsOf 0x12 = [.s, .e, .l, .w] from by decide]; exact hf
  · rw [show parse (mkRaw f 0x12 0 (sat.code + 4 * c.isSome.toNat) d a b (c.getD (Src.reg 0))) = parseIsub (mkRaw f 0x12 0 (sat.code + 4 * c.isSome.toNat) d a b (c.getD (Src.reg 0))) from by simp [parse, parseRow1, opc_mk, sub_mk]]
    have e0 : (sat.code + 4 * c.isSome.toNat) / 2 ^ 0 % 2 ^ 2 = sat.code := by omega
    have e1 : (sat.code + 4 * c.isSome.toNat) / 2 ^ 2 % 2 ^ 1 = c.isSome.toNat := by clear e0; omega
    unfold parseIsub
    simp only [m_mk, fr_mk, rd_mk, sa_mk hl, sb_mk hl, sc_mk hl, e0, e1]
    cases c <;> try simp [Option.bind, toNat_beq_one, toNat_eq_one, boolOfCode_toNat, Header.ofWord_toWord, Sat.ofCode_code] <;> simp_all

theorem imul (f : Fr) (d : Reg) (a : Reg) (b : Src) : Statement (.imul f d a b) := by
  intro h r hr
  obtain rfl := Option.some.inj hr
  replace h : (f.ok [.s, .l] true && d.ok && a.ok && b.ok && f.form.litsOk false b.isLit false && f.holdsOk true true false) = true := h
  simp only [Bool.and_eq_true] at h
  obtain ⟨⟨⟨⟨⟨h0, h1⟩, h2⟩, h3⟩, h4⟩, h5⟩ := h
  obtain ⟨hf, hs⟩ := Fr.ok_forms h0
  have hl : f.form.litsOk ((Src.reg a)).isLit (b).isLit ((Src.reg 0)).isLit = true := by
    have h := h4
    first | exact h | (simp only [isLit_reg, isLit_lit, isLit_offset, Option.getD, Option.any, Bool.not_false, Bool.and_true] at h ⊢; exact h)
  refine ⟨fits_mk (by decide) hl h5 (by decide) (by decide) ?_ ?_, ?_, hs, ?_⟩
  · intro e; decide
  · intro e; decide
  · simp only [form_mk, opc_mk]; rw [show formsOf 0x13 = [.s, .l] from by decide]; exact hf
  · rw [show parse (mkRaw f 0x13 0 (0) d (Src.reg a) b (Src.reg 0)) = parseImul (mkRaw f 0x13 0 (0) d (Src.reg a) b (Src.reg 0)) from by simp [parse, parseRow1, opc_mk, sub_mk]]
    unfold parseImul
    simp only [m_mk, fr_mk, rd_mk, ra_mk, sb_mk hl]
    try simp [Option.bind, toNat_beq_one, toNat_eq_one, boolOfCode_toNat, Header.ofWord_toWord]

theorem imulh (f : Fr) (d : Reg) (a : Reg) (b : Src) (u : Bool) : Statement (.imulh f d a b u) := by
  intro h r hr
  obtain rfl := Option.some.inj hr
  replace h : (f.ok [.s, .l] true && d.ok && a.ok && b.ok && f.form.litsOk false b.isLit false && f.holdsOk true true false && decide ((f.form = .s → u = false))) = true := h
  simp only [Bool.and_eq_true] at h
  obtain ⟨⟨⟨⟨⟨⟨h0, h1⟩, h2⟩, h3⟩, h4⟩, h5⟩, h6⟩ := h
  obtain ⟨hf, hs⟩ := Fr.ok_forms h0
  have := Bool.toNat_lt u
  have hl : f.form.litsOk ((Src.reg a)).isLit (b).isLit ((Src.reg 0)).isLit = true := by
    have h := h4
    first | exact h | (simp only [isLit_reg, isLit_lit, isLit_offset, Option.getD, Option.any, Bool.not_false, Bool.and_true] at h ⊢; exact h)
  refine ⟨fits_mk (by decide) hl h5 (by decide) (by omega) ?_ ?_, ?_, hs, ?_⟩
  · intro e; simp_all [Src.num, num_zero, Sat.code, Rnd.code, BExt.code, Option.getD] <;> omega
  · intro e; simp_all [Src.num, num_zero, Sat.code, Rnd.code, BExt.code, Option.getD] <;> omega
  · simp only [form_mk, opc_mk]; rw [show formsOf 0x14 = [.s, .l] from by decide]; exact hf
  · rw [show parse (mkRaw f 0x14 0 (u.toNat) d (Src.reg a) b (Src.reg 0)) = parseImulh (mkRaw f 0x14 0 (u.toNat) d (Src.reg a) b (Src.reg 0)) from by simp [parse, parseRow1, opc_mk, sub_mk]]
    have e0 : (u.toNat) / 2 ^ 0 % 2 ^ 1 = u.toNat := by omega
    unfold parseImulh
    simp only [m_mk, fr_mk, rd_mk, ra_mk, sb_mk hl, e0]
    try simp [Option.bind, toNat_beq_one, toNat_eq_one, boolOfCode_toNat, Header.ofWord_toWord]

theorem imad (f : Fr) (d : Reg) (a : Src) (b : Src) (c : Src) (wide : Bool) (u : Bool) : Statement (.imad f d a b c wide u) := by
  intro h r hr
  obtain rfl := Option.some.inj hr
  replace h : (f.ok [.e, .w] true && d.ok && a.ok && b.ok && c.ok && f.form.litsOk a.isLit b.isLit c.isLit && f.holdsOk true true true && decide ((u → wide) ∧ (wide → d.pairOk ∧ c.pairOk))) = true := h
  simp only [Bool.and_eq_true] at h
  obtain ⟨⟨⟨⟨⟨⟨⟨h0, h1⟩, h2⟩, h3⟩, h4⟩, h5⟩, h6⟩, h7⟩ := h
  obtain ⟨hf, hs⟩ := Fr.ok_forms h0
  have := Bool.toNat_lt wide
  have := Bool.toNat_lt u
  have hl : f.form.litsOk (a).isLit (b).isLit (c).isLit = true := by
    have h := h5
    first | exact h | (simp only [isLit_reg, isLit_lit, isLit_offset, Option.getD, Option.any, Bool.not_false, Bool.and_true] at h ⊢; exact h)
  refine ⟨fits_mk (by decide) hl h6 (by decide) (by omega) ?_ ?_, ?_, hs, ?_⟩
  · intro e; rw [e] at hf; simp at hf
  · intro e; rw [e] at hf; simp at hf
  · simp only [form_mk, opc_mk]; rw [show formsOf 0x15 = [.e, .w] from by decide]; exact hf
  · rw [show parse (mkRaw f 0x15 0 (wide.toNat + 2 * u.toNat) d a b c) = parseImad (mkRaw f 0x15 0 (wide.toNat + 2 * u.toNat) d a b c) from by simp [parse, parseRow1, opc_mk, sub_mk]]
    have e0 : (wide.toNat + 2 * u.toNat) / 2 ^ 0 % 2 ^ 1 = wide.toNat := by omega
    have e1 : (wide.toNat + 2 * u.toNat) / 2 ^ 1 % 2 ^ 1 = u.toNat := by clear e0; omega
    unfold parseImad
    simp only [m_mk, fr_mk, rd_mk, sa_mk hl, sb_mk hl, sc_mk hl, e0, e1]
    try simp [Option.bind, toNat_beq_one, toNat_eq_one, boolOfCode_toNat, Header.ofWord_toWord]

theorem imin (f : Fr) (d : Reg) (a : Reg) (b : Src) (u : Bool) : Statement (.imin f d a b u) := by
  intro h r hr
  obtain rfl := Option.some.inj hr
  replace h : (f.ok [.s, .l] true && d.ok && a.ok && b.ok && f.form.litsOk false b.isLit false && f.holdsOk true true false && decide ((f.form = .s → u = false))) = true := h
  simp only [Bool.and_eq_true] at h
  obtain ⟨⟨⟨⟨⟨⟨h0, h1⟩, h2⟩, h3⟩, h4⟩, h5⟩, h6⟩ := h
  obtain ⟨hf, hs⟩ := Fr.ok_forms h0
  have := Bool.toNat_lt u
  have hl : f.form.litsOk ((Src.reg a)).isLit (b).isLit ((Src.reg 0)).isLit = true := by
    have h := h4
    first | exact h | (simp only [isLit_reg, isLit_lit, isLit_offset, Option.getD, Option.any, Bool.not_false, Bool.and_true] at h ⊢; exact h)
  refine ⟨fits_mk (by decide) hl h5 (by decide) (by omega) ?_ ?_, ?_, hs, ?_⟩
  · intro e; simp_all [Src.num, num_zero, Sat.code, Rnd.code, BExt.code, Option.getD] <;> omega
  · intro e; simp_all [Src.num, num_zero, Sat.code, Rnd.code, BExt.code, Option.getD] <;> omega
  · simp only [form_mk, opc_mk]; rw [show formsOf 0x16 = [.s, .l] from by decide]; exact hf
  · rw [show parse (mkRaw f 0x16 0 (u.toNat) d (Src.reg a) b (Src.reg 0)) = parseImin (mkRaw f 0x16 0 (u.toNat) d (Src.reg a) b (Src.reg 0)) from by simp [parse, parseRow1, opc_mk, sub_mk]]
    have e0 : (u.toNat) / 2 ^ 0 % 2 ^ 1 = u.toNat := by omega
    unfold parseImin
    simp only [m_mk, fr_mk, rd_mk, ra_mk, sb_mk hl, e0]
    try simp [Option.bind, toNat_beq_one, toNat_eq_one, boolOfCode_toNat, Header.ofWord_toWord]

theorem imax (f : Fr) (d : Reg) (a : Reg) (b : Src) (u : Bool) : Statement (.imax f d a b u) := by
  intro h r hr
  obtain rfl := Option.some.inj hr
  replace h : (f.ok [.s, .l] true && d.ok && a.ok && b.ok && f.form.litsOk false b.isLit false && f.holdsOk true true false && decide ((f.form = .s → u = false))) = true := h
  simp only [Bool.and_eq_true] at h
  obtain ⟨⟨⟨⟨⟨⟨h0, h1⟩, h2⟩, h3⟩, h4⟩, h5⟩, h6⟩ := h
  obtain ⟨hf, hs⟩ := Fr.ok_forms h0
  have := Bool.toNat_lt u
  have hl : f.form.litsOk ((Src.reg a)).isLit (b).isLit ((Src.reg 0)).isLit = true := by
    have h := h4
    first | exact h | (simp only [isLit_reg, isLit_lit, isLit_offset, Option.getD, Option.any, Bool.not_false, Bool.and_true] at h ⊢; exact h)
  refine ⟨fits_mk (by decide) hl h5 (by decide) (by omega) ?_ ?_, ?_, hs, ?_⟩
  · intro e; simp_all [Src.num, num_zero, Sat.code, Rnd.code, BExt.code, Option.getD] <;> omega
  · intro e; simp_all [Src.num, num_zero, Sat.code, Rnd.code, BExt.code, Option.getD] <;> omega
  · simp only [form_mk, opc_mk]; rw [show formsOf 0x17 = [.s, .l] from by decide]; exact hf
  · rw [show parse (mkRaw f 0x17 0 (u.toNat) d (Src.reg a) b (Src.reg 0)) = parseImax (mkRaw f 0x17 0 (u.toNat) d (Src.reg a) b (Src.reg 0)) from by simp [parse, parseRow1, opc_mk, sub_mk]]
    have e0 : (u.toNat) / 2 ^ 0 % 2 ^ 1 = u.toNat := by omega
    unfold parseImax
    simp only [m_mk, fr_mk, rd_mk, ra_mk, sb_mk hl, e0]
    try simp [Option.bind, toNat_beq_one, toNat_eq_one, boolOfCode_toNat, Header.ofWord_toWord]

theorem iabs (f : Fr) (d : Reg) (a : Reg) : Statement (.iabs f d a) := by
  intro h r hr
  obtain rfl := Option.some.inj hr
  replace h : (f.ok [.s] true && d.ok && a.ok && f.form.litsOk false false false && f.holdsOk true false false) = true := h
  simp only [Bool.and_eq_true] at h
  obtain ⟨⟨⟨⟨h0, h1⟩, h2⟩, h3⟩, h4⟩ := h
  obtain ⟨hf, hs⟩ := Fr.ok_forms h0
  have hl : f.form.litsOk ((Src.reg a)).isLit ((Src.reg 0)).isLit ((Src.reg 0)).isLit = true := by
    have h := h3
    first | exact h | (simp only [isLit_reg, isLit_lit, isLit_offset, Option.getD, Option.any, Bool.not_false, Bool.and_true] at h ⊢; exact h)
  refine ⟨fits_mk (by decide) hl h4 (by decide) (by decide) ?_ ?_, ?_, hs, ?_⟩
  · intro e; decide
  · intro e; rw [e] at hf; simp at hf
  · simp only [form_mk, opc_mk]; rw [show formsOf 0x18 = [.s] from by decide]; exact hf
  · rw [show parse (mkRaw f 0x18 0 (0) d (Src.reg a) (Src.reg 0) (Src.reg 0)) = parseIabs (mkRaw f 0x18 0 (0) d (Src.reg a) (Src.reg 0) (Src.reg 0)) from by simp [parse, parseRow1, opc_mk, sub_mk]]
    unfold parseIabs
    simp only [m_mk, fr_mk, rd_mk, ra_mk]
    try simp [Option.bind, toNat_beq_one, toNat_eq_one, boolOfCode_toNat, Header.ofWord_toWord]

theorem iadd64 (f : Fr) (d : Reg) (a : Reg) (b : Reg) (neg : Bool) (bext : BExt) : Statement (.iadd64 f d a b neg bext) := by
  intro h r hr
  obtain rfl := Option.some.inj hr
  replace h : (f.ok [.s, .e] true && d.pairOk && a.pairOk && b.ok && f.form.litsOk false false false && f.holdsOk true true false && decide ((bext = .pair → b.pairOk) ∧ (f.form = .s → neg = false ∧ bext = .pair))) = true := h
  simp only [Bool.and_eq_true] at h
  obtain ⟨⟨⟨⟨⟨⟨h0, h1⟩, h2⟩, h3⟩, h4⟩, h5⟩, h6⟩ := h
  obtain ⟨hf, hs⟩ := Fr.ok_forms h0
  have := Bool.toNat_lt neg
  have := BExt.code_lt bext
  have hl : f.form.litsOk ((Src.reg a)).isLit ((Src.reg b)).isLit ((Src.reg 0)).isLit = true := by
    have h := h4
    first | exact h | (simp only [isLit_reg, isLit_lit, isLit_offset, Option.getD, Option.any, Bool.not_false, Bool.and_true] at h ⊢; exact h)
  refine ⟨fits_mk (by decide) hl h5 (by decide) (by omega) ?_ ?_, ?_, hs, ?_⟩
  · intro e; simp_all [Src.num, num_zero, Sat.code, Rnd.code, BExt.code, Option.getD] <;> omega
  · intro e; rw [e] at hf; simp at hf
  · simp only [form_mk, opc_mk]; rw [show formsOf 0x19 = [.s, .e] from by decide]; exact hf
  · rw [show parse (mkRaw f 0x19 0 (neg.toNat + 2 * bext.code) d (Src.reg a) (Src.reg b) (Src.reg 0)) = parseIadd64 (mkRaw f 0x19 0 (neg.toNat + 2 * bext.code) d (Src.reg a) (Src.reg b) (Src.reg 0)) from by simp [parse, parseRow1, opc_mk, sub_mk]]
    have e0 : (neg.toNat + 2 * bext.code) / 2 ^ 0 % 2 ^ 1 = neg.toNat := by omega
    have e1 : (neg.toNat + 2 * bext.code) / 2 ^ 1 % 2 ^ 2 = bext.code := by clear e0; omega
    unfold parseIadd64
    simp only [m_mk, fr_mk, rd_mk, ra_mk, rb_mk, e0, e1]
    try simp [Option.bind, toNat_beq_one, toNat_eq_one, boolOfCode_toNat, Header.ofWord_toWord, BExt.ofCode_code]

theorem lea (f : Fr) (d : Reg) (a : Src) (b : Src) (c : Option Src) (sh : BitVec 3) (bu : Bool) : Statement (.lea f d a b c sh bu) := by
  intro h r hr
  obtain rfl := Option.some.inj hr
  replace h : (f.ok [.e, .w] true && d.pairOk && a.pairOk && b.ok && c.all Src.ok && f.form.litsOk a.isLit b.isLit (c.any Src.isLit) && f.holdsOk true true c.isSome) = true := h
  simp only [Bool.and_eq_true] at h
  obtain ⟨⟨⟨⟨⟨⟨h0, h1⟩, h2⟩, h3⟩, h4⟩, h5⟩, h6⟩ := h
  obtain ⟨hf, hs⟩ := Fr.ok_forms h0
  have := Bool.toNat_lt c.isSome
  have := sh.isLt
  have := Bool.toNat_lt bu
  have hl : f.form.litsOk (a).isLit (b).isLit ((c.getD (Src.reg 0))).isLit = true := by
    have h := h5
    cases c <;> first | exact h | (simp only [isLit_reg, isLit_lit, isLit_offset, Option.getD, Option.any, Bool.not_false, Bool.and_true] at h ⊢; exact h)
  refine ⟨fits_mk (by decide) hl h6 (by decide) (by omega) ?_ ?_, ?_, hs, ?_⟩
  · intro e; rw [e] at hf; simp at hf
  · intro e; rw [e] at hf; simp at hf
  · simp only [form_mk, opc_mk]; rw [show formsOf 0x1A = [.e, .w] from by decide]; exact hf
  · rw [show parse (mkRaw f 0x1A 0 (sh.toNat + 8 * c.isSome.toNat + 16 * bu.toNat) d a b (c.getD (Src.reg 0))) = parseLea (mkRaw f 0x1A 0 (sh.toNat + 8 * c.isSome.toNat + 16 * bu.toNat) d a b (c.getD (Src.reg 0))) from by simp [parse, parseRow1, opc_mk, sub_mk]]
    have e0 : (sh.toNat + 8 * c.isSome.toNat + 16 * bu.toNat) / 2 ^ 0 % 2 ^ 3 = sh.toNat := by omega
    have e1 : (sh.toNat + 8 * c.isSome.toNat + 16 * bu.toNat) / 2 ^ 3 % 2 ^ 1 = c.isSome.toNat := by clear e0; omega
    have e2 : (sh.toNat + 8 * c.isSome.toNat + 16 * bu.toNat) / 2 ^ 4 % 2 ^ 1 = bu.toNat := by clear e0 e1; omega
    unfold parseLea
    simp only [m_mk, fr_mk, rd_mk, sa_mk hl, sb_mk hl, sc_mk hl, e0, e1, e2]
    cases c <;> try simp [Option.bind, toNat_beq_one, toNat_eq_one, boolOfCode_toNat, Header.ofWord_toWord] <;> simp_all

theorem isad (f : Fr) (d : Reg) (a : Src) (b : Src) (c : Src) (u : Bool) : Statement (.isad f d a b c u) := by
  intro h r hr
  obtain rfl := Option.some.inj hr
  replace h : (f.ok [.e, .w] true && d.ok && a.ok && b.ok && c.ok && f.form.litsOk a.isLit b.isLit c.isLit && f.holdsOk true true true) = true := h
  simp only [Bool.and_eq_true] at h
  obtain ⟨⟨⟨⟨⟨⟨h0, h1⟩, h2⟩, h3⟩, h4⟩, h5⟩, h6⟩ := h
  obtain ⟨hf, hs⟩ := Fr.ok_forms h0
  have := Bool.toNat_lt u
  have hl : f.form.litsOk (a).isLit (b).isLit (c).isLit = true := by
    have h := h5
    first | exact h | (simp only [isLit_reg, isLit_lit, isLit_offset, Option.getD, Option.any, Bool.not_false, Bool.and_true] at h ⊢; exact h)
  refine ⟨fits_mk (by decide) hl h6 (by decide) (by omega) ?_ ?_, ?_, hs, ?_⟩
  · intro e; rw [e] at hf; simp at hf
  · intro e; rw [e] at hf; simp at hf
  · simp only [form_mk, opc_mk]; rw [show formsOf 0x1B = [.e, .w] from by decide]; exact hf
  · rw [show parse (mkRaw f 0x1B 0 (u.toNat) d a b c) = parseIsad (mkRaw f 0x1B 0 (u.toNat) d a b c) from by simp [parse, parseRow1, opc_mk, sub_mk]]
    have e0 : (u.toNat) / 2 ^ 0 % 2 ^ 1 = u.toNat := by omega
    unfold parseIsad
    simp only [m_mk, fr_mk, rd_mk, sa_mk hl, sb_mk hl, sc_mk hl, e0]
    try simp [Option.bind, toNat_beq_one, toNat_eq_one, boolOfCode_toNat, Header.ofWord_toWord]

theorem idot4 (f : Fr) (d : Reg) (a : Src) (b : Src) (c : Src) (au : Bool) (bu : Bool) (sat : Bool) : Statement (.idot4 f d a b c au bu sat) := by
  intro h r hr
  obtain rfl := Option.some.inj hr
  replace h : (f.ok [.e, .w] true && d.ok && a.ok && b.ok && c.ok && f.form.litsOk a.isLit b.isLit c.isLit && f.holdsOk true true true) = true := h
  simp only [Bool.and_eq_true] at h
  obtain ⟨⟨⟨⟨⟨⟨h0, h1⟩, h2⟩, h3⟩, h4⟩, h5⟩, h6⟩ := h
  obtain ⟨hf, hs⟩ := Fr.ok_forms h0
  have := Bool.toNat_lt au
  have := Bool.toNat_lt bu
  have := Bool.toNat_lt sat
  have hl : f.form.litsOk (a).isLit (b).isLit (c).isLit = true := by
    have h := h5
    first | exact h | (simp only [isLit_reg, isLit_lit, isLit_offset, Option.getD, Option.any, Bool.not_false, Bool.and_true] at h ⊢; exact h)
  refine ⟨fits_mk (by decide) hl h6 (by decide) (by omega) ?_ ?_, ?_, hs, ?_⟩
  · intro e; rw [e] at hf; simp at hf
  · intro e; rw [e] at hf; simp at hf
  · simp only [form_mk, opc_mk]; rw [show formsOf 0x1C = [.e, .w] from by decide]; exact hf
  · rw [show parse (mkRaw f 0x1C 0 (au.toNat + 2 * bu.toNat + 4 * sat.toNat) d a b c) = parseIdot4 (mkRaw f 0x1C 0 (au.toNat + 2 * bu.toNat + 4 * sat.toNat) d a b c) from by simp [parse, parseRow1, opc_mk, sub_mk]]
    have e0 : (au.toNat + 2 * bu.toNat + 4 * sat.toNat) / 2 ^ 0 % 2 ^ 1 = au.toNat := by omega
    have e1 : (au.toNat + 2 * bu.toNat + 4 * sat.toNat) / 2 ^ 1 % 2 ^ 1 = bu.toNat := by clear e0; omega
    have e2 : (au.toNat + 2 * bu.toNat + 4 * sat.toNat) / 2 ^ 2 % 2 ^ 1 = sat.toNat := by clear e0 e1; omega
    unfold parseIdot4
    simp only [m_mk, fr_mk, rd_mk, sa_mk hl, sb_mk hl, sc_mk hl, e0, e1, e2]
    try simp [Option.bind, toNat_beq_one, toNat_eq_one, boolOfCode_toNat, Header.ofWord_toWord]

theorem sel (f : Fr) (d : Reg) (a : Src) (b : Src) (c : Src) (neg : Bool) : Statement (.sel f d a b c neg) := by
  intro h r hr
  obtain rfl := Option.some.inj hr
  replace h : (f.ok [.e, .w] true && d.ok && a.ok && b.ok && c.ok && f.form.litsOk a.isLit b.isLit c.isLit && f.holdsOk true true true) = true := h
  simp only [Bool.and_eq_true] at h
  obtain ⟨⟨⟨⟨⟨⟨h0, h1⟩, h2⟩, h3⟩, h4⟩, h5⟩, h6⟩ := h
  obtain ⟨hf, hs⟩ := Fr.ok_forms h0
  have := Bool.toNat_lt neg
  have hl : f.form.litsOk (a).isLit (b).isLit (c).isLit = true := by
    have h := h5
    first | exact h | (simp only [isLit_reg, isLit_lit, isLit_offset, Option.getD, Option.any, Bool.not_false, Bool.and_true] at h ⊢; exact h)
  refine ⟨fits_mk (by decide) hl h6 (by decide) (by omega) ?_ ?_, ?_, hs, ?_⟩
  · intro e; rw [e] at hf; simp at hf
  · intro e; rw [e] at hf; simp at hf
  · simp only [form_mk, opc_mk]; rw [show formsOf 0x1D = [.e, .w] from by decide]; exact hf
  · rw [show parse (mkRaw f 0x1D 0 (neg.toNat) d a b c) = parseSel (mkRaw f 0x1D 0 (neg.toNat) d a b c) from by simp [parse, parseRow1, opc_mk, sub_mk]]
    have e0 : (neg.toNat) / 2 ^ 0 % 2 ^ 1 = neg.toNat := by omega
    unfold parseSel
    simp only [m_mk, fr_mk, rd_mk, sa_mk hl, sb_mk hl, sc_mk hl, e0]
    try simp [Option.bind, toNat_beq_one, toNat_eq_one, boolOfCode_toNat, Header.ofWord_toWord]

theorem prmt (f : Fr) (d : Reg) (a : Src) (b : Src) (c : Src) (swp : Bool) : Statement (.prmt f d a b c swp) := by
  intro h r hr
  obtain rfl := Option.some.inj hr
  replace h : (f.ok [.e, .w] true && d.ok && a.ok && b.ok && c.ok && f.form.litsOk a.isLit b.isLit c.isLit && f.holdsOk true true true) = true := h
  simp only [Bool.and_eq_true] at h
  obtain ⟨⟨⟨⟨⟨⟨h0, h1⟩, h2⟩, h3⟩, h4⟩, h5⟩, h6⟩ := h
  obtain ⟨hf, hs⟩ := Fr.ok_forms h0
  have := Bool.toNat_lt swp
  have hl : f.form.litsOk (a).isLit (b).isLit (c).isLit = true := by
    have h := h5
    first | exact h | (simp only [isLit_reg, isLit_lit, isLit_offset, Option.getD, Option.any, Bool.not_false, Bool.and_true] at h ⊢; exact h)
  refine ⟨fits_mk (by decide) hl h6 (by decide) (by omega) ?_ ?_, ?_, hs, ?_⟩
  · intro e; rw [e] at hf; simp at hf
  · intro e; rw [e] at hf; simp at hf
  · simp only [form_mk, opc_mk]; rw [show formsOf 0x1E = [.e, .w] from by decide]; exact hf
  · rw [show parse (mkRaw f 0x1E 0 (swp.toNat) d a b c) = parsePrmt (mkRaw f 0x1E 0 (swp.toNat) d a b c) from by simp [parse, parseRow1, opc_mk, sub_mk]]
    have e0 : (swp.toNat) / 2 ^ 0 % 2 ^ 1 = swp.toNat := by omega
    unfold parsePrmt
    simp only [m_mk, fr_mk, rd_mk, sa_mk hl, sb_mk hl, sc_mk hl, e0]
    try simp [Option.bind, toNat_beq_one, toNat_eq_one, boolOfCode_toNat, Header.ofWord_toWord]

theorem moviRead (f : Fr) (d : Reg) (a : Reg) (base : BitVec 10) : Statement (.moviRead f d a base) := by
  intro h r hr
  obtain rfl := Option.some.inj hr
  replace h : (f.ok [.e] true && d.ok && a.ok && f.form.litsOk false false false && f.holdsOk true false false && decide (base.toNat < 768)) = true := h
  simp only [Bool.and_eq_true] at h
  obtain ⟨⟨⟨⟨⟨h0, h1⟩, h2⟩, h3⟩, h4⟩, h5⟩ := h
  obtain ⟨hf, hs⟩ := Fr.ok_forms h0
  have := base.isLt
  have hl : f.form.litsOk ((Src.reg a)).isLit ((Src.reg 0)).isLit ((Src.reg 0)).isLit = true := by
    have h := h3
    first | exact h | (simp only [isLit_reg, isLit_lit, isLit_offset, Option.getD, Option.any, Bool.not_false, Bool.and_true] at h ⊢; exact h)
  refine ⟨fits_mk (by decide) hl h4 (by decide) (by omega) ?_ ?_, ?_, hs, ?_⟩
  · intro e; rw [e] at hf; simp at hf
  · intro e; rw [e] at hf; simp at hf
  · simp only [form_mk, opc_mk]; rw [show formsOf 0x1F = [.e] from by decide]; exact hf
  · rw [show parse (mkRaw f 0x1F 0 (base.toNat) d (Src.reg a) (Src.reg 0) (Src.reg 0)) = parseMoviRead (mkRaw f 0x1F 0 (base.toNat) d (Src.reg a) (Src.reg 0) (Src.reg 0)) from by simp [parse, parseRow1, opc_mk, sub_mk]]
    have e0 : (base.toNat) / 2 ^ 0 % 2 ^ 10 = base.toNat := by omega
    unfold parseMoviRead
    simp only [m_mk, fr_mk, rd_mk, ra_mk, e0]
    try simp [Option.bind, toNat_beq_one, toNat_eq_one, boolOfCode_toNat, Header.ofWord_toWord]

theorem moviWrite (f : Fr) (a : Reg) (b : Reg) (base : BitVec 10) : Statement (.moviWrite f a b base) := by
  intro h r hr
  obtain rfl := Option.some.inj hr
  replace h : (f.ok [.e] true && a.ok && b.ok && f.form.litsOk false false false && f.holdsOk true true false && decide (base.toNat < 768)) = true := h
  simp only [Bool.and_eq_true] at h
  obtain ⟨⟨⟨⟨⟨h0, h1⟩, h2⟩, h3⟩, h4⟩, h5⟩ := h
  obtain ⟨hf, hs⟩ := Fr.ok_forms h0
  have := base.isLt
  have hl : f.form.litsOk ((Src.reg a)).isLit ((Src.reg b)).isLit ((Src.reg 0)).isLit = true := by
    have h := h3
    first | exact h | (simp only [isLit_reg, isLit_lit, isLit_offset, Option.getD, Option.any, Bool.not_false, Bool.and_true] at h ⊢; exact h)
  refine ⟨fits_mk (by decide) hl h4 (by decide) (by omega) ?_ ?_, ?_, hs, ?_⟩
  · intro e; rw [e] at hf; simp at hf
  · intro e; rw [e] at hf; simp at hf
  · simp only [form_mk, opc_mk]; rw [show formsOf 0x1F = [.e] from by decide]; exact hf
  · rw [show parse (mkRaw f 0x1F 1 (base.toNat) 0 (Src.reg a) (Src.reg b) (Src.reg 0)) = parseMoviWrite (mkRaw f 0x1F 1 (base.toNat) 0 (Src.reg a) (Src.reg b) (Src.reg 0)) from by simp [parse, parseRow1, opc_mk, sub_mk]]
    have e0 : (base.toNat) / 2 ^ 0 % 2 ^ 10 = base.toNat := by omega
    unfold parseMoviWrite
    simp only [m_mk, fr_mk, ra_mk, rb_mk, e0]
    try simp [Option.bind, toNat_beq_one, toNat_eq_one, boolOfCode_toNat, Header.ofWord_toWord]

theorem and (f : Fr) (d : Reg) (a : Reg) (b : Src) : Statement (.and f d a b) := by
  intro h r hr
  obtain rfl := Option.some.inj hr
  replace h : (f.ok [.s, .l] true && d.ok && a.ok && b.ok && f.form.litsOk false b.isLit false && f.holdsOk true true false) = true := h
  simp only [Bool.and_eq_true] at h
  obtain ⟨⟨⟨⟨⟨h0, h1⟩, h2⟩, h3⟩, h4⟩, h5⟩ := h
  obtain ⟨hf, hs⟩ := Fr.ok_forms h0
  have hl : f.form.litsOk ((Src.reg a)).isLit (b).isLit ((Src.reg 0)).isLit = true := by
    have h := h4
    first | exact h | (simp only [isLit_reg, isLit_lit, isLit_offset, Option.getD, Option.any, Bool.not_false, Bool.and_true] at h ⊢; exact h)
  refine ⟨fits_mk (by decide) hl h5 (by decide) (by decide) ?_ ?_, ?_, hs, ?_⟩
  · intro e; decide
  · intro e; decide
  · simp only [form_mk, opc_mk]; rw [show formsOf 0x20 = [.s, .l] from by decide]; exact hf
  · rw [show parse (mkRaw f 0x20 0 (0) d (Src.reg a) b (Src.reg 0)) = parseAnd (mkRaw f 0x20 0 (0) d (Src.reg a) b (Src.reg 0)) from by simp [parse, parseRow2, opc_mk, sub_mk]]
    unfold parseAnd
    simp only [m_mk, fr_mk, rd_mk, ra_mk, sb_mk hl]
    try simp [Option.bind, toNat_beq_one, toNat_eq_one, boolOfCode_toNat, Header.ofWord_toWord]

theorem or (f : Fr) (d : Reg) (a : Reg) (b : Src) : Statement (.or f d a b) := by
  intro h r hr
  obtain rfl := Option.some.inj hr
  replace h : (f.ok [.s, .l] true && d.ok && a.ok && b.ok && f.form.litsOk false b.isLit false && f.holdsOk true true false) = true := h
  simp only [Bool.and_eq_true] at h
  obtain ⟨⟨⟨⟨⟨h0, h1⟩, h2⟩, h3⟩, h4⟩, h5⟩ := h
  obtain ⟨hf, hs⟩ := Fr.ok_forms h0
  have hl : f.form.litsOk ((Src.reg a)).isLit (b).isLit ((Src.reg 0)).isLit = true := by
    have h := h4
    first | exact h | (simp only [isLit_reg, isLit_lit, isLit_offset, Option.getD, Option.any, Bool.not_false, Bool.and_true] at h ⊢; exact h)
  refine ⟨fits_mk (by decide) hl h5 (by decide) (by decide) ?_ ?_, ?_, hs, ?_⟩
  · intro e; decide
  · intro e; decide
  · simp only [form_mk, opc_mk]; rw [show formsOf 0x21 = [.s, .l] from by decide]; exact hf
  · rw [show parse (mkRaw f 0x21 0 (0) d (Src.reg a) b (Src.reg 0)) = parseOr (mkRaw f 0x21 0 (0) d (Src.reg a) b (Src.reg 0)) from by simp [parse, parseRow2, opc_mk, sub_mk]]
    unfold parseOr
    simp only [m_mk, fr_mk, rd_mk, ra_mk, sb_mk hl]
    try simp [Option.bind, toNat_beq_one, toNat_eq_one, boolOfCode_toNat, Header.ofWord_toWord]

theorem xor (f : Fr) (d : Reg) (a : Reg) (b : Src) : Statement (.xor f d a b) := by
  intro h r hr
  obtain rfl := Option.some.inj hr
  replace h : (f.ok [.s, .l] true && d.ok && a.ok && b.ok && f.form.litsOk false b.isLit false && f.holdsOk true true false) = true := h
  simp only [Bool.and_eq_true] at h
  obtain ⟨⟨⟨⟨⟨h0, h1⟩, h2⟩, h3⟩, h4⟩, h5⟩ := h
  obtain ⟨hf, hs⟩ := Fr.ok_forms h0
  have hl : f.form.litsOk ((Src.reg a)).isLit (b).isLit ((Src.reg 0)).isLit = true := by
    have h := h4
    first | exact h | (simp only [isLit_reg, isLit_lit, isLit_offset, Option.getD, Option.any, Bool.not_false, Bool.and_true] at h ⊢; exact h)
  refine ⟨fits_mk (by decide) hl h5 (by decide) (by decide) ?_ ?_, ?_, hs, ?_⟩
  · intro e; decide
  · intro e; decide
  · simp only [form_mk, opc_mk]; rw [show formsOf 0x22 = [.s, .l] from by decide]; exact hf
  · rw [show parse (mkRaw f 0x22 0 (0) d (Src.reg a) b (Src.reg 0)) = parseXor (mkRaw f 0x22 0 (0) d (Src.reg a) b (Src.reg 0)) from by simp [parse, parseRow2, opc_mk, sub_mk]]
    unfold parseXor
    simp only [m_mk, fr_mk, rd_mk, ra_mk, sb_mk hl]
    try simp [Option.bind, toNat_beq_one, toNat_eq_one, boolOfCode_toNat, Header.ofWord_toWord]

theorem andn (f : Fr) (d : Reg) (a : Reg) (b : Src) : Statement (.andn f d a b) := by
  intro h r hr
  obtain rfl := Option.some.inj hr
  replace h : (f.ok [.s, .l] true && d.ok && a.ok && b.ok && f.form.litsOk false b.isLit false && f.holdsOk true true false) = true := h
  simp only [Bool.and_eq_true] at h
  obtain ⟨⟨⟨⟨⟨h0, h1⟩, h2⟩, h3⟩, h4⟩, h5⟩ := h
  obtain ⟨hf, hs⟩ := Fr.ok_forms h0
  have hl : f.form.litsOk ((Src.reg a)).isLit (b).isLit ((Src.reg 0)).isLit = true := by
    have h := h4
    first | exact h | (simp only [isLit_reg, isLit_lit, isLit_offset, Option.getD, Option.any, Bool.not_false, Bool.and_true] at h ⊢; exact h)
  refine ⟨fits_mk (by decide) hl h5 (by decide) (by decide) ?_ ?_, ?_, hs, ?_⟩
  · intro e; decide
  · intro e; decide
  · simp only [form_mk, opc_mk]; rw [show formsOf 0x23 = [.s, .l] from by decide]; exact hf
  · rw [show parse (mkRaw f 0x23 0 (0) d (Src.reg a) b (Src.reg 0)) = parseAndn (mkRaw f 0x23 0 (0) d (Src.reg a) b (Src.reg 0)) from by simp [parse, parseRow2, opc_mk, sub_mk]]
    unfold parseAndn
    simp only [m_mk, fr_mk, rd_mk, ra_mk, sb_mk hl]
    try simp [Option.bind, toNat_beq_one, toNat_eq_one, boolOfCode_toNat, Header.ofWord_toWord]

theorem shl (f : Fr) (d : Reg) (a : Reg) (b : Src) : Statement (.shl f d a b) := by
  intro h r hr
  obtain rfl := Option.some.inj hr
  replace h : (f.ok [.s, .l] true && d.ok && a.ok && b.ok && f.form.litsOk false b.isLit false && f.holdsOk true true false) = true := h
  simp only [Bool.and_eq_true] at h
  obtain ⟨⟨⟨⟨⟨h0, h1⟩, h2⟩, h3⟩, h4⟩, h5⟩ := h
  obtain ⟨hf, hs⟩ := Fr.ok_forms h0
  have hl : f.form.litsOk ((Src.reg a)).isLit (b).isLit ((Src.reg 0)).isLit = true := by
    have h := h4
    first | exact h | (simp only [isLit_reg, isLit_lit, isLit_offset, Option.getD, Option.any, Bool.not_false, Bool.and_true] at h ⊢; exact h)
  refine ⟨fits_mk (by decide) hl h5 (by decide) (by decide) ?_ ?_, ?_, hs, ?_⟩
  · intro e; decide
  · intro e; decide
  · simp only [form_mk, opc_mk]; rw [show formsOf 0x24 = [.s, .l] from by decide]; exact hf
  · rw [show parse (mkRaw f 0x24 0 (0) d (Src.reg a) b (Src.reg 0)) = parseShl (mkRaw f 0x24 0 (0) d (Src.reg a) b (Src.reg 0)) from by simp [parse, parseRow2, opc_mk, sub_mk]]
    unfold parseShl
    simp only [m_mk, fr_mk, rd_mk, ra_mk, sb_mk hl]
    try simp [Option.bind, toNat_beq_one, toNat_eq_one, boolOfCode_toNat, Header.ofWord_toWord]

theorem shr (f : Fr) (d : Reg) (a : Reg) (b : Src) : Statement (.shr f d a b) := by
  intro h r hr
  obtain rfl := Option.some.inj hr
  replace h : (f.ok [.s, .l] true && d.ok && a.ok && b.ok && f.form.litsOk false b.isLit false && f.holdsOk true true false) = true := h
  simp only [Bool.and_eq_true] at h
  obtain ⟨⟨⟨⟨⟨h0, h1⟩, h2⟩, h3⟩, h4⟩, h5⟩ := h
  obtain ⟨hf, hs⟩ := Fr.ok_forms h0
  have hl : f.form.litsOk ((Src.reg a)).isLit (b).isLit ((Src.reg 0)).isLit = true := by
    have h := h4
    first | exact h | (simp only [isLit_reg, isLit_lit, isLit_offset, Option.getD, Option.any, Bool.not_false, Bool.and_true] at h ⊢; exact h)
  refine ⟨fits_mk (by decide) hl h5 (by decide) (by decide) ?_ ?_, ?_, hs, ?_⟩
  · intro e; decide
  · intro e; decide
  · simp only [form_mk, opc_mk]; rw [show formsOf 0x25 = [.s, .l] from by decide]; exact hf
  · rw [show parse (mkRaw f 0x25 0 (0) d (Src.reg a) b (Src.reg 0)) = parseShr (mkRaw f 0x25 0 (0) d (Src.reg a) b (Src.reg 0)) from by simp [parse, parseRow2, opc_mk, sub_mk]]
    unfold parseShr
    simp only [m_mk, fr_mk, rd_mk, ra_mk, sb_mk hl]
    try simp [Option.bind, toNat_beq_one, toNat_eq_one, boolOfCode_toNat, Header.ofWord_toWord]

theorem sar (f : Fr) (d : Reg) (a : Reg) (b : Src) : Statement (.sar f d a b) := by
  intro h r hr
  obtain rfl := Option.some.inj hr
  replace h : (f.ok [.s, .l] true && d.ok && a.ok && b.ok && f.form.litsOk false b.isLit false && f.holdsOk true true false) = true := h
  simp only [Bool.and_eq_true] at h
  obtain ⟨⟨⟨⟨⟨h0, h1⟩, h2⟩, h3⟩, h4⟩, h5⟩ := h
  obtain ⟨hf, hs⟩ := Fr.ok_forms h0
  have hl : f.form.litsOk ((Src.reg a)).isLit (b).isLit ((Src.reg 0)).isLit = true := by
    have h := h4
    first | exact h | (simp only [isLit_reg, isLit_lit, isLit_offset, Option.getD, Option.any, Bool.not_false, Bool.and_true] at h ⊢; exact h)
  refine ⟨fits_mk (by decide) hl h5 (by decide) (by decide) ?_ ?_, ?_, hs, ?_⟩
  · intro e; decide
  · intro e; decide
  · simp only [form_mk, opc_mk]; rw [show formsOf 0x26 = [.s, .l] from by decide]; exact hf
  · rw [show parse (mkRaw f 0x26 0 (0) d (Src.reg a) b (Src.reg 0)) = parseSar (mkRaw f 0x26 0 (0) d (Src.reg a) b (Src.reg 0)) from by simp [parse, parseRow2, opc_mk, sub_mk]]
    unfold parseSar
    simp only [m_mk, fr_mk, rd_mk, ra_mk, sb_mk hl]
    try simp [Option.bind, toNat_beq_one, toNat_eq_one, boolOfCode_toNat, Header.ofWord_toWord]

theorem rot (f : Fr) (d : Reg) (a : Reg) (b : Src) : Statement (.rot f d a b) := by
  intro h r hr
  obtain rfl := Option.some.inj hr
  replace h : (f.ok [.s, .l] true && d.ok && a.ok && b.ok && f.form.litsOk false b.isLit false && f.holdsOk true true false) = true := h
  simp only [Bool.and_eq_true] at h
  obtain ⟨⟨⟨⟨⟨h0, h1⟩, h2⟩, h3⟩, h4⟩, h5⟩ := h
  obtain ⟨hf, hs⟩ := Fr.ok_forms h0
  have hl : f.form.litsOk ((Src.reg a)).isLit (b).isLit ((Src.reg 0)).isLit = true := by
    have h := h4
    first | exact h | (simp only [isLit_reg, isLit_lit, isLit_offset, Option.getD, Option.any, Bool.not_false, Bool.and_true] at h ⊢; exact h)
  refine ⟨fits_mk (by decide) hl h5 (by decide) (by decide) ?_ ?_, ?_, hs, ?_⟩
  · intro e; decide
  · intro e; decide
  · simp only [form_mk, opc_mk]; rw [show formsOf 0x27 = [.s, .l] from by decide]; exact hf
  · rw [show parse (mkRaw f 0x27 0 (0) d (Src.reg a) b (Src.reg 0)) = parseRot (mkRaw f 0x27 0 (0) d (Src.reg a) b (Src.reg 0)) from by simp [parse, parseRow2, opc_mk, sub_mk]]
    unfold parseRot
    simp only [m_mk, fr_mk, rd_mk, ra_mk, sb_mk hl]
    try simp [Option.bind, toNat_beq_one, toNat_eq_one, boolOfCode_toNat, Header.ofWord_toWord]

theorem popc (f : Fr) (d : Reg) (a : Reg) : Statement (.popc f d a) := by
  intro h r hr
  obtain rfl := Option.some.inj hr
  replace h : (f.ok [.s] true && d.ok && a.ok && f.form.litsOk false false false && f.holdsOk true false false) = true := h
  simp only [Bool.and_eq_true] at h
  obtain ⟨⟨⟨⟨h0, h1⟩, h2⟩, h3⟩, h4⟩ := h
  obtain ⟨hf, hs⟩ := Fr.ok_forms h0
  have hl : f.form.litsOk ((Src.reg a)).isLit ((Src.reg 0)).isLit ((Src.reg 0)).isLit = true := by
    have h := h3
    first | exact h | (simp only [isLit_reg, isLit_lit, isLit_offset, Option.getD, Option.any, Bool.not_false, Bool.and_true] at h ⊢; exact h)
  refine ⟨fits_mk (by decide) hl h4 (by decide) (by decide) ?_ ?_, ?_, hs, ?_⟩
  · intro e; decide
  · intro e; rw [e] at hf; simp at hf
  · simp only [form_mk, opc_mk]; rw [show formsOf 0x28 = [.s] from by decide]; exact hf
  · rw [show parse (mkRaw f 0x28 0 (0) d (Src.reg a) (Src.reg 0) (Src.reg 0)) = parsePopc (mkRaw f 0x28 0 (0) d (Src.reg a) (Src.reg 0) (Src.reg 0)) from by simp [parse, parseRow2, opc_mk, sub_mk]]
    unfold parsePopc
    simp only [m_mk, fr_mk, rd_mk, ra_mk]
    try simp [Option.bind, toNat_beq_one, toNat_eq_one, boolOfCode_toNat, Header.ofWord_toWord]

theorem clz (f : Fr) (d : Reg) (a : Reg) : Statement (.clz f d a) := by
  intro h r hr
  obtain rfl := Option.some.inj hr
  replace h : (f.ok [.s] true && d.ok && a.ok && f.form.litsOk false false false && f.holdsOk true false false) = true := h
  simp only [Bool.and_eq_true] at h
  obtain ⟨⟨⟨⟨h0, h1⟩, h2⟩, h3⟩, h4⟩ := h
  obtain ⟨hf, hs⟩ := Fr.ok_forms h0
  have hl : f.form.litsOk ((Src.reg a)).isLit ((Src.reg 0)).isLit ((Src.reg 0)).isLit = true := by
    have h := h3
    first | exact h | (simp only [isLit_reg, isLit_lit, isLit_offset, Option.getD, Option.any, Bool.not_false, Bool.and_true] at h ⊢; exact h)
  refine ⟨fits_mk (by decide) hl h4 (by decide) (by decide) ?_ ?_, ?_, hs, ?_⟩
  · intro e; decide
  · intro e; rw [e] at hf; simp at hf
  · simp only [form_mk, opc_mk]; rw [show formsOf 0x29 = [.s] from by decide]; exact hf
  · rw [show parse (mkRaw f 0x29 0 (0) d (Src.reg a) (Src.reg 0) (Src.reg 0)) = parseClz (mkRaw f 0x29 0 (0) d (Src.reg a) (Src.reg 0) (Src.reg 0)) from by simp [parse, parseRow2, opc_mk, sub_mk]]
    unfold parseClz
    simp only [m_mk, fr_mk, rd_mk, ra_mk]
    try simp [Option.bind, toNat_beq_one, toNat_eq_one, boolOfCode_toNat, Header.ofWord_toWord]

theorem brev (f : Fr) (d : Reg) (a : Reg) : Statement (.brev f d a) := by
  intro h r hr
  obtain rfl := Option.some.inj hr
  replace h : (f.ok [.s] true && d.ok && a.ok && f.form.litsOk false false false && f.holdsOk true false false) = true := h
  simp only [Bool.and_eq_true] at h
  obtain ⟨⟨⟨⟨h0, h1⟩, h2⟩, h3⟩, h4⟩ := h
  obtain ⟨hf, hs⟩ := Fr.ok_forms h0
  have hl : f.form.litsOk ((Src.reg a)).isLit ((Src.reg 0)).isLit ((Src.reg 0)).isLit = true := by
    have h := h3
    first | exact h | (simp only [isLit_reg, isLit_lit, isLit_offset, Option.getD, Option.any, Bool.not_false, Bool.and_true] at h ⊢; exact h)
  refine ⟨fits_mk (by decide) hl h4 (by decide) (by decide) ?_ ?_, ?_, hs, ?_⟩
  · intro e; decide
  · intro e; rw [e] at hf; simp at hf
  · simp only [form_mk, opc_mk]; rw [show formsOf 0x2A = [.s] from by decide]; exact hf
  · rw [show parse (mkRaw f 0x2A 0 (0) d (Src.reg a) (Src.reg 0) (Src.reg 0)) = parseBrev (mkRaw f 0x2A 0 (0) d (Src.reg a) (Src.reg 0) (Src.reg 0)) from by simp [parse, parseRow2, opc_mk, sub_mk]]
    unfold parseBrev
    simp only [m_mk, fr_mk, rd_mk, ra_mk]
    try simp [Option.bind, toNat_beq_one, toNat_eq_one, boolOfCode_toNat, Header.ofWord_toWord]

theorem bfx (f : Fr) (d : Reg) (a : Src) (b : Src) (sx : Bool) : Statement (.bfx f d a b sx) := by
  intro h r hr
  obtain rfl := Option.some.inj hr
  replace h : (f.ok [.e, .w] true && d.ok && a.ok && b.ok && f.form.litsOk a.isLit b.isLit false && f.holdsOk true true false) = true := h
  simp only [Bool.and_eq_true] at h
  obtain ⟨⟨⟨⟨⟨h0, h1⟩, h2⟩, h3⟩, h4⟩, h5⟩ := h
  obtain ⟨hf, hs⟩ := Fr.ok_forms h0
  have := Bool.toNat_lt sx
  have hl : f.form.litsOk (a).isLit (b).isLit ((Src.reg 0)).isLit = true := by
    have h := h4
    first | exact h | (simp only [isLit_reg, isLit_lit, isLit_offset, Option.getD, Option.any, Bool.not_false, Bool.and_true] at h ⊢; exact h)
  refine ⟨fits_mk (by decide) hl h5 (by decide) (by omega) ?_ ?_, ?_, hs, ?_⟩
  · intro e; rw [e] at hf; simp at hf
  · intro e; rw [e] at hf; simp at hf
  · simp only [form_mk, opc_mk]; rw [show formsOf 0x2B = [.e, .w] from by decide]; exact hf
  · rw [show parse (mkRaw f 0x2B 0 (sx.toNat) d a b (Src.reg 0)) = parseBfx (mkRaw f 0x2B 0 (sx.toNat) d a b (Src.reg 0)) from by simp [parse, parseRow2, opc_mk, sub_mk]]
    have e0 : (sx.toNat) / 2 ^ 0 % 2 ^ 1 = sx.toNat := by omega
    unfold parseBfx
    simp only [m_mk, fr_mk, rd_mk, sa_mk hl, sb_mk hl, e0]
    try simp [Option.bind, toNat_beq_one, toNat_eq_one, boolOfCode_toNat, Header.ofWord_toWord]

theorem bfi (f : Fr) (d : Reg) (a : Src) (b : Src) (c : Src) : Statement (.bfi f d a b c) := by
  intro h r hr
  obtain rfl := Option.some.inj hr
  replace h : (f.ok [.e, .w] true && d.ok && a.ok && b.ok && c.ok && f.form.litsOk a.isLit b.isLit c.isLit && f.holdsOk true true true) = true := h
  simp only [Bool.and_eq_true] at h
  obtain ⟨⟨⟨⟨⟨⟨h0, h1⟩, h2⟩, h3⟩, h4⟩, h5⟩, h6⟩ := h
  obtain ⟨hf, hs⟩ := Fr.ok_forms h0
  have hl : f.form.litsOk (a).isLit (b).isLit (c).isLit = true := by
    have h := h5
    first | exact h | (simp only [isLit_reg, isLit_lit, isLit_offset, Option.getD, Option.any, Bool.not_false, Bool.and_true] at h ⊢; exact h)
  refine ⟨fits_mk (by decide) hl h6 (by decide) (by decide) ?_ ?_, ?_, hs, ?_⟩
  · intro e; rw [e] at hf; simp at hf
  · intro e; rw [e] at hf; simp at hf
  · simp only [form_mk, opc_mk]; rw [show formsOf 0x2C = [.e, .w] from by decide]; exact hf
  · rw [show parse (mkRaw f 0x2C 0 (0) d a b c) = parseBfi (mkRaw f 0x2C 0 (0) d a b c) from by simp [parse, parseRow2, opc_mk, sub_mk]]
    unfold parseBfi
    simp only [m_mk, fr_mk, rd_mk, sa_mk hl, sb_mk hl, sc_mk hl]
    try simp [Option.bind, toNat_beq_one, toNat_eq_one, boolOfCode_toNat, Header.ofWord_toWord]

theorem lop3 (f : Fr) (d : Reg) (a : Src) (b : Src) (c : Src) (tt : BitVec 8) : Statement (.lop3 f d a b c tt) := by
  intro h r hr
  obtain rfl := Option.some.inj hr
  replace h : (f.ok [.e, .w] true && d.ok && a.ok && b.ok && c.ok && f.form.litsOk a.isLit b.isLit c.isLit && f.holdsOk true true true) = true := h
  simp only [Bool.and_eq_true] at h
  obtain ⟨⟨⟨⟨⟨⟨h0, h1⟩, h2⟩, h3⟩, h4⟩, h5⟩, h6⟩ := h
  obtain ⟨hf, hs⟩ := Fr.ok_forms h0
  have := tt.isLt
  have hl : f.form.litsOk (a).isLit (b).isLit (c).isLit = true := by
    have h := h5
    first | exact h | (simp only [isLit_reg, isLit_lit, isLit_offset, Option.getD, Option.any, Bool.not_false, Bool.and_true] at h ⊢; exact h)
  refine ⟨fits_mk (by decide) hl h6 (by decide) (by omega) ?_ ?_, ?_, hs, ?_⟩
  · intro e; rw [e] at hf; simp at hf
  · intro e; rw [e] at hf; simp at hf
  · simp only [form_mk, opc_mk]; rw [show formsOf 0x2D = [.e, .w] from by decide]; exact hf
  · rw [show parse (mkRaw f 0x2D 0 (tt.toNat) d a b c) = parseLop3 (mkRaw f 0x2D 0 (tt.toNat) d a b c) from by simp [parse, parseRow2, opc_mk, sub_mk]]
    have e0 : (tt.toNat) / 2 ^ 0 % 2 ^ 8 = tt.toNat := by omega
    unfold parseLop3
    simp only [m_mk, fr_mk, rd_mk, sa_mk hl, sb_mk hl, sc_mk hl, e0]
    try simp [Option.bind, toNat_beq_one, toNat_eq_one, boolOfCode_toNat, Header.ofWord_toWord]

theorem icmp (f : Fr) (d : Reg) (c2 : Reg) (a : Src) (b : Src) (cond : Cond) (u : Bool) : Statement (.icmp f d c2 a b cond u) := by
  intro h r hr
  obtain rfl := Option.some.inj hr
  replace h : (f.ok [.e, .w] true && d.ok && c2.ok && a.ok && b.ok && f.form.litsOk a.isLit b.isLit false && f.holdsOk true true false && decide (d = c2 → d = 0)) = true := h
  simp only [Bool.and_eq_true] at h
  obtain ⟨⟨⟨⟨⟨⟨⟨h0, h1⟩, h2⟩, h3⟩, h4⟩, h5⟩, h6⟩, h7⟩ := h
  obtain ⟨hf, hs⟩ := Fr.ok_forms h0
  have := Cond.code_lt cond
  have := Bool.toNat_lt u
  have hl : f.form.litsOk (a).isLit (b).isLit ((Src.reg c2)).isLit = true := by
    have h := h5
    first | exact h | (simp only [isLit_reg, isLit_lit, isLit_offset, Option.getD, Option.any, Bool.not_false, Bool.and_true] at h ⊢; exact h)
  refine ⟨fits_mk (by decide) hl h6 (by decide) (by omega) ?_ ?_, ?_, hs, ?_⟩
  · intro e; rw [e] at hf; simp at hf
  · intro e; rw [e] at hf; simp at hf
  · simp only [form_mk, opc_mk]; rw [show formsOf 0x30 = [.e, .w] from by decide]; exact hf
  · rw [show parse (mkRaw f 0x30 0 (cond.code + 8 * u.toNat) d a b (Src.reg c2)) = parseIcmp (mkRaw f 0x30 0 (cond.code + 8 * u.toNat) d a b (Src.reg c2)) from by simp [parse, parseRow3, opc_mk, sub_mk]]
    have e0 : (cond.code + 8 * u.toNat) / 2 ^ 0 % 2 ^ 3 = cond.code := by omega
    have e1 : (cond.code + 8 * u.toNat) / 2 ^ 3 % 2 ^ 1 = u.toNat := by clear e0; omega
    unfold parseIcmp
    simp only [m_mk, fr_mk, rd_mk, rc_mk, sa_mk hl, sb_mk hl, e0, e1]
    try simp [Option.bind, toNat_beq_one, toNat_eq_one, boolOfCode_toNat, Header.ofWord_toWord, Cond.ofCode_code]

theorem fcmp (f : Fr) (d : Reg) (c2 : Reg) (a : Src) (b : Src) (cond : FCond) (u : Bool) (t : FTy) : Statement (.fcmp f d c2 a b cond u t) := by
  intro h r hr
  obtain rfl := Option.some.inj hr
  replace h : (f.ok [.e, .w] true && d.ok && c2.ok && a.ok && b.ok && f.form.litsOk a.isLit b.isLit false && f.holdsOk true true false && decide (d = c2 → d = 0) && decide ((u → cond ≠ .num ∧ cond ≠ .nan))) = true := h
  simp only [Bool.and_eq_true] at h
  obtain ⟨⟨⟨⟨⟨⟨⟨⟨h0, h1⟩, h2⟩, h3⟩, h4⟩, h5⟩, h6⟩, h7⟩, h8⟩ := h
  obtain ⟨hf, hs⟩ := Fr.ok_forms h0
  have := FCond.code_lt cond
  have := Bool.toNat_lt u
  have := FTy.code_lt t
  have hl : f.form.litsOk (a).isLit (b).isLit ((Src.reg c2)).isLit = true := by
    have h := h5
    first | exact h | (simp only [isLit_reg, isLit_lit, isLit_offset, Option.getD, Option.any, Bool.not_false, Bool.and_true] at h ⊢; exact h)
  refine ⟨fits_mk (by decide) hl h6 (by decide) (by omega) ?_ ?_, ?_, hs, ?_⟩
  · intro e; rw [e] at hf; simp at hf
  · intro e; rw [e] at hf; simp at hf
  · simp only [form_mk, opc_mk]; rw [show formsOf 0x31 = [.e, .w] from by decide]; exact hf
  · rw [show parse (mkRaw f 0x31 0 (cond.code + 8 * u.toNat + 16 * t.code) d a b (Src.reg c2)) = parseFcmp (mkRaw f 0x31 0 (cond.code + 8 * u.toNat + 16 * t.code) d a b (Src.reg c2)) from by simp [parse, parseRow3, opc_mk, sub_mk]]
    have e0 : (cond.code + 8 * u.toNat + 16 * t.code) / 2 ^ 0 % 2 ^ 3 = cond.code := by omega
    have e1 : (cond.code + 8 * u.toNat + 16 * t.code) / 2 ^ 3 % 2 ^ 1 = u.toNat := by clear e0; omega
    have e2 : (cond.code + 8 * u.toNat + 16 * t.code) / 2 ^ 4 % 2 ^ 2 = t.code := by clear e0 e1; omega
    unfold parseFcmp
    simp only [m_mk, fr_mk, rd_mk, rc_mk, sa_mk hl, sb_mk hl, e0, e1, e2]
    try simp [Option.bind, toNat_beq_one, toNat_eq_one, boolOfCode_toNat, Header.ofWord_toWord, FCond.ofCode_code, FTy.ofCode_code]

theorem fclass (f : Fr) (d : Reg) (a : Reg) (mask : BitVec 10) (t : FTy) : Statement (.fclass f d a mask t) := by
  intro h r hr
  obtain rfl := Option.some.inj hr
  replace h : (f.ok [.e] true && d.ok && a.ok && f.form.litsOk false false false && f.holdsOk true false false) = true := h
  simp only [Bool.and_eq_true] at h
  obtain ⟨⟨⟨⟨h0, h1⟩, h2⟩, h3⟩, h4⟩ := h
  obtain ⟨hf, hs⟩ := Fr.ok_forms h0
  have := mask.isLt
  have := FTy.code_lt t
  have hl : f.form.litsOk ((Src.reg a)).isLit ((Src.reg 0)).isLit ((Src.reg 0)).isLit = true := by
    have h := h3
    first | exact h | (simp only [isLit_reg, isLit_lit, isLit_offset, Option.getD, Option.any, Bool.not_false, Bool.and_true] at h ⊢; exact h)
  refine ⟨fits_mk (by decide) hl h4 (by decide) (by omega) ?_ ?_, ?_, hs, ?_⟩
  · intro e; rw [e] at hf; simp at hf
  · intro e; rw [e] at hf; simp at hf
  · simp only [form_mk, opc_mk]; rw [show formsOf 0x32 = [.e] from by decide]; exact hf
  · rw [show parse (mkRaw f 0x32 0 (mask.toNat + 1024 * t.code) d (Src.reg a) (Src.reg 0) (Src.reg 0)) = parseFclass (mkRaw f 0x32 0 (mask.toNat + 1024 * t.code) d (Src.reg a) (Src.reg 0) (Src.reg 0)) from by simp [parse, parseRow3, opc_mk, sub_mk]]
    have e0 : (mask.toNat + 1024 * t.code) / 2 ^ 0 % 2 ^ 10 = mask.toNat := by omega
    have e1 : (mask.toNat + 1024 * t.code) / 2 ^ 10 % 2 ^ 2 = t.code := by clear e0; omega
    unfold parseFclass
    simp only [m_mk, fr_mk, rd_mk, ra_mk, e0, e1]
    try simp [Option.bind, toNat_beq_one, toNat_eq_one, boolOfCode_toNat, Header.ofWord_toWord, FTy.ofCode_code]

theorem vote (f : Fr) (op : VoteOp) (d : Reg) (a : Reg) : Statement (.vote f op d a) := by
  intro h r hr
  obtain rfl := Option.some.inj hr
  replace h : (f.ok [.e] false && d.ok && a.ok && f.form.litsOk false false false && f.holdsOk true false false) = true := h
  simp only [Bool.and_eq_true] at h
  obtain ⟨⟨⟨⟨h0, h1⟩, h2⟩, h3⟩, h4⟩ := h
  obtain ⟨hf, hs⟩ := Fr.ok_forms h0
  have := VoteOp.code_lt op
  have hl : f.form.litsOk ((Src.reg a)).isLit ((Src.reg 0)).isLit ((Src.reg 0)).isLit = true := by
    have h := h3
    first | exact h | (simp only [isLit_reg, isLit_lit, isLit_offset, Option.getD, Option.any, Bool.not_false, Bool.and_true] at h ⊢; exact h)
  refine ⟨fits_mk (by decide) hl h4 (by omega) (by decide) ?_ ?_, ?_, hs, ?_⟩
  · intro e; rw [e] at hf; simp at hf
  · intro e; rw [e] at hf; simp at hf
  · simp only [form_mk, opc_mk]; rw [show formsOf 0x33 = [.e] from by decide]; exact hf
  · rw [show parse (mkRaw f 0x33 op.code (0) d (Src.reg a) (Src.reg 0) (Src.reg 0)) = parseVote (mkRaw f 0x33 op.code (0) d (Src.reg a) (Src.reg 0) (Src.reg 0)) from by simp [parse, parseRow3, opc_mk, sub_mk]]
    unfold parseVote
    simp only [m_mk, fr_mk, rd_mk, ra_mk, sub_mk]
    try simp [Option.bind, toNat_beq_one, toNat_eq_one, boolOfCode_toNat, Header.ofWord_toWord, VoteOp.ofCode_code]

theorem matchw (f : Fr) (wide : Bool) (d : Reg) (c2 : Reg) (a : Reg) : Statement (.matchw f wide d c2 a) := by
  intro h r hr
  obtain rfl := Option.some.inj hr
  replace h : (f.ok [.e] false && d.ok && c2.ok && a.ok && f.form.litsOk false false false && f.holdsOk true false false && decide (d = c2 → d = 0) && decide ((wide → a.pairOk))) = true := h
  simp only [Bool.and_eq_true] at h
  obtain ⟨⟨⟨⟨⟨⟨⟨h0, h1⟩, h2⟩, h3⟩, h4⟩, h5⟩, h6⟩, h7⟩ := h
  obtain ⟨hf, hs⟩ := Fr.ok_forms h0
  have := Bool.toNat_lt wide
  have hl : f.form.litsOk ((Src.reg a)).isLit ((Src.reg 0)).isLit ((Src.reg c2)).isLit = true := by
    have h := h4
    first | exact h | (simp only [isLit_reg, isLit_lit, isLit_offset, Option.getD, Option.any, Bool.not_false, Bool.and_true] at h ⊢; exact h)
  refine ⟨fits_mk (by decide) hl h5 (by omega) (by decide) ?_ ?_, ?_, hs, ?_⟩
  · intro e; rw [e] at hf; simp at hf
  · intro e; rw [e] at hf; simp at hf
  · simp only [form_mk, opc_mk]; rw [show formsOf 0x34 = [.e] from by decide]; exact hf
  · rw [show parse (mkRaw f 0x34 wide.toNat (0) d (Src.reg a) (Src.reg 0) (Src.reg c2)) = parseMatchw (mkRaw f 0x34 wide.toNat (0) d (Src.reg a) (Src.reg 0) (Src.reg c2)) from by simp [parse, parseRow3, opc_mk, sub_mk]]
    unfold parseMatchw
    simp only [m_mk, fr_mk, rd_mk, ra_mk, rc_mk, sub_mk]
    try simp [Option.bind, toNat_beq_one, toNat_eq_one, boolOfCode_toNat, Header.ofWord_toWord]

theorem fadd (f : Fr) (d : Reg) (a : Src) (b : Src) (rnd : Rnd) (na : Bool) (nb : Bool) (aa : Bool) (ab : Bool) (sat : Bool) : Statement (.fadd f d a b rnd na nb aa ab sat) := by
  intro h r hr
  obtain rfl := Option.some.inj hr
  replace h : (f.ok [.s, .e, .l, .w] true && d.ok && a.ok && b.ok && f.form.litsOk a.isLit b.isLit false && f.holdsOk true true false && decide (rnd ≠ .sr ∧ (f.form = .s → rnd = .rne ∧ na = false ∧ nb = false ∧ aa = false ∧ ab = false ∧ sat = false))) = true := h
  simp only [Bool.and_eq_true] at h
  obtain ⟨⟨⟨⟨⟨⟨h0, h1⟩, h2⟩, h3⟩, h4⟩, h5⟩, h6⟩ := h
  obtain ⟨hf, hs⟩ := Fr.ok_forms h0
  have := Rnd.code_lt rnd
  have := Bool.toNat_lt na
  have := Bool.toNat_lt nb
  have := Bool.toNat_lt aa
  have := Bool.toNat_lt ab
  have := Bool.toNat_lt sat
  have hl : f.form.litsOk (a).isLit (b).isLit ((Src.reg 0)).isLit = true := by
    have h := h4
    first | exact h | (simp only [isLit_reg, isLit_lit, isLit_offset, Option.getD, Option.any, Bool.not_false, Bool.and_true] at h ⊢; exact h)
  refine ⟨fits_mk (by decide) hl h5 (by decide) (by omega) ?_ ?_, ?_, hs, ?_⟩
  · intro e; simp_all [Src.num, num_zero, Sat.code, Rnd.code, BExt.code, Option.getD] <;> omega
  · intro e; simp_all [Src.num, num_zero, Sat.code, Rnd.code, BExt.code, Option.getD] <;> omega
  · simp only [form_mk, opc_mk]; rw [show formsOf 0x40 = [.s, .e, .l, .w] from by decide]; exact hf
  · rw [show parse (mkRaw f 0x40 0 (rnd.code + 8 * na.toNat + 16 * nb.toNat + 32 * aa.toNat + 64 * ab.toNat + 128 * sat.toNat) d a b (Src.reg 0)) = parseFadd (mkRaw f 0x40 0 (rnd.code + 8 * na.toNat + 16 * nb.toNat + 32 * aa.toNat + 64 * ab.toNat + 128 * sat.toNat) d a b (Src.reg 0)) from by simp [parse, parseRow4, opc_mk, sub_mk]]
    have e0 : (rnd.code + 8 * na.toNat + 16 * nb.toNat + 32 * aa.toNat + 64 * ab.toNat + 128 * sat.toNat) / 2 ^ 0 % 2 ^ 3 = rnd.code := by omega
    have e1 : (rnd.code + 8 * na.toNat + 16 * nb.toNat + 32 * aa.toNat + 64 * ab.toNat + 128 * sat.toNat) / 2 ^ 3 % 2 ^ 1 = na.toNat := by clear e0; omega
    have e2 : (rnd.code + 8 * na.toNat + 16 * nb.toNat + 32 * aa.toNat + 64 * ab.toNat + 128 * sat.toNat) / 2 ^ 4 % 2 ^ 1 = nb.toNat := by clear e0 e1; omega
    have e3 : (rnd.code + 8 * na.toNat + 16 * nb.toNat + 32 * aa.toNat + 64 * ab.toNat + 128 * sat.toNat) / 2 ^ 5 % 2 ^ 1 = aa.toNat := by clear e0 e1 e2; omega
    have e4 : (rnd.code + 8 * na.toNat + 16 * nb.toNat + 32 * aa.toNat + 64 * ab.toNat + 128 * sat.toNat) / 2 ^ 6 % 2 ^ 1 = ab.toNat := by clear e0 e1 e2 e3; omega
    have e5 : (rnd.code + 8 * na.toNat + 16 * nb.toNat + 32 * aa.toNat + 64 * ab.toNat + 128 * sat.toNat) / 2 ^ 7 % 2 ^ 1 = sat.toNat := by clear e0 e1 e2 e3 e4; omega
    unfold parseFadd
    simp only [m_mk, fr_mk, rd_mk, sa_mk hl, sb_mk hl, e0, e1, e2, e3, e4, e5]
    try simp [Option.bind, toNat_beq_one, toNat_eq_one, boolOfCode_toNat, Header.ofWord_toWord, Rnd.ofCode_code]

theorem fsub (f : Fr) (d : Reg) (a : Src) (b : Src) (rnd : Rnd) (na : Bool) (nb : Bool) (aa : Bool) (ab : Bool) (sat : Bool) : Statement (.fsub f d a b rnd na nb aa ab sat) := by
  intro h r hr
  obtain rfl := Option.some.inj hr
  replace h : (f.ok [.s, .e, .l, .w] true && d.ok && a.ok && b.ok && f.form.litsOk a.isLit b.isLit false && f.holdsOk true true false && decide (rnd ≠ .sr ∧ (f.form = .s → rnd = .rne ∧ na = false ∧ nb = false ∧ aa = false ∧ ab = false ∧ sat = false))) = true := h
  simp only [Bool.and_eq_true] at h
  obtain ⟨⟨⟨⟨⟨⟨h0, h1⟩, h2⟩, h3⟩, h4⟩, h5⟩, h6⟩ := h
  obtain ⟨hf, hs⟩ := Fr.ok_forms h0
  have := Rnd.code_lt rnd
  have := Bool.toNat_lt na
  have := Bool.toNat_lt nb
  have := Bool.toNat_lt aa
  have := Bool.toNat_lt ab
  have := Bool.toNat_lt sat
  have hl : f.form.litsOk (a).isLit (b).isLit ((Src.reg 0)).isLit = true := by
    have h := h4
    first | exact h | (simp only [isLit_reg, isLit_lit, isLit_offset, Option.getD, Option.any, Bool.not_false, Bool.and_true] at h ⊢; exact h)
  refine ⟨fits_mk (by decide) hl h5 (by decide) (by omega) ?_ ?_, ?_, hs, ?_⟩
  · intro e; simp_all [Src.num, num_zero, Sat.code, Rnd.code, BExt.code, Option.getD] <;> omega
  · intro e; simp_all [Src.num, num_zero, Sat.code, Rnd.code, BExt.code, Option.getD] <;> omega
  · simp only [form_mk, opc_mk]; rw [show formsOf 0x41 = [.s, .e, .l, .w] from by decide]; exact hf
  · rw [show parse (mkRaw f 0x41 0 (rnd.code + 8 * na.toNat + 16 * nb.toNat + 32 * aa.toNat + 64 * ab.toNat + 128 * sat.toNat) d a b (Src.reg 0)) = parseFsub (mkRaw f 0x41 0 (rnd.code + 8 * na.toNat + 16 * nb.toNat + 32 * aa.toNat + 64 * ab.toNat + 128 * sat.toNat) d a b (Src.reg 0)) from by simp [parse, parseRow4, opc_mk, sub_mk]]
    have e0 : (rnd.code + 8 * na.toNat + 16 * nb.toNat + 32 * aa.toNat + 64 * ab.toNat + 128 * sat.toNat) / 2 ^ 0 % 2 ^ 3 = rnd.code := by omega
    have e1 : (rnd.code + 8 * na.toNat + 16 * nb.toNat + 32 * aa.toNat + 64 * ab.toNat + 128 * sat.toNat) / 2 ^ 3 % 2 ^ 1 = na.toNat := by clear e0; omega
    have e2 : (rnd.code + 8 * na.toNat + 16 * nb.toNat + 32 * aa.toNat + 64 * ab.toNat + 128 * sat.toNat) / 2 ^ 4 % 2 ^ 1 = nb.toNat := by clear e0 e1; omega
    have e3 : (rnd.code + 8 * na.toNat + 16 * nb.toNat + 32 * aa.toNat + 64 * ab.toNat + 128 * sat.toNat) / 2 ^ 5 % 2 ^ 1 = aa.toNat := by clear e0 e1 e2; omega
    have e4 : (rnd.code + 8 * na.toNat + 16 * nb.toNat + 32 * aa.toNat + 64 * ab.toNat + 128 * sat.toNat) / 2 ^ 6 % 2 ^ 1 = ab.toNat := by clear e0 e1 e2 e3; omega
    have e5 : (rnd.code + 8 * na.toNat + 16 * nb.toNat + 32 * aa.toNat + 64 * ab.toNat + 128 * sat.toNat) / 2 ^ 7 % 2 ^ 1 = sat.toNat := by clear e0 e1 e2 e3 e4; omega
    unfold parseFsub
    simp only [m_mk, fr_mk, rd_mk, sa_mk hl, sb_mk hl, e0, e1, e2, e3, e4, e5]
    try simp [Option.bind, toNat_beq_one, toNat_eq_one, boolOfCode_toNat, Header.ofWord_toWord, Rnd.ofCode_code]

theorem fmul (f : Fr) (d : Reg) (a : Src) (b : Src) (rnd : Rnd) (na : Bool) (nb : Bool) (aa : Bool) (ab : Bool) (sat : Bool) : Statement (.fmul f d a b rnd na nb aa ab sat) := by
  intro h r hr
  obtain rfl := Option.some.inj hr
  replace h : (f.ok [.s, .e, .l, .w] true && d.ok && a.ok && b.ok && f.form.litsOk a.isLit b.isLit false && f.holdsOk true true false && decide (rnd ≠ .sr ∧ (f.form = .s → rnd = .rne ∧ na = false ∧ nb = false ∧ aa = false ∧ ab = false ∧ sat = false))) = true := h
  simp only [Bool.and_eq_true] at h
  obtain ⟨⟨⟨⟨⟨⟨h0, h1⟩, h2⟩, h3⟩, h4⟩, h5⟩, h6⟩ := h
  obtain ⟨hf, hs⟩ := Fr.ok_forms h0
  have := Rnd.code_lt rnd
  have := Bool.toNat_lt na
  have := Bool.toNat_lt nb
  have := Bool.toNat_lt aa
  have := Bool.toNat_lt ab
  have := Bool.toNat_lt sat
  have hl : f.form.litsOk (a).isLit (b).isLit ((Src.reg 0)).isLit = true := by
    have h := h4
    first | exact h | (simp only [isLit_reg, isLit_lit, isLit_offset, Option.getD, Option.any, Bool.not_false, Bool.and_true] at h ⊢; exact h)
  refine ⟨fits_mk (by decide) hl h5 (by decide) (by omega) ?_ ?_, ?_, hs, ?_⟩
  · intro e; simp_all [Src.num, num_zero, Sat.code, Rnd.code, BExt.code, Option.getD] <;> omega
  · intro e; simp_all [Src.num, num_zero, Sat.code, Rnd.code, BExt.code, Option.getD] <;> omega
  · simp only [form_mk, opc_mk]; rw [show formsOf 0x42 = [.s, .e, .l, .w] from by decide]; exact hf
  · rw [show parse (mkRaw f 0x42 0 (rnd.code + 8 * na.toNat + 16 * nb.toNat + 32 * aa.toNat + 64 * ab.toNat + 128 * sat.toNat) d a b (Src.reg 0)) = parseFmul (mkRaw f 0x42 0 (rnd.code + 8 * na.toNat + 16 * nb.toNat + 32 * aa.toNat + 64 * ab.toNat + 128 * sat.toNat) d a b (Src.reg 0)) from by simp [parse, parseRow4, opc_mk, sub_mk]]
    have e0 : (rnd.code + 8 * na.toNat + 16 * nb.toNat + 32 * aa.toNat + 64 * ab.toNat + 128 * sat.toNat) / 2 ^ 0 % 2 ^ 3 = rnd.code := by omega
    have e1 : (rnd.code + 8 * na.toNat + 16 * nb.toNat + 32 * aa.toNat + 64 * ab.toNat + 128 * sat.toNat) / 2 ^ 3 % 2 ^ 1 = na.toNat := by clear e0; omega
    have e2 : (rnd.code + 8 * na.toNat + 16 * nb.toNat + 32 * aa.toNat + 64 * ab.toNat + 128 * sat.toNat) / 2 ^ 4 % 2 ^ 1 = nb.toNat := by clear e0 e1; omega
    have e3 : (rnd.code + 8 * na.toNat + 16 * nb.toNat + 32 * aa.toNat + 64 * ab.toNat + 128 * sat.toNat) / 2 ^ 5 % 2 ^ 1 = aa.toNat := by clear e0 e1 e2; omega
    have e4 : (rnd.code + 8 * na.toNat + 16 * nb.toNat + 32 * aa.toNat + 64 * ab.toNat + 128 * sat.toNat) / 2 ^ 6 % 2 ^ 1 = ab.toNat := by clear e0 e1 e2 e3; omega
    have e5 : (rnd.code + 8 * na.toNat + 16 * nb.toNat + 32 * aa.toNat + 64 * ab.toNat + 128 * sat.toNat) / 2 ^ 7 % 2 ^ 1 = sat.toNat := by clear e0 e1 e2 e3 e4; omega
    unfold parseFmul
    simp only [m_mk, fr_mk, rd_mk, sa_mk hl, sb_mk hl, e0, e1, e2, e3, e4, e5]
    try simp [Option.bind, toNat_beq_one, toNat_eq_one, boolOfCode_toNat, Header.ofWord_toWord, Rnd.ofCode_code]

theorem ffma (f : Fr) (d : Reg) (a : Src) (b : Src) (c : Src) (rnd : Rnd) (na : Bool) (nb : Bool) (aa : Bool) (ab : Bool) (sat : Bool) (nc : Bool) (ac : Bool) : Statement (.ffma f d a b c rnd na nb aa ab sat nc ac) := by
  intro h r hr
  obtain rfl := Option.some.inj hr
  replace h : (f.ok [.e, .w] true && d.ok && a.ok && b.ok && c.ok && f.form.litsOk a.isLit b.isLit c.isLit && f.holdsOk true true true && decide (rnd ≠ .sr)) = true := h
  simp only [Bool.and_eq_true] at h
  obtain ⟨⟨⟨⟨⟨⟨⟨h0, h1⟩, h2⟩, h3⟩, h4⟩, h5⟩, h6⟩, h7⟩ := h
  obtain ⟨hf, hs⟩ := Fr.ok_forms h0
  have := Rnd.code_lt rnd
  have := Bool.toNat_lt na
  have := Bool.toNat_lt nb
  have := Bool.toNat_lt aa
  have := Bool.toNat_lt ab
  have := Bool.toNat_lt sat
  have := Bool.toNat_lt nc
  have := Bool.toNat_lt ac
  have hl : f.form.litsOk (a).isLit (b).isLit (c).isLit = true := by
    have h := h5
    first | exact h | (simp only [isLit_reg, isLit_lit, isLit_offset, Option.getD, Option.any, Bool.not_false, Bool.and_true] at h ⊢; exact h)
  refine ⟨fits_mk (by decide) hl h6 (by decide) (by omega) ?_ ?_, ?_, hs, ?_⟩
  · intro e; rw [e] at hf; simp at hf
  · intro e; rw [e] at hf; simp at hf
  · simp only [form_mk, opc_mk]; rw [show formsOf 0x43 = [.e, .w] from by decide]; exact hf
  · rw [show parse (mkRaw f 0x43 0 (rnd.code + 8 * na.toNat + 16 * nb.toNat + 32 * aa.toNat + 64 * ab.toNat + 128 * sat.toNat + 256 * nc.toNat + 512 * ac.toNat) d a b c) = parseFfma (mkRaw f 0x43 0 (rnd.code + 8 * na.toNat + 16 * nb.toNat + 32 * aa.toNat + 64 * ab.toNat + 128 * sat.toNat + 256 * nc.toNat + 512 * ac.toNat) d a b c) from by simp [parse, parseRow4, opc_mk, sub_mk]]
    have e0 : (rnd.code + 8 * na.toNat + 16 * nb.toNat + 32 * aa.toNat + 64 * ab.toNat + 128 * sat.toNat + 256 * nc.toNat + 512 * ac.toNat) / 2 ^ 0 % 2 ^ 3 = rnd.code := by omega
    have e1 : (rnd.code + 8 * na.toNat + 16 * nb.toNat + 32 * aa.toNat + 64 * ab.toNat + 128 * sat.toNat + 256 * nc.toNat + 512 * ac.toNat) / 2 ^ 3 % 2 ^ 1 = na.toNat := by clear e0; omega
    have e2 : (rnd.code + 8 * na.toNat + 16 * nb.toNat + 32 * aa.toNat + 64 * ab.toNat + 128 * sat.toNat + 256 * nc.toNat + 512 * ac.toNat) / 2 ^ 4 % 2 ^ 1 = nb.toNat := by clear e0 e1; omega
    have e3 : (rnd.code + 8 * na.toNat + 16 * nb.toNat + 32 * aa.toNat + 64 * ab.toNat + 128 * sat.toNat + 256 * nc.toNat + 512 * ac.toNat) / 2 ^ 5 % 2 ^ 1 = aa.toNat := by clear e0 e1 e2; omega
    have e4 : (rnd.code + 8 * na.toNat + 16 * nb.toNat + 32 * aa.toNat + 64 * ab.toNat + 128 * sat.toNat + 256 * nc.toNat + 512 * ac.toNat) / 2 ^ 6 % 2 ^ 1 = ab.toNat := by clear e0 e1 e2 e3; omega
    have e5 : (rnd.code + 8 * na.toNat + 16 * nb.toNat + 32 * aa.toNat + 64 * ab.toNat + 128 * sat.toNat + 256 * nc.toNat + 512 * ac.toNat) / 2 ^ 7 % 2 ^ 1 = sat.toNat := by clear e0 e1 e2 e3 e4; omega
    have e6 : (rnd.code + 8 * na.toNat + 16 * nb.toNat + 32 * aa.toNat + 64 * ab.toNat + 128 * sat.toNat + 256 * nc.toNat + 512 * ac.toNat) / 2 ^ 8 % 2 ^ 1 = nc.toNat := by clear e0 e1 e2 e3 e4 e5; omega
    have e7 : (rnd.code + 8 * na.toNat + 16 * nb.toNat + 32 * aa.toNat + 64 * ab.toNat + 128 * sat.toNat + 256 * nc.toNat + 512 * ac.toNat) / 2 ^ 9 % 2 ^ 1 = ac.toNat := by clear e0 e1 e2 e3 e4 e5 e6; omega
    unfold parseFfma
    simp only [m_mk, fr_mk, rd_mk, sa_mk hl, sb_mk hl, sc_mk hl, e0, e1, e2, e3, e4, e5, e6, e7]
    try simp [Option.bind, toNat_beq_one, toNat_eq_one, boolOfCode_toNat, Header.ofWord_toWord, Rnd.ofCode_code]

theorem fmin (f : Fr) (d : Reg) (a : Reg) (b : Src) : Statement (.fmin f d a b) := by
  intro h r hr
  obtain rfl := Option.some.inj hr
  replace h : (f.ok [.s, .l] true && d.ok && a.ok && b.ok && f.form.litsOk false b.isLit false && f.holdsOk true true false) = true := h
  simp only [Bool.and_eq_true] at h
  obtain ⟨⟨⟨⟨⟨h0, h1⟩, h2⟩, h3⟩, h4⟩, h5⟩ := h
  obtain ⟨hf, hs⟩ := Fr.ok_forms h0
  have hl : f.form.litsOk ((Src.reg a)).isLit (b).isLit ((Src.reg 0)).isLit = true := by
    have h := h4
    first | exact h | (simp only [isLit_reg, isLit_lit, isLit_offset, Option.getD, Option.any, Bool.not_false, Bool.and_true] at h ⊢; exact h)
  refine ⟨fits_mk (by decide) hl h5 (by decide) (by decide) ?_ ?_, ?_, hs, ?_⟩
  · intro e; decide
  · intro e; decide
  · simp only [form_mk, opc_mk]; rw [show formsOf 0x44 = [.s, .l] from by decide]; exact hf
  · rw [show parse (mkRaw f 0x44 0 (0) d (Src.reg a) b (Src.reg 0)) = parseFmin (mkRaw f 0x44 0 (0) d (Src.reg a) b (Src.reg 0)) from by simp [parse, parseRow4, opc_mk, sub_mk]]
    unfold parseFmin
    simp only [m_mk, fr_mk, rd_mk, ra_mk, sb_mk hl]
    try simp [Option.bind, toNat_beq_one, toNat_eq_one, boolOfCode_toNat, Header.ofWord_toWord]

theorem fmax (f : Fr) (d : Reg) (a : Reg) (b : Src) : Statement (.fmax f d a b) := by
  intro h r hr
  obtain rfl := Option.some.inj hr
  replace h : (f.ok [.s, .l] true && d.ok && a.ok && b.ok && f.form.litsOk false b.isLit false && f.holdsOk true true false) = true := h
  simp only [Bool.and_eq_true] at h
  obtain ⟨⟨⟨⟨⟨h0, h1⟩, h2⟩, h3⟩, h4⟩, h5⟩ := h
  obtain ⟨hf, hs⟩ := Fr.ok_forms h0
  have hl : f.form.litsOk ((Src.reg a)).isLit (b).isLit ((Src.reg 0)).isLit = true := by
    have h := h4
    first | exact h | (simp only [isLit_reg, isLit_lit, isLit_offset, Option.getD, Option.any, Bool.not_false, Bool.and_true] at h ⊢; exact h)
  refine ⟨fits_mk (by decide) hl h5 (by decide) (by decide) ?_ ?_, ?_, hs, ?_⟩
  · intro e; decide
  · intro e; decide
  · simp only [form_mk, opc_mk]; rw [show formsOf 0x45 = [.s, .l] from by decide]; exact hf
  · rw [show parse (mkRaw f 0x45 0 (0) d (Src.reg a) b (Src.reg 0)) = parseFmax (mkRaw f 0x45 0 (0) d (Src.reg a) b (Src.reg 0)) from by simp [parse, parseRow4, opc_mk, sub_mk]]
    unfold parseFmax
    simp only [m_mk, fr_mk, rd_mk, ra_mk, sb_mk hl]
    try simp [Option.bind, toNat_beq_one, toNat_eq_one, boolOfCode_toNat, Header.ofWord_toWord]

theorem frcp (f : Fr) (d : Reg) (a : Reg) : Statement (.frcp f d a) := by
  intro h r hr
  obtain rfl := Option.some.inj hr
  replace h : (f.ok [.s] true && d.ok && a.ok && f.form.litsOk false false false && f.holdsOk true false false) = true := h
  simp only [Bool.and_eq_true] at h
  obtain ⟨⟨⟨⟨h0, h1⟩, h2⟩, h3⟩, h4⟩ := h
  obtain ⟨hf, hs⟩ := Fr.ok_forms h0
  have hl : f.form.litsOk ((Src.reg a)).isLit ((Src.reg 0)).isLit ((Src.reg 0)).isLit = true := by
    have h := h3
    first | exact h | (simp only [isLit_reg, isLit_lit, isLit_offset, Option.getD, Option.any, Bool.not_false, Bool.and_true] at h ⊢; exact h)
  refine ⟨fits_mk (by decide) hl h4 (by decide) (by decide) ?_ ?_, ?_, hs, ?_⟩
  · intro e; decide
  · intro e; rw [e] at hf; simp at hf
  · simp only [form_mk, opc_mk]; rw [show formsOf 0x46 = [.s] from by decide]; exact hf
  · rw [show parse (mkRaw f 0x46 0 (0) d (Src.reg a) (Src.reg 0) (Src.reg 0)) = parseFrcp (mkRaw f 0x46 0 (0) d (Src.reg a) (Src.reg 0) (Src.reg 0)) from by simp [parse, parseRow4, opc_mk, sub_mk]]
    unfold parseFrcp
    simp only [m_mk, fr_mk, rd_mk, ra_mk]
    try simp [Option.bind, toNat_beq_one, toNat_eq_one, boolOfCode_toNat, Header.ofWord_toWord]

theorem frsq (f : Fr) (d : Reg) (a : Reg) : Statement (.frsq f d a) := by
  intro h r hr
  obtain rfl := Option.some.inj hr
  replace h : (f.ok [.s] true && d.ok && a.ok && f.form.litsOk false false false && f.holdsOk true false false) = true := h
  simp only [Bool.and_eq_true] at h
  obtain ⟨⟨⟨⟨h0, h1⟩, h2⟩, h3⟩, h4⟩ := h
  obtain ⟨hf, hs⟩ := Fr.ok_forms h0
  have hl : f.form.litsOk ((Src.reg a)).isLit ((Src.reg 0)).isLit ((Src.reg 0)).isLit = true := by
    have h := h3
    first | exact h | (simp only [isLit_reg, isLit_lit, isLit_offset, Option.getD, Option.any, Bool.not_false, Bool.and_true] at h ⊢; exact h)
  refine ⟨fits_mk (by decide) hl h4 (by decide) (by decide) ?_ ?_, ?_, hs, ?_⟩
  · intro e; decide
  · intro e; rw [e] at hf; simp at hf
  · simp only [form_mk, opc_mk]; rw [show formsOf 0x47 = [.s] from by decide]; exact hf
  · rw [show parse (mkRaw f 0x47 0 (0) d (Src.reg a) (Src.reg 0) (Src.reg 0)) = parseFrsq (mkRaw f 0x47 0 (0) d (Src.reg a) (Src.reg 0) (Src.reg 0)) from by simp [parse, parseRow4, opc_mk, sub_mk]]
    unfold parseFrsq
    simp only [m_mk, fr_mk, rd_mk, ra_mk]
    try simp [Option.bind, toNat_beq_one, toNat_eq_one, boolOfCode_toNat, Header.ofWord_toWord]

theorem fsqrt (f : Fr) (d : Reg) (a : Reg) (rnd : Rnd) : Statement (.fsqrt f d a rnd) := by
  intro h r hr
  obtain rfl := Option.some.inj hr
  replace h : (f.ok [.s, .e] true && d.ok && a.ok && f.form.litsOk false false false && f.holdsOk true false false && decide (rnd ≠ .sr ∧ (f.form = .s → rnd = .rne))) = true := h
  simp only [Bool.and_eq_true] at h
  obtain ⟨⟨⟨⟨⟨h0, h1⟩, h2⟩, h3⟩, h4⟩, h5⟩ := h
  obtain ⟨hf, hs⟩ := Fr.ok_forms h0
  have := Rnd.code_lt rnd
  have hl : f.form.litsOk ((Src.reg a)).isLit ((Src.reg 0)).isLit ((Src.reg 0)).isLit = true := by
    have h := h3
    first | exact h | (simp only [isLit_reg, isLit_lit, isLit_offset, Option.getD, Option.any, Bool.not_false, Bool.and_true] at h ⊢; exact h)
  refine ⟨fits_mk (by decide) hl h4 (by decide) (by omega) ?_ ?_, ?_, hs, ?_⟩
  · intro e; simp_all [Src.num, num_zero, Sat.code, Rnd.code, BExt.code, Option.getD] <;> omega
  · intro e; rw [e] at hf; simp at hf
  · simp only [form_mk, opc_mk]; rw [show formsOf 0x48 = [.s, .e] from by decide]; exact hf
  · rw [show parse (mkRaw f 0x48 0 (rnd.code) d (Src.reg a) (Src.reg 0) (Src.reg 0)) = parseFsqrt (mkRaw f 0x48 0 (rnd.code) d (Src.reg a) (Src.reg 0) (Src.reg 0)) from by simp [parse, parseRow4, opc_mk, sub_mk]]
    have e0 : (rnd.code) / 2 ^ 0 % 2 ^ 3 = rnd.code := by omega
    unfold parseFsqrt
    simp only [m_mk, fr_mk, rd_mk, ra_mk, e0]
    try simp [Option.bind, toNat_beq_one, toNat_eq_one, boolOfCode_toNat, Header.ofWord_toWord, Rnd.ofCode_code]

theorem fexp2 (f : Fr) (d : Reg) (a : Reg) : Statement (.fexp2 f d a) := by
  intro h r hr
  obtain rfl := Option.some.inj hr
  replace h : (f.ok [.s] true && d.ok && a.ok && f.form.litsOk false false false && f.holdsOk true false false) = true := h
  simp only [Bool.and_eq_true] at h
  obtain ⟨⟨⟨⟨h0, h1⟩, h2⟩, h3⟩, h4⟩ := h
  obtain ⟨hf, hs⟩ := Fr.ok_forms h0
  have hl : f.form.litsOk ((Src.reg a)).isLit ((Src.reg 0)).isLit ((Src.reg 0)).isLit = true := by
    have h := h3
    first | exact h | (simp only [isLit_reg, isLit_lit, isLit_offset, Option.getD, Option.any, Bool.not_false, Bool.and_true] at h ⊢; exact h)
  refine ⟨fits_mk (by decide) hl h4 (by decide) (by decide) ?_ ?_, ?_, hs, ?_⟩
  · intro e; decide
  · intro e; rw [e] at hf; simp at hf
  · simp only [form_mk, opc_mk]; rw [show formsOf 0x49 = [.s] from by decide]; exact hf
  · rw [show parse (mkRaw f 0x49 0 (0) d (Src.reg a) (Src.reg 0) (Src.reg 0)) = parseFexp2 (mkRaw f 0x49 0 (0) d (Src.reg a) (Src.reg 0) (Src.reg 0)) from by simp [parse, parseRow4, opc_mk, sub_mk]]
    unfold parseFexp2
    simp only [m_mk, fr_mk, rd_mk, ra_mk]
    try simp [Option.bind, toNat_beq_one, toNat_eq_one, boolOfCode_toNat, Header.ofWord_toWord]

theorem flog2 (f : Fr) (d : Reg) (a : Reg) : Statement (.flog2 f d a) := by
  intro h r hr
  obtain rfl := Option.some.inj hr
  replace h : (f.ok [.s] true && d.ok && a.ok && f.form.litsOk false false false && f.holdsOk true false false) = true := h
  simp only [Bool.and_eq_true] at h
  obtain ⟨⟨⟨⟨h0, h1⟩, h2⟩, h3⟩, h4⟩ := h
  obtain ⟨hf, hs⟩ := Fr.ok_forms h0
  have hl : f.form.litsOk ((Src.reg a)).isLit ((Src.reg 0)).isLit ((Src.reg 0)).isLit = true := by
    have h := h3
    first | exact h | (simp only [isLit_reg, isLit_lit, isLit_offset, Option.getD, Option.any, Bool.not_false, Bool.and_true] at h ⊢; exact h)
  refine ⟨fits_mk (by decide) hl h4 (by decide) (by decide) ?_ ?_, ?_, hs, ?_⟩
  · intro e; decide
  · intro e; rw [e] at hf; simp at hf
  · simp only [form_mk, opc_mk]; rw [show formsOf 0x4A = [.s] from by decide]; exact hf
  · rw [show parse (mkRaw f 0x4A 0 (0) d (Src.reg a) (Src.reg 0) (Src.reg 0)) = parseFlog2 (mkRaw f 0x4A 0 (0) d (Src.reg a) (Src.reg 0) (Src.reg 0)) from by simp [parse, parseRow4, opc_mk, sub_mk]]
    unfold parseFlog2
    simp only [m_mk, fr_mk, rd_mk, ra_mk]
    try simp [Option.bind, toNat_beq_one, toNat_eq_one, boolOfCode_toNat, Header.ofWord_toWord]

theorem fsincos (f : Fr) (d : Reg) (c2 : Reg) (a : Reg) : Statement (.fsincos f d c2 a) := by
  intro h r hr
  obtain rfl := Option.some.inj hr
  replace h : (f.ok [.e] true && d.ok && c2.ok && a.ok && f.form.litsOk false false false && f.holdsOk true false false && decide (d = c2 → d = 0)) = true := h
  simp only [Bool.and_eq_true] at h
  obtain ⟨⟨⟨⟨⟨⟨h0, h1⟩, h2⟩, h3⟩, h4⟩, h5⟩, h6⟩ := h
  obtain ⟨hf, hs⟩ := Fr.ok_forms h0
  have hl : f.form.litsOk ((Src.reg a)).isLit ((Src.reg 0)).isLit ((Src.reg c2)).isLit = true := by
    have h := h4
    first | exact h | (simp only [isLit_reg, isLit_lit, isLit_offset, Option.getD, Option.any, Bool.not_false, Bool.and_true] at h ⊢; exact h)
  refine ⟨fits_mk (by decide) hl h5 (by decide) (by decide) ?_ ?_, ?_, hs, ?_⟩
  · intro e; rw [e] at hf; simp at hf
  · intro e; rw [e] at hf; simp at hf
  · simp only [form_mk, opc_mk]; rw [show formsOf 0x4B = [.e] from by decide]; exact hf
  · rw [show parse (mkRaw f 0x4B 0 (0) d (Src.reg a) (Src.reg 0) (Src.reg c2)) = parseFsincos (mkRaw f 0x4B 0 (0) d (Src.reg a) (Src.reg 0) (Src.reg c2)) from by simp [parse, parseRow4, opc_mk, sub_mk]]
    unfold parseFsincos
    simp only [m_mk, fr_mk, rd_mk, ra_mk, rc_mk]
    try simp [Option.bind, toNat_beq_one, toNat_eq_one, boolOfCode_toNat, Header.ofWord_toWord]

theorem ftanh (f : Fr) (d : Reg) (a : Reg) : Statement (.ftanh f d a) := by
  intro h r hr
  obtain rfl := Option.some.inj hr
  replace h : (f.ok [.s] true && d.ok && a.ok && f.form.litsOk false false false && f.holdsOk true false false) = true := h
  simp only [Bool.and_eq_true] at h
  obtain ⟨⟨⟨⟨h0, h1⟩, h2⟩, h3⟩, h4⟩ := h
  obtain ⟨hf, hs⟩ := Fr.ok_forms h0
  have hl : f.form.litsOk ((Src.reg a)).isLit ((Src.reg 0)).isLit ((Src.reg 0)).isLit = true := by
    have h := h3
    first | exact h | (simp only [isLit_reg, isLit_lit, isLit_offset, Option.getD, Option.any, Bool.not_false, Bool.and_true] at h ⊢; exact h)
  refine ⟨fits_mk (by decide) hl h4 (by decide) (by decide) ?_ ?_, ?_, hs, ?_⟩
  · intro e; decide
  · intro e; rw [e] at hf; simp at hf
  · simp only [form_mk, opc_mk]; rw [show formsOf 0x4C = [.s] from by decide]; exact hf
  · rw [show parse (mkRaw f 0x4C 0 (0) d (Src.reg a) (Src.reg 0) (Src.reg 0)) = parseFtanh (mkRaw f 0x4C 0 (0) d (Src.reg a) (Src.reg 0) (Src.reg 0)) from by simp [parse, parseRow4, opc_mk, sub_mk]]
    unfold parseFtanh
    simp only [m_mk, fr_mk, rd_mk, ra_mk]
    try simp [Option.bind, toNat_beq_one, toNat_eq_one, boolOfCode_toNat, Header.ofWord_toWord]

theorem fdiv (f : Fr) (d : Reg) (a : Reg) (b : Reg) (rnd : Rnd) : Statement (.fdiv f d a b rnd) := by
  intro h r hr
  obtain rfl := Option.some.inj hr
  replace h : (f.ok [.s, .e] true && d.ok && a.ok && b.ok && f.form.litsOk false false false && f.holdsOk true true false && decide (rnd ≠ .sr ∧ (f.form = .s → rnd = .rne))) = true := h
  simp only [Bool.and_eq_true] at h
  obtain ⟨⟨⟨⟨⟨⟨h0, h1⟩, h2⟩, h3⟩, h4⟩, h5⟩, h6⟩ := h
  obtain ⟨hf, hs⟩ := Fr.ok_forms h0
  have := Rnd.code_lt rnd
  have hl : f.form.litsOk ((Src.reg a)).isLit ((Src.reg b)).isLit ((Src.reg 0)).isLit = true := by
    have h := h4
    first | exact h | (simp only [isLit_reg, isLit_lit, isLit_offset, Option.getD, Option.any, Bool.not_false, Bool.and_true] at h ⊢; exact h)
  refine ⟨fits_mk (by decide) hl h5 (by decide) (by omega) ?_ ?_, ?_, hs, ?_⟩
  · intro e; simp_all [Src.num, num_zero, Sat.code, Rnd.code, BExt.code, Option.getD] <;> omega
  · intro e; rw [e] at hf; simp at hf
  · simp only [form_mk, opc_mk]; rw [show formsOf 0x4D = [.s, .e] from by decide]; exact hf
  · rw [show parse (mkRaw f 0x4D 0 (rnd.code) d (Src.reg a) (Src.reg b) (Src.reg 0)) = parseFdiv (mkRaw f 0x4D 0 (rnd.code) d (Src.reg a) (Src.reg b) (Src.reg 0)) from by simp [parse, parseRow4, opc_mk, sub_mk]]
    have e0 : (rnd.code) / 2 ^ 0 % 2 ^ 3 = rnd.code := by omega
    unfold parseFdiv
    simp only [m_mk, fr_mk, rd_mk, ra_mk, rb_mk, e0]
    try simp [Option.bind, toNat_beq_one, toNat_eq_one, boolOfCode_toNat, Header.ofWord_toWord, Rnd.ofCode_code]

theorem h2add (f : Fr) (d : Reg) (a : Reg) (b : Src) (rnd : Rnd) (bf : Bool) (na : Bool) (nb : Bool) : Statement (.h2add f d a b rnd bf na nb) := by
  intro h r hr
  obtain rfl := Option.some.inj hr
  replace h : (f.ok [.s, .e, .l] true && d.ok && a.ok && b.ok && f.form.litsOk false b.isLit false && f.holdsOk true true false && decide (rnd ≠ .sr ∧ (f.form = .s → rnd = .rne ∧ bf = false ∧ na = false ∧ nb = false))) = true := h
  simp only [Bool.and_eq_true] at h
  obtain ⟨⟨⟨⟨⟨⟨h0, h1⟩, h2⟩, h3⟩, h4⟩, h5⟩, h6⟩ := h
  obtain ⟨hf, hs⟩ := Fr.ok_forms h0
  have := Rnd.code_lt rnd
  have := Bool.toNat_lt bf
  have := Bool.toNat_lt na
  have := Bool.toNat_lt nb
  have hl : f.form.litsOk ((Src.reg a)).isLit (b).isLit ((Src.reg 0)).isLit = true := by
    have h := h4
    first | exact h | (simp only [isLit_reg, isLit_lit, isLit_offset, Option.getD, Option.any, Bool.not_false, Bool.and_true] at h ⊢; exact h)
  refine ⟨fits_mk (by decide) hl h5 (by decide) (by omega) ?_ ?_, ?_, hs, ?_⟩
  · intro e; simp_all [Src.num, num_zero, Sat.code, Rnd.code, BExt.code, Option.getD] <;> omega
  · intro e; simp_all [Src.num, num_zero, Sat.code, Rnd.code, BExt.code, Option.getD] <;> omega
  · simp only [form_mk, opc_mk]; rw [show formsOf 0x50 = [.s, .e, .l] from by decide]; exact hf
  · rw [show parse (mkRaw f 0x50 0 (rnd.code + 8 * bf.toNat + 16 * na.toNat + 32 * nb.toNat) d (Src.reg a) b (Src.reg 0)) = parseH2add (mkRaw f 0x50 0 (rnd.code + 8 * bf.toNat + 16 * na.toNat + 32 * nb.toNat) d (Src.reg a) b (Src.reg 0)) from by simp [parse, parseRow5, opc_mk, sub_mk]]
    have e0 : (rnd.code + 8 * bf.toNat + 16 * na.toNat + 32 * nb.toNat) / 2 ^ 0 % 2 ^ 3 = rnd.code := by omega
    have e1 : (rnd.code + 8 * bf.toNat + 16 * na.toNat + 32 * nb.toNat) / 2 ^ 3 % 2 ^ 1 = bf.toNat := by clear e0; omega
    have e2 : (rnd.code + 8 * bf.toNat + 16 * na.toNat + 32 * nb.toNat) / 2 ^ 4 % 2 ^ 1 = na.toNat := by clear e0 e1; omega
    have e3 : (rnd.code + 8 * bf.toNat + 16 * na.toNat + 32 * nb.toNat) / 2 ^ 5 % 2 ^ 1 = nb.toNat := by clear e0 e1 e2; omega
    unfold parseH2add
    simp only [m_mk, fr_mk, rd_mk, ra_mk, sb_mk hl, e0, e1, e2, e3]
    try simp [Option.bind, toNat_beq_one, toNat_eq_one, boolOfCode_toNat, Header.ofWord_toWord, Rnd.ofCode_code]

theorem h2mul (f : Fr) (d : Reg) (a : Reg) (b : Src) (rnd : Rnd) (bf : Bool) (na : Bool) (nb : Bool) : Statement (.h2mul f d a b rnd bf na nb) := by
  intro h r hr
  obtain rfl := Option.some.inj hr
  replace h : (f.ok [.s, .e, .l] true && d.ok && a.ok && b.ok && f.form.litsOk false b.isLit false && f.holdsOk true true false && decide (rnd ≠ .sr ∧ (f.form = .s → rnd = .rne ∧ bf = false ∧ na = false ∧ nb = false))) = true := h
  simp only [Bool.and_eq_true] at h
  obtain ⟨⟨⟨⟨⟨⟨h0, h1⟩, h2⟩, h3⟩, h4⟩, h5⟩, h6⟩ := h
  obtain ⟨hf, hs⟩ := Fr.ok_forms h0
  have := Rnd.code_lt rnd
  have := Bool.toNat_lt bf
  have := Bool.toNat_lt na
  have := Bool.toNat_lt nb
  have hl : f.form.litsOk ((Src.reg a)).isLit (b).isLit ((Src.reg 0)).isLit = true := by
    have h := h4
    first | exact h | (simp only [isLit_reg, isLit_lit, isLit_offset, Option.getD, Option.any, Bool.not_false, Bool.and_true] at h ⊢; exact h)
  refine ⟨fits_mk (by decide) hl h5 (by decide) (by omega) ?_ ?_, ?_, hs, ?_⟩
  · intro e; simp_all [Src.num, num_zero, Sat.code, Rnd.code, BExt.code, Option.getD] <;> omega
  · intro e; simp_all [Src.num, num_zero, Sat.code, Rnd.code, BExt.code, Option.getD] <;> omega
  · simp only [form_mk, opc_mk]; rw [show formsOf 0x51 = [.s, .e, .l] from by decide]; exact hf
  · rw [show parse (mkRaw f 0x51 0 (rnd.code + 8 * bf.toNat + 16 * na.toNat + 32 * nb.toNat) d (Src.reg a) b (Src.reg 0)) = parseH2mul (mkRaw f 0x51 0 (rnd.code + 8 * bf.toNat + 16 * na.toNat + 32 * nb.toNat) d (Src.reg a) b (Src.reg 0)) from by simp [parse, parseRow5, opc_mk, sub_mk]]
    have e0 : (rnd.code + 8 * bf.toNat + 16 * na.toNat + 32 * nb.toNat) / 2 ^ 0 % 2 ^ 3 = rnd.code := by omega
    have e1 : (rnd.code + 8 * bf.toNat + 16 * na.toNat + 32 * nb.toNat) / 2 ^ 3 % 2 ^ 1 = bf.toNat := by clear e0; omega
    have e2 : (rnd.code + 8 * bf.toNat + 16 * na.toNat + 32 * nb.toNat) / 2 ^ 4 % 2 ^ 1 = na.toNat := by clear e0 e1; omega
    have e3 : (rnd.code + 8 * bf.toNat + 16 * na.toNat + 32 * nb.toNat) / 2 ^ 5 % 2 ^ 1 = nb.toNat := by clear e0 e1 e2; omega
    unfold parseH2mul
    simp only [m_mk, fr_mk, rd_mk, ra_mk, sb_mk hl, e0, e1, e2, e3]
    try simp [Option.bind, toNat_beq_one, toNat_eq_one, boolOfCode_toNat, Header.ofWord_toWord, Rnd.ofCode_code]

theorem h2fma (f : Fr) (d : Reg) (a : Src) (b : Src) (c : Src) (rnd : Rnd) (bf : Bool) (na : Bool) (nb : Bool) (nc : Bool) : Statement (.h2fma f d a b c rnd bf na nb nc) := by
  intro h r hr
  obtain rfl := Option.some.inj hr
  replace h : (f.ok [.e, .w] true && d.ok && a.ok && b.ok && c.ok && f.form.litsOk a.isLit b.isLit c.isLit && f.holdsOk true true true && decide (rnd ≠ .sr)) = true := h
  simp only [Bool.and_eq_true] at h
  obtain ⟨⟨⟨⟨⟨⟨⟨h0, h1⟩, h2⟩, h3⟩, h4⟩, h5⟩, h6⟩, h7⟩ := h
  obtain ⟨hf, hs⟩ := Fr.ok_forms h0
  have := Rnd.code_lt rnd
  have := Bool.toNat_lt bf
  have := Bool.toNat_lt na
  have := Bool.toNat_lt nb
  have := Bool.toNat_lt nc
  have hl : f.form.litsOk (a).isLit (b).isLit (c).isLit = true := by
    have h := h5
    first | exact h | (simp only [isLit_reg, isLit_lit, isLit_offset, Option.getD, Option.any, Bool.not_false, Bool.and_true] at h ⊢; exact h)
  refine ⟨fits_mk (by decide) hl h6 (by decide) (by omega) ?_ ?_, ?_, hs, ?_⟩
  · intro e; rw [e] at hf; simp at hf
  · intro e; rw [e] at hf; simp at hf
  · simp only [form_mk, opc_mk]; rw [show formsOf 0x52 = [.e, .w] from by decide]; exact hf
  · rw [show parse (mkRaw f 0x52 0 (rnd.code + 8 * bf.toNat + 16 * na.toNat + 32 * nb.toNat + 64 * nc.toNat) d a b c) = parseH2fma (mkRaw f 0x52 0 (rnd.code + 8 * bf.toNat + 16 * na.toNat + 32 * nb.toNat + 64 * nc.toNat) d a b c) from by simp [parse, parseRow5, opc_mk, sub_mk]]
    have e0 : (rnd.code + 8 * bf.toNat + 16 * na.toNat + 32 * nb.toNat + 64 * nc.toNat) / 2 ^ 0 % 2 ^ 3 = rnd.code := by omega
    have e1 : (rnd.code + 8 * bf.toNat + 16 * na.toNat + 32 * nb.toNat + 64 * nc.toNat) / 2 ^ 3 % 2 ^ 1 = bf.toNat := by clear e0; omega
    have e2 : (rnd.code + 8 * bf.toNat + 16 * na.toNat + 32 * nb.toNat + 64 * nc.toNat) / 2 ^ 4 % 2 ^ 1 = na.toNat := by clear e0 e1; omega
    have e3 : (rnd.code + 8 * bf.toNat + 16 * na.toNat + 32 * nb.toNat + 64 * nc.toNat) / 2 ^ 5 % 2 ^ 1 = nb.toNat := by clear e0 e1 e2; omega
    have e4 : (rnd.code + 8 * bf.toNat + 16 * na.toNat + 32 * nb.toNat + 64 * nc.toNat) / 2 ^ 6 % 2 ^ 1 = nc.toNat := by clear e0 e1 e2 e3; omega
    unfold parseH2fma
    simp only [m_mk, fr_mk, rd_mk, sa_mk hl, sb_mk hl, sc_mk hl, e0, e1, e2, e3, e4]
    try simp [Option.bind, toNat_beq_one, toNat_eq_one, boolOfCode_toNat, Header.ofWord_toWord, Rnd.ofCode_code]

theorem h2min (f : Fr) (d : Reg) (a : Reg) (b : Src) (bf : Bool) : Statement (.h2min f d a b bf) := by
  intro h r hr
  obtain rfl := Option.some.inj hr
  replace h : (f.ok [.s, .l] true && d.ok && a.ok && b.ok && f.form.litsOk false b.isLit false && f.holdsOk true true false && decide ((f.form = .s → bf = false))) = true := h
  simp only [Bool.and_eq_true] at h
  obtain ⟨⟨⟨⟨⟨⟨h0, h1⟩, h2⟩, h3⟩, h4⟩, h5⟩, h6⟩ := h
  obtain ⟨hf, hs⟩ := Fr.ok_forms h0
  have := Bool.toNat_lt bf
  have hl : f.form.litsOk ((Src.reg a)).isLit (b).isLit ((Src.reg 0)).isLit = true := by
    have h := h4
    first | exact h | (simp only [isLit_reg, isLit_lit, isLit_offset, Option.getD, Option.any, Bool.not_false, Bool.and_true] at h ⊢; exact h)
  refine ⟨fits_mk (by decide) hl h5 (by decide) (by omega) ?_ ?_, ?_, hs, ?_⟩
  · intro e; simp_all [Src.num, num_zero, Sat.code, Rnd.code, BExt.code, Option.getD] <;> omega
  · intro e; simp_all [Src.num, num_zero, Sat.code, Rnd.code, BExt.code, Option.getD] <;> omega
  · simp only [form_mk, opc_mk]; rw [show formsOf 0x53 = [.s, .l] from by decide]; exact hf
  · rw [show parse (mkRaw f 0x53 0 (8 * bf.toNat) d (Src.reg a) b (Src.reg 0)) = parseH2min (mkRaw f 0x53 0 (8 * bf.toNat) d (Src.reg a) b (Src.reg 0)) from by simp [parse, parseRow5, opc_mk, sub_mk]]
    have e0 : (8 * bf.toNat) / 2 ^ 3 % 2 ^ 1 = bf.toNat := by omega
    unfold parseH2min
    simp only [m_mk, fr_mk, rd_mk, ra_mk, sb_mk hl, e0]
    try simp [Option.bind, toNat_beq_one, toNat_eq_one, boolOfCode_toNat, Header.ofWord_toWord]

theorem h2max (f : Fr) (d : Reg) (a : Reg) (b : Src) (bf : Bool) : Statement (.h2max f d a b bf) := by
  intro h r hr
  obtain rfl := Option.some.inj hr
  replace h : (f.ok [.s, .l] true && d.ok && a.ok && b.ok && f.form.litsOk false b.isLit false && f.holdsOk true true false && decide ((f.form = .s → bf = false))) = true := h
  simp only [Bool.and_eq_true] at h
  obtain ⟨⟨⟨⟨⟨⟨h0, h1⟩, h2⟩, h3⟩, h4⟩, h5⟩, h6⟩ := h
  obtain ⟨hf, hs⟩ := Fr.ok_forms h0
  have := Bool.toNat_lt bf
  have hl : f.form.litsOk ((Src.reg a)).isLit (b).isLit ((Src.reg 0)).isLit = true := by
    have h := h4
    first | exact h | (simp only [isLit_reg, isLit_lit, isLit_offset, Option.getD, Option.any, Bool.not_false, Bool.and_true] at h ⊢; exact h)
  refine ⟨fits_mk (by decide) hl h5 (by decide) (by omega) ?_ ?_, ?_, hs, ?_⟩
  · intro e; simp_all [Src.num, num_zero, Sat.code, Rnd.code, BExt.code, Option.getD] <;> omega
  · intro e; simp_all [Src.num, num_zero, Sat.code, Rnd.code, BExt.code, Option.getD] <;> omega
  · simp only [form_mk, opc_mk]; rw [show formsOf 0x54 = [.s, .l] from by decide]; exact hf
  · rw [show parse (mkRaw f 0x54 0 (8 * bf.toNat) d (Src.reg a) b (Src.reg 0)) = parseH2max (mkRaw f 0x54 0 (8 * bf.toNat) d (Src.reg a) b (Src.reg 0)) from by simp [parse, parseRow5, opc_mk, sub_mk]]
    have e0 : (8 * bf.toNat) / 2 ^ 3 % 2 ^ 1 = bf.toNat := by omega
    unfold parseH2max
    simp only [m_mk, fr_mk, rd_mk, ra_mk, sb_mk hl, e0]
    try simp [Option.bind, toNat_beq_one, toNat_eq_one, boolOfCode_toNat, Header.ofWord_toWord]

theorem cvt (f : Fr) (d : Reg) (a : Reg) (sty : Elem) (dt : Elem) (rnd : Rnd) : Statement (.cvt f d a sty dt rnd) := by
  intro h r hr
  obtain rfl := Option.some.inj hr
  replace h : (f.ok [.e] true && d.ok && a.ok && f.form.litsOk false false false && f.holdsOk true false false && decide (rnd ≠ .sr ∧ sty.isFloat ∧ dt.isFloat)) = true := h
  simp only [Bool.and_eq_true] at h
  obtain ⟨⟨⟨⟨⟨h0, h1⟩, h2⟩, h3⟩, h4⟩, h5⟩ := h
  obtain ⟨hf, hs⟩ := Fr.ok_forms h0
  have := Elem.code_lt sty
  have := Elem.code_lt dt
  have := Rnd.code_lt rnd
  have hl : f.form.litsOk ((Src.reg a)).isLit ((Src.reg 0)).isLit ((Src.reg 0)).isLit = true := by
    have h := h3
    first | exact h | (simp only [isLit_reg, isLit_lit, isLit_offset, Option.getD, Option.any, Bool.not_false, Bool.and_true] at h ⊢; exact h)
  refine ⟨fits_mk (by decide) hl h4 (by decide) (by omega) ?_ ?_, ?_, hs, ?_⟩
  · intro e; rw [e] at hf; simp at hf
  · intro e; rw [e] at hf; simp at hf
  · simp only [form_mk, opc_mk]; rw [show formsOf 0x58 = [.e] from by decide]; exact hf
  · rw [show parse (mkRaw f 0x58 0 (sty.code + 32 * dt.code + 1024 * rnd.code) d (Src.reg a) (Src.reg 0) (Src.reg 0)) = parseCvt (mkRaw f 0x58 0 (sty.code + 32 * dt.code + 1024 * rnd.code) d (Src.reg a) (Src.reg 0) (Src.reg 0)) from by simp [parse, parseRow5, opc_mk, sub_mk]]
    have e0 : (sty.code + 32 * dt.code + 1024 * rnd.code) / 2 ^ 0 % 2 ^ 5 = sty.code := by omega
    have e1 : (sty.code + 32 * dt.code + 1024 * rnd.code) / 2 ^ 5 % 2 ^ 5 = dt.code := by clear e0; omega
    have e2 : (sty.code + 32 * dt.code + 1024 * rnd.code) / 2 ^ 10 % 2 ^ 3 = rnd.code := by clear e0 e1; omega
    unfold parseCvt
    simp only [m_mk, fr_mk, rd_mk, ra_mk, e0, e1, e2]
    try simp [Option.bind, toNat_beq_one, toNat_eq_one, boolOfCode_toNat, Header.ofWord_toWord, Elem.ofCode_code, Rnd.ofCode_code]

theorem cvti (f : Fr) (d : Reg) (a : Reg) (sty : Elem) (dt : Elem) (rnd : Rnd) : Statement (.cvti f d a sty dt rnd) := by
  intro h r hr
  obtain rfl := Option.some.inj hr
  replace h : (f.ok [.e] true && d.ok && a.ok && f.form.litsOk false false false && f.holdsOk true false false && decide (rnd ≠ .sr ∧ sty.isFloat ∧ dt.isInt)) = true := h
  simp only [Bool.and_eq_true] at h
  obtain ⟨⟨⟨⟨⟨h0, h1⟩, h2⟩, h3⟩, h4⟩, h5⟩ := h
  obtain ⟨hf, hs⟩ := Fr.ok_forms h0
  have := Elem.code_lt sty
  have := Elem.code_lt dt
  have := Rnd.code_lt rnd
  have hl : f.form.litsOk ((Src.reg a)).isLit ((Src.reg 0)).isLit ((Src.reg 0)).isLit = true := by
    have h := h3
    first | exact h | (simp only [isLit_reg, isLit_lit, isLit_offset, Option.getD, Option.any, Bool.not_false, Bool.and_true] at h ⊢; exact h)
  refine ⟨fits_mk (by decide) hl h4 (by decide) (by omega) ?_ ?_, ?_, hs, ?_⟩
  · intro e; rw [e] at hf; simp at hf
  · intro e; rw [e] at hf; simp at hf
  · simp only [form_mk, opc_mk]; rw [show formsOf 0x59 = [.e] from by decide]; exact hf
  · rw [show parse (mkRaw f 0x59 0 (sty.code + 32 * dt.code + 1024 * rnd.code) d (Src.reg a) (Src.reg 0) (Src.reg 0)) = parseCvti (mkRaw f 0x59 0 (sty.code + 32 * dt.code + 1024 * rnd.code) d (Src.reg a) (Src.reg 0) (Src.reg 0)) from by simp [parse, parseRow5, opc_mk, sub_mk]]
    have e0 : (sty.code + 32 * dt.code + 1024 * rnd.code) / 2 ^ 0 % 2 ^ 5 = sty.code := by omega
    have e1 : (sty.code + 32 * dt.code + 1024 * rnd.code) / 2 ^ 5 % 2 ^ 5 = dt.code := by clear e0; omega
    have e2 : (sty.code + 32 * dt.code + 1024 * rnd.code) / 2 ^ 10 % 2 ^ 3 = rnd.code := by clear e0 e1; omega
    unfold parseCvti
    simp only [m_mk, fr_mk, rd_mk, ra_mk, e0, e1, e2]
    try simp [Option.bind, toNat_beq_one, toNat_eq_one, boolOfCode_toNat, Header.ofWord_toWord, Elem.ofCode_code, Rnd.ofCode_code]

theorem cvtf (f : Fr) (d : Reg) (a : Reg) (sty : Elem) (dt : Elem) (rnd : Rnd) : Statement (.cvtf f d a sty dt rnd) := by
  intro h r hr
  obtain rfl := Option.some.inj hr
  replace h : (f.ok [.e] true && d.ok && a.ok && f.form.litsOk false false false && f.holdsOk true false false && decide (rnd ≠ .sr ∧ sty.isInt ∧ dt.isFloat)) = true := h
  simp only [Bool.and_eq_true] at h
  obtain ⟨⟨⟨⟨⟨h0, h1⟩, h2⟩, h3⟩, h4⟩, h5⟩ := h
  obtain ⟨hf, hs⟩ := Fr.ok_forms h0
  have := Elem.code_lt sty
  have := Elem.code_lt dt
  have := Rnd.code_lt rnd
  have hl : f.form.litsOk ((Src.reg a)).isLit ((Src.reg 0)).isLit ((Src.reg 0)).isLit = true := by
    have h := h3
    first | exact h | (simp only [isLit_reg, isLit_lit, isLit_offset, Option.getD, Option.any, Bool.not_false, Bool.and_true] at h ⊢; exact h)
  refine ⟨fits_mk (by decide) hl h4 (by decide) (by omega) ?_ ?_, ?_, hs, ?_⟩
  · intro e; rw [e] at hf; simp at hf
  · intro e; rw [e] at hf; simp at hf
  · simp only [form_mk, opc_mk]; rw [show formsOf 0x5A = [.e] from by decide]; exact hf
  · rw [show parse (mkRaw f 0x5A 0 (sty.code + 32 * dt.code + 1024 * rnd.code) d (Src.reg a) (Src.reg 0) (Src.reg 0)) = parseCvtf (mkRaw f 0x5A 0 (sty.code + 32 * dt.code + 1024 * rnd.code) d (Src.reg a) (Src.reg 0) (Src.reg 0)) from by simp [parse, parseRow5, opc_mk, sub_mk]]
    have e0 : (sty.code + 32 * dt.code + 1024 * rnd.code) / 2 ^ 0 % 2 ^ 5 = sty.code := by omega
    have e1 : (sty.code + 32 * dt.code + 1024 * rnd.code) / 2 ^ 5 % 2 ^ 5 = dt.code := by clear e0; omega
    have e2 : (sty.code + 32 * dt.code + 1024 * rnd.code) / 2 ^ 10 % 2 ^ 3 = rnd.code := by clear e0 e1; omega
    unfold parseCvtf
    simp only [m_mk, fr_mk, rd_mk, ra_mk, e0, e1, e2]
    try simp [Option.bind, toNat_beq_one, toNat_eq_one, boolOfCode_toNat, Header.ofWord_toWord, Elem.ofCode_code, Rnd.ofCode_code]

theorem pack2 (f : Fr) (d : Reg) (a : Reg) (b : Reg) (c : Option Reg) (dt : Elem) (rnd : Rnd) (k : BitVec 3) : Statement (.pack2 f d a b c dt rnd k) := by
  intro h r hr
  obtain rfl := Option.some.inj hr
  replace h : (f.ok [.e] true && d.ok && a.ok && b.ok && c.all Reg.ok && f.form.litsOk false false false && f.holdsOk true true c.isSome && decide (rnd ≠ .sr ∧ dt.packs k)) = true := h
  simp only [Bool.and_eq_true] at h
  obtain ⟨⟨⟨⟨⟨⟨⟨h0, h1⟩, h2⟩, h3⟩, h4⟩, h5⟩, h6⟩, h7⟩ := h
  obtain ⟨hf, hs⟩ := Fr.ok_forms h0
  have := Bool.toNat_lt c.isSome
  have := Elem.code_lt dt
  have := Rnd.code_lt rnd
  have := k.isLt
  have hl : f.form.litsOk ((Src.reg a)).isLit ((Src.reg b)).isLit ((Src.reg (c.getD 0))).isLit = true := by
    have h := h5
    cases c <;> first | exact h | (simp only [isLit_reg, isLit_lit, isLit_offset, Option.getD, Option.any, Bool.not_false, Bool.and_true] at h ⊢; exact h)
  refine ⟨fits_mk (by decide) hl h6 (by decide) (by omega) ?_ ?_, ?_, hs, ?_⟩
  · intro e; rw [e] at hf; simp at hf
  · intro e; rw [e] at hf; simp at hf
  · simp only [form_mk, opc_mk]; rw [show formsOf 0x5B = [.e] from by decide]; exact hf
  · rw [show parse (mkRaw f 0x5B 0 (dt.code + 32 * rnd.code + 256 * k.toNat + 2048 * c.isSome.toNat) d (Src.reg a) (Src.reg b) (Src.reg (c.getD 0))) = parsePack2 (mkRaw f 0x5B 0 (dt.code + 32 * rnd.code + 256 * k.toNat + 2048 * c.isSome.toNat) d (Src.reg a) (Src.reg b) (Src.reg (c.getD 0))) from by simp [parse, parseRow5, opc_mk, sub_mk]]
    have e0 : (dt.code + 32 * rnd.code + 256 * k.toNat + 2048 * c.isSome.toNat) / 2 ^ 0 % 2 ^ 5 = dt.code := by omega
    have e1 : (dt.code + 32 * rnd.code + 256 * k.toNat + 2048 * c.isSome.toNat) / 2 ^ 5 % 2 ^ 3 = rnd.code := by clear e0; omega
    have e2 : (dt.code + 32 * rnd.code + 256 * k.toNat + 2048 * c.isSome.toNat) / 2 ^ 8 % 2 ^ 3 = k.toNat := by clear e0 e1; omega
    have e3 : (dt.code + 32 * rnd.code + 256 * k.toNat + 2048 * c.isSome.toNat) / 2 ^ 11 % 2 ^ 1 = c.isSome.toNat := by clear e0 e1 e2; omega
    unfold parsePack2
    simp only [m_mk, fr_mk, rd_mk, ra_mk, rb_mk, rc_mk, e0, e1, e2, e3]
    cases c <;> try simp [Option.bind, toNat_beq_one, toNat_eq_one, boolOfCode_toNat, Header.ofWord_toWord, Elem.ofCode_code, Rnd.ofCode_code] <;> simp_all

theorem unpk2 (f : Fr) (d : Reg) (c2 : Reg) (a : Reg) (sty : Elem) (k : BitVec 3) : Statement (.unpk2 f d c2 a sty k) := by
  intro h r hr
  obtain rfl := Option.some.inj hr
  replace h : (f.ok [.e] true && d.ok && c2.ok && a.ok && f.form.litsOk false false false && f.holdsOk true false false && decide (d = c2 → d = 0) && decide (sty.packs k)) = true := h
  simp only [Bool.and_eq_true] at h
  obtain ⟨⟨⟨⟨⟨⟨⟨h0, h1⟩, h2⟩, h3⟩, h4⟩, h5⟩, h6⟩, h7⟩ := h
  obtain ⟨hf, hs⟩ := Fr.ok_forms h0
  have := Elem.code_lt sty
  have := k.isLt
  have hl : f.form.litsOk ((Src.reg a)).isLit ((Src.reg 0)).isLit ((Src.reg c2)).isLit = true := by
    have h := h4
    first | exact h | (simp only [isLit_reg, isLit_lit, isLit_offset, Option.getD, Option.any, Bool.not_false, Bool.and_true] at h ⊢; exact h)
  refine ⟨fits_mk (by decide) hl h5 (by decide) (by omega) ?_ ?_, ?_, hs, ?_⟩
  · intro e; rw [e] at hf; simp at hf
  · intro e; rw [e] at hf; simp at hf
  · simp only [form_mk, opc_mk]; rw [show formsOf 0x5C = [.e] from by decide]; exact hf
  · rw [show parse (mkRaw f 0x5C 0 (sty.code + 256 * k.toNat) d (Src.reg a) (Src.reg 0) (Src.reg c2)) = parseUnpk2 (mkRaw f 0x5C 0 (sty.code + 256 * k.toNat) d (Src.reg a) (Src.reg 0) (Src.reg c2)) from by simp [parse, parseRow5, opc_mk, sub_mk]]
    have e0 : (sty.code + 256 * k.toNat) / 2 ^ 0 % 2 ^ 5 = sty.code := by omega
    have e1 : (sty.code + 256 * k.toNat) / 2 ^ 8 % 2 ^ 3 = k.toNat := by clear e0; omega
    unfold parseUnpk2
    simp only [m_mk, fr_mk, rd_mk, ra_mk, rc_mk, e0, e1]
    try simp [Option.bind, toNat_beq_one, toNat_eq_one, boolOfCode_toNat, Header.ofWord_toWord, Elem.ofCode_code]

theorem srnd (f : Fr) (d : Reg) (a : Src) (b : Src) (dt : Elem) (strm : BitVec 8) : Statement (.srnd f d a b dt strm) := by
  intro h r hr
  obtain rfl := Option.some.inj hr
  replace h : (f.ok [.e, .w] true && d.ok && a.ok && b.ok && f.form.litsOk a.isLit b.isLit false && f.holdsOk true true false && decide (dt.packs 0)) = true := h
  simp only [Bool.and_eq_true] at h
  obtain ⟨⟨⟨⟨⟨⟨h0, h1⟩, h2⟩, h3⟩, h4⟩, h5⟩, h6⟩ := h
  obtain ⟨hf, hs⟩ := Fr.ok_forms h0
  have := Elem.code_lt dt
  have := strm.isLt
  have hl : f.form.litsOk (a).isLit (b).isLit ((Src.reg 0)).isLit = true := by
    have h := h4
    first | exact h | (simp only [isLit_reg, isLit_lit, isLit_offset, Option.getD, Option.any, Bool.not_false, Bool.and_true] at h ⊢; exact h)
  refine ⟨fits_mk (by decide) hl h5 (by decide) (by omega) ?_ ?_, ?_, hs, ?_⟩
  · intro e; rw [e] at hf; simp at hf
  · intro e; rw [e] at hf; simp at hf
  · simp only [form_mk, opc_mk]; rw [show formsOf 0x5D = [.e, .w] from by decide]; exact hf
  · rw [show parse (mkRaw f 0x5D 0 (dt.code + 32 * strm.toNat) d a b (Src.reg 0)) = parseSrnd (mkRaw f 0x5D 0 (dt.code + 32 * strm.toNat) d a b (Src.reg 0)) from by simp [parse, parseRow5, opc_mk, sub_mk]]
    have e0 : (dt.code + 32 * strm.toNat) / 2 ^ 0 % 2 ^ 5 = dt.code := by omega
    have e1 : (dt.code + 32 * strm.toNat) / 2 ^ 5 % 2 ^ 8 = strm.toNat := by clear e0; omega
    unfold parseSrnd
    simp only [m_mk, fr_mk, rd_mk, sa_mk hl, sb_mk hl, e0, e1]
    try simp [Option.bind, toNat_beq_one, toNat_eq_one, boolOfCode_toNat, Header.ofWord_toWord, Elem.ofCode_code]

theorem bmax (f : Fr) (kind : MaxKind) (d : Reg) (a : Reg) (t : FTy) : Statement (.bmax f kind d a t) := by
  intro h r hr
  obtain rfl := Option.some.inj hr
  replace h : (f.ok [.e] false && d.ok && a.ok && f.form.litsOk false false false && f.holdsOk true false false) = true := h
  simp only [Bool.and_eq_true] at h
  obtain ⟨⟨⟨⟨h0, h1⟩, h2⟩, h3⟩, h4⟩ := h
  obtain ⟨hf, hs⟩ := Fr.ok_forms h0
  have := MaxKind.code_lt kind
  have := FTy.code_lt t
  have hl : f.form.litsOk ((Src.reg a)).isLit ((Src.reg 0)).isLit ((Src.reg 0)).isLit = true := by
    have h := h3
    first | exact h | (simp only [isLit_reg, isLit_lit, isLit_offset, Option.getD, Option.any, Bool.not_false, Bool.and_true] at h ⊢; exact h)
  refine ⟨fits_mk (by decide) hl h4 (by omega) (by omega) ?_ ?_, ?_, hs, ?_⟩
  · intro e; rw [e] at hf; simp at hf
  · intro e; rw [e] at hf; simp at hf
  · simp only [form_mk, opc_mk]; rw [show formsOf 0x60 = [.e] from by decide]; exact hf
  · rw [show parse (mkRaw f 0x60 kind.code (t.code) d (Src.reg a) (Src.reg 0) (Src.reg 0)) = parseBmax (mkRaw f 0x60 kind.code (t.code) d (Src.reg a) (Src.reg 0) (Src.reg 0)) from by simp [parse, parseRow6, opc_mk, sub_mk]]
    have e0 : (t.code) / 2 ^ 0 % 2 ^ 2 = t.code := by omega
    unfold parseBmax
    simp only [m_mk, fr_mk, rd_mk, ra_mk, sub_mk, e0]
    try simp [Option.bind, toNat_beq_one, toNat_eq_one, boolOfCode_toNat, Header.ofWord_toWord, FTy.ofCode_code, MaxKind.ofCode_code]

theorem bmin (f : Fr) (kind : MaxKind) (d : Reg) (a : Reg) (t : FTy) : Statement (.bmin f kind d a t) := by
  intro h r hr
  obtain rfl := Option.some.inj hr
  replace h : (f.ok [.e] false && d.ok && a.ok && f.form.litsOk false false false && f.holdsOk true false false) = true := h
  simp only [Bool.and_eq_true] at h
  obtain ⟨⟨⟨⟨h0, h1⟩, h2⟩, h3⟩, h4⟩ := h
  obtain ⟨hf, hs⟩ := Fr.ok_forms h0
  have := MaxKind.code_lt kind
  have := FTy.code_lt t
  have hl : f.form.litsOk ((Src.reg a)).isLit ((Src.reg 0)).isLit ((Src.reg 0)).isLit = true := by
    have h := h3
    first | exact h | (simp only [isLit_reg, isLit_lit, isLit_offset, Option.getD, Option.any, Bool.not_false, Bool.and_true] at h ⊢; exact h)
  refine ⟨fits_mk (by decide) hl h4 (by omega) (by omega) ?_ ?_, ?_, hs, ?_⟩
  · intro e; rw [e] at hf; simp at hf
  · intro e; rw [e] at hf; simp at hf
  · simp only [form_mk, opc_mk]; rw [show formsOf 0x61 = [.e] from by decide]; exact hf
  · rw [show parse (mkRaw f 0x61 kind.code (t.code) d (Src.reg a) (Src.reg 0) (Src.reg 0)) = parseBmin (mkRaw f 0x61 kind.code (t.code) d (Src.reg a) (Src.reg 0) (Src.reg 0)) from by simp [parse, parseRow6, opc_mk, sub_mk]]
    have e0 : (t.code) / 2 ^ 0 % 2 ^ 2 = t.code := by omega
    unfold parseBmin
    simp only [m_mk, fr_mk, rd_mk, ra_mk, sub_mk, e0]
    try simp [Option.bind, toNat_beq_one, toNat_eq_one, boolOfCode_toNat, Header.ofWord_toWord, FTy.ofCode_code, MaxKind.ofCode_code]

theorem bscale (f : Fr) (mode : SMode) (d : Reg) (a : Reg) (bf : BFmt) : Statement (.bscale f mode d a bf) := by
  intro h r hr
  obtain rfl := Option.some.inj hr
  replace h : (f.ok [.e] false && d.ok && a.ok && f.form.litsOk false false false && f.holdsOk true false false && decide (bf.isMx)) = true := h
  simp only [Bool.and_eq_true] at h
  obtain ⟨⟨⟨⟨⟨h0, h1⟩, h2⟩, h3⟩, h4⟩, h5⟩ := h
  obtain ⟨hf, hs⟩ := Fr.ok_forms h0
  have := SMode.code_lt mode
  have := BFmt.code_lt bf
  have hl : f.form.litsOk ((Src.reg a)).isLit ((Src.reg 0)).isLit ((Src.reg 0)).isLit = true := by
    have h := h3
    first | exact h | (simp only [isLit_reg, isLit_lit, isLit_offset, Option.getD, Option.any, Bool.not_false, Bool.and_true] at h ⊢; exact h)
  refine ⟨fits_mk (by decide) hl h4 (by omega) (by omega) ?_ ?_, ?_, hs, ?_⟩
  · intro e; rw [e] at hf; simp at hf
  · intro e; rw [e] at hf; simp at hf
  · simp only [form_mk, opc_mk]; rw [show formsOf 0x62 = [.e] from by decide]; exact hf
  · rw [show parse (mkRaw f 0x62 mode.code (bf.code) d (Src.reg a) (Src.reg 0) (Src.reg 0)) = parseBscale (mkRaw f 0x62 mode.code (bf.code) d (Src.reg a) (Src.reg 0) (Src.reg 0)) from by simp [parse, parseRow6, opc_mk, sub_mk]]
    have e0 : (bf.code) / 2 ^ 0 % 2 ^ 3 = bf.code := by omega
    unfold parseBscale
    simp only [m_mk, fr_mk, rd_mk, ra_mk, sub_mk, e0]
    try simp [Option.bind, toNat_beq_one, toNat_eq_one, boolOfCode_toNat, Header.ofWord_toWord, BFmt.ofCode_code, SMode.ofCode_code]

theorem bzp (f : Fr) (zf : ZFmt) (d : Reg) (a : Reg) (b : Reg) : Statement (.bzp f zf d a b) := by
  intro h r hr
  obtain rfl := Option.some.inj hr
  replace h : (f.ok [.e] false && d.ok && a.ok && b.ok && f.form.litsOk false false false && f.holdsOk true true false) = true := h
  simp only [Bool.and_eq_true] at h
  obtain ⟨⟨⟨⟨⟨h0, h1⟩, h2⟩, h3⟩, h4⟩, h5⟩ := h
  obtain ⟨hf, hs⟩ := Fr.ok_forms h0
  have := ZFmt.code_lt zf
  have hl : f.form.litsOk ((Src.reg a)).isLit ((Src.reg b)).isLit ((Src.reg 0)).isLit = true := by
    have h := h4
    first | exact h | (simp only [isLit_reg, isLit_lit, isLit_offset, Option.getD, Option.any, Bool.not_false, Bool.and_true] at h ⊢; exact h)
  refine ⟨fits_mk (by decide) hl h5 (by omega) (by decide) ?_ ?_, ?_, hs, ?_⟩
  · intro e; rw [e] at hf; simp at hf
  · intro e; rw [e] at hf; simp at hf
  · simp only [form_mk, opc_mk]; rw [show formsOf 0x63 = [.e] from by decide]; exact hf
  · rw [show parse (mkRaw f 0x63 zf.code (0) d (Src.reg a) (Src.reg b) (Src.reg 0)) = parseBzp (mkRaw f 0x63 zf.code (0) d (Src.reg a) (Src.reg b) (Src.reg 0)) from by simp [parse, parseRow6, opc_mk, sub_mk]]
    unfold parseBzp
    simp only [m_mk, fr_mk, rd_mk, ra_mk, rb_mk, sub_mk]
    try simp [Option.bind, toNat_beq_one, toNat_eq_one, boolOfCode_toNat, Header.ofWord_toWord, ZFmt.ofCode_code]

theorem bquant (f : Fr) (mode : QMode) (d : Reg) (c2 : Reg) (a : Src) (b : Option Src) (bf : BFmt) (rnd : Rnd) (strm : BitVec 8) : Statement (.bquant f mode d c2 a b bf rnd strm) := by
  intro h r hr
  obtain rfl := Option.some.inj hr
  replace h : (f.ok [.e, .w] false && d.ok && c2.ok && a.ok && b.all Src.ok && (b.isSome == decide (mode = .given)) && f.form.litsOk a.isLit (b.any Src.isLit) false && f.holdsOk true b.isSome false && decide (d = c2 → d = 0) && decide ((rnd = .sr ∨ strm = 0) ∧ (bf.isMx ∨ mode = .given))) = true := h
  simp only [Bool.and_eq_true] at h
  obtain ⟨⟨⟨⟨⟨⟨⟨⟨⟨h0, h1⟩, h2⟩, h3⟩, h4⟩, h5⟩, h6⟩, h7⟩, h8⟩, h9⟩ := h
  obtain ⟨hf, hs⟩ := Fr.ok_forms h0
  have := QMode.code_lt mode
  have := Bool.toNat_lt b.isSome
  have := BFmt.code_lt bf
  have := Rnd.code_lt rnd
  have := strm.isLt
  have hl : f.form.litsOk (a).isLit ((b.getD (Src.reg 0))).isLit ((Src.reg c2)).isLit = true := by
    have h := h6
    cases b <;> first | exact h | (simp only [isLit_reg, isLit_lit, isLit_offset, Option.getD, Option.any, Bool.not_false, Bool.and_true] at h ⊢; exact h)
  refine ⟨fits_mk (by decide) hl h7 (by omega) (by omega) ?_ ?_, ?_, hs, ?_⟩
  · intro e; rw [e] at hf; simp at hf
  · intro e; rw [e] at hf; simp at hf
  · simp only [form_mk, opc_mk]; rw [show formsOf 0x64 = [.e, .w] from by decide]; exact hf
  · rw [show parse (mkRaw f 0x64 mode.code (bf.code + 8 * rnd.code + 64 * strm.toNat) d a (b.getD (Src.reg 0)) (Src.reg c2)) = parseBquant (mkRaw f 0x64 mode.code (bf.code + 8 * rnd.code + 64 * strm.toNat) d a (b.getD (Src.reg 0)) (Src.reg c2)) from by simp [parse, parseRow6, opc_mk, sub_mk]]
    have e0 : (bf.code + 8 * rnd.code + 64 * strm.toNat) / 2 ^ 0 % 2 ^ 3 = bf.code := by omega
    have e1 : (bf.code + 8 * rnd.code + 64 * strm.toNat) / 2 ^ 3 % 2 ^ 3 = rnd.code := by clear e0; omega
    have e2 : (bf.code + 8 * rnd.code + 64 * strm.toNat) / 2 ^ 6 % 2 ^ 8 = strm.toNat := by clear e0 e1; omega
    unfold parseBquant
    simp only [m_mk, fr_mk, rd_mk, rc_mk, sa_mk hl, sb_mk hl, sub_mk, e0, e1, e2]
    cases b <;> try simp [Option.bind, toNat_beq_one, toNat_eq_one, boolOfCode_toNat, Header.ofWord_toWord, BFmt.ofCode_code, QMode.ofCode_code, Rnd.ofCode_code] <;> simp_all

theorem bdeq (f : Fr) (d : Reg) (a : Src) (b : Src) (bf : BFmt) (dt : DTy) (rnd : Rnd) : Statement (.bdeq f d a b bf dt rnd) := by
  intro h r hr
  obtain rfl := Option.some.inj hr
  replace h : (f.ok [.e, .w] true && d.ok && a.ok && b.ok && f.form.litsOk a.isLit b.isLit false && f.holdsOk true true false && decide (rnd ≠ .sr)) = true := h
  simp only [Bool.and_eq_true] at h
  obtain ⟨⟨⟨⟨⟨⟨h0, h1⟩, h2⟩, h3⟩, h4⟩, h5⟩, h6⟩ := h
  obtain ⟨hf, hs⟩ := Fr.ok_forms h0
  have := BFmt.code_lt bf
  have := DTy.code_lt dt
  have := Rnd.code_lt rnd
  have hl : f.form.litsOk (a).isLit (b).isLit ((Src.reg 0)).isLit = true := by
    have h := h4
    first | exact h | (simp only [isLit_reg, isLit_lit, isLit_offset, Option.getD, Option.any, Bool.not_false, Bool.and_true] at h ⊢; exact h)
  refine ⟨fits_mk (by decide) hl h5 (by decide) (by omega) ?_ ?_, ?_, hs, ?_⟩
  · intro e; rw [e] at hf; simp at hf
  · intro e; rw [e] at hf; simp at hf
  · simp only [form_mk, opc_mk]; rw [show formsOf 0x65 = [.e, .w] from by decide]; exact hf
  · rw [show parse (mkRaw f 0x65 0 (bf.code + 8 * dt.code + 32 * rnd.code) d a b (Src.reg 0)) = parseBdeq (mkRaw f 0x65 0 (bf.code + 8 * dt.code + 32 * rnd.code) d a b (Src.reg 0)) from by simp [parse, parseRow6, opc_mk, sub_mk]]
    have e0 : (bf.code + 8 * dt.code + 32 * rnd.code) / 2 ^ 0 % 2 ^ 3 = bf.code := by omega
    have e1 : (bf.code + 8 * dt.code + 32 * rnd.code) / 2 ^ 3 % 2 ^ 2 = dt.code := by clear e0; omega
    have e2 : (bf.code + 8 * dt.code + 32 * rnd.code) / 2 ^ 5 % 2 ^ 3 = rnd.code := by clear e0 e1; omega
    unfold parseBdeq
    simp only [m_mk, fr_mk, rd_mk, sa_mk hl, sb_mk hl, e0, e1, e2]
    try simp [Option.bind, toNat_beq_one, toNat_eq_one, boolOfCode_toNat, Header.ofWord_toWord, BFmt.ofCode_code, DTy.ofCode_code, Rnd.ofCode_code]

theorem bpack (f : Fr) (d : Reg) (a : Reg) (b : Reg) (bf : BFmt) (grp : Grp) (part : BitVec 2) : Statement (.bpack f d a b bf grp part) := by
  intro h r hr
  obtain rfl := Option.some.inj hr
  replace h : (f.ok [.e] false && d.spanOk && a.ok && b.ok && f.form.litsOk false false false && f.holdsOk true true false && decide (bf.partOk grp part)) = true := h
  simp only [Bool.and_eq_true] at h
  obtain ⟨⟨⟨⟨⟨⟨h0, h1⟩, h2⟩, h3⟩, h4⟩, h5⟩, h6⟩ := h
  obtain ⟨hf, hs⟩ := Fr.ok_forms h0
  have := BFmt.code_lt bf
  have := Grp.code_lt grp
  have := part.isLt
  have hl : f.form.litsOk ((Src.reg a)).isLit ((Src.reg b)).isLit ((Src.reg 0)).isLit = true := by
    have h := h4
    first | exact h | (simp only [isLit_reg, isLit_lit, isLit_offset, Option.getD, Option.any, Bool.not_false, Bool.and_true] at h ⊢; exact h)
  refine ⟨fits_mk (by decide) hl h5 (by decide) (by omega) ?_ ?_, ?_, hs, ?_⟩
  · intro e; rw [e] at hf; simp at hf
  · intro e; rw [e] at hf; simp at hf
  · simp only [form_mk, opc_mk]; rw [show formsOf 0x66 = [.e] from by decide]; exact hf
  · rw [show parse (mkRaw f 0x66 0 (bf.code + 8 * grp.code + 32 * part.toNat) d (Src.reg a) (Src.reg b) (Src.reg 0)) = parseBpack (mkRaw f 0x66 0 (bf.code + 8 * grp.code + 32 * part.toNat) d (Src.reg a) (Src.reg b) (Src.reg 0)) from by simp [parse, parseRow6, opc_mk, sub_mk]]
    have e0 : (bf.code + 8 * grp.code + 32 * part.toNat) / 2 ^ 0 % 2 ^ 3 = bf.code := by omega
    have e1 : (bf.code + 8 * grp.code + 32 * part.toNat) / 2 ^ 3 % 2 ^ 2 = grp.code := by clear e0; omega
    have e2 : (bf.code + 8 * grp.code + 32 * part.toNat) / 2 ^ 5 % 2 ^ 2 = part.toNat := by clear e0 e1; omega
    unfold parseBpack
    simp only [m_mk, fr_mk, rd_mk, ra_mk, rb_mk, e0, e1, e2]
    try simp [Option.bind, toNat_beq_one, toNat_eq_one, boolOfCode_toNat, Header.ofWord_toWord, BFmt.ofCode_code, Grp.ofCode_code]

theorem bunpk (f : Fr) (d : Reg) (c2 : Reg) (a : Reg) (bf : BFmt) (grp : Grp) (part : BitVec 2) : Statement (.bunpk f d c2 a bf grp part) := by
  intro h r hr
  obtain rfl := Option.some.inj hr
  replace h : (f.ok [.e] false && d.ok && c2.ok && a.spanOk && f.form.litsOk false false false && f.holdsOk true false false && decide (d = c2 → d = 0) && decide (bf.partOk grp part)) = true := h
  simp only [Bool.and_eq_true] at h
  obtain ⟨⟨⟨⟨⟨⟨⟨h0, h1⟩, h2⟩, h3⟩, h4⟩, h5⟩, h6⟩, h7⟩ := h
  obtain ⟨hf, hs⟩ := Fr.ok_forms h0
  have := BFmt.code_lt bf
  have := Grp.code_lt grp
  have := part.isLt
  have hl : f.form.litsOk ((Src.reg a)).isLit ((Src.reg 0)).isLit ((Src.reg c2)).isLit = true := by
    have h := h4
    first | exact h | (simp only [isLit_reg, isLit_lit, isLit_offset, Option.getD, Option.any, Bool.not_false, Bool.and_true] at h ⊢; exact h)
  refine ⟨fits_mk (by decide) hl h5 (by decide) (by omega) ?_ ?_, ?_, hs, ?_⟩
  · intro e; rw [e] at hf; simp at hf
  · intro e; rw [e] at hf; simp at hf
  · simp only [form_mk, opc_mk]; rw [show formsOf 0x67 = [.e] from by decide]; exact hf
  · rw [show parse (mkRaw f 0x67 0 (bf.code + 8 * grp.code + 32 * part.toNat) d (Src.reg a) (Src.reg 0) (Src.reg c2)) = parseBunpk (mkRaw f 0x67 0 (bf.code + 8 * grp.code + 32 * part.toNat) d (Src.reg a) (Src.reg 0) (Src.reg c2)) from by simp [parse, parseRow6, opc_mk, sub_mk]]
    have e0 : (bf.code + 8 * grp.code + 32 * part.toNat) / 2 ^ 0 % 2 ^ 3 = bf.code := by omega
    have e1 : (bf.code + 8 * grp.code + 32 * part.toNat) / 2 ^ 3 % 2 ^ 2 = grp.code := by clear e0; omega
    have e2 : (bf.code + 8 * grp.code + 32 * part.toNat) / 2 ^ 5 % 2 ^ 2 = part.toNat := by clear e0 e1; omega
    unfold parseBunpk
    simp only [m_mk, fr_mk, rd_mk, ra_mk, rc_mk, e0, e1, e2]
    try simp [Option.bind, toNat_beq_one, toNat_eq_one, boolOfCode_toNat, Header.ofWord_toWord, BFmt.ofCode_code, Grp.ofCode_code]

theorem bhealth (f : Fr) (mode : QMode) (d : Reg) (a : Reg) (b : Option Reg) (bf : BFmt) (rnd : Rnd) : Statement (.bhealth f mode d a b bf rnd) := by
  intro h r hr
  obtain rfl := Option.some.inj hr
  replace h : (f.ok [.e] false && d.ok && a.ok && b.all Reg.ok && (b.isSome == decide (mode = .given)) && f.form.litsOk false false false && f.holdsOk true b.isSome false && decide (rnd ≠ .sr ∧ (bf.isMx ∨ mode = .given))) = true := h
  simp only [Bool.and_eq_true] at h
  obtain ⟨⟨⟨⟨⟨⟨⟨h0, h1⟩, h2⟩, h3⟩, h4⟩, h5⟩, h6⟩, h7⟩ := h
  obtain ⟨hf, hs⟩ := Fr.ok_forms h0
  have := QMode.code_lt mode
  have := Bool.toNat_lt b.isSome
  have := BFmt.code_lt bf
  have := Rnd.code_lt rnd
  have hl : f.form.litsOk ((Src.reg a)).isLit ((Src.reg (b.getD 0))).isLit ((Src.reg 0)).isLit = true := by
    have h := h5
    cases b <;> first | exact h | (simp only [isLit_reg, isLit_lit, isLit_offset, Option.getD, Option.any, Bool.not_false, Bool.and_true] at h ⊢; exact h)
  refine ⟨fits_mk (by decide) hl h6 (by omega) (by omega) ?_ ?_, ?_, hs, ?_⟩
  · intro e; rw [e] at hf; simp at hf
  · intro e; rw [e] at hf; simp at hf
  · simp only [form_mk, opc_mk]; rw [show formsOf 0x68 = [.e] from by decide]; exact hf
  · rw [show parse (mkRaw f 0x68 mode.code (bf.code + 8 * rnd.code) d (Src.reg a) (Src.reg (b.getD 0)) (Src.reg 0)) = parseBhealth (mkRaw f 0x68 mode.code (bf.code + 8 * rnd.code) d (Src.reg a) (Src.reg (b.getD 0)) (Src.reg 0)) from by simp [parse, parseRow6, opc_mk, sub_mk]]
    have e0 : (bf.code + 8 * rnd.code) / 2 ^ 0 % 2 ^ 3 = bf.code := by omega
    have e1 : (bf.code + 8 * rnd.code) / 2 ^ 3 % 2 ^ 3 = rnd.code := by clear e0; omega
    unfold parseBhealth
    simp only [m_mk, fr_mk, rd_mk, ra_mk, rb_mk, sub_mk, e0, e1]
    cases b <;> try simp [Option.bind, toNat_beq_one, toNat_eq_one, boolOfCode_toNat, Header.ofWord_toWord, BFmt.ofCode_code, QMode.ofCode_code, Rnd.ofCode_code] <;> simp_all

theorem brescale (f : Fr) (d : Reg) (a : Src) (b : Src) (c : Src) (bf : BFmt) (rnd : Rnd) (strm : BitVec 8) : Statement (.brescale f d a b c bf rnd strm) := by
  intro h r hr
  obtain rfl := Option.some.inj hr
  replace h : (f.ok [.e, .w] true && d.ok && a.ok && b.ok && c.ok && f.form.litsOk a.isLit b.isLit c.isLit && f.holdsOk true true true && decide ((rnd = .sr ∨ strm = 0))) = true := h
  simp only [Bool.and_eq_true] at h
  obtain ⟨⟨⟨⟨⟨⟨⟨h0, h1⟩, h2⟩, h3⟩, h4⟩, h5⟩, h6⟩, h7⟩ := h
  obtain ⟨hf, hs⟩ := Fr.ok_forms h0
  have := BFmt.code_lt bf
  have := Rnd.code_lt rnd
  have := strm.isLt
  have hl : f.form.litsOk (a).isLit (b).isLit (c).isLit = true := by
    have h := h5
    first | exact h | (simp only [isLit_reg, isLit_lit, isLit_offset, Option.getD, Option.any, Bool.not_false, Bool.and_true] at h ⊢; exact h)
  refine ⟨fits_mk (by decide) hl h6 (by decide) (by omega) ?_ ?_, ?_, hs, ?_⟩
  · intro e; rw [e] at hf; simp at hf
  · intro e; rw [e] at hf; simp at hf
  · simp only [form_mk, opc_mk]; rw [show formsOf 0x69 = [.e, .w] from by decide]; exact hf
  · rw [show parse (mkRaw f 0x69 0 (bf.code + 8 * rnd.code + 64 * strm.toNat) d a b c) = parseBrescale (mkRaw f 0x69 0 (bf.code + 8 * rnd.code + 64 * strm.toNat) d a b c) from by simp [parse, parseRow6, opc_mk, sub_mk]]
    have e0 : (bf.code + 8 * rnd.code + 64 * strm.toNat) / 2 ^ 0 % 2 ^ 3 = bf.code := by omega
    have e1 : (bf.code + 8 * rnd.code + 64 * strm.toNat) / 2 ^ 3 % 2 ^ 3 = rnd.code := by clear e0; omega
    have e2 : (bf.code + 8 * rnd.code + 64 * strm.toNat) / 2 ^ 6 % 2 ^ 8 = strm.toNat := by clear e0 e1; omega
    unfold parseBrescale
    simp only [m_mk, fr_mk, rd_mk, sa_mk hl, sb_mk hl, sc_mk hl, e0, e1, e2]
    try simp [Option.bind, toNat_beq_one, toNat_eq_one, boolOfCode_toNat, Header.ofWord_toWord, BFmt.ofCode_code, Rnd.ofCode_code]

theorem shfl (f : Fr) (mode : ShflMode) (d : Reg) (c2 : Reg) (a : Src) (b : Src) (seg : BitVec 3) : Statement (.shfl f mode d c2 a b seg) := by
  intro h r hr
  obtain rfl := Option.some.inj hr
  replace h : (f.ok [.e, .w] false && d.ok && c2.ok && a.ok && b.ok && f.form.litsOk a.isLit b.isLit false && f.holdsOk true true false && decide (d = c2 → d = 0) && decide (seg.toNat ≤ 5)) = true := h
  simp only [Bool.and_eq_true] at h
  obtain ⟨⟨⟨⟨⟨⟨⟨⟨h0, h1⟩, h2⟩, h3⟩, h4⟩, h5⟩, h6⟩, h7⟩, h8⟩ := h
  obtain ⟨hf, hs⟩ := Fr.ok_forms h0
  have := ShflMode.code_lt mode
  have := seg.isLt
  have hl : f.form.litsOk (a).isLit (b).isLit ((Src.reg c2)).isLit = true := by
    have h := h5
    first | exact h | (simp only [isLit_reg, isLit_lit, isLit_offset, Option.getD, Option.any, Bool.not_false, Bool.and_true] at h ⊢; exact h)
  refine ⟨fits_mk (by decide) hl h6 (by omega) (by omega) ?_ ?_, ?_, hs, ?_⟩
  · intro e; rw [e] at hf; simp at hf
  · intro e; rw [e] at hf; simp at hf
  · simp only [form_mk, opc_mk]; rw [show formsOf 0x70 = [.e, .w] from by decide]; exact hf
  · rw [show parse (mkRaw f 0x70 mode.code (seg.toNat) d a b (Src.reg c2)) = parseShfl (mkRaw f 0x70 mode.code (seg.toNat) d a b (Src.reg c2)) from by simp [parse, parseRow7, opc_mk, sub_mk]]
    have e0 : (seg.toNat) / 2 ^ 0 % 2 ^ 3 = seg.toNat := by omega
    unfold parseShfl
    simp only [m_mk, fr_mk, rd_mk, rc_mk, sa_mk hl, sb_mk hl, sub_mk, e0]
    try simp [Option.bind, toNat_beq_one, toNat_eq_one, boolOfCode_toNat, Header.ofWord_toWord, ShflMode.ofCode_code]

theorem redw (f : Fr) (op : RedOp) (d : Reg) (a : Reg) : Statement (.redw f op d a) := by
  intro h r hr
  obtain rfl := Option.some.inj hr
  replace h : (f.ok [.e] false && d.ok && a.ok && f.form.litsOk false false false && f.holdsOk true false false) = true := h
  simp only [Bool.and_eq_true] at h
  obtain ⟨⟨⟨⟨h0, h1⟩, h2⟩, h3⟩, h4⟩ := h
  obtain ⟨hf, hs⟩ := Fr.ok_forms h0
  have := RedOp.code_lt op
  have hl : f.form.litsOk ((Src.reg a)).isLit ((Src.reg 0)).isLit ((Src.reg 0)).isLit = true := by
    have h := h3
    first | exact h | (simp only [isLit_reg, isLit_lit, isLit_offset, Option.getD, Option.any, Bool.not_false, Bool.and_true] at h ⊢; exact h)
  refine ⟨fits_mk (by decide) hl h4 (by omega) (by decide) ?_ ?_, ?_, hs, ?_⟩
  · intro e; rw [e] at hf; simp at hf
  · intro e; rw [e] at hf; simp at hf
  · simp only [form_mk, opc_mk]; rw [show formsOf 0x71 = [.e] from by decide]; exact hf
  · rw [show parse (mkRaw f 0x71 op.code (0) d (Src.reg a) (Src.reg 0) (Src.reg 0)) = parseRedw (mkRaw f 0x71 op.code (0) d (Src.reg a) (Src.reg 0) (Src.reg 0)) from by simp [parse, parseRow7, opc_mk, sub_mk]]
    unfold parseRedw
    simp only [m_mk, fr_mk, rd_mk, ra_mk, sub_mk]
    try simp [Option.bind, toNat_beq_one, toNat_eq_one, boolOfCode_toNat, Header.ofWord_toWord, RedOp.ofCode_code]

theorem scanw (f : Fr) (op : RedOp) (d : Reg) (a : Reg) (excl : Bool) : Statement (.scanw f op d a excl) := by
  intro h r hr
  obtain rfl := Option.some.inj hr
  replace h : (f.ok [.e] false && d.ok && a.ok && f.form.litsOk false false false && f.holdsOk true false false) = true := h
  simp only [Bool.and_eq_true] at h
  obtain ⟨⟨⟨⟨h0, h1⟩, h2⟩, h3⟩, h4⟩ := h
  obtain ⟨hf, hs⟩ := Fr.ok_forms h0
  have := RedOp.code_lt op
  have := Bool.toNat_lt excl
  have hl : f.form.litsOk ((Src.reg a)).isLit ((Src.reg 0)).isLit ((Src.reg 0)).isLit = true := by
    have h := h3
    first | exact h | (simp only [isLit_reg, isLit_lit, isLit_offset, Option.getD, Option.any, Bool.not_false, Bool.and_true] at h ⊢; exact h)
  refine ⟨fits_mk (by decide) hl h4 (by omega) (by omega) ?_ ?_, ?_, hs, ?_⟩
  · intro e; rw [e] at hf; simp at hf
  · intro e; rw [e] at hf; simp at hf
  · simp only [form_mk, opc_mk]; rw [show formsOf 0x72 = [.e] from by decide]; exact hf
  · rw [show parse (mkRaw f 0x72 op.code (excl.toNat) d (Src.reg a) (Src.reg 0) (Src.reg 0)) = parseScanw (mkRaw f 0x72 op.code (excl.toNat) d (Src.reg a) (Src.reg 0) (Src.reg 0)) from by simp [parse, parseRow7, opc_mk, sub_mk]]
    have e0 : (excl.toNat) / 2 ^ 0 % 2 ^ 1 = excl.toNat := by omega
    unfold parseScanw
    simp only [m_mk, fr_mk, rd_mk, ra_mk, sub_mk, e0]
    try simp [Option.bind, toNat_beq_one, toNat_eq_one, boolOfCode_toNat, Header.ofWord_toWord, RedOp.ofCode_code]

theorem bcastw (f : Fr) (d : Reg) (a : Reg) (b : Option Src) (low : Bool) : Statement (.bcastw f d a b low) := by
  intro h r hr
  obtain rfl := Option.some.inj hr
  replace h : (f.ok [.e, .w] false && d.ok && a.ok && b.all Src.ok && (b.isSome == decide (low = false)) && f.form.litsOk false (b.any Src.isLit) false && f.holdsOk true b.isSome false) = true := h
  simp only [Bool.and_eq_true] at h
  obtain ⟨⟨⟨⟨⟨⟨h0, h1⟩, h2⟩, h3⟩, h4⟩, h5⟩, h6⟩ := h
  obtain ⟨hf, hs⟩ := Fr.ok_forms h0
  have := Bool.toNat_lt b.isSome
  have := Bool.toNat_lt low
  have hl : f.form.litsOk ((Src.reg a)).isLit ((b.getD (Src.reg 0))).isLit ((Src.reg 0)).isLit = true := by
    have h := h5
    cases b <;> first | exact h | (simp only [isLit_reg, isLit_lit, isLit_offset, Option.getD, Option.any, Bool.not_false, Bool.and_true] at h ⊢; exact h)
  refine ⟨fits_mk (by decide) hl h6 (by decide) (by omega) ?_ ?_, ?_, hs, ?_⟩
  · intro e; rw [e] at hf; simp at hf
  · intro e; rw [e] at hf; simp at hf
  · simp only [form_mk, opc_mk]; rw [show formsOf 0x73 = [.e, .w] from by decide]; exact hf
  · rw [show parse (mkRaw f 0x73 0 (low.toNat) d (Src.reg a) (b.getD (Src.reg 0)) (Src.reg 0)) = parseBcastw (mkRaw f 0x73 0 (low.toNat) d (Src.reg a) (b.getD (Src.reg 0)) (Src.reg 0)) from by simp [parse, parseRow7, opc_mk, sub_mk]]
    have e0 : (low.toNat) / 2 ^ 0 % 2 ^ 1 = low.toNat := by omega
    unfold parseBcastw
    simp only [m_mk, fr_mk, rd_mk, ra_mk, sb_mk hl, e0]
    cases b <;> try simp [Option.bind, toNat_beq_one, toNat_eq_one, boolOfCode_toNat, Header.ofWord_toWord] <;> simp_all

theorem ld (f : Fr) (d : Reg) (a : Reg) (off : Word) (spc : Space) (sz : Size) (ch : Hint) : Statement (.ld f d a off spc sz ch) := by
  intro h r hr
  obtain rfl := Option.some.inj hr
  replace h : (f.ok [.e, .w] true && d.ok && a.pairOk && (((f.form == .w) || off == 0)) && f.form.litsOk false (f.form == .w) false && f.holdsOk true (f.form == .w) false && decide (sz.regs d)) = true := h
  simp only [Bool.and_eq_true] at h
  obtain ⟨⟨⟨⟨⟨⟨h0, h1⟩, h2⟩, h3⟩, h4⟩, h5⟩, h6⟩ := h
  obtain ⟨hf, hs⟩ := Fr.ok_forms h0
  have := Space.code_lt spc
  have := Size.code_lt sz
  have := Hint.code_lt ch
  have hl : f.form.litsOk ((Src.reg a)).isLit ((Src.offset f.form false off)).isLit ((Src.reg 0)).isLit = true := by
    have h := h4
    first | exact h | (simp only [isLit_reg, isLit_lit, isLit_offset, Option.getD, Option.any, Bool.not_false, Bool.and_true] at h ⊢; exact h)
  refine ⟨fits_mk (by decide) hl h5 (by decide) (by omega) ?_ ?_, ?_, hs, ?_⟩
  · intro e; rw [e] at hf; simp at hf
  · intro e; rw [e] at hf; simp at hf
  · simp only [form_mk, opc_mk]; rw [show formsOf 0x80 = [.e, .w] from by decide]; exact hf
  · rw [show parse (mkRaw f 0x80 0 (spc.code + 8 * sz.code + 64 * ch.code) d (Src.reg a) (Src.offset f.form false off) (Src.reg 0)) = parseLd (mkRaw f 0x80 0 (spc.code + 8 * sz.code + 64 * ch.code) d (Src.reg a) (Src.offset f.form false off) (Src.reg 0)) from by simp [parse, parseRow8, opc_mk, sub_mk]]
    have e0 : (spc.code + 8 * sz.code + 64 * ch.code) / 2 ^ 0 % 2 ^ 3 = spc.code := by omega
    have e1 : (spc.code + 8 * sz.code + 64 * ch.code) / 2 ^ 3 % 2 ^ 3 = sz.code := by clear e0; omega
    have e2 : (spc.code + 8 * sz.code + 64 * ch.code) / 2 ^ 6 % 2 ^ 2 = ch.code := by clear e0 e1; omega
    unfold parseLd
    simp only [m_mk, fr_mk, rd_mk, ra_mk, offset_mk hl (by intro e; have h := h3; simp only [decide_eq_true_eq, Bool.or_eq_true, beq_iff_eq, Bool.and_eq_true, Bool.not_eq_true', not_and] at h e; tauto), e0, e1, e2]
    try simp [Option.bind, toNat_beq_one, toNat_eq_one, boolOfCode_toNat, Header.ofWord_toWord, Hint.ofCode_code, Size.ofCode_code, Space.ofCode_code]

theorem st (f : Fr) (a : Reg) (off : Word) (c : Src) (spc : Space) (sz : Size) (ch : Hint) : Statement (.st f a off c spc sz ch) := by
  intro h r hr
  obtain rfl := Option.some.inj hr
  replace h : (f.ok [.e, .w] true && a.pairOk && c.ok && (((f.form == .w && !c.isLit) || off == 0)) && f.form.litsOk false (f.form == .w && !c.isLit) c.isLit && f.holdsOk true (f.form == .w && !c.isLit) true && decide (sz.storable ∧ c.sized sz)) = true := h
  simp only [Bool.and_eq_true] at h
  obtain ⟨⟨⟨⟨⟨⟨h0, h1⟩, h2⟩, h3⟩, h4⟩, h5⟩, h6⟩ := h
  obtain ⟨hf, hs⟩ := Fr.ok_forms h0
  have := Space.code_lt spc
  have := Size.code_lt sz
  have := Hint.code_lt ch
  have hl : f.form.litsOk ((Src.reg a)).isLit ((Src.offset f.form c.isLit off)).isLit (c).isLit = true := by
    have h := h4
    first | exact h | (simp only [isLit_reg, isLit_lit, isLit_offset, Option.getD, Option.any, Bool.not_false, Bool.and_true] at h ⊢; exact h)
  refine ⟨fits_mk (by decide) hl h5 (by decide) (by omega) ?_ ?_, ?_, hs, ?_⟩
  · intro e; rw [e] at hf; simp at hf
  · intro e; rw [e] at hf; simp at hf
  · simp only [form_mk, opc_mk]; rw [show formsOf 0x81 = [.e, .w] from by decide]; exact hf
  · rw [show parse (mkRaw f 0x81 0 (spc.code + 8 * sz.code + 64 * ch.code) 0 (Src.reg a) (Src.offset f.form c.isLit off) c) = parseSt (mkRaw f 0x81 0 (spc.code + 8 * sz.code + 64 * ch.code) 0 (Src.reg a) (Src.offset f.form c.isLit off) c) from by simp [parse, parseRow8, opc_mk, sub_mk]]
    have e0 : (spc.code + 8 * sz.code + 64 * ch.code) / 2 ^ 0 % 2 ^ 3 = spc.code := by omega
    have e1 : (spc.code + 8 * sz.code + 64 * ch.code) / 2 ^ 3 % 2 ^ 3 = sz.code := by clear e0; omega
    have e2 : (spc.code + 8 * sz.code + 64 * ch.code) / 2 ^ 6 % 2 ^ 2 = ch.code := by clear e0 e1; omega
    unfold parseSt
    simp only [m_mk, fr_mk, ra_mk, sc_mk hl, offset_mk hl (by intro e; have h := h3; simp only [decide_eq_true_eq, Bool.or_eq_true, beq_iff_eq, Bool.and_eq_true, Bool.not_eq_true', not_and] at h e; tauto), e0, e1, e2]
    try simp [Option.bind, toNat_beq_one, toNat_eq_one, boolOfCode_toNat, Header.ofWord_toWord, Hint.ofCode_code, Size.ofCode_code, Space.ofCode_code]

theorem lds (f : Fr) (d : Reg) (a : Reg) (off : Word) (spc : Space) (sz : Size) : Statement (.lds f d a off spc sz) := by
  intro h r hr
  obtain rfl := Option.some.inj hr
  replace h : (f.ok [.e, .w] true && d.ok && a.ok && (((f.form == .w) || off == 0)) && f.form.litsOk false (f.form == .w) false && f.holdsOk true (f.form == .w) false && decide (sz.regs d ∧ spc.short)) = true := h
  simp only [Bool.and_eq_true] at h
  obtain ⟨⟨⟨⟨⟨⟨h0, h1⟩, h2⟩, h3⟩, h4⟩, h5⟩, h6⟩ := h
  obtain ⟨hf, hs⟩ := Fr.ok_forms h0
  have := Space.code_lt spc
  have := Size.code_lt sz
  have hl : f.form.litsOk ((Src.reg a)).isLit ((Src.offset f.form false off)).isLit ((Src.reg 0)).isLit = true := by
    have h := h4
    first | exact h | (simp only [isLit_reg, isLit_lit, isLit_offset, Option.getD, Option.any, Bool.not_false, Bool.and_true] at h ⊢; exact h)
  refine ⟨fits_mk (by decide) hl h5 (by decide) (by omega) ?_ ?_, ?_, hs, ?_⟩
  · intro e; rw [e] at hf; simp at hf
  · intro e; rw [e] at hf; simp at hf
  · simp only [form_mk, opc_mk]; rw [show formsOf 0x82 = [.e, .w] from by decide]; exact hf
  · rw [show parse (mkRaw f 0x82 0 (spc.code + 8 * sz.code) d (Src.reg a) (Src.offset f.form false off) (Src.reg 0)) = parseLds (mkRaw f 0x82 0 (spc.code + 8 * sz.code) d (Src.reg a) (Src.offset f.form false off) (Src.reg 0)) from by simp [parse, parseRow8, opc_mk, sub_mk]]
    have e0 : (spc.code + 8 * sz.code) / 2 ^ 0 % 2 ^ 3 = spc.code := by omega
    have e1 : (spc.code + 8 * sz.code) / 2 ^ 3 % 2 ^ 3 = sz.code := by clear e0; omega
    unfold parseLds
    simp only [m_mk, fr_mk, rd_mk, ra_mk, offset_mk hl (by intro e; have h := h3; simp only [decide_eq_true_eq, Bool.or_eq_true, beq_iff_eq, Bool.and_eq_true, Bool.not_eq_true', not_and] at h e; tauto), e0, e1]
    try simp [Option.bind, toNat_beq_one, toNat_eq_one, boolOfCode_toNat, Header.ofWord_toWord, Size.ofCode_code, Space.ofCode_code]

theorem sts (f : Fr) (a : Reg) (off : Word) (c : Reg) (spc : Space) (sz : Size) : Statement (.sts f a off c spc sz) := by
  intro h r hr
  obtain rfl := Option.some.inj hr
  replace h : (f.ok [.e, .w] true && a.ok && c.ok && (((f.form == .w) || off == 0)) && f.form.litsOk false (f.form == .w) false && f.holdsOk true (f.form == .w) true && decide (sz.storable ∧ sz.regs c ∧ spc.short)) = true := h
  simp only [Bool.and_eq_true] at h
  obtain ⟨⟨⟨⟨⟨⟨h0, h1⟩, h2⟩, h3⟩, h4⟩, h5⟩, h6⟩ := h
  obtain ⟨hf, hs⟩ := Fr.ok_forms h0
  have := Space.code_lt spc
  have := Size.code_lt sz
  have hl : f.form.litsOk ((Src.reg a)).isLit ((Src.offset f.form false off)).isLit ((Src.reg c)).isLit = true := by
    have h := h4
    first | exact h | (simp only [isLit_reg, isLit_lit, isLit_offset, Option.getD, Option.any, Bool.not_false, Bool.and_true] at h ⊢; exact h)
  refine ⟨fits_mk (by decide) hl h5 (by decide) (by omega) ?_ ?_, ?_, hs, ?_⟩
  · intro e; rw [e] at hf; simp at hf
  · intro e; rw [e] at hf; simp at hf
  · simp only [form_mk, opc_mk]; rw [show formsOf 0x83 = [.e, .w] from by decide]; exact hf
  · rw [show parse (mkRaw f 0x83 0 (spc.code + 8 * sz.code) 0 (Src.reg a) (Src.offset f.form false off) (Src.reg c)) = parseSts (mkRaw f 0x83 0 (spc.code + 8 * sz.code) 0 (Src.reg a) (Src.offset f.form false off) (Src.reg c)) from by simp [parse, parseRow8, opc_mk, sub_mk]]
    have e0 : (spc.code + 8 * sz.code) / 2 ^ 0 % 2 ^ 3 = spc.code := by omega
    have e1 : (spc.code + 8 * sz.code) / 2 ^ 3 % 2 ^ 3 = sz.code := by clear e0; omega
    unfold parseSts
    simp only [m_mk, fr_mk, ra_mk, rc_mk, offset_mk hl (by intro e; have h := h3; simp only [decide_eq_true_eq, Bool.or_eq_true, beq_iff_eq, Bool.and_eq_true, Bool.not_eq_true', not_and] at h e; tauto), e0, e1]
    try simp [Option.bind, toNat_beq_one, toNat_eq_one, boolOfCode_toNat, Header.ofWord_toWord, Size.ofCode_code, Space.ofCode_code]

theorem ldbs (f : Fr) (pk : Bool) (d : Reg) (a : Reg) (off : Word) (bf : BFmt) (grp : Grp) (part : BitVec 2) (nc : Bool) : Statement (.ldbs f pk d a off bf grp part nc) := by
  intro h r hr
  obtain rfl := Option.some.inj hr
  replace h : (f.ok [.e, .w] true && d.spanOk && a.pairOk && (((f.form == .w) || off == 0)) && f.form.litsOk false (f.form == .w) false && f.holdsOk true (f.form == .w) false && decide (bf.partOk grp part)) = true := h
  simp only [Bool.and_eq_true] at h
  obtain ⟨⟨⟨⟨⟨⟨h0, h1⟩, h2⟩, h3⟩, h4⟩, h5⟩, h6⟩ := h
  obtain ⟨hf, hs⟩ := Fr.ok_forms h0
  have := Bool.toNat_lt pk
  have := BFmt.code_lt bf
  have := Grp.code_lt grp
  have := part.isLt
  have := Bool.toNat_lt nc
  have hl : f.form.litsOk ((Src.reg a)).isLit ((Src.offset f.form false off)).isLit ((Src.reg 0)).isLit = true := by
    have h := h4
    first | exact h | (simp only [isLit_reg, isLit_lit, isLit_offset, Option.getD, Option.any, Bool.not_false, Bool.and_true] at h ⊢; exact h)
  refine ⟨fits_mk (by decide) hl h5 (by omega) (by omega) ?_ ?_, ?_, hs, ?_⟩
  · intro e; rw [e] at hf; simp at hf
  · intro e; rw [e] at hf; simp at hf
  · simp only [form_mk, opc_mk]; rw [show formsOf 0x84 = [.e, .w] from by decide]; exact hf
  · rw [show parse (mkRaw f 0x84 pk.toNat (bf.code + 8 * grp.code + 32 * part.toNat + 128 * nc.toNat) d (Src.reg a) (Src.offset f.form false off) (Src.reg 0)) = parseLdbs (mkRaw f 0x84 pk.toNat (bf.code + 8 * grp.code + 32 * part.toNat + 128 * nc.toNat) d (Src.reg a) (Src.offset f.form false off) (Src.reg 0)) from by simp [parse, parseRow8, opc_mk, sub_mk]]
    have e0 : (bf.code + 8 * grp.code + 32 * part.toNat + 128 * nc.toNat) / 2 ^ 0 % 2 ^ 3 = bf.code := by omega
    have e1 : (bf.code + 8 * grp.code + 32 * part.toNat + 128 * nc.toNat) / 2 ^ 3 % 2 ^ 2 = grp.code := by clear e0; omega
    have e2 : (bf.code + 8 * grp.code + 32 * part.toNat + 128 * nc.toNat) / 2 ^ 5 % 2 ^ 2 = part.toNat := by clear e0 e1; omega
    have e3 : (bf.code + 8 * grp.code + 32 * part.toNat + 128 * nc.toNat) / 2 ^ 7 % 2 ^ 1 = nc.toNat := by clear e0 e1 e2; omega
    unfold parseLdbs
    simp only [m_mk, fr_mk, rd_mk, ra_mk, offset_mk hl (by intro e; have h := h3; simp only [decide_eq_true_eq, Bool.or_eq_true, beq_iff_eq, Bool.and_eq_true, Bool.not_eq_true', not_and] at h e; tauto), sub_mk, e0, e1, e2, e3]
    try simp [Option.bind, toNat_beq_one, toNat_eq_one, boolOfCode_toNat, Header.ofWord_toWord, BFmt.ofCode_code, Grp.ofCode_code]

theorem stbs (f : Fr) (pk : Bool) (a : Reg) (off : Word) (c : Reg) (bf : BFmt) (grp : Grp) (part : BitVec 2) (nc : Bool) : Statement (.stbs f pk a off c bf grp part nc) := by
  intro h r hr
  obtain rfl := Option.some.inj hr
  replace h : (f.ok [.e, .w] true && a.pairOk && c.spanOk && (((f.form == .w) || off == 0)) && f.form.litsOk false (f.form == .w) false && f.holdsOk true (f.form == .w) true && decide (bf.partOk grp part)) = true := h
  simp only [Bool.and_eq_true] at h
  obtain ⟨⟨⟨⟨⟨⟨h0, h1⟩, h2⟩, h3⟩, h4⟩, h5⟩, h6⟩ := h
  obtain ⟨hf, hs⟩ := Fr.ok_forms h0
  have := Bool.toNat_lt pk
  have := BFmt.code_lt bf
  have := Grp.code_lt grp
  have := part.isLt
  have := Bool.toNat_lt nc
  have hl : f.form.litsOk ((Src.reg a)).isLit ((Src.offset f.form false off)).isLit ((Src.reg c)).isLit = true := by
    have h := h4
    first | exact h | (simp only [isLit_reg, isLit_lit, isLit_offset, Option.getD, Option.any, Bool.not_false, Bool.and_true] at h ⊢; exact h)
  refine ⟨fits_mk (by decide) hl h5 (by omega) (by omega) ?_ ?_, ?_, hs, ?_⟩
  · intro e; rw [e] at hf; simp at hf
  · intro e; rw [e] at hf; simp at hf
  · simp only [form_mk, opc_mk]; rw [show formsOf 0x85 = [.e, .w] from by decide]; exact hf
  · rw [show parse (mkRaw f 0x85 pk.toNat (bf.code + 8 * grp.code + 32 * part.toNat + 128 * nc.toNat) 0 (Src.reg a) (Src.offset f.form false off) (Src.reg c)) = parseStbs (mkRaw f 0x85 pk.toNat (bf.code + 8 * grp.code + 32 * part.toNat + 128 * nc.toNat) 0 (Src.reg a) (Src.offset f.form false off) (Src.reg c)) from by simp [parse, parseRow8, opc_mk, sub_mk]]
    have e0 : (bf.code + 8 * grp.code + 32 * part.toNat + 128 * nc.toNat) / 2 ^ 0 % 2 ^ 3 = bf.code := by omega
    have e1 : (bf.code + 8 * grp.code + 32 * part.toNat + 128 * nc.toNat) / 2 ^ 3 % 2 ^ 2 = grp.code := by clear e0; omega
    have e2 : (bf.code + 8 * grp.code + 32 * part.toNat + 128 * nc.toNat) / 2 ^ 5 % 2 ^ 2 = part.toNat := by clear e0 e1; omega
    have e3 : (bf.code + 8 * grp.code + 32 * part.toNat + 128 * nc.toNat) / 2 ^ 7 % 2 ^ 1 = nc.toNat := by clear e0 e1 e2; omega
    unfold parseStbs
    simp only [m_mk, fr_mk, ra_mk, rc_mk, offset_mk hl (by intro e; have h := h3; simp only [decide_eq_true_eq, Bool.or_eq_true, beq_iff_eq, Bool.and_eq_true, Bool.not_eq_true', not_and] at h e; tauto), sub_mk, e0, e1, e2, e3]
    try simp [Option.bind, toNat_beq_one, toNat_eq_one, boolOfCode_toNat, Header.ofWord_toWord, BFmt.ofCode_code, Grp.ofCode_code]

theorem ldsc (f : Fr) (d : Reg) (c2 : Reg) (a : Reg) (b : Reg) : Statement (.ldsc f d c2 a b) := by
  intro h r hr
  obtain rfl := Option.some.inj hr
  replace h : (f.ok [.e] true && d.ok && c2.ok && a.pairOk && b.ok && f.form.litsOk false false false && f.holdsOk true true false && decide (d = c2 → d = 0)) = true := h
  simp only [Bool.and_eq_true] at h
  obtain ⟨⟨⟨⟨⟨⟨⟨h0, h1⟩, h2⟩, h3⟩, h4⟩, h5⟩, h6⟩, h7⟩ := h
  obtain ⟨hf, hs⟩ := Fr.ok_forms h0
  have hl : f.form.litsOk ((Src.reg a)).isLit ((Src.reg b)).isLit ((Src.reg c2)).isLit = true := by
    have h := h5
    first | exact h | (simp only [isLit_reg, isLit_lit, isLit_offset, Option.getD, Option.any, Bool.not_false, Bool.and_true] at h ⊢; exact h)
  refine ⟨fits_mk (by decide) hl h6 (by decide) (by decide) ?_ ?_, ?_, hs, ?_⟩
  · intro e; rw [e] at hf; simp at hf
  · intro e; rw [e] at hf; simp at hf
  · simp only [form_mk, opc_mk]; rw [show formsOf 0x86 = [.e] from by decide]; exact hf
  · rw [show parse (mkRaw f 0x86 0 (0) d (Src.reg a) (Src.reg b) (Src.reg c2)) = parseLdsc (mkRaw f 0x86 0 (0) d (Src.reg a) (Src.reg b) (Src.reg c2)) from by simp [parse, parseRow8, opc_mk, sub_mk]]
    unfold parseLdsc
    simp only [m_mk, fr_mk, rd_mk, ra_mk, rb_mk, rc_mk]
    try simp [Option.bind, toNat_beq_one, toNat_eq_one, boolOfCode_toNat, Header.ofWord_toWord]

theorem stsc (f : Fr) (a : Reg) (b : Reg) (c : Reg) (desc : Bool) : Statement (.stsc f a b c desc) := by
  intro h r hr
  obtain rfl := Option.some.inj hr
  replace h : (f.ok [.e] true && a.pairOk && b.ok && c.ok && f.form.litsOk false false false && f.holdsOk true true true && decide ((desc → c.pairOk))) = true := h
  simp only [Bool.and_eq_true] at h
  obtain ⟨⟨⟨⟨⟨⟨h0, h1⟩, h2⟩, h3⟩, h4⟩, h5⟩, h6⟩ := h
  obtain ⟨hf, hs⟩ := Fr.ok_forms h0
  have := Bool.toNat_lt desc
  have hl : f.form.litsOk ((Src.reg a)).isLit ((Src.reg b)).isLit ((Src.reg c)).isLit = true := by
    have h := h4
    first | exact h | (simp only [isLit_reg, isLit_lit, isLit_offset, Option.getD, Option.any, Bool.not_false, Bool.and_true] at h ⊢; exact h)
  refine ⟨fits_mk (by decide) hl h5 (by decide) (by omega) ?_ ?_, ?_, hs, ?_⟩
  · intro e; rw [e] at hf; simp at hf
  · intro e; rw [e] at hf; simp at hf
  · simp only [form_mk, opc_mk]; rw [show formsOf 0x87 = [.e] from by decide]; exact hf
  · rw [show parse (mkRaw f 0x87 0 (desc.toNat) 0 (Src.reg a) (Src.reg b) (Src.reg c)) = parseStsc (mkRaw f 0x87 0 (desc.toNat) 0 (Src.reg a) (Src.reg b) (Src.reg c)) from by simp [parse, parseRow8, opc_mk, sub_mk]]
    have e0 : (desc.toNat) / 2 ^ 0 % 2 ^ 1 = desc.toNat := by omega
    unfold parseStsc
    simp only [m_mk, fr_mk, ra_mk, rb_mk, rc_mk, e0]
    try simp [Option.bind, toNat_beq_one, toNat_eq_one, boolOfCode_toNat, Header.ofWord_toWord]

theorem ldaq (f : Fr) (d : Reg) (a : Reg) (off : Word) (spc : Space) (sz : Size) (scope : Scope) : Statement (.ldaq f d a off spc sz scope) := by
  intro h r hr
  obtain rfl := Option.some.inj hr
  replace h : (f.ok [.e, .w] true && d.ok && a.pairOk && (((f.form == .w) || off == 0)) && f.form.litsOk false (f.form == .w) false && f.holdsOk true (f.form == .w) false && decide (sz.atomic ∧ sz.regs d)) = true := h
  simp only [Bool.and_eq_true] at h
  obtain ⟨⟨⟨⟨⟨⟨h0, h1⟩, h2⟩, h3⟩, h4⟩, h5⟩, h6⟩ := h
  obtain ⟨hf, hs⟩ := Fr.ok_forms h0
  have := Space.code_lt spc
  have := Size.code_lt sz
  have := Scope.code_lt scope
  have hl : f.form.litsOk ((Src.reg a)).isLit ((Src.offset f.form false off)).isLit ((Src.reg 0)).isLit = true := by
    have h := h4
    first | exact h | (simp only [isLit_reg, isLit_lit, isLit_offset, Option.getD, Option.any, Bool.not_false, Bool.and_true] at h ⊢; exact h)
  refine ⟨fits_mk (by decide) hl h5 (by decide) (by omega) ?_ ?_, ?_, hs, ?_⟩
  · intro e; rw [e] at hf; simp at hf
  · intro e; rw [e] at hf; simp at hf
  · simp only [form_mk, opc_mk]; rw [show formsOf 0x88 = [.e, .w] from by decide]; exact hf
  · rw [show parse (mkRaw f 0x88 0 (spc.code + 8 * sz.code + 256 * scope.code) d (Src.reg a) (Src.offset f.form false off) (Src.reg 0)) = parseLdaq (mkRaw f 0x88 0 (spc.code + 8 * sz.code + 256 * scope.code) d (Src.reg a) (Src.offset f.form false off) (Src.reg 0)) from by simp [parse, parseRow8, opc_mk, sub_mk]]
    have e0 : (spc.code + 8 * sz.code + 256 * scope.code) / 2 ^ 0 % 2 ^ 3 = spc.code := by omega
    have e1 : (spc.code + 8 * sz.code + 256 * scope.code) / 2 ^ 3 % 2 ^ 3 = sz.code := by clear e0; omega
    have e2 : (spc.code + 8 * sz.code + 256 * scope.code) / 2 ^ 8 % 2 ^ 4 = scope.code := by clear e0 e1; omega
    unfold parseLdaq
    simp only [m_mk, fr_mk, rd_mk, ra_mk, offset_mk hl (by intro e; have h := h3; simp only [decide_eq_true_eq, Bool.or_eq_true, beq_iff_eq, Bool.and_eq_true, Bool.not_eq_true', not_and] at h e; tauto), e0, e1, e2]
    try simp [Option.bind, toNat_beq_one, toNat_eq_one, boolOfCode_toNat, Header.ofWord_toWord, Scope.ofCode_code, Size.ofCode_code, Space.ofCode_code]

theorem strl (f : Fr) (a : Reg) (off : Word) (c : Reg) (spc : Space) (sz : Size) (scope : Scope) : Statement (.strl f a off c spc sz scope) := by
  intro h r hr
  obtain rfl := Option.some.inj hr
  replace h : (f.ok [.e, .w] true && a.pairOk && c.ok && (((f.form == .w) || off == 0)) && f.form.litsOk false (f.form == .w) false && f.holdsOk true (f.form == .w) true && decide (sz.atomic ∧ sz.regs c)) = true := h
  simp only [Bool.and_eq_true] at h
  obtain ⟨⟨⟨⟨⟨⟨h0, h1⟩, h2⟩, h3⟩, h4⟩, h5⟩, h6⟩ := h
  obtain ⟨hf, hs⟩ := Fr.ok_forms h0
  have := Space.code_lt spc
  have := Size.code_lt sz
  have := Scope.code_lt scope
  have hl : f.form.litsOk ((Src.reg a)).isLit ((Src.offset f.form false off)).isLit ((Src.reg c)).isLit = true := by
    have h := h4
    first | exact h | (simp only [isLit_reg, isLit_lit, isLit_offset, Option.getD, Option.any, Bool.not_false, Bool.and_true] at h ⊢; exact h)
  refine ⟨fits_mk (by decide) hl h5 (by decide) (by omega) ?_ ?_, ?_, hs, ?_⟩
  · intro e; rw [e] at hf; simp at hf
  · intro e; rw [e] at hf; simp at hf
  · simp only [form_mk, opc_mk]; rw [show formsOf 0x89 = [.e, .w] from by decide]; exact hf
  · rw [show parse (mkRaw f 0x89 0 (spc.code + 8 * sz.code + 256 * scope.code) 0 (Src.reg a) (Src.offset f.form false off) (Src.reg c)) = parseStrl (mkRaw f 0x89 0 (spc.code + 8 * sz.code + 256 * scope.code) 0 (Src.reg a) (Src.offset f.form false off) (Src.reg c)) from by simp [parse, parseRow8, opc_mk, sub_mk]]
    have e0 : (spc.code + 8 * sz.code + 256 * scope.code) / 2 ^ 0 % 2 ^ 3 = spc.code := by omega
    have e1 : (spc.code + 8 * sz.code + 256 * scope.code) / 2 ^ 3 % 2 ^ 3 = sz.code := by clear e0; omega
    have e2 : (spc.code + 8 * sz.code + 256 * scope.code) / 2 ^ 8 % 2 ^ 4 = scope.code := by clear e0 e1; omega
    unfold parseStrl
    simp only [m_mk, fr_mk, ra_mk, rc_mk, offset_mk hl (by intro e; have h := h3; simp only [decide_eq_true_eq, Bool.or_eq_true, beq_iff_eq, Bool.and_eq_true, Bool.not_eq_true', not_and] at h e; tauto), e0, e1, e2]
    try simp [Option.bind, toNat_beq_one, toNat_eq_one, boolOfCode_toNat, Header.ofWord_toWord, Scope.ofCode_code, Size.ofCode_code, Space.ofCode_code]

theorem pref (f : Fr) (lvl : PLevel) (a : Reg) (off : Word) (spc : Space) : Statement (.pref f lvl a off spc) := by
  intro h r hr
  obtain rfl := Option.some.inj hr
  replace h : (f.ok [.e, .w] true && a.pairOk && (((f.form == .w) || off == 0)) && f.form.litsOk false (f.form == .w) false && f.holdsOk true (f.form == .w) false) = true := h
  simp only [Bool.and_eq_true] at h
  obtain ⟨⟨⟨⟨h0, h1⟩, h2⟩, h3⟩, h4⟩ := h
  obtain ⟨hf, hs⟩ := Fr.ok_forms h0
  have := PLevel.code_lt lvl
  have := Space.code_lt spc
  have hl : f.form.litsOk ((Src.reg a)).isLit ((Src.offset f.form false off)).isLit ((Src.reg 0)).isLit = true := by
    have h := h3
    first | exact h | (simp only [isLit_reg, isLit_lit, isLit_offset, Option.getD, Option.any, Bool.not_false, Bool.and_true] at h ⊢; exact h)
  refine ⟨fits_mk (by decide) hl h4 (by omega) (by omega) ?_ ?_, ?_, hs, ?_⟩
  · intro e; rw [e] at hf; simp at hf
  · intro e; rw [e] at hf; simp at hf
  · simp only [form_mk, opc_mk]; rw [show formsOf 0x8A = [.e, .w] from by decide]; exact hf
  · rw [show parse (mkRaw f 0x8A lvl.code (spc.code) 0 (Src.reg a) (Src.offset f.form false off) (Src.reg 0)) = parsePref (mkRaw f 0x8A lvl.code (spc.code) 0 (Src.reg a) (Src.offset f.form false off) (Src.reg 0)) from by simp [parse, parseRow8, opc_mk, sub_mk]]
    have e0 : (spc.code) / 2 ^ 0 % 2 ^ 3 = spc.code := by omega
    unfold parsePref
    simp only [m_mk, fr_mk, ra_mk, offset_mk hl (by intro e; have h := h2; simp only [decide_eq_true_eq, Bool.or_eq_true, beq_iff_eq, Bool.and_eq_true, Bool.not_eq_true', not_and] at h e; tauto), sub_mk, e0]
    try simp [Option.bind, toNat_beq_one, toNat_eq_one, boolOfCode_toNat, Header.ofWord_toWord, PLevel.ofCode_code, Space.ofCode_code]

theorem cflushWb (f : Fr) (a : Reg) : Statement (.cflushWb f a) := by
  intro h r hr
  obtain rfl := Option.some.inj hr
  replace h : (f.ok [.e] true && a.pairOk && f.form.litsOk false false false && f.holdsOk true false false) = true := h
  simp only [Bool.and_eq_true] at h
  obtain ⟨⟨⟨h0, h1⟩, h2⟩, h3⟩ := h
  obtain ⟨hf, hs⟩ := Fr.ok_forms h0
  have hl : f.form.litsOk ((Src.reg a)).isLit ((Src.reg 0)).isLit ((Src.reg 0)).isLit = true := by
    have h := h2
    first | exact h | (simp only [isLit_reg, isLit_lit, isLit_offset, Option.getD, Option.any, Bool.not_false, Bool.and_true] at h ⊢; exact h)
  refine ⟨fits_mk (by decide) hl h3 (by decide) (by decide) ?_ ?_, ?_, hs, ?_⟩
  · intro e; rw [e] at hf; simp at hf
  · intro e; rw [e] at hf; simp at hf
  · simp only [form_mk, opc_mk]; rw [show formsOf 0x8B = [.e] from by decide]; exact hf
  · rw [show parse (mkRaw f 0x8B 0 (0) 0 (Src.reg a) (Src.reg 0) (Src.reg 0)) = parseCflushWb (mkRaw f 0x8B 0 (0) 0 (Src.reg a) (Src.reg 0) (Src.reg 0)) from by simp [parse, parseRow8, opc_mk, sub_mk]]
    unfold parseCflushWb
    simp only [m_mk, fr_mk, ra_mk]
    try simp [Option.bind, toNat_beq_one, toNat_eq_one, boolOfCode_toNat, Header.ofWord_toWord]

theorem cflushWbinv (f : Fr) (a : Reg) : Statement (.cflushWbinv f a) := by
  intro h r hr
  obtain rfl := Option.some.inj hr
  replace h : (f.ok [.e] true && a.pairOk && f.form.litsOk false false false && f.holdsOk true false false) = true := h
  simp only [Bool.and_eq_true] at h
  obtain ⟨⟨⟨h0, h1⟩, h2⟩, h3⟩ := h
  obtain ⟨hf, hs⟩ := Fr.ok_forms h0
  have hl : f.form.litsOk ((Src.reg a)).isLit ((Src.reg 0)).isLit ((Src.reg 0)).isLit = true := by
    have h := h2
    first | exact h | (simp only [isLit_reg, isLit_lit, isLit_offset, Option.getD, Option.any, Bool.not_false, Bool.and_true] at h ⊢; exact h)
  refine ⟨fits_mk (by decide) hl h3 (by decide) (by decide) ?_ ?_, ?_, hs, ?_⟩
  · intro e; rw [e] at hf; simp at hf
  · intro e; rw [e] at hf; simp at hf
  · simp only [form_mk, opc_mk]; rw [show formsOf 0x8B = [.e] from by decide]; exact hf
  · rw [show parse (mkRaw f 0x8B 1 (0) 0 (Src.reg a) (Src.reg 0) (Src.reg 0)) = parseCflushWbinv (mkRaw f 0x8B 1 (0) 0 (Src.reg a) (Src.reg 0) (Src.reg 0)) from by simp [parse, parseRow8, opc_mk, sub_mk]]
    unfold parseCflushWbinv
    simp only [m_mk, fr_mk, ra_mk]
    try simp [Option.bind, toNat_beq_one, toNat_eq_one, boolOfCode_toNat, Header.ofWord_toWord]

theorem cflushWball (f : Fr) : Statement (.cflushWball f) := by
  intro h r hr
  obtain rfl := Option.some.inj hr
  replace h : (f.ok [.e] true && f.form.litsOk false false false && f.holdsOk false false false) = true := h
  simp only [Bool.and_eq_true] at h
  obtain ⟨⟨h0, h1⟩, h2⟩ := h
  obtain ⟨hf, hs⟩ := Fr.ok_forms h0
  have hl : f.form.litsOk ((Src.reg 0)).isLit ((Src.reg 0)).isLit ((Src.reg 0)).isLit = true := by
    have h := h1
    first | exact h | (simp only [isLit_reg, isLit_lit, isLit_offset, Option.getD, Option.any, Bool.not_false, Bool.and_true] at h ⊢; exact h)
  refine ⟨fits_mk (by decide) hl h2 (by decide) (by decide) ?_ ?_, ?_, hs, ?_⟩
  · intro e; rw [e] at hf; simp at hf
  · intro e; rw [e] at hf; simp at hf
  · simp only [form_mk, opc_mk]; rw [show formsOf 0x8B = [.e] from by decide]; exact hf
  · rw [show parse (mkRaw f 0x8B 2 (0) 0 (Src.reg 0) (Src.reg 0) (Src.reg 0)) = parseCflushWball (mkRaw f 0x8B 2 (0) 0 (Src.reg 0) (Src.reg 0) (Src.reg 0)) from by simp [parse, parseRow8, opc_mk, sub_mk]]
    unfold parseCflushWball
    simp only [m_mk, fr_mk]
    try simp [Option.bind, toNat_beq_one, toNat_eq_one, boolOfCode_toNat, Header.ofWord_toWord]

theorem cflushWbinvall (f : Fr) : Statement (.cflushWbinvall f) := by
  intro h r hr
  obtain rfl := Option.some.inj hr
  replace h : (f.ok [.e] true && f.form.litsOk false false false && f.holdsOk false false false) = true := h
  simp only [Bool.and_eq_true] at h
  obtain ⟨⟨h0, h1⟩, h2⟩ := h
  obtain ⟨hf, hs⟩ := Fr.ok_forms h0
  have hl : f.form.litsOk ((Src.reg 0)).isLit ((Src.reg 0)).isLit ((Src.reg 0)).isLit = true := by
    have h := h1
    first | exact h | (simp only [isLit_reg, isLit_lit, isLit_offset, Option.getD, Option.any, Bool.not_false, Bool.and_true] at h ⊢; exact h)
  refine ⟨fits_mk (by decide) hl h2 (by decide) (by decide) ?_ ?_, ?_, hs, ?_⟩
  · intro e; rw [e] at hf; simp at hf
  · intro e; rw [e] at hf; simp at hf
  · simp only [form_mk, opc_mk]; rw [show formsOf 0x8B = [.e] from by decide]; exact hf
  · rw [show parse (mkRaw f 0x8B 3 (0) 0 (Src.reg 0) (Src.reg 0) (Src.reg 0)) = parseCflushWbinvall (mkRaw f 0x8B 3 (0) 0 (Src.reg 0) (Src.reg 0) (Src.reg 0)) from by simp [parse, parseRow8, opc_mk, sub_mk]]
    unfold parseCflushWbinvall
    simp only [m_mk, fr_mk]
    try simp [Option.bind, toNat_beq_one, toNat_eq_one, boolOfCode_toNat, Header.ofWord_toWord]

theorem wayset (f : Fr) (d : Reg) (a : Reg) : Statement (.wayset f d a) := by
  intro h r hr
  obtain rfl := Option.some.inj hr
  replace h : (f.ok [.e] true && d.ok && a.ok && f.form.litsOk false false false && f.holdsOk true false false) = true := h
  simp only [Bool.and_eq_true] at h
  obtain ⟨⟨⟨⟨h0, h1⟩, h2⟩, h3⟩, h4⟩ := h
  obtain ⟨hf, hs⟩ := Fr.ok_forms h0
  have hl : f.form.litsOk ((Src.reg a)).isLit ((Src.reg 0)).isLit ((Src.reg 0)).isLit = true := by
    have h := h3
    first | exact h | (simp only [isLit_reg, isLit_lit, isLit_offset, Option.getD, Option.any, Bool.not_false, Bool.and_true] at h ⊢; exact h)
  refine ⟨fits_mk (by decide) hl h4 (by decide) (by decide) ?_ ?_, ?_, hs, ?_⟩
  · intro e; rw [e] at hf; simp at hf
  · intro e; rw [e] at hf; simp at hf
  · simp only [form_mk, opc_mk]; rw [show formsOf 0x8C = [.e] from by decide]; exact hf
  · rw [show parse (mkRaw f 0x8C 0 (0) d (Src.reg a) (Src.reg 0) (Src.reg 0)) = parseWayset (mkRaw f 0x8C 0 (0) d (Src.reg a) (Src.reg 0) (Src.reg 0)) from by simp [parse, parseRow8, opc_mk, sub_mk]]
    unfold parseWayset
    simp only [m_mk, fr_mk, rd_mk, ra_mk]
    try simp [Option.bind, toNat_beq_one, toNat_eq_one, boolOfCode_toNat, Header.ofWord_toWord]

theorem atom (f : Fr) (op : AtomOp) (d : Reg) (a : Reg) (off : Word) (c : Src) (spc : Space) (sz : Size) (scope : Scope) (ord : Order) : Statement (.atom f op d a off c spc sz scope ord) := by
  intro h r hr
  obtain rfl := Option.some.inj hr
  replace h : (f.ok [.e, .w] true && d.ok && a.pairOk && c.ok && (((f.form == .w && !c.isLit) || off == 0)) && f.form.litsOk false (f.form == .w && !c.isLit) c.isLit && f.holdsOk true (f.form == .w && !c.isLit) true && decide (sz.atomic ∧ op.sizeOk sz ∧ sz.regs d ∧ c.sized sz)) = true := h
  simp only [Bool.and_eq_true] at h
  obtain ⟨⟨⟨⟨⟨⟨⟨h0, h1⟩, h2⟩, h3⟩, h4⟩, h5⟩, h6⟩, h7⟩ := h
  obtain ⟨hf, hs⟩ := Fr.ok_forms h0
  have := AtomOp.code_lt op
  have := Space.code_lt spc
  have := Size.code_lt sz
  have := Scope.code_lt scope
  have := Order.code_lt ord
  have hl : f.form.litsOk ((Src.reg a)).isLit ((Src.offset f.form c.isLit off)).isLit (c).isLit = true := by
    have h := h5
    first | exact h | (simp only [isLit_reg, isLit_lit, isLit_offset, Option.getD, Option.any, Bool.not_false, Bool.and_true] at h ⊢; exact h)
  refine ⟨fits_mk (by decide) hl h6 (by omega) (by omega) ?_ ?_, ?_, hs, ?_⟩
  · intro e; rw [e] at hf; simp at hf
  · intro e; rw [e] at hf; simp at hf
  · simp only [form_mk, opc_mk]; rw [show formsOf 0x90 = [.e, .w] from by decide]; exact hf
  · rw [show parse (mkRaw f 0x90 op.code (spc.code + 8 * sz.code + 256 * scope.code + 4096 * ord.code) d (Src.reg a) (Src.offset f.form c.isLit off) c) = parseAtom (mkRaw f 0x90 op.code (spc.code + 8 * sz.code + 256 * scope.code + 4096 * ord.code) d (Src.reg a) (Src.offset f.form c.isLit off) c) from by simp [parse, parseRow9, opc_mk, sub_mk]]
    have e0 : (spc.code + 8 * sz.code + 256 * scope.code + 4096 * ord.code) / 2 ^ 0 % 2 ^ 3 = spc.code := by omega
    have e1 : (spc.code + 8 * sz.code + 256 * scope.code + 4096 * ord.code) / 2 ^ 3 % 2 ^ 3 = sz.code := by clear e0; omega
    have e2 : (spc.code + 8 * sz.code + 256 * scope.code + 4096 * ord.code) / 2 ^ 8 % 2 ^ 4 = scope.code := by clear e0 e1; omega
    have e3 : (spc.code + 8 * sz.code + 256 * scope.code + 4096 * ord.code) / 2 ^ 12 % 2 ^ 2 = ord.code := by clear e0 e1 e2; omega
    unfold parseAtom
    simp only [m_mk, fr_mk, rd_mk, ra_mk, sc_mk hl, offset_mk hl (by intro e; have h := h4; simp only [decide_eq_true_eq, Bool.or_eq_true, beq_iff_eq, Bool.and_eq_true, Bool.not_eq_true', not_and] at h e; tauto), sub_mk, e0, e1, e2, e3]
    try simp [Option.bind, toNat_beq_one, toNat_eq_one, boolOfCode_toNat, Header.ofWord_toWord, AtomOp.ofCode_code, Order.ofCode_code, Scope.ofCode_code, Size.ofCode_code, Space.ofCode_code]

theorem atomc (f : Fr) (d : Reg) (a : Reg) (off : Word) (c : Reg) (spc : Space) (sz : Size) (scope : Scope) (ord : Order) : Statement (.atomc f d a off c spc sz scope ord) := by
  intro h r hr
  obtain rfl := Option.some.inj hr
  replace h : (f.ok [.e, .w] true && d.ok && a.pairOk && c.ok && (((f.form == .w) || off == 0)) && f.form.litsOk false (f.form == .w) false && f.holdsOk true (f.form == .w) true && decide (sz.atomic ∧ sz.regs d ∧ (if sz = .b64 then c.quadOk else c.pairOk))) = true := h
  simp only [Bool.and_eq_true] at h
  obtain ⟨⟨⟨⟨⟨⟨⟨h0, h1⟩, h2⟩, h3⟩, h4⟩, h5⟩, h6⟩, h7⟩ := h
  obtain ⟨hf, hs⟩ := Fr.ok_forms h0
  have := Space.code_lt spc
  have := Size.code_lt sz
  have := Scope.code_lt scope
  have := Order.code_lt ord
  have hl : f.form.litsOk ((Src.reg a)).isLit ((Src.offset f.form false off)).isLit ((Src.reg c)).isLit = true := by
    have h := h5
    first | exact h | (simp only [isLit_reg, isLit_lit, isLit_offset, Option.getD, Option.any, Bool.not_false, Bool.and_true] at h ⊢; exact h)
  refine ⟨fits_mk (by decide) hl h6 (by decide) (by omega) ?_ ?_, ?_, hs, ?_⟩
  · intro e; rw [e] at hf; simp at hf
  · intro e; rw [e] at hf; simp at hf
  · simp only [form_mk, opc_mk]; rw [show formsOf 0x91 = [.e, .w] from by decide]; exact hf
  · rw [show parse (mkRaw f 0x91 0 (spc.code + 8 * sz.code + 256 * scope.code + 4096 * ord.code) d (Src.reg a) (Src.offset f.form false off) (Src.reg c)) = parseAtomc (mkRaw f 0x91 0 (spc.code + 8 * sz.code + 256 * scope.code + 4096 * ord.code) d (Src.reg a) (Src.offset f.form false off) (Src.reg c)) from by simp [parse, parseRow9, opc_mk, sub_mk]]
    have e0 : (spc.code + 8 * sz.code + 256 * scope.code + 4096 * ord.code) / 2 ^ 0 % 2 ^ 3 = spc.code := by omega
    have e1 : (spc.code + 8 * sz.code + 256 * scope.code + 4096 * ord.code) / 2 ^ 3 % 2 ^ 3 = sz.code := by clear e0; omega
    have e2 : (spc.code + 8 * sz.code + 256 * scope.code + 4096 * ord.code) / 2 ^ 8 % 2 ^ 4 = scope.code := by clear e0 e1; omega
    have e3 : (spc.code + 8 * sz.code + 256 * scope.code + 4096 * ord.code) / 2 ^ 12 % 2 ^ 2 = ord.code := by clear e0 e1 e2; omega
    unfold parseAtomc
    simp only [m_mk, fr_mk, rd_mk, ra_mk, rc_mk, offset_mk hl (by intro e; have h := h4; simp only [decide_eq_true_eq, Bool.or_eq_true, beq_iff_eq, Bool.and_eq_true, Bool.not_eq_true', not_and] at h e; tauto), e0, e1, e2, e3]
    try simp [Option.bind, toNat_beq_one, toNat_eq_one, boolOfCode_toNat, Header.ofWord_toWord, Order.ofCode_code, Scope.ofCode_code, Size.ofCode_code, Space.ofCode_code]

theorem red (f : Fr) (op : AtomOp) (a : Reg) (off : Word) (c : Src) (spc : Space) (sz : Size) (scope : Scope) (ord : Order) : Statement (.red f op a off c spc sz scope ord) := by
  intro h r hr
  obtain rfl := Option.some.inj hr
  replace h : (f.ok [.e, .w] true && a.pairOk && c.ok && (((f.form == .w && !c.isLit) || off == 0)) && f.form.litsOk false (f.form == .w && !c.isLit) c.isLit && f.holdsOk true (f.form == .w && !c.isLit) true && decide (sz.atomic ∧ op.sizeOk sz ∧ op.reducible ∧ c.sized sz)) = true := h
  simp only [Bool.and_eq_true] at h
  obtain ⟨⟨⟨⟨⟨⟨h0, h1⟩, h2⟩, h3⟩, h4⟩, h5⟩, h6⟩ := h
  obtain ⟨hf, hs⟩ := Fr.ok_forms h0
  have := AtomOp.code_lt op
  have := Space.code_lt spc
  have := Size.code_lt sz
  have := Scope.code_lt scope
  have := Order.code_lt ord
  have hl : f.form.litsOk ((Src.reg a)).isLit ((Src.offset f.form c.isLit off)).isLit (c).isLit = true := by
    have h := h4
    first | exact h | (simp only [isLit_reg, isLit_lit, isLit_offset, Option.getD, Option.any, Bool.not_false, Bool.and_true] at h ⊢; exact h)
  refine ⟨fits_mk (by decide) hl h5 (by omega) (by omega) ?_ ?_, ?_, hs, ?_⟩
  · intro e; rw [e] at hf; simp at hf
  · intro e; rw [e] at hf; simp at hf
  · simp only [form_mk, opc_mk]; rw [show formsOf 0x92 = [.e, .w] from by decide]; exact hf
  · rw [show parse (mkRaw f 0x92 op.code (spc.code + 8 * sz.code + 256 * scope.code + 4096 * ord.code) 0 (Src.reg a) (Src.offset f.form c.isLit off) c) = parseRed (mkRaw f 0x92 op.code (spc.code + 8 * sz.code + 256 * scope.code + 4096 * ord.code) 0 (Src.reg a) (Src.offset f.form c.isLit off) c) from by simp [parse, parseRow9, opc_mk, sub_mk]]
    have e0 : (spc.code + 8 * sz.code + 256 * scope.code + 4096 * ord.code) / 2 ^ 0 % 2 ^ 3 = spc.code := by omega
    have e1 : (spc.code + 8 * sz.code + 256 * scope.code + 4096 * ord.code) / 2 ^ 3 % 2 ^ 3 = sz.code := by clear e0; omega
    have e2 : (spc.code + 8 * sz.code + 256 * scope.code + 4096 * ord.code) / 2 ^ 8 % 2 ^ 4 = scope.code := by clear e0 e1; omega
    have e3 : (spc.code + 8 * sz.code + 256 * scope.code + 4096 * ord.code) / 2 ^ 12 % 2 ^ 2 = ord.code := by clear e0 e1 e2; omega
    unfold parseRed
    simp only [m_mk, fr_mk, ra_mk, sc_mk hl, offset_mk hl (by intro e; have h := h3; simp only [decide_eq_true_eq, Bool.or_eq_true, beq_iff_eq, Bool.and_eq_true, Bool.not_eq_true', not_and] at h e; tauto), sub_mk, e0, e1, e2, e3]
    try simp [Option.bind, toNat_beq_one, toNat_eq_one, boolOfCode_toNat, Header.ofWord_toWord, AtomOp.ofCode_code, Order.ofCode_code, Scope.ofCode_code, Size.ofCode_code, Space.ofCode_code]

theorem fenceFull (f : Fr) (scope : Scope) : Statement (.fenceFull f scope) := by
  intro h r hr
  obtain rfl := Option.some.inj hr
  replace h : (f.ok [.e] true && f.form.litsOk false false false && f.holdsOk false false false) = true := h
  simp only [Bool.and_eq_true] at h
  obtain ⟨⟨h0, h1⟩, h2⟩ := h
  obtain ⟨hf, hs⟩ := Fr.ok_forms h0
  have := Scope.code_lt scope
  have hl : f.form.litsOk ((Src.reg 0)).isLit ((Src.reg 0)).isLit ((Src.reg 0)).isLit = true := by
    have h := h1
    first | exact h | (simp only [isLit_reg, isLit_lit, isLit_offset, Option.getD, Option.any, Bool.not_false, Bool.and_true] at h ⊢; exact h)
  refine ⟨fits_mk (by decide) hl h2 (by decide) (by omega) ?_ ?_, ?_, hs, ?_⟩
  · intro e; rw [e] at hf; simp at hf
  · intro e; rw [e] at hf; simp at hf
  · simp only [form_mk, opc_mk]; rw [show formsOf 0x93 = [.e] from by decide]; exact hf
  · rw [show parse (mkRaw f 0x93 0 (256 * scope.code) 0 (Src.reg 0) (Src.reg 0) (Src.reg 0)) = parseFenceFull (mkRaw f 0x93 0 (256 * scope.code) 0 (Src.reg 0) (Src.reg 0) (Src.reg 0)) from by simp [parse, parseRow9, opc_mk, sub_mk]]
    have e0 : (256 * scope.code) / 2 ^ 8 % 2 ^ 4 = scope.code := by omega
    unfold parseFenceFull
    simp only [m_mk, fr_mk, e0]
    try simp [Option.bind, toNat_beq_one, toNat_eq_one, boolOfCode_toNat, Header.ofWord_toWord, Scope.ofCode_code]

theorem fenceAcq (f : Fr) (scope : Scope) : Statement (.fenceAcq f scope) := by
  intro h r hr
  obtain rfl := Option.some.inj hr
  replace h : (f.ok [.e] true && f.form.litsOk false false false && f.holdsOk false false false) = true := h
  simp only [Bool.and_eq_true] at h
  obtain ⟨⟨h0, h1⟩, h2⟩ := h
  obtain ⟨hf, hs⟩ := Fr.ok_forms h0
  have := Scope.code_lt scope
  have hl : f.form.litsOk ((Src.reg 0)).isLit ((Src.reg 0)).isLit ((Src.reg 0)).isLit = true := by
    have h := h1
    first | exact h | (simp only [isLit_reg, isLit_lit, isLit_offset, Option.getD, Option.any, Bool.not_false, Bool.and_true] at h ⊢; exact h)
  refine ⟨fits_mk (by decide) hl h2 (by decide) (by omega) ?_ ?_, ?_, hs, ?_⟩
  · intro e; rw [e] at hf; simp at hf
  · intro e; rw [e] at hf; simp at hf
  · simp only [form_mk, opc_mk]; rw [show formsOf 0x93 = [.e] from by decide]; exact hf
  · rw [show parse (mkRaw f 0x93 1 (256 * scope.code) 0 (Src.reg 0) (Src.reg 0) (Src.reg 0)) = parseFenceAcq (mkRaw f 0x93 1 (256 * scope.code) 0 (Src.reg 0) (Src.reg 0) (Src.reg 0)) from by simp [parse, parseRow9, opc_mk, sub_mk]]
    have e0 : (256 * scope.code) / 2 ^ 8 % 2 ^ 4 = scope.code := by omega
    unfold parseFenceAcq
    simp only [m_mk, fr_mk, e0]
    try simp [Option.bind, toNat_beq_one, toNat_eq_one, boolOfCode_toNat, Header.ofWord_toWord, Scope.ofCode_code]

theorem fenceRel (f : Fr) (scope : Scope) : Statement (.fenceRel f scope) := by
  intro h r hr
  obtain rfl := Option.some.inj hr
  replace h : (f.ok [.e] true && f.form.litsOk false false false && f.holdsOk false false false) = true := h
  simp only [Bool.and_eq_true] at h
  obtain ⟨⟨h0, h1⟩, h2⟩ := h
  obtain ⟨hf, hs⟩ := Fr.ok_forms h0
  have := Scope.code_lt scope
  have hl : f.form.litsOk ((Src.reg 0)).isLit ((Src.reg 0)).isLit ((Src.reg 0)).isLit = true := by
    have h := h1
    first | exact h | (simp only [isLit_reg, isLit_lit, isLit_offset, Option.getD, Option.any, Bool.not_false, Bool.and_true] at h ⊢; exact h)
  refine ⟨fits_mk (by decide) hl h2 (by decide) (by omega) ?_ ?_, ?_, hs, ?_⟩
  · intro e; rw [e] at hf; simp at hf
  · intro e; rw [e] at hf; simp at hf
  · simp only [form_mk, opc_mk]; rw [show formsOf 0x93 = [.e] from by decide]; exact hf
  · rw [show parse (mkRaw f 0x93 2 (256 * scope.code) 0 (Src.reg 0) (Src.reg 0) (Src.reg 0)) = parseFenceRel (mkRaw f 0x93 2 (256 * scope.code) 0 (Src.reg 0) (Src.reg 0) (Src.reg 0)) from by simp [parse, parseRow9, opc_mk, sub_mk]]
    have e0 : (256 * scope.code) / 2 ^ 8 % 2 ^ 4 = scope.code := by omega
    unfold parseFenceRel
    simp only [m_mk, fr_mk, e0]
    try simp [Option.bind, toNat_beq_one, toNat_eq_one, boolOfCode_toNat, Header.ofWord_toWord, Scope.ofCode_code]

theorem chunk (f : Fr) (d : Reg) (a : Reg) : Statement (.chunk f d a) := by
  intro h r hr
  obtain rfl := Option.some.inj hr
  replace h : (f.ok [.e] true && d.pairOk && a.pairOk && f.form.litsOk false false false && f.holdsOk true false false) = true := h
  simp only [Bool.and_eq_true] at h
  obtain ⟨⟨⟨⟨h0, h1⟩, h2⟩, h3⟩, h4⟩ := h
  obtain ⟨hf, hs⟩ := Fr.ok_forms h0
  have hl : f.form.litsOk ((Src.reg a)).isLit ((Src.reg 0)).isLit ((Src.reg 0)).isLit = true := by
    have h := h3
    first | exact h | (simp only [isLit_reg, isLit_lit, isLit_offset, Option.getD, Option.any, Bool.not_false, Bool.and_true] at h ⊢; exact h)
  refine ⟨fits_mk (by decide) hl h4 (by decide) (by decide) ?_ ?_, ?_, hs, ?_⟩
  · intro e; rw [e] at hf; simp at hf
  · intro e; rw [e] at hf; simp at hf
  · simp only [form_mk, opc_mk]; rw [show formsOf 0x94 = [.e] from by decide]; exact hf
  · rw [show parse (mkRaw f 0x94 0 (0) d (Src.reg a) (Src.reg 0) (Src.reg 0)) = parseChunk (mkRaw f 0x94 0 (0) d (Src.reg a) (Src.reg 0) (Src.reg 0)) from by simp [parse, parseRow9, opc_mk, sub_mk]]
    unfold parseChunk
    simp only [m_mk, fr_mk, rd_mk, ra_mk]
    try simp [Option.bind, toNat_beq_one, toNat_eq_one, boolOfCode_toNat, Header.ofWord_toWord]

theorem slxCopy (f : Fr) (d : Reg) (a : Option Src) (b : Option Src) (c : Reg) : Statement (.slxCopy f d a b c) := by
  intro h r hr
  obtain rfl := Option.some.inj hr
  replace h : (f.ok [.e, .w] true && d.ok && a.all Src.ok && b.all Src.ok && c.octOk && f.form.litsOk (a.any Src.isLit) (b.any Src.isLit) false && f.holdsOk a.isSome b.isSome true) = true := h
  simp only [Bool.and_eq_true] at h
  obtain ⟨⟨⟨⟨⟨⟨h0, h1⟩, h2⟩, h3⟩, h4⟩, h5⟩, h6⟩ := h
  obtain ⟨hf, hs⟩ := Fr.ok_forms h0
  have := Bool.toNat_lt a.isSome
  have := Bool.toNat_lt b.isSome
  have hl : f.form.litsOk ((a.getD (Src.reg 0))).isLit ((b.getD (Src.reg 0))).isLit ((Src.reg c)).isLit = true := by
    have h := h5
    cases a <;> cases b <;> first | exact h | (simp only [isLit_reg, isLit_lit, isLit_offset, Option.getD, Option.any, Bool.not_false, Bool.and_true] at h ⊢; exact h)
  refine ⟨fits_mk (by decide) hl h6 (by decide) (by omega) ?_ ?_, ?_, hs, ?_⟩
  · intro e; rw [e] at hf; simp at hf
  · intro e; rw [e] at hf; simp at hf
  · simp only [form_mk, opc_mk]; rw [show formsOf 0xA0 = [.e, .w] from by decide]; exact hf
  · rw [show parse (mkRaw f 0xA0 0 (a.isSome.toNat + 2 * b.isSome.toNat) d (a.getD (Src.reg 0)) (b.getD (Src.reg 0)) (Src.reg c)) = parseSlxCopy (mkRaw f 0xA0 0 (a.isSome.toNat + 2 * b.isSome.toNat) d (a.getD (Src.reg 0)) (b.getD (Src.reg 0)) (Src.reg c)) from by simp [parse, parseRowA, opc_mk, sub_mk]]
    have e0 : (a.isSome.toNat + 2 * b.isSome.toNat) / 2 ^ 0 % 2 ^ 1 = a.isSome.toNat := by omega
    have e1 : (a.isSome.toNat + 2 * b.isSome.toNat) / 2 ^ 1 % 2 ^ 1 = b.isSome.toNat := by clear e0; omega
    unfold parseSlxCopy
    simp only [m_mk, fr_mk, rd_mk, rc_mk, sa_mk hl, sb_mk hl, e0, e1]
    cases a <;> cases b <;> try simp [Option.bind, toNat_beq_one, toNat_eq_one, boolOfCode_toNat, Header.ofWord_toWord] <;> simp_all

theorem slxCvt (f : Fr) (d : Reg) (a : Option Src) (b : Option Src) (c : Reg) : Statement (.slxCvt f d a b c) := by
  intro h r hr
  obtain rfl := Option.some.inj hr
  replace h : (f.ok [.e, .w] true && d.ok && a.all Src.ok && b.all Src.ok && c.octOk && f.form.litsOk (a.any Src.isLit) (b.any Src.isLit) false && f.holdsOk a.isSome b.isSome true) = true := h
  simp only [Bool.and_eq_true] at h
  obtain ⟨⟨⟨⟨⟨⟨h0, h1⟩, h2⟩, h3⟩, h4⟩, h5⟩, h6⟩ := h
  obtain ⟨hf, hs⟩ := Fr.ok_forms h0
  have := Bool.toNat_lt a.isSome
  have := Bool.toNat_lt b.isSome
  have hl : f.form.litsOk ((a.getD (Src.reg 0))).isLit ((b.getD (Src.reg 0))).isLit ((Src.reg c)).isLit = true := by
    have h := h5
    cases a <;> cases b <;> first | exact h | (simp only [isLit_reg, isLit_lit, isLit_offset, Option.getD, Option.any, Bool.not_false, Bool.and_true] at h ⊢; exact h)
  refine ⟨fits_mk (by decide) hl h6 (by decide) (by omega) ?_ ?_, ?_, hs, ?_⟩
  · intro e; rw [e] at hf; simp at hf
  · intro e; rw [e] at hf; simp at hf
  · simp only [form_mk, opc_mk]; rw [show formsOf 0xA0 = [.e, .w] from by decide]; exact hf
  · rw [show parse (mkRaw f 0xA0 1 (a.isSome.toNat + 2 * b.isSome.toNat) d (a.getD (Src.reg 0)) (b.getD (Src.reg 0)) (Src.reg c)) = parseSlxCvt (mkRaw f 0xA0 1 (a.isSome.toNat + 2 * b.isSome.toNat) d (a.getD (Src.reg 0)) (b.getD (Src.reg 0)) (Src.reg c)) from by simp [parse, parseRowA, opc_mk, sub_mk]]
    have e0 : (a.isSome.toNat + 2 * b.isSome.toNat) / 2 ^ 0 % 2 ^ 1 = a.isSome.toNat := by omega
    have e1 : (a.isSome.toNat + 2 * b.isSome.toNat) / 2 ^ 1 % 2 ^ 1 = b.isSome.toNat := by clear e0; omega
    unfold parseSlxCvt
    simp only [m_mk, fr_mk, rd_mk, rc_mk, sa_mk hl, sb_mk hl, e0, e1]
    cases a <;> cases b <;> try simp [Option.bind, toNat_beq_one, toNat_eq_one, boolOfCode_toNat, Header.ofWord_toWord] <;> simp_all

theorem slxRescale (f : Fr) (d : Reg) (a : Option Src) (b : Option Src) (c : Reg) : Statement (.slxRescale f d a b c) := by
  intro h r hr
  obtain rfl := Option.some.inj hr
  replace h : (f.ok [.e, .w] true && d.ok && a.all Src.ok && b.all Src.ok && c.octOk && f.form.litsOk (a.any Src.isLit) (b.any Src.isLit) false && f.holdsOk a.isSome b.isSome true) = true := h
  simp only [Bool.and_eq_true] at h
  obtain ⟨⟨⟨⟨⟨⟨h0, h1⟩, h2⟩, h3⟩, h4⟩, h5⟩, h6⟩ := h
  obtain ⟨hf, hs⟩ := Fr.ok_forms h0
  have := Bool.toNat_lt a.isSome
  have := Bool.toNat_lt b.isSome
  have hl : f.form.litsOk ((a.getD (Src.reg 0))).isLit ((b.getD (Src.reg 0))).isLit ((Src.reg c)).isLit = true := by
    have h := h5
    cases a <;> cases b <;> first | exact h | (simp only [isLit_reg, isLit_lit, isLit_offset, Option.getD, Option.any, Bool.not_false, Bool.and_true] at h ⊢; exact h)
  refine ⟨fits_mk (by decide) hl h6 (by decide) (by omega) ?_ ?_, ?_, hs, ?_⟩
  · intro e; rw [e] at hf; simp at hf
  · intro e; rw [e] at hf; simp at hf
  · simp only [form_mk, opc_mk]; rw [show formsOf 0xA0 = [.e, .w] from by decide]; exact hf
  · rw [show parse (mkRaw f 0xA0 2 (a.isSome.toNat + 2 * b.isSome.toNat) d (a.getD (Src.reg 0)) (b.getD (Src.reg 0)) (Src.reg c)) = parseSlxRescale (mkRaw f 0xA0 2 (a.isSome.toNat + 2 * b.isSome.toNat) d (a.getD (Src.reg 0)) (b.getD (Src.reg 0)) (Src.reg c)) from by simp [parse, parseRowA, opc_mk, sub_mk]]
    have e0 : (a.isSome.toNat + 2 * b.isSome.toNat) / 2 ^ 0 % 2 ^ 1 = a.isSome.toNat := by omega
    have e1 : (a.isSome.toNat + 2 * b.isSome.toNat) / 2 ^ 1 % 2 ^ 1 = b.isSome.toNat := by clear e0; omega
    unfold parseSlxRescale
    simp only [m_mk, fr_mk, rd_mk, rc_mk, sa_mk hl, sb_mk hl, e0, e1]
    cases a <;> cases b <;> try simp [Option.bind, toNat_beq_one, toNat_eq_one, boolOfCode_toNat, Header.ofWord_toWord] <;> simp_all

theorem slxTr (f : Fr) (d : Reg) (a : Option Src) (b : Option Src) (c : Reg) : Statement (.slxTr f d a b c) := by
  intro h r hr
  obtain rfl := Option.some.inj hr
  replace h : (f.ok [.e, .w] true && d.ok && a.all Src.ok && b.all Src.ok && c.octOk && f.form.litsOk (a.any Src.isLit) (b.any Src.isLit) false && f.holdsOk a.isSome b.isSome true) = true := h
  simp only [Bool.and_eq_true] at h
  obtain ⟨⟨⟨⟨⟨⟨h0, h1⟩, h2⟩, h3⟩, h4⟩, h5⟩, h6⟩ := h
  obtain ⟨hf, hs⟩ := Fr.ok_forms h0
  have := Bool.toNat_lt a.isSome
  have := Bool.toNat_lt b.isSome
  have hl : f.form.litsOk ((a.getD (Src.reg 0))).isLit ((b.getD (Src.reg 0))).isLit ((Src.reg c)).isLit = true := by
    have h := h5
    cases a <;> cases b <;> first | exact h | (simp only [isLit_reg, isLit_lit, isLit_offset, Option.getD, Option.any, Bool.not_false, Bool.and_true] at h ⊢; exact h)
  refine ⟨fits_mk (by decide) hl h6 (by decide) (by omega) ?_ ?_, ?_, hs, ?_⟩
  · intro e; rw [e] at hf; simp at hf
  · intro e; rw [e] at hf; simp at hf
  · simp only [form_mk, opc_mk]; rw [show formsOf 0xA0 = [.e, .w] from by decide]; exact hf
  · rw [show parse (mkRaw f 0xA0 3 (a.isSome.toNat + 2 * b.isSome.toNat) d (a.getD (Src.reg 0)) (b.getD (Src.reg 0)) (Src.reg c)) = parseSlxTr (mkRaw f 0xA0 3 (a.isSome.toNat + 2 * b.isSome.toNat) d (a.getD (Src.reg 0)) (b.getD (Src.reg 0)) (Src.reg c)) from by simp [parse, parseRowA, opc_mk, sub_mk]]
    have e0 : (a.isSome.toNat + 2 * b.isSome.toNat) / 2 ^ 0 % 2 ^ 1 = a.isSome.toNat := by omega
    have e1 : (a.isSome.toNat + 2 * b.isSome.toNat) / 2 ^ 1 % 2 ^ 1 = b.isSome.toNat := by clear e0; omega
    unfold parseSlxTr
    simp only [m_mk, fr_mk, rd_mk, rc_mk, sa_mk hl, sb_mk hl, e0, e1]
    cases a <;> cases b <;> try simp [Option.bind, toNat_beq_one, toNat_eq_one, boolOfCode_toNat, Header.ofWord_toWord] <;> simp_all

theorem slxFill (f : Fr) (d : Reg) (a : Option Src) (b : Option Src) (c : Reg) : Statement (.slxFill f d a b c) := by
  intro h r hr
  obtain rfl := Option.some.inj hr
  replace h : (f.ok [.e, .w] true && d.ok && a.all Src.ok && b.all Src.ok && c.octOk && f.form.litsOk (a.any Src.isLit) (b.any Src.isLit) false && f.holdsOk a.isSome b.isSome true) = true := h
  simp only [Bool.and_eq_true] at h
  obtain ⟨⟨⟨⟨⟨⟨h0, h1⟩, h2⟩, h3⟩, h4⟩, h5⟩, h6⟩ := h
  obtain ⟨hf, hs⟩ := Fr.ok_forms h0
  have := Bool.toNat_lt a.isSome
  have := Bool.toNat_lt b.isSome
  have hl : f.form.litsOk ((a.getD (Src.reg 0))).isLit ((b.getD (Src.reg 0))).isLit ((Src.reg c)).isLit = true := by
    have h := h5
    cases a <;> cases b <;> first | exact h | (simp only [isLit_reg, isLit_lit, isLit_offset, Option.getD, Option.any, Bool.not_false, Bool.and_true] at h ⊢; exact h)
  refine ⟨fits_mk (by decide) hl h6 (by decide) (by omega) ?_ ?_, ?_, hs, ?_⟩
  · intro e; rw [e] at hf; simp at hf
  · intro e; rw [e] at hf; simp at hf
  · simp only [form_mk, opc_mk]; rw [show formsOf 0xA0 = [.e, .w] from by decide]; exact hf
  · rw [show parse (mkRaw f 0xA0 4 (a.isSome.toNat + 2 * b.isSome.toNat) d (a.getD (Src.reg 0)) (b.getD (Src.reg 0)) (Src.reg c)) = parseSlxFill (mkRaw f 0xA0 4 (a.isSome.toNat + 2 * b.isSome.toNat) d (a.getD (Src.reg 0)) (b.getD (Src.reg 0)) (Src.reg c)) from by simp [parse, parseRowA, opc_mk, sub_mk]]
    have e0 : (a.isSome.toNat + 2 * b.isSome.toNat) / 2 ^ 0 % 2 ^ 1 = a.isSome.toNat := by omega
    have e1 : (a.isSome.toNat + 2 * b.isSome.toNat) / 2 ^ 1 % 2 ^ 1 = b.isSome.toNat := by clear e0; omega
    unfold parseSlxFill
    simp only [m_mk, fr_mk, rd_mk, rc_mk, sa_mk hl, sb_mk hl, e0, e1]
    cases a <;> cases b <;> try simp [Option.bind, toNat_beq_one, toNat_eq_one, boolOfCode_toNat, Header.ofWord_toWord] <;> simp_all

theorem slxKvg (f : Fr) (d : Reg) (a : Option Src) (b : Option Src) (c : Reg) : Statement (.slxKvg f d a b c) := by
  intro h r hr
  obtain rfl := Option.some.inj hr
  replace h : (f.ok [.e, .w] true && d.ok && a.all Src.ok && b.all Src.ok && c.octOk && f.form.litsOk (a.any Src.isLit) (b.any Src.isLit) false && f.holdsOk a.isSome b.isSome true) = true := h
  simp only [Bool.and_eq_true] at h
  obtain ⟨⟨⟨⟨⟨⟨h0, h1⟩, h2⟩, h3⟩, h4⟩, h5⟩, h6⟩ := h
  obtain ⟨hf, hs⟩ := Fr.ok_forms h0
  have := Bool.toNat_lt a.isSome
  have := Bool.toNat_lt b.isSome
  have hl : f.form.litsOk ((a.getD (Src.reg 0))).isLit ((b.getD (Src.reg 0))).isLit ((Src.reg c)).isLit = true := by
    have h := h5
    cases a <;> cases b <;> first | exact h | (simp only [isLit_reg, isLit_lit, isLit_offset, Option.getD, Option.any, Bool.not_false, Bool.and_true] at h ⊢; exact h)
  refine ⟨fits_mk (by decide) hl h6 (by decide) (by omega) ?_ ?_, ?_, hs, ?_⟩
  · intro e; rw [e] at hf; simp at hf
  · intro e; rw [e] at hf; simp at hf
  · simp only [form_mk, opc_mk]; rw [show formsOf 0xA0 = [.e, .w] from by decide]; exact hf
  · rw [show parse (mkRaw f 0xA0 5 (a.isSome.toNat + 2 * b.isSome.toNat) d (a.getD (Src.reg 0)) (b.getD (Src.reg 0)) (Src.reg c)) = parseSlxKvg (mkRaw f 0xA0 5 (a.isSome.toNat + 2 * b.isSome.toNat) d (a.getD (Src.reg 0)) (b.getD (Src.reg 0)) (Src.reg c)) from by simp [parse, parseRowA, opc_mk, sub_mk]]
    have e0 : (a.isSome.toNat + 2 * b.isSome.toNat) / 2 ^ 0 % 2 ^ 1 = a.isSome.toNat := by omega
    have e1 : (a.isSome.toNat + 2 * b.isSome.toNat) / 2 ^ 1 % 2 ^ 1 = b.isSome.toNat := by clear e0; omega
    unfold parseSlxKvg
    simp only [m_mk, fr_mk, rd_mk, rc_mk, sa_mk hl, sb_mk hl, e0, e1]
    cases a <;> cases b <;> try simp [Option.bind, toNat_beq_one, toNat_eq_one, boolOfCode_toNat, Header.ofWord_toWord] <;> simp_all

theorem slxTagck (f : Fr) (d : Reg) (a : Option Src) (b : Option Src) (c : Reg) : Statement (.slxTagck f d a b c) := by
  intro h r hr
  obtain rfl := Option.some.inj hr
  replace h : (f.ok [.e, .w] true && d.ok && a.all Src.ok && b.all Src.ok && c.octOk && f.form.litsOk (a.any Src.isLit) (b.any Src.isLit) false && f.holdsOk a.isSome b.isSome true) = true := h
  simp only [Bool.and_eq_true] at h
  obtain ⟨⟨⟨⟨⟨⟨h0, h1⟩, h2⟩, h3⟩, h4⟩, h5⟩, h6⟩ := h
  obtain ⟨hf, hs⟩ := Fr.ok_forms h0
  have := Bool.toNat_lt a.isSome
  have := Bool.toNat_lt b.isSome
  have hl : f.form.litsOk ((a.getD (Src.reg 0))).isLit ((b.getD (Src.reg 0))).isLit ((Src.reg c)).isLit = true := by
    have h := h5
    cases a <;> cases b <;> first | exact h | (simp only [isLit_reg, isLit_lit, isLit_offset, Option.getD, Option.any, Bool.not_false, Bool.and_true] at h ⊢; exact h)
  refine ⟨fits_mk (by decide) hl h6 (by decide) (by omega) ?_ ?_, ?_, hs, ?_⟩
  · intro e; rw [e] at hf; simp at hf
  · intro e; rw [e] at hf; simp at hf
  · simp only [form_mk, opc_mk]; rw [show formsOf 0xA0 = [.e, .w] from by decide]; exact hf
  · rw [show parse (mkRaw f 0xA0 6 (a.isSome.toNat + 2 * b.isSome.toNat) d (a.getD (Src.reg 0)) (b.getD (Src.reg 0)) (Src.reg c)) = parseSlxTagck (mkRaw f 0xA0 6 (a.isSome.toNat + 2 * b.isSome.toNat) d (a.getD (Src.reg 0)) (b.getD (Src.reg 0)) (Src.reg c)) from by simp [parse, parseRowA, opc_mk, sub_mk]]
    have e0 : (a.isSome.toNat + 2 * b.isSome.toNat) / 2 ^ 0 % 2 ^ 1 = a.isSome.toNat := by omega
    have e1 : (a.isSome.toNat + 2 * b.isSome.toNat) / 2 ^ 1 % 2 ^ 1 = b.isSome.toNat := by clear e0; omega
    unfold parseSlxTagck
    simp only [m_mk, fr_mk, rd_mk, rc_mk, sa_mk hl, sb_mk hl, e0, e1]
    cases a <;> cases b <;> try simp [Option.bind, toNat_beq_one, toNat_eq_one, boolOfCode_toNat, Header.ofWord_toWord] <;> simp_all

theorem bseal (f : Fr) (d : Reg) : Statement (.bseal f d) := by
  intro h r hr
  obtain rfl := Option.some.inj hr
  replace h : (f.ok [.s] true && d.ok && f.form.litsOk false false false && f.holdsOk false false false) = true := h
  simp only [Bool.and_eq_true] at h
  obtain ⟨⟨⟨h0, h1⟩, h2⟩, h3⟩ := h
  obtain ⟨hf, hs⟩ := Fr.ok_forms h0
  have hl : f.form.litsOk ((Src.reg 0)).isLit ((Src.reg 0)).isLit ((Src.reg 0)).isLit = true := by
    have h := h2
    first | exact h | (simp only [isLit_reg, isLit_lit, isLit_offset, Option.getD, Option.any, Bool.not_false, Bool.and_true] at h ⊢; exact h)
  refine ⟨fits_mk (by decide) hl h3 (by decide) (by decide) ?_ ?_, ?_, hs, ?_⟩
  · intro e; decide
  · intro e; rw [e] at hf; simp at hf
  · simp only [form_mk, opc_mk]; rw [show formsOf 0xA1 = [.s] from by decide]; exact hf
  · rw [show parse (mkRaw f 0xA1 0 (0) d (Src.reg 0) (Src.reg 0) (Src.reg 0)) = parseBseal (mkRaw f 0xA1 0 (0) d (Src.reg 0) (Src.reg 0) (Src.reg 0)) from by simp [parse, parseRowA, opc_mk, sub_mk]]
    unfold parseBseal
    simp only [m_mk, fr_mk, rd_mk]
    try simp [Option.bind, toNat_beq_one, toNat_eq_one, boolOfCode_toNat, Header.ofWord_toWord]

theorem bwait (f : Fr) (d : Reg) (a : Reg) : Statement (.bwait f d a) := by
  intro h r hr
  obtain rfl := Option.some.inj hr
  replace h : (f.ok [.e] true && d.ok && a.ok && f.form.litsOk false false false && f.holdsOk true false false) = true := h
  simp only [Bool.and_eq_true] at h
  obtain ⟨⟨⟨⟨h0, h1⟩, h2⟩, h3⟩, h4⟩ := h
  obtain ⟨hf, hs⟩ := Fr.ok_forms h0
  have hl : f.form.litsOk ((Src.reg a)).isLit ((Src.reg 0)).isLit ((Src.reg 0)).isLit = true := by
    have h := h3
    first | exact h | (simp only [isLit_reg, isLit_lit, isLit_offset, Option.getD, Option.any, Bool.not_false, Bool.and_true] at h ⊢; exact h)
  refine ⟨fits_mk (by decide) hl h4 (by decide) (by decide) ?_ ?_, ?_, hs, ?_⟩
  · intro e; rw [e] at hf; simp at hf
  · intro e; rw [e] at hf; simp at hf
  · simp only [form_mk, opc_mk]; rw [show formsOf 0xA2 = [.e] from by decide]; exact hf
  · rw [show parse (mkRaw f 0xA2 0 (0) d (Src.reg a) (Src.reg 0) (Src.reg 0)) = parseBwait (mkRaw f 0xA2 0 (0) d (Src.reg a) (Src.reg 0) (Src.reg 0)) from by simp [parse, parseRowA, opc_mk, sub_mk]]
    unfold parseBwait
    simp only [m_mk, fr_mk, rd_mk, ra_mk]
    try simp [Option.bind, toNat_beq_one, toNat_eq_one, boolOfCode_toNat, Header.ofWord_toWord]

theorem flput (f : Fr) (d : Reg) (a : Reg) (n : BitVec 4) : Statement (.flput f d a n) := by
  intro h r hr
  obtain rfl := Option.some.inj hr
  replace h : (f.ok [.e] true && d.ok && a.ok && f.form.litsOk false false false && f.holdsOk true false false) = true := h
  simp only [Bool.and_eq_true] at h
  obtain ⟨⟨⟨⟨h0, h1⟩, h2⟩, h3⟩, h4⟩ := h
  obtain ⟨hf, hs⟩ := Fr.ok_forms h0
  have := n.isLt
  have hl : f.form.litsOk ((Src.reg a)).isLit ((Src.reg 0)).isLit ((Src.reg 0)).isLit = true := by
    have h := h3
    first | exact h | (simp only [isLit_reg, isLit_lit, isLit_offset, Option.getD, Option.any, Bool.not_false, Bool.and_true] at h ⊢; exact h)
  refine ⟨fits_mk (by decide) hl h4 (by decide) (by omega) ?_ ?_, ?_, hs, ?_⟩
  · intro e; rw [e] at hf; simp at hf
  · intro e; rw [e] at hf; simp at hf
  · simp only [form_mk, opc_mk]; rw [show formsOf 0xA3 = [.e] from by decide]; exact hf
  · rw [show parse (mkRaw f 0xA3 0 (n.toNat) d (Src.reg a) (Src.reg 0) (Src.reg 0)) = parseFlput (mkRaw f 0xA3 0 (n.toNat) d (Src.reg a) (Src.reg 0) (Src.reg 0)) from by simp [parse, parseRowA, opc_mk, sub_mk]]
    have e0 : (n.toNat) / 2 ^ 0 % 2 ^ 4 = n.toNat := by omega
    unfold parseFlput
    simp only [m_mk, fr_mk, rd_mk, ra_mk, e0]
    try simp [Option.bind, toNat_beq_one, toNat_eq_one, boolOfCode_toNat, Header.ofWord_toWord]

theorem flget (f : Fr) (d : Reg) (a : Reg) (n : BitVec 4) : Statement (.flget f d a n) := by
  intro h r hr
  obtain rfl := Option.some.inj hr
  replace h : (f.ok [.e] true && d.ok && a.ok && f.form.litsOk false false false && f.holdsOk true false false) = true := h
  simp only [Bool.and_eq_true] at h
  obtain ⟨⟨⟨⟨h0, h1⟩, h2⟩, h3⟩, h4⟩ := h
  obtain ⟨hf, hs⟩ := Fr.ok_forms h0
  have := n.isLt
  have hl : f.form.litsOk ((Src.reg a)).isLit ((Src.reg 0)).isLit ((Src.reg 0)).isLit = true := by
    have h := h3
    first | exact h | (simp only [isLit_reg, isLit_lit, isLit_offset, Option.getD, Option.any, Bool.not_false, Bool.and_true] at h ⊢; exact h)
  refine ⟨fits_mk (by decide) hl h4 (by decide) (by omega) ?_ ?_, ?_, hs, ?_⟩
  · intro e; rw [e] at hf; simp at hf
  · intro e; rw [e] at hf; simp at hf
  · simp only [form_mk, opc_mk]; rw [show formsOf 0xA4 = [.e] from by decide]; exact hf
  · rw [show parse (mkRaw f 0xA4 0 (n.toNat) d (Src.reg a) (Src.reg 0) (Src.reg 0)) = parseFlget (mkRaw f 0xA4 0 (n.toNat) d (Src.reg a) (Src.reg 0) (Src.reg 0)) from by simp [parse, parseRowA, opc_mk, sub_mk]]
    have e0 : (n.toNat) / 2 ^ 0 % 2 ^ 4 = n.toNat := by omega
    unfold parseFlget
    simp only [m_mk, fr_mk, rd_mk, ra_mk, e0]
    try simp [Option.bind, toNat_beq_one, toNat_eq_one, boolOfCode_toNat, Header.ofWord_toWord]

theorem flwaitData (f : Fr) (d : Reg) (a : Reg) (n : BitVec 4) : Statement (.flwaitData f d a n) := by
  intro h r hr
  obtain rfl := Option.some.inj hr
  replace h : (f.ok [.e] true && d.ok && a.ok && f.form.litsOk false false false && f.holdsOk true false false) = true := h
  simp only [Bool.and_eq_true] at h
  obtain ⟨⟨⟨⟨h0, h1⟩, h2⟩, h3⟩, h4⟩ := h
  obtain ⟨hf, hs⟩ := Fr.ok_forms h0
  have := n.isLt
  have hl : f.form.litsOk ((Src.reg a)).isLit ((Src.reg 0)).isLit ((Src.reg 0)).isLit = true := by
    have h := h3
    first | exact h | (simp only [isLit_reg, isLit_lit, isLit_offset, Option.getD, Option.any, Bool.not_false, Bool.and_true] at h ⊢; exact h)
  refine ⟨fits_mk (by decide) hl h4 (by decide) (by omega) ?_ ?_, ?_, hs, ?_⟩
  · intro e; rw [e] at hf; simp at hf
  · intro e; rw [e] at hf; simp at hf
  · simp only [form_mk, opc_mk]; rw [show formsOf 0xA5 = [.e] from by decide]; exact hf
  · rw [show parse (mkRaw f 0xA5 0 (n.toNat) d (Src.reg a) (Src.reg 0) (Src.reg 0)) = parseFlwaitData (mkRaw f 0xA5 0 (n.toNat) d (Src.reg a) (Src.reg 0) (Src.reg 0)) from by simp [parse, parseRowA, opc_mk, sub_mk]]
    have e0 : (n.toNat) / 2 ^ 0 % 2 ^ 4 = n.toNat := by omega
    unfold parseFlwaitData
    simp only [m_mk, fr_mk, rd_mk, ra_mk, e0]
    try simp [Option.bind, toNat_beq_one, toNat_eq_one, boolOfCode_toNat, Header.ofWord_toWord]

theorem flwaitRoom (f : Fr) (d : Reg) (a : Reg) (n : BitVec 4) : Statement (.flwaitRoom f d a n) := by
  intro h r hr
  obtain rfl := Option.some.inj hr
  replace h : (f.ok [.e] true && d.ok && a.ok && f.form.litsOk false false false && f.holdsOk true false false) = true := h
  simp only [Bool.and_eq_true] at h
  obtain ⟨⟨⟨⟨h0, h1⟩, h2⟩, h3⟩, h4⟩ := h
  obtain ⟨hf, hs⟩ := Fr.ok_forms h0
  have := n.isLt
  have hl : f.form.litsOk ((Src.reg a)).isLit ((Src.reg 0)).isLit ((Src.reg 0)).isLit = true := by
    have h := h3
    first | exact h | (simp only [isLit_reg, isLit_lit, isLit_offset, Option.getD, Option.any, Bool.not_false, Bool.and_true] at h ⊢; exact h)
  refine ⟨fits_mk (by decide) hl h4 (by decide) (by omega) ?_ ?_, ?_, hs, ?_⟩
  · intro e; rw [e] at hf; simp at hf
  · intro e; rw [e] at hf; simp at hf
  · simp only [form_mk, opc_mk]; rw [show formsOf 0xA5 = [.e] from by decide]; exact hf
  · rw [show parse (mkRaw f 0xA5 1 (n.toNat) d (Src.reg a) (Src.reg 0) (Src.reg 0)) = parseFlwaitRoom (mkRaw f 0xA5 1 (n.toNat) d (Src.reg a) (Src.reg 0) (Src.reg 0)) from by simp [parse, parseRowA, opc_mk, sub_mk]]
    have e0 : (n.toNat) / 2 ^ 0 % 2 ^ 4 = n.toNat := by omega
    unfold parseFlwaitRoom
    simp only [m_mk, fr_mk, rd_mk, ra_mk, e0]
    try simp [Option.bind, toNat_beq_one, toNat_eq_one, boolOfCode_toNat, Header.ofWord_toWord]

theorem weirsetSet (f : Fr) (a : Reg) (w : BitVec 5) : Statement (.weirsetSet f a w) := by
  intro h r hr
  obtain rfl := Option.some.inj hr
  replace h : (f.ok [.e] true && a.ok && f.form.litsOk false false false && f.holdsOk true false false) = true := h
  simp only [Bool.and_eq_true] at h
  obtain ⟨⟨⟨h0, h1⟩, h2⟩, h3⟩ := h
  obtain ⟨hf, hs⟩ := Fr.ok_forms h0
  have := w.isLt
  have hl : f.form.litsOk ((Src.reg a)).isLit ((Src.reg 0)).isLit ((Src.reg 0)).isLit = true := by
    have h := h2
    first | exact h | (simp only [isLit_reg, isLit_lit, isLit_offset, Option.getD, Option.any, Bool.not_false, Bool.and_true] at h ⊢; exact h)
  refine ⟨fits_mk (by decide) hl h3 (by decide) (by omega) ?_ ?_, ?_, hs, ?_⟩
  · intro e; rw [e] at hf; simp at hf
  · intro e; rw [e] at hf; simp at hf
  · simp only [form_mk, opc_mk]; rw [show formsOf 0xA6 = [.e] from by decide]; exact hf
  · rw [show parse (mkRaw f 0xA6 0 (w.toNat) 0 (Src.reg a) (Src.reg 0) (Src.reg 0)) = parseWeirsetSet (mkRaw f 0xA6 0 (w.toNat) 0 (Src.reg a) (Src.reg 0) (Src.reg 0)) from by simp [parse, parseRowA, opc_mk, sub_mk]]
    have e0 : (w.toNat) / 2 ^ 0 % 2 ^ 5 = w.toNat := by omega
    unfold parseWeirsetSet
    simp only [m_mk, fr_mk, ra_mk, e0]
    try simp [Option.bind, toNat_beq_one, toNat_eq_one, boolOfCode_toNat, Header.ofWord_toWord]

theorem weirsetClr (f : Fr) (w : BitVec 5) : Statement (.weirsetClr f w) := by
  intro h r hr
  obtain rfl := Option.some.inj hr
  replace h : (f.ok [.e] true && f.form.litsOk false false false && f.holdsOk false false false) = true := h
  simp only [Bool.and_eq_true] at h
  obtain ⟨⟨h0, h1⟩, h2⟩ := h
  obtain ⟨hf, hs⟩ := Fr.ok_forms h0
  have := w.isLt
  have hl : f.form.litsOk ((Src.reg 0)).isLit ((Src.reg 0)).isLit ((Src.reg 0)).isLit = true := by
    have h := h1
    first | exact h | (simp only [isLit_reg, isLit_lit, isLit_offset, Option.getD, Option.any, Bool.not_false, Bool.and_true] at h ⊢; exact h)
  refine ⟨fits_mk (by decide) hl h2 (by decide) (by omega) ?_ ?_, ?_, hs, ?_⟩
  · intro e; rw [e] at hf; simp at hf
  · intro e; rw [e] at hf; simp at hf
  · simp only [form_mk, opc_mk]; rw [show formsOf 0xA6 = [.e] from by decide]; exact hf
  · rw [show parse (mkRaw f 0xA6 1 (w.toNat) 0 (Src.reg 0) (Src.reg 0) (Src.reg 0)) = parseWeirsetClr (mkRaw f 0xA6 1 (w.toNat) 0 (Src.reg 0) (Src.reg 0) (Src.reg 0)) from by simp [parse, parseRowA, opc_mk, sub_mk]]
    have e0 : (w.toNat) / 2 ^ 0 % 2 ^ 5 = w.toNat := by omega
    unfold parseWeirsetClr
    simp only [m_mk, fr_mk, e0]
    try simp [Option.bind, toNat_beq_one, toNat_eq_one, boolOfCode_toNat, Header.ofWord_toWord]

theorem engsyncCmp (f : Fr) : Statement (.engsyncCmp f) := by
  intro h r hr
  obtain rfl := Option.some.inj hr
  replace h : (f.ok [.e] true && f.form.litsOk false false false && f.holdsOk false false false) = true := h
  simp only [Bool.and_eq_true] at h
  obtain ⟨⟨h0, h1⟩, h2⟩ := h
  obtain ⟨hf, hs⟩ := Fr.ok_forms h0
  have hl : f.form.litsOk ((Src.reg 0)).isLit ((Src.reg 0)).isLit ((Src.reg 0)).isLit = true := by
    have h := h1
    first | exact h | (simp only [isLit_reg, isLit_lit, isLit_offset, Option.getD, Option.any, Bool.not_false, Bool.and_true] at h ⊢; exact h)
  refine ⟨fits_mk (by decide) hl h2 (by decide) (by decide) ?_ ?_, ?_, hs, ?_⟩
  · intro e; rw [e] at hf; simp at hf
  · intro e; rw [e] at hf; simp at hf
  · simp only [form_mk, opc_mk]; rw [show formsOf 0xA7 = [.e] from by decide]; exact hf
  · rw [show parse (mkRaw f 0xA7 0 (0) 0 (Src.reg 0) (Src.reg 0) (Src.reg 0)) = parseEngsyncCmp (mkRaw f 0xA7 0 (0) 0 (Src.reg 0) (Src.reg 0) (Src.reg 0)) from by simp [parse, parseRowA, opc_mk, sub_mk]]
    unfold parseEngsyncCmp
    simp only [m_mk, fr_mk]
    try simp [Option.bind, toNat_beq_one, toNat_eq_one, boolOfCode_toNat, Header.ofWord_toWord]

theorem engsyncPub (f : Fr) (scope : Scope) : Statement (.engsyncPub f scope) := by
  intro h r hr
  obtain rfl := Option.some.inj hr
  replace h : (f.ok [.e] true && f.form.litsOk false false false && f.holdsOk false false false) = true := h
  simp only [Bool.and_eq_true] at h
  obtain ⟨⟨h0, h1⟩, h2⟩ := h
  obtain ⟨hf, hs⟩ := Fr.ok_forms h0
  have := Scope.code_lt scope
  have hl : f.form.litsOk ((Src.reg 0)).isLit ((Src.reg 0)).isLit ((Src.reg 0)).isLit = true := by
    have h := h1
    first | exact h | (simp only [isLit_reg, isLit_lit, isLit_offset, Option.getD, Option.any, Bool.not_false, Bool.and_true] at h ⊢; exact h)
  refine ⟨fits_mk (by decide) hl h2 (by decide) (by omega) ?_ ?_, ?_, hs, ?_⟩
  · intro e; rw [e] at hf; simp at hf
  · intro e; rw [e] at hf; simp at hf
  · simp only [form_mk, opc_mk]; rw [show formsOf 0xA7 = [.e] from by decide]; exact hf
  · rw [show parse (mkRaw f 0xA7 1 (256 * scope.code) 0 (Src.reg 0) (Src.reg 0) (Src.reg 0)) = parseEngsyncPub (mkRaw f 0xA7 1 (256 * scope.code) 0 (Src.reg 0) (Src.reg 0) (Src.reg 0)) from by simp [parse, parseRowA, opc_mk, sub_mk]]
    have e0 : (256 * scope.code) / 2 ^ 8 % 2 ^ 4 = scope.code := by omega
    unfold parseEngsyncPub
    simp only [m_mk, fr_mk, e0]
    try simp [Option.bind, toNat_beq_one, toNat_eq_one, boolOfCode_toNat, Header.ofWord_toWord, Scope.ofCode_code]

theorem convene (f : Fr) (d : Reg) (rid : BitVec 2) (kc : BitVec 3) : Statement (.convene f d rid kc) := by
  intro h r hr
  obtain rfl := Option.some.inj hr
  replace h : (f.ok [.e] false && d.ok && f.form.litsOk false false false && f.holdsOk false false false) = true := h
  simp only [Bool.and_eq_true] at h
  obtain ⟨⟨⟨h0, h1⟩, h2⟩, h3⟩ := h
  obtain ⟨hf, hs⟩ := Fr.ok_forms h0
  have := rid.isLt
  have := kc.isLt
  have hl : f.form.litsOk ((Src.reg 0)).isLit ((Src.reg 0)).isLit ((Src.reg 0)).isLit = true := by
    have h := h2
    first | exact h | (simp only [isLit_reg, isLit_lit, isLit_offset, Option.getD, Option.any, Bool.not_false, Bool.and_true] at h ⊢; exact h)
  refine ⟨fits_mk (by decide) hl h3 (by decide) (by omega) ?_ ?_, ?_, hs, ?_⟩
  · intro e; rw [e] at hf; simp at hf
  · intro e; rw [e] at hf; simp at hf
  · simp only [form_mk, opc_mk]; rw [show formsOf 0xB0 = [.e] from by decide]; exact hf
  · rw [show parse (mkRaw f 0xB0 0 (rid.toNat + 4 * kc.toNat) d (Src.reg 0) (Src.reg 0) (Src.reg 0)) = parseConvene (mkRaw f 0xB0 0 (rid.toNat + 4 * kc.toNat) d (Src.reg 0) (Src.reg 0) (Src.reg 0)) from by simp [parse, parseRowB, opc_mk, sub_mk]]
    have e0 : (rid.toNat + 4 * kc.toNat) / 2 ^ 0 % 2 ^ 2 = rid.toNat := by omega
    have e1 : (rid.toNat + 4 * kc.toNat) / 2 ^ 2 % 2 ^ 3 = kc.toNat := by clear e0; omega
    unfold parseConvene
    simp only [m_mk, fr_mk, rd_mk, e0, e1]
    try simp [Option.bind, toNat_beq_one, toNat_eq_one, boolOfCode_toNat, Header.ofWord_toWord]

theorem disband (f : Fr) : Statement (.disband f) := by
  intro h r hr
  obtain rfl := Option.some.inj hr
  replace h : (f.ok [.s] false && f.form.litsOk false false false && f.holdsOk false false false) = true := h
  simp only [Bool.and_eq_true] at h
  obtain ⟨⟨h0, h1⟩, h2⟩ := h
  obtain ⟨hf, hs⟩ := Fr.ok_forms h0
  have hl : f.form.litsOk ((Src.reg 0)).isLit ((Src.reg 0)).isLit ((Src.reg 0)).isLit = true := by
    have h := h1
    first | exact h | (simp only [isLit_reg, isLit_lit, isLit_offset, Option.getD, Option.any, Bool.not_false, Bool.and_true] at h ⊢; exact h)
  refine ⟨fits_mk (by decide) hl h2 (by decide) (by decide) ?_ ?_, ?_, hs, ?_⟩
  · intro e; decide
  · intro e; rw [e] at hf; simp at hf
  · simp only [form_mk, opc_mk]; rw [show formsOf 0xB1 = [.s] from by decide]; exact hf
  · rw [show parse (mkRaw f 0xB1 0 (0) 0 (Src.reg 0) (Src.reg 0) (Src.reg 0)) = parseDisband (mkRaw f 0xB1 0 (0) 0 (Src.reg 0) (Src.reg 0) (Src.reg 0)) from by simp [parse, parseRowB, opc_mk, sub_mk]]
    unfold parseDisband
    simp only [m_mk, fr_mk]
    try simp [Option.bind, toNat_beq_one, toNat_eq_one, boolOfCode_toNat, Header.ofWord_toWord]

theorem tmma (f : Fr) (a : Reg) (b : Reg) (hdr : Header) : Statement (.tmma f a b hdr) := by
  intro h r hr
  obtain rfl := Option.some.inj hr
  replace h : (f.ok [.w] false && a.ok && b.ok && f.form.litsOk false false true && f.holdsOk true true true && hdr.opOk a b && decide (hdr.okTmma)) = true := h
  simp only [Bool.and_eq_true] at h
  obtain ⟨⟨⟨⟨⟨⟨h0, h1⟩, h2⟩, h3⟩, h4⟩, h5⟩, h6⟩ := h
  obtain ⟨hf, hs⟩ := Fr.ok_forms h0
  have hl : f.form.litsOk ((Src.reg a)).isLit ((Src.reg b)).isLit ((Src.lit hdr.toWord)).isLit = true := by
    have h := h3
    first | exact h | (simp only [isLit_reg, isLit_lit, isLit_offset, Option.getD, Option.any, Bool.not_false, Bool.and_true] at h ⊢; exact h)
  refine ⟨fits_mk (by decide) hl h4 (by decide) (by decide) ?_ ?_, ?_, hs, ?_⟩
  · intro e; rw [e] at hf; simp at hf
  · intro e; rw [e] at hf; simp at hf
  · simp only [form_mk, opc_mk]; rw [show formsOf 0xB2 = [.w] from by decide]; exact hf
  · rw [show parse (mkRaw f 0xB2 0 (0) 0 (Src.reg a) (Src.reg b) (Src.lit hdr.toWord)) = parseTmma (mkRaw f 0xB2 0 (0) 0 (Src.reg a) (Src.reg b) (Src.lit hdr.toWord)) from by simp [parse, parseRowB, opc_mk, sub_mk]]
    unfold parseTmma
    simp only [m_mk, fr_mk, ra_mk, rb_mk, lit_mk hl, Header.ofWord_toWord]
    try simp [Option.bind, toNat_beq_one, toNat_eq_one, boolOfCode_toNat, Header.ofWord_toWord]

theorem tmmaw (f : Fr) (a : Reg) (b : Reg) (hdr : Header) (grp : Grp) : Statement (.tmmaw f a b hdr grp) := by
  intro h r hr
  obtain rfl := Option.some.inj hr
  replace h : (f.ok [.w] false && a.ok && b.ok && f.form.litsOk false false true && f.holdsOk true true true && hdr.opOk a b && decide (hdr.okTmmaw grp)) = true := h
  simp only [Bool.and_eq_true] at h
  obtain ⟨⟨⟨⟨⟨⟨h0, h1⟩, h2⟩, h3⟩, h4⟩, h5⟩, h6⟩ := h
  obtain ⟨hf, hs⟩ := Fr.ok_forms h0
  have := Grp.code_lt grp
  have hl : f.form.litsOk ((Src.reg a)).isLit ((Src.reg b)).isLit ((Src.lit hdr.toWord)).isLit = true := by
    have h := h3
    first | exact h | (simp only [isLit_reg, isLit_lit, isLit_offset, Option.getD, Option.any, Bool.not_false, Bool.and_true] at h ⊢; exact h)
  refine ⟨fits_mk (by decide) hl h4 (by decide) (by omega) ?_ ?_, ?_, hs, ?_⟩
  · intro e; rw [e] at hf; simp at hf
  · intro e; rw [e] at hf; simp at hf
  · simp only [form_mk, opc_mk]; rw [show formsOf 0xB3 = [.w] from by decide]; exact hf
  · rw [show parse (mkRaw f 0xB3 0 (grp.code) 0 (Src.reg a) (Src.reg b) (Src.lit hdr.toWord)) = parseTmmaw (mkRaw f 0xB3 0 (grp.code) 0 (Src.reg a) (Src.reg b) (Src.lit hdr.toWord)) from by simp [parse, parseRowB, opc_mk, sub_mk]]
    have e0 : (grp.code) / 2 ^ 0 % 2 ^ 2 = grp.code := by omega
    unfold parseTmmaw
    simp only [m_mk, fr_mk, ra_mk, rb_mk, lit_mk hl, Header.ofWord_toWord, e0]
    try simp [Option.bind, toNat_beq_one, toNat_eq_one, boolOfCode_toNat, Header.ofWord_toWord, Grp.ofCode_code]

theorem tmmaz (f : Fr) (a : Reg) (b : Reg) (hdr : Header) (grp : Grp) : Statement (.tmmaz f a b hdr grp) := by
  intro h r hr
  obtain rfl := Option.some.inj hr
  replace h : (f.ok [.w] false && a.ok && b.ok && f.form.litsOk false false true && f.holdsOk true true true && hdr.opOk a b && decide (hdr.okTmmaz)) = true := h
  simp only [Bool.and_eq_true] at h
  obtain ⟨⟨⟨⟨⟨⟨h0, h1⟩, h2⟩, h3⟩, h4⟩, h5⟩, h6⟩ := h
  obtain ⟨hf, hs⟩ := Fr.ok_forms h0
  have := Grp.code_lt grp
  have hl : f.form.litsOk ((Src.reg a)).isLit ((Src.reg b)).isLit ((Src.lit hdr.toWord)).isLit = true := by
    have h := h3
    first | exact h | (simp only [isLit_reg, isLit_lit, isLit_offset, Option.getD, Option.any, Bool.not_false, Bool.and_true] at h ⊢; exact h)
  refine ⟨fits_mk (by decide) hl h4 (by decide) (by omega) ?_ ?_, ?_, hs, ?_⟩
  · intro e; rw [e] at hf; simp at hf
  · intro e; rw [e] at hf; simp at hf
  · simp only [form_mk, opc_mk]; rw [show formsOf 0xB4 = [.w] from by decide]; exact hf
  · rw [show parse (mkRaw f 0xB4 0 (grp.code) 0 (Src.reg a) (Src.reg b) (Src.lit hdr.toWord)) = parseTmmaz (mkRaw f 0xB4 0 (grp.code) 0 (Src.reg a) (Src.reg b) (Src.lit hdr.toWord)) from by simp [parse, parseRowB, opc_mk, sub_mk]]
    have e0 : (grp.code) / 2 ^ 0 % 2 ^ 2 = grp.code := by omega
    unfold parseTmmaz
    simp only [m_mk, fr_mk, ra_mk, rb_mk, lit_mk hl, Header.ofWord_toWord, e0]
    try simp [Option.bind, toNat_beq_one, toNat_eq_one, boolOfCode_toNat, Header.ofWord_toWord, Grp.ofCode_code]

theorem tmmas (f : Fr) (a : Reg) (b : Reg) (hdr : Header) : Statement (.tmmas f a b hdr) := by
  intro h r hr
  obtain rfl := Option.some.inj hr
  replace h : (f.ok [.w] false && a.ok && b.ok && f.form.litsOk false false true && f.holdsOk true true true && hdr.opOk a b && decide (hdr.okTmmas)) = true := h
  simp only [Bool.and_eq_true] at h
  obtain ⟨⟨⟨⟨⟨⟨h0, h1⟩, h2⟩, h3⟩, h4⟩, h5⟩, h6⟩ := h
  obtain ⟨hf, hs⟩ := Fr.ok_forms h0
  have hl : f.form.litsOk ((Src.reg a)).isLit ((Src.reg b)).isLit ((Src.lit hdr.toWord)).isLit = true := by
    have h := h3
    first | exact h | (simp only [isLit_reg, isLit_lit, isLit_offset, Option.getD, Option.any, Bool.not_false, Bool.and_true] at h ⊢; exact h)
  refine ⟨fits_mk (by decide) hl h4 (by decide) (by decide) ?_ ?_, ?_, hs, ?_⟩
  · intro e; rw [e] at hf; simp at hf
  · intro e; rw [e] at hf; simp at hf
  · simp only [form_mk, opc_mk]; rw [show formsOf 0xBF = [.w] from by decide]; exact hf
  · rw [show parse (mkRaw f 0xBF 0 (0) 0 (Src.reg a) (Src.reg b) (Src.lit hdr.toWord)) = parseTmmas (mkRaw f 0xBF 0 (0) 0 (Src.reg a) (Src.reg b) (Src.lit hdr.toWord)) from by simp [parse, parseRowB, opc_mk, sub_mk]]
    unfold parseTmmas
    simp only [m_mk, fr_mk, ra_mk, rb_mk, lit_mk hl, Header.ofWord_toWord]
    try simp [Option.bind, toNat_beq_one, toNat_eq_one, boolOfCode_toNat, Header.ofWord_toWord]

theorem taccZero (f : Fr) (a : Src) : Statement (.taccZero f a) := by
  intro h r hr
  obtain rfl := Option.some.inj hr
  replace h : (f.ok [.e, .w] false && a.ok && f.form.litsOk a.isLit false false && f.holdsOk true false false) = true := h
  simp only [Bool.and_eq_true] at h
  obtain ⟨⟨⟨h0, h1⟩, h2⟩, h3⟩ := h
  obtain ⟨hf, hs⟩ := Fr.ok_forms h0
  have hl : f.form.litsOk (a).isLit ((Src.reg 0)).isLit ((Src.reg 0)).isLit = true := by
    have h := h2
    first | exact h | (simp only [isLit_reg, isLit_lit, isLit_offset, Option.getD, Option.any, Bool.not_false, Bool.and_true] at h ⊢; exact h)
  refine ⟨fits_mk (by decide) hl h3 (by decide) (by decide) ?_ ?_, ?_, hs, ?_⟩
  · intro e; rw [e] at hf; simp at hf
  · intro e; rw [e] at hf; simp at hf
  · simp only [form_mk, opc_mk]; rw [show formsOf 0xB5 = [.e, .w] from by decide]; exact hf
  · rw [show parse (mkRaw f 0xB5 0 (0) 0 a (Src.reg 0) (Src.reg 0)) = parseTaccZero (mkRaw f 0xB5 0 (0) 0 a (Src.reg 0) (Src.reg 0)) from by simp [parse, parseRowB, opc_mk, sub_mk]]
    unfold parseTaccZero
    simp only [m_mk, fr_mk, sa_mk hl]
    try simp [Option.bind, toNat_beq_one, toNat_eq_one, boolOfCode_toNat, Header.ofWord_toWord]

theorem taccLive (f : Fr) (a : Src) : Statement (.taccLive f a) := by
  intro h r hr
  obtain rfl := Option.some.inj hr
  replace h : (f.ok [.e, .w] false && a.ok && f.form.litsOk a.isLit false false && f.holdsOk true false false) = true := h
  simp only [Bool.and_eq_true] at h
  obtain ⟨⟨⟨h0, h1⟩, h2⟩, h3⟩ := h
  obtain ⟨hf, hs⟩ := Fr.ok_forms h0
  have hl : f.form.litsOk (a).isLit ((Src.reg 0)).isLit ((Src.reg 0)).isLit = true := by
    have h := h2
    first | exact h | (simp only [isLit_reg, isLit_lit, isLit_offset, Option.getD, Option.any, Bool.not_false, Bool.and_true] at h ⊢; exact h)
  refine ⟨fits_mk (by decide) hl h3 (by decide) (by decide) ?_ ?_, ?_, hs, ?_⟩
  · intro e; rw [e] at hf; simp at hf
  · intro e; rw [e] at hf; simp at hf
  · simp only [form_mk, opc_mk]; rw [show formsOf 0xB5 = [.e, .w] from by decide]; exact hf
  · rw [show parse (mkRaw f 0xB5 1 (0) 0 a (Src.reg 0) (Src.reg 0)) = parseTaccLive (mkRaw f 0xB5 1 (0) 0 a (Src.reg 0) (Src.reg 0)) from by simp [parse, parseRowB, opc_mk, sub_mk]]
    unfold parseTaccLive
    simp only [m_mk, fr_mk, sa_mk hl]
    try simp [Option.bind, toNat_beq_one, toNat_eq_one, boolOfCode_toNat, Header.ofWord_toWord]

theorem taccDead (f : Fr) (a : Src) : Statement (.taccDead f a) := by
  intro h r hr
  obtain rfl := Option.some.inj hr
  replace h : (f.ok [.e, .w] false && a.ok && f.form.litsOk a.isLit false false && f.holdsOk true false false) = true := h
  simp only [Bool.and_eq_true] at h
  obtain ⟨⟨⟨h0, h1⟩, h2⟩, h3⟩ := h
  obtain ⟨hf, hs⟩ := Fr.ok_forms h0
  have hl : f.form.litsOk (a).isLit ((Src.reg 0)).isLit ((Src.reg 0)).isLit = true := by
    have h := h2
    first | exact h | (simp only [isLit_reg, isLit_lit, isLit_offset, Option.getD, Option.any, Bool.not_false, Bool.and_true] at h ⊢; exact h)
  refine ⟨fits_mk (by decide) hl h3 (by decide) (by decide) ?_ ?_, ?_, hs, ?_⟩
  · intro e; rw [e] at hf; simp at hf
  · intro e; rw [e] at hf; simp at hf
  · simp only [form_mk, opc_mk]; rw [show formsOf 0xB5 = [.e, .w] from by decide]; exact hf
  · rw [show parse (mkRaw f 0xB5 2 (0) 0 a (Src.reg 0) (Src.reg 0)) = parseTaccDead (mkRaw f 0xB5 2 (0) 0 a (Src.reg 0) (Src.reg 0)) from by simp [parse, parseRowB, opc_mk, sub_mk]]
    unfold parseTaccDead
    simp only [m_mk, fr_mk, sa_mk hl]
    try simp [Option.bind, toNat_beq_one, toNat_eq_one, boolOfCode_toNat, Header.ofWord_toWord]

theorem taccMul (f : Fr) (a : Src) (c : Src) : Statement (.taccMul f a c) := by
  intro h r hr
  obtain rfl := Option.some.inj hr
  replace h : (f.ok [.e, .w] false && a.ok && c.ok && f.form.litsOk a.isLit false c.isLit && f.holdsOk true false true) = true := h
  simp only [Bool.and_eq_true] at h
  obtain ⟨⟨⟨⟨h0, h1⟩, h2⟩, h3⟩, h4⟩ := h
  obtain ⟨hf, hs⟩ := Fr.ok_forms h0
  have hl : f.form.litsOk (a).isLit ((Src.reg 0)).isLit (c).isLit = true := by
    have h := h3
    first | exact h | (simp only [isLit_reg, isLit_lit, isLit_offset, Option.getD, Option.any, Bool.not_false, Bool.and_true] at h ⊢; exact h)
  refine ⟨fits_mk (by decide) hl h4 (by decide) (by decide) ?_ ?_, ?_, hs, ?_⟩
  · intro e; rw [e] at hf; simp at hf
  · intro e; rw [e] at hf; simp at hf
  · simp only [form_mk, opc_mk]; rw [show formsOf 0xB5 = [.e, .w] from by decide]; exact hf
  · rw [show parse (mkRaw f 0xB5 3 (0) 0 a (Src.reg 0) c) = parseTaccMul (mkRaw f 0xB5 3 (0) 0 a (Src.reg 0) c) from by simp [parse, parseRowB, opc_mk, sub_mk]]
    unfold parseTaccMul
    simp only [m_mk, fr_mk, sa_mk hl, sc_mk hl]
    try simp [Option.bind, toNat_beq_one, toNat_eq_one, boolOfCode_toNat, Header.ofWord_toWord]

theorem trdReg (f : Fr) (d : Reg) (a : Src) (dt : Elem) (q : BitVec 2) (rnd : Rnd) : Statement (.trdReg f d a dt q rnd) := by
  intro h r hr
  obtain rfl := Option.some.inj hr
  replace h : (f.ok [.e, .w] false && d.spanOk && a.ok && f.form.litsOk a.isLit false false && f.holdsOk true false false && decide (rnd ≠ .sr ∧ dt.isReg)) = true := h
  simp only [Bool.and_eq_true] at h
  obtain ⟨⟨⟨⟨⟨h0, h1⟩, h2⟩, h3⟩, h4⟩, h5⟩ := h
  obtain ⟨hf, hs⟩ := Fr.ok_forms h0
  have := Elem.code_lt dt
  have := q.isLt
  have := Rnd.code_lt rnd
  have hl : f.form.litsOk (a).isLit ((Src.reg 0)).isLit ((Src.reg 0)).isLit = true := by
    have h := h3
    first | exact h | (simp only [isLit_reg, isLit_lit, isLit_offset, Option.getD, Option.any, Bool.not_false, Bool.and_true] at h ⊢; exact h)
  refine ⟨fits_mk (by decide) hl h4 (by decide) (by omega) ?_ ?_, ?_, hs, ?_⟩
  · intro e; rw [e] at hf; simp at hf
  · intro e; rw [e] at hf; simp at hf
  · simp only [form_mk, opc_mk]; rw [show formsOf 0xB6 = [.e, .w] from by decide]; exact hf
  · rw [show parse (mkRaw f 0xB6 0 (dt.code + 32 * q.toNat + 128 * rnd.code) d a (Src.reg 0) (Src.reg 0)) = parseTrdReg (mkRaw f 0xB6 0 (dt.code + 32 * q.toNat + 128 * rnd.code) d a (Src.reg 0) (Src.reg 0)) from by simp [parse, parseRowB, opc_mk, sub_mk]]
    have e0 : (dt.code + 32 * q.toNat + 128 * rnd.code) / 2 ^ 0 % 2 ^ 5 = dt.code := by omega
    have e1 : (dt.code + 32 * q.toNat + 128 * rnd.code) / 2 ^ 5 % 2 ^ 2 = q.toNat := by clear e0; omega
    have e2 : (dt.code + 32 * q.toNat + 128 * rnd.code) / 2 ^ 7 % 2 ^ 3 = rnd.code := by clear e0 e1; omega
    unfold parseTrdReg
    simp only [m_mk, fr_mk, rd_mk, sa_mk hl, e0, e1, e2]
    try simp [Option.bind, toNat_beq_one, toNat_eq_one, boolOfCode_toNat, Header.ofWord_toWord, Elem.ofCode_code, Rnd.ofCode_code]

theorem trdRec (f : Fr) (a : Src) (b : Reg) (c : Src) (dt : Elem) (rnd : Rnd) (ocp : Bool) : Statement (.trdRec f a b c dt rnd ocp) := by
  intro h r hr
  obtain rfl := Option.some.inj hr
  replace h : (f.ok [.e, .w] false && a.ok && b.pairOk && c.ok && f.form.litsOk a.isLit false c.isLit && f.holdsOk true true true && decide (dt.isRec)) = true := h
  simp only [Bool.and_eq_true] at h
  obtain ⟨⟨⟨⟨⟨⟨h0, h1⟩, h2⟩, h3⟩, h4⟩, h5⟩, h6⟩ := h
  obtain ⟨hf, hs⟩ := Fr.ok_forms h0
  have := Elem.code_lt dt
  have := Rnd.code_lt rnd
  have := Bool.toNat_lt ocp
  have hl : f.form.litsOk (a).isLit ((Src.reg b)).isLit (c).isLit = true := by
    have h := h4
    first | exact h | (simp only [isLit_reg, isLit_lit, isLit_offset, Option.getD, Option.any, Bool.not_false, Bool.and_true] at h ⊢; exact h)
  refine ⟨fits_mk (by decide) hl h5 (by decide) (by omega) ?_ ?_, ?_, hs, ?_⟩
  · intro e; rw [e] at hf; simp at hf
  · intro e; rw [e] at hf; simp at hf
  · simp only [form_mk, opc_mk]; rw [show formsOf 0xB6 = [.e, .w] from by decide]; exact hf
  · rw [show parse (mkRaw f 0xB6 1 (dt.code + 32 * rnd.code + 256 * ocp.toNat) 0 a (Src.reg b) c) = parseTrdRec (mkRaw f 0xB6 1 (dt.code + 32 * rnd.code + 256 * ocp.toNat) 0 a (Src.reg b) c) from by simp [parse, parseRowB, opc_mk, sub_mk]]
    have e0 : (dt.code + 32 * rnd.code + 256 * ocp.toNat) / 2 ^ 0 % 2 ^ 5 = dt.code := by omega
    have e1 : (dt.code + 32 * rnd.code + 256 * ocp.toNat) / 2 ^ 5 % 2 ^ 3 = rnd.code := by clear e0; omega
    have e2 : (dt.code + 32 * rnd.code + 256 * ocp.toNat) / 2 ^ 8 % 2 ^ 1 = ocp.toNat := by clear e0 e1; omega
    unfold parseTrdRec
    simp only [m_mk, fr_mk, rb_mk, sa_mk hl, sc_mk hl, e0, e1, e2]
    try simp [Option.bind, toNat_beq_one, toNat_eq_one, boolOfCode_toNat, Header.ofWord_toWord, Elem.ofCode_code, Rnd.ofCode_code]

theorem twrReg (f : Fr) (d : Reg) (a : Src) (dt : Elem) (q : BitVec 2) : Statement (.twrReg f d a dt q) := by
  intro h r hr
  obtain rfl := Option.some.inj hr
  replace h : (f.ok [.e, .w] false && d.spanOk && a.ok && f.form.litsOk a.isLit false false && f.holdsOk true false false && decide (dt.isReg)) = true := h
  simp only [Bool.and_eq_true] at h
  obtain ⟨⟨⟨⟨⟨h0, h1⟩, h2⟩, h3⟩, h4⟩, h5⟩ := h
  obtain ⟨hf, hs⟩ := Fr.ok_forms h0
  have := Elem.code_lt dt
  have := q.isLt
  have hl : f.form.litsOk (a).isLit ((Src.reg 0)).isLit ((Src.reg 0)).isLit = true := by
    have h := h3
    first | exact h | (simp only [isLit_reg, isLit_lit, isLit_offset, Option.getD, Option.any, Bool.not_false, Bool.and_true] at h ⊢; exact h)
  refine ⟨fits_mk (by decide) hl h4 (by decide) (by omega) ?_ ?_, ?_, hs, ?_⟩
  · intro e; rw [e] at hf; simp at hf
  · intro e; rw [e] at hf; simp at hf
  · simp only [form_mk, opc_mk]; rw [show formsOf 0xB7 = [.e, .w] from by decide]; exact hf
  · rw [show parse (mkRaw f 0xB7 0 (dt.code + 32 * q.toNat) d a (Src.reg 0) (Src.reg 0)) = parseTwrReg (mkRaw f 0xB7 0 (dt.code + 32 * q.toNat) d a (Src.reg 0) (Src.reg 0)) from by simp [parse, parseRowB, opc_mk, sub_mk]]
    have e0 : (dt.code + 32 * q.toNat) / 2 ^ 0 % 2 ^ 5 = dt.code := by omega
    have e1 : (dt.code + 32 * q.toNat) / 2 ^ 5 % 2 ^ 2 = q.toNat := by clear e0; omega
    unfold parseTwrReg
    simp only [m_mk, fr_mk, rd_mk, sa_mk hl, e0, e1]
    try simp [Option.bind, toNat_beq_one, toNat_eq_one, boolOfCode_toNat, Header.ofWord_toWord, Elem.ofCode_code]

theorem twrRec (f : Fr) (a : Src) (b : Reg) (dt : Elem) : Statement (.twrRec f a b dt) := by
  intro h r hr
  obtain rfl := Option.some.inj hr
  replace h : (f.ok [.e, .w] false && a.ok && b.pairOk && f.form.litsOk a.isLit false false && f.holdsOk true true false && decide (dt.isRec)) = true := h
  simp only [Bool.and_eq_true] at h
  obtain ⟨⟨⟨⟨⟨h0, h1⟩, h2⟩, h3⟩, h4⟩, h5⟩ := h
  obtain ⟨hf, hs⟩ := Fr.ok_forms h0
  have := Elem.code_lt dt
  have hl : f.form.litsOk (a).isLit ((Src.reg b)).isLit ((Src.reg 0)).isLit = true := by
    have h := h3
    first | exact h | (simp only [isLit_reg, isLit_lit, isLit_offset, Option.getD, Option.any, Bool.not_false, Bool.and_true] at h ⊢; exact h)
  refine ⟨fits_mk (by decide) hl h4 (by decide) (by omega) ?_ ?_, ?_, hs, ?_⟩
  · intro e; rw [e] at hf; simp at hf
  · intro e; rw [e] at hf; simp at hf
  · simp only [form_mk, opc_mk]; rw [show formsOf 0xB7 = [.e, .w] from by decide]; exact hf
  · rw [show parse (mkRaw f 0xB7 1 (dt.code) 0 a (Src.reg b) (Src.reg 0)) = parseTwrRec (mkRaw f 0xB7 1 (dt.code) 0 a (Src.reg b) (Src.reg 0)) from by simp [parse, parseRowB, opc_mk, sub_mk]]
    have e0 : (dt.code) / 2 ^ 0 % 2 ^ 5 = dt.code := by omega
    unfold parseTwrRec
    simp only [m_mk, fr_mk, rb_mk, sa_mk hl, e0]
    try simp [Option.bind, toNat_beq_one, toNat_eq_one, boolOfCode_toNat, Header.ofWord_toWord, Elem.ofCode_code]

theorem tew (f : Fr) (fn : TewFn) (a : Src) (b : Option Src) (c : Option Src) (dtile : BitVec 11) (s : Bool) (s2 : Bool) : Statement (.tew f fn a b c dtile s s2) := by
  intro h r hr
  obtain rfl := Option.some.inj hr
  replace h : (f.ok [.e, .w] false && a.ok && b.all Src.ok && (b.isSome == decide (fn.binary)) && c.all Src.ok && (c.isSome == decide (fn = .scl)) && f.form.litsOk a.isLit (b.any Src.isLit) (c.any Src.isLit) && f.holdsOk true b.isSome c.isSome && decide (dtileOk dtile ∧ (s2 → fn.binary))) = true := h
  simp only [Bool.and_eq_true] at h
  obtain ⟨⟨⟨⟨⟨⟨⟨⟨h0, h1⟩, h2⟩, h3⟩, h4⟩, h5⟩, h6⟩, h7⟩, h8⟩ := h
  obtain ⟨hf, hs⟩ := Fr.ok_forms h0
  have := TewFn.code_lt fn
  have := Bool.toNat_lt b.isSome
  have := Bool.toNat_lt c.isSome
  have := dtile.isLt
  have := Bool.toNat_lt s
  have := Bool.toNat_lt s2
  have hl : f.form.litsOk (a).isLit ((b.getD (Src.reg 0))).isLit ((c.getD (Src.reg 0))).isLit = true := by
    have h := h6
    cases b <;> cases c <;> first | exact h | (simp only [isLit_reg, isLit_lit, isLit_offset, Option.getD, Option.any, Bool.not_false, Bool.and_true] at h ⊢; exact h)
  refine ⟨fits_mk (by decide) hl h7 (by omega) (by omega) ?_ ?_, ?_, hs, ?_⟩
  · intro e; rw [e] at hf; simp at hf
  · intro e; rw [e] at hf; simp at hf
  · simp only [form_mk, opc_mk]; rw [show formsOf 0xB8 = [.e, .w] from by decide]; exact hf
  · rw [show parse (mkRaw f 0xB8 fn.code (dtile.toNat + 2048 * s.toNat + 4096 * s2.toNat) 0 a (b.getD (Src.reg 0)) (c.getD (Src.reg 0))) = parseTew (mkRaw f 0xB8 fn.code (dtile.toNat + 2048 * s.toNat + 4096 * s2.toNat) 0 a (b.getD (Src.reg 0)) (c.getD (Src.reg 0))) from by simp [parse, parseRowB, opc_mk, sub_mk]]
    have e0 : (dtile.toNat + 2048 * s.toNat + 4096 * s2.toNat) / 2 ^ 0 % 2 ^ 11 = dtile.toNat := by omega
    have e1 : (dtile.toNat + 2048 * s.toNat + 4096 * s2.toNat) / 2 ^ 11 % 2 ^ 1 = s.toNat := by clear e0; omega
    have e2 : (dtile.toNat + 2048 * s.toNat + 4096 * s2.toNat) / 2 ^ 12 % 2 ^ 1 = s2.toNat := by clear e0 e1; omega
    unfold parseTew
    simp only [m_mk, fr_mk, sa_mk hl, sb_mk hl, sc_mk hl, sub_mk, e0, e1, e2]
    cases b <;> cases c <;> try simp [Option.bind, toNat_beq_one, toNat_eq_one, boolOfCode_toNat, Header.ofWord_toWord, TewFn.ofCode_code] <;> simp_all

theorem tred (f : Fr) (op : TredOp) (a : Src) (dtile : BitVec 11) (s : Bool) : Statement (.tred f op a dtile s) := by
  intro h r hr
  obtain rfl := Option.some.inj hr
  replace h : (f.ok [.e, .w] false && a.ok && f.form.litsOk a.isLit false false && f.holdsOk true false false && decide (dtileOk dtile)) = true := h
  simp only [Bool.and_eq_true] at h
  obtain ⟨⟨⟨⟨h0, h1⟩, h2⟩, h3⟩, h4⟩ := h
  obtain ⟨hf, hs⟩ := Fr.ok_forms h0
  have := TredOp.code_lt op
  have := dtile.isLt
  have := Bool.toNat_lt s
  have hl : f.form.litsOk (a).isLit ((Src.reg 0)).isLit ((Src.reg 0)).isLit = true := by
    have h := h2
    first | exact h | (simp only [isLit_reg, isLit_lit, isLit_offset, Option.getD, Option.any, Bool.not_false, Bool.and_true] at h ⊢; exact h)
  refine ⟨fits_mk (by decide) hl h3 (by omega) (by omega) ?_ ?_, ?_, hs, ?_⟩
  · intro e; rw [e] at hf; simp at hf
  · intro e; rw [e] at hf; simp at hf
  · simp only [form_mk, opc_mk]; rw [show formsOf 0xB9 = [.e, .w] from by decide]; exact hf
  · rw [show parse (mkRaw f 0xB9 op.code (dtile.toNat + 2048 * s.toNat) 0 a (Src.reg 0) (Src.reg 0)) = parseTred (mkRaw f 0xB9 op.code (dtile.toNat + 2048 * s.toNat) 0 a (Src.reg 0) (Src.reg 0)) from by simp [parse, parseRowB, opc_mk, sub_mk]]
    have e0 : (dtile.toNat + 2048 * s.toNat) / 2 ^ 0 % 2 ^ 11 = dtile.toNat := by omega
    have e1 : (dtile.toNat + 2048 * s.toNat) / 2 ^ 11 % 2 ^ 1 = s.toNat := by clear e0; omega
    unfold parseTred
    simp only [m_mk, fr_mk, sa_mk hl, sub_mk, e0, e1]
    try simp [Option.bind, toNat_beq_one, toNat_eq_one, boolOfCode_toNat, Header.ofWord_toWord, TredOp.ofCode_code]

theorem tsmx (f : Fr) (a : Src) (c : Option Src) (dtile : BitVec 11) (s : Bool) : Statement (.tsmx f a c dtile s) := by
  intro h r hr
  obtain rfl := Option.some.inj hr
  replace h : (f.ok [.e, .w] false && a.ok && c.all Src.ok && decide (c ≠ some (.reg 0)) && f.form.litsOk a.isLit false (c.any Src.isLit) && f.holdsOk true false c.isSome && decide (dtileOk dtile)) = true := h
  simp only [Bool.and_eq_true] at h
  obtain ⟨⟨⟨⟨⟨⟨h0, h1⟩, h2⟩, h3⟩, h4⟩, h5⟩, h6⟩ := h
  obtain ⟨hf, hs⟩ := Fr.ok_forms h0
  have := Bool.toNat_lt c.isSome
  have := dtile.isLt
  have := Bool.toNat_lt s
  have hl : f.form.litsOk (a).isLit ((Src.reg 0)).isLit ((c.getD (Src.reg 0))).isLit = true := by
    have h := h4
    cases c <;> first | exact h | (simp only [isLit_reg, isLit_lit, isLit_offset, Option.getD, Option.any, Bool.not_false, Bool.and_true] at h ⊢; exact h)
  refine ⟨fits_mk (by decide) hl h5 (by decide) (by omega) ?_ ?_, ?_, hs, ?_⟩
  · intro e; rw [e] at hf; simp at hf
  · intro e; rw [e] at hf; simp at hf
  · simp only [form_mk, opc_mk]; rw [show formsOf 0xBA = [.e, .w] from by decide]; exact hf
  · rw [show parse (mkRaw f 0xBA 0 (dtile.toNat + 2048 * s.toNat) 0 a (Src.reg 0) (c.getD (Src.reg 0))) = parseTsmx (mkRaw f 0xBA 0 (dtile.toNat + 2048 * s.toNat) 0 a (Src.reg 0) (c.getD (Src.reg 0))) from by simp [parse, parseRowB, opc_mk, sub_mk]]
    have e0 : (dtile.toNat + 2048 * s.toNat) / 2 ^ 0 % 2 ^ 11 = dtile.toNat := by omega
    have e1 : (dtile.toNat + 2048 * s.toNat) / 2 ^ 11 % 2 ^ 1 = s.toNat := by clear e0; omega
    unfold parseTsmx
    simp only [m_mk, fr_mk, sa_mk hl, sc_mk hl, e0, e1]
    cases c <;> try simp [Option.bind, toNat_beq_one, toNat_eq_one, boolOfCode_toNat, Header.ofWord_toWord] <;> simp_all

theorem tnorm (f : Fr) (a : Src) (c : Src) (dtile : BitVec 11) (s : Bool) : Statement (.tnorm f a c dtile s) := by
  intro h r hr
  obtain rfl := Option.some.inj hr
  replace h : (f.ok [.e, .w] false && a.ok && c.ok && f.form.litsOk a.isLit false c.isLit && f.holdsOk true false true && decide (dtileOk dtile)) = true := h
  simp only [Bool.and_eq_true] at h
  obtain ⟨⟨⟨⟨⟨h0, h1⟩, h2⟩, h3⟩, h4⟩, h5⟩ := h
  obtain ⟨hf, hs⟩ := Fr.ok_forms h0
  have := dtile.isLt
  have := Bool.toNat_lt s
  have hl : f.form.litsOk (a).isLit ((Src.reg 0)).isLit (c).isLit = true := by
    have h := h3
    first | exact h | (simp only [isLit_reg, isLit_lit, isLit_offset, Option.getD, Option.any, Bool.not_false, Bool.and_true] at h ⊢; exact h)
  refine ⟨fits_mk (by decide) hl h4 (by decide) (by omega) ?_ ?_, ?_, hs, ?_⟩
  · intro e; rw [e] at hf; simp at hf
  · intro e; rw [e] at hf; simp at hf
  · simp only [form_mk, opc_mk]; rw [show formsOf 0xBB = [.e, .w] from by decide]; exact hf
  · rw [show parse (mkRaw f 0xBB 0 (dtile.toNat + 2048 * s.toNat) 0 a (Src.reg 0) c) = parseTnorm (mkRaw f 0xBB 0 (dtile.toNat + 2048 * s.toNat) 0 a (Src.reg 0) c) from by simp [parse, parseRowB, opc_mk, sub_mk]]
    have e0 : (dtile.toNat + 2048 * s.toNat) / 2 ^ 0 % 2 ^ 11 = dtile.toNat := by omega
    have e1 : (dtile.toNat + 2048 * s.toNat) / 2 ^ 11 % 2 ^ 1 = s.toNat := by clear e0; omega
    unfold parseTnorm
    simp only [m_mk, fr_mk, sa_mk hl, sc_mk hl, e0, e1]
    try simp [Option.bind, toNat_beq_one, toNat_eq_one, boolOfCode_toNat, Header.ofWord_toWord]

theorem tcvt (f : Fr) (mode : SMode) (a : Src) (bf : BFmt) (rnd : Rnd) (strm : BitVec 8) : Statement (.tcvt f mode a bf rnd strm) := by
  intro h r hr
  obtain rfl := Option.some.inj hr
  replace h : (f.ok [.e, .w] false && a.ok && f.form.litsOk a.isLit false false && f.holdsOk true false false && decide ((rnd = .sr ∨ strm = 0) ∧ bf.isMx)) = true := h
  simp only [Bool.and_eq_true] at h
  obtain ⟨⟨⟨⟨h0, h1⟩, h2⟩, h3⟩, h4⟩ := h
  obtain ⟨hf, hs⟩ := Fr.ok_forms h0
  have := SMode.code_lt mode
  have := BFmt.code_lt bf
  have := Rnd.code_lt rnd
  have := strm.isLt
  have hl : f.form.litsOk (a).isLit ((Src.reg 0)).isLit ((Src.reg 0)).isLit = true := by
    have h := h2
    first | exact h | (simp only [isLit_reg, isLit_lit, isLit_offset, Option.getD, Option.any, Bool.not_false, Bool.and_true] at h ⊢; exact h)
  refine ⟨fits_mk (by decide) hl h3 (by omega) (by omega) ?_ ?_, ?_, hs, ?_⟩
  · intro e; rw [e] at hf; simp at hf
  · intro e; rw [e] at hf; simp at hf
  · simp only [form_mk, opc_mk]; rw [show formsOf 0xBC = [.e, .w] from by decide]; exact hf
  · rw [show parse (mkRaw f 0xBC mode.code (bf.code + 8 * rnd.code + 64 * strm.toNat) 0 a (Src.reg 0) (Src.reg 0)) = parseTcvt (mkRaw f 0xBC mode.code (bf.code + 8 * rnd.code + 64 * strm.toNat) 0 a (Src.reg 0) (Src.reg 0)) from by simp [parse, parseRowB, opc_mk, sub_mk]]
    have e0 : (bf.code + 8 * rnd.code + 64 * strm.toNat) / 2 ^ 0 % 2 ^ 3 = bf.code := by omega
    have e1 : (bf.code + 8 * rnd.code + 64 * strm.toNat) / 2 ^ 3 % 2 ^ 3 = rnd.code := by clear e0; omega
    have e2 : (bf.code + 8 * rnd.code + 64 * strm.toNat) / 2 ^ 6 % 2 ^ 8 = strm.toNat := by clear e0 e1; omega
    unfold parseTcvt
    simp only [m_mk, fr_mk, sa_mk hl, sub_mk, e0, e1, e2]
    try simp [Option.bind, toNat_beq_one, toNat_eq_one, boolOfCode_toNat, Header.ofWord_toWord, BFmt.ofCode_code, Rnd.ofCode_code, SMode.ofCode_code]

theorem bsload (f : Fr) (a : Reg) (b : Reg) (sp : Bool) : Statement (.bsload f a b sp) := by
  intro h r hr
  obtain rfl := Option.some.inj hr
  replace h : (f.ok [.e] true && a.pairOk && b.ok && f.form.litsOk false false false && f.holdsOk true true false) = true := h
  simp only [Bool.and_eq_true] at h
  obtain ⟨⟨⟨⟨h0, h1⟩, h2⟩, h3⟩, h4⟩ := h
  obtain ⟨hf, hs⟩ := Fr.ok_forms h0
  have := Bool.toNat_lt sp
  have hl : f.form.litsOk ((Src.reg a)).isLit ((Src.reg b)).isLit ((Src.reg 0)).isLit = true := by
    have h := h3
    first | exact h | (simp only [isLit_reg, isLit_lit, isLit_offset, Option.getD, Option.any, Bool.not_false, Bool.and_true] at h ⊢; exact h)
  refine ⟨fits_mk (by decide) hl h4 (by decide) (by omega) ?_ ?_, ?_, hs, ?_⟩
  · intro e; rw [e] at hf; simp at hf
  · intro e; rw [e] at hf; simp at hf
  · simp only [form_mk, opc_mk]; rw [show formsOf 0xBD = [.e] from by decide]; exact hf
  · rw [show parse (mkRaw f 0xBD 0 (sp.toNat) 0 (Src.reg a) (Src.reg b) (Src.reg 0)) = parseBsload (mkRaw f 0xBD 0 (sp.toNat) 0 (Src.reg a) (Src.reg b) (Src.reg 0)) from by simp [parse, parseRowB, opc_mk, sub_mk]]
    have e0 : (sp.toNat) / 2 ^ 0 % 2 ^ 1 = sp.toNat := by omega
    unfold parseBsload
    simp only [m_mk, fr_mk, ra_mk, rb_mk, e0]
    try simp [Option.bind, toNat_beq_one, toNat_eq_one, boolOfCode_toNat, Header.ofWord_toWord]

theorem rcfence (f : Fr) : Statement (.rcfence f) := by
  intro h r hr
  obtain rfl := Option.some.inj hr
  replace h : (f.ok [.s] true && f.form.litsOk false false false && f.holdsOk false false false) = true := h
  simp only [Bool.and_eq_true] at h
  obtain ⟨⟨h0, h1⟩, h2⟩ := h
  obtain ⟨hf, hs⟩ := Fr.ok_forms h0
  have hl : f.form.litsOk ((Src.reg 0)).isLit ((Src.reg 0)).isLit ((Src.reg 0)).isLit = true := by
    have h := h1
    first | exact h | (simp only [isLit_reg, isLit_lit, isLit_offset, Option.getD, Option.any, Bool.not_false, Bool.and_true] at h ⊢; exact h)
  refine ⟨fits_mk (by decide) hl h2 (by decide) (by decide) ?_ ?_, ?_, hs, ?_⟩
  · intro e; decide
  · intro e; rw [e] at hf; simp at hf
  · simp only [form_mk, opc_mk]; rw [show formsOf 0xBE = [.s] from by decide]; exact hf
  · rw [show parse (mkRaw f 0xBE 0 (0) 0 (Src.reg 0) (Src.reg 0) (Src.reg 0)) = parseRcfence (mkRaw f 0xBE 0 (0) 0 (Src.reg 0) (Src.reg 0) (Src.reg 0)) from by simp [parse, parseRowB, opc_mk, sub_mk]]
    unfold parseRcfence
    simp only [m_mk, fr_mk]
    try simp [Option.bind, toNat_beq_one, toNat_eq_one, boolOfCode_toNat, Header.ofWord_toWord]

theorem kvxlt (f : Fr) (d : Reg) (c2 : Reg) (a : Src) (b : Src) (n : BitVec 4) (acq : Bool) : Statement (.kvxlt f d c2 a b n acq) := by
  intro h r hr
  obtain rfl := Option.some.inj hr
  replace h : (f.ok [.e, .w] true && d.pairOk && c2.ok && a.ok && b.ok && f.form.litsOk a.isLit b.isLit false && f.holdsOk true true false && decide (d = c2 → d = 0)) = true := h
  simp only [Bool.and_eq_true] at h
  obtain ⟨⟨⟨⟨⟨⟨⟨h0, h1⟩, h2⟩, h3⟩, h4⟩, h5⟩, h6⟩, h7⟩ := h
  obtain ⟨hf, hs⟩ := Fr.ok_forms h0
  have := n.isLt
  have := Bool.toNat_lt acq
  have hl : f.form.litsOk (a).isLit (b).isLit ((Src.reg c2)).isLit = true := by
    have h := h5
    first | exact h | (simp only [isLit_reg, isLit_lit, isLit_offset, Option.getD, Option.any, Bool.not_false, Bool.and_true] at h ⊢; exact h)
  refine ⟨fits_mk (by decide) hl h6 (by decide) (by omega) ?_ ?_, ?_, hs, ?_⟩
  · intro e; rw [e] at hf; simp at hf
  · intro e; rw [e] at hf; simp at hf
  · simp only [form_mk, opc_mk]; rw [show formsOf 0xC0 = [.e, .w] from by decide]; exact hf
  · rw [show parse (mkRaw f 0xC0 0 (n.toNat + 16 * acq.toNat) d a b (Src.reg c2)) = parseKvxlt (mkRaw f 0xC0 0 (n.toNat + 16 * acq.toNat) d a b (Src.reg c2)) from by simp [parse, parseRowC, opc_mk, sub_mk]]
    have e0 : (n.toNat + 16 * acq.toNat) / 2 ^ 0 % 2 ^ 4 = n.toNat := by omega
    have e1 : (n.toNat + 16 * acq.toNat) / 2 ^ 4 % 2 ^ 1 = acq.toNat := by clear e0; omega
    unfold parseKvxlt
    simp only [m_mk, fr_mk, rd_mk, rc_mk, sa_mk hl, sb_mk hl, e0, e1]
    try simp [Option.bind, toNat_beq_one, toNat_eq_one, boolOfCode_toNat, Header.ofWord_toWord]

theorem kvapp (f : Fr) (d : Reg) (c2 : Reg) (a : Src) (n : BitVec 4) : Statement (.kvapp f d c2 a n) := by
  intro h r hr
  obtain rfl := Option.some.inj hr
  replace h : (f.ok [.e, .w] true && d.ok && c2.ok && a.ok && f.form.litsOk a.isLit false false && f.holdsOk true false false && decide (d = c2 → d = 0)) = true := h
  simp only [Bool.and_eq_true] at h
  obtain ⟨⟨⟨⟨⟨⟨h0, h1⟩, h2⟩, h3⟩, h4⟩, h5⟩, h6⟩ := h
  obtain ⟨hf, hs⟩ := Fr.ok_forms h0
  have := n.isLt
  have hl : f.form.litsOk (a).isLit ((Src.reg 0)).isLit ((Src.reg c2)).isLit = true := by
    have h := h4
    first | exact h | (simp only [isLit_reg, isLit_lit, isLit_offset, Option.getD, Option.any, Bool.not_false, Bool.and_true] at h ⊢; exact h)
  refine ⟨fits_mk (by decide) hl h5 (by decide) (by omega) ?_ ?_, ?_, hs, ?_⟩
  · intro e; rw [e] at hf; simp at hf
  · intro e; rw [e] at hf; simp at hf
  · simp only [form_mk, opc_mk]; rw [show formsOf 0xC1 = [.e, .w] from by decide]; exact hf
  · rw [show parse (mkRaw f 0xC1 0 (n.toNat) d a (Src.reg 0) (Src.reg c2)) = parseKvapp (mkRaw f 0xC1 0 (n.toNat) d a (Src.reg 0) (Src.reg c2)) from by simp [parse, parseRowC, opc_mk, sub_mk]]
    have e0 : (n.toNat) / 2 ^ 0 % 2 ^ 4 = n.toNat := by omega
    unfold parseKvapp
    simp only [m_mk, fr_mk, rd_mk, rc_mk, sa_mk hl, e0]
    try simp [Option.bind, toNat_beq_one, toNat_eq_one, boolOfCode_toNat, Header.ofWord_toWord]

theorem roleGet (f : Fr) (d : Reg) : Statement (.roleGet f d) := by
  intro h r hr
  obtain rfl := Option.some.inj hr
  replace h : (f.ok [.e] true && d.ok && f.form.litsOk false false false && f.holdsOk false false false) = true := h
  simp only [Bool.and_eq_true] at h
  obtain ⟨⟨⟨h0, h1⟩, h2⟩, h3⟩ := h
  obtain ⟨hf, hs⟩ := Fr.ok_forms h0
  have hl : f.form.litsOk ((Src.reg 0)).isLit ((Src.reg 0)).isLit ((Src.reg 0)).isLit = true := by
    have h := h2
    first | exact h | (simp only [isLit_reg, isLit_lit, isLit_offset, Option.getD, Option.any, Bool.not_false, Bool.and_true] at h ⊢; exact h)
  refine ⟨fits_mk (by decide) hl h3 (by decide) (by decide) ?_ ?_, ?_, hs, ?_⟩
  · intro e; rw [e] at hf; simp at hf
  · intro e; rw [e] at hf; simp at hf
  · simp only [form_mk, opc_mk]; rw [show formsOf 0xC2 = [.e] from by decide]; exact hf
  · rw [show parse (mkRaw f 0xC2 0 (0) d (Src.reg 0) (Src.reg 0) (Src.reg 0)) = parseRoleGet (mkRaw f 0xC2 0 (0) d (Src.reg 0) (Src.reg 0) (Src.reg 0)) from by simp [parse, parseRowC, opc_mk, sub_mk]]
    unfold parseRoleGet
    simp only [m_mk, fr_mk, rd_mk]
    try simp [Option.bind, toNat_beq_one, toNat_eq_one, boolOfCode_toNat, Header.ofWord_toWord]

theorem roleSet (f : Fr) (role : Role) : Statement (.roleSet f role) := by
  intro h r hr
  obtain rfl := Option.some.inj hr
  replace h : (f.ok [.e] true && f.form.litsOk false false false && f.holdsOk false false false) = true := h
  simp only [Bool.and_eq_true] at h
  obtain ⟨⟨h0, h1⟩, h2⟩ := h
  obtain ⟨hf, hs⟩ := Fr.ok_forms h0
  have := Role.code_lt role
  have hl : f.form.litsOk ((Src.reg 0)).isLit ((Src.reg 0)).isLit ((Src.reg 0)).isLit = true := by
    have h := h1
    first | exact h | (simp only [isLit_reg, isLit_lit, isLit_offset, Option.getD, Option.any, Bool.not_false, Bool.and_true] at h ⊢; exact h)
  refine ⟨fits_mk (by decide) hl h2 (by decide) (by omega) ?_ ?_, ?_, hs, ?_⟩
  · intro e; rw [e] at hf; simp at hf
  · intro e; rw [e] at hf; simp at hf
  · simp only [form_mk, opc_mk]; rw [show formsOf 0xC2 = [.e] from by decide]; exact hf
  · rw [show parse (mkRaw f 0xC2 1 (role.code) 0 (Src.reg 0) (Src.reg 0) (Src.reg 0)) = parseRoleSet (mkRaw f 0xC2 1 (role.code) 0 (Src.reg 0) (Src.reg 0) (Src.reg 0)) from by simp [parse, parseRowC, opc_mk, sub_mk]]
    have e0 : (role.code) / 2 ^ 0 % 2 ^ 3 = role.code := by omega
    unfold parseRoleSet
    simp only [m_mk, fr_mk, e0]
    try simp [Option.bind, toNat_beq_one, toNat_eq_one, boolOfCode_toNat, Header.ofWord_toWord, Role.ofCode_code]

theorem tbarInit (f : Fr) (d : Reg) (a : Reg) (n : BitVec 4) : Statement (.tbarInit f d a n) := by
  intro h r hr
  obtain rfl := Option.some.inj hr
  replace h : (f.ok [.e] true && d.ok && a.ok && f.form.litsOk false false false && f.holdsOk true false false) = true := h
  simp only [Bool.and_eq_true] at h
  obtain ⟨⟨⟨⟨h0, h1⟩, h2⟩, h3⟩, h4⟩ := h
  obtain ⟨hf, hs⟩ := Fr.ok_forms h0
  have := n.isLt
  have hl : f.form.litsOk ((Src.reg a)).isLit ((Src.reg 0)).isLit ((Src.reg 0)).isLit = true := by
    have h := h3
    first | exact h | (simp only [isLit_reg, isLit_lit, isLit_offset, Option.getD, Option.any, Bool.not_false, Bool.and_true] at h ⊢; exact h)
  refine ⟨fits_mk (by decide) hl h4 (by decide) (by omega) ?_ ?_, ?_, hs, ?_⟩
  · intro e; rw [e] at hf; simp at hf
  · intro e; rw [e] at hf; simp at hf
  · simp only [form_mk, opc_mk]; rw [show formsOf 0xC3 = [.e] from by decide]; exact hf
  · rw [show parse (mkRaw f 0xC3 0 (n.toNat) d (Src.reg a) (Src.reg 0) (Src.reg 0)) = parseTbarInit (mkRaw f 0xC3 0 (n.toNat) d (Src.reg a) (Src.reg 0) (Src.reg 0)) from by simp [parse, parseRowC, opc_mk, sub_mk]]
    have e0 : (n.toNat) / 2 ^ 0 % 2 ^ 4 = n.toNat := by omega
    unfold parseTbarInit
    simp only [m_mk, fr_mk, rd_mk, ra_mk, e0]
    try simp [Option.bind, toNat_beq_one, toNat_eq_one, boolOfCode_toNat, Header.ofWord_toWord]

theorem tbarArrive (f : Fr) (d : Reg) (a : Reg) (n : BitVec 4) : Statement (.tbarArrive f d a n) := by
  intro h r hr
  obtain rfl := Option.some.inj hr
  replace h : (f.ok [.e] true && d.ok && a.ok && f.form.litsOk false false false && f.holdsOk true false false) = true := h
  simp only [Bool.and_eq_true] at h
  obtain ⟨⟨⟨⟨h0, h1⟩, h2⟩, h3⟩, h4⟩ := h
  obtain ⟨hf, hs⟩ := Fr.ok_forms h0
  have := n.isLt
  have hl : f.form.litsOk ((Src.reg a)).isLit ((Src.reg 0)).isLit ((Src.reg 0)).isLit = true := by
    have h := h3
    first | exact h | (simp only [isLit_reg, isLit_lit, isLit_offset, Option.getD, Option.any, Bool.not_false, Bool.and_true] at h ⊢; exact h)
  refine ⟨fits_mk (by decide) hl h4 (by decide) (by omega) ?_ ?_, ?_, hs, ?_⟩
  · intro e; rw [e] at hf; simp at hf
  · intro e; rw [e] at hf; simp at hf
  · simp only [form_mk, opc_mk]; rw [show formsOf 0xC3 = [.e] from by decide]; exact hf
  · rw [show parse (mkRaw f 0xC3 1 (n.toNat) d (Src.reg a) (Src.reg 0) (Src.reg 0)) = parseTbarArrive (mkRaw f 0xC3 1 (n.toNat) d (Src.reg a) (Src.reg 0) (Src.reg 0)) from by simp [parse, parseRowC, opc_mk, sub_mk]]
    have e0 : (n.toNat) / 2 ^ 0 % 2 ^ 4 = n.toNat := by omega
    unfold parseTbarArrive
    simp only [m_mk, fr_mk, rd_mk, ra_mk, e0]
    try simp [Option.bind, toNat_beq_one, toNat_eq_one, boolOfCode_toNat, Header.ofWord_toWord]

theorem tbarWait (f : Fr) (d : Reg) (a : Reg) (n : BitVec 4) : Statement (.tbarWait f d a n) := by
  intro h r hr
  obtain rfl := Option.some.inj hr
  replace h : (f.ok [.e] true && d.ok && a.ok && f.form.litsOk false false false && f.holdsOk true false false) = true := h
  simp only [Bool.and_eq_true] at h
  obtain ⟨⟨⟨⟨h0, h1⟩, h2⟩, h3⟩, h4⟩ := h
  obtain ⟨hf, hs⟩ := Fr.ok_forms h0
  have := n.isLt
  have hl : f.form.litsOk ((Src.reg a)).isLit ((Src.reg 0)).isLit ((Src.reg 0)).isLit = true := by
    have h := h3
    first | exact h | (simp only [isLit_reg, isLit_lit, isLit_offset, Option.getD, Option.any, Bool.not_false, Bool.and_true] at h ⊢; exact h)
  refine ⟨fits_mk (by decide) hl h4 (by decide) (by omega) ?_ ?_, ?_, hs, ?_⟩
  · intro e; rw [e] at hf; simp at hf
  · intro e; rw [e] at hf; simp at hf
  · simp only [form_mk, opc_mk]; rw [show formsOf 0xC3 = [.e] from by decide]; exact hf
  · rw [show parse (mkRaw f 0xC3 2 (n.toNat) d (Src.reg a) (Src.reg 0) (Src.reg 0)) = parseTbarWait (mkRaw f 0xC3 2 (n.toNat) d (Src.reg a) (Src.reg 0) (Src.reg 0)) from by simp [parse, parseRowC, opc_mk, sub_mk]]
    have e0 : (n.toNat) / 2 ^ 0 % 2 ^ 4 = n.toNat := by omega
    unfold parseTbarWait
    simp only [m_mk, fr_mk, rd_mk, ra_mk, e0]
    try simp [Option.bind, toNat_beq_one, toNat_eq_one, boolOfCode_toNat, Header.ofWord_toWord]

theorem tbarArwt (f : Fr) (d : Reg) (a : Reg) (n : BitVec 4) : Statement (.tbarArwt f d a n) := by
  intro h r hr
  obtain rfl := Option.some.inj hr
  replace h : (f.ok [.e] true && d.ok && a.ok && f.form.litsOk false false false && f.holdsOk true false false) = true := h
  simp only [Bool.and_eq_true] at h
  obtain ⟨⟨⟨⟨h0, h1⟩, h2⟩, h3⟩, h4⟩ := h
  obtain ⟨hf, hs⟩ := Fr.ok_forms h0
  have := n.isLt
  have hl : f.form.litsOk ((Src.reg a)).isLit ((Src.reg 0)).isLit ((Src.reg 0)).isLit = true := by
    have h := h3
    first | exact h | (simp only [isLit_reg, isLit_lit, isLit_offset, Option.getD, Option.any, Bool.not_false, Bool.and_true] at h ⊢; exact h)
  refine ⟨fits_mk (by decide) hl h4 (by decide) (by omega) ?_ ?_, ?_, hs, ?_⟩
  · intro e; rw [e] at hf; simp at hf
  · intro e; rw [e] at hf; simp at hf
  · simp only [form_mk, opc_mk]; rw [show formsOf 0xC3 = [.e] from by decide]; exact hf
  · rw [show parse (mkRaw f 0xC3 3 (n.toNat) d (Src.reg a) (Src.reg 0) (Src.reg 0)) = parseTbarArwt (mkRaw f 0xC3 3 (n.toNat) d (Src.reg a) (Src.reg 0) (Src.reg 0)) from by simp [parse, parseRowC, opc_mk, sub_mk]]
    have e0 : (n.toNat) / 2 ^ 0 % 2 ^ 4 = n.toNat := by omega
    unfold parseTbarArwt
    simp only [m_mk, fr_mk, rd_mk, ra_mk, e0]
    try simp [Option.bind, toNat_beq_one, toNat_eq_one, boolOfCode_toNat, Header.ofWord_toWord]

theorem cftest (f : Fr) (d : Reg) (a : Src) (b : Src) (c : Src) : Statement (.cftest f d a b c) := by
  intro h r hr
  obtain rfl := Option.some.inj hr
  replace h : (f.ok [.e, .w] false && d.pairOk && a.ok && b.ok && c.ok && f.form.litsOk a.isLit b.isLit c.isLit && f.holdsOk true true true) = true := h
  simp only [Bool.and_eq_true] at h
  obtain ⟨⟨⟨⟨⟨⟨h0, h1⟩, h2⟩, h3⟩, h4⟩, h5⟩, h6⟩ := h
  obtain ⟨hf, hs⟩ := Fr.ok_forms h0
  have hl : f.form.litsOk (a).isLit (b).isLit (c).isLit = true := by
    have h := h5
    first | exact h | (simp only [isLit_reg, isLit_lit, isLit_offset, Option.getD, Option.any, Bool.not_false, Bool.and_true] at h ⊢; exact h)
  refine ⟨fits_mk (by decide) hl h6 (by decide) (by decide) ?_ ?_, ?_, hs, ?_⟩
  · intro e; rw [e] at hf; simp at hf
  · intro e; rw [e] at hf; simp at hf
  · simp only [form_mk, opc_mk]; rw [show formsOf 0xC4 = [.e, .w] from by decide]; exact hf
  · rw [show parse (mkRaw f 0xC4 0 (0) d a b c) = parseCftest (mkRaw f 0xC4 0 (0) d a b c) from by simp [parse, parseRowC, opc_mk, sub_mk]]
    unfold parseCftest
    simp only [m_mk, fr_mk, rd_mk, sa_mk hl, sb_mk hl, sc_mk hl]
    try simp [Option.bind, toNat_beq_one, toNat_eq_one, boolOfCode_toNat, Header.ofWord_toWord]

theorem exittok (f : Fr) (d : Reg) (a : Reg) (b : Reg) (n : BitVec 4) : Statement (.exittok f d a b n) := by
  intro h r hr
  obtain rfl := Option.some.inj hr
  replace h : (f.ok [.e] true && d.ok && a.ok && b.ok && f.form.litsOk false false false && f.holdsOk true true false) = true := h
  simp only [Bool.and_eq_true] at h
  obtain ⟨⟨⟨⟨⟨h0, h1⟩, h2⟩, h3⟩, h4⟩, h5⟩ := h
  obtain ⟨hf, hs⟩ := Fr.ok_forms h0
  have := n.isLt
  have hl : f.form.litsOk ((Src.reg a)).isLit ((Src.reg b)).isLit ((Src.reg 0)).isLit = true := by
    have h := h4
    first | exact h | (simp only [isLit_reg, isLit_lit, isLit_offset, Option.getD, Option.any, Bool.not_false, Bool.and_true] at h ⊢; exact h)
  refine ⟨fits_mk (by decide) hl h5 (by decide) (by omega) ?_ ?_, ?_, hs, ?_⟩
  · intro e; rw [e] at hf; simp at hf
  · intro e; rw [e] at hf; simp at hf
  · simp only [form_mk, opc_mk]; rw [show formsOf 0xC5 = [.e] from by decide]; exact hf
  · rw [show parse (mkRaw f 0xC5 0 (n.toNat) d (Src.reg a) (Src.reg b) (Src.reg 0)) = parseExittok (mkRaw f 0xC5 0 (n.toNat) d (Src.reg a) (Src.reg b) (Src.reg 0)) from by simp [parse, parseRowC, opc_mk, sub_mk]]
    have e0 : (n.toNat) / 2 ^ 0 % 2 ^ 4 = n.toNat := by omega
    unfold parseExittok
    simp only [m_mk, fr_mk, rd_mk, ra_mk, rb_mk, e0]
    try simp [Option.bind, toNat_beq_one, toNat_eq_one, boolOfCode_toNat, Header.ofWord_toWord]

theorem bfwait (f : Fr) (d : Reg) (a : Reg) (b : Reg) (n : BitVec 4) : Statement (.bfwait f d a b n) := by
  intro h r hr
  obtain rfl := Option.some.inj hr
  replace h : (f.ok [.e] true && d.ok && a.ok && b.ok && f.form.litsOk false false false && f.holdsOk true true false) = true := h
  simp only [Bool.and_eq_true] at h
  obtain ⟨⟨⟨⟨⟨h0, h1⟩, h2⟩, h3⟩, h4⟩, h5⟩ := h
  obtain ⟨hf, hs⟩ := Fr.ok_forms h0
  have := n.isLt
  have hl : f.form.litsOk ((Src.reg a)).isLit ((Src.reg b)).isLit ((Src.reg 0)).isLit = true := by
    have h := h4
    first | exact h | (simp only [isLit_reg, isLit_lit, isLit_offset, Option.getD, Option.any, Bool.not_false, Bool.and_true] at h ⊢; exact h)
  refine ⟨fits_mk (by decide) hl h5 (by decide) (by omega) ?_ ?_, ?_, hs, ?_⟩
  · intro e; rw [e] at hf; simp at hf
  · intro e; rw [e] at hf; simp at hf
  · simp only [form_mk, opc_mk]; rw [show formsOf 0xC6 = [.e] from by decide]; exact hf
  · rw [show parse (mkRaw f 0xC6 0 (n.toNat) d (Src.reg a) (Src.reg b) (Src.reg 0)) = parseBfwait (mkRaw f 0xC6 0 (n.toNat) d (Src.reg a) (Src.reg b) (Src.reg 0)) from by simp [parse, parseRowC, opc_mk, sub_mk]]
    have e0 : (n.toNat) / 2 ^ 0 % 2 ^ 4 = n.toNat := by omega
    unfold parseBfwait
    simp only [m_mk, fr_mk, rd_mk, ra_mk, rb_mk, e0]
    try simp [Option.bind, toNat_beq_one, toNat_eq_one, boolOfCode_toNat, Header.ofWord_toWord]

theorem recon (f : Fr) (d : Reg) (a : Reg) : Statement (.recon f d a) := by
  intro h r hr
  obtain rfl := Option.some.inj hr
  replace h : (f.ok [.e] true && d.ok && a.pairOk && f.form.litsOk false false false && f.holdsOk true false false) = true := h
  simp only [Bool.and_eq_true] at h
  obtain ⟨⟨⟨⟨h0, h1⟩, h2⟩, h3⟩, h4⟩ := h
  obtain ⟨hf, hs⟩ := Fr.ok_forms h0
  have hl : f.form.litsOk ((Src.reg a)).isLit ((Src.reg 0)).isLit ((Src.reg 0)).isLit = true := by
    have h := h3
    first | exact h | (simp only [isLit_reg, isLit_lit, isLit_offset, Option.getD, Option.any, Bool.not_false, Bool.and_true] at h ⊢; exact h)
  refine ⟨fits_mk (by decide) hl h4 (by decide) (by decide) ?_ ?_, ?_, hs, ?_⟩
  · intro e; rw [e] at hf; simp at hf
  · intro e; rw [e] at hf; simp at hf
  · simp only [form_mk, opc_mk]; rw [show formsOf 0xD0 = [.e] from by decide]; exact hf
  · rw [show parse (mkRaw f 0xD0 0 (0) d (Src.reg a) (Src.reg 0) (Src.reg 0)) = parseRecon (mkRaw f 0xD0 0 (0) d (Src.reg a) (Src.reg 0) (Src.reg 0)) from by simp [parse, parseRowD, opc_mk, sub_mk]]
    unfold parseRecon
    simp only [m_mk, fr_mk, rd_mk, ra_mk]
    try simp [Option.bind, toNat_beq_one, toNat_eq_one, boolOfCode_toNat, Header.ofWord_toWord]

theorem recoff (f : Fr) : Statement (.recoff f) := by
  intro h r hr
  obtain rfl := Option.some.inj hr
  replace h : (f.ok [.s] true && f.form.litsOk false false false && f.holdsOk false false false) = true := h
  simp only [Bool.and_eq_true] at h
  obtain ⟨⟨h0, h1⟩, h2⟩ := h
  obtain ⟨hf, hs⟩ := Fr.ok_forms h0
  have hl : f.form.litsOk ((Src.reg 0)).isLit ((Src.reg 0)).isLit ((Src.reg 0)).isLit = true := by
    have h := h1
    first | exact h | (simp only [isLit_reg, isLit_lit, isLit_offset, Option.getD, Option.any, Bool.not_false, Bool.and_true] at h ⊢; exact h)
  refine ⟨fits_mk (by decide) hl h2 (by decide) (by decide) ?_ ?_, ?_, hs, ?_⟩
  · intro e; decide
  · intro e; rw [e] at hf; simp at hf
  · simp only [form_mk, opc_mk]; rw [show formsOf 0xD1 = [.s] from by decide]; exact hf
  · rw [show parse (mkRaw f 0xD1 0 (0) 0 (Src.reg 0) (Src.reg 0) (Src.reg 0)) = parseRecoff (mkRaw f 0xD1 0 (0) 0 (Src.reg 0) (Src.reg 0) (Src.reg 0)) from by simp [parse, parseRowD, opc_mk, sub_mk]]
    unfold parseRecoff
    simp only [m_mk, fr_mk]
    try simp [Option.bind, toNat_beq_one, toNat_eq_one, boolOfCode_toNat, Header.ofWord_toWord]

theorem ebb (f : Fr) (d : Reg) (a : Reg) : Statement (.ebb f d a) := by
  intro h r hr
  obtain rfl := Option.some.inj hr
  replace h : (f.ok [.e] false && d.ok && a.pairOk && f.form.litsOk false false false && f.holdsOk true false false) = true := h
  simp only [Bool.and_eq_true] at h
  obtain ⟨⟨⟨⟨h0, h1⟩, h2⟩, h3⟩, h4⟩ := h
  obtain ⟨hf, hs⟩ := Fr.ok_forms h0
  have hl : f.form.litsOk ((Src.reg a)).isLit ((Src.reg 0)).isLit ((Src.reg 0)).isLit = true := by
    have h := h3
    first | exact h | (simp only [isLit_reg, isLit_lit, isLit_offset, Option.getD, Option.any, Bool.not_false, Bool.and_true] at h ⊢; exact h)
  refine ⟨fits_mk (by decide) hl h4 (by decide) (by decide) ?_ ?_, ?_, hs, ?_⟩
  · intro e; rw [e] at hf; simp at hf
  · intro e; rw [e] at hf; simp at hf
  · simp only [form_mk, opc_mk]; rw [show formsOf 0xD2 = [.e] from by decide]; exact hf
  · rw [show parse (mkRaw f 0xD2 0 (0) d (Src.reg a) (Src.reg 0) (Src.reg 0)) = parseEbb (mkRaw f 0xD2 0 (0) d (Src.reg a) (Src.reg 0) (Src.reg 0)) from by simp [parse, parseRowD, opc_mk, sub_mk]]
    unfold parseEbb
    simp only [m_mk, fr_mk, rd_mk, ra_mk]
    try simp [Option.bind, toNat_beq_one, toNat_eq_one, boolOfCode_toNat, Header.ofWord_toWord]

theorem ebbstat (f : Fr) (fld : EbbField) (d : Reg) (a : Reg) : Statement (.ebbstat f fld d a) := by
  intro h r hr
  obtain rfl := Option.some.inj hr
  replace h : (f.ok [.e] true && d.ok && a.pairOk && f.form.litsOk false false false && f.holdsOk true false false) = true := h
  simp only [Bool.and_eq_true] at h
  obtain ⟨⟨⟨⟨h0, h1⟩, h2⟩, h3⟩, h4⟩ := h
  obtain ⟨hf, hs⟩ := Fr.ok_forms h0
  have := EbbField.code_lt fld
  have hl : f.form.litsOk ((Src.reg a)).isLit ((Src.reg 0)).isLit ((Src.reg 0)).isLit = true := by
    have h := h3
    first | exact h | (simp only [isLit_reg, isLit_lit, isLit_offset, Option.getD, Option.any, Bool.not_false, Bool.and_true] at h ⊢; exact h)
  refine ⟨fits_mk (by decide) hl h4 (by omega) (by decide) ?_ ?_, ?_, hs, ?_⟩
  · intro e; rw [e] at hf; simp at hf
  · intro e; rw [e] at hf; simp at hf
  · simp only [form_mk, opc_mk]; rw [show formsOf 0xD3 = [.e] from by decide]; exact hf
  · rw [show parse (mkRaw f 0xD3 fld.code (0) d (Src.reg a) (Src.reg 0) (Src.reg 0)) = parseEbbstat (mkRaw f 0xD3 fld.code (0) d (Src.reg a) (Src.reg 0) (Src.reg 0)) from by simp [parse, parseRowD, opc_mk, sub_mk]]
    unfold parseEbbstat
    simp only [m_mk, fr_mk, rd_mk, ra_mk, sub_mk]
    try simp [Option.bind, toNat_beq_one, toNat_eq_one, boolOfCode_toNat, Header.ofWord_toWord, EbbField.ofCode_code]

theorem migrRiffle (f : Fr) (d : Reg) : Statement (.migrRiffle f d) := by
  intro h r hr
  obtain rfl := Option.some.inj hr
  replace h : (f.ok [.e] true && d.ok && f.form.litsOk false false false && f.holdsOk false false false) = true := h
  simp only [Bool.and_eq_true] at h
  obtain ⟨⟨⟨h0, h1⟩, h2⟩, h3⟩ := h
  obtain ⟨hf, hs⟩ := Fr.ok_forms h0
  have hl : f.form.litsOk ((Src.reg 0)).isLit ((Src.reg 0)).isLit ((Src.reg 0)).isLit = true := by
    have h := h2
    first | exact h | (simp only [isLit_reg, isLit_lit, isLit_offset, Option.getD, Option.any, Bool.not_false, Bool.and_true] at h ⊢; exact h)
  refine ⟨fits_mk (by decide) hl h3 (by decide) (by decide) ?_ ?_, ?_, hs, ?_⟩
  · intro e; rw [e] at hf; simp at hf
  · intro e; rw [e] at hf; simp at hf
  · simp only [form_mk, opc_mk]; rw [show formsOf 0xD4 = [.e] from by decide]; exact hf
  · rw [show parse (mkRaw f 0xD4 0 (0) d (Src.reg 0) (Src.reg 0) (Src.reg 0)) = parseMigrRiffle (mkRaw f 0xD4 0 (0) d (Src.reg 0) (Src.reg 0) (Src.reg 0)) from by simp [parse, parseRowD, opc_mk, sub_mk]]
    unfold parseMigrRiffle
    simp only [m_mk, fr_mk, rd_mk]
    try simp [Option.bind, toNat_beq_one, toNat_eq_one, boolOfCode_toNat, Header.ofWord_toWord]

theorem migrReach (f : Fr) (d : Reg) : Statement (.migrReach f d) := by
  intro h r hr
  obtain rfl := Option.some.inj hr
  replace h : (f.ok [.e] true && d.ok && f.form.litsOk false false false && f.holdsOk false false false) = true := h
  simp only [Bool.and_eq_true] at h
  obtain ⟨⟨⟨h0, h1⟩, h2⟩, h3⟩ := h
  obtain ⟨hf, hs⟩ := Fr.ok_forms h0
  have hl : f.form.litsOk ((Src.reg 0)).isLit ((Src.reg 0)).isLit ((Src.reg 0)).isLit = true := by
    have h := h2
    first | exact h | (simp only [isLit_reg, isLit_lit, isLit_offset, Option.getD, Option.any, Bool.not_false, Bool.and_true] at h ⊢; exact h)
  refine ⟨fits_mk (by decide) hl h3 (by decide) (by decide) ?_ ?_, ?_, hs, ?_⟩
  · intro e; rw [e] at hf; simp at hf
  · intro e; rw [e] at hf; simp at hf
  · simp only [form_mk, opc_mk]; rw [show formsOf 0xD4 = [.e] from by decide]; exact hf
  · rw [show parse (mkRaw f 0xD4 1 (0) d (Src.reg 0) (Src.reg 0) (Src.reg 0)) = parseMigrReach (mkRaw f 0xD4 1 (0) d (Src.reg 0) (Src.reg 0) (Src.reg 0)) from by simp [parse, parseRowD, opc_mk, sub_mk]]
    unfold parseMigrReach
    simp only [m_mk, fr_mk, rd_mk]
    try simp [Option.bind, toNat_beq_one, toNat_eq_one, boolOfCode_toNat, Header.ofWord_toWord]

theorem migrCancel (f : Fr) (d : Reg) : Statement (.migrCancel f d) := by
  intro h r hr
  obtain rfl := Option.some.inj hr
  replace h : (f.ok [.e] true && d.ok && f.form.litsOk false false false && f.holdsOk false false false) = true := h
  simp only [Bool.and_eq_true] at h
  obtain ⟨⟨⟨h0, h1⟩, h2⟩, h3⟩ := h
  obtain ⟨hf, hs⟩ := Fr.ok_forms h0
  have hl : f.form.litsOk ((Src.reg 0)).isLit ((Src.reg 0)).isLit ((Src.reg 0)).isLit = true := by
    have h := h2
    first | exact h | (simp only [isLit_reg, isLit_lit, isLit_offset, Option.getD, Option.any, Bool.not_false, Bool.and_true] at h ⊢; exact h)
  refine ⟨fits_mk (by decide) hl h3 (by decide) (by decide) ?_ ?_, ?_, hs, ?_⟩
  · intro e; rw [e] at hf; simp at hf
  · intro e; rw [e] at hf; simp at hf
  · simp only [form_mk, opc_mk]; rw [show formsOf 0xD4 = [.e] from by decide]; exact hf
  · rw [show parse (mkRaw f 0xD4 2 (0) d (Src.reg 0) (Src.reg 0) (Src.reg 0)) = parseMigrCancel (mkRaw f 0xD4 2 (0) d (Src.reg 0) (Src.reg 0) (Src.reg 0)) from by simp [parse, parseRowD, opc_mk, sub_mk]]
    unfold parseMigrCancel
    simp only [m_mk, fr_mk, rd_mk]
    try simp [Option.bind, toNat_beq_one, toNat_eq_one, boolOfCode_toNat, Header.ofWord_toWord]

theorem portage (f : Fr) (v : Word) : Statement (.portage f v) := by
  intro h r hr
  obtain rfl := Option.some.inj hr
  replace h : (f.ok [.l] true && f.form.litsOk false true false && f.holdsOk false true false) = true := h
  simp only [Bool.and_eq_true] at h
  obtain ⟨⟨h0, h1⟩, h2⟩ := h
  obtain ⟨hf, hs⟩ := Fr.ok_forms h0
  have hl : f.form.litsOk ((Src.reg 0)).isLit ((Src.lit v)).isLit ((Src.reg 0)).isLit = true := by
    have h := h1
    first | exact h | (simp only [isLit_reg, isLit_lit, isLit_offset, Option.getD, Option.any, Bool.not_false, Bool.and_true] at h ⊢; exact h)
  refine ⟨fits_mk (by decide) hl h2 (by decide) (by decide) ?_ ?_, ?_, hs, ?_⟩
  · intro e; rw [e] at hf; simp at hf
  · intro e; decide
  · simp only [form_mk, opc_mk]; rw [show formsOf 0xD5 = [.l] from by decide]; exact hf
  · rw [show parse (mkRaw f 0xD5 0 (0) 0 (Src.reg 0) (Src.lit v) (Src.reg 0)) = parsePortage (mkRaw f 0xD5 0 (0) 0 (Src.reg 0) (Src.lit v) (Src.reg 0)) from by simp [parse, parseRowD, opc_mk, sub_mk]]
    unfold parsePortage
    simp only [m_mk, fr_mk, off_mk hl]
    try simp [Option.bind, toNat_beq_one, toNat_eq_one, boolOfCode_toNat, Header.ofWord_toWord]

theorem barSync (f : Fr) (a : Option Reg) (n : BitVec 4) : Statement (.barSync f a n) := by
  intro h r hr
  obtain rfl := Option.some.inj hr
  replace h : (f.ok [.e] true && a.all Reg.ok && f.form.litsOk false false false && f.holdsOk a.isSome false false) = true := h
  simp only [Bool.and_eq_true] at h
  obtain ⟨⟨⟨h0, h1⟩, h2⟩, h3⟩ := h
  obtain ⟨hf, hs⟩ := Fr.ok_forms h0
  have := Bool.toNat_lt a.isSome
  have := n.isLt
  have hl : f.form.litsOk ((Src.reg (a.getD 0))).isLit ((Src.reg 0)).isLit ((Src.reg 0)).isLit = true := by
    have h := h2
    cases a <;> first | exact h | (simp only [isLit_reg, isLit_lit, isLit_offset, Option.getD, Option.any, Bool.not_false, Bool.and_true] at h ⊢; exact h)
  refine ⟨fits_mk (by decide) hl h3 (by decide) (by omega) ?_ ?_, ?_, hs, ?_⟩
  · intro e; rw [e] at hf; simp at hf
  · intro e; rw [e] at hf; simp at hf
  · simp only [form_mk, opc_mk]; rw [show formsOf 0xE0 = [.e] from by decide]; exact hf
  · rw [show parse (mkRaw f 0xE0 0 (n.toNat + 16 * a.isSome.toNat) 0 (Src.reg (a.getD 0)) (Src.reg 0) (Src.reg 0)) = parseBarSync (mkRaw f 0xE0 0 (n.toNat + 16 * a.isSome.toNat) 0 (Src.reg (a.getD 0)) (Src.reg 0) (Src.reg 0)) from by simp [parse, parseRowE, opc_mk, sub_mk]]
    have e0 : (n.toNat + 16 * a.isSome.toNat) / 2 ^ 0 % 2 ^ 4 = n.toNat := by omega
    have e1 : (n.toNat + 16 * a.isSome.toNat) / 2 ^ 4 % 2 ^ 1 = a.isSome.toNat := by clear e0; omega
    unfold parseBarSync
    simp only [m_mk, fr_mk, ra_mk, e0, e1]
    cases a <;> try simp [Option.bind, toNat_beq_one, toNat_eq_one, boolOfCode_toNat, Header.ofWord_toWord] <;> simp_all

theorem barArr (f : Fr) (a : Option Reg) (n : BitVec 4) : Statement (.barArr f a n) := by
  intro h r hr
  obtain rfl := Option.some.inj hr
  replace h : (f.ok [.e] true && a.all Reg.ok && f.form.litsOk false false false && f.holdsOk a.isSome false false) = true := h
  simp only [Bool.and_eq_true] at h
  obtain ⟨⟨⟨h0, h1⟩, h2⟩, h3⟩ := h
  obtain ⟨hf, hs⟩ := Fr.ok_forms h0
  have := Bool.toNat_lt a.isSome
  have := n.isLt
  have hl : f.form.litsOk ((Src.reg (a.getD 0))).isLit ((Src.reg 0)).isLit ((Src.reg 0)).isLit = true := by
    have h := h2
    cases a <;> first | exact h | (simp only [isLit_reg, isLit_lit, isLit_offset, Option.getD, Option.any, Bool.not_false, Bool.and_true] at h ⊢; exact h)
  refine ⟨fits_mk (by decide) hl h3 (by decide) (by omega) ?_ ?_, ?_, hs, ?_⟩
  · intro e; rw [e] at hf; simp at hf
  · intro e; rw [e] at hf; simp at hf
  · simp only [form_mk, opc_mk]; rw [show formsOf 0xE0 = [.e] from by decide]; exact hf
  · rw [show parse (mkRaw f 0xE0 1 (n.toNat + 16 * a.isSome.toNat) 0 (Src.reg (a.getD 0)) (Src.reg 0) (Src.reg 0)) = parseBarArr (mkRaw f 0xE0 1 (n.toNat + 16 * a.isSome.toNat) 0 (Src.reg (a.getD 0)) (Src.reg 0) (Src.reg 0)) from by simp [parse, parseRowE, opc_mk, sub_mk]]
    have e0 : (n.toNat + 16 * a.isSome.toNat) / 2 ^ 0 % 2 ^ 4 = n.toNat := by omega
    have e1 : (n.toNat + 16 * a.isSome.toNat) / 2 ^ 4 % 2 ^ 1 = a.isSome.toNat := by clear e0; omega
    unfold parseBarArr
    simp only [m_mk, fr_mk, ra_mk, e0, e1]
    cases a <;> try simp [Option.bind, toNat_beq_one, toNat_eq_one, boolOfCode_toNat, Header.ofWord_toWord] <;> simp_all

theorem gbar (f : Fr) (scope : Scope) : Statement (.gbar f scope) := by
  intro h r hr
  obtain rfl := Option.some.inj hr
  replace h : (f.ok [.e] true && f.form.litsOk false false false && f.holdsOk false false false && decide (scope ≠ .wp ∧ scope ≠ .blk)) = true := h
  simp only [Bool.and_eq_true] at h
  obtain ⟨⟨⟨h0, h1⟩, h2⟩, h3⟩ := h
  obtain ⟨hf, hs⟩ := Fr.ok_forms h0
  have := Scope.code_lt scope
  have hl : f.form.litsOk ((Src.reg 0)).isLit ((Src.reg 0)).isLit ((Src.reg 0)).isLit = true := by
    have h := h1
    first | exact h | (simp only [isLit_reg, isLit_lit, isLit_offset, Option.getD, Option.any, Bool.not_false, Bool.and_true] at h ⊢; exact h)
  refine ⟨fits_mk (by decide) hl h2 (by decide) (by omega) ?_ ?_, ?_, hs, ?_⟩
  · intro e; rw [e] at hf; simp at hf
  · intro e; rw [e] at hf; simp at hf
  · simp only [form_mk, opc_mk]; rw [show formsOf 0xE1 = [.e] from by decide]; exact hf
  · rw [show parse (mkRaw f 0xE1 0 (256 * scope.code) 0 (Src.reg 0) (Src.reg 0) (Src.reg 0)) = parseGbar (mkRaw f 0xE1 0 (256 * scope.code) 0 (Src.reg 0) (Src.reg 0) (Src.reg 0)) from by simp [parse, parseRowE, opc_mk, sub_mk]]
    have e0 : (256 * scope.code) / 2 ^ 8 % 2 ^ 4 = scope.code := by omega
    unfold parseGbar
    simp only [m_mk, fr_mk, e0]
    try simp [Option.bind, toNat_beq_one, toNat_eq_one, boolOfCode_toNat, Header.ofWord_toWord, Scope.ofCode_code]

theorem xlock (f : Fr) : Statement (.xlock f) := by
  intro h r hr
  obtain rfl := Option.some.inj hr
  replace h : (f.ok [.s] true && f.form.litsOk false false false && f.holdsOk false false false) = true := h
  simp only [Bool.and_eq_true] at h
  obtain ⟨⟨h0, h1⟩, h2⟩ := h
  obtain ⟨hf, hs⟩ := Fr.ok_forms h0
  have hl : f.form.litsOk ((Src.reg 0)).isLit ((Src.reg 0)).isLit ((Src.reg 0)).isLit = true := by
    have h := h1
    first | exact h | (simp only [isLit_reg, isLit_lit, isLit_offset, Option.getD, Option.any, Bool.not_false, Bool.and_true] at h ⊢; exact h)
  refine ⟨fits_mk (by decide) hl h2 (by decide) (by decide) ?_ ?_, ?_, hs, ?_⟩
  · intro e; decide
  · intro e; rw [e] at hf; simp at hf
  · simp only [form_mk, opc_mk]; rw [show formsOf 0xE2 = [.s] from by decide]; exact hf
  · rw [show parse (mkRaw f 0xE2 0 (0) 0 (Src.reg 0) (Src.reg 0) (Src.reg 0)) = parseXlock (mkRaw f 0xE2 0 (0) 0 (Src.reg 0) (Src.reg 0) (Src.reg 0)) from by simp [parse, parseRowE, opc_mk, sub_mk]]
    unfold parseXlock
    simp only [m_mk, fr_mk]
    try simp [Option.bind, toNat_beq_one, toNat_eq_one, boolOfCode_toNat, Header.ofWord_toWord]

theorem xfree (f : Fr) : Statement (.xfree f) := by
  intro h r hr
  obtain rfl := Option.some.inj hr
  replace h : (f.ok [.s] true && f.form.litsOk false false false && f.holdsOk false false false) = true := h
  simp only [Bool.and_eq_true] at h
  obtain ⟨⟨h0, h1⟩, h2⟩ := h
  obtain ⟨hf, hs⟩ := Fr.ok_forms h0
  have hl : f.form.litsOk ((Src.reg 0)).isLit ((Src.reg 0)).isLit ((Src.reg 0)).isLit = true := by
    have h := h1
    first | exact h | (simp only [isLit_reg, isLit_lit, isLit_offset, Option.getD, Option.any, Bool.not_false, Bool.and_true] at h ⊢; exact h)
  refine ⟨fits_mk (by decide) hl h2 (by decide) (by decide) ?_ ?_, ?_, hs, ?_⟩
  · intro e; decide
  · intro e; rw [e] at hf; simp at hf
  · simp only [form_mk, opc_mk]; rw [show formsOf 0xE3 = [.s] from by decide]; exact hf
  · rw [show parse (mkRaw f 0xE3 0 (0) 0 (Src.reg 0) (Src.reg 0) (Src.reg 0)) = parseXfree (mkRaw f 0xE3 0 (0) 0 (Src.reg 0) (Src.reg 0) (Src.reg 0)) from by simp [parse, parseRowE, opc_mk, sub_mk]]
    unfold parseXfree
    simp only [m_mk, fr_mk]
    try simp [Option.bind, toNat_beq_one, toNat_eq_one, boolOfCode_toNat, Header.ofWord_toWord]

theorem nmq (f : Fr) (d : Reg) (a : Reg) (scope : Scope) : Statement (.nmq f d a scope) := by
  intro h r hr
  obtain rfl := Option.some.inj hr
  replace h : (f.ok [.e] true && d.ok && a.quadOk && f.form.litsOk false false false && f.holdsOk true false false && decide (scope ≠ .fab)) = true := h
  simp only [Bool.and_eq_true] at h
  obtain ⟨⟨⟨⟨⟨h0, h1⟩, h2⟩, h3⟩, h4⟩, h5⟩ := h
  obtain ⟨hf, hs⟩ := Fr.ok_forms h0
  have := Scope.code_lt scope
  have hl : f.form.litsOk ((Src.reg a)).isLit ((Src.reg 0)).isLit ((Src.reg 0)).isLit = true := by
    have h := h3
    first | exact h | (simp only [isLit_reg, isLit_lit, isLit_offset, Option.getD, Option.any, Bool.not_false, Bool.and_true] at h ⊢; exact h)
  refine ⟨fits_mk (by decide) hl h4 (by decide) (by omega) ?_ ?_, ?_, hs, ?_⟩
  · intro e; rw [e] at hf; simp at hf
  · intro e; rw [e] at hf; simp at hf
  · simp only [form_mk, opc_mk]; rw [show formsOf 0xE4 = [.e] from by decide]; exact hf
  · rw [show parse (mkRaw f 0xE4 0 (256 * scope.code) d (Src.reg a) (Src.reg 0) (Src.reg 0)) = parseNmq (mkRaw f 0xE4 0 (256 * scope.code) d (Src.reg a) (Src.reg 0) (Src.reg 0)) from by simp [parse, parseRowE, opc_mk, sub_mk]]
    have e0 : (256 * scope.code) / 2 ^ 8 % 2 ^ 4 = scope.code := by omega
    unfold parseNmq
    simp only [m_mk, fr_mk, rd_mk, ra_mk, e0]
    try simp [Option.bind, toNat_beq_one, toNat_eq_one, boolOfCode_toNat, Header.ofWord_toWord, Scope.ofCode_code]

theorem nmwaitWait (f : Fr) (d : Reg) (a : Reg) : Statement (.nmwaitWait f d a) := by
  intro h r hr
  obtain rfl := Option.some.inj hr
  replace h : (f.ok [.e] true && d.quadOk && a.ok && f.form.litsOk false false false && f.holdsOk true false false) = true := h
  simp only [Bool.and_eq_true] at h
  obtain ⟨⟨⟨⟨h0, h1⟩, h2⟩, h3⟩, h4⟩ := h
  obtain ⟨hf, hs⟩ := Fr.ok_forms h0
  have hl : f.form.litsOk ((Src.reg a)).isLit ((Src.reg 0)).isLit ((Src.reg 0)).isLit = true := by
    have h := h3
    first | exact h | (simp only [isLit_reg, isLit_lit, isLit_offset, Option.getD, Option.any, Bool.not_false, Bool.and_true] at h ⊢; exact h)
  refine ⟨fits_mk (by decide) hl h4 (by decide) (by decide) ?_ ?_, ?_, hs, ?_⟩
  · intro e; rw [e] at hf; simp at hf
  · intro e; rw [e] at hf; simp at hf
  · simp only [form_mk, opc_mk]; rw [show formsOf 0xE5 = [.e] from by decide]; exact hf
  · rw [show parse (mkRaw f 0xE5 0 (0) d (Src.reg a) (Src.reg 0) (Src.reg 0)) = parseNmwaitWait (mkRaw f 0xE5 0 (0) d (Src.reg a) (Src.reg 0) (Src.reg 0)) from by simp [parse, parseRowE, opc_mk, sub_mk]]
    unfold parseNmwaitWait
    simp only [m_mk, fr_mk, rd_mk, ra_mk]
    try simp [Option.bind, toNat_beq_one, toNat_eq_one, boolOfCode_toNat, Header.ofWord_toWord]

theorem nmwaitTest (f : Fr) (d : Reg) (a : Reg) : Statement (.nmwaitTest f d a) := by
  intro h r hr
  obtain rfl := Option.some.inj hr
  replace h : (f.ok [.e] true && d.quadOk && a.ok && f.form.litsOk false false false && f.holdsOk true false false) = true := h
  simp only [Bool.and_eq_true] at h
  obtain ⟨⟨⟨⟨h0, h1⟩, h2⟩, h3⟩, h4⟩ := h
  obtain ⟨hf, hs⟩ := Fr.ok_forms h0
  have hl : f.form.litsOk ((Src.reg a)).isLit ((Src.reg 0)).isLit ((Src.reg 0)).isLit = true := by
    have h := h3
    first | exact h | (simp only [isLit_reg, isLit_lit, isLit_offset, Option.getD, Option.any, Bool.not_false, Bool.and_true] at h ⊢; exact h)
  refine ⟨fits_mk (by decide) hl h4 (by decide) (by decide) ?_ ?_, ?_, hs, ?_⟩
  · intro e; rw [e] at hf; simp at hf
  · intro e; rw [e] at hf; simp at hf
  · simp only [form_mk, opc_mk]; rw [show formsOf 0xE5 = [.e] from by decide]; exact hf
  · rw [show parse (mkRaw f 0xE5 1 (0) d (Src.reg a) (Src.reg 0) (Src.reg 0)) = parseNmwaitTest (mkRaw f 0xE5 1 (0) d (Src.reg a) (Src.reg 0) (Src.reg 0)) from by simp [parse, parseRowE, opc_mk, sub_mk]]
    unfold parseNmwaitTest
    simp only [m_mk, fr_mk, rd_mk, ra_mk]
    try simp [Option.bind, toNat_beq_one, toNat_eq_one, boolOfCode_toNat, Header.ofWord_toWord]

theorem tqpopWait (f : Fr) (d : Reg) (a : Reg) : Statement (.tqpopWait f d a) := by
  intro h r hr
  obtain rfl := Option.some.inj hr
  replace h : (f.ok [.e] true && d.pairOk && a.ok && f.form.litsOk false false false && f.holdsOk true false false) = true := h
  simp only [Bool.and_eq_true] at h
  obtain ⟨⟨⟨⟨h0, h1⟩, h2⟩, h3⟩, h4⟩ := h
  obtain ⟨hf, hs⟩ := Fr.ok_forms h0
  have hl : f.form.litsOk ((Src.reg a)).isLit ((Src.reg 0)).isLit ((Src.reg 0)).isLit = true := by
    have h := h3
    first | exact h | (simp only [isLit_reg, isLit_lit, isLit_offset, Option.getD, Option.any, Bool.not_false, Bool.and_true] at h ⊢; exact h)
  refine ⟨fits_mk (by decide) hl h4 (by decide) (by decide) ?_ ?_, ?_, hs, ?_⟩
  · intro e; rw [e] at hf; simp at hf
  · intro e; rw [e] at hf; simp at hf
  · simp only [form_mk, opc_mk]; rw [show formsOf 0xE6 = [.e] from by decide]; exact hf
  · rw [show parse (mkRaw f 0xE6 0 (0) d (Src.reg a) (Src.reg 0) (Src.reg 0)) = parseTqpopWait (mkRaw f 0xE6 0 (0) d (Src.reg a) (Src.reg 0) (Src.reg 0)) from by simp [parse, parseRowE, opc_mk, sub_mk]]
    unfold parseTqpopWait
    simp only [m_mk, fr_mk, rd_mk, ra_mk]
    try simp [Option.bind, toNat_beq_one, toNat_eq_one, boolOfCode_toNat, Header.ofWord_toWord]

theorem tqpopTry (f : Fr) (d : Reg) (a : Reg) : Statement (.tqpopTry f d a) := by
  intro h r hr
  obtain rfl := Option.some.inj hr
  replace h : (f.ok [.e] true && d.pairOk && a.ok && f.form.litsOk false false false && f.holdsOk true false false) = true := h
  simp only [Bool.and_eq_true] at h
  obtain ⟨⟨⟨⟨h0, h1⟩, h2⟩, h3⟩, h4⟩ := h
  obtain ⟨hf, hs⟩ := Fr.ok_forms h0
  have hl : f.form.litsOk ((Src.reg a)).isLit ((Src.reg 0)).isLit ((Src.reg 0)).isLit = true := by
    have h := h3
    first | exact h | (simp only [isLit_reg, isLit_lit, isLit_offset, Option.getD, Option.any, Bool.not_false, Bool.and_true] at h ⊢; exact h)
  refine ⟨fits_mk (by decide) hl h4 (by decide) (by decide) ?_ ?_, ?_, hs, ?_⟩
  · intro e; rw [e] at hf; simp at hf
  · intro e; rw [e] at hf; simp at hf
  · simp only [form_mk, opc_mk]; rw [show formsOf 0xE6 = [.e] from by decide]; exact hf
  · rw [show parse (mkRaw f 0xE6 1 (0) d (Src.reg a) (Src.reg 0) (Src.reg 0)) = parseTqpopTry (mkRaw f 0xE6 1 (0) d (Src.reg a) (Src.reg 0) (Src.reg 0)) from by simp [parse, parseRowE, opc_mk, sub_mk]]
    unfold parseTqpopTry
    simp only [m_mk, fr_mk, rd_mk, ra_mk]
    try simp [Option.bind, toNat_beq_one, toNat_eq_one, boolOfCode_toNat, Header.ofWord_toWord]

theorem tqpushWait (f : Fr) (d : Reg) (a : Reg) (b : Reg) : Statement (.tqpushWait f d a b) := by
  intro h r hr
  obtain rfl := Option.some.inj hr
  replace h : (f.ok [.e] true && d.ok && a.ok && b.pairOk && f.form.litsOk false false false && f.holdsOk true true false) = true := h
  simp only [Bool.and_eq_true] at h
  obtain ⟨⟨⟨⟨⟨h0, h1⟩, h2⟩, h3⟩, h4⟩, h5⟩ := h
  obtain ⟨hf, hs⟩ := Fr.ok_forms h0
  have hl : f.form.litsOk ((Src.reg a)).isLit ((Src.reg b)).isLit ((Src.reg 0)).isLit = true := by
    have h := h4
    first | exact h | (simp only [isLit_reg, isLit_lit, isLit_offset, Option.getD, Option.any, Bool.not_false, Bool.and_true] at h ⊢; exact h)
  refine ⟨fits_mk (by decide) hl h5 (by decide) (by decide) ?_ ?_, ?_, hs, ?_⟩
  · intro e; rw [e] at hf; simp at hf
  · intro e; rw [e] at hf; simp at hf
  · simp only [form_mk, opc_mk]; rw [show formsOf 0xE7 = [.e] from by decide]; exact hf
  · rw [show parse (mkRaw f 0xE7 0 (0) d (Src.reg a) (Src.reg b) (Src.reg 0)) = parseTqpushWait (mkRaw f 0xE7 0 (0) d (Src.reg a) (Src.reg b) (Src.reg 0)) from by simp [parse, parseRowE, opc_mk, sub_mk]]
    unfold parseTqpushWait
    simp only [m_mk, fr_mk, rd_mk, ra_mk, rb_mk]
    try simp [Option.bind, toNat_beq_one, toNat_eq_one, boolOfCode_toNat, Header.ofWord_toWord]

theorem tqpushTry (f : Fr) (d : Reg) (a : Reg) (b : Reg) : Statement (.tqpushTry f d a b) := by
  intro h r hr
  obtain rfl := Option.some.inj hr
  replace h : (f.ok [.e] true && d.ok && a.ok && b.pairOk && f.form.litsOk false false false && f.holdsOk true true false) = true := h
  simp only [Bool.and_eq_true] at h
  obtain ⟨⟨⟨⟨⟨h0, h1⟩, h2⟩, h3⟩, h4⟩, h5⟩ := h
  obtain ⟨hf, hs⟩ := Fr.ok_forms h0
  have hl : f.form.litsOk ((Src.reg a)).isLit ((Src.reg b)).isLit ((Src.reg 0)).isLit = true := by
    have h := h4
    first | exact h | (simp only [isLit_reg, isLit_lit, isLit_offset, Option.getD, Option.any, Bool.not_false, Bool.and_true] at h ⊢; exact h)
  refine ⟨fits_mk (by decide) hl h5 (by decide) (by decide) ?_ ?_, ?_, hs, ?_⟩
  · intro e; rw [e] at hf; simp at hf
  · intro e; rw [e] at hf; simp at hf
  · simp only [form_mk, opc_mk]; rw [show formsOf 0xE7 = [.e] from by decide]; exact hf
  · rw [show parse (mkRaw f 0xE7 1 (0) d (Src.reg a) (Src.reg b) (Src.reg 0)) = parseTqpushTry (mkRaw f 0xE7 1 (0) d (Src.reg a) (Src.reg b) (Src.reg 0)) from by simp [parse, parseRowE, opc_mk, sub_mk]]
    unfold parseTqpushTry
    simp only [m_mk, fr_mk, rd_mk, ra_mk, rb_mk]
    try simp [Option.bind, toNat_beq_one, toNat_eq_one, boolOfCode_toNat, Header.ofWord_toWord]

theorem tqpushClose (f : Fr) (d : Reg) (a : Reg) : Statement (.tqpushClose f d a) := by
  intro h r hr
  obtain rfl := Option.some.inj hr
  replace h : (f.ok [.e] true && d.ok && a.ok && f.form.litsOk false false false && f.holdsOk true false false) = true := h
  simp only [Bool.and_eq_true] at h
  obtain ⟨⟨⟨⟨h0, h1⟩, h2⟩, h3⟩, h4⟩ := h
  obtain ⟨hf, hs⟩ := Fr.ok_forms h0
  have hl : f.form.litsOk ((Src.reg a)).isLit ((Src.reg 0)).isLit ((Src.reg 0)).isLit = true := by
    have h := h3
    first | exact h | (simp only [isLit_reg, isLit_lit, isLit_offset, Option.getD, Option.any, Bool.not_false, Bool.and_true] at h ⊢; exact h)
  refine ⟨fits_mk (by decide) hl h4 (by decide) (by decide) ?_ ?_, ?_, hs, ?_⟩
  · intro e; rw [e] at hf; simp at hf
  · intro e; rw [e] at hf; simp at hf
  · simp only [form_mk, opc_mk]; rw [show formsOf 0xE7 = [.e] from by decide]; exact hf
  · rw [show parse (mkRaw f 0xE7 2 (0) d (Src.reg a) (Src.reg 0) (Src.reg 0)) = parseTqpushClose (mkRaw f 0xE7 2 (0) d (Src.reg a) (Src.reg 0) (Src.reg 0)) from by simp [parse, parseRowE, opc_mk, sub_mk]]
    unfold parseTqpushClose
    simp only [m_mk, fr_mk, rd_mk, ra_mk]
    try simp [Option.bind, toNat_beq_one, toNat_eq_one, boolOfCode_toNat, Header.ofWord_toWord]

theorem launch (f : Fr) (d : Reg) (a : Reg) : Statement (.launch f d a) := by
  intro h r hr
  obtain rfl := Option.some.inj hr
  replace h : (f.ok [.e] true && d.ok && a.pairOk && f.form.litsOk false false false && f.holdsOk true false false) = true := h
  simp only [Bool.and_eq_true] at h
  obtain ⟨⟨⟨⟨h0, h1⟩, h2⟩, h3⟩, h4⟩ := h
  obtain ⟨hf, hs⟩ := Fr.ok_forms h0
  have hl : f.form.litsOk ((Src.reg a)).isLit ((Src.reg 0)).isLit ((Src.reg 0)).isLit = true := by
    have h := h3
    first | exact h | (simp only [isLit_reg, isLit_lit, isLit_offset, Option.getD, Option.any, Bool.not_false, Bool.and_true] at h ⊢; exact h)
  refine ⟨fits_mk (by decide) hl h4 (by decide) (by decide) ?_ ?_, ?_, hs, ?_⟩
  · intro e; rw [e] at hf; simp at hf
  · intro e; rw [e] at hf; simp at hf
  · simp only [form_mk, opc_mk]; rw [show formsOf 0xE8 = [.e] from by decide]; exact hf
  · rw [show parse (mkRaw f 0xE8 0 (0) d (Src.reg a) (Src.reg 0) (Src.reg 0)) = parseLaunch (mkRaw f 0xE8 0 (0) d (Src.reg a) (Src.reg 0) (Src.reg 0)) from by simp [parse, parseRowE, opc_mk, sub_mk]]
    unfold parseLaunch
    simp only [m_mk, fr_mk, rd_mk, ra_mk]
    try simp [Option.bind, toNat_beq_one, toNat_eq_one, boolOfCode_toNat, Header.ofWord_toWord]

theorem coll (f : Fr) (op : CollOp) (d : Reg) (a : Reg) (b : Src) : Statement (.coll f op d a b) := by
  intro h r hr
  obtain rfl := Option.some.inj hr
  replace h : (f.ok [.e, .w] true && d.ok && a.pairOk && b.ok && f.form.litsOk false b.isLit false && f.holdsOk true true false) = true := h
  simp only [Bool.and_eq_true] at h
  obtain ⟨⟨⟨⟨⟨h0, h1⟩, h2⟩, h3⟩, h4⟩, h5⟩ := h
  obtain ⟨hf, hs⟩ := Fr.ok_forms h0
  have := CollOp.code_lt op
  have hl : f.form.litsOk ((Src.reg a)).isLit (b).isLit ((Src.reg 0)).isLit = true := by
    have h := h4
    first | exact h | (simp only [isLit_reg, isLit_lit, isLit_offset, Option.getD, Option.any, Bool.not_false, Bool.and_true] at h ⊢; exact h)
  refine ⟨fits_mk (by decide) hl h5 (by omega) (by decide) ?_ ?_, ?_, hs, ?_⟩
  · intro e; rw [e] at hf; simp at hf
  · intro e; rw [e] at hf; simp at hf
  · simp only [form_mk, opc_mk]; rw [show formsOf 0xE9 = [.e, .w] from by decide]; exact hf
  · rw [show parse (mkRaw f 0xE9 op.code (0) d (Src.reg a) b (Src.reg 0)) = parseColl (mkRaw f 0xE9 op.code (0) d (Src.reg a) b (Src.reg 0)) from by simp [parse, parseRowE, opc_mk, sub_mk]]
    unfold parseColl
    simp only [m_mk, fr_mk, rd_mk, ra_mk, sb_mk hl, sub_mk]
    try simp [Option.bind, toNat_beq_one, toNat_eq_one, boolOfCode_toNat, Header.ofWord_toWord, CollOp.ofCode_code]

theorem resultWriteback (warp : Nat) : Statement (.resultWriteback warp) := fun _ _ h => by cases h

theorem instructionCompletion (warp k : Nat) : Statement (.instructionCompletion warp k) := fun _ _ h => by cases h

theorem minimumLatencyRelease (warp k : Nat) : Statement (.minimumLatencyRelease warp k) := fun _ _ h => by cases h

theorem inWarpTrapEntry (warp : Nat) : Statement (.inWarpTrapEntry warp) := fun _ _ h => by cases h

theorem splitAged (warp ent : Nat) : Statement (.splitAged warp ent) := fun _ _ h => by cases h

theorem yieldRelease (warp ent : Nat) : Statement (.yieldRelease warp ent) := fun _ _ h => by cases h

theorem waitvSatisfied (warp ent : Nat) : Statement (.waitvSatisfied warp ent) := fun _ _ h => by cases h

theorem flumeWaitSatisfied (warp ent : Nat) : Statement (.flumeWaitSatisfied warp ent) := fun _ _ h => by cases h

theorem bfwaitSatisfied (warp ent : Nat) : Statement (.bfwaitSatisfied warp ent) := fun _ _ h => by cases h

theorem disbandComplete (warp ent : Nat) : Statement (.disbandComplete warp ent) := fun _ _ h => by cases h

theorem kvappProceed (warp ent : Nat) : Statement (.kvappProceed warp ent) := fun _ _ h => by cases h

theorem arrayOperationStart (twin : Nat) : Statement (.arrayOperationStart twin) := fun _ _ h => by cases h

theorem arrayOperationDone (twin : Nat) : Statement (.arrayOperationDone twin) := fun _ _ h => by cases h

theorem migrate (warp : Nat) : Statement (.migrate warp) := fun _ _ h => by cases h

theorem warpEnd (warp : Nat) : Statement (.warpEnd warp) := fun _ _ h => by cases h

theorem sluiceCommandStart (core : Nat) : Statement (.sluiceCommandStart core) := fun _ _ h => by cases h

theorem weirDiscard (core : Nat) : Statement (.weirDiscard core) := fun _ _ h => by cases h

theorem sluiceGranule (core k : Nat) : Statement (.sluiceGranule core k) := fun _ _ h => by cases h

theorem operandFetchFault (gang : Nat) : Statement (.operandFetchFault gang) := fun _ _ h => by cases h

theorem gangScrub (gang : Nat) : Statement (.gangScrub gang) := fun _ _ h => by cases h

theorem coreStop (core : Nat) : Statement (.coreStop core) := fun _ _ h => by cases h

theorem hostServedFault (gang : Nat) : Statement (.hostServedFault gang) := fun _ _ h => by cases h

theorem faultRecordPost (asid : Nat) : Statement (.faultRecordPost asid) := fun _ _ h => by cases h

theorem watchdogExpiry (warp : Nat) : Statement (.watchdogExpiry warp) := fun _ _ h => by cases h

theorem gangSave (gang : Nat) : Statement (.gangSave gang) := fun _ _ h => by cases h

theorem clusterReservation (queue : Nat) : Statement (.clusterReservation queue) := fun _ _ h => by cases h

theorem queueEntryTaken (queue : Nat) : Statement (.queueEntryTaken queue) := fun _ _ h => by cases h

theorem nadam (unit k : Nat) : Statement (.nadam unit k) := fun _ _ h => by cases h

theorem nsgdm (unit k : Nat) : Statement (.nsgdm unit k) := fun _ _ h => by cases h

theorem nmsearch (unit k : Nat) : Statement (.nmsearch unit k) := fun _ _ h => by cases h

theorem nredadd (unit k : Nat) : Statement (.nredadd unit k) := fun _ _ h => by cases h

theorem ncopy (unit k : Nat) : Statement (.ncopy unit k) := fun _ _ h => by cases h

theorem nfill (unit k : Nat) : Statement (.nfill unit k) := fun _ _ h => by cases h

theorem ncow (unit k : Nat) : Statement (.ncow unit k) := fun _ _ h => by cases h

theorem nref (unit k : Nat) : Statement (.nref unit k) := fun _ _ h => by cases h

theorem ncntAdd (unit k : Nat) : Statement (.ncntAdd unit k) := fun _ _ h => by cases h

theorem ncntRead (unit k : Nat) : Statement (.ncntRead unit k) := fun _ _ h => by cases h

theorem ncntWrite (unit k : Nat) : Statement (.ncntWrite unit k) := fun _ _ h => by cases h

theorem nchunk (unit k : Nat) : Statement (.nchunk unit k) := fun _ _ h => by cases h

theorem nquant (unit k : Nat) : Statement (.nquant unit k) := fun _ _ h => by cases h

theorem ntagchk (unit k : Nat) : Statement (.ntagchk unit k) := fun _ _ h => by cases h

theorem nmuCommandComplete (unit k : Nat) : Statement (.nmuCommandComplete unit k) := fun _ _ h => by cases h

theorem backwaterAgeTimeout (die : Nat) : Statement (.backwaterAgeTimeout die) := fun _ _ h => by cases h

theorem backfillLaunchEnd (die batch : Nat) : Statement (.backfillLaunchEnd die batch) := fun _ _ h => by cases h

theorem collectiveStart (die : Nat) : Statement (.collectiveStart die) := fun _ _ h => by cases h

theorem ingressRun (j : Nat) : Statement (.ingressRun j) := fun _ _ h => by cases h

theorem blockHealthFlush (blk : Nat) : Statement (.blockHealthFlush blk) := fun _ _ h => by cases h

theorem illegalInstruction (warp ent : Nat) : Statement (.illegalInstruction warp ent) := fun _ _ h => by cases h

theorem fetchFault (warp ent : Nat) : Statement (.fetchFault warp ent) := fun _ _ h => by cases h

theorem l1Eviction (core k : Nat) : Statement (.l1Eviction core k) := fun _ _ h => by cases h

theorem launchPacket (group : Nat) (gen : Word) (queue : Nat) (bytes : List Byte) : Statement (.launchPacket group gen queue bytes) := fun _ _ h => by cases h

theorem launchPacketAnswer (launch : Nat) (accepted : Bool) : Statement (.launchPacketAnswer launch accepted) := fun _ _ h => by cases h

theorem portDown (port : Nat) : Statement (.portDown port) := fun _ _ h => by cases h

theorem flitReplay (port : Nat) : Statement (.flitReplay port) := fun _ _ h => by cases h

theorem peerAccess (rank addr : Nat) (access : PeerOp) : Statement (.peerAccess rank addr access) := fun _ _ h => by cases h

theorem hostWrite (sec : Bool) (addr : Nat) (bytes : List Byte) : Statement (.hostWrite sec addr bytes) := fun _ _ h => by cases h

theorem hostRead (sec : Bool) (addr n : Nat) : Statement (.hostRead sec addr n) := fun _ _ h => by cases h

theorem queueKick (queue : Nat) (tail : Word) : Statement (.queueKick queue tail) := fun _ _ h => by cases h

theorem ingressDescriptorTrigger (j : Nat) (bytes : List Byte) : Statement (.ingressDescriptorTrigger j bytes) := fun _ _ h => by cases h

theorem ridxWrite (v : Word) : Statement (.ridxWrite v) := fun _ _ h => by cases h

theorem registerWriteOther (bar addr : Nat) (bytes : List Byte) : Statement (.registerWriteOther bar addr bytes) := fun _ _ h => by cases h

theorem createContext (sec : Bool) (asid : BitVec 16) (world : Bool) (troot tvec poolBase poolSize : DWord) : Statement (.createContext sec asid world troot tvec poolBase poolSize) := fun _ _ h => by cases h

theorem destroyContext (sec : Bool) (asid : BitVec 16) : Statement (.destroyContext sec asid) := fun _ _ h => by cases h

theorem bindQueue (sec : Bool) (queue : Nat) (asid : BitVec 16) (item : Bool) (ring : DWord) (depth cls tkt group : Nat) : Statement (.bindQueue sec queue asid item ring depth cls tkt group) := fun _ _ h => by cases h

theorem setTickets (sec : Bool) (queue tkt : Nat) : Statement (.setTickets sec queue tkt) := fun _ _ h => by cases h

theorem invalidate (sec : Bool) (asid : BitVec 16) (base len : DWord) : Statement (.invalidate sec asid base len) := fun _ _ h => by cases h

theorem preEmpt (sec : Bool) (what : PreTarget) : Statement (.preEmpt sec what) := fun _ _ h => by cases h

theorem taskRelease (sec : Bool) (addr : DWord) : Statement (.taskRelease sec addr) := fun _ _ h => by cases h

theorem taskRemoval (sec : Bool) (addr : DWord) : Statement (.taskRemoval sec addr) := fun _ _ h => by cases h

theorem acknowledgeFault (sec : Bool) (addr : DWord) (action : BitVec 8) : Statement (.acknowledgeFault sec addr action) := fun _ _ h => by cases h

theorem setLaunchGroup (sec : Bool) (group n rank : Nat) (gen : Word) (routes : List Nat) : Statement (.setLaunchGroup sec group n rank gen routes) := fun _ _ h => by cases h

theorem installKey (sec : Bool) (slot : Nat) (key : BitVec 256) (both : Bool) : Statement (.installKey sec slot key both) := fun _ _ h => by cases h

theorem bindIngressQueue (sec : Bool) (j : Nat) (asid : BitVec 16) (base size : DWord) : Statement (.bindIngressQueue sec j asid base size) := fun _ _ h => by cases h

theorem setEventRing (sec : Bool) (base count : DWord) : Statement (.setEventRing sec base count) := fun _ _ h => by cases h

theorem attestation (sec : Bool) (nonce : BitVec 256) (addr : DWord) : Statement (.attestation sec nonce addr) := fun _ _ h => by cases h

theorem setPowerLimit (sec : Bool) (watts : DWord) : Statement (.setPowerLimit sec watts) := fun _ _ h => by cases h

theorem closeItemQueue (sec : Bool) (queue : Nat) : Statement (.closeItemQueue sec queue) := fun _ _ h => by cases h

theorem openItemQueue (sec : Bool) (queue : Nat) : Statement (.openItemQueue sec queue) := fun _ _ h => by cases h

theorem scrubPass (corrected hbm : Nat) : Statement (.scrubPass corrected hbm) := fun _ _ h => by cases h

theorem softError (granule : SoftError) : Statement (.softError granule) := fun _ _ h => by cases h

theorem firmwareVerify (image : FirmwareImage) : Statement (.firmwareVerify image) := fun _ _ h => by cases h

theorem throttle (pwr tj : Nat) : Statement (.throttle pwr tj) := fun _ _ h => by cases h

theorem clockRestore (pwr tj : Nat) : Statement (.clockRestore pwr tj) := fun _ _ h => by cases h

theorem overtempReset (tj : Nat) : Statement (.overtempReset tj) := fun _ _ h => by cases h

end Sys2Proof.Laws.Encoding
end

