-- ==== Sys2Proof/Machine/Binary.lean ====
section
/-! DEFINITION. The Hyivo file and its loader (R488 to R495), binding tables (R499), the checks of a Zonyx section (R502) and the resource floor
(R504). The device executes none of it directly: a loader reads a file, and what it leaves in memory the device reads. -/
namespace Sys2Proof.Machine
open Sys2Proof

/-! ### Header and sections (R488, R489) -/

/-- A section header (R489). -/
structure HySection where
  type : Nat
  mu : Bool
  alloc : Bool
  write : Bool
  exec : Bool
  scl : Bool
  align : Nat
  name : Nat
  off : Nat
  size : Nat
  addr : Nat
  link : Nat
  reserved : Bool
  deriving DecidableEq, Repr

def parseSection (f : List Byte) (o : Nat) : HySection :=
  let w (k n : Nat) : Nat := fieldAt f (o + k) n
  let fl := w 2 2
  let bit (k : Nat) : Bool := decide (fl / 2 ^ k % 2 = 1)
  { type := w 0 2, mu := bit 0, alloc := bit 1, write := bit 2, exec := bit 3, scl := bit 4, align := fl / 256 % 16, name := w 4 4,
    off := w 8 8, size := w 16 8, addr := w 24 8, link := w 32 4,
    reserved := decide (fl / 32 % 8 ≠ 0) || decide (fl / 4096 ≠ 0) || decide (w 36 12 ≠ 0) }

/-- The number of section headers. -/
def hyCount (f : List Byte) : Nat := fieldAt f 0x0C 4

/-- The section headers; none where their number breaks its limit. -/
def hySections (f : List Byte) : List HySection :=
  if hyCount f < 65536 then (upto (hyCount f)).map (fun k => parseSection f (fieldAt f 0x10 8 + 48 * k)) else []

/-- The contents of a section in the file: zero-filled data has none. -/
def HySection.contents (f : List Byte) (x : HySection) : List Byte :=
  if x.type = 0 ∨ x.type = 4 then [] else (f.drop x.off).take x.size

/-- The sections of a type, with their indices. -/
def ofType (f : List Byte) (t : Nat) : List (Nat × HySection) :=
  ((upto (hyCount f)).zip (hySections f)).filter (fun p => decide (p.2.type = t))

/-- The header's limits (R488). -/
def headerLimits (f : List Byte) : Bool :=
  decide (64 ≤ f.length) && decide (fieldAt f 0x0A 2 = 0) && decide (fieldAt f 0x1C 36 = 0) && decide (1 ≤ hyCount f) &&
  decide (hyCount f ≤ 65535) && decide (fieldAt f 0x10 8 % 8 = 0) && decide (fieldAt f 0x10 8 + 48 * hyCount f ≤ f.length) &&
  ((hySections f)[fieldAt f 0x18 4]?.any (fun x => decide (x.type = 8)))

/-- The limits of the section headers (R489). (DEDUCED, log 76.) -/
def sectionLimits (f : List Byte) : Bool :=
  (hySections f).all (fun x =>
    !x.reserved && (decide (x.type ≠ 1 ∧ x.type ≠ 2) || decide (5 ≤ x.align)) &&
    (decide (x.type = 0 ∨ x.type = 4 ∨ 13 ≤ x.type) || decide (x.off + x.size ≤ f.length))) &&
  decide ((ofType f 1).length ≤ 1) && decide ((ofType f 2).length ≤ 1)

/-! ### Notes and launch templates (R491, R492) -/

/-- A note record (R491). -/
structure HyNote where
  type : Nat
  flags : Nat
  name : List Byte
  desc : List Byte
  deriving DecidableEq, Repr

/-- The records of a notes section, and whether they fill it. -/
def parseNotes : Nat → List Byte → List HyNote × Bool
  | 0, bs => ([], bs.isEmpty)
  | fuel + 1, bs =>
    if bs.isEmpty then ([], true)
    else
      let n := fieldAt bs 0 2
      let d := fieldAt bs 4 2
      let pn := (n + 3) / 4 * 4
      let len := 8 + pn + (d + 3) / 4 * 4
      if bs.length < len then ([], false)
      else
        let r := parseNotes fuel (bs.drop len)
        (⟨fieldAt bs 2 2, fieldAt bs 6 2, (bs.drop 8).take n, (bs.drop (8 + pn)).take d⟩ :: r.1, r.2)

def sectionNotes (f : List Byte) (x : HySection) : List HyNote × Bool := parseNotes (x.size / 8 + 1) (x.contents f)
def hyNotes (f : List Byte) : List HyNote := (ofType f 9).flatMap (fun p => (sectionNotes f p.2).1)

def HyNote.mandatory (n : HyNote) : Bool := decide (n.flags % 2 = 1)

/-- The launch record of a template (R492). -/
def HyNote.record (n : HyNote) : Record := parseRecord n.desc

/-- A template's length, and the fields that are zero in it (R492). -/
def templateOk (n : HyNote) : Bool :=
  let r := n.record
  !n.mandatory && decide (n.desc.length = 128 + 8 * r.nfl) && !r.reserved &&
  decide (r.entr = 0 ∧ r.entf = 0 ∧ r.param = 0 ∧ r.code = 0 ∧ r.clen = 0 ∧ r.cgen = 0 ∧ r.ptab = 0 ∧ r.ftab = 0 ∧ r.succ = 0 ∧ r.dcnt = 0)

/-- The limits of the notes: the other flags are reserved (R491). -/
def noteLimits (f : List Byte) : Bool :=
  (ofType f 9).all (fun p => (sectionNotes f p.2).2) &&
  (hyNotes f).all (fun n => decide (n.flags < 2) && (decide (n.type ≠ 3) || templateOk n))

/-- Whether a kernel's launch goes beyond the resource floor (R504). -/
def aboveFloor (r : Record) : Bool :=
  decide (192 < r.regr) || decide (192 < r.regf) || r.xs || decide (128 * 1024 < r.scr) || decide (2 ^ 20 < r.clm) || decide (8 < r.nbar) ||
  decide (8 < r.nfl) || decide (1024 < r.lane) || decide (1024 < blockThreads r) || decide (8 < gangBlocks r)

/-! ### Symbols (R493) -/

/-- A symbol entry (R493). -/
structure HySymbol where
  name : Nat
  sec : Nat
  bind : Nat
  kind : Nat
  valr : Nat
  valf : Nat
  size : Nat
  reserved : Bool
  deriving DecidableEq, Repr

def parseSymbol (bs : List Byte) (o : Nat) : HySymbol :=
  let w (k n : Nat) : Nat := fieldAt bs (o + k) n
  { name := w 0 4, sec := w 4 2, bind := w 6 1, kind := w 7 1, valr := w 8 8, valf := w 16 8, size := w 24 4,
    reserved := decide (w 28 4 ≠ 0) }

/-- The entries of the symbol section, and the index of its string section. (DEDUCED, log 76.) -/
def hySymbols (f : List Byte) : List HySymbol :=
  match ofType f 7 with
  | (_, x) :: _ => (upto (x.size / 32)).map (fun k => parseSymbol (x.contents f) (32 * k))
  | [] => []
def symbolStrings (f : List Byte) : List Byte :=
  match ofType f 7 with
  | (_, x) :: _ => (match (hySections f)[x.link]? with | some y => y.contents f | none => [])
  | [] => []

/-- The name at an offset of a string section, up to the zero byte that ends it. (PRESUMED, log 77.) -/
def stringAt (bs : List Byte) (o : Nat) : List Byte := (bs.drop o).takeWhile (fun b => decide (b ≠ 0))
def HySymbol.nameIn (f : List Byte) (y : HySymbol) : List Byte := stringAt (symbolStrings f) y.name

/-- VALF of a function without a Riffle encoding. -/
def noRiffle : Nat := 0xFFFFFFFFFFFFFFFF

/-- The limits of the symbols (R493); a launch template names a kernel among them (R492). -/
def symbolLimits (f : List Byte) : Bool :=
  (ofType f 7).all (fun p => decide (p.2.size % 32 = 0) && ((hySections f)[p.2.link]?.any (fun x => decide (x.type = 8)))) &&
  decide ((ofType f 7).length ≤ 1) &&
  (hySymbols f).all (fun y =>
    !y.reserved && decide (y.bind ≤ 2) && decide (y.kind ≤ 2) && (decide (y.kind ≠ 0) || decide (y.valf = 0)) &&
    (decide (y.bind = 2) ||
      (if y.kind = 0 then decide (y.sec < hyCount f) else ((hySections f)[y.sec]?.any (fun x => decide (x.type = 1)))))) &&
  (hyNotes f).all (fun n => decide (n.type ≠ 3) || (hySymbols f).any (fun y => decide (y.kind = 2) && decide (y.nameIn f = stringAt n.name 0)))

/-- The launch template of a kernel (R492). -/
def templateOf (f : List Byte) (y : HySymbol) : Option HyNote :=
  (hyNotes f).find? (fun n => decide (n.type = 3) && decide (stringAt n.name 0 = y.nameIn f))

/-- A global symbol of a module loaded before: its name and its two addresses. -/
structure HyGlobal where
  name : List Byte
  reach : Nat
  riffle : Option Nat
  deriving DecidableEq, Repr

/-- The addresses of a symbol, of its Reach encoding or data, and of its Riffle encoding, with the sections placed and the modules loaded before
(R493); none where it is not resolved. -/
def symbolAt (f : List Byte) (place : Nat → Nat) (gs : List HyGlobal) (y : HySymbol) : Option (Nat × Option Nat) :=
  if y.bind = 2 then
    match gs.find? (fun g => decide (g.name = y.nameIn f)) with
    | some g => some (g.reach, g.riffle)
    | none => none
  else if y.kind = 0 then some (place y.sec + y.valr, some (place y.sec + y.valr))
  else
    match ofType f 2 with
    | (k, _) :: _ => some (place y.sec + y.valr, if y.valf = noRiffle then none else some (place k + y.valf))
    | [] => some (place y.sec + y.valr, none)

/-- The global symbols of a module, which later modules resolve by name (R493). -/
def moduleGlobals (f : List Byte) (place : Nat → Nat) (gs : List HyGlobal) : List HyGlobal :=
  ((hySymbols f).filter (fun y => decide (y.bind = 1))).filterMap (fun y =>
    (symbolAt f place gs y).map (fun a => ⟨y.nameIn f, a.1, a.2⟩))

/-! ### Binding tables (R499) -/

/-- The symbols that a binding table's entries name, in order. -/
def bindingSyms (f : List Byte) (x : HySection) : List Nat := (upto (x.size / 16)).map (fun k => fieldAt (x.contents f) (16 * k + 4) 4)

/-- The address of a symbol's entry in the table of an encoding. -/
def bindingEntry (f : List Byte) (place : Nat → Nat) (riffle : Bool) (sym : Nat) : Option Nat :=
  ((ofType f (if riffle then 11 else 10)).findSome? (fun p =>
    if sym ∈ bindingSyms f p.2 then some (place p.1 + 16 * (bindingSyms f p.2).idxOf sym) else none))

/-- The limits of the binding tables: every entry stands in both at the same index (R499). -/
def bindingLimits (f : List Byte) : Bool :=
  (ofType f 10 ++ ofType f 11).all (fun p =>
    decide (p.2.size % 16 = 0) && (upto (p.2.size / 16)).all (fun k => decide (fieldAt (p.2.contents f) (16 * k) 4 ≤ 2))) &&
  decide ((ofType f 10).map (fun p => bindingSyms f p.2) = (ofType f 11).map (fun p => bindingSyms f p.2))

/-! ### Relocations (R494) -/

/-- A relocation entry. -/
structure HyReloc where
  off : Nat
  sym : Nat
  kind : Nat
  addend : Int
  reserved : Bool
  deriving DecidableEq, Repr

def parseReloc (bs : List Byte) (o : Nat) : HyReloc :=
  { off := fieldAt bs o 8, sym := fieldAt bs (o + 8) 4, kind := fieldAt bs (o + 12) 2, addend := (BitVec.ofNat 64 (fieldAt bs (o + 16) 8)).toInt,
    reserved := decide (fieldAt bs (o + 14) 2 ≠ 0) }

/-- The relocations of a file, each with the index of the section that it relocates. -/
def hyRelocs (f : List Byte) : List (Nat × HyReloc) :=
  (ofType f 6).flatMap (fun p => (upto (p.2.size / 24)).map (fun k => (p.2.link, parseReloc (p.2.contents f) (24 * k))))

/-- The limits of the relocations: a section of whole entries for a section of the file, symbols that exist, 8-byte places within the
section. -/
def relocLimits (f : List Byte) : Bool :=
  (ofType f 6).all (fun p => decide (p.2.size % 24 = 0) && decide (p.2.link < hyCount f)) &&
  (hyRelocs f).all (fun r =>
    !r.2.reserved && decide (r.2.sym < (hySymbols f).length) &&
    (decide (r.2.kind ≠ 1 ∧ r.2.kind ≠ 5) || ((hySections f)[r.1]?.any (fun x => decide (r.2.off + 8 ≤ x.size)))))

/-- The offsets of a code section at which instructions start, by the lengths that their LEN fields give (R74). -/
def instrStarts : Nat → Nat → List Byte → List Nat
  | 0, _, _ => []
  | fuel + 1, o, bs =>
    let len := fieldAt bs 0 1 % 4
    if bs.isEmpty ∨ len = 3 then [] else o :: instrStarts fuel (o + 8 + 4 * len) (bs.drop (8 + 4 * len))

/-- Where the literal of the instruction at an offset of a code section stands: W1 in form l, W2 in form w (R494). -/
def literalPlace (bs : List Byte) (o : Nat) : Option Nat :=
  if o ∈ instrStarts (bs.length / 8 + 1) 0 bs then
    match Form.ofBits (fieldAt bs o 8) with
    | some .l => some (o + 8)
    | some .w => some (o + 12)
    | _ => none
  else none

/-- Where the literal of a relocation of a section stands: only code sections hold instructions. -/
def HySection.literal (f : List Byte) (x : HySection) (o : Nat) : Option Nat :=
  if x.type = 1 ∨ x.type = 2 then literalPlace (x.contents f) o else none

/-- A value in 64 bits. -/
def as64 (v : Int) : Nat := (BitVec.ofInt 64 v).toNat

/-- What a relocation writes in its section: offset and bytes; none where its kind is unknown, its place holds no literal, or its value is not
there or does not fit (R493, R494). (DEDUCED, log 76.) -/
def relocWrite (f : List Byte) (place : Nat → Nat) (gs : List HyGlobal) (k : Nat) (r : HyReloc) : Option (Nat × List Byte) := do
  let x ← (hySections f)[k]?
  let y ← (hySymbols f)[r.sym]?
  let fromRiffle : Bool := decide (x.type = 2)
  let value (riffle : Bool) : Option Int := do
    let a ← symbolAt f place gs y
    let v ← if riffle && decide (y.kind ≠ 0) then a.2 else some a.1
    some ((v : Int) + r.addend)
  let literal : Option Nat := x.literal f r.off
  match r.kind with
  | 1 => do let v ← value fromRiffle; some (r.off, toBytes 8 (as64 v))
  | 2 => do let v ← value fromRiffle; let o ← literal; some (o, toBytes 4 (as64 v))
  | 3 => do let v ← value fromRiffle; let o ← literal; some (o, toBytes 4 (as64 v / 2 ^ 32))
  | 4 => do
    let v ← value fromRiffle
    let o ← literal
    let d := v - ((place k + r.off : Nat) : Int)
    if -(2 ^ 31) ≤ d ∧ d < 2 ^ 31 ∧ d % 4 = 0 then some (o, toBytes 4 (as64 d)) else none
  | 5 => do let v ← value true; some (r.off, toBytes 8 (as64 v))
  | 6 => do let e ← bindingEntry f place fromRiffle r.sym; let o ← literal; some (o, toBytes 4 e)
  | 7 => do let e ← bindingEntry f place fromRiffle r.sym; let o ← literal; some (o, toBytes 4 (e / 2 ^ 32))
  | _ => none

/-! ### Portage tables and Zonyx regions (R428, R502) -/

/-- The limits of a portage table (R428). -/
def portageLimits (f : List Byte) : Bool :=
  (ofType f 5).all (fun p =>
    let bs := p.2.contents f
    let n := fieldAt bs 0 4
    decide (16 ≤ bs.length) && decide (n ≤ 65535) && decide (fieldAt bs 4 12 = 0) && decide (16 + 8 * n ≤ bs.length) &&
    (upto n).all (fun k => decide (fieldAt bs (16 + 8 * k) 8 % 8 = 0)))

/-- The packed span that an instruction names (R31). -/
def packedSpan (i : Instr) : Option (Nat × Nat) :=
  match i with
  | .bpack _ d _ _ bf g _ => some (d.toNat, spanLen (bfElem bf) g)
  | .bunpk _ _ _ a bf g _ => some (a.toNat, spanLen (bfElem bf) g)
  | .ldbs _ pk d _ _ bf g _ _ => some (d.toNat, if pk then spanLen (bfElem bf) g else 2)
  | .stbs _ pk _ _ c bf g _ _ => some (c.toNat, if pk then spanLen (bfElem bf) g else 2)
  | _ => none

/-- The register from which the names that a MOVI computes go up (R118). -/
def computedBase (i : Instr) : Option Nat :=
  match i with
  | .moviRead _ _ _ base | .moviWrite _ _ _ base => some base.toNat
  | _ => none

/-- Whether an instruction may stand in a Zonyx body (R502): no timing fields, registers v0 to v191, none of the opcodes named there. A pair,
quad or octet that starts at or below v191 ends there too; a MOVI whose base lies above v191 names only registers above it. -/
def zonyxInstr (i : Instr) : Bool :=
  match fieldsOf i with
  | none => false
  | some r =>
    decide (r.stall = 0 ∧ r.setc = 0 ∧ r.wait = 0) && !r.holdA && !r.holdB && !r.holdC &&
    decide (r.d ≤ 191 ∧ r.a ≤ 191 ∧ r.b ≤ 191 ∧ r.c ≤ 191) && (packedSpan i).all (fun p => decide (p.1 + p.2 ≤ 192)) &&
    (computedBase i).all (fun n => decide (n ≤ 191)) &&
    decide (r.opc / 16 ≠ 0xB) && decide (r.opc < 0xD0 ∨ 0xD5 < r.opc) && !([0x8C, 0xE2, 0xE3, 0xE8, 0xE9].contains r.opc)

/-- Whether a body is made of such instructions and ends in RET. -/
def zonyxBody : Nat → List Byte → Bool
  | 0, _ => false
  | fuel + 1, bs =>
    match decode bs with
    | .error _ => false
    | .ok i =>
      zonyxInstr i &&
      (if bs.length = i.bytes then (match i with | .ret _ => true | _ => false) else zonyxBody fuel (bs.drop i.bytes))

/-- Whether a Zonyx section is well-formed (R502). (DEDUCED, log 76.) -/
def zonyxOk (bs : List Byte) : Bool :=
  let n := fieldAt bs 4 4
  decide (16 + 32 * n ≤ bs.length) && decide (fieldAt bs 0 2 = 1) && decide (fieldAt bs 2 2 = 0) && decide (fieldAt bs 8 8 = 0) &&
  (upto (bs.length / 32)).all (fun k =>
    decide (n ≤ k) ||
    (let w (o m : Nat) : Nat := fieldAt bs (16 + 32 * k + o) m
     let body := w 0 4
     let len := w 4 4
     decide (1 ≤ w 8 4) && decide (w 8 4 ≤ 2 ^ 24) && decide (w 12 4 < 4) && decide (w 16 16 = 0) && decide (body + len ≤ bs.length) &&
     zonyxBody (len / 8 + 1) ((bs.drop body).take len)))

/-! ### The refusal of a file (R490) -/

/-- Whether a file keeps every limit of the chapter and has no reserved field that is not zero. -/
def hyLimits (f : List Byte) : Bool :=
  headerLimits f && sectionLimits f && noteLimits f && symbolLimits f && relocLimits f && bindingLimits f && portageLimits f &&
  (ofType f 12).all (fun p => zonyxOk (p.2.contents f))

/-- Whether a symbol is left unresolved that no binding entry names. -/
def unresolved (f : List Byte) (gs : List HyGlobal) : Bool :=
  (upto (hySymbols f).length).any (fun k =>
    match (hySymbols f)[k]? with
    | some y => (symbolAt f (fun _ => 0) gs y).isNone && (ofType f 10).all (fun p => !(bindingSyms f p.2).contains k)
    | none => false)

/-- Whether a relocation other than one whose symbol is not resolved has no place or value. -/
def badReloc (f : List Byte) (place : Nat → Nat) (gs : List HyGlobal) (p : Nat × HyReloc) : Bool :=
  (relocWrite f place gs p.1 p.2).isNone &&
  (decide (p.2.kind = 0 ∨ 7 < p.2.kind) || ((hySymbols f)[p.2.sym]?.any (fun y => (symbolAt f place gs y).isSome)) ||
    decide (p.2.kind = 6 ∨ p.2.kind = 7) || ((hySections f)[p.1]?.any (fun x =>
      decide (2 ≤ p.2.kind ∧ p.2.kind ≤ 4) && (x.literal f p.2.off).isNone)))

/-- The first status of R490 that applies to a file, with its sections placed and the modules loaded before; none where it loads. -/
def hyStatus (f : List Byte) (place : Nat → Nat) (gs : List HyGlobal) : Option Nat :=
  if fieldAt f 0 4 ≠ 0x4F565948 then some 0x01
  else if fieldAt f 4 2 ≠ 1 then some 0x02
  else if (hySections f).any (fun x => decide (13 ≤ x.type) && x.mu) then some 0x03
  else if (hyNotes f).any (fun n => decide (n.type = 0 ∨ 3 < n.type) && n.mandatory) then some 0x04
  else if fieldAt f 8 2 ≠ 0 ∧ fieldAt f 8 2 ≠ 0x0004 then some 0x05
  else if !hyLimits f then some 0x06
  else if (hyRelocs f).any (badReloc f place gs) then some 0x07
  else if unresolved f gs then some 0x08
  else if fieldAt f 8 2 = 0 ∧ (hyNotes f).any (fun n => decide (n.type = 3) && aboveFloor n.record) then some 0x09
  else none

/-! ### Loading (R495) -/

/-- Bytes written over others at an offset. -/
def splice (bs : List Byte) (o : Nat) (new : List Byte) : List Byte := bs.take o ++ new ++ bs.drop (o + new.length)

/-- The bytes of a section when loaded: zero-filled data zeroed, the relocations applied, the states of a binding table's entries 0. -/
def loadedBytes (f : List Byte) (place : Nat → Nat) (gs : List HyGlobal) (k : Nat) (x : HySection) : List Byte :=
  let bs := if x.type = 4 then List.replicate x.size 0 else x.contents f
  let bs := (hyRelocs f).foldl (fun bs r =>
    if r.1 = k then (match relocWrite f place gs k r.2 with | some (o, new) => splice bs o new | none => bs) else bs) bs
  if x.type = 10 ∨ x.type = 11 then (upto (x.size / 16)).foldl (fun bs j => splice bs (16 * j) [0, 0, 0, 0]) bs else bs

/-- The attribute bits of the leaves that map a section: R, W, X and SC of R480. A page that is written is open to atomics, as the binding tables
need (R500). (DEDUCED, log 76.) -/
def leafBits (x : HySection) : Nat := 4 + (if x.write then 8 + 32 else 0) + (if x.exec then 16 else 0) + (if x.scl then 512 else 0)

/-- The sections that a load writes, by index. -/
def loadedSections (f : List Byte) : List (Nat × HySection) :=
  ((upto (hyCount f)).zip (hySections f)).filter (fun p => p.2.alloc && decide (p.2.type < 13))

/-- Where a loader places the sections of a file, by index: their addresses, and the first frame of HBM4E of each one's pages. -/
structure Placement where
  at' : Nat → Nat
  frame : Nat → Nat

/-- The pages of a section of `n` bytes. -/
def Placement.pages (p : Placement) (k n : Nat) : Nat := (p.at' k % 65536 + n + 65535) / 65536

/-- Whether a placement is aligned as ALIGN asks, in the global window and in HBM4E, no two sections on one page or frame. -/
def placed (f : List Byte) (p : Placement) : Bool :=
  let l := loadedSections f
  let apart (a n b m : Nat) : Bool := decide (a / 65536 + n ≤ b / 65536) || decide (b / 65536 + m ≤ a / 65536)
  l.all (fun x => decide (p.at' x.1 % 2 ^ x.2.align = 0) && decide (p.at' x.1 + x.2.size ≤ estBase) && decide (p.frame x.1 % 65536 = 0) &&
    decide (p.frame x.1 + 65536 * p.pages x.1 x.2.size ≤ hbmBytes)) &&
  l.all (fun x => l.all (fun y => decide (x.1 = y.1) ||
    (apart (p.at' x.1) (p.pages x.1 x.2.size) (p.at' y.1) (p.pages y.1 y.2.size) &&
     apart (p.frame x.1) (p.pages x.1 x.2.size) (p.frame y.1) (p.pages y.1 y.2.size))))

/-- The file as the loader keeps it: ADDR of each section that it loads holds the load address (R489). -/
def addressed (f : List Byte) (p : Placement) : List Byte :=
  (loadedSections f).foldl (fun f x => splice f (fieldAt f 0x10 8 + 48 * x.1 + 0x18) (toBytes 8 (p.at' x.1))) f

/-- Where the level-3 entry of an address stands, under tables that are present (R477, R479). -/
def leafPlace (s : State) (va : Nat) : Nat → Nat → Nat → Option Nat
  | 0, _, _ => none
  | fuel + 1, level, base =>
    let shift := match level with | 0 => 39 | 1 => 30 | 2 => 21 | _ => 16
    let bits := match level with | 0 => 13 | 1 => 9 | 2 => 9 | _ => 5
    let at' := base + 8 * (va / 2 ^ shift % 2 ^ bits)
    if level = 3 then some at'
    else
      let e : BitVec 64 := BitVec.ofNat 64 (ofBytes (s.bytes (.hbm at') 8))
      if e.getLsbD 0 && !e.getLsbD 1 && !tableBad level e then leafPlace s va fuel (level + 1) (fld e 8 44 * 256) else none

/-- A 64 KiB page of a context mapped to a frame of HBM4E with attribute bits (R480); none where a table above it is missing. -/
def mapPage (s : State) (asid va frame bits : Nat) : Option State := do
  let x ← tget s.ctxs asid
  let at' ← leafPlace s va 4 0 x.troot
  some (homeWrite s (.hbm at') (toBytes 8 (3 + bits + frame)))

/-- A section on its pages: mapped with its attributes, its bytes written at their home (R495). -/
def loadSection (asid : Nat) (f : List Byte) (p : Placement) (gs : List HyGlobal) (s : State) (x : Nat × HySection) : Option State := do
  let va := p.at' x.1
  let s ← (upto (p.pages x.1 x.2.size)).foldlM (fun s i =>
    mapPage s asid (va / 65536 * 65536 + 65536 * i) (p.frame x.1 + 65536 * i) (leafBits x.2)) s
  some (homeWrite s (.hbm (p.frame x.1 + va % 65536)) (loadedBytes f p.at' gs x.1 x.2))

/-- What a load comes to: the status of the refusal; nothing, where the placement does not suit the file or a page table is missing; the state
with the module in memory, and the global symbols of the context's modules. -/
inductive Load where
  | refused (status : Nat)
  | unplaced
  | ok (s : State) (gs : List HyGlobal)

/-- A module loaded into a context (R490, R495): nothing of a refused file is written. (DEDUCED, log 76.) -/
def loadModule (s : State) (asid : Nat) (f : List Byte) (p : Placement) (gs : List HyGlobal) : Load :=
  match hyStatus f p.at' gs with
  | some st => .refused st
  | none =>
    if !placed f p then .unplaced
    else
      match (loadedSections f).foldlM (loadSection asid f p gs) s with
      | some t => .ok t (gs ++ moduleGlobals f p.at' gs)
      | none => .unplaced

/-- Modules loaded one after another into a context, each resolved against those before it (R493): up to the first that is not loaded. -/
def loadModules (s : State) (asid : Nat) : List (List Byte × Placement) → List HyGlobal → Load
  | [], gs => .ok s gs
  | (f, p) :: r, gs =>
    match loadModule s asid f p gs with
    | .ok t gs => loadModules t asid r gs
    | x => x

/-- The fields of a launch record that a loader fills beside the entry points and the flume table (R492). -/
structure LaunchFields where
  param : Nat
  code : Nat
  clen : Nat
  cgen : Nat
  ptab : Nat
  succ : Nat
  dcnt : Nat

/-- The launch record that a loader builds from a template: a copy with the loader's fields filled in (R492). -/
def buildRecord (template : List Byte) (entr entf ftab : Nat) (x : LaunchFields) : List Byte :=
  let put (bs : List Byte) (o n v : Nat) : List Byte := splice bs o (toBytes n v)
  put (put (put (put (put (put (put (put (put (put (template.take 128) 0 8 entr) 8 8 entf) 0x30 8 x.param) 0x38 8 x.code) 0x40 4 x.clen) 0x44 4 x.cgen)
    0x48 8 x.ptab) 0x50 8 ftab) 0x58 8 x.succ) 0x7C 2 x.dcnt

/-- A kernel's launch record built and placed (R492): its template's flume table goes to memory that the loader has chosen, and the record to
its own; none for a symbol that has no template or no address, or where a place cannot be written. -/
def placeLaunch (s : State) (asid : Nat) (f : List Byte) (p : Placement) (y : HySymbol) (at' ftab : Nat) (x : LaunchFields) : Option State := do
  let n ← templateOf f y
  let a ← symbolAt f p.at' [] y
  let flumes := n.desc.drop 128
  let s ← if flumes = [] then some s else (ctxStore s asid ftab flumes).toOption
  (ctxStore s asid at' (buildRecord n.desc a.1 (a.2.getD 0) (if flumes = [] then 0 else ftab) x)).toOption

end Sys2Proof.Machine
end

