-- ==== Sys2Proof/Machine/Layout.lean ====
section
/-! DEFINITION. How osrak lays a code section out: no instruction crosses a fetch block, and NOPs fill what is left (R73, R82, R541). -/
namespace Sys2Proof.Machine
open Sys2Proof

/-- A NOP of a form, all of whose fields apart from LEN and OPC are zero (R82). -/
def nopBytes (fm : Form) : List Byte := toBytes fm.bytes fm.len

/-- The NOPs that fill a remainder of a fetch block, in address order (R82). -/
def fillForms (rest : Nat) : List Form :=
  match rest with
  | 8 => [.s]
  | 12 => [.e]
  | 16 => [.w]
  | 20 => [.e, .s]
  | 24 => [.w, .s]
  | 28 => [.w, .e]
  | 32 => [.w, .w]
  | _ => []

/-- A piece of a code section: its address, its bytes, and the number of the statement, none for a fill. -/
structure Piece where
  addr : Nat
  bytes : List Byte
  stmt : Option Nat
  deriving DecidableEq, Repr

/-- The fill of what is left of one fetch block from an address on. -/
def fillPieces (a rest : Nat) : List Piece :=
  ((fillForms rest).foldl (fun p fm => (p.1 + fm.bytes, p.2 ++ [⟨p.1, nopBytes fm, none⟩])) (a, ([] : List Piece))).2

/-- What has been laid out, the last piece first, and the present address. -/
structure Layout where
  pieces : List Piece
  next : Nat
  deriving DecidableEq, Repr

/-- A fill up to the end of the fetch block of the present address. -/
def Layout.fillTo (l : Layout) (t : Nat) : Layout := ⟨(fillPieces l.next (t - l.next)).reverse ++ l.pieces, t⟩

/-- The block's last instruction moved to the next block, with the fill of what it leaves (R82): the present address was 4 bytes short of
the block's end. -/
def Layout.moveLast (l : Layout) : Layout :=
  match l.pieces with
  | [] => l
  | p :: r =>
    let blk := (l.next / 32 + 1) * 32
    ⟨⟨blk, p.bytes, p.stmt⟩ :: (Layout.fillTo ⟨r, p.addr⟩ blk).pieces, blk + p.bytes.length⟩

/-- A statement's words at the next place that they fit (R82). -/
def Layout.stmt (l : Layout) (k : Nat) (bs : List Byte) : Layout :=
  let rest := 32 - l.next % 32
  let l := if bs.length ≤ rest then l else if rest = 4 then l.moveLast else l.fillTo (l.next + rest)
  ⟨⟨l.next, bs, some k⟩ :: l.pieces, l.next + bs.length⟩

/-- The first multiple of n at or after an address. -/
def alignUp (a n : Nat) : Nat := (a + n - 1) / n * n

/-- Fetch block by fetch block up to a target. -/
def Layout.fillFar : Nat → Layout → Nat → Layout
  | 0, l, _ => l
  | fuel + 1, l, t =>
    if t ≤ l.next then l else (l.fillTo (min t ((l.next / 32 + 1) * 32))).fillFar fuel t

/-- `.align n` in a code section, n a power of two (R541). -/
def Layout.align (l : Layout) (n : Nat) : Layout :=
  if n < 8 then l
  else
    let l := if l.next % 32 = 28 then l.moveLast else l
    let t := alignUp l.next n
    let t := if t = l.next + 4 ∧ t / 32 = l.next / 32 then t + n else t
    l.fillFar ((t - l.next) / 32 + 2) t

/-- A statement's words, or `.align`. -/
inductive CodeItem where
  | words (bs : List Byte)
  | align (n : Nat)
  deriving DecidableEq, Repr

/-- A code section from its address on: the statements are numbered in order. (DEDUCED, log 76.) -/
def layOut (base : Nat) (items : List CodeItem) : List Piece :=
  (items.foldl (fun p x =>
    match x with
    | .words bs => (p.1 + 1, p.2.stmt p.1 bs)
    | .align n => (p.1, p.2.align n)) (0, Layout.mk [] base)).2.pieces.reverse

end Sys2Proof.Machine
end

