-- ==== Sys2Proof/Tests/Slice0.lean ====
section
/-! SUPPORT. The model's own tests: words written out from the encoding tables of the spec, terms that the check of well-formedness refuses, single
steps with the results of the spec's own examples and tables, and states that meet the hypotheses of the statements. -/
namespace Sys2Proof.Tests
open Sys2Proof Sys2Proof.Machine Sys2Proof.Claims

/-! ### Words (R73 to R80, and the entry of each instruction) -/

/-- A frame with every field but the form zero. -/
def fr (form : Form) : Fr := ⟨form, false, 0, false, 0, 0, 0, false, false, false⟩

/-- 32-bit words as bytes, little-endian (R5). -/
def bytesOfWords (ws : List Nat) : List Byte := ws.flatMap (leBytes 4)

/-- Each list of words decodes to its instruction, which encodes to the same words. -/
def reads (l : List (List Nat × Instr)) : Bool :=
  l.all (fun p => decide (decode (bytesOfWords p.1) = .ok p.2) && decide (encode p.2 = bytesOfWords p.1))

/-- The words are refused for this reason. -/
def refuses (l : List (List Nat × DecodeError)) : Bool := l.all (fun p => decide (decode (bytesOfWords p.1) = .error p.2))

/-- A header with the given fields, the others 0 (R178). -/
def hd (afmt bfmt : Elem) (mq : BitVec 4) (np : BitVec 3) (sp : BitVec 2) (za : Bool) (row16 : BitVec 7) : Header :=
  ⟨afmt, bfmt, false, false, mq, np, sp, false, za, false, false, row16⟩

theorem test_decode_control_1 : reads [
    ([0x00000000, 0x00000000], .nop (fr .s) 0),
    ([0x00000005, 0x80000140, 0xFFFFFFE0], .bra (fr .l) 0xFFFFFFE0 5),
    ([0x00000006, 0x00000000, 0x00030818, 0x00000040], .braDec (fr .w) 24 0x40 3),
    ([0xC0000009, 0x00000000, 0x00070000], .brx (fr .e) 12 7),
    ([0x0000000D, 0x80000000, 0x00000100], .call (fr .l) 0x100),
    ([0xC0000010, 0x00000000], .callx (fr .s) 12),
    ([0x00000014, 0x00000000], .ret (fr .s)),
    ([0x00000019, 0x00000000, 0x00090000], .confl (fr .e) 9),
    ([0x0000001C, 0x00000000], .exit (fr .s)),
    ([0x00000021, 0x80002000, 0x00000007], .trap (fr .l) 7 0x80),
    ([0x00000025, 0x80000000, 0x00000003], .svc (fr .l) 3),
    ([0x0000003D, 0x80000000, 0x00000005], .bkpt (fr .l) 5),
    ([0x00000028, 0x00000000], .rth (fr .s))] = true := by decide

theorem test_decode_control_2 : reads [
    ([0x0000002C, 0x00000000], .yieldw (fr .s)),
    ([0xC0200031, 0x00000000, 0x110D0018], .waitv (fr .e) 8 12 0 (.reg 24) .glob .b64 .blk true),
    ([0x00200035, 0x00000000, 0x00200000], .movs (fr .e) 8 .lclk),
    ([0x0000003A, 0x00000000, 0x00210000, 0x0000002A], .sets (fr .w) (.lit 0x2A) .seed),
    ([0x00000355, 0x80000000, 0x00000002], .portage (fr .l) 2)] = true := by decide

theorem test_decode_lanes_1 : reads [
    ([0x00200041, 0x80000000, 0x00000123], .mov (fr .l) 8 (.lit 0x123)),
    ([0xC0200045, 0x00000400, 0x00050018], .iadd (fr .e) 8 (.reg 12) (.reg 16) (some (.reg 24)) .signed),
    ([0xC0200049, 0x80000080, 0x00000001], .isub (fr .l) 8 (.reg 12) (.lit 1) none .unsigned),
    ([0xC020004C, 0x00000400], .imul (fr .s) 8 12 (.reg 16)),
    ([0xC0200051, 0x80000040, 0x00000003], .imulh (fr .l) 8 12 (.lit 3) true),
    ([0xC0200055, 0x00000400, 0x00030018], .imad (fr .e) 8 (.reg 12) (.reg 16) (.reg 24) true true),
    ([0xC0200059, 0x80000040, 0x00000004], .imin (fr .l) 8 12 (.lit 4) true),
    ([0xC020005C, 0x00000400], .imax (fr .s) 8 12 (.reg 16) false),
    ([0xC0200060, 0x00000000], .iabs (fr .s) 8 12),
    ([0xC0200065, 0x00000400, 0x00030000], .iadd64 (fr .e) 8 12 16 true .sx),
    ([0xC0200069, 0x00000400, 0x001D0018], .lea (fr .e) 8 (.reg 12) (.reg 16) (some (.reg 24)) 5 true),
    ([0xC020006D, 0x00000400, 0x00010018], .isad (fr .e) 8 (.reg 12) (.reg 16) (.reg 24) true),
    ([0xC0200071, 0x00000400, 0x00050018], .idot4 (fr .e) 8 (.reg 12) (.reg 16) (.reg 24) true false true)] = true := by decide

theorem test_decode_lanes_2 : reads [
    ([0xC0200076, 0x00000400, 0x40010000, 0x00000001], .sel (fr .w) 8 (.reg 12) (.reg 16) (.lit 1) true),
    ([0xC0200079, 0x00000400, 0x00010018], .prmt (fr .e) 8 (.reg 12) (.reg 16) (.reg 24) true),
    ([0xC020007D, 0x00000000, 0x02FF0000], .moviRead (fr .e) 8 12 767),
    ([0xC000007D, 0x00000400, 0x00040800], .moviWrite (fr .e) 12 16 4),
    ([0xC0200081, 0x80000000, 0x0000000F], .and (fr .l) 8 12 (.lit 0xF)),
    ([0xC0200084, 0x00000400], .or (fr .s) 8 12 (.reg 16)),
    ([0xC0200088, 0x00000400], .xor (fr .s) 8 12 (.reg 16)),
    ([0xC020008C, 0x00000400], .andn (fr .s) 8 12 (.reg 16)),
    ([0xC0200091, 0x80000000, 0x00000020], .shl (fr .l) 8 12 (.lit 32)),
    ([0xC0200094, 0x00000400], .shr (fr .s) 8 12 (.reg 16)),
    ([0xC0200098, 0x00000400], .sar (fr .s) 8 12 (.reg 16)),
    ([0xC020009C, 0x00000400], .rot (fr .s) 8 12 (.reg 16)),
    ([0xC02000A0, 0x00000000], .popc (fr .s) 8 12)] = true := by decide

theorem test_decode_lanes_3 : reads [
    ([0xC02000A4, 0x00000000], .clz (fr .s) 8 12),
    ([0xC02000A8, 0x00000000], .brev (fr .s) 8 12),
    ([0xC02000AE, 0x00000000, 0x00010000, 0x00000804], .bfx (fr .w) 8 (.reg 12) (.lit 0x804) true),
    ([0xC02000B1, 0x00000400, 0x00000018], .bfi (fr .e) 8 (.reg 12) (.reg 16) (.reg 24)),
    ([0xC02000B5, 0x00000400, 0x00E80018], .lop3 (fr .e) 8 (.reg 12) (.reg 16) (.reg 24) 0xE8),
    ([0xC02000C1, 0x00000400, 0x000D0018], .icmp (fr .e) 8 24 (.reg 12) (.reg 16) .ge true),
    ([0xC02000C5, 0x00000400, 0x00270018], .fcmp (fr .e) 8 24 (.reg 12) (.reg 16) .nan false .bf16),
    ([0xC02000C9, 0x00000000, 0x06080000], .fclass (fr .e) 8 12 0x208 .f16),
    ([0xC02000CD, 0x00000000, 0x00001800], .vote (fr .e) .ballot 8 12),
    ([0xC02000D1, 0x00000000, 0x00000818], .matchw (fr .e) true 8 24 12)] = true := by decide

theorem test_decode_floats_1 : reads [
    ([0xC0200101, 0x00000400, 0x008B0000], .fadd (fr .e) 8 (.reg 12) (.reg 16) .rdn true false false false true),
    ([0xC0200104, 0x00000400], .fsub (fr .s) 8 (.reg 12) (.reg 16) .rne false false false false false),
    ([0x0020010A, 0x00000400, 0x80700000, 0x40000000], .fmul (fr .w) 8 (.lit 0x40000000) (.reg 16) .rne false true true true false),
    ([0xC020010D, 0x00000400, 0x03040018], .ffma (fr .e) 8 (.reg 12) (.reg 16) (.reg 24) .rna false false false false false true true),
    ([0xC0200110, 0x00000400], .fmin (fr .s) 8 12 (.reg 16)),
    ([0xC0200115, 0x80000000, 0x00000000], .fmax (fr .l) 8 12 (.lit 0)),
    ([0xC0200118, 0x00000000], .frcp (fr .s) 8 12),
    ([0xC020011C, 0x00000000], .frsq (fr .s) 8 12),
    ([0xC0200121, 0x00000000, 0x00010000], .fsqrt (fr .e) 8 12 .rz),
    ([0xC0200124, 0x00000000], .fexp2 (fr .s) 8 12),
    ([0xC0200128, 0x00000000], .flog2 (fr .s) 8 12),
    ([0xC020012D, 0x00000000, 0x00000018], .fsincos (fr .e) 8 24 12),
    ([0xC0200130, 0x00000000], .ftanh (fr .s) 8 12)] = true := by decide

theorem test_decode_floats_2 : reads [
    ([0xC0200135, 0x00000400, 0x00020000], .fdiv (fr .e) 8 12 16 .rup),
    ([0xC0200141, 0x80000A00, 0x3C003C00], .h2add (fr .l) 8 12 (.lit 0x3C003C00) .rne true false true),
    ([0xC0200145, 0x00000400, 0x00110000], .h2mul (fr .e) 8 12 (.reg 16) .rz false true false),
    ([0xC0200149, 0x00000400, 0x00480018], .h2fma (fr .e) 8 (.reg 12) (.reg 16) (.reg 24) .rne true false false true),
    ([0xC020014D, 0x80000200, 0x00000000], .h2min (fr .l) 8 12 (.lit 0) true),
    ([0xC0200150, 0x00000400], .h2max (fr .s) 8 12 (.reg 16) false),
    ([0xC0200161, 0x00000000, 0x04600000], .cvt (fr .e) 8 12 .f32 .e4m3 .rz),
    ([0xC0200165, 0x00000000, 0x03010000], .cvti (fr .e) 8 12 .bf16 .i32 .rne),
    ([0xC0200169, 0x00000000, 0x10390000], .cvtf (fr .e) 8 12 .n32 .bf16 .rna),
    ([0xC020016D, 0x00000400, 0x0B270018], .pack2 (fr .e) 8 12 16 (some 24) .e2m1 .rz 3),
    ([0xC0200171, 0x00000000, 0x01030018], .unpk2 (fr .e) 8 24 12 .e4m3 1),
    ([0xC0200175, 0x00000400, 0x1FE40000], .srnd (fr .e) 8 (.reg 12) (.reg 16) .e5m2 255)] = true := by decide

theorem test_decode_blocks_1 : reads [
    ([0xC0200181, 0x00000000, 0x00020800], .bmax (fr .e) .sgn 8 12 .bf16),
    ([0xC0200185, 0x00000000, 0x00010000], .bmin (fr .e) .abs 8 12 .f16),
    ([0xC0200189, 0x00000000, 0x00040800], .bscale (fr .e) .ocp 8 12 .mx4),
    ([0xC020018D, 0x00000400, 0x00000800], .bzp (fr .e) .a8 8 12 16),
    ([0xC0200191, 0x00000400, 0x01EF1018], .bquant (fr .e) .given 8 24 (.reg 12) (some (.reg 16)) .a8 .sr 7),
    ([0xC0200195, 0x00000400, 0x002C0000], .bdeq (fr .e) 8 (.reg 12) (.reg 16) .mx4 .bf16 .rz),
    ([0xC0200199, 0x00000400, 0x00760000], .bpack (fr .e) 8 12 16 .a4 .g128 3),
    ([0xC020019D, 0x00000000, 0x002F0018], .bunpk (fr .e) 8 24 12 .a8 .g64 1),
    ([0xC02001A1, 0x00000400, 0x000E1000], .bhealth (fr .e) .given 8 12 (some 16) .a4 .rz),
    ([0xC02001A5, 0x00000400, 0x00030018], .brescale (fr .e) 8 (.reg 12) (.reg 16) (.reg 24) .mx6e3 .rne 0),
    ([0xC02001C1, 0x00000400, 0x00051818], .shfl (fr .e) .xor 8 24 (.reg 12) (.reg 16) 5),
    ([0xC02001C5, 0x00000000, 0x00005000], .redw (fr .e) .bxor 8 12),
    ([0xC02001C9, 0x00000000, 0x00011800], .scanw (fr .e) .iadd 8 12 true)] = true := by decide

theorem test_decode_blocks_2 : reads [
    ([0xC02001CD, 0x00000000, 0x00010000], .bcastw (fr .e) 8 12 none true)] = true := by decide

theorem test_decode_memory_1 : reads [
    ([0xC0200202, 0x00000000, 0x005D0000, 0xFFFFFFFC], .ld (fr .w) 8 12 0xFFFFFFFC .glob .n8 .nc),
    ([0xC0000205, 0x00000000, 0x008B0018], .st (fr .e) 12 0 (.reg 24) .clus .b64 .lu),
    ([0xC0200209, 0x00000000, 0x00340000], .lds (fr .e) 8 12 0 .est .i16),
    ([0xC000020D, 0x00000000, 0x002A0018], .sts (fr .e) 12 0 24 .core .n16),
    ([0xC0200211, 0x00000000, 0x00B60800], .ldbs (fr .e) true 8 12 0 .a4 .g128 1 true),
    ([0xC0000215, 0x00000000, 0x002F0018], .stbs (fr .e) false 12 0 24 .a8 .g64 1 false),
    ([0xC0200219, 0x00000400, 0x00000018], .ldsc (fr .e) 8 24 12 16),
    ([0xC000021D, 0x00000400, 0x00010018], .stsc (fr .e) 12 16 24 true),
    ([0xC0200221, 0x00000000, 0x050D0000], .ldaq (fr .e) 8 12 0 .glob .b64 .dev),
    ([0xC0000225, 0x00000000, 0x09020018], .strl (fr .e) 12 0 24 .core .b32 .lv1),
    ([0xC0000229, 0x00000000, 0x00040800], .pref (fr .e) .l2 12 0 .est),
    ([0xC000022D, 0x00000000, 0x00000000], .cflushWb (fr .e) 12),
    ([0xC000022D, 0x00000000, 0x00000800], .cflushWbinv (fr .e) 12)] = true := by decide

theorem test_decode_memory_2 : reads [
    ([0x0000022D, 0x00000000, 0x00001000], .cflushWball (fr .e)),
    ([0x0000022D, 0x00000000, 0x00001800], .cflushWbinvall (fr .e)),
    ([0xC0200231, 0x00000000, 0x00000000], .wayset (fr .e) 8 12),
    ([0xC0200241, 0x00000000, 0x36054818], .atom (fr .e) .exch 8 12 0 (.reg 24) .glob .b32 .fab .acqrel),
    ([0xC0200245, 0x00000000, 0x140A0018], .atomc (fr .e) 8 12 0 24 .core .b64 .die .acq),
    ([0xC0000249, 0x00000000, 0x22057018], .red (fr .e) .h2add 12 0 (.reg 24) .glob .b32 .gng .rel),
    ([0x0000024D, 0x00000000, 0x05000000], .fenceFull (fr .e) .dev),
    ([0x0000024D, 0x00000000, 0x01000800], .fenceAcq (fr .e) .blk),
    ([0x0000024D, 0x00000000, 0x06001000], .fenceRel (fr .e) .fab),
    ([0xC0200251, 0x00000000, 0x00000000], .chunk (fr .e) 8 12)] = true := by decide

theorem test_decode_sluice_1 : reads [
    ([0xC0200281, 0x00000400, 0x00030018], .slxCopy (fr .e) 8 (some (.reg 12)) (some (.reg 16)) 24),
    ([0x00200281, 0x00000000, 0x00000818], .slxCvt (fr .e) 8 none none 24),
    ([0xC0200281, 0x00000000, 0x00011018], .slxRescale (fr .e) 8 (some (.reg 12)) none 24),
    ([0x00200281, 0x00000400, 0x00021818], .slxTr (fr .e) 8 none (some (.reg 16)) 24),
    ([0x00200281, 0x00000000, 0x00002018], .slxFill (fr .e) 8 none none 24),
    ([0x00200281, 0x00000000, 0x00002818], .slxKvg (fr .e) 8 none none 24),
    ([0x00200281, 0x00000000, 0x00003018], .slxTagck (fr .e) 8 none none 24),
    ([0x00200284, 0x00000000], .bseal (fr .s) 8),
    ([0xC0200289, 0x00000000, 0x00000000], .bwait (fr .e) 8 12),
    ([0xC020028D, 0x00000000, 0x000F0000], .flput (fr .e) 8 12 15),
    ([0xC0200291, 0x00000000, 0x00010000], .flget (fr .e) 8 12 1),
    ([0xC0200295, 0x00000000, 0x00020000], .flwaitData (fr .e) 8 12 2),
    ([0xC0200295, 0x00000000, 0x00030800], .flwaitRoom (fr .e) 8 12 3)] = true := by decide

theorem test_decode_sluice_2 : reads [
    ([0xC0000299, 0x00000000, 0x001F0000], .weirsetSet (fr .e) 12 31),
    ([0x00000299, 0x00000000, 0x00040800], .weirsetClr (fr .e) 4),
    ([0x0000029D, 0x00000000, 0x00000000], .engsyncCmp (fr .e)),
    ([0x0000029D, 0x00000000, 0x04000800], .engsyncPub (fr .e) .die)] = true := by decide

theorem test_decode_tiles_1 : reads [
    ([0x002002C1, 0x00000000, 0x000E0000], .convene (fr .e) 8 2 3),
    ([0x000002C4, 0x00000000], .disband (fr .s)),
    ([0xC00002CA, 0x00000400, 0x40000000, 0x084131CE], .tmma (fr .w) 12 16 (hd .mx4 .mx4 3 1 0 true 4)),
    ([0xC00002CE, 0x00000400, 0x40000000, 0x00000201], .tmmaw (fr .w) 12 16 (hd .bf16 .a4 0 0 0 false 0) .g32),
    ([0xC00002D2, 0x00000400, 0x40020000, 0x00000228], .tmmaz (fr .w) 12 16 (hd .i8 .a8 0 0 0 false 0) .g128),
    ([0xC00002FE, 0x00000400, 0x40000000, 0x00080021], .tmmas (fr .w) 12 16 (hd .bf16 .bf16 0 0 1 false 0)),
    ([0xC00002D5, 0x00000000, 0x00000000], .taccZero (fr .e) (.reg 12)),
    ([0xC00002D5, 0x00000000, 0x00000800], .taccLive (fr .e) (.reg 12)),
    ([0xC00002D5, 0x00000000, 0x00001000], .taccDead (fr .e) (.reg 12)),
    ([0xC00002D6, 0x00000000, 0x40001800, 0x3F000000], .taccMul (fr .w) (.reg 12) (.lit 0x3F000000)),
    ([0xC02002D9, 0x00000000, 0x00C20000], .trdReg (fr .e) 8 (.reg 12) .f16 2 .rz),
    ([0xC00002D9, 0x00000400, 0x01AE0818], .trdRec (fr .e) (.reg 12) 16 (.reg 24) .mx4 .sr true),
    ([0xC02002DD, 0x00000000, 0x00210000], .twrReg (fr .e) 8 (.reg 12) .bf16 1)] = true := by decide

theorem test_decode_tiles_2 : reads [
    ([0xC00002DD, 0x00000400, 0x000E0800], .twrRec (fr .e) (.reg 12) 16 .mx4),
    ([0xC00002E1, 0x00000400, 0x18024000], .tew (fr .e) .mul (.reg 12) (some (.reg 16)) none 2 true true),
    ([0xC00002E5, 0x00000000, 0x08040800], .tred (fr .e) .max (.reg 12) 4 true),
    ([0xC00002E9, 0x00000000, 0x00030018], .tsmx (fr .e) (.reg 12) (some (.reg 24)) 3 false),
    ([0xC00002ED, 0x00000000, 0x00050018], .tnorm (fr .e) (.reg 12) (.reg 24) 5 false),
    ([0xC00002F1, 0x00000000, 0x00040800], .tcvt (fr .e) .ocp (.reg 12) .mx4 .rne 0),
    ([0xC00002F5, 0x00000400, 0x00010000], .bsload (fr .e) 12 16 true),
    ([0x000002F8, 0x00000000], .rcfence (fr .s))] = true := by decide

theorem test_decode_attention : reads [
    ([0xC0200301, 0x00000400, 0x001F0018], .kvxlt (fr .e) 8 24 (.reg 12) (.reg 16) 15 true),
    ([0xC0200305, 0x00000000, 0x00030018], .kvapp (fr .e) 8 24 (.reg 12) 3),
    ([0x00200309, 0x00000000, 0x00000000], .roleGet (fr .e) 8),
    ([0x00000309, 0x00000000, 0x00020800], .roleSet (fr .e) .mma),
    ([0xC020030D, 0x00000000, 0x00010000], .tbarInit (fr .e) 8 12 1),
    ([0xC020030D, 0x00000000, 0x00020800], .tbarArrive (fr .e) 8 12 2),
    ([0xC020030D, 0x00000000, 0x00031000], .tbarWait (fr .e) 8 12 3),
    ([0xC020030D, 0x00000000, 0x00041800], .tbarArwt (fr .e) 8 12 4),
    ([0xC0200311, 0x00000400, 0x00000018], .cftest (fr .e) 8 (.reg 12) (.reg 16) (.reg 24)),
    ([0xC0200315, 0x00000400, 0x00050000], .exittok (fr .e) 8 12 16 5),
    ([0xC0200319, 0x00000400, 0x00060000], .bfwait (fr .e) 8 12 16 6)] = true := by decide

theorem test_decode_system_1 : reads [
    ([0xC0200341, 0x00000000, 0x00000000], .recon (fr .e) 8 12),
    ([0x00000344, 0x00000000], .recoff (fr .s)),
    ([0xC0200349, 0x00000000, 0x00000000], .ebb (fr .e) 8 12),
    ([0xC020034D, 0x00000000, 0x00000800], .ebbstat (fr .e) .seq 8 12),
    ([0x00200351, 0x00000000, 0x00000000], .migrRiffle (fr .e) 8),
    ([0x00200351, 0x00000000, 0x00000800], .migrReach (fr .e) 8),
    ([0x00200351, 0x00000000, 0x00001000], .migrCancel (fr .e) 8),
    ([0xC0000381, 0x00000000, 0x001F0000], .barSync (fr .e) (some 12) 15),
    ([0x00000381, 0x00000000, 0x00020800], .barArr (fr .e) none 2),
    ([0x00000385, 0x00000000, 0x02000000], .gbar (fr .e) .gng),
    ([0x00000388, 0x00000000], .xlock (fr .s)),
    ([0x0000038C, 0x00000000], .xfree (fr .s)),
    ([0xC0200391, 0x00000000, 0x05000000], .nmq (fr .e) 8 12 .dev)] = true := by decide

theorem test_decode_system_2 : reads [
    ([0xC0200395, 0x00000000, 0x00000000], .nmwaitWait (fr .e) 8 12),
    ([0xC0200395, 0x00000000, 0x00000800], .nmwaitTest (fr .e) 8 12),
    ([0xC0200399, 0x00000000, 0x00000000], .tqpopWait (fr .e) 8 12),
    ([0xC0200399, 0x00000000, 0x00000800], .tqpopTry (fr .e) 8 12),
    ([0xC020039D, 0x00000400, 0x00000000], .tqpushWait (fr .e) 8 12 16),
    ([0xC020039D, 0x00000400, 0x00000800], .tqpushTry (fr .e) 8 12 16),
    ([0xC020039D, 0x00000000, 0x00001000], .tqpushClose (fr .e) 8 12),
    ([0xC02003A1, 0x00000000, 0x00000000], .launch (fr .e) 8 12),
    ([0xC02003A6, 0x00000000, 0x00001000, 0x00000400], .coll (fr .w) .agat 8 12 (.lit 0x400))] = true := by decide

/-- R81: LEN 3; a word that would cross its fetch block; X in form w; an opcode without a form; a form that the opcode lacks; SETC 7; a reserved
space, scope, LSEL and MOD bit; a register field that is not used; UNI where it is not allowed; BASE beyond 767. -/
theorem test_refused_words : refuses [
    ([0x00000003, 0x00000000], .lenReserved),
    ([0x00000001, 0x00000000], .crossesBlock),
    ([0x0000000A, 0x80000000, 0x00000000, 0x00000000], .extensionKind),
    ([0x00000000, 0x80000000], .extensionKind),
    ([0x000003C0, 0x00000000], .opcode),
    ([0x0000000C, 0x00000000], .form),
    ([0x00000000, 0x00700000], .counter),
    ([0xC0200202, 0x00000000, 0x00060000, 0x00000000], .reserved),
    ([0x0000024D, 0x00000000, 0x07000000], .operand),
    ([0xC0200046, 0x00000400, 0xC0000000, 0x00000001], .reserved),
    ([0xC0200045, 0x00000400, 0x00080018], .reserved),
    ([0x00200014, 0x00000000], .reserved),
    ([0x00000428, 0x00000000], .operand),
    ([0xC020007D, 0x00000000, 0x03000000], .operand)] = true := by decide

/-- The row that the table's bits give, with zeros above them. -/
theorem test_decode_table_word :
    decodeTableWord 64 0x0002014040280044 = some (.iadd { fr .s with stall := 2 } 10 (.reg 4) (.reg 5) none .wrap) ∧
    decodeTableWord 64 0x0000000000000003 = none := by decide

/-! ### Terms that the check refuses (R50 to R53, R76 to R81, and the limits that single entries state) -/

theorem test_wf_forms_and_fields :
    (Instr.iadd (fr .e) 8 (.reg 12) (.reg 16) (some (.reg 24)) .wrap).wf = true ∧
    -- a register beyond v767
    (Instr.iadd (fr .e) 768 (.reg 12) (.reg 16) none .wrap).wf = false ∧ (Instr.iadd (fr .e) 8 (.reg 800) (.reg 16) none .wrap).wf = false ∧
    -- a form that the opcode lacks, SETC 7, UNI where it is not allowed
    (Instr.mov (fr .w) 8 (.lit 1)).wf = false ∧ (Instr.mov { fr .s with setc := 7 } 8 (.reg 1)).wf = false ∧
    (Instr.trap { fr .l with uni := true } 0 0x80).wf = false ∧
    -- a literal where the form has none, none where it has one, and two of them
    (Instr.mov (fr .s) 8 (.lit 1)).wf = false ∧ (Instr.mov (fr .l) 8 (.reg 1)).wf = false ∧
    (Instr.iadd (fr .w) 8 (.lit 1) (.lit 2) none .wrap).wf = false ∧
    -- a hold on a field that is not read, HOLDC outside forms e and w
    (Instr.mov { fr .s with holdA := true } 8 (.reg 1)).wf = false ∧
    (Instr.iadd { fr .s with holdC := true } 8 (.reg 1) (.reg 2) none .wrap).wf = false := by decide

theorem test_wf_operands :
    -- an odd pair, v0 as a pair, fours and eights, a span at v0
    (Instr.lea (fr .e) 9 (.reg 12) (.reg 16) none 0 false).wf = false ∧ (Instr.callx (fr .s) 0).wf = false ∧
    (Instr.nmq (fr .e) 8 14 .dev).wf = false ∧ (Instr.slxCopy (fr .e) 8 none none 12).wf = false ∧ (Instr.bunpk (fr .e) 8 24 0 .mx4 .g32 0).wf = false ∧
    -- data that its size does not admit
    (Instr.ld (fr .e) 9 12 0 .glob .b64 .keep).wf = false ∧ (Instr.ld (fr .e) 10 12 0 .glob .b128 .keep).wf = false ∧
    (Instr.st (fr .w) 12 0 (.lit 1) .glob .b64 .keep).wf = false ∧ (Instr.st (fr .e) 12 0 (.reg 24) .glob .i8 .keep).wf = false ∧
    (Instr.lds (fr .e) 8 12 0 .glob .b32).wf = false ∧ (Instr.ldaq (fr .e) 8 12 0 .glob .n8 .dev).wf = false ∧
    (Instr.atom (fr .e) .inc 8 12 0 (.reg 24) .glob .b64 .dev .relaxed).wf = false ∧
    (Instr.red (fr .e) .exch 12 0 (.reg 24) .glob .b32 .dev .relaxed).wf = false ∧ (Instr.atomc (fr .e) 8 12 0 25 .glob .b32 .dev .relaxed).wf = false ∧
    -- branch targets, trap causes, name bases, special registers, scopes
    (Instr.bra (fr .l) 2 0).wf = false ∧ (Instr.trap (fr .l) 0 0x7F).wf = false ∧ (Instr.moviRead (fr .e) 8 12 768).wf = false ∧
    (Instr.sets (fr .e) (.reg 12) .tid).wf = false ∧ (Instr.movs (fr .e) 9 .lclk).wf = false ∧ (Instr.gbar (fr .e) .blk).wf = false ∧
    (Instr.nmq (fr .e) 8 16 .fab).wf = false := by decide

theorem test_wf_modifiers :
    -- fields that form s or form l leaves zero
    (Instr.iadd (fr .s) 8 (.reg 12) (.reg 16) none .signed).wf = false ∧ (Instr.iadd (fr .l) 8 (.reg 12) (.lit 1) (some (.reg 3)) .wrap).wf = false ∧
    (Instr.imin (fr .s) 8 12 (.reg 16) true).wf = false ∧ (Instr.brx (fr .s) 12 1).wf = false ∧
    (Instr.imad (fr .e) 8 (.reg 12) (.reg 16) (.reg 24) false true).wf = false ∧ (Instr.iadd64 (fr .s) 8 12 16 true .pair).wf = false ∧
    -- rounding, conditions, types, slots, streams
    (Instr.fadd (fr .e) 8 (.reg 12) (.reg 16) .sr false false false false false).wf = false ∧
    (Instr.fcmp (fr .e) 8 24 (.reg 12) (.reg 16) .nan true .f32).wf = false ∧ (Instr.cvt (fr .e) 8 12 .i8 .f32 .rne).wf = false ∧
    (Instr.pack2 (fr .e) 8 12 16 none .f16 .rne 1).wf = false ∧ (Instr.srnd (fr .e) 8 (.reg 12) (.reg 16) .f32 0).wf = false ∧
    (Instr.bquant (fr .e) .given 8 24 (.reg 12) (some (.reg 16)) .mx4 .rne 1).wf = false ∧ (Instr.bscale (fr .e) .tight 8 12 .a4).wf = false ∧
    (Instr.bpack (fr .e) 8 12 16 .mx4 .g64 0).wf = false ∧ (Instr.bpack (fr .e) 8 12 16 .a4 .g64 2).wf = false ∧
    (Instr.shfl (fr .e) .xor 8 24 (.reg 12) (.reg 16) 6).wf = false ∧
    -- tile descriptors and headers
    (Instr.tred (fr .e) .max (.reg 12) 0x7FF false).wf = false ∧ (Instr.trdReg (fr .e) 8 (.reg 12) .mx4 0 .rne).wf = false ∧
    (Instr.tmma (fr .w) 12 16 (hd .f32 .mx4 0 0 0 false 0)).wf = false ∧ (Instr.tmma (fr .w) 12 16 (hd .mx4 .mx4 0 0 1 false 0)).wf = false ∧
    (Instr.tmmas (fr .w) 12 16 (hd .mx4 .mx4 0 0 0 false 0)).wf = false ∧ (Instr.tmmaw (fr .w) 12 16 (hd .f16 .a4 0 0 0 false 0) .g32).wf = false ∧
    (Instr.tmmaz (fr .w) 12 16 (hd .bf16 .a4 0 0 0 false 0) .g32).wf = false ∧ (Instr.tmma (fr .w) 12 16 (hd .mx4 .mx4 15 0 0 false 127)).wf = false := by decide

/-! ### Single steps -/

set_option maxRecDepth 20000

/-- Warp 4 of the loaded program, all of its 32 threads at its entry point, about to issue. -/
def start : State := { loadProgram State.reset [] with turns := [], cur := (4, 0) }

/-- A register of warp 4 with one value in every thread. -/
def all (s : State) (r : Nat) (v : Word) : State := (List.range 32).foldl (fun s t => s.setReg (regKey 4 4 r t) v) s

/-- A register of warp 4 in one thread. -/
def one (s : State) (r t : Nat) (v : Word) : State := s.setReg (regKey 4 4 r t) v

/-- The split's threads. -/
def only (s : State) (m : BitVec 32) : State := s.modSplit 4 0 (fun sp => { sp with mask := m })

def after (o : Out) : Option State := match o with | .next t => some t | _ => none
def answers (o : Out) (p : State → Bool) : Bool := (after o).any p

/-- The word that is due for a register of warp 4, of fixed or variable latency. -/
def due (s : State) (r t : Nat) : Option Word :=
  match tget s.warps 4 with
  | none => none
  | some wp => ((wp.splits.flatMap (fun sp => sp.pend.map (fun p => (p.key, p.val))) ++ wp.flights.flatMap (·.regs)).find?
      (fun p => decide (p.1 = regKey 4 4 r t))).map (·.2)

/-- Whether an instruction issues in the state and leaves these words due, each a register, a thread and a word. -/
def gives (i : Instr) (s : State) (l : List (Nat × Nat × Word)) : Bool := answers (exec i s) (fun t => l.all (fun x => decide (due t x.1 x.2.1 = some x.2.2)))

/-- Whether the instruction raises a fault of this cause for these threads, which leaves the warp (R520). -/
def raises (i : Instr) (s : State) (k : Nat) (m : BitVec 32) : Bool :=
  answers (exec i s) (fun t => decide (t.raised.map (fun x => (x.cause, x.mask)) = [(k, m)]))

/-- The example of R107: the sum saturates, wraps, and the unsigned difference is held at 0. -/
theorem test_iadd_isub :
    let s := all (all start 4 0x7FFFFFF0) 5 0x20
    gives (.iadd (fr .e) 6 (.reg 4) (.reg 5) none .signed) s [(6, 0, 0x7FFFFFFF), (6, 31, 0x7FFFFFFF)] = true ∧
    gives (.iadd (fr .s) 6 (.reg 4) (.reg 5) none .wrap) s [(6, 0, 0x80000010)] = true ∧
    gives (.isub (fr .e) 6 (.reg 5) (.reg 4) none .unsigned) s [(6, 0, 0)] = true := by decide

/-- The example of R114. -/
theorem test_lea :
    gives (.lea (fr .w) 40 (.reg 30) (.reg 9) (some (.lit 0x80)) 2 false) (all (all (all start 30 0) 31 0x10) 9 0xFFFFFFFD)
      [(40, 3, 0x00000074), (41, 3, 0x00000010)] = true := by decide

/-- The example of R117. -/
theorem test_prmt :
    let s := all (all (all start 4 0x44332211) 5 0x88776655) 6 0x08172400
    gives (.prmt (fr .e) 8 (.reg 4) (.reg 5) (.reg 6) false) s [(8, 0, 0x00FFAA11)] = true ∧
    gives (.prmt (fr .e) 8 (.reg 4) (.reg 5) (.reg 6) true) s [(8, 0, 0x0000EE55)] = true := by decide

/-- The first example of R118: the names differ from thread to thread. A name of 768 raises 0x04 with the thread that formed it (R55); one in the
extended set, without the lock, 0x05 (R56). -/
theorem test_movi :
    let s := one (one (one (one start 5 0 3) 5 1 7) 35 0 0xAA) 39 1 0xBB
    gives (.moviRead (fr .e) 10 5 32) s [(10, 0, 0xAA), (10, 1, 0xBB)] = true ∧
    raises (.moviRead (fr .e) 10 5 32) (one s 5 2 736) 0x04 0x00000004 = true ∧
    raises (.moviRead (fr .e) 10 5 32) (one s 5 2 480) 0x05 0x00000004 = true := by decide

/-- The example of R124. -/
theorem test_bfx :
    let s := all (all start 4 0xABCD1234) 5 0x0C08
    gives (.bfx (fr .e) 8 (.reg 4) (.reg 5) false) s [(8, 0, 0x00000D12)] = true ∧
    gives (.bfx (fr .e) 8 (.reg 4) (.reg 5) true) s [(8, 0, 0xFFFFFD12)] = true := by decide

/-- The example of R126. -/
theorem test_lop3 :
    gives (.lop3 (fr .e) 8 (.reg 4) (.reg 5) (.reg 6) 0xE8) (all (all (all start 4 0x0000FFFF) 5 0x00FF00FF) 6 0x0F0F0F0F)
      [(8, 0, 0x000F0FFF)] = true := by decide

/-- The example of R127. -/
theorem test_icmp :
    let s := all (all start 4 0xFFFFFFFD) 5 2
    gives (.icmp (fr .e) 8 9 (.reg 4) (.reg 5) .lt false) s [(8, 0, 1), (9, 0, 0)] = true ∧
    gives (.icmp (fr .e) 8 9 (.reg 4) (.reg 5) .lt true) s [(8, 0, 0), (9, 0, 1)] = true := by decide

/-- The example of R128: a NaN is unordered. -/
theorem test_fcmp :
    let s := all (all start 4 0x7FC00000) 5 0x3F800000
    gives (.fcmp (fr .e) 8 9 (.reg 4) (.reg 5) .ne false .f32) s [(8, 0, 0), (9, 0, 1)] = true ∧
    gives (.fcmp (fr .e) 8 9 (.reg 4) (.reg 5) .ne true .f32) s [(8, 0, 1), (9, 0, 0)] = true := by decide

/-- The examples of R134: a tie, the same sum rounded up, and a clamped one. -/
theorem test_fadd :
    let s := all (all start 4 0x3F800000) 5 0x33800000
    gives (.fadd (fr .s) 6 (.reg 4) (.reg 5) .rne false false false false false) s [(6, 0, 0x3F800000)] = true ∧
    gives (.fadd (fr .e) 6 (.reg 4) (.reg 5) .rup false false false false false) s [(6, 0, 0x3F800001)] = true ∧
    gives (.fadd (fr .e) 6 (.reg 4) (.reg 5) .rne true false false false true) (all (all start 4 0x3E800000) 5 0x3E000000) [(6, 0, 0)] = true := by
  decide

/-- The example of R139. -/
theorem test_h2add :
    gives (.h2add (fr .s) 6 4 (.reg 5) .rne false false false) (all (all start 4 0x3C007BFF) 5 0x3C003C00) [(6, 0, 0x40007BFF)] = true := by decide

/-- The example of R41, and the one of R148. -/
theorem test_stochastic :
    dither 1 0 0 = 0x6889 ∧
    gives (.srnd (fr .e) 6 (.reg 4) (.reg 5) .e2m1 0) ((all (all start 4 0x3F400000) 5 0x3FC00000).modCtx 0 (fun k => { k with seed := 1 }))
      [(6, 0, 0x00000031)] = true := by decide

/-- The examples of R149: a value that saturates, one that becomes zero, and −0; and the one of R13. -/
theorem test_cvt :
    let s := one (one (one (all start 9 0x3F333333) 9 5 0x43FA0000) 9 6 0x39800000) 9 7 0x80000000
    gives (.cvt (fr .e) 8 9 .f32 .e4m3 .rne) s [(8, 0, 0x33), (8, 5, 0x7E), (8, 6, 0), (8, 7, 0x80)] = true ∧
    answers (exec (.cvt (fr .e) 8 9 .f32 .e4m3 .rne) s)
      (fun t => (tget t.warps 4).any (fun wp => decide (wp.fixed.map (fun x => (x.sat, x.zero)) = [(1, 1)]))) = true := by decide

/-- The example of R36 under both scale modes. -/
theorem test_scales :
    chooseScale .mx4 false [numOf 0x40A00000] = 0x7EAAB ∧ chooseScale .mx4 true [numOf 0x40A00000] = 0x7F000 := by decide

/-- The example of R159: x(t) = t/8. -/
theorem test_bquant :
    let s := (List.range 32).foldl (fun s t => one s 4 t (toF32 .rne (.fin false t (-3) 1))) start
    gives (.bquant (fr .e) .tight 6 7 (.reg 4) none .mx4 .rne 0) s [(6, 31, 7), (6, 1, 0), (7, 0, 0x0007E4AB), (7, 31, 0x0007E4AB)] = true := by decide

/-- The example of R206. -/
theorem test_cftest :
    let s := one (one (all (only start 3) 4 0x40400000) 5 0 0x3FA00000) 5 1 0x3F400000
    gives (.cftest (fr .e) 8 (.reg 4) (.reg 5) (.reg 6)) (all s 6 0x3EE66666) [(8, 0, 1), (9, 0, 0x3F000000), (8, 1, 1), (9, 1, 0x3F000000)] = true ∧
    gives (.cftest (fr .e) 8 (.reg 4) (.reg 5) (.reg 6)) (all s 6 0x3F020000) [(8, 0, 0)] = true := by decide

/-- The example of R221: four threads on one word that holds 10. -/
theorem test_atom_add :
    let s := (List.range 4).foldl (fun s t => one s 24 t (BitVec.ofNat 32 (t + 1))) (all (only start 0xF) 30 0x5000)
    let s := s.setBytes (.hbm 0x5000) [10, 0, 0, 0]
    gives (.atom (fr .e) .add 8 30 0 (.reg 24) .glob .b32 .dev .relaxed) s [(8, 0, 10), (8, 1, 11), (8, 2, 13), (8, 3, 16)] = true ∧
    answers (exec (.atom (fr .e) .add 8 30 0 (.reg 24) .glob .b32 .dev .relaxed) s) (fun t => decide (t.bytes (.hbm 0x5000) 4 = [20, 0, 0, 0])) = true := by
  decide

/-- The example of R225. -/
theorem test_chunk_draws :
    let r (n : Nat) : List Byte := toBytes 4 n ++ toBytes 4 256 ++ toBytes 4 32 ++ toBytes 4 2
    chunkDraw (r 0) = (0, 128) ∧ chunkDraw (r 128) = (128, 64) ∧ chunkDraw (r 192) = (192, 32) ∧ chunkDraw (r 224) = (224, 32) ∧
    chunkDraw (r 256) = (256, 0) := by decide

/-- A store to global memory is read back by a load of the same core, sign-extended or not (R212), and reaches its home with a release (R330). -/
theorem test_store_load :
    let s := all (all (only start 1) 30 0x6000) 24 0x12348001
    let t := (after (exec (.st (fr .e) 30 0 (.reg 24) .glob .b32 .keep) s)).getD s
    let u := t.modSplit 4 0 (fun sp => { sp with next := 0 })
    gives (.ld (fr .e) 8 30 0 .glob .i16 .keep) u [(8, 0, 0xFFFF8001)] = true ∧
    gives (.ld (fr .w) 8 30 2 .glob .n16 .keep) u [(8, 0, 0x1234)] = true ∧
    answers (exec (.fenceRel (fr .e) .dev) u) (fun t => decide (t.bytes (.hbm 0x6000) 4 = [0x01, 0x80, 0x34, 0x12])) = true := by decide

/-- A load whose address no page maps traps with 0x20 for its thread (R208, R482): a host-served fault waits for the host. -/
theorem test_load_fault :
    answers (exec (.ld (fr .e) 8 30 0 .glob .b32 .keep) (all (all (only start 2) 30 0) 31 0x40))
      (fun t => decide (t.raised.map (fun x => (x.cause, x.mask)) = [(0x20, 2)])) = true := by decide

/-- The example of R261: TRAP #0x81, #0x55 at 0x200 in threads 0 to 3. -/
theorem test_trap_entry :
    let s := (only start 0xF).modSplit 4 0 (fun sp => { sp with pc := 0x200 })
    let s := s.modCtx 0 (fun k => { k with tvec := 0x4000000000 })
    answers (exec (.trap (fr .l) 0x55 0x81) s) (fun t => (tget t.warps 4).any (fun wp =>
      decide (wp.tpc = 0x20C ∧ wp.tcause = 0x81 ∧ wp.targ = 0x55 ∧ wp.tmask = 0xF) &&
      (wp.split? 65).any (fun h => decide (h.pc = 0x4000001020 ∧ h.mask = 0xF ∧ h.priv = true)))) = true := by decide

/-- A branch taken by threads 0 to 9 of 32 divides the split: the fall-through side keeps the entry (R247, R248). -/
theorem test_branch_divides :
    let s := (List.range 10).foldl (fun s t => one s 8 t 1) start
    answers (exec (.bra { fr .l with g := 8 } 0x2C 3) s) (fun t =>
      decide ((splitAt t 4 0).map (fun sp => (sp.mask, sp.pc)) = some (0xFFFFFC00, 0x10000C)) &&
      decide ((splitAt t 4 1).map (fun sp => (sp.mask, sp.pc)) = some (0x3FF, 0x10002C))) = true := by decide

/-- The listing of R72 with v4 = 5: the read at distance 2 gives the old v10, the one at distance 6 the new. -/
theorem test_nominal_distance :
    let s := all (all (all (all start 4 5) 5 4) 8 10) 10 7
    let go (s : State) : State := { s with now := ((splitAt s 4 0).map (·.next)).getD 0 }
    let t := go ((after (exec (.iadd { fr .s with stall := 2 } 10 (.reg 4) (.reg 5) none .wrap) s)).getD s)
    let u := go ((after (exec (.iadd { fr .s with stall := 4 } 12 (.reg 10) (.reg 8) none .wrap) t)).getD t)
    gives (.iadd { fr .s with stall := 4 } 12 (.reg 10) (.reg 8) none .wrap) t [(12, 0, 17)] = true ∧
    gives (.iadd { fr .s with stall := 4 } 13 (.reg 10) (.reg 8) none .wrap) u [(13, 0, 19)] = true ∧
    -- with CHK set the undersized read traps
    raises (.iadd { fr .s with stall := 4 } 12 (.reg 10) (.reg 8) none .wrap) (t.modCore 0 (fun k => { k with cctl := 1 })) 0x06 0xFFFFFFFF = true := by
  decide

/-- A warp that is not privileged may not write sr.cctl (R263); the handler may. -/
theorem test_sets_privilege :
    raises (.sets (fr .e) (.reg 4) .cctl) start 0x03 0xFFFFFFFF = true ∧
    answers (exec (.sets (fr .e) (.reg 4) .hflag) start) (fun t => (splitAt t 4 0).any (fun sp => decide (sp.spend.length = 1))) = true := by decide

/-- A step runs what stands at the pc: the loaded word of R73's example. -/
theorem test_step_runs_word :
    answers (step (State.reset.withFetchWord 64 0x0002014040280044)) (fun t => decide (due t 10 0 = some 0) && decide (t.turns = [])) = true := by decide

/-! ### States and operands that meet the hypotheses of the statements -/

/-- Whether the split that `cur` names issues, as an issuer of which `p` holds. -/
def issuing (s : State) (f : Fr) (n : Names) (lat : Option (Nat × Nat)) (early : Ctx → Option Nat) (p : Ctx → Bool) : Bool :=
  match s.issuer with
  | .ok c0 => gate c0 f && decide (issueCheck (c0.guarded f) n f.g (lat.map (fun p => (c0.guarded f).lat p.1 p.2)) (early (c0.guarded f)) = none) && p (c0.guarded f)
  | _ => false

theorem meets {s : State} {f : Fr} {n : Names} {lat : Option (Nat × Nat)} {early : Ctx → Option Nat} {P : Ctx → Prop} [DecidablePred P]
    (h : issuing s f n lat early (fun c => decide (P c)) = true) : ∃ c, Issues s f n lat early c ∧ P c := by
  unfold issuing at h
  split at h
  next c0 hc =>
    simp only [Bool.and_eq_true, decide_eq_true_eq] at h
    exact ⟨c0.guarded f, ⟨c0, hc, h.1.1, rfl, h.1.2⟩, h.2⟩
  next => cases h

/-- A guard that no thread passes: v8 holds 0. -/
def none8 (form : Form) : Fr := { fr form with g := 8 }

/-- For each list of names, an issue in which no thread is active. -/
def passing (l : List Names) (early : Ctx → Option Nat) : Bool :=
  l.all (fun n => issuing start (none8 .e) n none early (fun c => decide (c.act = 0)))

theorem passes {l : List Names} {early : Ctx → Option Nat} (h : passing l early = true) :
    ∀ n ∈ l, ∃ c, Issues start (none8 .e) n none early c ∧ c.act = 0 :=
  fun n hn => meets (List.all_eq_true.mp h n hn)

theorem meets_each {s : State} {f : Fr} {lat : Option (Nat × Nat)} {early : Ctx → Option Nat} {l : List Names}
    (h : l.all (fun n => issuing s f n lat early (fun _ => true)) = true) : ∀ n ∈ l, ∃ c, Issues s f n lat early c := by
  intro n hn
  obtain ⟨c, hc, -⟩ := meets (P := fun _ => True) (by simpa using List.all_eq_true.mp h n hn)
  exact ⟨c, hc⟩

def isOk {ε α : Type} : Except ε α → Bool
  | .ok _ => true
  | .error _ => false

/-- `start` with the program's words at its pc. -/
def loaded (ws : List Nat) : State := { loadProgram State.reset (bytesOfWords ws) with turns := [], cur := (4, 0) }

/-- The issuer of a state, for checks on it. -/
def withIssuer (s : State) (p : Ctx → Bool) : Bool := match s.issuer with | .ok c => p c | _ => false

theorem meets_DecodeOfEncode :
    (Instr.imad (fr .w) 766 (.reg 0) (.lit 0xFFFFFFFF) (.reg 766) true true).wf = true ∧
    (Instr.imad (fr .w) 766 (.reg 0) (.lit 0xFFFFFFFF) (.reg 766) true true).isWord = true := by decide

theorem meets_DecodedIsWellFormed :
    isOk (decode (bytesOfWords [0xC0200045, 0x00000400, 0x00050018])) = true ∧
    withIssuer (loaded [0x40280044, 0x00020140]) (fun c => isOk (fetch c.pre c)) = true ∧
    -- a pc that is no multiple of 4; a word that would cross its block; an opcode that is none
    withIssuer ((loaded [0]).modSplit 4 0 (fun sp => { sp with pc := 0x100002 })) (fun c => isOk (translate c.pre c.agent 0x100000 .fetch)) = true ∧
    withIssuer ((loaded [0, 0, 0, 0, 0, 0, 0, 1]).modSplit 4 0 (fun sp => { sp with pc := 0x10001C })) (fun c => isOk (translate c.pre c.agent 0x100000 .fetch) &&
      decide (decode ((fetchBlock c.pre c 0x100000 (.hbm 0x100000)).drop 28) = .error .crossesBlock)) = true ∧
    withIssuer (loaded [0x3FC, 0]) (fun c => decide (decode ((fetchBlock c.pre c 0x100000 (.hbm 0x100000)).drop 0) = .error .opcode)) = true ∧
    -- the words of the last clause: LEN 3; LEN 2 with 15 bytes; X with LEN 0; opcode 0xFF; SETC 7
    leNat (bytesOfWords [3, 0]) % 4 = 3 ∧ leNat ((bytesOfWords [2, 0, 0, 0]).take 15) % 4 = 2 ∧ (leNat (bytesOfWords [0, 0x80000000])).testBit 63 = true ∧
    formsOf (leNat (bytesOfWords [0x3FC, 0]) / 4 % 256) = [] ∧ leNat (bytesOfWords [0, 0x00700000]) / 2 ^ 52 % 8 = 7 := by decide

theorem meets_StepRunsDecoded :
    let s := State.reset.withFetchWord 64 0x0002014040280044
    s.turns = [.issue 4 0] ∧ withIssuer { s with turns := [], cur := (4, 0) } (fun c => isOk (fetch c.pre c) &&
      decide (c.split.pc.toNat % 4 = 0) && !(c.pre.poisoned (.hbm 0x100000) 32) && mayTry c.pre c 4 0 &&
      (codeOf c.pre c 0x100000 (.hbm 0x100000)).all (fun bs => decide (bs = c.pre.bytes (.hbm 0x100000) 32))) = true ∧
    -- a subcore that has issued in this cycle
    withIssuer ({ s with turns := [], cur := (4, 0) }.modCore 0 (fun k => { k with issued := [(0, s.now)] })) (fun c => !(mayTry c.pre c 4 0)) = true ∧
    -- the turn's own state
    (let u0 : State := { s with turns := [] }
     let u := onStage u0 (splitRank u0 4 (some 0))
     (match u.issuerOf 4 0 with | .ok c => mayTry u c 4 0 && isOk (fetch u c) | _ => false) = true) ∧
    ({ s with turns := [.event .powerLoss] } : State).turns = [.event .powerLoss] ∧ State.reset.turns = [] ∧
    s.stage ≤ eventRank s (.hostRead false 0 1) := by decide

/-- The state after an addition of latency 4 and stall 2. -/
def added : State := (after (exec (.iadd { fr .s with stall := 2 } 10 (.reg 4) (.reg 5) none .wrap) (all start 4 1))).getD start

theorem meets_StallsAndDistances :
    (∃ c, Issues start (fr .s) noNames none noEarly c ∧ c.riffle = false) ∧
    -- a closed gate; no issuer; a stall that has not elapsed; a result in flight, due and not yet due
    withIssuer added (fun c => !(gate c (fr .s)) && decide (c.pre.now < c.split.next)) = true ∧ frOf (.nop (fr .s) 0) = some (fr .s) ∧
    (match State.reset.issuer with | .none => true | _ => false) = true ∧
    withIssuer added (fun c => tsorted c.pre.regs && c.split.pend.any (fun p => decide (c.split.nd < p.due) && c.split.pend.all (fun q => decide (q.key = p.key → q = p)))) = true ∧
    withIssuer (added.modSplit 4 0 (fun sp => { sp with nd := 4 })) (fun c => c.split.pend.any (fun p => decide (p.due ≤ c.split.nd))) = true := by
  refine ⟨meets (by decide), ?_⟩
  decide

theorem meets_NotBegunStays : NotBegun State.reset ∧ (∃ t, step State.reset = .next t) ∧
    NotBegun { State.reset with turns := [.event .powerOnReset] } ∧ ∃ t, step { State.reset with turns := [.event .powerOnReset] } = .next t := by
  refine ⟨⟨by decide, by decide, by simp [State.reset]⟩, ⟨_, rfl⟩, ⟨by decide, by decide, by simp⟩, ⟨_, rfl⟩⟩

/-- Every shape of names that instructions of fixed latency use, at the ends of its range. -/
theorem meets_IntegerArithmeticResults : ∀ n ∈ [nameD 511 (src1 (.reg 511)) (src1 (.lit 1)) (src1 (.reg 0)), nameD 0 (reg1 0) none none,
    nameD2 510 (src2 (.reg 510)) (src1 (.reg 511)) none, nameD2 2 (reg2 2) (reg2 2) none, nameD2 8 (src1 (.reg 1)) (src1 (.reg 2)) (src2 (.lit 1))],
    ∃ c, Issues start (fr .e) n (some (4, 2)) noEarly c := meets_each (by decide)

theorem meets_LogicAndFieldResults : (∀ n ∈ [nameD 511 (reg1 511) (src1 (.lit 31)) none, nameD 8 (reg1 0) none none, nameD 8 (src1 (.reg 1)) (src1 (.reg 2)) (src1 (.lit 3))],
    ∃ c, Issues start (fr .e) n (some (4, 2)) noEarly c) ∧ (Instr.and (fr .l) 8 12 (.lit 0)).wf = true ∧ (Instr.popc (fr .s) 8 12).wf = true :=
  ⟨meets_each (by decide), by decide, by decide⟩

theorem meets_MoveAndSelectResults : (∀ n ∈ [nameD 8 none (src1 (.lit 0)) none, nameD 8 (src1 (.reg 1)) (src1 (.reg 2)) (src1 (.reg 3))],
      ∃ c, Issues start (fr .e) n (some (4, 2)) noEarly c) ∧
    -- computed names up to 511, and 512 with the lock
    (∃ c, Issues (all start 5 479) (fr .e) (nameD 10 (reg1 5) none none) (some (4, 2)) noEarly c ∧
      (∀ t ∈ c.threads, 32 + (c.reg 5 (c.from t)).toNat < c.warp.alloc ∧ 32 + (c.reg 5 (c.from t)).toNat < 512) ∧ c.chk = false ∧ c.pre.poison = []) ∧
    ∃ c, Issues ((all start 5 480).modWarp 4 (fun wp => { wp with xl := true })) (fr .e) (nameS (reg1 5) (reg1 6) none) (some (4, 2)) noEarly c ∧
      ∀ t ∈ c.threads, 512 ≤ 32 + (c.reg 5 (c.from t)).toNat ∧ 32 + (c.reg 5 (c.from t)).toNat < 768 ∧ c.warp.xl = true :=
  ⟨meets_each (by decide), meets (by decide), meets (by decide)⟩

theorem meets_CompareAndVoteResults : (∀ n ∈ [nameDC 8 9 (src1 (.reg 1)) (src1 (.lit 2))], ∃ c, Issues start (fr .w) n (some (4, 2)) noEarly c) ∧
    (∀ n ∈ [nameDC 8 9 (src1 (.reg 1)) (src1 (.reg 2)), nameD 8 (reg1 1) none none], ∃ c, Issues start (fr .e) n (some (6, 3)) noEarly c) ∧
    ∀ n ∈ [nameD 8 (reg1 1) none none, nameDC 8 9 (reg1 1) none, nameDC 8 9 (reg2 2) none], ∃ c, Issues start (fr .e) n (some (8, 4)) noEarly c :=
  ⟨meets_each (by decide), meets_each (by decide), meets_each (by decide)⟩

theorem meets_FloatResults : (∀ n ∈ [nameD 8 (src1 (.reg 1)) (src1 (.lit 2)) none, nameD 8 (src1 (.reg 1)) (src1 (.reg 2)) (src1 (.reg 3)), nameD 8 (reg1 1) (src1 (.reg 2)) none],
      ∃ c, Issues start (fr .e) n (some (6, 3)) noEarly c) ∧
    (∀ n ∈ [nameD 8 (reg1 1) none none, nameD 8 (reg1 1) (reg1 2) none, nameDC 8 9 (reg1 1) none], ∃ c, Issues start (fr .s) n (some (12, 6)) noEarly c) ∧
    -- a NaN; a negative number; 256, 32, and 1.5 with its magnitude in units of 1
    (numOf 0x7F800001).isNan = true ∧ ((0xBF800000 : Word).msb = true ∧ (numOf 0xBF800000).isZero = false) ∧
    (match numOf 0x43800000 with | .fin false n e d => decide (n ≠ 0 ∧ 8 ≤ Machine.flog2 n e d) | _ => false) = true ∧
    (match numOf 0x42000000 with | .fin false n e d => decide (n ≠ 0 ∧ 5 ≤ Machine.flog2 n e d) | _ => false) = true ∧
    (match numOf 0x3FC00000 with | .fin _ n e d => decide (n ≠ 0 ∧ Machine.flog2 n e d < 8 ∧ (inUnits n e d 0).2.1 ≠ 0) | _ => false) = true ∧
    ([1] : List Nat) ≠ [] :=
  ⟨meets_each (by decide), meets_each (by decide), by decide, by decide, by decide, by decide, by decide, by decide⟩

theorem meets_PackedHalfResults : ∀ n ∈ [nameD 8 (reg1 1) (src1 (.lit 2)) none, nameD 8 (src1 (.reg 1)) (src1 (.reg 2)) (src1 (.reg 3))],
    ∃ c, Issues start (fr .e) n (some (6, 3)) noEarly c := meets_each (by decide)

theorem meets_ConversionResults : ∀ n ∈ [nameD 8 (reg1 1) none none, nameD 8 (reg1 1) (reg1 2) (oreg (some 3)), nameD 8 (reg1 1) (reg1 2) (oreg none),
    nameDC 8 9 (reg1 1) none, nameD 8 (src1 (.reg 1)) (src1 (.lit 2)) none], ∃ c, Issues start (fr .e) n (some (6, 3)) noEarly c := meets_each (by decide)

theorem meets_BlockResults : (∀ n ∈ [nameD 8 (reg1 1) none none, nameDN 8 (spanLen .a4 .g128) (reg1 1) (reg1 2) none,
      ⟨regN 8 (spanLen .mx6e2 .g32), none, none, [(40, 1), (41, 1)]⟩], ∃ c, Issues start (fr .e) n (some (8, 4)) noEarly c) ∧
    (∀ n ∈ [nameD 8 (reg1 1) none none, nameD 8 (reg1 1) (reg1 2) none, nameD 8 (reg1 1) (oreg (some 2)) none], ∃ c, Issues start (fr .e) n (some (12, 6)) noEarly c) ∧
    (∀ n ∈ [nameDC 8 9 (src1 (.reg 1)) (osrc (some (.reg 2))), nameDC 8 9 (src1 (.reg 1)) (osrc none)], ∃ c, Issues start (fr .e) n (some (14, 7)) noEarly c) ∧
    (∀ n ∈ [nameD 8 (src1 (.reg 1)) (src1 (.reg 2)) none, nameD 8 (src1 (.reg 1)) (src1 (.reg 2)) (src1 (.reg 3))], ∃ c, Issues start (fr .e) n (some (6, 3)) noEarly c) ∧
    -- inputs: a NaN; 6 and −3, whose greatest magnitude is that of 6; zeros
    ([0x7FC00000] : List Word).any (fun w => (numOf w).isNan) = true ∧ isMxE .mx4 = true ∧ isAE .a4 = true ∧
    ([0x40C00000, 0xC0400000] : List Word).all (fun w => !(numOf w).isNan && !(numOf w).isInf) = true ∧
    ((∀ w ∈ ([0x40C00000, 0xC0400000] : List Word), |ratOf (numOf w)| ≤ 6) ∧ ∃ w ∈ ([0x40C00000, 0xC0400000] : List Word), |ratOf (numOf w)| = 6) ∧
    ((∀ w ∈ ([0, 0x80000000] : List Word), |ratOf (numOf w)| ≤ 0) ∧ ∃ w ∈ ([0, 0x80000000] : List Word), |ratOf (numOf w)| = 0) ∧
    -- a range of 0 and one that is not; the NaN words of R35 and R37; a scale of 0; a value that overflows, one that becomes zero, one that stays
    (Machine.Num.add false (Machine.Num.max2 (.zero false) (.zero false)) (Machine.Num.min2 (.zero false) (.zero false)).neg).isZero = true ∧
    (Machine.Num.add false (Machine.Num.max2 (numOf 0x40C00000) (.zero false)) (Machine.Num.min2 (.zero false) (.zero false)).neg).isZero = false ∧
    nanScale .mx4 0xFF000 = true ∧ nanScale .mx4 0x7F000 = false ∧ nanScale .a4 0x7E000 = true ∧ nanScale .a4 0 = false ∧ (aScale .a4 0).1.isZero = true ∧
    (e4m3.roundTo .rne (Machine.Num.div (.fin false 1 20 1) (.fin false 1 0 1))).ovf = true ∧
    (e4m3.roundTo .rne (Machine.Num.div (.fin false 1 (-30) 1) (.fin false 1 0 1))).code % 2 ^ 7 = 0 ∧
    (e4m3.roundTo .rne (Machine.Num.div (.fin false 1 2 1) (.fin false 1 0 1))).code % 2 ^ 7 ≠ 0 := by
  have six : numOf 0x40C00000 = .fin false 12582912 (-21) 1 ∧ numOf 0xC0400000 = .fin true 12582912 (-22) 1 := by decide
  have nil : numOf 0 = .fin false 0 (-149) 1 ∧ numOf 0x80000000 = .fin true 0 (-149) 1 := by decide
  refine ⟨meets_each (by decide), meets_each (by decide), meets_each (by decide), meets_each (by decide), by decide, by decide, by decide, by decide, ?_, ?_,
    by decide, by decide, by decide, by decide, by decide, by decide, by decide, by decide, by decide, by decide⟩
  · simp only [List.mem_cons, List.not_mem_nil, or_false, forall_eq_or_imp, forall_eq, exists_eq_or_imp, exists_eq_left, six.1, six.2, ratOf]
    norm_num [abs_of_nonneg, abs_of_nonpos]
  · simp only [List.mem_cons, List.not_mem_nil, or_false, forall_eq_or_imp, forall_eq, exists_eq_or_imp, exists_eq_left, nil.1, nil.2, ratOf]
    norm_num

theorem meets_CrossLaneResults : ∀ n ∈ [nameDC 8 9 (src1 (.reg 1)) (src1 (.reg 2)), nameD 8 (reg1 1) none none, nameD 8 (reg1 1) (osrc (some (.lit 31))) none],
    ∃ c, Issues start (fr .e) n (some (8, 4)) noEarly c := meets_each (by decide)

/-- The launch's record changed. -/
def withRecord (g : Record → Record) (s : State) : State := s.modLaunch 1 (fun l => { l with record := g l.record })

/-- The checks of an access of size `n` at v30:v31. -/
def chks30 (need : Need) (n : Nat) (c : Ctx) : List (Nat × Chk) := plainChks .glob need n (fun c => c.ea 30 0) c
def at30 (v : Word) : State := all start 30 v
def far : State := all start 31 0x40

/-- For each kind of access: no thread active; every access passes, at the ends of what alignment admits; one fails. -/
theorem meets_LoadsAndStores :
    (∃ c, Issues (at30 0x5000) (none8 .e) (nameDN 8 (szRegs .b128) (reg2 30) none none) none noEarly c ∧ c.act = 0) ∧
    (∃ c, Issues (at30 0x5000) (fr .e) (nameDN 8 (szRegs .b128) (reg2 30) none none) none noEarly c ∧ c.act ≠ 0 ∧ (allOk (chks30 .read 16 c)).isSome = true) ∧
    (∃ c, Issues (at30 0x5008) (fr .e) (nameDN 8 (szRegs .b128) (reg2 30) none none) none noEarly c ∧ c.act ≠ 0 ∧ (allOk (chks30 .read 16 c)).isNone = true) ∧
    (∃ c, Issues (at30 0x5004) (fr .e) (nameS (reg2 30) none (srcN (.reg 24) 1)) none noEarly c ∧ c.act ≠ 0 ∧ (allOk (chks30 .write 4 c)).isSome = true) ∧
    (∃ c, Issues far (fr .e) (nameS (reg2 30) none (srcN (.reg 24) 1)) none noEarly c ∧ c.act ≠ 0 ∧ (allOk (chks30 .write 4 c)).isNone = true) ∧
    (∃ c, Issues (withRecord (fun r => { r with lane := 16 }) (all start 5 12)) (fr .e) (nameDN 8 1 (reg1 5) none none) none noEarly c ∧ c.act ≠ 0 ∧
      (allOk (plainChks .lane .read 4 (fun c t => BitVec.ofNat 64 (windowBase .lane) + (c.reg 5 t).zeroExtend 64) c)).isSome = true) ∧
    ∃ c, Issues (withRecord (fun r => { r with lane := 16 }) (all start 5 16)) (fr .e) (nameS (reg1 5) none (regN 24 1)) none noEarly c ∧ c.act ≠ 0 ∧
      (allOk (plainChks .lane .write 4 (fun c t => BitVec.ofNat 64 (windowBase .lane) + (c.reg 5 t).zeroExtend 64) c)).isNone = true :=
  ⟨meets (by decide), meets (by decide), meets (by decide), meets (by decide), meets (by decide), meets (by decide), meets (by decide)⟩

theorem meets_OrderedAccesses :
    (∃ c, Issues (at30 0x5000) (fr .e) (nameDN 8 2 (reg2 30) none none) none (levelEarly .dev) c ∧ c.act ≠ 0 ∧ (allOk (chks30 .read 8 c)).isSome = true) ∧
    (∃ c, Issues (at30 0x5004) (fr .e) (nameS (reg2 30) none (regN 24 2)) none (levelEarly .lv0) c ∧ c.act ≠ 0 ∧ (allOk (chks30 .write 8 c)).isNone = true) ∧
    ∃ c, Issues (at30 0x5000) (none8 .e) (nameS (reg2 30) none (regN 24 1)) none (levelEarly .wp) c ∧ c.act = 0 ∧ c.pre.hasMigrated c.warp.blk = false :=
  ⟨meets (by decide), meets (by decide), meets (by decide)⟩

/-- An NCOW under way on the words at 0x5000. -/
def copying (s : State) : State :=
  { s with nmus := [(0, [{ issuer := .warp 4 1, rank := 0, arrival := 1, asid := 0, blk := none, priv := false, seed := 0, arg := [], word := 7,
                           words := [(0x5000, 0x5004)], started := true, parts := [⟨0, 0, 2, some 1, 1, [], false, false, 0, 0⟩], res0 := 0, res1 := 0 }])] }

theorem meets_AtomicAccesses :
    (∃ c, Issues (at30 0x5000) (fr .e) (nameDN 8 2 (reg2 30) none (srcN (.reg 24) 2)) none (levelEarly .fab) c ∧ c.act ≠ 0 ∧ (allOk (chks30 .atomic 8 c)).isSome = true) ∧
    (∃ c, Issues (at30 0x5004) (fr .e) (nameS (reg2 30) none (srcN (.lit 1) 2)) none (levelEarly .fab) c ∧ c.act ≠ 0 ∧ (allOk (chks30 .atomic 8 c)).isNone = true) ∧
    (∃ c, Issues (at30 0x5000) (none8 .e) (nameDN 8 2 (reg2 30) none (regN 24 4)) none (levelEarly .dev) c ∧ c.act = 0) ∧
    -- CHUNK: it draws; it waits for an NCOW that has begun on its record; a record that is not aligned; no thread active
    (∃ c, Issues (at30 0x5000) (fr .e) (nameD2 8 (reg2 30) none none) none noEarly c ∧ c.act ≠ 0 ∧
      (allOk (plainChks .glob .atomic 16 (fun c => c.reg2 30) c)).any (fun as => as.all (fun x => !c.pre.cowHolds x.loc 16)) = true) ∧
    (∃ c, Issues (copying (at30 0x5000)) (fr .e) (nameD2 8 (reg2 30) none none) none noEarly c ∧ c.act ≠ 0 ∧
      (allOk (plainChks .glob .atomic 16 (fun c => c.reg2 30) c)).any (fun as => as.any (fun x => c.pre.cowHolds x.loc 16)) = true) ∧
    (∃ c, Issues (at30 0x5008) (fr .e) (nameD2 8 (reg2 30) none none) none noEarly c ∧ c.act ≠ 0 ∧
      (allOk (plainChks .glob .atomic 16 (fun c => c.reg2 30) c)).isNone = true) ∧
    ∃ c, Issues (at30 0x5000) (none8 .e) (nameD2 8 (reg2 30) none none) none noEarly c ∧ c.act = 0 :=
  ⟨meets (by decide), meets (by decide), meets (by decide), meets (by decide), meets (by decide), meets (by decide), meets (by decide)⟩

/-- What a load of two and of four words takes; the compare of a store's threshold at 0 and at all ones. -/
theorem meets_LoadedAndStoredValues : ([1, 2] : List Word).length = 2 ∧ ([1, 2, 3, 4] : List Word).length = 4 ∧
    (0 : Word).toNat ≤ (0xFFFFFFFF : Word).toNat := by decide

/-- Blocks stand on a page that may be scaled: MX8 at a multiple of 32, MX6 at one of 128. -/
theorem meets_BlockAndScaleAccesses :
    let scaled (v : Word) : State :=
      { (at30 v).setBytes (.hbm loadTable) (toBytes 8 0x23F) with plat := { start.plat with sch := 16 } }
    (∃ c, Issues (scaled 0x5020) (fr .e) (nameDN 8 2 (reg2 30) none none) none noEarly c ∧ c.act ≠ 0 ∧ (allOk (blockChk c .read .mx8e4 .g32 30 0 0)).isSome = true) ∧
    (∃ c, Issues (scaled 0x5010) (fr .e) (nameDN 8 9 (reg2 30) none none) none noEarly c ∧ c.act ≠ 0 ∧
      (allOk (c.doers.flatMap (blockChk c .read .mx8e4 .g32 30 0))).isNone = true) ∧
    (∃ c, Issues (scaled 0x5080) (fr .e) (nameS (reg2 30) none (regN 24 2)) none noEarly c ∧ c.act ≠ 0 ∧ (allOk (blockChk c .write .mx6e2 .g32 30 0 0)).isSome = true) ∧
    (∃ c, Issues (scaled 0x5000) (none8 .e) (nameS (reg2 30) none (regN 24 2)) none noEarly c ∧ c.act = 0) ∧
    (∃ c, Issues (scaled 0x5004) (fr .e) (nameDC 8 9 (reg2 30) (reg1 5)) none noEarly c ∧ c.act ≠ 0 ∧
      (allOk (c.doers.map (fun t => (t, resolve c .none .read true 4 4 t (c.reg2 30 t))))).isSome = true) ∧
    ∃ c, Issues (scaled 0x5002) (fr .e) (nameS (reg2 30) (reg1 5) (reg2 24)) none noEarly c ∧ c.act ≠ 0 ∧
      (allOk (c.doers.map (fun t => (t, resolve c .none .write true 4 4 t (c.reg2 30 t))))).isNone = true :=
  ⟨meets (by decide), meets (by decide), meets (by decide), meets (by decide), meets (by decide), meets (by decide)⟩

theorem meets_CacheAndFences :
    (∃ c, Issues start (fr .e) (nameS (reg2 30) none none) none noEarly c ∧ c.act ≠ 0) ∧
    (∃ c, Issues start (fr .e) (nameS none none none) none noEarly c ∧ c.act ≠ 0) ∧
    (∃ c, Issues start (fr .e) (nameS none none none) none (levelEarly .lv0) c ∧ c.act ≠ 0) ∧
    (∃ c, Issues start (fr .e) (nameD 8 (reg1 5) none none) none noEarly c ∧ c.act ≠ 0 ∧ waysetAllowed c = false) ∧
    (∃ c, Issues (withRecord (fun r => { r with wset := true }) (all start 5 16)) (fr .e) (nameD 8 (reg1 5) none none) none noEarly c ∧ c.act ≠ 0 ∧
      waysetAllowed c = true ∧ 15 < (c.reg 5 (lowest c.act)).toNat) ∧
    (∃ c, Issues (withRecord (fun r => { r with wset := true, scr := 1024 }) (all start 5 15)) (fr .e) (nameD 8 (reg1 5) none none) none noEarly c ∧ c.act ≠ 0 ∧
      waysetAllowed c = true ∧ (c.reg 5 (lowest c.act)).toNat ≤ 15 ∧ coreBusy c = false) ∧
    (∀ n ∈ [nameS (reg2 30) none none, noNames, nameD 8 (reg1 5) none none], ∃ c, Issues start (none8 .e) n none noEarly c ∧ c.act = 0) ∧
    ∀ n ∈ [noNames], ∃ c, Issues start (none8 .e) n none (levelEarly .lv0) c ∧ c.act = 0 :=
  ⟨meets (by decide), meets (by decide), meets (by decide), meets (by decide), meets (by decide), meets (by decide), passes (by decide), passes (by decide)⟩

/-- Whether nothing of a warp waits for other splits. -/
def apart (wp : Warp) : Bool :=
  wp.splits.all (fun sp => match sp.wait with | some (.meet _) | some (.callx _ _) => false | _ => true) && wp.parked.isEmpty && wp.starved.isEmpty

theorem apart_spec {wp : Warp} (h : apart wp = true) : Apart wp := by
  simp only [apart, Bool.and_eq_true, List.all_eq_true, List.isEmpty_iff] at h
  refine ⟨fun sp hs k => ?_, h.1.2, h.2⟩
  have := h.1.1 sp hs
  unfold Split.waitsAt
  split <;> simp_all

/-- v8 holds 1 in threads 0 to 9 alone: a guard that divides. -/
def ten : State := (List.range 10).foldl (fun s t => one s 8 t 1) start

/-- A frame of a split's join stack. -/
def frame (tag : Nat) : Frame := ⟨3, tag, none⟩

/-- The split of `start` under `n` frames, with more splits of one thread each beside it. -/
def under (n : Nat) (s : State) : State := s.modSplit 4 0 (fun sp => { sp with joins := (List.range n).map frame })
def beside (n : Nat) (s : State) : State :=
  s.modWarp 4 (fun wp => { wp with splits := wp.splits ++ (List.range n).map (fun i => { firstSplit loadPc 0 with ent := i + 1, mask := 0 }) })

theorem meets_Branching :
    -- no thread takes it; all do; it divides, with an entry and without one; a seventeenth frame
    (∃ c, Issues start (none8 .l) noNames none noEarly c ∧ c.takers c.act = 0) ∧
    (∃ c, Issues start (fr .l) noNames none noEarly c ∧ c.takers c.act ≠ 0 ∧ c.split.mask &&& ~~~ c.takers c.act = 0) ∧
    (∃ c, Issues (under 15 ten) (none8 .l) noNames none noEarly c ∧ c.takers c.act ≠ 0 ∧ c.split.mask &&& ~~~ c.takers c.act ≠ 0 ∧
      c.split.joins.length < 16 ∧ apart c.warp = true ∧ (newEntry c (passed c (none8 .l) noNames)).isSome = true) ∧
    (∃ c, Issues (beside 7 ten) (none8 .l) noNames none noEarly c ∧ c.takers c.act ≠ 0 ∧ c.split.mask &&& ~~~ c.takers c.act ≠ 0 ∧
      apart c.warp = true ∧ (newEntry c (passed c (none8 .l) noNames)).isNone = true) ∧
    (∃ c, Issues (under 16 ten) (none8 .l) noNames none noEarly c ∧ c.takers c.act ≠ 0 ∧ c.split.mask &&& ~~~ c.takers c.act ≠ 0 ∧ 16 ≤ c.split.joins.length) ∧
    -- BRA.dec by 1 from 1 and from 0, and under ?!v0; BRX to one target and to two
    (∃ c, Issues (all (one start 5 0 1) 5 0) (fr .w) ⟨none, none, some (5, 1), [(5, 1)]⟩ (some (4, 2)) noEarly c ∧ ¬ ((fr .w).g = 0 ∧ (fr .w).gn = true)) ∧
    (∃ c, Issues start { fr .w with gn := true } ⟨none, none, some (5, 1), [(5, 1)]⟩ (some (4, 2)) noEarly c ∧ c.act = 0) ∧
    (∃ c, Issues (at30 0x100040) (fr .e) ⟨some (30, 2), none, none, []⟩ none noEarly c ∧ c.split.mask ≠ 0 ∧ ∀ t ∈ threadsOf c.split.mask, c.reg2 30 t = 0x100040) ∧
    ∃ c, Issues (one (at30 0x100040) 30 7 0x100020) (fr .e) ⟨some (30, 2), none, none, []⟩ none noEarly c ∧
      (groupTargets (fun t => c.reg2 30 t) (threadsOf c.split.mask)).length = 2 ∧ apart c.warp = true :=
  ⟨meets (by decide), meets (by decide), meets (by decide), meets (by decide), meets (by decide), meets (by decide), meets (by decide), meets (by decide),
    meets (by decide)⟩

theorem meets_CallsAndReturns :
    let rets (n : Nat) (s : State) : State := s.modSplit 4 0 (fun sp => { sp with rets := (List.range n).map (fun i => BitVec.ofNat 64 (0x100000 + 8 * i)) })
    let spilled (s : State) : State := s.modSplit 4 0 (fun sp => { sp with spilled := 1 })
    (∃ c, Issues start (none8 .l) noNames none noEarly c ∧ c.takers c.act = 0) ∧
    (∃ c, Issues (rets 15 start) (fr .l) noNames none noEarly c ∧ c.takers c.act = c.split.mask ∧ c.takers c.act ≠ 0 ∧ c.split.rets.length < 16) ∧
    (∃ c, Issues (rets 15 (under 15 ten)) (none8 .l) noNames none noEarly c ∧ c.takers c.act ≠ 0 ∧ c.split.mask &&& ~~~ c.takers c.act ≠ 0 ∧ c.split.rets.length < 16 ∧
      c.split.joins.length < 16 ∧ apart c.warp = true) ∧
    -- with sixteen entries the oldest spills into the lane store, below v1
    (∃ c, Issues (withRecord (fun r => { r with lane := 64 }) (rets 16 (all start 1 64))) (fr .l) noNames none noEarly c ∧ c.takers c.act = c.split.mask ∧
      c.split.rets.length = 16 ∧ v1Early c = false ∧
      (allOk ((threadsOf c.split.mask).map (fun t => (t, resolve c .lane .write false 8 8 t (c.stackEa true t))))).isSome = true) ∧
    (∃ c, Issues (rets 1 start) (fr .s) noNames none noEarly c ∧ c.takers c.act = c.split.mask ∧ c.split.rets = [0x100000] ∧ apart c.warp = true ∧
      c.split.joins.head? = none) ∧
    -- a spilled entry: read back by every thread; out of a thread's reach
    (∃ c, Issues (withRecord (fun r => { r with lane := 64 }) (spilled (all start 1 56))) (fr .s) noNames none noEarly c ∧ c.takers c.act = c.split.mask ∧
      c.split.rets = [] ∧ c.split.spilled ≠ 0 ∧ v1Early c = false ∧ apart c.warp = true ∧ c.split.joins.head? = none ∧
      (allOk ((threadsOf c.split.mask).map (fun t => (t, resolve c .lane .read false 8 8 t (c.stackEa false t))))).any (fun as =>
        as.all (fun x => decide (BitVec.ofNat 64 (ofBytes (c.pre.bytes x.loc 8)) = 0))) = true) ∧
    (∃ c, Issues (withRecord (fun r => { r with lane := 64 }) (spilled (all start 1 64))) (fr .s) noNames none noEarly c ∧ c.takers c.act ≠ 0 ∧
      c.split.rets = [] ∧ c.split.spilled ≠ 0 ∧ v1Early c = false ∧
      (allOk ((threadsOf c.split.mask).map (fun t => (t, resolve c .lane .read false 8 8 t (c.stackEa false t))))).isNone = true) ∧
    ∃ c, Issues start (fr .s) noNames none noEarly c ∧ c.takers c.act = c.split.mask ∧ c.split.rets = [] ∧ c.split.spilled = 0 ∧ c.warp.splits = [c.split] ∧
      c.warp.parked = [] ∧ c.warp.starved = [] :=
  ⟨meets (by decide), meets (by decide), meets (by decide), meets (by decide), meets (by decide), meets (by decide), meets (by decide), meets (by decide)⟩

theorem meets_JoiningAndEnding :
    -- no frame of the number; one that another split holds, which is under way, and which waits there
    (∃ c, Issues start (fr .e) noNames none noEarly c ∧ c.split.joins.head? = none) ∧
    (∃ c, Issues ((beside 1 start).modWarp 4 (fun wp => { wp with splits := wp.splits.map (fun sp => { sp with joins := [frame 1] }) })) (fr .e) noNames none noEarly c ∧
      c.split.joins = [frame 1] ∧ apart c.warp = true ∧ c.warp.splits.any (fun sp => decide (sp.ent ≠ c.ent) && sp.holds 1) = true) ∧
    (∃ c, Issues ((beside 1 start).modWarp 4 (fun wp => { wp with splits := wp.splits.map (fun sp =>
        if sp.ent = 0 then { sp with joins := [frame 1], mask := 1 } else { sp with joins := [frame 1], mask := 2, wait := some (.meet 1), pc := 0x10000C }) }))
        (fr .e) noNames none noEarly c ∧
      c.split.joins = [frame 1] ∧ c.warp.splits.length = 2 ∧ c.warp.splits.any (fun b => decide (b.ent ≠ c.ent ∧ b.wait = some (.meet 1) ∧
        b.joins = c.split.joins ∧ b.pc = c.nextPc (fr .e) ∧ b.rets = c.split.rets ∧ b.spilled = c.split.spilled)) = true) ∧
    -- no thread ends, all do, some do
    (∃ c, Issues start (none8 .s) noNames none noEarly c ∧ c.takers c.act = 0) ∧
    (∃ c, Issues start (fr .s) noNames none noEarly c ∧ c.takers c.act = c.split.mask ∧ c.takers c.act ≠ 0 ∧ c.warp.splits = [c.split]) ∧
    ∃ c, Issues ten (none8 .s) noNames none noEarly c ∧ c.split.mask &&& ~~~ c.takers c.act ≠ 0 ∧ c.takers c.act ≠ 0 ∧ apart c.warp = true :=
  ⟨meets (by decide), meets (by decide), meets (by decide), meets (by decide), meets (by decide), meets (by decide)⟩

/-- The handler of warp 4 about to issue, its split 0 suspended. -/
def handler : State :=
  { start.modWarp 4 (fun wp => { wp with serving := some 0, splits := wp.splits.map (fun sp => { sp with susp := true }) ++
      [{ firstSplit loadPc 0 with ent := 65, priv := true, mask := 1 }] }) with cur := (4, 65) }

theorem meets_TrapsAndReturns :
    (∃ c, Issues start (fr .l) noNames none noEarly c ∧ c.act ≠ 0 ∧ c.handler = false ∧ c.warp.inHandler = false ∧ inWarpCause 0x80 = true ∧ inWarpCause 0xFF = true ∧
      inWarpCause 0x0D = true) ∧
    (∃ c, Issues start (none8 .l) noNames none noEarly c ∧ c.act = 0) ∧
    (∃ c, Issues start (fr .l) noNames none noEarly c ∧ (c.pre.core c.core).cctl.getLsbD 1 = false) ∧
    (∃ c, Issues (start.modCore 0 (fun k => { k with cctl := 2 })) (fr .l) noNames none noEarly c ∧ (c.pre.core c.core).cctl.getLsbD 1 = true ∧ c.act ≠ 0 ∧
      c.handler = false) ∧
    (∃ c, Issues start (fr .s) noNames none noEarly c ∧ c.act ≠ 0 ∧ c.handler = false) ∧
    -- RTH while another side of the handler goes on, and alone
    (∃ c, Issues (handler.modWarp 4 (fun wp => { wp with splits := wp.splits ++ [{ firstSplit loadPc 0 with ent := 66, priv := true, mask := 2 }] })) (fr .s)
        noNames none noEarly c ∧ c.act ≠ 0 ∧ c.handler = true ∧ (c.warp.splits ++ c.warp.starved).any (fun sp => decide (sp.ent ≠ c.ent ∧ 64 < sp.ent)) = true) ∧
    ∃ c, Issues handler (fr .s) noNames none noEarly c ∧ c.act ≠ 0 ∧ c.handler = true ∧ apart c.warp = true ∧ c.warp.serving = some 0 ∧
      c.warp.splits.any (fun sp => decide (sp.ent = 0)) = true ∧ c.warp.splits.all (fun sp => decide (64 < sp.ent → sp.ent = c.ent)) = true :=
  ⟨meets (by decide), meets (by decide), meets (by decide), meets (by decide), meets (by decide), meets (by decide), meets (by decide)⟩

theorem meets_SpecialRegisters :
    (∃ c, Issues start (fr .e) (nameDN 8 2 none none none) (some (4, 2)) noEarly c ∧ c.act ≠ 0) ∧
    (∃ c, Issues start (none8 .e) (nameS none (srcN (.reg 24) 1) none) (some (4, 2)) noEarly c ∧ c.act = 0) ∧
    (∃ c, Issues start (fr .e) (nameS none (srcN (.reg 24) 2) none) (some (4, 2)) noEarly c ∧ c.act ≠ 0 ∧ c.split.priv = false) ∧
    (∃ c, Issues handler (fr .w) (nameS none (srcN (.lit 1) 2) none) (some (4, 2)) noEarly c ∧ c.act ≠ 0 ∧ c.split.priv = true) ∧
    (tget start.warps 4).isSome = true ∧ (tget start.blocks 3).isSome = true ∧ (tget start.gangs 2).isSome = true ∧ (tget start.launches 1).isSome = true :=
  ⟨meets (by decide), meets (by decide), meets (by decide), meets (by decide), by decide⟩

theorem meets_WaitForValue :
    let n := nameDN 8 1 (reg2 30) none (srcN (.reg 24) 1)
    let todo (c : Ctx) (as : List Acc) : List Acc := as.filter (fun a => !(c.got.any (fun p => decide (p.1 = a.t))))
    let holds (c : Ctx) (as : List Acc) : Bool :=
      waitvHolds c .b32 (.reg 24) false (readHome c.core (todo c as) (noteTlb (advance c (fr .e) n) c.core (todo c as))).2
    -- a wait in which thread 31 alone is still to be satisfied
    let waited (s : State) : State := s.modSplit 4 0 (fun sp => { sp with wait := some (.op true false .none), got := (List.range 31).map (fun t => (t, 0)) })
    (∃ c, Issues (at30 0x5000) (none8 .e) n none (levelEarly .blk) c ∧ c.act = 0) ∧ withIssuer start (fun c => !c.split.counted) = true ∧
    (∃ c, Issues (waited (one (at30 0x5000) 24 0 1)) (fr .e) n none (levelEarly .blk) c ∧ c.act ≠ 0 ∧ (allOk (chks30 .read 4 c)).any (holds c) = true) ∧
    (∃ c, Issues far (fr .e) n none (levelEarly .blk) c ∧ c.act ≠ 0 ∧ (allOk (chks30 .read 4 c)).isNone = true) ∧
    (∃ c, Issues (at30 0x5000) (fr .e) n none (levelEarly .blk) c ∧ c.act ≠ 0 ∧ (allOk (chks30 .read 4 c)).any (holds c) = true) ∧
    ∃ c, Issues (one (at30 0x5000) 24 31 1) (fr .e) n none (levelEarly .blk) c ∧ c.act ≠ 0 ∧ (allOk (chks30 .read 4 c)).any (fun as => !(holds c as)) = true :=
  ⟨meets (by decide), by decide, meets (by decide), meets (by decide), meets (by decide), meets (by decide)⟩

theorem comes {s : State} {f : Fr} {P : Ctx → Prop} [DecidablePred P]
    (h : withIssuer s (fun c0 => gate c0 f && decide (P (c0.guarded f))) = true) : ∃ c, Comes s f c ∧ P c := by
  unfold withIssuer at h
  split at h
  next c0 hc =>
    simp only [Bool.and_eq_true, decide_eq_true_eq] at h
    exact ⟨c0.guarded f, ⟨c0, hc, h.1, rfl⟩, h.2⟩
  next => cases h

theorem meets_ExtendedSetLock :
    let xs (s : State) : State := withRecord (fun r => { r with xs := true }) s
    let held : State := xs (start.modWarp 4 (fun wp => { wp with xl := true }))
    let lock (g : Form → Fr) : Ctx → Option Nat := extEarly (g .s) false
    let free (g : Form → Fr) : Ctx → Option Nat := extEarly (g .s) true
    -- XLOCK: no thread active; the set is free; the pair's other warp holds it
    (∃ c, Issues (xs start) (none8 .s) noNames none (lock none8) c ∧ c.act = 0) ∧
    (∃ c, Issues (xs start) (fr .s) noNames none (lock fr) c ∧ c.act ≠ 0 ∧ pairHeld c = false) ∧
    (∃ c, Issues (xs { start with warps := tput start.warps 5 { newWarp 3 1 0 1 512 loadPc 0 with xl := true } }) (fr .s) noNames none (lock fr) c ∧
      c.act ≠ 0 ∧ pairHeld c = true) ∧
    -- XFREE: no thread active; held, with nothing of the set under way
    (∃ c, Issues held (none8 .s) noNames none (free none8) c ∧ c.act = 0) ∧
    (∃ c, Issues held (fr .s) noNames none (free fr) c ∧ c.act ≠ 0 ∧ c.warp.flights = []) ∧
    -- 0x05: no set declared; a set that is not held; whatever the guard values
    (∃ c, Comes start (none8 .s) c ∧ rangeBad c ((none8 .s).g.toNat, 1) = false ∧ c.launch.record.xs = false) ∧
    ∃ c, Comes (xs start) (none8 .s) c ∧ rangeBad c ((none8 .s).g.toNat, 1) = false ∧ c.warp.xl = false :=
  ⟨meets (by decide), meets (by decide), meets (by decide), meets (by decide), meets (by decide), comes (by decide), comes (by decide)⟩

/-- Warp 4 waits at a barrier whose phase has ended. -/
def through (s : State) : State := s.modSplit 4 0 (fun sp => { sp with wait := some (.op true true .none) })

theorem meets_Barriers :
    let bars (s : State) : State := withRecord (fun r => { r with nbar := 16 }) s
    let early (c : Ctx) : Option Nat := if c.launch.record.nbar ≤ 15 then some 0x01 else none
    let others (c : Ctx) : Bool := othersAt c [.bar 15 true, .bar 15 false]
    let fresh (c : Ctx) : Prop := c.act ≠ 0 ∧ c.handler = false ∧ c.split.arrived = false
    let come (who : List Nat) (s : State) : State := s.modBlock 3 (fun b => { b with bars := [(15, ⟨2, who.length, false, who⟩)] })
    (∃ c, Issues (bars start) (none8 .e) (nameS none none none) none early c ∧ c.act = 0) ∧
    (∃ c, Issues (bars (all start 5 33)) (fr .e) (nameS (reg1 5) none none) none early c ∧ fresh c ∧ 32 < (c.reg 5 (lowest c.act)).toNat) ∧
    (∃ c, Issues (bars handler) (fr .e) (nameS none none none) none early c ∧ c.act ≠ 0 ∧ c.handler = true) ∧
    -- alone it ends the phase; of two expected it is the first; one of 32; the last of two; a second time in its phase; before its warp's other splits
    (∃ c, Issues (bars (all start 5 1)) (fr .e) (nameS (reg1 5) none none) none early c ∧ fresh c ∧
      (c.reg 5 (lowest c.act)).toNat = 1 ∧ others c = true ∧ (c.block.bar 15).arr = 0 ∧ c.w ∉ (c.block.bar 15).who) ∧
    (∃ c, Issues (bars (all start 5 2)) (fr .e) (nameS (reg1 5) none none) none early c ∧ fresh c ∧
      (c.reg 5 (lowest c.act)).toNat = 2 ∧ others c = true ∧ (c.block.bar 15).arr = 0 ∧ c.w ∉ (c.block.bar 15).who) ∧
    (∃ c, Issues (bars (all start 5 32)) (fr .e) (nameS (reg1 5) none none) none early c ∧ c.act ≠ 0 ∧ (c.reg 5 (lowest c.act)).toNat = 32 ∧ others c = true) ∧
    (∃ c, Issues (bars (come [5] start)) (fr .e) (nameS none none none) none early c ∧ fresh c ∧ others c = true ∧ (c.block.bar 15).arr = 1 ∧
      c.w ∉ (c.block.bar 15).who) ∧
    (∃ c, Issues (bars (come [4] start)) (fr .e) (nameS none none none) none early c ∧ fresh c ∧ c.w ∈ (c.block.bar 15).who) ∧
    (∃ c, Issues (bars (beside 1 start)) (fr .e) (nameS none none none) none early c ∧ fresh c ∧ c.w ∉ (c.block.bar 15).who ∧ others c = false) ∧
    -- the phase that a split waited for has ended
    (∃ c, Issues (bars (through start)) (fr .e) (nameS none none none) none early c ∧ c.act ≠ 0 ∧ c.handler = false ∧ c.split.arrived = true ∧
      c.split.phase = .none) ∧
    -- GBAR of a gang: alone; beside a warp that is not there; in a handler; once its phase has ended
    (∃ c, Issues start (fr .e) noNames none (gbarEarly .gng) c ∧ gbarDom c .gng = some 3 ∧ fresh c ∧ othersAt c [.gbar 3] = true ∧
      tsorted c.pre.warps = true ∧
      c.pre.warps.all (fun q => !(inInstance c.pre c.gangId c.gang.launch c.block.core 3 q.2) || decide (q.1 = c.w) || q.2.atGbar 3) = true) ∧
    (∃ c, Issues { start with warps := tput start.warps 5 (newWarp 3 1 0 1 512 loadPc 0) } (fr .e) noNames none (gbarEarly .gng) c ∧
      gbarDom c .gng = some 3 ∧ fresh c ∧ othersAt c [.gbar 3] = true ∧
      c.pre.warps.any (fun q => inInstance c.pre c.gangId c.gang.launch c.block.core 3 q.2 && decide (q.1 ≠ c.w) && !(q.2.atGbar 3)) = true) ∧
    (∃ c, Issues handler (fr .e) noNames none (gbarEarly .gng) c ∧ gbarDom c .gng = some 3 ∧ c.act ≠ 0 ∧ c.handler = true) ∧
    (∃ c, Issues (through start) (fr .e) noNames none (gbarEarly .gng) c ∧ gbarDom c .gng = some 3 ∧ c.act ≠ 0 ∧ c.handler = false ∧
      c.split.arrived = true ∧ c.split.phase = .none) ∧
    ∃ c, Issues start (none8 .e) noNames none (gbarEarly .gng) c ∧ gbarDom c .gng = some 3 ∧ c.act = 0 :=
  ⟨meets (by decide), meets (by decide), meets (by decide), meets (by decide), meets (by decide), meets (by decide), meets (by decide), meets (by decide),
    meets (by decide), meets (by decide), meets (by decide), meets (by decide), meets (by decide), meets (by decide), meets (by decide)⟩

/-- A copy of no bytes, as warp 4 posts it; `n` of them in the queue of core 0. -/
def cmd0 : Cmd :=
  { warp := 4, thread := 0, blk := 3, asid := 0, priv := false, seed := 0, mode := 0, src := 0x5000, dst := 0x6000, words := List.replicate 8 0, batch := 0,
    kv := none, state := .queued, progress := 0, srec := none, drec := none, hdr := [], cin := 0, cout := 0, status := 0 }
def queued (n : Nat) (s : State) : State := s.modCore 0 (fun k => { k with sluice := List.replicate n cmd0 })

theorem meets_PostingCopyCommands :
    let n := nameD 8 (osrc none) (osrc none) (some (24, 8))
    let posted (c : Ctx) : Nat := ((c.doers.map (slxCmd c 0 none none 24)).filter (cmdOk c.pre c.block c.ctx.world)).length
    let waiting (c : Ctx) : Nat := ((c.pre.core c.core).sluice.filter (fun k => decide (k.state ≠ .started))).length
    let due (s : State) : State := s.modBlock 3 (fun b => { b with savedCmds := [{ cmd0 with state := .suspended }] })
    (∃ c, Issues start (none8 .e) n none noEarly c ∧ c.act = 0) ∧
    (∃ c, Issues (queued 32 start) (fr .e) n none noEarly c ∧ c.act ≠ 0 ∧ waiting c + posted c = 64 ∧ c.pre.cmdsDue c.core = false) ∧
    (∃ c, Issues (queued 33 start) (fr .e) n none noEarly c ∧ c.act ≠ 0 ∧ 64 < waiting c + posted c) ∧
    -- a command of a resumed block comes first
    ∃ c, Issues (due start) (fr .e) n none noEarly c ∧ c.act ≠ 0 ∧ posted c ≠ 0 ∧ c.pre.cmdsDue c.core = true :=
  ⟨meets (by decide), meets (by decide), meets (by decide), meets (by decide)⟩

theorem meets_CopyBatches :
    let batches (b : Batches) (s : State) : State := s.modWarp 4 (fun wp => { wp with batches := [(0, b)] })
    let sealed (n left : Nat) : Batches := { Batches.reset with openNum := n, sealed := (List.range n).map (fun i => ⟨i, left, 0⟩) }
    (∃ c, Issues (batches (sealed 8 0) start) (fr .s) (nameD 8 none none none) none noEarly c ∧ c.act ≠ 0 ∧ ∀ t ∈ c.doers, (c.batches t).crowded = false) ∧
    (∃ c, Issues (batches (sealed 8 1) start) (fr .s) (nameD 8 none none none) none noEarly c ∧ c.act ≠ 0 ∧ ∃ t ∈ c.doers, (c.batches t).crowded = true) ∧
    (∃ c, Issues (batches (sealed 1 0) start) (fr .e) (nameD 8 (reg1 5) none none) none noEarly c ∧ c.act ≠ 0 ∧
      ∀ t ∈ c.doers, ¬ ((c.batches t).isSealed 0 = true ∧ ∃ x ∈ (c.batches t).upTo 0, x.left ≠ 0)) ∧
    (∃ c, Issues (batches (sealed 1 1) start) (fr .e) (nameD 8 (reg1 5) none none) none noEarly c ∧ c.act ≠ 0 ∧
      ∃ t ∈ c.doers, (c.batches t).isSealed 0 = true ∧ ∃ x ∈ (c.batches t).upTo 0, x.left ≠ 0) ∧
    (sealed 7 0).sealed.length < 8 ∧ 8 ≤ (sealed 8 0).sealed.length ∧ (sealed 1 0).isSealed 0 = true ∧ (sealed 1 0).isSealed 1 = false ∧
    (∃ c, Issues start (fr .e) noNames none noEarly c ∧ c.act ≠ 0 ∧ c.pre.hasCmds c.w = false) ∧
    (∃ c, Issues start (fr .e) noNames none (levelEarly .dev) c ∧ c.act ≠ 0 ∧ c.pre.hasCmds c.w = false) ∧
    (∃ c, Issues (queued 1 start) (fr .e) noNames none noEarly c ∧ c.act ≠ 0 ∧ c.pre.hasCmds c.w = true) ∧
    (∀ n ∈ [nameD 8 none none none, nameD 8 (reg1 5) none none, noNames], ∃ c, Issues start (none8 .e) n none noEarly c ∧ c.act = 0) ∧
    ∀ n ∈ [noNames], ∃ c, Issues start (none8 .e) n none (levelEarly .dev) c ∧ c.act = 0 :=
  ⟨meets (by decide), meets (by decide), meets (by decide), meets (by decide), by decide, by decide, by decide, by decide, meets (by decide), meets (by decide),
    meets (by decide), passes (by decide), passes (by decide)⟩

/-- Block 3 with one flume of depth 4, its put count at `p`, with reservations. -/
def flumed (p : Word) (rin rout : Nat) (s : State) : State := s.modBlock 3 (fun b => { b with flumes := [⟨0, 256, 4, p, 0, rin, rout⟩] })

theorem meets_FlumesAndWeirSlots :
    let n := nameD 8 (reg1 5) none none
    let early (c : Ctx) : Option Nat := if 0 < c.block.flumes.length then none else some 0x01
    (∃ c, Issues (flumed 0 0 0 (all start 5 5)) (fr .e) n none early c ∧ c.act ≠ 0 ∧ (c.block.flumes[0]?).any (fun x => decide (x.depth < (c.reg 5 (lowest c.act)).toNat)) = true) ∧
    (∃ c, Issues (flumed 4 0 0 (all start 5 4)) (fr .e) n none early c ∧ c.act ≠ 0 ∧ (c.block.flumes[0]?).any (fun x => decide ((c.reg 5 (lowest c.act)).toNat = x.depth ∧
      x.rin + 4 ≤ (x.p - x.q).toNat ∧ x.depth - (x.p - x.q).toNat < x.rout + 4)) = true) ∧
    (∃ c, Issues (flumed 0 0 0 (all start 5 4)) (fr .e) n none early c ∧ c.act ≠ 0 ∧ (c.block.flumes[0]?).any (fun x => decide (
      (x.p - x.q).toNat < x.rin + 4 ∧ x.rout + 4 ≤ x.depth - (x.p - x.q).toNat)) = true) ∧
    (∃ c, Issues start (fr .e) (nameS (reg1 5) none none) none noEarly c ∧ c.act ≠ 0) ∧ (∃ c, Issues start (fr .e) noNames none noEarly c ∧ c.act ≠ 0) ∧
    (∃ c, Issues (flumed 0 0 0 start) (none8 .e) n none early c ∧ c.act = 0) ∧
    ∀ n ∈ [nameS (reg1 5) none none, noNames], ∃ c, Issues start (none8 .e) n none noEarly c ∧ c.act = 0 :=
  ⟨meets (by decide), meets (by decide), meets (by decide), meets (by decide), meets (by decide), meets (by decide), passes (by decide)⟩

/-- A formed raft of warp 4, or one that waits for `n` members, with the given operations. -/
def raft0 (ops : List RaftOp) : Raft :=
  { twin := 0, rid := 0, blk := 3, gang := 2, size := 1, formed := true, joiners := [], members := [4], elect := 0, left := [], ops := ops, kept := [] }
def rafted (r : Raft) (s : State) : State := { s.modWarp 4 (fun wp => { wp with raft := some 9 }) with rafts := [(9, r)] }
def me : Member := { warp := 4, ent := 0, fr := fr .e, lane := 0, d := 0 }
def tileOp (i : Instr) (guard : Bool) (vals : List Word) : RaftOp := { k := 7, instr := i, issued := [me], guard := guard, vals := vals, priv := false, spans := [] }
def zeroTile : Instr := .taccZero (fr .e) (.reg 12)

theorem meets_RaftMembership :
    let n := nameD 8 none none none
    let found (c : Ctx) : Option (Nat × Raft) := c.pre.rafts.find? (fun p => decide (p.2.gang = c.gangId) && decide (p.2.rid = 0) && decide (p.2.blk = groupBlock c.pre c))
    let open2 : Raft := { raft0 [] with size := 2, formed := false, members := [], joiners := [{ me with warp := 5 }] }
    (∃ c, Issues (rafted (raft0 []) start) (fr .e) n none reachOnly c ∧ c.act ≠ 0 ∧ c.handler = false ∧ c.split.arrived = false ∧ c.warp.raft ≠ none) ∧
    (∃ c, Issues start (fr .e) n none reachOnly c ∧ c.act ≠ 0 ∧ c.warp.raft = none ∧ found c = none) ∧
    (∃ c, Issues { start with rafts := [(9, open2)] } (fr .e) n none reachOnly c ∧ c.warp.raft = none ∧ found c = some (9, open2) ∧ open2.size = 2 ∧ open2.formed = false ∧
      open2.joiners.length < open2.size) ∧
    (∃ c, Issues { start with rafts := [(9, raft0 [])] } (fr .e) n none reachOnly c ∧ c.warp.raft = none ∧ (found c).any (fun p => p.2.formed) = true) ∧
    fullRafts { start with rafts := [(9, { open2 with size := 1 })] } 0 = [(9, { open2 with size := 1 })] ∧
    (raftsOn { start with rafts := (List.range 7).map (fun i => (i, raft0 [])) } 0).length < 8 ∧
    8 ≤ (raftsOn { start with rafts := (List.range 8).map (fun i => (i, raft0 [])) } 0).length ∧
    (∃ c, Issues start (fr .s) noNames none reachOnly c ∧ c.act ≠ 0 ∧ c.raft? = none) ∧
    (∃ c, Issues (rafted (raft0 []) start) (fr .s) noNames none reachOnly c ∧ c.act ≠ 0 ∧ c.raft? = some (9, raft0 [])) ∧
    (∃ c, Issues (rafted (raft0 [tileOp zeroTile true []]) start) (fr .s) noNames none reachOnly c ∧ c.act ≠ 0 ∧ c.raft? = some (9, raft0 [tileOp zeroTile true []])) ∧
    ∀ n ∈ [nameD 8 none none none, noNames], ∃ c, Issues start (none8 .e) n none reachOnly c ∧ c.act = 0 :=
  ⟨meets (by decide), meets (by decide), meets (by decide), meets (by decide), by decide, by decide, by decide, meets (by decide), meets (by decide), meets (by decide),
    passes (by decide)⟩

/-- The state with 16 rows of the accumulator window declared, and an operation complete in its raft. -/
def window (s : State) : State := withRecord (fun r => { r with accr := 16 }) s
def holds7 (i : Instr) (guard : Bool) : State := window (rafted (raft0 [tileOp i guard (List.replicate 10 0)]) start)

theorem meets_RaftOperations :
    let n := tileNames zeroTile
    let others : RaftOp := { tileOp zeroTile true [] with issued := [{ me with warp := 5 }] }
    let ready (s : State) (p : TileEnv → Nat × Block → Bool) : Bool :=
      (tget s.rafts 9).any (fun r => (tileEnv s r false).any (fun v => (leadBlock s r).any (p v)))
    let ebb : Instr := .ebb (fr .e) 8 12
    (∃ c, Issues start (fr .e) n none reachOnly c ∧ raftInstr zeroTile = some (fr .e) ∧ c.raft? = none) ∧
    -- first, last, and at odds with the others
    (∃ c, Issues (rafted (raft0 []) start) (fr .e) n none reachOnly c ∧ c.raft? = some (9, raft0 []) ∧ c.split.arrived = false) ∧
    (∃ c, Issues (rafted { raft0 [others] with members := [5, 4] } start) (fr .e) n none reachOnly c ∧ (c.raft?).any (fun p => (p.2.ops.find? (fun o =>
      !o.issued.any (fun m => decide (m.warp = c.w)))).any (fun o => decide (agreed o.instr = agreed zeroTile))) = true) ∧
    (∃ c, Issues (rafted { raft0 [{ others with instr := .taccLive (fr .e) (.reg 12) }] with members := [5, 4] } start) (fr .e) n none reachOnly c ∧
      (c.raft?).any (fun p => decide (p.2.left = []) && (p.2.ops.find? (fun o => !o.issued.any (fun m => decide (m.warp = c.w)))).any (fun o =>
        decide (o.issued.length + 1 = p.2.members.length) && decide (agreed o.instr ≠ agreed zeroTile))) = true) ∧
    -- the second of three
    (∃ c, Issues (rafted { raft0 [{ others with same := false }] with members := [5, 4, 6] } start) (fr .e) n none reachOnly c ∧ c.split.arrived = false ∧
      (c.raft?).any (fun p => (p.2.ops.find? (fun o => !o.issued.any (fun m => decide (m.warp = c.w)))).any (fun o => decide (o.issued.length + 1 < p.2.members.length))) = true) ∧
    -- room in the array
    ((holds7 zeroTile true).twin 0).line = [] ∧ ((holds7 zeroTile true).twin 0).ops.length < 2 ∧ raftRuns (holds7 zeroTile true) 9 = true ∧
    -- a complete operation: its tests pass, or do not
    ready (holds7 zeroTile true) (fun v b => !b.2.recording.isOpen && isOk (tileStart (holds7 zeroTile true) v zeroTile (List.replicate 10 0))) = true ∧
    ready (holds7 zeroTile true) (fun v _ => match tileStart (holds7 zeroTile true) v zeroTile (0x7FF :: List.replicate 9 0) with
      | .error .state => true | _ => false) = true ∧
    ready (holds7 ebb true) (fun _ b => !b.2.recording.isOpen) = true := by
  refine ⟨meets (by decide), meets (by decide), meets (by decide), meets (by decide), meets (by decide), ?_⟩
  decide

/-- The first operation of twin 0's array, begun or not. -/
def inArray (i : Instr) (begun : Bool) (s : State) : State :=
  s.modTwin 0 (fun t => { t with ops := [{ raft := 9, k := 7, instr := i, vals := List.replicate 10 0, priv := false, spans := [(regKey 4 4 12 0, 0)], recs := [], log := none,
                                           begun := begun }] })

theorem meets_ArrayProgress :
    let ends (s : State) (p : TileEnd → Bool) : Bool :=
      (tget s.rafts 9).any (fun r => (tileEnv s r false).any (fun v => ((s.twin 0).ops.head?).any (fun a => a.begun && p (tilePerform s v a))))
    let mul : Instr := .taccMul (fr .w) (.reg 12) (.lit 0)
    ((inArray zeroTile false (holds7 zeroTile true)).twin 0).ops.length = 1 ∧ raftRuns (inArray zeroTile false (holds7 zeroTile true)) 9 = true ∧
    ends (inArray zeroTile true (holds7 zeroTile true)) (fun e => e.bad.isNone) = true ∧
    -- an uncorrectable error in the tile
    ends { inArray mul true (holds7 mul true) with poison := [accGranule 0 0 0] } (fun e => match e.bad with | some .hard => true | _ => false) = true := by decide


/-- A shape record of BF16 in one dimension (its elements at 0x8000): the extent and the box 32. -/
def shapeBytes : List Byte :=
  toBytes 8 0x8000 ++ toBytes 4 (1 + 128) ++ toBytes 4 0 ++ toBytes 4 32 ++ List.replicate 32 0 ++ toBytes 4 32 ++ List.replicate 8 0

/-- The environment of the tile operations of raft 9. -/
def raftEnv (s : State) (p : TileEnv → Bool) : Bool := (tget s.rafts 9).any (fun r => (tileEnv s r false).any p)

/-- An operation of raft 9 in the array. -/
def arrayOp (i : Instr) : ArrayOp := { raft := 9, k := 7, instr := i, vals := List.replicate 10 0, priv := false, spans := [], recs := [], log := none, begun := true }

theorem meets_TileResults :
    let h : Header := hd .bf16 .bf16 0 0 0 true 0
    let s := holds7 zeroTile true
    let x : Shape := parseShape (shapeBytes)
    s.poison = [] ∧ (arrayOp (.tmma (fr .e) 8 12 h)).log = none ∧ tsorted s.acc = true ∧
    raftEnv s (fun v => isOk (matrixOperands s v (arrayOp (.tmma (fr .e) 8 12 h)) .plain h .g32)) = true ∧
    tewBinary .relu = false ∧ tewBinary .add = true ∧
    -- member 0 of the raft; a tile of TRED; a record's box; a word of a member's register
    raftEnv s (fun v => (v.members[0]?).isSome && decide (v.members.length ≤ 8)) = true ∧
    (tileOf (0x000 : BitVec 11).toNat).m = (tileOf (opVal (List.replicate 10 0) 0 % 2048)).m ∧
    raftEnv s (fun v => isOk (engMap (fun i => engMap (fun n => readInp s v.eng ⟨x, [], none⟩ (tileIndex x (List.replicate 10 0) i n)) (List.range 1))
      (List.range 1))) = true ∧
    [(regKey 4 4 8 0, (7 : Word))].find? (fun y => decide (y.1 = regKey 4 (pairOf 4 (newWarp 3 0 0 0 512 loadPc 0)) (8 + 0) 0)) = some (regKey 4 4 8 0, 7) ∧
    -- rows: 128 elements, with a NaN and without; a maximum of -inf; a block of a format with scales
    (List.replicate 128 (0x7FC00000 : Word)).any (fun w => (numOf w).isNan) = true ∧ (List.replicate 128 (0x3F800000 : Word)).all (fun w => !(numOf w).isNan) = true ∧
    tredVal .max ((List.replicate 128 0xFF800000).map (fun a => fmul a 0x3F800000)) = 0xFF800000 ∧ isScaled .mx4 = true ∧
    (List.replicate 32 (numOf 0x3F800000)).length = 32 := by decide

/-- The record at 0x5000. -/
def shaped (s : State) : State := s.setBytes (.hbm 0x5000) shapeBytes

/-- The engine of an issuer. -/
def atEngine (c : Ctx) (f : Fr) (n : Names) (p : State → Eng → Bool) : Bool :=
  (engOf (advance c f n) c.warp.blk c.split.priv c.core false).any (p (advance c f n))

/-- An offset that is no slot's; a record that is none; a load. The slice of twin 0 without an uncorrectable error. -/
theorem meets_StoreLoads :
    let n := nameS (regN 24 4) (reg1 5) none
    let op (c : Ctx) : Retained := { addr := c.reg2 24 (lowest c.act), no := c.reg 26 (lowest c.act), ko := c.reg 27 (lowest c.act), off := c.reg 5 (lowest c.act), sp := false }
    (∃ c, Issues (all start 5 98304) (fr .e) n none reachOnly c ∧ c.act ≠ 0 ∧ atEngine c (fr .e) n (fun _ _ => decide ((op c).off.toNat = 98304)) = true) ∧
    (∃ c, Issues (all start 24 0x5000) (fr .e) n none reachOnly c ∧ c.act ≠ 0 ∧ atEngine c (fr .e) n (fun t e => match loadRecords t e (op c) with
      | .error .state => true | _ => false) = true) ∧
    (∃ c, Issues (all (all (shaped start) 24 0x5000) 5 98240) (fr .e) n none reachOnly c ∧ c.act ≠ 0 ∧
      atEngine c (fr .e) n (fun t e => isOk (loadRecords t e (op c))) = true) ∧
    start.poison = [] ∧ (∃ c, Issues start (none8 .s) noNames none noEarly c ∧ c.act = 0) ∧ ∃ c, Issues start (fr .s) noNames none noEarly c ∧ c.act ≠ 0 :=
  ⟨meets (by decide), meets (by decide), meets (by decide), by decide, meets (by decide), meets (by decide)⟩

/-- The recording of block 3 open, with its descriptor at 0x5000. -/
def recording (s : State) : State := s.modBlock 3 (fun b => { b with recording := { isOpen := true, seg := 0x5000, seq := 2, prod := [] } })

theorem meets_Recording :
    let n := nameD 8 (reg2 30) none none
    let segs : List (Nat × Nat × Nat) := [(0x3C, 4, 2), (0, 8, 2 ^ 54)]
    let ebb : Instr := .ebb (fr .e) 8 12
    -- RECON: open already; no segment; a segment
    (∃ c, Issues (recording (at30 0x5000)) (fr .e) n none noEarly c ∧ c.act ≠ 0 ∧ c.block.recording.isOpen = true) ∧
    (∃ c, Issues (at30 0x5020) (fr .e) n none noEarly c ∧ c.act ≠ 0 ∧ c.block.recording.isOpen = false ∧
      atEngine c (fr .e) n (fun t e => (openLog t e (c.reg2 30 (lowest c.act)).toNat).isNone) = true) ∧
    (∃ c, Issues (at30 0x5000) (fr .e) n none noEarly c ∧ c.act ≠ 0 ∧ c.block.recording.isOpen = false ∧
      atEngine c (fr .e) n (fun t e => (openLog t e (c.reg2 30 (lowest c.act)).toNat).isSome) = true) ∧
    -- RECOFF: with no recording; with an operation under way; closing
    (∃ c, Issues start (fr .s) noNames none noEarly c ∧ c.block.recording.isOpen = false) ∧
    (∃ c, Issues ((recording (holds7 zeroTile true)).modTwin 0 (fun t => { t with ops := [{ arrayOp zeroTile with log := some 0 }] })) (fr .s) noNames none noEarly c ∧ c.act ≠ 0 ∧ c.block.recording.isOpen = true ∧ logPending c.pre c.warp.blk = true) ∧
    (∃ c, Issues (recording start) (fr .s) noNames none noEarly c ∧ c.act ≠ 0 ∧ c.block.recording.isOpen = true ∧ logPending c.pre c.warp.blk = false ∧
      atEngine c (fr .s) noNames (fun t e => isOk (engField t e 0x5000 8) && isOk (engAll (fun (p : Nat × Nat × Nat) s => engPut s e (0x5000 + p.1) p.2.1 p.2.2) segs t)) = true) ∧
    -- EBBSTAT
    (∃ c, Issues (at30 0x5000) (fr .e) n none noEarly c ∧ c.act ≠ 0 ∧
      (allOk [(lowest c.act, resolve c .none .read false 4 4 (lowest c.act) (c.reg2 30 (lowest c.act) + 0x3C))]).isSome = true) ∧
    (∃ c, Issues far (fr .e) n none noEarly c ∧ c.act ≠ 0 ∧
      (allOk [(lowest c.act, resolve c .none .read false 4 4 (lowest c.act) (c.reg2 30 (lowest c.act) + 0x3C))]).isNone = true) ∧
    -- an EBB that walks an empty segment
    ((inArray ebb true (holds7 ebb true)).twin 0).ops.head?.isSome = true ∧
    raftEnv (inArray ebb true (holds7 ebb true)) (fun v => match walkStep (inArray ebb true (holds7 ebb true)) v 0 0 with | .ok (.done _ 1) => true | _ => false) = true :=
  ⟨meets (by decide), meets (by decide), meets (by decide), meets (by decide), meets (by decide), meets (by decide), meets (by decide), meets (by decide), by decide,
    by decide⟩


/-- A key-value cache of four layers and two sequences: its header at 0x8000, the directory at 0x9000, count words at 0xA000, batches at 0xC000 and
0xD000 (or none), page tables at 0xE000, pages of 256 entries of 32 bytes at 0x10000. Sequence 0 has five tokens, one page a layer. -/
def cache (bfl : Nat) (s : State) : State :=
  let s := s.setBytes (.hbm 0x8000) (toBytes 8 0x9000 ++ toBytes 8 0x10000 ++ toBytes 8 0xA000 ++ toBytes 8 0xB000 ++ toBytes 8 bfl ++ toBytes 8 0xD000 ++
    toBytes 4 0x100004 ++ toBytes 4 0x00070020 ++ toBytes 4 2 ++ toBytes 4 4)
  let s := s.setBytes (.hbm 0x9000) (toBytes 4 5 ++ toBytes 4 0 ++ toBytes 8 0xE000 ++ toBytes 4 1)
  let s := s.setBytes (.hbm 0xE000) (toBytes 4 0 ++ toBytes 4 1 ++ toBytes 4 2 ++ toBytes 4 3)
  s.modBlock 3 (fun b => { b with kvd := tput (tput b.kvd 0 0x8000) 1 0x00200000 })

/-- The state word of the entry of layer `l` at position `pos` of sequence 0. -/
def entryWord (l pos v : Nat) (s : State) : State := s.setBytes (.hbm (0x10000 + l * 8192 + pos * 32)) (toBytes 4 v)

/-- An exit record that holds a slot. -/
def exitAt (slot : Nat) : ExitRec := ⟨0, 0x8000, 0, 4, 0, 0, [0, 1, 2, 3], slot, .pending, 0⟩

/-- The header that descriptor 0 of block 3 leads to. -/
def withHeader (c : Ctx) (f : Fr) (n : Names) (p : State → KvHdr → Bool) : Bool :=
  atEngine c f n (fun t e => match readHdr t e c.block 0 with | .ok st _ _ h => p st h | _ => false)

/-- The answers of BFWAIT. -/
def bfAnswers (c : Ctx) (h : KvHdr) (st : State) : KvAnswers :=
  (kvEach (fun s t =>
    let v := c.reg 24 t
    let x := kvResolve s c.agent c.core h true (v.toNat % 2 ^ 20) (v.toNat / 2 ^ 20) (c.reg 5 t).toNat
    (x.1, 0, x.2.2)) c.doers st).2

theorem meets_KeyValueInstructions :
    let nx : Names := ⟨srcN (.reg 24) 1, srcN (.reg 5) 1, none, [(8, 2), (9, 1)]⟩
    let na : Names := ⟨srcN (.reg 24) 1, none, none, [(8, 1), (9, 1)]⟩
    let ne : Names := nameD 8 (reg1 24) (reg1 5) none
    let plan (c : Ctx) (h : KvHdr) (t : Nat) : ExitPlan := exitPlan c.pre c.agent c.core h (c.reg 24 t).toNat ((c.reg 5 t).toNat % 4096)
    let posts (c : Ctx) (h : KvHdr) : Bool := c.doers.any (fun t => match plan c h t with | .post .. => true | _ => false)
    let free (c : Ctx) (h : KvHdr) : Bool := c.doers.all (fun t => match plan c h t with | .post _ _ _ _ x => !slotBusy c.pre c.asid x | _ => true)
    let s := only (cache 0xC000 start) 3
    (∃ c, Issues s (fr .e) nx none noEarly c ∧ c.act ≠ 0 ∧ withHeader c (fr .e) nx (fun _ _ => true) = true) ∧
    (∃ c, Issues s (fr .e) na none noEarly c ∧ c.act ≠ 0 ∧ c.pre.cows = [] ∧ withHeader c (fr .e) na (fun _ h =>
      c.doers.all (fun t => !mustWait c.pre c.agent c.core h (c.val (.reg 24) t).toNat)) = true) ∧
    (∃ c, Issues (entryWord 0 255 1 (s.setBytes (.hbm 0xA000) [2])) (fr .e) na none noEarly c ∧ c.act ≠ 0 ∧ withHeader c (fr .e) na (fun _ h =>
      c.doers.any (fun t => mustWait c.pre c.agent c.core h (c.val (.reg 24) t).toNat)) = true) ∧
    -- an NCOW under way
    (∃ c, Issues (copying s) (fr .e) na none noEarly c ∧ c.act ≠ 0 ∧ c.pre.cows ≠ [] ∧ withHeader c (fr .e) na (fun _ _ => true) = true) ∧
    (∃ c, Issues (only (cache 0 start) 3) (fr .e) ne none noEarly c ∧ c.act ≠ 0 ∧ withHeader c (fr .e) ne (fun _ h => decide (h.bfl = 0)) = true) ∧
    (∃ c, Issues s (fr .e) ne none noEarly c ∧ c.act ≠ 0 ∧ (c.pre.die (dieOf c.core)).exits = [] ∧
      withHeader c (fr .e) ne (fun _ h => decide (h.bfl ≠ 0) && posts c h && free c h) = true) ∧
    (∃ c, Issues (s.modDie 0 (fun x => { x with exits := [(0, exitAt (0xB000 + 4 * 128))] })) (fr .e) ne none noEarly c ∧ c.act ≠ 0 ∧
      withHeader c (fr .e) ne (fun _ h => decide (h.bfl ≠ 0) && posts c h && !free c h) = true) ∧
    (∃ c, Issues s (fr .e) ne none noEarly c ∧ c.act ≠ 0 ∧ withHeader c (fr .e) ne (fun st h => (bfAnswers c h st).all (fun p => decide (p.2.2 ≠ 2))) = true) ∧
    (∃ c, Issues (entryWord 0 0 1 s) (fr .e) ne none noEarly c ∧ c.act ≠ 0 ∧ withHeader c (fr .e) ne (fun st h => (bfAnswers c h st).any (fun p => decide (p.2.2 = 2))) = true) ∧
    ∀ n ∈ [nx, na, ne], ∃ c, Issues start (none8 .e) n none noEarly c ∧ c.act = 0 :=
  ⟨meets (by decide +kernel), meets (by decide +kernel), meets (by decide +kernel), meets (by decide +kernel), meets (by decide +kernel),
    meets (by decide +kernel), meets (by decide +kernel), meets (by decide +kernel), meets (by decide +kernel), passes (by decide)⟩

/-- What the entry of layer 0 at a position resolves to, as far as the hypotheses of the statement go. -/
def found (s : State) (pos : Nat) (p : Nat → Bool) : Bool :=
  withIssuer s (fun c =>
    let h := parseHdr (s.bytes (.hbm 0x8000) 64)
    decide (0 < h.nseq ∧ 0 < h.layers) && (match readDir s c.agent c.core h 0 with
    | .ok (s1, d) => decide (pos < d.len) && (match pageOf s1 c.agent c.core h d 0 pos with
      | .ok (s2, q) => (match kvWord s2 c.agent c.core (h.entryAt q pos) with
        | .ok (_, v) => p v && isOk (pageOf s2 c.agent c.core h d (v / 16 % 4096) pos)
        | _ => false)
      | _ => false)
    | _ => false))

/-- The last token; one past it; a reserved word, a final one, and a provisional one whose alias layer is the last. -/
theorem meets_EntryResolution :
    let s := cache 0xC000 start
    let h := parseHdr (s.bytes (.hbm 0x8000) 64)
    h.nseq ≤ 2 ∧ h.layers ≤ 4 ∧ withIssuer s (fun c => (match readDir s c.agent c.core h 0 with | .ok (_, d) => decide (d.len ≤ 5) | _ => false)) = true ∧
    found (entryWord 0 4 2 s) 4 (fun v => decide (2 ≤ v % 4)) = true ∧ found (entryWord 0 4 0x10000 s) 4 (fun v => decide (v / 65536 ≠ 0)) = true ∧
    found (entryWord 0 4 0x34 s) 4 (fun v => decide (v % 4 = 0 ∧ v / 8 % 2 = 0 ∧ v / 65536 = 0)) = true ∧
    found (entryWord 0 4 0x31 s) 4 (fun v => decide (v % 4 = 1 ∧ v / 8 % 2 = 0 ∧ v / 65536 = 0 ∧ v / 16 % 4096 = 3)) = true := by decide

theorem meets_RolesAndTileBarriers :
    let n := nameD 8 (reg1 5) none none
    let bar (exp rem phn : Nat) (s : State) : State := s.modTBar 3 15 (fun _ => ⟨exp, rem, phn⟩)
    let x (c : Ctx) : TBar := c.block.tbar 15
    (∃ c, Issues start (fr .s) noNames (some (4, 2)) noEarly c ∧ c.act ≠ 0) ∧ (∃ c, Issues start (none8 .s) noNames (some (4, 2)) noEarly c ∧ c.act = 0) ∧
    -- no count: INIT and ARRIVE of 0; a count of 1 and of 65535
    (∃ c, Issues start (fr .e) n none noEarly c ∧ c.act ≠ 0 ∧ c.handler = false ∧ (c.reg 5 (lowest c.act)).toNat % 65536 = 0 ∧ (x c).exp = 0 ∧ c.split.arrived = false) ∧
    (∃ c, Issues (bar 65535 65535 65535 (all start 5 65534)) (fr .e) n none noEarly c ∧ c.act ≠ 0 ∧ c.handler = false ∧ (x c).exp ≠ 0 ∧ (x c).done 65534 = true) ∧
    (∃ c, Issues (bar 65535 65535 65535 (all start 5 65535)) (fr .e) n none noEarly c ∧ c.act ≠ 0 ∧ ¬ ((x c).exp ≠ 0 ∧ (x c).done 65535 = true) ∧
      c.split.arrived = false ∧ ((x c).arrive 1).done (x c).phn = false) ∧
    (∃ c, Issues (bar 2 1 0 start) (fr .e) n none noEarly c ∧ c.act ≠ 0 ∧ c.split.arrived = false ∧ (x c).exp ≠ 0 ∧ ((x c).arrive 1).done (x c).phn = true) ∧
    (∃ c, Issues (bar 2 2 1 (start.modSplit 4 0 (fun sp => { sp with wait := some (.op true true (.tile 0)) }))) (fr .e) n none noEarly c ∧ c.act ≠ 0 ∧ c.handler = false ∧ c.split.arrived = true ∧
      (x c).done c.split.phase.num = true) ∧
    (∃ c, Issues start (fr .e) (nameD2 8 (src1 (.reg 4)) (src1 (.reg 5)) (src1 (.lit 0))) (some (40, 20)) noEarly c ∧ c.act ≠ 0) :=
  ⟨meets (by decide), meets (by decide), meets (by decide), meets (by decide), meets (by decide), meets (by decide), meets (by decide), meets (by decide)⟩


/-- The launch's code as it now stands. -/
def coded (s : State) : State := s.modLaunch 1 (fun l => { l with code := s.mem })

/-- A launch whose warps may run on Riffle cores, with one portage point at 0x100000. -/
def portages (s : State) : State :=
  withRecord (fun r => { r with entf := 0x100040, regf := 16, ptab := 0x102010 })
    (coded <| s.setBytes (.hbm 0x102010) (toBytes 4 1 ++ List.replicate 12 0 ++ toBytes 8 0x30 ++ List.replicate 32 0 ++ toBytes 8 0x100000 ++ toBytes 8 0x100040))

/-- The record of a portage point, as far as the hypotheses of the statement go. -/
def point (c : Ctx) (k : Nat) (p : Option Portage → Bool) : Bool :=
  match findPortage c k (passed c (fr .l) noNames) with
  | .ok (_, x) => p x
  | _ => false
def lands (c : Ctx) : Bool := mayMigrate c && point c 0 (fun x => x.any (fun p => (landingOf c (fr .l) p).isSome))
def stays (c : Ctx) : Bool := !mayMigrate c && point c 0 (·.isSome)

/-- A point that the record does not hold, the record of the launch's absence, a point without a request, and one with it. -/
theorem meets_MigrationRequests :
    let n := nameD 8 none none none
    (∃ c, Issues start (none8 .e) n none noEarly c ∧ c.act = 0) ∧ (∃ c, Issues start (fr .e) n none noEarly c ∧ c.act ≠ 0) ∧
    (∃ c, Issues start (none8 .l) noNames none noEarly c ∧ c.act = 0) ∧ (0xFFFF : Word).toNat ≤ 0xFFFF ∧
    (∃ c, Issues (portages start) (fr .l) noNames none noEarly c ∧ c.act ≠ 0 ∧ point c 0xFFFE (·.isNone) = true) ∧
    (∃ c, Issues start (fr .l) noNames none noEarly c ∧ c.act ≠ 0 ∧ point c 0 (·.isNone) = true) ∧
    (∃ c, Issues (portages start) (fr .l) noNames none noEarly c ∧ c.act ≠ 0 ∧ stays c = true) ∧
    ∃ c, Issues (portages (start.modWarp 4 (fun wp => { wp with migr := 1 }))) (fr .l) noNames none noEarly c ∧ c.act ≠ 0 ∧ lands c = true :=
  ⟨meets (by decide), meets (by decide), meets (by decide), by decide, meets (by decide), meets (by decide), meets (by decide +kernel), meets (by decide +kernel)⟩

/-- A command word whose ARG is at `a`, in v24 to v27. -/
def commanded (a : Word) (s : State) : State := all (all s 24 0x10) 26 a

theorem meets_NearMemoryPosts :
    let n := nameD 8 (regN 24 4) none none
    let nw := nameDN 8 4 (reg1 5) none none
    let early' := nmqEarly .dev
    let hs (n : Nat) (r : Option (BitVec 128)) (s : State) : State :=
      s.modWarp 4 (fun wp => { wp with handles := (List.range n).map (fun k => ⟨BitVec.ofNat 32 (k + 1), .dev, 0, r⟩) })
    let fits (c : Ctx) : Bool := (nmTargets c 24).all (fun u => decide (c.pre.nmuFill u + (nmTargets c 24).count u ≤ 256))
    -- no instruction is issued with the scope of the fabric; 64 handles; 65; a full unit
    withIssuer start (fun c0 => decide (nmqEarly .fab c0 = some 0x01)) = true ∧
    (∃ c, Issues (hs 32 none (commanded 0x6000 start)) (fr .e) n none early' c ∧ c.act ≠ 0 ∧ c.warp.handles.length + c.doers.length = 64 ∧ fits c = true) ∧
    (∃ c, Issues (hs 33 none (commanded 0x6000 start)) (fr .e) n none early' c ∧ c.act ≠ 0 ∧ 64 < c.warp.handles.length + c.doers.length) ∧
    (∃ c, Issues start (fr .e) nw none noEarly c ∧ c.act ≠ 0 ∧ c.warp.handles = []) ∧
    (∃ c, Issues (hs 1 none (all start 5 1)) (fr .e) nw none noEarly c ∧ c.act ≠ 0 ∧ c.warp.handles.any (fun x => decide (x.num = c.reg 5 (lowest c.act)) && x.record.isNone) = true) ∧
    (∃ c, Issues (hs 1 (some 0) (all start 5 1)) (fr .e) nw none noEarly c ∧ c.act ≠ 0 ∧
      c.warp.handles.any (fun x => decide (x.num = c.reg 5 (lowest c.act)) && x.record.isSome) = true) ∧
    (∀ n ∈ [nameD 8 (regN 24 4) none none], ∃ c, Issues start (none8 .e) n none early' c ∧ c.act = 0) ∧ ∀ n ∈ [nw], ∃ c, Issues start (none8 .e) n none noEarly c ∧ c.act = 0 :=
  ⟨by decide, meets (by decide), meets (by decide), meets (by decide), meets (by decide), meets (by decide), passes (by decide), passes (by decide)⟩

/-- Queue 5 an item queue of the context: its ring of two slots at 0x7000, with these counts. -/
def items (h t : Word) (closed : Bool) (s : State) : State :=
  { s with queues := tput s.queues 5 { Queue.reset with bound := true, item := true, closed := closed, ring := 0x7000, depth := 2, head := h, tail := t } }
def q5 (s : State) : State := all s 5 5

theorem meets_ItemQueues :
    let np := nameD2 8 (reg1 5) none none
    let nq := nameD 8 (reg1 5) (reg2 24) none
    let nc := nameD 8 (reg1 5) none none
    let st (c : Ctx) : State := releaseAt c 5 (advance c (fr .e) nq)
    let push (c : Ctx) : Pushed := pushQueue (st c) (c.queueOf 5) (c.reg2 24 (lowest c.act))
    (∃ c, Issues (q5 start) (fr .e) np none noEarly c ∧ c.act ≠ 0 ∧ itemQueue c.pre c.asid (c.queueOf 5) = false) ∧
    (∃ c, Issues (q5 ((items 0 0 false start).modBlock 3 (fun b => { b with again := tput b.again 5 7 }))) (fr .e) np none noEarly c ∧ c.act ≠ 0 ∧
      itemQueue c.pre c.asid (c.queueOf 5) = true ∧ tget c.block.again (c.queueOf 5) = some 7) ∧
    (∃ c, Issues (q5 (items 0 1 false start)) (fr .e) np none noEarly c ∧ c.act ≠ 0 ∧ itemQueue c.pre c.asid (c.queueOf 5) = true ∧
      tget c.block.again (c.queueOf 5) = none ∧ (popQueue (advance c (fr .e) np) (c.queueOf 5)).2.isSome = true) ∧
    (∃ c, Issues (q5 (items 0 0 true start)) (fr .e) np none noEarly c ∧ c.act ≠ 0 ∧ itemQueue c.pre c.asid (c.queueOf 5) = true ∧
      tget c.block.again (c.queueOf 5) = none ∧ (popQueue (advance c (fr .e) np) (c.queueOf 5)).2 = none ∧ (c.pre.queue (c.queueOf 5)).closed = true) ∧
    (∃ c, Issues (q5 (items 0 0 false start)) (fr .e) np none noEarly c ∧ c.act ≠ 0 ∧ itemQueue c.pre c.asid (c.queueOf 5) = true ∧
      (popQueue (advance c (fr .e) np) (c.queueOf 5)).2 = none ∧ (c.pre.queue (c.queueOf 5)).closed = false) ∧
    (∃ c, Issues (q5 (items 0xFFFFFFFF 0 false start)) (fr .e) nq none noEarly c ∧ c.act ≠ 0 ∧ itemQueue c.pre c.asid (c.queueOf 5) = true ∧
      (match push c with | .done _ => true | _ => false) = true) ∧
    (∃ c, Issues (q5 (items 0 0 true start)) (fr .e) nq none noEarly c ∧ c.act ≠ 0 ∧ (match push c with | .refused _ => true | _ => false) = true) ∧
    (∃ c, Issues (q5 (items 0xFFFFFFFF 1 false start)) (fr .e) nq none noEarly c ∧ c.act ≠ 0 ∧ (match push c with | .full => true | _ => false) = true) ∧
    (∃ c, Issues (q5 (items 0 0 false start)) (fr .e) nc none noEarly c ∧ c.act ≠ 0 ∧ itemQueue c.pre c.asid (c.queueOf 5) = true) ∧
    (let s := items 0 1 false start
     ((s.queue 5).tail - (s.queue 5).head).toNat < (s.queue 5).depth ∧ isOk (ringWrite s 5 (s.queue 5).tail 7) = true ∧
     (match ringRead s 5 (s.queue 5).head with | .ok w => decide (w ≠ BitVec.allOnes 64) | _ => false) = true) ∧
    ∀ n ∈ [np, nq, nc], ∃ c, Issues start (none8 .e) n none noEarly c ∧ c.act = 0 :=
  ⟨meets (by decide), meets (by decide), meets (by decide), meets (by decide), meets (by decide), meets (by decide), meets (by decide), meets (by decide),
    meets (by decide), by decide, passes (by decide)⟩

/-- A descriptor of a collective at 0x5000 for group 1: F32, a stream, a completion value. -/
def described (s : State) : State :=
  { s.setBytes (.hbm 0x5000) (toBytes 8 0x6000 ++ toBytes 8 0x7000 ++ toBytes 8 0x8000 ++ toBytes 4 1 ++ toBytes 4 0 ++ [0, 0, 0, 0] ++ toBytes 2 1) with
    groups := [(1, ⟨2, 0, 0, [0, 0], 0⟩)] }

/-- The launch record of the loaded program at 0x7000 for queue 0, with a last level. -/
def launchRecord (last : Nat) (s : State) : State :=
  all (s.setBytes (.hbm 0x7000) (toBytes 8 0x100000 ++ toBytes 8 0 ++ toBytes 4 0x20 ++ toBytes 4 0x0A000001 ++ toBytes 4 last ++ List.replicate 20 0 ++
    toBytes 8 0 ++ toBytes 8 0x100000 ++ toBytes 4 32 ++ List.replicate 28 0 ++ toBytes 2 512 ++ List.replicate 26 0 ++ toBytes 4 0x60000000)) 30 0x7000

theorem meets_LaunchesAndCollectives :
    let n := nameD 8 (reg2 30) none none
    let nc := nameD 8 (reg2 30) (srcN (.reg 24) 1) none
    let post (c : Ctx) (u : State) : Posted := postLaunch (releaseAt c 5 u) c.asid c.ctx.world (c.reg2 30 (lowest c.act)).toNat
    let st (c : Ctx) : State := releaseAt c 5 (advance c (fr .e) n)
    let bytes (c : Ctx) : Option (List Byte) := recordBytes (st c) c.asid (c.reg2 30 (lowest c.act)).toNat
    let grouped (s : State) : State := { s.modQueue 0 (fun q => { q with group := 1 }) with groups := [(1, ⟨2, 0, 0, [0, 0], 0⟩)] }
    let word (c : Ctx) : Collective := { asid := c.asid, priv := false, addr := 0x5000, seed := 0, op := .ared, count := 32, desc := c.pre.bytes (.hbm 0x5000) 64, index := 0, begun := false }
    -- an address that is none of a record; a queue with no room; a refused record; acceptance; a launch of a group
    (∃ c, Issues (at30 0x7001) (fr .e) n none noEarly c ∧ c.act ≠ 0 ∧ c.split.arrived = false ∧ (bytes c).isNone = true ∧
      (match post c (advance c (fr .e) n) with | .status 2 _ => true | _ => false) = true) ∧
    (∃ c, Issues ((launchRecord 0 start).modQueue 0 (fun q => { q with tail := 1 })) (fr .e) n none noEarly c ∧ c.act ≠ 0 ∧ c.split.arrived = false ∧
      (match post c (advance c (fr .e) n) with | .status 1 _ => true | _ => false) = true) ∧
    (∃ c, Issues (launchRecord 1 start) (fr .e) n none noEarly c ∧ c.act ≠ 0 ∧ c.split.arrived = false ∧
      (match post c (advance c (fr .e) n) with | .status 2 _ => true | _ => false) = true) ∧
    (∃ c, Issues (launchRecord 0 start) (fr .e) n none noEarly c ∧ c.act ≠ 0 ∧ c.split.arrived = false ∧
      (match post c (advance c (fr .e) n) with | .status 0 _ => true | _ => false) = true) ∧
    (∃ c, Issues (grouped (launchRecord 0x37000002 start)) (fr .e) n none noEarly c ∧ c.act ≠ 0 ∧ c.split.arrived = false ∧
      (match post c (advance c (fr .e) n), post c c.pre with | .await _ _, .await _ _ => true | _, _ => false) = true) ∧
    -- a queue that is not the context's
    (∃ c, Issues ((launchRecord 0 start).modQueue 0 (fun q => { q with asid := 9 })) (fr .e) n none noEarly c ∧ c.act ≠ 0 ∧
      (match post c (advance c (fr .e) n) with | .status 3 _ => true | _ => false) = true) ∧
    -- a collective: an address that is no multiple of 64, one that is not mapped, a descriptor of no group, and one that is taken
    (∃ c, Issues (at30 0x5020) (fr .e) nc none noEarly c ∧ c.act ≠ 0 ∧ (c.reg2 30 (lowest c.act)).toNat % 64 ≠ 0) ∧
    (∃ c, Issues far (fr .e) nc none noEarly c ∧ c.act ≠ 0 ∧ (c.reg2 30 (lowest c.act)).toNat % 64 = 0 ∧
      (allOk [(lowest c.act, resolve c .none .read false 64 1 (lowest c.act) (c.reg2 30 (lowest c.act)))]).isNone = true) ∧
    (∃ c, Issues (at30 0x5000) (fr .e) nc none noEarly c ∧ c.act ≠ 0 ∧ (c.reg2 30 (lowest c.act)).toNat % 64 = 0 ∧
      (allOk [(lowest c.act, resolve c .none .read false 64 1 (lowest c.act) (c.reg2 30 (lowest c.act)))]).isSome = true ∧ collOk c.pre (word c) = false) ∧
    (∃ c, Issues (described (at30 0x5000)) (fr .e) nc none noEarly c ∧ c.act ≠ 0 ∧
      (allOk [(lowest c.act, resolve c .none .read false 64 1 (lowest c.act) (c.reg2 30 (lowest c.act)))]).isSome = true ∧ collOk c.pre (word c) = true ∧
      (c.pre.die (dieOf c.core)).colls = []) ∧
    ∀ m ∈ [n, nc], ∃ c, Issues start (none8 .e) m none noEarly c ∧ c.act = 0 :=
  ⟨meets (by decide), meets (by decide), meets (by decide), meets (by decide), meets (by decide), meets (by decide), meets (by decide), meets (by decide),
    meets (by decide), meets (by decide), passes (by decide)⟩


/-- An operation of warp 4 that is due at `due`. -/
def flight (due : Nat) (k : FlightKind) : State :=
  start.modWarp 4 (fun wp => { wp with flights := [⟨none, [(regKey 4 4 8 0, 7)], due, k⟩], fixed := [⟨due, none, 1, 0⟩] })

/-- Warp 4 of a state has the property. -/
def warp4 (s : State) (p : Warp → Bool) : Bool := (tget s.warps 4).any p

/-- Due now, and one cycle later. -/
theorem meets_ResultsAndCompletions :
    warp4 (flight start.now .access) (fun wp => decide (wp.fixed.map (·.due) = [start.now] ∧ wp.flights.map (·.due) = [start.now])) = true ∧
    warp4 (flight start.now .minimum) (fun wp => decide (wp.flights.map (·.kind) = [.minimum])) = true ∧
    warp4 (flight start.now (.load 3)) (fun wp => decide (wp.flights.map (·.kind) = [.load 3])) = true ∧
    warp4 (flight start.now (.kv 1)) (fun wp => decide (wp.flights.map (·.kind) = [.kv 1])) = true ∧
    warp4 (flight (start.now + 1) .access) (fun wp => wp.fixed.all (fun y => decide (start.now < y.due)) && wp.flights.all (fun y => decide (start.now < y.due))) = true := by
  decide

/-- Block 3 of a state has the property. -/
def block3 (s : State) (p : Block → Bool) : Bool := (tget s.blocks 3).any p
def gang2 (s : State) (p : Gang → Bool) : Bool := (tget s.gangs 2).any p
def split40 (s : State) (p : Split → Bool) : Bool := (splitAt s 4 0).any p

/-- Warp 4 with all its threads gone and nothing under way. -/
def ended : State := start.modWarp 4 (fun wp => { wp with ending := true, splits := [] })

/-- A trap that waits for its handler; a split passed over 63 and 64 times; a split that has yielded to another, before and at its limit; words that
decode to nothing, and a page that is not mapped; a line of L1; counts of 65535 and 65536 events; a warp at its end, and one that is not. -/
theorem meets_EndsAndReleases :
    (let s := start.modWarp 4 (fun wp => { wp with traps := [⟨0, 0x80, 1, 0x100000, none, [], 0⟩] })
     warp4 s (fun wp => !wp.traps.isEmpty && !wp.inHandler && !(s.core wp.core).stopped) = true ∧
       (match s.issuerOf 4 0 with | .ok c => decide (c.gang.state = .running) | _ => false) = true) ∧
    split40 (start.modSplit 4 0 (fun sp => { sp with passed := 64 })) (fun sp => decide (64 ≤ sp.passed ∧ sp.aged = none)) = true ∧
    split40 (start.modSplit 4 0 (fun sp => { sp with passed := 63 })) (fun sp => decide (sp.passed < 64)) = true ∧
    split40 (start.modSplit 4 0 (fun sp => { sp with yield := some ⟨[(5, 0)], start.now⟩ })) (fun sp => decide (sp.yield = some ⟨[(5, 0)], start.now⟩)) = true ∧
    split40 (start.modSplit 4 0 (fun sp => { sp with yield := some ⟨[(5, 0)], start.now + 1⟩ })) (fun sp => decide (sp.yield = some ⟨[(5, 0)], start.now + 1⟩)) = true ∧
    (let cause (s : State) (k : Nat) : Bool := (match s.issuerOf 4 0 with
       | .ok c => (match fetch s c with | .error x => decide (x = k) | _ => false) && gate c plainFr && decide (c.split.wait = none) | _ => false)
     cause (loaded [0x3FC, 0]) 0x01 = true ∧ cause (start.modSplit 4 0 (fun sp => { sp with pc := 0x4000000000 })) 0x20 = true) ∧
    ((start.modCore 0 (fun k => { k with l1 := [⟨.hbm 0x5000, [(0, 0x5000)], 7, 1, 0, 0⟩] })).core 0).l1.length = 1 ∧
    block3 (start.modBlock 3 (fun b => { b with satc := 65536 })) (fun x => decide (65536 ≤ x.satc)) = true ∧
    block3 (start.modBlock 3 (fun b => { b with satc := 65535 })) (fun x => decide (x.satc < 65536 ∧ x.zeroc < 65536)) = true ∧
    warp4 ended (fun wp => wp.ending && wp.settled && !ended.hasCmds 4 && decide (wp.raft = none) && !(ended.core wp.core).stopped) = true ∧
    gang2 ended (fun g => decide (g.state = .running)) = true ∧ warp4 start (fun wp => !wp.ending) = true := by decide

/-- Whether warp 4 waits at an instruction that its pc leads to. -/
def pausedAt (i : Instr) (s : State) : Bool :=
  match s.issuerOf 4 0 with
  | .ok c0 =>
    (match c0.split.wait, fetch s c0 with
     | some (.op _ _ _), .ok (_, j) => decide (j = i)
     | _, _ => false)
  | _ => false

theorem pauses {i : Instr} {s : State} {f : Fr} {n : Names} {early : Ctx → Option Nat} {P : Ctx → Prop} [DecidablePred P]
    (h : (pausedAt i s && issuing { s with cur := (4, 0) } f n none early (fun c => decide (P c))) = true) : ∃ c, Waiting i s 4 0 f n early c ∧ P c := by
  rw [Bool.and_eq_true] at h
  obtain ⟨c, hc, hp⟩ := meets h.2
  refine ⟨c, ⟨hc, ?_⟩, hp⟩
  have h1 := h.1
  unfold pausedAt at h1
  split at h1
  next c0 h0 =>
    split at h1
    next a b p z j hw hf => exact ⟨c0, a, b, p, z, h0, hw, (of_decide_eq_true h1) ▸ hf⟩
    next => cases h1
  next => cases h1

/-- The state with the instruction at the pc of warp 4, which waits there. -/
def paused (i : Instr) (s : State) : State :=
  (coded (s.setBytes (.hbm 0x100000) (encode i))).modSplit 4 0 (fun sp => { sp with wait := some (.op true false .none) })

theorem meets_WaitingInstructionsComplete :
    let nv := nameDN 8 1 (reg2 30) none (srcN (.reg 24) 1)
    let waitv : Instr := .waitv (fr .e) 8 30 0 (.reg 24) .glob .b32 .dev false
    let todo (c : Ctx) (as : List Acc) : List Acc := as.filter (fun a => !(c.got.any (fun p => decide (p.1 = a.t))))
    let holds (c : Ctx) (as : List Acc) : Bool :=
      waitvHolds c .b32 (.reg 24) false (readHome c.core (todo c as) (noteTlb (advance c (fr .e) nv) c.core (todo c as))).2
    let nf := nameD 8 (reg1 5) none none
    let early (c : Ctx) : Option Nat := if 0 < c.block.flumes.length then none else some 0x01
    let na : Names := ⟨srcN (.reg 24) 1, none, none, [(8, 1), (9, 1)]⟩
    let ne : Names := nameD 8 (reg1 24) (reg1 5) none
    let s := only (cache 0xC000 start) 3
    (∃ c, Waiting waitv (paused waitv (at30 0x5000)) 4 0 (fr .e) nv (levelEarly .dev) c ∧ c.act ≠ 0 ∧ (allOk (chks30 .read 4 c)).any (holds c) = true) ∧
    (∃ c, Waiting waitv (paused waitv (one (at30 0x5000) 24 31 1)) 4 0 (fr .e) nv (levelEarly .dev) c ∧ c.act ≠ 0 ∧
      (allOk (chks30 .read 4 c)).any (fun as => !(holds c as)) = true) ∧
    -- room and data for 4 of a flume of depth 4: none put, all put
    (∃ c, Waiting (.flwaitRoom (fr .e) 8 5 0) (paused (.flwaitRoom (fr .e) 8 5 0) (flumed 0 0 0 (all start 5 4))) 4 0 (fr .e) nf early c ∧ c.act ≠ 0 ∧
      (c.block.flumes[0]?).any (fun x => decide (x.rout + 4 ≤ x.depth - (x.p - x.q).toNat)) = true) ∧
    (∃ c, Waiting (.flwaitData (fr .e) 8 5 0) (paused (.flwaitData (fr .e) 8 5 0) (flumed 0 0 0 (all start 5 4))) 4 0 (fr .e) nf early c ∧ c.act ≠ 0 ∧
      (c.block.flumes[0]?).any (fun x => decide ((x.p - x.q).toNat < x.rin + 4)) = true) ∧
    (∃ c, Waiting (.flwaitData (fr .e) 8 5 0) (paused (.flwaitData (fr .e) 8 5 0) (flumed 4 0 0 (all start 5 4))) 4 0 (fr .e) nf early c ∧ c.act ≠ 0 ∧
      (c.block.flumes[0]?).any (fun x => decide (x.rin + 4 ≤ (x.p - x.q).toNat)) = true) ∧
    (∃ c, Waiting (.flwaitRoom (fr .e) 8 5 0) (paused (.flwaitRoom (fr .e) 8 5 0) (flumed 4 0 0 (all start 5 4))) 4 0 (fr .e) nf early c ∧ c.act ≠ 0 ∧
      (c.block.flumes[0]?).any (fun x => decide (x.depth - (x.p - x.q).toNat < x.rout + 4)) = true) ∧
    (∃ c, Waiting (.disband (fr .s)) (paused (.disband (fr .s)) (rafted (raft0 []) start)) 4 0 (fr .s) noNames reachOnly c ∧ c.act ≠ 0 ∧ c.raft? = some (9, raft0 [])) ∧
    (∃ c, Waiting (.disband (fr .s)) (paused (.disband (fr .s)) (rafted (raft0 [tileOp zeroTile true []]) start)) 4 0 (fr .s) noNames reachOnly c ∧ c.act ≠ 0 ∧
      c.raft? = some (9, raft0 [tileOp zeroTile true []])) ∧
    (∃ c, Waiting (.kvapp (fr .e) 8 9 (.reg 24) 0) (paused (.kvapp (fr .e) 8 9 (.reg 24) 0) s) 4 0 (fr .e) na noEarly c ∧ c.act ≠ 0 ∧
      withHeader c (fr .e) na (fun _ h => c.doers.all (fun t => !mustWait c.pre c.agent c.core h (c.val (.reg 24) t).toNat)) = true) ∧
    (∃ c, Waiting (.bfwait (fr .e) 8 24 5 0) (paused (.bfwait (fr .e) 8 24 5 0) s) 4 0 (fr .e) ne noEarly c ∧ c.act ≠ 0 ∧
      withHeader c (fr .e) ne (fun st h => (bfAnswers c h st).all (fun p => decide (p.2.2 ≠ 2))) = true) ∧
    (∃ c, Waiting (.bfwait (fr .e) 8 24 5 0) (paused (.bfwait (fr .e) 8 24 5 0) (entryWord 0 0 1 s)) 4 0 (fr .e) ne noEarly c ∧ c.act ≠ 0 ∧
      withHeader c (fr .e) ne (fun st h => (bfAnswers c h st).any (fun p => decide (p.2.2 = 2))) = true) :=
  ⟨pauses (by decide), pauses (by decide), pauses (by decide), pauses (by decide), pauses (by decide), pauses (by decide), pauses (by decide), pauses (by decide),
    pauses (by decide), pauses (by decide), pauses (by decide)⟩

/-- A fault that left warp 4, of its gang. -/
def left (cause : Nat) : Raised := ⟨4, 0, 0, 2, cause, cause, 1, 0x100000, 0x5000, 0, []⟩
def gangIn (g : GangState) (s : State) : State := s.modGang 2 (fun x => { x with state := g })
def idempotent (s : State) : State := withRecord (fun r => { r with idem := true }) s
def record0 : FaultRec := capture start (left 0x28) 3 0 [] [4] [2]

/-- For each event, states in which it happens and in which it does not: an operand-fetch fault of an idempotent launch, of one that is not, and of a
gang killed eight times; a killed gang that may be scrubbed, and one that waits for an operation; a core with a hard fault, whose stop acts before the gang's other events, and none; a host-served
fault of a running gang, and of one that ends; a record with a free slot, and none; a watchdog at a million Reach cycles of a handler, and before. -/
theorem meets_FaultEvents :
    (let s := idempotent { start with raised := [left 0x28] }
     gang2 s (fun g => decide (faultable g.state = true ∧ g.kills ≠ 8)) = true ∧ (tget s.launches 1).any (fun l => l.record.idem) = true ∧
       (s.raised.filter (fun x => decide (x.gang = 2) && decide (x.cause = 0x28))).length = 1) ∧
    gang2 (idempotent (start.modGang 2 (fun g => { g with kills := 8 }))) (fun g => decide (faultable g.state = true ∧ g.kills = 8)) = true ∧
    (tget start.launches 1).any (fun l => !l.record.idem) = true ∧ gang2 (gangIn .saved start) (fun g => decide (g.state ≠ .stopped) && !faultable g.state) = true ∧
    (let s := start.modGang 2 (fun g => { g with state := .killing, fault := some record0 })
     gang2 s (fun g => decide (g.state = .killing ∧ g.fault = some record0)) = true ∧ (s.twins.all (fun t => t.2.ops.isEmpty)) = true) ∧
    (let s := (inArray zeroTile true (holds7 zeroTile true)).modGang 2 (fun g => { g with state := .killing, fault := some record0, awaits := [7] })
     gang2 s (fun g => decide (g.state = .killing) && s.twins.any (fun t => t.2.ops.any (fun o => g.awaits.contains o.k))) = true) ∧
    (let s := ((holds7 zeroTile true).modTwin 0 (fun t => { t with line := [(9, 7)] })).modGang 2 (fun g =>
       { g with state := .killing, fault := some record0, awaits := [7] })
     gang2 s (fun g => s.twins.any (fun t => t.2.line.any (fun p => g.awaits.contains p.2))) = true) ∧
    start.ctxs.all (fun p => decide (loadPc < p.2.poolBase + 0x40000)) = true ∧
    (stopDue { start with raised := [left 0x41] } 2 = true ∧ stopDue { start with raised := [left 0x28] } 2 = false ∧
      stopDue { start with raised := [left 0x24] } 2 = false) ∧
    (isHard (left 0x41).cause = true ∧ (left 0x41).core = 0 ∧ ({ start with raised := [left 0x41] } : State).raised.all (fun x => decide (x.core ≠ 1)) = true) ∧
    (isServed (left 0x24).cause = true ∧ faultable .running = true ∧ faultable .halted = false) ∧
    (let s := start.modCtx 0 (fun x => { x with waiting := [record0], slots := (List.range 7).map (fun k => (k, record0)) })
     (tget s.ctxs 0).any (fun x => decide (tget x.slots 7 = none) && (List.range 7).all (fun j => (tget x.slots j).isSome)) = true) ∧
    (let s := start.modCtx 0 (fun x => { x with waiting := [record0], slots := (List.range 8).map (fun k => (k, record0)) })
     (tget s.ctxs 0).any (fun x => (List.range 8).all (fun j => (tget x.slots j).isSome)) = true) ∧
    warp4 (handler.modWarp 4 (fun wp => { wp with wdog := 3000000 })) (fun wp => decide (3000000 ≤ wp.wdog) && wdogCounts handler wp &&
      (wp.splits.find? (fun sp => decide (64 < sp.ent))).isSome) = true ∧
    warp4 (handler.modWarp 4 (fun wp => { wp with wdog := 2999999 })) (fun wp => decide (wp.wdog < 3000000)) = true ∧
    warp4 start (fun wp => !wdogCounts start wp) = true := by decide


def launchIn (x : LaunchState) (s : State) : State := s.modLaunch 1 (fun l => { l with state := x })

/-- The gang, block and warp of the loaded program gone, its launch ready in queue 0. -/
def waitingLaunch : State := { launchIn .ready (start.modLaunch 1 (fun l => { l with nextGang := 0 })) with gangs := [], blocks := [], warps := [] }

/-- An entry of the record at 0x7000 in the ring of queue 0, with a last level, of the given queue word. -/
def entry (last : Nat) (q : Nat) : State :=
  let s := (launchRecord last start).setBytes (.hbm 0x707C) (toBytes 4 (0x60000000 + 65536 * q))
  { (s.setBytes (.hbm 0) (toBytes 8 0x7000)).modQueue 0 (fun x => { x with tail := 1 }) with launches := [], gangs := [], blocks := [], warps := [] }

/-- What the event of the entry finds. -/
def taken (s : State) (p : State → List Byte → Bool) : Bool :=
  let s1 := s.modQueue 0 (fun q => { q with head := q.head + 1 })
  match ringRead s1 0 (s.queue 0).head with
  | .ok v => (recordBytes s1 0 v.toNat).any (p s1)
  | _ => false

theorem meets_DispatchEvents :
    -- a ready queue, and none; one whose head fits on the device, and one that has none
    readyQueues waitingLaunch 3 ≠ [] ∧ (List.range 5).all (fun c => (readyQueues start c).isEmpty) = true ∧
    waitingLaunch.queues.any (fun p => (reserved waitingLaunch p.1).isSome) = false ∧
    headFits waitingLaunch 0 false (fun d => decide (d = 127)) = true ∧ (serveQueue start 0).isNone = true ∧
    (tsorted (waitingLaunch.modQueue 0 (fun q => { q with wasReady := true })).queues = true ∧ ((waitingLaunch.modQueue 0 (fun q => { q with wasReady := true })).queue 0).wasReady = true) ∧
    -- reservations: 63 and 64 decisions; a resident launch; a cluster, and none
    ((headLaunch waitingLaunch 0).any (fun l => !l.record.res) = true ∧ (waitingLaunch.queue 0).wt < 64) ∧
    (let s := waitingLaunch.modQueue 0 (fun q => { q with wt := 64 })
     64 ≤ (s.queue 0).wt ∧ s.flioc.whole = none ∧ s.flioc.reserve = [] ∧
       (let u := withRecord (fun r => { r with res := true }) s
        u.queues.any (fun p => (reserved u p.1).isSome) = true) ∧ headFits { emptied s with gangs := [] } 0 true (fun d => decide (d = 0)) = true ∧ (headLaunch (withRecord (fun r => { r with res := true }) s) 0).any (fun l => l.record.res) = true) ∧
    (let s := { waitingLaunch with flioc := { waitingLaunch.flioc with reserve := (List.range 128).map (fun c => (c, 1)) } }
     (List.range 128).all (fun c => (tget s.flioc.reserve c).isSome) = true ∧ s.flioc.reserve.all (fun p => decide (p.2 ≠ 0)) = true) ∧
    -- reservations that stand; a class without another ready queue
    (let s := { waitingLaunch with flioc := { waitingLaunch.flioc with whole := some 0 } }
     s.flioc.whole = some 0 ∧ (headLaunch s 0).isSome = true) ∧
    (let s := { waitingLaunch with flioc := { waitingLaunch.flioc with reserve := [(127, 0)] } }
     s.flioc.whole ≠ some 0 ∧ s.flioc.reserve.find? (fun p => decide (p.2 = 0)) = some (127, 0)) ∧
    ((start.queue 0).cls < start.flioc.vtime.length ∧ (start.queue 0).cls < start.flioc.last.length ∧
      (charge start 0).queues.all (fun p => decide (p.2.cls = (start.queue 0).cls → p.2.wasReady = false)) = true) ∧
    -- an entry: of an accepted launch; of a refused record; of another queue's; of no record; of a launch that has been posted
    ((entry 0 0).queue 0).fill ≠ 0 ∧ (entry 0 0).launches = [] ∧
    taken (entry 0 0) (fun s1 bs => decide ((parseRecord bs).queue = 0 ∧ (parseRecord bs).wld = false) && (acceptRecord s1 0 0 0x7000 bs).isSome) = true ∧
    taken (entry 1 0) (fun s1 bs => (acceptRecord s1 0 0 0x7000 bs).isNone) = true ∧ taken (entry 0 1) (fun _ bs => decide ((parseRecord bs).queue ≠ 0)) = true ∧
    taken ((entry 0 0).setBytes (.hbm 0) (toBytes 8 0x7001)) (fun _ _ => true) = false ∧
    ({ entry 0 0 with launches := [(1, { loadLaunch with addr := 0x7000, state := .posted })] } : State).launches.any (fun p => decide (p.2.queue = 0 ∧ p.2.addr = 0x7000 ∧ p.2.state = .posted)) = true ∧
    -- a launch group: an answer; a packet of the group's generation and of another
    (tget (launchIn .asked start).launches 1).any (fun l => decide (l.state = .asked)) = true ∧
    (let s := { start.modQueue 0 (fun q => { q with group := 1 }) with groups := [(1, ⟨2, 1, 5, [0, 0], 0⟩)] }
     let bs := (launchRecord 0x37000002 s).bytes (.hbm 0x7000) 128
     let r := parseRecord bs
     (tget s.groups 1).any (fun g => decide (g.gen = (5 : Word).toNat ∧ g.gen ≠ (6 : Word).toNat)) = true ∧ (readFlumes s 0 r).isSome = true ∧
       (fieldsOk r && isFabric r && decide (r.cls = (s.queue 0).cls ∧ (s.queue 0).group = 1 ∧ r.wld = false)) = true) ∧
    -- a stopping gang: quiet, with and without a record; with an operation under way
    gangQuiet (gangIn .stopping start) 2 = true ∧ gangQuiet (gangIn .stopping (flight 0 .access)) 2 = false ∧
    gang2 (gangIn .stopping start) (fun g => decide (g.state = .stopping ∧ g.fault = none)) = true ∧
    gang2 ((gangIn .stopping start).modGang 2 (fun g => { g with fault := some record0 })) (fun g => g.fault.isSome) = true ∧
    -- a warp that is to land, settled and not
    (let s := start.modWarp 4 (fun wp => { wp with landing := some ⟨2048, 0, 0x100048, []⟩ })
     warp4 s (fun wp => wp.settled && !s.hasCmds 4 && wp.landing.isSome) = true) ∧
    warp4 (flight 0 .access) (fun wp => !wp.settled) = true := by decide


/-- A copy of `n` bytes whose word 7 is `w7`. -/
def copyCmd (n w7 : Word) : Cmd := { cmd0 with words := [0, 0, 0, 0, n, 0, 0, w7] }
def sluice (l : List Cmd) (s : State) : State := s.modCore 0 (fun k => { k with sluice := l })
def weir (v : Option Bool) (s : State) : State := s.modCore 0 (fun k => { k with weirs := match v with | some b => [(0, b)] | none => [] })

/-- A line of which the first byte is to be written. -/
def byteLine (va : Nat) : LinePut := ⟨va, 0xFF, 0x41, 0, 0⟩

/-- A line of which the first two words are to be written. -/
def twoWords : LinePut := ⟨0x6000, 0xFFFFFFFFFFFFFFFF, 0x41, 0, 0⟩

/-- The engine of a command of core 0, with its block. -/
def sluiceEnv (s : State) (p : Block → Eng → Bool) : Bool :=
  s.blockRuns 3 && !(s.core 0).stopped && (tget s.blocks 3).any (fun b => (engOf s 3 false 0 true).any (p b))

/-- Commands: suspended; at a weir slot that is not TRUE, FALSE, TRUE; refused; without room in a flume, and with it; one started behind another that
overlaps, or not; at its last granule, before it, and at its end. -/
theorem meets_CopyEngine :
    let head (s : State) (p : Nat × Cmd → Bool) : Bool := (headCmd (s.core 0).sluice).any p
    let takes (s : State) (c : Cmd) (p : Take → Bool) : Bool := sluiceEnv s (fun b e => p (c.take s e b))
    let moves (s : State) (c : Cmd) (p : Granule → Bool) : Bool := sluiceEnv s (fun b e => p (performGranule c e b 0 s))
    let run : Cmd := { copyCmd 256 0 with state := .started }
    let hit : Cmd := { copyCmd 64 0x8000 with dst := 0 }
    head (sluice [{ copyCmd 256 0 with state := .suspended }] start) (fun p => decide (p.2.state = .suspended)) = true ∧
    head (sluice [copyCmd 256 0x20] start) (fun p => decide (p.2.state = .queued) && p.2.we && decide (p.2.wsl = 0)) = true ∧
    tget ((weir none start).core 0).weirs 0 = none ∧ tget ((weir (some false) start).core 0).weirs 0 = some false ∧
    takes (weir (some true) start) (copyCmd 256 0x20) (fun t => match t with | .ok _ _ => true | _ => false) = true ∧
    takes start { copyCmd 256 0 with words := [0, 0, 0, 0, 1, 1, 0x20000000, 0], src := 0x5000 } (fun t => match t with | .refused => true | _ => false) = true ∧
    takes start { copyCmd 256 0 with words := [0, 0, 0, 0, 1, 1, 0x20000000, 0], src := 0x4000000000 } (fun t => match t with | .fault .. => true | _ => false) = true ∧
    takes (flumed 0 0 0 start) hit (fun t => match t with | .ok _ d => decide (d.foe = true ∧ d.kout ((tget (flumed 0 0 0 start).blocks 3).getD (newBlock 2 0 0 ⟨[0], 0, 0⟩ [] [])) = 0) | _ => false) = true ∧
    ((flumed 4 0 4 start).blocks.any (fun p => p.2.flumes.any (fun f => decide (f.room < f.rout + 1)))) = true ∧
    sluiceEnv (sluice [run, { run with dst := 0x9000 }] start) (fun _ _ => overlaps start 0 run { run with dst := 0x6080 } && !(overlaps start 0 run { run with dst := 0x9000 })) = true ∧
    sluiceEnv (sluice [run] start) (fun b _ => decide (run.granules b = 2 ∧ 1 < run.granules b ∧ ({ run with progress := 2 } : Cmd).granules b ≤ 2)) = true ∧
    moves start run (fun g => match g with | .ok _ l _ _ => !(addPuts [] l).isEmpty | _ => false) = true ∧
    moves start { run with src := 0x4000000000 } (fun g => match g with | .fault .. => true | _ => false) = true ∧
    -- the flumes' room: at the end of what fits, and beyond
    (flumed 0 0 3 start).blocks.any (fun p => (p.2.flumes[0]?).any (fun f => decide (f.rout + 1 ≤ f.room))) = true ∧
    -- no command of the core waits to be queued again
    start.blocks.all (fun p => p.2.savedCmds.isEmpty) = true ∧
    -- it runs, also to the end of its granule while its gang stops
    run.runs start = true ∧ run.runs (gangIn .stopping start) = false ∧ { run with out := [byteLine 0x6000] }.runs (gangIn .stopping start) = true := by decide

/-- A granule's words: the last one of a line, at an address that is mapped and at one that is not; a word of which one byte changes. -/
theorem putNext_of_item {e : Eng} {scaled : Bool} {l : List LinePut} {n k i : Nat} {x : LinePut} (s : State)
    (hn : Config.freePick s.free 80 % max 1 (putItems l).length = n) (h : (putItems l)[n]? = some (k, i)) (hx : l[k]? = some x) :
    putNext e scaled l s = (putItem e scaled x i s).map (fun t => (t, dropItem l k i)) := by
  unfold putNext
  simp only [hn, h, hx]
  cases putItem e scaled x i s <;> rfl

theorem any_spec {α : Type} {x : Option α} {p : α → Bool} (h : x.any p = true) : ∃ a, x = some a ∧ p a = true := by
  cases x with
  | none => cases h
  | some a => exact ⟨a, rfl, h⟩

theorem isOk_spec {ε α : Type} {x : Except ε α} (h : isOk x = true) : ∃ a, x = .ok a := by
  cases x with
  | ok a => exact ⟨a, rfl⟩
  | error k => cases h

theorem meets_CopyEngineWrites :
    (∃ e t, engOf start 3 false 0 true = some e ∧ putNext e false [byteLine 0x6000] start = .ok (t, [])) ∧
    (∃ e k, engOf start 3 false 0 true = some e ∧ putNext e false [byteLine 0x4000000000] start = .error k) ∧
    (∃ e t l, engOf start 3 false 0 true = some e ∧ l ≠ [] ∧ putNext e false [twoWords] start = .ok (t, l)) ∧
    (byteLine 0x6000).items ≠ [] ∧ (byteLine 0x6000).mask.extractLsb' (8 * (4 * 0 + 0)) 8 = 0xFF ∧
    ∀ j', j' < 4 → j' ≠ 0 → (byteLine 0x6000).mask.extractLsb' (8 * (4 * 0 + j')) 8 = 0 := by
  have one : putItems [byteLine 0x6000] = [(0, 0)] ∧ putItems [byteLine 0x4000000000] = [(0, 0)] := by decide
  have two : putItems [twoWords] = [(0, 0), (0, 1)] := by decide
  have h1 : (engOf start 3 false 0 true).any (fun e => isOk (putItem e false (byteLine 0x6000) 0 start)) = true := by decide
  have h2 : (engOf start 3 false 0 true).any (fun e => !isOk (putItem e false (byteLine 0x4000000000) 0 start)) = true := by decide
  have h3 : (engOf start 3 false 0 true).any (fun e => isOk (putItem e false twoWords 0 start) && isOk (putItem e false twoWords 1 start)) = true := by decide
  refine ⟨?_, ?_, ?_, by decide, by decide, by decide⟩
  · obtain ⟨e, he, h⟩ := any_spec h1
    obtain ⟨t, ht⟩ := isOk_spec h
    refine ⟨e, t, he, (putNext_of_item start (n := 0) (k := 0) (i := 0) (by rw [one.1]; exact Nat.mod_one _) (by rw [one.1]; rfl) rfl).trans ?_⟩
    rw [ht]
    exact congrArg (fun l => Except.ok (t, l)) (by decide)
  · obtain ⟨e, he, h⟩ := any_spec h2
    cases ht : putItem e false (byteLine 0x4000000000) 0 start with
    | ok t => rw [ht] at h; cases h
    | error k =>
      exact ⟨e, k, he, (putNext_of_item start (n := 0) (k := 0) (i := 0) (by rw [one.2]; exact Nat.mod_one _) (by rw [one.2]; rfl) rfl).trans (by rw [ht]; rfl)⟩
  · obtain ⟨e, he, h⟩ := any_spec h3
    rw [Bool.and_eq_true] at h
    have hn : Config.freePick start.free 80 % max 1 (putItems [twoWords]).length < 2 := by rw [two]; exact Nat.mod_lt _ (by decide)
    generalize hk : Config.freePick start.free 80 % max 1 (putItems [twoWords]).length = n at hn
    have go (i : Nat) (hi : (putItems [twoWords])[n]? = some (0, i)) (ho : isOk (putItem e false twoWords i start) = true)
        (hd : dropItem [twoWords] 0 i ≠ []) : ∃ e t l, engOf start 3 false 0 true = some e ∧ l ≠ [] ∧ putNext e false [twoWords] start = .ok (t, l) := by
      obtain ⟨t, ht⟩ := isOk_spec ho
      exact ⟨e, t, _, he, hd, (putNext_of_item start hk hi rfl).trans (by rw [ht]; rfl)⟩
    match n, hn, hk with
    | 0, _, _ => exact go 0 (by rw [two]; rfl) h.1 (by decide)
    | 1, _, _ => exact go 1 (by rw [two]; rfl) h.2 (by decide)

/-- A Backwater record that is due, and none; a batch with an ended launch, with an aborted one and with one that runs; an item of it; a collective
that waits, one that has begun on a group, and one whose group is gone. -/
theorem meets_BackwaterAndCollectives :
    let due (s : State) : State := { s with dies := [(0, { Die.reset with exits := [(0, exitAt 0xB000)] })], now := s.now + 49152, queues := tput s.queues 8184 backwaterQueue }
    let batched (x : LaunchState) (gone : Bool) (s : State) : State :=
      { (s.modLaunch 1 (fun l => { l with state := x, aborted := gone })) with
        dies := [(0, { Die.reset with exits := [(0, { exitAt 0xB000 with state := .batched })], batches := [⟨0, 0x8000, 0, [0], some 1, 0⟩] })] }
    let batch (s : State) (p : Launch → Bool) : Bool :=
      ((s.die 0).batches[0]?).any (fun b => b.launch.any (fun k => (tget s.launches k).any p) && (engineHdr s b.asid b.hdr).isSome)
    let coll (s : State) : Collective :=
      { asid := 0, priv := false, addr := 0x5000, seed := 0, op := .ared, count := 32, desc := s.bytes (.hbm 0x5000) 64, index := 0, begun := true }
    let c := cache 0xC000 start
    let d := described start
    (fillBatch (due c) 0).isSome = true ∧ (fillBatch c 0).isNone = true ∧
    batch (batched .ended false c) (fun l => decide (l.state = .ended) && !l.aborted) = true ∧ batch (batched .ended true c) (fun l => decide (l.state = .ended) && l.aborted) = true ∧
    batch (batched .placed false c) (fun l => decide (l.state ≠ .ended)) = true ∧
    (let h := parseHdr (c.bytes (.hbm 0x8000) 64)
     let e := h.entryAt (exitAt 0xB000).page (exitAt 0xB000).pos
     tget ((due c).die 0).exits 0 = some (exitAt 0xB000) ∧ (exitAt 0xB000).layer + 1 ≠ h.layers ∧
       (match ctxRead c 0 (0xD000 + 64 + 32 * (h.bmax + 1)) (h.esz - 16) with
        | .ok bs => (match storeUpTo 0 (spanLines (e + 16) bs.length) c (e + 16) bs with
          | .ok s1 => (match ctxMoveSlots 0 (0xD000 + 64 + 32 * (h.bmax + 1)) (e + 16) bs.length s1 with
            | .ok s2 => (match ctxRead s2 0 e 4 with
              | .ok w => (stateWord (ofBytes w)).any (fun p => isOk (ctxStore s2 0 e (toBytes 4 (if p.2.1 then 4 else 0))))
              | _ => false)
            | _ => false)
          | _ => false)
        | _ => false) = true ∧ stateWord 2 = none) ∧
    (let s : State := { d with dies := [(0, { Die.reset with colls := [{ coll d with begun := false }] })] }
     (findColl (s.die 0).colls false).isSome = true ∧ (findColl (s.die 0).colls true).isNone = true) ∧
    (let s : State := { d with dies := [(0, { Die.reset with colls := [coll d] })] }
     (findColl (s.die 0).colls true).any (fun p => (tget s.groups p.2.gid).any (fun g => decide (0 < g.n) &&
       (collEng s p.2).any (fun e => isOk (readUnits s e p.2 p.2.src (srcUnits p.2 g.n)) && isOk (engWrite s e false (p.2.addr + 0x1C) [0, 0, 0, 0]) &&
         isOk (engWrite s e false p.2.cword [1, 0, 0, 0])))) = true ∧ ({ s with groups := [] } : State).groups = []) ∧
    -- the other member's message: of another collective; of the same, at odds, with an error, and whole; a route that is down
    (let x := coll d
     let msg (op bad index n : Nat) : List Byte := [BitVec.ofNat 8 op, BitVec.ofNat 8 x.fmt, BitVec.ofNat 8 bad, 0] ++ toBytes 4 32 ++ toBytes 4 index ++
       List.replicate n 0
     (otherPosts 2 0 [[], msg 0 0 1 128]).all (x.matched 2) = false ∧
     (otherPosts 2 0 [[], msg 1 0 0 0]).all (x.matched 2) = true ∧ ((otherPosts 2 0 [[], msg 1 0 0 0]).filterMap peerPost).all x.fits = false ∧
     (otherPosts 2 0 [[], msg 0 1 0 0]).all (x.matched 2) = true ∧ ((otherPosts 2 0 [[], msg 0 1 0 0]).filterMap peerPost).all (fun p => x.fits p && p.bad) = true ∧
     (otherPosts 2 0 [[], msg 0 0 0 128]).all (x.matched 2) = true ∧
     ((otherPosts 2 0 [[], msg 0 0 0 128]).filterMap peerPost).all (fun p => x.fits p && !p.bad) = true) ∧
    tgetD ({ d with ports := [(0, true)] } : State).ports 0 false = true ∧ tgetD d.ports 0 false = false := by decide

/-- A near-memory command of a code at 0x6000, started or not; its one part. -/
def nmCmd (code cnt : Nat) (aux : Nat) (started : Bool) : NmCmd :=
  { issuer := .warp 4 1, rank := 0, arrival := 1, asid := 0, blk := none, priv := false, seed := 0, arg := [],
    word := BitVec.ofNat 128 (code + 2 ^ 32 * 0x6000 + 2 ^ 84 * cnt + 2 ^ 112 * aux), started := started,
    words := [],
    parts := if started then [⟨0, 0, cnt + 1, some 1, 1, [], false, false, 0, 0⟩] else [], res0 := 0, res1 := 0 }
def nmHeld (l : List NmCmd) (s : State) : State := { s with nmus := [(0, l)] }


/-- A command that waits for an earlier one to start, and that is next to start; one without a part to go on, and one with; every code with its plan;
counts at the ends of their range; a key slot that is empty. -/
theorem meets_NearMemoryCommands :
    let run (code : Nat) : NmCmd := nmCmd code 1 1 true
    let s := nmHeld [run 9] start
    let eng (s : State) (p : Eng → Bool) : Bool := (nmEng s (run 8)).any p
    let acc (s : State) (size : Nat) (p : Acc → Bool) : Bool := eng s (fun e => match engAcc s e .atomic false (nmArg (run 8).word) size with | .ok a => p a | _ => false)
    ((nmHeld [nmCmd 9 1 1 false] start).nmu 0).length = 1 ∧ (nmCmd 9 1 1 false).started = false ∧
    nextAt (nmHeld [nmCmd 9 1 1 false] start) 0 1 = true ∧ nextAt (nmHeld [nmCmd 9 1 1 false, { nmCmd 8 1 1 false with arrival := 2 }] start) 0 2 = false ∧
    openParts s (run 9) ≠ [] ∧ openParts s { run 9 with parts := [⟨0, 0, 1, some 1, 1, [], false, true, 0, 0⟩] } = [] ∧
    [1, 2, 3, 4, 5, 6, 7, 8, 9, 10, 11, 12].all (fun k => decide (nmCode (run k).word = k) && decide (nmFl (run k).word = 0) &&
      (nmPlan (run k).word (if k = 1 then List.replicate 56 0 ++ toBytes 4 1 ++ List.replicate 4 0 else List.replicate 64 0)).isSome) = true ∧
    nmCode (run 13).word = 13 ∧ nmCode (run 0).word = 0 ∧
    nmFl (BitVec.ofNat 128 (9 + 2 ^ 24)) = 1 ∧ 2 ≤ nmFl (BitVec.ofNat 128 (9 + 2 ^ 31)) ∧
    eng s (fun _ => true) = true ∧ (nmDone { run 9 with parts := [⟨0, 0, 1, some 1, 1, [], false, true, 3, 0⟩] }).1 = 3 ∧
    isOk (ctxStore s 0 0x7020 (toBytes 16 0)) = true ∧ isOk (ctxRead s 0 0x7008 8) = true ∧
    acc s 4 (fun a => decide ((ofBytes (s.bytes a.loc 4) : Int) + (BitVec.ofNat 16 (nmAux (run 8).word)).toInt = 1)) = true ∧
    (let u := s.setBytes (.hbm 0x6000) [0xFF, 0xFF, 0xFF, 0xFF]
     acc u 4 (fun a => decide ((ofBytes (u.bytes a.loc 4) : Int) + (BitVec.ofNat 16 (nmAux (run 8).word)).toInt = 2 ^ 32)) = true) ∧
    acc s 8 (fun _ => true) = true ∧ acc s 16 (fun _ => true) = true ∧
    tget ({ s with keys := [(1, ⟨7, true⟩)] } : State).keys (nmAux (run 12).word) = some ⟨7, true⟩ ∧
    eng s (fun e => isOk (engWrite s e false 0x6000 [1, 0, 1, 0]) && isOk (readWords s e 0x6000 2) && isOk (nmRead s e (nmEnd 0x6000 0 0 2) 0 2)) = true := by
  decide

/-- Each access while the device runs, at the ends of its range, and before it runs. -/
theorem meets_OutsideAccesses :
    start.inRun = true ∧ State.reset.inRun = false ∧ State.reset.plat.off = false ∧
    hbmBytes - 4 + [(1 : Byte), 2, 3, 4].length ≤ hbmBytes ∧
    (let q := (start.modQueue 0 (fun q => { q with depth := 2, tail := 1 })).queue 0
     (2 - q.head).toNat ≤ q.depth ∧ (2 - q.tail).toNat ≤ q.depth ∧ q.closed = false ∧ q.depth < ((3 : Word) - q.head).toNat) ∧
    0x10000 ≤ 0x101E0 + 20 ∧ (0x101E0 + 20) % 32 + [(0 : Byte), 0, 0, 0].length ≤ 24 ∧ 0x38 + 8 ≤ 64 ∧
    -- the doorbell: a command of no code, and one
    (let s : State := { start with box0 := { start.box0 with bytes := 0x10 } }
     (s.box0.bytes.extractLsb' 0 8).toNat = 0x10 ∧ (start.box0.bytes.extractLsb' 0 8).toNat = 0 ∧
       (({ start with box0 := { start.box0 with bytes := 0x0F } } : State).box0.bytes.extractLsb' 0 8).toNat = 0x0F) ∧
    ((start.modQueue 5 (fun q => { q with closed := true, depth := 2 })).queue 5).closed = true ∧
    { start with poison := [granuleKey (.hbm 0x5000)] }.poisoned (.hbm 0x5000) 8 = true ∧ meetsSecure start 0x5000 8 = false ∧ inSideRegion start 0x5000 8 = false ∧
    start.poisoned (.hbm 0x5000) 8 = false ∧ start.slotPoisoned (.hbm 0x5000) = false ∧
    tgetD start.ports 15 false = false ∧ tgetD ({ start with replays := [(15, 16)] } : State).replays 15 0 = 16 ∧ tgetD start.replays 15 0 ≠ 16 ∧
    -- the last eight bytes of a descriptor of one chunk; one of none
    (let bound := start.modIngress 15 (fun x => { x with bound := true, reg := BitVec.ofNat 256 (2 ^ 160) })
     let x := (bound.modIngress 15 (fun x => { x with reg := putBytes x.reg 24 (toBytes 8 0) })).ingressOf 15
     let d := parseIngress x.reg
     x.bound = true ∧ x.held.length < 16 ∧ d.cval.msb = false ∧ d.stg % 65536 = 0 ∧ d.dst % 65536 = 0 ∧ d.cword % 4 = 0) ∧
    (parseIngress 0).n = 0 ∧
    -- a run of one chunk whose key slot holds nothing
    (let s := start.modIngress 15 (fun x => { x with bound := true, size := 0x20000, held := [⟨0, 0, 0, 1, 0⟩] })
     (s.ingressOf 15).held = [⟨0, 0, 0, 1, 0⟩] ∧ 0 + 65536 * (s.ingressOf 15).chunk + 65536 ≤ (s.ingressOf 15).size ∧
       0 + (65536 * 1 + 16 * (s.ingressOf 15).chunk) + 16 ≤ (s.ingressOf 15).size ∧ tget s.keys (s.ingressOf 15).key = none ∧
       s.poisoned (.hbm ((s.ingressOf 15).base + 65536)) 16 = false ∧ meetsSecure s ((s.ingressOf 15).base + 65536) 16 = false) := by decide

/-- Contexts that exist and do not; a queue that is free and one with entries; a task; a fault record that waits; a launch group of two generations;
powers at the ends of their range. -/
theorem meets_ControlCommands :
    -- a mailbox that rings with a code, and one that does not; the operands of a power limit of 2400 W and of an attestation
    (let s : State := { start with box0 := { start.box0 with bell := 1, bytes := BitVec.ofNat 512 (0x0E + 2 ^ 64 * 2400) } }
     s.box0.bell = 1 ∧ (s.box0.bytes.extractLsb' 0 8).toNat = 0x0E ∧ (s.box0.bytes.extractLsb' (8 * 8) 64).toNat = (2400 : DWord).toNat ∧ s.box1.bell ≠ 1 ∧
       mailCode (.setPowerLimit false 2400) = some (false, 0x0E)) ∧
    (let b : BitVec 512 := BitVec.ofNat 512 (0x0D + 2 ^ 64 * 7 + 2 ^ 320 * 0x8000)
     (b.extractLsb' (8 * 8) 256).toNat = (7 : BitVec 256).toNat ∧ (b.extractLsb' (8 * 40) 64).toNat = (0x8000 : DWord).toNat) ∧
    ((start.modQueue 0 (fun q => { q with world := true })).queue 0).world = true ∧
    start.inRun = true ∧ tget start.ctxs 1 = none ∧ (tget start.ctxs 0).any (fun x => !x.world) = true ∧
    (tget (start.modCtx 0 (fun x => { x with world := true })).ctxs 0).any (fun x => x.world) = true ∧
    ((0x10000 : DWord).toNat % 65536 = 0 ∧ (0x10000 : DWord).toNat + (BitVec.ofNat 64 (hbmBytes - 0x10000)).toNat = hbmBytes) ∧
    (nmHeld [nmCmd 9 1 1 true] start).nmus.any (fun u => u.2.any (fun c => decide (c.asid = 0))) = true ∧ start.nmus = [] ∧ start.dies = [] ∧
    start.launches.any (fun l => decide (l.2.asid = 0 ∧ l.2.state ≠ .ended ∧ l.2.state ≠ .stored)) = true ∧
    (launchIn .ended start).launches.all (fun l => decide (l.2.state = .ended)) = true ∧
    (start.queue 8183).fill = 0 ∧ (start.modQueue 0 (fun q => { q with tail := 1 })).queue 0 ≠ start.queue 0 ∧ (start.queue 0).bound = true ∧ (start.queue 0).item = false ∧
    ((items 0 0 false start).queue 5).item = true ∧
    (match taskAt (launchIn .stored start) 0 with | some (.launch 1 0) => true | _ => false) = true ∧
    (match taskAt { start with flioc := { start.flioc with tasks := [(0x7000, 0)] } } 0x7000 with | some (.near 0) => true | _ => false) = true ∧
    (taskAt start 0x7000).isNone = true ∧
    (let s := (start.setBytes (.hbm (loadPool + 0x3C)) [1, 0, 0, 0]).modCtx 0 (fun x => { x with slots := [(0, record0)] })
     recordSlot s loadPool = some (0, 0, record0) ∧ mayName s false 0 = true ∧ ofBytes (s.bytes (.hbm (loadPool + 0x3C)) 4) = 1 ∧ recordSlot s 0 = none) ∧
    (tget ({ start with groups := [(65535, ⟨2, 0, 5, [0, 15], 0⟩)] } : State).groups 65535).any (fun g => decide (g.gen = (5 : Word).toNat ∧ g.gen ≠ (6 : Word).toNat)) = true ∧
    ([0, 15] : List Nat).length = 2 ∧ (start.ingressOf 15).held = [] ∧ (start.modIngress 15 (fun x => { x with held := [⟨0, 0, 0, 1, 0⟩] })).ingressOf 15 ≠ start.ingressOf 15 ∧
    (BitVec.ofNat 64 (2 ^ 31)).toNat = 2 ^ 31 ∧ (List.range 32).all (fun n => decide ((3 : DWord).toNat ≠ 2 ^ n)) = true ∧ (2400 : DWord).toNat = 2400 ∧ meetsSecure start 0x8000 0x5000 = false := by decide

/-- What `Config` leaves open (a signature, the fields of a manifest and a configuration block) has no value here: the cases of the statement cover each.
An image that cannot be read, and one with a failing core in a die with eight good spares, or with none. -/
theorem meets_PlatformEvents :
    (let x : FirmwareImage := ⟨true, [], [], [], [5], []⟩
     x.readable = true ∧ (failingReach x 0).length = 1 ∧ x.failing.all (fun c => !isRiffle c) = true ∧
       ((List.range 8).filter (fun k => !(([0, 1, 2, 3, 4, 5, 6, 7] : List Nat).contains (8 * 0 + k)))).length = 0) ∧
    (⟨false, [], [], [], [], []⟩ : FirmwareImage).readable = false ∧ ({ State.reset with plat := { Platform.reset with bstate := 1 } } : State).plat.bstate = 1 ∧
    (start.plat.plim < 3601 ∧ 109 < 110 ∧ 3600 ≤ start.plat.plim) ∧ (poisonKey (.bscale 0 0 0)).isSome = true ∧
    State.reset.plat.off = false ∧ State.reset.plat.bstate = 0 ∧ start.inRun = true ∧ start.plat.off = false ∧
    start.plat.plim < start.plat.plim + 1 ∧
    ({ start.plat with clk := 575, calm := 0 } : Platform).calm + 30000 * ({ start.plat with clk := 575, calm := 0 } : Platform).clk ≤ 30000 * 575 ∧
    (poisonKey (.hbm 0x5000)).isSome = true ∧ (poisonKey (.corrected true)).isNone = true := by decide

theorem meets_RegisterInstructionFrame :
    (∃ w, FixedCounts (.iadd (fr .e) 8 (.reg 4) (.reg 5) none .wrap) (fr .e) (nameD 8 (src1 (.reg 4)) (src1 (.reg 5)) none) (4, 2) w (fun _ => Health.none)) ∧
    (∃ c, Issues start (fr .e) (nameD 8 (src1 (.reg 4)) (src1 (.reg 5)) none) (some (4, 2)) noEarly c) ∧
    withIssuer start (fun c0 => gate c0 (fr .e) && c0.split.spend.all (fun p => decide (c0.split.nd < p.due))) = true ∧
    withIssuer start (fun c0 => answers (exec (.nmwaitTest (fr .e) 8 5) start) (fun _ => decide (c0.split.spend = []))) = true := by
  refine ⟨⟨fun c => [(8, fun t => iaddVal .wrap (c.val (.reg 4) t) (c.val (.reg 5) t) (c.valD none 0 t))], fun s c hi => ?_⟩, ?_, by decide, by decide⟩
  · exact (show exec _ s = aluOp _ _ intLat (fun c => [(8, fun t => iaddVal .wrap (c.val (.reg 4) t) (c.val (.reg 5) t) (c.valD none 0 t))]) noEvents s from rfl).trans
      (aluOp_next hi)
  · exact (meets (P := fun c => c.act ≠ 0) (by decide)).imp (fun _ h => h.1)

theorem meets_MemoryInstructionFrame :
    let ld : Instr := .ld (fr .e) 8 30 0 .glob .b64 .keep
    let st : Instr := .st (fr .e) 30 0 (.reg 24) .glob .b32 .keep
    let pg (v : Word) : State := { (at30 v).setBytes (.hbm loadTable) (toBytes 8 0x23F) with plat := { start.plat with sch := 16 } }
    -- one thread of the warp, with an access of each form that is a form of its own
    let ends (i : Instr) (s : State) : Bool :=
      (memForm i).any (fun m => issuing (only s 1) m.f m.n none m.early (fun c => decide (c.act ≠ 0) && (allOk (m.chks c)).isSome)) &&
        answers (exec i (only s 1)) (fun _ => true)
    ends ld (at30 0x5000) = true ∧ ends st (at30 0x5000) = true ∧ ends (.chunk (fr .e) 8 30) (at30 0x5000) = true ∧
    ends (.ldbs (fr .e) false 8 30 0 .mx8e4 .g32 0 false) (pg 0x5000) = true ∧ ends (.ldbs (fr .e) true 8 30 0 .mx8e4 .g32 0 false) (pg 0x5000) = true ∧
    ends (.stbs (fr .e) false 30 0 24 .mx8e4 .g32 0 false) (pg 0x5000) = true ∧ ends (.stbs (fr .e) true 30 0 32 .mx8e4 .g32 0 false) (pg 0x5000) = true ∧
    ends (.ldsc (fr .e) 8 9 30 5) (pg 0x5000) = true ∧ ends (.stsc (fr .e) 30 5 24 true) (pg 0x5000) = true ∧
    (memForm ld).any (fun m => withIssuer (at30 0x5000) (fun c => (m.bytes c [⟨0, 0x5000, 8, .hbm 0x5000, true, none⟩]).isEmpty)) = true := by decide

end Sys2Proof.Tests
end

section
/-! SUPPORT. Every instruction that has words acts through the issue of R58 and R297: what a closed gate, or a state without an issuer, makes
of it. -/
namespace Sys2Proof.Machine
open Sys2Proof

/-- What `s` answers to an instruction of frame `f` that issues: nothing changes while the gate is closed, and without an issuer it is refused. -/
structure Gated (f : Fr) (s : State) (o : Out) : Prop where
  closed : ∀ c, s.issuer = .ok c → gate c f = false → o = .next s
  unissued : s.issuer = .none → o = .refused .noIssuer

section
variable {f : Fr} {s : State} {n : Names} {lat : Option (Nat × Nat)} {early : Ctx → Option Nat}

/-! ### The operations that instructions share -/

theorem gated_issueFor {fl : Ctx → Nat → BitVec 32} {body : Ctx → State → Body} : Gated f s (issueFor fl f n lat early body s) where
  closed c hc hg := by simp [issueFor, hc, hg]
  unissued h := by simp [issueFor, h]

theorem gated_issue {body : Ctx → State → Body} : Gated f s (issue f n lat early body s) := gated_issueFor

theorem gated_controlOp {body : Ctx → State → Body} : Gated f s (controlOp f n lat body s) := gated_issue

theorem gated_branch {off : Word} {j : BitVec 8} {r : Option Reg} : Gated f s (branch f n lat off j r s) := gated_controlOp

theorem gated_callOp {g : Ctx → Nat → DWord} : Gated f s (callOp f n g s) := gated_controlOp

theorem gated_softTrap {v : Word} {k : Nat} : Gated f s (softTrap f v k s) := gated_controlOp

theorem gated_aluOp {l : Nat × Nat} {outs : Ctx → List (Nat × (Nat → Word))} {ev : Ctx → Health} : Gated f s (aluOp f n l outs ev s) :=
  gated_issue

theorem gated_intOp {d : Reg} {v : Ctx → Nat → Word} : Gated f s (intOp f n d v s) := gated_aluOp

theorem gated_logicOp {d a : Reg} {b : Src} {v : Word → Word → Word} : Gated f s (logicOp f d a b v s) := gated_intOp

theorem gated_fpOp {l : Nat × Nat} {d : Reg} {a b : Src} {v : Word → Word → Word} : Gated f s (fpOp f l d a b v s) := gated_aluOp

theorem gated_fp1 {d a : Reg} {v : Word → Word} : Gated f s (fp1 f d a v s) := gated_aluOp

theorem gated_cvtOp {d a : Reg} {sty dt : Elem} {rnd : Rnd} : Gated f s (cvtOp f d a sty dt rnd s) := gated_aluOp

theorem gated_wideOp {l : Nat × Nat} {d : Reg} {v : Ctx → Word} : Gated f s (wideOp f n l d v s) := gated_aluOp

theorem gated_moviOp {base : BitVec 10} {a : Reg} {reads : Bool} {body : Ctx → State → State} : Gated f s (moviOp f n base a reads body s) :=
  gated_issueFor

theorem gated_memOp {chks : Ctx → List (Nat × Chk)} {ea : Ctx → Nat → DWord} {body : Ctx → List Acc → State → Body} :
    Gated f s (memOp f n early chks ea body s) := gated_issue

theorem gated_loadOp {spc : Space} {sz : Size} {h : Hint} {d : Reg} {ea : Ctx → Nat → DWord} : Gated f s (loadOp f n spc sz h d ea s) :=
  gated_memOp

theorem gated_storeOp {spc : Space} {sz : Size} {h : Hint} {x : Src} {ea : Ctx → Nat → DWord} : Gated f s (storeOp f n spc sz h x ea s) :=
  gated_memOp

theorem gated_atomOp {spc : Space} {sz : Size} {scope : Scope} {ord : Order} {a : Reg} {off : Word} {d : Option Reg}
    {g : Ctx → Nat → DWord → Option DWord} : Gated f s (atomOp f n spc sz scope ord a off d g s) := gated_memOp

theorem gated_onceOp {body : Ctx → State → State} : Gated f s (onceOp f early body s) := gated_issue

theorem gated_flushOp {a : Reg} {drop : Bool} : Gated f s (flushOp f a drop s) := gated_issue

theorem gated_slxOp {d x : Reg} {mode : Nat} {a b : Option Src} : Gated f s (slxOp f d mode a b x s) := gated_issue

theorem gated_flumeOp {d a : Reg} {k : BitVec 4} {body : Ctx → Flume → Nat → State → (Word → State → Body) → Body} :
    Gated f s (flumeOp f d a k body s) := gated_issue

theorem gated_engsyncOp {fin : Ctx → State → State} : Gated f s (engsyncOp f early fin s) := gated_issue

theorem gated_tileIssue {i : Instr} : Gated f s (tileIssue f i s) := gated_issue

theorem gated_kvOp {k : BitVec 4} {outs : Ctx → KvAnswers → List (Nat × Word)} {bad : KvHdr → Bool}
    {body : Ctx → Eng → Nat → Bool → KvHdr → State → (KvAnswers → State → Body) → Body} : Gated f s (kvOp f n k outs bad body s) := gated_issue

theorem gated_tbarOp {d a : Reg} {body : Ctx → Nat → State → (Nat → State → Body) → Body} : Gated f s (tbarOp f d a body s) := gated_issue

theorem gated_migrOp {d : Reg} {plan : Ctx → Nat × Nat} : Gated f s (migrOp f d plan s) := gated_issue

theorem gated_barOp {a : Option Reg} {k : BitVec 4} {sync : Bool} : Gated f s (barOp f a k sync s) := gated_issue

theorem gated_nmwaitOp {d a : Reg} {wait : Bool} : Gated f s (nmwaitOp f d a wait s) := gated_issue

theorem gated_queueOp {a : Reg} {body : Ctx → Nat → State → Body} : Gated f s (queueOp f n a body s) := gated_issue

theorem gated_popOp {d a : Reg} {wait : Bool} : Gated f s (popOp f d a wait s) := gated_queueOp

theorem gated_pushOp {d a b : Reg} {wait : Bool} : Gated f s (pushOp f d a b wait s) := gated_queueOp

end

/-! ### Every instruction that has words -/

/-- The frame of an instruction is the one from which its fields are built. -/
theorem frOf_some {i : Instr} {f g : Fr} {o s m d a b c} (hi : fieldsOf i = some (mkRaw g o s m d a b c)) (h : frOf i = some f) : g = f := by
  simpa [frOf, hi, fr_mk] using h

theorem gated_execImad {f : Fr} {d : Reg} {a b x : Src} {wide u : Bool} {s : State} : Gated f s (execImad f d a b x wide u s) := by
  unfold execImad
  split
  · exact gated_aluOp
  · exact gated_intOp

/-! LDBS, STBS and KVXLT name parts of their bodies before the operation, which stands open only once they are unfolded. -/

theorem gated_execLdbs {f : Fr} {pk nc : Bool} {d a : Reg} {off : Word} {bf : BFmt} {g : Grp} {part : BitVec 2} {s : State} :
    Gated f s (execLdbs f pk d a off bf g part nc s) := by
  unfold execLdbs
  exact gated_memOp

theorem gated_execStbs {f : Fr} {pk nc : Bool} {a x : Reg} {off : Word} {bf : BFmt} {g : Grp} {part : BitVec 2} {s : State} :
    Gated f s (execStbs f pk a off x bf g part nc s) := by
  unfold execStbs
  exact gated_memOp

theorem gated_execKvxlt {f : Fr} {d x : Reg} {a b : Src} {k : BitVec 4} {acq : Bool} {s : State} :
    Gated f s (execKvxlt f d x a b k acq s) := by
  unfold execKvxlt
  exact gated_kvOp

/-- An instruction that has a frame issues under it; an event has none. -/
theorem gated_exec {i : Instr} {f : Fr} (h : frOf i = some f) (s : State) : Gated f s (exec i s) := by
  cases i
  -- an instruction with words carries its frame; the events, which have none, are left for the end
  all_goals try (obtain rfl := frOf_some rfl h; unfold exec)
  case nop | brx | ret | confl | exit | bkpt | rth | yieldw | portage => exact gated_controlOp
  case bra | braDec => exact gated_branch
  case call | callx => exact gated_callOp
  case trap | svc => exact gated_softTrap
  case waitv | gbar | nmq | sets | pref | wayset | bseal | bwait | weirsetSet | weirsetClr | convene | disband | bsload | rcfence | roleSet | recon |
      recoff | ebbstat | xlock | xfree | launch | coll => exact gated_issue
  case movs | iadd64 | lea | icmp | fcmp | fclass | vote | matchw | ffma | fsincos | h2fma | unpk2 | bdeq | scanw | bcastw | roleGet | cftest | pack2 |
      srnd | bquant | bpack | bunpk | bhealth | brescale | shfl => exact gated_aluOp
  case imad => exact gated_execImad
  case mov | iadd | isub | imul | imulh | imin | imax | iabs | isad | idot4 | sel | prmt | popc | clz | brev | bfx | bfi | lop3 => exact gated_intOp
  case moviRead | moviWrite => exact gated_moviOp
  case and | or | xor | andn | shl | shr | sar | rot => exact gated_logicOp
  case fadd | fsub | fmul | fmin | fmax | fdiv | h2add | h2mul | h2min | h2max => exact gated_fpOp
  case frcp | frsq | fsqrt | fexp2 | flog2 | ftanh => exact gated_fp1
  case cvt | cvti | cvtf => exact gated_cvtOp
  case bmax | bmin | bscale | bzp | redw => exact gated_wideOp
  case ld | lds => exact gated_loadOp
  case st | sts => exact gated_storeOp
  case ldbs => exact gated_execLdbs
  case stbs => exact gated_execStbs
  case ldsc | stsc | ldaq | strl | chunk => exact gated_memOp
  case atom | atomc | red => exact gated_atomOp
  case cflushWb | cflushWbinv => exact gated_flushOp
  case cflushWball | cflushWbinvall | fenceFull | fenceAcq | fenceRel => exact gated_onceOp
  case slxCopy | slxCvt | slxRescale | slxTr | slxFill | slxKvg | slxTagck => exact gated_slxOp
  case flput | flget | flwaitData | flwaitRoom => exact gated_flumeOp
  case engsyncCmp | engsyncPub => exact gated_engsyncOp
  case tmma | tmmaw | tmmaz | tmmas | taccZero | taccLive | taccDead | taccMul | trdReg | trdRec | twrReg | twrRec | tew | tred | tsmx | tnorm | tcvt |
      ebb => exact gated_tileIssue
  case kvxlt => exact gated_execKvxlt
  case kvapp | exittok | bfwait => exact gated_kvOp
  case tbarInit | tbarArrive | tbarWait | tbarArwt => exact gated_tbarOp
  case migrRiffle | migrReach | migrCancel => exact gated_migrOp
  case barSync | barArr => exact gated_barOp
  case nmwaitWait | nmwaitTest => exact gated_nmwaitOp
  case tqpopWait | tqpopTry => exact gated_popOp
  case tqpushWait | tqpushTry => exact gated_pushOp
  case tqpushClose => exact gated_queueOp
  all_goals exact nomatch h

end Sys2Proof.Machine
end

section
/-! SUPPORT. What stands behind `State.issuer`, and what the results that are due at an issue leave in the registers (R64). -/
namespace Sys2Proof.Machine
open Sys2Proof

/-! ### The issuer and the tables that it is read from -/

/-- The split that `cur` names stands, and so does everything that it belongs to. -/
def Placed (s : State) : Prop :=
  ∃ wp b g l, tget s.warps s.cur.1 = some wp ∧ (wp.split? s.cur.2).isSome = true ∧ tget s.blocks wp.blk = some b ∧
    tget s.gangs b.gang = some g ∧ tget s.launches g.launch = some l ∧ (tget s.ctxs l.asid).isSome = true

theorem placed_of_issuer {s : State} {c : Ctx} (h : s.issuer = .ok c) : Placed s := by
  unfold State.issuer at h
  repeat' split at h
  all_goals cases h
  rename_i wp hw _ sp hsp _ b hb _ g hg _ l hl _ x hx
  exact ⟨wp, b, g, l, hw, by simp [hsp], hb, hg, hl, by simp [hx]⟩

theorem Placed.issuer {s : State} (h : Placed s) : ∃ c, s.issuer = .ok c := by
  obtain ⟨wp, b, g, l, hw, hsp, hb, hg, hl, hx⟩ := h
  obtain ⟨sp, hsp⟩ := Option.isSome_iff_exists.mp hsp
  obtain ⟨x, hx⟩ := Option.isSome_iff_exists.mp hx
  exact ⟨_, by simp only [State.issuer, hw, hsp, hb, hg, hl, hx]; rfl⟩

theorem issuer_ent {s : State} {c : Ctx} (h : s.issuer = .ok c) : c.ent = s.cur.2 := by
  unfold State.issuer at h
  repeat' split at h
  all_goals cases h
  rfl

theorem issuer_split {s : State} {c : Ctx} (h : s.issuer = .ok c) : c.warp.split? c.ent = some c.split := by
  unfold State.issuer at h
  repeat' split at h
  all_goals cases h
  assumption

/-! ### Updates that leave the issuer in its place -/

theorem Placed.modWarp {s : State} (h : Placed s) (n : Nat) (f : Warp → Warp) (hb : ∀ wp, (f wp).blk = wp.blk := by exact fun _ => rfl)
    (he : ∀ wp e, ((f wp).split? e).isSome = (wp.split? e).isSome := by exact fun _ _ => rfl) : Placed (s.modWarp n f) := by
  obtain ⟨wp, b, g, l, hw, hsp, hbl, hrest⟩ := h
  refine ⟨if s.cur.1 = n then f wp else wp, b, g, l, ?_, ?_, ?_, hrest⟩
  · simp only [State.modWarp_warps, State.modWarp_cur, tget_tmod]
    split
    · next hn => rw [← hn, hw]; rfl
    · exact hw
  · split
    · exact (he wp _).trans hsp
    · exact hsp
  · split
    · rw [hb]; exact hbl
    · exact hbl

theorem Placed.modBlock {s : State} (h : Placed s) (n : Nat) (f : Block → Block) (hg : ∀ b, (f b).gang = b.gang := by exact fun _ => rfl) :
    Placed (s.modBlock n f) := by
  obtain ⟨wp, b, g, l, hw, hsp, hb, hgang, hrest⟩ := h
  refine ⟨wp, if wp.blk = n then f b else b, g, l, hw, hsp, ?_, ?_, hrest⟩
  · simp only [State.modBlock_blocks, tget_tmod]
    split
    · next hn => rw [← hn, hb]; rfl
    · exact hb
  · split
    · rw [hg]; exact hgang
    · exact hgang

theorem Placed.modCtx {s : State} (h : Placed s) (n : Nat) (f : Context → Context) : Placed (s.modCtx n f) := by
  obtain ⟨wp, b, g, l, hw, hsp, hb, hg, hl, hx⟩ := h
  refine ⟨wp, b, g, l, hw, hsp, hb, hg, hl, ?_⟩
  simp only [State.modCtx_ctxs, tget_tmod]
  split
  · next hn => rw [Option.isSome_map, ← hn]; exact hx
  · exact hx

theorem Placed.modCore {s : State} (h : Placed s) (n : Nat) (f : Core → Core) : Placed (s.modCore n f) := h

/-- A warp whose splits are changed one by one, each keeping its entry, has splits of the same entries. -/
theorem split?_map {wp wq : Warp} {g : Split → Split} (hs : wq.splits = wp.splits.map g) (hg : ∀ sp, (g sp).ent = sp.ent := by exact fun _ => rfl)
    (e : Nat) : wq.split? e = (wp.split? e).map g := by
  simp only [Warp.split?, hs, List.find?_map]
  congr 2
  funext sp
  simp [hg]

theorem split?_modSplit_self (wp : Warp) (e : Nat) {g : Split → Split} (hg : ∀ sp, (g sp).ent = sp.ent := by exact fun _ => rfl) :
    (wp.modSplit e g).split? e = (wp.split? e).map g := by
  rw [split?_map (g := fun sp => if sp.ent = e then g sp else sp) rfl (fun sp => by split <;> simp [hg])]
  cases h : wp.split? e with
  | none => rfl
  | some sp =>
    have he : sp.ent = e := by simpa using List.find?_some h
    simp [he]

theorem Placed.modSplit {s : State} (h : Placed s) (w e : Nat) (g : Split → Split) (hg : ∀ sp, (g sp).ent = sp.ent := by exact fun _ => rfl) :
    Placed (s.modSplit w e g) :=
  h.modWarp w (·.modSplit e g) (fun _ => rfl) (fun wp e' => by
    rw [split?_map (g := fun sp => if sp.ent = e then g sp else sp) rfl (fun sp => by split <;> simp [hg]), Option.isSome_map])

theorem Placed.landDue {s : State} (h : Placed s) (sp : Split) : Placed (s.landDue sp) := by simpa [Placed] using h

theorem Placed.writeSr {s : State} (h : Placed s) (w : Nat) (sr : SReg) (v : DWord) : Placed (s.writeSr w sr v) := by
  unfold State.writeSr
  split
  · exact h
  · dsimp only
    split
    case h_1 | h_2 | h_3 => exact h.modCtx _ _
    case h_4 => exact h.modBlock _ _
    case h_5 => exact h.modCore _ _
    case h_6 | h_7 => exact h.modWarp _ _
    case h_8 => exact h

theorem Placed.landSets {s : State} (h : Placed s) (w : Nat) (sp : Split) : Placed (s.landSets w sp) := by
  have fold (l : List SPend) (t : State) (ht : Placed t) : Placed (l.foldl (fun t p => t.writeSr w p.sr p.val) t) := by
    induction l generalizing t with
    | nil => exact ht
    | cons p r ih => exact ih _ (ht.writeSr w p.sr p.val)
  unfold State.landSets
  dsimp only
  split
  · exact h
  · refine (fold _ _ h).modWarp _ _ (he := fun wp e => ?_)
    rw [split?_map rfl, Option.isSome_map]

/-! ### Words written to registers -/

theorem setRegs_regs (s : State) (kvs : List (Nat × Word)) : (s.setRegs kvs).regs = (kvs.foldl (fun s p => s.setReg p.1 p.2) s).regs := by
  unfold State.setRegs
  dsimp only
  split <;> rfl

theorem regAt_setReg_self {s : State} (hs : tsorted s.regs = true) (k : Nat) (v : Word) : (s.setReg k v).regAt k = v :=
  tgetD_tputD_self hs k 0 v

theorem regAt_setReg_ne (s : State) {k j : Nat} (v : Word) (h : j ≠ k) : (s.setReg k v).regAt j = s.regAt j :=
  tgetD_tputD_ne s.regs 0 v h

/-- A register that a list of words does not name stays. -/
theorem regAt_setRegs_of_notMem (s : State) {kvs : List (Nat × Word)} {k : Nat} (h : ∀ q ∈ kvs, q.1 ≠ k) : (s.setRegs kvs).regAt k = s.regAt k := by
  rw [State.regAt, setRegs_regs]
  induction kvs generalizing s with
  | nil => rfl
  | cons q r ih =>
    rw [List.foldl_cons, ih _ (fun x hx => h x (List.mem_cons_of_mem _ hx))]
    exact regAt_setReg_ne s q.2 (h q List.mem_cons_self).symm

/-- A register for which a list of words names one word, once or several times, receives it. -/
theorem regAt_setRegs_of_mem {s : State} (hs : tsorted s.regs = true) {kvs : List (Nat × Word)} {k : Nat} {v : Word} (h : (k, v) ∈ kvs)
    (hu : ∀ q ∈ kvs, q.1 = k → q = (k, v)) : (s.setRegs kvs).regAt k = v := by
  rw [State.regAt, setRegs_regs]
  induction kvs generalizing s with
  | nil => cases h
  | cons q r ih =>
    rw [List.foldl_cons]
    by_cases hr : (k, v) ∈ r
    · exact ih (tsorted_tputD hs q.1 0 q.2) hr (fun x hx => hu x (List.mem_cons_of_mem _ hx))
    · obtain rfl : (k, v) = q := (List.mem_cons.mp h).resolve_right hr
      have hn : ∀ x ∈ r, x.1 ≠ k := fun x hx hk => hr (hu x (List.mem_cons_of_mem _ hx) hk ▸ hx)
      rw [← setRegs_regs, ← State.regAt, regAt_setRegs_of_notMem _ hn, regAt_setReg_self hs]

/-! ### Results due at an issue -/

/-- The issuer that has landed what is due is the issuer of its own state. -/
theorem land_issuer {s : State} {c : Ctx} (h : s.issuer = .ok c) : c.land.pre.issuer = .ok c.land := by
  have hc : c.pre.issuer = .ok c := by rw [issuer_pre h]; exact h
  unfold Ctx.land
  split
  · exact hc
  · dsimp only
    split
    · next c' h' => rw [issuer_pre h']; exact h'
    · exact hc

/-- Where a split has results in flight, the registers at its issue are those that have received what is due. -/
theorem land_regs {s : State} {c : Ctx} (h : s.issuer = .ok c) (hp : c.split.pend ≠ []) : c.land.pre.regs = (s.landDue c.split).regs := by
  have hpl : Placed (((c.pre.landDue c.split).landSets c.w c.split).modSplit c.w c.ent Split.dropDue) := by
    rw [issuer_pre h]
    exact (((placed_of_issuer h).landDue _).landSets _ _).modSplit _ _ _
  obtain ⟨c', h'⟩ := hpl.issuer
  have hl : c.land = c' := by simp [Ctx.land, hp, h']
  rw [hl, issuer_pre h', State.modSplit_regs, landSets_regs, issuer_pre h]

theorem guarded_regAt {s : State} {c : Ctx} (f : Fr) (h : s.issuer = .ok c) (hp : c.split.pend ≠ []) (k : Nat) :
    (c.guarded f).pre.regAt k = (s.landDue c.split).regAt k :=
  congrArg (tgetD · k 0) (land_regs h hp)

/-- A result that the nominal clock has reached stands in its register (R64). -/
theorem regAt_landDue_of_due {s : State} {sp : Split} {p : Pend} (hs : tsorted s.regs = true) (hp : p ∈ sp.pend)
    (hu : ∀ q ∈ sp.pend, q.key = p.key → q = p) (hd : p.due ≤ sp.nd) : (s.landDue sp).regAt p.key = p.val := by
  refine regAt_setRegs_of_mem hs (List.mem_map.mpr ⟨p, by simp [hp, hd], rfl⟩) (fun x hx hk => ?_)
  obtain ⟨q, hq, rfl⟩ := List.mem_map.mp hx
  rw [hu q (List.mem_of_mem_filter hq) hk]

/-- One that the clock has not reached leaves its register alone (R64). -/
theorem regAt_landDue_of_not_due (s : State) {sp : Split} {p : Pend} (hu : ∀ q ∈ sp.pend, q.key = p.key → q = p) (hd : sp.nd < p.due) :
    (s.landDue sp).regAt p.key = s.regAt p.key := by
  refine regAt_setRegs_of_notMem s (fun x hx hk => ?_)
  obtain ⟨q, hq, rfl⟩ := List.mem_map.mp hx
  obtain ⟨hq, hdue⟩ := List.mem_filter.mp hq
  rw [hu q hq hk] at hdue
  simp at hdue
  omega

/-! ### Reading a register -/

theorem inFlight_append_eq_none_iff (fl : List Flight) (x : Flight) (k : Nat) :
    inFlight (fl ++ [x]) k = none ↔ inFlight fl k = none ∧ ∀ p ∈ x.regs, p.1 ≠ k := by
  have hx : (∀ p ∈ x.regs, p.1 ≠ k) ↔ x.regs.find? (fun p => decide (p.1 = k)) = none := by simp
  rw [hx, inFlight, List.foldl_append, List.foldl_cons, List.foldl_nil]
  cases x.regs.find? (fun p => decide (p.1 = k)) <;> simp [inFlight]

/-- No operation in flight has a word for a register exactly when none names it. -/
theorem inFlight_eq_none_iff (fl : List Flight) (k : Nat) : inFlight fl k = none ↔ ∀ x ∈ fl, ∀ p ∈ x.regs, p.1 ≠ k := by
  induction fl using List.reverseRecOn with
  | nil => simp [inFlight]
  | append_singleton r x ih =>
    rw [inFlight_append_eq_none_iff, ih]
    simp only [List.mem_append, List.mem_singleton, or_imp, forall_and, forall_eq]

/-- A register for which no operation in flight has a word reads as stored. -/
theorem reg_of_not_inFlight {c : Ctx} {r t : Nat} (hr : r ≠ 0) (h : inFlight c.warp.flights (c.key r t) = none) :
    c.reg r t = c.pre.regAt (c.key r t) := by
  have hk : inFlight (c.warp.flights.filter Flight.known) (c.key r t) = none :=
    (inFlight_eq_none_iff _ _).mpr (fun x hx => (inFlight_eq_none_iff _ _).mp h x (List.mem_of_mem_filter hx))
  simp [Ctx.reg, hr, hk]

end Sys2Proof.Machine
end

section
/-! SUPPORT. What the split that issues becomes: past the instruction, with its clock moved on, its results in flight (R62 to R64). -/
namespace Sys2Proof.Machine
open Sys2Proof Sys2Proof.Claims

/-! ### The split of an entry after an update -/

theorem splitAt_modSplit_self (t : State) (w e : Nat) {g : Split → Split} (hg : ∀ sp, (g sp).ent = sp.ent := by exact fun _ => rfl) :
    splitAt (t.modSplit w e g) w e = (splitAt t w e).map g := by
  simp only [splitAt, State.modSplit_warps, tget_tmod_self]
  cases tget t.warps w with
  | none => rfl
  | some wp => exact split?_modSplit_self wp e hg

theorem splitAt_modWarp (t : State) (w e : Nat) {g : Warp → Warp} (hg : ∀ wp, (g wp).splits = wp.splits := by exact fun _ => rfl) :
    splitAt (t.modWarp w g) w e = splitAt t w e := by
  simp only [splitAt, State.modWarp_warps, tget_tmod_self]
  cases tget t.warps w with
  | none => rfl
  | some wp => simp [Warp.split?, hg]

theorem splitAt_of_issuer {s : State} {c : Ctx} (h : s.issuer = .ok c) : splitAt s c.w c.ent = some c.split := by
  simp [splitAt, issuer_warp h, issuer_split h]

/-- The split of an instruction that issues stands in the state at its issue. -/
theorem Issues.splitAt_pre {s : State} {f : Fr} {n : Names} {lat : Option (Nat × Nat)} {early : Ctx → Option Nat} {c : Ctx}
    (h : Issues s f n lat early c) : splitAt c.pre c.w c.ent = some c.split := by
  obtain ⟨c0, h0, -, rfl, -⟩ := h
  exact splitAt_of_issuer (c := c0.land) (land_issuer h0)

/-! ### Past an instruction -/

/-- The effective stall of R62 by the kind of the core. -/
theorem stall_eq (c : Ctx) (f : Fr) : c.stall f = if c.riffle then max f.stall.toNat 1 else max f.stall.toNat 2 := by
  unfold Ctx.stall Ctx.lat
  split <;> rfl

theorem tick_eq (c : Ctx) : c.tick = if c.riffle then 1 else 3 := rfl

theorem splitAt_bump_takeSlot (c : Ctx) (f : Fr) (n : Names) (t : State) (w e : Nat) : splitAt (takeSlot c f n t).bump w e = splitAt t w e := rfl

/-- The next issue time and the nominal clock of the split that has issued. -/
theorem splitAt_advance {c : Ctx} {sp : Split} (h : splitAt c.pre c.w c.ent = some sp) (f : Fr) (n : Names) :
    ∃ sp', splitAt (advance c f n) c.w c.ent = some sp' ∧ sp'.next = c.pre.now + (c.stall f + bankExtra c n) * c.tick ∧
      sp'.nd = sp.nd + c.stall f := by
  have past (g : Split → Split) (hg : ∀ sp, (g sp).ent = sp.ent := by exact fun _ => rfl) :
      splitAt (c.pre.modSplit c.w c.ent g) c.w c.ent = some (g sp) := by rw [splitAt_modSplit_self _ _ _ hg, h]; rfl
  unfold advance
  dsimp only
  rw [splitAt_bump_takeSlot]
  split
  · split
    · exact ⟨_, past _, rfl, rfl⟩
    · rw [splitAt_modWarp]
      exact ⟨_, past _, rfl, rfl⟩
  · exact ⟨_, past _, rfl, rfl⟩

/-- The results of fixed latency join those in flight. -/
theorem splitAt_finishFixed (c : Ctx) (f : Fr) (l : Nat) (kvs : List (Nat × Word)) (h : Health) (t : State) :
    splitAt (finishFixed c f l kvs h t) c.w c.ent = (splitAt t c.w c.ent).map (addPend · kvs (c.split.nd + l)) := by
  refine (splitAt_modWarp _ _ _ (fun wp => ?_)).trans (splitAt_modSplit_self _ _ _)
  dsimp only
  split <;> rfl

theorem mem_addPend {sp : Split} {kvs : List (Nat × Word)} {due : Nat} {x : Nat × Word} (h : x ∈ kvs) : ⟨x.1, x.2, due⟩ ∈ (addPend sp kvs due).pend :=
  List.mem_append_right _ (List.mem_map.mpr ⟨x, h, rfl⟩)

/-! ### What an issue leaves of its split -/

theorem gate_of_stalled {c : Ctx} (h : c.pre.now < c.split.next) (f : Fr) : gate c f = false := by
  simp [gate, Nat.not_le.mpr h]

/-- The split goes on no sooner than its effective stall later, with its clock moved on by that stall. -/
theorem Issues.advance_stall {s : State} {f : Fr} {n : Names} {lat : Option (Nat × Nat)} {early : Ctx → Option Nat} {c : Ctx}
    (h : Issues s f n lat early c) :
    ∃ sp, splitAt (advance c f n) c.w c.ent = some sp ∧ c.pre.now + c.stall f * c.tick ≤ sp.next ∧ sp.nd = c.split.nd + c.stall f := by
  obtain ⟨sp, hsp, hnext, hnd⟩ := splitAt_advance h.splitAt_pre f n
  refine ⟨sp, hsp, ?_, hnd⟩
  rw [hnext, Nat.add_mul]
  omega

/-- The same for an instruction of fixed latency, whose words are pending until the clock has moved by the latency. -/
theorem Issues.fixedNext_stall {s : State} {f : Fr} {n : Names} {lat : Option (Nat × Nat)} {early : Ctx → Option Nat} {c : Ctx}
    (h : Issues s f n lat early c) (l : Nat × Nat) (w : List (Nat × (Nat → Word))) (ev : Health) :
    ∃ sp, splitAt (fixedNext c f n l w ev) c.w c.ent = some sp ∧ c.pre.now + c.stall f * c.tick ≤ sp.next ∧ sp.nd = c.split.nd + c.stall f ∧
      ∀ x ∈ c.outs w, ⟨x.1, x.2, c.split.nd + c.lat l.1 l.2⟩ ∈ sp.pend := by
  obtain ⟨sp, hsp, hnext, hnd⟩ := h.advance_stall
  have hf : splitAt (fixedNext c f n l w ev) c.w c.ent = some (addPend sp (c.outs w) (c.split.nd + c.lat l.1 l.2)) := by
    rw [fixedNext, splitAt_finishFixed, hsp]; rfl
  exact ⟨_, hf, hnext, hnd, fun x hx => mem_addPend hx⟩

/-- Settles O6: a closed gate and a missing issuer by `gated_exec`, the stall and the pending results by what `advance` and `finishFixed` make of
the split, the new and the old value by what `landDue` writes. -/
theorem stallsAndDistances : Obligations.StallsAndDistances := by
  unfold Obligations.StallsAndDistances
  refine ⟨fun i f s c hf hc hg => (gated_exec hf s).closed c hc hg, fun i f s hf hs => (gated_exec hf s).unissued hs,
    fun c f h => gate_of_stalled h f, ?_, ?_, fun c r t => reg_of_not_inFlight, fun c t => rfl⟩
  · intro s f n l early c h
    dsimp only
    rw [← stall_eq, ← tick_eq]
    exact ⟨h.advance_stall, h.fixedNext_stall⟩
  · intro s c f p hc hs hp hu
    rw [guarded_regAt f hc (List.ne_nil_of_mem hp)]
    exact ⟨regAt_landDue_of_due hs hp hu, regAt_landDue_of_not_due s hu⟩

end Sys2Proof.Machine
end

section
/-! SUPPORT. The words of an instruction as bytes and as one number (R5, R73), the fields that a form reads from them (R74 to R77), and what the
checks of R81 have found of a word that decodes. -/
namespace Sys2Proof

/-! ### Bytes and the number that they spell -/

@[simp] theorem length_leBytes (k n : Nat) : (leBytes k n).length = k := by
  induction k generalizing n with
  | zero => rfl
  | succ k ih => simp [leBytes, ih]

/-- The bytes of a number that bytes spell are those bytes. -/
@[simp] theorem leBytes_leNat (bs : List Byte) : leBytes bs.length (leNat bs) = bs := by
  induction bs with
  | nil => rfl
  | cons b r ih =>
    have hmod : (b.toNat + 256 * leNat r) / 256 = leNat r := by have := b.isLt; omega
    have hb : BitVec.ofNat 8 (b.toNat + 256 * leNat r) = b := BitVec.eq_of_toNat_eq (by have := b.isLt; simp; omega)
    simp only [List.length_cons, leNat, leBytes, hmod, hb, ih]

theorem leNat_leBytes (k n : Nat) : leNat (leBytes k n) = n % 2 ^ (8 * k) := by
  induction k generalizing n with
  | zero => simp [leBytes, leNat, Nat.mod_one]
  | succ k ih =>
    rw [leBytes, leNat, ih, show 2 ^ (8 * (k + 1)) = 256 * 2 ^ (8 * k) by ring, Nat.mod_mul]
    simp

/-- The first `k` bytes spell the low `8 * k` bits. -/
theorem leNat_take (bs : List Byte) (k : Nat) : leNat (bs.take k) = leNat bs % 2 ^ (8 * k) := by
  induction k generalizing bs with
  | zero => simp [leNat, Nat.mod_one]
  | succ k ih =>
    cases bs with
    | nil => simp [leNat]
    | cons b r =>
      have hlow : (b.toNat + 256 * leNat r) % 256 = b.toNat := by have := b.isLt; omega
      have hhigh : (b.toNat + 256 * leNat r) / 256 = leNat r := by have := b.isLt; omega
      rw [List.take_succ_cons, leNat, leNat, ih, show 2 ^ (8 * (k + 1)) = 256 * 2 ^ (8 * k) by ring, Nat.mod_mul, hlow, hhigh]

/-- The two bits of LEN stand in the first byte (R73). -/
theorem leNat_mod_four (bs : List Byte) : leNat bs % 4 = (bs.getD 0 0).toNat % 4 := by
  cases bs with
  | nil => rfl
  | cons b r => simp only [leNat, List.getD_cons_zero]; omega

/-! ### The fields of a number -/

/-- The fields cut out of a number, laid side by side again, are its low bits. -/
theorem joinBits_splitBits (ws : List Nat) (n : Nat) : joinBits (ws.zip (splitBits ws n)) = n % 2 ^ ws.sum := by
  induction ws generalizing n with
  | nil => simp [joinBits, splitBits, Nat.mod_one]
  | cons w r ih => simp only [splitBits, List.zip_cons_cons, joinBits, ih, List.sum_cons, pow_add, Nat.mod_mul]

theorem toNat_mod_two_beq_one (n : Nat) : (n % 2 == 1).toNat = n % 2 := by
  rcases Nat.mod_two_eq_zero_or_one n with h | h <;> simp [h]

/-- LEN and X name a form exactly where they are that form's own (R75). -/
theorem Form.ofBits_eq_some (n : Nat) (fm : Form) :
    Form.ofBits n = some fm ↔ n % 4 = fm.len ∧ n.testBit 63 = decide (fm = .l) := by
  have hlen : n % 4 < 4 := Nat.mod_lt _ (by decide)
  rw [Form.ofBits, ← Nat.toNat_testBit]
  generalize n % 4 = l at *
  generalize n.testBit 63 = x
  interval_cases l <;> cases x <;> cases fm <;> decide

/-- X set outside the 96-bit forms names none (R75). -/
theorem Form.ofBits_eq_none {n : Nat} (hlen : n % 4 ≠ 1) (hx : n.testBit 63 = true) : Form.ofBits n = none := by
  refine Option.eq_none_iff_forall_ne_some.mpr (fun fm h => ?_)
  obtain ⟨hfm, hl⟩ := (Form.ofBits_eq_some n fm).mp h
  obtain rfl : fm = .l := of_decide_eq_true (hl ▸ hx)
  exact hlen hfm

theorem Form.exists_ofBits {n : Nat} (hlen : n % 4 ≠ 3) (hx : n % 4 = 1 ∨ n.testBit 63 = false) : ∃ fm, Form.ofBits n = some fm := by
  obtain h0 | h1 | h2 : n % 4 = 0 ∨ n % 4 = 1 ∨ n % 4 = 2 := by omega
  · exact ⟨.s, (Form.ofBits_eq_some n .s).mpr ⟨h0, by simpa [h0] using hx⟩⟩
  · cases hb : n.testBit 63
    · exact ⟨.e, (Form.ofBits_eq_some n .e).mpr ⟨h1, hb⟩⟩
    · exact ⟨.l, (Form.ofBits_eq_some n .l).mpr ⟨h1, hb⟩⟩
  · exact ⟨.w, (Form.ofBits_eq_some n .w).mpr ⟨h2, by simpa [h2] using hx⟩⟩

section
variable {n : Nat} {fm : Form}

@[simp] theorem form_ofBits : (Raw.ofBits fm n).form = fm := rfl
theorem opc_ofBits : (Raw.ofBits fm n).opc = n / 4 % 256 := rfl
theorem setc_ofBits : (Raw.ofBits fm n).setc = n / 2 ^ 52 % 8 := by
  simp only [Raw.ofBits, w0Widths, splitBits, List.getD_cons_succ, List.getD_cons_zero, Nat.div_div_eq_div_mul]
  norm_num

theorem w0_ofBits (h : Form.ofBits n = some fm) : (Raw.ofBits fm n).w0 = n % 2 ^ 64 := by
  obtain ⟨hlen, hx⟩ := (Form.ofBits_eq_some n fm).mp h
  have hjoin := joinBits_splitBits w0Widths n
  rw [show w0Widths.sum = 64 from rfl] at hjoin
  rw [← hjoin]
  have hb : (if fm = .l then (Raw.ofBits fm n).mod else (Raw.ofBits fm n).b) = (splitBits w0Widths n).getD 7 0 := by
    cases fm <;> rfl
  unfold Raw.w0
  rw [form_ofBits, ← hlen, ← hx, Nat.toNat_testBit, hb]
  simp only [Raw.ofBits, w0Widths, splitBits, List.getD_cons_succ, List.getD_cons_zero, pow_one, toNat_mod_two_beq_one,
    List.zip_cons_cons, List.zip_nil_left, Nat.div_div_eq_div_mul]
  norm_num

theorem ext_ofBits (h : fm = .e ∨ fm = .w) : (Raw.ofBits fm n).ext = n / 2 ^ 64 % 2 ^ 32 := by
  have hl : fm ≠ .l := by rintro rfl; simp at h
  have hjoin := joinBits_splitBits extWidths (n / 2 ^ 64)
  rw [show extWidths.sum = 32 from rfl] at hjoin
  rw [← hjoin]
  simp only [Raw.ext, Raw.ofBits, h, hl, if_true, if_false, extWidths, splitBits, List.getD_cons_succ, List.getD_cons_zero, pow_one,
    toNat_mod_two_beq_one, List.zip_cons_cons, List.zip_nil_left]

theorem lit_ofBits_l : (Raw.ofBits .l n).lit = n / 2 ^ 64 % 2 ^ 32 := rfl
theorem lit_ofBits_w : (Raw.ofBits .w n).lit = n / 2 ^ 96 % 2 ^ 32 := rfl

/-- The words of the fields hold every bit that was read (R73). -/
theorem bits_ofBits (h : Form.ofBits n = some fm) : (Raw.ofBits fm n).bits = n % 2 ^ (8 * fm.bytes) := by
  have hw0 := w0_ofBits h
  cases fm
  case s => exact hw0
  case e =>
    have hext := ext_ofBits (n := n) (.inl rfl : Form.e = .e ∨ Form.e = .w)
    show (Raw.ofBits .e n).w0 + 2 ^ 64 * (Raw.ofBits .e n).ext = n % (2 ^ 64 * 2 ^ 32)
    rw [hw0, hext, Nat.mod_mul]
  case l =>
    show (Raw.ofBits .l n).w0 + 2 ^ 64 * (Raw.ofBits .l n).lit = n % (2 ^ 64 * 2 ^ 32)
    rw [hw0, lit_ofBits_l, Nat.mod_mul]
  case w =>
    have hext := ext_ofBits (n := n) (.inr rfl : Form.w = .e ∨ Form.w = .w)
    show (Raw.ofBits .w n).w0 + 2 ^ 64 * ((Raw.ofBits .w n).ext + 2 ^ 32 * (Raw.ofBits .w n).lit) = n % (2 ^ 64 * (2 ^ 32 * 2 ^ 32))
    rw [hw0, hext, lit_ofBits_w, Nat.mod_mul, Nat.mod_mul (a := 2 ^ 32), Nat.div_div_eq_div_mul, show 2 ^ 96 = 2 ^ 64 * 2 ^ 32 from rfl]

end

theorem Form.bytes_cases (fm : Form) : fm.bytes = 8 ∨ fm.bytes = 12 ∨ fm.bytes = 16 := by
  cases fm <;> decide

/-! ### The encoder -/

/-- The instructions that have words are the instruction rows of the table. -/
theorem isSome_fieldsOf (i : Instr) : (fieldsOf i).isSome = i.isWord := by
  cases i <;> rfl

theorem encode_of_fields {i : Instr} {r : Raw} (h : fieldsOf i = some r) : encode i = leBytes r.form.bytes r.bits := by
  simp only [encode, h]

theorem bytes_of_fields {i : Instr} {r : Raw} (h : fieldsOf i = some r) : i.bytes = r.form.bytes := by
  rw [Instr.bytes, encode_of_fields h, length_leBytes]

/-! ### The decoder -/

/-- What the checks of R81 have found where the words `n`, with `room` bytes before the end of the fetch block, read as `i` in form `fm`. -/
structure Reads (room n : Nat) (i : Instr) (fm : Form) : Prop where
  fits : fm.bytes ≤ room
  form : Form.ofBits n = some fm
  assigned : fm ∈ formsOf (n / 4 % 256)
  counter : n / 2 ^ 52 % 8 ≠ 7
  fields : fieldsOf i = some (Raw.ofBits fm n)
  wf : i.wf = true

theorem reads_of_decodeBits {room n : Nat} {i : Instr} (h : decodeBits room n = .ok i) : ∃ fm, Reads room n i fm := by
  unfold decodeBits at h
  split at h
  · cases h
  split at h
  · cases h
  next hroom =>
  split at h
  · cases h
  next fm hform =>
  dsimp only at h
  rw [opc_ofBits, setc_ofBits] at h
  split at h
  · cases h
  split at h
  · cases h
  next hmem =>
  split at h
  · cases h
  next hsetc =>
  split at h
  · cases h
  split at h
  · cases h
  next hfields =>
  split at h
  · next hwf =>
    cases h
    refine ⟨fm, ⟨?_, hform, not_not.mp hmem, hsetc, not_not.mp hfields, hwf⟩⟩
    rw [Form.bytes, ← ((Form.ofBits_eq_some n fm).mp hform).1]
    exact not_lt.mp hroom
  · cases h

/-! ### A word that decodes -/

section
variable {room n : Nat} {i : Instr} {fm : Form}

theorem Reads.bytes_eq (h : Reads room n i fm) : i.bytes = fm.bytes := bytes_of_fields h.fields

theorem Reads.len (h : Reads room n i fm) : n % 4 = fm.len := ((Form.ofBits_eq_some n fm).mp h.form).1

theorem Reads.isWord (h : Reads room n i fm) : i.isWord = true := by
  rw [← isSome_fieldsOf, h.fields]; rfl

/-- The encoding writes back the bits that were read. -/
theorem Reads.encode_eq_leBytes (h : Reads room n i fm) : encode i = leBytes fm.bytes (n % 2 ^ (8 * fm.bytes)) := by
  rw [encode_of_fields h.fields, form_ofBits, bits_ofBits h.form]

theorem Reads.testBit_encode (h : Reads room n i fm) {k : Nat} (hk : k < 8 * fm.bytes) : (leNat (encode i)).testBit k = n.testBit k := by
  rw [h.encode_eq_leBytes, leNat_leBytes, Nat.mod_mod, Nat.testBit_mod_two_pow]
  simp [hk]

theorem Reads.testBit_w0 (h : Reads room n i fm) {k : Nat} (hk : k < 64) :
    (leNat (encode i)).testBit k = (Raw.ofBits fm n).w0.testBit k := by
  have hword : 64 ≤ 8 * fm.bytes := by cases fm <;> decide
  rw [h.testBit_encode (hk.trans_le hword), w0_ofBits h.form, Nat.testBit_mod_two_pow]
  simp [hk]

/-- W1 is the literal in form l, the EXT word in forms e and w. -/
theorem w1_ofBits (hs : fm ≠ .s) : (if fm = .l then (Raw.ofBits fm n).lit else (Raw.ofBits fm n).ext) = n / 2 ^ 64 % 2 ^ 32 := by
  cases fm with
  | s => exact absurd rfl hs
  | e => exact ext_ofBits (.inl rfl)
  | l => rfl
  | w => exact ext_ofBits (.inr rfl)

theorem Reads.testBit_w1 (h : Reads room n i fm) (hs : fm ≠ .s) {k : Nat} (hk : k < 32) :
    (leNat (encode i)).testBit (64 + k) = (if fm = .l then (Raw.ofBits fm n).lit else (Raw.ofBits fm n).ext).testBit k := by
  have hword : 96 ≤ 8 * fm.bytes := by
    cases fm with
    | s => exact absurd rfl hs
    | _ => decide
  rw [h.testBit_encode (by omega), w1_ofBits hs, Nat.testBit_mod_two_pow, Nat.testBit_div_two_pow, Nat.add_comm]
  simp [hk]

theorem Reads.testBit_w2 (h : Reads room n i .w) {k : Nat} (hk : k < 32) :
    (leNat (encode i)).testBit (96 + k) = (Raw.ofBits .w n).lit.testBit k := by
  have hword : 128 = 8 * Form.bytes .w := rfl
  rw [h.testBit_encode (by omega), lit_ofBits_w, Nat.testBit_mod_two_pow, Nat.testBit_div_two_pow, Nat.add_comm]
  simp [hk]

end

/-! ### Bytes that decode -/

section
variable {bs : List Byte} {i : Instr} {fm : Form}

theorem reads_of_decode (h : decode bs = .ok i) : ∃ fm, Reads bs.length (leNat (bs.take 16)) i fm := reads_of_decodeBits h

/-- An instruction's bytes are its encoding (R73). -/
theorem Reads.encode_eq (h : Reads bs.length (leNat (bs.take 16)) i fm) : encode i = bs.take fm.bytes := by
  have hle : fm.bytes ≤ 16 := by cases fm <;> decide
  have hwords := leBytes_leNat (bs.take fm.bytes)
  rw [List.length_take_of_le h.fits] at hwords
  rw [h.encode_eq_leBytes, ← leNat_take, List.take_take, min_eq_left hle, hwords]

theorem Reads.bytes_of_len (h : Reads bs.length (leNat (bs.take 16)) i fm) : i.bytes = 8 + 4 * ((bs.getD 0 0).toNat % 4) := by
  have hlow : leNat (bs.take 16) % 4 = leNat bs % 4 := by
    rw [leNat_take]; exact Nat.mod_mod_of_dvd _ (by decide)
  rw [h.bytes_eq, Form.bytes, ← h.len, hlow, leNat_mod_four]

/-- OPC stands within the first 16 bytes. -/
theorem opc_ofBits_take (bs : List Byte) (fm : Form) : (Raw.ofBits fm (leNat (bs.take 16))).opc = leNat bs / 4 % 256 := by
  rw [opc_ofBits, leNat_take]
  omega

end

/-! ### What R81 refuses of the words -/

section
variable {room n : Nat}

theorem decodeBits_lenReserved (h : n % 4 = 3) : decodeBits room n = .error .lenReserved := if_pos h

theorem decodeBits_crossesBlock (h : n % 4 ≠ 3) (hroom : room < 8 + 4 * (n % 4)) : decodeBits room n = .error .crossesBlock := by
  rw [decodeBits, if_neg h, if_pos hroom]

theorem decodeBits_extensionKind (h : n % 4 ≠ 3) (hlen : n % 4 ≠ 1) (hroom : 8 + 4 * (n % 4) ≤ room) (hx : n.testBit 63 = true) :
    decodeBits room n = .error .extensionKind := by
  rw [decodeBits, if_neg h, if_neg hroom.not_gt, Form.ofBits_eq_none hlen hx]

theorem decodeBits_opcode (h : n % 4 ≠ 3) (hroom : 8 + 4 * (n % 4) ≤ room) (hx : n % 4 = 1 ∨ n.testBit 63 = false)
    (ho : formsOf (n / 4 % 256) = []) : decodeBits room n = .error .opcode := by
  obtain ⟨fm, hfm⟩ := Form.exists_ofBits h hx
  rw [decodeBits, if_neg h, if_neg hroom.not_gt, hfm]
  exact if_pos ho

theorem decodeBits_ne_ok_of_counter (h : n / 2 ^ 52 % 8 = 7) (i : Instr) : decodeBits room n ≠ .ok i := fun hi => by
  obtain ⟨fm, hr⟩ := reads_of_decodeBits hi
  exact hr.counter h

end

end Sys2Proof
end

section
/-! SUPPORT. What a fetch gives: the instruction at its pc within one fetch block, or the cause of a word that is none (R73, R81). -/
namespace Sys2Proof.Machine
open Sys2Proof

@[simp] theorem length_bytes (s : State) (l : Loc) (n : Nat) : (s.bytes l n).length = n := by
  induction n generalizing l with
  | zero => rfl
  | succ n ih => simp [State.bytes, ih]

@[simp] theorem length_toBytes (n v : Nat) : (toBytes n v).length = n := by
  induction n generalizing v with
  | zero => rfl
  | succ n ih => simp [toBytes, ih]

/-- Whatever a fetch block may read as has 32 bytes. -/
theorem length_of_mem_codeOf {s : State} {c : Ctx} {va : Nat} {loc : Loc} {bs : List Byte} (h : bs ∈ codeOf s c va loc) : bs.length = 32 := by
  obtain rfl | hcached := List.mem_cons.mp h
  · exact length_bytes _ _ _
  · obtain ⟨p, -, rfl⟩ := List.mem_map.mp hcached
    exact length_toBytes _ _

@[simp] theorem length_fetchBlock (s : State) (c : Ctx) (va : Nat) (loc : Loc) : (fetchBlock s c va loc).length = 32 := by
  unfold fetchBlock
  dsimp only
  split
  · exact length_bytes _ _ _
  · cases hpick : (s.bytes loc 32 :: codeOf s c va loc)[Config.freePick s.free 1000000 % ((codeOf s c va loc).length + 1)]? with
    | none => exact length_bytes _ _ _
    | some bs =>
      obtain rfl | hold := List.mem_cons.mp (List.mem_of_getElem? hpick)
      · exact length_bytes _ _ _
      · exact length_of_mem_codeOf hold

section
variable {s : State} {c : Ctx}

/-- A fetch that gives an instruction has decoded it at its own place in a fetch block. -/
theorem decode_of_fetch {s1 : State} {i : Instr} (h : fetch s c = .ok (s1, i)) :
    c.split.pc.toNat % 4 = 0 ∧ ∃ va loc, decode ((fetchBlock s c va loc).drop (c.split.pc.toNat % 32)) = .ok i := by
  unfold fetch at h
  dsimp only at h
  split at h
  · cases h
  split at h
  · cases h
  next hpc =>
  split at h
  · cases h
  split at h
  · cases h
  next hdecode =>
  cases h
  exact ⟨not_not.mp hpc, _, _, hdecode⟩

theorem fetch_misaligned {e : TlbEntry} (he : translate s c.agent (c.split.pc.toNat / 32 * 32) .fetch = .ok e) (hpc : c.split.pc.toNat % 4 ≠ 0) :
    fetch s c = .error 0x02 := by
  simp only [fetch, he, if_pos hpc]

theorem fetch_undecoded {e : TlbEntry} {x : DecodeError} (he : translate s c.agent (c.split.pc.toNat / 32 * 32) .fetch = .ok e)
    (hpc : c.split.pc.toNat % 4 = 0) (hp : s.poisoned (e.loc (c.split.pc.toNat / 32 * 32)) 32 = false)
    (hx : decode ((fetchBlock s c (c.split.pc.toNat / 32 * 32) (e.loc (c.split.pc.toNat / 32 * 32))).drop (c.split.pc.toNat % 32)) = .error x) :
    fetch s c = .error (decodeCause x) := by
  simp [fetch, he, hpc, hp, hx]

theorem decodeCause_eq (x : DecodeError) : decodeCause x = if x = .crossesBlock then 0x02 else 0x01 := by cases x <;> rfl

/-- No instruction crosses its fetch block (R73). -/
theorem fetch_within_block {s1 : State} {i : Instr} (h : fetch s c = .ok (s1, i)) : c.split.pc.toNat % 32 + i.bytes ≤ 32 := by
  obtain ⟨-, va, loc, hdecode⟩ := decode_of_fetch h
  obtain ⟨fm, hr⟩ := reads_of_decode hdecode
  have hfits := hr.fits
  rw [List.length_drop, length_fetchBlock] at hfits
  rw [hr.bytes_eq]
  omega

end

/-- Settles O2: what decodes by the fields that the decoder read (`Reads`), whose words are the low bits of the bytes; the fetch by the 32 bytes of
its block; what is refused by the checks of `decodeBits` in their order. -/
theorem decodedIsWellFormed : Obligations.DecodedIsWellFormed := by
  unfold Obligations.DecodedIsWellFormed
  refine ⟨fun bs i h => ?_, fun s s1 c i h => ⟨(decode_of_fetch h).1, fetch_within_block h⟩,
    fun s c e he => ⟨fetch_misaligned he, fun x hpc hp hx => decodeCause_eq x ▸ fetch_undecoded he hpc hp hx⟩,
    fun bs => ⟨decodeBits_lenReserved, decodeBits_crossesBlock, decodeBits_extensionKind, decodeBits_opcode,
      fun i h => decodeBits_ne_ok_of_counter h i⟩⟩
  obtain ⟨fm, hr⟩ := reads_of_decode h
  refine ⟨hr.wf, hr.isWord, hr.bytes_eq ▸ hr.encode_eq, hr.bytes_eq ▸ hr.fits, hr.bytes_of_len, hr.bytes_eq ▸ fm.bytes_cases,
    Raw.ofBits fm (leNat (bs.take 16)), hr.fields, opc_ofBits_take bs fm, hr.assigned, setc_ofBits ▸ hr.counter, fun k => hr.testBit_w0,
    fun hs k => hr.testBit_w1 hs, fun hw k => ?_⟩
  obtain rfl : fm = .w := hw
  exact hr.testBit_w2

end Sys2Proof.Machine
end

section
/-! SUPPORT. Words by their bits, and what shifts, counts and bit fields come to in bits (R121 to R126). -/
namespace Sys2Proof.Machine
open Sys2Proof Sys2Proof.Claims

/-! ### A word and its bits -/

@[simp] theorem getLsbD_word (p : Nat → Bool) (i : Nat) : (word p).getLsbD i = (decide (i < 32) && p i) := by
  by_cases hi : i < 32
  · rw [decide_eq_true hi, Bool.true_and]
    exact BitVec.iunfoldr_getLsbD (fun _ => ()) ⟨i, hi⟩ (fun _ => rfl)
  · rw [decide_eq_false hi, Bool.false_and, BitVec.getLsbD_of_ge _ _ (Nat.not_lt.mp hi)]

theorem eq_word_of_getLsbD {x : Word} {p : Nat → Bool} (h : ∀ i < 32, x.getLsbD i = p i) : x = word p :=
  BitVec.eq_of_getLsbD_eq (fun i hi => by rw [h i hi, getLsbD_word, decide_eq_true hi, Bool.true_and])

/-- The mask of the positions that pass a test is the word of which the test gives the bits. -/
theorem maskOf_filter_upto (p : Nat → Bool) : maskOf ((upto 32).filter p) = word p :=
  eq_word_of_getLsbD (fun i hi => by
    rw [getLsbD_maskOf, Bool.eq_iff_iff]
    simp [upto, hi])

/-! ### Shifts and counts -/

theorem shlVal_eq (x k : Word) : shlVal x k = x <<< k := by
  unfold shlVal
  split
  · next h => exact (BitVec.shiftLeft_eq_zero h).symm
  · rfl

theorem shrVal_eq (x k : Word) : shrVal x k = x >>> k := by
  unfold shrVal
  split
  · next h => exact (BitVec.ushiftRight_eq_zero h).symm
  · rfl

/-- An arithmetic shift by 32 already leaves the sign in every bit. -/
theorem sarVal_eq (x k : Word) : sarVal x k = x.sshiftRight' k := by
  refine BitVec.eq_of_getLsbD_eq (fun i hi => ?_)
  rw [sarVal, BitVec.sshiftRight_eq', BitVec.getLsbD_sshiftRight, BitVec.getLsbD_sshiftRight]
  rcases Nat.le_total k.toNat 32 with h | h
  · rw [Nat.min_eq_left h]
  · rw [Nat.min_eq_right h, if_neg (by omega), if_neg (by omega)]

theorem rotVal_eq (x k : Word) : rotVal x k = word (fun i => x.getLsbD ((i + 32 - k.toNat % 32) % 32)) := by
  refine eq_word_of_getLsbD (fun i hi => ?_)
  have hk : k.toNat % 32 < 32 := Nat.mod_lt _ (by decide)
  rw [rotVal, BitVec.getLsbD_rotateLeft_of_le hk, decide_eq_true hi, Bool.true_and]
  generalize k.toNat % 32 = r at hk
  by_cases h : i < r
  · rw [decide_eq_true h, cond_true, show (i + 32 - r) % 32 = 32 - r + i by omega]
  · rw [decide_eq_false h, cond_false, show (i + 32 - r) % 32 = i - r by omega]

theorem popcVal_eq (x : Word) : popcVal x = BitVec.ofNat 32 ((List.range 32).filter (fun i => x.getLsbD i)).length := by
  rw [popcVal, List.countP_eq_length_filter, upto]

theorem size_eq_log2_succ {n : Nat} (h : n ≠ 0) : n.size = n.log2 + 1 :=
  le_antisymm (Nat.size_le.mpr Nat.lt_log2_self) (Nat.lt_size.mpr (Nat.log2_self_le h))

theorem clzVal_eq (x : Word) : clzVal x = BitVec.ofNat 32 (32 - x.toNat.size) := by
  unfold clzVal
  split
  · next h => subst h; rfl
  · next h =>
    have hx : x.toNat ≠ 0 := fun h0 => h (BitVec.eq_of_toNat_eq h0)
    rw [size_eq_log2_succ hx, Nat.add_comm, Nat.sub_add_eq]

theorem brevVal_eq (x : Word) : brevVal x = word (fun i => x.getLsbD (31 - i)) := maskOf_filter_upto _

theorem lop3Val_eq (tt : BitVec 8) (a b c : Word) : lop3Val tt a b c =
    word (fun i => tt.getLsbD ((a.getLsbD i).toNat + 2 * (b.getLsbD i).toNat + 4 * (c.getLsbD i).toNat)) := maskOf_filter_upto _

/-! ### Bit fields -/

theorem fieldPos_eq (b : Word) : fieldPos b = min (b.extractLsb' 0 8).toNat 32 := rfl

theorem fieldLen_eq (b : Word) : fieldLen b = min (b.extractLsb' 8 8).toNat 32 := by
  rw [fieldLen, BitVec.extractLsb'_toNat, Nat.shiftRight_eq_div_pow]

theorem bfxVal_eq (sx : Bool) (a b : Word) : bfxVal sx a b =
    (let pos := min (b.extractLsb' 0 8).toNat 32
     let len := min (b.extractLsb' 8 8).toNat 32
     let x : DWord := if sx then a.signExtend 64 else a.zeroExtend 64
     let v : BitVec len := (x >>> pos).setWidth len
     if sx then v.signExtend 32 else v.zeroExtend 32) := by
  dsimp only
  rw [← fieldPos_eq, ← fieldLen_eq, bfxVal]
  generalize (if sx then a.signExtend 64 else a.zeroExtend 64 : DWord) = x
  have hv : x.toNat / 2 ^ fieldPos b % 2 ^ fieldLen b = ((x >>> fieldPos b).setWidth (fieldLen b)).toNat := by simp [Nat.shiftRight_eq_div_pow]
  rw [hv]
  generalize (x >>> fieldPos b).setWidth (fieldLen b) = v
  generalize fieldLen b = len at v
  split
  · next h =>
    subst h
    rw [BitVec.eq_nil v]
    cases sx <;> rfl
  · cases sx with
    | false => exact BitVec.ofNat_toNat 32 v
    | true =>
      rw [Bool.true_and, if_pos rfl, BitVec.signExtend, BitVec.toInt_eq_msb_cond, BitVec.msb_eq_decide]
      split
      · exact congrArg (BitVec.ofInt 32) (by push_cast; rfl)
      · exact (BitVec.ofInt_natCast ..).symm

/-- Bit `i` of the mask of a field. -/
theorem testBit_field (len pos i : Nat) : ((2 ^ len - 1) * 2 ^ pos).testBit i = decide (pos ≤ i ∧ i < pos + len) := by
  rw [Nat.testBit_mul_two_pow, Nat.testBit_two_pow_sub_one, ← Bool.decide_and, decide_eq_decide]
  omega

theorem bfiVal_eq (a b c : Word) : bfiVal a b c =
    (let pos := min (b.extractLsb' 0 8).toNat 32
     let len := min (b.extractLsb' 8 8).toNat 32
     word (fun i => if pos ≤ i ∧ i < pos + len then a.getLsbD (i - pos) else c.getLsbD i)) := by
  dsimp only
  rw [← fieldPos_eq, ← fieldLen_eq]
  refine eq_word_of_getLsbD (fun i hi => ?_)
  simp only [bfiVal, BitVec.getLsbD_or, BitVec.getLsbD_and, BitVec.getLsbD_not, BitVec.getLsbD_ofNat, testBit_field, hi, decide_true,
    Bool.true_and]
  split
  · next h =>
    have hlen : i - fieldPos b < fieldLen b := by omega
    simp [h, hlen, Nat.testBit_mul_two_pow, BitVec.testBit_toNat]
  · next h => simp [h]

end Sys2Proof.Machine
end

section
/-! SUPPORT. Instructions with one destination that only write it (R104), and the results of logic, counts and bit fields (R121 to R126). -/
namespace Sys2Proof.Machine
open Sys2Proof Sys2Proof.Claims

section
variable {i : Instr} {f : Fr} {n : Names} {d : Reg} {r : Raw}

/-- A one-destination integer instruction writes its value wherever it issues. -/
theorem fixedWrites_of_intOp {v : Ctx → Nat → Word} (hi : ∀ s, exec i s = intOp f n d v s) :
    FixedWrites i f n (4, 2) (fun c => [(d.toNat, v c)]) := fun s _ h => (hi s).trans (aluOp_next h)

/-! ### The forms of an opcode -/

/-- A well-formed instruction has one of its opcode's forms. -/
theorem form_mem_formsOf (law : Laws.Encoding.Statement i) (hr : fieldsOf i = some r) (hw : i.wf = true) : r.form ∈ formsOf r.opc := by
  obtain ⟨-, hf, -⟩ := law hw r hr
  exact hf

theorem exists_fields_s_or_l {o : Nat} (law : Laws.Encoding.Statement i) (hr : fieldsOf i = some r) (ho : r.opc = o) (hf : formsOf o = [.s, .l]) :
    ∃ r, fieldsOf i = some r ∧ r.opc = o ∧ formsOf r.opc = [.s, .l] ∧ (i.wf = true → r.form = .s ∨ r.form = .l) := by
  subst ho
  exact ⟨r, hr, rfl, hf, fun hw => by simpa [hf] using form_mem_formsOf law hr hw⟩

theorem exists_fields_s {o : Nat} (law : Laws.Encoding.Statement i) (hr : fieldsOf i = some r) (ho : r.opc = o) (hf : formsOf o = [.s])
    (hb : r.b = 0) : ∃ r, fieldsOf i = some r ∧ r.opc = o ∧ formsOf r.opc = [.s] ∧ r.b = 0 ∧ (i.wf = true → r.form = .s) := by
  subst ho
  exact ⟨r, hr, rfl, hf, hb, fun hw => by simpa [hf] using form_mem_formsOf law hr hw⟩

end

/-- Settles O10: each instruction writes its value by `fixedWrites_of_intOp`, and the lemma about the value gives its bits; the forms by the law
of the instruction's encoding. -/
theorem logicAndFieldResults : Obligations.LogicAndFieldResults := by
  unfold Obligations.LogicAndFieldResults
  intro f d
  refine ⟨fun a b => ?and, fun a b => ?or, fun a b => ?xor, fun a b => ?andn, fun a b => ?shl, fun a b => ?shr, fun a b => ?sar,
    fun a b => ?rot, fun a => ?popc, fun a => ?clz, fun a => ?brev, fun a b sx => ?bfx, fun a b c3 => ?bfi, fun a b c3 tt => ?lop3,
    fun a b => ⟨?ops, ?one⟩⟩
  case and => exact fixedWrites_of_intOp (fun s => by simp only [exec_and, execAnd, logicOp])
  case or => exact fixedWrites_of_intOp (fun s => by simp only [exec_or, execOr, logicOp])
  case xor => exact fixedWrites_of_intOp (fun s => by simp only [exec_xor, execXor, logicOp])
  case andn => exact fixedWrites_of_intOp (fun s => by simp only [exec_andn, execAndn, logicOp])
  case shl => exact fixedWrites_of_intOp (fun s => by simp only [exec_shl, execShl, logicOp, shlVal_eq])
  case shr => exact fixedWrites_of_intOp (fun s => by simp only [exec_shr, execShr, logicOp, shrVal_eq])
  case sar => exact fixedWrites_of_intOp (fun s => by simp only [exec_sar, execSar, logicOp, sarVal_eq])
  case rot => exact fixedWrites_of_intOp (fun s => by simp only [exec_rot, execRot, logicOp, rotVal_eq])
  case popc => exact fixedWrites_of_intOp (fun s => by simp only [exec_popc, execPopc, popcVal_eq])
  case clz => exact fixedWrites_of_intOp (fun s => by simp only [exec_clz, execClz, clzVal_eq])
  case brev => exact fixedWrites_of_intOp (fun s => by simp only [exec_brev, execBrev, brevVal_eq])
  case bfx => exact fixedWrites_of_intOp (fun s => by simp only [exec_bfx, execBfx, bfxVal_eq])
  case bfi => exact fixedWrites_of_intOp (fun s => by simp only [exec_bfi, execBfi, bfiVal_eq])
  case lop3 => exact fixedWrites_of_intOp (fun s => by simp only [exec_lop3, execLop3, lop3Val_eq])
  case ops =>
    simp only [List.forall_mem_cons, List.not_mem_nil, false_implies, implies_true, and_true]
    exact ⟨exists_fields_s_or_l (Laws.Encoding.and f d a b) rfl rfl (by decide), exists_fields_s_or_l (Laws.Encoding.or f d a b) rfl rfl (by decide),
      exists_fields_s_or_l (Laws.Encoding.xor f d a b) rfl rfl (by decide), exists_fields_s_or_l (Laws.Encoding.andn f d a b) rfl rfl (by decide)⟩
  case one =>
    simp only [List.forall_mem_cons, List.not_mem_nil, false_implies, implies_true, and_true]
    exact ⟨exists_fields_s (Laws.Encoding.popc f d a) rfl rfl (by decide) rfl, exists_fields_s (Laws.Encoding.clz f d a) rfl rfl (by decide) rfl,
      exists_fields_s (Laws.Encoding.brev f d a) rfl rfl (by decide) rfl⟩

end Sys2Proof.Machine
end

section
/-! SUPPORT. The words of a well-formed instruction read back as its fields (R73 to R77), and parse to the instruction (R81). -/
namespace Sys2Proof

/-! ### Fields that stand within their widths -/

/-- Fields laid side by side are cut apart again, whatever stands above them. -/
theorem splitBits_joinBits_add (l : List (Nat × Nat)) (h : ∀ p ∈ l, p.2 < 2 ^ p.1) (q : Nat) :
    splitBits (l.map (·.1)) (joinBits l + 2 ^ (l.map (·.1)).sum * q) = l.map (·.2) := by
  induction l with
  | nil => rfl
  | cons p r ih =>
    obtain ⟨w, v⟩ := p
    have hv : v < 2 ^ w := h (w, v) (List.mem_cons_self ..)
    have hn : v + 2 ^ w * joinBits r + 2 ^ (w + (r.map (·.1)).sum) * q = v + 2 ^ w * (joinBits r + 2 ^ (r.map (·.1)).sum * q) := by ring
    simp only [List.map_cons, List.sum_cons, joinBits, splitBits, hn, Nat.add_mul_mod_self_left, Nat.mod_eq_of_lt hv,
      Nat.add_mul_div_left _ _ (Nat.two_pow_pos w), Nat.div_eq_of_lt hv, Nat.zero_add, ih (fun p hp => h p (List.mem_cons_of_mem _ hp))]

/-- The fields of W0, each with its width (R74). -/
def Raw.w0Fields (r : Raw) : List (Nat × Nat) :=
  [(2, r.form.len), (8, r.opc), (1, r.uni.toNat), (6, r.g), (1, r.gn.toNat), (10, r.d), (10, r.a), (10, if r.form = .l then r.mod else r.b),
    (4, r.stall), (3, r.setc), (6, r.wait), (1, r.holdA.toNat), (1, r.holdB.toNat), (1, (decide (r.form = .l)).toNat)]

/-- The fields of EXT, each with its width (R76). -/
def Raw.extFields (r : Raw) : List (Nat × Nat) := [(10, r.c), (1, r.holdC.toNat), (5, r.sub), (14, r.mod), (2, r.lsel)]

theorem Raw.w0_eq (r : Raw) : r.w0 = joinBits r.w0Fields := rfl
theorem Raw.ext_eq (r : Raw) : r.ext = joinBits r.extFields := rfl

theorem Form.len_lt (fm : Form) : fm.len < 4 := by cases fm <;> decide

/-- What `Raw.fits` asks of the fields that every form has. -/
theorem Raw.fits_common {r : Raw} (h : r.fits = true) :
    r.opc < 256 ∧ r.g < 64 ∧ r.d < 1024 ∧ r.a < 1024 ∧ r.b < 1024 ∧ r.stall < 16 ∧ r.setc < 8 ∧ r.wait < 64 ∧ r.lit < 2 ^ 32 := by
  simp only [Raw.fits, Bool.and_eq_true, decide_eq_true_eq] at h
  tauto

/-- What it asks of the fields that only some forms have: those that a form lacks are 0. -/
theorem Raw.fits_form {r : Raw} (h : r.fits = true) : match r.form with
    | .s => r.c = 0 ∧ r.holdC = false ∧ r.sub = 0 ∧ r.mod = 0 ∧ r.lsel = 0 ∧ r.lit = 0
    | .l => r.b = 0 ∧ r.mod < 1024 ∧ r.c = 0 ∧ r.holdC = false ∧ r.sub = 0 ∧ r.lsel = 0
    | .e => r.c < 1024 ∧ r.sub < 32 ∧ r.mod < 16384 ∧ r.lsel < 4 ∧ r.lit = 0
    | .w => r.c < 1024 ∧ r.sub < 32 ∧ r.mod < 16384 ∧ r.lsel < 4 := by
  simp only [Raw.fits, Bool.and_eq_true] at h
  obtain ⟨-, h⟩ := h
  revert h
  cases r.form <;> simp

theorem Raw.w0Fields_lt {r : Raw} (h : r.fits = true) : ∀ p ∈ r.w0Fields, p.2 < 2 ^ p.1 := by
  obtain ⟨hopc, hg, hd, ha, hb, hstall, hsetc, hwait, -⟩ := Raw.fits_common h
  have hform := Raw.fits_form h
  have hmod : (if r.form = .l then r.mod else r.b) < 1024 := by
    split
    · next hl => rw [hl] at hform; exact hform.2.1
    · exact hb
  simp only [Raw.w0Fields, List.forall_mem_cons, List.not_mem_nil, false_implies, implies_true, and_true]
  exact ⟨Form.len_lt _, hopc, Bool.toNat_lt _, hg, Bool.toNat_lt _, hd, ha, hmod, hstall, hsetc, hwait, Bool.toNat_lt _, Bool.toNat_lt _,
    Bool.toNat_lt _⟩

theorem Raw.extFields_lt {r : Raw} (h : r.fits = true) (hf : r.form = .e ∨ r.form = .w) : ∀ p ∈ r.extFields, p.2 < 2 ^ p.1 := by
  obtain ⟨hc, hsub, hmod, hlsel⟩ : r.c < 1024 ∧ r.sub < 32 ∧ r.mod < 16384 ∧ r.lsel < 4 := by
    have hform := Raw.fits_form h
    rcases hf with hf | hf <;> rw [hf] at hform
    · obtain ⟨hc, hsub, hmod, hlsel, -⟩ := hform
      exact ⟨hc, hsub, hmod, hlsel⟩
    · exact hform
  simp only [Raw.extFields, List.forall_mem_cons, List.not_mem_nil, false_implies, implies_true, and_true]
  exact ⟨hc, Bool.toNat_lt _, hsub, hmod, hlsel⟩

/-! ### The words of a form, and what stands above them -/

/-- What stands above W0: the words behind it, and above them any `q`. -/
def Raw.upper (r : Raw) (q : Nat) : Nat :=
  match r.form with
  | .s => q
  | .e => r.ext + 2 ^ 32 * q
  | .l => r.lit + 2 ^ 32 * q
  | .w => r.ext + 2 ^ 32 * (r.lit + 2 ^ 32 * q)

theorem Raw.bits_add_eq (r : Raw) (q : Nat) : r.bits + 2 ^ (8 * r.form.bytes) * q = r.w0 + 2 ^ 64 * r.upper q := by
  unfold Raw.bits Raw.upper
  cases r.form <;> simp only [Form.bytes, Form.len] <;> ring

section
variable {r : Raw} {n q : Nat}

/-- The fields of W0 are cut out of the words, whatever stands above them. -/
theorem splitBits_w0 (h : r.fits = true) (hn : n = r.w0 + 2 ^ 64 * q) : splitBits w0Widths n = r.w0Fields.map (·.2) := by
  rw [hn, Raw.w0_eq]
  exact splitBits_joinBits_add r.w0Fields (Raw.w0Fields_lt h) q

theorem splitBits_ext (h : r.fits = true) (hf : r.form = .e ∨ r.form = .w) (hn : n = r.ext + 2 ^ 32 * q) :
    splitBits extWidths n = r.extFields.map (·.2) := by
  rw [hn, Raw.ext_eq]
  exact splitBits_joinBits_add r.extFields (Raw.extFields_lt h hf) q

theorem Raw.w0_lt (h : r.fits = true) : r.w0 < 2 ^ 64 := joinBits_lt _ (Raw.w0Fields_lt h)

theorem Raw.ext_lt (h : r.fits = true) (hf : r.form = .e ∨ r.form = .w) : r.ext < 2 ^ 32 := joinBits_lt _ (Raw.extFields_lt h hf)

/-- The words fill no more than the bytes of the form. -/
theorem Raw.bits_lt (h : r.fits = true) : r.bits < 2 ^ (8 * r.form.bytes) := by
  have hw0 := Raw.w0_lt h
  obtain ⟨-, -, -, -, -, -, -, -, hlit⟩ := Raw.fits_common h
  have hext := Raw.ext_lt h
  unfold Raw.bits
  cases hf : r.form with
  | s => exact hw0
  | l => simp only [Form.bytes, Form.len]; omega
  | e => have := hext (.inl hf); simp only [Form.bytes, Form.len]; omega
  | w => have := hext (.inr hf); simp only [Form.bytes, Form.len]; omega

/-- LEN and X name the form. -/
theorem Form.ofBits_w0_add (h : r.fits = true) (hn : n = r.w0 + 2 ^ 64 * q) : Form.ofBits n = some r.form := by
  have hs := splitBits_w0 h hn
  simp only [w0Widths, splitBits, Raw.w0Fields, List.map_cons, List.map_nil, List.cons.injEq, Nat.div_div_eq_div_mul] at hs
  norm_num at hs
  obtain ⟨hlen, -, -, -, -, -, -, -, -, -, -, -, -, hx⟩ := hs
  rw [Form.ofBits_eq_some]
  rw [Nat.testBit_eq_decide_div_mod_eq, hx]
  exact ⟨hlen, by cases r.form <;> rfl⟩

/-- The fields that are read from the words of `r` are those of `r`. -/
theorem ofBits_bits_add (h : r.fits = true) (hn : n = r.bits + 2 ^ (8 * r.form.bytes) * q) : Raw.ofBits r.form n = r := by
  rw [Raw.bits_add_eq] at hn
  have hs := splitBits_w0 h hn
  have hup : n / 2 ^ 64 = r.upper q := by have := Raw.w0_lt h; omega
  have hx (hf : r.form = .e ∨ r.form = .w) {k} (hk : r.upper q = r.ext + 2 ^ 32 * k) := splitBits_ext h hf (hup.trans hk)
  have hext := Raw.ext_lt h
  have hform := Raw.fits_form h
  obtain ⟨-, -, -, -, -, -, -, -, hlit⟩ := Raw.fits_common h
  obtain ⟨fm, opc, uni, g, gn, d, a, b, c, stall, setc, wait, hA, hB, hC, sub, mod, lsel, lit⟩ := r
  unfold Raw.ofBits
  rw [hs]
  cases fm with
  | s =>
    obtain ⟨rfl, rfl, rfl, rfl, rfl, rfl⟩ := hform
    simp [Raw.w0Fields]
  | l =>
    obtain ⟨rfl, -, rfl, rfl, rfl, rfl⟩ := hform
    have hl : n / 2 ^ 64 % 2 ^ 32 = lit := by rw [hup, Raw.upper, Nat.add_mul_mod_self_left, Nat.mod_eq_of_lt hlit]
    simpa [Raw.w0Fields] using hl
  | e =>
    obtain ⟨-, -, -, -, rfl⟩ := hform
    rw [hx (.inl rfl) rfl]
    simp [Raw.w0Fields, Raw.extFields]
  | w =>
    rw [hx (.inr rfl) rfl]
    have hl : n / 2 ^ 96 % 2 ^ 32 = lit := by
      have he := hext (.inr rfl)
      rw [show 2 ^ 96 = 2 ^ 64 * 2 ^ 32 from rfl, ← Nat.div_div_eq_div_mul, hup, Raw.upper, Nat.add_mul_div_left _ _ (by decide),
        Nat.div_eq_of_lt he, Nat.zero_add, Nat.add_mul_mod_self_left, Nat.mod_eq_of_lt hlit]
    simpa [Raw.w0Fields, Raw.extFields] using hl

end

/-! ### Instructions with words -/

/-- The law of the encoding holds of every instruction that has words. -/
theorem encodingLaw {i : Instr} (h : i.isWord = true) : Laws.Encoding.Statement i := by
  cases i
  case nop => apply Laws.Encoding.nop
  case bra => apply Laws.Encoding.bra
  case braDec => apply Laws.Encoding.braDec
  case brx => apply Laws.Encoding.brx
  case call => apply Laws.Encoding.call
  case callx => apply Laws.Encoding.callx
  case ret => apply Laws.Encoding.ret
  case confl => apply Laws.Encoding.confl
  case exit => apply Laws.Encoding.exit
  case trap => apply Laws.Encoding.trap
  case svc => apply Laws.Encoding.svc
  case bkpt => apply Laws.Encoding.bkpt
  case rth => apply Laws.Encoding.rth
  case yieldw => apply Laws.Encoding.yieldw
  case waitv => apply Laws.Encoding.waitv
  case movs => apply Laws.Encoding.movs
  case sets => apply Laws.Encoding.sets
  case mov => apply Laws.Encoding.mov
  case iadd => apply Laws.Encoding.iadd
  case isub => apply Laws.Encoding.isub
  case imul => apply Laws.Encoding.imul
  case imulh => apply Laws.Encoding.imulh
  case imad => apply Laws.Encoding.imad
  case imin => apply Laws.Encoding.imin
  case imax => apply Laws.Encoding.imax
  case iabs => apply Laws.Encoding.iabs
  case iadd64 => apply Laws.Encoding.iadd64
  case lea => apply Laws.Encoding.lea
  case isad => apply Laws.Encoding.isad
  case idot4 => apply Laws.Encoding.idot4
  case sel => apply Laws.Encoding.sel
  case prmt => apply Laws.Encoding.prmt
  case moviRead => apply Laws.Encoding.moviRead
  case moviWrite => apply Laws.Encoding.moviWrite
  case and => apply Laws.Encoding.and
  case or => apply Laws.Encoding.or
  case xor => apply Laws.Encoding.xor
  case andn => apply Laws.Encoding.andn
  case shl => apply Laws.Encoding.shl
  case shr => apply Laws.Encoding.shr
  case sar => apply Laws.Encoding.sar
  case rot => apply Laws.Encoding.rot
  case popc => apply Laws.Encoding.popc
  case clz => apply Laws.Encoding.clz
  case brev => apply Laws.Encoding.brev
  case bfx => apply Laws.Encoding.bfx
  case bfi => apply Laws.Encoding.bfi
  case lop3 => apply Laws.Encoding.lop3
  case icmp => apply Laws.Encoding.icmp
  case fcmp => apply Laws.Encoding.fcmp
  case fclass => apply Laws.Encoding.fclass
  case vote => apply Laws.Encoding.vote
  case matchw => apply Laws.Encoding.matchw
  case fadd => apply Laws.Encoding.fadd
  case fsub => apply Laws.Encoding.fsub
  case fmul => apply Laws.Encoding.fmul
  case ffma => apply Laws.Encoding.ffma
  case fmin => apply Laws.Encoding.fmin
  case fmax => apply Laws.Encoding.fmax
  case frcp => apply Laws.Encoding.frcp
  case frsq => apply Laws.Encoding.frsq
  case fsqrt => apply Laws.Encoding.fsqrt
  case fexp2 => apply Laws.Encoding.fexp2
  case flog2 => apply Laws.Encoding.flog2
  case fsincos => apply Laws.Encoding.fsincos
  case ftanh => apply Laws.Encoding.ftanh
  case fdiv => apply Laws.Encoding.fdiv
  case h2add => apply Laws.Encoding.h2add
  case h2mul => apply Laws.Encoding.h2mul
  case h2fma => apply Laws.Encoding.h2fma
  case h2min => apply Laws.Encoding.h2min
  case h2max => apply Laws.Encoding.h2max
  case cvt => apply Laws.Encoding.cvt
  case cvti => apply Laws.Encoding.cvti
  case cvtf => apply Laws.Encoding.cvtf
  case pack2 => apply Laws.Encoding.pack2
  case unpk2 => apply Laws.Encoding.unpk2
  case srnd => apply Laws.Encoding.srnd
  case bmax => apply Laws.Encoding.bmax
  case bmin => apply Laws.Encoding.bmin
  case bscale => apply Laws.Encoding.bscale
  case bzp => apply Laws.Encoding.bzp
  case bquant => apply Laws.Encoding.bquant
  case bdeq => apply Laws.Encoding.bdeq
  case bpack => apply Laws.Encoding.bpack
  case bunpk => apply Laws.Encoding.bunpk
  case bhealth => apply Laws.Encoding.bhealth
  case brescale => apply Laws.Encoding.brescale
  case shfl => apply Laws.Encoding.shfl
  case redw => apply Laws.Encoding.redw
  case scanw => apply Laws.Encoding.scanw
  case bcastw => apply Laws.Encoding.bcastw
  case ld => apply Laws.Encoding.ld
  case st => apply Laws.Encoding.st
  case lds => apply Laws.Encoding.lds
  case sts => apply Laws.Encoding.sts
  case ldbs => apply Laws.Encoding.ldbs
  case stbs => apply Laws.Encoding.stbs
  case ldsc => apply Laws.Encoding.ldsc
  case stsc => apply Laws.Encoding.stsc
  case ldaq => apply Laws.Encoding.ldaq
  case strl => apply Laws.Encoding.strl
  case pref => apply Laws.Encoding.pref
  case cflushWb => apply Laws.Encoding.cflushWb
  case cflushWbinv => apply Laws.Encoding.cflushWbinv
  case cflushWball => apply Laws.Encoding.cflushWball
  case cflushWbinvall => apply Laws.Encoding.cflushWbinvall
  case wayset => apply Laws.Encoding.wayset
  case atom => apply Laws.Encoding.atom
  case atomc => apply Laws.Encoding.atomc
  case red => apply Laws.Encoding.red
  case fenceFull => apply Laws.Encoding.fenceFull
  case fenceAcq => apply Laws.Encoding.fenceAcq
  case fenceRel => apply Laws.Encoding.fenceRel
  case chunk => apply Laws.Encoding.chunk
  case slxCopy => apply Laws.Encoding.slxCopy
  case slxCvt => apply Laws.Encoding.slxCvt
  case slxRescale => apply Laws.Encoding.slxRescale
  case slxTr => apply Laws.Encoding.slxTr
  case slxFill => apply Laws.Encoding.slxFill
  case slxKvg => apply Laws.Encoding.slxKvg
  case slxTagck => apply Laws.Encoding.slxTagck
  case bseal => apply Laws.Encoding.bseal
  case bwait => apply Laws.Encoding.bwait
  case flput => apply Laws.Encoding.flput
  case flget => apply Laws.Encoding.flget
  case flwaitData => apply Laws.Encoding.flwaitData
  case flwaitRoom => apply Laws.Encoding.flwaitRoom
  case weirsetSet => apply Laws.Encoding.weirsetSet
  case weirsetClr => apply Laws.Encoding.weirsetClr
  case engsyncCmp => apply Laws.Encoding.engsyncCmp
  case engsyncPub => apply Laws.Encoding.engsyncPub
  case convene => apply Laws.Encoding.convene
  case disband => apply Laws.Encoding.disband
  case tmma => apply Laws.Encoding.tmma
  case tmmaw => apply Laws.Encoding.tmmaw
  case tmmaz => apply Laws.Encoding.tmmaz
  case tmmas => apply Laws.Encoding.tmmas
  case taccZero => apply Laws.Encoding.taccZero
  case taccLive => apply Laws.Encoding.taccLive
  case taccDead => apply Laws.Encoding.taccDead
  case taccMul => apply Laws.Encoding.taccMul
  case trdReg => apply Laws.Encoding.trdReg
  case trdRec => apply Laws.Encoding.trdRec
  case twrReg => apply Laws.Encoding.twrReg
  case twrRec => apply Laws.Encoding.twrRec
  case tew => apply Laws.Encoding.tew
  case tred => apply Laws.Encoding.tred
  case tsmx => apply Laws.Encoding.tsmx
  case tnorm => apply Laws.Encoding.tnorm
  case tcvt => apply Laws.Encoding.tcvt
  case bsload => apply Laws.Encoding.bsload
  case rcfence => apply Laws.Encoding.rcfence
  case kvxlt => apply Laws.Encoding.kvxlt
  case kvapp => apply Laws.Encoding.kvapp
  case roleGet => apply Laws.Encoding.roleGet
  case roleSet => apply Laws.Encoding.roleSet
  case tbarInit => apply Laws.Encoding.tbarInit
  case tbarArrive => apply Laws.Encoding.tbarArrive
  case tbarWait => apply Laws.Encoding.tbarWait
  case tbarArwt => apply Laws.Encoding.tbarArwt
  case cftest => apply Laws.Encoding.cftest
  case exittok => apply Laws.Encoding.exittok
  case bfwait => apply Laws.Encoding.bfwait
  case recon => apply Laws.Encoding.recon
  case recoff => apply Laws.Encoding.recoff
  case ebb => apply Laws.Encoding.ebb
  case ebbstat => apply Laws.Encoding.ebbstat
  case migrRiffle => apply Laws.Encoding.migrRiffle
  case migrReach => apply Laws.Encoding.migrReach
  case migrCancel => apply Laws.Encoding.migrCancel
  case portage => apply Laws.Encoding.portage
  case barSync => apply Laws.Encoding.barSync
  case barArr => apply Laws.Encoding.barArr
  case gbar => apply Laws.Encoding.gbar
  case xlock => apply Laws.Encoding.xlock
  case xfree => apply Laws.Encoding.xfree
  case nmq => apply Laws.Encoding.nmq
  case nmwaitWait => apply Laws.Encoding.nmwaitWait
  case nmwaitTest => apply Laws.Encoding.nmwaitTest
  case tqpopWait => apply Laws.Encoding.tqpopWait
  case tqpopTry => apply Laws.Encoding.tqpopTry
  case tqpushWait => apply Laws.Encoding.tqpushWait
  case tqpushTry => apply Laws.Encoding.tqpushTry
  case tqpushClose => apply Laws.Encoding.tqpushClose
  case launch => apply Laws.Encoding.launch
  case coll => apply Laws.Encoding.coll
  all_goals exact nomatch h

/-- The number that the first 16 bytes spell begins with the words of the fields. -/
theorem leNat_encode_append {i : Instr} {r : Raw} (hr : fieldsOf i = some r) (hfit : r.fits = true) (rest : List Byte) :
    ∃ q, leNat ((encode i ++ rest).take 16) = r.bits + 2 ^ (8 * r.form.bytes) * q := by
  have hle : r.form.bytes ≤ 16 := by cases r.form <;> decide
  have hlow : leNat ((encode i ++ rest).take 16) % 2 ^ (8 * r.form.bytes) = r.bits := by
    rw [← leNat_take, List.take_take, min_eq_left hle, encode_of_fields hr, List.take_left' (length_leBytes ..), leNat_leBytes,
      Nat.mod_eq_of_lt (Raw.bits_lt hfit)]
  exact ⟨_, hlow ▸ (Nat.mod_add_div _ _).symm⟩

/-- Settles O1: the fields of the words are read back by `ofBits_bits_add`, and what they parse to is the law of the encoding. -/
theorem decodeOfEncode : Obligations.DecodeOfEncode := by
  unfold Obligations.DecodeOfEncode
  intro i rest hwf hword
  obtain ⟨r, hr⟩ := Option.isSome_iff_exists.mp ((isSome_fieldsOf i).trans hword)
  obtain ⟨hfit, hforms, hsetc, hparse⟩ := encodingLaw hword hwf r hr
  obtain ⟨q, hq⟩ := leNat_encode_append hr hfit rest
  have hform : Form.ofBits (leNat ((encode i ++ rest).take 16)) = some r.form :=
    Form.ofBits_w0_add hfit (hq.trans (Raw.bits_add_eq r q))
  have hlen : leNat ((encode i ++ rest).take 16) % 4 = r.form.len := ((Form.ofBits_eq_some _ _).mp hform).1
  have hroom : 8 + 4 * r.form.len ≤ (encode i ++ rest).length := by
    rw [List.length_append, encode_of_fields hr, length_leBytes]
    exact Nat.le_add_right ..
  have hlen3 : r.form.len ≠ 3 := by cases r.form <;> decide
  unfold decode decodeBits
  simp only [hlen, hlen3, hform, hroom.not_gt, if_false, ofBits_bits_add hfit hq, hforms, hsetc, hparse, hr, hwf, List.ne_nil_of_mem hforms, not_true, ne_eq,
    if_true]

end Sys2Proof
end

section
/-! SUPPORT. What a device that has not begun its run answers (R534): its tables are empty, so that no instruction has an issuer and no event of
its agents has anything to act on. -/
namespace Sys2Proof.Machine
open Sys2Proof Sys2Proof.Claims

/-- The tables of an idle device are empty. -/
structure Idle (s : State) : Prop where
  warps : s.warps = []
  blocks : s.blocks = []
  gangs : s.gangs = []
  launches : s.launches = []
  rafts : s.rafts = []
  twins : s.twins = []
  cores : s.cores = []
  dies : s.dies = []
  nmus : s.nmus = []
  queues : s.queues = []
  ctxs : s.ctxs = []
  groups : s.groups = []
  ingress : s.ingress = []
  raised : s.raised = []

theorem idle_iff (s : State) : s.idle = true ↔ Idle s := by
  simp only [State.idle, Bool.and_eq_true, List.isEmpty_iff]
  constructor
  · rintro ⟨⟨⟨⟨⟨⟨⟨⟨⟨⟨⟨⟨⟨h1, h2⟩, h3⟩, h4⟩, h5⟩, h6⟩, h7⟩, h8⟩, h9⟩, h10⟩, h11⟩, h12⟩, h13⟩, h14⟩
    exact ⟨h1, h2, h3, h4, h5, h6, h7, h8, h9, h10, h11, h12, h13, h14⟩
  · rintro ⟨h1, h2, h3, h4, h5, h6, h7, h8, h9, h10, h11, h12, h13, h14⟩
    exact ⟨⟨⟨⟨⟨⟨⟨⟨⟨⟨⟨⟨⟨h1, h2⟩, h3⟩, h4⟩, h5⟩, h6⟩, h7⟩, h8⟩, h9⟩, h10⟩, h11⟩, h12⟩, h13⟩, h14⟩

theorem Idle.of_eq {s t : State} (h : Idle s) (e : t.idle = s.idle) : Idle t := (idle_iff t).mp (e.trans ((idle_iff s).mpr h))

section
variable {s : State} (h : Idle s)
include h

/-! ### What stands in the tables -/

theorem Idle.issuer : s.issuer = .none := by simp [State.issuer, h.warps]
theorem Idle.issuerOf (w ent : Nat) : s.issuerOf w ent = .none := by simp [State.issuerOf, State.issuer, h.warps]
theorem Idle.core (n : Nat) : s.core n = Core.reset := by simp [State.core, h.cores, tgetD]
theorem Idle.die (n : Nat) : s.die n = Die.reset := by simp [State.die, h.dies, tgetD]
theorem Idle.nmu (n : Nat) : s.nmu n = [] := by simp [State.nmu, h.nmus, tgetD]
theorem Idle.twin (n : Nat) : s.twin n = Twin.reset := by simp [State.twin, h.twins, tgetD]
theorem Idle.queue (n : Nat) : s.queue n = Queue.reset := by simp [State.queue, h.queues, tgetD]
theorem Idle.ingressOf (n : Nat) : s.ingressOf n = Ingress.reset := by simp [State.ingressOf, h.ingress, tgetD]
theorem Idle.warp (w : Nat) : tget s.warps w = none := by rw [h.warps]; rfl
theorem Idle.block (b : Nat) : tget s.blocks b = none := by rw [h.blocks]; rfl
theorem Idle.gang (g : Nat) : tget s.gangs g = none := by rw [h.gangs]; rfl
theorem Idle.launch (l : Nat) : tget s.launches l = none := by rw [h.launches]; rfl
theorem Idle.ctx (a : Nat) : tget s.ctxs a = none := by rw [h.ctxs]; rfl
theorem Idle.group (g : Nat) : tget s.groups g = none := by rw [h.groups]; rfl

theorem Idle.headLaunch (q : Nat) : headLaunch s q = none := by
  simp [Machine.headLaunch, headOf, readyLaunches, resumesOf, h.launches, h.gangs, sortBy]

theorem Idle.nmStep (code : Nat) (fl : Option Nat) (gran : NmCmd → Eng → Nat → Nat → State → NmGran) (u k : Nat) :
    nmStep code fl gran u k s = .refused .notEnabled := by simp [Machine.nmStep, h.nmu]

theorem Idle.retry (w ent : Nat) (pick : Instr → Option (State → Out)) : retry w ent pick s = .refused .notEnabled := by
  simp [Machine.retry, h.issuerOf]

theorem Idle.fetchTrap (w ent : Nat) (mine : Nat → Bool) : fetchTrap w ent mine s = .refused .notEnabled := by
  simp [Machine.fetchTrap, h.issuerOf]

/-! ### Its own agents: no event of theirs is there but those of dispatch and of ingress -/

theorem Idle.urgentEvents : urgentEvents s = [] := by simp [Machine.urgentEvents, tkeys, h.ctxs, h.blocks, h.gangs, h.warps]

theorem Idle.freeEvents : freeEvents s = .dispatchDecision :: (upto 16).map Instr.ingressRun := by
  simp [Machine.freeEvents, tkeys, h.gangs, h.warps, h.twins, h.cores, h.queues, h.nmus, h.dies]

theorem Idle.faultEvents : faultEvents s = [] := by simp [Machine.faultEvents, h.raised]

/-! ### What it answers to instructions and events -/

/-- An instruction that has words is refused: no split is there to issue it. -/
theorem Idle.exec_word {i : Instr} (hi : i.isWord = true) : exec i s = .refused .noIssuer := by
  obtain ⟨r, hr⟩ := Option.isSome_iff_exists.mp ((isSome_fieldsOf i).trans hi)
  exact (gated_exec (f := r.fr) (by simp [frOf, hr]) s).unissued h.issuer

end

/-! ### A step of an idle device -/

/-- `t` is as idle as `s` was, with the same turns and the same lowest SVN that the fuses accept. -/
structure Dormant (s t : State) : Prop where
  idle : Idle t
  bstate : t.plat.bstate ≠ 2
  fsvnUp : t.plat.fsvnUp = s.plat.fsvnUp
  turns : t.turns = s.turns

theorem Dormant.trans {s t u : State} (h : Dormant s t) (h' : Dormant t u) : Dormant s u :=
  ⟨h'.idle, h'.bstate, h'.fsvnUp.trans h.fsvnUp, h'.turns.trans h.turns⟩

/-- An image fails the same check, if any. -/
theorem Dormant.bootFail {s t : State} (h : Dormant s t) (x : FirmwareImage) : bootFail t x = bootFail s x := by
  unfold Machine.bootFail fsvn
  rw [h.fsvnUp]

theorem inRun_false {s : State} (hb : s.plat.bstate ≠ 2) : s.inRun = false := by simp [State.inRun, hb]

theorem dormant_resetFrom (s : State) : Dormant s (resetFrom s) := ⟨(idle_iff _).mp rfl, Nat.zero_ne_add_one 1, rfl, rfl⟩

/-- What answers a next state has passed its guard. -/
theorem next_of_guard {p : Prop} [Decidable p] {r : Refusal} {x : Out} {t : State} (h : (if p then .refused r else x) = .next t) : x = .next t := by
  split at h
  · cases h
  · exact h

section
variable {s : State} (h : Idle s) (hb : s.plat.bstate ≠ 2)
include h hb

theorem Dormant.refl : Dormant s s := ⟨h, hb, rfl, rfl⟩

/-- What a write from outside leaves before the run: nothing has changed. -/
theorem dormant_outside {f : State → Out} {t : State} (ht : outside s f = .next t) : Dormant s t := by
  rw [outside, inRun_false hb] at ht
  split at ht
  · cases ht
  · cases ht
    exact .refl h hb

theorem dormant_commandOf {sec : Bool} {code : Nat} {holds : Mailbox → Bool} {f : State → State × Nat} {t : State}
    (ht : commandOf sec code holds s f = .next t) : Dormant s t := by
  rw [commandOf] at ht
  exact dormant_outside h hb ht

theorem exec_dormant {e : Instr} {t : State} (hv : ∀ x, e = .firmwareVerify x → bootFail s x ≠ 0) (ht : exec e s = .next t) : Dormant s t := by
  have hr := inRun_false hb
  by_cases hw : e.isWord = true
  · rw [h.exec_word hw] at ht; cases ht
  cases e
  -- events of warps, of their splits and results
  case resultWriteback | inWarpTrapEntry | splitAged | yieldRelease | migrate | warpEnd | watchdogExpiry | instructionCompletion |
      minimumLatencyRelease =>
    simp [exec_resultWriteback, execResultWriteback, exec_inWarpTrapEntry, execInWarpTrapEntry, exec_splitAged, execSplitAged,
      exec_yieldRelease, execYieldRelease, exec_migrate, execMigrate, exec_warpEnd, execWarpEnd, exec_watchdogExpiry, execWatchdogExpiry,
      exec_instructionCompletion, execInstructionCompletion, exec_minimumLatencyRelease, execMinimumLatencyRelease, dueFlight, h.warp] at ht
  case waitvSatisfied => rw [exec_waitvSatisfied, execWaitvSatisfied, h.retry] at ht; cases ht
  case flumeWaitSatisfied => rw [exec_flumeWaitSatisfied, execFlumeWaitSatisfied, h.retry] at ht; cases ht
  case bfwaitSatisfied => rw [exec_bfwaitSatisfied, execBfwaitSatisfied, h.retry] at ht; cases ht
  case disbandComplete => rw [exec_disbandComplete, execDisbandComplete, h.retry] at ht; cases ht
  case kvappProceed => rw [exec_kvappProceed, execKvappProceed, h.retry] at ht; cases ht
  case illegalInstruction | fetchFault =>
    simp [exec_illegalInstruction, execIllegalInstruction, exec_fetchFault, execFetchFault, h.fetchTrap] at ht
  -- engines, arrays, caches and units
  case arrayOperationStart | arrayOperationDone =>
    simp [exec_arrayOperationStart, execArrayOperationStart, exec_arrayOperationDone, execArrayOperationDone, h.twin, Twin.reset] at ht
  case sluiceCommandStart | weirDiscard | sluiceGranule | l1Eviction =>
    simp [exec_sluiceCommandStart, execSluiceCommandStart, exec_weirDiscard, execWeirDiscard, exec_sluiceGranule, execSluiceGranule,
      exec_l1Eviction, execL1Eviction, h.core, Core.reset, headCmd] at ht
  case nadam | nsgdm | nmsearch | nredadd | ncopy | nfill | ncow | nref | ncntAdd | ncntRead | ncntWrite | nchunk | nquant | ntagchk |
      nmuCommandComplete =>
    simp [exec_nadam, execNadam, exec_nsgdm, execNsgdm, exec_nmsearch, execNmsearch, exec_nredadd, execNredadd, exec_ncopy, execNcopy,
      exec_nfill, execNfill, exec_ncow, execNcow, exec_nref, execNref, exec_ncntAdd, execNcntAdd, exec_ncntRead, execNcntRead,
      exec_ncntWrite, execNcntWrite, exec_nchunk, execNchunk, exec_nquant, execNquant, exec_ntagchk, execNtagchk, exec_nmuCommandComplete,
      execNmuCommandComplete, h.nmStep, h.nmu] at ht
  case backwaterAgeTimeout | backfillLaunchEnd | collectiveStart | collectiveEnd =>
    simp [exec_backwaterAgeTimeout, execBackwaterAgeTimeout, exec_backfillLaunchEnd, execBackfillLaunchEnd, exec_collectiveStart,
      execCollectiveStart, exec_collectiveEnd, execCollectiveEnd, fillBatch, batchDue, pendingExits, findColl, h.die, Die.reset] at ht
  -- faults, gangs, queues and groups
  case operandFetchFault | gangScrub | hostServedFault | gangSave | coreStop =>
    simp [exec_operandFetchFault, execOperandFetchFault, exec_gangScrub, execGangScrub, exec_hostServedFault, execHostServedFault,
      exec_gangSave, execGangSave, exec_coreStop, execCoreStop, h.gang, h.raised, sortBy] at ht
  case faultRecordPost | blockHealthFlush =>
    simp [exec_faultRecordPost, execFaultRecordPost, exec_blockHealthFlush, execBlockHealthFlush, postRecord, h.ctx, h.block] at ht
  case dispatchDecision | clusterReservation | queueEntryTaken =>
    simp [exec_dispatchDecision, execDispatchDecision, exec_clusterReservation, execClusterReservation, exec_queueEntryTaken,
      execQueueEntryTaken, readyQueues, reserved, h.headLaunch, h.queues, h.queue, Queue.reset] at ht
  case launchPacket | launchPacketAnswer | ingressRun =>
    simp [exec_launchPacket, execLaunchPacket, exec_launchPacketAnswer, execLaunchPacketAnswer, exec_ingressRun, execIngressRun, h.group,
      h.launch, h.ingressOf, Ingress.reset] at ht
  -- accesses, commands and checks in the run
  case portDown | flitReplay | peerAccess | scrubPass | throttle | clockRestore =>
    simp [exec_portDown, execPortDown, exec_flitReplay, execFlitReplay, exec_peerAccess, execPeerAccess, exec_scrubPass, execScrubPass,
      exec_throttle, execThrottle, exec_clockRestore, execClockRestore, hr] at ht
  case ridxWrite | createContext | bindQueue | setTickets | invalidate | preEmpt | taskRelease | taskRemoval | acknowledgeFault |
      setLaunchGroup | installKey | bindIngressQueue | setEventRing | attestation | setPowerLimit =>
    simp only [exec_ridxWrite, execRidxWrite, exec_createContext, execCreateContext, exec_bindQueue, execBindQueue, exec_setTickets,
      execSetTickets, exec_invalidate, execInvalidate, exec_preEmpt, execPreEmpt, exec_taskRelease, execTaskRelease, exec_taskRemoval,
      execTaskRemoval, exec_acknowledgeFault, execAcknowledgeFault, exec_setLaunchGroup, execSetLaunchGroup, exec_installKey,
      execInstallKey, exec_bindIngressQueue, execBindIngressQueue, exec_setEventRing, execSetEventRing, exec_attestation, execAttestation,
      exec_setPowerLimit, execSetPowerLimit, command] at ht
    exact dormant_outside h hb ht
  case closeItemQueue | openItemQueue =>
    simp only [exec_closeItemQueue, execCloseItemQueue, exec_openItemQueue, execOpenItemQueue, itemCommand, command, commandOf] at ht
    exact dormant_outside h hb ht
  case hostWrite | queueKick | ingressDescriptorTrigger =>
    simp only [exec_hostWrite, execHostWrite, exec_queueKick, execQueueKick, exec_ingressDescriptorTrigger, execIngressDescriptorTrigger] at ht
    exact dormant_outside h hb (next_of_guard ht)
  case registerWriteOther =>
    simp only [exec_registerWriteOther, execRegisterWriteOther] at ht
    exact dormant_outside h hb (next_of_guard (next_of_guard (next_of_guard ht)))
  case destroyContext =>
    simp only [exec_destroyContext, execDestroyContext, command, hr, Bool.false_and, Bool.false_eq_true, if_false] at ht
    exact dormant_commandOf h hb ht
  case hostRead =>
    simp only [exec_hostRead, execHostRead, hr] at ht
    split at ht
    · cases ht
    · cases ht; exact ⟨h.of_eq rfl, hb, rfl, rfl⟩
  -- the platform
  case softError =>
    simp only [exec_softError, execSoftError] at ht
    replace ht := next_of_guard ht
    split at ht
    · cases ht; split <;> exact ⟨h.of_eq rfl, hb, rfl, rfl⟩
    · cases ht; exact .refl h hb
    · cases ht; split
      · exact .refl h hb
      · exact ⟨h.of_eq rfl, hb, rfl, rfl⟩
  case powerOnReset => cases ht; exact dormant_resetFrom s
  case powerLoss => cases ht; obtain ⟨hi, hbs, hf, htu⟩ := dormant_resetFrom s; exact ⟨hi.of_eq rfl, hbs, hf, htu⟩
  case overtempReset =>
    simp only [exec_overtempReset, execOvertempReset] at ht
    cases next_of_guard ht
    exact dormant_resetFrom s
  case firmwareVerify x =>
    have hx := hv x rfl
    simp only [exec_firmwareVerify, execFirmwareVerify, hx, not_false_eq_true, if_true, ne_eq] at ht
    replace ht := next_of_guard ht
    -- the flash is read, or the image fails a check
    split at ht
    · split at ht
      · cases ht; exact ⟨h.of_eq rfl, by simp, rfl, rfl⟩
      · cases ht; exact ⟨h.of_eq rfl, by simp, rfl, rfl⟩
    · cases ht; exact ⟨h.of_eq rfl, by simp, rfl, rfl⟩
  all_goals exact absurd rfl hw

/-! ### Turns and the agents' own steps -/

theorem dormant_tick : Dormant s (tick s) := by
  have hw : (tick s).warps = [] := by simp [tick, h.warps]
  have hp : (tick s).plat = s.plat := by simp [tick, State.sense, inRun_false hb]
  refine ⟨h.of_eq ?_, hp ▸ hb, congrArg Platform.fsvnUp hp, rfl⟩
  simp [State.idle, hw, h.warps]
  rfl

theorem dormant_onStage (r : Nat) : Dormant s (onStage s r) := by
  unfold onStage
  split
  · exact ⟨h.of_eq rfl, hb, rfl, rfl⟩
  · obtain ⟨hi, hbs, hf, htu⟩ := dormant_tick h hb
    exact ⟨hi.of_eq rfl, hbs, hf, htu⟩

/-- A turn answers no next state but for an event, which finds an idle device. -/
theorem dormant_runTurn {x : Turn} {t : State} (hv : ∀ y, x = .event (.firmwareVerify y) → bootFail s y ≠ 0) (ht : runTurn s x = .next t) :
    Dormant s t := by
  cases x with
  | issue w ent =>
    have hs := dormant_onStage h hb (splitRank s w (some ent))
    simp [runTurn, issueTurn, hs.idle.issuerOf] at ht
  | event e =>
    have hs := dormant_onStage h hb (eventRank s e)
    exact hs.trans (exec_dormant hs.idle hs.bstate (fun y hy => by rw [hs.bootFail]; exact hv y (hy ▸ rfl)) ht)

theorem dormant_refresh : Dormant s (refresh s) := by
  have hw : (refresh s).warps = [] := by simp [refresh, h.warps]
  refine ⟨h.of_eq ?_, hb, rfl, rfl⟩
  simp [State.idle, hw, h.warps]
  rfl

theorem dormant_endCycle {t : State} (ht : endCycle s = .next t) : Dormant s t := by
  rw [endCycle, h.faultEvents] at ht
  cases ht
  exact dormant_tick h hb

theorem dormant_ownStep {t : State} (ht : ownStep s = .next t) : Dormant s t := by
  have hbump : Dormant s s.bump := ⟨h.of_eq rfl, hb, rfl, rfl⟩
  have hs : Dormant s (refresh s.bump) := hbump.trans (dormant_refresh hbump.idle hbump.bstate)
  unfold ownStep at ht
  dsimp only at ht
  rw [hs.idle.urgentEvents, List.find?_nil] at ht
  dsimp only at ht
  split at ht
  · next x hx =>
    refine hs.trans (dormant_runTurn hs.idle hs.bstate (fun y hy => ?_) ht)
    subst hy
    have hm := List.mem_of_getElem? hx
    simp [subcores, completions, hs.idle.warps, hs.idle.freeEvents] at hm
  · exact hs.trans (dormant_endCycle hs.idle hs.bstate ht)

end

/-- Settles O7: every step of an idle device leaves it as idle (`dormant_runTurn`, `dormant_ownStep`), and what an image must pass to start a run
stays as it is. -/
theorem notBegunStays : Obligations.NotBegunStays := by
  unfold Obligations.NotBegunStays
  intro s t ⟨hidle, hb, hboot⟩ ht
  have h := (idle_iff s).mp hidle
  unfold step at ht
  split at ht
  · next x r hr =>
    have hd : Dormant { s with turns := r } t :=
      dormant_runTurn (s := { s with turns := r }) (h.of_eq rfl) hb (fun y hy => hboot y (by simp [hr, hy])) ht
    refine ⟨(idle_iff t).mpr hd.idle, hd.bstate, fun y hy => ?_⟩
    rw [hd.turns] at hy
    rw [hd.bootFail]
    exact hboot y (by rw [hr]; exact List.mem_cons_of_mem _ hy)
  · have hd := dormant_ownStep h hb ht
    refine ⟨(idle_iff t).mpr hd.idle, hd.bstate, fun y hy => ?_⟩
    rw [hd.turns] at hy
    rw [hd.bootFail]
    exact hboot y hy

/-- Settles O8. -/
theorem notBegunAtReset : Obligations.NotBegunAtReset := by
  unfold Obligations.NotBegunAtReset
  refine ⟨rfl, Nat.zero_ne_add_one 1, fun x hx => ?_⟩
  exact absurd hx (List.not_mem_nil)

end Sys2Proof.Machine
end

section
/-! SUPPORT. Words written out in the spec, the state after reset, and what a step runs (R62, R73, R297, R535). -/
namespace Sys2Proof.Machine
open Sys2Proof Sys2Proof.Claims

/-- Settles O3: each of the words is decoded. -/
theorem decodedWords : Obligations.DecodedWords := by
  unfold Obligations.DecodedWords
  refine ⟨by decide, by decide, by decide, ?_, by decide, by decide, by decide, by decide, by decide, by decide, by decide, by decide, by decide,
    by decide⟩
  exact ⟨_, rfl, by decide⟩

/-- Settles O4. -/
theorem resetState : Obligations.ResetState := by
  unfold Obligations.ResetState
  refine ⟨rfl, by decide, rfl, rfl, rfl, rfl, rfl, rfl, rfl, rfl, rfl, rfl, rfl, rfl, rfl, by decide, rfl, rfl, rfl, rfl, rfl, fun _ => rfl, fun l => ?_⟩
  rfl

/-! ### The step -/

/-- A split that may be tried does what its instruction does, and those passed over are noted (R298). -/
theorem issueTurn_of_fetch {s s1 : State} {w ent : Nat} {c : Ctx} {i : Instr} (hc : s.issuerOf w ent = .ok c) (ht : mayTry s c w ent = true)
    (hf : fetch s c = .ok (s1, i)) :
    issueTurn w ent s = (match exec i (readied s1 w ent) with
      | .next t => .next (noteIssue s w ent t)
      | .refused x => .refused x
      | .fault x => .fault x) := by
  simp only [issueTurn, attempt, hc, ht, hf, if_true]
  cases exec i (readied s1 w ent) <;> rfl

theorem issueTurn_without_slot {s : State} {w ent : Nat} {c : Ctx} (hc : s.issuerOf w ent = .ok c) (ht : mayTry s c w ent = false) :
    issueTurn w ent s = .next s := by
  simp only [issueTurn, hc, ht, Bool.false_eq_true, if_false]

/-- Where no other bytes may stand for a block, the block is what stands at its home (R340). -/
theorem fetchBlock_unchanged {s : State} {c : Ctx} {va : Nat} {loc : Loc} (h : ∀ bs ∈ codeOf s c va loc, bs = s.bytes loc 32) :
    fetchBlock s c va loc = s.bytes loc 32 := by
  have hall : (codeOf s c va loc).all (fun bs => decide (bs = s.bytes loc 32)) = true := by simpa using h
  simp only [fetchBlock, hall, if_true]

/-- A fetch of a block whose bytes decode gives the instruction, with the block and its leaf cached. -/
theorem fetch_decoded {s : State} {c : Ctx} {e : TlbEntry} {i : Instr}
    (he : translate s c.agent (c.split.pc.toNat / 32 * 32) .fetch = .ok e) (hpc : c.split.pc.toNat % 4 = 0)
    (hp : s.poisoned (e.loc (c.split.pc.toNat / 32 * 32)) 32 = false)
    (hi : decode ((fetchBlock s c (c.split.pc.toNat / 32 * 32) (e.loc (c.split.pc.toNat / 32 * 32))).drop (c.split.pc.toNat % 32)) = .ok i) :
    fetch s c = .ok (noteFetch (s.modCore c.core (fun k => { k with tlb := tlbAdd 1024 s.free k.tlb e })) c (c.split.pc.toNat / 32 * 32)
      (fetchBlock s c (c.split.pc.toNat / 32 * 32) (e.loc (c.split.pc.toNat / 32 * 32))), i) := by
  simp [fetch, he, hpc, hp, hi]

theorem onStage_of_le {s : State} {r : Nat} (h : s.stage ≤ r) : onStage s r = { s with stage := r } := by
  rw [onStage, if_pos h]

/-- Settles O5: the cases of the turn at the head, and the fetch of a block that nothing has changed. -/
theorem stepRunsDecoded : Obligations.StepRunsDecoded := by
  unfold Obligations.StepRunsDecoded
  refine ⟨fun s w ent r c s1 i hr => ?_, fun s c e i => ?_, fun s e r hr => ?_, fun s hr => by rw [step, hr]⟩
  · intro u0 u hc
    have hstep : step s = issueTurn w ent u := by rw [step, hr]; rfl
    exact ⟨fun ht hf => hstep.trans (issueTurn_of_fetch hc ht hf), fun ht => hstep.trans (issueTurn_without_slot hc ht)⟩
  · intro pc va he hpc hpois hold hdec
    have hnow : decode ((fetchBlock s c va (e.loc va)).drop (pc % 32)) = .ok i := by rw [fetchBlock_unchanged hold]; exact hdec
    exact ⟨_, fetch_decoded he hpc hpois hnow, rfl, rfl, rfl⟩
  · intro u
    exact ⟨by rw [step, hr]; rfl, fun h => onStage_of_le h⟩

end Sys2Proof.Machine
end

section
/-! SUPPORT. What integer arithmetic comes to on words (R107 to R114). -/
namespace Sys2Proof.Machine
open Sys2Proof Sys2Proof.Claims

/-! ### Integers as words -/

theorem wordOf_toInt (a : Word) : wordOf a.toInt = a := BitVec.ofInt_toInt

theorem wordOf_add (v w : Int) : wordOf (v + w) = wordOf v + wordOf w := BitVec.ofInt_add v w

theorem wordOf_mul (v w : Int) : wordOf (v * w) = wordOf v * wordOf w := BitVec.ofInt_mul v w

theorem wordOf_neg (v : Int) : wordOf (-v) = -wordOf v := BitVec.ofInt_neg

theorem wordOf_natCast (n : Nat) : wordOf n = BitVec.ofNat 32 n := BitVec.ofInt_natCast ..

theorem ofWord_true (a : Word) : ofWord true a = (a.toNat : Int) := rfl
theorem ofWord_false (a : Word) : ofWord false a = a.toInt := rfl

/-- Modulo 2^32 a word is its integer, signed or not. -/
@[simp] theorem wordOf_ofWord (u : Bool) (a : Word) : wordOf (ofWord u a) = a := by
  cases u
  · exact wordOf_toInt a
  · exact (wordOf_natCast _).trans (BitVec.ofNat_toNat 32 a)

theorem dwordOf_ofWord (u : Bool) (a : Word) : dwordOf (ofWord u a) = if u then a.zeroExtend 64 else a.signExtend 64 := by
  cases u
  · rfl
  · exact BitVec.eq_of_toNat_eq (by simp [dwordOf, ofWord])

/-- The high half of an integer modulo 2^64. -/
theorem hiWord_dwordOf (v : Int) : hiWord (dwordOf v) = wordOf (v / 2 ^ 32) := by
  apply BitVec.eq_of_toNat_eq
  simp [hiWord, dwordOf, wordOf, BitVec.toNat_ofInt]
  omega

theorem wordOf_clampI_signed (v : Int) : wordOf (clampI (-2 ^ 31) (2 ^ 31 - 1) v) = satS v := by
  norm_num only [clampI, satS]
  split_ifs <;> rfl

theorem wordOf_clampI_unsigned (v : Int) : wordOf (clampI 0 (2 ^ 32 - 1) v) = satU v := by
  norm_num only [clampI, satU]
  split_ifs <;> rfl

/-! ### The values -/

theorem iaddVal_eq (sat : Sat) (a b c : Word) : iaddVal sat a b c = sum sat a b c := by
  cases sat
  · exact (by simp [wordOf_add] : wordOf (ofWord false a + ofWord false b + ofWord false c) = a + b + c)
  · exact wordOf_clampI_signed _
  · exact wordOf_clampI_unsigned _

theorem isubVal_eq (sat : Sat) (a b c : Word) : isubVal sat a b c = diff sat a b c := by
  cases sat
  · exact (by simp [wordOf_add, wordOf_neg, Int.sub_eq_add_neg, BitVec.sub_eq_add_neg] :
      wordOf (ofWord false a - ofWord false b - ofWord false c) = a - b - c)
  · exact wordOf_clampI_signed _
  · exact wordOf_clampI_unsigned _

theorem imulVal_eq (a b : Word) : imulVal a b = a * b := by
  rw [imulVal, wordOf_mul, wordOf_toInt, wordOf_toInt]

theorem imulhVal_eq (u : Bool) (a b : Word) : imulhVal u a b =
    if u then BitVec.ofNat 32 (a.toNat * b.toNat / 2 ^ 32) else BitVec.ofInt 32 (a.toInt * b.toInt / 2 ^ 32) := by
  rw [imulhVal, hiWord_dwordOf]
  cases u
  · rfl
  · exact (by rw [← wordOf_natCast]; push_cast; rfl)

theorem imadVal_eq (a b c : Word) : imadVal a b c = a * b + c := by
  rw [imadVal, wordOf_add, wordOf_mul, wordOf_toInt, wordOf_toInt, wordOf_toInt]

theorem imadWide_eq (u : Bool) (a b : Word) (c : DWord) : imadWide u a b c =
    (if u then a.zeroExtend 64 * b.zeroExtend 64 else a.signExtend 64 * b.signExtend 64) + c := by
  have hc : dwordOf c.toNat = c := (BitVec.ofInt_natCast ..).trans (BitVec.ofNat_toNat 64 c)
  have hadd (v w : Int) : dwordOf (v + w) = dwordOf v + dwordOf w := BitVec.ofInt_add v w
  have hmul (v w : Int) : dwordOf (v * w) = dwordOf v * dwordOf w := BitVec.ofInt_mul v w
  rw [imadWide, hadd, hmul, dwordOf_ofWord, dwordOf_ofWord, hc]
  cases u <;> rfl

theorem ofWord_le (u : Bool) (a b : Word) : (ofWord u a ≤ ofWord u b) ↔ (if u then a.ule b else a.sle b) = true := by
  cases u
  · simp [ofWord, BitVec.sle]
  · simp [ofWord, BitVec.ule]

theorem ofWord_lt (u : Bool) (a b : Word) : (ofWord u a < ofWord u b) ↔ (if u then a.ult b else a.slt b) = true := by
  cases u
  · simp [ofWord, BitVec.slt]
  · simp [ofWord, BitVec.ult]

theorem iminVal_eq (u : Bool) (a b : Word) : iminVal u a b = if (if u then a.ule b else a.sle b) then a else b :=
  if_congr (ofWord_le u a b) rfl rfl

theorem imaxVal_eq (u : Bool) (a b : Word) : imaxVal u a b = if (if u then a.ule b else a.sle b) then b else a :=
  if_congr (ofWord_le u a b) rfl rfl

theorem iabsVal_eq (a : Word) : iabsVal a = if a.slt 0 then -a else a := by
  rw [iabsVal, ← BitVec.slt_zero_eq_msb]
  exact if_congr Iff.rfl (BitVec.zero_sub a) rfl

theorem leaVal_eq (sh : BitVec 3) (bu : Bool) (a : DWord) (b c : Word) : leaVal sh bu a b c =
    a + (if bu then b.zeroExtend 64 else b.signExtend 64) * 2#64 ^ sh.toNat + c.signExtend 64 := by
  have hpow : 2#64 ^ sh.toNat = BitVec.twoPow 64 sh.toNat := by
    revert sh; decide
  rw [leaVal, hpow, BitVec.mul_twoPow_eq_shiftLeft]

theorem isadVal_eq (u : Bool) (a b c : Word) : isadVal u a b c =
    (if (if u then a.ult b else a.slt b) then b - a else a - b) + c := by
  have hc : wordOf c.toNat = c := wordOf_ofWord true c
  have hsub (x y : Word) : wordOf (ofWord u x - ofWord u y) = x - y := by
    rw [Int.sub_eq_add_neg, wordOf_add, wordOf_neg, wordOf_ofWord, wordOf_ofWord, BitVec.sub_eq_add_neg]
  rw [isadVal, wordOf_add, hc, ← if_congr (ofWord_lt u a b) rfl rfl]
  split
  · rw [show ((ofWord u a - ofWord u b).natAbs : Int) = ofWord u b - ofWord u a by omega, hsub]
  · rw [show ((ofWord u a - ofWord u b).natAbs : Int) = ofWord u a - ofWord u b by omega, hsub]

theorem idot4Val_eq (au bu sat : Bool) (a b c : Word) : idot4Val au bu sat a b c =
    (let p (i : Nat) : Int := byteInt au a i * byteInt bu b i
     let v : Int := c.toInt + p 0 + p 1 + p 2 + p 3
     if sat then satS v else BitVec.ofInt 32 v) := by
  cases sat
  · rfl
  · exact wordOf_clampI_signed _

/-! ### Instructions that only write registers -/

section
variable {i : Instr} {f : Fr} {n : Names} {l : Nat × Nat} {w : Ctx → List (Nat × (Nat → Word))}

/-- An instruction that only writes registers writes them wherever it issues. -/
theorem fixedWrites_of_aluOp (hi : ∀ s, exec i s = aluOp f n l w noEvents s) : FixedWrites i f n l w := fun s _ h => (hi s).trans (aluOp_next h)

end

/-- Settles O9: each instruction writes its value by `fixedWrites_of_intOp` or `fixedWrites_of_aluOp`, and the lemma about the value says what it is. -/
theorem integerArithmeticResults : Obligations.IntegerArithmeticResults := by
  unfold Obligations.IntegerArithmeticResults
  intro f d
  refine ⟨fun a b c3 sat => ?iadd, fun a b c3 sat => ?isub, fun a b => ?imul, fun a b u => ?imulh, fun a b c3 u => ?imad, fun a b c3 u => ?imadw,
    fun a b u => ?imin, fun a b u => ?imax, fun a => ?iabs, fun a b neg => ?iadd64, fun a b neg sx => ?iadd64x, fun a b c3 sh bu => ?lea,
    fun a b c3 u => ?isad, fun a b c3 au bu sat => ?idot4⟩
  case iadd => exact fixedWrites_of_intOp (fun s => by simp only [exec_iadd, execIadd, iaddVal_eq])
  case isub => exact fixedWrites_of_intOp (fun s => by simp only [exec_isub, execIsub, isubVal_eq])
  case imul => exact fixedWrites_of_intOp (fun s => by simp only [exec_imul, execImul, imulVal_eq])
  case imulh => exact fixedWrites_of_intOp (fun s => by simp only [exec_imulh, execImulh, imulhVal_eq])
  case imad => exact fixedWrites_of_intOp (fun s => by simp only [exec_imad, execImad, imadVal_eq, Bool.false_eq_true, if_false])
  case imadw => exact fixedWrites_of_aluOp (fun s => by simp only [exec_imad, execImad, if_true, intLat, imadWide_eq])
  case imin => exact fixedWrites_of_intOp (fun s => by simp only [exec_imin, execImin, iminVal_eq])
  case imax => exact fixedWrites_of_intOp (fun s => by simp only [exec_imax, execImax, imaxVal_eq])
  case iabs => exact fixedWrites_of_intOp (fun s => by simp only [exec_iabs, execIabs, iabsVal_eq])
  case iadd64 => exact fixedWrites_of_aluOp (fun s => by simp only [exec_iadd64, execIadd64, if_true, intLat]; rfl)
  case iadd64x =>
    cases sx
    · exact fixedWrites_of_aluOp (fun s => by simp [exec_iadd64, execIadd64, intLat]; rfl)
    · exact fixedWrites_of_aluOp (fun s => by simp [exec_iadd64, execIadd64, intLat]; rfl)
  case lea => exact fixedWrites_of_aluOp (fun s => by simp only [exec_lea, execLea, intLat, leaVal_eq])
  case isad => exact fixedWrites_of_intOp (fun s => by simp only [exec_isad, execIsad, isadVal_eq])
  case idot4 => exact fixedWrites_of_intOp (fun s => by simp only [exec_idot4, execIdot4, idot4Val_eq])

end Sys2Proof.Machine
end

section
/-! SUPPORT. What moves and selections come to (R115 to R118), and what MOVI names (R55, R56). -/
namespace Sys2Proof.Machine
open Sys2Proof Sys2Proof.Claims

/-! ### Bytes of words -/

/-- A byte of the concatenation of two words. -/
theorem extractLsb'_append_words (hi lo : Word) (k : Nat) (hk : k < 8) :
    (hi ++ lo : DWord).extractLsb' (8 * k) 8 = if k < 4 then byteOf lo k else byteOf hi (k - 4) := by
  refine BitVec.eq_of_getLsbD_eq (fun i hi8 => ?_)
  rw [BitVec.getLsbD_extractLsb', BitVec.getLsbD_append]
  by_cases h4 : k < 4
  · rw [if_pos (by omega), if_pos h4, byteOf, BitVec.getLsbD_extractLsb']
  · rw [if_neg (by omega), if_neg h4, byteOf, BitVec.getLsbD_extractLsb', show 8 * k + i - 32 = 8 * (k - 4) + i by omega]

theorem toNat_append_eq {m n : Nat} (x : BitVec m) (y : BitVec n) : (x ++ y).toNat = x.toNat * 2 ^ n + y.toNat := by
  rw [BitVec.toNat_append, ← Nat.shiftLeft_add_eq_or_of_lt y.isLt, Nat.shiftLeft_eq]

/-- Four bytes as a word, the first least significant (R5). -/
theorem ofNat_ofBytes_four (y0 y1 y2 y3 : Byte) : BitVec.ofNat 32 (ofBytes [y0, y1, y2, y3]) = y3 ++ y2 ++ y1 ++ y0 := by
  have h0 := y0.isLt; have h1 := y1.isLt; have h2 := y2.isLt; have h3 := y3.isLt
  apply BitVec.eq_of_toNat_eq
  simp only [toNat_append_eq, ofBytes, BitVec.toNat_ofNat]
  omega

/-! ### SEL and PRMT -/

theorem selVal_eq (neg : Bool) (a b c : Word) : selVal neg a b c = if xor (c.getLsbD 0) neg then a else b := rfl

theorem toNat_and_seven (sel : Byte) : (sel &&& 7).toNat = (sel.extractLsb' 0 3).toNat := by revert sel; decide

theorem prmtByte_eq (swp : Bool) (a b : Word) (sel : Byte) : prmtByte swp a b sel = prmtByteOf swp a b sel := by
  have hk : (sel.extractLsb' 0 3).toNat < 8 := BitVec.isLt _
  unfold prmtByte prmtByteOf
  simp only [toNat_and_seven, BitVec.msb_eq_getLsbD_last]
  cases swp
  · simp only [Bool.false_eq_true, if_false, extractLsb'_append_words _ _ _ hk]
  · simp only [if_true, extractLsb'_append_words _ _ _ hk]

theorem prmtVal_eq (swp : Bool) (a b c : Word) : prmtVal swp a b c =
    (let y (i : Nat) : Byte := prmtByteOf swp a b (c.extractLsb' (8 * i) 8)
     y 3 ++ y 2 ++ y 1 ++ y 0) := by
  simp only [prmtVal, prmtByte_eq]
  exact ofNat_ofBytes_four _ _ _ _

/-! ### MOVI -/

/-- A computed name that the thread may name: a register that is allocated, or one of the extended set that the warp holds; below 256 on a Riffle
core (R55, R56). -/
def MayName (c : Ctx) (r : Nat) : Prop :=
  (r < c.warp.alloc ∧ r < 512 ∨ 512 ≤ r ∧ r < 768 ∧ c.warp.xl = true) ∧ (c.riffle = true → r < 256)

theorem MayName.rangeBad {c : Ctx} {r : Nat} (h : MayName c r) : rangeBad c (r, 1) = false := by
  obtain ⟨h, hr⟩ := h
  have hrif : (c.riffle && decide (256 ≤ r)) = false := by
    cases hc : c.riffle
    · rfl
    · simpa using hr hc
  simp [Machine.rangeBad, spanRegs, upto, hrif]
  omega

theorem MayName.xsetBad {c : Ctx} {r : Nat} (h : MayName c r) : xsetBad c (r, 1) = false := by
  obtain ⟨⟨-, h⟩ | ⟨-, -, h⟩, -⟩ := h
  · simp [Machine.xsetBad]; omega
  · simp [Machine.xsetBad, h]

section
variable {s : State} {c : Ctx} {f : Fr} {n : Names} {base : BitVec 10} {a : Reg} {reads : Bool}

theorem maskOf_filter_false {l : List Nat} {p : Nat → Bool} (h : ∀ t ∈ l, p t = false) : maskOf (l.filter p) = 0 := by
  rw [List.filter_eq_nil_iff.mpr (fun t ht => by simp [h t ht])]
  rfl

/-- No check of the computed names fails. -/
theorem moviBad_eq_zero (hname : ∀ t ∈ c.threads, MayName c (moviName c base a t)) (hchk : c.chk = false) (hp : c.pre.poison = []) (k : Nat) :
    moviBad c base a reads k = 0 := by
  refine maskOf_filter_false (fun t ht => ?_)
  have hn := hname t ht
  split
  · exact hn.rangeBad
  split
  · exact hn.xsetBad
  split
  · simp [hchk]
  · simp [hp]

/-- Where an instruction with the same names would issue, no check of MOVI's named registers fails either. -/
theorem moviEarly_eq_none (h : issueCheck c n f.g (some (c.lat 4 2)) none = none) (hbad : ∀ k, moviBad c base a reads k = 0) :
    moviEarly n f.g base a reads c = none := by
  have hnamed : ∀ k ∈ [0x04, 0x05, 0x06], moviNamed c n f.g k = false := by
    unfold issueCheck at h
    dsimp only at h
    split at h
    · cases h
    next h4 =>
    split at h
    · cases h
    next h5 =>
    split at h
    · cases h
    next h6 => simpa [moviNamed] using ⟨by simpa using h4, by simpa using h5, by simpa using h6⟩
  refine List.find?_eq_none.mpr (fun k hk => ?_)
  rw [hnamed k hk, hbad]
  decide

/-- A MOVI whose computed names pass their checks completes wherever it issues. -/
theorem moviOp_next {body : Ctx → State → State} (h : Issues s f n (some (4, 2)) noEarly c)
    (hname : ∀ t ∈ c.threads, MayName c (moviName c base a t)) (hchk : c.chk = false) (hp : c.pre.poison = []) :
    moviOp f n base a reads body s = .next (body c (advance c f n)) := by
  have hbad := moviBad_eq_zero (base := base) (a := a) (reads := reads) hname hchk hp
  have hcheck : issueCheck c n f.g (some (c.lat 4 2)) (moviEarly n f.g base a reads c) = none := by
    obtain ⟨c0, -, -, -, hk⟩ := h
    rw [moviEarly_eq_none hk hbad]
    exact hk
  obtain ⟨c0, h0, hg, rfl, -⟩ := h
  unfold moviOp issueFor
  rw [h0]
  simp only [hg, if_true]
  rw [show ({ c0.land with act := c0.land.guardMask f, uni := f.uni } : Ctx) = c0.guarded f from rfl]
  simp only [Option.map_some, intLat, hcheck, hbad, ne_eq, not_true, if_false]

end

/-- Settles O11: MOV, SEL and PRMT write their values by `fixedWrites_of_intOp`; MOVI completes by `moviOp_next`. -/
theorem moveAndSelectResults : Obligations.MoveAndSelectResults := by
  unfold Obligations.MoveAndSelectResults
  intro f d
  refine ⟨fun b => ?mov, fun a b c3 neg => ?sel, fun a b c3 swp => ?prmt, fun a b base s c => ?movi⟩
  case mov => exact fixedWrites_of_intOp (fun s => rfl)
  case sel => exact fixedWrites_of_intOp (fun s => by simp only [exec_sel, execSel, selVal_eq])
  case prmt => exact fixedWrites_of_intOp (fun s => by simp only [exec_prmt, execPrmt, prmtVal_eq])
  case movi =>
    intro name hname hchk hp
    refine ⟨fun h => ?_, fun h => ?_⟩
    · rw [exec_moviRead, execMoviRead]
      exact moviOp_next h hname hchk hp
    · rw [exec_moviWrite, execMoviWrite]
      exact moviOp_next h hname hchk hp

end Sys2Proof.Machine
end

section
/-! SUPPORT. What comparisons, votes and matches come to (R127 to R131). -/
namespace Sys2Proof.Machine
open Sys2Proof Sys2Proof.Claims

/-! ### The order of values -/

/-- Two finite values brought to a common unit: in either order the same two numbers. -/
theorem Num.align_swap (n1 : Nat) (e1 : Int) (d1 n2 : Nat) (e2 : Int) (d2 : Nat) :
    (Num.align n2 e2 d2 n1 e1 d1).1 = (Num.align n1 e1 d1 n2 e2 d2).2.1 ∧ (Num.align n2 e2 d2 n1 e1 d1).2.1 = (Num.align n1 e1 d1 n2 e2 d2).1 := by
  unfold Num.align
  rw [min_comm e2 e1]
  by_cases h : d1 = d2
  · simp [h]
  · simp [h, Ne.symm h]

/-- The order turned round. -/
theorem Num.cmp_swap (x y : Num) : Num.cmp y x = (Num.cmp x y).swap := by
  cases x with
  | nan => cases y <;> rfl
  | inf s =>
    cases y with
    | nan => rfl
    | inf t => cases s <;> cases t <;> rfl
    | fin t n e d => cases s <;> rfl
  | fin s n1 e1 d1 =>
    cases y with
    | nan => rfl
    | inf t => cases t <;> rfl
    | fin t n2 e2 d2 =>
      obtain ⟨h1, h2⟩ := Num.align_swap n1 e1 d1 n2 e2 d2
      simp only [Num.cmp, h1, h2]
      exact (Int.instTransOrd.eq_swap).symm ▸ rfl

theorem Num.lt_eq (x y : Num) : x.lt y = (Num.cmp x y == .lt) := rfl

/-- What is greater is less the other way round. -/
theorem Num.lt_swap_eq (x y : Num) : y.lt x = (Num.cmp x y == .gt) := by
  rw [Num.lt_eq, Num.cmp_swap]
  cases Num.cmp x y <;> rfl

/-- FCMP's conditions by the two orders of its operands (R128). -/
theorem fcondHolds_eq (k : FCond) (u : Bool) (ty : FTy) (a b : Word) : fcondHolds k u ty a b =
    (let x := (ftyFmt ty).decode a.toNat
     let y := (ftyFmt ty).decode b.toNat
     let un := x.isNan || y.isNan
     match k with
     | .num => !un
     | .nan => un
     | .eq => if un then u else !(x.lt y) && !(y.lt x)
     | .ne => if un then u else x.lt y || y.lt x
     | .lt => if un then u else x.lt y
     | .le => if un then u else !(y.lt x)
     | .gt => if un then u else y.lt x
     | .ge => if un then u else !(x.lt y)) := by
  unfold fcondHolds
  simp only [Num.lt_eq ((ftyFmt ty).decode a.toNat), Num.lt_swap_eq ((ftyFmt ty).decode a.toNat)]
  cases Num.cmp ((ftyFmt ty).decode a.toNat) ((ftyFmt ty).decode b.toNat) <;> cases k <;> rfl

/-- ICMP's conditions on the words themselves (R127). -/
theorem condHolds_ofWord (k : Cond) (u : Bool) (x y : Word) : condHolds k (ofWord u x) (ofWord u y) =
    (match k with
     | .eq => x == y
     | .ne => x != y
     | .lt => if u then x.ult y else x.slt y
     | .le => if u then x.ule y else x.sle y
     | .gt => if u then y.ult x else y.slt x
     | .ge => if u then y.ule x else y.sle x) := by
  have heq : ofWord u x = ofWord u y ↔ x = y := ⟨fun h => by rw [← wordOf_ofWord u x, h, wordOf_ofWord], fun h => h ▸ rfl⟩
  cases k
  case eq => exact Bool.eq_iff_iff.mpr (by simpa [condHolds] using heq)
  case ne => exact Bool.eq_iff_iff.mpr (by simpa [condHolds] using not_congr heq)
  case lt => exact Bool.eq_iff_iff.mpr (by simpa only [condHolds, decide_eq_true_eq] using ofWord_lt u x y)
  case gt => exact Bool.eq_iff_iff.mpr (by simpa only [condHolds, decide_eq_true_eq] using ofWord_lt u y x)
  case le => exact Bool.eq_iff_iff.mpr (by simpa only [condHolds, decide_eq_true_eq] using ofWord_le u x y)
  case ge => exact Bool.eq_iff_iff.mpr (by simpa only [condHolds, decide_eq_true_eq] using ofWord_le u y x)

theorem truth_not (b : Bool) : truth (!b) = if b then 0 else 1 := by cases b <;> rfl

theorem cmpOuts_eq (d c2 : Reg) (p : Nat → Bool) :
    cmpOuts d c2 p = [(d.toNat, fun t => if p t then 1 else 0), (c2.toNat, fun t => if p t then 0 else 1)] := by
  simp only [cmpOuts, truth_not]
  rfl

/-! ### Votes and matches -/

section
variable {m : BitVec 32} {p : Nat → Bool}

theorem maskOf_filter_threadsOf (m : BitVec 32) (p : Nat → Bool) : maskOf ((threadsOf m).filter p) = word (fun t => m.getLsbD t && p t) := by
  refine eq_word_of_getLsbD (fun i hi => ?_)
  rw [getLsbD_maskOf, Bool.eq_iff_iff]
  simp [hi]

theorem threadsOf_maskOf_filter (m : BitVec 32) (p : Nat → Bool) : threadsOf (maskOf ((threadsOf m).filter p)) = (threadsOf m).filter p := by
  rw [maskOf_filter_threadsOf]
  simp only [threadsOf, List.filter_filter]
  refine List.filter_congr (fun i hi => ?_)
  have h32 : i < 32 := by simpa [upto] using hi
  rw [getLsbD_word, decide_eq_true h32, Bool.true_and, Bool.and_comm]

/-- All threads of a mask pass a test. -/
theorem maskOf_filter_eq_self_iff : maskOf ((threadsOf m).filter p) = m ↔ (threadsOf m).all p = true := by
  rw [List.all_eq_true, ← List.filter_eq_self]
  exact ⟨fun h => by rw [← threadsOf_maskOf_filter, h], fun h => by rw [h, maskOf_threadsOf]⟩

/-- None does. -/
theorem maskOf_filter_eq_zero_iff : maskOf ((threadsOf m).filter p) = 0 ↔ (threadsOf m).any p = false := by
  rw [List.any_eq_false, ← List.filter_eq_nil_iff]
  exact ⟨fun h => by rw [← threadsOf_maskOf_filter, h]; rfl, fun h => by rw [h]; rfl⟩

/-- The votes over the threads of a mask (R130). -/
theorem voteVal_eq (op : VoteOp) (m : BitVec 32) (p : Nat → Bool) : voteVal op m (maskOf ((threadsOf m).filter p)) =
    (match op with
     | .all => if (threadsOf m).all p then 1 else 0
     | .any => if (threadsOf m).any p then 1 else 0
     | .eq => if (threadsOf m).all p || (threadsOf m).all (fun t => !(p t)) then 1 else 0
     | .ballot => word (fun t => m.getLsbD t && p t)
     | .count => BitVec.ofNat 32 ((threadsOf m).filter p).length) := by
  have hany : (threadsOf m).any p = false ↔ (threadsOf m).all (fun t => !(p t)) = true := by simp
  cases op
  case all => exact if_congr (by simp [maskOf_filter_eq_self_iff]) rfl rfl
  case any => exact if_congr (by rw [decide_eq_true_eq, ne_eq, maskOf_filter_eq_zero_iff, Bool.not_eq_false]) rfl rfl
  case eq => exact if_congr (by simp only [Bool.or_eq_true, decide_eq_true_eq, maskOf_filter_eq_self_iff, maskOf_filter_eq_zero_iff, hany]) rfl rfl
  case ballot => exact maskOf_filter_threadsOf m p
  case count => exact congrArg (fun l => BitVec.ofNat 32 (List.length l)) (threadsOf_maskOf_filter m p)

end

theorem zeroExtend_inj (x y : Word) : (x.zeroExtend 64 : DWord) = y.zeroExtend 64 ↔ x = y :=
  ⟨fun h => by simpa using congrArg (BitVec.setWidth 32) h, fun h => h ▸ rfl⟩

/-- Settles O12: each instruction writes its value by `fixedWrites_of_aluOp`, and the lemma about the value says what it is. -/
theorem compareAndVoteResults : Obligations.CompareAndVoteResults := by
  unfold Obligations.CompareAndVoteResults
  intro f d c2
  refine ⟨fun a b k u => ?icmp, fun a b k u ty => ?fcmp, fun a mask ty => ?fclass, fun op a => ?vote, fun a => ?narrow, fun a => ?wide⟩
  case icmp => exact fixedWrites_of_aluOp (fun s => by simp only [exec_icmp, execIcmp, intLat, cmpOuts_eq, condHolds_ofWord] <;> rfl)
  case fcmp => exact fixedWrites_of_aluOp (fun s => by simp only [exec_fcmp, execFcmp, fpLat, cmpOuts_eq, fcondHolds_eq] <;> rfl)
  case fclass => exact fixedWrites_of_aluOp (fun s => by simp only [exec_fclass, execFclass, fpLat, truth])
  case vote => exact fixedWrites_of_aluOp (fun s => by simp only [exec_vote, execVote, crossLat, Ctx.threads, voteVal_eq] <;> rfl)
  case narrow =>
    exact fixedWrites_of_aluOp (fun s => by
      simp only [exec_matchw, execMatchw, crossLat, Ctx.threads, maskOf_filter_threadsOf, truth, zeroExtend_inj, Bool.false_eq_true, if_false] <;>
      rfl)
  case wide =>
    exact fixedWrites_of_aluOp (fun s => by simp only [exec_matchw, execMatchw, crossLat, Ctx.threads, maskOf_filter_threadsOf, truth, if_true] <;>
      rfl)

end Sys2Proof.Machine
end

section
/-! SUPPORT. What the packed-half instructions and the conversions come to (R139 to R149). -/
namespace Sys2Proof.Machine
open Sys2Proof Sys2Proof.Claims

/-! ### The lanes of a word (R139) -/

theorem ofHalves_eq (lo hi : Nat) : ofHalves lo hi = BitVec.ofNat 16 hi ++ BitVec.ofNat 16 lo := by
  apply BitVec.eq_of_toNat_eq
  simp only [ofHalves, toNat_append_eq, BitVec.toNat_ofNat]
  omega

theorem loHalf_eq (x : Word) : loHalf x = (x.extractLsb' (16 * 0) 16).toNat := by
  simp [loHalf]

theorem hiHalf_eq (x : Word) : hiHalf x = (x.extractLsb' (16 * 1) 16).toNat := by
  have := x.isLt
  simp [hiHalf, Nat.shiftRight_eq_div_pow]
  omega

theorem negIf_eq (neg : Bool) (x : Num) : negIf neg x = operand neg false x := by cases neg <;> rfl

section
variable {i : Instr} {f : Fr} {d a : Reg} {b : Src} {l : Nat × Nat} {g : Nat → Nat → Nat}

/-- An instruction that applies a function to the two lanes of its operands writes the lanes that result. -/
theorem fixedWrites_of_lanes2 (hi : ∀ s, exec i s = fpOp f l d (.reg a) b (lanes2 g) s) :
    FixedWrites i f (nameD d (reg1 a) (src1 b) none) l (fun c => [(d.toNat, fun t =>
      let lane (i : Nat) : BitVec 16 := BitVec.ofNat 16 (g ((c.reg a.toNat t).extractLsb' (16 * i) 16).toNat ((c.val b t).extractLsb' (16 * i) 16).toNat)
      lane 1 ++ lane 0)]) :=
  fixedWrites_of_aluOp (fun s => by
    simp only [hi, fpOp, lanes2, ofHalves_eq, loHalf_eq, hiHalf_eq]
    rfl)

end

/-- Settles O14: the two lanes of each form by `fixedWrites_of_lanes2`; H2FMA has three operands. -/
theorem packedHalfResults : Obligations.PackedHalfResults := by
  unfold Obligations.PackedHalfResults
  intro f d
  refine ⟨fun a b rnd bf na nb mul => ?sumOrProduct, fun a b c3 rnd bf na nb nc => ?fma, fun a b bf isMax => ?minmax⟩
  case sumOrProduct =>
    simp only [← negIf_eq]
    cases mul
    · exact fixedWrites_of_lanes2 (g := h2addLane bf rnd na nb) (fun s => exec_h2add ..)
    · exact fixedWrites_of_lanes2 (g := h2mulLane bf rnd na nb) (fun s => exec_h2mul ..)
  case fma =>
    exact fixedWrites_of_aluOp (fun s => by
      simp only [exec_h2fma, execH2fma, h2fmaLane, ofHalves_eq, loHalf_eq, hiHalf_eq, negIf_eq]
      rfl)
  case minmax =>
    cases isMax
    · exact fixedWrites_of_lanes2 (g := (halfFmt bf).minmax false) (fun s => exec_h2min ..)
    · exact fixedWrites_of_lanes2 (g := (halfFmt bf).minmax true) (fun s => exec_h2max ..)

/-! ### Conversions -/

/-- An instruction that writes registers and counts health events does so wherever it issues. -/
theorem fixedCounts_of_aluOp {i : Instr} {f : Fr} {n : Names} {l : Nat × Nat} {w : Ctx → List (Nat × (Nat → Word))} {h : Ctx → Health}
    (hi : ∀ s, exec i s = aluOp f n l w h s) : FixedCounts i f n l w h := fun s _ hc => (hi s).trans (aluOp_next hc)

theorem countsHealth_iff (dt : Elem) : countsHealth dt = true ↔ elemBits dt ≤ 8 := decide_eq_true_iff

/-- Settles O15: each conversion writes its values and counts its events by `fixedCounts_of_aluOp`. -/
theorem conversionResults : Obligations.ConversionResults := by
  unfold Obligations.ConversionResults
  intro f d
  refine ⟨fun a sty dt rnd i hi => ?cvt, fun a b c3 dt rnd k => ?pack2, fun a c2 sty k => ?unpk2, fun a b dt strm => ?srnd⟩
  case cvt =>
    have hop : ∀ s, exec i s = cvtOp f d a sty dt rnd s := by
      simp only [List.mem_cons, List.not_mem_nil, or_false] at hi
      rcases hi with rfl | rfl | rfl <;> exact fun s => rfl
    exact fixedCounts_of_aluOp (fun s => by simp only [hop, cvtOp, fpLat, countsHealth_iff, cvtQuant])
  case pack2 =>
    exact fixedCounts_of_aluOp (fun s => by
      simp only [exec_pack2, execPack2, fpLat, countsHealth_iff, packSlots] <;> rfl)
  case unpk2 => exact fixedWrites_of_aluOp (fun s => by simp only [exec_unpk2, execUnpk2, fpLat, widen, slotCode, rne32])
  case srnd => exact fixedCounts_of_aluOp (fun s => by simp only [exec_srnd, execSrnd, fpLat, countsHealth_iff, packSlots, Nat.mul_zero, Nat.add_zero, Nat.zero_add, Nat.mul_one])

end Sys2Proof.Machine
end

section
/-! SUPPORT. What the cross-lane instructions come to (R166 to R169): the trees of R47 on lists and on threads. -/
namespace Sys2Proof.Machine
open Sys2Proof Sys2Proof.Claims

/-! ### Threads -/

theorem lowest_lt (m : BitVec 32) : lowest m < 32 := by
  unfold lowest
  cases h : threadsOf m with
  | nil => decide
  | cons t r => exact ((mem_threadsOf m t).mp (h ▸ List.mem_cons_self ..)).1

theorem from_lt {c : Ctx} {t : Nat} (h : t ∈ c.threads) : c.from t < 32 := by
  unfold Ctx.from
  split
  · exact lowest_lt c.act
  · exact ((mem_threadsOf _ _).mp h).1

/-- What an instruction writes depends on its values for the 32 threads alone. -/
theorem outs_congr {c : Ctx} {d : Nat} {v w : Nat → Word} (h : ∀ t < 32, v t = w t) : c.outs [(d, v)] = c.outs [(d, w)] := by
  simp only [Ctx.outs, List.flatMap_cons, List.flatMap_nil]
  congr 1
  split
  · rfl
  · exact List.map_congr_left (fun t ht => by rw [h _ (from_lt ht)])

section
variable {i : Instr} {f : Fr} {n : Names} {l : Nat × Nat} {d : Nat} {v w : Ctx → Nat → Word}

/-- An instruction with one destination writes a value wherever it issues, if that value is its own in the 32 threads. -/
theorem fixedWrites_of_threads (hi : ∀ s, exec i s = aluOp f n l (fun c => [(d, v c)]) noEvents s) (hv : ∀ c, ∀ t < 32, v c t = w c t) :
    FixedWrites i f n l (fun c => [(d, w c)]) := fun s c h => by
  rw [hi, aluOp_next h, fixedNext, fixedNext, outs_congr (hv c)]
  rfl

end

/-! ### The trees of R47 -/

theorem treeReduce_map (g : Word → Word → Word) (v : Nat → Word) : treeReduce g ((upto 32).map v) = reduce g v := rfl

/-- Values `l` stand for the threads' values `v`. -/
def StandsFor (l : List Word) (v : Nat → Word) : Prop := l.length = 32 ∧ ∀ t < 32, l[t]? = some (v t)

theorem StandsFor.map_upto (v : Nat → Word) : StandsFor ((upto 32).map v) v :=
  ⟨by simp [upto], fun t ht => by simp [upto, ht]⟩

/-- One step of the scan on a list is that of the threads. -/
theorem StandsFor.scanStep {l : List Word} {v : Nat → Word} (h : StandsFor l v) (g : Word → Word → Word) (k : Nat) :
    StandsFor (scanStep g k l) (fun t => if k ≤ t then g (v (t - k)) (v t) else v t) := by
  obtain ⟨hl, hv⟩ := h
  refine ⟨?_, fun t ht => ?_⟩
  · simp [Machine.scanStep, hl]
    omega
  · dsimp only
    split
    · next hk =>
      rw [Machine.scanStep, List.getElem?_append_right (by simp [hl]; omega), List.length_take, hl, min_eq_left (by omega)]
      exact List.getElem?_zipWith_eq_some.mpr ⟨_, _, hv (t - k) (by omega), by rw [List.getElem?_drop, Nat.add_sub_of_le hk]; exact hv t ht, rfl⟩
    · next hk => rw [Machine.scanStep, List.getElem?_append_left (by simp [hl]; omega), List.getElem?_take_of_lt (by omega), hv t ht]

theorem StandsFor.treeScan {l : List Word} {v : Nat → Word} (h : StandsFor l v) (g : Word → Word → Word) : StandsFor (treeScan g l) (scan g v) :=
  ((((h.scanStep g 1).scanStep g 2).scanStep g 4).scanStep g 8).scanStep g 16

theorem redInit_eq (op : RedOp) (c : Ctx) (a : Reg) :
    redInit op c a = (upto 32).map (fun t => if c.act.getLsbD t then c.reg a.toNat t else redId op) := rfl

/-! ### SHFL -/

/-- A thread takes the value of its source where that acts, and keeps its own otherwise (R166). -/
theorem getD_ifActs (acts : Nat → Bool) (v : Nat → Word) (t : Nat) (o : Option Nat) :
    v ((match o with | some u => if acts u then some u else none | none => none).getD t) =
      if (match o with | some u => acts u | none => false) then v (o.getD t) else v t := by
  cases o with
  | none => rfl
  | some u => cases hu : acts u <;> simp [hu]

/-- C tells whether the source acts (R166). -/
theorem truth_ifActs (acts : Nat → Bool) (o : Option Nat) :
    truth (match o with | some u => if acts u then some u else none | none => none).isSome =
      if (match o with | some u => acts u | none => false) then 1 else 0 := by
  cases o with
  | none => rfl
  | some u => cases hu : acts u <;> simp [hu, truth]

/-! ### Operations and their identities (R167) -/

theorem iminVal_of_le {u : Bool} {a b : Word} (h : ofWord u b ≤ ofWord u a) : iminVal u a b = b := by
  unfold iminVal
  split
  · next h' => rw [← wordOf_ofWord u a, ← wordOf_ofWord u b, le_antisymm h' h]
  · rfl

theorem imaxVal_of_le {u : Bool} {a b : Word} (h : ofWord u a ≤ ofWord u b) : imaxVal u a b = b := if_pos h

/-- Settles O17: SHFL by its source thread, REDW and SCANW by the trees of R47. -/
theorem crossLaneResults : Obligations.CrossLaneResults := by
  unfold Obligations.CrossLaneResults
  intro f d
  refine ⟨fun mode c2 a b seg => ?shfl, fun op a => ?redw, fun op a excl => ?scanw, fun a b low => ?bcastw, fun x y => ?redFn⟩
  case shfl =>
    refine fixedWrites_of_aluOp (fun s => (exec_shfl ..).trans ?_)
    unfold execShfl crossLat
    refine congrArg (fun w => aluOp f (nameDC d c2 (src1 a) (src1 b)) (8, 4) w noEvents s) (funext fun c => ?_)
    generalize 2 ^ seg.toNat = w
    refine congrArg₂ (fun x y => [(d.toNat, x), (c2.toNat, y)]) (funext fun t => ?_) (funext fun t => ?_)
    · exact getD_ifActs c.act.getLsbD (c.val a) t _
    · exact truth_ifActs c.act.getLsbD _
  case redw => exact fixedWrites_of_aluOp (fun s => rfl)
  case scanw =>
    refine fixedWrites_of_threads (fun s => exec_scanw ..) (fun c t ht => ?_)
    obtain ⟨-, hv⟩ := (StandsFor.map_upto (fun t => if c.act.getLsbD t then c.reg a.toNat t else redId op)).treeScan (redFn op)
    simp only [redInit_eq, List.getD_eq_getElem?_getD, hv t ht, hv (t - 1) (by omega), Option.getD_some]
  case bcastw => exact fixedWrites_of_aluOp (fun s => rfl)
  case redFn =>
    refine ⟨rfl, rfl, rfl, rfl, iminVal_eq false x y, imaxVal_eq false x y, iminVal_eq true x y, imaxVal_eq true x y, rfl, BitVec.zero_add y,
      BitVec.allOnes_and, BitVec.zero_or, BitVec.zero_xor, iminVal_of_le ?_, imaxVal_of_le ?_, iminVal_of_le ?_, imaxVal_of_le ?_⟩
    · exact Int.le_of_lt_add_one (BitVec.toInt_lt (x := y))
    · exact BitVec.le_toInt y
    · exact Int.ofNat_le.mpr (Nat.le_of_lt_succ y.isLt)
    · exact Int.natCast_nonneg _

end Sys2Proof.Machine
end

section
/-! SUPPORT. How memory instructions end (R207 to R225), and the statements about loads, stores, ordered accesses, atomics, blocks with
their scales, cache instructions and fences. -/
namespace Sys2Proof.Machine
open Sys2Proof Sys2Proof.Claims

variable {i : Instr} {f : Fr} {n : Names} {early : Ctx → Option Nat} {chks : Ctx → List (Nat × Chk)} {ea : Ctx → Nat → DWord}
  {body : Ctx → List Acc → State → Body} {after : Ctx → List Acc → State → State} {s : State} {c : Ctx}

/-! ### The three ends of `memOp` -/

theorem memOp_none (h : Issues s f n none early c) (ha : c.act = 0) :
    memOp f n early chks ea body s = .next (minimumNext c f (advance c f n)) := issue_done h (if_pos ha)

theorem memOp_bad (h : Issues s f n none early c) (ha : c.act ≠ 0) (hk : allOk (chks c) = none) :
    memOp f n early chks ea body s =
      .next (raiseTrap c f (firstBad (chks c)).1 (firstBad (chks c)).2 (c.threads.map (fun t => (t, ea c (c.from t)))) none) :=
  issue_trap h ((if_neg ha).trans (by rw [hk]; rfl))

theorem memOp_ok {as : List Acc} {t : State} (h : Issues s f n none early c) (ha : c.act ≠ 0) (hk : allOk (chks c) = some as)
    (hb : body c as (noteTlb (advance c f n) c.core as) = .done t) : memOp f n early chks ea body s = .next t :=
  issue_done h ((if_neg ha).trans (by rw [hk]; exact hb))

theorem memOp_held {as : List Acc} (h : Issues s f n none early c) (ha : c.act ≠ 0) (hk : allOk (chks c) = some as)
    (hb : body c as (noteTlb (advance c f n) c.core as) = .held) :
    memOp f n early chks ea body s = .next (c.pre.modSplit c.w c.ent (fun sp => { sp with wait := some (.op false false .none) })) :=
  issue_held h ((if_neg ha).trans (by rw [hk]; exact hb))

/-- An instruction that is a `memOp` whose body completes. -/
theorem accesses_of_memOp (hi : ∀ s, exec i s = memOp f n early chks ea (fun c as s => .done (after c as s)) s) :
    Accesses i f n early chks ea after := fun s _ h =>
  ⟨fun ha => (hi s).trans (memOp_none h ha), fun _ ha hk => (hi s).trans (memOp_ok h ha hk rfl),
    fun ha hk => (hi s).trans (memOp_bad h ha hk)⟩

/-- A body whose first act is to look whether any thread is active. -/
theorem passes_of_issue {body : Ctx → State → Body} (hi : ∀ s, exec i s = issue f n none early body s)
    (hb : ∀ (c : Ctx) s, c.act = 0 → body c s = .done (finishFlight c f [] .minimum s)) : Passes i f n early := fun s c h ha =>
  (hi s).trans (issue_done h (hb c _ ha))

/-! ### Loads and stores -/

theorem accesses_of_loadOp {spc : Space} {sz : Size} {h : Hint} {d : Reg} (hi : ∀ s, exec i s = loadOp f n spc sz h d ea s) :
    Accesses i f n noEarly (plainChks spc .read (szBytes sz) ea) ea (loaded f d sz h) :=
  accesses_of_memOp hi

theorem accesses_of_storeOp {spc : Space} {sz : Size} {h : Hint} {x : Src} (hi : ∀ s, exec i s = storeOp f n spc sz h x ea s) :
    Accesses i f n noEarly (plainChks spc .write (szBytes sz) ea) ea (stored f x sz h) :=
  accesses_of_memOp hi

/-- Settles O18: each is a `memOp` whose body loads or stores in thread order. -/
theorem loadsAndStores : Obligations.LoadsAndStores := by
  unfold Obligations.LoadsAndStores
  intro f a off spc sz
  exact ⟨fun d ch => accesses_of_loadOp (exec_ld f d a off spc sz ch), fun x ch => accesses_of_storeOp (exec_st f a off x spc sz ch),
    fun d => accesses_of_loadOp (exec_lds f d a off spc sz), fun x => accesses_of_storeOp (exec_sts f a off x spc sz)⟩

/-! ### Acquire and release (R330) -/

theorem l1Acts_of_le {k : Nat} (c : Ctx) (hk : 2 ≤ k) : l1Acts c k = true := by simp [l1Acts, hk]

theorem l1Acts_of_lt {k : Nat} {c : Ctx} (hk : k < 2) (hm : c.pre.hasMigrated c.warp.blk = false) : l1Acts c k = false := by
  simp [l1Acts, hm]; omega

/-- Settles O19: LDAQ and STRL as `memOp`s, and when a scope acts on the L1. -/
theorem orderedAccesses : Obligations.OrderedAccesses := by
  unfold Obligations.OrderedAccesses
  intro f a off spc sz scope
  refine ⟨fun d => ?ldaq, fun x => ?strl, fun c k s hk => ?wide, fun c k s hk hm => ?narrow⟩
  case ldaq => exact accesses_of_memOp (exec_ldaq f d a off spc sz scope)
  case strl => exact accesses_of_memOp (exec_strl f a off x spc sz scope)
  case wide => exact ⟨if_pos (l1Acts_of_le c hk), if_pos (l1Acts_of_le c hk)⟩
  case narrow =>
    have hn : ¬ l1Acts c k = true := by simp [l1Acts_of_lt hk hm]
    exact ⟨if_neg hn, if_neg hn⟩

/-! ### Atomics -/

theorem relOf_iff (o : Order) : Ctx.relOf o = true ↔ o = .rel ∨ o = .acqrel := by simp [Ctx.relOf]

theorem acqOf_iff (o : Order) : Ctx.acqOf o = true ↔ o = .acq ∨ o = .acqrel := by simp [Ctx.acqOf]

/-- An instruction that is an `atomOp`, its function given up to equality. -/
theorem accesses_of_atomOp {spc : Space} {sz : Size} {scope : Scope} {ord : Order} {a : Reg} {off : Word} {d : Option Reg}
    {g g' : Ctx → Nat → DWord → Option DWord} (hi : ∀ s, exec i s = atomOp f n spc sz scope ord a off d g s)
    (hg : ∀ c t old, g c t old = g' c t old) :
    Accesses i f n (levelEarly scope) (plainChks spc .atomic (szBytes sz) (fun c => c.ea a off)) (fun c => c.ea a off)
      (atomics f d sz scope ord g') := by
  obtain rfl : g = g' := by funext c t old; exact hg c t old
  refine accesses_of_memOp (fun s => (hi s).trans ?_)
  simp only [atomOp, atomics, relOf_iff, acqOf_iff]
  rfl

/-- A held split waits at its instruction, which has not issued. -/
theorem waitsAt_of_held (h : Issues s f n none early c)
    (hi : exec i s = .next (c.pre.modSplit c.w c.ent (fun sp => { sp with wait := some (.op false false .none) }))) :
    WaitsAt i s c false false .none := by
  exact ⟨_, { c.split with wait := some (.op false false .none) }, hi, by rw [splitAt_modSplit_self, h.splitAt_pre]; rfl, rfl, rfl⟩

/-- Settles O20. -/
theorem atomicAccesses : Obligations.AtomicAccesses := by
  unfold Obligations.AtomicAccesses
  intro f a off spc sz scope ord
  refine ⟨fun op d x => ?atom, fun op x => ?red, fun d x => ?atomc, fun d s c => ?chunk, fun core g x as s => ?order⟩
  case atom => exact accesses_of_atomOp (exec_atom f op d a off x spc sz scope ord) (fun _ _ _ => rfl)
  case red => exact accesses_of_atomOp (exec_red f op a off x spc sz scope ord) (fun _ _ _ => rfl)
  case atomc =>
    refine accesses_of_atomOp (exec_atomc f d a off x spc sz scope ord) (fun c t old => ?_)
    by_cases hs : sz = .b64 <;> simp only [hs, if_true, if_false]
  case chunk =>
    intro n chks h
    rw [exec_chunk, execChunk]
    refine ⟨fun ha => memOp_none h ha, fun ha hk => memOp_bad h ha hk, fun as ha hk => ⟨fun hc => memOp_ok h ha hk ?_, fun hc => ?_⟩⟩
    · exact if_neg (by simpa using hc)
    · refine waitsAt_of_held h ?_
      rw [exec_chunk, execChunk]
      exact memOp_held h ha hk (if_pos (by simpa using hc))
  case order => exact ⟨rfl, rfl⟩

/-! ### Blocks and scales -/

theorem blockFor_singleton (t : Nat) (x : List Nat × Nat) : blockFor [(t, x)] t = x := by simp [blockFor]

/-- The words that LDSC writes of the slots `slot`. -/
def slotOuts (c : Ctx) (d c2 b : Reg) (slot : Nat → BitVec 256) : List (Nat × (Nat → Word)) :=
  [(d.toNat, fun t =>
      let j := (c.reg b.toNat t).toNat % 16
      if j < 12 then (slotScale (slot t) j).zeroExtend 32 else 0),
    (c2.toNat, fun t => (slotDesc (slot t)).zeroExtend 32)]

theorem snd_getD (o : Option (Nat × BitVec 256)) : (match o with | some p => p.2 | none => 0) = (o.map (·.2)).getD 0 := by
  cases o <;> rfl

/-- Settles O22: blocks and slots are read and written by `memOp`s; one thread's block stands alone in the list of blocks read. -/
theorem blockAndScaleAccesses : Obligations.BlockAndScaleAccesses := by
  unfold Obligations.BlockAndScaleAccesses
  intro f a
  refine ⟨fun d off bf g part nc => ⟨?ldbs, ?ldbsPk⟩, fun x off bf g part nc => ⟨?stbs, ?stbsPk⟩, fun d c2 b => ?ldsc, fun b x desc => ?stsc⟩
  case ldbs =>
    refine accesses_of_memOp (fun s => ?_)
    rw [exec_ldbs, execLdbs]
    simp only [Bool.false_eq_true, if_false, List.flatMap_cons, List.flatMap_nil, List.append_nil, readBlocks, blockFor_singleton]
    rfl
  case ldbsPk => exact accesses_of_memOp (exec_ldbs f true d a off bf g part nc)
  case stbs =>
    refine accesses_of_memOp (fun s => ?_)
    rw [exec_stbs, execStbs]
    simp only [Bool.false_eq_true, if_false, List.flatMap_cons, List.flatMap_nil, List.append_nil]
    rfl
  case stbsPk => exact accesses_of_memOp (exec_stbs f true a off x bf g part nc)
  case ldsc =>
    refine accesses_of_memOp (fun s => ?_)
    rw [exec_ldsc, execLdsc]
    refine congrArg (fun b => memOp _ _ _ _ _ b s) (funext fun c => funext fun as => funext fun s1 => ?_)
    exact congrArg (fun slot => Body.done (finishFlight c f (c.outs (slotOuts c d c2 b slot)) .access (loadSlots c.core c.asid as s1).1))
      (funext fun t => snd_getD ((loadSlots c.core c.asid as s1).2.find? (fun p => decide (p.1 = t))))
  case stsc => exact accesses_of_memOp (exec_stsc f a b x desc)

/-! ### Cache instructions and fences -/

theorem passes_of_onceOp {body : Ctx → State → State} (hi : ∀ s, exec i s = onceOp f early body s) : Passes i f noNames early :=
  passes_of_issue hi (fun _ _ ha => if_pos ha)

theorem passes_of_flushOp {a : Reg} {inv : Bool} (hi : ∀ s, exec i s = flushOp f a inv s) :
    Passes i f (nameS (reg2 a) none none) noEarly :=
  passes_of_issue hi (fun _ _ ha => if_pos ha)

theorem onceOp_next {body : Ctx → State → State} (h : Issues s f (nameS none none none) none early c) (ha : c.act ≠ 0) :
    onceOp f early body s = .next (flightNext c f [] (body c (advance c f (nameS none none none)))) := issue_done h (if_neg ha)

theorem flushOp_next {a : Reg} {inv : Bool} (h : Issues s f (nameS (reg2 a) none none) none noEarly c) (ha : c.act ≠ 0) :
    flushOp f a inv s = .next (flightNext c f [] ((c.threads.filterMap (fun t => leafLoc c (c.reg2 a.toNat t))).foldl
      (fun s l => flushLine s c.core l inv) (advance c f (nameS (reg2 a) none none)))) := issue_done h (if_neg ha)

theorem wayset_trap {d a : Reg} (h : Issues s f (nameD d (reg1 a) none none) none noEarly c) (ha : c.act ≠ 0)
    (hw : waysetAllowed c = false) : exec (.wayset f d a) s = .next (raiseTrap c f 0x03 c.act [] none) := by
  rw [exec_wayset]
  unfold execWayset
  refine issue_trap h ?_
  rw [if_neg ha, hw]
  rfl

/-- The ways asked for do not fit the core or do not leave the block its scratch (R220). -/
def WaysBeyond (c : Ctx) (n : Nat) : Prop :=
  (if c.riffle then 7 else 15) < n ∨ n * 32768 < (c.launch.record.scr + 255) / 256 * 256 + c.launch.record.scrs / 4

theorem wayset_beyond {d a : Reg} (h : Issues s f (nameD d (reg1 a) none none) none noEarly c) (ha : c.act ≠ 0)
    (hw : waysetAllowed c = true) (hn : WaysBeyond c (c.reg a.toNat (lowest c.act)).toNat) :
    exec (.wayset f d a) s = .next (flightNext c f (c.outs [(d.toNat, fun _ => 1)]) (advance c f (nameD d (reg1 a) none none))) := by
  rw [exec_wayset]
  unfold execWayset
  refine issue_done h ?_
  rw [if_neg ha, hw]
  exact if_pos hn

theorem wayset_moves {d a : Reg} (h : Issues s f (nameD d (reg1 a) none none) none noEarly c) (ha : c.act ≠ 0)
    (hw : waysetAllowed c = true) (hn : ¬ WaysBeyond c (c.reg a.toNat (lowest c.act)).toNat) (hb : coreBusy c = false) :
    exec (.wayset f d a) s = .next (flightNext c f (c.outs [(d.toNat, fun _ => 0)])
      (((clearScratch (invalidateAll (advance c f (nameD d (reg1 a) none none)) c.core) c.warp.blk
          (min (c.reg a.toNat (lowest c.act)).toNat ((c.pre.core c.core).ways.getD (if c.riffle then 4 else 8)) * 32768)).modCore c.core
        (fun k => { k with ways := some (c.reg a.toNat (lowest c.act)).toNat })).modBlock c.warp.blk
          (fun x => { x with scrBase := 0, wset := some (c.reg a.toNat (lowest c.act)).toNat }))) := by
  rw [exec_wayset]
  unfold execWayset
  refine issue_done h ?_
  rw [if_neg ha, hw]
  refine (if_neg hn).trans ?_
  rw [hb]
  rfl

/-- Settles O23: each is an `issue` whose body looks for active threads first; WAYSET by its three answers. -/
theorem cacheAndFences : Obligations.CacheAndFences := by
  unfold Obligations.CacheAndFences
  refine ⟨fun f d a scope => ?passes, fun f s c => ⟨fun lvl a off spc h => ?pref, fun a inv h ha => ?flush, fun inv h ha => ?all,
    fun scope h ha => ?fence, fun d a h ha => ?wayset⟩⟩
  case passes =>
    exact ⟨passes_of_flushOp (exec_cflushWb f a), passes_of_flushOp (exec_cflushWbinv f a), passes_of_onceOp (exec_cflushWball f),
      passes_of_onceOp (exec_cflushWbinvall f), passes_of_onceOp (exec_fenceRel f scope), passes_of_onceOp (exec_fenceAcq f scope),
      passes_of_onceOp (exec_fenceFull f scope), passes_of_issue (exec_wayset f d a) (fun _ _ ha => if_pos ha)⟩
  case pref =>
    rw [exec_pref, execPref]
    exact issue_done h rfl
  case flush =>
    cases inv with
    | false => exact (exec_cflushWb f a s).trans (flushOp_next h ha)
    | true => exact (exec_cflushWbinv f a s).trans (flushOp_next h ha)
  case all =>
    cases inv with
    | false => exact (exec_cflushWball f s).trans (onceOp_next h ha)
    | true => exact (exec_cflushWbinvall f s).trans (onceOp_next h ha)
  case fence =>
    exact ⟨(exec_fenceRel f scope s).trans (onceOp_next h ha), (exec_fenceAcq f scope s).trans (onceOp_next h ha),
      (exec_fenceFull f scope s).trans (onceOp_next h ha)⟩
  case wayset => exact ⟨wayset_trap h ha, wayset_beyond h ha, wayset_moves h ha⟩
end Sys2Proof.Machine
end

section
/-! SUPPORT. Bytes and the numbers they stand for, and the statement about loaded words, atomic values and chunk draws. -/
namespace Sys2Proof.Machine
open Sys2Proof Sys2Proof.Claims

/-! ### Little-endian bytes (R5) -/

theorem ofBytes_append (a b : List Byte) : ofBytes (a ++ b) = ofBytes a + 256 ^ a.length * ofBytes b := by
  induction a with
  | nil => simp [ofBytes]
  | cons x xs ih => simp only [List.cons_append, ofBytes, ih, List.length_cons, pow_succ]; ring

theorem ofBytes_toBytes (n v : Nat) : ofBytes (toBytes n v) = v % 256 ^ n := by
  induction n generalizing v with
  | zero => simp [toBytes, ofBytes, Nat.mod_one]
  | succ n ih => rw [toBytes, ofBytes, ih, pow_succ', Nat.mod_mul, BitVec.toNat_ofNat]

@[simp] theorem ofBytes_toBytes_word (x : Word) : ofBytes (toBytes 4 x.toNat) = x.toNat := by
  rw [ofBytes_toBytes]; exact Nat.mod_eq_of_lt x.isLt

/-- The `i`-th word of the bytes of words. -/
theorem ofNat_ofBytes_words (v : List Word) (i : Nat) (hi : i < v.length) :
    BitVec.ofNat 32 (ofBytes (v.flatMap (fun x => toBytes 4 x.toNat)) / 2 ^ (32 * i)) = v.getD i 0 := by
  induction v generalizing i with
  | nil => simp at hi
  | cons x xs ih =>
    have hx := x.isLt
    have hs : ofBytes ((x :: xs).flatMap (fun x => toBytes 4 x.toNat)) = x.toNat + 2 ^ 32 * ofBytes (xs.flatMap (fun x => toBytes 4 x.toNat)) := by
      rw [List.flatMap_cons, ofBytes_append, ofBytes_toBytes_word, length_toBytes, show 256 ^ 4 = 2 ^ 32 by decide]
    rw [hs]
    cases i with
    | zero =>
      apply BitVec.eq_of_toNat_eq
      simp only [Nat.mul_zero, Nat.pow_zero, Nat.div_one, BitVec.toNat_ofNat, Nat.add_mul_mod_self_left, List.getD_cons_zero]
      exact Nat.mod_eq_of_lt hx
    | succ i =>
      rw [Nat.mul_succ, Nat.add_comm (32 * i), pow_add, ← Nat.div_div_eq_div_mul, Nat.add_mul_div_left _ _ (by positivity),
        Nat.div_eq_of_lt hx, Nat.zero_add, ih i (by simpa using hi), List.getD_cons_succ]

theorem signedOf_toNat {n : Nat} (hn : 0 < n) (b : BitVec n) : signedOf n b.toNat = b.toInt := by
  have hm := Nat.mod_eq_of_lt b.isLt
  have hp : 2 ^ n = 2 * 2 ^ (n - 1) := by rw [← pow_succ']; congr; omega
  simp only [signedOf, hm, BitVec.toInt_eq_toNat_cond]
  by_cases h : 2 * b.toNat < 2 ^ n
  · rw [if_pos (by omega), if_pos h]
  · rw [if_neg (by omega), if_neg h]; push_cast; rfl

/-! ### New values of the atomics (R221) -/

@[simp] theorem loWord_zeroExtend (x : Word) : loWord (x.zeroExtend 64) = x := by
  simp [loWord, BitVec.extractLsb'_setWidth_of_le]

theorem loWord_ite {p : Prop} [Decidable p] (a b : DWord) : loWord (if p then a else b) = if p then loWord a else loWord b := apply_ite ..

theorem toInt_le_iff_sle {n : Nat} (a b : BitVec n) : a.toInt ≤ b.toInt ↔ a.sle b = true := BitVec.sle_iff_toInt_le.symm
theorem toNat_le_iff_ule {n : Nat} (a b : BitVec n) : a.toNat ≤ b.toNat ↔ a.ule b = true := BitVec.ule_iff_toNat_le.symm
theorem toNat_lt_iff_ult {n : Nat} (a b : BitVec n) : a.toNat < b.toNat ↔ a.ult b = true := BitVec.ult_iff_toNat_lt.symm

theorem toNat_zeroExtend_word (x : Word) : (x.zeroExtend 64 : DWord).toNat = x.toNat := by
  have := x.isLt
  simp [BitVec.toNat_setWidth]; omega

theorem loWord_eq (x : DWord) : loWord x = x.setWidth 32 := rfl

theorem loWord_add (x y : DWord) : loWord (x + y) = loWord x + loWord y := by simp only [loWord_eq]; exact BitVec.setWidth_add _ _ (by decide)
theorem loWord_and (x y : DWord) : loWord (x &&& y) = loWord x &&& loWord y := by simp [loWord_eq, BitVec.setWidth_and]
theorem loWord_or (x y : DWord) : loWord (x ||| y) = loWord x ||| loWord y := by simp [loWord_eq, BitVec.setWidth_or]
theorem loWord_xor (x y : DWord) : loWord (x ^^^ y) = loWord x ^^^ loWord y := by simp [loWord_eq, BitVec.setWidth_xor]

/-- The values on 32-bit words. -/
theorem atomNew_word (o x : Word) :
    let new (op : AtomOp) : Word := loWord (atomNew op false (o.zeroExtend 64) (x.zeroExtend 64))
    new .add = o + x ∧ new .smin = (if o.sle x then o else x) ∧ new .smax = (if o.sle x then x else o) ∧
    new .nmin = (if o.ule x then o else x) ∧ new .nmax = (if o.ule x then x else o) ∧ new .band = o &&& x ∧ new .bor = o ||| x ∧
    new .bxor = o ^^^ x ∧ new .exch = x ∧ new .inc = (if x.ule o then 0 else o + 1) ∧
    new .dec = (if o = 0 ∨ x.ult o = true then x else o - 1) := by
  simp only [atomNew, loWord_zeroExtend, loWord_ite, loWord_add, loWord_and, loWord_or, loWord_xor, toNat_zeroExtend_word,
    toInt_le_iff_sle, toNat_le_iff_ule, toNat_lt_iff_ult, Bool.false_eq_true, if_false]
  exact ⟨trivial, trivial, trivial, trivial, trivial, trivial, trivial, trivial, trivial, rfl, trivial⟩

/-- The floating-point values, each rounded once. -/
theorem atomNew_float (o x : Word) :
    let new (op : AtomOp) : Word := loWord (atomNew op false (o.zeroExtend 64) (x.zeroExtend 64))
    new .fadd = toF32 .rne (Num.add false (numOf o) (numOf x)) ∧ new .fmin = fmin32 o x ∧ new .fmax = fmax32 o x ∧
    new .h2add = ofHalves (f16.round .rne (Num.add false (f16.decode (loHalf o)) (f16.decode (loHalf x))))
      (f16.round .rne (Num.add false (f16.decode (hiHalf o)) (f16.decode (hiHalf x)))) ∧
    new .bf2add = ofHalves (bf16.round .rne (Num.add false (bf16.decode (loHalf o)) (bf16.decode (loHalf x))))
      (bf16.round .rne (Num.add false (bf16.decode (hiHalf o)) (bf16.decode (hiHalf x)))) := by
  simp only [atomNew, loWord_zeroExtend]
  exact ⟨rfl, trivial, trivial, rfl, rfl⟩

/-! ### A draw from a chunk record (R225) -/

/-- The four words of a chunk record. -/
theorem chunkDraw_words (next stop least dv : Word) :
    chunkDraw (toBytes 4 next.toNat ++ toBytes 4 stop.toNat ++ toBytes 4 least.toNat ++ toBytes 4 dv.toNat) =
      (next.toNat, min (stop.toNat - next.toNat) (max least.toNat ((stop.toNat - next.toNat + (if dv.toNat = 0 then 1 else dv.toNat) - 1) /
        (if dv.toNat = 0 then 1 else dv.toNat)))) := by
  have hd (w k : Nat) (hk : 4 ≤ k) : (toBytes 4 w).drop k = [] := List.drop_eq_nil_of_le (by simpa using hk)
  have ht (w : Nat) : (toBytes 4 w).take 4 = toBytes 4 w := List.take_of_length_le (by simp)
  simp [chunkDraw, List.drop_append, hd, ht]

/-- Settles O21: words from bytes, the values of R221 on both widths, and the draw of R225. -/
theorem loadedAndStoredValues : Obligations.LoadedAndStoredValues := by
  unfold Obligations.LoadedAndStoredValues
  refine ⟨fun b => ?byte, fun b0 b1 => ?half, fun b0 b1 b2 b3 => ?word, fun v i => ?words, fun o x => ?new32, fun o x => ?new64,
    fun next stop least dv => ?draw⟩
  case byte =>
    simp only [loadWord, ofBytes, Nat.mul_zero, Nat.add_zero, signedOf_toNat (n := 8) (by decide)]
    exact ⟨BitVec.ofNat_toNat .., rfl⟩
  case half =>
    have h : ofBytes [b0, b1] = (b1 ++ b0).toNat := by simp only [ofBytes, toNat_append_eq]; omega
    simp only [loadWord, h, signedOf_toNat (n := 16) (by decide)]
    exact ⟨BitVec.ofNat_toNat .., rfl⟩
  case word =>
    simp only [loadWord, Nat.mul_zero, Nat.pow_zero, Nat.div_one]
    exact ofNat_ofBytes_four b0 b1 b2 b3
  case words => exact ⟨fun ⟨hl, hi⟩ => ofNat_ofBytes_words v i (hl ▸ hi), fun ⟨hl, hi⟩ => ofNat_ofBytes_words v i (hl ▸ hi)⟩
  case new32 =>
    obtain ⟨hadd, hsmin, hsmax, hnmin, hnmax, hand, hor, hxor, hexch, hinc, hdec⟩ := atomNew_word o x
    exact ⟨hadd, hsmin, hsmax, hnmin, hnmax, hand, hor, hxor, hexch, hinc, hdec, atomNew_float o x⟩
  case new64 =>
    simp only [atomNew, toInt_le_iff_sle, toNat_le_iff_ule, if_true]
    exact ⟨trivial, trivial, trivial, trivial, trivial, trivial, trivial, trivial, trivial⟩
  case draw =>
    intro r left d
    have hr : chunkDraw r = _ := chunkDraw_words next stop least dv
    have hl : left = stop.toNat - next.toNat := by simp only [left]; split <;> omega
    have hd : d = if dv.toNat = 0 then 1 else dv.toNat := by
      simp only [d, BitVec.toNat_eq]
      rfl
    rw [hr, hl, ← hd]
    have hd1 : 1 ≤ d := by rw [hd]; split <;> omega
    have hle : 0 < stop.toNat - next.toNat → 1 ≤ (stop.toNat - next.toNat + d - 1) / d := fun h => (Nat.one_le_div_iff hd1).mpr (by omega)
    refine ⟨rfl, rfl, ?_, ?_⟩
    · dsimp only; omega
    · dsimp only; omega

end Sys2Proof.Machine
end

section
/-! SUPPORT. The issuer's warp as the instruction finds it and as it leaves it: its tables, its place, and the split that has moved on. -/
namespace Sys2Proof.Machine
open Sys2Proof Sys2Proof.Claims

/-! ### The tables behind the issuer -/

theorem issuer_block {s : State} {c : Ctx} (h : s.issuer = .ok c) : tget s.blocks c.warp.blk = some c.block := by
  unfold State.issuer at h
  repeat' split at h
  all_goals cases h
  assumption

theorem issuer_gang {s : State} {c : Ctx} (h : s.issuer = .ok c) : tget s.gangs c.block.gang = some c.gang := by
  unfold State.issuer at h
  repeat' split at h
  all_goals cases h
  assumption

theorem issuer_launch {s : State} {c : Ctx} (h : s.issuer = .ok c) : tget s.launches c.gang.launch = some c.launch := by
  unfold State.issuer at h
  repeat' split at h
  all_goals cases h
  assumption

theorem issuer_ctx {s : State} {c : Ctx} (h : s.issuer = .ok c) : tget s.ctxs c.launch.asid = some c.ctx := by
  unfold State.issuer at h
  repeat' split at h
  all_goals cases h
  assumption

/-- Two states whose warps lie in the same blocks and whose blocks in the same gangs, which stand alike. -/
def SamePlaces (s t : State) : Prop :=
  (∀ k, (tget t.warps k).map (·.blk) = (tget s.warps k).map (·.blk)) ∧
  (∀ k, (tget t.blocks k).map (·.gang) = (tget s.blocks k).map (·.gang)) ∧ t.gangs = s.gangs

theorem SamePlaces.refl (s : State) : SamePlaces s s := ⟨fun _ => rfl, fun _ => rfl, rfl⟩

theorem SamePlaces.trans {s t u : State} (h : SamePlaces s t) (h' : SamePlaces t u) : SamePlaces s u := by
  obtain ⟨hw, hb, hg⟩ := h
  obtain ⟨hw', hb', hg'⟩ := h'
  exact ⟨fun k => (hw' k).trans (hw k), fun k => (hb' k).trans (hb k), hg'.trans hg⟩

theorem map_tget_tmod {α β : Type} (m : SMap α) (n k : Nat) (f : α → α) (g : α → β) (hg : ∀ x, g (f x) = g x) :
    (tget (tmod m n f) k).map g = (tget m k).map g := by
  rw [tget_tmod]
  split
  · next h => subst h; cases tget m k <;> simp [hg]
  · rfl

theorem samePlaces_modWarp (s : State) (n : Nat) (f : Warp → Warp) (hf : ∀ wp, (f wp).blk = wp.blk := by exact fun _ => rfl) :
    SamePlaces s (s.modWarp n f) := ⟨fun _ => map_tget_tmod _ _ _ _ _ hf, fun _ => rfl, rfl⟩

theorem samePlaces_modBlock (s : State) (n : Nat) (f : Block → Block) (hf : ∀ b, (f b).gang = b.gang := by exact fun _ => rfl) :
    SamePlaces s (s.modBlock n f) := ⟨fun _ => rfl, fun _ => map_tget_tmod _ _ _ _ _ hf, rfl⟩

theorem samePlaces_writeSr (s : State) (w : Nat) (sr : SReg) (v : DWord) : SamePlaces s (s.writeSr w sr v) := by
  unfold State.writeSr
  split
  · exact .refl s
  · dsimp only
    split
    case h_4 => exact samePlaces_modBlock _ _ _
    case h_6 | h_7 => exact samePlaces_modWarp _ _ _
    all_goals exact ⟨fun _ => rfl, fun _ => rfl, rfl⟩

theorem samePlaces_landSets (s : State) (w : Nat) (sp : Split) : SamePlaces s (s.landSets w sp) := by
  have fold (l : List SPend) (t : State) (ht : SamePlaces s t) : SamePlaces s (l.foldl (fun t p => t.writeSr w p.sr p.val) t) := by
    induction l generalizing t with
    | nil => exact ht
    | cons p r ih => exact ih _ (ht.trans (samePlaces_writeSr ..))
  unfold State.landSets
  dsimp only
  split
  · exact .refl s
  · exact (fold _ _ (.refl s)).trans (samePlaces_modWarp _ _ _)

theorem samePlaces_land {s : State} {c : Ctx} (h : s.issuer = .ok c) : SamePlaces s c.land.pre := by
  obtain rfl := issuer_pre h
  unfold Ctx.land
  split
  · exact .refl _
  · dsimp only
    split
    · next c' h' =>
      rw [issuer_pre h']
      have hd : SamePlaces c.pre (c.pre.landDue c.split) := by simp [SamePlaces]
      exact (hd.trans (samePlaces_landSets ..)).trans (samePlaces_modWarp _ _ _)
    · exact .refl _

/-- The gang of the issuer is that of the issuer before the results that were due landed. -/
theorem land_gang {s : State} {c : Ctx} (h : s.issuer = .ok c) : c.land.gang = c.gang := by
  obtain ⟨hw, hb, hg⟩ := samePlaces_land h
  have hcur : c.land.w = c.w := by
    rw [issuer_w h, issuer_w (land_issuer h)]
    exact congrArg Prod.fst (guarded_cur plainFr h)
  have hl := land_issuer h
  have hblk : c.land.warp.blk = c.warp.blk := by
    have := hw c.w
    rw [← hcur, issuer_warp hl, hcur, issuer_warp h] at this
    exact Option.some.inj this
  have hgang : c.land.block.gang = c.block.gang := by
    have := hb c.warp.blk
    rw [issuer_block h, ← hblk, issuer_block hl] at this
    exact Option.some.inj this
  exact Option.some.inj ((issuer_gang hl).symm.trans (by rw [hgang, hg, issuer_gang h]))

section
variable {s : State} {f : Fr} {n : Names} {lat : Option (Nat × Nat)} {early : Ctx → Option Nat} {c : Ctx}

theorem Issues.warp_eq (h : Issues s f n lat early c) : tget c.pre.warps c.w = some c.warp := by
  obtain ⟨c0, h0, -, rfl, -⟩ := h
  exact issuer_warp (c0 := c0.land) (land_issuer h0)

theorem Issues.split_eq (h : Issues s f n lat early c) : c.warp.split? c.ent = some c.split := by
  obtain ⟨c0, h0, -, rfl, -⟩ := h
  exact issuer_split (c := c0.land) (land_issuer h0)

theorem Issues.split_ent (h : Issues s f n lat early c) : c.split.ent = c.ent := by
  simpa using List.find?_some h.split_eq

theorem Issues.act_eq (h : Issues s f n lat early c) : c.act = c.guardMask f := by
  obtain ⟨c0, -, -, rfl, -⟩ := h
  rfl

theorem gate_running {c : Ctx} (h : gate c f = true) : c.gang.state = .running ∨ c.gang.state = .stopping := by
  simp only [gate, Bool.and_eq_true, Bool.or_eq_true, decide_eq_true_eq] at h
  obtain ⟨⟨-, hg⟩, -⟩ := h
  exact hg.imp id (·.2)

/-- The gang of an issuer holds its place, so its core counts its warps. -/
theorem Issues.placed (h : Issues s f n lat early c) : c.pre.placed c.warp.blk = true := by
  obtain ⟨c0, h0, hg, rfl, -⟩ := h
  have hl := land_issuer h0
  have hst : c0.land.gang.state = .running ∨ c0.land.gang.state = .stopping := by rw [land_gang h0]; exact gate_running hg
  show State.placed c0.land.pre c0.land.warp.blk = true
  simp only [State.placed, issuer_block hl, Option.bind_some, issuer_gang hl]
  cases hst with
  | inl h => rw [h]; rfl
  | inr h => rw [h]; rfl

/-! ### The split that has moved past its instruction -/

/-- The issuing split past its instruction (R62). -/
def movedOn (c : Ctx) (f : Fr) (n : Names) (sp : Split) : Split :=
  { sp with pc := sp.pc + BitVec.ofNat 64 (flen f), nd := sp.nd + c.stall f, next := c.pre.now + (c.stall f + bankExtra c n) * c.tick,
            ready := none, passed := 0, aged := none, wait := none }

/-- The warp of an instruction that has been passed, before any effect of its own. -/
theorem Issues.advance_warp (h : Issues s f n lat early c) (n' : Names) :
    ∃ ctrs, tget (advance c f n').warps c.w = some { c.warp.modSplit c.ent (movedOn c f n') with ctrs := ctrs } := by
  have hw := h.warp_eq
  unfold advance
  dsimp only
  split
  · split
    · exact ⟨c.warp.ctrs, by simp [takeSlot, State.modSplit, hw]; rfl⟩
    · exact ⟨_, by simp [takeSlot, State.modSplit, hw]; rfl⟩
  · exact ⟨c.warp.ctrs, by simp [takeSlot, State.modSplit, hw]; rfl⟩

/-- An operation in flight changes of its warp the flights alone. -/
theorem finishFlight_warp {t : State} {wp : Warp} (kvs : List (Nat × Word)) (kind : FlightKind) (h : tget t.warps c.w = some wp) :
    ∃ flights, tget (finishFlight c f kvs kind t).warps c.w = some { wp with flights := flights } := by
  unfold finishFlight
  split
  · exact ⟨wp.flights, h⟩
  · exact ⟨_, by rw [State.modWarp_warps, tget_tmod_self, h]; rfl⟩

/-- The warp of an instruction that has only been passed: its split has moved on, and only its counters and its flights may have
changed besides. -/
theorem Issues.passed_warp (h : Issues s f n lat early c) (n' : Names) :
    ∃ ctrs flights, tget (passed c f n').warps c.w = some { c.warp.modSplit c.ent (movedOn c f n') with ctrs := ctrs, flights := flights } := by
  obtain ⟨ctrs, hadv⟩ := h.advance_warp n'
  obtain ⟨flights, hfl⟩ := finishFlight_warp (c := c) (f := f) [] .minimum hadv
  exact ⟨ctrs, flights, hfl⟩

end
end Sys2Proof.Machine
end

section
/-! SUPPORT. The entries of a warp's splits (R246), what settles when none of its splits meets another (R250), and how a split divides. -/
namespace Sys2Proof.Machine
open Sys2Proof Sys2Proof.Claims

/-! ### Entries -/

theorem mem_of_tget {α : Type} {m : SMap α} {k : Nat} {v : α} (h : tget m k = some v) : (k, v) ∈ m := by
  induction m with
  | nil => cases h
  | cons p r ih =>
    obtain ⟨k', v'⟩ := p
    rw [tget] at h
    split at h
    · next hk => cases h; subst hk; exact List.mem_cons_self
    · exact List.mem_cons_of_mem _ (ih h)

theorem mem_tput_self {α : Type} (m : SMap α) (k : Nat) (v : α) : (k, v) ∈ tput m k v := by
  induction m with
  | nil => exact List.mem_singleton.mpr rfl
  | cons p r ih =>
    rw [tput]
    split
    · exact List.mem_cons_self
    · split
      · exact List.mem_cons_self
      · exact List.mem_cons_of_mem _ ih

/-- What a table lists stays listed, or is the entry that the update replaces. -/
theorem mem_tput_of_mem {α : Type} {m : SMap α} (k : Nat) (v : α) {p : Nat × α} (h : p ∈ m) :
    p ∈ tput m k v ∨ (p.1 = k ∧ tget m k = some p.2) := by
  induction m with
  | nil => cases h
  | cons q r ih =>
    obtain ⟨k', v'⟩ := q
    rw [tput, tget]
    split
    · exact .inl (List.mem_cons_of_mem _ h)
    · split
      · next hk =>
        cases List.mem_cons.mp h with
        | inl h => subst h; exact .inr ⟨hk.symm, rfl⟩
        | inr h => exact .inl (List.mem_cons_of_mem _ h)
      · cases List.mem_cons.mp h with
        | inl h => subst h; exact .inl List.mem_cons_self
        | inr h => exact (ih h).imp (List.mem_cons_of_mem _) id

/-- Everything that a core's braid table sees of two states is the same where an update of a warp keeps its core, its block and the entries
of its splits. -/
theorem freeEntries_modWarp (s : State) (w core : Nat) (f : Warp → Warp) (hc : ∀ wp, (f wp).core = wp.core) (hb : ∀ wp, (f wp).blk = wp.blk)
    (he : ∀ wp, tget s.warps w = some wp → (f wp).splits.map (·.ent) = wp.splits.map (·.ent)) :
    freeEntries (s.modWarp w f) core = freeEntries s core := by
  have hmem (e : Nat) : e ∈ ((s.modWarp w f).warpsOfCore core).flatMap (fun p => p.2.splits.map (·.ent)) ↔
      e ∈ (s.warpsOfCore core).flatMap (fun p => p.2.splits.map (·.ent)) := by
    have hplaced (b : Nat) : (s.modWarp w f).placed b = s.placed b := rfl
    simp only [List.mem_flatMap, State.warpsOfCore, List.mem_filter, hplaced, State.modWarp_warps, tmod]
    cases hw : tget s.warps w with
    | none => rfl
    | some wp =>
      constructor
      · rintro ⟨p, ⟨hp, hq⟩, hx⟩
        obtain rfl | hp := mem_tput hp
        · exact ⟨(w, wp), ⟨mem_of_tget hw, by simpa [hc, hb] using hq⟩, by rwa [he wp hw] at hx⟩
        · exact ⟨p, ⟨hp, hq⟩, hx⟩
      · rintro ⟨p, ⟨hp, hq⟩, hx⟩
        obtain hp | ⟨-, hk⟩ := mem_tput_of_mem w (f wp) hp
        · exact ⟨p, ⟨hp, hq⟩, hx⟩
        · obtain rfl := Option.some.inj (hw.symm.trans hk)
          exact ⟨(w, f p.2), ⟨mem_tput_self .., by simpa [hc, hb] using hq⟩, by rwa [he _ hw]⟩
  unfold freeEntries
  refine List.filter_congr (fun e _ => ?_)
  simp only [List.contains_eq_mem, hmem]

theorem newEntry_modWarp (c : Ctx) (s : State) (f : Warp → Warp) (hc : ∀ wp, (f wp).core = wp.core) (hb : ∀ wp, (f wp).blk = wp.blk)
    (he : ∀ wp, tget s.warps c.w = some wp → (f wp).splits.map (·.ent) = wp.splits.map (·.ent)) :
    newEntry c (s.modWarp c.w f) = newEntry c s := by
  have hheld (wp : Warp) : wp.held = ((wp.splits.map (·.ent)).filter (fun e => decide (e ≤ 64))).length := by
    rw [List.filter_map, List.length_map]; rfl
  unfold newEntry freeEntry
  rw [freeEntries_modWarp s c.w c.core f hc hb he, State.modWarp_warps, tget_tmod_self]
  cases hw : tget s.warps c.w with
  | none => rfl
  | some wp => simp only [Option.map_some, hheld, he wp hw]

/-- A new entry is none of the warp's own. -/
theorem newEntry_fresh {c : Ctx} {s : State} {wp : Warp} {e : Nat} (hw : tget s.warps c.w = some wp) (hc : wp.core = c.core)
    (hp : s.placed wp.blk = true) (h : newEntry c s = some e) : ∀ sp ∈ wp.splits, sp.ent ≠ e := by
  rintro sp hsp rfl
  unfold newEntry at h
  rw [hw] at h
  dsimp only at h
  split at h
  · cases h
  · have hm := List.mem_of_mem_head? h
    unfold freeEntries at hm
    obtain ⟨-, hu⟩ := List.mem_filter.mp hm
    have hin : (c.w, wp) ∈ s.warpsOfCore c.core := List.mem_filter.mpr ⟨mem_of_tget hw, by simp [hc, hp]⟩
    have hu : ∀ k wq, (k, wq) ∈ s.warpsOfCore c.core → ∀ x ∈ wq.splits, ¬ x.ent = sp.ent := by simpa using hu
    exact hu c.w wp hin sp hsp rfl

/-! ### A split of a warp replaced by another of its entry -/

theorem split?_modSplit_const {wp : Warp} {e : Nat} {sp y : Split} (h : wp.split? e = some sp) (hy : y.ent = e) :
    (wp.modSplit e (fun _ => y)).split? e = some y := by
  have he : sp.ent = e := by simpa using List.find?_some h
  rw [split?_map (g := fun x => if x.ent = e then y else x) rfl (fun x => by split <;> simp [*]), h]
  simp [he]

theorem ents_modSplit_const (wp : Warp) {e : Nat} {y : Split} (hy : y.ent = e) :
    (wp.modSplit e (fun _ => y)).splits.map (·.ent) = wp.splits.map (·.ent) := by
  simp only [Warp.modSplit, List.map_map]
  refine List.map_congr_left (fun sp _ => ?_)
  simp only [Function.comp_apply]
  split
  · next h => rw [h, hy]
  · rfl

/-! ### Frames whose splits have not all come -/

/-- Every frame of the warp has a split that is still under way. -/
def Warp.Unmet (wp : Warp) : Prop := ∀ sp ∈ wp.sides, ∀ fr ∈ sp.joins, wp.unmet fr.tag = true

theorem Warp.Unmet.ripe {wp : Warp} (h : wp.Unmet) : wp.ripe = none := by
  unfold Warp.ripe
  refine List.find?_eq_none.mpr (fun tag ht => ?_)
  obtain ⟨sp, hsp, htag⟩ := List.mem_flatMap.mp (List.mem_eraseDups.mp ht)
  obtain ⟨fr, hfr, rfl⟩ := List.mem_map.mp htag
  simp [h sp hsp fr hfr]

/-- Then nothing settles. -/
theorem Warp.Unmet.settle {wp : Warp} (h : wp.Unmet) (hs : wp.starved = []) (hne : wp.splits ≠ []) (now tick start : Nat) (new : Option Nat)
    (fuel : Nat) (freed : List Nat) : Warp.settle now tick start new (fuel + 1) wp freed = wp := by
  rw [Warp.settle, h.ripe]
  simp [hs, hne]

theorem unmet_of_split {wp : Warp} {sp : Split} {tag : Nat} (h : sp ∈ wp.splits) (hh : sp.holds tag = true) (hw : sp.waitsAt tag = false) :
    wp.unmet tag = true := by
  simp only [Warp.unmet, Bool.or_eq_true, List.any_eq_true]
  exact .inl ⟨sp, List.mem_append_left _ h, by simp [hh, hw]⟩

theorem holds_of_mem {sp : Split} {fr : Frame} (h : fr ∈ sp.joins) : sp.holds fr.tag = true := by
  simp only [Split.holds, List.any_eq_true, decide_eq_true_eq]
  exact ⟨fr, h, rfl⟩

/-- A warp none of whose splits meets another, and that has no other sides. -/
theorem unmet_of_apart {wp : Warp} (h : Apart wp) : wp.Unmet := by
  obtain ⟨hw, hp, hs⟩ := h
  intro sp hsp fr hfr
  have hsp : sp ∈ wp.splits := by simpa [Warp.sides, hp, hs] using hsp
  exact unmet_of_split hsp (holds_of_mem hfr) (hw sp hsp fr.tag)

/-! ### Dividing -/

section
variable {c : Ctx} {st : State} {wp : Warp} {sp : Split} {x : Side} {r : List Side} {tag : Option Nat}

theorem divide_cons (hw : tget st.warps c.w = some wp) (hsp : wp.split? c.ent = some sp) :
    divide c tag (x :: r) st = r.foldl (addSide c sp tag) (st.modSplit c.w c.ent (fun _ => x.split c sp)) := by
  simp only [divide, hw, Option.bind_some, hsp]

/-- The warp whose issuing split has become its first side. -/
def Warp.turned (wp : Warp) (c : Ctx) (sp : Split) (x : Side) : Warp := wp.modSplit c.ent (fun _ => x.split c sp)

theorem turned_split? (hsp : wp.split? c.ent = some sp) : (wp.turned c sp x).split? c.ent = some (x.split c sp) :=
  split?_modSplit_const hsp (by simpa [Side.split] using List.find?_some hsp)

theorem tget_turned (hw : tget st.warps c.w = some wp) :
    tget (st.modSplit c.w c.ent (fun _ => x.split c sp)).warps c.w = some (wp.turned c sp x) := by
  rw [State.modSplit_warps, tget_tmod_self, hw]; rfl

/-- A split that divides into one side goes on as it. -/
theorem goesTo_divide_one (hw : tget st.warps c.w = some wp) (hsp : wp.split? c.ent = some sp) (hx : x.wait = none) :
    GoesTo c (divide c tag [x] st) c.ent x.mask x.pc x.joins x.rets := by
  refine ⟨x.split c sp, ?_, rfl, rfl, rfl, rfl, hx⟩
  rw [divide_cons hw hsp]
  simp only [List.foldl_nil, splitAt, tget_turned hw, Option.bind_some, turned_split? hsp]

theorem mem_of_split? {e : Nat} (h : wp.split? e = some sp) : sp ∈ wp.splits := List.mem_of_find?_eq_some h

theorem mem_turned {y : Split} (h : y ∈ (wp.turned c sp x).splits) : y = x.split c sp ∨ y ∈ wp.splits := by
  obtain ⟨z, hz, rfl⟩ := List.mem_map.mp h
  split
  · exact .inl rfl
  · exact .inr hz

/-- The frames of a warp whose issuing split becomes a side that waits for none. -/
theorem unmet_turned (ha : Apart wp) (hx : x.wait = none) : (wp.turned c sp x).Unmet := by
  obtain ⟨hm, hp, hs⟩ := ha
  refine unmet_of_apart ⟨fun y hy k => ?_, hp, hs⟩
  obtain rfl | hy := mem_turned hy
  · simp [Split.waitsAt, Side.split, hx]
  · exact hm y hy k

/-! ### More sides than one -/

/-- The warp with a side more: in an entry, or parked. -/
def Warp.withSide (wp : Warp) (tag : Nat) (new : Option Nat) (n : Split) : Warp :=
  match new with
  | some e => { wp with splits := wp.splits ++ [{ n with ent := e }] }
  | none => { wp with parked := wp.parked ++ [(tag, n)] }

theorem addSide_eq (k : Nat) (y : Side) (s : State) :
    addSide c sp (some k) s y = s.modWarp c.w (fun wp => wp.withSide k (newEntry c s) (y.split c sp)) := by
  unfold addSide
  cases newEntry c s <;> rfl

theorem unmet_withSide_of_unmet {k t : Nat} {new : Option Nat} {n : Split} (h : wp.unmet t = true) : (wp.withSide k new n).unmet t = true := by
  simp only [Warp.unmet, Bool.or_eq_true, List.any_eq_true] at h ⊢
  cases new with
  | some e =>
    refine h.imp (fun ⟨y, hy, hq⟩ => ⟨y, ?_, hq⟩) id
    simp only [Warp.withSide, List.mem_append] at hy ⊢
    tauto
  | none => exact h.imp id (fun ⟨p, hp, hq⟩ => ⟨p, List.mem_append_left _ hp, hq⟩)

theorem Warp.Unmet.withSide {k : Nat} {new : Option Nat} {n : Split} (h : wp.Unmet) (hn : ∀ fr ∈ n.joins, wp.unmet fr.tag = true) :
    (wp.withSide k new n).Unmet := by
  intro y hy fr hfr
  refine unmet_withSide_of_unmet ?_
  have hy : y ∈ wp.sides ∨ y.joins = n.joins := by
    cases new with
    | some e =>
      simp only [Warp.sides, Warp.withSide, List.mem_append, List.mem_singleton] at hy ⊢
      obtain ((hy | rfl) | hy) | hy := hy
      · tauto
      · exact .inr rfl
      · tauto
      · tauto
    | none =>
      simp only [Warp.sides, Warp.withSide, List.mem_append, List.map_append, List.map_cons, List.map_nil, List.mem_singleton] at hy ⊢
      obtain (hy | hy | rfl) | hy := hy
      · tauto
      · tauto
      · exact .inr rfl
      · tauto
  cases hy with
  | inl hy => exact h y hy fr hfr
  | inr hj => exact hn fr (hj ▸ hfr)

theorem withSide_prefix (k : Nat) (new : Option Nat) (n : Split) : wp.splits <+: (wp.withSide k new n).splits := by
  cases new with
  | some e => exact List.prefix_append ..
  | none => exact List.prefix_refl _

/-- Further sides under frames that the warp's splits have not all met leave its splits in front, and nothing to settle. -/
theorem foldl_addSide {k : Nat} {s : State} (hw : tget s.warps c.w = some wp) (hu : wp.Unmet) (hs : wp.starved = [])
    (hr : ∀ y ∈ r, ∀ fr ∈ y.joins, wp.unmet fr.tag = true) :
    ∃ wq, tget (r.foldl (addSide c sp (some k)) s).warps c.w = some wq ∧ wq.Unmet ∧ wq.starved = [] ∧ wp.splits <+: wq.splits := by
  induction r generalizing s wp with
  | nil => exact ⟨wp, hw, hu, hs, List.prefix_refl _⟩
  | cons y ys ih =>
    obtain ⟨hy, hys⟩ := List.forall_mem_cons.mp hr
    have hw' : tget (addSide c sp (some k) s y).warps c.w = some (wp.withSide k (newEntry c s) (y.split c sp)) := by
      rw [addSide_eq, State.modWarp_warps, tget_tmod_self, hw]; rfl
    obtain ⟨wq, hwq, hq, hqs, hpre⟩ := ih hw' (hu.withSide hy) (by cases newEntry c s <;> exact hs)
      (fun z hz fr hfr => unmet_withSide_of_unmet (hys z hz fr hfr))
    exact ⟨wq, hwq, hq, hqs, (withSide_prefix ..).trans hpre⟩

theorem split?_of_prefix {wq : Warp} {e : Nat} (h : wp.split? e = some sp) (hp : wp.splits <+: wq.splits) : wq.split? e = some sp := by
  obtain ⟨l, hl⟩ := hp
  unfold Warp.split? at h ⊢
  rw [← hl, List.find?_append, h]
  rfl

theorem settle_warp {fr : List Nat} {s : State} (hw : tget s.warps c.w = some wp) (hu : wp.Unmet) (hs : wp.starved = []) (hne : wp.splits ≠ []) :
    tget (settle c fr s).warps c.w = some wp := by
  unfold Machine.settle
  rw [State.modWarp_warps, tget_tmod_self, hw, Option.map_some, hu.settle hs hne]

/-! ### A division under a new frame (R248) -/

/-- A side under a new frame. -/
def Side.under (fr : Frame) (x : Side) : Side := { x with joins := fr :: x.joins }

/-- The warp that has used up a tag. -/
def Warp.tagged (wp : Warp) : Warp := { wp with nextTag := wp.nextTag + 1 }

theorem tget_useTag (hw : tget st.warps c.w = some wp) : tget (useTag c st).warps c.w = some wp.tagged := by
  rw [useTag, State.modWarp_warps, tget_tmod_self, hw]; rfl

theorem newEntry_useTag (c : Ctx) (s : State) : newEntry c (useTag c s) = newEntry c s :=
  newEntry_modWarp c s _ (fun _ => rfl) (fun _ => rfl) (fun _ _ => rfl)

theorem diverge_eq (j : BitVec 8) (ret : Option DWord) (sides : List Side) (hl : c.split.joins.length < 16) :
    diverge c j ret sides st =
      .done (settle c [] (divide c (some c.newTag) (sides.map (Side.under ⟨j, c.newTag, ret⟩)) (useTag c st))) :=
  if_neg (by omega)

theorem diverge_deep (j : BitVec 8) (ret : Option DWord) (sides : List Side) (hl : 16 ≤ c.split.joins.length) :
    diverge c j ret sides st = .trap 0x10 c.split.mask [] none := if_pos hl

theorem apart_tagged (ha : Apart wp) : Apart wp.tagged := ha

/-- The frames that the first side holds are those of every side, so none of them has met. -/
theorem unmet_of_first {wq : Warp} (hsp : wq.split? c.ent = some (x.split c sp)) (hx : x.wait = none) {y : Side} (hj : y.joins = x.joins) :
    ∀ fr ∈ y.joins, wq.unmet fr.tag = true := by
  intro fr hfr
  have hfr : fr ∈ (x.split c sp).joins := by rw [hj] at hfr; exact hfr
  exact unmet_of_split (mem_of_split? hsp) (holds_of_mem hfr) (by simp [Split.waitsAt, Side.split, hx])

/-- The first of the sides keeps the issuing entry and goes on under the new frame. -/
theorem goesTo_diverge (hw : tget st.warps c.w = some wp) (hsp : wp.split? c.ent = some sp) (ha : Apart wp)
    (hl : c.split.joins.length < 16) (hx : x.wait = none) (hr : ∀ y ∈ r, y.joins = x.joins) (j : BitVec 8) (ret : Option DWord) :
    ∃ t, diverge c j ret (x :: r) st = .done t ∧ GoesTo c t c.ent x.mask x.pc (⟨j, c.newTag, ret⟩ :: x.joins) x.rets := by
  have hw' := tget_useTag hw
  have hsp' : wp.tagged.split? c.ent = some sp := hsp
  let fr : Frame := ⟨j, c.newTag, ret⟩
  have hsplit := turned_split? (x := x.under fr) hsp'
  obtain ⟨wq, hwq, hu, hst, hpre⟩ := foldl_addSide (sp := sp) (r := r.map (Side.under fr)) (k := c.newTag) (tget_turned (x := x.under fr) hw')
    (unmet_turned (apart_tagged ha) hx) ha.2.2 (fun y hy => by
      obtain ⟨z, hz, rfl⟩ := List.mem_map.mp hy
      exact unmet_of_first hsplit hx (by simp [Side.under, hr z hz]))
  have hq := split?_of_prefix hsplit hpre
  refine ⟨_, diverge_eq j ret _ hl, (x.under fr).split c sp, ?_, rfl, rfl, rfl, rfl, hx⟩
  rw [List.map_cons, divide_cons hw' hsp', splitAt, settle_warp hwq hu hst (List.ne_nil_of_mem (mem_of_split? hq))]
  exact hq

/-- With two sides, the second stands in the new entry, or parked under the frame's tag. -/
theorem diverge_two {y : Side} (hw : tget st.warps c.w = some wp) (hsp : wp.split? c.ent = some sp) (ha : Apart wp)
    (hl : c.split.joins.length < 16) (hx : x.wait = none) (hy : y.joins = x.joins) (j : BitVec 8) (ret : Option DWord) :
    ∃ t, diverge c j ret [x, y] st = .done t ∧ tget t.warps c.w =
      some ((wp.tagged.turned c sp (x.under ⟨j, c.newTag, ret⟩)).withSide c.newTag (newEntry c st) ((y.under ⟨j, c.newTag, ret⟩).split c sp)) := by
  have hw' := tget_useTag hw
  have hsp' : wp.tagged.split? c.ent = some sp := hsp
  let fr : Frame := ⟨j, c.newTag, ret⟩
  have hsplit := turned_split? (x := x.under fr) hsp'
  have hnew : newEntry c ((useTag c st).modSplit c.w c.ent (fun _ => (x.under fr).split c sp)) = newEntry c st := by
    refine (newEntry_modWarp c _ (·.modSplit c.ent (fun _ => (x.under fr).split c sp)) (fun _ => rfl) (fun _ => rfl) (fun wq _ => ?_)).trans (newEntry_useTag c st)
    exact ents_modSplit_const wq (by simpa [Side.split] using List.find?_some hsp)
  refine ⟨_, diverge_eq j ret _ hl, ?_⟩
  rw [List.map_cons, divide_cons hw' hsp', List.map_cons, List.map_nil, List.foldl_cons, List.foldl_nil, addSide_eq, hnew]
  have hside : tget (((useTag c st).modSplit c.w c.ent (fun _ => (x.under fr).split c sp)).modWarp c.w
      (fun wp => wp.withSide c.newTag (newEntry c st) ((y.under fr).split c sp))).warps c.w =
      some ((wp.tagged.turned c sp (x.under fr)).withSide c.newTag (newEntry c st) ((y.under fr).split c sp)) := by
    rw [State.modWarp_warps, tget_tmod_self, tget_turned hw', Option.map_some]
  have hu : ((wp.tagged.turned c sp (x.under fr)).withSide c.newTag (newEntry c st) ((y.under fr).split c sp)).Unmet :=
    (unmet_turned (x := x.under fr) (apart_tagged ha) hx).withSide (unmet_of_first (y := y.under fr) hsplit hx (congrArg (fr :: ·) hy))
  exact settle_warp hside hu (by cases newEntry c st <;> exact ha.2.2)
    (List.ne_nil_of_mem (mem_of_split? (split?_of_prefix hsplit (withSide_prefix ..))))

end
end Sys2Proof.Machine
end

section
/-! SUPPORT. Branches (R247 to R251). -/
namespace Sys2Proof.Machine
open Sys2Proof Sys2Proof.Claims

section
variable {s st t : State} {f : Fr} {n : Names} {lat : Option (Nat × Nat)} {early : Ctx → Option Nat} {c : Ctx} {wp : Warp} {sp : Split}
  {body : Ctx → State → Body}

theorem controlOp_done (h : Issues s f n lat noEarly c) (hb : body c (passed c f n) = .done t) : controlOp f n lat body s = .next t :=
  issue_done h hb

theorem controlOp_trap {k : Nat} {m : BitVec 32} {a : List (Nat × DWord)} {g : Option Word} (h : Issues s f n lat noEarly c)
    (hb : body c (passed c f n) = .trap k m a g) : controlOp f n lat body s = .next (raiseTrap c f k m a g) := issue_trap h hb

/-- In `st` the issuer's warp is `wp`, on its core and in its place, its split is `sp`, and no other side of it has changed its wait. -/
structure Stands (c : Ctx) (st : State) (wp : Warp) (sp : Split) : Prop where
  warp : tget st.warps c.w = some wp
  split : wp.split? c.ent = some sp
  core : wp.core = c.core
  placed : st.placed wp.blk = true
  apart : Apart c.warp → Apart wp

theorem apart_modSplit {g : Split → Split} (hg : ∀ sp k, sp.waitsAt k = false → (g sp).waitsAt k = false) (e : Nat) (h : Apart wp) :
    Apart (wp.modSplit e g) := by
  obtain ⟨hm, hp, hs⟩ := h
  refine ⟨fun y hy k => ?_, hp, hs⟩
  obtain ⟨z, hz, rfl⟩ := List.mem_map.mp hy
  split
  · exact hg z k (hm z hz k)
  · exact hm z hz k

theorem passed_placed (c : Ctx) (f : Fr) (n : Names) (b : Nat) : (passed c f n).placed b = c.pre.placed b := by
  simp [State.placed, passed, minimumNext]

theorem Issues.stands (h : Issues s f n lat early c) (n' : Names) : ∃ wp, Stands c (passed c f n') wp (movedOn c f n' c.split) := by
  obtain ⟨ctrs, flights, hw⟩ := h.passed_warp n'
  refine ⟨_, hw, ?_, rfl, ?_, fun ha => apart_modSplit (fun _ _ _ => rfl) c.ent ha⟩
  · exact (split?_modSplit_self c.warp c.ent).trans (by rw [h.split_eq]; rfl)
  · exact (passed_placed ..).trans h.placed

theorem Stands.putPend (h : Stands c st wp sp) (kvs : List (Nat × Word)) (due : Nat) :
    ∃ wq, Stands c (putPend c kvs due st) wq (addPend sp kvs due) := by
  have hw : tget (Machine.putPend c kvs due st).warps c.w =
      some { wp.modSplit c.ent (addPend · kvs due) with flights := dropFlight wp.flights (kvs.map (·.1)) } := by
    simp only [Machine.putPend, State.modWarp_warps, State.modSplit_warps, tget_tmod_self, h.warp]
    rfl
  refine ⟨_, hw, ?_, h.core, h.placed, fun ha => apart_modSplit (g := (addPend · kvs due)) (fun _ _ hw => hw) c.ent (h.apart ha)⟩
  exact (split?_modSplit_self wp c.ent).trans (by rw [h.split]; rfl)

/-! ### A branch of some threads -/

/-- What a branch of the threads `yes` does to the state that it leaves otherwise. -/
def branchTo (c : Ctx) (f : Fr) (off : Word) (j : BitVec 8) (yes : BitVec 32) (st : State) : Body :=
  let tk := c.takers yes
  let ft := c.split.mask &&& ~~~tk
  let a := c.side ft (c.nextPc f) false
  let b := c.side tk (c.split.pc + off.signExtend 64) true
  if tk = 0 then .done st
  else if ft = 0 then .done (divide c none [b] st)
  else diverge c j none (if (newEntry c st).isSome then [a, b] else [b, a]) st

theorem branches_of_branchTo {i : Instr} {off : Word} {j : BitVec 8} {yes : BitVec 32} (hst : Stands c st wp sp)
    (hd : ∀ t, branchTo c f off j yes st = .done t → exec i s = .next t)
    (ht : ∀ k m, branchTo c f off j yes st = .trap k m [] none → exec i s = .next (raiseTrap c f k m [] none)) :
    Branches i s c f off j yes st := by
  unfold Branches
  intro tk ft target fr
  have hdiv : tk ≠ 0 → ft ≠ 0 → branchTo c f off j yes st = diverge c j none
      (if (newEntry c st).isSome then [c.side ft (c.nextPc f) false, c.side tk target true]
        else [c.side tk target true, c.side ft (c.nextPc f) false]) st := fun h1 h2 => (if_neg h1).trans (if_neg h2)
  refine ⟨fun h0 => hd _ (if_pos h0), fun h1 h2 => ?all, fun e h1 h2 hl ha he => ?divides, fun h1 h2 hl ha he => ?parks, fun h1 h2 hl => ?deep⟩
  case all => exact ⟨_, hd _ ((if_neg h1).trans (if_pos h2)), goesTo_divide_one hst.warp hst.split rfl⟩
  case divides =>
    have ha := hst.apart ha
    obtain ⟨t, hdone, hw⟩ := diverge_two (x := c.side ft (c.nextPc f) false) (y := c.side tk target true) hst.warp hst.split ha hl rfl rfl j none
    obtain ⟨t', hdone', hgo⟩ := goesTo_diverge (x := c.side ft (c.nextPc f) false) (r := [c.side tk target true]) hst.warp hst.split ha hl rfl
      (by simp [Ctx.side]) j none
    obtain rfl : t = t' := by simpa [hdone] using hdone'
    refine ⟨t, hd t ((hdiv h1 h2).trans (by rw [he]; exact hdone)), hgo, ?_⟩
    have hfresh : ∀ y ∈ (wp.tagged.turned c sp ((c.side ft (c.nextPc f) false).under fr)).splits, y.ent ≠ e := by
      intro y hy
      have hin : y.ent ∈ wp.splits.map (·.ent) := by
        rw [← ents_modSplit_const wp (e := c.ent) (y := ((c.side ft (c.nextPc f) false).under fr).split c sp)
          (by simpa [Side.split] using List.find?_some hst.split)]
        exact List.mem_map_of_mem hy
      obtain ⟨z, hz, hze⟩ := List.mem_map.mp hin
      exact hze ▸ newEntry_fresh hst.warp hst.core hst.placed he z hz
    refine ⟨{ ((c.side tk target true).under fr).split c sp with ent := e }, ?_, rfl, rfl, rfl, rfl, rfl⟩
    rw [splitAt, hw, he]
    simp only [Option.bind_some, Warp.split?, Warp.withSide, List.find?_append]
    rw [List.find?_eq_none.mpr (by simpa using hfresh)]
    simp [fr]
  case parks =>
    have ha := hst.apart ha
    obtain ⟨t, hdone, hw⟩ := diverge_two (y := c.side ft (c.nextPc f) false) (x := c.side tk target true) hst.warp hst.split ha hl rfl rfl j none
    obtain ⟨t', hdone', hgo⟩ := goesTo_diverge (r := [c.side ft (c.nextPc f) false]) (x := c.side tk target true) hst.warp hst.split ha hl rfl
      (by simp [Ctx.side]) j none
    obtain rfl : t = t' := by simpa [hdone] using hdone'
    refine ⟨t, _, ((c.side ft (c.nextPc f) false).under fr).split c sp, hd t ((hdiv h1 h2).trans (by rw [he]; exact hdone)), hgo, hw, ?_, rfl, rfl, rfl⟩
    rw [he]
    exact congrArg (· ++ [(c.newTag, ((c.side ft (c.nextPc f) false).under fr).split c sp)]) ha.2.1
  case deep => exact ht _ _ ((hdiv h1 h2).trans (diverge_deep _ _ _ hl))

/-- A guard that is never true leaves no thread to branch. -/
theorem Issues.act_of_never (h : Issues s f n lat early c) (hg : f.g = 0 ∧ f.gn = true) : c.act = 0 := by
  rw [h.act_eq]; simp [Ctx.guardMask, hg.1, hg.2]

theorem takers_zero (c : Ctx) : c.takers 0 = 0 := by simp [Ctx.takers]

/-- A branch without a counter is `branchTo` of the active threads. -/
theorem branch_body_eq (h : Issues s f n lat early c) (off : Word) (j : BitVec 8) (st : State) :
    (if f.g = 0 ∧ f.gn then Body.done st else branchTo c f off j c.act st) = branchTo c f off j c.act st := by
  split
  · next hg => rw [h.act_of_never hg, branchTo, takers_zero]; rfl
  · rfl

/-- The value that BRA.dec counts down to in a thread. -/
def countedDown (c : Ctx) (x : Reg) (t : Nat) : Word := c.reg x.toNat (if c.uni then lowest c.split.mask else t) - 1

/-- The state in which BRA.dec has counted down. -/
def decState (c : Ctx) (x : Reg) (st : State) : State :=
  if x = 0 then st
  else Machine.putPend c ((threadsOf c.split.mask).map (fun t => (c.key x.toNat t, countedDown c x t))) (c.split.nd + c.lat 4 2) st

theorem Stands.decState (h : Stands c st wp sp) (x : Reg) : ∃ wq sq, Stands c (decState c x st) wq sq := by
  unfold Machine.decState
  split
  · exact ⟨wp, sp, h⟩
  · obtain ⟨wq, hq⟩ := h.putPend _ _
    exact ⟨wq, _, hq⟩

/-! ### BRX (R251) -/

theorem exec_bra_eq (f : Fr) (off : Word) (j : BitVec 8) (s : State) : exec (.bra f off j) s =
    controlOp f noNames none (fun c st => if f.g = 0 ∧ f.gn then .done st else branchTo c f off j c.act st) s := rfl

theorem exec_braDec_eq (f : Fr) (x : Reg) (off : Word) (j : BitVec 8) (s : State) : exec (.braDec f x off j) s =
    controlOp f ⟨none, none, some (x.toNat, 1), [(x.toNat, 1)]⟩ (some (4, 2)) (fun c st =>
      if f.g = 0 ∧ f.gn then .done st
      else branchTo c f off j (maskOf (c.threads.filter (fun t => decide (countedDown c x t ≠ 0)))) (decState c x st)) s := rfl

end

/-! ### Threads grouped by target (R251) -/

theorem eraseDups_of_forall_eq {α : Type} [BEq α] [LawfulBEq α] {a : α} {l : List α} (hne : l ≠ []) (h : ∀ x ∈ l, x = a) :
    l.eraseDups = [a] := by
  cases l with
  | nil => exact absurd rfl hne
  | cons x r =>
    obtain ⟨rfl, hr⟩ := List.forall_mem_cons.mp h
    rw [List.eraseDups_cons, List.filter_eq_nil_iff.mpr (fun y hy => by simp [hr y hy])]
    rfl

theorem threadsOf_ne_nil {m : BitVec 32} (h : m ≠ 0) : threadsOf m ≠ [] := by
  intro hn
  apply h
  rw [← maskOf_threadsOf m, hn]
  rfl

/-- Threads with one target are one group. -/
theorem groupTargets_one {target : Nat → DWord} {m : BitVec 32} {pc : DWord} (hm : m ≠ 0) (h : ∀ t ∈ threadsOf m, target t = pc) :
    groupTargets target (threadsOf m) = [(pc, m)] := by
  have hk : ((threadsOf m).map (fun t => (target t).toNat)).eraseDups = [pc.toNat] :=
    eraseDups_of_forall_eq (by simpa using threadsOf_ne_nil hm) (fun x hx => by
      obtain ⟨t, ht, rfl⟩ := List.mem_map.mp hx
      rw [h t ht])
  have hf : (threadsOf m).filter (fun t => decide ((target t).toNat = pc.toNat)) = threadsOf m :=
    List.filter_eq_self.mpr (fun t ht => by simp [h t ht])
  simp only [groupTargets, hk]
  show [(BitVec.ofNat 64 pc.toNat, maskOf ((threadsOf m).filter (fun t => decide ((target t).toNat = pc.toNat))))] = _
  rw [hf, maskOf_threadsOf, BitVec.ofNat_toNat, BitVec.setWidth_eq]

/-- Settles O24: the sides of a branch are those of `divide` and `diverge`, and nothing settles while no split meets another. -/
theorem branching : Obligations.Branching := by
  unfold Obligations.Branching
  intro f s c
  refine ⟨fun v h => ?nop, fun off j h => ?bra, fun x off j => ?braDec, fun a j => ?brx⟩
  case nop =>
    rw [exec_nop, execNop]
    exact controlOp_done h rfl
  case bra =>
    obtain ⟨wp, hst⟩ := h.stands noNames
    refine branches_of_branchTo hst (fun t ht => ?_) (fun k m ht => ?_)
    · rw [exec_bra_eq]
      exact controlOp_done h ((branch_body_eq h off j _).trans ht)
    · rw [exec_bra_eq]
      exact controlOp_trap h ((branch_body_eq h off j _).trans ht)
  case braDec =>
    intro n down h
    rw [exec_braDec_eq]
    refine ⟨fun hg hgn => controlOp_done h (if_pos ⟨hg, hgn⟩), fun hg => ?_⟩
    obtain ⟨wp, hst⟩ := h.stands n
    obtain ⟨wq, sq, hq⟩ := hst.decState x
    refine branches_of_branchTo hq (fun t ht => ?_) (fun k m ht => ?_)
    · rw [exec_braDec_eq]
      exact controlOp_done h ((if_neg hg).trans ht)
    · rw [exec_braDec_eq]
      exact controlOp_trap h ((if_neg hg).trans ht)
  case brx =>
    intro n h tk target
    rw [exec_brx, execBrx]
    obtain ⟨wp, hst⟩ := h.stands n
    refine ⟨fun pc hm ht => ?_, fun pc m g gs hg hl ha => ?_⟩
    · refine ⟨_, controlOp_done h ?_, goesTo_divide_one (tag := none) (x := c.side c.split.mask pc (decide (c.split.mask &&& tk ≠ 0))) hst.warp hst.split rfl⟩
      dsimp only
      rw [groupTargets_one hm ht]
      rfl
    · obtain ⟨t, hd, hgo⟩ := goesTo_diverge (x := c.side m pc (decide (m &&& tk ≠ 0)))
        (r := (g :: gs).map (fun g => c.side g.2 g.1 (decide (g.2 &&& tk ≠ 0)))) hst.warp hst.split (hst.apart ha) hl rfl
        (fun y hy => by obtain ⟨g, -, rfl⟩ := List.mem_map.mp hy; rfl) j none
      refine ⟨t, controlOp_done h ?_, hgo⟩
      dsimp only
      rw [hg]
      exact hd

end Sys2Proof.Machine
end

section
/-! SUPPORT. Calls and returns (R252 to R255). -/
namespace Sys2Proof.Machine
open Sys2Proof Sys2Proof.Claims

/-! ### Writes at the home -/

theorem setBytes_eq (s : State) (l : Loc) (bs : List Byte) : ∃ m, s.setBytes l bs = { s with mem := m } := by
  induction bs generalizing s l with
  | nil => exact ⟨s.mem, rfl⟩
  | cons b bs ih =>
    obtain ⟨m, hm⟩ := ih (s.setByte l b) (l.add 1)
    exact ⟨m, hm⟩

/-- A write at the home changes only memory and clears poison. -/
theorem homeWrite_eq (s : State) (l : Loc) (bs : List Byte) : ∃ m p, homeWrite s l bs = { s with mem := m, poison := p } := by
  obtain ⟨m, hm⟩ := setBytes_eq s l bs
  unfold homeWrite
  rw [hm]
  dsimp only
  split
  · exact ⟨m, s.poison, rfl⟩
  · exact ⟨m, _, rfl⟩

theorem foldl_homeWrite_eq (as : List Acc) (bs : Acc → List Byte) (s : State) :
    ∃ m p, as.foldl (fun s a => homeWrite s a.loc (bs a)) s = { s with mem := m, poison := p } := by
  induction as generalizing s with
  | nil => exact ⟨s.mem, s.poison, rfl⟩
  | cons a as ih =>
    obtain ⟨m1, p1, h1⟩ := homeWrite_eq s a.loc (bs a)
    obtain ⟨m, p, h⟩ := ih (homeWrite s a.loc (bs a))
    exact ⟨m, p, by rw [List.foldl_cons, h, h1]⟩

theorem setBytes_mem_congr {s t : State} (h : s.mem = t.mem) (l : Loc) (bs : List Byte) : (s.setBytes l bs).mem = (t.setBytes l bs).mem := by
  induction bs generalizing s t l with
  | nil => exact h
  | cons b bs ih => exact ih (by rw [State.setByte_mem, State.setByte_mem, h]) _

/-- What writes at the home leave in memory depends on the memory alone. -/
theorem foldl_homeWrite_mem_congr (as : List Acc) (bs : Acc → List Byte) {s t : State} (h : s.mem = t.mem) :
    (as.foldl (fun s a => homeWrite s a.loc (bs a)) s).mem = (as.foldl (fun s a => homeWrite s a.loc (bs a)) t).mem := by
  induction as generalizing s t with
  | nil => exact h
  | cons a as ih => exact ih (by rw [homeWrite_mem, homeWrite_mem]; exact setBytes_mem_congr h _ _)

theorem passed_mem (c : Ctx) (f : Fr) (n : Names) : (passed c f n).mem = c.pre.mem := by simp [passed, minimumNext]

theorem putPend_mem (c : Ctx) (kvs : List (Nat × Word)) (due : Nat) (s : State) : (Machine.putPend c kvs due s).mem = s.mem := rfl

/-! ### Sides after a spill or a reload -/

section
variable {s st t : State} {f : Fr} {n : Names} {lat : Option (Nat × Nat)} {early : Ctx → Option Nat} {c : Ctx} {wp : Warp} {sp : Split}
  {x : Side}

theorem Stands.foldl_homeWrite (h : Stands c st wp sp) (as : List Acc) (bs : Acc → List Byte) :
    Stands c (as.foldl (fun s a => homeWrite s a.loc (bs a)) st) wp sp := by
  obtain ⟨m, p, he⟩ := foldl_homeWrite_eq as bs st
  rw [he]
  exact ⟨h.warp, h.split, h.core, h.placed, h.apart⟩

theorem splitAt_divide_one (h : Stands c st wp sp) {tag : Option Nat} : splitAt (divide c tag [x] st) c.w c.ent = some (x.split c sp) := by
  rw [divide_cons h.warp h.split]
  simp only [List.foldl_nil, splitAt, tget_turned h.warp, Option.bind_some, turned_split? h.split]

theorem divide_mem {tag : Option Nat} (h : Stands c st wp sp) : (divide c tag [x] st).mem = st.mem := by
  rw [divide_cons h.warp h.split]
  rfl

/-- The lone side of a split whose warp holds no other frames settles nothing. -/
theorem splitAt_settle_divide_one (h : Stands c st wp sp) (ha : Apart c.warp) (hx : x.wait = none) {tag : Option Nat} :
    splitAt (settle c [] (divide c tag [x] st)) c.w c.ent = some (x.split c sp) := by
  rw [splitAt, settle_warp (c := c) (wp := wp.turned c sp x) (by rw [divide_cons h.warp h.split]; exact tget_turned h.warp)
    (unmet_turned (h.apart ha) hx) (h.apart ha).2.2 (List.ne_nil_of_mem (mem_of_split? (turned_split? h.split)))]
  exact turned_split? h.split

theorem key_mod (c : Ctx) (r : Nat) {l : Nat} (hl : l < 32) : c.key r l % 32 = l := by
  simp only [Ctx.key, regKey]
  omega

/-- v1 moved is in flight in every thread of a side that holds it. -/
theorem mem_pend_moveV1 {due : Nat} {g : Nat → Word} {ts : List Nat} {l : Nat} (hl : l ∈ ts) (hm : x.mask.getLsbD l = true) (h32 : l < 32) :
    ∃ p ∈ (x.split c (addPend sp (ts.map (fun t => (c.key 1 t, g t))) due)).pend, p.key = c.key 1 l ∧ p.val = g l := by
  refine ⟨⟨c.key 1 l, g l, due⟩, ?_, rfl, rfl⟩
  have hp : (⟨c.key 1 l, g l, due⟩ : Pend) ∈ (addPend sp (ts.map (fun t => (c.key 1 t, g t))) due).pend :=
    mem_addPend (x := (c.key 1 l, g l)) (List.mem_map.mpr ⟨l, hl, rfl⟩)
  exact List.mem_filter.mpr ⟨hp, by rw [key_mod c 1 h32]; exact hm⟩

/-! ### Calls -/

theorem and_not_self' (m : BitVec 32) : m &&& ~~~m = 0 := BitVec.and_not_self m

/-- What a call does to the state that it leaves otherwise. -/
def callBody (f : Fr) (target : Ctx → Nat → DWord) (c : Ctx) (st : State) : Body :=
  let tk := c.takers c.act
  if tk = 0 then .done st
  else
    match spillFirst c st with
    | .error (k, m, addrs) => .trap k m addrs none
    | .ok (rets, spilled, st) =>
      let ret := c.nextPc f
      let ft := c.split.mask &&& ~~~tk
      let gs := (groupTargets (target c) (threadsOf tk)).map (fun g => (g.2, g.1))
      let caller (g : BitVec 32 × DWord) : Side := ⟨g.1, g.2, c.split.joins, ret :: rets, spilled, none, true⟩
      let rest : List Side := match gs.drop 1 with
        | [] => []
        | l => [⟨l.foldl (fun m g => m ||| g.1) 0, ret, c.split.joins, rets, spilled, some (.callx c.newTag l), false⟩]
      let others : List Side := if ft = 0 then [] else [⟨ft, ret, c.split.joins, rets, spilled, some (.meet c.newTag), false⟩]
      match gs.take 1, rest ++ others with
      | [g], [] => .done (divide c none [caller g] st)
      | [g], l => diverge c 0 (some ret) (caller g :: l) st
      | _, _ => .done st

theorem callOp_eq (f : Fr) (n : Names) (target : Ctx → Nat → DWord) (s : State) :
    callOp f n target s = controlOp f n none (callBody f target) s := rfl

theorem spillFirst_short (h : c.split.rets.length < 16) : spillFirst c st = .ok (c.split.rets, c.split.spilled, st) := if_pos h

/-- One target for every thread: the split goes there with its return address pushed. -/
theorem callBody_one {target : Ctx → Nat → DWord} {pc : DWord} {rets : List DWord} {k : Nat} {st' : State} (htk : c.takers c.act = c.split.mask)
    (h0 : c.takers c.act ≠ 0) (ht : ∀ t ∈ threadsOf (c.takers c.act), target c t = pc) (hs : spillFirst c st = .ok (rets, k, st')) :
    callBody f target c st = .done (divide c none [⟨c.takers c.act, pc, c.split.joins, c.nextPc f :: rets, k, none, true⟩] st') := by
  have hft : c.split.mask &&& ~~~ c.takers c.act = 0 := by rw [htk]; exact and_not_self' _
  rw [callBody]
  dsimp only
  rw [if_neg h0, hs]
  dsimp only
  rw [groupTargets_one h0 ht, hft]
  rfl

/-- Several targets, or threads that stay: the lowest target's threads go first, under a frame that meets at the return address. -/
theorem callBody_many {target : Ctx → Nat → DWord} {pc : DWord} {m : BitVec 32} {gs : List (DWord × BitVec 32)} (h : Stands c st wp sp)
    (ha : Apart c.warp) (hg : groupTargets (target c) (threadsOf (c.takers c.act)) = (pc, m) :: gs) (h0 : c.takers c.act ≠ 0)
    (hmore : gs ≠ [] ∨ c.split.mask &&& ~~~ c.takers c.act ≠ 0) (hr : c.split.rets.length < 16) (hl : c.split.joins.length < 16) :
    ∃ t, callBody f target c st = .done t ∧
      GoesTo c t c.ent m pc (⟨0, c.newTag, some (c.nextPc f)⟩ :: c.split.joins) (c.nextPc f :: c.split.rets) := by
  let caller : Side := ⟨m, pc, c.split.joins, c.nextPc f :: c.split.rets, c.split.spilled, none, true⟩
  have key (y : Side) (l : List Side) (hy : ∀ z ∈ y :: l, z.joins = c.split.joins)
      (he : callBody f target c st = diverge c 0 (some (c.nextPc f)) (caller :: y :: l) st) :
      ∃ t, callBody f target c st = .done t ∧
        GoesTo c t c.ent m pc (⟨0, c.newTag, some (c.nextPc f)⟩ :: c.split.joins) (c.nextPc f :: c.split.rets) := by
    rw [he]
    exact goesTo_diverge (x := caller) h.warp h.split (h.apart ha) hl rfl hy 0 (some (c.nextPc f))
  have hb : callBody f target c st = _ := (if_neg h0).trans (by rw [spillFirst_short hr])
  dsimp only at hb
  rw [hg] at hb
  cases gs with
  | nil =>
    have hft := hmore.resolve_left (fun h => h rfl)
    rw [if_neg hft] at hb
    exact key _ [] (by simp) hb
  | cons g gs =>
    by_cases hft : c.split.mask &&& ~~~ c.takers c.act = 0
    · rw [if_pos hft] at hb
      exact key _ [] (by simp) hb
    · rw [if_neg hft] at hb
      exact key _ [_] (by simp) hb

/-- A full stack spills its oldest return address below v1 (R254). -/
theorem spillFirst_full {as : List Acc} (hl : c.split.rets.length = 16) (hv : v1Early c = false)
    (hk : allOk ((threadsOf c.split.mask).map (fun t => (t, resolve c .lane .write false 8 8 t (c.stackEa true t)))) = some as) :
    spillFirst c st = .ok (c.split.rets.dropLast, c.split.spilled + 1,
      moveV1 c (threadsOf c.split.mask) false (as.foldl (fun st a => homeWrite st a.loc (toBytes 8 (c.split.rets.getLastD 0).toNat)) st)) := by
  rw [spillFirst, if_neg (by omega), hv]
  dsimp only
  rw [hk]
  rfl

/-! ### Threads that end (R256) -/

/-- The warp of a SETS that has taken effect. -/
theorem writeSr_warp (s : State) (w w' : Nat) (sr : SReg) (v : DWord) {wp : Warp} (h : tget s.warps w = some wp) :
    ∃ role tpc, tget (s.writeSr w' sr v).warps w = some { wp with role := role, tpc := tpc } := by
  have keep (g : Warp → Warp) (hg : ∀ x, ∃ role tpc, g x = { x with role := role, tpc := tpc }) :
      ∃ role tpc, tget (s.modWarp w' g).warps w = some { wp with role := role, tpc := tpc } := by
    rw [State.modWarp_warps, tget_tmod]
    split
    · next he =>
      obtain ⟨role, tpc, he'⟩ := hg wp
      exact ⟨role, tpc, by rw [← he, h, Option.map_some, he']⟩
    · exact ⟨wp.role, wp.tpc, h⟩
  unfold State.writeSr
  split
  · exact ⟨wp.role, wp.tpc, h⟩
  · dsimp only
    split
    case h_6 | h_7 => exact keep _ (fun x => ⟨_, _, rfl⟩)
    all_goals exact ⟨wp.role, wp.tpc, h⟩

theorem foldl_writeSr_warp (l : List SPend) (w w' : Nat) {s : State} {wp : Warp} (h : tget s.warps w = some wp) :
    ∃ role tpc, tget (l.foldl (fun s p => s.writeSr w' p.sr p.val) s).warps w = some { wp with role := role, tpc := tpc } := by
  induction l generalizing s wp with
  | nil => exact ⟨wp.role, wp.tpc, h⟩
  | cons p l ih =>
    obtain ⟨role, tpc, h'⟩ := writeSr_warp s w w' p.sr p.val h
    obtain ⟨role', tpc', h''⟩ := ih h'
    exact ⟨role', tpc', h''⟩

theorem foldl_foldl_writeSr_warp (l : List Split) (g : Split → List SPend) (w w' : Nat) {s : State} {wp : Warp} (h : tget s.warps w = some wp) :
    ∃ role tpc, tget (l.foldl (fun s sp => (g sp).foldl (fun s p => s.writeSr w' p.sr p.val) s) s).warps w =
      some { wp with role := role, tpc := tpc } := by
  induction l generalizing s wp with
  | nil => exact ⟨wp.role, wp.tpc, h⟩
  | cons x l ih =>
    obtain ⟨role, tpc, h'⟩ := foldl_writeSr_warp (g x) w w' h
    obtain ⟨role', tpc', h''⟩ := ih h'
    exact ⟨role', tpc', h''⟩

theorem landEnded_warp (w : Nat) (sps : List Split) (gone : BitVec 32) {s : State} {wp : Warp} (h : tget s.warps w = some wp) :
    ∃ role tpc, tget (landEnded w sps gone s).warps w = some { wp with role := role, tpc := tpc } := by
  unfold landEnded
  exact foldl_foldl_writeSr_warp _ _ w w (by rw [setRegs_warps]; exact h)

/-- The split without the threads that end. -/
def Split.without (gone : BitVec 32) (sp : Split) : Split := { sp with mask := sp.mask &&& ~~~gone }

/-- The splits that keep threads. -/
def leftOf (gone : BitVec 32) (l : List Split) : List Split := (l.map (Split.without gone)).filter (fun sp => decide (sp.mask ≠ 0))

/-- The warp from which threads have gone, before anything settles. -/
theorem endThreads_eq {gone : BitVec 32} (h : tget st.warps c.w = some wp) (hp : wp.parked = []) (hs : wp.starved = []) :
    ∃ s1 freed wq, endThreads c gone st = settle c freed s1 ∧ tget s1.warps c.w = some wq ∧ wq.splits = leftOf gone wp.splits ∧
      wq.parked = [] ∧ wq.starved = [] := by
  obtain ⟨role, tpc, hl⟩ := landEnded_warp c.w wp.sides gone h
  unfold endThreads
  rw [h]
  dsimp only
  refine ⟨_, _, _, rfl, by rw [State.modWarp_warps, tget_tmod_self, hl]; rfl, rfl, ?_, ?_⟩
  · simp [hp]
  · simp [hs]

/-- A warp without sides ends. -/
theorem settle_empty (hs : wp.splits = []) (hp : wp.parked = []) (hv : wp.starved = []) (now tick start : Nat) (new : Option Nat) (fuel : Nat)
    (freed : List Nat) : Warp.settle now tick start new (fuel + 1) wp freed = { wp with ending := true } := by
  have hr : wp.ripe = none := Warp.Unmet.ripe (fun sp hsp => by simp [Warp.sides, hs, hp, hv] at hsp)
  rw [Warp.settle, hr]
  simp [hv, hs]

theorem tget_settle (c : Ctx) (freed : List Nat) {s : State} (h : tget s.warps c.w = some wp) :
    tget (settle c freed s).warps c.w =
      some (Warp.settle c.pre.now c.tick (c.pre.now + c.stall plainFr * c.tick + c.transfer) (newEntry c s) 4096 wp freed) := by
  rw [Machine.settle, State.modWarp_warps, tget_tmod_self, h, Option.map_some]

/-- The last threads of a warp's only split end: the warp ends. -/
theorem endThreads_last (h : Issues s f n lat early c) (hs : c.warp.splits = [c.split]) (hp : c.warp.parked = []) (hv : c.warp.starved = []) :
    ∃ wp, tget (endThreads c c.split.mask (passed c f n)).warps c.w = some wp ∧ wp.splits = [] ∧ wp.ending = true := by
  obtain ⟨ctrs, flights, hw⟩ := h.passed_warp n
  obtain ⟨s1, freed, wq, he, hq, hqs, hqp, hqv⟩ := endThreads_eq (gone := c.split.mask) hw hp hv
  have hqs : wq.splits = [] := by
    rw [hqs]
    simp [leftOf, Split.without, Warp.modSplit, hs, h.split_ent, movedOn]
  exact ⟨{ wq with ending := true }, by rw [he, tget_settle c freed hq, settle_empty hqs hqp hqv], hqs, rfl⟩

theorem split?_leftOf {gone : BitVec 32} {wq : Warp} {e : Nat} (h : wp.split? e = some sp) (hq : wq.splits = leftOf gone wp.splits)
    (hm : sp.mask &&& ~~~gone ≠ 0) : wq.split? e = some (sp.without gone) := by
  obtain ⟨he, l1, l2, hl, hn⟩ := List.find?_eq_some_iff_append.mp h
  refine List.find?_eq_some_iff_append.mpr ⟨he, leftOf gone l1, leftOf gone l2, ?_, fun y hy => ?_⟩
  · have hkeep : decide ((sp.without gone).mask ≠ 0) = true := decide_eq_true hm
    simp only [hq, hl, leftOf, List.map_append, List.map_cons, List.filter_append, List.filter_cons, hkeep, if_true]
  · obtain ⟨z, hz, rfl⟩ := List.mem_map.mp (List.mem_of_mem_filter hy)
    exact hn z hz

/-- Some threads of a split end: it goes on with the others. -/
theorem endThreads_some {gone : BitVec 32} (h : Stands c st wp sp) (ha : Apart c.warp) (hm : sp.mask &&& ~~~gone ≠ 0) :
    splitAt (endThreads c gone st) c.w c.ent = some (sp.without gone) := by
  obtain ⟨hwait, hp, hv⟩ := h.apart ha
  obtain ⟨s1, freed, wq, he, hq, hqs, hqp, hqv⟩ := endThreads_eq (gone := gone) h.warp hp hv
  have hsplit := split?_leftOf h.split hqs hm
  have hu : wq.Unmet := unmet_of_apart ⟨fun y hy k => by
    rw [hqs] at hy
    obtain ⟨z, hz, rfl⟩ := List.mem_map.mp (List.mem_of_mem_filter hy)
    exact hwait z hz k, hqp, hqv⟩
  rw [he, splitAt, settle_warp hq hu hqv (List.ne_nil_of_mem (mem_of_split? hsplit))]
  exact hsplit

/-! ### Returns (R255) -/

/-- What a return of the threads `tk` to the sides `l` leaves. -/
def returned (c : Ctx) (f : Fr) (tk : BitVec 32) (l : List Side) (st : State) : State :=
  let ft := c.split.mask &&& ~~~tk
  settle c [] (divide c (c.split.joins.head?.map (·.tag))
    (sortBy (fun x => x.pc.toNat) (l ++ if ft = 0 then [] else [c.side ft (c.nextPc f) false])) st)

theorem returned_one (f : Fr) : returned c f c.split.mask [x] st = settle c [] (divide c (c.split.joins.head?.map (·.tag)) [x] st) := by
  unfold returned
  rw [and_not_self']
  rfl

/-- What a return does to the state that it leaves otherwise. -/
def retBody (f : Fr) (c : Ctx) (st : State) : Body :=
  let tk := c.takers c.act
  if tk = 0 then .done st
  else
    match c.split.rets with
    | target :: rets => .done (returned c f tk [meetRet ⟨tk, target, c.split.joins, rets, c.split.spilled, none, true⟩] st)
    | [] =>
      if c.split.spilled = 0 then .done (endThreads c tk st)
      else if v1Early c then .trap 0x06 c.split.mask [] none
      else
        let ts := threadsOf tk
        let chks := ts.map (fun t => (t, resolve c .lane .read false 8 8 t (c.stackEa false t)))
        match allOk chks with
        | none => .trap (firstBad chks).1 (firstBad chks).2 (ts.map (fun t => (t, c.stackEa false t))) none
        | some as =>
          let st := moveV1 c ts true st
          let target (t : Nat) : DWord :=
            match as.find? (fun a => decide (a.t = if c.uni then lowest c.split.mask else t)) with
            | some a => BitVec.ofNat 64 (ofBytes (st.bytes a.loc 8))
            | none => 0
          .done (returned c f tk ((groupTargets target ts).map (fun g =>
            meetRet ⟨g.2, g.1, c.split.joins, [], c.split.spilled - 1, none, true⟩)) st)

theorem exec_ret_eq (f : Fr) (s : State) : exec (.ret f) s = controlOp f noNames none (retBody f) s := rfl

theorem meetRet_self {x : Side} (h : ∀ fr ∈ x.joins.head?, fr.ret ≠ some x.pc) : meetRet x = x := by
  unfold meetRet
  split
  · next fr r hj => rw [if_neg (h fr (by rw [hj]; rfl))]
  · rfl

/-- An access that passes its checks is its thread's. -/
theorem resolve_t {spc : Space} {need : Need} {scaled : Bool} {size align t : Nat} {ea : DWord} {a : Acc}
    (h : resolve c spc need scaled size align t ea = .ok a) : a.t = t := by
  unfold resolve at h
  dsimp only at h
  repeat' split at h
  all_goals cases h <;> rfl

theorem forall_mem_allOk {l : List (Nat × Chk)} {as : List Acc} (h : allOk l = some as) (p : Nat × Chk) (hp : p ∈ l) :
    ∃ a ∈ as, p.2 = .ok a := by
  induction l generalizing as with
  | nil => cases hp
  | cons q l ih =>
    obtain ⟨k, _ | _⟩ := q
    case bad => cases h
    case ok a =>
      obtain ⟨as', h', rfl⟩ := Option.map_eq_some_iff.mp h
      cases List.mem_cons.mp hp with
      | inl he => exact ⟨a, List.mem_cons_self, by rw [he]⟩
      | inr hr =>
        obtain ⟨b, hb, he⟩ := ih h' hr
        exact ⟨b, List.mem_cons_of_mem _ hb, he⟩

theorem retBody_pop {pc : DWord} {r : List DWord} (htk : c.takers c.act = c.split.mask) (h0 : c.takers c.act ≠ 0) (hr : c.split.rets = pc :: r)
    (hm : ∀ fr ∈ c.split.joins.head?, fr.ret ≠ some pc) :
    retBody f c st = .done (settle c [] (divide c (c.split.joins.head?.map (·.tag)) [⟨c.takers c.act, pc, c.split.joins, r, c.split.spilled, none, true⟩] st)) := by
  rw [retBody]
  dsimp only
  rw [if_neg h0, hr]
  dsimp only
  rw [meetRet_self hm, htk, returned_one]

theorem lowest_mem {m : BitVec 32} (h : m ≠ 0) : lowest m ∈ threadsOf m := by
  unfold lowest
  cases hl : threadsOf m with
  | nil => exact absurd hl (threadsOf_ne_nil h)
  | cons t r => exact List.mem_cons_self

theorem bytes_congr {s t : State} (h : s.mem = t.mem) (l : Loc) (n : Nat) : s.bytes l n = t.bytes l n := by
  induction n generalizing l with
  | zero => rfl
  | succ n ih => rw [State.bytes, State.bytes, ih, State.byte, State.byte, h]

/-- A reload by every thread of the split, each from an entry that names `pc` (R254, R255). -/
theorem retBody_reload {pc : DWord} {as : List Acc} (htk : c.takers c.act = c.split.mask) (h0 : c.takers c.act ≠ 0) (hr : c.split.rets = [])
    (hs : c.split.spilled ≠ 0) (hv : v1Early c = false)
    (hk : allOk ((threadsOf (c.takers c.act)).map (fun t => (t, resolve c .lane .read false 8 8 t (c.stackEa false t)))) = some as)
    (hpc : ∀ x ∈ as, BitVec.ofNat 64 (ofBytes (c.pre.bytes x.loc 8)) = pc) (hm : ∀ fr ∈ c.split.joins.head?, fr.ret ≠ some pc)
    (hmem : st.mem = c.pre.mem) :
    retBody f c st = .done (settle c [] (divide c (c.split.joins.head?.map (·.tag))
      [⟨c.takers c.act, pc, c.split.joins, [], c.split.spilled - 1, none, true⟩] (moveV1 c (threadsOf (c.takers c.act)) true st))) := by
  have htarget : ∀ t ∈ threadsOf (c.takers c.act), (match as.find? (fun a => decide (a.t = if c.uni then lowest c.split.mask else t)) with
      | some a => BitVec.ofNat 64 (ofBytes ((moveV1 c (threadsOf (c.takers c.act)) true st).bytes a.loc 8))
      | none => 0) = pc := by
    intro t ht
    have hin : (if c.uni then lowest c.split.mask else t) ∈ threadsOf (c.takers c.act) := by
      split
      · rw [htk] at h0 ⊢; exact lowest_mem h0
      · exact ht
    obtain ⟨a, ha, hok⟩ := forall_mem_allOk hk _ (List.mem_map_of_mem hin)
    cases hf : as.find? (fun a => decide (a.t = if c.uni then lowest c.split.mask else t)) with
    | none => exact absurd (resolve_t hok) (by simpa using List.find?_eq_none.mp hf a ha)
    | some b =>
      rw [← hpc b (List.mem_of_find?_eq_some hf)]
      exact congrArg (fun l => BitVec.ofNat 64 (ofBytes l)) (bytes_congr hmem b.loc 8)
  rw [retBody]
  dsimp only
  rw [if_neg h0, hr]
  dsimp only
  rw [if_neg hs, hv]
  simp only [Bool.false_eq_true, if_false]
  rw [hk]
  dsimp only
  rw [groupTargets_one h0 htarget]
  rw [List.map_cons, List.map_nil, meetRet_self hm, htk, returned_one]

end

/-- Settles O25: the bodies of call and return, with the sides they divide into. -/
theorem callsAndReturns : Obligations.CallsAndReturns := by
  unfold Obligations.CallsAndReturns
  intro f s c call off a i n target tk ret
  let tgt (c : Ctx) (t : Nat) : DWord :=
    if call then c.split.pc + off.signExtend 64 else c.reg2 a.toNat (if c.uni then lowest c.split.mask else t)
  have hi : exec i s = controlOp f n none (callBody f tgt) s := by cases call <;> rfl
  refine ⟨fun h => ?_, fun h => ?_⟩
  · obtain ⟨wp, hst⟩ := h.stands n
    rw [hi]
    refine ⟨fun h0 => controlOp_done h (if_pos h0), fun pc htk h0 hr ht => ?one, fun pc m gs hg h0 hmore hr hl ha => ?many,
      fun pc as htk h0 hr ht hv hk => ?spill⟩
    case one =>
      exact ⟨_, controlOp_done h (callBody_one htk h0 ht (spillFirst_short hr)), goesTo_divide_one hst.warp hst.split rfl⟩
    case many =>
      obtain ⟨t, hd, hgo⟩ := callBody_many (target := tgt) hst ha hg h0 hmore hr hl
      exact ⟨t, controlOp_done h hd, hgo⟩
    case spill =>
      have hk' : allOk ((threadsOf c.split.mask).map (fun t => (t, resolve c .lane .write false 8 8 t (c.stackEa true t)))) = some as := by
        rw [← htk]; exact hk
      obtain ⟨wq, hq⟩ := (hst.foldl_homeWrite as (fun _ => toBytes 8 (c.split.rets.getLastD 0).toNat)).putPend
        ((threadsOf c.split.mask).map (fun t => (c.key 1 t, c.reg 1 t - 8))) (c.split.nd + c.lat 4 2)
      refine ⟨_, _, controlOp_done h (callBody_one htk h0 ht (spillFirst_full hr hv hk')), splitAt_divide_one hq, rfl, rfl, rfl, fun l hl => ?_, ?_⟩
      · obtain ⟨h32, hb⟩ := (mem_threadsOf _ _).mp hl
        exact mem_pend_moveV1 (g := fun t => c.reg 1 t - 8) (htk ▸ hl) hb h32
      · exact (divide_mem hq).trans (foldl_homeWrite_mem_congr as _ (passed_mem c f n))
  · obtain ⟨wp, hst⟩ := h.stands noNames
    rw [exec_ret_eq]
    refine ⟨fun h0 => controlOp_done h (if_pos h0), fun pc r htk h0 hr ha hm => ?pop, fun pc as htk h0 hr hs hv ha hk hpc hm => ?reload,
      fun h0 hr hs hv => ?trap, fun htk h0 hr hs hsp hp hv => ?last⟩
    case pop =>
      exact ⟨_, controlOp_done h (retBody_pop htk h0 hr hm), _, splitAt_settle_divide_one hst ha rfl, rfl, rfl, rfl, rfl, rfl⟩
    case reload =>
      obtain ⟨wq, hq⟩ := hst.putPend ((threadsOf tk).map (fun t => (c.key 1 t, c.reg 1 t + 8))) (c.split.nd + c.lat 4 2)
      refine ⟨_, _, controlOp_done h (retBody_reload htk h0 hr hs hv hk hpc hm (passed_mem c f noNames)), splitAt_settle_divide_one hq ha rfl,
        rfl, rfl, rfl, rfl, rfl, fun l hl => ?_⟩
      obtain ⟨h32, hb⟩ := (mem_threadsOf _ _).mp hl
      exact mem_pend_moveV1 (g := fun t => c.reg 1 t + 8) hl hb h32
    case trap =>
      intro chks hk
      refine controlOp_trap h ?_
      rw [retBody]
      dsimp only
      rw [if_neg h0, hr]
      dsimp only
      rw [if_neg hs, hv]
      simp only [Bool.false_eq_true, if_false]
      rw [hk]
    case last =>
      obtain ⟨wq, hw, hws, hwe⟩ := endThreads_last h hsp hp hv
      refine ⟨_, wq, controlOp_done h ?_, hw, hws, hwe⟩
      rw [retBody]
      dsimp only
      rw [if_neg h0, hr]
      dsimp only
      rw [if_pos hs, show c.takers c.act = c.split.mask from htk]

end Sys2Proof.Machine
end

section
/-! SUPPORT. Splits that meet, and threads that end (R250, R256, R257). -/
namespace Sys2Proof.Machine
open Sys2Proof Sys2Proof.Claims

section
variable {s st t : State} {f : Fr} {n : Names} {lat : Option (Nat × Nat)} {early : Ctx → Option Nat} {c : Ctx} {wp : Warp} {sp : Split}

/-! ### A split that waits for another -/

/-- The split waits for the splits of a frame. -/
def Split.meeting (tag : Nat) (sp : Split) : Split := { sp with wait := some (.meet tag) }

theorem meeting_waitsAt (tag k : Nat) (sp : Split) : (sp.meeting tag).waitsAt k = decide (tag = k) := rfl

/-- While another split holds the frame, nothing meets. -/
theorem unmet_meeting {tag : Nat} {y : Split} (ha : Apart wp) (hy : y ∈ wp.splits) (he : y.ent ≠ c.ent) (hh : y.holds tag = true) :
    (wp.modSplit c.ent (Split.meeting tag)).Unmet := by
  obtain ⟨hw, hp, hs⟩ := ha
  intro z hz fr hfr
  have hz : z ∈ (wp.modSplit c.ent (Split.meeting tag)).splits := by simpa [Warp.sides, Warp.modSplit, hp, hs] using hz
  by_cases ht : fr.tag = tag
  · have hy' : y ∈ (wp.modSplit c.ent (Split.meeting tag)).splits := List.mem_map.mpr ⟨y, hy, if_neg he⟩
    exact unmet_of_split hy' (ht ▸ hh) (hw y hy _)
  · refine unmet_of_split hz (holds_of_mem hfr) ?_
    obtain ⟨x, hx, rfl⟩ := List.mem_map.mp hz
    split
    · exact decide_eq_false (fun h => ht h.symm)
    · exact hw x hx _

theorem splitAt_confl_waits {tag : Nat} {y : Split} (h : Stands c st wp sp) (ha : Apart wp) (hy : y ∈ wp.splits) (he : y.ent ≠ c.ent)
    (hh : y.holds tag = true) :
    splitAt (settle c [] (st.modSplit c.w c.ent (Split.meeting tag))) c.w c.ent = some (sp.meeting tag) := by
  have hsplit : (wp.modSplit c.ent (Split.meeting tag)).split? c.ent = some (sp.meeting tag) :=
    (split?_modSplit_self wp c.ent).trans (by rw [h.split]; rfl)
  rw [splitAt, settle_warp (by rw [State.modSplit_warps, tget_tmod_self, h.warp]; rfl) (unmet_meeting ha hy he hh) ha.2.2
    (List.ne_nil_of_mem (mem_of_split? hsplit))]
  exact hsplit

/-! ### The last of two -/

section
variable {a b : Split} {tag : Nat} {j : BitVec 8} {r : List Frame}

theorem ripe_two (hs : wp.splits = [a, b]) (hp : wp.parked = []) (hv : wp.starved = []) (haj : a.joins = ⟨j, tag, none⟩ :: r)
    (ha : a.waitsAt tag = true) (hb : b.waitsAt tag = true) : wp.ripe = some tag := by
  have hu : wp.unmet tag = false := by simp [Warp.unmet, hs, hp, hv, ha, hb]
  simp [Warp.ripe, Warp.sides, hs, hp, hv, haj, List.eraseDups_cons, hu]

theorem callNext_none (hs : wp.splits = [a, b]) (hp : wp.parked = []) (ha : a.wait = some (.meet tag)) (hb : b.wait = some (.meet tag))
    (start : Nat) (new : Option Nat) : wp.callNext start tag new = none := by
  simp [Warp.callNext, takeFirst, hs, hp, ha, hb]

/-- Two splits that wait for one frame at one place become one. -/
theorem merge_two (hs : wp.splits = [a, b]) (hp : wp.parked = []) (hv : wp.starved = []) (ha : a.waitsAt tag = true) (hb : b.waitsAt tag = true)
    (hg : sameGroup a b = true) (now tick : Nat) (freed : List Nat) : ∃ wq fr, wp.merge now tick tag freed = (wq, fr) ∧
      wq.splits = [{ joinGroup now tick a [a, b] with ent := a.ent }] ∧ wq.parked = [] ∧ wq.starved = [] := by
  refine ⟨_, _, rfl, ?_, ?_, ?_⟩ <;> simp [hs, hp, hv, ha, hb, groupAll, hg]

/-- The last of two splits of a frame makes one split of them, and no more settles. -/
theorem settle_two (hs : wp.splits = [a, b]) (hp : wp.parked = []) (hv : wp.starved = []) (haj : a.joins = ⟨j, tag, none⟩ :: r)
    (ha : a.wait = some (.meet tag)) (hb : b.wait = some (.meet tag)) (hg : sameGroup a b = true) (now tick start : Nat) (new : Option Nat)
    (fuel : Nat) (freed : List Nat) :
    ∃ wq x, Warp.settle now tick start new (fuel + 2) wp freed = wq ∧ wq.splits = [x] ∧ x.mask = a.mask ||| b.mask ∧ x.joins = r ∧
      x.pc = a.pc ∧ x.wait = none := by
  have ha' : a.waitsAt tag = true := by simp [Split.waitsAt, ha]
  have hb' : b.waitsAt tag = true := by simp [Split.waitsAt, hb]
  obtain ⟨wq, fr, hm, hq, hqp, hqv⟩ := merge_two hs hp hv ha' hb' hg now tick freed
  have hu : wq.Unmet := unmet_of_apart ⟨fun y hy k => by
    obtain rfl := List.mem_singleton.mp (hq ▸ hy)
    rfl, hqp, hqv⟩
  refine ⟨wq, _, ?_, hq, ?_, ?_, rfl, rfl⟩
  · rw [Warp.settle, ripe_two hs hp hv haj ha' hb']
    dsimp only
    rw [hp, callNext_none hs hp ha hb, hm]
    exact hu.settle hqv (by rw [hq]; exact List.cons_ne_nil _ _) now tick start new fuel fr
  · simp [joinGroup]
  · simp [joinGroup, haj]

end
/-! ### CONFL -/

theorem confl_passes {j : BitVec 8} (h : Issues s f noNames none noEarly c) (hj : ∀ fr ∈ c.split.joins.head?, fr.j ≠ j ∨ fr.ret ≠ none) :
    exec (.confl f j) s = .next (passed c f noNames) := by
  rw [exec_confl, execConfl]
  refine controlOp_done h ?_
  cases hl : c.split.joins with
  | nil => rfl
  | cons fr r =>
    have hn := hj fr (by rw [hl]; rfl)
    exact if_neg (fun ⟨h1, h2⟩ => hn.elim (fun h => h h1) (fun h => h h2))

theorem confl_meets {j : BitVec 8} {tag : Nat} {r : List Frame} (h : Issues s f noNames none noEarly c)
    (hj : c.split.joins = ⟨j, tag, none⟩ :: r) :
    exec (.confl f j) s = .next (settle c [] ((passed c f noNames).modSplit c.w c.ent (Split.meeting tag))) := by
  rw [exec_confl, execConfl]
  refine controlOp_done h ?_
  rw [hj]
  exact if_pos ⟨rfl, rfl⟩

theorem movedOn_pc (c : Ctx) (f : Fr) (n : Names) : (movedOn c f n c.split).pc = c.nextPc f := rfl

/-- The warp in which the issuing split has come to its frame and the other split waits there already. -/
theorem passed_two {tag : Nat} {b : Split} (h : Issues s f n lat early c) (hb : b.ent ≠ c.ent) (hp : c.warp.parked = [])
    (hv : c.warp.starved = []) (hs : c.warp.splits = [c.split, b] ∨ c.warp.splits = [b, c.split]) :
    ∃ wp, tget ((passed c f n).modSplit c.w c.ent (Split.meeting tag)).warps c.w = some wp ∧ wp.parked = [] ∧ wp.starved = [] ∧
      (wp.splits = [(movedOn c f n c.split).meeting tag, b] ∨ wp.splits = [b, (movedOn c f n c.split).meeting tag]) := by
  obtain ⟨ctrs, flights, hw⟩ := h.passed_warp n
  have hw' : tget ((passed c f n).modSplit c.w c.ent (Split.meeting tag)).warps c.w =
      (tget (passed c f n).warps c.w).map (·.modSplit c.ent (Split.meeting tag)) := by rw [State.modSplit_warps, tget_tmod_self]
  refine ⟨_, hw'.trans (congrArg (Option.map _) hw), hp, hv, ?_⟩
  have hA : (movedOn c f n c.split).ent = c.ent := h.split_ent
  refine hs.imp (fun hs => ?_) (fun hs => ?_) <;> simp [Warp.modSplit, hs, h.split_ent, hb, hA]

theorem tget_settle_of_eq {freed : List Nat} {wq : Warp} (hw : tget st.warps c.w = some wp)
    (he : Warp.settle c.pre.now c.tick (c.pre.now + c.stall plainFr * c.tick + c.transfer) (newEntry c st) 4096 wp freed = wq) :
    tget (settle c freed st).warps c.w = some wq := by rw [tget_settle c freed hw, he]

/-- The last of two splits of a frame to come makes one split of them. -/
theorem confl_merges {j : BitVec 8} {tag : Nat} {r : List Frame} {b : Split} (h : Issues s f noNames none noEarly c)
    (hj : c.split.joins = ⟨j, tag, none⟩ :: r) (hs : c.warp.splits = [c.split, b] ∨ c.warp.splits = [b, c.split])
    (hp : c.warp.parked = []) (hv : c.warp.starved = []) (hb : b.ent ≠ c.ent) (hw : b.wait = some (.meet tag)) (hbj : b.joins = c.split.joins)
    (hpc : b.pc = c.nextPc f) (hr : b.rets = c.split.rets) (hsp : b.spilled = c.split.spilled) :
    ∃ t wp x, exec (.confl f j) s = .next t ∧ tget t.warps c.w = some wp ∧ wp.splits = [x] ∧ x.mask = c.split.mask ||| b.mask ∧
      x.joins = r ∧ x.pc = c.nextPc f ∧ x.wait = none := by
  obtain ⟨wp, hwp, hpk, hst, hsplits⟩ := passed_two (tag := tag) h hb hp hv hs
  let a := (movedOn c f noNames c.split).meeting tag
  cases hsplits with
  | inl hsplits =>
    have hg : sameGroup a b = true := by
      simp only [sameGroup, hpc, hr, hsp, Bool.and_eq_true, decide_eq_true_eq]
      exact ⟨⟨rfl, rfl⟩, rfl⟩
    obtain ⟨wq, x, he, hx, hm, hxj, hxp, hxw⟩ := settle_two hsplits hpk hst (a := a) hj rfl hw hg c.pre.now c.tick
      (c.pre.now + c.stall plainFr * c.tick + c.transfer) (newEntry c ((passed c f noNames).modSplit c.w c.ent (Split.meeting tag))) 4094 []
    exact ⟨_, wq, x, confl_meets h hj, tget_settle_of_eq hwp he, hx, hm, hxj, hxp, hxw⟩
  | inr hsplits =>
    have hg : sameGroup b a = true := by
      simp only [sameGroup, hpc, hr, hsp, Bool.and_eq_true, decide_eq_true_eq]
      exact ⟨⟨rfl, rfl⟩, rfl⟩
    obtain ⟨wq, x, he, hx, hm, hxj, hxp, hxw⟩ := settle_two hsplits hpk hst (b := a) (hbj.trans hj) hw rfl hg c.pre.now c.tick
      (c.pre.now + c.stall plainFr * c.tick + c.transfer) (newEntry c ((passed c f noNames).modSplit c.w c.ent (Split.meeting tag))) 4094 []
    exact ⟨_, wq, x, confl_meets h hj, tget_settle_of_eq hwp he, hx, hm.trans (BitVec.or_comm ..), hxj, hxp.trans hpc, hxw⟩

end

/-- Settles O26: CONFL by the frames of the splits, EXIT by `endThreads`, YIELD by the splits that are ready. -/
theorem joiningAndEnding : Obligations.JoiningAndEnding := by
  unfold Obligations.JoiningAndEnding
  intro f s c h
  obtain ⟨wp, hst⟩ := h.stands noNames
  refine ⟨fun j hj => confl_passes h hj, fun j tag r hj ha ⟨y, hy, he, hh⟩ => ?waits,
    fun j tag r b hj hs hp hv hb hw hbj hpc hr hsp => confl_merges h hj hs hp hv hb hw hbj hpc hr hsp, fun h0 => ?none,
    fun htk h0 hs hp hv => ?last, fun hm h0 ha => ?some, ?yield⟩
  case waits =>
    obtain ⟨ctrs, flights, hw⟩ := h.passed_warp noNames
    have hy' : y ∈ wp.splits := by
      obtain rfl := Option.some.inj (hst.warp.symm.trans hw)
      exact List.mem_map.mpr ⟨y, hy, if_neg he⟩
    exact ⟨_, _, confl_meets h hj, splitAt_confl_waits hst (hst.apart ha) hy' he hh, rfl, rfl⟩
  case none =>
    rw [exec_exit, execExit]
    exact controlOp_done h (if_pos h0)
  case last =>
    obtain ⟨wq, hw, hws, hwe⟩ := endThreads_last h hs hp hv
    rw [exec_exit, execExit]
    refine ⟨_, wq, controlOp_done h ((if_neg h0).trans ?_), hw, hws, hwe⟩
    rw [htk]
    rfl
  case some =>
    rw [exec_exit, execExit]
    exact ⟨_, _, controlOp_done h (if_neg h0), endThreads_some hst ha hm, rfl, rfl⟩
  case yield =>
    intro others
    rw [exec_yieldw, execYieldw]
    refine controlOp_done h ?_
    by_cases ho : others = []
    · exact (if_pos ho).trans (congrArg Body.done (if_pos ho).symm)
    · exact (if_neg ho).trans (congrArg Body.done (if_neg ho).symm)

end Sys2Proof.Machine
end

section
/-! SUPPORT. Traps and handlers (R258 to R261). -/
namespace Sys2Proof.Machine
open Sys2Proof Sys2Proof.Claims

section
variable {s st t : State} {f : Fr} {n : Names} {lat : Option (Nat × Nat)} {early : Ctx → Option Nat} {c : Ctx} {wp : Warp} {sp : Split}

/-! ### Results of a warp's sides written (R67) -/

/-- A side of which the SETS, and the results if `q`, are written. -/
def Split.landed (q : Split → Bool) (sp : Split) : Split := { sp with pend := if q sp then [] else sp.pend, spend := [] }

theorem landSides_warp {w : Nat} (q : Split → Bool) (h : tget s.warps w = some wp) :
    ∃ role tpc, tget (s.landSides w q).warps w = some
      { wp with role := role, tpc := tpc, splits := wp.splits.map (Split.landed q), parked := wp.parked.map (fun p => (p.1, p.2.landed q)),
                starved := wp.starved.map (Split.landed q) } := by
  unfold State.landSides
  rw [h]
  dsimp only
  obtain ⟨role, tpc, h'⟩ := foldl_foldl_writeSr_warp (wp.splits ++ wp.parked.map (·.2) ++ wp.starved) (fun sp => sp.spend) w w
    (s := s.setRegs (((wp.splits ++ wp.parked.map (·.2) ++ wp.starved).filter q).flatMap (fun sp => sp.pend.map (fun p => (p.key, p.val)))))
    (by rw [setRegs_warps]; exact h)
  exact ⟨role, tpc, by rw [State.modWarp_warps, tget_tmod_self, h']; rfl⟩

/-! ### A trap of the issuer -/

/-- The issuer's warp when its instruction is abandoned. -/
theorem uncount_warp (h : Issues s f n lat early c) (n' : Names) :
    ∃ ctrs, tget (takeSlot c f n' (uncount c f c.pre)).warps c.w = some { c.warp with ctrs := ctrs } := by
  have hw : ∃ ctrs, tget (uncount c f c.pre).warps c.w = some { c.warp with ctrs := ctrs } := by
    unfold uncount
    split
    · cases hk : fctr f with
      | none => exact ⟨c.warp.ctrs, by simp [h.warp_eq, Warp.decCtr]⟩
      | some k => exact ⟨_, by rw [State.modWarp_warps, tget_tmod_self, h.warp_eq]; rfl⟩
    · exact ⟨c.warp.ctrs, h.warp_eq⟩
  exact hw

/-- The handler's first split (R259). -/
theorem enterHandler_warp {w : Nat} {tvec : DWord} {x : Trap} {wait : Nat} (hw : tget s.warps w = some wp) (hsp : wp.split? x.ent = some sp) :
    ∃ role hd wq, tget (enterHandler s w tvec x wait).warps w = some wq ∧
      wq.splits = ((wp.splits.map (Split.landed (fun sp => decide (sp.ent = x.ent)))).map
        (fun sp => if sp.ent = x.ent then { sp with susp := true, wait := none } else sp)) ++ [hd] ∧
      wq.tpc = x.tpc ∧ wq.tcause = BitVec.ofNat 8 x.cause ∧ wq.tmask = x.mask ∧ wq.targ = x.arg.getD wp.targ ∧
      wq.taddr = x.addrs.filter (fun p => decide (p.2 ≠ 0)) ∧ wq.serving = some x.ent ∧ wq.role = role ∧
      hd.ent = 65 ∧ hd.mask = x.mask ∧ hd.pc = tvec + BitVec.ofNat 64 (32 * x.cause) ∧ hd.priv = true ∧ hd.joins = [] := by
  obtain ⟨role, tpc, hl⟩ := landSides_warp (fun sp => decide (sp.ent = x.ent)) hw
  unfold enterHandler
  rw [hw]
  dsimp only
  rw [hl]
  dsimp only
  rw [split?_map (wp := wp) (g := Split.landed (fun sp => decide (sp.ent = x.ent))) rfl, hsp, Option.map_some]
  dsimp only
  refine ⟨role, _, _, by rw [State.modCore_warps, State.modWarp_warps, tget_tmod_self, hl]; rfl, rfl, rfl, rfl, rfl, rfl, rfl, rfl, rfl,
    rfl, rfl, rfl, rfl, rfl⟩

/-- The trap that TRAP and SVC leave for the handler. -/
def softTrapOf (c : Ctx) (f : Fr) (k : Nat) (v : Word) : Trap :=
  { ent := c.ent, cause := k, mask := c.act, arg := some v, addrs := [], since := c.pre.now, tpc := c.nextPc f }

/-- A trap of a cause that vectors to a handler, where none runs, enters it. -/
theorem raiseTrap_enters {k : Nat} {v : Word} (hh : c.handler = false) (hi : c.warp.inHandler = false) (hk : inWarpCause k = true) :
    raiseTrap c f k c.act [] (some v) =
      enterHandler (takeSlot c f noNames (uncount c f c.pre)) c.w c.ctx.tvec (softTrapOf c f k v) (c.stall f * c.tick) := by
  unfold raiseTrap
  simp only [hh, hi, hk, Bool.not_true, Bool.or_self, Bool.false_eq_true, if_false, ite_self]
  rfl

/-- Any other trap, and one in a handler, goes to the step that its class names (R520), and the split is suspended. -/
theorem raiseTrap_raises {k : Nat} {m : BitVec 32} {a : List (Nat × DWord)} {g : Option Word} (hk : inWarpCause k = false) :
    ∃ (s1 : State) (x : Raised), raiseTrap c f k m a g = { s1 with raised := s1.raised ++ [x] } ∧
      s1 = (match g with
        | some v => (takeSlot c f noNames (uncount c f c.pre)).modWarp c.w (fun wp => { wp with targ := v })
        | none => takeSlot c f noNames (uncount c f c.pre)).modSplit c.w c.ent (fun sp => { sp with susp := true, wait := none }) ∧
      x.cause = (if c.handler then 0x42 else k) ∧ x.mask = m ∧ x.pc = c.split.pc := by
  unfold raiseTrap
  simp only [hk, Bool.not_false, Bool.or_true, if_true]
  exact ⟨_, _, rfl, rfl, rfl, rfl, rfl⟩

theorem not_inHandler {e : Nat} (hi : wp.inHandler = false) (hs : sp ∈ wp.splits) (he : sp.ent = e) : e ≤ 64 := by
  have := List.any_eq_false.mp hi sp hs
  simp at this
  omega

/-- TRAP and SVC with active threads enter the handler (R258, R259). -/
theorem softTrap_enters (h : Issues s f noNames none noEarly c) (v : Word) {k : Nat} (ha : c.act ≠ 0) (hh : c.handler = false)
    (hi : c.warp.inHandler = false) (hk : inWarpCause k = true) :
    ∃ t wp hd, softTrap f v k s = .next t ∧ tget t.warps c.w = some wp ∧
      wp.tpc = c.nextPc f ∧ wp.tcause = BitVec.ofNat 8 k ∧ wp.tmask = c.act ∧ wp.targ = v ∧ wp.taddr = [] ∧ wp.serving = some c.ent ∧
      (∀ sp, wp.split? c.ent = some sp → sp.susp = true) ∧
      wp.split? 65 = some hd ∧ hd.mask = c.act ∧ hd.pc = c.ctx.tvec + BitVec.ofNat 64 (32 * k) ∧ hd.priv = true ∧ hd.joins = [] := by
  obtain ⟨ctrs, hw⟩ := uncount_warp h noNames
  obtain ⟨role, hd, wq, hq, hsplits, htpc, htc, htm, hta, htad, hsv, -, he, hm, hpc, hp, hj⟩ := enterHandler_warp (tvec := c.ctx.tvec)
    (x := softTrapOf c f k v) (wait := c.stall f * c.tick) hw h.split_eq
  have hent : c.ent ≤ 64 := by simpa [Ctx.handler] using hh
  have hex : softTrap f v k s = .next (raiseTrap c f k c.act [] (some v)) := controlOp_trap h (if_neg ha)
  rw [raiseTrap_enters hh hi hk] at hex
  refine ⟨_, wq, hd, hex, hq, htpc, htc, htm, hta, htad, hsv, ?_, ?_, hm, hpc, hp, hj⟩
  · intro sp hsp
    have hin := mem_of_split? hsp
    have hse : sp.ent = c.ent := by simpa using List.find?_some hsp
    rw [hsplits] at hin
    cases List.mem_append.mp hin with
    | inl hin =>
      obtain ⟨z, -, rfl⟩ := List.mem_map.mp hin
      split
      · rfl
      · next hz =>
        rw [if_neg hz] at hse
        exact absurd hse hz
    | inr hin =>
      obtain rfl := List.mem_singleton.mp hin
      omega
  · unfold Warp.split?
    rw [hsplits, List.find?_append, List.find?_eq_none.mpr]
    · simp [he]
    · intro y hy
      obtain ⟨z, hz, rfl⟩ := List.mem_map.mp hy
      obtain ⟨u, hu, rfl⟩ := List.mem_map.mp hz
      have := not_inHandler hi hu rfl
      have hle : (u.landed (fun sp => decide (sp.ent = c.ent))).ent = u.ent := rfl
      split <;> simp [Split.landed] <;> omega

/-- BKPT where sr.cctl lets it raises a hard fault (R258). -/
theorem bkpt_raises (h : Issues s f noNames none noEarly c) (v : Word) (hc : (c.pre.core c.core).cctl.getLsbD 1 = true) (ha : c.act ≠ 0)
    (hh : c.handler = false) :
    ∃ t x, exec (.bkpt f v) s = .next t ∧ t.raised = c.pre.raised ++ [x] ∧ x.cause = 0x0E ∧ x.mask = c.act ∧ x.pc = c.split.pc ∧
      (∀ sp, splitAt t c.w c.ent = some sp → sp.susp = true) := by
  obtain ⟨s1, x, hr, hs1, hcause, hm, hpc⟩ := raiseTrap_raises (c := c) (f := f) (k := 0x0E) (m := c.act) (a := []) (g := some v) rfl
  have hex : exec (.bkpt f v) s = .next (raiseTrap c f 0x0E c.act [] (some v)) := by
    rw [exec_bkpt, execBkpt]
    exact controlOp_trap h (if_pos ⟨hc, ha⟩)
  refine ⟨_, x, hex.trans (congrArg _ hr), ?_, by simpa [hh] using hcause, hm, hpc, fun sp hsp => ?_⟩
  · have hraised : s1.raised = c.pre.raised := by rw [hs1]; exact uncount_raised ..
    exact congrArg (· ++ [x]) hraised
  · rw [hs1] at hsp
    have hsp : splitAt (State.modSplit _ c.w c.ent (fun sp => { sp with susp := true, wait := none })) c.w c.ent = some sp := hsp
    rw [splitAt_modSplit_self] at hsp
    obtain ⟨y, -, rfl⟩ := Option.map_eq_some_iff.mp hsp
    rfl

/-! ### RTH (R261) -/

/-- The warp whose handler has returned to the split `e`. -/
def Warp.handed (wp : Warp) (e start : Nat) : Warp :=
  ({ wp with splits := wp.splits.filter (fun sp => decide (sp.ent ≤ 64)), serving := none, wdog := 0 } : Warp).modSplit e
    (fun sp => { sp with susp := false, pc := wp.tpc, next := max sp.next start, wait := none })

theorem handed_apart {e start : Nat} (h : Apart wp) : Apart (wp.handed e start) :=
  apart_modSplit (fun _ _ _ => rfl) e ⟨fun sp hsp => h.1 sp (List.mem_of_mem_filter hsp), h.2⟩

theorem handed_split? {e start : Nat} (he : e ≤ 64) (hex : ∃ sp ∈ wp.splits, sp.ent = e) :
    ∃ sp, (wp.handed e start).split? e = some sp ∧ sp.pc = wp.tpc ∧ sp.susp = false := by
  obtain ⟨y, hy, rfl⟩ := hex
  have hy' : y ∈ wp.splits.filter (fun sp => decide (sp.ent ≤ 64)) := List.mem_filter.mpr ⟨hy, by simpa using he⟩
  obtain ⟨z, hz⟩ : ∃ z, (wp.splits.filter (fun sp => decide (sp.ent ≤ 64))).find? (fun sp => decide (sp.ent = y.ent)) = some z :=
    Option.isSome_iff_exists.mp (List.find?_isSome.mpr ⟨y, hy', decide_eq_true rfl⟩)
  exact ⟨_, (split?_modSplit_self _ y.ent).trans (congrArg (Option.map _) hz), rfl, rfl⟩

theorem handed_inHandler (wp : Warp) (e start : Nat) : (wp.handed e start).inHandler = false := by
  refine List.any_eq_false.mpr (fun y hy => ?_)
  obtain ⟨z, hz, rfl⟩ := List.mem_map.mp hy
  have hz : z.ent ≤ 64 := by simpa using (List.mem_filter.mp hz).2
  split <;> simpa using hz

theorem apart_landed {role : Role} {tpc : DWord} {q : Split → Bool} (h : Apart wp) :
    Apart { wp with role := role, tpc := tpc, splits := wp.splits.map (Split.landed q), parked := wp.parked.map (fun p => (p.1, p.2.landed q)),
                    starved := wp.starved.map (Split.landed q) } := by
  obtain ⟨hw, hp, hs⟩ := h
  refine ⟨fun y hy k => ?_, by simp [hp], by simp [hs]⟩
  obtain ⟨z, hz, rfl⟩ := List.mem_map.mp hy
  exact hw z hz k

/-- What RTH does in a handler whose sides have merged. -/
theorem exec_rth_next {e : Nat} (h : Issues s f noNames none noEarly c) (ha : c.act ≠ 0) (hh : c.handler = true)
    (ho : c.warp.otherSide c.ent = false) (hs : c.warp.serving = some e) :
    exec (.rth f) s = .next (settle c [] (((passed c f noNames).landSides c.w (fun sp => decide (64 < sp.ent))).modWarp c.w
      (fun wp => wp.handed e (max (c.pre.now + c.stall f * c.tick) c.warp.written + c.transfer)))) := by
  rw [exec_rth, execRth]
  refine controlOp_done h ?_
  simp only [if_neg ha, hh, ho, hs, Bool.not_true, Bool.false_eq_true, if_false]
  rfl

/-- The split that the trap suspended goes on at sr.tpc, and the handler is gone. -/
theorem rth_returns {e : Nat} (h : Issues s f noNames none noEarly c) (ha : c.act ≠ 0) (hh : c.handler = true) (hap : Apart c.warp)
    (hs : c.warp.serving = some e) (he : e ≤ 64) (hex : ∃ sp ∈ c.warp.splits, sp.ent = e)
    (hone : ∀ sp ∈ c.warp.splits, 64 < sp.ent → sp.ent = c.ent) :
    ∃ t wp sp, exec (.rth f) s = .next t ∧ tget t.warps c.w = some wp ∧ wp.split? e = some sp ∧ sp.pc = wp.tpc ∧ sp.susp = false ∧
      wp.serving = none ∧ wp.inHandler = false := by
  have ho : c.warp.otherSide c.ent = false := by
    simp only [Warp.otherSide, hap.2.1, hap.2.2, List.map_nil, List.nil_append]
    refine List.any_eq_false.mpr (fun y hy => ?_)
    obtain ⟨hy, hne⟩ := List.mem_filter.mp hy
    have hne : y.ent ≠ c.ent := by simpa using hne
    simpa using fun h64 => hne (hone y hy h64)
  obtain ⟨ctrs, flights, hw⟩ := h.passed_warp noNames
  obtain ⟨role, tpc, hl⟩ := landSides_warp (fun sp => decide (64 < sp.ent)) hw
  have hap' := apart_landed (role := role) (tpc := tpc) (q := fun sp => decide (64 < sp.ent))
    (wp := { c.warp.modSplit c.ent (movedOn c f noNames) with ctrs := ctrs, flights := flights })
    (apart_modSplit (fun _ _ _ => rfl) c.ent hap)
  have hex' : ∃ sp ∈ ((c.warp.modSplit c.ent (movedOn c f noNames)).splits.map (Split.landed (fun sp => decide (64 < sp.ent)))), sp.ent = e := by
    obtain ⟨y, hy, hye⟩ := hex
    refine ⟨_, List.mem_map_of_mem (List.mem_map_of_mem hy), ?_⟩
    split <;> exact hye
  obtain ⟨sp, hsp, hpc, hsusp⟩ := handed_split?
    (wp := { c.warp.modSplit c.ent (movedOn c f noNames) with
      role := role, tpc := tpc, ctrs := ctrs, flights := flights,
      splits := (c.warp.modSplit c.ent (movedOn c f noNames)).splits.map (Split.landed (fun sp => decide (64 < sp.ent))),
      parked := c.warp.parked.map (fun p => (p.1, p.2.landed (fun sp => decide (64 < sp.ent)))),
      starved := c.warp.starved.map (Split.landed (fun sp => decide (64 < sp.ent))) })
    (start := max (c.pre.now + c.stall f * c.tick) c.warp.written + c.transfer) he hex'
  refine ⟨_, _, sp, exec_rth_next h ha hh ho hs, settle_warp (by rw [State.modWarp_warps, tget_tmod_self, hl]; rfl)
    (unmet_of_apart (handed_apart hap')) (handed_apart hap').2.2 (List.ne_nil_of_mem (mem_of_split? hsp)), hsp, hpc, hsusp, rfl,
    handed_inHandler _ _ _⟩

theorem softTrap_passes (h : Issues s f noNames none noEarly c) (v : Word) (k : Nat) (ha : c.act = 0) :
    softTrap f v k s = .next (passed c f noNames) := controlOp_done h (if_pos ha)

theorem bkpt_passes (h : Issues s f noNames none noEarly c) (v : Word) (hc : (c.pre.core c.core).cctl.getLsbD 1 = false ∨ c.act = 0) :
    exec (.bkpt f v) s = .next (passed c f noNames) := by
  rw [exec_bkpt, execBkpt]
  refine controlOp_done h (if_neg (fun ⟨h1, h2⟩ => ?_))
  cases hc with
  | inl hc => rw [hc] at h1; cases h1
  | inr hc => exact h2 hc

theorem rth_traps (h : Issues s f noNames none noEarly c) (ha : c.act ≠ 0) (hh : c.handler = false) :
    exec (.rth f) s = .next (raiseTrap c f 0x03 c.act [] none) := by
  rw [exec_rth, execRth]
  refine controlOp_trap h ((if_neg ha).trans ?_)
  rw [hh]
  rfl

theorem rth_double (h : Issues s f noNames none noEarly c) (ha : c.act ≠ 0) (hh : c.handler = true) (ho : c.warp.otherSide c.ent = true) :
    exec (.rth f) s = .next (raiseTrap c f 0x42 c.act [] none) := by
  rw [exec_rth, execRth]
  refine controlOp_trap h ((if_neg ha).trans ?_)
  rw [hh, ho]
  rfl

end

/-- Settles O27: the four instructions by where the trap goes, and RTH by what is left of the handler. -/
theorem trapsAndReturns : Obligations.TrapsAndReturns := by
  unfold Obligations.TrapsAndReturns
  intro f s c h
  refine ⟨fun v cause svc ha hh hi hk => ?enters, fun v cause svc ha => ?passes, fun v hc => bkpt_passes h v hc,
    fun v hc ha hh => bkpt_raises h v hc ha hh, fun ha => ?rthNone, fun ha hh => rth_traps h ha hh,
    fun ha hh ⟨y, hy, hne, h64⟩ => rth_double h ha hh ?_, fun e ha hh hap hs he hex hone => rth_returns h ha hh hap hs he hex hone⟩
  case enters =>
    cases svc with
    | false =>
      obtain ⟨t, wp, hd, hex, hw, htpc, htc, hrest⟩ := softTrap_enters h v (k := cause.toNat) ha hh hi hk
      exact ⟨t, wp, hd, hex, hw, htpc, htc.trans (by simp), hrest⟩
    | true =>
      obtain rfl : cause = 0x0F := hk
      exact softTrap_enters h v ha hh hi rfl
  case passes =>
    cases svc with
    | false => exact softTrap_passes h v cause.toNat ha
    | true => exact softTrap_passes h v 0x0F ha
  case rthNone =>
    rw [exec_rth, execRth]
    exact controlOp_done h (if_pos ha)
  · refine List.any_eq_true.mpr ⟨y, ?_, by simpa using h64⟩
    simp only [List.mem_append, List.mem_filter] at hy ⊢
    cases hy with
    | inl hy => exact .inr ⟨hy, by simpa using hne⟩
    | inr hy => exact .inl (.inr hy)

end Sys2Proof.Machine
end

section
/-! SUPPORT. Special registers (R263 to R266). -/
namespace Sys2Proof.Machine
open Sys2Proof Sys2Proof.Claims

theorem toNat_ofNat_ite (p : Prop) [Decidable p] : (BitVec.ofNat 64 (if p then 1 else 0)).toNat = if p then 1 else 0 := by split <;> rfl

theorem srPriv_iff (sr : SReg) : srPriv sr = true ↔ sr = .cctl ∨ sr = .tvec ∨ sr = .tpc := by
  cases sr <;> simp [srPriv]

section
variable {s : State} {f : Fr} {b : Src} {sr : SReg} {c : Ctx}

theorem sets_trap (h : Issues s f (nameS none (srcN b (if srWide sr then 2 else 1)) none) (some (4, 2)) noEarly c) (ha : c.act ≠ 0)
    (hp : srPriv sr = true) (hv : c.split.priv = false) : exec (.sets f b sr) s = .next (raiseTrap c f 0x03 c.act [] none) := by
  rw [exec_sets, execSets]
  exact issue_trap h (if_pos ⟨ha, hp, by simp [hv]⟩)

/-- SETS that may act leaves its value for the nominal distance of its latency (R264). -/
theorem sets_next (h : Issues s f (nameS none (srcN b (if srWide sr then 2 else 1)) none) (some (4, 2)) noEarly c)
    (hp : ¬ (c.act ≠ 0 ∧ srPriv sr = true ∧ c.split.priv = false)) :
    exec (.sets f b sr) s = .next (
      let st := fixedNext c f (nameS none (srcN b (if srWide sr then 2 else 1)) none) (4, 2) [] Health.none
      if c.act = 0 then st else st.modSplit c.w c.ent (fun sp => { sp with
        spend := sp.spend ++ [⟨sr, c.pre.free, if srWide sr then c.val2 b (lowest c.act) else (c.val b (lowest c.act)).zeroExtend 64,
          c.split.nd + c.lat 4 2⟩] })) := by
  rw [exec_sets, execSets]
  refine issue_done h ((if_neg (fun ⟨h1, h2, h3⟩ => hp ⟨h1, h2, by simpa using h3⟩)).trans ?_)
  dsimp only
  split <;> rfl

end

/-- Settles O28: MOVS is an `aluOp` of `srRead`, SETS by its privilege, and `writeSr` by the register. -/
theorem specialRegisters : Obligations.SpecialRegisters := by
  unfold Obligations.SpecialRegisters
  refine ⟨fun f d sr => fixedWrites_of_aluOp (fun s => exec_movs ..), fun c t => ?reads, fun f b sr s c => ?sets,
    fun s w v wp b g l hw hb hg hl => ?writes⟩
  case reads =>
    refine ⟨rfl, rfl, rfl, ?_, toNat_ofNat_ite _, toNat_ofNat_ite _, rfl, rfl, rfl, rfl, rfl, rfl, rfl⟩
    refine (toNat_ofNat_ite _).trans ?_
    simp [Ctx.riffle, isRiffle]
  case sets =>
    intro n st h
    refine ⟨fun ha => ?_, fun ha hp hv => sets_trap h ha ((srPriv_iff sr).mpr hp) hv, fun ha hp => ?_⟩
    · rw [sets_next h (fun hn => hn.1 ha)]
      exact congrArg _ (if_pos ha)
    · rw [sets_next h (fun ⟨_, h1, h2⟩ => hp ⟨(srPriv_iff sr).mp h1, h2⟩)]
      exact congrArg _ (if_neg ha)
  case writes =>
    simp only [State.writeSr, hw, hb, hg, hl, Option.map_some]
    exact ⟨trivial, trivial, rfl, trivial, trivial, trivial, trivial⟩

end Sys2Proof.Machine
end

section
/-! SUPPORT. What accesses through a core's L1 change: memory, side slots, poison and that core alone. -/
namespace Sys2Proof.Machine
open Sys2Proof Sys2Proof.Claims

theorem core_modCore_ne (s : State) {core k : Nat} (g : Core → Core) (h : k ≠ core) : (s.modCore core g).core k = s.core k := by
  simp only [State.core, State.modCore]
  exact tgetD_tputD_ne _ _ _ h

/-- Only memory, side slots, poison and the core named have changed. -/
def MemStep (core : Nat) (s t : State) : Prop :=
  (∃ m sd p cs, t = { s with mem := m, side := sd, poison := p, cores := cs }) ∧ ∀ k, k ≠ core → t.core k = s.core k

section
variable {core : Nat} {s t u : State}

theorem MemStep.refl (core : Nat) (s : State) : MemStep core s s := ⟨⟨s.mem, s.side, s.poison, s.cores, rfl⟩, fun _ _ => rfl⟩

theorem MemStep.trans (h : MemStep core s t) (h' : MemStep core t u) : MemStep core s u := by
  obtain ⟨⟨m, sd, p, cs, rfl⟩, hk⟩ := h
  obtain ⟨⟨m', sd', p', cs', rfl⟩, hk'⟩ := h'
  exact ⟨⟨m', sd', p', cs', rfl⟩, fun k hne => (hk' k hne).trans (hk k hne)⟩

theorem MemStep.foldl {β : Type} {g : State → β → State} (hg : ∀ s b, MemStep core s (g s b)) (l : List β) (s : State) :
    MemStep core s (l.foldl g s) := by
  induction l generalizing s with
  | nil => exact .refl core s
  | cons b l ih => exact (hg s b).trans (ih _)

/-- A state of which only memory, side slots and poison differ. -/
theorem MemStep.of_home (core : Nat) (s : State) (m : List Host.Cell) (sd : SMap (BitVec 256)) (p : List Nat) :
    MemStep core s { s with mem := m, side := sd, poison := p } := ⟨⟨m, sd, p, s.cores, rfl⟩, fun _ _ => rfl⟩

theorem memStep_modCore (s : State) (core : Nat) (g : Core → Core) : MemStep core s (s.modCore core g) :=
  ⟨⟨s.mem, s.side, s.poison, _, rfl⟩, fun _ h => core_modCore_ne s g h⟩

theorem memStep_setByte (core : Nat) (s : State) (l : Loc) (b : Byte) : MemStep core s (s.setByte l b) := .of_home core s _ s.side s.poison

theorem memStep_homeWrite (core : Nat) (s : State) (l : Loc) (bs : List Byte) : MemStep core s (homeWrite s l bs) := by
  obtain ⟨m, p, h⟩ := homeWrite_eq s l bs
  rw [h]
  exact .of_home core s m s.side p

theorem memStep_homeSlotPart (core : Nat) (s : State) (l : Loc) (d : BitVec 13) (v : BitVec 256) : MemStep core s (homeSlotPart s l d v) := by
  unfold homeSlotPart homeSlot
  dsimp only
  split
  · split
    · exact .of_home core s s.mem _ s.poison
    · exact .of_home core s s.mem _ _
  · exact .of_home core s s.mem _ s.poison

theorem memStep_writeBackLine (core : Nat) (s : State) (l : L1Line) : MemStep core s (writeBackLine s l) := by
  have hbytes : MemStep core s ((upto 128).foldl (fun s i =>
      if l.dirty.getLsbD i then s.setByte (l.line.add i) (BitVec.ofNat 8 (l.data.toNat / 256 ^ i)) else s) s) :=
    .foldl (fun s i => by
      split
      · exact memStep_setByte ..
      · exact .refl core s) _ s
  unfold writeBackLine
  dsimp only
  generalize (upto 128).foldl _ s = s1 at hbytes ⊢
  have hpoison : MemStep core s (if s1.poison = [] then s1 else
      let whole := (upto 4).filter (fun g => (upto 32).all (fun i => l.dirty.getLsbD (32 * g + i)))
      { s1 with poison := s1.poison.filter (fun k => !(whole.any (fun g => decide (granuleKey (l.line.add (32 * g)) = k)))) }) := by
    split
    · exact hbytes
    · exact hbytes.trans (.of_home core s1 s1.mem s1.side _)
  split
  · exact hpoison
  · exact hpoison.trans (memStep_homeSlotPart ..)

theorem memStep_writeBackAll (s : State) (core : Nat) : MemStep core s (writeBackAll s core) := by
  unfold writeBackAll
  exact (MemStep.foldl (memStep_writeBackLine core) _ s).trans (memStep_modCore ..)

theorem memStep_invalidateAll (s : State) (core : Nat) : MemStep core s (invalidateAll s core) :=
  (memStep_writeBackAll s core).trans (memStep_modCore ..)

theorem memStep_flushLine (s : State) (core : Nat) (l : Loc) (drop : Bool) : MemStep core s (flushLine s core l drop) := by
  unfold flushLine
  split
  · exact .refl core s
  · exact (memStep_writeBackLine core s _).trans (memStep_modCore ..)

theorem memStep_fillLine (s : State) (core asid : Nat) (a : Acc) : MemStep core s (fillLine s core asid a) := by
  unfold fillLine
  dsimp only
  refine MemStep.trans ?_ (memStep_modCore ..)
  split
  · split
    · exact memStep_flushLine ..
    · exact .refl core s
  · exact .refl core s

theorem memStep_noteName (s : State) (core asid : Nat) (a : Acc) : MemStep core s (noteName s core asid a) := by
  unfold noteName
  exact memStep_modCore ..

theorem memStep_lineFor (s : State) (core asid : Nat) (a : Acc) (alloc : Bool) : MemStep core s (lineFor s core asid a alloc).1 := by
  unfold lineFor
  split
  · exact memStep_noteName ..
  · split
    · exact memStep_fillLine ..
    · exact .refl core s

theorem memStep_loadBytes (s : State) (core asid : Nat) (a : Acc) (h : Hint) : MemStep core s (loadBytes s core asid a h).1 := by
  unfold loadBytes
  split
  · dsimp only
    split
    · exact (memStep_lineFor ..).trans (memStep_flushLine ..)
    · exact memStep_lineFor ..
  · exact .refl core s

theorem memStep_storeBytes (s : State) (core asid : Nat) (a : Acc) (h : Hint) (bs : List Byte) :
    MemStep core s (storeBytes s core asid a h bs) := by
  unfold storeBytes
  split
  · dsimp only
    have hput : MemStep core s (match (lineFor s core asid a (decide (h = .keep))).2 with
        | some _ => (lineFor s core asid a (decide (h = .keep))).1.modCore core (fun k =>
            { k with l1 := k.l1.map (fun x => if x.line = a.loc.line then x.put (a.loc.off % 128) bs else x) })
        | none => homeWrite (lineFor s core asid a (decide (h = .keep))).1 a.loc bs) := by
      split
      · exact (memStep_lineFor ..).trans (memStep_modCore ..)
      · exact (memStep_lineFor ..).trans (memStep_homeWrite ..)
    split
    · exact hput.trans (memStep_flushLine ..)
    · exact hput
  · exact memStep_homeWrite ..

theorem memStep_loadSlot (s : State) (core asid : Nat) (a : Acc) (h : Hint) : MemStep core s (loadSlot s core asid a h).1 := by
  unfold loadSlot
  split
  · exact memStep_lineFor ..
  · exact .refl core s

theorem memStep_storeSlot (s : State) (core asid : Nat) (a : Acc) (h : Hint) (d : BitVec 13) (g : BitVec 256 → BitVec 256) :
    MemStep core s (storeSlot s core asid a h d g) := by
  unfold storeSlot
  split
  · dsimp only
    split
    · exact (memStep_lineFor ..).trans (memStep_modCore ..)
    · exact (memStep_lineFor ..).trans (memStep_homeSlotPart ..)
  · exact memStep_homeSlotPart ..

theorem memStep_atHome (s : State) (core : Nat) (a : Acc) : MemStep core s (atHome s core a) := by
  unfold atHome
  split
  · exact memStep_flushLine ..
  · exact .refl core s

theorem memStep_noteTlb (s : State) (core : Nat) (as : List Acc) : MemStep core s (noteTlb s core as) := memStep_modCore ..

theorem memStep_releaseAt (s : State) (c : Ctx) (k : Nat) : MemStep c.core s (releaseAt c k s) := by
  unfold releaseAt
  split
  · exact memStep_writeBackAll ..
  · exact .refl c.core s

theorem memStep_acquireAt (s : State) (c : Ctx) (k : Nat) : MemStep c.core s (acquireAt c k s) := by
  unfold acquireAt
  split
  · exact memStep_invalidateAll ..
  · exact .refl c.core s

theorem memStep_readHome (s : State) (core : Nat) (as : List Acc) : MemStep core s (readHome core as s).1 :=
  MemStep.foldl (fun s a => memStep_atHome s core a) as s

theorem MemStep.splitAt (h : MemStep core s t) (w e : Nat) : splitAt t w e = splitAt s w e := by
  obtain ⟨⟨m, sd, p, cs, rfl⟩, -⟩ := h
  rfl

theorem MemStep.warps (h : MemStep core s t) : t.warps = s.warps := by
  obtain ⟨⟨m, sd, p, cs, rfl⟩, -⟩ := h
  rfl

theorem MemStep.blocks (h : MemStep core s t) : t.blocks = s.blocks := by
  obtain ⟨⟨m, sd, p, cs, rfl⟩, -⟩ := h
  rfl

theorem MemStep.gangs (h : MemStep core s t) : t.gangs = s.gangs := by
  obtain ⟨⟨m, sd, p, cs, rfl⟩, -⟩ := h
  rfl

theorem MemStep.launches (h : MemStep core s t) : t.launches = s.launches := by
  obtain ⟨⟨m, sd, p, cs, rfl⟩, -⟩ := h
  rfl

end
end Sys2Proof.Machine
end

section
/-! SUPPORT. WAITV (R262). -/
namespace Sys2Proof.Machine
open Sys2Proof Sys2Proof.Claims

section
variable {i : Instr} {s s' : State} {f : Fr} {n : Names} {lat : Option (Nat × Nat)} {early : Ctx → Option Nat} {c : Ctx} {body : Ctx → State → Body}

/-- The state of an instruction that has issued and waits. -/
def waitingState (c : Ctx) (f : Fr) (n : Names) (arr : Bool) (ph : Phase) (s : State) : State :=
  ((takeSlot c f n (match fctr f with
    | some k => if c.split.counted then s else s.modWarp c.w (·.incCtr k)
    | none => s)).modSplit c.w c.ent (fun sp => { sp with wait := some (.op true arr ph) })).bump

theorem issue_waits {arr : Bool} {ph : Phase} (h : Issues s f n lat early c) (hb : body c (advance c f n) = .waits arr ph s') :
    issue f n lat early body s = .next (waitingState c f n arr ph s') := by
  rw [issue_eq h, hb]
  rfl

theorem splitAt_waitingState (c : Ctx) (f : Fr) (n : Names) (arr : Bool) (ph : Phase) (s : State) :
    splitAt (waitingState c f n arr ph s) c.w c.ent = (splitAt s c.w c.ent).map (fun sp => { sp with wait := some (.op true arr ph) }) := by
  refine (splitAt_modSplit_self _ _ _).trans (congrArg (Option.map _) ?_)
  rw [show ∀ t, splitAt (takeSlot c f n t) c.w c.ent = splitAt t c.w c.ent from fun _ => rfl]
  split
  · split
    · rfl
    · exact splitAt_modWarp _ _ _
  · rfl

end

/-- Settles O29: the checks, the words still to read, and whether all of them satisfy the condition. -/
theorem waitForValue : Obligations.WaitForValue := by
  unfold Obligations.WaitForValue
  intro f d a off x spc sz scope ne s c n i chks h
  have hi : exec i s = execWaitv f d a off x spc sz scope ne s := exec_waitv ..
  rw [hi, execWaitv]
  refine ⟨fun ha => issue_done h (if_pos ha), fun ha hk => issue_trap h ((if_neg ha).trans ?_),
    fun hc => by simp [Ctx.got, hc], fun as ha hk => ?_⟩
  · dsimp only
    rw [show allOk (plainChks spc .read (szBytes sz) (fun c => c.ea a off) c) = none from hk]
    rfl
  intro todo r ok
  refine ⟨fun hall => issue_done h ((if_neg ha).trans ?_), fun hall => ?_⟩
  · dsimp only
    rw [show allOk (plainChks spc .read (szBytes sz) (fun c => c.ea a off) c) = some as from hk]
    exact if_pos hall
  · have hpre : splitAt (readHome c.core todo (noteTlb c.pre c.core todo)).1 c.w c.ent = some c.split :=
      (((memStep_noteTlb ..).trans (memStep_readHome ..)).splitAt c.w c.ent).trans h.splitAt_pre
    refine ⟨_, _, issue_waits h ((if_neg ha).trans ?_), (splitAt_waitingState ..).trans (congrArg _ ((splitAt_modSplit_self _ _ _).trans
      (congrArg (Option.map (fun sp => { sp with got := c.got ++ (r.2.filter ok).map (fun p => (p.1, BitVec.ofNat 64 (ofBytes p.2))) })) hpre))),
      rfl, rfl, rfl⟩
    dsimp only
    rw [show allOk (plainChks spc .read (szBytes sz) (fun c => c.ea a off) c) = some as from hk]
    exact if_neg (by rw [show waitvHolds c sz x ne r.2 = false from hall]; simp)

end Sys2Proof.Machine
end

section
/-! SUPPORT. The extended set (R277). -/
namespace Sys2Proof.Machine
open Sys2Proof Sys2Proof.Claims

section
variable {s st : State} {f : Fr} {n : Names} {lat : Option (Nat × Nat)} {early : Ctx → Option Nat} {c : Ctx} {wp : Warp} {sp : Split}

/-- A split of the issuer's entry that has moved past the instruction. -/
theorem goesTo_of_split? {t : State} (hw : tget t.warps c.w = some wp) (hs : wp.split? c.ent = some sp) (hm : sp.mask = c.split.mask)
    (hp : sp.pc = c.nextPc f) (hj : sp.joins = c.split.joins) (hr : sp.rets = c.split.rets) (hwait : sp.wait = none) :
    GoesTo c t c.ent c.split.mask (c.nextPc f) c.split.joins c.split.rets :=
  ⟨sp, by rw [splitAt, hw]; exact hs, hm, hp, hj, hr, hwait⟩

theorem Issues.movedOn_split? (h : Issues s f n lat early c) (n' : Names) :
    (c.warp.modSplit c.ent (movedOn c f n')).split? c.ent = some (movedOn c f n' c.split) :=
  (split?_modSplit_self c.warp c.ent).trans (by rw [h.split_eq]; rfl)

theorem xlock_takes (h : Issues s f noNames none (extEarly f false) c) (ha : c.act ≠ 0) (hp : pairHeld c = false) :
    ∃ t wp, exec (.xlock f) s = .next t ∧ tget t.warps c.w = some wp ∧ wp.xl = true ∧
      GoesTo c t c.ent c.split.mask (c.nextPc f) c.split.joins c.split.rets := by
  obtain ⟨ctrs, hw⟩ := h.advance_warp noNames
  have hx : tget ((advance c f noNames).modWarp c.w (fun wp => { wp with xl := true })).warps c.w =
      some { c.warp.modSplit c.ent (movedOn c f noNames) with ctrs := ctrs, xl := true } := by
    rw [State.modWarp_warps, tget_tmod_self, hw]; rfl
  obtain ⟨flights, hfl⟩ := finishFlight_warp (c := c) (f := f) [] .minimum hx
  rw [exec_xlock, execXlock]
  refine ⟨_, _, issue_done h ((if_neg ha).trans ?_), hfl, rfl, goesTo_of_split? hfl (h.movedOn_split? noNames) rfl rfl rfl rfl rfl⟩
  rw [hp]
  rfl

/-- A side of which the results of the extended set have landed. -/
def Split.extLanded (sp : Split) : Split := { sp with pend := sp.pend.filter (fun p => !extKey p.key) }

theorem freeExt_warp {w : Nat} (h : tget st.warps w = some wp) :
    tget (freeExt w st).warps w = some
      { wp with xl := false, splits := wp.splits.map Split.extLanded, parked := wp.parked.map (fun p => (p.1, p.2.extLanded)),
                starved := wp.starved.map Split.extLanded } := by
  unfold freeExt landExt
  rw [h]
  simp only [State.modWarp_warps, tget_tmod_self, setRegs_warps, h, Option.map_some]
  rfl

theorem xfree_gives (h : Issues s f noNames none (extEarly f true) c) (ha : c.act ≠ 0)
    (hf : ∀ x ∈ c.warp.flights, ∀ p ∈ x.regs, extKey p.1 = false) :
    ∃ t wp, exec (.xfree f) s = .next t ∧ tget t.warps c.w = some wp ∧ wp.xl = false ∧
      GoesTo c t c.ent c.split.mask (c.nextPc f) c.split.joins c.split.rets := by
  obtain ⟨ctrs, hw⟩ := h.advance_warp noNames
  obtain ⟨flights, hfl⟩ := finishFlight_warp (c := c) (f := f) [] .minimum (freeExt_warp hw)
  rw [exec_xfree, execXfree]
  refine ⟨_, _, issue_done h ((if_neg ha).trans (if_neg ?_)), hfl, rfl, goesTo_of_split? (sp := (movedOn c f noNames c.split).extLanded) hfl ?_
    rfl rfl rfl rfl rfl⟩
  · simpa using fun x hx k v hp => hf x hx (k, v) hp
  · exact (split?_map (wp := c.warp.modSplit c.ent (movedOn c f noNames)) (g := Split.extLanded) rfl (fun _ => rfl) c.ent).trans (congrArg (Option.map Split.extLanded) (h.movedOn_split? noNames))

theorem extEarly_false {free : Bool} (hr : rangeBad c (f.g.toNat, 1) = false)
    (h : c.riffle = true ∨ c.launch.record.xs = false ∨ (free = true ∧ c.warp.xl = false)) : extEarly f free c = some 0x05 := by
  unfold extEarly
  rw [hr]
  refine (if_neg Bool.false_ne_true).trans (if_pos ?_)
  simpa [or_assoc] using h

/-- The test at issue that traps with 0x05 stands before every other. -/
theorem issue_ext_refused {free : Bool} {body : Ctx → State → Body} (h : Comes s f c) (he : extEarly f free c = some 0x05) :
    issue f noNames none (extEarly f free) body s = .next (raiseTrap c f 0x05 c.split.mask [] none) := by
  obtain ⟨c0, h0, hg, rfl⟩ := h
  exact issue_refused h0 hg (by rw [he]; rfl)

end

/-- Settles O30: the test at issue, and who holds the pair's set. -/
theorem extendedSetLock : Obligations.ExtendedSetLock := by
  unfold Obligations.ExtendedSetLock
  intro f s c
  refine ⟨fun h => ⟨fun ha => ?lockNone, fun ha hp => xlock_takes h ha hp, fun ha hp => ?lockWaits⟩,
    fun h => ⟨fun ha => ?freeNone, fun ha hf => xfree_gives h ha hf⟩, fun h hr => ⟨fun hx => ?noSet, fun hx => ?notHeld⟩⟩
  case lockNone =>
    rw [exec_xlock, execXlock]
    exact issue_done h (if_pos ha)
  case lockWaits =>
    have hex : exec (.xlock f) s = .next (c.pre.modSplit c.w c.ent (fun sp => { sp with wait := some (.op false false .none) })) := by
      rw [exec_xlock, execXlock]
      exact issue_held h ((if_neg ha).trans (if_pos hp))
    exact waitsAt_of_held h hex
  case freeNone =>
    rw [exec_xfree, execXfree]
    exact issue_done h (if_pos ha)
  case noSet =>
    rw [exec_xlock, execXlock, exec_xfree, execXfree]
    exact ⟨issue_ext_refused h (extEarly_false hr (hx.imp_right .inl)), issue_ext_refused h (extEarly_false hr (hx.imp_right .inl))⟩
  case notHeld =>
    rw [exec_xfree, execXfree]
    exact issue_ext_refused h (extEarly_false hr (.inr (.inr ⟨rfl, hx⟩)))

end Sys2Proof.Machine
end

section
/-! SUPPORT. Concrete states for refutations: a warp that issues, and what can be decided of it. -/
namespace Sys2Proof.Machine
open Sys2Proof Sys2Proof.Claims

/-- Warp 4 of block 3 stands on core 0, and its split in entry 0 is to act. -/
def oneWarp : State := { loadProgram State.reset [] with turns := [], cur := (4, 0) }

/-- Whether the split that `cur` names issues, as an issuer of which `p` holds. -/
def issuesWith (s : State) (f : Fr) (n : Names) (lat : Option (Nat × Nat)) (early : Ctx → Option Nat) (p : Ctx → Bool) : Bool :=
  match s.issuer with
  | .ok c0 => gate c0 f && decide (issueCheck (c0.guarded f) n f.g (lat.map (fun p => (c0.guarded f).lat p.1 p.2)) (early (c0.guarded f)) = none) &&
      p (c0.guarded f)
  | _ => false

theorem exists_issues {s : State} {f : Fr} {n : Names} {lat : Option (Nat × Nat)} {early : Ctx → Option Nat} {P : Ctx → Prop} [DecidablePred P]
    (h : issuesWith s f n lat early (fun c => decide (P c)) = true) : ∃ c, Issues s f n lat early c ∧ P c := by
  unfold issuesWith at h
  split at h
  · next c0 hc =>
    simp only [Bool.and_eq_true, decide_eq_true_eq] at h
    obtain ⟨⟨hg, hk⟩, hp⟩ := h
    exact ⟨c0.guarded f, ⟨c0, hc, hg, rfl, hk⟩, hp⟩
  · cases h

/-- Whether an outcome is a next state of which `p` holds. -/
def nextSatisfies (o : Out) (p : State → Bool) : Bool :=
  match o with
  | .next t => p t
  | _ => false

/-! ### A barrier -/

/-- Warp 4 comes to barrier 15 of its block, at which the block's other warp, 9, has arrived. The table of warps lists 9 before 4, so that an
update of warp 4 lists it a second time. -/
def crowded : State :=
  { (oneWarp.modLaunch 1 (fun l => { l with record := { l.record with nbar := 16 } })).modBlock 3
      (fun b => { b with bars := [(15, ⟨0, 1, false, [9]⟩)] }) with
    warps := oneWarp.warps.map (fun p => (9, p.2)) ++ oneWarp.warps }

theorem crowded_issues : ∃ c, Issues crowded plainFr (nameS none none none) none (fun c => if c.launch.record.nbar ≤ 15 then some 0x01 else none) c ∧
    (c.w = 4 ∧ c.ent = 0 ∧ c.act ≠ 0 ∧ c.handler = false ∧ c.split.arrived = false ∧ c.w ∉ (c.block.bar 15).who ∧
      othersAt c [.bar 15 true, .bar 15 false] = true ∧ (c.block.bar 15).arr = 1 ∧ (c.block.bar 15).expw = 0 ∧
      (c.pre.warps.filter (fun p => decide (p.2.blk = c.warp.blk))).length = 2) := exists_issues (by decide)

/-- The second arrival of two leaves its split waiting. -/
theorem crowded_waits :
    nextSatisfies (exec (.barSync plainFr none 15) crowded) (fun t => (splitAt t 4 0).any (fun sp => decide (sp.wait = none))) = false := by
  decide

/-- Refutes O31: where the table of warps is not in rising order of numbers (which the statement asks of GBAR alone), an update lists the
arriving warp twice, so the phase that both warps of the block have reached does not end. -/
theorem not_barriers : ¬ Obligations.Barriers := by
  unfold Obligations.Barriers
  rintro ⟨hbar, -⟩
  obtain ⟨c, hc, hw, he, ha, hh, harr, hwho, hothers, hn, hexp, hlen⟩ := crowded_issues
  obtain ⟨-, -, -, -, -, hends, -⟩ := hbar plainFr none 15 crowded c hc
  obtain ⟨⟨t, ht, ⟨sp, hsp, -, -, -, -, hwait⟩, -⟩, -⟩ := (hends ⟨ha, hh, harr, nofun⟩ hwho hothers).1 (by
    simp only [show (15 : BitVec 4).toNat = 15 from rfl, hn, hexp, hlen]
    decide)
  have hstays := crowded_waits
  rw [ht] at hstays
  rw [hw, he] at hsp
  simp [nextSatisfies, hsp, hwait] at hstays

end Sys2Proof.Machine
end

section
/-! SUPPORT. Posting the commands of an SLX. -/
namespace Sys2Proof.Machine
open Sys2Proof Sys2Proof.Claims

theorem exec_slx (m : Nat) (f : Fr) (d : Reg) (a b : Option Src) (x : Reg) (s : State) (hm : m ≤ 6) :
    exec (slx m f d a b x) s = slxOp f d m a b x s := by
  interval_cases m <;> rfl

section
variable {s : State} {c : Ctx} {f : Fr} {d : Reg} {m : Nat} {a b : Option Src} {x : Reg}

/-- Whether the engine's queue takes the commands `ok`: among its 64 entries, behind no command of a resumed block. -/
def Takes (c : Ctx) (ok : List Cmd) : Prop :=
  (c.pre.core c.core).queueLen + ok.length ≤ 64 ∧ (ok = [] ∨ c.pre.cmdsDue c.core = false)

theorem not_takes_iff {c : Ctx} {ok : List Cmd} :
    (64 < (c.pre.core c.core).queueLen + ok.length ∨ (ok ≠ [] ∧ c.pre.cmdsDue c.core = true)) ↔ ¬ Takes c ok := by
  unfold Takes
  rw [Classical.not_and_iff_not_or_not, Nat.not_le, not_or, Bool.not_eq_false]

/-- The state in which the commands have entered the queue and their threads' batches. -/
def posting (c : Ctx) (f : Fr) (n : Names) (cmds : List Cmd) (ok : Cmd → Bool) : State :=
  (cmds.foldl (fun s k => s.modBatches c.w k.thread (fun b => if ok k then b.join else b.refuse)) (advance c f n)).modCore c.core
    (fun k => { k with sluice := k.sluice ++ cmds.filter ok })

theorem slxOp_posts (h : Issues s f (nameD d (osrc a) (osrc b) (some (x.toNat, 8))) none noEarly c) (ha : c.act ≠ 0)
    (ht : Takes c ((c.doers.map (slxCmd c m a b x)).filter (cmdOk c.pre c.block c.ctx.world))) :
    slxOp f d m a b x s = .next (flightNext c f
      (c.outs [(d.toNat, fun t => (((c.doers.map (slxCmd c m a b x)).find? (fun k => decide (k.thread = t))).map
        (fun k => k.batch.zeroExtend 32)).getD 0)])
      (posting c f (nameD d (osrc a) (osrc b) (some (x.toNat, 8))) (c.doers.map (slxCmd c m a b x)) (cmdOk c.pre c.block c.ctx.world))) := by
  unfold slxOp
  refine issue_done h ((if_neg ha).trans ((if_neg (fun hw => not_takes_iff.mp hw ht)).trans ?_))
  refine congrArg (fun num => Body.done (flightNext c f (c.outs [(d.toNat, num)]) (posting c f
    (nameD d (osrc a) (osrc b) (some (x.toNat, 8))) (c.doers.map (slxCmd c m a b x)) (cmdOk c.pre c.block c.ctx.world)))) (funext fun t => ?_)
  cases (c.doers.map (slxCmd c m a b x)).find? (fun k => decide (k.thread = t)) <;> rfl

end

/-- Settles O32: the queue takes all of the threads' commands or none. -/
theorem postingCopyCommands : Obligations.PostingCopyCommands := by
  unfold Obligations.PostingCopyCommands
  refine ⟨fun m f d a b x s c hm h => ?_, fun c m a b x t => ?fields⟩
  case fields =>
    refine ⟨?_, ?_, rfl, rfl, rfl, rfl, ?_, rfl, rfl⟩
    · cases b <;> rfl
    · cases a <;> rfl
    · refine (BitVec.toNat_ofNat _ _).trans (congrArg (fun y : Batches => y.openNum % 65536) ?_)
      unfold Ctx.batches tgetD
      cases tget c.warp.batches t <;> rfl
  rw [exec_slx m f d a b x s hm]
  refine ⟨fun ha => issue_done h (if_pos ha), fun ha ht => slxOp_posts h ha ht, fun ha hn => waitsAt_of_held h ?_⟩
  rw [exec_slx m f d a b x s hm]
  exact issue_held h ((if_neg ha).trans (if_pos (not_takes_iff.mpr hn)))

end Sys2Proof.Machine
end

section
/-! SUPPORT. Batches: sealing the open one, waiting for sealed ones, and what ENGSYNC waits for. -/
namespace Sys2Proof.Machine
open Sys2Proof Sys2Proof.Claims

/-! ### Closing and waiting -/

theorem close_of_room (b : Batches) (h : b.sealed.length < 8) :
    b.close = { b with sealed := b.sealed ++ [⟨b.openNum % 65536, b.openLeft, b.openStatus⟩], openNum := b.openNum + 1, openLeft := 0, openStatus := 0 } := by
  unfold Batches.close
  rw [if_neg (Nat.not_le.mpr h)]

theorem close_of_full (b : Batches) (x : Batch) (r : List Batch) (hs : b.sealed = x :: r) (h : 8 ≤ b.sealed.length) :
    b.close.sealed = r ++ [⟨b.openNum % 65536, b.openLeft, b.openStatus⟩] ∧ b.close.carried = max b.carried x.status := by
  unfold Batches.close
  rw [if_pos h, hs]
  exact ⟨rfl, rfl⟩

/-- The highest status of a list, folded from `m`, bounds them all and is `m` or one of them. -/
theorem foldl_max_status (l : List Batch) (m : Nat) :
    let y := l.foldl (fun m x => max m x.status) m
    (∀ x ∈ l, x.status ≤ y) ∧ m ≤ y ∧ (y = m ∨ ∃ x ∈ l, y = x.status) := by
  induction l generalizing m with
  | nil => exact ⟨nofun, Nat.le_refl _, .inl rfl⟩
  | cons z l ih =>
    obtain ⟨hall, hm, heq⟩ := ih (max m z.status)
    refine ⟨List.forall_mem_cons.mpr ⟨(Nat.le_max_right ..).trans hm, hall⟩, (Nat.le_max_left ..).trans hm, ?_⟩
    rcases heq with heq | ⟨x, hx, heq⟩
    · rcases Nat.le_total m z.status with hle | hle
      · exact .inr ⟨z, List.mem_cons_self, heq.trans (Nat.max_eq_right hle)⟩
      · exact .inl (heq.trans (Nat.max_eq_left hle))
    · exact .inr ⟨x, List.mem_cons_of_mem _ hx, heq⟩

theorem wait_of_sealed (b : Batches) (n : Nat) (h : b.isSealed n = true) :
    b.wait n = ((b.upTo n).foldl (fun m x => max m x.status) b.carried, { b with sealed := b.sealed.filter (fun x => !(b.upTo n).contains x), carried := 0 }) :=
  if_pos h

theorem wait_of_not_sealed (b : Batches) (n : Nat) (h : b.isSealed n = false) : b.wait n = (max 1 b.carried, { b with carried := 0 }) :=
  if_neg (Bool.eq_false_iff.mp h)

/-! ### Splits that wait at their instruction with its slot taken -/

section
variable {s : State} {c : Ctx} {f : Fr} {n : Names} {i : Instr} {lat : Option (Nat × Nat)} {early : Ctx → Option Nat}

theorem waitsAt_of_waits {arr : Bool} {ph : Phase} (h : Issues s f n lat early c) (hi : exec i s = .next (waitingState c f n arr ph c.pre)) :
    WaitsAt i s c true arr ph :=
  ⟨_, { c.split with wait := some (.op true arr ph) }, hi, by rw [splitAt_waitingState, h.splitAt_pre]; rfl, rfl, rfl⟩

theorem passes_of_engsyncOp {fin : Ctx → State → State} (hi : ∀ s, exec i s = engsyncOp f early fin s) : Passes i f noNames early :=
  passes_of_issue hi (fun _ _ ha => if_pos ha)

end

/-- Settles O33: a batch is sealed, waited for and retired by its number. -/
theorem copyBatches : Obligations.CopyBatches := by
  unfold Obligations.CopyBatches
  refine ⟨fun f d a scope => ⟨?_, ?_, ?_, ?_⟩, fun f d a s c => ⟨fun h ha hc => ?_, fun h ha hc => ?_, ?_, close_of_room, close_of_full,
    fun b n hs => ?_, wait_of_not_sealed, fun h ha hc => ?_, fun scope h ha hc => ?_, fun h ha hc => ?_⟩⟩
  · exact passes_of_issue (exec_bseal f d) (fun _ _ ha => if_pos ha)
  · exact passes_of_issue (exec_bwait f d a) (fun _ _ ha => if_pos ha)
  · exact passes_of_engsyncOp (exec_engsyncCmp f)
  · exact passes_of_engsyncOp (exec_engsyncPub f scope)
  · have hnone : ¬ c.doers.any (fun t => (c.batches t).crowded) = true := by simpa using hc
    rw [exec_bseal, execBseal]
    exact issue_done h ((if_neg ha).trans (if_neg hnone))
  · have hany : c.doers.any (fun t => (c.batches t).crowded) = true := by simpa using hc
    refine waitsAt_of_held h ?_
    rw [exec_bseal, execBseal]
    exact issue_held h ((if_neg ha).trans (if_pos hany))
  · intro n busy h ha
    have hbusy : c.doers.any (fun t => (c.batches t).isSealed (n t) && ((c.batches t).upTo (n t)).any (fun x => decide (x.left ≠ 0))) = true ↔
        ∃ t ∈ c.doers, busy t := by
      simp only [List.any_eq_true, Bool.and_eq_true, decide_eq_true_eq, busy]
    refine ⟨fun hno => ?_, fun hyes => waitsAt_of_waits h ?_⟩
    · rw [exec_bwait, execBwait]
      exact issue_done h ((if_neg ha).trans (if_neg (fun hb => (hbusy.mp hb).elim fun t ht => hno t ht.1 ht.2)))
    · rw [exec_bwait, execBwait]
      exact issue_waits h ((if_neg ha).trans (if_pos (hbusy.mpr hyes)))
  · rw [wait_of_sealed b n hs]
    obtain ⟨hall, hle, heq⟩ := foldl_max_status (b.upTo n) b.carried
    exact ⟨hall, hle, heq, rfl, fun x => by simp [List.mem_filter]⟩
  · rw [exec_engsyncCmp, execEngsyncCmp]
    exact issue_done h ((if_neg ha).trans (if_neg (Bool.eq_false_iff.mp hc)))
  · rw [exec_engsyncPub, execEngsyncPub]
    exact issue_done h ((if_neg ha).trans (if_neg (Bool.eq_false_iff.mp hc)))
  · refine waitsAt_of_waits h ?_
    rw [exec_engsyncCmp, execEngsyncCmp]
    exact issue_waits h ((if_neg ha).trans (if_pos hc))

end Sys2Proof.Machine
end

section
/-! SUPPORT. Flumes and weir slots as instructions see them. -/
namespace Sys2Proof.Machine
open Sys2Proof Sys2Proof.Claims

section
variable {s : State} {c : Ctx} {f : Fr} {d a : Reg} {k : BitVec 4} {i : Instr} {x : Flume}
  {body : Ctx → Flume → Nat → State → (Word → State → Body) → Body}

/-- An undeclared flume is refused at issue (R233). -/
def flumeEarly (k : BitVec 4) (c : Ctx) : Option Nat := if k.toNat < c.block.flumes.length then none else some 0x01

/-- What a flume instruction does with a count that its flume admits. -/
def flumeBody (f : Fr) (d : Reg) (body : Ctx → Flume → Nat → State → (Word → State → Body) → Body) (c : Ctx) (x : Flume) (v : Nat) (st : State) : Body :=
  body c x v st (fun w s => .done (flightNext c f (c.outs [(d.toNat, fun _ => w)]) s))

theorem passes_of_flumeOp (hi : ∀ s, exec i s = flumeOp f d a k body s) : Passes i f (nameD d (reg1 a) none none) (flumeEarly k) :=
  passes_of_issue hi (fun _ _ ha => if_pos ha)

theorem flumeOp_too_many (h : Issues s f (nameD d (reg1 a) none none) none (flumeEarly k) c) (ha : c.act ≠ 0)
    (hx : c.block.flumes[k.toNat]? = some x) (hv : x.depth < (c.reg a.toNat (lowest c.act)).toNat) :
    flumeOp f d a k body s = .next (raiseTrap c f 0x08 c.act [] none) := by
  unfold flumeOp
  refine issue_trap h ((if_neg ha).trans ?_)
  rw [hx]
  exact if_pos hv

theorem flumeOp_done {t : State} (h : Issues s f (nameD d (reg1 a) none none) none (flumeEarly k) c) (ha : c.act ≠ 0)
    (hx : c.block.flumes[k.toNat]? = some x) (hv : (c.reg a.toNat (lowest c.act)).toNat ≤ x.depth)
    (hb : flumeBody f d body c x (c.reg a.toNat (lowest c.act)).toNat (advance c f (nameD d (reg1 a) none none)) = .done t) :
    flumeOp f d a k body s = .next t := by
  unfold flumeOp
  refine issue_done h ((if_neg ha).trans ?_)
  rw [hx]
  exact (if_neg (Nat.not_lt.mpr hv)).trans hb

theorem flumeOp_traps {e : Nat} (h : Issues s f (nameD d (reg1 a) none none) none (flumeEarly k) c) (ha : c.act ≠ 0)
    (hx : c.block.flumes[k.toNat]? = some x) (hv : (c.reg a.toNat (lowest c.act)).toNat ≤ x.depth)
    (hb : flumeBody f d body c x (c.reg a.toNat (lowest c.act)).toNat (advance c f (nameD d (reg1 a) none none)) = .trap e c.act [] none) :
    flumeOp f d a k body s = .next (raiseTrap c f e c.act [] none) := by
  unfold flumeOp
  refine issue_trap h ((if_neg ha).trans ?_)
  rw [hx]
  exact (if_neg (Nat.not_lt.mpr hv)).trans hb

theorem flumeOp_waits (hi : exec i s = flumeOp f d a k body s) (h : Issues s f (nameD d (reg1 a) none none) none (flumeEarly k) c)
    (ha : c.act ≠ 0) (hx : c.block.flumes[k.toNat]? = some x) (hv : (c.reg a.toNat (lowest c.act)).toNat ≤ x.depth)
    (hb : flumeBody f d body c x (c.reg a.toNat (lowest c.act)).toNat (advance c f (nameD d (reg1 a) none none)) = .waits false .none c.pre) :
    WaitsAt i s c true false .none := by
  refine waitsAt_of_waits (f := f) (n := nameD d (reg1 a) none none) h (hi.trans ?_)
  unfold flumeOp
  refine issue_waits h ((if_neg ha).trans ?_)
  rw [hx]
  exact (if_neg (Nat.not_lt.mpr hv)).trans hb

end

section
variable {s : State} {c : Ctx} {f : Fr} {d a : Reg} {k : BitVec 4} {x : Flume}
  (h : Issues s f (nameD d (reg1 a) none none) none (flumeEarly k) c) (ha : c.act ≠ 0)
  (hx : c.block.flumes[k.toNat]? = some x) (hv : (c.reg a.toNat (lowest c.act)).toNat ≤ x.depth)
include h ha hx hv

/-- FLPUT moves the count of the data that have been put, where there is room (R234). -/
theorem flput_eq : exec (.flput f d a k) s =
    if x.depth < (x.p - x.q).toNat + (c.reg a.toNat (lowest c.act)).toNat then .next (raiseTrap c f 0x08 c.act [] none)
    else .next (flightNext c f (c.outs [(d.toNat, fun _ => x.p + BitVec.ofNat 32 (c.reg a.toNat (lowest c.act)).toNat)])
      ((releaseAt c 1 (advance c f (nameD d (reg1 a) none none))).modFlume c.warp.blk k.toNat
        (fun y => { y with p := x.p + BitVec.ofNat 32 (c.reg a.toNat (lowest c.act)).toNat }))) := by
  split
  · next hfull => exact (exec_flput ..).trans (flumeOp_traps h ha hx hv (if_pos hfull))
  · next hroom => exact (exec_flput ..).trans (flumeOp_done h ha hx hv (if_neg hroom))

/-- FLGET moves the count of the data that have been got, where there are enough (R234). -/
theorem flget_eq : exec (.flget f d a k) s =
    if (x.p - x.q).toNat < (c.reg a.toNat (lowest c.act)).toNat then .next (raiseTrap c f 0x08 c.act [] none)
    else .next (flightNext c f (c.outs [(d.toNat, fun _ => x.q + BitVec.ofNat 32 (c.reg a.toNat (lowest c.act)).toNat)])
      ((releaseAt c 1 (advance c f (nameD d (reg1 a) none none))).modFlume c.warp.blk k.toNat
        (fun y => { y with q := x.q + BitVec.ofNat 32 (c.reg a.toNat (lowest c.act)).toNat }))) := by
  split
  · next hfew => exact (exec_flget ..).trans (flumeOp_traps h ha hx hv (if_pos hfew))
  · next hmany => exact (exec_flget ..).trans (flumeOp_done h ha hx hv (if_neg hmany))

theorem flwaitData_gives (hd : x.rin + (c.reg a.toNat (lowest c.act)).toNat ≤ (x.p - x.q).toNat) : exec (.flwaitData f d a k) s =
    .next (flightNext c f (c.outs [(d.toNat, fun _ => BitVec.ofNat 32 (x.base + (x.q + BitVec.ofNat 32 x.rin).toNat % x.depth * x.size))])
      (acquireAt c 1 (advance c f (nameD d (reg1 a) none none)))) :=
  (exec_flwaitData ..).trans (flumeOp_done h ha hx hv (if_pos hd))

theorem flwaitRoom_gives (hr : x.rout + (c.reg a.toNat (lowest c.act)).toNat ≤ x.depth - (x.p - x.q).toNat) : exec (.flwaitRoom f d a k) s =
    .next (flightNext c f (c.outs [(d.toNat, fun _ => BitVec.ofNat 32 (x.base + (x.p + BitVec.ofNat 32 x.rout).toNat % x.depth * x.size))])
      (advance c f (nameD d (reg1 a) none none))) :=
  (exec_flwaitRoom ..).trans (flumeOp_done h ha hx hv (if_pos hr))

end

theorem freeWeir_eq (k : Core) (n : Nat) : k.freeWeir n =
    { k with weirs := k.weirs.filter (fun p => decide (p.1 ≠ n)), weirBy := k.weirBy.filter (fun p => decide (p.1 ≠ n)) } := by
  simp only [Core.freeWeir, Core.freeWeirs, decide_not]

/-- Settles O34: the tests of a flume's counts, in their order. -/
theorem flumesAndWeirSlots : Obligations.FlumesAndWeirSlots := by
  unfold Obligations.FlumesAndWeirSlots
  refine ⟨fun f d a k w => ⟨?_, passes_of_issue (exec_weirsetSet f a w) (fun _ _ ha => if_pos ha), ?_⟩, fun f d a k s c x => ?_⟩
  · simp only [List.forall_mem_cons, List.not_mem_nil, false_imp_iff, implies_true, and_true]
    exact ⟨passes_of_flumeOp (exec_flput f d a k), passes_of_flumeOp (exec_flget f d a k), passes_of_flumeOp (exec_flwaitData f d a k),
      passes_of_flumeOp (exec_flwaitRoom f d a k)⟩
  · intro s c h ha
    rw [exec_weirsetClr, execWeirsetClr]
    exact issue_done h (if_pos ha)
  refine ⟨fun h ha hx => ⟨fun hv => ⟨?_, ?_, ?_, ?_⟩, fun hv => ⟨flput_eq h ha hx hv, flget_eq h ha hx hv, flwaitData_gives h ha hx hv,
    fun hd => ?_, flwaitRoom_gives h ha hx hv, fun hr => ?_⟩⟩, fun w => ⟨fun h ha => ?_, fun h ha => ?_⟩⟩
  · exact (exec_flput ..).trans (flumeOp_too_many h ha hx hv)
  · exact (exec_flget ..).trans (flumeOp_too_many h ha hx hv)
  · exact (exec_flwaitData ..).trans (flumeOp_too_many h ha hx hv)
  · exact (exec_flwaitRoom ..).trans (flumeOp_too_many h ha hx hv)
  · exact flumeOp_waits (exec_flwaitData ..) h ha hx hv (if_neg (Nat.not_le.mpr hd))
  · exact flumeOp_waits (exec_flwaitRoom ..) h ha hx hv (if_neg (Nat.not_le.mpr hr))
  · rw [exec_weirsetSet, execWeirsetSet]
    exact issue_done h (if_neg ha)
  · rw [exec_weirsetClr, execWeirsetClr]
    refine issue_done h ((if_neg ha).trans ?_)
    simp only [freeWeir_eq]
    rfl

end Sys2Proof.Machine
end

section
/-! SUPPORT. Joining, forming and leaving rafts. -/
namespace Sys2Proof.Machine
open Sys2Proof Sys2Proof.Claims

/-! ### Full rafts -/

theorem formOne_of_full {s : State} {twin : Nat} (k : Nat) (h : 8 ≤ (raftsOn s twin).length) : formOne twin s k = s := if_neg (Nat.not_lt.mpr h)

theorem formOne_of_none {s : State} {twin : Nat} (k : Nat) (h : fullRafts s twin = []) : formOne twin s k = s := by
  simp only [formOne, h, List.length_nil, List.getElem?_nil, ite_self]

theorem foldl_eq_self {α β : Type} {g : β → α → β} {b : β} (l : List α) (h : ∀ x, g b x = b) : l.foldl g b = b := by
  induction l with
  | nil => rfl
  | cons x l ih => rw [List.foldl_cons, h, ih]

/-- Of several full rafts a free one forms. -/
theorem formOne_forms {s : State} {twin k : Nat} (hroom : (raftsOn s twin).length < 8) (hsome : fullRafts s twin ≠ []) :
    ∃ p ∈ fullRafts s twin, formOne twin s k = formRaft s p.1 p.2 := by
  have hlt : Config.freePick s.free (20 + k) % (fullRafts s twin).length < (fullRafts s twin).length :=
    Nat.mod_lt _ (List.length_pos_of_ne_nil hsome)
  refine ⟨_, List.getElem_mem hlt, ?_⟩
  unfold formOne
  simp only [if_pos hroom, List.getElem?_eq_getElem hlt]

/-! ### CONVENE -/

section
variable {s : State} {c : Ctx} {f : Fr} {d : Reg} {rid : BitVec 2} {kc : BitVec 3}

/-- The issuer as one that joins a raft. -/
def joiner (c : Ctx) (f : Fr) (d : Reg) : Member := { warp := c.w, ent := c.ent, fr := f, lane := lowest c.act, d := d }

/-- The raft of the issuer's group with number `rid`. -/
def raftFor (c : Ctx) (rid : BitVec 2) : Option (Nat × Raft) :=
  c.pre.rafts.find? (fun p => decide (p.2.gang = c.gangId) && decide (p.2.rid = rid.toNat) && decide (p.2.blk = groupBlock c.pre c))

/-- The raft that the first to join makes. -/
def newRaft (c : Ctx) (rid : BitVec 2) (kc : BitVec 3) : Raft :=
  { twin := c.core / 2, rid := rid.toNat, blk := groupBlock c.pre c, gang := c.gangId, size := kc.toNat + 1, formed := false, joiners := [],
    members := [], elect := 0, left := [], ops := [], kept := [] }

/-- The state in which the issuer waits for raft `id` to form. -/
def joinWaits (c : Ctx) (f : Fr) (d : Reg) (s : State) (id : Nat) : State :=
  ((takeSlot c f (nameD d none none none) (counted c f (s.modWarp c.w (fun wp => { wp with raft := some id })))).modSplit c.w c.ent (fun sp =>
    { sp with wait := some (.op true true .none) })).bump

def joined (c : Ctx) (f : Fr) (d : Reg) (s : State) (id : Nat) (r : Raft) : State :=
  formWaiting { joinWaits c f d s id with rafts := tput (joinWaits c f d s id).rafts id { r with joiners := r.joiners ++ [joiner c f d] } } r.twin

/-- What a CONVENE that looks for its raft does. -/
def conveneBody (f : Fr) (d : Reg) (rid : BitVec 2) (kc : BitVec 3) (c : Ctx) : Body :=
  if c.warp.raft.isSome then .trap 0x08 c.act [] none
  else
    match raftFor c rid with
    | some (id, r) =>
      if r.size ≠ kc.toNat + 1 ∨ r.formed ∨ r.size ≤ r.joiners.length then .trap 0x08 c.act [] none else .done (joined c f d c.pre id r)
    | none => .done (joined c f d { c.pre with uid := c.pre.uid + 1 } c.pre.uid (newRaft c rid kc))

theorem convene_body (ha : c.act ≠ 0) (hh : c.handler = false) (hr : c.split.arrived = false) (st : State) {b : Body}
    (hb : conveneBody f d rid kc c = b) :
    (if c.act = 0 then .done (finishFlight c f [] .minimum st)
     else if c.handler then .trap 0x42 c.act [] none
     else if c.split.arrived then .waits true c.split.phase c.pre
     else conveneBody f d rid kc c) = b := by
  rw [if_neg ha, if_neg (Bool.eq_false_iff.mp hh), if_neg (Bool.eq_false_iff.mp hr), hb]

theorem convene_done {t : State} (h : Issues s f (nameD d none none none) none reachOnly c) (ha : c.act ≠ 0) (hh : c.handler = false)
    (hr : c.split.arrived = false) (hb : conveneBody f d rid kc c = .done t) : exec (.convene f d rid kc) s = .next t := by
  rw [exec_convene, execConvene]
  exact issue_done h (convene_body ha hh hr _ hb)

theorem convene_trap (h : Issues s f (nameD d none none none) none reachOnly c) (ha : c.act ≠ 0) (hh : c.handler = false)
    (hr : c.split.arrived = false) (hb : conveneBody f d rid kc c = .trap 0x08 c.act [] none) :
    exec (.convene f d rid kc) s = .next (raiseTrap c f 0x08 c.act [] none) := by
  rw [exec_convene, execConvene]
  exact issue_trap h (convene_body ha hh hr _ hb)

theorem conveneBody_of_none (hw : c.warp.raft = none) (hf : raftFor c rid = none) :
    conveneBody f d rid kc c = .done (joined c f d { c.pre with uid := c.pre.uid + 1 } c.pre.uid (newRaft c rid kc)) := by
  simp only [conveneBody, hw, hf, Option.isSome_none, Bool.false_eq_true, if_false]

theorem conveneBody_of_some {id : Nat} {r : Raft} (hw : c.warp.raft = none) (hf : raftFor c rid = some (id, r)) :
    conveneBody f d rid kc c = if r.size ≠ kc.toNat + 1 ∨ r.formed ∨ r.size ≤ r.joiners.length then .trap 0x08 c.act [] none
      else .done (joined c f d c.pre id r) := by
  simp only [conveneBody, hw, hf, Option.isSome_none, Bool.false_eq_true, if_false]

/-! ### DISBAND -/

theorem disband_trap (h : Issues s f noNames none reachOnly c) (ha : c.act ≠ 0) (hr : c.raft? = none) :
    exec (.disband f) s = .next (raiseTrap c f 0x08 c.act [] none) := by
  rw [exec_disband, execDisband]
  refine issue_trap h ((if_neg ha).trans ?_)
  rw [hr]

theorem disband_leaves {id : Nat} {r : Raft} (h : Issues s f noNames none reachOnly c) (ha : c.act ≠ 0) (hr : c.raft? = some (id, r))
    (hno : ¬ r.ops.any (fun o => o.issued.any (fun m => decide (m.warp = c.w))) = true) :
    exec (.disband f) s = .next (minimumNext c f (leaveRaft (advance c f noNames) c.w)) := by
  rw [exec_disband, execDisband]
  refine issue_done h ((if_neg ha).trans ?_)
  rw [hr]
  exact if_neg hno

theorem disband_waits {id : Nat} {r : Raft} (h : Issues s f noNames none reachOnly c) (ha : c.act ≠ 0) (hr : c.raft? = some (id, r))
    (hop : r.ops.any (fun o => o.issued.any (fun m => decide (m.warp = c.w))) = true) : WaitsAt (.disband f) s c true false .none := by
  refine waitsAt_of_waits h ?_
  rw [exec_disband, execDisband]
  refine issue_waits h ((if_neg ha).trans ?_)
  rw [hr]
  exact if_pos hop

end

/-- Settles O35: joining by the raft's tests, forming while the twin has room, leaving with no operation under way. -/
theorem raftMembership : Obligations.RaftMembership := by
  unfold Obligations.RaftMembership
  refine ⟨fun f d rid kc => ⟨?_, ?_⟩, fun f d rid kc s c => ?_, fun s twin => rfl, fun s twin k hroom hsome => formOne_forms hroom hsome,
    fun s twin hnone => ?_, fun s twin hfull => ?_, fun f s c h ha => ⟨disband_trap h ha, fun id r hr => ⟨fun hno => ?_, fun hop => ?_⟩⟩⟩
  · exact passes_of_issue (exec_convene f d rid kc) (fun _ _ ha => if_pos ha)
  · intro s c h ha
    rw [exec_disband, execDisband]
    exact issue_done h (if_pos ha)
  · intro blk me found waits h ha hh hr
    refine ⟨fun hw => convene_trap h ha hh hr ?_, fun hw hf => convene_done h ha hh hr (conveneBody_of_none hw hf),
      fun id r hw hf hsize hform hlen => convene_done h ha hh hr ((conveneBody_of_some hw hf).trans ?_),
      fun id r hw hf hbad => convene_trap h ha hh hr ((conveneBody_of_some hw hf).trans (if_pos hbad))⟩
    · exact if_pos (Option.isSome_iff_ne_none.mpr hw)
    · refine if_neg ?_
      rintro (hne | hf | hle)
      · exact hne hsize
      · exact Bool.false_ne_true (hform.symm.trans hf)
      · exact Nat.not_le.mpr hlen hle
  · exact foldl_eq_self _ (fun k => formOne_of_none k hnone)
  · exact foldl_eq_self _ (fun k => formOne_of_full k hfull)
  · exact disband_leaves h ha hr (by simpa using hno)
  · exact disband_waits h ha hr (by simpa using hop)

end Sys2Proof.Machine
end

section
/-! SUPPORT. A raft with no members. -/
namespace Sys2Proof.Machine
open Sys2Proof Sys2Proof.Claims

/-- Warp 4 holds raft 7, which has formed and has no members. -/
def memberless : State :=
  { oneWarp.modWarp 4 (fun wp => { wp with raft := some 7 }) with
    rafts := [(7, { twin := 0, rid := 0, blk := 3, gang := 2, size := 1, formed := true, joiners := [], members := [], elect := 0, left := [],
                    ops := [], kept := [] })] }

theorem memberless_issues : ∃ c, Issues memberless plainFr (tileNames (.taccZero plainFr (.reg 0))) none reachOnly c ∧
    ∃ r, c.raft? = some (7, r) ∧ c.split.arrived = false ∧ r.left = [] ∧ r.ops = [] ∧ r.members = [] := by
  have hfind : ∃ c, Issues memberless plainFr (tileNames (.taccZero plainFr (.reg 0))) none reachOnly c ∧ (c.split.arrived = false ∧
      c.raft? = some (7, { twin := 0, rid := 0, blk := 3, gang := 2, size := 1, formed := true, joiners := [], members := [], elect := 0,
                           left := [], ops := [], kept := [] })) := exists_issues (by decide)
  obtain ⟨c, hc, harr, hraft⟩ := hfind
  exact ⟨c, hc, _, hraft, harr, rfl, rfl, rfl⟩

/-- The operation counts as issued by every member, and leaves the raft at once, its guard false. -/
theorem memberless_drops :
    nextSatisfies (exec (.taccZero plainFr (.reg 0)) memberless) (fun t => (tget t.rafts 7).any (fun r => r.ops.isEmpty)) = true := by
  decide

theorem modRaft_bump_rafts (s : State) (rid : Nat) (g : Raft → Raft) : tget (s.modRaft rid g).bump.rafts rid = (tget s.rafts rid).map g :=
  tget_tmod_self _ _ _

/-- Refutes O36: a formed raft without members has every member's issue at once, so the operation of the first warp to come does not stay
open. -/
theorem not_raftOperations : ¬ Obligations.RaftOperations := by
  unfold Obligations.RaftOperations
  rintro ⟨hissue, -⟩
  obtain ⟨c, hc, r, hraft, harr, hleft, hops, hmembers⟩ := memberless_issues
  obtain ⟨-, hformed⟩ := hissue (.taccZero plainFr (.reg 0)) plainFr memberless c rfl hc
  have hopens := (hformed 7 r hraft harr hleft).1 (by rw [hops]; rfl)
  have hdrops := memberless_drops
  rw [hopens, hmembers, if_neg (by decide)] at hdrops
  simp only [nextSatisfies, modRaft_bump_rafts, Option.any_map] at hdrops
  simp [Option.any_eq_true] at hdrops

end Sys2Proof.Machine
end

section
/-! SUPPORT. An operation of a handler in the array. -/
namespace Sys2Proof.Machine
open Sys2Proof Sys2Proof.Claims

/-- The member of a raft whose handler, in entry 65, issued an operation. -/
def handlerMember : Member := { warp := 4, ent := 65, fr := plainFr, lane := 0, d := 0 }

/-- An operation that has begun and reads and writes nothing. -/
def begunOp : ArrayOp :=
  { raft := 7, k := 0, instr := .twrRec plainFr (.reg 0) 0 .f32, vals := [], priv := false, spans := [], recs := [], log := none, begun := true }

/-- A raft of warp 4 alone, whose operation is that of its handler. -/
def handlerRaft : Raft :=
  { twin := 0, rid := 0, blk := 3, gang := 2, size := 1, formed := true, joiners := [], members := [4], elect := 0, left := [],
    ops := [{ k := 0, instr := begunOp.instr, issued := [handlerMember], guard := true, vals := [], priv := false, spans := [] }], kept := [] }

/-- Warp 4 is in its handler, and the operation of its raft has begun. -/
def handlerOp : State :=
  { (oneWarp.modWarp 4 (fun wp => { wp with raft := some 7, splits := wp.splits.map (fun sp => { sp with ent := 65 }) })).modTwin 0
      (fun t => { t with ops := [begunOp] }) with rafts := [(7, handlerRaft)] }

/-- The state in which the operation has been performed. -/
def performed (v : TileEnv) : State :=
  countHealth (noteAll (tilePerform handlerOp v begunOp).s v.eng (opPages begunOp)) v.blk (tilePerform handlerOp v begunOp).ev

/-- A fault named 0 is raised with the cause of a double fault. -/
theorem handlerOp_raises : (tileEnv handlerOp handlerRaft false).any (fun v =>
    decide ((performed v).raised = []) && decide ((raiseRaft (performed v) handlerRaft [handlerMember] 0 0 0 0).raised.map (·.cause) = [0x42])) = true := by
  decide

/-- Refutes O37: the fault of an operation that a handler issued is that handler's double fault (R521), whatever cause is named. -/
theorem not_arrayProgress : ¬ Obligations.ArrayProgress := by
  unfold Obligations.ArrayProgress
  intro h
  obtain ⟨v, hv, hraise⟩ := (Option.any_eq_true _ _).mp handlerOp_raises
  simp only [Bool.and_eq_true, decide_eq_true_eq] at hraise
  obtain ⟨hnone, hcause⟩ := hraise
  obtain ⟨-, hdone⟩ := h handlerOp 0 begunOp [] rfl
  obtain ⟨-, -, -, hnames⟩ := hdone handlerRaft v rfl hv rfl (fun f d x he => by cases he)
  obtain ⟨x, hx, hx42⟩ := List.map_eq_singleton_iff.mp hcause
  obtain ⟨hzero, -⟩ := hnames x 0 0 0 0 (by
    refine Eq.trans ?_ (congrArg (· ++ [x]) hnone.symm)
    exact hx)
  exact absurd (hzero.symm.trans hx42) (by decide)

end Sys2Proof.Machine
end

section
/-! SUPPORT. Loads of the B-store as they issue, and the slots that they write. -/
namespace Sys2Proof.Machine
open Sys2Proof Sys2Proof.Claims

/-! ### Slots -/

theorem homeWrite_of_sound {s : State} (h : s.poison = []) (l : Loc) (bs : List Byte) : homeWrite s l bs = s.setBytes l bs := by
  obtain ⟨m, hm⟩ := setBytes_eq s l bs
  unfold homeWrite
  rw [hm]
  exact if_pos h

theorem writeSlot_of_sound {s : State} (h : s.poison = []) (twin n off : Nat) (e : Elem) (b : KBlock) (m : Option Nat) :
    writeSlot s twin n off e b m =
      let s1 := { s.setBytes (.bst (2 * twin + n / 64) (n % 64) off) (bytesOf e b.codes) with
        bscale := tputD s.bscale (bentry (2 * twin + n / 64) (n % 64) off) 0 (BitVec.ofNat 20 b.s20) }
      match m with
      | some v => { s1 with bmeta := tputD s.bmeta (bentry (2 * twin + n / 64) (n % 64) off) 0 (BitVec.ofNat 64 v) }
      | none => s1 := by
  obtain ⟨mem, hm⟩ := setBytes_eq s (.bst (2 * twin + n / 64) (n % 64) off) (bytesOf e b.codes)
  cases m <;> simp only [writeSlot, healEntries, homeWrite_of_sound h, hm, h, if_true]

/-! ### BSLOAD -/

section
variable {s : State} {c : Ctx} {f : Fr} {a b : Reg} {sp : Bool} {e : Eng}

/-- The load that the lowest active thread asks for. -/
def loadOf (c : Ctx) (a b : Reg) (sp : Bool) : Retained :=
  { addr := c.reg2 a.toNat (lowest c.act), no := c.reg (a.toNat + 2) (lowest c.act), ko := c.reg (a.toNat + 3) (lowest c.act),
    off := c.reg b.toNat (lowest c.act), sp := sp }

/-- The load `op` with the copies `recs` under way in `st`, and retained. -/
def underWay (c : Ctx) (f : Fr) (e : Eng) (op : Retained) (st : State) (recs : List (Nat × Shape)) : State :=
  let ahead := lookAhead e false (loadPages op recs) (noteAll st e (recs.map (·.1)))
  let x : BLoad := { num := ahead.1.uid, warp := c.w, ent := c.ent, blk := c.warp.blk, priv := c.split.priv, op := op, recs := recs,
                     pc := c.split.pc, held := ahead.2 }
  let st1 : State := { ahead.1 with uid := ahead.1.uid + 1 }
  ((st1.modTwin (c.core / 2) (fun t => { t with loads := t.loads ++ [x] })).modBlock c.warp.blk
    (fun k => { k with bsloads := retain k.bsloads op })).modWarp c.w (fun wp =>
      { wp with flights := wp.flights ++ [⟨fctr f, [], c.pre.now + c.minLat, .load ahead.1.uid⟩] })

/-- What a BSLOAD in the surroundings `e` comes to. -/
def bsloadBody (c : Ctx) (f : Fr) (e : Eng) (op : Retained) (st : State) : Body :=
  if op.off.toNat % 32 ≠ 0 ∨ sliceBytes ≤ op.off.toNat then .trap 0x08 c.act [] none
  else
    match loadRecords st e op with
    | .error .state => .trap 0x08 c.act [] none
    | .error (.fetch cause va rec_) => .done (raiseFetch st c.w c.ent c.core c.gangId cause va rec_ c.split.pc)
    | .ok (st, recs) => .done (underWay c f e op st recs)

theorem bsload_trap (h : Issues s f (nameS (regN a 4) (reg1 b) none) none reachOnly c) (ha : c.act ≠ 0)
    (he : engOf (advance c f (nameS (regN a 4) (reg1 b) none)) c.warp.blk c.split.priv c.core false = some e)
    (hb : bsloadBody c f e (loadOf c a b sp) (advance c f (nameS (regN a 4) (reg1 b) none)) = .trap 0x08 c.act [] none) :
    exec (.bsload f a b sp) s = .next (raiseTrap c f 0x08 c.act [] none) := by
  rw [exec_bsload, execBsload]
  refine issue_trap h ((if_neg ha).trans ?_)
  simp only [he]
  exact hb

theorem bsload_done {t : State} (h : Issues s f (nameS (regN a 4) (reg1 b) none) none reachOnly c) (ha : c.act ≠ 0)
    (he : engOf (advance c f (nameS (regN a 4) (reg1 b) none)) c.warp.blk c.split.priv c.core false = some e)
    (hb : bsloadBody c f e (loadOf c a b sp) (advance c f (nameS (regN a 4) (reg1 b) none)) = .done t) :
    exec (.bsload f a b sp) s = .next t := by
  rw [exec_bsload, execBsload]
  refine issue_done h ((if_neg ha).trans ?_)
  simp only [he]
  exact hb

theorem bsloadBody_of_slot {op : Retained} {st : State} (h0 : op.off.toNat % 32 = 0) (h1 : op.off.toNat < 98304) :
    bsloadBody c f e op st =
      match loadRecords st e op with
      | .error .state => .trap 0x08 c.act [] none
      | .error (.fetch cause va rec_) => .done (raiseFetch st c.w c.ent c.core c.gangId cause va rec_ c.split.pc)
      | .ok (st, recs) => .done (underWay c f e op st recs) :=
  if_neg (not_or.mpr ⟨not_not.mpr h0, Nat.not_le.mpr h1⟩)

theorem underWay_eq (op : Retained) (st : State) (recs : List (Nat × Shape)) :
    underWay c f e op st recs =
      let ahead := lookAhead e false (loadPages op recs) (noteAll st e (recs.map (·.1)))
      let x : BLoad := { num := ahead.1.uid, warp := c.w, ent := c.ent, blk := c.warp.blk, priv := c.split.priv, op := op, recs := recs,
                         pc := c.split.pc, held := ahead.2 }
      let st1 : State := { ahead.1 with uid := ahead.1.uid + 1 }
  ((st1.modTwin (c.core / 2) (fun t => { t with loads := t.loads ++ [x] })).modBlock c.warp.blk
        (fun k => { k with bsloads := (if 8 ≤ k.bsloads.length then k.bsloads.tail else k.bsloads) ++ [op] })).modWarp c.w (fun wp =>
          { wp with flights := wp.flights ++ [⟨fctr f, [], c.pre.now + c.minLat, .load ahead.1.uid⟩] }) := by
  have hretain (l : List Retained) : retain l op = (if 8 ≤ l.length then l.tail else l) ++ [op] := by
    unfold retain
    split <;> rfl
  simp only [underWay, hretain]

end

/-- Settles O39: the tests of a load at issue, and what a slot receives. -/
theorem storeLoads : Obligations.StoreLoads := by
  unfold Obligations.StoreLoads
  refine ⟨fun f a b sp s c e h ha he => ⟨fun hoff => bsload_trap h ha he (if_pos hoff), fun h0 h1 => ⟨fun hbad => ?_,
    fun st1 recs hrecs => ?_⟩⟩, fun s twin n off e b m hs => ?slot, fun f s c h => ⟨fun ha => ?_, fun ha => ?_⟩⟩
  case slot =>
    rw [writeSlot_of_sound hs]
    obtain ⟨mem, hm⟩ := setBytes_eq s (.bst (2 * twin + n / 64) (n % 64) off) (bytesOf e b.codes)
    rw [hm]
    cases m <;> exact ⟨rfl, rfl, rfl⟩
  · refine bsload_trap h ha he ((bsloadBody_of_slot h0 h1).trans ?_)
    rw [hbad]
  · refine bsload_done h ha he ((bsloadBody_of_slot h0 h1).trans ?_)
    rw [hrecs]
    exact congrArg Body.done (underWay_eq ..)
  · rw [exec_rcfence, execRcfence]
    exact issue_done h (if_pos ha)
  · rw [exec_rcfence, execRcfence]
    exact issue_done h (if_neg ha)

end Sys2Proof.Machine
end

section
/-! SUPPORT. Recording: the beginning and the end of a segment, and the walk of an EBB. -/
namespace Sys2Proof.Machine
open Sys2Proof Sys2Proof.Claims

section
variable {s : State} {c : Ctx} {f : Fr} {d a : Reg}

/-! ### RECON -/

/-- What a RECON of active threads comes to. -/
def reconBody (f : Fr) (d a : Reg) (c : Ctx) (st : State) : Body :=
  let give (v : Nat) (s : State) : Body := .done (flightNext c f (c.outs [(d.toNat, fun _ => BitVec.ofNat 32 v)]) s)
  let addr := (c.reg2 a.toNat (lowest c.act)).toNat
  if c.block.recording.isOpen then give 1 st
  else
    match (engOf st c.warp.blk c.split.priv c.core false).bind (fun e => openLog st e addr) with
    | none => give 2 st
    | some s => give 0 ((s.settle st (blockCores st c.warp.blk)).modBlock c.warp.blk (fun b =>
        { b with recording := { isOpen := true, seg := addr, seq := 0, prod := [] } }))

theorem recon_done {t : State} (h : Issues s f (nameD d (reg2 a) none none) none noEarly c) (ha : c.act ≠ 0)
    (hb : reconBody f d a c (advance c f (nameD d (reg2 a) none none)) = .done t) : exec (.recon f d a) s = .next t := by
  rw [exec_recon, execRecon]
  exact issue_done h ((if_neg ha).trans hb)

/-! ### RECOFF -/

/-- The segment's record count and its CLOSED bit written. -/
def closeLog (e : Eng) (r : Recording) (s : State) : EngM State :=
  match engField s e r.seg 8 with
  | .error k => .error k
  | .ok w => engAll (fun (p : Nat × Nat × Nat) s => engPut s e (r.seg + p.1) p.2.1 p.2.2)
      [(0x3C, 4, r.seq.toNat), (0, 8, w / 2 ^ 55 * 2 ^ 55 + 2 ^ 54 + w % 2 ^ 54)] s

/-- What the end of a recording comes to, once no operation still logs. -/
def recoffBody (f : Fr) (c : Ctx) (st : State) : Body :=
  match engOf st c.warp.blk c.split.priv c.core false with
  | none => .done st
  | some e =>
    match closeLog e c.block.recording st with
    | .ok s => .done (flightNext c f [] ((s.settle st (blockCores st c.warp.blk)).modBlock c.warp.blk (fun b =>
        { b with recording := { b.recording with isOpen := false } })))
    | .error (.stop va) => .trap 0x09 c.act (c.threads.map (fun t => (t, BitVec.ofNat 64 va))) none
    | .error (.fault cause va) => .trap cause c.act (c.threads.map (fun t => (t, BitVec.ofNat 64 va))) none

theorem recoff_passes (h : Issues s f noNames none noEarly c) (hp : c.act = 0 ∨ c.block.recording.isOpen = false) :
    exec (.recoff f) s = .next (passed c f noNames) := by
  rw [exec_recoff, execRecoff]
  exact issue_done h (if_pos (hp.imp_right (congrArg not)))

theorem recoff_open (ha : c.act ≠ 0) (hr : c.block.recording.isOpen = true) : ¬ (c.act = 0 ∨ (!c.block.recording.isOpen) = true) := by
  rintro (h | h)
  · exact ha h
  · rw [hr] at h
    exact Bool.false_ne_true h

theorem recoff_waits (h : Issues s f noNames none noEarly c) (ha : c.act ≠ 0) (hr : c.block.recording.isOpen = true)
    (hl : logPending c.pre c.warp.blk = true) : WaitsAt (.recoff f) s c true false .none := by
  refine waitsAt_of_waits h ?_
  rw [exec_recoff, execRecoff]
  exact issue_waits h ((if_neg (recoff_open ha hr)).trans (if_pos hl))

theorem recoff_done {t : State} (h : Issues s f noNames none noEarly c) (ha : c.act ≠ 0) (hr : c.block.recording.isOpen = true)
    (hl : logPending c.pre c.warp.blk = false) (hb : recoffBody f c (advance c f noNames) = .done t) : exec (.recoff f) s = .next t := by
  rw [exec_recoff, execRecoff]
  exact issue_done h ((if_neg (recoff_open ha hr)).trans ((if_neg (Bool.eq_false_iff.mp hl)).trans hb))

/-! ### EBBSTAT -/

variable {fld : EbbField}

/-- The address of the word of remaining records. -/
def wremAddr (c : Ctx) (a : Reg) : DWord := c.reg2 a.toNat (lowest c.act) + 0x3C

/-- The check of the word of remaining records. -/
def wremChk (c : Ctx) (a : Reg) : List (Nat × Chk) := [(lowest c.act, resolve c .none .read false 4 4 (lowest c.act) (wremAddr c a))]

theorem ebbstat_trap (h : Issues s f (nameD d (reg2 a) none none) none noEarly c) (ha : c.act ≠ 0) (hk : allOk (wremChk c a) = none) :
    exec (.ebbstat f fld d a) s =
      .next (raiseTrap c f (firstBad (wremChk c a)).1 (firstBad (wremChk c a)).2 [(lowest c.act, wremAddr c a)] none) := by
  rw [exec_ebbstat, execEbbstat]
  refine issue_trap h ((if_neg ha).trans ?_)
  simp only [show allOk [(lowest c.act, resolve c .none .read false 4 4 (lowest c.act) (c.reg2 a.toNat (lowest c.act) + 0x3C))] = none from hk]
  rfl

/-- The state in which the word has been read at its home. -/
def wremRead (c : Ctx) (f : Fr) (n : Names) (x : Acc) : State := atHome (noteTlb (advance c f n) c.core [x]) c.core x

theorem ebbstat_done {x : Acc} (h : Issues s f (nameD d (reg2 a) none none) none noEarly c) (ha : c.act ≠ 0)
    (hk : allOk (wremChk c a) = some [x]) :
    exec (.ebbstat f fld d a) s =
      let st := wremRead c f (nameD d (reg2 a) none none) x
      let wrem : Word := BitVec.ofNat 32 (ofBytes (st.bytes x.loc x.size))
      .next (flightNext c f (c.outs [(d.toNat, fun _ => if fld = .rem then wrem else wrem - 1)]) st) := by
  rw [exec_ebbstat, execEbbstat]
  refine issue_done h ((if_neg ha).trans ?_)
  simp only [show allOk [(lowest c.act, resolve c .none .read false 4 4 (lowest c.act) (c.reg2 a.toNat (lowest c.act) + 0x3C))] = some [x] from hk]
  cases fld <;> rfl

end

/-! ### EBB -/

section
variable {s : State} {twin : Nat} {x : ArrayOp} {r : Raft} {v : TileEnv} {f : Fr} {d a : Reg} {o : RaftOp} {t : State}

theorem ebb_done (hx : (s.twin twin).ops.head? = some x) (hb : x.begun = true) (hi : x.instr = .ebb f d a) (hr : tget s.rafts x.raft = some r)
    (hv : tileEnv s r x.priv = some v) : exec (.arrayOperationDone twin) s = .next (ebbDone s twin x r v d).bump := by
  obtain ⟨rest, hops⟩ := List.head?_eq_some_iff.mp hx
  rw [exec_arrayOperationDone, execArrayOperationDone, hops]
  simp only [hb, hr, hv, hi, Bool.not_true, Bool.false_eq_true, if_false]

theorem ebbDone_more (ho : r.ops.find? (fun o => decide (o.k = x.k)) = some o)
    (hw : walkStep s v (opAddr x.vals 0).toNat (x.vals.getD 9 0) = .ok (.more t)) : ebbDone s twin x r v d = t.settle s (raftCores s r) := by
  unfold ebbDone
  rw [ho, hw]

theorem ebbDone_done {st : Nat} (ho : r.ops.find? (fun o => decide (o.k = x.k)) = some o)
    (hw : walkStep s v (opAddr x.vals 0).toNat (x.vals.getD 9 0) = .ok (.done t st)) : ebbDone s twin x r v d =
      popArray (o.issued.foldl (completeMember (tileNames x.instr) .access (fun c => c.outs [(d.toNat, fun _ => BitVec.ofNat 32 st)]))
        (dropOp (t.settle s (raftCores s r)) x.raft x.k)) twin := by
  unfold ebbDone
  rw [ho, hw]

end

/-- Settles O40: the beginning and the end of a recording, its remaining records, and the walk of an EBB. -/
theorem recording : Obligations.Recording := by
  unfold Obligations.Recording
  refine ⟨fun f d a s c h ha => ⟨fun ho => recon_done h ha (if_pos ho), fun ho hl => recon_done h ha ((if_neg ?_).trans ?_),
      fun t ho hl => recon_done h ha ((if_neg ?_).trans ?_)⟩,
    fun f s c h => ⟨recoff_passes h, fun ha hr hl => recoff_waits h ha hr hl, fun e w t ha hr hl he hw hc => recoff_done h ha hr hl ?_⟩,
    fun f fld d a s c h ha => ⟨ebbstat_trap h ha, fun x hx => ebbstat_done h ha hx⟩,
    fun s twin x r v f d a hx hb hi hr hv => ⟨ebb_done hx hb hi hr hv, fun o t => ebbDone_more, fun o t st => ebbDone_done⟩⟩
  · exact Bool.eq_false_iff.mp ho
  · rw [hl]
  · exact Bool.eq_false_iff.mp ho
  · rw [hl]
  · have hclose : closeLog e c.block.recording (advance c f noNames) = .ok t := by
      unfold closeLog
      rw [hw]
      exact hc
    unfold recoffBody
    rw [he]
    simp only [hclose]

end Sys2Proof.Machine
end

section
/-! SUPPORT. Key-value instructions: the header that they find, and the answers of their threads. -/
namespace Sys2Proof.Machine
open Sys2Proof Sys2Proof.Claims

section
variable {s st : State} {c : Ctx} {f : Fr} {n : Names} {k : BitVec 4} {outs : Ctx → KvAnswers → List (Nat × Word)} {bad : KvHdr → Bool}
  {body : Ctx → Eng → Nat → Bool → KvHdr → State → (KvAnswers → State → Body) → Body} {addr : Nat} {pol : Bool} {h : KvHdr} {i : Instr}

/-- How a key-value instruction gives its answers. -/
def kvGive (f : Fr) (outs : Ctx → KvAnswers → List (Nat × Word)) (c : Ctx) (l : KvAnswers) (s : State) : Body :=
  .done (finishKv c f (outs c l) (lostOf c l) s)

theorem kvOp_none (hc : Issues s f n none noEarly c) (ha : c.act = 0) :
    kvOp f n k outs bad body s = .next (minimumNext c f (advance c f n)) := issue_done hc (if_pos ha)

theorem kvOp_refused (hc : Issues s f n none noEarly c) (ha : c.act ≠ 0) (hh : FindsHeader c f n k st addr pol h) (hb : bad h = true) :
    kvOp f n k outs bad body s = .next (raiseTrap c f 0x08 c.act [] none) := by
  obtain ⟨e, he, hr⟩ := hh
  unfold kvOp
  refine issue_trap hc ((if_neg ha).trans ?_)
  simp only [he, hr]
  exact if_pos hb

/-- The rest of the instruction once its header has been found. -/
theorem kvOp_acts (hc : Issues s f n none noEarly c) (ha : c.act ≠ 0) (hh : FindsHeader c f n k st addr pol h) (hb : bad h = false) :
    ∃ e, kvOp f n k outs bad body s = issue f n none noEarly (fun c _ => body c e addr pol h st (kvGive f outs c)) s := by
  obtain ⟨e, he, hr⟩ := hh
  refine ⟨e, ?_⟩
  unfold kvOp
  refine (issue_eq hc).trans (Eq.trans ?_ (issue_eq hc).symm)
  simp only [if_neg ha, he, hr, hb, Bool.false_eq_true, if_false]
  rfl

theorem kvOp_done {t : State} (hc : Issues s f n none noEarly c) (ha : c.act ≠ 0) (hh : FindsHeader c f n k st addr pol h) (hb : bad h = false)
    (ht : ∀ e, body c e addr pol h st (kvGive f outs c) = .done t) : kvOp f n k outs bad body s = .next t := by
  obtain ⟨e, he⟩ := kvOp_acts (body := body) (outs := outs) hc ha hh hb
  exact he.trans (issue_done hc (ht e))

theorem kvOp_held (hi : exec i s = kvOp f n k outs bad body s) (hc : Issues s f n none noEarly c) (ha : c.act ≠ 0)
    (hh : FindsHeader c f n k st addr pol h) (hb : bad h = false) (ht : ∀ e, body c e addr pol h st (kvGive f outs c) = .held) :
    WaitsAt i s c false false .none := by
  obtain ⟨e, he⟩ := kvOp_acts (body := body) (outs := outs) hc ha hh hb
  exact waitsAt_of_held hc (hi.trans (he.trans (issue_held hc (ht e))))

theorem kvOp_waits (hi : exec i s = kvOp f n k outs bad body s) (hc : Issues s f n none noEarly c) (ha : c.act ≠ 0)
    (hh : FindsHeader c f n k st addr pol h) (hb : bad h = false)
    (ht : ∀ e, body c e addr pol h st (kvGive f outs c) = .waits false .none c.pre) : WaitsAt i s c true false .none := by
  obtain ⟨e, he⟩ := kvOp_acts (body := body) (outs := outs) hc ha hh hb
  exact waitsAt_of_waits hc (hi.trans (he.trans (issue_waits hc (ht e))))

/-! ### KVXLT -/

/-- The words of KVXLT: where C is of the pair D, which word stays is free. -/
def kvxltOuts (d c2 : Reg) (c : Ctx) (l : KvAnswers) : List (Nat × Word) :=
  let addr := c.outs (pairOuts d (fun t => (kvAnswer l t).1))
  let st := c.outs [(c2.toNat, fun t => BitVec.ofNat 32 (kvAnswer l t).2)]
  if Config.freeBit c.pre.free 1000002 then addr.filter (fun p => !(st.map (·.1)).contains p.1) ++ st
  else addr ++ st.filter (fun p => !(addr.map (·.1)).contains p.1)

/-- Of two lists of words, those of one list go before the other's of the same keys. -/
theorem mem_of_mem_merge {xs ys : List (Nat × Word)} {p : Nat × Word} (hp : p ∈ xs.filter (fun p => !(ys.map (·.1)).contains p.1) ++ ys) :
    p ∈ xs ++ ys := by
  rcases List.mem_append.mp hp with h | h
  · exact List.mem_append_left _ (List.mem_of_mem_filter h)
  · exact List.mem_append_right _ h

theorem exists_mem_merge {xs ys : List (Nat × Word)} {p : Nat × Word} (hp : p ∈ xs ++ ys) :
    ∃ q ∈ xs.filter (fun p => !(ys.map (·.1)).contains p.1) ++ ys, q.1 = p.1 := by
  by_cases hy : p.1 ∈ ys.map (·.1)
  · obtain ⟨q, hq, hqp⟩ := List.mem_map.mp hy
    exact ⟨q, List.mem_append_right _ hq, hqp⟩
  · have hx : p ∈ xs := (List.mem_append.mp hp).resolve_right (fun h => hy (List.mem_map_of_mem h))
    exact ⟨p, List.mem_append_left _ (List.mem_filter.mpr ⟨hx, by simpa using hy⟩), rfl⟩

theorem kvxltOuts_spec (d c2 : Reg) (c : Ctx) (l : KvAnswers) :
    let words := c.outs (pairOuts d (fun t => (kvAnswer l t).1)) ++ c.outs [(c2.toNat, fun t => BitVec.ofNat 32 (kvAnswer l t).2)]
    (∀ p ∈ kvxltOuts d c2 c l, p ∈ words) ∧ ∀ p ∈ words, ∃ q ∈ kvxltOuts d c2 c l, q.1 = p.1 := by
  intro words
  unfold kvxltOuts
  dsimp only
  split
  · exact ⟨fun p hp => mem_of_mem_merge hp, fun p hp => exists_mem_merge hp⟩
  · refine ⟨fun p hp => ?_, fun p hp => ?_⟩
    · exact (List.perm_append_comm.mem_iff).mp (mem_of_mem_merge (List.perm_append_comm.mem_iff.mp hp))
    · obtain ⟨q, hq, hqp⟩ := exists_mem_merge (List.perm_append_comm.mem_iff.mp hp)
      exact ⟨q, List.perm_append_comm.mem_iff.mp hq, hqp⟩

variable {d c2 : Reg} {a b : Src}

/-- What KVXLT comes to in a thread. -/
def xltLane (c : Ctx) (h : KvHdr) (pol : Bool) (a b : Src) (s : State) (t : Nat) : State × DWord × Nat :=
  let x := kvResolve s c.agent c.core h pol ((c.val a t).toNat % 2 ^ 20) ((c.val a t).toNat / 2 ^ 20) (c.val b t).toNat
  (x.1, BitVec.ofNat 64 x.2.1, x.2.2)

theorem kvxlt_answers {acq : Bool} (hc : Issues s f ⟨srcN a 1, srcN b 1, none, [(d.toNat, 2), (c2.toNat, 1)]⟩ none noEarly c) (ha : c.act ≠ 0)
    (hh : FindsHeader c f ⟨srcN a 1, srcN b 1, none, [(d.toNat, 2), (c2.toNat, 1)]⟩ k st addr pol h) :
    exec (.kvxlt f d c2 a b k acq) s = answered c f (kvxltOuts d c2 c (kvEach (xltLane c h pol a b) c.doers st).2)
      (kvEach (xltLane c h pol a b) c.doers st).2
      (if acq then acquireAt c 5 (kvEach (xltLane c h pol a b) c.doers st).1 else (kvEach (xltLane c h pol a b) c.doers st).1) := by
  rw [exec_kvxlt, execKvxlt]
  exact kvOp_done (outs := kvxltOuts d c2) hc ha hh rfl (fun _ => rfl)

/-! ### KVAPP -/

/-- What KVAPP comes to in a thread. -/
def appLane (c : Ctx) (h : KvHdr) (a : Src) (s : State) (t : Nat) : State × DWord × Nat :=
  let x := if tailReserved c.pre c.agent c.core h (c.val a t).toNat then (s, 0, 3) else appendLane s c.agent c.core h (c.val a t).toNat
  (x.1, BitVec.ofNat 64 x.2.1, x.2.2)

theorem kvapp_held (hc : Issues s f ⟨srcN a 1, none, none, [(d.toNat, 1), (c2.toNat, 1)]⟩ none noEarly c) (ha : c.act ≠ 0)
    (hh : FindsHeader c f ⟨srcN a 1, none, none, [(d.toNat, 1), (c2.toNat, 1)]⟩ k st addr pol h) (hcow : c.pre.cows ≠ []) :
    WaitsAt (.kvapp f d c2 a k) s c false false .none :=
  kvOp_held (exec_kvapp ..) hc ha hh rfl (fun _ => if_pos hcow)

theorem kvapp_waits (hc : Issues s f ⟨srcN a 1, none, none, [(d.toNat, 1), (c2.toNat, 1)]⟩ none noEarly c) (ha : c.act ≠ 0)
    (hh : FindsHeader c f ⟨srcN a 1, none, none, [(d.toNat, 1), (c2.toNat, 1)]⟩ k st addr pol h) (hcow : c.pre.cows = [])
    (hyes : ∃ t ∈ c.doers, mustWait c.pre c.agent c.core h (c.val a t).toNat = true) : WaitsAt (.kvapp f d c2 a k) s c true false .none :=
  kvOp_waits (exec_kvapp ..) hc ha hh rfl (fun _ => (if_neg (not_not.mpr hcow)).trans (if_pos (List.any_eq_true.mpr hyes)))

theorem kvapp_answers (hc : Issues s f ⟨srcN a 1, none, none, [(d.toNat, 1), (c2.toNat, 1)]⟩ none noEarly c) (ha : c.act ≠ 0)
    (hh : FindsHeader c f ⟨srcN a 1, none, none, [(d.toNat, 1), (c2.toNat, 1)]⟩ k st addr pol h) (hcow : c.pre.cows = [])
    (hno : ∀ t ∈ c.doers, mustWait c.pre c.agent c.core h (c.val a t).toNat = false) :
    let r := kvEach (appLane c h a) c.doers (releaseAt c 5 st)
    exec (.kvapp f d c2 a k) s = answered c f
      (c.outs [(d.toNat, fun t => if (kvAnswer r.2 t).2 = 3 then Config.freeWord c.pre.free (1000100 + t) else (kvAnswer r.2 t).1.extractLsb' 0 32),
               (c2.toNat, fun t => BitVec.ofNat 32 (kvAnswer r.2 t).2)]) r.2 r.1 := by
  have hgo : ¬ c.doers.any (fun t => mustWait c.pre c.agent c.core h (c.val a t).toNat) = true := by simpa using hno
  rw [exec_kvapp, execKvapp]
  exact kvOp_done hc ha hh rfl (fun _ => (if_neg (not_not.mpr hcow)).trans (if_neg hgo))

/-! ### EXITTOK -/

variable {ra rb : Reg}

/-- The layer that an EXITTOK names in a thread. -/
def exitLayer (c : Ctx) (rb : Reg) (t : Nat) : Nat := (c.reg rb.toNat t).toNat % 4096

/-- What EXITTOK comes to in a thread. -/
def tokLane (c : Ctx) (addr : Nat) (h : KvHdr) (ra rb : Reg) (s : State) (t : Nat) : State × DWord × Nat :=
  let x := exitLane s c.agent c.core (dieOf c.core) addr h (c.reg ra.toNat t).toNat (exitLayer c rb t)
  (x.1, 0, x.2)

/-- The slots that the threads' records take. -/
def exitSlots (c : Ctx) (h : KvHdr) (ra rb : Reg) : List Nat :=
  c.doers.filterMap (fun t =>
    match exitPlan c.pre c.agent c.core h (c.reg ra.toNat t).toNat (exitLayer c rb t) with
    | .post _ _ _ _ slot => some slot
    | .status _ => none)

theorem exittok_refused (hc : Issues s f (nameD d (reg1 ra) (reg1 rb) none) none noEarly c) (ha : c.act ≠ 0)
    (hh : FindsHeader c f (nameD d (reg1 ra) (reg1 rb) none) k st addr pol h) (h0 : h.bfl = 0) :
    exec (.exittok f d ra rb k) s = .next (raiseTrap c f 0x08 c.act [] none) :=
  (exec_exittok ..).trans (kvOp_refused hc ha hh (decide_eq_true h0))

theorem exittok_held (hc : Issues s f (nameD d (reg1 ra) (reg1 rb) none) none noEarly c) (ha : c.act ≠ 0)
    (hh : FindsHeader c f (nameD d (reg1 ra) (reg1 rb) none) k st addr pol h) (h1 : h.bfl ≠ 0)
    (hbusy : ∃ x ∈ exitSlots c h ra rb, slotBusy c.pre c.asid x = true) : WaitsAt (.exittok f d ra rb k) s c false false .none :=
  kvOp_held (exec_exittok ..) hc ha hh (decide_eq_false h1) (fun _ => if_pos (.inl (List.any_eq_true.mpr hbusy)))

theorem exittok_answers (hc : Issues s f (nameD d (reg1 ra) (reg1 rb) none) none noEarly c) (ha : c.act ≠ 0)
    (hh : FindsHeader c f (nameD d (reg1 ra) (reg1 rb) none) k st addr pol h) (h1 : h.bfl ≠ 0)
    (hfree : ∀ x ∈ exitSlots c h ra rb, slotBusy c.pre c.asid x = false)
    (hroom : exitSlots c h ra rb = [] ∨ (c.pre.die (dieOf c.core)).exits.length + (exitSlots c h ra rb).eraseDups.length ≤ 4096) :
    let r := kvEach (tokLane c addr h ra rb) c.doers (releaseAt c 5 st)
    exec (.exittok f d ra rb k) s = answered c f (c.outs [(d.toNat, fun t => BitVec.ofNat 32 (kvAnswer r.2 t).2)]) r.2
      (fillBatches (dieOf c.core) 2 r.1) := by
  have hgo : ¬ ((exitSlots c h ra rb).any (slotBusy c.pre c.asid) = true ∨
      (exitSlots c h ra rb ≠ [] ∧ 4096 < (c.pre.die (dieOf c.core)).exits.length + (exitSlots c h ra rb).eraseDups.length)) := by
    rintro (hany | ⟨hne, hlt⟩)
    · obtain ⟨x, hx, hb⟩ := List.any_eq_true.mp hany
      exact Bool.false_ne_true ((hfree x hx).symm.trans hb)
    · exact hroom.elim hne (Nat.not_le.mpr hlt)
  rw [exec_exittok, execExittok]
  exact kvOp_done hc ha hh (decide_eq_false h1) (fun _ => if_neg hgo)

/-! ### BFWAIT -/

/-- What BFWAIT finds in a thread. -/
def waitLane (c : Ctx) (h : KvHdr) (ra rb : Reg) (s : State) (t : Nat) : State × DWord × Nat :=
  let x := kvResolve s c.agent c.core h true ((c.reg ra.toNat t).toNat % 2 ^ 20) ((c.reg ra.toNat t).toNat / 2 ^ 20) (c.reg rb.toNat t).toNat
  (x.1, 0, x.2.2)

theorem bfwait_waits (hc : Issues s f (nameD d (reg1 ra) (reg1 rb) none) none noEarly c) (ha : c.act ≠ 0)
    (hh : FindsHeader c f (nameD d (reg1 ra) (reg1 rb) none) k st addr pol h)
    (hp : ∃ p ∈ (kvEach (waitLane c h ra rb) c.doers st).2, p.2.2 = 2) : WaitsAt (.bfwait f d ra rb k) s c true false .none := by
  have hany : (kvEach (waitLane c h ra rb) c.doers st).2.any (fun p => decide (p.2.2 = 2)) = true := by simpa using hp
  exact kvOp_waits (exec_bfwait ..) hc ha hh rfl (fun _ => if_pos hany)

theorem bfwait_answers (hc : Issues s f (nameD d (reg1 ra) (reg1 rb) none) none noEarly c) (ha : c.act ≠ 0)
    (hh : FindsHeader c f (nameD d (reg1 ra) (reg1 rb) none) k st addr pol h)
    (hp : ∀ p ∈ (kvEach (waitLane c h ra rb) c.doers st).2, p.2.2 ≠ 2) :
    let r := kvEach (waitLane c h ra rb) c.doers st
    exec (.bfwait f d ra rb k) s = answered c f (c.outs [(d.toNat, fun t => BitVec.ofNat 32 (kvAnswer r.2 t).2)]) r.2 (acquireAt c 5 r.1) := by
  have hno : ¬ (kvEach (waitLane c h ra rb) c.doers st).2.any (fun p => decide (p.2.2 = 2)) = true := fun hany =>
    (List.any_eq_true.mp hany).elim fun p h2 => hp p h2.1 (of_decide_eq_true h2.2)
  rw [exec_bfwait, execBfwait]
  exact kvOp_done hc ha hh rfl (fun _ => if_neg hno)

end

/-- Settles O41: what the threads answer through the header that the descriptor gives, and when an instruction waits. -/
theorem keyValueInstructions : Obligations.KeyValueInstructions := by
  unfold Obligations.KeyValueInstructions
  refine ⟨fun f d c2 a b x y k acq => ⟨?_, ?_, ?_, ?_⟩, ?_, ?_, ?_⟩
  · intro s c hc ha
    rw [exec_kvxlt, execKvxlt]
    exact kvOp_none hc ha
  · intro s c hc ha
    rw [exec_kvapp, execKvapp]
    exact kvOp_none hc ha
  · intro s c hc ha
    rw [exec_exittok, execExittok]
    exact kvOp_none hc ha
  · intro s c hc ha
    rw [exec_bfwait, execBfwait]
    exact kvOp_none hc ha
  · intro f d c2 a b k acq s c st addr pol h n hc ha hh
    exact ⟨kvxltOuts d c2 c (kvEach (xltLane c h pol a b) c.doers st).2, kvxlt_answers hc ha hh, kvxltOuts_spec d c2 c _⟩
  · exact fun f d c2 a k s c st addr pol h hc ha hh =>
      ⟨kvapp_held hc ha hh, fun hcow hno => ⟨_, kvapp_answers hc ha hh hcow hno⟩, kvapp_waits hc ha hh⟩
  · exact fun f d a b k s c st addr pol h hc ha hh => ⟨exittok_refused hc ha hh, exittok_answers hc ha hh, exittok_held hc ha hh,
      bfwait_answers hc ha hh, bfwait_waits hc ha hh⟩

end Sys2Proof.Machine
end

section
/-! SUPPORT. The resolution of a key-value entry, step by step (R386). -/
namespace Sys2Proof.Machine
open Sys2Proof Sys2Proof.Claims

theorem stateWord_of_reserved {v : Nat} (h : 2 ≤ v % 4 ∨ v / 8 % 2 = 1 ∨ v / 65536 ≠ 0) : stateWord v = none := by
  refine if_neg ?_
  rintro ⟨h2, h8, hr⟩
  omega

theorem stateWord_of_valid {v : Nat} (h2 : v % 4 < 2) (h8 : v / 8 % 2 = 0) (hr : v / 65536 = 0) :
    stateWord v = some (decide (v % 4 = 1), decide (v / 4 % 2 = 1), v / 16 % 4096) := if_pos ⟨h2, h8, hr⟩

section
variable {s s1 s2 s3 : State} {x : Agent} {core : Nat} {h : KvHdr} {pol : Bool} {seq layer pos p v : Nat} {d : KvDir}

theorem kvResolve_beyond (hb : h.nseq ≤ seq ∨ h.layers ≤ layer) : kvResolve s x core h pol seq layer pos = (s, 0, 3) := if_pos hb

variable (hs : seq < h.nseq) (hl : layer < h.layers) (hd : readDir s x core h seq = .ok (s1, d))
include hs hl hd

theorem kvResolve_past (hp : d.len ≤ pos) : kvResolve s x core h pol seq layer pos = (s1, 0, 4) := by
  unfold kvResolve
  rw [if_neg (by omega), hd]
  exact if_pos hp

/-- The entry's state word decides the rest. -/
theorem kvResolve_eq (hp : pos < d.len) (hg : pageOf s1 x core h d layer pos = .ok (s2, p)) (hv : kvWord s2 x core (h.entryAt p pos) = .ok (s3, v)) :
    kvResolve s x core h pol seq layer pos =
      match stateWord v with
      | none => (s3, 0, 3)
      | some (false, _, _) => (s3, h.entryAt p pos + 16, 0)
      | some (true, _, k) =>
        if pol then (s3, h.entryAt p pos + 16, 2)
        else if h.layers ≤ k then (s3, 0, 3)
        else
          match pageOf s3 x core h d k pos with
          | .error _ => (s3, 0, 3)
          | .ok (s4, q) => (s4, h.entryAt q pos + 16, 1) := by
  unfold kvResolve
  rw [if_neg (by omega), hd]
  simp only [if_neg (Nat.not_le.mpr hp), hg, hv] <;> rfl

end

/-- Settles O42: the cases of the state word. -/
theorem entryResolution : Obligations.EntryResolution := by
  unfold Obligations.EntryResolution
  refine fun s x core h pol seq layer pos => ⟨kvResolve_beyond, fun s1 d hs hl hd => ⟨kvResolve_past hs hl hd, fun hp s2 p s3 v hg hv =>
    ⟨fun hr => ?reserved, fun h8 hr => ⟨fun h0 => ?final, fun h1 hpol => ?waiting, fun s4 q h1 hpol hk hq => ?aliased⟩⟩⟩⟩
  all_goals rw [kvResolve_eq hs hl hd hp hg hv]
  case reserved => rw [stateWord_of_reserved hr]
  case final =>
    rw [stateWord_of_valid (by omega) h8 hr, h0]
    rfl
  case waiting =>
    rw [stateWord_of_valid (by omega) h8 hr, h1, hpol]
    rfl
  case aliased =>
    rw [stateWord_of_valid (by omega) h8 hr, h1, hpol]
    simp only [decide_true, Bool.false_eq_true, if_false, if_neg (Nat.not_le.mpr hk), hq]
    rfl

end Sys2Proof.Machine
end

section
/-! SUPPORT. Roles, tile barriers and the confidence test. -/
namespace Sys2Proof.Machine
open Sys2Proof Sys2Proof.Claims

/-! ### Phases of a tile barrier (R197) -/

theorem TBar.arrive_lt {x : TBar} {k : Nat} (h : k < x.rem) : x.arrive k = { x with rem := x.rem - k } := if_pos h

theorem TBar.arrive_last {x : TBar} : x.arrive x.rem = ⟨x.exp, x.exp, (x.phn + 1) % 65536⟩ := by
  simp [TBar.arrive]

theorem TBar.not_done_now (x : TBar) : x.done x.phn = false := by
  simp only [TBar.done, Bool.and_eq_false_iff, decide_eq_false_iff_not]
  omega

theorem TBar.done_before (x : TBar) : x.done ((x.phn + 65535) % 65536) = true := by
  simp only [TBar.done, Bool.and_eq_true, decide_eq_true_eq]
  omega

/-! ### TBAR -/

section
variable {s : State} {c : Ctx} {f : Fr} {d a : Reg} {i : Instr} {k : BitVec 4} {body : Ctx → Nat → State → (Nat → State → Body) → Body}

/-- The number that the lowest active thread gives. -/
def tbarArg (c : Ctx) (a : Reg) : Nat := (c.reg a.toNat (lowest c.act)).toNat % 65536

/-- How a TBAR gives its answer. -/
def tbarGive (c : Ctx) (f : Fr) (d : Reg) (v : Nat) (s : State) : Body :=
  .done (flightNext c f (c.outs [(d.toNat, fun _ => BitVec.ofNat 32 v)]) s)

theorem tbarOp_done {t : State} (h : Issues s f (nameD d (reg1 a) none none) none noEarly c) (ha : c.act ≠ 0) (hh : c.handler = false)
    (hb : body c (tbarArg c a) (advance c f (nameD d (reg1 a) none none)) (tbarGive c f d) = .done t) : tbarOp f d a body s = .next t :=
  issue_done h ((if_neg ha).trans ((if_neg (Bool.eq_false_iff.mp hh)).trans hb))

theorem tbarOp_trap (h : Issues s f (nameD d (reg1 a) none none) none noEarly c) (ha : c.act ≠ 0) (hh : c.handler = false)
    (hb : body c (tbarArg c a) (advance c f (nameD d (reg1 a) none none)) (tbarGive c f d) = .trap 0x08 c.act [] none) :
    tbarOp f d a body s = .next (raiseTrap c f 0x08 c.act [] none) :=
  issue_trap h ((if_neg ha).trans ((if_neg (Bool.eq_false_iff.mp hh)).trans hb))

theorem tbarOp_waits {arr : Bool} {ph : Phase} {t : State} (hi : exec i s = tbarOp f d a body s)
    (h : Issues s f (nameD d (reg1 a) none none) none noEarly c) (ha : c.act ≠ 0) (hh : c.handler = false)
    (ht : splitAt t c.w c.ent = splitAt c.pre c.w c.ent)
    (hb : body c (tbarArg c a) (advance c f (nameD d (reg1 a) none none)) (tbarGive c f d) = .waits arr ph t) : WaitsAt i s c true arr ph := by
  have hex : tbarOp f d a body s = .next (waitingState c f (nameD d (reg1 a) none none) arr ph t) :=
    issue_waits h ((if_neg ha).trans ((if_neg (Bool.eq_false_iff.mp hh)).trans hb))
  exact ⟨_, { c.split with wait := some (.op true arr ph) }, hi.trans hex, by rw [splitAt_waitingState, ht, h.splitAt_pre]; rfl, rfl, rfl⟩

/-- Arrivals at barrier `k`, after the release. -/
def arriving (c : Ctx) (k : BitVec 4) (j : Nat) (s : State) : State := (releaseAt c 1 s).modTBar c.warp.blk k.toNat (·.arrive j)

theorem splitAt_arriving (c : Ctx) (k : BitVec 4) (j : Nat) (s : State) (w e : Nat) : splitAt (arriving c k j s) w e = splitAt s w e :=
  (memStep_releaseAt s c 1).splitAt w e

section
variable (h : Issues s f (nameD d (reg1 a) none none) none noEarly c) (ha : c.act ≠ 0) (hh : c.handler = false)
include h ha hh

theorem tbarInit_eq : exec (.tbarInit f d a k) s =
    if tbarArg c a = 0 then .next (raiseTrap c f 0x08 c.act [] none)
    else .next (flightNext c f (c.outs [(d.toNat, fun _ => BitVec.ofNat 32 0)])
      ((advance c f (nameD d (reg1 a) none none)).modTBar c.warp.blk k.toNat (fun _ => ⟨tbarArg c a, tbarArg c a, 0⟩))) := by
  rw [exec_tbarInit, execTbarInit]
  split
  · next hv => exact tbarOp_trap h ha hh (if_pos hv)
  · next hv => exact tbarOp_done h ha hh (if_neg hv)

theorem tbarArrive_eq : exec (.tbarArrive f d a k) s =
    if tbarArg c a = 0 then .next (flightNext c f (c.outs [(d.toNat, fun _ => BitVec.ofNat 32 (c.block.tbar k.toNat).phn)])
      (releaseAt c 1 (advance c f (nameD d (reg1 a) none none))))
    else if (c.block.tbar k.toNat).exp = 0 then .next (raiseTrap c f 0x08 c.act [] none)
    else .next (flightNext c f (c.outs [(d.toNat, fun _ => BitVec.ofNat 32 (c.block.tbar k.toNat).phn)])
      (arriving c k (tbarArg c a) (advance c f (nameD d (reg1 a) none none)))) := by
  rw [exec_tbarArrive, execTbarArrive]
  split
  · next hv => exact tbarOp_done h ha hh (if_pos hv)
  · next hv =>
    split
    · next he => exact tbarOp_trap h ha hh ((if_neg hv).trans (if_pos he))
    · next he => exact tbarOp_done h ha hh ((if_neg hv).trans (if_neg he))

theorem tbarWait_gives (he : (c.block.tbar k.toNat).exp ≠ 0) (hd : (c.block.tbar k.toNat).done (tbarArg c a) = true) :
    exec (.tbarWait f d a k) s = .next (flightNext c f (c.outs [(d.toNat, fun _ => BitVec.ofNat 32 (c.block.tbar k.toNat).phn)])
      (acquireAt c 1 (advance c f (nameD d (reg1 a) none none)))) := by
  rw [exec_tbarWait, execTbarWait]
  exact tbarOp_done h ha hh (if_pos ⟨he, hd⟩)

theorem tbarWait_waits (hd : ¬ ((c.block.tbar k.toNat).exp ≠ 0 ∧ (c.block.tbar k.toNat).done (tbarArg c a) = true)) :
    WaitsAt (.tbarWait f d a k) s c true false .none :=
  tbarOp_waits (exec_tbarWait ..) h ha hh rfl (if_neg hd)

theorem tbarArwt_invalid (hr : c.split.arrived = false) (he : (c.block.tbar k.toNat).exp = 0) :
    exec (.tbarArwt f d a k) s = .next (raiseTrap c f 0x08 c.act [] none) := by
  rw [exec_tbarArwt, execTbarArwt]
  exact tbarOp_trap h ha hh ((if_neg (Bool.eq_false_iff.mp hr)).trans (if_pos he))

theorem tbarArwt_last (hr : c.split.arrived = false) (he : (c.block.tbar k.toNat).exp ≠ 0)
    (hd : ((c.block.tbar k.toNat).arrive 1).done (c.block.tbar k.toNat).phn = true) :
    exec (.tbarArwt f d a k) s = .next (flightNext c f (c.outs [(d.toNat, fun _ => BitVec.ofNat 32 ((c.block.tbar k.toNat).arrive 1).phn)])
      (acquireAt c 1 (arriving c k 1 (advance c f (nameD d (reg1 a) none none))))) := by
  rw [exec_tbarArwt, execTbarArwt]
  exact tbarOp_done h ha hh ((if_neg (Bool.eq_false_iff.mp hr)).trans ((if_neg he).trans (if_pos hd)))

theorem tbarArwt_waits (hr : c.split.arrived = false) (he : (c.block.tbar k.toNat).exp ≠ 0)
    (hd : ((c.block.tbar k.toNat).arrive 1).done (c.block.tbar k.toNat).phn = false) :
    WaitsAt (.tbarArwt f d a k) s c true true (.tile (c.block.tbar k.toNat).phn) :=
  tbarOp_waits (exec_tbarArwt ..) h ha hh (splitAt_arriving c k 1 c.pre c.w c.ent)
    ((if_neg (Bool.eq_false_iff.mp hr)).trans ((if_neg he).trans (if_neg (Bool.eq_false_iff.mp hd))))

theorem tbarArwt_over (hr : c.split.arrived = true) (hd : (c.block.tbar k.toNat).done c.split.phase.num = true) :
    exec (.tbarArwt f d a k) s = .next (flightNext c f (c.outs [(d.toNat, fun _ => BitVec.ofNat 32 (c.block.tbar k.toNat).phn)])
      (acquireAt c 1 (advance c f (nameD d (reg1 a) none none)))) := by
  rw [exec_tbarArwt, execTbarArwt]
  exact tbarOp_done h ha hh ((if_pos hr).trans (if_pos hd))

end

/-! ### ROLE.set -/

variable {role : Role}

theorem roleSet_passes (h : Issues s f noNames (some (4, 2)) noEarly c) (ha : c.act = 0) :
    exec (.roleSet f role) s = .next (fixedNext c f noNames (4, 2) [] Health.none) := by
  rw [exec_roleSet, execRoleSet]
  exact issue_done h (if_pos ha)

theorem roleSet_next (h : Issues s f noNames (some (4, 2)) noEarly c) (ha : c.act ≠ 0) :
    exec (.roleSet f role) s = .next ((fixedNext c f noNames (4, 2) [] Health.none).modSplit c.w c.ent (fun sp =>
      { sp with spend := sp.spend ++ [⟨.role, c.pre.free, BitVec.ofNat 64 role.code, c.split.nd + c.lat 4 2⟩] })) := by
  rw [exec_roleSet, execRoleSet]
  exact issue_done h (if_neg ha)

end

theorem pairOfWords_toNat (lo hi : Word) : (pairOfWords lo hi).toNat = hi.toNat * 2 ^ 32 + lo.toNat := toNat_append_eq hi lo

theorem loWord_pairOfWords (lo hi : Word) : loWord (pairOfWords lo hi) = lo := by
  refine BitVec.eq_of_toNat_eq ?_
  have hlo := lo.isLt
  rw [loWord, BitVec.extractLsb'_toNat, pairOfWords_toNat, Nat.shiftRight_zero]
  omega

theorem hiWord_pairOfWords (lo hi : Word) : hiWord (pairOfWords lo hi) = hi := by
  refine BitVec.eq_of_toNat_eq ?_
  have hlo := lo.isLt
  have hhi := hi.isLt
  rw [hiWord, BitVec.extractLsb'_toNat, pairOfWords_toNat, Nat.shiftRight_eq_div_pow]
  omega

/-- Settles O43: a barrier's phases by its remaining arrivals, and the test's two results. -/
theorem rolesAndTileBarriers : Obligations.RolesAndTileBarriers := by
  unfold Obligations.RolesAndTileBarriers
  refine ⟨fun f d => fixedWrites_of_aluOp (exec_roleGet f d), fun f role s c h => ⟨roleSet_passes h, roleSet_next h⟩,
    fun f d a k s c h ha hh => ⟨tbarInit_eq h ha hh, tbarArrive_eq h ha hh, tbarWait_gives h ha hh, tbarWait_waits h ha hh,
      tbarArwt_invalid h ha hh, tbarArwt_last h ha hh, tbarArwt_waits h ha hh, tbarArwt_over h ha hh⟩,
    fun x he hr => ⟨fun k hk => TBar.arrive_lt hk, TBar.arrive_last⟩, fun x hx => ⟨x.not_done_now, x.done_before⟩, fun f d a b x => ?cftest⟩
  intro s c h
  rw [exec_cftest, execCftest]
  refine (aluOp_next h).trans ?_
  simp only [pairOuts, loWord_pairOfWords, hiWord_pairOfWords]
  rfl

end Sys2Proof.Machine
end

section
/-! SUPPORT. Requests for a migration, and portage points. -/
namespace Sys2Proof.Machine
open Sys2Proof Sys2Proof.Claims

section
variable {s t : State} {c : Ctx} {f : Fr} {d : Reg} {v : Word} {p : Portage}

/-! ### MIGR -/

/-- The state after a MIGR that answers `v` and leaves the request `held`. -/
def migrNext (c : Ctx) (f : Fr) (d : Reg) (held v : Nat) : State :=
  flightNext c f (c.outs [(d.toNat, fun _ => BitVec.ofNat 32 v)])
    ((advance c f (nameD d none none none)).modWarp c.w (fun wp => { wp with migr := held }))

theorem migrOp_passes {plan : Ctx → Nat × Nat} (h : Issues s f (nameD d none none none) none noEarly c) (ha : c.act = 0) :
    migrOp f d plan s = .next (passed c f (nameD d none none none)) := issue_done h (if_pos ha)

theorem migrOp_next {plan : Ctx → Nat × Nat} (h : Issues s f (nameD d none none none) none noEarly c) (ha : c.act ≠ 0) :
    migrOp f d plan s = .next (migrNext c f d (plan c).1 (plan c).2) := issue_done h (if_neg ha)

/-! ### PORTAGE -/

/-- The state after a portage point whose record has been found. -/
def pointPassed (c : Ctx) (v : Word) (p : Portage) (t : State) : State :=
  t.modWarp c.w (fun wp => { wp with panch := v.setWidth 16, pcr := p.pcr, pcf := p.pcf })

/-- What a portage point comes to once its record has been found. -/
def portageBody (c : Ctx) (f : Fr) (v : Word) (p : Portage) (t : State) : Body :=
  if mayMigrate c then
    match landingOf c f p with
    | none => .done (pointPassed c v p t)
    | some x => .done (((pointPassed c v p t).modWarp c.w (fun wp => { wp with landing := some x })).modSplit c.w c.ent (fun sp =>
        { sp with wait := some .moving }))
  else .done (pointPassed c v p t)

theorem portage_done {t' : State} (h : Issues s f noNames none noEarly c) (ha : c.act ≠ 0) (hv : v.toNat < 0xFFFF)
    (hp : findPortage c v.toNat (passed c f noNames) = .ok (t, some p)) (hb : portageBody c f v p t = .done t') :
    exec (.portage f v) s = .next t' := by
  rw [exec_portage, execPortage]
  refine controlOp_done h ((if_neg ha).trans ((if_neg (Nat.not_le.mpr hv)).trans ?_))
  simp only [show findPortage c v.toNat (passed c f ⟨none, none, none, []⟩) = .ok (t, some p) from hp]
  exact hb

theorem portage_absent (h : Issues s f noNames none noEarly c) (ha : c.act ≠ 0) (hv : v.toNat < 0xFFFF)
    (hp : findPortage c v.toNat (passed c f noNames) = .ok (t, none)) : exec (.portage f v) s = .next (raiseTrap c f 0x0B c.act [] none) := by
  rw [exec_portage, execPortage]
  refine controlOp_trap h ((if_neg ha).trans ((if_neg (Nat.not_le.mpr hv)).trans ?_))
  simp only [show findPortage c v.toNat (passed c f ⟨none, none, none, []⟩) = .ok (t, none) from hp]

theorem portageBody_stays (hn : mayMigrate c = false ∨ landingOf c f p = none) : portageBody c f v p t = .done (pointPassed c v p t) := by
  unfold portageBody
  rcases hn with hm | hl
  · exact if_neg (Bool.eq_false_iff.mp hm)
  · rw [hl]
    exact ite_self _

theorem portageBody_moves {x : Landing} (hm : mayMigrate c = true) (hl : landingOf c f p = some x) :
    portageBody c f v p t = .done (((pointPassed c v p t).modWarp c.w (fun wp => { wp with landing := some x })).modSplit c.w c.ent (fun sp =>
      { sp with wait := some .moving })) := by
  unfold portageBody
  rw [hl]
  exact if_pos hm

theorem landingOf_spec {x : Landing} (hl : landingOf c f p = some x) :
    x.core ∈ targetCores c ∧ x.pc = (if isRiffle x.core then p.pcf else p.pcr) + BitVec.ofNat 64 (flen f) := by
  obtain ⟨core, hcore, hx⟩ := List.exists_of_findSome?_eq_some hl
  obtain ⟨sl, -, rfl⟩ := Option.map_eq_some_iff.mp hx
  exact ⟨hcore, rfl⟩

theorem mayMigrate_spec (hm : mayMigrate c = true) : c.warp.migr = (if c.riffle then 2 else 1) ∧ c.warp.splits.length = 1 ∧ c.warp.raft = none ∧
    c.warp.xl = false ∧ c.split.rets = [] ∧ c.split.spilled = 0 ∧ c.handler = false := by
  simp only [mayMigrate, Bool.and_eq_true, decide_eq_true_eq, Bool.not_eq_true', Option.isNone_iff_eq_none, List.isEmpty_iff] at hm
  obtain ⟨⟨⟨⟨⟨⟨⟨⟨hreq, hone⟩, -⟩, -⟩, hhandler⟩, hraft⟩, hxl⟩, hrets⟩, hspilled⟩ := hm
  exact ⟨hreq, hone, hraft, hxl, hrets, hspilled, hhandler⟩

end

section
variable {s : State} {c : Ctx} {f : Fr} {d : Reg}

theorem migr_passes (h : Issues s f (nameD d none none none) none noEarly c) (ha : c.act = 0) :
    exec (.migrRiffle f d) s = .next (passed c f (nameD d none none none)) ∧ exec (.migrReach f d) s = .next (passed c f (nameD d none none none)) ∧
      exec (.migrCancel f d) s = .next (passed c f (nameD d none none none)) := by
  rw [exec_migrRiffle, execMigrRiffle, exec_migrReach, execMigrReach, exec_migrCancel, execMigrCancel]
  exact ⟨migrOp_passes h ha, migrOp_passes h ha, migrOp_passes h ha⟩

theorem migrRiffle_eq (h : Issues s f (nameD d none none none) none noEarly c) (ha : c.act ≠ 0) :
    exec (.migrRiffle f d) s = if c.riffle then .next (migrNext c f d c.warp.migr 1)
      else if c.launch.record.entf = 0 then .next (migrNext c f d c.warp.migr 2) else .next (migrNext c f d 1 0) := by
  rw [exec_migrRiffle, execMigrRiffle, migrOp_next h ha]
  split
  · rfl
  · split <;> rfl

theorem migrReach_eq (h : Issues s f (nameD d none none none) none noEarly c) (ha : c.act ≠ 0) :
    exec (.migrReach f d) s = if c.riffle = false then .next (migrNext c f d c.warp.migr 1)
      else if c.launch.record.entr = 0 then .next (migrNext c f d c.warp.migr 2) else .next (migrNext c f d 2 0) := by
  rw [exec_migrReach, execMigrReach, migrOp_next h ha]
  simp only [Bool.not_eq_true']
  split
  · rfl
  · split <;> rfl

theorem migrCancel_eq (h : Issues s f (nameD d none none none) none noEarly c) (ha : c.act ≠ 0) :
    exec (.migrCancel f d) s = if c.warp.migr = 0 then .next (migrNext c f d 0 1) else .next (migrNext c f d 0 0) := by
  rw [exec_migrCancel, execMigrCancel, migrOp_next h ha]
  split <;> rfl

end

/-- Settles O44: the answers of MIGR, and the cases of a portage point. -/
theorem migrationRequests : Obligations.MigrationRequests := by
  unfold Obligations.MigrationRequests
  refine ⟨fun f d s c h => ⟨migr_passes h, fun ha => ⟨migrRiffle_eq h ha, migrReach_eq h ha, migrCancel_eq h ha⟩⟩,
    fun f v s c h => ⟨fun ha => ?none, fun ha hv => ?big, fun t => portage_absent h,
      fun t p ha hv hp => ⟨fun hn => portage_done h ha hv hp (portageBody_stays hn),
        fun x hm hl => ⟨portage_done h ha hv hp (portageBody_moves hm hl), landingOf_spec hl⟩⟩, mayMigrate_spec⟩⟩
  case none =>
    rw [exec_portage, execPortage]
    exact controlOp_done h (if_pos ha)
  case big =>
    rw [exec_portage, execPortage]
    exact controlOp_trap h ((if_neg ha).trans (if_pos hv))

end Sys2Proof.Machine
end

section
/-! SUPPORT. Near-memory commands as a warp sends them and takes their records. -/
namespace Sys2Proof.Machine
open Sys2Proof Sys2Proof.Claims

section
variable {s : State} {c : Ctx} {f : Fr} {d a : Reg} {scope : Scope} {i : Instr}

/-! ### NMQ -/

/-- Whether an NMQ has to wait for handles or for entries of its units. -/
def NmqFull (c : Ctx) (a : Reg) : Prop :=
  64 < c.warp.handles.length + c.doers.length ∨ ∃ u ∈ nmTargets c a, 256 < c.pre.nmuFill u + (nmTargets c a).count u

theorem nmqFull_iff {c : Ctx} {a : Reg} : (64 < c.warp.handles.length + c.doers.length ∨
    (nmTargets c a).any (fun u => decide (256 < c.pre.nmuFill u + (nmTargets c a).count u)) = true) ↔ NmqFull c a := by
  simp only [List.any_eq_true, decide_eq_true_eq, NmqFull]

theorem nmq_passes : Passes (.nmq f d a scope) f (nameD d (regN a 4) none none) (nmqEarly scope) := by
  intro s c h ha
  rw [exec_nmq, execNmq]
  exact issue_done h (if_pos ha)

theorem nmq_sends (h : Issues s f (nameD d (regN a 4) none none) none (nmqEarly scope) c) (ha : c.act ≠ 0) (hr : ¬ NmqFull c a) :
    let r := nmSendAll c a scope c.doers (noteArgs c a (releaseAt c (c.scope scope) (advance c f (nameD d (regN a 4) none none))))
    exec (.nmq f d a scope) s = .next (flightNext c f (c.outs [(d.toNat, wordFor r.2)]) r.1) := by
  rw [exec_nmq, execNmq]
  exact issue_done h ((if_neg ha).trans (if_neg (fun hw => hr (nmqFull_iff.mp hw))))

theorem nmq_waits (h : Issues s f (nameD d (regN a 4) none none) none (nmqEarly scope) c) (ha : c.act ≠ 0) (hr : NmqFull c a) :
    WaitsAt (.nmq f d a scope) s c false false .none := by
  refine waitsAt_of_held h ?_
  rw [exec_nmq, execNmq]
  exact issue_held h ((if_neg ha).trans (if_pos (nmqFull_iff.mpr hr)))

/-! ### NMWAIT -/

variable {wait : Bool}

/-- Whether a thread's handle is that of a command that runs. -/
def handleRuns (c : Ctx) (a : Reg) (t : Nat) : Prop := ∃ x ∈ c.warp.handles, x.num = c.reg a.toNat t ∧ x.record = none

theorem any_handleRuns_iff {c : Ctx} {a : Reg} :
    c.doers.any (fun t => c.warp.handles.any (fun x => decide (x.num = c.reg a.toNat t) && x.record.isNone)) = true ↔
      ∃ t ∈ c.doers, handleRuns c a t := by
  simp only [List.any_eq_true, Bool.and_eq_true, decide_eq_true_eq, Option.isNone_iff_eq_none, handleRuns]

theorem exec_nmwait (f : Fr) (d a : Reg) (wait : Bool) (s : State) :
    exec (if wait then .nmwaitWait f d a else .nmwaitTest f d a) s = nmwaitOp f d a wait s := by
  cases wait <;> rfl

theorem nmwaitOp_passes (h : Issues s f (nameDN d 4 (reg1 a) none none) none noEarly c) (ha : c.act = 0) :
    nmwaitOp f d a wait s = .next (minimumNext c f (advance c f (nameDN d 4 (reg1 a) none none))) := issue_done h (if_pos ha)

theorem nmwaitOp_waits (h : Issues s f (nameDN d 4 (reg1 a) none none) none noEarly c) (ha : c.act ≠ 0) (hw : wait = true)
    (hb : ∃ t ∈ c.doers, handleRuns c a t) : nmwaitOp f d a wait s = .next (waitingState c f (nameDN d 4 (reg1 a) none none) false .none c.pre) :=
  issue_waits h ((if_neg ha).trans (if_pos ⟨hw, any_handleRuns_iff.mpr hb⟩))

/-- The record that a thread receives. -/
def deliveredTo (l : List (Nat × BitVec 128)) (t : Nat) : BitVec 128 := ((l.find? (fun p => decide (p.1 = t))).map (·.2)).getD 0

theorem deliveredTo_eq (l : List (Nat × BitVec 128)) :
    (fun t => match l.find? (fun p => decide (p.1 = t)) with | some p => p.2 | none => 0) = deliveredTo l := by
  funext t
  unfold deliveredTo
  cases l.find? (fun p => decide (p.1 = t)) <;> rfl

/-- The state in which the records of the threads' handles have been delivered. -/
def delivering (c : Ctx) (f : Fr) (d a : Reg) (word : List (Nat × BitVec 128) → Nat → BitVec 128) : State :=
  let r := nmDeliver c a c.doers c.warp.handles
  flightNext c f (c.outs ((List.range 4).map (fun k => (d.toNat + k, fun t => (word r.2.1 t).extractLsb' (32 * k) 32))))
    (r.2.2.foldl (fun s x => acquireAt c (c.scope x) s)
      ((advance c f (nameDN d 4 (reg1 a) none none)).modWarp c.w (fun wp => { wp with handles := r.1 })))

theorem nmwaitOp_delivers (h : Issues s f (nameDN d 4 (reg1 a) none none) none noEarly c) (ha : c.act ≠ 0)
    (hb : wait = false ∨ ∀ t ∈ c.doers, ¬ handleRuns c a t) : nmwaitOp f d a wait s = .next (delivering c f d a deliveredTo) := by
  have hgo : ¬ (wait = true ∧
      c.doers.any (fun t => c.warp.handles.any (fun x => decide (x.num = c.reg a.toNat t) && x.record.isNone)) = true) := by
    rintro ⟨hw, hany⟩
    obtain ⟨t, ht, hrun⟩ := any_handleRuns_iff.mp hany
    rcases hb with hn | hn
    · exact Bool.false_ne_true (hn.symm.trans hw)
    · exact hn t ht hrun
  have hword : delivering c f d a (fun l t => match l.find? (fun p => decide (p.1 = t)) with | some p => p.2 | none => 0) =
      delivering c f d a deliveredTo := congrArg (delivering c f d a) (funext deliveredTo_eq)
  rw [← hword]
  exact issue_done h ((if_neg ha).trans (if_neg hgo))

theorem nmDeliver_unknown {t : Nat} {hs : List Handle} (h : hs.find? (fun x => decide (x.num = c.reg a.toNat t)) = none) :
    nmDeliver c a [t] hs = (hs, [(t, nmRecord 0xFE 0 0 0 0)], []) := by
  simp only [nmDeliver, h]

theorem nmDeliver_running {t : Nat} {hs : List Handle} {x : Handle} (h : hs.find? (fun x => decide (x.num = c.reg a.toNat t)) = some x)
    (hx : x.record = none) : nmDeliver c a [t] hs = (hs, [(t, nmRecord 0xFF 0 0 0 0)], []) := by
  simp only [nmDeliver, h, hx]

theorem nmDeliver_complete {t : Nat} {hs : List Handle} {x : Handle} {r : BitVec 128}
    (h : hs.find? (fun x => decide (x.num = c.reg a.toNat t)) = some x) (hx : x.record = some r) :
    nmDeliver c a [t] hs = (hs.filter (fun y => decide (y.num ≠ c.reg a.toNat t)), [(t, r)], [x.scope]) := by
  simp only [nmDeliver, h, hx]

end

/-- A word within four that follow one another. -/
theorem nmRecord_words (status cmd : Nat) (r0 r1 detail : Word) :
    (nmRecord status cmd r0 r1 detail).toNat =
      detail.toNat * 2 ^ 96 + (r1.toNat * 2 ^ 64 + (r0.toNat * 2 ^ 32 + (status % 256 + 256 * (cmd % 64)))) := by
  have hword : (BitVec.ofNat 32 (status % 256 + 256 * (cmd % 64))).toNat = status % 256 + 256 * (cmd % 64) := by
    rw [BitVec.toNat_ofNat]
    omega
  unfold nmRecord
  rw [toNat_append_eq, toNat_append_eq, toNat_append_eq, hword]

theorem nmRecord_layout (status cmd : Nat) (r0 r1 detail : Word) (hs : status < 256) (hc : cmd < 64) :
    let r := nmRecord status cmd r0 r1 detail
    (r.extractLsb' 0 8).toNat = status ∧ (r.extractLsb' 8 6).toNat = cmd ∧ r.extractLsb' 14 18 = 0 ∧ r.extractLsb' 32 32 = r0 ∧
      r.extractLsb' 64 32 = r1 ∧ r.extractLsb' 96 32 = detail := by
  have h0 := r0.isLt
  have h1 := r1.isLt
  have h2 := detail.isLt
  refine ⟨?_, ?_, BitVec.eq_of_toNat_eq ?_, BitVec.eq_of_toNat_eq ?_, BitVec.eq_of_toNat_eq ?_, BitVec.eq_of_toNat_eq ?_⟩ <;>
    rw [BitVec.extractLsb'_toNat, nmRecord_words, Nat.shiftRight_eq_div_pow]
  · omega
  · omega
  · rw [show ((0 : BitVec 18).toNat) = 0 from rfl]
    omega
  · omega
  · omega
  · omega

/-- Settles O45: commands are sent where there is room, and their records delivered. -/
theorem nearMemoryPosts : Obligations.NearMemoryPosts := by
  unfold Obligations.NearMemoryPosts
  refine ⟨fun f d a scope => ⟨nmq_passes, fun s c h ha => nmwaitOp_passes h ha, fun s c h ha => nmwaitOp_passes h ha⟩,
    fun f d a scope s c h ha => ⟨fun hh hu => nmq_sends h ha ?room, nmq_waits h ha⟩,
    fun f d a wait s c h ha => ⟨fun hb => (exec_nmwait f d a wait s).trans (nmwaitOp_delivers h ha hb),
      fun hw hb => waitsAt_of_waits h ((exec_nmwait f d a wait s).trans (nmwaitOp_waits h ha hw hb))⟩,
    fun c a t hs => ⟨nmDeliver_unknown, fun x hx => ⟨nmDeliver_running hx, fun r hr => nmDeliver_complete hx hr⟩⟩, nmRecord_layout⟩
  case room =>
    rintro (hfull | ⟨u, hu', hfull⟩)
    · exact Nat.not_lt.mpr hh hfull
    · exact Nat.not_lt.mpr (hu u hu') hfull

end Sys2Proof.Machine
end

section
/-! SUPPORT. Item queues as instructions use them. -/
namespace Sys2Proof.Machine
open Sys2Proof Sys2Proof.Claims

/-! ### Pushes and pops -/

section
variable {s t : State} {q : Nat} {v w : DWord}

theorem pushQueue_refused (h : (s.queue q).closed = true ∨ v = BitVec.allOnes 64) : pushQueue s q v = .refused s := if_pos h

variable (hc : (s.queue q).closed = false) (hv : v ≠ BitVec.allOnes 64)
include hc hv

theorem not_refused : ¬ ((s.queue q).closed = true ∨ v = BitVec.allOnes 64) := by
  rintro (h | h)
  · exact Bool.false_ne_true (hc.symm.trans h)
  · exact hv h

theorem pushQueue_full (hf : (s.queue q).depth ≤ ((s.queue q).tail - (s.queue q).head).toNat) : pushQueue s q v = .full :=
  (if_neg (not_refused hc hv)).trans (if_pos hf)

theorem pushQueue_done (hf : ((s.queue q).tail - (s.queue q).head).toNat < (s.queue q).depth)
    (hw : ringWrite s q (s.queue q).tail v = .ok t) : pushQueue s q v = .done (t.modQueue q (fun x => { x with tail := x.tail + 1 })) := by
  refine (if_neg (not_refused hc hv)).trans ((if_neg (Nat.not_le.mpr hf)).trans ?_)
  rw [hw]

end

/-- A pop takes the slot at HEAD. -/
theorem popQueue_takes {s : State} {q : Nat} {w : DWord} (hne : (s.queue q).tail ≠ (s.queue q).head)
    (hr : ringRead s q (s.queue q).head = .ok w) (hw : w ≠ BitVec.allOnes 64) :
    popQueue s q = (s.modQueue q (fun x => { x with head := x.head + 1 }), some w) := by
  have hfill : (s.queue q).fill ≠ 0 := by
    unfold Queue.fill
    bv_omega
  unfold popQueue popItem
  simp only [if_neg hfill, hr, if_neg hw]

/-! ### Instructions on an item queue -/

section
variable {s t : State} {c : Ctx} {f : Fr} {n : Names} {d a b : Reg} {i : Instr} {wait : Bool} {body : Ctx → Nat → State → Body}

theorem queueOp_passes (h : Issues s f n none noEarly c) (ha : c.act = 0) : queueOp f n a body s = .next (minimumNext c f (advance c f n)) :=
  issue_done h (if_pos ha)

theorem queueOp_refused (h : Issues s f n none noEarly c) (ha : c.act ≠ 0) (hq : itemQueue c.pre c.asid (c.queueOf a) = false) :
    queueOp f n a body s = .next (raiseTrap c f 0x03 c.act [] none) :=
  issue_trap h ((if_neg ha).trans (if_pos (congrArg not hq)))

theorem queueOp_body (ha : c.act ≠ 0) (hq : itemQueue c.pre c.asid (c.queueOf a) = true) {st : State} {r : Body} (hb : body c (c.queueOf a) st = r) :
    (if c.act = 0 then Body.done (finishFlight c f [] .minimum st)
     else if !itemQueue c.pre c.asid (c.queueOf a) then .trap 0x03 c.act [] none
     else body c (c.queueOf a) st) = r := by
  rw [if_neg ha, hq]
  exact hb

theorem queueOp_done (h : Issues s f n none noEarly c) (ha : c.act ≠ 0) (hq : itemQueue c.pre c.asid (c.queueOf a) = true)
    (hb : body c (c.queueOf a) (advance c f n) = .done t) : queueOp f n a body s = .next t :=
  issue_done h (queueOp_body ha hq hb)

theorem queueOp_waits {s' : State} (h : Issues s f n none noEarly c) (ha : c.act ≠ 0) (hq : itemQueue c.pre c.asid (c.queueOf a) = true)
    (hb : body c (c.queueOf a) (advance c f n) = .waits false .none s') :
    queueOp f n a body s = .next (waitingState c f n false .none s') :=
  issue_waits h (queueOp_body ha hq hb)

theorem exec_tqpop (f : Fr) (d a : Reg) (wait : Bool) (s : State) :
    exec (if wait then .tqpopWait f d a else .tqpopTry f d a) s = popOp f d a wait s := by
  cases wait <;> rfl

theorem exec_tqpush (f : Fr) (d a b : Reg) (wait : Bool) (s : State) :
    exec (if wait then .tqpushWait f d a b else .tqpushTry f d a b) s = pushOp f d a b wait s := by
  cases wait <;> rfl

theorem popOp_passes (h : Issues s f (nameD2 d (reg1 a) none none) none noEarly c) (ha : c.act = 0) :
    popOp f d a wait s = .next (minimumNext c f (advance c f (nameD2 d (reg1 a) none none))) := queueOp_passes h ha

theorem pushOp_passes (h : Issues s f (nameD d (reg1 a) (reg2 b) none) none noEarly c) (ha : c.act = 0) :
    pushOp f d a b wait s = .next (minimumNext c f (advance c f (nameD d (reg1 a) (reg2 b) none))) := queueOp_passes h ha

/-- The state after a pop that gives `v`, the queue and the block as in `s`. -/
def popNext (c : Ctx) (f : Fr) (d : Reg) (v : DWord) (s : State) : State :=
  flightNext c f (c.outs (pairOuts d (fun _ => v))) (acquireAt c 5 s)

/-! ### TQPOP -/

section
variable (h : Issues s f (nameD2 d (reg1 a) none none) none noEarly c) (ha : c.act ≠ 0)
include h ha

theorem popOp_refused (hq : itemQueue c.pre c.asid (c.queueOf a) = false) : popOp f d a wait s = .next (raiseTrap c f 0x03 c.act [] none) :=
  queueOp_refused h ha hq

variable (hq : itemQueue c.pre c.asid (c.queueOf a) = true)
include hq

theorem popOp_again {v : DWord} (hv : tget c.block.again (c.queueOf a) = some v) :
    popOp f d a wait s = .next (popNext c f d v ((advance c f (nameD2 d (reg1 a) none none)).modBlock c.warp.blk (fun b =>
      { b with again := tdel b.again (c.queueOf a), popped := tput b.popped (c.queueOf a) v }))) := by
  refine queueOp_done h ha hq ?_
  dsimp only
  rw [hv]
  rfl

theorem popOp_item {v : DWord} (hv : tget c.block.again (c.queueOf a) = none)
    (hp : popQueue (advance c f (nameD2 d (reg1 a) none none)) (c.queueOf a) = (t, some v)) :
    popOp f d a wait s = .next (popNext c f d v (t.modBlock c.warp.blk (fun b => { b with popped := tput b.popped (c.queueOf a) v }))) := by
  refine queueOp_done h ha hq ?_
  dsimp only
  rw [hv, hp]
  rfl

variable (hv : tget c.block.again (c.queueOf a) = none)
  (hp : popQueue (advance c f (nameD2 d (reg1 a) none none)) (c.queueOf a) = (t, none))
include hv hp

theorem popOp_empty (hw : wait = false ∨ (c.pre.queue (c.queueOf a)).closed = true) :
    popOp f d a wait s = .next (popNext c f d (BitVec.allOnes 64) t) := by
  refine queueOp_done h ha hq ?_
  dsimp only
  rw [hv, hp]
  refine if_neg ?_
  rintro ⟨hwait, hopen⟩
  rcases hw with hn | hn
  · exact Bool.false_ne_true (hn.symm.trans hwait)
  · rw [hn] at hopen
    exact Bool.false_ne_true hopen

theorem popOp_waits (hw : wait = true) (ho : (c.pre.queue (c.queueOf a)).closed = false) :
    popOp f d a wait s = .next (waitingState c f (nameD2 d (reg1 a) none none) false .none (popQueue c.pre (c.queueOf a)).1) := by
  refine queueOp_waits h ha hq ?_
  dsimp only
  rw [hv, hp]
  exact if_pos ⟨hw, congrArg not ho⟩

end

theorem waitingState_eq (c : Ctx) (f : Fr) (n : Names) (arr : Bool) (ph : Phase) (s : State) :
    waitingState c f n arr ph s =
      ((takeSlot c f n (if c.split.counted then s else counted c f s)).modSplit c.w c.ent (fun sp => { sp with wait := some (.op true arr ph) })).bump := by
  unfold waitingState counted
  cases fctr f with
  | none => simp only [ite_self]
  | some k => rfl

/-! ### TQPUSH -/

/-- The state after a push that answers `v`. -/
def pushNext (c : Ctx) (f : Fr) (d : Reg) (v : Word) (s : State) : State := flightNext c f (c.outs [(d.toNat, fun _ => v)]) s

section
variable (h : Issues s f (nameD d (reg1 a) (reg2 b) none) none noEarly c) (ha : c.act ≠ 0) (hq : itemQueue c.pre c.asid (c.queueOf a) = true)
include h ha hq

theorem pushOp_done (hp : pushQueue (releaseAt c 5 (advance c f (nameD d (reg1 a) (reg2 b) none))) (c.queueOf a)
    (c.reg2 b.toNat (lowest c.act)) = .done t) : pushOp f d a b wait s = .next (pushNext c f d 0 t) := by
  refine queueOp_done h ha hq ?_
  dsimp only
  rw [hp]
  rfl

theorem pushOp_refused (hp : pushQueue (releaseAt c 5 (advance c f (nameD d (reg1 a) (reg2 b) none))) (c.queueOf a)
    (c.reg2 b.toNat (lowest c.act)) = .refused t) : pushOp f d a b wait s = .next (pushNext c f d 2 t) := by
  refine queueOp_done h ha hq ?_
  dsimp only
  rw [hp]
  rfl

variable (hp : pushQueue (releaseAt c 5 (advance c f (nameD d (reg1 a) (reg2 b) none))) (c.queueOf a)
    (c.reg2 b.toNat (lowest c.act)) = .full)
include hp

theorem pushOp_full (hw : wait = false) :
    pushOp f d a b wait s = .next (pushNext c f d 1 (releaseAt c 5 (advance c f (nameD d (reg1 a) (reg2 b) none)))) := by
  refine queueOp_done h ha hq ?_
  dsimp only
  rw [hp, hw]
  rfl

theorem pushOp_waits (hw : wait = true) :
    pushOp f d a b wait s = .next (waitingState c f (nameD d (reg1 a) (reg2 b) none) false .none c.pre) := by
  refine queueOp_waits h ha hq ?_
  dsimp only
  rw [hp, hw]
  rfl

end

theorem tqpushClose_next (h : Issues s f (nameD d (reg1 a) none none) none noEarly c) (ha : c.act ≠ 0)
    (hq : itemQueue c.pre c.asid (c.queueOf a) = true) :
    exec (.tqpushClose f d a) s = .next (pushNext c f d (if (c.pre.queue (c.queueOf a)).closed then 2 else 0)
      ((releaseAt c 5 (advance c f (nameD d (reg1 a) none none))).modQueue (c.queueOf a) (fun x => { x with closed := true }))) := by
  rw [exec_tqpushClose, execTqpushClose]
  exact queueOp_done h ha hq rfl

end

/-- Settles O46: pops, pushes and the close of an item queue. -/
theorem itemQueues : Obligations.ItemQueues := by
  unfold Obligations.ItemQueues
  refine ⟨fun f d a b => ⟨fun s c h ha => ?_, fun s c h ha => ?_, fun s c h ha => ?_, fun s c h ha => ?_, fun s c h ha => ?_⟩,
    fun f d a b wait s c => ⟨?pop, ?push, fun h ha hq => tqpushClose_next h ha hq⟩,
    fun s q v => ⟨pushQueue_refused, pushQueue_full, fun t => pushQueue_done, fun w => popQueue_takes⟩⟩
  · exact (exec_tqpop f d a false s).trans (popOp_passes h ha)
  · exact (exec_tqpop f d a true s).trans (popOp_passes h ha)
  · exact (exec_tqpush f d a b false s).trans (pushOp_passes h ha)
  · exact (exec_tqpush f d a b true s).trans (pushOp_passes h ha)
  · rw [exec_tqpushClose, execTqpushClose]
    exact queueOp_passes h ha
  case pop =>
    intro h ha
    rw [exec_tqpop]
    refine ⟨popOp_refused h ha, fun hq => ⟨fun v => popOp_again h ha hq, fun t v => popOp_item h ha hq, fun t hv hp =>
      ⟨popOp_empty h ha hq hv hp, fun hw ho => (popOp_waits h ha hq hv hp hw ho).trans (congrArg _ (waitingState_eq ..))⟩⟩⟩
  case push =>
    intro h ha hq st
    refine ⟨fun t hp => ?_, fun t hp => ?_, fun hp hw => ?_, fun hp hw => waitsAt_of_waits h ?_⟩ <;> rw [exec_tqpush]
    · exact pushOp_done h ha hq hp
    · exact pushOp_refused h ha hq hp
    · exact pushOp_full h ha hq hp hw
    · exact pushOp_waits h ha hq hp hw

end Sys2Proof.Machine
end

section
/-! SUPPORT. Posts of launches and of collectives. -/
namespace Sys2Proof.Machine
open Sys2Proof Sys2Proof.Claims

/-! ### What a post comes to (R446) -/

/-- Whether the queue of a record is a launch queue of the context that the record may name. -/
def PostAllowed (s : State) (asid : Nat) (world : Bool) (r : Record) : Prop :=
  (s.queue r.queue).bound = true ∧ (s.queue r.queue).item = false ∧ (s.queue r.queue).asid = asid ∧ isBackwater r.queue = false ∧
    (r.wld = true → world = true)

theorem not_postAllowed_iff {s : State} {asid : Nat} {world : Bool} {r : Record} :
    ((!(s.queue r.queue).bound) = true ∨ (s.queue r.queue).item = true ∨ (s.queue r.queue).asid ≠ asid ∨ isBackwater r.queue = true ∨
      (r.wld = true ∧ (!world) = true)) ↔ ¬ PostAllowed s asid world r := by
  unfold PostAllowed
  simp only [Bool.not_eq_true', not_and_or, Bool.not_eq_true, Bool.not_eq_false, Classical.not_imp, ne_eq]

section
variable {s t : State} {asid addr : Nat} {world : Bool} {bs : List Byte}

theorem postLaunch_unread (h : recordBytes s asid addr = none) : postLaunch s asid world addr = .status 2 s := by
  unfold postLaunch
  rw [h]

theorem postLaunch_eq (h : recordBytes s asid addr = some bs) :
    postLaunch s asid world addr =
      if !(s.queue (parseRecord bs).queue).bound ∨ (s.queue (parseRecord bs).queue).item ∨ (s.queue (parseRecord bs).queue).asid ≠ asid ∨
          isBackwater (parseRecord bs).queue ∨ ((parseRecord bs).wld ∧ !world) then .status 3 s
      else if (s.queue (parseRecord bs).queue).depth ≤ (s.queue (parseRecord bs).queue).fill then .status 1 s
      else
        match acceptRecord s asid (parseRecord bs).queue addr bs with
        | none => .status 2 s
        | some l =>
          match ringWrite s (parseRecord bs).queue (s.queue (parseRecord bs).queue).tail (BitVec.ofNat 64 addr) with
          | .error _ => .status 2 s
          | .ok s1 =>
            let s1 := (addLaunch s1 l).modQueue (parseRecord bs).queue (fun q => { q with tail := q.tail + 1 })
            if l.group.isSome then .await s.uid s1 else .status 0 s1 := by
  unfold postLaunch
  rw [h] <;> rfl

theorem postLaunch_foreign (h : recordBytes s asid addr = some bs) (ha : ¬ PostAllowed s asid world (parseRecord bs)) :
    postLaunch s asid world addr = .status 3 s := by
  rw [postLaunch_eq h]
  exact if_pos (not_postAllowed_iff.mpr ha)

variable (h : recordBytes s asid addr = some bs) (ha : PostAllowed s asid world (parseRecord bs))
include h ha

theorem postLaunch_full (hf : (s.queue (parseRecord bs).queue).depth ≤ (s.queue (parseRecord bs).queue).fill) :
    postLaunch s asid world addr = .status 1 s := by
  rw [postLaunch_eq h]
  exact (if_neg (fun hn => not_postAllowed_iff.mp hn ha)).trans (if_pos hf)

variable (hf : (s.queue (parseRecord bs).queue).fill < (s.queue (parseRecord bs).queue).depth)
include hf

theorem postLaunch_bad (hr : acceptRecord s asid (parseRecord bs).queue addr bs = none) : postLaunch s asid world addr = .status 2 s := by
  rw [postLaunch_eq h, if_neg (fun hn => not_postAllowed_iff.mp hn ha), if_neg (Nat.not_le.mpr hf), hr]

theorem postLaunch_enters {l : Launch} (hr : acceptRecord s asid (parseRecord bs).queue addr bs = some l) (hg : l.group = none)
    (hw : ringWrite s (parseRecord bs).queue (s.queue (parseRecord bs).queue).tail (BitVec.ofNat 64 addr) = .ok t) :
    postLaunch s asid world addr =
      .status 0 ((addLaunch t l).modQueue (parseRecord bs).queue (fun q => { q with tail := q.tail + 1 })) := by
  rw [postLaunch_eq h, if_neg (fun hn => not_postAllowed_iff.mp hn ha), if_neg (Nat.not_le.mpr hf), hr]
  dsimp only
  rw [hw, hg]
  rfl

end

section
variable {s t t' : State} {c : Ctx} {f : Fr} {d a : Reg} {b : Src} {op : CollOp}

/-! ### LAUNCH -/

/-- The post that a LAUNCH makes in a state. -/
def launchPost (c : Ctx) (a : Reg) (u : State) : Posted :=
  postLaunch (releaseAt c 5 u) c.asid c.ctx.world (c.reg2 a.toNat (lowest c.act)).toNat

theorem launch_answers {v : Nat} (h : Issues s f (nameD d (reg2 a) none none) none noEarly c) (ha : c.act ≠ 0) (hr : c.split.arrived = false)
    (hp : launchPost c a (advance c f (nameD d (reg2 a) none none)) = .status v t) :
    exec (.launch f d a) s = .next (flightNext c f (c.outs [(d.toNat, fun _ => BitVec.ofNat 32 v)]) t) := by
  unfold launchPost at hp
  rw [exec_launch, execLaunch]
  refine issue_done h ((if_neg ha).trans ((if_neg (Bool.eq_false_iff.mp hr)).trans ?_))
  dsimp only
  rw [hp]
  rfl

theorem launch_waits {k k' : Nat} (h : Issues s f (nameD d (reg2 a) none none) none noEarly c) (ha : c.act ≠ 0) (hr : c.split.arrived = false)
    (hp : launchPost c a (advance c f (nameD d (reg2 a) none none)) = .await k t) (hp' : launchPost c a c.pre = .await k' t') :
    exec (.launch f d a) s = .next (waitingState c f (nameD d (reg2 a) none none) true (.launch k) t') := by
  unfold launchPost at hp hp'
  rw [exec_launch, execLaunch]
  refine issue_waits h ((if_neg ha).trans ((if_neg (Bool.eq_false_iff.mp hr)).trans ?_))
  dsimp only
  rw [hp, hp']

/-! ### COLL -/

/-- The address of the descriptor, and its check. -/
def collAddr (c : Ctx) (a : Reg) : DWord := c.reg2 a.toNat (lowest c.act)
def collChk (c : Ctx) (a : Reg) : List (Nat × Chk) := [(lowest c.act, resolve c .none .read false 64 1 (lowest c.act) (collAddr c a))]

/-- The state after a COLL that answers `v`. -/
def collNext (c : Ctx) (f : Fr) (d : Reg) (v : Nat) (s : State) : State := flightNext c f (c.outs [(d.toNat, fun _ => BitVec.ofNat 32 v)]) s

/-- The state in which the descriptor has been read at its home. -/
def collRead (c : Ctx) (f : Fr) (n : Names) (y : Acc) : State := (readHome c.core [y] (noteTlb (releaseAt c 6 (advance c f n)) c.core [y])).1

/-- The collective that the descriptor names. -/
def collOf (c : Ctx) (f : Fr) (n : Names) (op : CollOp) (a : Reg) (b : Src) (y : Acc) : Collective :=
  { asid := c.asid, priv := c.split.priv, addr := (collAddr c a).toNat, seed := c.ctx.seed, op := op, count := (c.val b (lowest c.act)).toNat,
    desc := (collRead c f n y).bytes y.loc y.size, index := 0, begun := false }

/-- The state in which the collective `x` is the last of its die's, with index `k` in its group. -/
def collQueued (c : Ctx) (x : Collective) (k : Nat) (s : State) : State :=
  let u : State := { s with groups := tmod s.groups x.gid (fun g => { g with posted := g.posted + 1 }) }
  u.modDie (dieOf c.core) (fun y => { y with colls := y.colls ++ [{ x with index := k }] })

theorem posted_eq (g : Option Group) : (match g with | some g => g.posted | none => 0) = (g.map (·.posted)).getD 0 := by
  cases g <;> rfl

variable (h : Issues s f (nameD d (reg2 a) (srcN b 1) none) none noEarly c) (ha : c.act ≠ 0)
include h ha

theorem coll_misaligned (hm : (collAddr c a).toNat % 64 ≠ 0) :
    exec (.coll f op d a b) s = .next (collNext c f d 1 (releaseAt c 6 (advance c f (nameD d (reg2 a) (srcN b 1) none)))) := by
  rw [exec_coll, execColl]
  exact issue_done h ((if_neg ha).trans (if_pos hm))

variable (hm : (collAddr c a).toNat % 64 = 0)
include hm

theorem coll_trap (hk : allOk (collChk c a) = none) :
    exec (.coll f op d a b) s =
      .next (raiseTrap c f (firstBad (collChk c a)).1 (firstBad (collChk c a)).2 [(lowest c.act, collAddr c a)] none) := by
  rw [exec_coll, execColl]
  refine issue_trap h ((if_neg ha).trans ((if_neg (not_not.mpr hm)).trans ?_))
  simp only [show allOk [(lowest c.act, resolve c .none .read false 64 1 (lowest c.act) (c.reg2 a.toNat (lowest c.act)))] = none from hk]
  rfl

variable {y : Acc} (hk : allOk (collChk c a) = some [y])
include hk

theorem coll_refused (ho : collOk c.pre (collOf c f (nameD d (reg2 a) (srcN b 1) none) op a b y) = false) :
    exec (.coll f op d a b) s = .next (collNext c f d 1 (collRead c f (nameD d (reg2 a) (srcN b 1) none) y)) := by
  rw [exec_coll, execColl]
  refine issue_done h ((if_neg ha).trans ((if_neg (not_not.mpr hm)).trans ?_))
  simp only [show allOk [(lowest c.act, resolve c .none .read false 64 1 (lowest c.act) (c.reg2 a.toNat (lowest c.act)))] = some [y] from hk]
  exact if_pos (congrArg not ho)

theorem coll_queued (ho : collOk c.pre (collOf c f (nameD d (reg2 a) (srcN b 1) none) op a b y) = true)
    (he : (c.pre.die (dieOf c.core)).colls = []) :
    let st := collRead c f (nameD d (reg2 a) (srcN b 1) none) y
    let x := collOf c f (nameD d (reg2 a) (srcN b 1) none) op a b y
    exec (.coll f op d a b) s = .next (collNext c f d 0 (collQueued c x (((tget st.groups x.gid).map (·.posted)).getD 0) st)) := by
  intro st x
  have hdone : ¬ (!(c.pre.die (dieOf c.core)).colls.isEmpty && decide (Config.collDepth < (c.pre.die (dieOf c.core)).colls.length)) = true := by
    rw [he]
    exact Bool.false_ne_true
  rw [exec_coll, execColl]
  refine issue_done h ((if_neg ha).trans ((if_neg (not_not.mpr hm)).trans ?_))
  simp only [show allOk [(lowest c.act, resolve c .none .read false 64 1 (lowest c.act) (c.reg2 a.toNat (lowest c.act)))] = some [y] from hk]
  refine (if_neg (fun hn => Bool.false_ne_true ((congrArg not ho).symm.trans hn))).trans ((if_neg hdone).trans ?_)
  exact congrArg (fun k => Body.done (collNext c f d 0 (collQueued c x k st))) (posted_eq (tget st.groups x.gid))

end

/-- Settles O47: the answers of LAUNCH in their order, and those of COLL. -/
theorem launchesAndCollectives : Obligations.LaunchesAndCollectives := by
  unfold Obligations.LaunchesAndCollectives
  refine ⟨fun f op d a b => ⟨fun s c h ha => ?launchNone, fun s c h ha => ?collNone⟩,
    fun f d a s c h ha hr => ⟨fun v t hp => launch_answers h ha hr hp,
      fun k t k' t' hp hp' => (launch_waits h ha hr hp hp').trans (congrArg _ (waitingState_eq ..))⟩,
    fun s asid world addr => ⟨postLaunch_unread, fun bs hb => ⟨postLaunch_foreign hb, postLaunch_full hb, postLaunch_bad hb,
      fun l t ha hf hr hg hw => postLaunch_enters hb ha hf hr hg hw⟩⟩,
    fun f op d a b s c h ha => ⟨coll_misaligned h ha, coll_trap h ha, fun y hm hk => ⟨coll_refused h ha hm hk, coll_queued h ha hm hk⟩⟩⟩
  case launchNone =>
    rw [exec_launch, execLaunch]
    exact issue_done h (if_pos ha)
  case collNone =>
    rw [exec_coll, execColl]
    exact issue_done h (if_pos ha)

end Sys2Proof.Machine
end

section
/-! SUPPORT. Results and operations whose time has come, and what ends. -/
namespace Sys2Proof.Machine
open Sys2Proof Sys2Proof.Claims

/-! ### Results of fixed latency -/

section
variable {s : State} {w k i : Nat} {wp : Warp} {x : Fixed} {y : Flight}

theorem dueFixed_eq (h : wp.fixed[i]? = some x) (hd : x.due ≤ s.now) (hb : ∀ j y, j < i → wp.fixed[j]? = some y → s.now < y.due) :
    dueFixed s wp = some (i, x) := by
  have hfind : wp.fixed.zipIdx.find? (fun p => decide (p.1.due ≤ s.now)) = some (x, i) := by
    refine List.find?_eq_some_iff_getElem.mpr ⟨decide_eq_true hd, i, ?_, ?_, fun j hj => ?_⟩
    · obtain ⟨hlt, -⟩ := List.getElem?_eq_some_iff.mp h
      simpa using hlt
    · obtain ⟨hlt, hx⟩ := List.getElem?_eq_some_iff.mp h
      simp [hx]
    · have hlt : j < wp.fixed.length := hj.trans (List.getElem?_eq_some_iff.mp h).1
      have := hb j wp.fixed[j] hj (List.getElem?_eq_getElem hlt)
      simpa using this
  unfold dueFixed
  rw [hfind]
  rfl

theorem dueFixed_none (hb : ∀ y ∈ wp.fixed, s.now < y.due) : dueFixed s wp = none := by
  have hfind : wp.fixed.zipIdx.find? (fun p => decide (p.1.due ≤ s.now)) = none := by
    refine List.find?_eq_none.mpr fun p hp => ?_
    have := hb p.1 (List.fst_mem_of_mem_zipIdx hp)
    simpa using this
  unfold dueFixed
  rw [hfind]
  rfl

theorem resultWriteback_next (hw : tget s.warps w = some wp) (h : dueFixed s wp = some (i, x)) :
    exec (.resultWriteback w) s =
      .next (countHealth (s.modWarp w (fun wp => ({ wp with fixed := dropAt wp.fixed i }).decCtr x.ctr)) wp.blk ⟨x.sat, x.zero⟩) := by
  rw [exec_resultWriteback, execResultWriteback, hw]
  dsimp only
  rw [h]

theorem resultWriteback_refused (hw : tget s.warps w = some wp) (h : dueFixed s wp = none) :
    exec (.resultWriteback w) s = .refused .notEnabled := by
  rw [exec_resultWriteback, execResultWriteback, hw]
  dsimp only
  rw [h]

/-! ### Operations of variable latency -/

/-- Whether the flights of a kind end by MINIMUM_LATENCY_RELEASE, by INSTRUCTION_COMPLETION, or with an operation of the array. -/
def rightKind (kind : FlightKind) (minimum : Bool) : Bool :=
  match kind with
  | .access | .load _ | .kv _ => !minimum
  | .minimum => minimum
  | .tile _ => false

theorem dueFlight_eq (minimum : Bool) (hw : tget s.warps w = some wp) (hy : wp.flights[k]? = some y) :
    dueFlight s w k minimum = if rightKind y.kind minimum && decide (y.due ≤ s.now) then some (wp, y) else none := by
  unfold dueFlight
  rw [hw]
  dsimp only
  rw [hy]
  rfl

theorem dueFlight_due {minimum : Bool} (hw : tget s.warps w = some wp) (hy : wp.flights[k]? = some y) (hd : y.due ≤ s.now)
    (hr : rightKind y.kind minimum = true) : dueFlight s w k minimum = some (wp, y) := by
  rw [dueFlight_eq minimum hw hy, hr, decide_eq_true hd]
  rfl

theorem dueFlight_early {minimum : Bool} (hw : tget s.warps w = some wp) (hy : wp.flights[k]? = some y) (hd : s.now < y.due) :
    dueFlight s w k minimum = none := by
  rw [dueFlight_eq minimum hw hy, decide_eq_false (Nat.not_le.mpr hd), Bool.and_false]
  rfl

theorem instructionCompletion_next (h : dueFlight s w k false = some (wp, y)) :
    exec (.instructionCompletion w k) s =
      match y.kind with
      | .load num => .next (loadDone (endFlight s w k y) (wp.core / 2) num).bump
      | .kv lost => .next ((endFlight s w k y).modWarp w (fun wp => { wp with kvrm := lost }))
      | _ => .next (endFlight s w k y) := by
  rw [exec_instructionCompletion, execInstructionCompletion, h] <;> rfl

theorem instructionCompletion_refused (h : dueFlight s w k false = none) : exec (.instructionCompletion w k) s = .refused .notEnabled := by
  rw [exec_instructionCompletion, execInstructionCompletion, h]

theorem minimumLatencyRelease_next (h : dueFlight s w k true = some (wp, y)) :
    exec (.minimumLatencyRelease w k) s = .next (endFlight s w k y) := by
  rw [exec_minimumLatencyRelease, execMinimumLatencyRelease, h]

theorem minimumLatencyRelease_refused (h : dueFlight s w k true = none) : exec (.minimumLatencyRelease w k) s = .refused .notEnabled := by
  rw [exec_minimumLatencyRelease, execMinimumLatencyRelease, h]

end

/-- Settles O48: what is due ends, and nothing else does. -/
theorem resultsAndCompletions : Obligations.ResultsAndCompletions := by
  unfold Obligations.ResultsAndCompletions
  refine ⟨fun s w i wp x hw hx hd hb => resultWriteback_next hw (dueFixed_eq hx hd hb), fun s w wp hw hb => resultWriteback_refused hw (dueFixed_none hb),
    fun s w k wp x hw hx hd => ⟨fun hk => ?access, fun lost hk => ?kv, fun num hk => ?load, fun hk => ?minimum⟩,
    fun s w k wp x hw hx hd => ⟨instructionCompletion_refused (dueFlight_early hw hx hd), minimumLatencyRelease_refused (dueFlight_early hw hx hd)⟩⟩
  case access =>
    rw [instructionCompletion_next (dueFlight_due hw hx hd (by rw [hk]; rfl)), hk]
    rfl
  case kv =>
    rw [instructionCompletion_next (dueFlight_due hw hx hd (by rw [hk]; rfl)), hk]
    rfl
  case load =>
    rw [instructionCompletion_next (dueFlight_due hw hx hd (by rw [hk]; rfl)), hk]
    rfl
  case minimum => exact minimumLatencyRelease_next (dueFlight_due hw hx hd (by rw [hk]; rfl))

/-! ### Traps, ageing, yields, fetches and flushes -/

section
variable {s : State} {w ent k core b : Nat} {wp : Warp} {c : Ctx} {sp : Split}

theorem inWarpTrapEntry_next {x : Trap} {r : List Trap} (hw : tget s.warps w = some wp) (ht : wp.traps = x :: r) (hc : s.issuerOf w x.ent = .ok c)
    (hh : wp.inHandler = false) (hg : c.gang.state = .running ∨ c.gang.state = .stopping) (hs : (s.core wp.core).stopped = false) :
    exec (.inWarpTrapEntry w) s = .next (enterHandler (s.modWarp w (fun wp => { wp with traps := r })) w c.ctx.tvec x 0) := by
  have hrun : (decide (c.gang.state = .running) || decide (c.gang.state = .stopping)) = true := by simpa using hg
  rw [exec_inWarpTrapEntry, execInWarpTrapEntry, hw]
  simp only [ht, hc, hh, hs, hrun, Bool.not_true, Bool.or_self, Bool.false_eq_true, if_false]

theorem splitAged_next (h : splitAt s w ent = some sp) (hp : 64 ≤ sp.passed) (ha : sp.aged = none) :
    exec (.splitAged w ent) s = .next (s.modSplit w ent (fun sp => { sp with aged := some s.now })) := by
  rw [exec_splitAged, execSplitAged, show (tget s.warps w).bind (·.split? ent) = some sp from h]
  exact if_pos ⟨hp, ha⟩

theorem splitAged_refused (h : splitAt s w ent = some sp) (hn : sp.passed < 64 ∨ sp.aged ≠ none) :
    exec (.splitAged w ent) s = .refused .notEnabled := by
  rw [exec_splitAged, execSplitAged, show (tget s.warps w).bind (·.split? ent) = some sp from h]
  exact if_neg (fun ⟨hp, ha⟩ => hn.elim (Nat.not_lt.mpr hp) (fun hne => hne ha))

theorem yieldRelease_eq {y : Yield} (h : splitAt s w ent = some sp) (hy : sp.yield = some y) :
    exec (.yieldRelease w ent) s =
      if y.others = [] ∨ y.limit ≤ s.now then .next (s.modSplit w ent (fun sp => { sp with yield := none })) else .refused .notEnabled := by
  rw [exec_yieldRelease, execYieldRelease, show (tget s.warps w).bind (·.split? ent) = some sp from h]
  dsimp only
  rw [hy]

theorem fetchTrap_next {mine : Nat → Bool} (hc : s.issuerOf w ent = .ok c) (hf : fetch s c = .error k) (hg : gate c plainFr = true)
    (hw : c.split.wait = none) (hm : mine k = true) :
    fetchTrap w ent mine s =
      .next (raiseTrap c plainFr k c.split.mask ((threadsOf c.split.mask).map (fun t => (t, c.split.pc))) none).bump := by
  unfold fetchTrap
  simp only [hc, hf, hm, hg, hw, Option.isNone_none, Bool.and_self, if_true]

theorem illegalInstruction_next (hc : s.issuerOf w ent = .ok c) (hf : fetch s c = .error k) (hg : gate c plainFr = true) (hw : c.split.wait = none)
    (hk : k = 0x01) : exec (.illegalInstruction w ent) s =
      .next (raiseTrap c plainFr k c.split.mask ((threadsOf c.split.mask).map (fun t => (t, c.split.pc))) none).bump := by
  rw [exec_illegalInstruction, execIllegalInstruction]
  exact fetchTrap_next hc hf hg hw (decide_eq_true hk)

theorem fetchFault_next (hc : s.issuerOf w ent = .ok c) (hf : fetch s c = .error k) (hg : gate c plainFr = true) (hw : c.split.wait = none)
    (hk : k ≠ 0x01) : exec (.fetchFault w ent) s =
      .next (raiseTrap c plainFr k c.split.mask ((threadsOf c.split.mask).map (fun t => (t, c.split.pc))) none).bump := by
  rw [exec_fetchFault, execFetchFault]
  exact fetchTrap_next hc hf hg hw (decide_eq_true hk)

theorem l1Eviction_next {x : L1Line} (h : (s.core core).l1[k]? = some x) : exec (.l1Eviction core k) s = .next (flushLine s core x.line true) := by
  rw [exec_l1Eviction, execL1Eviction, h]

theorem blockHealthFlush_eq {x : Block} (h : tget s.blocks b = some x) :
    exec (.blockHealthFlush b) s = if 65536 ≤ x.satc ∨ 65536 ≤ x.zeroc then .next (flushHealth s b) else .refused .notEnabled := by
  rw [exec_blockHealthFlush, execBlockHealthFlush, h]

/-! ### The end of a warp -/

theorem warpDone_of (he : wp.ending = true) (hs : wp.settled = true) (hc : s.hasCmds w = false)
    (hr : ∀ rid r, wp.raft = some rid → tget s.rafts rid = some r → ∀ o ∈ r.ops, ∀ m ∈ o.issued, m.warp ≠ w) : warpDone s w wp = true := by
  unfold warpDone
  rw [he, hs, hc]
  cases hraft : wp.raft with
  | none => rfl
  | some rid =>
    cases hr' : tget s.rafts rid with
    | none => simp only [hr', Bool.not_false, Bool.and_self]
    | some r =>
      have hnone : r.ops.any (fun o => o.issued.any (fun m => decide (m.warp = w))) = false := by
        simpa using hr rid r hraft hr'
      simp only [hr', hnone, Bool.not_false, Bool.and_self]

theorem not_warpDone (h : wp.ending = false ∨ wp.settled = false ∨ s.hasCmds w = true) : warpDone s w wp = false := by
  unfold warpDone
  rcases h with h | h | h <;> rw [h] <;> simp

theorem warpEnd_refused {x : Block} (hw : tget s.warps w = some wp) (hb : tget s.blocks wp.blk = some x) (h : warpDone s w wp = false) :
    exec (.warpEnd w) s = .refused .notEnabled := by
  rw [exec_warpEnd, execWarpEnd, hw]
  simp only [hb, h, Bool.not_false, Bool.true_or, if_true]

theorem warpEnd_next {x : Block} {g : Gang} (hw : tget s.warps w = some wp) (hb : tget s.blocks wp.blk = some x) (hg : tget s.gangs x.gang = some g)
    (hr : g.state = .running ∨ g.state = .stopping) (hs : (s.core wp.core).stopped = false) (hd : warpDone s w wp = true) :
    let s1 := leaveRaft (if wp.xl then freeExt w s else s) w
    let s2 : State := { s1 with warps := tdel s1.warps w }
    let s3 := barriersAfter (s2.modBlock wp.blk (fun b =>
      if wp.core = b.core then { b with spent := b.spent ++ [wp.slot] } else { b with gone := b.gone + 1 })) wp x
    exec (.warpEnd w) s = .next (if (s3.warpsOfBlock wp.blk).isEmpty then blockEnds s3 wp.blk x else s3).bump := by
  have hrun : (decide (g.state = .running) || decide (g.state = .stopping)) = true := by simpa using hr
  rw [exec_warpEnd, execWarpEnd, hw]
  simp only [hb, hg, hd, hs, hrun, Bool.not_true, Bool.or_self, Bool.false_eq_true, if_false]

end

/-- Settles O49: what ends a wait, a fetch or a warp, with the tests that it has. -/
theorem endsAndReleases : Obligations.EndsAndReleases := by
  unfold Obligations.EndsAndReleases
  refine ⟨fun s w wp x r c hw ht hc hh hg hs => inWarpTrapEntry_next hw ht hc hh hg hs,
    fun s w ent sp h => ⟨splitAged_next h, splitAged_refused h, fun y hy => ⟨fun hend => ?_, fun hne hlt => ?_⟩⟩,
    fun s w ent k c hc hf hg hw => ⟨illegalInstruction_next hc hf hg hw, fetchFault_next hc hf hg hw⟩,
    fun s core k x h => l1Eviction_next h, fun s b x h => ⟨fun hfull => ?_, fun hsat hzero => ?_⟩,
    fun s w wp b g hw hb hg hr hs he hset hcmds hraft => warpEnd_next hw hb hg hr hs (warpDone_of he hset hcmds hraft),
    fun s w wp b hw hb hn => warpEnd_refused hw hb (not_warpDone hn)⟩
  · exact (yieldRelease_eq h hy).trans (if_pos hend)
  · exact (yieldRelease_eq h hy).trans (if_neg (fun hor => hor.elim hne (Nat.not_le.mpr hlt)))
  · exact (blockHealthFlush_eq h).trans (if_pos hfull)
  · exact (blockHealthFlush_eq h).trans (if_neg (by omega))

end Sys2Proof.Machine
end

section
/-! SUPPORT. Faults that leave a warp, and the bytes of global memory that they write. -/
namespace Sys2Proof.Machine
open Sys2Proof Sys2Proof.Claims

/-! ### Global memory but for the health counts of contexts (R531) -/

/-- The pools of contexts stand where they stood. -/
def SamePools (s t : State) : Prop := ∀ asid, (tget t.ctxs asid).map (·.poolBase) = (tget s.ctxs asid).map (·.poolBase)

/-- Whether an address lies outside the health counts of every context. -/
def OutsideCounts (s : State) (a : Nat) : Prop := ∀ asid x, tget s.ctxs asid = some x → a < x.poolBase + 0x40000 ∨ x.poolBase + 0x40010 ≤ a

/-- From `s` to `t` no byte of global memory is written but health counts. -/
def WritesCounts (s t : State) : Prop := SamePools s t ∧ ∀ a, OutsideCounts s a → t.byte (.hbm a) = s.byte (.hbm a)

theorem SamePools.outside {s t : State} {a : Nat} (h : SamePools s t) (ha : OutsideCounts s a) : OutsideCounts t a := by
  intro asid x hx
  have hpool := h asid
  rw [hx, Option.map_some, eq_comm, Option.map_eq_some_iff] at hpool
  obtain ⟨y, hy, hyx⟩ := hpool
  have := ha asid y hy
  rwa [hyx] at this

theorem WritesCounts.refl (s : State) : WritesCounts s s := ⟨fun _ => rfl, fun _ _ => rfl⟩

theorem WritesCounts.trans {s t u : State} (h : WritesCounts s t) (h' : WritesCounts t u) : WritesCounts s u :=
  ⟨fun asid => (h'.1 asid).trans (h.1 asid), fun a ha => (h'.2 a (h.1.outside ha)).trans (h.2 a ha)⟩

theorem writesCounts_foldl {α : Type} {g : State → α → State} (hg : ∀ s x, WritesCounts s (g s x)) (l : List α) (s : State) :
    WritesCounts s (l.foldl g s) := by
  induction l generalizing s with
  | nil => exact .refl s
  | cons x l ih => exact (hg s x).trans (ih (g s x))

theorem writesCounts_of_eq {s t : State} (hm : t.mem = s.mem) (hc : t.ctxs = s.ctxs) : WritesCounts s t :=
  ⟨fun _ => by rw [hc], fun _ _ => by simp only [State.byte, hm]⟩

theorem writesCounts_modCtx (s : State) (n : Nat) {g : Context → Context} (hg : ∀ x, (g x).poolBase = x.poolBase) :
    WritesCounts s (s.modCtx n g) := by
  refine ⟨fun asid => ?_, fun _ _ => rfl⟩
  rw [State.modCtx_ctxs, tget_tmod]
  split
  · next heq =>
    subst heq
    simp only [Option.map_map, Function.comp_def, hg]
  · rfl

theorem writesCounts_writeSr (s : State) (w : Nat) (sr : SReg) (v : DWord) : WritesCounts s (s.writeSr w sr v) := by
  unfold State.writeSr
  split
  · exact .refl s
  · dsimp only
    split
    · exact writesCounts_modCtx s _ (fun _ => rfl)
    · exact writesCounts_modCtx s _ (fun _ => rfl)
    · exact writesCounts_modCtx s _ (fun _ => rfl)
    · exact writesCounts_of_eq rfl rfl
    · exact writesCounts_of_eq rfl rfl
    · exact writesCounts_of_eq rfl rfl
    · exact writesCounts_of_eq rfl rfl
    · exact .refl s

theorem writesCounts_landAll (s : State) (w : Nat) : WritesCounts s (s.landAll w) := by
  unfold State.landAll State.landSides
  split
  · exact .refl s
  · refine WritesCounts.trans (writesCounts_of_eq (setRegs_mem s _) (setRegs_ctxs s _)) (WritesCounts.trans
      (writesCounts_foldl (fun s (sp : Split) => writesCounts_foldl (fun s (p : SPend) => writesCounts_writeSr s w p.sr p.val) _ s) _ _) (writesCounts_of_eq rfl rfl))

theorem writesCounts_countHealth (s : State) (b : Nat) (h : Health) : WritesCounts s (countHealth s b h) := by
  unfold countHealth
  split
  · exact .refl s
  · exact writesCounts_of_eq rfl rfl

theorem writesCounts_finishIssued (s : State) (w : Nat) : WritesCounts s (finishIssued s w) := by
  unfold finishIssued
  split
  · exact .refl s
  · exact (writesCounts_landAll s w).trans (writesCounts_countHealth ..)

/-! ### What writes memory -/

theorem hbm_not_within_hbm {a b n : Nat} (h : a < b ∨ b + n ≤ a) : (Loc.hbm a).within (.hbm b) n = false := by
  induction n generalizing b with
  | zero => rfl
  | succ n ih =>
    have hkey : (Loc.hbm a).key ≠ (Loc.hbm b).key := by
      simp only [Loc.key]
      omega
    rw [Loc.within, decide_eq_false hkey, Bool.false_or]
    exact ih (by omega)

theorem hbm_not_within_host (a b n : Nat) : (Loc.hbm a).within (.host b) n = false := by
  induction n generalizing b with
  | zero => rfl
  | succ n ih =>
    have hkey : (Loc.hbm a).key ≠ (Loc.host b).key := by
      simp only [Loc.key]
      omega
    rw [Loc.within, decide_eq_false hkey, Bool.false_or]
    exact ih (b + 1)

theorem writesCounts_postEvent (s : State) (type asid : Nat) (detail : List Byte) : WritesCounts s (postEvent s type asid detail) := by
  unfold postEvent
  split
  · obtain ⟨m, hm⟩ := setBytes_eq s (.host (s.ring.base + 32 * (s.ring.widx.toNat % s.ring.count)))
      (toBytes 4 (type % 256 + (if decide ((s.ring.widx - s.ring.ridx).toNat = s.ring.count) then 256 else 0) + 65536 * (asid % 65536)) ++
        toBytes 4 s.ring.widx.toNat ++ (detail ++ List.replicate 24 0).take 24)
    have hbyte := fun a => byte_setBytes_out s (.host (s.ring.base + 32 * (s.ring.widx.toNat % s.ring.count))) (.hbm a)
      (toBytes 4 (type % 256 + (if decide ((s.ring.widx - s.ring.ridx).toNat = s.ring.count) then 256 else 0) + 65536 * (asid % 65536)) ++
        toBytes 4 s.ring.widx.toNat ++ (detail ++ List.replicate 24 0).take 24) (hbm_not_within_host ..)
    rw [hm] at hbyte
    dsimp only
    rw [hm]
    exact ⟨fun _ => rfl, fun a _ => hbyte a⟩
  · exact .refl s

theorem homeWrite_hbm_byte (s : State) {a b : Nat} (bs : List Byte) (h : a < b ∨ b + bs.length ≤ a) :
    (homeWrite s (.hbm b) bs).byte (.hbm a) = s.byte (.hbm a) := by
  refine Eq.trans ?_ (byte_setBytes_out s (.hbm b) (.hbm a) bs (hbm_not_within_hbm h))
  simp only [State.byte, homeWrite_mem]

theorem writesCounts_addHealth1 {s : State} {asid which n : Nat} {x : Context} (hx : tget s.ctxs asid = some x) (hw : which < 2) :
    WritesCounts s (addHealth1 s asid x.poolBase which n) := by
  have hwrite : ∀ bs : List Byte, bs.length = 8 → WritesCounts s (homeWrite s (.hbm (x.poolBase + 0x40000 + 8 * which)) bs) := by
    intro bs hlen
    refine ⟨fun asid => ?_, fun a ha => homeWrite_hbm_byte s bs ?_⟩
    · obtain ⟨m, p, hm⟩ := homeWrite_eq s (.hbm (x.poolBase + 0x40000 + 8 * which)) bs
      rw [hm]
    · have := ha asid x hx
      omega
  unfold addHealth1
  dsimp only
  split
  · exact (hwrite _ (by simp)).trans ((writesCounts_modCtx _ _ (fun _ => by rfl)).trans (writesCounts_postEvent ..))
  · exact hwrite _ (by simp)

theorem writesCounts_addHealth (s : State) (asid : Nat) (h : Health) : WritesCounts s (addHealth s asid h) := by
  unfold addHealth
  split
  · exact .refl s
  · next x hx =>
    have hfirst : WritesCounts s (if h.sat = 0 then s else addHealth1 s asid x.poolBase 0 h.sat) := by
      split
      · exact .refl s
      · exact writesCounts_addHealth1 hx (by decide)
    have hpool : ((tget (if h.sat = 0 then s else addHealth1 s asid x.poolBase 0 h.sat).ctxs asid).map (·.poolBase)) = some x.poolBase := by
      rw [hfirst.1 asid, hx]
      rfl
    obtain ⟨y, hy, hyx⟩ := Option.map_eq_some_iff.mp hpool
    dsimp only
    split
    · exact hfirst
    · rw [← hyx] at hfirst hy ⊢
      exact hfirst.trans (writesCounts_addHealth1 hy (by decide))

theorem writesCounts_flushHealth (s : State) (b : Nat) : WritesCounts s (flushHealth s b) := by
  unfold flushHealth
  split
  · exact (writesCounts_addHealth ..).trans (writesCounts_of_eq rfl rfl)
  · exact .refl s

theorem writesCounts_quell (s : State) (gid : Nat) : WritesCounts s (quell s gid) := by
  unfold quell
  dsimp only
  refine WritesCounts.trans (WritesCounts.trans ?_ (writesCounts_foldl (fun s t => ?_) _ _)) (writesCounts_foldl (fun s c => ?_) _ _)
  · exact ((writesCounts_foldl writesCounts_finishIssued _ s).trans (writesCounts_foldl writesCounts_flushHealth _ _)).trans
      (writesCounts_of_eq rfl rfl)
  · exact writesCounts_of_eq rfl rfl
  · exact writesCounts_of_eq rfl rfl

/-- What is no longer kept of a gang is no byte of global memory. -/
theorem tget_filter_of_keeps {α : Type} {q : Nat → Bool} (m : SMap α) {k : Nat} (h : q k = true) :
    tget (m.filter (fun c => q c.1)) k = tget m k := by
  induction m with
  | nil => rfl
  | cons p m ih =>
    obtain ⟨j, v⟩ := p
    by_cases hj : q j = true
    · simp only [List.filter_cons, hj, if_true, tget, ih]
    · have hne : k ≠ j := by
        rintro rfl
        exact hj h
      simp only [List.filter_cons, hj, Bool.false_eq_true, if_false, tget, ih, if_neg hne]

theorem writesCounts_sweep (s : State) (gid : Nat) (bs ws : List Nat) : WritesCounts s (sweep s gid bs ws) := by
  refine ⟨fun _ => rfl, fun a _ => ?_⟩
  have hkey : (Loc.hbm a).key % 16 = 0 := by
    simp only [Loc.key]
    omega
  unfold sweep State.byte tgetD
  refine congrArg (fun b => b.getD unlisted) (tget_filter_of_keeps (q := fun k => !(match k % 16 with
    | 4 => bs.contains (k / 16 / 2 ^ 52)
    | 5 => decide (k / 16 / 2 ^ 52 = gid)
    | 6 => ws.contains (k / 16 / 2 ^ 52 / 32)
    | 9 => ws.contains (k / 16 * 8 / 32 / 1024)
    | _ => false)) s.mem ?_)
  rw [hkey]
  rfl

theorem writesCounts_clearGang (s : State) (gid : Nat) : WritesCounts s (clearGang s gid) := by
  unfold clearGang
  dsimp only
  refine WritesCounts.trans (WritesCounts.trans ?_ (writesCounts_foldl (fun s t => ?_) _ _)) (writesCounts_foldl (fun s c => ?_) _ _)
  · exact ((writesCounts_foldl writesCounts_flushHealth _ s).trans (writesCounts_sweep ..)).trans (writesCounts_of_eq rfl rfl)
  · exact writesCounts_of_eq rfl rfl
  · unfold restCore
    split <;> exact writesCounts_of_eq rfl rfl

/-! ### What stands of the faults raised, and the gangs -/

/-- The faults raised and the gangs are the same. -/
def SameFaults (s t : State) : Prop := t.raised = s.raised ∧ t.gangs = s.gangs

theorem SameFaults.trans {s t u : State} (h : SameFaults s t) (h' : SameFaults t u) : SameFaults s u := ⟨h'.1.trans h.1, h'.2.trans h.2⟩

theorem sameFaults_foldl {α : Type} {g : State → α → State} (hg : ∀ s x, SameFaults s (g s x)) (l : List α) (s : State) :
    SameFaults s (l.foldl g s) := by
  induction l generalizing s with
  | nil => exact ⟨rfl, rfl⟩
  | cons x l ih => exact (hg s x).trans (ih (g s x))

theorem sameFaults_setBytes (s : State) (l : Loc) (bs : List Byte) : SameFaults s (s.setBytes l bs) := by
  obtain ⟨m, hm⟩ := setBytes_eq s l bs
  rw [hm]
  exact ⟨rfl, rfl⟩

theorem sameFaults_homeWrite (s : State) (l : Loc) (bs : List Byte) : SameFaults s (homeWrite s l bs) := by
  obtain ⟨m, p, hm⟩ := homeWrite_eq s l bs
  rw [hm]
  exact ⟨rfl, rfl⟩

theorem sameFaults_postEvent (s : State) (type asid : Nat) (detail : List Byte) : SameFaults s (postEvent s type asid detail) := by
  unfold postEvent
  split
  · exact (sameFaults_setBytes s (.host (s.ring.base + 32 * (s.ring.widx.toNat % s.ring.count))) _).trans ⟨rfl, rfl⟩
  · exact ⟨rfl, rfl⟩

theorem sameFaults_addHealth1 (s : State) (asid pool which n : Nat) : SameFaults s (addHealth1 s asid pool which n) := by
  unfold addHealth1
  dsimp only
  split
  · exact (sameFaults_homeWrite ..).trans (SameFaults.trans (t := State.modCtx _ _ _) ⟨rfl, rfl⟩ (sameFaults_postEvent ..))
  · exact sameFaults_homeWrite ..

theorem sameFaults_addHealth (s : State) (asid : Nat) (h : Health) : SameFaults s (addHealth s asid h) := by
  unfold addHealth
  split
  · exact ⟨rfl, rfl⟩
  · have hfirst (x : Context) : SameFaults s (if h.sat = 0 then s else addHealth1 s asid x.poolBase 0 h.sat) := by
      split
      · exact ⟨rfl, rfl⟩
      · exact sameFaults_addHealth1 ..
    dsimp only
    split
    · exact hfirst _
    · exact (hfirst _).trans (sameFaults_addHealth1 ..)

theorem sameFaults_flushHealth (s : State) (b : Nat) : SameFaults s (flushHealth s b) := by
  unfold flushHealth
  split
  · exact (sameFaults_addHealth ..).trans ⟨rfl, rfl⟩
  · exact ⟨rfl, rfl⟩

theorem sameFaults_finishIssued (s : State) (w : Nat) : SameFaults s (finishIssued s w) := by
  unfold finishIssued countHealth
  split
  · exact ⟨rfl, rfl⟩
  · split <;> exact ⟨landSides_raised .., landSides_gangs ..⟩

theorem quell_faults (s : State) (gid : Nat) :
    (quell s gid).raised = s.raised.filter (fun x => decide (x.gang ≠ gid) || isHard x.cause ||
      ((match tget s.gangs gid with | some g => decide (g.state = .stopped) || decide (g.state = .halted) | none => false) &&
        decide (x.cause = 0x28))) ∧ (quell s gid).gangs = s.gangs := by
  obtain ⟨hr, hg⟩ := (sameFaults_foldl sameFaults_finishIssued ((s.warpsOfGang gid).map (·.1)) s).trans
    (sameFaults_foldl sameFaults_flushHealth ((s.blocksOfGang gid).map (·.1)) _)
  unfold quell
  dsimp only
  refine ⟨?_, ?_⟩
  · refine (sameFaults_foldl (fun s c => ?_) _ _).1.trans ((sameFaults_foldl (fun s t => ?_) _ _).1.trans (congrArg (List.filter _) hr))
    · exact ⟨rfl, rfl⟩
    · exact ⟨rfl, rfl⟩
  · refine (sameFaults_foldl (fun s c => ?_) _ _).2.trans ((sameFaults_foldl (fun s t => ?_) _ _).2.trans hg)
    · exact ⟨rfl, rfl⟩
    · exact ⟨rfl, rfl⟩

theorem hard_mem_quell (s : State) (gid : Nat) (x : Raised) (hx : x ∈ s.raised) (hh : isHard x.cause = true) : x ∈ (quell s gid).raised := by
  rw [(quell_faults s gid).1]
  exact List.mem_filter.mpr ⟨hx, by simp [hh]⟩

/-! ### The events -/

section
variable {s : State} {gid core asid w : Nat} {g : Gang} {l : Launch} {x : Raised} {r : List Raised}

theorem not_stopped_of_faultable {x : GangState} (h : faultable x = true) : x ≠ .stopped := by
  rintro rfl
  exact Bool.false_ne_true h

/-- The state in which the operand-fetch faults of a gang count no more. -/
def withoutFetch (s : State) (gid : Nat) : State :=
  { s with raised := s.raised.filter (fun x => !(decide (x.gang = gid) && decide (x.cause = 0x28))), uid := s.uid + 1 }

section
variable (hg : tget s.gangs gid = some g) (hl : tget s.launches g.launch = some l)
  (hx : sortBy (·.core) (s.raised.filter (fun x => decide (x.gang = gid) && decide (x.cause = 0x28))) = x :: r)
include hg hl hx

/-- What an operand-fetch fault comes to. -/
theorem operandFetchFault_eq : exec (.operandFetchFault gid) s =
    if g.state = .stopped ∨ stopDue s gid then .refused .notEnabled
    else if !faultable g.state then .next (withoutFetch s gid)
    else if !l.record.idem ∨ g.kills = 8 then
      let cores : List Nat := ((s.blocksOfGang gid).map (fun p => p.2.core) ++ (s.warpsOfGang gid).map (fun p => p.2.core)).eraseDups
      let t : State := { withoutFetch s gid with raised := (withoutFetch s gid).raised ++ cores.map (fun c => { x with core := c }) }
      .next (t.modGang gid (fun g => { g with state := .stopped }))
    else
      let rs : List Nat := (s.rafts.filter (fun p => decide (p.2.gang = gid))).map (·.1)
      .next ((quell (withoutFetch s gid) gid).modGang gid (fun g =>
        { g with state := .killing, fault := some (capture s x 3 g.kills x.named (x.named.map (·.1)) [gid]),
                 awaits := s.twins.flatMap (fun t => (t.2.ops.filter (fun o => !rs.contains o.raft)).map (·.k) ++
                   (t.2.line.filter (fun p => !rs.contains p.1)).map (·.2)) })) := by
  have hkill (r : Nat → FaultRec) (l : List Nat) :
      (quell (withoutFetch s gid) gid).modGang gid (fun y => { y with state := .killing, fault := some (r g.kills), awaits := l }) =
      (quell (withoutFetch s gid) gid).modGang gid (fun y => { y with state := .killing, fault := some (r y.kills), awaits := l }) := by
    have hsame : tget (quell (withoutFetch s gid) gid).gangs gid = some g := by
      rw [(quell_faults _ gid).2]
      exact hg
    unfold State.modGang tmod
    rw [hsame]
  rw [exec_operandFetchFault, execOperandFetchFault, hg, hx]
  simp only [hl]
  rw [← hkill (fun n => capture s x 3 n x.named (x.named.map (·.1)) [gid])]
  rfl

end

/-- A gang scrubbed, and its record handed on. -/
theorem gangScrub_next {rec_ : FaultRec} (hg : tget s.gangs gid = some g) (hl : tget s.launches g.launch = some l) (hs : g.state = .killing)
    (hr : g.fault = some rec_) (ha : ∀ t ∈ s.twins, (∀ o ∈ t.2.ops, o.k ∉ g.awaits) ∧ ∀ p ∈ t.2.line, p.2 ∉ g.awaits) :
    let s1 := (s.blocksOfGang gid).foldl (fun s p => scrubB (clearRows s (p.2.core / 2) p.2.accBase l.record.accr) (p.2.core / 2) p.2.bRange) s
    exec (.gangScrub gid) s = .next (resumeTwins (handOn ((clearGang s1 gid).modGang gid (fun g =>
      { g with state := .reported, fault := none, awaits := [], again := (itemsOf s1 gid).foldl (fun m p => tput m p.1 p.2) g.again })) rec_)) := by
  have hgo : ¬ (g.state ≠ .killing ∨
      s.twins.any (fun t => t.2.ops.any (fun o => g.awaits.contains o.k) || t.2.line.any (fun p => g.awaits.contains p.2)) = true) := by
    rintro (hne | hany)
    · exact hne hs
    · obtain ⟨t, ht, hop⟩ := List.any_eq_true.mp hany
      obtain ⟨hops, hline⟩ := ha t ht
      rcases Bool.or_eq_true _ _ ▸ hop with hop | hop
      · obtain ⟨o, ho, hk⟩ := List.any_eq_true.mp hop
        exact hops o ho (List.contains_iff_mem.mp hk)
      · obtain ⟨p, hp, hk⟩ := List.any_eq_true.mp hop
        exact hline p hp (List.contains_iff_mem.mp hk)
  rw [exec_gangScrub, execGangScrub, hg]
  dsimp only
  rw [if_neg hgo, hl, hr]

theorem gangScrub_refused (hg : tget s.gangs gid = some g)
    (ha : ∃ t ∈ s.twins, (∃ o ∈ t.2.ops, o.k ∈ g.awaits) ∨ ∃ p ∈ t.2.line, p.2 ∈ g.awaits) :
    exec (.gangScrub gid) s = .refused .notEnabled := by
  have hwait : s.twins.any (fun t => t.2.ops.any (fun o => g.awaits.contains o.k) || t.2.line.any (fun p => g.awaits.contains p.2)) = true := by
    simpa [List.any_eq_true] using ha
  rw [exec_gangScrub, execGangScrub, hg]
  exact if_pos (.inr hwait)

/-- A core stops where a fault that stops it is raised on it. -/
theorem coreStop_next :
    let mine (x : Raised) : Bool := decide (x.core = core) && stopsCore s x
    let slot (x : Raised) : Nat := match tget s.warps x.warp with | some wp => wp.slot | none => 0
    let stops (p : Nat × Gang) : Bool :=
      (faultable p.2.state || decide (p.2.state = .stopped) || decide (p.2.state = .halted) || decide (p.2.state = .killing)) &&
      (decide (p.1 = x.gang) || (s.warpsOfGang p.1).any (fun q => decide (q.2.core = core)))
    let gs := (s.gangs.filter stops).map (·.1)
    let ws := (gs.flatMap (fun g => (s.warpsOfGang g).filter (fun q => decide (q.2.core = core)))).map (·.1)
    let s0 : State := { s with uid := s.uid + 1, raised := s.raised.filter (fun y => !decide (y.core = core)) }
    let s1 := gs.foldl (fun s g => (quell s g).modGang g (fun g => { g with state := .halted, fault := none, awaits := [] })) s0
    sortBy slot (s.raised.filter mine) = x :: r →
      exec (.coreStop core) s = .next (resumeTwins (handOn (s1.modCore core (fun k => { k with stopped := true }))
        (capture s x 1 0 ((s.raised.filter mine).map (fun y => (y.warp, y.pc))) ws gs))) := by
  intro mine slot stops gs ws s0 s1 hx
  rw [exec_coreStop, execCoreStop]
  dsimp only
  split
  · next h => exact absurd (hx.symm.trans h) (List.cons_ne_nil x r)
  · next y ys h =>
    obtain ⟨rfl, rfl⟩ := List.cons.inj (hx.symm.trans h)
    rfl

theorem sortBy_nil {α : Type} (f : α → Nat) : sortBy f [] = [] := rfl

theorem coreStop_refused (h : ∀ x ∈ s.raised, x.core ≠ core) : exec (.coreStop core) s = .refused .notEnabled := by
  have hnone : s.raised.filter (fun x => decide (x.core = core) && stopsCore s x) = [] :=
    List.filter_eq_nil_iff.mpr fun x hx => by simp [h x hx]
  rw [exec_coreStop, execCoreStop]
  dsimp only
  rw [hnone, sortBy_nil]

/-- What a host-served fault comes to. -/
theorem hostServedFault_eq :
    let slot (x : Raised) : Nat := match tget s.warps x.warp with | some wp => 64 * x.core + wp.slot | none => 0
    let mine (x : Raised) : Bool := decide (x.gang = gid) && isServed x.cause
    let s0 : State := { s with raised := s.raised.filter (fun y => !mine y), uid := s.uid + 1 }
    tget s.gangs gid = some g → sortBy slot (s.raised.filter mine) = x :: r →
      exec (.hostServedFault gid) s =
        if stopDue s gid || s.raised.any (fun y => decide (y.gang = gid) && decide (y.cause = 0x28)) then .refused .notEnabled
        else if !faultable g.state then .next s0
        else .next (((x :: r).foldl (fun s y => s.modSplit y.warp y.ent (fun sp => { sp with susp := false })) s0).modGang gid
          (fun h => { h with state := .stopping, fault := some (capture s x 2 g.kills ((x :: r).map (fun y => (y.warp, y.pc))) ((x :: r).map (·.warp)) [gid]) })) := by
  intro slot mine s0 hg hx
  rw [exec_hostServedFault, execHostServedFault, hg]
  dsimp only
  split
  · next y ys hg' h =>
    cases hg'
    obtain ⟨rfl, rfl⟩ := List.cons.inj (hx.symm.trans h)
    rfl
  · next h => exact absurd hx (h g x r rfl)

/-! ### Fault records and the watchdog -/

variable {x0 : Context} {k : Nat}

theorem faultRecordPost_next {rec_ : FaultRec} {rest : List FaultRec} (hx : tget s.ctxs asid = some x0) (hw : x0.waiting = rec_ :: rest) (hk : k < 8)
    (hfree : tget x0.slots k = none) (hlow : ∀ j, j < k → (tget x0.slots j).isSome = true) :
    let a := x0.poolBase + 32768 * k
    let s1 := s.modCtx asid (fun x => { x with waiting := rest, slots := tput x.slots k rec_, seq := x.seq + 1 })
    let s2 := homeWrite (homeWrite s1 (.hbm a) (faultBytes rec_ (x0.seq + 1).toNat 0)) (.hbm (a + 0x3C)) (toBytes 4 1)
    exec (.faultRecordPost asid) s = .next (postEvent s2 7 asid (toBytes 8 a ++ toBytes 4 rec_.cause ++ toBytes 4 rec_.core)) := by
  intro a s1 s2
  have hfind : (upto 8).find? (fun k => (tget x0.slots k).isNone) = some k := by
    refine List.find?_range_eq_some.mpr ⟨by rw [hfree]; rfl, List.mem_range.mpr hk, fun j hj => ?_⟩
    have := hlow j hj
    simpa [Option.isSome_iff_ne_none] using this
  have hmod : s.modCtx asid (fun x => { x with waiting := rest, slots := tput x.slots k rec_, seq := x0.seq + 1 }) = s1 := by
    unfold s1 State.modCtx tmod
    rw [hx]
  have hpost : postRecord s asid = some (postEvent s2 7 asid (toBytes 8 a ++ toBytes 4 rec_.cause ++ toBytes 4 rec_.core)) := by
    unfold postRecord
    rw [hx]
    dsimp only
    rw [hw, hfind]
    dsimp only
    rw [hmod]
    rfl
  rw [exec_faultRecordPost, execFaultRecordPost, hpost]

theorem faultRecordPost_refused (hx : tget s.ctxs asid = some x0)
    (hn : x0.waiting = [] ∨ ∀ k, k < 8 → (tget x0.slots k).isSome = true) : exec (.faultRecordPost asid) s = .refused .notEnabled := by
  have hpost : postRecord s asid = none := by
    unfold postRecord
    rw [hx]
    dsimp only
    rcases hn with hw | hfull
    · rw [hw]
    · have hfind : (upto 8).find? (fun k => (tget x0.slots k).isNone) = none := by
        refine List.find?_eq_none.mpr fun k hk => ?_
        have := hfull k (List.mem_range.mp hk)
        simpa [Option.isSome_iff_ne_none] using this
      rw [hfind]
      cases x0.waiting <;> rfl
  rw [exec_faultRecordPost, execFaultRecordPost, hpost]

variable {wp : Warp} {b : Block}

theorem watchdogExpiry_raises {sp : Split} (hw : tget s.warps w = some wp) (hb : tget s.blocks wp.blk = some b) (hlim : 3000000 ≤ wp.wdog)
    (hc : wdogCounts s wp = true)
    (hsp : wp.splits.find? (fun sp => decide (64 < sp.ent)) = some sp ∨
      (wp.splits.find? (fun sp => decide (64 < sp.ent)) = none ∧ wp.splits.head? = some sp)) :
    let t : State := s.modWarp w (fun wp => { wp with wdog := 0 })
    let x : Raised := ⟨w, sp.ent, wp.core, b.gang, 0x41, 0x41, sp.mask, sp.pc, 0, 0, []⟩
    exec (.watchdogExpiry w) s = .next { t with raised := t.raised ++ [x] } := by
  have hgo : ¬ (wp.wdog < watchdogLimit ∨ (!wdogCounts s wp) = true) := by
    rw [hc]
    rintro (hlt | hf)
    · exact Nat.not_le.mpr hlt hlim
    · exact Bool.false_ne_true hf
  rw [exec_watchdogExpiry, execWatchdogExpiry, hw]
  dsimp only
  rw [hb]
  dsimp only
  rw [if_neg hgo]
  rcases hsp with hsp | ⟨hnone, hhead⟩
  · rw [hsp]
  · rw [hnone, hhead]

theorem watchdogExpiry_refused (hw : tget s.warps w = some wp) (hb : tget s.blocks wp.blk = some b)
    (hn : wp.wdog < 3000000 ∨ wdogCounts s wp = false) : exec (.watchdogExpiry w) s = .refused .notEnabled := by
  rw [exec_watchdogExpiry, execWatchdogExpiry, hw]
  dsimp only
  rw [hb]
  exact if_pos (hn.imp_right (congrArg not))

end

end Sys2Proof.Machine

namespace Sys2Proof.Claims
open Sys2Proof Sys2Proof.Machine

/-- Settles O51: each event by its tests, and the bytes that they write. -/
theorem faultEvents : Obligations.FaultEvents := by
  unfold Obligations.FaultEvents
  refine ⟨fun s gid g l x r hg hl hx => ⟨fun hd => ?due, fun hd hs hf => ?late, fun hd hf hi hk => ?kill, fun hd hf hik => ?stop⟩,
    fun s gid g l r hg hl hs hr => ⟨gangScrub_next hg hl hs hr, gangScrub_refused hg⟩,
    fun s gid a ha => ⟨(writesCounts_quell s gid).2 a ha, (writesCounts_clearGang s gid).2 a ha⟩,
    fun s core x r => coreStop_next, hard_mem_quell, fun s core h => coreStop_refused h,
    fun s gid g x xs hg hx => ⟨fun hd => ?graver, fun hd hf => ?ended, fun hd hf => ?served⟩,
    fun s asid k x r rest hx hw hk hfree hlow => faultRecordPost_next hx hw hk hfree hlow,
    fun s asid x hx hn => faultRecordPost_refused hx hn,
    fun s w wp b hw hb => ⟨fun hlim hc sp hsp => watchdogExpiry_raises hw hb hlim hc hsp, watchdogExpiry_refused hw hb⟩⟩
  case due => exact (operandFetchFault_eq hg hl hx).trans (if_pos (.inr hd))
  case late =>
    have hgo : ¬ (g.state = .stopped ∨ stopDue s gid = true) := fun h => h.elim hs (Bool.eq_false_iff.mp hd)
    exact (operandFetchFault_eq hg hl hx).trans ((if_neg hgo).trans (if_pos (congrArg not hf)))
  case kill =>
    have hgo : ¬ (g.state = .stopped ∨ stopDue s gid = true) := fun h => h.elim (not_stopped_of_faultable hf) (Bool.eq_false_iff.mp hd)
    have hidem : ¬ ((!l.record.idem) = true ∨ g.kills = 8) := by
      rw [hi]
      exact fun h => h.elim Bool.false_ne_true hk
    exact (operandFetchFault_eq hg hl hx).trans ((if_neg hgo).trans ((if_neg (by rw [hf]; exact Bool.false_ne_true)).trans (if_neg hidem)))
  case stop =>
    have hgo : ¬ (g.state = .stopped ∨ stopDue s gid = true) := fun h => h.elim (not_stopped_of_faultable hf) (Bool.eq_false_iff.mp hd)
    exact (operandFetchFault_eq hg hl hx).trans ((if_neg hgo).trans ((if_neg (by rw [hf]; exact Bool.false_ne_true)).trans
      (if_pos (hik.imp_left (congrArg not)))))
  case graver => exact (hostServedFault_eq hg hx).trans (if_pos hd)
  case ended => exact (hostServedFault_eq hg hx).trans ((if_neg (Bool.eq_false_iff.mp hd)).trans (if_pos (congrArg not hf)))
  case served =>
    exact (hostServedFault_eq hg hx).trans ((if_neg (Bool.eq_false_iff.mp hd)).trans (if_neg (by rw [hf]; exact Bool.false_ne_true)))

end Sys2Proof.Claims
end


section
/-! SUPPORT. Placing, saving and moving (R273, R294 to R304, R435, R445 to R460, R511). -/
namespace Sys2Proof.Machine
open Sys2Proof Sys2Proof.Claims

/-! ### Choosing a queue (R446 to R450) -/

theorem dispatchDecision_next (s : State) (h : ∃ c, c < 5 ∧ readyQueues s c ≠ [])
    (hr : s.queues.any (fun p => (reserved s p.1).isSome) = false) :
    let ready (c : Nat) : Bool := !(readyQueues s c).isEmpty
    let classes := [0, 1, 2, 3, 4]
    let first := (classes.filter (fun c => ready c && decide (4096 ≤ s.flioc.since.getD c 0))).take 1
    let r := tryClasses (first ++ classes.filter (fun c => !first.contains c)) s
    exec .dispatchDecision s = .next { r.1 with flioc := { r.1.flioc with
      since := classes.map (fun c => if r.2 = some c ∨ ready c = false then 0 else s.flioc.since.getD c 0 + 1) } }.bump := by
  have hany : (upto 5).any (fun c => !(readyQueues s c).isEmpty) = true := by
    obtain ⟨c, hc, hne⟩ := h
    exact List.any_eq_true.mpr ⟨c, List.mem_range.mpr hc, by simpa using hne⟩
  have hgo : ¬ ((!(upto 5).any (fun c => !(readyQueues s c).isEmpty)) = true ∨ s.queues.any (fun p => (reserved s p.1).isSome) = true) := by
    simp [hany, hr]
  rw [exec_dispatchDecision, execDispatchDecision]
  dsimp only
  rw [if_neg (by simpa using hgo)]
  simp only [Bool.not_eq_true']
  rfl

theorem dispatchDecision_none (s : State) (h : ∀ c, c < 5 → readyQueues s c = []) : exec .dispatchDecision s = .refused .notEnabled := by
  have hany : (upto 5).any (fun c => !(readyQueues s c).isEmpty) = false :=
    List.any_eq_false.mpr (fun c hc => by simp [h c (List.mem_range.mp hc)])
  rw [exec_dispatchDecision, execDispatchDecision]
  dsimp only
  rw [if_pos (by simp [hany])]

theorem dispatchDecision_reserved (s : State) (h : s.queues.any (fun p => (reserved s p.1).isSome) = true) :
    exec .dispatchDecision s = .refused .notEnabled := by
  rw [exec_dispatchDecision, execDispatchDecision]
  dsimp only
  rw [if_pos (by simp only [h, Bool.or_true])]

theorem queue_modQueue {s : State} (hs : tsorted s.queues = true) (q : Nat) (f : Queue → Queue) : (s.modQueue q f).queue q = f (s.queue q) :=
  tgetD_tputD_self hs q _ _

theorem getD_setAt {α : Type} (l : List α) {i : Nat} (f : α → α) (d : α) (h : i < l.length) : (setAt l i f).getD i d = f (l.getD i d) := by
  induction l generalizing i with
  | nil => simp at h
  | cons x l ih =>
    cases i with
    | zero => rfl
    | succ i => simpa [setAt] using ih (Nat.lt_of_succ_lt_succ h)

theorem length_setAt {α : Type} (l : List α) (i : Nat) (f : α → α) : (setAt l i f).length = l.length := by
  induction l generalizing i with
  | nil => rfl
  | cons x l ih =>
    cases i with
    | zero => rfl
    | succ i => exact congrArg (· + 1) (ih i)

/-- The queue that is served as `charge` leaves it. -/
theorem queue_charge {s : State} (hs : tsorted s.queues = true) (q : Nat) :
    (charge s q).queue q = { s.queue q with pass := (s.queue q).pass + stride (s.queue q).tkt, wt := 0, wasReady := queueReady s q } :=
  queue_modQueue (s := keepTime s (s.queue q).cls) hs q
    (fun x => { x with pass := x.pass + stride x.tkt, wt := 0, wasReady := queueReady s q })

/-- Without a ready queue a class's time is what it has reached or the PASS kept of the queue served last. -/
theorem classTime_of_none {s : State} {cls : Nat} (h : ∀ p ∈ s.queues, p.2.cls = cls → p.2.wasReady = false) :
    classTime s cls = max (s.flioc.vtime.getD cls 0) (s.flioc.last.getD cls 0) := by
  have hnil : s.queues.filter (fun p => decide (p.2.cls = cls) && p.2.wasReady) = [] :=
    List.filter_eq_nil_iff.mpr (fun p hp hq => by
      obtain ⟨hc, hw⟩ := Bool.and_eq_true_iff.mp hq
      rw [h p hp (of_decide_eq_true hc)] at hw
      cases hw)
  unfold classTime
  rw [hnil]
  rfl

theorem classTime_charge {s : State} {q : Nat} (hv : (s.queue q).cls < s.flioc.vtime.length) (hl : (s.queue q).cls < s.flioc.last.length)
    (h : ∀ p ∈ (charge s q).queues, p.2.cls = (s.queue q).cls → p.2.wasReady = false) :
    classTime (charge s q) (s.queue q).cls = max (classTime s (s.queue q).cls) (s.queue q).pass := by
  rw [classTime_of_none h]
  change max ((setAt s.flioc.vtime (s.queue q).cls (fun _ => classTime s (s.queue q).cls)).getD (s.queue q).cls 0)
    ((setAt s.flioc.last (s.queue q).cls (fun _ => (s.queue q).pass)).getD (s.queue q).cls 0) = _
  rw [getD_setAt _ _ _ hv, getD_setAt _ _ _ hl]

/-! ### Reservations (R454) -/

theorem clusterReservation_of_reserved {s t : State} {q : Nat} (h : reserved s q = some t) : exec (.clusterReservation q) s = .next t.bump := by
  rw [exec_clusterReservation, execClusterReservation, h]

theorem clusterReservation_of_none {s : State} {q : Nat} (h : reserved s q = none) : exec (.clusterReservation q) s = .refused .notEnabled := by
  rw [exec_clusterReservation, execClusterReservation, h]

theorem victims_prefix (s : State) (q : Nat) (whole : Bool) (within : Nat → Bool) (l : List Nat) :
    let s1 := without s ((s.gangs.filter (fun p => decide (p.2.state = .stopping))).map (·.1))
    victims s q whole within l <+: l ∧
    (victims s q whole within l = l ∨ headPlaces (without s1 (victims s q whole within l)) q whole within = true) ∧
    ∀ n, n < (victims s q whole within l).length → headPlaces (without s1 (l.take n)) q whole within = false := by
  intro s1
  have hv : victims s q whole within l =
      match (upto (l.length + 1)).find? (fun n => headPlaces (without s1 (l.take n)) q whole within) with | some n => l.take n | none => l := rfl
  cases hf : (upto (l.length + 1)).find? (fun n => headPlaces (without s1 (l.take n)) q whole within) with
  | none =>
    rw [hf] at hv
    dsimp only at hv
    rw [hv]
    refine ⟨List.prefix_refl l, .inl rfl, fun n hn => ?_⟩
    simpa using List.find?_eq_none.mp hf n (List.mem_range.mpr (by omega))
  | some n =>
    rw [hf] at hv
    dsimp only at hv
    rw [hv]
    have hfit : headPlaces (without s1 (l.take n)) q whole within = true := (List.find?_eq_some_iff_append.mp hf).1
    refine ⟨List.take_prefix n l, .inr hfit, fun m hm => ?_⟩
    have hmn : m < n := by rw [List.length_take] at hm; omega
    have hn : n < l.length + 1 := List.mem_range.mp (List.mem_of_find?_eq_some hf)
    by_contra hc
    obtain ⟨_, as, bs, hsplit, hbefore⟩ := List.find?_eq_some_iff_append.mp hf
    have hlt : m ∈ as := by
      have hpw : (List.range (l.length + 1)).Pairwise (· < ·) := List.pairwise_lt_range
      have hmem : m ∈ List.range (l.length + 1) := List.mem_range.mpr (by omega)
      rw [show upto (l.length + 1) = List.range (l.length + 1) from rfl] at hsplit
      rw [hsplit] at hpw hmem
      rcases List.mem_append.mp hmem with h | h
      · exact h
      · rcases List.mem_cons.mp h with h | h
        · omega
        · exact absurd ((List.pairwise_cons.mp (List.pairwise_append.mp hpw).2.1).1 m h) (by omega)
    exact hc (by simpa using hbefore m hlt)

section
variable {s : State} {q : Nat} {l : Launch}

/-- What a reservation pre-empts for a queue's head on some clusters. -/
def preempted (s0 : State) (q : Nat) (whole : Bool) (within : Nat → Bool) (s : State) : State :=
  (victims s q whole within (lowerGangs s0 (s0.queue q).cls within)).foldl preempt s

/-- A reservation that stands goes on where something is left to pre-empt. -/
def preemptMore (s : State) (q : Nat) (whole : Bool) (within : Nat → Bool) : Option State :=
  if victims s q whole within (lowerGangs s (s.queue q).cls within) = [] then none else some (preempted s q whole within s)

/-- The clusters that an empty device would let a queue's head reserve. -/
def freeClusters (s : State) (q : Nat) : List Nat :=
  (upto 128).filter (fun c => (tget s.flioc.reserve c).isNone &&
    headFits { emptied s with gangs := s.gangs.map (fun p => (p.1, { p.2 with state := .saved })) } q true (fun d => decide (d = c)))

theorem reserved_whole (h : headLaunch s q = some l) (hw : s.flioc.whole = some q) :
    reserved s q = preemptMore s q l.record.res (fun _ => true) := by
  unfold reserved
  rw [h]
  exact if_pos hw

theorem reserved_cluster (h : headLaunch s q = some l) (hw : s.flioc.whole ≠ some q) {c : Nat}
    (hr : s.flioc.reserve.find? (fun p => decide (p.2 = q)) = some (c, q)) :
    reserved s q = preemptMore s q false (fun d => decide (d = c)) := by
  unfold reserved
  rw [h]
  refine (if_neg hw).trans ?_
  rw [hr]
  rfl

theorem reserved_new (h : headLaunch s q = some l) (hw : s.flioc.whole ≠ some q) (hr : ∀ p ∈ s.flioc.reserve, p.2 ≠ q) :
    reserved s q =
      if (s.queue q).wt < 64 ∨ s.flioc.whole.isSome then none
      else if l.record.res then
        if s.flioc.reserve = [] then some (preempted s q true (fun _ => true) { s with flioc := { s.flioc with whole := some q } }) else none
      else ((freeClusters s q)[Config.freePick s.free 12 % (freeClusters s q).length]?).map (fun c =>
        preempted s q false (fun d => decide (d = c)) { s with flioc := { s.flioc with reserve := tput s.flioc.reserve c q } }) := by
  unfold reserved
  rw [h]
  refine (if_neg hw).trans ?_
  rw [List.find?_eq_none.mpr (fun p hp => by simpa using hr p hp)]
  rfl

theorem clusterReservation_more {whole : Bool} {within : Nat → Bool} (h : reserved s q = preemptMore s q whole within) :
    (victims s q whole within (lowerGangs s (s.queue q).cls within) = [] → exec (.clusterReservation q) s = .refused .notEnabled) ∧
    (victims s q whole within (lowerGangs s (s.queue q).cls within) ≠ [] →
      exec (.clusterReservation q) s = .next (preempted s q whole within s).bump) :=
  ⟨fun hv => clusterReservation_of_none (h.trans (if_pos hv)), fun hv => clusterReservation_of_reserved (h.trans (if_neg hv))⟩

theorem clusterReservation_new (h : headLaunch s q = some l) (hw : s.flioc.whole ≠ some q) (hr : ∀ p ∈ s.flioc.reserve, p.2 ≠ q) :
    ((s.queue q).wt < 64 ∨ s.flioc.whole ≠ none → exec (.clusterReservation q) s = .refused .notEnabled) ∧
    (64 ≤ (s.queue q).wt → s.flioc.whole = none →
      (l.record.res = true → s.flioc.reserve = [] → exec (.clusterReservation q) s =
        .next (preempted s q true (fun _ => true) { s with flioc := { s.flioc with whole := some q } }).bump) ∧
      (l.record.res = true → s.flioc.reserve ≠ [] → exec (.clusterReservation q) s = .refused .notEnabled) ∧
      (l.record.res = false → freeClusters s q ≠ [] → ∃ c ∈ freeClusters s q, exec (.clusterReservation q) s =
        .next (preempted s q false (fun d => decide (d = c)) { s with flioc := { s.flioc with reserve := tput s.flioc.reserve c q } }).bump) ∧
      (l.record.res = false → freeClusters s q = [] → exec (.clusterReservation q) s = .refused .notEnabled)) := by
  have heq := reserved_new h hw hr
  refine ⟨fun hn => clusterReservation_of_none (heq.trans (if_pos ?_)), fun hwt hnone => ?_⟩
  · rwa [Option.isSome_iff_ne_none]
  · rw [if_neg (by simp [hnone]; omega)] at heq
    refine ⟨fun hres he => ?_, fun hres he => ?_, fun hres he => ?_, fun hres he => ?_⟩
    · exact clusterReservation_of_reserved (heq.trans ((if_pos hres).trans (if_pos he)))
    · exact clusterReservation_of_none (heq.trans ((if_pos hres).trans (if_neg he)))
    · rw [if_neg (by simp [hres])] at heq
      have hlt : Config.freePick s.free 12 % (freeClusters s q).length < (freeClusters s q).length :=
        Nat.mod_lt _ (List.length_pos_of_ne_nil he)
      rw [List.getElem?_eq_getElem hlt] at heq
      exact ⟨_, List.getElem_mem hlt, clusterReservation_of_reserved heq⟩
    · rw [if_neg (by simp [hres]), he] at heq
      exact clusterReservation_of_none heq

end

/-! ### Entries of launch queues (R446) and launch groups (R511) -/

/-- An entry whose launch is known: ready, or stored while tasks precede it. -/
def enterLaunch (v : DWord) (s : State) (lid : Nat) (l : Launch) : Out :=
  if (countAt s l.asid (v.toNat + 0x7C)).getD l.record.dcnt = 0 then .next (releaseLaunch s lid false)
  else .next (s.modLaunch lid (fun l => { l with state := .stored }))

/-- The posted launch of a record's address, if the queue has one. -/
def postedAt (s : State) (q : Nat) (v : DWord) : Option (Nat × Launch) :=
  s.launches.find? (fun p => decide (p.2.queue = q) && decide (p.2.addr = v.toNat) && decide (p.2.state = .posted))

section
variable {s : State} {q : Nat} {v : DWord}

theorem queueEntryTaken_eq (hb : (s.queue q).bound = true) (hi : (s.queue q).item = false) (hf : (s.queue q).fill ≠ 0)
    (hl : ∀ p ∈ s.launches, p.2.queue = q → p.2.state ≠ .ready ∧ p.2.state ≠ .asked) (hv : ringRead s q (s.queue q).head = .ok v) :
    let s1 := s.modQueue q (fun q => { q with head := q.head + 1 })
    exec (.queueEntryTaken q) s =
      match postedAt s1 q v with
      | some (lid, l) => enterLaunch v s1 lid l
      | none =>
        match recordBytes s1 (s.queue q).asid v.toNat with
        | none => .next s1
        | some bs =>
          if (parseRecord bs).queue ≠ q ∨
              ((parseRecord bs).wld ∧ !(match tget s1.ctxs (s.queue q).asid with | some x => x.world | none => false)) then .next s1
          else
            match acceptRecord s1 (s.queue q).asid q v.toNat bs with
            | none => .next s1
            | some l => enterLaunch v (addLaunch s1 l) s1.uid l := by
  intro s1
  have hany : s.launches.any (fun p => decide (p.2.queue = q) && (decide (p.2.state = .ready) || decide (p.2.state = .asked))) = false :=
    List.any_eq_false.mpr (fun p hp hc => by
      simp only [Bool.and_eq_true, Bool.or_eq_true, decide_eq_true_eq] at hc
      obtain ⟨hr, ha⟩ := hl p hp hc.1
      exact hc.2.elim hr ha)
  have hgo : ¬ ((!(s.queue q).bound) = true ∨ (s.queue q).item = true ∨ (s.queue q).fill = 0 ∨
      s.launches.any (fun p => decide (p.2.queue = q) && (decide (p.2.state = .ready) || decide (p.2.state = .asked))) = true) := by
    simp [hb, hi, hf, hany]
  rw [exec_queueEntryTaken, execQueueEntryTaken]
  refine (if_neg hgo).trans ?_
  dsimp only
  rw [hv] <;> rfl

theorem queueEntryTaken_known (hb : (s.queue q).bound = true) (hi : (s.queue q).item = false) (hf : (s.queue q).fill ≠ 0)
    (hl : ∀ p ∈ s.launches, p.2.queue = q → p.2.state ≠ .ready ∧ p.2.state ≠ .asked) (hv : ringRead s q (s.queue q).head = .ok v)
    {lid : Nat} {l : Launch} (hk : postedAt (s.modQueue q (fun q => { q with head := q.head + 1 })) q v = some (lid, l)) :
    exec (.queueEntryTaken q) s = enterLaunch v (s.modQueue q (fun q => { q with head := q.head + 1 })) lid l := by
  rw [queueEntryTaken_eq hb hi hf hl hv, hk]

theorem queueEntryTaken_new (hb : (s.queue q).bound = true) (hi : (s.queue q).item = false) (hf : (s.queue q).fill ≠ 0)
    (hl : ∀ p ∈ s.launches, p.2.queue = q → p.2.state ≠ .ready ∧ p.2.state ≠ .asked) (hv : ringRead s q (s.queue q).head = .ok v)
    (hk : postedAt (s.modQueue q (fun q => { q with head := q.head + 1 })) q v = none) :
    let s1 := s.modQueue q (fun q => { q with head := q.head + 1 })
    (recordBytes s1 (s.queue q).asid v.toNat = none → exec (.queueEntryTaken q) s = .next s1) ∧
    (∀ bs, recordBytes s1 (s.queue q).asid v.toNat = some bs →
      let own : Prop := (parseRecord bs).queue = q ∧ ((parseRecord bs).wld = true → ∃ x, tget s.ctxs (s.queue q).asid = some x ∧ x.world = true)
      (¬ own → exec (.queueEntryTaken q) s = .next s1) ∧
      (own → acceptRecord s1 (s.queue q).asid q v.toNat bs = none → exec (.queueEntryTaken q) s = .next s1) ∧
      (∀ l, own → acceptRecord s1 (s.queue q).asid q v.toNat bs = some l →
        exec (.queueEntryTaken q) s = enterLaunch v (addLaunch s1 l) s1.uid l)) := by
  intro s1
  have heq := queueEntryTaken_eq hb hi hf hl hv
  dsimp only at heq
  rw [hk] at heq
  refine ⟨fun hr => heq.trans ?_, fun bs hr => ?_⟩
  · rw [hr]
  · rw [hr] at heq
    dsimp only at heq
    intro own
    have hown : own ↔ ¬ ((parseRecord bs).queue ≠ q ∨
        ((parseRecord bs).wld ∧ !(match tget s1.ctxs (s.queue q).asid with | some x => x.world | none => false))) := by
      show ((parseRecord bs).queue = q ∧ ((parseRecord bs).wld = true → ∃ x, tget s.ctxs (s.queue q).asid = some x ∧ x.world = true)) ↔ _
      rw [show s1.ctxs = s.ctxs from rfl]
      cases tget s.ctxs (s.queue q).asid <;> simp
    refine ⟨fun hn => heq.trans (if_pos ?_), fun ho ha => (heq.trans (if_neg (hown.mp ho))).trans ?_,
      fun l ho ha => (heq.trans (if_neg (hown.mp ho))).trans ?_⟩
    · by_contra hc
      exact hn (hown.mpr hc)
    · rw [ha]
    · rw [ha]

end

theorem launchPacketAnswer_of_asked {s : State} {lid : Nat} {l : Launch} (h : tget s.launches lid = some l) (ha : l.state = .asked) :
    exec (.launchPacketAnswer lid true) s = .next (noteReady (s.modLaunch lid (fun l => { l with state := .ready })) l.queue) ∧
    exec (.launchPacketAnswer lid false) s = .next { s with launches := tdel s.launches lid } := by
  constructor <;> rw [exec_launchPacketAnswer, execLaunchPacketAnswer, h] <;> dsimp only <;> rw [if_neg (not_not.mpr ha)] <;> rfl

theorem launchPacket_stale {s : State} {k q : Nat} {gen : Word} {bs : List Byte} {g : Group} (h : tget s.groups k = some g)
    (hg : gen.toNat ≠ g.gen) :
    exec (.launchPacket k gen q bs) s = .next (postEvent s 2 0 (toBytes 4 k ++ toBytes 4 gen.toNat ++ toBytes 4 g.gen)) := by
  rw [exec_launchPacket, execLaunchPacket, h]
  exact if_pos hg

theorem launchPacket_taken {s : State} {k q : Nat} {gen : Word} {bs : List Byte} {g : Group} {x : Context} {fl : List (Nat × Nat × Nat)}
    (h : tget s.groups k = some g) (hg : gen.toNat = g.gen) (hx : tget s.ctxs (s.queue q).asid = some x)
    (hf : readFlumes s (s.queue q).asid (parseRecord bs) = some fl) :
    let r := parseRecord bs
    let l : Launch := { addr := 0, asid := (s.queue q).asid, record := { r with dcnt := 0 }, flumes := fl, queue := q, state := .asked, nextGang := 0,
                        gangsEnded := 0, order := 2 ^ 64 + s.uid, batch := none, group := some k, aborted := false, homes := [],
                        ran := [], code := [] }
    let taken : Prop := (s.queue q).bound = true ∧ (s.queue q).item = false ∧ (s.queue q).group = k ∧ fieldsOk r = true ∧ isFabric r = true ∧
      r.cls = (s.queue q).cls ∧ (r.wld = true → x.world = true) ∧ fitsEmpty s l x.world = true
    (taken → exec (.launchPacket k gen q bs) s = .next (addLaunch s l)) ∧ (¬ taken → exec (.launchPacket k gen q bs) s = .next s) := by
  intro r l taken
  have heq : exec (.launchPacket k gen q bs) s =
      if ((s.queue q).bound && !(s.queue q).item && decide ((s.queue q).group = k) && fieldsOk r && isFabric r && decide (r.cls = (s.queue q).cls) &&
        (!r.wld || x.world) && fitsEmpty s l x.world) = true then .next (addLaunch s l) else .next s := by
    rw [exec_launchPacket, execLaunchPacket, h]
    refine (if_neg (not_not.mpr hg)).trans ?_
    dsimp only
    rw [hx, hf]
  have hiff : taken ↔ ((s.queue q).bound && !(s.queue q).item && decide ((s.queue q).group = k) && fieldsOk r && isFabric r &&
      decide (r.cls = (s.queue q).cls) && (!r.wld || x.world) && fitsEmpty s l x.world) = true := by
    simp only [taken, Bool.and_eq_true, Bool.or_eq_true, Bool.not_eq_true', decide_eq_true_eq]
    cases r.wld <;> simp [and_assoc]
  exact ⟨fun ht => heq.trans (if_pos (hiff.mp ht)), fun ht => heq.trans (if_neg (fun hc => ht (hiff.mpr hc)))⟩

/-! ### Saving (R459) -/

theorem gangSave_stopping {s : State} {gid : Nat} {g : Gang} {l : Launch} (hg : tget s.gangs gid = some g) (hl : tget s.launches g.launch = some l)
    (hst : g.state = .stopping) :
    let s0 := abandonNinth s gid
    let ws := s0.warpsOfGang gid
    let cores := ((s0.blocksOfGang gid).map (fun p => p.2.core) ++ ws.map (fun p => p.2.core)).eraseDups
    let s1 := cores.foldl writeBackAll (ws.foldl (fun s p => (s.landAll p.1).modWarp p.1 (fun wp =>
      { wp with wdog := 0, splits := wp.splits.map (fun sp => { sp with got := [] }) })) s0)
    let s2 := saveRafts ((s1.blocksOfGang gid).foldl (saveBlock l.record.accr) s1) gid
    let s3 := cores.foldl (fun s c => s.modCore c (fun k =>
      { k with latch := k.latch.map (fun p => (p.1, p.2.filter (fun x => !(ws.map (·.1)).contains x.warp))) })) s2
    let free (s : State) : State := resumeTwins (cores.foldl (fun s c => restCore s c gid) s)
    (gangQuiet s gid = false → exec (.gangSave gid) s = .refused .notEnabled) ∧
    (gangQuiet s gid = true → g.fault = none →
      let s4 := s3.modGang gid (fun g => { g with state := .saved, restore := true })
      exec (.gangSave gid) s = .next (noteReady (free { s4 with flioc := { s4.flioc with resumes := s4.flioc.resumes ++ [gid] } }) l.queue).bump) ∧
    (∀ r, gangQuiet s gid = true → g.fault = some r →
      exec (.gangSave gid) s =
        .next (free (handOn (s3.modGang gid (fun g => { g with state := .served, restore := true, fault := none })) r)).bump) := by
  intro s0 ws cores s1 s2 s3 free
  rw [exec_gangSave, execGangSave, hg]
  dsimp only
  rw [hl]
  refine ⟨fun hq => if_pos (.inr (by simp [hq])), fun hq hf => (if_neg (by simp [hst, hq])).trans ?_,
    fun r hq hf => (if_neg (by simp [hst, hq])).trans ?_⟩
  · rw [hf]
  · rw [hf]

/-! ### Moving (R273, R435, R436) -/

theorem primeCore_warps (s : State) (core lid : Nat) : (primeCore s core lid).warps = s.warps := by
  unfold primeCore
  rw [(memStep_invalidateAll _ core).warps]
  unfold firstOn
  split
  · rfl
  · split <;> rfl

theorem foldl_setReg_warps (l : List (Nat × Word)) (s : State) : (l.foldl (fun s p => s.setReg p.1 p.2) s).warps = s.warps :=
  foldl_setReg_field (fun s => s.warps) (fun _ _ _ => rfl) l s

theorem moveRegs_warps (s : State) (w : Nat) (pairs : List (Nat × Nat)) : (moveRegs s w pairs).warps = s.warps := by
  unfold moveRegs
  exact foldl_setReg_warps _ _

theorem migrate_moves {s : State} {w : Nat} {wp : Warp} {x : Landing} {b : Block} {g : Gang} {r : Record} (hw : tget s.warps w = some wp)
    (hx : wp.landing = some x) (hb : tget s.blocks wp.blk = some b) (hg : tget s.gangs b.gang = some g) (hr : recordOf s b = some r)
    (hst : g.state = .running ∨ g.state = .stopping) (hset : wp.settled = true) (hc : s.hasCmds w = false) :
    ∃ t wq, exec (.migrate w) s = .next t ∧ tget t.warps w = some wq ∧ wq.core = x.core ∧ wq.slot = x.slot ∧
      wq.migr = 0 ∧ wq.landing = none ∧ wq.alloc = allocOf r (isRiffle x.core) ∧ (∀ sp ∈ wq.splits, sp.ent = 0 ∧ sp.pc = x.pc ∧ sp.wait = none) ∧
      wq.panch = wp.panch ∧ wq.blk = wp.blk := by
  obtain ⟨role, tpc, hland⟩ := landSides_warp (fun _ => true) hw
  have hwarps (n : Nat) (f : Core → Core) :
      tget ((moveRegs (primeCore (writeBackAll (s.landAll w) wp.core) x.core g.launch) w x.pairs).modCore n f).warps w = some
        { wp with role := role, tpc := tpc, splits := wp.splits.map (Split.landed fun _ => true),
                  parked := wp.parked.map (fun p => (p.1, p.2.landed fun _ => true)), starved := wp.starved.map (Split.landed fun _ => true) } := by
    rw [State.modCore_warps, moveRegs_warps, primeCore_warps, (memStep_writeBackAll _ wp.core).warps]
    exact hland
  have hgo : ¬ ((!wp.settled || s.hasCmds w || !(decide (g.state = .running) || decide (g.state = .stopping))) = true) := by
    simpa [hset, hc] using or_iff_not_imp_left.mp hst
  rw [exec_migrate, execMigrate, hw]
  dsimp only
  rw [hx]
  dsimp only
  rw [hb]
  dsimp only
  rw [hg, hr]
  dsimp only
  rw [if_neg hgo]
  refine ⟨_, _, rfl, (tget_tmod_self ..).trans (congrArg (Option.map _) (hwarps ..)), rfl, rfl, rfl, rfl, rfl, fun sp hsp => ?_, rfl, rfl⟩
  obtain ⟨y, _, rfl⟩ := List.mem_map.mp hsp
  exact ⟨rfl, rfl, rfl⟩

theorem migrate_refused {s : State} {w : Nat} {wp : Warp} {x : Landing} {b : Block} {g : Gang} {r : Record} (hw : tget s.warps w = some wp)
    (hx : wp.landing = some x) (hb : tget s.blocks wp.blk = some b) (hg : tget s.gangs b.gang = some g) (hr : recordOf s b = some r)
    (h : wp.settled = false ∨ s.hasCmds w = true) : exec (.migrate w) s = .refused .notEnabled := by
  rw [exec_migrate, execMigrate, hw]
  dsimp only
  rw [hx]
  dsimp only
  rw [hb]
  dsimp only
  rw [hg, hr]
  exact if_pos (by obtain h | h := h <;> simp [h])

/-- A number that a table does not list is not listed after its removal either. -/
theorem tget_tdel_of_none {α : Type} {m : SMap α} {k : Nat} (j : Nat) (h : tget m k = none) : tget (tdel m j) k = none := by
  induction m with
  | nil => rfl
  | cons p m ih =>
    obtain ⟨i, v⟩ := p
    simp only [tget] at h
    split at h
    · cases h
    · next hk =>
      simp only [tdel]
      split
      · exact h
      · simpa only [tget, if_neg hk] using ih h

theorem tget_setReg_of_none {s : State} {j k : Nat} (v : Word) (h : tget s.regs k = none) (hne : k ≠ j) : tget (s.setReg j v).regs k = none := by
  change tget (tputD s.regs j 0 v) k = none
  unfold tputD
  split
  · exact tget_tdel_of_none j h
  · rw [tget_tput_ne _ _ hne, h]

/-- A register that is listed nowhere holds the word written to it. -/
theorem regAt_setReg_of_none {s : State} {k : Nat} (v : Word) (h : tget s.regs k = none) : (s.setReg k v).regAt k = v := by
  by_cases hv : v = 0
  · change (tget (tputD s.regs k 0 v) k).getD 0 = v
    rw [tputD, if_pos hv, tget_tdel_of_none k h, hv]
    rfl
  · exact tgetD_tputD_of_ne s.regs k hv

theorem regAt_foldl_setReg_of_notMem {k : Nat} (l : List (Nat × Word)) (s : State) (h : ∀ p ∈ l, p.1 ≠ k) :
    (l.foldl (fun s p => s.setReg p.1 p.2) s).regAt k = s.regAt k := by
  induction l generalizing s with
  | nil => rfl
  | cons p l ih =>
    obtain ⟨hp, hl⟩ := List.forall_mem_cons.mp h
    exact (ih _ hl).trans (regAt_setReg_ne s p.2 (Ne.symm hp))

/-- Words written to registers that are listed nowhere, each once. -/
theorem regAt_foldl_setReg_of_none {k : Nat} {v : Word} (l : List (Nat × Word)) (s : State) (hnone : tget s.regs k = none)
    (hp : l.Pairwise (fun p q => p.1 ≠ q.1)) (h : (k, v) ∈ l) : (l.foldl (fun s p => s.setReg p.1 p.2) s).regAt k = v := by
  induction l generalizing s with
  | nil => cases h
  | cons p l ih =>
    obtain ⟨hhead, htail⟩ := List.pairwise_cons.mp hp
    rcases List.mem_cons.mp h with rfl | h
    · exact (regAt_foldl_setReg_of_notMem l _ (fun q hq => Ne.symm (hhead q hq))).trans (regAt_setReg_of_none v hnone)
    · exact ih _ (tget_setReg_of_none p.2 hnone (fun he => hhead _ h he.symm)) htail h

/-- The registers without those of a warp list none of them. -/
theorem tget_filter_of_drops {α : Type} (f : Nat → Bool) (m : SMap α) {k : Nat} (h : f k = false) : tget (m.filter (fun p => f p.1)) k = none := by
  induction m with
  | nil => rfl
  | cons p m ih =>
    obtain ⟨j, v⟩ := p
    rw [List.filter_cons]
    split
    · next hj =>
      rw [tget, if_neg, ih]
      rintro rfl
      simp [h] at hj
    · exact ih

/-- The key of a register below 512. -/
theorem regKey_low (w : Nat) {r : Nat} (hr : r < 512) (t : Nat) : regKey w w r t = (w * 1024 + r) * 32 + t := by
  rw [regKey, if_pos hr]

theorem regKey_mine (w : Nat) {r t : Nat} (hr : r < 512) (ht : t < 32) :
    (!(decide (regKey w w r t / 32 / 1024 = w) && decide (regKey w w r t / 32 % 1024 < 512))) = false := by
  rw [regKey_low w hr]
  have h1 : ((w * 1024 + r) * 32 + t) / 32 = w * 1024 + r := by omega
  have h2 : (w * 1024 + r) / 1024 = w := by omega
  have h3 : (w * 1024 + r) % 1024 = r := by omega
  rw [h1, h2, h3]
  simpa using hr

section
variable (s : State) {w a b : Nat}

/-- The words of one moved pair, by their new keys. -/
def movedPair (s : State) (w a b : Nat) : List (Nat × Word) := (upto 32).map (fun t => (regKey w w b t, s.regAt (regKey w w a t)))

/-- The registers of all but the warp. -/
def otherRegs (s : State) (w : Nat) : SMap Word :=
  s.regs.filter (fun p => !(decide (p.1 / 32 / 1024 = w) && decide (p.1 / 32 % 1024 < 512)))

theorem moveRegs_single (w a b : Nat) : ∃ bad, moveRegs s w [(a, b)] =
    (movedPair s w a b).foldl (fun s p => s.setReg p.1 p.2) { s with regs := otherRegs s w, poison := bad } := by
  unfold moveRegs
  dsimp only
  rw [List.flatMap_cons, List.flatMap_nil, List.append_nil]
  exact ⟨_, rfl⟩

theorem movedPair_pairwise (hb : b < 512) : (movedPair s w a b).Pairwise (fun p q => p.1 ≠ q.1) := by
  refine List.pairwise_map.mpr (List.nodup_range.imp (fun {t u} htu he => htu ?_))
  simp only [regKey_low w hb] at he
  omega

theorem otherRegs_none {r t : Nat} (hr : r < 512) (ht : t < 32) : tget (otherRegs s w) (regKey w w r t) = none :=
  tget_filter_of_drops (fun k => !(decide (k / 32 / 1024 = w) && decide (k / 32 % 1024 < 512))) s.regs (regKey_mine w hr ht)

theorem regAt_moveRegs_target (hb : b < 512) {t : Nat} (ht : t < 32) :
    (moveRegs s w [(a, b)]).regAt (regKey w w b t) = s.regAt (regKey w w a t) := by
  obtain ⟨bad, hbad⟩ := moveRegs_single s w a b
  rw [hbad]
  exact regAt_foldl_setReg_of_none _ _ (otherRegs_none s hb ht) (movedPair_pairwise s hb)
    (List.mem_map.mpr ⟨t, List.mem_range.mpr ht, rfl⟩)

theorem regAt_moveRegs_other (hb : b < 512) {r t : Nat} (hr : r < 512) (hne : r ≠ b) (ht : t < 32) :
    (moveRegs s w [(a, b)]).regAt (regKey w w r t) = 0 := by
  obtain ⟨bad, hbad⟩ := moveRegs_single s w a b
  have hkeys : ∀ p ∈ movedPair s w a b, p.1 ≠ regKey w w r t := by
    intro p hp he
    obtain ⟨u, hu, rfl⟩ := List.mem_map.mp hp
    have hu := List.mem_range.mp hu
    simp only [regKey_low w hb, regKey_low w hr] at he
    omega
  rw [hbad, regAt_foldl_setReg_of_notMem _ _ hkeys]
  exact congrArg (·.getD 0) (otherRegs_none s hr ht)

end

/-- Settles O52: the functions of the FLIOC clause by clause, and a reservation by what `reserved` answers. -/
theorem dispatchEvents : Obligations.DispatchEvents := by
  unfold Obligations.DispatchEvents
  refine ⟨dispatchDecision_next, dispatchDecision_none, dispatchDecision_reserved,
    fun s q r => ⟨fun t h => by rw [tryQueues, h], fun h => by rw [tryQueues, h]⟩, ?charged, ?reserves, victims_prefix, ?entries,
    fun s lid l h ha => launchPacketAnswer_of_asked h ha, ?packets, fun s gid g l hg hl hst => gangSave_stopping hg hl hst, ?moves,
    fun s w a b ha hb t ht => regAt_moveRegs_target s hb ht, fun s w a b r ha hb hr hne t ht => regAt_moveRegs_other s hb hr hne ht⟩
  case charged =>
    intro s q hs
    exact ⟨by rw [queue_charge hs]; rfl, by rw [queue_charge hs], classTime_charge⟩
  case reserves =>
    intro s q l h
    exact ⟨fun hw => clusterReservation_more (reserved_whole h hw), fun c hw hr => clusterReservation_more (reserved_cluster h hw hr),
      clusterReservation_new h⟩
  case entries =>
    intro s q v hb hi hf hl _ hv
    exact ⟨fun lid l hk => queueEntryTaken_known hb hi hf hl hv hk, queueEntryTaken_new hb hi hf hl hv⟩
  case packets =>
    intro s k q gen bs g h
    exact ⟨launchPacket_stale h, fun x fl hg hx hf => launchPacket_taken h hg hx hf⟩
  case moves =>
    intro s w wp x b g r hw hx hb hg hr hst
    exact ⟨migrate_moves hw hx hb hg hr hst, migrate_refused hw hx hb hg hr⟩

end Sys2Proof.Machine
end


section
/-! SUPPORT. The sluice engine: starts and granules (R230, R235, R360 to R372). -/
namespace Sys2Proof.Machine
open Sys2Proof Sys2Proof.Claims

/-! ### Flume conditions (R366, R367) -/

theorem flumeFits_iff (b : Block) (on : Bool) (n : Nat) (g : Flume → Bool) :
    flumeFits b on n g = true ↔ (on = true → ∃ f, b.flumes[n]? = some f ∧ g f = true) := by
  unfold flumeFits
  cases on <;> cases b.flumes[n]? <;> simp

/-- The flume conditions of a command (R367), as a statement. -/
def Cmd.HasRoom (c : Cmd) (b : Block) : Prop :=
  (c.fie = true → ∃ f, b.flumes[c.fin]? = some f ∧ f.rin + c.kin b ≤ f.fill) ∧
  ((c.srcRec = true ∧ c.srec = none) ∨ (c.foe = true → ∃ f, b.flumes[c.fout]? = some f ∧ f.rout + c.kout b ≤ f.room))

theorem flumesFit_iff (c : Cmd) (b : Block) : c.flumesFit b = true ↔ c.HasRoom b := by
  unfold Cmd.flumesFit Cmd.HasRoom
  rw [Bool.and_eq_true, Bool.or_eq_true, Bool.and_eq_true, Option.isNone_iff_eq_none, flumeFits_iff, flumeFits_iff]
  simp only [decide_eq_true_eq]

/-- A conversion of which a scaled flume end starts off a line (R370). -/
def Cmd.OffLine (c : Cmd) (b : Block) : Prop :=
  (c.mode = mCvt ∨ c.mode = mRescale) ∧ ((c.fie = true ∧ c.sscaled = true ∧ (c.source b).addr 0 % 128 ≠ 0) ∨
    (c.foe = true ∧ c.dscaled = true ∧ (c.target b).addr 0 % 128 ≠ 0))

theorem aligned_iff (c : Cmd) (b : Block) : c.aligned b = true ↔ ¬ c.OffLine b := by
  unfold Cmd.aligned Cmd.OffLine
  simp only [Bool.or_eq_true, Bool.and_eq_true, Bool.not_eq_true', Bool.and_eq_false_iff, decide_eq_true_eq]
  cases c.fie <;> cases c.foe <;> cases c.sscaled <;> cases c.dscaled <;> simp <;> tauto

/-! ### The start of a command (R360, R361, R364) -/

section
variable {s : State} {core i : Nat} {c : Cmd} {b : Block} {e : Eng}

/-- A core's command at the head that may be looked at. -/
structure AtHead (s : State) (core i : Nat) (c : Cmd) (b : Block) (e : Eng) : Prop where
  going : (s.core core).stopped = false
  few : ((s.core core).sluice.filter (fun c => decide (c.state = .started))).length < 4
  head : headCmd (s.core core).sluice = some (i, c)
  runs : s.blockRuns c.blk = true
  block : tget s.blocks c.blk = some b
  eng : engOf s c.blk c.priv core true = some e

/-- The weir slot of a command that starts returns to UNSET. -/
def freeSlot (c : Cmd) (core : Nat) (s : State) : State := if c.we then s.modCore core (fun k => k.freeWeir c.wsl) else s

/-- A command whose records are taken: refused off a line, started with its slots reserved otherwise. -/
def startTaken (c : Cmd) (core i : Nat) (e : Eng) (b : Block) (t : State) (d : Cmd) : Out :=
  if !d.flumesFit b then .refused .notEnabled
  else
    let c' := d.reserve t b
    if !c'.aligned b then .next (refill (retireCmd (freeSlot c core t) core i c' 2) core).bump
    else
      let (s, held) := c'.ahead e b (noteAll (freeSlot c core t) e c'.recPages)
      let c' := { c' with held := held }
      let s := if c'.fie then s.modFlume c'.blk c'.fin (fun f => { f with rin := f.rin + c'.kin b }) else s
      let s := if c'.foe then s.modFlume c'.blk c'.fout (fun f => { f with rout := f.rout + c'.kout b }) else s
      .next (refill (s.modSluice core (fun l => setAt l i (fun _ => c'))) core).bump

theorem sluiceCommandStart_eq (h : AtHead s core i c b e) :
    exec (.sluiceCommandStart core) s =
      if c.state = .suspended then .next (refill (s.modSluice core (fun l => setAt l i (fun c => { c with state := .started }))) core)
      else if c.we ∧ tget (s.core core).weirs c.wsl ≠ some true then .refused .notEnabled
      else if !c.flumesFit b then .refused .notEnabled
      else
        match c.take s e b with
        | .refused => .next (refill (retireCmd (freeSlot c core s) core i c 2) core).bump
        | .fault cause va raddr => .next (cmdFault s core c b.gang cause va raddr).bump
        | .ok t d => startTaken c core i e b t d := by
  have hgo : ¬ (((s.core core).stopped || decide (4 ≤ ((s.core core).sluice.filter (fun c => decide (c.state = .started))).length)) = true) := by
    have hfew := h.few
    simp [h.going]
    omega
  rw [exec_sluiceCommandStart, execSluiceCommandStart]
  refine (if_neg hgo).trans ?_
  rw [h.head]
  refine (if_neg (by simp [h.runs])).trans ?_
  rw [h.block, h.eng] <;> rfl

theorem sluiceCommandStart_suspended (h : AtHead s core i c b e) (hs : c.state = .suspended) :
    exec (.sluiceCommandStart core) s = .next (refill (s.modSluice core (fun l => setAt l i (fun c => { c with state := .started }))) core) :=
  (sluiceCommandStart_eq h).trans (if_pos hs)

theorem sluiceCommandStart_held (h : AtHead s core i c b e) (hs : c.state = .queued) (hw : c.we = true)
    (hne : tget (s.core core).weirs c.wsl ≠ some true) : exec (.sluiceCommandStart core) s = .refused .notEnabled :=
  (sluiceCommandStart_eq h).trans ((if_neg (by rw [hs]; decide)).trans (if_pos ⟨hw, hne⟩))

theorem weirDiscard_next (h : AtHead s core i c b e) (hs : c.state = .queued) (hw : c.we = true)
    (hf : tget (s.core core).weirs c.wsl = some false) :
    exec (.weirDiscard core) s = .next (refill ((retireCmd s core i c 0).modCore core (fun k => k.freeWeir c.wsl)) core) := by
  rw [exec_weirDiscard, execWeirDiscard, h.head]
  exact if_pos (by simp [h.going, h.runs, hs, hw, hf])

/-- A queued command whose weir slot lets it start. -/
theorem sluiceCommandStart_let (h : AtHead s core i c b e) (hs : c.state = .queued)
    (hw : c.we = true → tget (s.core core).weirs c.wsl = some true) :
    exec (.sluiceCommandStart core) s =
      if !c.flumesFit b then .refused .notEnabled
      else
        match c.take s e b with
        | .refused => .next (refill (retireCmd (freeSlot c core s) core i c 2) core).bump
        | .fault cause va raddr => .next (cmdFault s core c b.gang cause va raddr).bump
        | .ok t d => startTaken c core i e b t d :=
  (sluiceCommandStart_eq h).trans ((if_neg (by rw [hs]; decide)).trans (if_neg (fun ⟨h1, h2⟩ => h2 (hw h1))))

theorem sluiceCommandStart_room (h : AtHead s core i c b e) (hs : c.state = .queued)
    (hw : c.we = true → tget (s.core core).weirs c.wsl = some true) (hr : c.HasRoom b) :
    exec (.sluiceCommandStart core) s =
      match c.take s e b with
      | .refused => .next (refill (retireCmd (freeSlot c core s) core i c 2) core).bump
      | .fault cause va raddr => .next (cmdFault s core c b.gang cause va raddr).bump
      | .ok t d => startTaken c core i e b t d :=
  (sluiceCommandStart_let h hs hw).trans (if_neg (by simp [(flumesFit_iff c b).mpr hr]))

theorem sluiceCommandStart_noRoom (h : AtHead s core i c b e) (hs : c.state = .queued)
    (hw : c.we = true → tget (s.core core).weirs c.wsl = some true) (hr : ¬ c.HasRoom b) :
    exec (.sluiceCommandStart core) s = .refused .notEnabled :=
  (sluiceCommandStart_let h hs hw).trans (if_pos (by simpa using mt (flumesFit_iff c b).mp hr))

theorem sluiceCommandStart_refused (h : AtHead s core i c b e) (hs : c.state = .queued)
    (hw : c.we = true → tget (s.core core).weirs c.wsl = some true) (hr : c.HasRoom b) (ht : c.take s e b = .refused) :
    exec (.sluiceCommandStart core) s = .next (refill (retireCmd (freeSlot c core s) core i c 2) core).bump := by
  rw [sluiceCommandStart_room h hs hw hr, ht]

theorem sluiceCommandStart_fault (h : AtHead s core i c b e) (hs : c.state = .queued)
    (hw : c.we = true → tget (s.core core).weirs c.wsl = some true) {cause va raddr : Nat} (hr : c.HasRoom b)
    (ht : c.take s e b = .fault cause va raddr) :
    exec (.sluiceCommandStart core) s = .next (cmdFault s core c b.gang cause va raddr).bump := by
  rw [sluiceCommandStart_room h hs hw hr, ht]

theorem startTaken_noRoom {t : State} {d : Cmd} (hr : ¬ d.HasRoom b) : startTaken c core i e b t d = .refused .notEnabled :=
  if_pos (by simpa using mt (flumesFit_iff d b).mp hr)

theorem startTaken_offLine {t : State} {d : Cmd} (hr : d.HasRoom b) (ho : (d.reserve t b).OffLine b) :
    startTaken c core i e b t d = .next (refill (retireCmd (freeSlot c core t) core i (d.reserve t b) 2) core).bump :=
  (if_neg (by simp [(flumesFit_iff d b).mpr hr])).trans (if_pos (by
    simpa using mt (aligned_iff (d.reserve t b) b).mp (not_not.mpr ho)))

theorem startTaken_starts {t : State} {d : Cmd} (hr : d.HasRoom b) (ho : ¬ (d.reserve t b).OffLine b) :
    let x := d.reserve t b
    let ahead := x.ahead e b (noteAll (freeSlot c core t) e x.recPages)
    let y : Cmd := { x with held := ahead.2 }
    let t2 := if y.fie then ahead.1.modFlume y.blk y.fin (fun f => { f with rin := f.rin + y.kin b }) else ahead.1
    let t3 := if y.foe then t2.modFlume y.blk y.fout (fun f => { f with rout := f.rout + y.kout b }) else t2
    startTaken c core i e b t d = .next (refill (t3.modSluice core (fun l => setAt l i (fun _ => y))) core).bump :=
  (if_neg (by simp [(flumesFit_iff d b).mpr hr])).trans (if_neg (by simp [(aligned_iff (d.reserve t b) b).mpr ho]))

theorem sluiceCommandStart_ok (h : AtHead s core i c b e) (hs : c.state = .queued)
    (hw : c.we = true → tget (s.core core).weirs c.wsl = some true) {t : State} {d : Cmd} (hr : c.HasRoom b) (ht : c.take s e b = .ok t d) :
    exec (.sluiceCommandStart core) s = startTaken c core i e b t d := by
  rw [sluiceCommandStart_room h hs hw hr, ht]

end

/-- Without a resumed command that waits for an entry a queue stays as it is. -/
theorem refill_of_none {s : State} {core : Nat} (h : ∀ p ∈ s.blocks, p.2.core = core → p.2.savedCmds = []) : refill s core = s := by
  have hnil : s.blocks.filter (fun p => decide (p.2.core = core) && !p.2.savedCmds.isEmpty && s.placed p.1) = [] :=
    List.filter_eq_nil_iff.mpr (fun p hp hc => by
      simp only [Bool.and_eq_true, decide_eq_true_eq, Bool.not_eq_true', List.isEmpty_eq_false_iff] at hc
      exact hc.1.2 (h p hp hc.1.1))
  unfold refill
  rw [hnil]
  rfl

/-! ### Granules (R230, R335, R362, R363, R372) -/

section
variable {s : State} {core i : Nat} {c : Cmd} {b : Block} {e0 : Eng}

/-- A started command of an engine. -/
structure UnderWay (s : State) (core i : Nat) (c : Cmd) (b : Block) (e0 : Eng) : Prop where
  cmd : (s.core core).sluice[i]? = some c
  going : (s.core core).stopped = false
  started : c.state = .started
  block : tget s.blocks c.blk = some b
  eng : engOf s c.blk c.priv core true = some e0

/-- An engine with the failures held for a command. -/
def Eng.holding (e : Eng) (c : Cmd) : Eng := { e with held := c.held }

theorem sluiceGranule_eq (h : UnderWay s core i c b e0) :
    exec (.sluiceGranule core i) s =
      if !c.runs s || ((s.core core).sluice.take i).any (fun x => decide (x.state = .started) && overlaps s core x c) then .refused .notEnabled
      else if c.out ≠ [] then
        match putNext (e0.holding c) c.putScaled c.out s with
        | .error f => granuleFails s core i c b (granErr s c.dst c.dstRec f)
        | .ok (t, []) => .next (granuleDone (healPuts (e0.holding c) t c.heals) core i c b).bump
        | .ok (t, l) => .next (t.modSluice core (fun q => setAt q i (fun c => { c with out := l }))).bump
      else if c.granules b ≤ c.progress then .next (cmdDone s core i c b)
      else
        match performGranule c (e0.holding c) b core s with
        | .ok t l ev status =>
          let t := aheadQueue core (noteAll (countHealth t c.blk ev) (e0.holding c) (c.pages b))
          let d := { c with status := max c.status status }
          let lines := addPuts [] l
          .next (if lines = [] then granuleDone t core i d b
                 else t.modSluice core (fun q => setAt q i (fun _ => { d with out := lines, heals := wholePuts lines }))).bump
        | g => granuleFails s core i c b g := by
  rw [exec_sluiceGranule, execSluiceGranule]
  dsimp only
  rw [h.cmd]
  dsimp only
  rw [h.going, h.started, decide_eq_false (fun hn : ¬ CmdState.started = CmdState.started => hn rfl), Bool.false_or, Bool.false_or, h.block, h.eng] <;> rfl

theorem sluiceGranule_stopped (h : UnderWay s core i c b e0) (hr : c.runs s = false) : exec (.sluiceGranule core i) s = .refused .notEnabled :=
  (sluiceGranule_eq h).trans (if_pos (by simp [hr]))

theorem sluiceGranule_waits (h : UnderWay s core i c b e0)
    (ho : ∃ x ∈ (s.core core).sluice.take i, x.state = .started ∧ overlaps s core x c = true) :
    exec (.sluiceGranule core i) s = .refused .notEnabled := by
  obtain ⟨x, hx, hst, hov⟩ := ho
  have hany : ((s.core core).sluice.take i).any (fun x => decide (x.state = .started) && overlaps s core x c) = true :=
    List.any_eq_true.mpr ⟨x, hx, by simp [hst, hov]⟩
  exact (sluiceGranule_eq h).trans (if_pos (by rw [hany, Bool.or_true]))

/-- A command that may go on. -/
structure GoesOn (s : State) (core i : Nat) (c : Cmd) (b : Block) (e0 : Eng) : Prop extends UnderWay s core i c b e0 where
  runs : c.runs s = true
  alone : ∀ x ∈ (s.core core).sluice.take i, x.state = .started → overlaps s core x c = false

theorem GoesOn.free (h : GoesOn s core i c b e0) :
    ¬ ((!c.runs s || ((s.core core).sluice.take i).any (fun x => decide (x.state = .started) && overlaps s core x c)) = true) := by
  have hany : ((s.core core).sluice.take i).any (fun x => decide (x.state = .started) && overlaps s core x c) = false :=
    List.any_eq_false.mpr (fun x hx hc => by
      obtain ⟨hst, hov⟩ := Bool.and_eq_true_iff.mp hc
      rw [h.alone x hx (of_decide_eq_true hst)] at hov
      cases hov)
  simp [hany, h.runs]

theorem sluiceGranule_writing (h : GoesOn s core i c b e0) (ho : c.out ≠ []) :
    exec (.sluiceGranule core i) s =
      match putNext (e0.holding c) c.putScaled c.out s with
      | .error f => granuleFails s core i c b (granErr s c.dst c.dstRec f)
      | .ok (t, []) => .next (granuleDone (healPuts (e0.holding c) t c.heals) core i c b).bump
      | .ok (t, l) => .next (t.modSluice core (fun q => setAt q i (fun c => { c with out := l }))).bump :=
  (sluiceGranule_eq h.toUnderWay).trans ((if_neg h.free).trans (if_pos ho))

theorem sluiceGranule_done (h : GoesOn s core i c b e0) (ho : c.out = []) (hp : c.granules b ≤ c.progress) :
    exec (.sluiceGranule core i) s = .next (cmdDone s core i c b) :=
  (sluiceGranule_eq h.toUnderWay).trans ((if_neg h.free).trans ((if_neg (not_not.mpr ho)).trans (if_pos hp)))

theorem sluiceGranule_performs (h : GoesOn s core i c b e0) (ho : c.out = []) (hp : c.progress < c.granules b) :
    exec (.sluiceGranule core i) s =
      match performGranule c (e0.holding c) b core s with
      | .ok t l ev status =>
        let t := aheadQueue core (noteAll (countHealth t c.blk ev) (e0.holding c) (c.pages b))
        let d := { c with status := max c.status status }
        let lines := addPuts [] l
        .next (if lines = [] then granuleDone t core i d b
               else t.modSluice core (fun q => setAt q i (fun _ => { d with out := lines, heals := wholePuts lines }))).bump
      | g => granuleFails s core i c b g :=
  (sluiceGranule_eq h.toUnderWay).trans ((if_neg h.free).trans ((if_neg (not_not.mpr ho)).trans (if_neg (by omega))))

theorem sluiceGranule_words (h : GoesOn s core i c b e0) (ho : c.out ≠ []) :
    let e := e0.holding c
    (∀ t, putNext e c.putScaled c.out s = .ok (t, []) →
      exec (.sluiceGranule core i) s = .next (granuleDone (healPuts e t c.heals) core i c b).bump) ∧
    (∀ t l, l ≠ [] → putNext e c.putScaled c.out s = .ok (t, l) →
      exec (.sluiceGranule core i) s = .next (t.modSluice core (fun q => setAt q i (fun c => { c with out := l }))).bump) ∧
    (∀ st, putNext e c.putScaled c.out s = .error (.stop st) →
      exec (.sluiceGranule core i) s = .next (retireCmd (settleFlumes s c b false) core i c (max 2 c.status)).bump) ∧
    (∀ cause va, putNext e c.putScaled c.out s = .error (.fault cause va) →
      exec (.sluiceGranule core i) s = .next (cmdFault s core c b.gang cause va (if c.dstRec then c.dst.toNat else 0)).bump) := by
  intro e
  have heq := sluiceGranule_writing h ho
  refine ⟨fun t ht => ?_, fun t l hl ht => ?_, fun st ht => ?_, fun cause va ht => ?_⟩ <;> rw [heq, ht]
  · cases l with
    | nil => exact absurd rfl hl
    | cons x l => rfl
  · rfl
  · rfl

theorem sluiceGranule_next (h : GoesOn s core i c b e0) (ho : c.out = []) (hp : c.progress < c.granules b) :
    let e := e0.holding c
    (∀ t status, performGranule c e b core s = .stop t status →
      exec (.sluiceGranule core i) s = .next (retireCmd (settleFlumes t c b false) core i c (max status c.status)).bump) ∧
    (∀ cause va raddr, performGranule c e b core s = .fault cause va raddr →
      exec (.sluiceGranule core i) s = .next (cmdFault s core c b.gang cause va raddr).bump) ∧
    (performGranule c e b core s = .waits → exec (.sluiceGranule core i) s = .refused .notEnabled) ∧
    (∀ t' l ev status, performGranule c e b core s = .ok t' l ev status →
      let t := aheadQueue core (noteAll (countHealth t' c.blk ev) e (c.pages b))
      let d : Cmd := { c with status := max c.status status }
      (addPuts [] l = [] → exec (.sluiceGranule core i) s = .next (granuleDone t core i d b).bump) ∧
      (addPuts [] l ≠ [] → exec (.sluiceGranule core i) s =
        .next (t.modSluice core (fun q => setAt q i (fun _ => { d with out := addPuts [] l, heals := wholePuts (addPuts [] l) }))).bump)) := by
  intro e
  have heq := sluiceGranule_performs h ho hp
  refine ⟨fun t status ht => ?_, fun cause va raddr ht => ?_, fun ht => ?_, fun t' l ev status ht => ⟨fun hl => ?_, fun hl => ?_⟩⟩ <;>
    rw [heq, ht] <;> dsimp only
  · rfl
  · rfl
  · rfl
  · rw [if_pos hl]
  · rw [if_neg hl]

end

theorem granuleDone_cases (s : State) (core i : Nat) (c : Cmd) (b : Block) :
    let d : Cmd := { c with progress := c.progress + 1, out := [], heals := [] }
    (d.granules b ≤ c.progress + 1 → granuleDone s core i c b = cmdDone s core i d ((tget s.blocks c.blk).getD b)) ∧
    (c.progress + 1 < d.granules b → granuleDone s core i c b = s.modSluice core (fun l => setAt l i (fun _ => d))) :=
  ⟨fun h => if_pos h, fun h => if_neg (by exact Nat.not_le.mpr h)⟩

/-! ### Words of lines (R326, R335) -/

/-- An item of lines belongs to the line that it names. -/
theorem mem_putItems {l : List LinePut} {k n : Nat} (h : (k, n) ∈ putItems l) : ∃ y, l[k]? = some y ∧ n ∈ y.items := by
  obtain ⟨⟨y, k'⟩, hy, hn⟩ := List.mem_flatMap.mp h
  obtain ⟨n', hn', he⟩ := List.mem_map.mp hn
  cases he
  exact ⟨y, List.mem_zipIdx_iff_getElem?.mp hy, hn'⟩

theorem putItems_ne_nil {x : LinePut} {rest : List LinePut} (h : x.items ≠ []) : putItems (x :: rest) ≠ [] := by
  obtain ⟨n, hn⟩ := List.exists_mem_of_ne_nil _ h
  exact List.ne_nil_of_mem (a := (0, n)) (List.mem_flatMap.mpr ⟨(x, 0), by simp, List.mem_map.mpr ⟨n, hn, rfl⟩⟩)

theorem putNext_item (e : Eng) (scaled : Bool) (s : State) (x : LinePut) (rest : List LinePut) (h : x.items ≠ []) :
    ∃ k y n, (x :: rest)[k]? = some y ∧ n ∈ y.items ∧
      putNext e scaled (x :: rest) s = (putItem e scaled y n s).map (fun t => (t, dropItem (x :: rest) k n)) := by
  have hpos : 0 < (putItems (x :: rest)).length := List.length_pos_of_ne_nil (putItems_ne_nil h)
  have hlt : Config.freePick s.free 80 % max 1 (putItems (x :: rest)).length < (putItems (x :: rest)).length := by
    rw [Nat.max_eq_right hpos]
    exact Nat.mod_lt _ hpos
  cases hi : (putItems (x :: rest))[Config.freePick s.free 80 % max 1 (putItems (x :: rest)).length]? with
  | none => exact absurd (List.getElem?_eq_none_iff.mp hi) (by omega)
  | some p =>
    obtain ⟨k, n⟩ := p
    obtain ⟨y, hy, hn⟩ := mem_putItems (List.mem_of_getElem? hi)
    refine ⟨k, y, n, hy, hn, ?_⟩
    unfold putNext
    dsimp only
    rw [hi]
    dsimp only
    rw [hy]
    dsimp only
    cases putItem e scaled y n s <;> rfl

/-- A byte of an item written where some bits of it change. -/
def putByte (e : Eng) (scaled : Bool) (x : LinePut) (n : Nat) (r : EngM State) (j : Nat) : EngM State :=
  let o := 4 * n + j
  let m : Byte := x.mask.extractLsb' (8 * o) 8
  if m = 0 then r
  else r.bind (fun s =>
    match (if m = BitVec.allOnes 8 then .ok [0] else engOld s e scaled (x.va + o) 1) with
    | .error k => .error k
    | .ok bs => engWrite s e scaled (x.va + o) [(bs.headD 0 &&& ~~~m) ||| (x.data.extractLsb' (8 * o) 8 &&& m)])

theorem putItem_word (e : Eng) (scaled : Bool) (x : LinePut) {n : Nat} (s : State) (hn : n < 32) :
    putItem e scaled x n s = [0, 1, 2, 3].foldl (putByte e scaled x n) (.ok s) := if_pos hn

theorem putByte_skip (e : Eng) (scaled : Bool) {x : LinePut} {n j : Nat} (r : EngM State) (hm : x.mask.extractLsb' (8 * (4 * n + j)) 8 = 0) :
    putByte e scaled x n r j = r := if_pos hm

theorem putByte_whole (e : Eng) (scaled : Bool) {x : LinePut} {n j : Nat} (s : State) (hm : x.mask.extractLsb' (8 * (4 * n + j)) 8 = 0xFF) :
    putByte e scaled x n (.ok s) j = engWrite s e scaled (x.va + (4 * n + j)) [x.data.extractLsb' (8 * (4 * n + j)) 8] := by
  have hone : (0xFF : Byte) = BitVec.allOnes 8 := rfl
  have hne : ¬ BitVec.allOnes 8 = (0 : Byte) := by decide
  have hd (d : Byte) : (((0 : Byte) &&& ~~~BitVec.allOnes 8) ||| (d &&& BitVec.allOnes 8)) = d := by
    rw [BitVec.and_allOnes, show (0 : Byte) &&& ~~~BitVec.allOnes 8 = 0#8 by decide, BitVec.zero_or]
  unfold putByte
  dsimp only
  rw [hm, hone, if_neg hne]
  simp only [Except.bind, if_true]
  exact congrArg (fun d => engWrite s e scaled (x.va + (4 * n + j)) [d]) (hd _)

/-- Of a word in which one whole byte changes that byte alone is written. -/
theorem putItem_byte (e : Eng) (scaled : Bool) (s : State) (x : LinePut) (n j : Nat) (hn : n < 32) (hj : j < 4)
    (hm : x.mask.extractLsb' (8 * (4 * n + j)) 8 = 0xFF)
    (h0 : ∀ j', j' < 4 → j' ≠ j → x.mask.extractLsb' (8 * (4 * n + j')) 8 = 0) :
    putItem e scaled x n s = engWrite s e scaled (x.va + (4 * n + j)) [x.data.extractLsb' (8 * (4 * n + j)) 8] := by
  have skip {k : Nat} (hk : k < 4) (hne : k ≠ j) (r : EngM State) : putByte e scaled x n r k = r := putByte_skip e scaled r (h0 k hk hne)
  rw [putItem_word e scaled x s hn, ← putByte_whole e scaled s hm]
  simp only [List.foldl_cons, List.foldl_nil]
  have hj4 : j = 0 ∨ j = 1 ∨ j = 2 ∨ j = 3 := by omega
  obtain rfl | rfl | rfl | rfl := hj4
  · rw [skip (k := 3) (by decide) (by decide), skip (k := 2) (by decide) (by decide), skip (k := 1) (by decide) (by decide)]
  · rw [skip (k := 3) (by decide) (by decide), skip (k := 2) (by decide) (by decide), skip (k := 0) (by decide) (by decide)]
  · rw [skip (k := 3) (by decide) (by decide), skip (k := 1) (by decide) (by decide), skip (k := 0) (by decide) (by decide)]
  · rw [skip (k := 2) (by decide) (by decide), skip (k := 1) (by decide) (by decide), skip (k := 0) (by decide) (by decide)]

/-- Settles O53: the head command by `sluiceCommandStart_eq`, a started one by `sluiceGranule_eq`. -/
theorem copyEngine : Obligations.CopyEngine := by
  unfold Obligations.CopyEngine
  refine ⟨?starts, fun s core h => refill_of_none h, ?granules, granuleDone_cases, putNext_item, putItem_byte⟩
  case starts =>
    intro s core i c b e k started free hstop hfew hhead hrun hb he
    have h : AtHead s core i c b e := ⟨hstop, hfew, hhead, hrun, hb, he⟩
    refine ⟨sluiceCommandStart_suspended h, sluiceCommandStart_held h, weirDiscard_next h, fun hs hw => ?_⟩
    refine ⟨sluiceCommandStart_noRoom h hs hw, sluiceCommandStart_refused h hs hw, fun cause va raddr => sluiceCommandStart_fault h hs hw,
      fun t d hr ht => ?_⟩
    have heq := sluiceCommandStart_ok h hs hw hr ht
    exact ⟨fun hn => heq.trans (startTaken_noRoom hn), fun hd ho => heq.trans (startTaken_offLine hd ho),
      fun hd ho => heq.trans (startTaken_starts hd ho)⟩
  case granules =>
    intro s core i c b e0 hc hstop hst hb he
    have h : UnderWay s core i c b e0 := ⟨hc, hstop, hst, hb, he⟩
    refine ⟨sluiceGranule_stopped h, sluiceGranule_waits h, fun hr ho => ?_⟩
    have hgo : GoesOn s core i c b e0 := ⟨h, hr, ho⟩
    exact ⟨sluiceGranule_words hgo, sluiceGranule_done hgo, sluiceGranule_next hgo⟩

end Sys2Proof.Machine
end


section
/-! SUPPORT. The Backwater engine's batches and the collective engine (R394, R395, R513 to R515). -/
namespace Sys2Proof.Machine
open Sys2Proof Sys2Proof.Claims

/-! ### Batches (R394, R395) -/

theorem backwaterAgeTimeout_next {s t : State} {die : Nat} (h : fillBatch s die = some t) :
    exec (.backwaterAgeTimeout die) s = .next (fillBatches die 2 t).bump := by
  rw [exec_backwaterAgeTimeout, execBackwaterAgeTimeout, h]

theorem backwaterAgeTimeout_none {s : State} {die : Nat} (h : fillBatch s die = none) :
    exec (.backwaterAgeTimeout die) s = .refused .notEnabled := by
  rw [exec_backwaterAgeTimeout, execBackwaterAgeTimeout, h]

theorem backfillLaunchEnd_cases {s : State} {die n lid : Nat} {b : BwBatch} {l : Launch} (hb : (s.die die).batches[n]? = some b)
    (hl : b.launch = some lid) (hg : tget s.launches lid = some l) :
    let s1 : State := { s with launches := tdel s.launches lid }
    (l.state ≠ .ended → exec (.backfillLaunchEnd die n) s = .refused .notEnabled) ∧
    (l.state = .ended → l.aborted = true →
      exec (.backfillLaunchEnd die n) s = .next (fillBatches die 2 (postBatches die 4 (failBatch s1 die n))).bump) ∧
    (∀ h, l.state = .ended → l.aborted = false → engineHdr s1 b.asid b.hdr = some h →
      let s2 : State := b.recs.zipIdx.foldl (flipItem die h b.asid b.hdr (h.blb + b.buf * h.bufBytes)) s1
      exec (.backfillLaunchEnd die n) s =
        .next (fillBatches die 2 (postBatches die 4 (s2.modDie die (fun d => { d with batches := dropAt d.batches n })))).bump) := by
  intro s1
  rw [exec_backfillLaunchEnd, execBackfillLaunchEnd, hb]
  dsimp only
  rw [hl]
  dsimp only
  rw [hg]
  dsimp only
  refine ⟨fun hs => ?_, fun hs ha => ?_, fun h hs ha he => ?_⟩
  · rw [if_neg hs]
  · rw [if_pos hs, ha]
    rfl
  · rw [if_pos hs, ha]
    dsimp only
    rw [show engineHdr { s with launches := tdel s.launches lid } b.asid b.hdr = some h from he]
    rfl

section
variable {s s1 s2 : State} {die asid hdr buf slot pos : Nat} {h : KvHdr} {r : ExitRec} {bs w : List Byte}

/-- An item of an ended batch whose staged bytes have gone into its entry: the flip. -/
theorem flipItem_copied (hr : tget (s.die die).exits slot = some r)
    (hbs : ctxRead s asid (buf + 64 + 32 * (h.bmax + 1) + pos * (h.esz - 16)) (h.esz - 16) = .ok bs)
    (h1 : storeUpTo asid (spanLines (h.entryAt r.page r.pos + 16) bs.length) s (h.entryAt r.page r.pos + 16) bs = .ok s1)
    (h2 : ctxMoveSlots asid (buf + 64 + 32 * (h.bmax + 1) + pos * (h.esz - 16)) (h.entryAt r.page r.pos + 16) bs.length s1 = .ok s2)
    (hw : ctxRead s2 asid (h.entryAt r.page r.pos) 4 = .ok w) (hlast : r.layer + 1 ≠ h.layers) :
    (∀ p x al s3, stateWord (ofBytes w) = some (p, x, al) → ctxStore s2 asid (h.entryAt r.page r.pos) (toBytes 4 (if x then 4 else 0)) = .ok s3 →
      flipItem die h asid hdr buf s (slot, pos) =
        s3.modDie die (fun d => { d with exits := tput d.exits slot { r with layer := r.layer + 1, state := .pending, since := s3.now } })) ∧
    (stateWord (ofBytes w) = none →
      flipItem die h asid hdr buf s (slot, pos) = postEvent s2 5 asid (toBytes 8 hdr ++ toBytes 4 r.layer)) := by
  unfold flipItem
  dsimp only
  rw [hr]
  dsimp only
  rw [hbs]
  dsimp only
  rw [h1]
  dsimp only
  rw [h2]
  dsimp only
  rw [hw]
  dsimp only
  refine ⟨fun p x al s3 hs h3 => ?_, fun hs => ?_⟩
  · rw [hs]
    dsimp only
    rw [h3]
    exact if_neg hlast
  · rw [hs]

end

/-! ### Collectives (R513 to R515) -/

section
variable {s : State} {die i : Nat} {x : Collective}

theorem collectiveStart_gone (h : findColl (s.die die).colls false = some (i, x)) (hg : tget s.groups x.gid = none) :
    exec (.collectiveStart die) s = .next (finishColl s die i x 3).bump := by
  rw [exec_collectiveStart, execCollectiveStart, h]
  dsimp only
  rw [hg]

theorem collectiveStart_routed (h : findColl (s.die die).colls false = some (i, x)) {g : Group} (hg : tget s.groups x.gid = some g) :
    exec (.collectiveStart die) s =
      if g.routes.any (fun p => tgetD s.ports p false) then .next (finishColl s die i x 1).bump
      else .next (s.modDie die (fun y => { y with colls := setAt y.colls i (fun x => { x with begun := true }) })) := by
  rw [exec_collectiveStart, execCollectiveStart, h]
  dsimp only
  rw [hg]

theorem collectiveStart_none (h : findColl (s.die die).colls false = none) : exec (.collectiveStart die) s = .refused .notEnabled := by
  rw [exec_collectiveStart, execCollectiveStart, h]

theorem collectiveEnd_gone (h : findColl (s.die die).colls true = some (i, x)) (peers : List (List Byte)) (m : Bool)
    (hg : tget s.groups x.gid = none) : exec (.collectiveEnd die peers m) s = .next (finishColl s die i x 3).bump := by
  rw [exec_collectiveEnd, execCollectiveEnd, h]
  dsimp only
  rw [hg]

section
variable {g : Group} {e : Eng} {peers : List (List Byte)} {m : Bool}

/-- A collective under way whose group stands. -/
structure Collecting (s : State) (die i : Nat) (x : Collective) (g : Group) (e : Eng) : Prop where
  found : findColl (s.die die).colls true = some (i, x)
  group : tget s.groups x.gid = some g
  eng : collEng s x = some e

/-- What the other members' posts begin with. -/
def heads (g : Group) (peers : List (List Byte)) : List PeerPost := (otherPosts g.n g.rank peers).filterMap peerPost

theorem collectiveEnd_open (h : Collecting s die i x g e) (ho : x.out = none) :
    exec (.collectiveEnd die peers m) s =
      if !(otherPosts g.n g.rank peers).all (x.matched g.n) || m != (heads g peers).all x.fits then .refused .notEnabled
      else if !m then .next (finishColl s die i x 4).bump
      else if (heads g peers).any (·.bad) then .next (finishColl s die i x 1).bump
      else
        match readUnits s e x x.src (srcUnits x g.n) with
        | .error k => .next (finishColl s die i x (collStat k)).bump
        | .ok mine =>
          let (va, ps, ev) := collResult x g.n g.rank (Config.freePick s.free 20 % g.n) mine peers
          let lines := addPuts [] (unitPuts x va ps)
          .next (setOut s die i ⟨lines, wholePuts lines, ev.sat, ev.zero⟩).bump := by
  rw [exec_collectiveEnd, execCollectiveEnd, h.found]
  dsimp only
  rw [h.group, h.eng]
  dsimp only
  rw [ho] <;> rfl

theorem collectiveEnd_unmatched (h : Collecting s die i x g e) (ho : x.out = none)
    (hm : ∃ bs ∈ otherPosts g.n g.rank peers, x.matched g.n bs = false) : exec (.collectiveEnd die peers m) s = .refused .notEnabled := by
  obtain ⟨bs, hbs, hf⟩ := hm
  refine (collectiveEnd_open h ho).trans (if_pos ?_)
  rw [List.all_eq_false.mpr ⟨bs, hbs, by simp [hf]⟩]
  rfl

/-- Matched posts of which all agree with this member's. -/
theorem collectiveEnd_agreed (h : Collecting s die i x g e) (ho : x.out = none) (hm : ∀ bs ∈ otherPosts g.n g.rank peers, x.matched g.n bs = true)
    (hf : ∀ p ∈ heads g peers, x.fits p = true) :
    exec (.collectiveEnd die peers true) s =
      if (heads g peers).any (·.bad) then .next (finishColl s die i x 1).bump
      else
        match readUnits s e x x.src (srcUnits x g.n) with
        | .error k => .next (finishColl s die i x (collStat k)).bump
        | .ok mine =>
          let (va, ps, ev) := collResult x g.n g.rank (Config.freePick s.free 20 % g.n) mine peers
          let lines := addPuts [] (unitPuts x va ps)
          .next (setOut s die i ⟨lines, wholePuts lines, ev.sat, ev.zero⟩).bump := by
  refine (collectiveEnd_open h ho).trans ((if_neg ?_).trans (if_neg (by decide)))
  rw [List.all_eq_true.mpr hm, List.all_eq_true.mpr hf]
  decide

theorem collectiveEnd_differ (h : Collecting s die i x g e) (ho : x.out = none) (hm : ∀ bs ∈ otherPosts g.n g.rank peers, x.matched g.n bs = true)
    (hf : ∃ p ∈ heads g peers, x.fits p = false) : exec (.collectiveEnd die peers false) s = .next (finishColl s die i x 4).bump := by
  obtain ⟨p, hp, hpf⟩ := hf
  refine (collectiveEnd_open h ho).trans ((if_neg ?_).trans (if_pos rfl))
  rw [List.all_eq_true.mpr hm, List.all_eq_false.mpr ⟨p, hp, by simp [hpf]⟩]
  decide

theorem collectiveEnd_bad (h : Collecting s die i x g e) (ho : x.out = none) (hm : ∀ bs ∈ otherPosts g.n g.rank peers, x.matched g.n bs = true)
    (hf : ∀ p ∈ heads g peers, x.fits p = true) (hb : ∃ p ∈ heads g peers, p.bad = true) :
    exec (.collectiveEnd die peers true) s = .next (finishColl s die i x 1).bump :=
  (collectiveEnd_agreed h ho hm hf).trans (if_pos (List.any_eq_true.mpr hb))

theorem collectiveEnd_result (h : Collecting s die i x g e) (ho : x.out = none) (hm : ∀ bs ∈ otherPosts g.n g.rank peers, x.matched g.n bs = true)
    (hf : ∀ p ∈ heads g peers, x.fits p = true) (hb : ∀ p ∈ heads g peers, p.bad = false) :
    (∀ k, readUnits s e x x.src (srcUnits x g.n) = .error k →
      exec (.collectiveEnd die peers true) s = .next (finishColl s die i x (collStat k)).bump) ∧
    (∀ mine, readUnits s e x x.src (srcUnits x g.n) = .ok mine → 0 < g.n → ∃ h, h < g.n ∧
      let r := collResult x g.n g.rank h mine peers
      let lines := addPuts [] (unitPuts x r.1 r.2.1)
      exec (.collectiveEnd die peers true) s = .next (setOut s die i ⟨lines, wholePuts lines, r.2.2.sat, r.2.2.zero⟩).bump) := by
  have heq := (collectiveEnd_agreed h ho hm hf).trans (if_neg (by
    rw [List.any_eq_false.mpr (fun p hp => by simp [hb p hp])]
    decide))
  refine ⟨fun k hk => ?_, fun mine hk hn => ⟨_, Nat.mod_lt (Config.freePick s.free 20) hn, ?_⟩⟩ <;> rw [heq, hk]

theorem collectiveEnd_words (h : Collecting s die i x g e) {o : CollOut} (ho : x.out = some o) (hne : o.out ≠ []) :
    (∀ t l, putNext e (isScaled x.elem) o.out s = .ok (t, l) →
      exec (.collectiveEnd die peers m) s = .next (setOut t die i { o with out := l }).bump) ∧
    (∀ k, putNext e (isScaled x.elem) o.out s = .error k →
      exec (.collectiveEnd die peers m) s = .next (finishColl s die i x (collStat k)).bump) := by
  rw [exec_collectiveEnd, execCollectiveEnd, h.found]
  dsimp only
  rw [h.group, h.eng]
  dsimp only
  rw [ho]
  dsimp only
  rw [if_neg hne]
  refine ⟨fun t l hp => ?_, fun k hp => ?_⟩ <;> rw [hp]

theorem collectiveEnd_last (h : Collecting s die i x g e) {o : CollOut} (ho : x.out = some o) (he : o.out = []) :
    exec (.collectiveEnd die peers m) s =
      .next (finishColl (addHealth (healPuts e s o.heals) x.asid ⟨o.sat, o.zero⟩) die i x 0).bump := by
  rw [exec_collectiveEnd, execCollectiveEnd, h.found]
  dsimp only
  rw [h.group, h.eng]
  dsimp only
  rw [ho]
  exact if_pos he

end
end

theorem fits_iff (x : Collective) (p : PeerPost) : x.fits p = true ↔ p.op = collCode x.op ∧ p.fmt = x.fmt ∧ p.count = x.count := by
  simp [Collective.fits, and_assoc]

theorem collStat_fault (cause va : Nat) : collStat (.fault cause va) = if cause = 0x40 then 1 else 2 := by
  unfold collStat
  split
  · next he => cases he; rfl
  · next hne => rw [if_neg (by rintro rfl; exact hne va rfl)]

theorem finishColl_written {s s1 s2 : State} {die i stat : Nat} {x : Collective} {e : Eng}
    (he : collEng (s.modDie die (fun y => { y with colls := dropAt y.colls i })) x = some e) (he1 : collEng s1 x = some e)
    (h1 : engWrite (s.modDie die (fun y => { y with colls := dropAt y.colls i })) e false (x.addr + 0x1C) (toBytes 4 stat) = .ok s1)
    (h2 : engWrite s1 e false x.cword (toBytes 4 x.cval) = .ok s2) : finishColl s die i x stat = s2 := by
  unfold finishColl
  dsimp only
  rw [he]
  dsimp only
  rw [h1]
  dsimp only
  rw [he1]
  dsimp only
  rw [h2]

/-- Settles O54: `backfillLaunchEnd_cases` and `flipItem_copied` for the batches, the start and the end of a collective by its stage. -/
theorem backwaterAndCollectives : Obligations.BackwaterAndCollectives := by
  unfold Obligations.BackwaterAndCollectives
  refine ⟨fun s die => ⟨fun t => backwaterAgeTimeout_next, backwaterAgeTimeout_none⟩, fun s die n lid b l => backfillLaunchEnd_cases,
    fun s s1 s2 die asid hdr buf slot pos h r bs w => ?flips, fun s die i x => ⟨fun h => ?starts, collectiveStart_none, fun h => ?ends⟩,
    fits_iff, collStat_fault, fun va => rfl, fun s s1 s2 die i stat x e he he1 h1 h2 => finishColl_written he he1 h1 h2⟩
  case flips => exact flipItem_copied
  case starts =>
    refine ⟨collectiveStart_gone h, fun g hg hp => (collectiveStart_routed h hg).trans (if_pos (List.any_eq_true.mpr hp)),
      fun g hg hp => (collectiveStart_routed h hg).trans (if_neg ?_)⟩
    rw [List.any_eq_false.mpr (fun p hpm => by simp [hp p hpm])]
    decide
  case ends =>
    refine ⟨fun peers m => collectiveEnd_gone h peers m, fun peers g e hg he => ?_⟩
    have hc : Collecting s die i x g e := ⟨h, hg, he⟩
    refine ⟨fun ho => ⟨fun hm m => collectiveEnd_unmatched hc ho hm, fun hm => ⟨collectiveEnd_differ hc ho hm, fun hf => ?_⟩⟩,
      fun o m ho hne => collectiveEnd_words hc ho hne, fun o m ho hn => collectiveEnd_last hc ho hn⟩
    exact ⟨collectiveEnd_bad hc ho hm hf, collectiveEnd_result hc ho hm hf⟩

end Sys2Proof.Machine
end


section
/-! SUPPORT. Near-memory units (R237 to R243, R464 to R471). -/
namespace Sys2Proof.Machine
open Sys2Proof Sys2Proof.Claims

/-! ### The steps of a unit -/

section
variable {s : State} {u k : Nat} {c : NmCmd} {gran : NmCmd → Eng → Nat → Nat → State → NmGran}

/-- A command as a step of one of its parts leaves it. -/
def putPart (u k i : Nat) (c : NmCmd) (t : State) (q : NmPart) (res : Option (Word × Word)) : State :=
  (admitAll (setNm t u k { c with parts := setAt c.parts i (fun _ => q), res0 := (res.map (·.1)).getD c.res0,
                                  res1 := (res.map (·.2)).getD c.res1 })).bump

/-- What a step does with a part: it writes a line that is ready, or works out a granule. -/
def stepPart (gran : NmCmd → Eng → Nat → Nat → State → NmGran) (u k : Nat) (c : NmCmd) (i : Nat) (p : NmPart) (e : Eng) (pl : NmPlan)
    (s : State) : Out :=
  match p.ready pl with
  | some (x, rest) =>
    match putLine e x s with
    | .ok s1 => .next (putPart u k i c s1 { p with out := rest }.close none)
    | .error f => .next (putPart u k i c s ({ p with out := rest }.fail (nmStatus f).1 (nmStatus f).2) none)
  | none =>
    let n := pl.len (p.first + p.pos) (p.count - p.pos)
    match gran c e (p.first + p.pos) n s with
    | .ok s1 ev res => .next (putPart u k i c (nmHealth s1 c ev) { p with pos := p.pos + n }.close res)
    | .puts l ev => .next (putPart u k i c (nmHealth s c ev) (p.take s e pl n l) none)
    | .bad s1 st d res => .next (putPart u k i c s1 (p.fail st d) res)

/-- A step of a command that carries its instruction's code. -/
def stepNm (gran : NmCmd → Eng → Nat → Nat → State → NmGran) (u k : Nat) (c : NmCmd) (s : State) : Out :=
  if !c.started then
    if nextAt s u c.arrival then .next (admitAll (setNm s u k (nmStart s c))).bump else .refused .notEnabled
  else
    match nextPart s c, nmEng s c, nmPlan c.word c.arg with
    | some (i, p), some e, some pl => stepPart gran u k c i p e pl s
    | none, _, _ => .refused .notEnabled
    | _, _, _ => .fault .dangling

theorem nmStep_eq {code : Nat} {fl : Option Nat} (h : (s.nmu u)[k]? = some c) (hc : nmCode c.word = code) (hf : ∀ x, fl = some x → x = nmFl c.word) :
    nmStep code fl gran u k s = stepNm gran u k c s := by
  have hgo : ¬ (nmCode c.word ≠ code ∨ (fl.any (fun x => decide (x ≠ nmFl c.word))) = true) := by
    rintro (hn | hn)
    · exact hn hc
    · cases fl with
      | none => cases hn
      | some x => exact of_decide_eq_true hn (hf x rfl)
  unfold nmStep
  rw [h]
  refine (if_neg hgo).trans ?_
  rfl

theorem stepNm_waiting (hs : c.started = false) (hn : nextAt s u c.arrival = true) :
    stepNm gran u k c s = .next (admitAll (setNm s u k (nmStart s c))).bump :=
  (if_pos (by simp [hs])).trans (if_pos hn)

theorem stepNm_notNext (hs : c.started = false) (hn : nextAt s u c.arrival = false) : stepNm gran u k c s = .refused .notEnabled :=
  (if_pos (by simp [hs])).trans (if_neg (by simp [hn]))

theorem stepNm_noPart (hs : c.started = true) (ho : openParts s c = []) : stepNm gran u k c s = .refused .notEnabled := by
  have hn : nextPart s c = none := by rw [nextPart, ho]; rfl
  unfold stepNm
  rw [if_neg (by simp [hs]), hn]

theorem nextPart_mem (ho : openParts s c ≠ []) : ∃ q ∈ openParts s c, nextPart s c = some q := by
  have hlt := Nat.mod_lt (Config.freePick s.free 30) (List.length_pos_of_ne_nil ho)
  exact ⟨_, List.getElem_mem hlt, List.getElem?_eq_getElem hlt⟩

theorem stepNm_part (hs : c.started = true) {i : Nat} {p : NmPart} {e : Eng} {pl : NmPlan} (hp : nextPart s c = some (i, p))
    (he : nmEng s c = some e) (hl : nmPlan c.word c.arg = some pl) : stepNm gran u k c s = stepPart gran u k c i p e pl s := by
  unfold stepNm
  rw [if_neg (by simp [hs]), hp, he, hl]

theorem stepPart_line {i : Nat} {p : NmPart} {e : Eng} {pl : NmPlan} {x : LinePut} {rest : List LinePut} (hr : p.ready pl = some (x, rest)) :
    (∀ t, putLine e x s = .ok t → stepPart gran u k c i p e pl s = .next (putPart u k i c t { p with out := rest }.close none)) ∧
    (∀ f, putLine e x s = .error f → stepPart gran u k c i p e pl s =
      .next (putPart u k i c s ({ p with out := rest }.fail (nmStatus f).1 (nmStatus f).2) none)) := by
  unfold stepPart
  rw [hr]
  refine ⟨fun t ht => ?_, fun f hf => ?_⟩
  · dsimp only
    rw [ht]
  · dsimp only
    rw [hf]

theorem stepPart_granule {i : Nat} {p : NmPart} {e : Eng} {pl : NmPlan} (hr : p.ready pl = none) :
    let first := p.first + p.pos
    let n := pl.len first (p.count - p.pos)
    (∀ t ev res, gran c e first n s = .ok t ev res →
      stepPart gran u k c i p e pl s = .next (putPart u k i c (nmHealth t c ev) { p with pos := p.pos + n }.close res)) ∧
    (∀ l ev, gran c e first n s = .puts l ev →
      stepPart gran u k c i p e pl s = .next (putPart u k i c (nmHealth s c ev) (p.take s e pl n l) none)) ∧
    (∀ t st d res, gran c e first n s = .bad t st d res → stepPart gran u k c i p e pl s = .next (putPart u k i c t (p.fail st d) res)) := by
  intro first n
  unfold stepPart
  rw [hr]
  refine ⟨fun t ev res hg => ?_, fun l ev hg => ?_, fun t st d res hg => ?_⟩ <;> dsimp only <;> rw [hg]

/-- An instruction that is a step of the commands with its code is their run. -/
theorem nmRuns_of_stepNm {e : Nat → Nat → Instr} {code : Nat} {fl : Nat → Prop}
    (h : ∀ (s : State) (u k : Nat) (c : NmCmd), (s.nmu u)[k]? = some c → nmCode c.word = code → fl (nmFl c.word) →
      exec (e u k) s = stepNm gran u k c s) : NmRuns e code fl gran := by
  intro s u k c hk hc hf
  rw [h s u k c hk hc hf]
  refine ⟨stepNm_waiting, stepNm_notNext, stepNm_noPart, fun en pl hs he hl ho => ?_⟩
  obtain ⟨⟨i, p⟩, hmem, hp⟩ := nextPart_mem ho
  rw [stepNm_part hs hp he hl]
  exact ⟨i, p, hmem, fun x rest hr => stepPart_line hr, stepPart_granule⟩

/-- The instructions without a field FL of their own. -/
theorem nmRuns_of_nmStep {e : Nat → Nat → Instr} {code : Nat} (h : ∀ (s : State) (u k : Nat), exec (e u k) s = nmStep code none gran u k s) :
    NmRuns e code (fun _ => True) gran :=
  nmRuns_of_stepNm (fun s u k _ hk hc _ => (h s u k).trans (nmStep_eq hk hc (by simp)))

end

/-! ### NCNT's three forms (R242) -/

theorem ncntAdd_runs : NmRuns .ncntAdd 9 (fun fl => fl = 0) (fun c e _ _ => cntStep c e (fun old =>
    some ((((old : Int) + (BitVec.ofNat 16 (nmAux c.word)).toInt) % 2 ^ 64).toNat))) :=
  nmRuns_of_stepNm (fun s u k _ hk hc hf => (exec_ncntAdd u k s).trans (nmStep_eq hk hc (by rintro x ⟨⟩; exact hf.symm)))

theorem ncntRead_runs : NmRuns .ncntRead 9 (fun fl => fl = 1) (fun c e _ _ => cntStep c e (fun _ => none)) :=
  nmRuns_of_stepNm (fun s u k _ hk hc hf => (exec_ncntRead u k s).trans (nmStep_eq hk hc (by rintro x ⟨⟩; exact hf.symm)))

theorem ncntWrite_runs : NmRuns .ncntWrite 9 (fun fl => 2 ≤ fl) (fun c e _ _ => cntStep c e (fun _ => some (nmCnt c.word))) := by
  refine nmRuns_of_stepNm (fun s u k c hk hc hf => ?_)
  rw [exec_ncntWrite, execNcntWrite, hk]
  exact (if_neg (Nat.not_lt.mpr hf)).trans (nmStep_eq hk hc (by simp))

/-! ### Completion (R237, R456, R467) -/

section
variable {s : State} {u k : Nat} {c : NmCmd}

/-- A complete command answers its issuer. -/
def answerNm (c : NmCmd) (s : State) : Out :=
  match c.issuer with
  | .warp w h => .next (fillHandle s w h (nmDone c).2)
  | .task addr =>
    if (nmDone c).1 = 0 then
      let s := match ctxStore s c.asid (addr + 0x20) (toBytes 16 (nmDone c).2.toNat) with | .ok s => s | .error _ => s
      match ctxRead s c.asid (addr + 8) 8 with
      | .ok bs => .next (decrementAll s c.asid (ofBytes bs))
      | .error _ => .next s
    else .next (failTask s c.asid addr (nmDone c).1 (nmDone c).2)

/-- A unit's state without a command that has answered. -/
def leftNm (s : State) (u k : Nat) : State := (admitAll (s.setNmu u (dropAt (s.nmu u) k))).bump

theorem nmuCommandComplete_known (h : (s.nmu u)[k]? = some c) (h1 : 1 ≤ nmCode c.word) (h12 : nmCode c.word ≤ 12) :
    exec (.nmuCommandComplete u k) s =
      if !c.started || !c.parts.all (·.ended) then .refused .notEnabled else answerNm c (leftNm s u k) := by
  have hk : decide (nmCode c.word = 0 ∨ 12 < nmCode c.word) = false := decide_eq_false (by omega)
  rw [exec_nmuCommandComplete, execNmuCommandComplete, h]
  dsimp only
  rw [hk]
  simp only [Bool.false_eq_true, if_false, Bool.false_and, Bool.or_false]
  unfold answerNm leftNm
  generalize (admitAll (s.setNmu u (dropAt (s.nmu u) k))).bump = t
  rfl

theorem nmuCommandComplete_unknown (h : (s.nmu u)[k]? = some c) (hk : nmCode c.word = 0 ∨ 12 < nmCode c.word) :
    exec (.nmuCommandComplete u k) s =
      if !nextAt s u c.arrival then .refused .notEnabled else answerNm (c.over 1 0) (leftNm s u k) := by
  rw [exec_nmuCommandComplete, execNmuCommandComplete, h]
  dsimp only
  rw [decide_eq_true hk]
  simp only [if_true, Bool.true_and]
  unfold answerNm leftNm
  generalize (admitAll (s.setNmu u (dropAt (s.nmu u) k))).bump = t
  rfl

theorem answerNm_warp {w : Nat} {h : Word} (hi : c.issuer = .warp w h) : answerNm c s = .next (fillHandle s w h (nmDone c).2) := by
  unfold answerNm
  rw [hi]

theorem answerNm_task {a : Nat} {s1 : State} {bs : List Byte} (hi : c.issuer = .task a)
    (hs : ctxStore s c.asid (a + 0x20) (toBytes 16 (nmDone c).2.toNat) = .ok s1) (hr : ctxRead s1 c.asid (a + 8) 8 = .ok bs) :
    ((nmDone c).1 ≠ 0 →
      answerNm c s = .next (postEvent (parkTasks s1 c.asid (ofBytes bs)) 4 c.asid (toBytes 8 a ++ toBytes 4 (nmDone c).1))) ∧
    ((nmDone c).1 = 0 → answerNm c s = .next (decrementAll s1 c.asid (ofBytes bs))) := by
  unfold answerNm
  rw [hi]
  dsimp only
  refine ⟨fun hd => (if_neg hd).trans ?_, fun hd => (if_pos hd).trans ?_⟩
  · unfold failTask
    rw [hs]
    dsimp only
    rw [hr]
  · rw [hs]
    dsimp only
    rw [hr]

end

theorem close_ended (p : NmPart) : p.close.ended = true ↔ p.out = [] ∧ (p.failed = true ∨ p.count ≤ p.pos) := by simp [NmPart.close]

theorem fail_fields (p : NmPart) (st d : Nat) : (p.fail st d).status = st ∧ (p.fail st d).detail = d ∧ (p.fail st d).out = p.out ∧
    ((p.fail st d).ended = true ↔ p.out = []) :=
  ⟨rfl, rfl, rfl, by simp [NmPart.fail, NmPart.close]⟩

theorem nmDone_failed {c : NmCmd} {p : NmPart} (h : c.parts.find? (fun p => decide (p.status ≠ 0)) = some p) : (nmDone c).1 = p.status := by
  change ((c.parts.find? (fun p => decide (p.status ≠ 0))).map (·.status)).getD 0 = p.status
  rw [h]
  rfl

theorem nmDone_sound {c : NmCmd} (h : ∀ p ∈ c.parts, p.status = 0) : (nmDone c).1 = 0 := by
  change ((c.parts.find? (fun p => decide (p.status ≠ 0))).map (·.status)).getD 0 = 0
  rw [List.find?_eq_none.mpr (fun p hp => by simp [h p hp])]
  rfl

/-! ### What the short commands compute (R225, R241, R242) -/

section
variable {s : State} {c : NmCmd} {e : Eng}

theorem atomicWord_eq {va n : Nat} {a a' : Acc} (f : Nat → Option Nat) (h : engAcc s e .read false va n = .ok a)
    (h' : engAcc s e .write false va n = .ok a') :
    atomicWord s e va n f = .ok (ofBytes (s.bytes a.loc n), (f (ofBytes (s.bytes a.loc n))).map (fun v => homeWrite s a.loc (toBytes n v))) := by
  unfold atomicWord
  rw [h, h']

theorem refStep_cases {a a' : Acc} (h : engAcc s e .read false (nmArg c.word) 4 = .ok a) (h' : engAcc s e .write false (nmArg c.word) 4 = .ok a') :
    let old := ofBytes (s.bytes a.loc 4)
    let v : Int := (old : Int) + (BitVec.ofNat 16 (nmAux c.word)).toInt
    (0 ≤ v → v < 2 ^ 32 →
      refStep c e s = .ok (homeWrite s a.loc (toBytes 4 v.toNat)) Health.none (some (BitVec.ofNat 32 old, BitVec.ofInt 32 v))) ∧
    ((v < 0 ∨ 2 ^ 32 ≤ v) → ∃ x, refStep c e s = .bad s 5 0 x) := by
  intro old v
  unfold refStep
  dsimp only
  rw [atomicWord_eq _ h h']
  refine ⟨fun h0 h1 => ?_, fun hv => ?_⟩
  · have hin : 0 ≤ (ofBytes (s.bytes a.loc 4) : Int) + (BitVec.ofNat 16 (nmAux c.word)).toInt ∧
        (ofBytes (s.bytes a.loc 4) : Int) + (BitVec.ofNat 16 (nmAux c.word)).toInt < 2 ^ 32 := ⟨h0, h1⟩
    have hint : BitVec.ofNat 32 v.toNat = BitVec.ofInt 32 v := by
      rw [← BitVec.ofInt_natCast, Int.toNat_of_nonneg h0]
    rw [← hint]
    simp only [if_pos hin, Option.map, Option.getD] <;> rfl
  · have hout : ¬ (0 ≤ (ofBytes (s.bytes a.loc 4) : Int) + (BitVec.ofNat 16 (nmAux c.word)).toInt ∧
        (ofBytes (s.bytes a.loc 4) : Int) + (BitVec.ofNat 16 (nmAux c.word)).toInt < 2 ^ 32) := by
      rintro ⟨h0, h1⟩
      exact hv.elim (fun h => absurd h0 (not_le.mpr h)) (fun h => absurd h1 (not_lt.mpr h))
    rw [if_neg hout]
    exact ⟨_, rfl⟩

theorem cntStep_eq {a : Acc} (new : Nat → Option Nat) (h : nmAccess s e (nmArg c.word) 8 (nmArgNeeds c.word) = .ok a) :
    let old := ofBytes (s.bytes a.loc 8)
    cntStep c e new s = .ok ((new old).elim s (fun v => homeWrite s a.loc (toBytes 8 v))) Health.none
      (some (BitVec.ofNat 32 old, BitVec.ofNat 32 (old / 2 ^ 32))) := by
  intro old
  unfold cntStep
  rw [h]
  dsimp only
  cases new old <;> rfl

theorem chunkStep_eq {a : Acc} (h : nmAccess s e (nmArg c.word) 16 (nmArgNeeds c.word) = .ok a) :
    let d := chunkDraw (s.bytes a.loc 16)
    chunkStep c e s = .ok (homeWrite s a.loc (toBytes 4 (d.1 + d.2))) Health.none (some (BitVec.ofNat 32 d.1, BitVec.ofNat 32 d.2)) := by
  intro d
  unfold chunkStep
  rw [h]

theorem tagStep_cases {i : Nat} {k : KeySlot} {bs tag : List Byte} (hk : tget s.keys (nmAux c.word) = some k)
    (hb : engSpan s e 512 (nmArg c.word + 65536 * i) 65536 = .ok bs)
    (ht : engSpan s e 2 (nmArg c.word + 65536 * nmCnt c.word + 16 * i) 16 = .ok tag) :
    (chunkTag k.key bs i = tag → tagStep c e i s = .ok s Health.none none) ∧
    (chunkTag k.key bs i ≠ tag → ∃ detail, tagStep c e i s = .bad (postEvent s 1 c.asid detail) 3 i none) := by
  unfold tagStep
  dsimp only
  rw [hk]
  dsimp only
  rw [hb, ht]
  exact ⟨fun h => if_pos h, fun h => ⟨_, if_neg h⟩⟩

theorem fillGranule_plain (i n : Nat) (h : nmFl c.word % 2 = 0) :
    fillGranule c e i n s =
      .puts [bytesPut (nmArg c.word + i) ((List.range n).map (fun k => (toBytes 2 (nmAux c.word)).getD ((i + k) % 2) 0))] Health.none :=
  if_neg (by omega)

theorem redaddGranule_eq {i n : Nat} {xs : List Inp} {ws : List Word}
    (hx : nmRead s e (nmEnd (argAddr c.arg 0) (nmFmt c.word) 0 (nmCnt c.word)) i n = .ok xs)
    (hw : readWords s e (argAddr c.arg 1 + 4 * i) n = .ok ws) :
    redaddGranule c e i n s =
      .puts [wordsPut (argAddr c.arg 1 + 4 * i) ((ws.zip xs).map (fun p => rne32 (Num.add false (numOf p.1) p.2.val)))] Health.none := by
  unfold redaddGranule
  dsimp only
  rw [hx, hw]

end

/-- Settles O55: every command's instruction is `stepNm` of its granules, and the completion answers the issuer. -/
theorem nearMemoryCommands : Obligations.NearMemoryCommands := by
  unfold Obligations.NearMemoryCommands
  refine ⟨nmRuns_of_nmStep fun s u k => exec_nadam u k s, nmRuns_of_nmStep fun s u k => exec_nsgdm u k s,
    nmRuns_of_nmStep fun s u k => exec_nmsearch u k s, nmRuns_of_nmStep fun s u k => exec_nredadd u k s,
    nmRuns_of_nmStep fun s u k => exec_ncopy u k s, nmRuns_of_nmStep fun s u k => exec_nfill u k s,
    nmRuns_of_nmStep fun s u k => exec_ncow u k s, nmRuns_of_nmStep fun s u k => exec_nref u k s, ncntAdd_runs, ncntRead_runs, ncntWrite_runs,
    nmRuns_of_nmStep fun s u k => exec_nchunk u k s, nmRuns_of_nmStep fun s u k => exec_nquant u k s,
    nmRuns_of_nmStep fun s u k => exec_ntagchk u k s, ?completes, ?unknown, close_ended, fail_fields, fun c p => nmDone_failed,
    fun c => nmDone_sound, fun s c e a a' => refStep_cases, fun s c e a new => cntStep_eq new, fun s c e a => chunkStep_eq,
    fun s c e i k bs tag => tagStep_cases, fun s c e i n => fillGranule_plain i n, fun s c e i n xs ws => redaddGranule_eq,
    fun lr b1 b2 eps wd g w0 t m0 v0 => rfl, fun lr mu wd g w0 nest m0 => rfl⟩
  case completes =>
    intro s u k c hk h1 h12
    have heq := nmuCommandComplete_known hk h1 h12
    refine ⟨fun hn => heq.trans (if_pos ?_), fun hs he => ?_⟩
    · obtain hn | ⟨p, hp, hn⟩ := hn
      · simp [hn]
      · rw [List.all_eq_false.mpr ⟨p, hp, by simp [hn]⟩]
        simp
    · have hans := heq.trans (if_neg (by
        rw [List.all_eq_true.mpr he]
        simp [hs]))
      exact ⟨fun w h hi => hans.trans (answerNm_warp hi), fun a s1 hi hst => ⟨fun bs hd hr => hans.trans ((answerNm_task hi hst hr).1 hd),
        fun bs hd hr => hans.trans ((answerNm_task hi hst hr).2 hd)⟩⟩
  case unknown =>
    intro s u k w h c hk hc hi
    have heq := nmuCommandComplete_unknown hk hc
    exact ⟨fun hn => heq.trans ((if_neg (by simp [hn])).trans (answerNm_warp (c := c.over 1 0) hi)),
      fun hn => heq.trans (if_pos (by simp [hn]))⟩

end Sys2Proof.Machine
end


section
/-! SUPPORT. What reaches the device from outside (R446, R505 to R519, R530, R534, R537). -/
namespace Sys2Proof.Machine
open Sys2Proof Sys2Proof.Claims

/-! ### Before and in the run (R534) -/

theorem off_of_inRun {s : State} (h : s.inRun = true) : s.plat.off = false := by
  have := (Bool.and_eq_true_iff.mp h).2
  simpa using this

theorem outside_inRun {s : State} (h : s.inRun = true) (f : State → Out) : outside s f = f s :=
  (if_neg (by simp [off_of_inRun h])).trans (if_pos h)

theorem outside_before {s : State} (h : s.inRun = false) (ho : s.plat.off = false) (f : State → Out) : outside s f = .next s :=
  (if_neg (by simp [ho])).trans (if_neg (by simp [h]))

/-! ### BAR 4 (R506) -/

theorem hostWrite_outside {s : State} (sec : Bool) {a : Nat} {bs : List Byte} (h : a + bs.length ≤ hbmBytes) :
    exec (.hostWrite sec a bs) s = outside s (fun s => .next (hostWrites sec (linePieces (spanLines a bs.length) a bs.length) bs s)) :=
  (exec_hostWrite ..).trans (if_neg (Nat.not_lt.mpr h))

theorem hostRead_inRun {s : State} (hr : s.inRun = true) (sec : Bool) {a n : Nat} (h : a + n ≤ hbmBytes) :
    exec (.hostRead sec a n) s =
      let l := (linePieces (spanLines a n) a n).map (fun p => hostBytes s sec p.1 p.2)
      .next { s with hostIn := ⟨l.flatMap (·.bytes), l.any (·.poisoned)⟩ } := by
  have hgo : ¬ (hbmBytes < a + n ∨ s.plat.off = true) := by simp [off_of_inRun hr, h]
  exact (exec_hostRead ..).trans ((if_neg hgo).trans (if_neg (by simp [hr])))

theorem hostRead_before {s : State} (hr : s.inRun = false) (ho : s.plat.off = false) (sec : Bool) {a n : Nat} (h : a + n ≤ hbmBytes) :
    exec (.hostRead sec a n) s = .next { s with hostIn := ⟨List.replicate n 0xFF, false⟩ } := by
  have hgo : ¬ (hbmBytes < a + n ∨ s.plat.off = true) := by simp [ho, h]
  exact (exec_hostRead ..).trans ((if_neg hgo).trans (if_pos (by simp [hr])))

theorem hostBytes_cases (s : State) (sec : Bool) (a k : Nat) :
    let shut : Prop := inSideRegion s a k = true ∨ (sec = false ∧ meetsSecure s a k = true)
    (shut → hostBytes s sec a k = ⟨List.replicate k 0xFF, false⟩) ∧
    (¬ shut → s.poisoned (.hbm a) k = true → hostBytes s sec a k = ⟨List.replicate k 0xFF, true⟩) ∧
    (¬ shut → s.poisoned (.hbm a) k = false → hostBytes s sec a k = ⟨s.bytes (.hbm a) k, false⟩) := by
  intro shut
  have hiff : shut ↔ (inSideRegion s a k || (!sec && meetsSecure s a k)) = true := by
    simp only [Bool.or_eq_true, Bool.and_eq_true, Bool.not_eq_true', shut]
  exact ⟨fun h => if_pos (hiff.mp h), fun h hp => (if_neg (mt hiff.mpr h)).trans (if_pos hp),
    fun h hp => (if_neg (mt hiff.mpr h)).trans (if_neg (by simp [hp]))⟩

/-! ### Registers (R446, R505, R507, R508) -/

section
variable {s : State} {q : Nat} {v : Word}

theorem queueKick_outside (h : q < 8192) : exec (.queueKick q v) s = outside s (fun s =>
    if (s.queue q).depth < (v - (s.queue q).head).toNat ∨ (s.queue q).depth < (v - (s.queue q).tail).toNat ∨ isBackwater q then
      .next (postEvent s 11 (s.queue q).asid (toBytes 4 q ++ toBytes 4 v.toNat))
    else if (s.queue q).closed then .next s
    else .next (s.modQueue q (fun q => { q with tail := v }))) :=
  (exec_queueKick ..).trans (if_neg (Nat.not_le.mpr h))

theorem queueKick_ignored (hr : s.inRun = true) (hq : q < 8192)
    (h : (s.queue q).depth < (v - (s.queue q).head).toNat ∨ (s.queue q).depth < (v - (s.queue q).tail).toNat ∨ 8184 ≤ q) :
    exec (.queueKick q v) s = .next (postEvent s 11 (s.queue q).asid (toBytes 4 q ++ toBytes 4 v.toNat)) := by
  refine (queueKick_outside hq).trans ((outside_inRun hr _).trans (if_pos ?_))
  simpa [isBackwater] using h

theorem queueKick_taken (hr : s.inRun = true) (hq : q < 8184) (h1 : (v - (s.queue q).head).toNat ≤ (s.queue q).depth)
    (h2 : (v - (s.queue q).tail).toNat ≤ (s.queue q).depth) :
    exec (.queueKick q v) s = .next (if (s.queue q).closed = true then s else s.modQueue q (fun q => { q with tail := v })) := by
  have hgo : ¬ ((s.queue q).depth < (v - (s.queue q).head).toNat ∨ (s.queue q).depth < (v - (s.queue q).tail).toNat ∨ isBackwater q = true) := by
    rintro (h | h | h)
    · exact absurd h1 (Nat.not_le.mpr h)
    · exact absurd h2 (Nat.not_le.mpr h)
    · exact absurd (of_decide_eq_true h) (Nat.not_le.mpr hq)
  refine (queueKick_outside (by omega)).trans ((outside_inRun hr _).trans ((if_neg hgo).trans ?_))
  split <;> rfl

theorem ridxWrite_inRun (hr : s.inRun = true) (v : Word) :
    exec (.ridxWrite v) s = .next (if s.ring.count < (s.ring.widx - v).toNat then s else { s with ring := { s.ring with ridx := v } }) := by
  refine (exec_ridxWrite ..).trans ((outside_inRun hr _).trans ?_)
  split <;> rfl

theorem registerWriteOther_ingress (hr : s.inRun = true) {a : Nat} {bs : List Byte} (h1 : 0x10000 ≤ a) (h2 : a < 0x10200)
    (h3 : a % 32 + bs.length ≤ 24) :
    exec (.registerWriteOther 2 a bs) s = .next (let j := (a - 0x10000) / 32
      { s with ingress := tput s.ingress j (let x := tgetD s.ingress j Ingress.reset; { x with reg := putBytes x.reg (a % 32) bs }) }) := by
  have hin : (decide (2 = 2) && decide (0x10000 ≤ a) && decide (a < 0x10200)) = true := by simp [h1, h2]
  rw [exec_registerWriteOther, execRegisterWriteOther]
  dsimp only
  rw [hin, if_neg (by simp; omega), if_neg (by omega), if_neg (by simp), outside_inRun hr]
  exact if_pos rfl

theorem registerWriteOther_none (hr : s.inRun = true) {a : Nat} (bs : List Byte) (h : 0x10200 ≤ a) :
    exec (.registerWriteOther 2 a bs) s = .next s := by
  have hin : (decide (2 = 2) && decide (0x10000 ≤ a) && decide (a < 0x10200)) = false := by simp; omega
  rw [exec_registerWriteOther, execRegisterWriteOther]
  dsimp only
  rw [hin, if_neg (by simp), if_neg (by omega), if_neg (by simp), outside_inRun hr]
  rfl

/-- A write to the mailboxes' part of BAR 0. -/
theorem registerWriteOther_box (hr : s.inRun = true) {a : Nat} (bs : List Byte) (h : a < 0x2000) :
    exec (.registerWriteOther 0 a bs) s =
      if a < 0x1000 then .next { s with box0 := mailboxWrite s.box0 a bs }
      else .next (if Config.freeBit s.free 3 then { s with box1 := mailboxWrite s.box1 (a - 0x1000) bs } else s).bump := by
  have hin : (decide (0 = 2) && decide (0x10000 ≤ a) && decide (a < 0x10200)) = false := by simp
  rw [exec_registerWriteOther, execRegisterWriteOther]
  dsimp only
  rw [hin, if_neg (by simp), if_neg (by simp), if_neg (by omega), outside_inRun hr]
  by_cases ha : a < 0x1000
  · rw [if_pos ha]
    exact (if_neg (by decide)).trans (if_pos ⟨rfl, ha⟩)
  · rw [if_neg ha]
    exact (if_neg (by decide)).trans ((if_neg (fun hc => ha hc.2)).trans (if_pos ⟨rfl, h⟩))

theorem mailboxWrite_bytes (m : Mailbox) {a : Nat} {bs : List Byte} (h : a + bs.length ≤ 64) :
    mailboxWrite m a bs = { m with bytes := putBytes m.bytes a bs } := if_pos h

theorem registerWriteOther_mailboxes (hr : s.inRun = true) {a : Nat} {bs : List Byte} (h : a + bs.length ≤ 64) (ha : a < 0x40) :
    exec (.registerWriteOther 0 a bs) s = .next { s with box0 := { s.box0 with bytes := putBytes s.box0.bytes a bs } } ∧
    ((exec (.registerWriteOther 0 (0x1000 + a) bs) s = .next { s with box1 := { s.box1 with bytes := putBytes s.box1.bytes a bs } }.bump) ∨
      exec (.registerWriteOther 0 (0x1000 + a) bs) s = .next s.bump) := by
  constructor
  · rw [registerWriteOther_box hr bs (by omega), if_pos (by omega), mailboxWrite_bytes _ h]
  · rw [registerWriteOther_box hr bs (by omega), if_neg (by omega), Nat.add_sub_cancel_left, mailboxWrite_bytes _ h]
    split
    · exact .inl rfl
    · exact .inr rfl

/-- The doorbell of a mailbox. -/
theorem mailboxWrite_bell (m : Mailbox) (v : Word) :
    mailboxWrite m 0x40 (toBytes 4 v.toNat) = if v = 1 ∧ (m.code = 0 ∨ 0x0F < m.code) then { m with bell := 0, status := 1 } else { m with bell := v } := by
  have htake : (toBytes 4 v.toNat).take 4 = toBytes 4 v.toNat := List.take_of_length_le (by simp)
  have hone : v.toNat = 1 ↔ v = 1 := ⟨fun h => BitVec.eq_of_toNat_eq h, fun h => by rw [h]; rfl⟩
  unfold mailboxWrite
  rw [if_neg (by rw [length_toBytes]; decide), if_pos rfl, htake, ofBytes_toBytes_word]
  dsimp only
  rw [BitVec.ofNat_toNat, BitVec.setWidth_eq]
  simp only [hone]

theorem registerWriteOther_bell (hr : s.inRun = true) (v : Word) :
    let none' : Prop := v = 1 ∧ ((s.box0.bytes.extractLsb' 0 8).toNat = 0 ∨ 0x0F < (s.box0.bytes.extractLsb' 0 8).toNat)
    (none' → exec (.registerWriteOther 0 0x40 (toBytes 4 v.toNat)) s = .next { s with box0 := { s.box0 with bell := 0, status := 1 } }) ∧
    (¬ none' → exec (.registerWriteOther 0 0x40 (toBytes 4 v.toNat)) s = .next { s with box0 := { s.box0 with bell := v } }) := by
  intro none'
  rw [registerWriteOther_box hr _ (by decide), if_pos (by decide), mailboxWrite_bell]
  exact ⟨fun h => congrArg (fun m => (.next { s with box0 := m } : Out)) (if_pos h),
    fun h => congrArg (fun m => (.next { s with box0 := m } : Out)) (if_neg h)⟩

end

/-! ### Peers (R509, R510, R515, R516, R530) -/

section
variable {s : State} {r a : Nat}

/-- An access of a peer in the run, at a place of its own size. -/
theorem peerAccess_write (hr : s.inRun = true) (x : Bool) (data : BitVec 1024) (dirty : BitVec 128) (side : BitVec 256) (sdirty : BitVec 13)
    (h1 : r < 64) (h2 : a + 128 ≤ hbmBytes) (h3 : a % 128 = 0) :
    exec (.peerAccess r a ⟨x, .write data dirty side sdirty⟩) s =
      .next (if peerBad s a 128 x (decide (sdirty ≠ 0)) = true then { s with hostIn := ⟨[], false⟩ }
        else writeBackLine s { line := .hbm a, names := [], data := data, dirty := dirty, side := side, sdirty := sdirty }) := by
  have hgo : ¬ ((!s.inRun) = true ∨ hbmBytes < a + 128 ∨ a % 128 ≠ 0 ∨ 64 ≤ r) := by simp [hr, h1, h2, h3]
  refine (exec_peerAccess ..).trans ((if_neg hgo).trans ?_)
  exact (apply_ite (fun t => (.next t : Out)) _ _ _).symm

theorem peerAccess_read (hr : s.inRun = true) (x sc : Bool) (h1 : r < 64) (h2 : a + 128 ≤ hbmBytes) (h3 : a % 128 = 0) :
    exec (.peerAccess r a ⟨x, .read sc⟩) s =
      .next { s with hostIn := if peerBad s a 128 x sc = true then ⟨[], false⟩ else lineOut s (.hbm a) } := by
  have hgo : ¬ ((!s.inRun) = true ∨ hbmBytes < a + 128 ∨ a % 128 ≠ 0 ∨ 64 ≤ r) := by simp [hr, h1, h2, h3]
  refine (exec_peerAccess ..).trans ((if_neg hgo).trans ?_)
  exact (apply_ite (fun h => (.next { s with hostIn := h } : Out)) (peerBad s a 128 x sc = true) _ _).symm

/-- An atomic access of a peer: refused, or performed. -/
theorem peerAccess_atomic (hr : s.inRun = true) (w wide : Bool) (op : AtomOp) (x : DWord) (h1 : r < 64)
    (h2 : a + (if wide then 8 else 4) ≤ hbmBytes) (h3 : a % (if wide then 8 else 4) = 0) :
    exec (.peerAccess r a ⟨w, .atomic op wide x⟩) s =
      .next (if peerBad s a (if wide then 8 else 4) w false = true then { s with hostIn := ⟨[], false⟩ }
        else peerAtomic s a wide (fun old => some (atomNew op wide old x))) := by
  have hgo : ¬ ((!s.inRun) = true ∨ hbmBytes < a + (if wide then 8 else 4) ∨ a % (if wide then 8 else 4) ≠ 0 ∨ 64 ≤ r) := by
    simp only [hr, h3, not_or, Nat.not_lt, Nat.not_le]
    exact ⟨by decide, h2, by decide, h1⟩
  refine (exec_peerAccess ..).trans ((if_neg hgo).trans ?_)
  exact (apply_ite (fun t => (.next t : Out)) _ _ _).symm

theorem peerAccess_compare (hr : s.inRun = true) (w wide : Bool) (x new : DWord) (h1 : r < 64)
    (h2 : a + (if wide then 8 else 4) ≤ hbmBytes) (h3 : a % (if wide then 8 else 4) = 0) :
    exec (.peerAccess r a ⟨w, .compare wide x new⟩) s =
      .next (if peerBad s a (if wide then 8 else 4) w false = true then { s with hostIn := ⟨[], false⟩ }
        else peerAtomic s a wide (fun old => if old = x then some new else none)) := by
  have hgo : ¬ ((!s.inRun) = true ∨ hbmBytes < a + (if wide then 8 else 4) ∨ a % (if wide then 8 else 4) ≠ 0 ∨ 64 ≤ r) := by
    simp only [hr, h3, not_or, Nat.not_lt, Nat.not_le]
    exact ⟨by decide, h2, by decide, h1⟩
  refine (exec_peerAccess ..).trans ((if_neg hgo).trans ?_)
  exact (apply_ite (fun t => (.next t : Out)) _ _ _).symm

theorem peerAtomic_poisoned {wide : Bool} (h : s.poisoned (.hbm a) (if wide then 8 else 4) = true) (f : DWord → Option DWord) :
    peerAtomic s a wide f = { s with hostIn := ⟨List.replicate (if wide then 8 else 4) 0xFF, true⟩ } := if_pos h

theorem peerAtomic_sound {wide : Bool} (h : s.poisoned (.hbm a) (if wide then 8 else 4) = false) (f : DWord → Option DWord) :
    let n := if wide then 8 else 4
    let old := s.bytes (.hbm a) n
    peerAtomic s a wide f =
      { (f (BitVec.ofNat 64 (ofBytes old))).elim s (fun v => homeWrite s (.hbm a) (toBytes n v.toNat)) with hostIn := ⟨old, false⟩ } := by
  intro n old
  refine (if_neg (by simp [h])).trans ?_
  dsimp only
  cases f (BitVec.ofNat 64 (ofBytes (s.bytes (.hbm a) (if wide then 8 else 4)))) <;> rfl

end

theorem elim_ite_some {α β : Type} (p : Prop) [Decidable p] (b : β) (f : α → β) (v : α) :
    (if p then some v else none).elim b f = if p then f v else b := by split <;> rfl

theorem peerAtomic_compare {s : State} {a : Nat} {wide : Bool} (h : s.poisoned (.hbm a) (if wide then 8 else 4) = false) (x new : DWord) :
    let n := if wide then 8 else 4
    let old := s.bytes (.hbm a) n
    peerAtomic s a wide (fun old => if old = x then some new else none) =
      { (if BitVec.ofNat 64 (ofBytes old) = x then homeWrite s (.hbm a) (toBytes n new.toNat) else s) with hostIn := ⟨old, false⟩ } := by
  intro n old
  rw [peerAtomic_sound h]
  dsimp only
  rw [elim_ite_some]

theorem flitReplay_next {s : State} {p : Nat} (hr : s.inRun = true) (hp : p < 16) (hd : tgetD s.ports p false = false) :
    exec (.flitReplay p) s = .next { s with replays := tputD s.replays p 0 (tgetD s.replays p 0 % 16 + 1) } :=
  (exec_flitReplay ..).trans (if_neg (by simp [hr, hp, hd]))

theorem portDown_cases {s : State} {p : Nat} (hr : s.inRun = true) (hp : p < 16) (hd : tgetD s.ports p false = false) :
    (tgetD s.replays p 0 = 16 →
      let t : State := { s with ports := tputD s.ports p false true, replays := tputD s.replays p 0 0 }
      exec (.portDown p) s = .next ((s.groups.filter (fun g => g.2.routes.contains p)).foldl (fun s g => endColls s g.1 1) t).bump) ∧
    (tgetD s.replays p 0 ≠ 16 → exec (.portDown p) s = .refused .notEnabled) :=
  ⟨fun h => (exec_portDown ..).trans (if_neg (by simp [hr, hp, hd, h])),
    fun h => (exec_portDown ..).trans (if_pos (.inr (.inr (.inr h))))⟩

/-! ### Ingress (R517 to R519) -/

theorem ingressDescriptorTrigger_cases {s : State} (hr : s.inRun = true) {j : Nat} {bs : List Byte} (hj : j < 16)
    (hl : bs.length = 8 ∨ bs.length = 32) :
    let t := s.modIngress j (fun x => { x with reg := putBytes x.reg (32 - bs.length) bs })
    let x := t.ingressOf j
    let d := parseIngress x.reg
    let good : Prop := x.bound = true ∧ x.held.length < 16 ∧ d.n ≠ 0 ∧ d.cval.msb = false ∧ d.stg % 65536 = 0 ∧ d.dst % 65536 = 0 ∧ d.cword % 4 = 0
    (good → exec (.ingressDescriptorTrigger j bs) s = .next (t.modIngress j (fun x => { x with held := x.held ++ [d] }))) ∧
    (¬ good → exec (.ingressDescriptorTrigger j bs) s = .next (postEvent t 10 x.asid (toBytes 4 j ++ toBytes 8 d.stg ++ toBytes 8 d.dst))) := by
  intro t x d good
  have heq : exec (.ingressDescriptorTrigger j bs) s =
      if (!x.bound) = true ∨ 16 ≤ x.held.length ∨ d.n = 0 ∨ d.cval.msb = true ∨ d.stg % 65536 ≠ 0 ∨ d.dst % 65536 ≠ 0 ∨ d.cword % 4 ≠ 0 then
        .next (postEvent t 10 x.asid (toBytes 4 j ++ toBytes 8 d.stg ++ toBytes 8 d.dst))
      else .next (t.modIngress j (fun x => { x with held := x.held ++ [d] })) :=
    (exec_ingressDescriptorTrigger ..).trans ((if_neg (by omega)).trans (outside_inRun hr _))
  have hiff : good ↔ ¬ ((!x.bound) = true ∨ 16 ≤ x.held.length ∨ d.n = 0 ∨ d.cval.msb = true ∨ d.stg % 65536 ≠ 0 ∨ d.dst % 65536 ≠ 0 ∨
      d.cword % 4 ≠ 0) := by
    simp only [good, not_or, Bool.not_eq_true', Bool.not_eq_false, Nat.not_le, Bool.not_eq_true, ne_eq, not_not]
  exact ⟨fun h => heq.trans (if_neg (hiff.mp h)), fun h => heq.trans (if_pos (not_not.mp (mt hiff.mpr h)))⟩

section
variable {s : State} {j : Nat} {d : IngressDesc} {r : List IngressDesc}

/-- Bytes of a queue's staging area, where they may be read. -/
def staged (s : State) (x : Ingress) (d : IngressDesc) (world : Bool) (o n : Nat) : Option (List Byte) :=
  if x.size < d.stg + o + n ∨ s.poisoned (.hbm (x.base + d.stg + o)) n = true ∨ (!world && meetsSecure s (x.base + d.stg + o) n) = true then none
  else some (s.bytes (.hbm (x.base + d.stg + o)) n)

/-- Whether a context is secure; none is not. -/
def worldOf (s : State) (asid : Nat) : Bool := match tget s.ctxs asid with | some k => k.world | none => false

theorem worldOf_iff (s : State) (asid : Nat) : worldOf s asid = true ↔ ∃ c, tget s.ctxs asid = some c ∧ c.world = true := by
  unfold worldOf
  cases tget s.ctxs asid <;> simp

/-- Whether bytes of the staging area may be read. -/
def Stageable (s : State) (x : Ingress) (d : IngressDesc) (o n : Nat) : Prop :=
  d.stg + o + n ≤ x.size ∧ s.poisoned (.hbm (x.base + d.stg + o)) n = false ∧
    ((∃ c, tget s.ctxs x.asid = some c ∧ c.world = true) ∨ meetsSecure s (x.base + d.stg + o) n = false)

theorem stageable_iff (s : State) (x : Ingress) (d : IngressDesc) (o n : Nat) :
    Stageable s x d o n ↔ ¬ (x.size < d.stg + o + n ∨ s.poisoned (.hbm (x.base + d.stg + o)) n = true ∨
      (!worldOf s x.asid && meetsSecure s (x.base + d.stg + o) n) = true) := by
  unfold Stageable
  rw [← worldOf_iff]
  cases worldOf s x.asid <;> simp

theorem staged_of_stageable {x : Ingress} {o n : Nat} (h : Stageable s x d o n) :
    staged s x d (worldOf s x.asid) o n = some (s.bytes (.hbm (x.base + d.stg + o)) n) := if_neg ((stageable_iff s x d o n).mp h)

theorem staged_of_not_stageable {x : Ingress} {o n : Nat} (h : ¬ Stageable s x d o n) : staged s x d (worldOf s x.asid) o n = none :=
  if_pos (not_not.mp (mt (stageable_iff s x d o n).mpr h))

/-- A run that ends with event 1 and bit 31 of CVAL. -/
def refusedIngress (s : State) (j : Nat) (d : IngressDesc) (key : Nat) : State :=
  endIngress (postEvent s 1 (s.ingressOf j).asid (toBytes 4 j ++ toBytes 4 (s.ingressOf j).chunk ++ toBytes 4 key ++ toBytes 8 d.dst)) j
    (s.ingressOf j) d true

/-- The key slot of a chunk: a header chunk's is its own. -/
def chunkSlot (x : Ingress) (d : IngressDesc) (bs : List Byte) : Nat := if isHeader d bs then headerKey bs else x.key

/-- Whether a chunk is written: its key may be used, its tag holds, and a header is accepted. -/
def chunkGood (s : State) (x : Ingress) (d : IngressDesc) (bs tag : List Byte) : Bool :=
  keyOk s (chunkSlot x d bs) (worldOf s x.asid) &&
    (match tget s.keys (chunkSlot x d bs) with | some k => decide (chunkTag k.key bs x.chunk = tag) | none => false) &&
    (!isHeader d bs || headerOk bs)

/-- A good chunk written. -/
def chunkWritten (s : State) (j : Nat) (x : Ingress) (d : IngressDesc) (bs : List Byte) : Out :=
  match ctxStore s x.asid (d.dst + 65536 * x.chunk) bs with
  | .error _ => .next (endIngress s j x d true)
  | .ok t =>
    let t := landSlots t x.asid (x.base + d.stg + 65536 * x.chunk) (d.dst + 65536 * x.chunk) 65536
    let t := if isHeader d bs then t.modIngress j (fun x => { x with key := chunkSlot (s.ingressOf j) d bs }) else t
    .next (if x.chunk + 1 = d.n then endIngress t j x d false else t.modIngress j (fun y => { y with chunk := x.chunk + 1 }))

theorem ingressRun_eq (hr : s.inRun = true) (hh : (s.ingressOf j).held = d :: r) :
    exec (.ingressRun j) s =
      match staged s (s.ingressOf j) d (worldOf s (s.ingressOf j).asid) (65536 * (s.ingressOf j).chunk) 65536,
        staged s (s.ingressOf j) d (worldOf s (s.ingressOf j).asid) (65536 * d.n + 16 * (s.ingressOf j).chunk) 16 with
      | some bs, some tag =>
        if chunkGood s (s.ingressOf j) d bs tag then chunkWritten s j (s.ingressOf j) d bs
        else .next (refusedIngress s j d (chunkSlot (s.ingressOf j) d bs))
      | _, _ => .next (refusedIngress s j d (s.ingressOf j).key) := by
  rw [exec_ingressRun, execIngressRun]
  dsimp only
  rw [hh]
  refine (if_neg (by simp [hr])).trans ?_
  rfl

theorem ingressRun_unread (hr : s.inRun = true) (hh : (s.ingressOf j).held = d :: r)
    (h : ¬ Stageable s (s.ingressOf j) d (65536 * (s.ingressOf j).chunk) 65536 ∨
      ¬ Stageable s (s.ingressOf j) d (65536 * d.n + 16 * (s.ingressOf j).chunk) 16) :
    exec (.ingressRun j) s = .next (refusedIngress s j d (s.ingressOf j).key) := by
  rw [ingressRun_eq hr hh]
  obtain h | h := h
  · rw [staged_of_not_stageable h]
  · rw [staged_of_not_stageable h]
    split
    · next he => cases he
    · rfl

theorem ingressRun_read (hr : s.inRun = true) (hh : (s.ingressOf j).held = d :: r)
    (h1 : Stageable s (s.ingressOf j) d (65536 * (s.ingressOf j).chunk) 65536)
    (h2 : Stageable s (s.ingressOf j) d (65536 * d.n + 16 * (s.ingressOf j).chunk) 16) :
    let x := s.ingressOf j
    let bs := s.bytes (.hbm (x.base + d.stg + 65536 * x.chunk)) 65536
    let tag := s.bytes (.hbm (x.base + d.stg + (65536 * d.n + 16 * x.chunk))) 16
    exec (.ingressRun j) s = if chunkGood s x d bs tag then chunkWritten s j x d bs else .next (refusedIngress s j d (chunkSlot x d bs)) := by
  intro x bs tag
  rw [ingressRun_eq hr hh, staged_of_stageable h1, staged_of_stageable h2]

end

section
variable {s : State} {x : Ingress} {d : IngressDesc} {bs tag : List Byte}

theorem chunkGood_of_holds {k : KeySlot} {c : Context} (hc : tget s.ctxs x.asid = some c) (hko : keyOk s (chunkSlot x d bs) c.world = true)
    (hk : tget s.keys (chunkSlot x d bs) = some k) (ht : chunkTag k.key bs x.chunk = tag) (hh : isHeader d bs = true → headerOk bs = true) :
    chunkGood s x d bs tag = true := by
  have hw : worldOf s x.asid = c.world := by rw [worldOf, hc]
  unfold chunkGood
  rw [hw, hko, hk]
  dsimp only
  rw [decide_eq_true ht, Bool.true_and, Bool.true_and]
  cases hd : isHeader d bs
  · rfl
  · simp [hh hd]

theorem chunkGood_of_differs (h : ∀ k, tget s.keys (chunkSlot x d bs) = some k → chunkTag k.key bs x.chunk ≠ tag) :
    chunkGood s x d bs tag = false := by
  unfold chunkGood
  cases hk : tget s.keys (chunkSlot x d bs) with
  | none => simp
  | some k => simp [h k hk]

end

section
variable {s : State} {j : Nat} {d : IngressDesc} {r : List IngressDesc}

theorem ingressRun_writes (hr : s.inRun = true) (hh : (s.ingressOf j).held = d :: r)
    (h1 : Stageable s (s.ingressOf j) d (65536 * (s.ingressOf j).chunk) 65536)
    (h2 : Stageable s (s.ingressOf j) d (65536 * d.n + 16 * (s.ingressOf j).chunk) 16) {k : KeySlot} {c : Context} {t : State} :
    let x := s.ingressOf j
    let i := x.chunk
    let at' (o : Nat) : Nat := x.base + d.stg + o
    let bs := s.bytes (.hbm (at' (65536 * i))) 65536
    let tag := s.bytes (.hbm (at' (65536 * d.n + 16 * i))) 16
    let slot := if isHeader d bs then headerKey bs else x.key
    tget s.ctxs x.asid = some c → keyOk s slot c.world = true → tget s.keys slot = some k → chunkTag k.key bs i = tag →
      (isHeader d bs = true → headerOk bs = true) → ctxStore s x.asid (d.dst + 65536 * i) bs = .ok t →
      let t1 := landSlots t x.asid (at' (65536 * i)) (d.dst + 65536 * i) 65536
      let u := if isHeader d bs then t1.modIngress j (fun x => { x with key := slot }) else t1
      exec (.ingressRun j) s = .next (if i + 1 = d.n then endIngress u j x d false else u.modIngress j (fun x => { x with chunk := i + 1 })) := by
  intro x i at' bs tag slot hc hko hk ht hhd hst t1 u
  have hgood : chunkGood s x d bs tag = true := chunkGood_of_holds hc hko hk ht hhd
  have heq : exec (.ingressRun j) s = chunkWritten s j x d bs := (ingressRun_read hr hh h1 h2).trans (if_pos hgood)
  rw [heq, chunkWritten, show ctxStore s x.asid (d.dst + 65536 * x.chunk) bs = .ok t from hst]
  rfl

theorem ingressRun_differs (hr : s.inRun = true) (hh : (s.ingressOf j).held = d :: r)
    (h1 : Stageable s (s.ingressOf j) d (65536 * (s.ingressOf j).chunk) 65536)
    (h2 : Stageable s (s.ingressOf j) d (65536 * d.n + 16 * (s.ingressOf j).chunk) 16) :
    let x := s.ingressOf j
    let i := x.chunk
    let at' (o : Nat) : Nat := x.base + d.stg + o
    let bs := s.bytes (.hbm (at' (65536 * i))) 65536
    let tag := s.bytes (.hbm (at' (65536 * d.n + 16 * i))) 16
    let slot := if isHeader d bs then headerKey bs else x.key
    (∀ k, tget s.keys slot = some k → chunkTag k.key bs i ≠ tag) → exec (.ingressRun j) s = .next (refusedIngress s j d slot) := by
  intro x i at' bs tag slot hk
  have hbad : chunkGood s x d bs tag = false := chunkGood_of_differs hk
  exact (ingressRun_read hr hh h1 h2).trans (if_neg (by rw [hbad]; decide))

end

/-- Settles O56: each way from outside by its own lemma, in the run by `outside_inRun` and before it by `outside_before`. -/
theorem outsideAccesses : Obligations.OutsideAccesses := by
  unfold Obligations.OutsideAccesses
  refine ⟨fun s hr => ⟨?writes, fun sec a n h => hostRead_inRun hr sec h, ?kicks, ?backwater, ridxWrite_inRun hr,
    fun a bs => registerWriteOther_ingress hr, fun a bs => registerWriteOther_mailboxes hr, registerWriteOther_bell hr,
    fun a bs => registerWriteOther_none hr bs, fun r a x data dirty side sdirty => peerAccess_write hr x data dirty side sdirty,
    fun r a x sc => peerAccess_read hr x sc, ?atomics, fun p hp hd => ⟨flitReplay_next hr hp hd, portDown_cases hr hp hd⟩,
    fun j bs => ingressDescriptorTrigger_cases hr, ?ingress⟩, ?before, hostBytes_cases, fun s sec a k r bs => rfl⟩
  case writes => exact fun sec a bs h => (hostWrite_outside sec h).trans (outside_inRun hr _)
  case kicks =>
    exact fun q v hq => ⟨fun h => queueKick_ignored hr (by omega) (h.imp_right .inl), queueKick_taken hr hq⟩
  case backwater => exact fun q v h1 h2 => queueKick_ignored hr h2 (.inr (.inr h1))
  case atomics =>
    intro r a w wide op x new h1 h2 h3
    rw [peerAccess_atomic hr w wide op x h1 h2 h3, peerAccess_compare hr w wide x new h1 h2 h3]
    refine ⟨fun hp => ?_, fun hp => ?_⟩
    · rw [peerAtomic_poisoned hp, peerAtomic_poisoned hp]
      exact ⟨rfl, rfl⟩
    · rw [peerAtomic_sound hp, peerAtomic_compare hp]
      exact ⟨rfl, rfl⟩
  case ingress =>
    intro j d r hh
    exact ⟨fun h1 h2 => ⟨fun k c t => ingressRun_writes hr hh h1 h2, ingressRun_differs hr hh h1 h2⟩, ingressRun_unread hr hh⟩
  case before =>
    intro s hr ho
    exact ⟨fun sec a bs h => (hostWrite_outside sec h).trans (outside_before hr ho _), fun sec a n h => hostRead_before hr ho sec h,
      fun q v hq => (queueKick_outside hq).trans (outside_before hr ho _), fun v => (exec_ridxWrite ..).trans (outside_before hr ho _)⟩

end Sys2Proof.Machine
end


section
/-! SUPPORT. Control commands (R445, R447, R451, R455, R458, R507, R508, R511, R519, R525, R538, R540). -/
namespace Sys2Proof.Machine
open Sys2Proof Sys2Proof.Claims

/-! ### A command and its mailbox (R507) -/

section
variable {s t : State} {sec : Bool} {code n : Nat} {i : Instr} {holds : Mailbox → Bool} {f : State → State × Nat}

/-- A command whose operands its mailbox holds answers what its function gives. -/
theorem answers_of_commandOf (hr : s.inRun = true) (hi : exec i s = commandOf sec code holds s f) (hh : holds (s.box sec) = true)
    (hf : f s = (t, n)) : Answers i code sec s t (BitVec.ofNat 32 n) := by
  intro hb hc
  have hgo : ¬ ((s.box sec).bell ≠ 1 ∨ (s.box sec).code ≠ code ∨ holds (s.box sec) = false) := by
    rw [hh]
    rintro (h | h | h)
    · exact h hb
    · exact h hc
    · cases h
  have hout := (outside_inRun hr (fun s =>
    let m := s.box sec
    if m.bell ≠ 1 ∨ m.code ≠ code ∨ holds m = false then .refused .notEnabled
    else
      let (s, st) := f s
      let done (m : Mailbox) : Mailbox := { m with bell := 0, status := BitVec.ofNat 32 st }
      .next (if sec then { s with box1 := done s.box1 } else { s with box0 := done s.box0 }))).trans (if_neg hgo)
  refine hi.trans (hout.trans ?_)
  rw [hf]

theorem answers_of_command (hr : s.inRun = true) (hi : exec i s = command sec code s f) (hf : f s = (t, n)) :
    Answers i code sec s t (BitVec.ofNat 32 n) := answers_of_commandOf hr hi rfl hf

/-- A command that its mailbox does not hold is not executed. -/
theorem commandOf_unheld (hr : s.inRun = true) (h : (s.box sec).bell ≠ 1 ∨ (s.box sec).code ≠ code) :
    commandOf sec code holds s f = .refused .notEnabled :=
  (outside_inRun hr _).trans (if_pos (h.imp_right .inl))

theorem command_unheld (hr : s.inRun = true) (h : (s.box sec).bell ≠ 1 ∨ (s.box sec).code ≠ code) :
    command sec code s f = .refused .notEnabled := commandOf_unheld hr h

end

theorem mayName_none {s : State} {a : Nat} (sec : Bool) (h : tget s.ctxs a = none) : mayName s sec a = true := by
  unfold mayName
  rw [h]
  exact Bool.or_true sec

theorem mayName_some {s : State} {a : Nat} {x : Context} (sec : Bool) (h : tget s.ctxs a = some x) : mayName s sec a = (sec || !x.world) := by
  unfold mayName
  rw [h]

theorem mayName_known {s : State} {a : Nat} {x : Context} {sec : Bool} (h : tget s.ctxs a = some x) (hw : x.world = true → sec = true) :
    mayName s sec a = true := by
  rw [mayName_some sec h]
  cases hx : x.world
  · simp
  · simp [hw hx]

theorem mayQueue_iff (s : State) (sec : Bool) (q : Nat) : mayQueue s sec q = true ↔ sec = true ∨ (s.queue q).world = false := by simp [mayQueue]

theorem isPow2_iff (n : Nat) : isPow2 n = true ↔ ∃ k, n = 2 ^ k := by
  unfold isPow2
  rw [Bool.and_eq_true, decide_eq_true_eq, decide_eq_true_eq]
  constructor
  · exact fun ⟨_, h⟩ => ⟨_, h.symm⟩
  · rintro ⟨k, rfl⟩
    exact ⟨(Nat.two_pow_pos k).ne', by rw [Nat.log2_two_pow]⟩

/-! ### A command that no mailbox holds -/

theorem mailCode_commands {s : State} {i : Instr} {sec : Bool} {code : Nat} (h : mailCode i = some (sec, code)) (hr : s.inRun = true)
    (hm : (s.box sec).bell ≠ 1 ∨ (s.box sec).code ≠ code) : exec i s = .refused .notEnabled := by
  cases i <;> cases h
  case destroyContext =>
    rw [exec_destroyContext, execDestroyContext]
    split
    · rfl
    · exact command_unheld hr hm
  case createContext =>
    rw [exec_createContext, execCreateContext]
    exact command_unheld hr hm
  case invalidate =>
    rw [exec_invalidate, execInvalidate]
    exact command_unheld hr hm
  case bindQueue =>
    rw [exec_bindQueue, execBindQueue]
    exact command_unheld hr hm
  case setTickets =>
    rw [exec_setTickets, execSetTickets]
    exact command_unheld hr hm
  case closeItemQueue =>
    rw [exec_closeItemQueue, execCloseItemQueue, itemCommand]
    exact command_unheld hr hm
  case openItemQueue =>
    rw [exec_openItemQueue, execOpenItemQueue, itemCommand]
    exact command_unheld hr hm
  case preEmpt =>
    rw [exec_preEmpt, execPreEmpt]
    exact command_unheld hr hm
  case taskRelease =>
    rw [exec_taskRelease, execTaskRelease]
    exact command_unheld hr hm
  case taskRemoval =>
    rw [exec_taskRemoval, execTaskRemoval]
    exact command_unheld hr hm
  case acknowledgeFault =>
    rw [exec_acknowledgeFault, execAcknowledgeFault]
    exact command_unheld hr hm
  case setLaunchGroup =>
    rw [exec_setLaunchGroup, execSetLaunchGroup]
    exact command_unheld hr hm
  case installKey =>
    rw [exec_installKey, execInstallKey]
    exact command_unheld hr hm
  case bindIngressQueue =>
    rw [exec_bindIngressQueue, execBindIngressQueue]
    exact command_unheld hr hm
  case setEventRing =>
    rw [exec_setEventRing, execSetEventRing]
    exact command_unheld hr hm
  case attestation =>
    rw [exec_attestation, execAttestation]
    exact commandOf_unheld hr hm
  case setPowerLimit =>
    rw [exec_setPowerLimit, execSetPowerLimit]
    exact commandOf_unheld hr hm

/-! ### Contexts (R470, R476, R485, R532) -/

section
variable {s : State} {sec : Bool}

theorem clearPool_eq (s : State) (x : Context) :
    clearPool s x = (List.range 9).foldl (fun s k => if 32768 * k + 64 ≤ x.poolSize then
      homeWrite s (.hbm (x.poolBase + 32768 * k)) (List.replicate 64 0) else s) s := by
  unfold clearPool
  exact List.foldl_map

theorem createContext_answers (hr : s.inRun = true) (asid : BitVec 16) (world : Bool) (troot tvec pool size : DWord) :
    let fields : Prop := troot.toNat % 65536 = 0 ∧ troot.toNat < 2 ^ 52 ∧ pool.toNat % 65536 = 0 ∧ pool.toNat + size.toNat ≤ hbmBytes
    let x : Context := ⟨world, troot.toNat, tvec &&& 0xFFFFFFFFFFFFE000, pool.toNat, size.toNat, 0, 0, 0, [], []⟩
    let i : Instr := .createContext sec asid world troot tvec pool size
    let barred : Prop := sec = false ∧ (world = true ∨ ∃ y, tget s.ctxs asid.toNat = some y ∧ y.world = true)
    (barred → Answers i 0x01 sec s s 2) ∧
    (¬ barred → (¬ fields → Answers i 0x01 sec s s 1) ∧
      (fields → (tget s.ctxs asid.toNat ≠ none → Answers i 0x01 sec s s 3) ∧
        (tget s.ctxs asid.toNat = none → Answers i 0x01 sec s ((List.range 9).foldl (fun s k => if 32768 * k + 64 ≤ x.poolSize then
          homeWrite s (.hbm (x.poolBase + 32768 * k)) (List.replicate 64 0) else s) { s with ctxs := tput s.ctxs asid.toNat x }) 0))) := by
  intro fields x i barred
  have hbar : barred ↔ ((world && !sec) || !mayName s sec asid.toNat) = true := by
    simp only [barred]
    cases hg : tget s.ctxs asid.toNat with
    | none =>
      rw [mayName_none sec hg]
      cases sec <;> cases world <;> simp
    | some y =>
      rw [mayName_some sec hg]
      cases sec <;> cases world <;> simp
  have hfields : fields ↔ ¬ (troot.toNat % 65536 ≠ 0 ∨ 2 ^ 52 ≤ troot.toNat ∨ pool.toNat % 65536 ≠ 0 ∨ hbmBytes < pool.toNat + size.toNat) := by
    simp only [fields, not_or, not_not, Nat.not_le, Nat.not_lt, ne_eq]
  refine ⟨fun hb => ?_, fun hb => ⟨fun hf => ?_, fun hf => ⟨fun hg => ?_, fun hg => ?_⟩⟩⟩
  · exact answers_of_command hr (n := 2) (exec_createContext ..) (if_pos (hbar.mp hb))
  · exact answers_of_command hr (n := 1) (exec_createContext ..)
      ((if_neg (mt hbar.mpr hb)).trans (if_pos (not_not.mp (mt hfields.mpr hf))))
  · exact answers_of_command hr (n := 3) (exec_createContext ..)
      ((if_neg (mt hbar.mpr hb)).trans ((if_neg (hfields.mp hf)).trans (if_pos (Option.isSome_iff_ne_none.mpr hg))))
  · exact answers_of_command hr (n := 0) (exec_createContext ..)
      ((if_neg (mt hbar.mpr hb)).trans ((if_neg (hfields.mp hf)).trans ((if_neg (by simp [hg])).trans
        (congrArg (fun t => (t, 0)) (clearPool_eq { s with ctxs := tput s.ctxs asid.toNat x } x)))))

/-- What holds a context (R470, R515): near-memory commands and collectives. -/
def CtxHeld (s : State) (a : Nat) : Prop :=
  (∃ u ∈ s.nmus, ∃ c ∈ u.2, c.asid = a) ∨ (∃ q ∈ s.flioc.sends, q.2.asid = a) ∨ ∃ d ∈ s.dies, ∃ c ∈ d.2.colls, c.asid = a

theorem ctxHeld_iff (s : State) (a : Nat) :
    CtxHeld s a ↔ (s.nmus.any (fun u => u.2.any (fun c => decide (c.asid = a))) || s.flioc.sends.any (fun q => decide (q.2.asid = a)) ||
      s.dies.any (fun d => d.2.colls.any (fun c => decide (c.asid = a)))) = true := by
  unfold CtxHeld
  simp only [Bool.or_eq_true, List.any_eq_true, decide_eq_true_eq, or_assoc]

/-- A context that is not held away from its command. -/
theorem destroyContext_command {asid : BitVec 16}
    (h : ¬ ((tget s.ctxs asid.toNat).isSome = true ∧ mayName s sec asid.toNat = true ∧ CtxHeld s asid.toNat)) :
    exec (.destroyContext sec asid) s = command sec 0x02 s (fun s =>
      if (tget s.ctxs asid.toNat).isNone then (s, 1)
      else if !mayName s sec asid.toNat then (s, 2)
      else if s.launches.any (fun l => decide (l.2.asid = asid.toNat) && decide (l.2.state ≠ .ended)) then (s, 3)
      else (forgetContext s asid.toNat, 0)) := by
  refine (exec_destroyContext ..).trans (if_neg (fun hc => h ?_))
  obtain ⟨hc, hw⟩ := Bool.and_eq_true_iff.mp hc
  obtain ⟨hc, hn⟩ := Bool.and_eq_true_iff.mp hc
  exact ⟨(Bool.and_eq_true_iff.mp hc).2, hn, (ctxHeld_iff s asid.toNat).mpr hw⟩

theorem destroyContext_unknown (hr : s.inRun = true) {asid : BitVec 16} (h : tget s.ctxs asid.toNat = none) :
    Answers (.destroyContext sec asid) 0x02 sec s s 1 :=
  answers_of_command hr (n := 1) (destroyContext_command (by simp [h])) (if_pos (by simp [h]))

theorem destroyContext_known (hr : s.inRun = true) {asid : BitVec 16} {x : Context} (h : tget s.ctxs asid.toNat = some x) :
    let live : Prop := ∃ l ∈ s.launches, l.2.asid = asid.toNat ∧ l.2.state ≠ .ended
    (x.world = true → sec = false → Answers (.destroyContext sec asid) 0x02 sec s s 2) ∧
    ((x.world = true → sec = true) → (CtxHeld s asid.toNat → exec (.destroyContext sec asid) s = .refused .notEnabled) ∧
      (¬ CtxHeld s asid.toNat → (live → Answers (.destroyContext sec asid) 0x02 sec s s 3) ∧
        (¬ live → Answers (.destroyContext sec asid) 0x02 sec s (forgetContext s asid.toNat) 0))) := by
  intro live
  have hlive : live ↔ s.launches.any (fun l => decide (l.2.asid = asid.toNat) && decide (l.2.state ≠ .ended)) = true := by
    simp only [live, List.any_eq_true, Bool.and_eq_true, decide_eq_true_eq]
  have hsome : ¬ (tget s.ctxs asid.toNat).isNone = true := by simp [h]
  refine ⟨fun hw hs => ?_, fun hw => ⟨fun hh => ?_, fun hh => ⟨fun hl => ?_, fun hl => ?_⟩⟩⟩
  · have hn : mayName s sec asid.toNat = false := by rw [mayName_some sec h, hw, hs]; rfl
    exact answers_of_command hr (n := 2) (destroyContext_command (by simp [hn])) ((if_neg hsome).trans (if_pos (by simp [hn])))
  · refine (exec_destroyContext ..).trans (if_pos ?_)
    rw [hr, h, mayName_known h hw, (ctxHeld_iff s asid.toNat).mp hh]
    rfl
  · exact answers_of_command hr (n := 3) (destroyContext_command (fun hc => hh hc.2.2))
      ((if_neg hsome).trans ((if_neg (by simp [mayName_known h hw])).trans (if_pos (hlive.mp hl))))
  · exact answers_of_command hr (n := 0) (destroyContext_command (fun hc => hh hc.2.2))
      ((if_neg hsome).trans ((if_neg (by simp [mayName_known h hw])).trans (if_neg (mt hlive.mpr hl))))

theorem invalidate_answers (hr : s.inRun = true) (asid : BitVec 16) (base len : DWord) :
    (tget s.ctxs asid.toNat = none → Answers (.invalidate sec asid base len) 0x05 sec s s 1) ∧
    (∀ x, tget s.ctxs asid.toNat = some x → (x.world = true → sec = false → Answers (.invalidate sec asid base len) 0x05 sec s s 2) ∧
      ((x.world = true → sec = true) →
        Answers (.invalidate sec asid base len) 0x05 sec s (invalidateRange s asid.toNat base.toNat (base.toNat + len.toNat)) 0)) := by
  refine ⟨fun h => ?_, fun x h => ⟨fun hw hs => ?_, fun hw => ?_⟩⟩
  · exact answers_of_command hr (n := 1) (exec_invalidate ..) (if_pos (by simp [h]))
  · exact answers_of_command hr (n := 2) (exec_invalidate ..)
      ((if_neg (by simp [h])).trans (if_pos (by rw [mayName_some sec h, hw, hs]; rfl)))
  · exact answers_of_command hr (n := 0) (exec_invalidate ..)
      ((if_neg (by simp [h])).trans (if_neg (by simp [mayName_known h hw])))

/-! ### Queues (R445, R447, R451) -/

theorem bindQueue_answers (hr : s.inRun = true) {q : Nat} {asid : BitVec 16} {item : Bool} {ring : DWord} {depth cls tkt group : Nat} {x : Context}
    (hx : tget s.ctxs asid.toNat = some x) (hq : q < 8184) :
    let i : Instr := .bindQueue sec q asid item ring depth cls tkt group
    let fields : Prop := ring.toNat % 8 = 0 ∧ ring.toNat < 2 ^ 52 ∧ (∃ n, n ≤ 12 ∧ depth = 2 ^ n) ∧ cls ≤ 4 ∧ 1 ≤ tkt ∧ tkt ≤ 65535 ∧
      (group = 0 ∨ tget s.groups group ≠ none)
    let busy : Prop := (s.queue q).fill ≠ 0 ∨ ∃ l ∈ s.launches, l.2.queue = q ∧ l.2.state ≠ .ended
    let y : Queue := { Queue.reset with bound := true, ring := ring.toNat, depth := depth, asid := asid.toNat, world := x.world, cls := cls,
                                        tkt := tkt, item := item, group := group }
    (sec = false → (x.world = true ∨ (s.queue q).world = true) → Answers i 0x03 sec s s 2) ∧
    ((sec = true ∨ (x.world = false ∧ (s.queue q).world = false)) → (¬ fields → Answers i 0x03 sec s s 1) ∧
      (fields → (busy → Answers i 0x03 sec s s 3) ∧ (¬ busy → Answers i 0x03 sec s (s.modQueue q (fun _ => y)) 0))) := by
  intro i fields busy y
  have hpow : (∃ n, n ≤ 12 ∧ depth = 2 ^ n) ↔ isPow2 depth = true ∧ depth ≤ 4096 := by
    rw [isPow2_iff]
    constructor
    · rintro ⟨n, hn, rfl⟩
      exact ⟨⟨n, rfl⟩, Nat.pow_le_pow_right (by decide) hn⟩
    · rintro ⟨⟨n, rfl⟩, hn⟩
      exact ⟨n, (Nat.pow_le_pow_iff_right (by decide : 1 < 2)).mp (show 2 ^ n ≤ 2 ^ 12 from hn), rfl⟩
  have hfields : fields ↔ ¬ (ring.toNat % 8 ≠ 0 ∨ 2 ^ 52 ≤ ring.toNat ∨ (!isPow2 depth) = true ∨ 4096 < depth ∨ 4 < cls ∨ tkt = 0 ∨ 65535 < tkt ∨
      (group ≠ 0 ∧ (tget s.groups group).isNone = true)) := by
    simp only [fields, hpow, not_or, not_not, not_and_or, Nat.not_le, Nat.not_lt, ne_eq, Bool.not_eq_true', Bool.not_eq_false, and_assoc,
      Nat.one_le_iff_ne_zero, Option.isNone_iff_eq_none]
  have hbusy : busy ↔ ((s.queue q).fill ≠ 0 ∨ s.launches.any (fun l => decide (l.2.queue = q) && decide (l.2.state ≠ .ended)) = true) := by
    simp only [busy, List.any_eq_true, Bool.and_eq_true, decide_eq_true_eq]
  refine ⟨fun hs hw => ?_, fun hw => ?_⟩
  · refine answers_of_command hr (n := 2) (exec_bindQueue ..) (if_pos ?_)
    rw [mayName_some sec hx, mayQueue, hs]
    obtain hw | hw := hw <;> simp [hw]
  · have hgo : ¬ ((!mayName s sec asid.toNat || !mayQueue s sec q) = true) := by
      rw [mayName_some sec hx, mayQueue]
      obtain hw | ⟨hw, hw'⟩ := hw
      · simp [hw]
      · simp [hw, hw']
    have known {g : Context → State × Nat} {d : State × Nat} : (match tget s.ctxs asid.toNat with | none => d | some x => g x) = g x := by rw [hx]
    refine ⟨fun hf => ?_, fun hf => ⟨fun hb => ?_, fun hb => ?_⟩⟩
    · exact answers_of_command hr (n := 1) (exec_bindQueue ..) ((if_neg hgo).trans (known.trans ((if_neg (by omega)).trans
        (if_pos (not_not.mp (mt hfields.mpr hf))))))
    · exact answers_of_command hr (n := 3) (exec_bindQueue ..) ((if_neg hgo).trans (known.trans ((if_neg (by omega)).trans
        ((if_neg (hfields.mp hf)).trans (if_pos (hbusy.mp hb))))))
    · exact answers_of_command hr (n := 0) (exec_bindQueue ..) ((if_neg hgo).trans (known.trans ((if_neg (by omega)).trans
        ((if_neg (hfields.mp hf)).trans (if_neg (mt hbusy.mpr hb))))))

section
variable {q tkt : Nat}

theorem setTickets_sets (hr : s.inRun = true) (hq : q < 8192) (hb : (s.queue q).bound = true) (hi : (s.queue q).item = false) (h1 : 1 ≤ tkt)
    (h2 : tkt ≤ 65535) :
    let v := classTime s (s.queue q).cls
    (sec = true ∨ (s.queue q).world = false) → Answers (.setTickets sec q tkt) 0x04 sec s (s.modQueue q (fun q =>
      { q with tkt := tkt, pass := v + (q.pass - v) * (2 ^ 24 / max 1 tkt) / (2 ^ 24 / max 1 q.tkt) })) 0 := by
  intro v hw
  have hgo : ¬ (8192 ≤ q ∨ (!(s.queue q).bound) = true ∨ (s.queue q).item = true ∨ tkt = 0 ∨ 65535 < tkt) := by
    simp only [hb, hi, Bool.not_true, Bool.false_eq_true, false_or]
    omega
  exact answers_of_command hr (n := 0) (exec_setTickets ..) ((if_neg (by simp [(mayQueue_iff s sec q).mpr hw])).trans (if_neg hgo))

theorem not_mayQueue (hs : sec = false) (hw : (s.queue q).world = true) : (!mayQueue s sec q) = true := by simp [mayQueue, hs, hw]

theorem setTickets_barred (hr : s.inRun = true) (hs : sec = false) (hw : (s.queue q).world = true) : Answers (.setTickets sec q tkt) 0x04 sec s s 2 :=
  answers_of_command hr (n := 2) (exec_setTickets ..) (if_pos (not_mayQueue hs hw))

theorem setTickets_refused (hr : s.inRun = true) (hw : sec = true ∨ (s.queue q).world = false)
    (h : 8192 ≤ q ∨ (s.queue q).bound = false ∨ (s.queue q).item = true ∨ tkt = 0 ∨ 65535 < tkt) :
    Answers (.setTickets sec q tkt) 0x04 sec s s 1 :=
  answers_of_command hr (n := 1) (exec_setTickets ..) ((if_neg (by simp [(mayQueue_iff s sec q).mpr hw])).trans (if_pos (by simpa using h)))

/-- The command that closes or opens an item queue. -/
theorem itemCommand_answers (hr : s.inRun = true) {i : Instr} {closed : Bool} (hi : exec i s = itemCommand sec q closed s) :
    (sec = false → (s.queue q).world = true → Answers i 0x0F sec s s 2) ∧
    ((sec = true ∨ (s.queue q).world = false) → (8192 ≤ q ∨ (s.queue q).bound = false ∨ (s.queue q).item = false) → Answers i 0x0F sec s s 1) ∧
    (q < 8192 → (s.queue q).bound = true → (s.queue q).item = true → (sec = true ∨ (s.queue q).world = false) →
      Answers i 0x0F sec s (s.modQueue q (fun q => { q with closed := closed })) 0) := by
  refine ⟨fun hs hw => ?_, fun hw h => ?_, fun hq hb hit hw => ?_⟩
  · exact answers_of_command hr (n := 2) hi (if_pos (not_mayQueue hs hw))
  · exact answers_of_command hr (n := 1) hi ((if_neg (by simp [(mayQueue_iff s sec q).mpr hw])).trans (if_pos (by simpa using h)))
  · have hgo : ¬ (8192 ≤ q ∨ (!(s.queue q).bound) = true ∨ (!(s.queue q).item) = true) := by
      simp only [hb, hit, Bool.not_true, Bool.false_eq_true, or_false]
      omega
    exact answers_of_command hr (n := 0) hi ((if_neg (by simp [(mayQueue_iff s sec q).mpr hw])).trans (if_neg hgo))

end

/-! ### Pre-emption and tasks (R455, R458) -/

/-- The gangs of some launches begin to stop. -/
def stopLaunches (s : State) (ls : List (Nat × Launch)) : State :=
  ((s.gangs.filter (fun g => ls.any (fun l => decide (l.1 = g.2.launch)))).map (·.1)).foldl preempt s

theorem preEmpt_queue (hr : s.inRun = true) {q : Nat} (hq : q < 8192) (hb : (s.queue q).bound = true) (hw : sec = true ∨ (s.queue q).world = false) :
    Answers (.preEmpt sec (.queue q)) 0x06 sec s
      (stopLaunches s (s.launches.filter (fun p => decide (p.2.state ≠ .ended) && decide (p.2.queue = q)))) 0 :=
  answers_of_command hr (n := 0) (exec_preEmpt ..) ((if_neg (by simp [(mayQueue_iff s sec q).mpr hw])).trans (if_neg (by simp [hq, hb])))

theorem preEmpt_context (hr : s.inRun = true) {asid : BitVec 16} {x : Context} (hx : tget s.ctxs asid.toNat = some x)
    (hw : sec = true ∨ x.world = false) :
    Answers (.preEmpt sec (.context asid)) 0x06 sec s
      (stopLaunches s (s.launches.filter (fun p => decide (p.2.state ≠ .ended) && decide (p.2.asid = asid.toNat)))) 0 := by
  have hn : mayName s sec asid.toNat = true := by
    rw [mayName_some sec hx]
    obtain hw | hw := hw <;> simp [hw]
  exact answers_of_command hr (n := 0) (exec_preEmpt ..) ((if_neg (by simp [hn])).trans (if_neg (by simp [hx])))

theorem preEmpt_launch (hr : s.inRun = true) (addr : DWord) :
    let ls := s.launches.filter (fun p => decide (p.2.state ≠ .ended) && decide (p.2.addr = addr.toNat))
    (ls = [] → Answers (.preEmpt sec (.launch addr)) 0x06 sec s s 1) ∧
    (ls ≠ [] → (∀ p ∈ ls, mayName s sec p.2.asid = true) → Answers (.preEmpt sec (.launch addr)) 0x06 sec s (stopLaunches s ls) 0) := by
  intro ls
  have htarget : targetLaunches s (.launch addr) = ls := rfl
  refine ⟨fun he => ?_, fun hne hn => ?_⟩
  · exact answers_of_command hr (n := 1) (exec_preEmpt ..)
      ((if_neg (by simp only [htarget, he]; simp)).trans (if_pos (by simp only [htarget, he]; simp)))
  · have hall : ls.all (fun p => mayName s sec p.2.asid) = true := List.all_eq_true.mpr hn
    exact answers_of_command hr (n := 0) (exec_preEmpt ..)
      ((if_neg (by simp only [htarget, hall]; decide)).trans (if_neg (by simp only [htarget, List.isEmpty_eq_false_iff.mpr hne]; decide)))

section
variable {addr : DWord}

theorem task_unknown (hr : s.inRun = true) (h : taskAt s addr.toNat = none) :
    Answers (.taskRelease sec addr) 0x07 sec s s 1 ∧ Answers (.taskRemoval sec addr) 0x07 sec s s 1 := by
  constructor
  · refine answers_of_command hr (n := 1) (exec_taskRelease ..) ?_
    rw [h]
  · refine answers_of_command hr (n := 1) (exec_taskRemoval ..) ?_
    rw [h]

theorem task_launch (hr : s.inRun = true) {lid a : Nat} (h : taskAt s addr.toNat = some (.launch lid a)) (hn : mayName s sec a = true) :
    Answers (.taskRelease sec addr) 0x07 sec s (releaseLaunch s lid true) 0 ∧
    Answers (.taskRemoval sec addr) 0x07 sec s { s with launches := tdel s.launches lid } 0 := by
  constructor
  · refine answers_of_command hr (n := 0) (exec_taskRelease ..) ?_
    rw [h]
    exact if_pos hn
  · refine answers_of_command hr (n := 0) (exec_taskRemoval ..) ?_
    rw [h]
    exact if_pos hn

theorem task_near (hr : s.inRun = true) {a : Nat} (h : taskAt s addr.toNat = some (.near a)) (hn : mayName s sec a = true) :
    Answers (.taskRelease sec addr) 0x07 sec s (sendTask (dropTask s a addr.toNat) a addr.toNat) 0 ∧
    Answers (.taskRemoval sec addr) 0x07 sec s (dropTask s a addr.toNat) 0 := by
  constructor
  · refine answers_of_command hr (n := 0) (exec_taskRelease ..) ?_
    rw [h]
    exact if_pos hn
  · refine answers_of_command hr (n := 0) (exec_taskRemoval ..) ?_
    rw [h]
    exact if_pos hn

end

/-! ### Fault records (R525) -/

theorem acknowledgeFault_answers (hr : s.inRun = true) (addr : DWord) (action : BitVec 8) :
    (recordSlot s addr.toNat = none → Answers (.acknowledgeFault sec addr action) 0x08 sec s s 1) ∧
    (∀ a k r, recordSlot s addr.toNat = some (a, k, r) → mayName s sec a = true → action.toNat < 2 →
      ofBytes (s.bytes (.hbm (addr.toNat + 0x3C)) 4) = 1 →
      let t := if r.cls = 1 then s.modCore r.core (fun c => { c with stopped := false }) else s
      let u := homeWrite (r.gangs.foldl (answerGang r (decide (action = 0))) t) (.hbm (addr.toNat + 0x3C)) (toBytes 4 0)
      let v := u.modCtx a (fun x => { x with slots := tdel x.slots k })
      Answers (.acknowledgeFault sec addr action) 0x08 sec s ((postRecord v a).getD v) 0) := by
  refine ⟨fun h => ?_, fun a k r h hn ha hst => ?_⟩
  · refine answers_of_command hr (n := 1) (exec_acknowledgeFault ..) ?_
    rw [h]
  · refine answers_of_command hr (n := 0) (exec_acknowledgeFault ..) ?_
    rw [h]
    exact (if_neg (by simp [hn])).trans (if_neg (by simp [hst]; omega))

/-! ### Groups, keys, ingress, events, attestation, power (R371, R508, R511, R515, R519, R538, R540) -/

theorem setLaunchGroup_answers (hr : s.inRun = true) (group n rank : Nat) (gen : Word) (routes : List Nat) :
    let fields : Prop := 1 ≤ group ∧ group < 65536 ∧ 2 ≤ n ∧ n ≤ 64 ∧ rank < n ∧ routes.length = n ∧ ∀ p ∈ routes, p < 16
    let i : Instr := .setLaunchGroup sec group n rank gen routes
    (¬ fields → Answers i 0x09 sec s s 1) ∧
    (fields → tget s.groups group = none → Answers i 0x09 sec s { s with groups := tput s.groups group ⟨n, rank, gen.toNat, routes, 0⟩ } 0) ∧
    (∀ g, fields → tget s.groups group = some g →
      (g.gen = gen.toNat → Answers i 0x09 sec s { s with groups := tput s.groups group ⟨n, rank, gen.toNat, routes, g.posted⟩ } 0) ∧
      (g.gen ≠ gen.toNat → let t := (endColls s group 3).bump
        Answers i 0x09 sec s { t with groups := tput t.groups group ⟨n, rank, gen.toNat, routes, 0⟩ } 0)) := by
  intro fields i
  have hfields : fields ↔ ¬ (group = 0 ∨ 65536 ≤ group ∨ n < 2 ∨ 64 < n ∨ n ≤ rank ∨ routes.length ≠ n ∨
      routes.any (fun p => decide (16 ≤ p)) = true) := by
    simp only [fields, not_or, not_not, Nat.not_le, Nat.not_lt, ne_eq, Nat.one_le_iff_ne_zero, Bool.not_eq_true, List.any_eq_false,
      decide_eq_true_eq]
  refine ⟨fun hf => ?_, fun hf hg => ?_, fun g hf hg => ⟨fun he => ?_, fun he => ?_⟩⟩
  · exact answers_of_command hr (n := 1) (exec_setLaunchGroup ..) (if_pos (not_not.mp (mt hfields.mpr hf)))
  · refine answers_of_command hr (n := 0) (exec_setLaunchGroup ..) ((if_neg (hfields.mp hf)).trans ?_)
    rw [hg]
    rfl
  · refine answers_of_command hr (n := 0) (exec_setLaunchGroup ..) ((if_neg (hfields.mp hf)).trans ?_)
    rw [hg]
    simp [he]
  · refine answers_of_command hr (n := 0) (exec_setLaunchGroup ..) ((if_neg (hfields.mp hf)).trans ?_)
    rw [hg]
    simp [he]

theorem installKey_answers (hr : s.inRun = true) (slot : Nat) (key : BitVec 256) (both : Bool) :
    (sec = false → Answers (.installKey sec slot key both) 0x0A sec s s 2) ∧
    (sec = true → slot < 64 → Answers (.installKey sec slot key both) 0x0A sec s { s with keys := tput s.keys slot ⟨key, both⟩ } 0) ∧
    (sec = true → 64 ≤ slot → Answers (.installKey sec slot key both) 0x0A sec s s 1) :=
  ⟨fun hs => answers_of_command hr (n := 2) (exec_installKey ..) (if_pos (by simp [hs])),
    fun hs h => answers_of_command hr (n := 0) (exec_installKey ..) ((if_neg (by simp [hs])).trans (if_neg (by omega))),
    fun hs h => answers_of_command hr (n := 1) (exec_installKey ..) ((if_neg (by simp [hs])).trans (if_pos h))⟩

theorem bindIngressQueue_answers (hr : s.inRun = true) {j : Nat} {asid : BitVec 16} {base size : DWord} (hj : j < 16)
    (hx : tget s.ctxs asid.toNat ≠ none) (hfit : base.toNat + size.toNat ≤ hbmBytes) (hn : mayName s sec asid.toNat = true)
    (hb : (s.ingressOf j).bound = true → mayName s sec (s.ingressOf j).asid = true) :
    let i : Instr := .bindIngressQueue sec j asid base size
    ((s.ingressOf j).held ≠ [] → Answers i 0x0B sec s s 3) ∧
    ((s.ingressOf j).held = [] → Answers i 0x0B sec s (s.modIngress j (fun _ =>
      { Ingress.reset with bound := true, asid := asid.toNat, base := base.toNat, size := size.toNat })) 0) := by
  intro i
  have h1 : ¬ ((!mayName s sec asid.toNat || ((s.ingressOf j).bound && !mayName s sec (s.ingressOf j).asid)) = true) := by
    rw [hn]
    cases hbd : (s.ingressOf j).bound
    · simp
    · simp [hb hbd]
  have h2 : ¬ (16 ≤ j ∨ (tget s.ctxs asid.toNat).isNone = true ∨ hbmBytes < base.toNat + size.toNat) := by
    rw [Option.isNone_iff_eq_none]
    rintro (h | h | h)
    · omega
    · exact hx h
    · omega
  exact ⟨fun hh => answers_of_command hr (n := 3) (exec_bindIngressQueue ..) ((if_neg h1).trans ((if_neg h2).trans (if_pos hh))),
    fun hh => answers_of_command hr (n := 0) (exec_bindIngressQueue ..) ((if_neg h1).trans ((if_neg h2).trans (if_neg (not_not.mpr hh))))⟩

theorem setEventRing_answers (hr : s.inRun = true) (base count : DWord) :
    ((∃ n, n < 32 ∧ count.toNat = 2 ^ n) →
      Answers (.setEventRing sec base count) 0x0C sec s { s with ring := ⟨true, base.toNat, count.toNat, 0, 0⟩ } 0) ∧
    (¬ (∃ n, n < 32 ∧ count.toNat = 2 ^ n) → Answers (.setEventRing sec base count) 0x0C sec s s 1) := by
  have hiff : (∃ n, n < 32 ∧ count.toNat = 2 ^ n) ↔ ¬ ((!isPow2 count.toNat) = true ∨ 2 ^ 32 ≤ count.toNat) := by
    rw [not_or, Bool.not_eq_true', Bool.not_eq_false, isPow2_iff, Nat.not_le]
    constructor
    · rintro ⟨n, hn, he⟩
      exact ⟨⟨n, he⟩, by rw [he]; exact Nat.pow_lt_pow_right (by decide) hn⟩
    · rintro ⟨⟨n, he⟩, hlt⟩
      rw [he] at hlt
      exact ⟨n, (Nat.pow_lt_pow_iff_right (by decide : 1 < 2)).mp hlt, he⟩
  exact ⟨fun h => answers_of_command hr (n := 0) (exec_setEventRing ..) (if_neg (hiff.mp h)),
    fun h => answers_of_command hr (n := 1) (exec_setEventRing ..) (if_pos (not_not.mp (mt hiff.mpr h)))⟩

theorem attestation_answers (hr : s.inRun = true) (nonce : BitVec 256) (addr : DWord) :
    let n := 17216 + Config.certificate.length
    let body := reportBytes s nonce
    let m := if sec then s.box1 else s.box0
    (m.bytes.extractLsb' (8 * 8) 256).toNat = nonce.toNat → (m.bytes.extractLsb' (8 * 40) 64).toNat = addr.toNat →
    addr.toNat % 64 = 0 → addr.toNat + n ≤ hbmBytes → (sec = true ∨ meetsSecure s addr.toNat n = false) →
    Answers (.attestation sec nonce addr) 0x0D sec s (homeWrite (homeWrite s (.hbm addr.toNat)
      (body ++ (Config.sign body ++ List.replicate 17088 0).take 17088)) (.hbm (addr.toNat + 17216)) Config.certificate) 0 := by
  intro n body m hno had hal hfit hsec
  have hh : (decide (m.operand 8 32 = nonce.toNat) && decide (m.operand 40 8 = addr.toNat)) = true :=
    Bool.and_eq_true_iff.mpr ⟨decide_eq_true hno, decide_eq_true had⟩
  have h1 : ¬ (addr.toNat % 64 ≠ 0 ∨ hbmBytes < addr.toNat + 17216 + Config.certificate.length) := by
    rintro (h | h)
    · exact h hal
    · simp only [n] at hfit
      omega
  have h2 : ¬ ((!sec && meetsSecure s addr.toNat (17216 + Config.certificate.length)) = true) := by
    obtain h | h := hsec
    · simp [h]
    · rw [show meetsSecure s addr.toNat (17216 + Config.certificate.length) = false from h, Bool.and_false]
      decide
  exact answers_of_commandOf hr (n := 0) (exec_attestation ..) hh ((if_neg h1).trans (if_neg h2))

theorem setPowerLimit_answers (hr : s.inRun = true) (w : DWord) :
    let m := if sec then s.box1 else s.box0
    (m.bytes.extractLsb' (8 * 8) 64).toNat = w.toNat →
    (2400 ≤ w.toNat → w.toNat ≤ 3600 → Answers (.setPowerLimit sec w) 0x0E sec s { s with plat := { s.plat with plim := w.toNat } } 0) ∧
    ((w.toNat < 2400 ∨ 3600 < w.toNat) → Answers (.setPowerLimit sec w) 0x0E sec s s 1) := by
  intro m hw
  have hh : decide (m.operand 8 8 = w.toNat) = true := decide_eq_true hw
  exact ⟨fun h1 h2 => answers_of_commandOf hr (n := 0) (exec_setPowerLimit ..) hh (if_neg (by omega)),
    fun h => answers_of_commandOf hr (n := 1) (exec_setPowerLimit ..) hh (if_pos h)⟩

end

/-- Settles O57: each command is `command` of its function, of which `answers_of_command` gives the answer. -/
theorem controlCommands : Obligations.ControlCommands := by
  unfold Obligations.ControlCommands
  refine ⟨fun s i sec code h hr => mailCode_commands h hr, fun s sec hr => ?_⟩
  refine ⟨createContext_answers hr, fun asid => ⟨destroyContext_unknown hr, fun x => destroyContext_known hr⟩, invalidate_answers hr,
    fun q asid item ring depth cls tkt group x => bindQueue_answers hr, fun q tkt => setTickets_sets hr, ?_⟩
  have close (q : Nat) := itemCommand_answers (sec := sec) (q := q) hr (exec_closeItemQueue sec q s)
  have opens (q : Nat) := itemCommand_answers (sec := sec) (q := q) hr (exec_openItemQueue sec q s)
  refine ⟨fun q tkt hs hw => ⟨setTickets_barred hr hs hw, (close q).1 hs hw, (opens q).1 hs hw⟩,
    fun q tkt hw => ⟨setTickets_refused hr hw, fun h => ⟨(close q).2.1 hw h, (opens q).2.1 hw h⟩⟩,
    fun q hq hb hit hw => ⟨(close q).2.2 hq hb hit hw, (opens q).2.2 hq hb hit hw⟩, fun q => preEmpt_queue hr, fun asid x => preEmpt_context hr,
    preEmpt_launch hr, ?_⟩
  exact ⟨fun addr => ⟨task_unknown hr, fun lid a => task_launch hr, fun a => task_near hr⟩, acknowledgeFault_answers hr, setLaunchGroup_answers hr,
    installKey_answers hr, fun j asid base size => bindIngressQueue_answers hr, setEventRing_answers hr, attestation_answers hr,
    setPowerLimit_answers hr⟩

end Sys2Proof.Machine
end


section
/-! SUPPORT. The part: reset, bring-up, clocks, errors and the status window (R2, R529, R530, R534 to R540). -/
namespace Sys2Proof.Machine
open Sys2Proof Sys2Proof.Claims

/-! ### Reset and loss of power -/

theorem overtempReset_cases {s : State} {tj : Nat} (h : s.plat.off = false) :
    (110 ≤ tj → exec (.overtempReset tj) s = exec .powerOnReset s) ∧ (tj < 110 → exec (.overtempReset tj) s = .refused .notEnabled) :=
  ⟨fun ht => (exec_overtempReset ..).trans (if_neg (by simp only [h, Bool.false_eq_true, false_or]; omega)),
    fun ht => (exec_overtempReset ..).trans (if_pos (.inr ht))⟩

/-! ### Digests -/

/-- A list of bytes is what its number gives back. -/
theorem toBytes_ofBytes_of_length {n : Nat} {bs : List Byte} (h : bs.length = n) : toBytes n (ofBytes bs) = bs := by
  induction bs generalizing n with
  | nil => subst h; rfl
  | cons b bs ih =>
    subst h
    have hlt : b.toNat < 256 := b.isLt
    have hb : BitVec.ofNat 8 (b.toNat + 256 * ofBytes bs) = b := BitVec.eq_of_toNat_eq (by simp; omega)
    have hd : (b.toNat + 256 * ofBytes bs) / 256 = ofBytes bs := by omega
    show BitVec.ofNat 8 (b.toNat + 256 * ofBytes bs) :: toBytes bs.length ((b.toNat + 256 * ofBytes bs) / 256) = b :: bs
    rw [hb, hd, ih rfl]

theorem ofBytes_lt_pow (bs : List Byte) : ofBytes bs < 256 ^ bs.length := by
  induction bs with
  | nil => simp [ofBytes]
  | cons b bs ih =>
    have hlt : b.toNat < 256 := b.isLt
    rw [List.length_cons, pow_succ]
    show b.toNat + 256 * ofBytes bs < _
    omega

theorem length_sha256 (bs : List Byte) : (sha256 bs).length = 32 := by simp [sha256]

/-- A digest kept as a number of 256 bits. -/
theorem toBytes_digest (bs : List Byte) : toBytes 32 (BitVec.ofNat 256 (ofBytes (sha256 bs))).toNat = sha256 bs := by
  have hlt : ofBytes (sha256 bs) < 2 ^ 256 := by
    have := ofBytes_lt_pow (sha256 bs)
    rw [length_sha256] at this
    exact lt_of_lt_of_eq this (by norm_num)
  rw [BitVec.toNat_ofNat, Nat.mod_eq_of_lt hlt]
  exact toBytes_ofBytes_of_length (length_sha256 bs)

/-! ### Bring-up (R535 to R539) -/

section
variable {s : State} {x : FirmwareImage}

/-- What a manifest's signature covers, as a statement. -/
def Signed (x : FirmwareImage) : Prop :=
  Config.signatureOk x.manifest = true ∧ sha256 x.code = toBytes 32 (Config.manifestCodeHash x.manifest).toNat ∧
    sha256 x.config = toBytes 32 (Config.manifestConfigHash x.manifest).toNat

theorem imageSigned_iff (x : FirmwareImage) : imageSigned x = true ↔ Signed x := by simp [imageSigned, Signed, and_assoc]

/-- A spare of its own die for each failing Reach core, and none for a Riffle core. -/
def Repaired (x : FirmwareImage) : Prop :=
  (∀ c ∈ x.failing, isRiffle c = false) ∧
    ∀ d, d < 8 → (failingReach x d).length ≤ ((List.range 8).filter (fun k => !x.badSpares.contains (8 * d + k))).length

theorem repairable_iff (x : FirmwareImage) : repairable x = true ↔ Repaired x := by
  unfold repairable Repaired
  rw [Bool.and_eq_true, Bool.not_eq_true', List.any_eq_false, List.all_eq_true]
  refine and_congr ⟨fun h c hc => by simpa using h c hc, fun h c hc => by simp [h c hc]⟩ ?_
  exact ⟨fun h d hd => of_decide_eq_true (h d (List.mem_range.mpr hd)), fun h d hd => decide_eq_true (h d (List.mem_range.mp hd))⟩

theorem firmwareVerify_first (ho : s.plat.off = false) (hb : s.plat.bstate = 0) :
    exec (.firmwareVerify x) s = if x.readable then .next { s with plat := { s.plat with bstate := 1 } }
      else .next { s with plat := { s.plat with bstate := 3, fail := 4 } } :=
  (exec_firmwareVerify ..).trans ((if_neg (by simp [ho, hb])).trans (if_pos hb))

/-- The state in which a verified image starts the run. -/
def started (s : State) (x : FirmwareImage) : State :=
  { s with
    now := 0
    queues := (upto 8).foldl (fun m d => tput m (8184 + d) backwaterQueue) s.queues,
    plat := { s.plat with
      bstate := 2, svn := imageSvn x, fwm := BitVec.ofNat 256 (ofBytes (sha256 (x.manifest ++ x.code ++ x.config))),
      cfgHash := BitVec.ofNat 256 (ofBytes (sha256 x.config)), sch := imageSch x, sce := imageSce x,
      secure := Config.configSecure x.config, limit := Config.configLimit x.config,
      fsvnUp := if Config.manifestRaises x.manifest then max s.plat.fsvnUp ((imageSvn x).toNat % 65536) else s.plat.fsvnUp,
      repair := repairMap x, spare := some (spareWord x) } }

theorem firmwareVerify_second (ho : s.plat.off = false) (hb : s.plat.bstate = 1) :
    exec (.firmwareVerify x) s = if bootFail s x ≠ 0 then .next { s with plat := { s.plat with bstate := 3, fail := bootFail s x } }
      else .next (started s x) :=
  (exec_firmwareVerify ..).trans ((if_neg (by simp [ho, hb])).trans (if_neg (by omega)))

theorem firmwareVerify_fails (ho : s.plat.off = false) (hb : s.plat.bstate = 1) {k : Nat} (h : bootFail s x = k) (hk : k ≠ 0) :
    exec (.firmwareVerify x) s = .next { s with plat := { s.plat with bstate := 3, fail := k } } := by
  rw [firmwareVerify_second ho hb, h, if_pos hk]

theorem bootFail_unsigned (hr : x.readable = true) (h : ¬ Signed x) : bootFail s x = 1 :=
  (if_neg (by simp [hr])).trans (if_pos (by simpa using mt (imageSigned_iff x).mp h))

theorem bootFail_signed (hr : x.readable = true) (h : Signed x) :
    bootFail s x = if (imageSvn x).toNat < fsvn s then 2 else if !repairable x then 3 else 0 :=
  (if_neg (by simp [hr])).trans (if_neg (by simp [(imageSigned_iff x).mpr h]))

theorem length_goodSpares (x : FirmwareImage) (d : Nat) : (goodSpares x d).length ≤ 8 :=
  (List.length_filter_le _ _).trans (by simp [upto])

/-- A sum of digits begins with the lowest one. -/
theorem digits_succ (f : Nat → Nat) (n : Nat) :
    ((List.range (n + 1)).map (fun d => f d * 16 ^ d)).sum = f 0 + 16 * ((List.range n).map (fun d => f (d + 1) * 16 ^ d)).sum := by
  rw [List.range_succ_eq_map, List.map_cons, List.sum_cons, List.map_map, pow_zero, Nat.mul_one, ← List.sum_map_mul_left]
  congr 2
  refine List.map_congr_left (fun d _ => ?_)
  show f (d + 1) * 16 ^ (d + 1) = 16 * (f (d + 1) * 16 ^ d)
  ring

/-- A digit of a sum of digits below 16. -/
theorem digit_of_sum {n d : Nat} (f : Nat → Nat) (hf : ∀ d, d < n → f d < 16) (hd : d < n) :
    ((List.range n).map (fun d => f d * 16 ^ d)).sum / 16 ^ d % 16 = f d := by
  induction n generalizing f d with
  | zero => omega
  | succ n ih =>
    have h0 := hf 0 (by omega)
    rw [digits_succ]
    cases d with
    | zero => rw [pow_zero, Nat.div_one, Nat.add_mul_mod_self_left, Nat.mod_eq_of_lt h0]
    | succ d =>
      rw [pow_succ', ← Nat.div_div_eq_div_mul, Nat.add_mul_div_left _ _ (by decide), Nat.div_eq_of_lt h0, Nat.zero_add]
      exact ih (fun d => f (d + 1)) (fun d hd => hf (d + 1) (by omega)) (by omega)

/-- SPARE counts the spares in use of each die (R535, R539). -/
theorem spareWord_digit (h : Repaired x) {d : Nat} (hd : d < 8) : ((spareWord x).extractLsb' (4 * d) 4).toNat = (failingReach x d).length := by
  have hlen (e : Nat) (he : e < 8) : (failingReach x e).length ≤ 8 := (h.2 e he).trans (length_goodSpares x e)
  have hpow : 2 ^ (4 * d) = 16 ^ d := by rw [pow_mul]; norm_num
  have hdvd : 2 ^ 32 = 16 ^ d * 16 ^ (8 - d) := by rw [← pow_add, Nat.add_sub_cancel' hd.le]; norm_num
  have hmod : 16 ∣ 16 ^ (8 - d) := dvd_pow_self 16 (by omega)
  rw [BitVec.extractLsb'_toNat, spareWord, BitVec.toNat_ofNat, Nat.shiftRight_eq_div_pow, hpow, hdvd, Nat.mod_mul_right_div_self]
  exact (Nat.mod_mod_of_dvd _ hmod).trans (digit_of_sum (fun d => (failingReach x d).length) (fun d hd => (hlen d hd).trans_lt (by decide)) hd)

theorem started_queue {d : Nat} (hd : d < 8) : (started s x).queue (8184 + d) = backwaterQueue := by
  have hget : tget (started s x).queues (8184 + d) = some backwaterQueue := by
    show tget ((upto 8).foldl (fun m d => tput m (8184 + d) backwaterQueue) s.queues) (8184 + d) = some backwaterQueue
    rw [show upto 8 = [0, 1, 2, 3, 4, 5, 6, 7] from rfl]
    simp only [List.foldl_cons, List.foldl_nil, tget_tput]
    interval_cases d <;> simp
  unfold State.queue tgetD
  rw [hget]
  rfl

theorem firmwareVerify_starts (ho : s.plat.off = false) (hb : s.plat.bstate = 1) (hr : x.readable = true) (hs : Signed x)
    (hv : fsvn s ≤ (imageSvn x).toNat) (hrep : Repaired x) : exec (.firmwareVerify x) s = .next (started s x) := by
  have h0 : bootFail s x = 0 :=
    (bootFail_signed hr hs).trans ((if_neg (by omega)).trans (if_neg (by simp [(repairable_iff x).mpr hrep])))
  rw [firmwareVerify_second ho hb, h0, if_neg (by decide)]

end

/-! ### Clocks (R540) -/

section
variable {s : State} {pwr tj : Nat}

theorem throttle_next (hr : s.inRun = true) (h : s.plat.plim < pwr ∨ 100 ≤ tj) (ht : tj < 110) :
    exec (.throttle pwr tj) s =
      .next { s with plat := { s.plat with pwr := min pwr s.plat.plim, tj := tj, clk := max 300 (s.plat.clk - 25), calm := s.now } } :=
  (exec_throttle ..).trans (if_neg (by simp only [hr, Bool.not_true, Bool.false_eq_true, false_or]; omega))

theorem throttle_hot (h : 110 ≤ tj) : exec (.throttle pwr tj) s = .refused .notEnabled := (exec_throttle ..).trans (if_pos (.inr (.inr h)))

theorem throttle_calm (h : pwr ≤ s.plat.plim) (ht : tj < 100) : exec (.throttle pwr tj) s = .refused .notEnabled :=
  (exec_throttle ..).trans (if_pos (.inr (.inl ⟨h, ht⟩)))

theorem clockRestore_cases (hr : s.inRun = true) (h : pwr ≤ s.plat.plim) (ht : tj < 100) (hc : s.plat.clk < 600) :
    (s.plat.calm + 30000 * s.plat.clk ≤ s.now →
      exec (.clockRestore pwr tj) s = .next { s with plat := { s.plat with pwr := pwr, tj := tj, clk := 600 } }) ∧
    (s.now < s.plat.calm + 30000 * s.plat.clk → exec (.clockRestore pwr tj) s = .refused .notEnabled) :=
  ⟨fun hn => (exec_clockRestore ..).trans (if_neg (by
      simp only [hr, Bool.not_true, Bool.false_eq_true, false_or, calmCycles]
      omega)),
    fun hn => (exec_clockRestore ..).trans (if_pos (.inr (.inr (.inr (.inr hn)))))⟩

end

/-! ### Bit errors (R529, R530) -/

theorem softError_corrected {s : State} (h : s.plat.off = false) (hbm : Bool) :
    exec (.softError (.corrected hbm)) s =
      .next { s with plat := if hbm then { s.plat with chbm := s.plat.chbm + 1 } else { s.plat with csram := s.plat.csram + 1 } } :=
  (exec_softError ..).trans (if_neg (by simp [h]))

theorem softError_poisons {s : State} {x : SoftError} {k : Nat} (h : s.plat.off = false) (hk : poisonKey x = some k) :
    exec (.softError x) s = .next (if s.poison.contains k then s else { s with poison := s.poison ++ [k] }) := by
  refine (exec_softError ..).trans ((if_neg (by simp [h])).trans ?_)
  rw [hk]
  split
  · cases hk
  · next he => cases he
  · next he => cases he; rfl

theorem poisoned_mem {s : State} {x : SoftError} {k : Nat} (h : s.plat.off = false) (hk : poisonKey x = some k) :
    ∃ t, exec (.softError x) s = .next t ∧ k ∈ t.poison ∧ (∀ j, j ∈ t.poison ↔ j = k ∨ j ∈ s.poison) ∧
      t.mem = s.mem ∧ t.regs = s.regs ∧ t.acc = s.acc := by
  refine ⟨_, softError_poisons h hk, ?_⟩
  split
  · next hc =>
    have hmem : k ∈ s.poison := by simpa using hc
    exact ⟨hmem, fun j => ⟨.inr, fun hj => hj.elim (fun he => he ▸ hmem) id⟩, rfl, rfl, rfl⟩
  · exact ⟨by simp, fun j => by simp [or_comm], rfl, rfl, rfl⟩

/-! ### The status window (R534, R535) -/

theorem length_statusWindow (s : State) : (statusWindow s).length = 96 := by simp [statusWindow, partBytes]

theorem registerRead_before {s : State} {bar addr n : Nat} (ho : s.plat.off = false) (hr : s.inRun = false)
    (h : bar = 0 → ¬ (0x2000 ≤ addr ∧ addr + n ≤ 0x2060)) : registerRead s bar addr n = some (List.replicate n 0xFF) := by
  have hnone : (if bar = 0 then within 0x2000 (statusWindow s) addr n else none) = none := by
    split
    · next hb =>
      refine if_neg ?_
      rw [length_statusWindow]
      exact h hb
    · rfl
  unfold registerRead
  rw [hnone, if_neg (by simp [ho])]
  exact if_neg (by simp [hr])

/-- A read within the status window gives its bytes at any time. -/
theorem registerRead_window {s : State} {addr n : Nat} (ho : s.plat.off = false) (h1 : 0x2000 ≤ addr) (h2 : addr + n ≤ 0x2060) :
    registerRead s 0 addr n = some (((statusWindow s).drop (addr - 0x2000)).take n) := by
  have hsome : within 0x2000 (statusWindow s) addr n = some (((statusWindow s).drop (addr - 0x2000)).take n) :=
    if_pos (by rw [length_statusWindow]; exact ⟨h1, h2⟩)
  unfold registerRead
  rw [if_neg (by simp [ho]), if_pos rfl, hsome]

theorem window_state (s : State) :
    ((statusWindow s).drop 0).take 2 = [BitVec.ofNat 8 (s.plat.bstate % 16), BitVec.ofNat 8 s.plat.fail] := by
  have h0 : BitVec.ofNat 8 (s.plat.bstate % 16 + 256 * (s.plat.fail % 256)) = BitVec.ofNat 8 (s.plat.bstate % 16) :=
    BitVec.eq_of_toNat_eq (by simp)
  have h1 : BitVec.ofNat 8 ((s.plat.bstate % 16 + 256 * (s.plat.fail % 256)) / 256) = BitVec.ofNat 8 s.plat.fail :=
    BitVec.eq_of_toNat_eq (by simp; omega)
  rw [← h0, ← h1]
  rfl

/-- The window's PART and CLASS in their places. -/
theorem statusWindow_parts (s : State) : ∃ a b r : List Byte,
    statusWindow s = a ++ (partBytes ++ (b ++ (toBytes 2 0x0004 ++ r))) ∧ a.length = 8 ∧ b.length = 8 := by
  let p := s.plat
  refine ⟨toBytes 4 (p.bstate % 16 + 256 * (p.fail % 256)) ++ toBytes 4 p.svn.toNat, toBytes 8 (Config.fused 1).toNat,
    toBytes 2 (fsvn s) ++ (toBytes 4 (spareOf p).toNat ++ (toBytes 8 p.csram.toNat ++ (toBytes 8 p.chbm.toNat ++ (toBytes 2 p.pwr ++
      (toBytes 2 p.plim ++ (toBytes 2 p.tj ++ (toBytes 2 p.clk ++ (toBytes 4 p.sch ++ (toBytes 4 (p.sce % 256) ++ toBytes 32 p.fwm.toNat))))))))),
    ?_, by simp, by simp⟩
  simp only [statusWindow, List.append_assoc, p]

theorem window_part (s : State) : ((statusWindow s).drop 8).take 8 = [0x53, 0x4C, 0x4E, 0x34, 0x32, 0x31, 0x37, 0x36] := by
  obtain ⟨a, b, r, hw, ha, hb⟩ := statusWindow_parts s
  rw [hw, List.drop_left' ha, List.take_left' (by rfl)]
  rfl

theorem window_class (s : State) : ((statusWindow s).drop 24).take 2 = [4, 0] := by
  obtain ⟨a, b, r, hw, ha, hb⟩ := statusWindow_parts s
  rw [hw, ← List.append_assoc, ← List.append_assoc, List.drop_left' (by simp [ha, hb, partBytes]), List.take_left' (by rfl)]
  rfl

/-- Settles O58: each event of the part by its own lemma; the checks of an image in the order of `bootFail`. -/
theorem platformEvents : Obligations.PlatformEvents := by
  unfold Obligations.PlatformEvents
  refine ⟨fun s => ⟨resetFrom s, rfl, rfl, rfl⟩, fun s => ⟨_, rfl, rfl, rfl, rfl, rfl⟩, fun s tj => overtempReset_cases, ?verifies,
    fun s pwr tj hr => ⟨throttle_next hr, throttle_hot, throttle_calm, clockRestore_cases hr⟩,
    fun s x ho => ⟨fun hbm he => he ▸ softError_corrected ho hbm, fun k => poisoned_mem ho⟩,
    fun s n m hr => (exec_scrubPass ..).trans (if_neg (by simp [hr])), fun s bar addr n => registerRead_before, fun s ho => ?window⟩
  case window =>
    rw [registerRead_window ho (by decide) (by decide), registerRead_window ho (by decide) (by decide),
      registerRead_window ho (by decide) (by decide)]
    exact ⟨congrArg some (window_part s), congrArg some (window_class s), congrArg some (window_state s)⟩
  case verifies =>
    intro s x ho
    refine ⟨fun hb hr => (firmwareVerify_first ho hb).trans (if_neg (by simp [hr])), fun hb hr => (firmwareVerify_first ho hb).trans (if_pos hr),
      fun hb hr => ⟨fun hs => firmwareVerify_fails ho hb (bootFail_unsigned hr hs) (by decide), fun hs hv => ?_, fun hs hv => ⟨fun hrep => ?_,
        fun hrep => ?_⟩⟩⟩
    · exact firmwareVerify_fails ho hb ((bootFail_signed hr hs).trans (if_pos hv)) (by decide)
    · refine firmwareVerify_fails ho hb ((bootFail_signed hr hs).trans ((if_neg (Nat.not_lt.mpr hv)).trans (if_pos ?_))) (by decide)
      simpa using mt (repairable_iff x).mp hrep
    · refine ⟨started s x, firmwareVerify_starts ho hb hr hs hv hrep, ?_, rfl, rfl, rfl, rfl, toBytes_digest _, toBytes_digest _, rfl,
        fun d hd => spareWord_digit hrep hd, fun d hd => started_queue hd, rfl, rfl, rfl⟩
      show (decide (2 = 2) && !s.plat.off) = true
      rw [ho]
      rfl

end Sys2Proof.Machine
end


section
/-! SUPPORT. The frame of the instructions that only write registers: a table of cores that lists one core twice (R297). -/
namespace Sys2Proof.Machine
open Sys2Proof Sys2Proof.Claims

/-- One warp whose instruction has issued before and waits, on a core that the table of cores lists twice: as it is at reset, and again. -/
def listedTwice : State :=
  { oneWarp.modSplit 4 0 (fun sp => { sp with wait := some (.op true false .none) }) with
    cores := [(0, Core.reset), (0, { Core.reset with cctl := 1 })] }

/-- Whether a state's issuer is one of which `p` holds. -/
def issuerSatisfies (s : State) (p : Ctx → Bool) : Bool :=
  match s.issuer with
  | .ok c => p c
  | _ => false

theorem exists_issuer {s : State} {p : Ctx → Bool} (h : issuerSatisfies s p = true) : ∃ c, s.issuer = .ok c ∧ p c = true := by
  unfold issuerSatisfies at h
  split at h
  · next c hc => exact ⟨c, hc, h⟩
  · cases h

theorem listedTwice_issuer : ∃ c, listedTwice.issuer = .ok c ∧ decide (c.core = 0 ∧ c.split.spend = []) = true := exists_issuer (by decide)

theorem listedTwice_issues : ∃ c, Issues listedTwice plainFr noNames none noEarly c ∧ (c.pre.core c.core).cctl.getLsbD 1 = false :=
  exists_issues (by decide)

/-- What the issue leaves at the core's number is what the table lists there second. -/
theorem listedTwice_shown :
    nextSatisfies (exec (.bkpt plainFr 0) listedTwice) (fun t => decide ((t.core 0).cctl = (listedTwice.core 0).cctl)) = false := by decide

/-- Refutes O59: `modCore` takes a core that stands as at reset out of the table, and of `listedTwice`, which lists its number twice, the other entry
shows; a BKPT that passes on after it has issued before changes sr.cctl of its core so. -/
theorem not_registerInstructionFrame : ¬ Obligations.RegisterInstructionFrame := by
  unfold Obligations.RegisterInstructionFrame
  rintro ⟨-, hflights⟩
  obtain ⟨c0, hc0, hcore⟩ := listedTwice_issuer
  obtain ⟨hcore, hspend⟩ := of_decide_eq_true hcore
  obtain ⟨c, hc, hcctl⟩ := listedTwice_issues
  have hexec := bkpt_passes hc 0 (.inl hcctl)
  obtain ⟨c1, hc1, -, rfl, -⟩ := hc
  obtain rfl : c1 = c0 := by
    rw [hc0] at hc1
    injection hc1 with he
    exact he.symm
  obtain ⟨⟨-, -, -, -, -, hrest⟩, -⟩ := hflights (.bkpt plainFr 0) plainFr noNames [] .minimum listedTwice _ c1 hc0 (by simp [hspend]) rfl hexec
  have hkept := congrArg Core.cctl hrest
  have hshown := listedTwice_shown
  rw [hexec] at hshown
  rw [hcore] at hkept
  exact of_decide_eq_false hshown hkept

end Sys2Proof.Machine
end


section
/-! SUPPORT. The frame of the memory instructions: a table of cores that lists one core twice (R297). -/
namespace Sys2Proof.Machine
open Sys2Proof Sys2Proof.Claims

/-- Thread 0 of one warp whose instruction has issued before, with the lane window's base in v2 and v3, on a core that the table of cores lists twice:
as it is at reset, and with a dirty scale word 1 of the line at HBM4E address 0 in its L1. -/
def dirtyBehind : State :=
  { (oneWarp.modLaunch 1 (fun l => { l with record := { l.record with lane := 4096 } })).modSplit 4 0
      (fun sp => { sp with mask := 1, wait := some (.op true false .none) }) with
    regs := [(regKey 4 4 3 0, BitVec.ofNat 32 (laneBase / 2 ^ 32))]
    cores := [(0, Core.reset), (0, { Core.reset with l1 := [⟨.hbm 0, [], 0, 0, 1, 1⟩] })] }

/-- A load of the lane window that acquires at the gang. -/
def gangLoad : Instr := .ldaq plainFr 4 2 0 .lane .b32 .gng

def gangForm : MemForm :=
  ⟨plainFr, nameDN 4 (szRegs .b32) (reg2 2) none none, levelEarly .gng, plainChks .lane .read (szBytes .b32) (fun c => c.ea 2 0), fun _ _ => [],
    fun _ _ => []⟩

theorem dirtyBehind_issues : ∃ c, Issues dirtyBehind gangForm.f gangForm.n none gangForm.early c ∧
    (c.core = 0 ∧ c.act ≠ 0 ∧ (allOk (gangForm.chks c)).isSome = true) := exists_issues (by decide)

/-- The load writes back what the second entry of the core holds. -/
theorem dirtyBehind_written : nextSatisfies (exec gangLoad dirtyBehind) (fun t => decide (slotPart (t.slotAt (.hbm 0)) 0 = 1)) = true := by decide

theorem dirtyBehind_clean : (dirtyBehind.core 0).l1 = [] ∧ slotPart (dirtyBehind.slotAt (.hbm 0)) 0 = 0 := by decide

/-- Refutes O60: `modCore` takes a core that stands as at reset out of the table, and of `dirtyBehind`, which lists its number twice, the other entry
shows; the acquire writes back that entry's dirty line, which the core did not hold at the issue. -/
theorem not_memoryInstructionFrame : ¬ Obligations.MemoryInstructionFrame := by
  unfold Obligations.MemoryInstructionFrame
  intro h
  obtain ⟨c, hc, hcore, ha, hok⟩ := dirtyBehind_issues
  obtain ⟨as, has⟩ := Option.isSome_iff_exists.mp hok
  obtain ⟨hclean, hzero⟩ := dirtyBehind_clean
  have hwritten := dirtyBehind_written
  unfold nextSatisfies at hwritten
  split at hwritten
  · next t ht =>
    have hslot : slotPart (t.slotAt (.hbm 0)) 0 = 1 := of_decide_eq_true hwritten
    obtain ⟨-, hkept, -⟩ := h gangLoad gangForm rfl dirtyBehind t c as hc ha has ht
    obtain hsame | ⟨x, hx, -⟩ := hkept (.hbm 0) 0 (by decide) (fun x hx => absurd hx List.not_mem_nil)
    · rw [hslot, hzero] at hsame
      exact absurd hsame (by decide)
    · rw [hcore, hclean] at hx
      exact absurd hx List.not_mem_nil
  · cases hwritten

end Sys2Proof.Machine
end


section
/-! SUPPORT. What the block instructions come to (R154 to R163): the order of exact values, scale words, quantised elements. -/
namespace Sys2Proof.Machine
open Sys2Proof Sys2Proof.Claims

/-! ### The order of exact values -/

/-- An exact value that is no NaN, over the denominator 1: what a code decodes to, and the magnitudes and zeros made of such. -/
def Num.Whole : Num → Prop
  | .nan => False
  | .inf _ => True
  | .fin _ _ _ d => d = 1

/-- The place of a value in the order: the infinities about the finite values. -/
def Num.rank : Num → ℤ ×ₗ ℚ
  | .inf true => toLex (-1, 0)
  | .inf false => toLex (1, 0)
  | x => toLex (0, ratOf x)

theorem ratOf_fin_one (s : Bool) (n : Nat) (e : Int) : ratOf (.fin s n e 1) = ((if s then -(n : Int) else n : Int) : ℚ) * 2 ^ e := by
  cases s <;> simp [ratOf]

theorem ratOf_eq_zero_iff {s : Bool} {n : Nat} {e : Int} : ratOf (.fin s n e 1) = 0 ↔ n = 0 := by
  have : (2 : ℚ) ^ e ≠ 0 := zpow_ne_zero _ two_ne_zero
  cases s <;> simp [ratOf, this]

theorem ratOf_abs_fin (s : Bool) (n : Nat) (e : Int) : ratOf (Num.abs (.fin s n e 1)) = |ratOf (.fin s n e 1)| := by
  have : (0 : ℚ) < 2 ^ e := zpow_pos two_pos _
  cases s <;> simp [ratOf, Num.abs, abs_mul, abs_of_pos this]

/-- A numerator brought to a lower power of two stands for the same value. -/
theorem shifted_mul_zpow (i : Int) {e m : Int} (h : m ≤ e) : ((i * 2 ^ (e - m).toNat : Int) : ℚ) * 2 ^ m = (i : ℚ) * 2 ^ e := by
  have hz : ((2 : ℚ) ^ (e - m).toNat) = 2 ^ (e - m) := by
    rw [← zpow_natCast, Int.toNat_of_nonneg (by omega)]
  push_cast
  rw [hz, mul_assoc, ← zpow_add₀ two_ne_zero, sub_add_cancel]

/-- Two comparisons agree where both orders agree. -/
theorem compare_eq_compare {α β : Type} [LinearOrder α] [LinearOrder β] {a b : α} {c d : β} (hl : a < b ↔ c < d) (hg : b < a ↔ d < c) :
    compare a b = compare c d := by
  rcases lt_trichotomy a b with h | h | h
  · rw [compare_lt_iff_lt.mpr h, compare_lt_iff_lt.mpr (hl.mp h)]
  · have hcd : c = d := le_antisymm (not_lt.mp fun hn => (hg.mpr hn).ne h.symm) (not_lt.mp fun hn => (hl.mpr hn).ne h)
    rw [compare_eq_iff_eq.mpr h, compare_eq_iff_eq.mpr hcd]
  · rw [compare_gt_iff_gt.mpr h, compare_gt_iff_gt.mpr (hg.mp h)]

/-- Finite values compare as the rationals that they stand for. -/
theorem Num.cmp_fin_one (s t : Bool) (n1 n2 : Nat) (e1 e2 : Int) :
    Num.cmp (.fin s n1 e1 1) (.fin t n2 e2 1) = compare (ratOf (.fin s n1 e1 1)) (ratOf (.fin t n2 e2 1)) := by
  have signed (s : Bool) (n : Nat) (k : Nat) : (if s then -((n * 2 ^ k : Nat) : Int) else (n * 2 ^ k : Nat)) = (if s then -(n : Int) else n) * 2 ^ k := by
    cases s <;> simp
  have hpos : (0 : ℚ) < 2 ^ min e1 e2 := zpow_pos two_pos _
  simp only [Num.cmp, Num.align, if_true, signed, ratOf_fin_one]
  rw [← shifted_mul_zpow _ (min_le_left e1 e2), ← shifted_mul_zpow _ (min_le_right e1 e2)]
  exact compare_eq_compare (by rw [mul_lt_mul_iff_left₀ hpos, Int.cast_lt]) (by rw [mul_lt_mul_iff_left₀ hpos, Int.cast_lt])

theorem Num.cmp_eq_rank {x y : Num} (hx : x.Whole) (hy : y.Whole) : Num.cmp x y = compare x.rank y.rank := by
  have apart {a b : ℚ} {i j : ℤ} (h : i < j) : compare (toLex (i, a)) (toLex (j, b)) = .lt :=
    compare_lt_iff_lt.mpr (Prod.Lex.toLex_lt_toLex.mpr (.inl h))
  have apart' {a b : ℚ} {i j : ℤ} (h : j < i) : compare (toLex (i, a)) (toLex (j, b)) = .gt :=
    compare_gt_iff_gt.mpr (Prod.Lex.toLex_lt_toLex.mpr (.inl h))
  cases x with
  | nan => exact hx.elim
  | inf s =>
    cases y with
    | nan => exact hy.elim
    | inf t =>
      cases s <;> cases t
      · exact (compare_eq_iff_eq.mpr rfl).symm
      · exact (apart' (by decide)).symm
      · exact (apart (by decide)).symm
      · exact (compare_eq_iff_eq.mpr rfl).symm
    | fin t n e d =>
      cases s
      · exact (apart' (by decide)).symm
      · exact (apart (by decide)).symm
  | fin s n1 e1 d1 =>
    obtain rfl : d1 = 1 := hx
    cases y with
    | nan => exact hy.elim
    | inf t =>
      cases t
      · exact (apart (by decide)).symm
      · exact (apart' (by decide)).symm
    | fin t n2 e2 d2 =>
      obtain rfl : d2 = 1 := hy
      rw [Num.cmp_fin_one]
      exact compare_eq_compare (by simp [Num.rank, Prod.Lex.toLex_lt_toLex]) (by simp [Num.rank, Prod.Lex.toLex_lt_toLex])

theorem Num.lt_iff_rank {x y : Num} (hx : x.Whole) (hy : y.Whole) : x.lt y = true ↔ x.rank < y.rank := by
  rw [Num.lt, Num.cmp_eq_rank hx hy, beq_iff_eq, compare_lt_iff_lt]

theorem Num.le_iff_rank {x y : Num} (hx : x.Whole) (hy : y.Whole) : x.le y = true ↔ x.rank ≤ y.rank := by
  rw [Num.le, Num.cmp_eq_rank hx hy, bne_iff_ne, Ne, compare_gt_iff_gt, not_lt]

theorem Num.rank_of_isZero {x : Num} (hx : x.isZero = true) : x.rank = toLex (0, 0) := by
  cases x with
  | fin s n e d =>
    obtain rfl : n = 0 := by simpa [Num.isZero] using hx
    simp [Num.rank, ratOf]
  | _ => cases hx

/-- The greater of two values is one of them, and neither is above it. -/
theorem Num.max2_spec {x y : Num} (hx : x.Whole) (hy : y.Whole) : (x.max2 y = x ∨ x.max2 y = y) ∧ x.rank ≤ (x.max2 y).rank ∧ y.rank ≤ (x.max2 y).rank := by
  unfold Num.max2
  split
  next hz =>
    obtain ⟨hzx, hzy⟩ := Bool.and_eq_true_iff.mp hz
    have hxy : x.rank = y.rank := (Num.rank_of_isZero hzx).trans (Num.rank_of_isZero hzy).symm
    split
    · exact ⟨.inr rfl, hxy.le, le_rfl⟩
    · exact ⟨.inl rfl, le_rfl, hxy.ge⟩
  next =>
    split
    next hle => exact ⟨.inl rfl, le_rfl, (Num.le_iff_rank hy hx).mp hle⟩
    next hle => exact ⟨.inr rfl, (not_le.mp (mt (Num.le_iff_rank hy hx).mpr hle)).le, le_rfl⟩

/-- The lesser of two values is one of them, and neither is below it. -/
theorem Num.min2_spec {x y : Num} (hx : x.Whole) (hy : y.Whole) : (x.min2 y = x ∨ x.min2 y = y) ∧ (x.min2 y).rank ≤ x.rank ∧ (x.min2 y).rank ≤ y.rank := by
  unfold Num.min2
  split
  next hz =>
    obtain ⟨hzx, hzy⟩ := Bool.and_eq_true_iff.mp hz
    have hxy : x.rank = y.rank := (Num.rank_of_isZero hzx).trans (Num.rank_of_isZero hzy).symm
    split
    · exact ⟨.inl rfl, le_rfl, hxy.le⟩
    · exact ⟨.inr rfl, hxy.ge, le_rfl⟩
  next =>
    split
    next hle => exact ⟨.inl rfl, le_rfl, (Num.le_iff_rank hx hy).mp hle⟩
    next hle => exact ⟨.inr rfl, (not_le.mp (mt (Num.le_iff_rank hx hy).mpr hle)).le, le_rfl⟩

/-- Folding an operation that keeps one of its two operands, in a relation to both, ends with an element in that relation to all. -/
theorem foldl_keeps {α : Type} {g : α → α → α} {P : α → Prop} {R : α → α → Prop} (htr : ∀ x y z, R x y → R y z → R x z) (hrf : ∀ x, R x x)
    (hg : ∀ x y, P x → P y → (g x y = x ∨ g x y = y) ∧ R x (g x y) ∧ R y (g x y)) (l : List α) :
    ∀ x, P x → (∀ y ∈ l, P y) → l.foldl g x ∈ x :: l ∧ ∀ y ∈ x :: l, R y (l.foldl g x) := by
  induction l with
  | nil => exact fun x _ _ => ⟨List.mem_cons_self .., fun y hy => by rw [List.mem_singleton.mp hy]; exact hrf x⟩
  | cons z r ih =>
    intro x hx hl
    have hz := hl z (List.mem_cons_self ..)
    obtain ⟨hor, hrx, hrz⟩ := hg x z hx hz
    have hp : P (g x z) := by rcases hor with h | h <;> rw [h] <;> assumption
    obtain ⟨hm, hall⟩ := ih (g x z) hp (fun y hy => hl y (List.mem_cons_of_mem _ hy))
    refine ⟨?_, fun y hy => ?_⟩
    · rw [List.foldl_cons]
      rcases List.mem_cons.mp hm with h | h
      · rw [h]
        rcases hor with h' | h' <;> simp [h']
      · simp [h]
    · have htop := hall _ (List.mem_cons_self ..)
      rcases List.mem_cons.mp hy with rfl | hy
      · exact htr _ _ _ hrx htop
      rcases List.mem_cons.mp hy with rfl | hy
      · exact htr _ _ _ hrz htop
      · exact hall y (List.mem_cons_of_mem _ hy)

/-! ### What codes decode to -/

theorem FFmt.decode_cases (f : FFmt) (c : Nat) : f.decode c = .nan ∨ (∃ s, f.decode c = .inf s) ∨ ∃ s n e, f.decode c = .fin s n e 1 := by
  unfold FFmt.decode
  dsimp only
  cases f.top with
  | ieee =>
    dsimp only
    split
    · exact .inr (.inl ⟨_, rfl⟩)
    · split
      · exact .inl rfl
      · exact .inr (.inr ⟨_, _, _, rfl⟩)
  | nanOnly =>
    dsimp only
    split
    · exact .inl rfl
    · exact .inr (.inr ⟨_, _, _, rfl⟩)
  | numbers => exact .inr (.inr ⟨_, _, _, rfl⟩)

theorem FFmt.decode_whole {f : FFmt} {c : Nat} (h : (f.decode c).isNan = false) : (f.decode c).Whole := by
  rcases f.decode_cases c with hd | ⟨s, hd⟩ | ⟨s, n, e, hd⟩ <;> rw [hd] at h ⊢
  · cases h
  · trivial
  · rfl

theorem Num.abs_whole {x : Num} (h : x.Whole) : x.abs.Whole := by cases x <;> exact h

theorem Num.isNan_abs (x : Num) : x.abs.isNan = x.isNan := by cases x <;> rfl

theorem numOf_finite {w : Word} (hn : (numOf w).isNan = false) (hi : (numOf w).isInf = false) : ∃ s n e, numOf w = .fin s n e 1 := by
  rcases f32.decode_cases w.toNat with hd | ⟨s, hd⟩ | h
  · rw [numOf, hd] at hn; cases hn
  · rw [numOf, hd] at hi; cases hi
  · exact h

/-! ### BMAX and BMIN -/

/-- The value that BMAX and BMIN read of a word. -/
def maxOperand (kind : MaxKind) (ty : FTy) (w : Word) : Num :=
  let x := (ftyFmt ty).decode w.toNat
  if kind = .abs then x.abs else x

theorem maxOperand_whole {kind : MaxKind} {ty : FTy} {w : Word} (h : (maxOperand kind ty w).isNan = false) : (maxOperand kind ty w).Whole := by
  unfold maxOperand at *
  dsimp only at *
  split at h
  next hk => rw [if_pos hk]; exact Num.abs_whole (FFmt.decode_whole (by rwa [Num.isNan_abs] at h))
  next hk => rw [if_neg hk]; exact FFmt.decode_whole h

theorem bmaxVal_nan {isMax : Bool} {kind : MaxKind} {ty : FTy} {xs : List Word} (h : ∃ w ∈ xs, (maxOperand kind ty w).isNan = true) :
    bmaxVal isMax kind ty xs = 0x7FC00000 := by
  refine if_pos ?_
  rw [List.any_map]
  exact List.any_eq_true.mpr h

/-- The result is that of one of the words, and no other is greater (BMAX) or less (BMIN). -/
theorem bmaxVal_spec {isMax : Bool} {kind : MaxKind} {ty : FTy} {xs : List Word} (h : ∀ w ∈ xs, (maxOperand kind ty w).isNan = false) (hx : xs ≠ []) :
    ∃ w ∈ xs, bmaxVal isMax kind ty xs = rne32 (maxOperand kind ty w) ∧
      ∀ y ∈ xs, (if isMax then (maxOperand kind ty w).lt (maxOperand kind ty y) else (maxOperand kind ty y).lt (maxOperand kind ty w)) = false := by
  obtain ⟨x, r, rfl⟩ := List.exists_cons_of_ne_nil hx
  have hw : ∀ y ∈ x :: r, (maxOperand kind ty y).Whole := fun y hy => maxOperand_whole (h y hy)
  have hwr : ∀ y ∈ r.map (maxOperand kind ty), y.Whole := by
    intro y hy
    obtain ⟨w, hw', rfl⟩ := List.mem_map.mp hy
    exact hw w (List.mem_cons_of_mem _ hw')
  have hval : bmaxVal isMax kind ty (x :: r) =
      rne32 ((r.map (maxOperand kind ty)).foldl (fun a b => if isMax then a.max2 b else a.min2 b) (maxOperand kind ty x)) := by
    refine if_neg ?_
    rw [List.any_map, List.any_eq_true]
    rintro ⟨w, hw', hn⟩
    exact Bool.eq_false_iff.mp (h w hw') hn
  have fold {R : Num → Num → Prop} (htr : ∀ x y z, R x y → R y z → R x z) (hrf : ∀ x, R x x)
      (hg : ∀ x y, x.Whole → y.Whole → ((if isMax then x.max2 y else x.min2 y) = x ∨ (if isMax then x.max2 y else x.min2 y) = y) ∧
        R x (if isMax then x.max2 y else x.min2 y) ∧ R y (if isMax then x.max2 y else x.min2 y)) :
      ∃ w ∈ x :: r, bmaxVal isMax kind ty (x :: r) = rne32 (maxOperand kind ty w) ∧ ∀ y ∈ x :: r, R (maxOperand kind ty y) (maxOperand kind ty w) := by
    obtain ⟨hm, hall⟩ := foldl_keeps htr hrf hg (r.map (maxOperand kind ty)) _ (hw x (List.mem_cons_self ..)) hwr
    rw [← List.map_cons, List.mem_map] at hm
    obtain ⟨w, hwm, hwe⟩ := hm
    exact ⟨w, hwm, by rw [hval, hwe], fun y hy => by rw [hwe]; exact hall _ (List.map_cons ▸ List.mem_map_of_mem hy)⟩
  cases isMax
  · obtain ⟨w, hwm, hv, hall⟩ := fold (R := fun y w => w.rank ≤ y.rank) (fun _ _ _ h1 h2 => h2.trans h1) (fun _ => le_rfl) (fun _ _ => Num.min2_spec)
    refine ⟨w, hwm, hv, fun y hy => Bool.eq_false_iff.mpr (mt (Num.lt_iff_rank (hw y hy) (hw w hwm)).mp (not_lt.mpr (hall y hy)))⟩
  · obtain ⟨w, hwm, hv, hall⟩ := fold (R := fun y w => y.rank ≤ w.rank) (fun _ _ _ h1 h2 => h1.trans h2) (fun _ => le_rfl) (fun _ _ => Num.max2_spec)
    refine ⟨w, hwm, hv, fun y hy => Bool.eq_false_iff.mpr (mt (Num.lt_iff_rank (hw w hwm) (hw y hy)).mp (not_lt.mpr (hall y hy)))⟩

/-! ### Units of a power of two -/

theorem log2_bounds {n : Nat} (h : n ≠ 0) : (2 : ℚ) ^ (n.log2 : Int) ≤ n ∧ (n : ℚ) < 2 ^ ((n.log2 : Int) + 1) := by
  have h1 := Nat.log2_self_le h
  have h2 := Nat.lt_log2_self (n := n)
  constructor
  · exact_mod_cast h1
  · exact_mod_cast h2

/-- The exponent of a magnitude. -/
theorem flog2_spec {n d : Nat} {e : Int} (hn : n ≠ 0) (hd : d ≠ 0) :
    (2 : ℚ) ^ flog2 n e d ≤ n * 2 ^ e / d ∧ n * 2 ^ e / d < (2 : ℚ) ^ (flog2 n e d + 1) := by
  have hd0 : (0 : ℚ) < d := by exact_mod_cast Nat.pos_of_ne_zero hd
  have he0 : (0 : ℚ) < 2 ^ e := zpow_pos two_pos _
  obtain ⟨hn1, hn2⟩ := log2_bounds hn
  obtain ⟨hd1, hd2⟩ := log2_bounds hd
  have key (l : Int) : ((2 : ℚ) ^ (l + e) ≤ n * 2 ^ e / d ↔ d * (2 : ℚ) ^ l ≤ n) := by
    rw [le_div_iff₀ hd0, zpow_add₀ two_ne_zero, show (2 : ℚ) ^ l * 2 ^ e * d = (d * 2 ^ l) * 2 ^ e by ring, mul_le_mul_iff_left₀ he0]
  have hbelow (l : Int) : (if 0 ≤ l then decide (n < d * 2 ^ l.toNat) else decide (n * 2 ^ (-l).toNat < d)) = true ↔ (n : ℚ) < d * 2 ^ l := by
    split
    next h =>
      rw [decide_eq_true_iff, ← Nat.cast_lt (α := ℚ)]
      push_cast
      rw [← zpow_natCast, Int.toNat_of_nonneg h]
    next h =>
      rw [decide_eq_true_iff, ← Nat.cast_lt (α := ℚ)]
      push_cast
      rw [← zpow_natCast, Int.toNat_of_nonneg (by omega), zpow_neg, ← div_eq_mul_inv, div_lt_iff₀ (zpow_pos two_pos _)]
  have hlow : (d : ℚ) * 2 ^ ((n.log2 : Int) - d.log2 - 1) ≤ n := by
    refine le_trans ?_ hn1
    rw [show (n.log2 : Int) = (d.log2 + 1) + (n.log2 - d.log2 - 1) by ring, zpow_add₀ two_ne_zero,
      show (d.log2 : Int) + 1 + (n.log2 - d.log2 - 1) - d.log2 - 1 = n.log2 - d.log2 - 1 by ring]
    exact mul_le_mul_of_nonneg_right hd2.le (zpow_pos two_pos _).le
  have hhigh : (n : ℚ) < d * 2 ^ ((n.log2 : Int) - d.log2 + 1) := by
    refine lt_of_lt_of_le hn2 ?_
    rw [show (n.log2 : Int) + 1 = d.log2 + (n.log2 - d.log2 + 1) by ring, zpow_add₀ two_ne_zero]
    exact mul_le_mul_of_nonneg_right hd1 (zpow_pos two_pos _).le
  have between (l : Int) (h1 : d * (2 : ℚ) ^ l ≤ n) (h2 : (n : ℚ) < d * 2 ^ (l + 1)) :
      (2 : ℚ) ^ (l + e) ≤ n * 2 ^ e / d ∧ n * 2 ^ e / d < (2 : ℚ) ^ (l + e + 1) :=
    ⟨(key l).mpr h1, not_le.mp (by rw [show l + e + 1 = l + 1 + e by ring]; exact mt (key (l + 1)).mp (not_le.mpr h2))⟩
  have hflog (l : Int) (hl : l = n.log2 - d.log2) : flog2 n e d =
      (if (if 0 ≤ l then decide (n < d * 2 ^ l.toNat) else decide (n * 2 ^ (-l).toNat < d)) = true then l - 1 else l) + e := by
    subst hl; rfl
  by_cases h : (n : ℚ) < d * 2 ^ ((n.log2 : Int) - d.log2)
  · rw [hflog _ rfl, if_pos ((hbelow _).mpr h)]
    exact between _ hlow (by rw [sub_add_cancel]; exact h)
  · rw [hflog _ rfl, if_neg (mt (hbelow _).mp h)]
    exact between _ (not_lt.mp h) hhigh

/-- A quotient rounded up, by its integer part and remainder. -/
theorem quotient_ceil (N : Nat) {D : Nat} (hD : 0 < D) : ((if N % D = 0 then N / D else N / D + 1 : Nat) : Int) = ⌈(N : ℚ) / D⌉ := by
  have hD' : (0 : ℚ) < D := by exact_mod_cast hD
  have hdiv : ((N / D : Nat) : ℚ) * D + (N % D : Nat) = N := by exact_mod_cast Nat.div_add_mod' N D
  symm
  rw [Int.ceil_eq_iff, lt_div_iff₀ hD', div_le_iff₀ hD']
  split
  next h =>
    rw [h] at hdiv
    simp only [Int.cast_natCast, Nat.cast_zero] at hdiv ⊢
    constructor <;> linarith
  next h =>
    have hm : ((N % D : Nat) : ℚ) < D := by exact_mod_cast Nat.mod_lt N hD
    have hp : (0 : ℚ) < (N % D : Nat) := by exact_mod_cast Nat.pos_of_ne_zero h
    simp only [Int.cast_natCast, Int.cast_add, Int.cast_one, Nat.cast_add, Nat.cast_one] at hdiv ⊢
    constructor <;> linarith

/-- A magnitude in units: the quotient rounded up is the least integer that is not below it. -/
theorem inUnits_ceil {n d : Nat} {e : Int} (hd : d ≠ 0) (q : Int) :
    ((if (inUnits n e d q).2.1 = 0 then (inUnits n e d q).1 else (inUnits n e d q).1 + 1 : Nat) : Int) = ⌈(n * 2 ^ e / d : ℚ) / 2 ^ q⌉ := by
  have hD : 0 < d * 2 ^ (q - e).toNat := Nat.mul_pos (Nat.pos_of_ne_zero hd) (Nat.two_pow_pos _)
  have hd0 : (d : ℚ) ≠ 0 := by exact_mod_cast hd
  have hquot : (n * 2 ^ e / d : ℚ) / 2 ^ q = ((n * 2 ^ (e - q).toNat : Nat) : ℚ) / ((d * 2 ^ (q - e).toNat : Nat) : ℚ) := by
    push_cast
    rw [div_div, div_eq_div_iff (by positivity) (by positivity), ← zpow_natCast, ← zpow_natCast]
    have : (2 : ℚ) ^ e * 2 ^ ((q - e).toNat : Int) = 2 ^ ((e - q).toNat : Int) * 2 ^ q := by
      rw [← zpow_add₀ two_ne_zero, ← zpow_add₀ two_ne_zero]
      congr 1
      omega
    linear_combination (n * d : ℚ) * this
  rw [hquot]
  exact quotient_ceil _ hD

/-! ### Scale words (R32 to R35, R37) -/

theorem any_notFinite_eq_true {xs : List Num} : xs.any (fun x => x.isNan || x.isInf) = true ↔ ∃ x ∈ xs, x.isNan = true ∨ x.isInf = true := by
  simp

theorem any_notFinite_eq_false {xs : List Num} (h : ∀ x ∈ xs, x.isNan = false ∧ x.isInf = false) : ¬ xs.any (fun x => x.isNan || x.isInf) = true := by
  rw [any_notFinite_eq_true]
  rintro ⟨x, hx, hn | hn⟩
  · rw [(h x hx).1] at hn; cases hn
  · rw [(h x hx).2] at hn; cases hn

theorem clampI_eq {lo hi v : Int} (h : lo ≤ hi) : clampI lo hi v = max lo (min hi v) := by
  unfold clampI
  split
  · omega
  · split <;> omega

theorem chooseScale_nan {e : Elem} {ocp : Bool} {ws : List Word} (h : ∃ w ∈ ws, (numOf w).isNan = true ∨ (numOf w).isInf = true) :
    chooseScale e ocp (ws.map numOf) = 0xFF000 := by
  obtain ⟨w, hw, hn⟩ := h
  exact if_pos (any_notFinite_eq_true.mpr ⟨numOf w, List.mem_map_of_mem hw, hn⟩)

/-- A finite magnitude, over the denominator 1. -/
def Num.Magnitude (x : Num) : Prop := ∃ n e, x = .fin false n e 1

theorem Num.Magnitude.lt_iff {x y : Num} (hx : x.Magnitude) (hy : y.Magnitude) : x.lt y = true ↔ ratOf x < ratOf y := by
  obtain ⟨n, e, rfl⟩ := hx
  obtain ⟨m, k, rfl⟩ := hy
  rw [Num.lt, Num.cmp_fin_one, beq_iff_eq, compare_lt_iff_lt]

/-- The largest magnitude of finite values is that of zero or of one of them, and none is above it. -/
theorem amaxOf_spec {xs : List Num} (h : ∀ x ∈ xs, ∃ s n e, x = .fin s n e 1) :
    (amaxOf xs).Magnitude ∧ (amaxOf xs = .zero false ∨ ∃ x ∈ xs, amaxOf xs = x.abs) ∧ ∀ x ∈ xs, ratOf x.abs ≤ ratOf (amaxOf xs) := by
  have hmag : ∀ y ∈ xs.map Num.abs, y.Magnitude := by
    intro y hy
    obtain ⟨x, hx, rfl⟩ := List.mem_map.mp hy
    obtain ⟨s, n, e, rfl⟩ := h x hx
    exact ⟨n, e, rfl⟩
  have hzero : (Num.zero false).Magnitude := ⟨0, 0, rfl⟩
  have hstep : ∀ x y : Num, x.Magnitude → y.Magnitude → ((if x.lt y then y else x) = x ∨ (if x.lt y then y else x) = y) ∧
      ratOf x ≤ ratOf (if x.lt y then y else x) ∧ ratOf y ≤ ratOf (if x.lt y then y else x) := by
    intro x y hx hy
    split
    next hl => exact ⟨.inr rfl, ((hx.lt_iff hy).mp hl).le, le_rfl⟩
    next hl => exact ⟨.inl rfl, le_rfl, not_lt.mp (mt (hx.lt_iff hy).mpr hl)⟩
  have hfold : amaxOf xs = (xs.map Num.abs).foldl (fun x y => if x.lt y then y else x) (.zero false) := by rw [amaxOf, List.foldl_map]
  obtain ⟨hm, hall⟩ := foldl_keeps (R := fun x y => ratOf x ≤ ratOf y) (fun _ _ _ => le_trans) (fun _ => le_rfl) hstep _ _ hzero hmag
  rw [← hfold] at hm hall
  refine ⟨?_, ?_, fun x hx => hall _ (List.mem_cons_of_mem _ (List.mem_map_of_mem hx))⟩
  · rcases List.mem_cons.mp hm with h' | h'
    · rw [h']; exact hzero
    · exact hmag _ h'
  · rcases List.mem_cons.mp hm with h' | h'
    · exact .inl h'
    · obtain ⟨x, hx, hxe⟩ := List.mem_map.mp h'
      exact .inr ⟨x, hx, hxe.symm⟩

/-- The largest magnitude of finite words, as a rational. -/
theorem amaxOf_words {ws : List Word} {a : ℚ} (hf : ∀ w ∈ ws, (numOf w).isNan = false ∧ (numOf w).isInf = false)
    (hle : ∀ w ∈ ws, |ratOf (numOf w)| ≤ a) (hex : ∃ w ∈ ws, |ratOf (numOf w)| = a) :
    ∃ n e, amaxOf (ws.map numOf) = .fin false n e 1 ∧ (n : ℚ) * 2 ^ e = a := by
  have hfin : ∀ x ∈ ws.map numOf, ∃ s n e, x = .fin s n e 1 := by
    intro x hx
    obtain ⟨w, hw, rfl⟩ := List.mem_map.mp hx
    exact numOf_finite (hf w hw).1 (hf w hw).2
  have habs : ∀ x ∈ ws.map numOf, ratOf x.abs = |ratOf x| := by
    intro x hx
    obtain ⟨s, n, e, rfl⟩ := hfin x hx
    exact ratOf_abs_fin s n e
  obtain ⟨⟨n, e, hne⟩, hor, hall⟩ := amaxOf_spec hfin
  refine ⟨n, e, hne, ?_⟩
  rw [show (n : ℚ) * 2 ^ e = ratOf (amaxOf (ws.map numOf)) by rw [hne]; simp [ratOf]]
  obtain ⟨w, hw, hwa⟩ := hex
  have hmem := List.mem_map_of_mem (f := numOf) hw
  have hge : a ≤ ratOf (amaxOf (ws.map numOf)) := by
    rw [← hwa, ← habs _ hmem]
    exact hall _ hmem
  refine le_antisymm ?_ hge
  rcases hor with h0 | ⟨x, hx, hxe⟩
  · rw [h0, ← hwa]
    simp [ratOf, Num.zero]
  · rw [hxe, habs x hx]
    obtain ⟨w', hw', rfl⟩ := List.mem_map.mp hx
    exact hle w' hw'

/-- The scale word of tight mode (R33) with exponent `x`, before its clamping, and mantissa `y`. -/
def scaleWord (x : Int) (y : Nat) : Nat := if x < 0 then 0 else if 254 < x then 254 * 4096 + 4095 else x.toNat * 4096 + y

section
variable {e : Elem} {xs : List Num} {n : Nat} {ex : Int}

theorem chooseScale_zero {ocp : Bool} (hf : ∀ x ∈ xs, x.isNan = false ∧ x.isInf = false) (ha : amaxOf xs = .fin false 0 ex 1) : chooseScale e ocp xs = 0 := by
  rw [chooseScale, if_neg (any_notFinite_eq_false hf), ha]
  exact if_pos rfl

theorem chooseScale_ocp (hf : ∀ x ∈ xs, x.isNan = false ∧ x.isInf = false) (ha : amaxOf xs = .fin false n ex 1) (hn : n ≠ 0) :
    chooseScale e true xs = (clampI 0 254 (flog2 n ex 1 - emaxOf e + 127)).toNat * 4096 := by
  rw [chooseScale, if_neg (any_notFinite_eq_false hf), ha]
  exact (if_neg hn).trans (if_pos rfl)

set_option maxRecDepth 20000 in
/-- The word of tight mode, of the exponent `l` of a quotient and its mantissa `k`, which is rounded up and may carry into the exponent. -/
theorem chooseScale_tight {M : Nat} {E : Int} (hf : ∀ x ∈ xs, x.isNan = false ∧ x.isInf = false) (ha : amaxOf xs = .fin false n ex 1) (hn : n ≠ 0)
    (hM : maxFinite e = .fin false M E 1) (hM0 : M ≠ 0) {l : Int} {u : Nat × Nat × Nat} {k : Nat} (hl : flog2 (n * 1) (ex - E) (1 * M) = l)
    (hu : inUnits (n * 1) (ex - E) (1 * M) (l - 12) = u) (hk : (if u.2.1 = 0 then u.1 else u.1 + 1) = k) :
    chooseScale e false xs = if k - 4096 = 4096 then scaleWord (l + 127 + 1) 0 else scaleWord (l + 127) (k - 4096) := by
  obtain ⟨a, r, D⟩ := u
  rw [chooseScale, if_neg (any_notFinite_eq_false hf), ha]
  refine (if_neg hn).trans ((if_neg Bool.false_ne_true).trans ?_)
  rw [hM, Num.div, if_neg hM0]
  subst hk hl
  dsimp only
  rw [hu]
  dsimp only
  generalize (if r = 0 then a else a + 1) - 4096 = m
  by_cases h : m = 4096
  · simp only [if_pos h, scaleWord]
  · simp only [if_neg h, scaleWord]

/-- The largest finite value of an MX format. -/
theorem maxFinite_mx {e : Elem} (h : isMxE e = true) : ∃ M E, M ≠ 0 ∧ maxFinite e = .fin false M E 1 := by
  cases e
  case mx8e4 => exact ⟨14, 5, by decide, by decide⟩
  case mx8e5 => exact ⟨7, 13, by decide, by decide⟩
  case mx6e2 => exact ⟨15, -1, by decide, by decide⟩
  case mx6e3 => exact ⟨7, 2, by decide, by decide⟩
  case mx4 => exact ⟨3, 1, by decide, by decide⟩
  case mxi8 => exact ⟨127, -6, by decide, rfl⟩
  all_goals cases h

theorem scaleWord_eq (x : Int) (y : Nat) : scaleWord x y = if x < 0 then 0 else if 254 < x then 254 * 4096 + 4095 else (x * 4096 + y).toNat := by
  unfold scaleWord
  split
  · rfl
  · split
    · rfl
    · omega

/-- The scale word of tight mode (R33). -/
theorem chooseScale_tight_spec (he : isMxE e = true) (hf : ∀ x ∈ xs, x.isNan = false ∧ x.isInf = false) (ha : amaxOf xs = .fin false n ex 1) (hn : n ≠ 0)
    {a : ℚ} (haq : (n : ℚ) * 2 ^ ex = a) : ∃ l : Int, let t := a / ratOf (maxFinite e)
      (2 : ℚ) ^ l ≤ t ∧ t < (2 : ℚ) ^ (l + 1) ∧
      let m : Int := ⌈(t / (2 : ℚ) ^ l - 1) * 4096⌉
      let x : Int := if m = 4096 then l + 128 else l + 127
      let y : Int := if m = 4096 then 0 else m
      chooseScale e false xs = if x < 0 then 0 else if 254 < x then 254 * 4096 + 4095 else (x * 4096 + y).toNat := by
  obtain ⟨M, E, hM0, hM⟩ := maxFinite_mx he
  have ht : ((n * 1 : Nat) : ℚ) * 2 ^ (ex - E) / ((1 * M : Nat) : ℚ) = a / ratOf (maxFinite e) := by
    rw [hM, ← haq, zpow_sub₀ two_ne_zero]
    have : (M : ℚ) ≠ 0 := by exact_mod_cast hM0
    simp [ratOf]
    field_simp
  obtain ⟨h1, h2⟩ := flog2_spec (e := ex - E) (show n * 1 ≠ 0 by omega) (show 1 * M ≠ 0 by omega)
  rw [ht] at h1 h2
  refine ⟨flog2 (n * 1) (ex - E) (1 * M), h1, h2, ?_⟩
  have hceil := inUnits_ceil (n := n * 1) (e := ex - E) (show 1 * M ≠ 0 by omega) (flog2 (n * 1) (ex - E) (1 * M) - 12)
  rw [ht] at hceil
  generalize hl : flog2 (n * 1) (ex - E) (1 * M) = l at *
  generalize hu : inUnits (n * 1) (ex - E) (1 * M) (l - 12) = u at *
  generalize hk : (if u.2.1 = 0 then u.1 else u.1 + 1) = k at *
  have hw := chooseScale_tight hf ha hn hM hM0 hl hu hk
  generalize a / ratOf (maxFinite e) = q at *
  have hpos : (0 : ℚ) < 2 ^ l := zpow_pos two_pos _
  have hunit : q / (2 : ℚ) ^ (l - 12) = (q / 2 ^ l - 1) * 4096 + (4096 : Int) := by
    rw [zpow_sub₀ two_ne_zero]
    push_cast
    field_simp
    norm_num
  have hm0 : 0 ≤ ⌈(q / (2 : ℚ) ^ l - 1) * 4096⌉ := by
    refine Int.ceil_nonneg (mul_nonneg ?_ (by norm_num))
    rw [sub_nonneg, le_div_iff₀ hpos, one_mul]
    exact h1
  rw [hunit, Int.ceil_add_intCast] at hceil
  generalize ⌈(q / (2 : ℚ) ^ l - 1) * 4096⌉ = m at *
  dsimp only
  rw [hw]
  by_cases h : m = 4096
  · rw [if_pos (by omega), if_pos h, if_pos h, scaleWord_eq]
    rw [show l + 127 + 1 = l + 128 by ring, Nat.cast_zero]
  · rw [if_neg (by omega), if_neg h, if_neg h, scaleWord_eq, show ((k - 4096 : Nat) : Int) = m by omega]

/-- The scale word of OCP mode (R34). -/
theorem chooseScale_ocp_spec (hf : ∀ x ∈ xs, x.isNan = false ∧ x.isInf = false) (ha : amaxOf xs = .fin false n ex 1) (hn : n ≠ 0)
    {a : ℚ} (haq : (n : ℚ) * 2 ^ ex = a) : ∃ l : Int, (2 : ℚ) ^ l ≤ a ∧ a < (2 : ℚ) ^ (l + 1) ∧
      chooseScale e true xs = (max 0 (min 254 (l - emaxOf e + 127))).toNat * 4096 := by
  obtain ⟨h1, h2⟩ := flog2_spec (e := ex) hn one_ne_zero
  rw [Nat.cast_one, div_one, haq] at h1 h2
  exact ⟨_, h1, h2, by rw [chooseScale_ocp hf ha hn, clampI_eq (by decide)]⟩

end

theorem ratOf_maxFinite : ratOf (maxFinite .mx8e4) = 448 ∧ ratOf (maxFinite .mx8e5) = 57344 ∧ ratOf (maxFinite .mx6e2) = 15 / 2 ∧
    ratOf (maxFinite .mx6e3) = 28 ∧ ratOf (maxFinite .mx4) = 6 ∧ ratOf (maxFinite .mxi8) = 127 / 64 := by
  rw [show maxFinite .mx8e4 = .fin false 14 5 1 by decide, show maxFinite .mx8e5 = .fin false 7 13 1 by decide,
    show maxFinite .mx6e2 = .fin false 15 (-1) 1 by decide, show maxFinite .mx6e3 = .fin false 7 2 1 by decide,
    show maxFinite .mx4 = .fin false 3 1 1 by decide, show maxFinite .mxi8 = .fin false 127 (-6) 1 from rfl]
  norm_num [ratOf]

theorem mxScales : MxScales := by
  refine ⟨fun e ocp ws h => chooseScale_nan h, fun e ws a he hf hle hex => ?_, ratOf_maxFinite, rfl, rfl, rfl, rfl, rfl, rfl⟩
  have hfin : ∀ x ∈ ws.map numOf, x.isNan = false ∧ x.isInf = false := by
    intro x hx
    obtain ⟨w, hw, rfl⟩ := List.mem_map.mp hx
    exact hf w hw
  obtain ⟨n, ex, ha, haq⟩ := amaxOf_words hf hle hex
  have hn : a ≠ 0 → n ≠ 0 := by
    rintro h0 rfl
    exact h0 (by rw [← haq, Nat.cast_zero, zero_mul])
  refine ⟨fun h0 ocp => ?_, fun h0 => ⟨chooseScale_tight_spec he hfin ha (hn h0) haq, chooseScale_ocp_spec hfin ha (hn h0) haq⟩⟩
  obtain rfl : n = 0 := by
    have : (2 : ℚ) ^ ex ≠ 0 := zpow_ne_zero _ two_ne_zero
    simpa [h0, this] using haq
  exact chooseScale_zero hfin ha

theorem groupScales : GroupScales := by
  intro zf lo hi
  refine ⟨fun h => if_pos (any_notFinite_eq_true.mpr h), fun hf => ?_⟩
  have hz : ((if zf = .a4 then Elem.a4 else .a8) = .a4) ↔ zf = .a4 := by cases zf <;> decide
  intro l h range f qmax
  have hval : bzpVal zf lo hi = chooseA (if zf = .a4 then .a4 else .a8) l h := if_neg (any_notFinite_eq_false hf)
  rw [hval, chooseA]
  simp only [hz, clampI_eq (Int.natCast_nonneg _)]
  exact ⟨fun h0 => if_pos h0, fun h0 => if_neg (Bool.eq_false_iff.mp h0)⟩

/-! ### Quantised elements (R36, R37, R44, R159, R161) -/

/-- The element that a scale word makes of one input. -/
def quantOne (e : Elem) (s20 : Nat) (m : Mode) (x : Inp) : Quant :=
  if isAE e then quantA e m (aScale e s20).1 (aScale e s20).2 x else quantMx e m (mxScale s20) x

section
variable {e : Elem} {s20 : Nat} {ms : List Mode} {xs : List Inp}

theorem quantGiven_nan (h : nanScale e s20 = true) : quantGiven e s20 ms xs = ⟨s20, xs.map (fun _ => 0), ⟨xs.length, 0⟩⟩ := if_pos h

theorem quantGiven_eq (h : nanScale e s20 = false) : quantGiven e s20 ms xs =
    ⟨s20, (xs.zip ms).map (fun p => (quantOne e s20 p.2 p.1).code), Health.sum ((xs.zip ms).map (fun p => (quantOne e s20 p.2 p.1).ev))⟩ := by
  rw [quantGiven, if_neg (Bool.eq_false_iff.mp h)]
  simp only [List.map_map]
  rfl

theorem quantGiven_s20 : (quantGiven e s20 ms xs).s20 = s20 := by
  unfold quantGiven
  split <;> rfl

/-- One element alone. -/
theorem quantGiven_one (h : nanScale e s20 = false) (m : Mode) (x : Inp) :
    quantGiven e s20 [m] [x] = ⟨s20, [(quantOne e s20 m x).code], (quantOne e s20 m x).ev⟩ := by
  rw [quantGiven_eq h]
  simp [Health.sum, Health.add, Health.none]

theorem quantGiven_code {i : Nat} {x : Inp} {m : Mode} (h : nanScale e s20 = false) (hx : xs[i]? = some x) (hm : ms[i]? = some m) :
    (quantGiven e s20 ms xs).codes[i]? = some (quantOne e s20 m x).code := by
  rw [quantGiven_eq h, List.getElem?_map, (List.getElem?_zip_eq_some (z := (x, m))).mpr ⟨hx, hm⟩]
  rfl

end

theorem zeroedBy_fin {s : Bool} {n d : Nat} {e : Int} {z : Bool} : zeroedBy (.fin s n e d) z = if n ≠ 0 ∧ z = true then 1 else 0 := rfl

theorem quantMx_float {e : Elem} {f : FFmt} {m : Mode} {scale : Num} {neg inpNeg : Bool} {n d : Nat} {x : Int} (h : floatOf e = some f) :
    quantMx e m scale ⟨.fin neg n x d, inpNeg⟩ =
      let r := f.roundTo m (Num.div (.fin neg n x d) scale)
      if r.ovf then ⟨f.signBit neg + f.maxCode, ⟨1, 0⟩⟩
      else ⟨r.code, ⟨0, zeroedBy (.fin neg n x d) (r.code % 2 ^ (f.ebits + f.mbits) == 0)⟩⟩ := by
  unfold quantMx
  rw [h]
  rfl

theorem quantA_fin {e : Elem} {m : Mode} {scale : Num} {z : Nat} {neg inpNeg : Bool} {n d : Nat} {x : Int} (h : scale.isZero = false) :
    quantA e m scale z ⟨.fin neg n x d, inpNeg⟩ =
      let qmax : Int := if e = .a4 then 15 else 255
      let k := ((Num.div (.fin neg n x d) scale).toIntRound m).getD 0 + z
      let w := clampI 0 qmax k
      ⟨w.toNat, ⟨if k = w then 0 else 1, if k = w then zeroedBy (.fin neg n x d) (w == z) else 0⟩⟩ := by
  exact if_neg (Bool.eq_false_iff.mp h)

theorem clampI_eq_self_iff {lo hi v : Int} (h : lo ≤ hi) : v = clampI lo hi v ↔ ¬ (v < lo ∨ hi < v) := by
  rw [clampI_eq h]
  omega

theorem quantised : Quantised := by
  refine ⟨fun e s20 ms xs h => quantGiven_nan h, fun e s20 ms xs i x m h hx hm => ⟨quantGiven_s20, ?code⟩, fun e f m scale neg inpNeg n d x hf => ?mx,
    fun m scale neg inpNeg n d x => ?int, fun e m scale z neg inpNeg n d x => ?group, fun e m scale z inpNeg => ⟨rfl, rfl, ?inf⟩⟩
  case code =>
    rw [quantGiven_code h hx hm, quantOne]
    split <;> rfl
  case mx =>
    intro v r zero
    have hq := quantMx_float (m := m) (scale := scale) (neg := neg) (inpNeg := inpNeg) (n := n) (d := d) (x := x) hf
    refine ⟨fun ho => ?_, fun ho hz => ?_, fun ho hz => ?_⟩
    · rw [hq]
      exact if_pos ho
    · rw [hq]
      refine (if_neg (Bool.eq_false_iff.mp ho)).trans ?_
      rw [zeroedBy_fin, if_pos ⟨hz.1, beq_iff_eq.mpr hz.2⟩]
    · rw [hq]
      refine (if_neg (Bool.eq_false_iff.mp ho)).trans ?_
      rw [zeroedBy_fin, if_neg (fun h => hz ⟨h.1, beq_iff_eq.mp h.2⟩)]
  case int =>
    intro v k
    rw [← clampI_eq (by decide)]
    rfl
  case group =>
    intro v qmax k
    have hq : (0 : Int) ≤ qmax := by
      show (0 : Int) ≤ if e = .a4 then 15 else 255
      split <;> decide
    refine ⟨fun h => ?_, fun h => ?_⟩
    · rw [quantA_fin h, ← clampI_eq hq]
      refine ⟨rfl, ?_⟩
      have hself := clampI_eq_self_iff (v := k) hq
      show (if k = clampI 0 qmax k then 0 else 1) = 1 ↔ _
      by_cases hk : k = clampI 0 qmax k
      · rw [if_pos hk]
        exact iff_of_false (by decide) (hself.mp hk)
      · rw [if_neg hk]
        exact iff_of_true rfl (not_not.mp (mt hself.mpr hk))
    · refine (if_pos h).trans ?_
      rw [zeroedBy_fin]
      by_cases hn : n = 0 <;> simp [hn]
  case inf =>
    unfold quantA
    by_cases he : e = .a4 <;> simp [he]

theorem bquantBlock_given {c : Ctx} {a : Nat → Word} {s20 : Nat} {bf : BFmt} {rnd : Rnd} {strm : Nat} : bquantBlock c .given a s20 bf rnd strm =
    quantGiven (bfElem bf) s20 (c.threads.map (fun t => modeOf rnd c.ctx.seed t strm)) (c.threads.map (fun t => inpOf (a t))) := rfl

/-- A block of an MX format quantised under the scale chosen of its inputs. -/
theorem bquantBlock_chosen {c : Ctx} {mode : QMode} {a : Nat → Word} {s20 : Nat} {bf : BFmt} {rnd : Rnd} {strm : Nat} (hm : mode ≠ .given)
    (he : isAE (bfElem bf) = false) : bquantBlock c mode a s20 bf rnd strm =
      quantGiven (bfElem bf) (chooseScale (bfElem bf) (decide (mode = .ocp)) (c.threads.map (fun t => numOf (a t))))
        (c.threads.map (fun t => modeOf rnd c.ctx.seed t strm)) (c.threads.map (fun t => inpOf (a t))) := by
  have hb (ocp : Bool) : quantBlock (bfElem bf) ocp (c.threads.map (fun t => modeOf rnd c.ctx.seed t strm)) (c.threads.map (fun t => inpOf (a t))) =
      quantGiven (bfElem bf) (chooseScale (bfElem bf) ocp (c.threads.map (fun t => numOf (a t))))
        (c.threads.map (fun t => modeOf rnd c.ctx.seed t strm)) (c.threads.map (fun t => inpOf (a t))) := by
    rw [quantBlock, if_neg (Bool.eq_false_iff.mp he), List.map_map]
    rfl
  cases mode with
  | given => exact absurd rfl hm
  | tight => exact hb false
  | ocp => exact hb true

theorem brescaleQuant_sound {bf : BFmt} {m : Mode} {code : Word} {old new : Nat} (ho : nanScale (bfElem bf) old = false) :
    brescaleQuant bf m code old new =
      ⟨(quantGiven (bfElem bf) new [m] [deqInp (bfElem bf) old code.toNat]).codes.headD 0, (quantGiven (bfElem bf) new [m] [deqInp (bfElem bf) old code.toNat]).ev⟩ :=
  if_neg (Bool.eq_false_iff.mp ho)

theorem blockValues : BlockValues := by
  refine ⟨fun isMax kind ty xs => ⟨bmaxVal_nan, bmaxVal_spec⟩, fun c mode a given bf rnd strm => ?quant, fun bf m code old new => ?rescale⟩
  case quant =>
    intro e q
    -- either way the block is quantised under one word
    have hq : mode = .given ∨ isAE e = false → ∃ s20, q = quantGiven e s20 (c.threads.map (fun t => modeOf rnd c.ctx.seed t strm))
        (c.threads.map (fun t => inpOf (a t))) := by
      intro h
      by_cases hm : mode = .given
      · subst hm
        exact ⟨given, bquantBlock_given⟩
      · exact ⟨_, bquantBlock_chosen hm (h.resolve_left hm)⟩
    refine ⟨fun hm => ?_, fun hm he => ?_, fun h hn => ?_, fun i t h hn ht => ?_⟩
    · subst hm
      exact quantGiven_s20
    · exact (congrArg QBlock.s20 (bquantBlock_chosen hm he)).trans quantGiven_s20
    · obtain ⟨s20, hs⟩ := hq h
      rw [hs, quantGiven_s20] at hn
      rw [hs, quantGiven_nan hn]
      exact ⟨List.map_map, by rw [List.length_map]⟩
    · obtain ⟨s20, hs⟩ := hq h
      rw [hs, quantGiven_s20] at hn
      have hcode := quantGiven_code (xs := c.threads.map (fun t => inpOf (a t))) (ms := c.threads.map (fun t => modeOf rnd c.ctx.seed t strm)) (i := i)
        (x := inpOf (a t)) (m := modeOf rnd c.ctx.seed t strm) hn (by rw [List.getElem?_map, ht]; rfl) (by rw [List.getElem?_map, ht]; rfl)
      rw [hs, List.getD_eq_getElem?_getD, hcode, quantGiven_s20, quantGiven_one hn]
      rfl
  case rescale =>
    intro e
    refine ⟨fun ho => if_pos ho, fun ho hn => ?_, fun ho hn => ?_⟩
    · rw [brescaleQuant_sound ho, quantGiven_nan hn]
      rfl
    · rw [brescaleQuant_sound ho, quantGiven_one hn]
      exact apply_ite (fun q : Quant => q) _ _ _

/-- Settles O16: the values by `mxScales`, `groupScales`, `quantised` and `blockValues`, and each instruction writes its own by
`fixedWrites_of_aluOp` or `fixedCounts_of_aluOp`. -/
theorem blockResults : Obligations.BlockResults := by
  unfold Obligations.BlockResults
  refine ⟨mxScales, groupScales, quantised, blockValues, fun f d => ?_⟩
  refine ⟨fun kind a ty isMax => ?bmax, fun mode a bf => ?bscale, fun zf a b => ?bzp, fun mode c2 a b bf rnd strm => ?bquant,
    fun a b bf dt rnd => ?bdeq, fun a b bf grp part => ?bpack, fun a c2 bf grp part => ?bunpk, fun mode a b bf rnd => ?bhealth,
    fun a b c3 bf rnd strm => ?brescale⟩
  case bmax =>
    cases isMax
    · exact fixedWrites_of_aluOp (exec_bmin f kind d a ty)
    · exact fixedWrites_of_aluOp (exec_bmax f kind d a ty)
  case bscale => exact fixedWrites_of_aluOp (exec_bscale f mode d a bf)
  case bzp => exact fixedWrites_of_aluOp (exec_bzp f zf d a b)
  case bquant =>
    cases b
    · exact fixedCounts_of_aluOp (exec_bquant f mode d c2 a none bf rnd strm)
    · exact fixedCounts_of_aluOp (exec_bquant f mode d c2 a (some _) bf rnd strm)
  case bdeq => exact fixedWrites_of_aluOp (exec_bdeq f d a b bf dt rnd)
  case bpack => exact fixedWrites_of_aluOp (exec_bpack f d a b bf grp part)
  case bunpk => exact fixedWrites_of_aluOp (exec_bunpk f d c2 a bf grp part)
  case bhealth =>
    cases b
    · exact fixedCounts_of_aluOp (exec_bhealth f mode d a none bf rnd)
    · exact fixedCounts_of_aluOp (exec_bhealth f mode d a (some _) bf rnd)
  case brescale => exact fixedCounts_of_aluOp (exec_brescale f d a b c3 bf rnd strm)

end Sys2Proof.Machine
end


section
/-! SUPPORT. What the array's operations come to (R45 to R47, R182 to R192): reads after writes of the accumulators. -/
namespace Sys2Proof.Machine
open Sys2Proof Sys2Proof.Claims

/-! ### Accumulators (R344) -/

/-- An accumulator of a twin has a number of its own among the rows of one window. -/
theorem accKey_inj {twin r r' n n' : Nat} (hr : r < r' + 2048) (hr' : r' < r + 2048) (hn : n < 128) (hn' : n' < 128) :
    accKey (2 * twin + n' / 64) r' (n' % 64) = accKey (2 * twin + n / 64) r (n % 64) ↔ r' = r ∧ n' = n := by
  unfold accKey
  omega

/-- The accumulators stand in one table. -/
def State.AccSound (s : State) : Prop := tsorted s.acc = true

theorem State.AccSound.setAcc {s : State} (h : s.AccSound) (twin row n : Nat) (v : Word) : (s.setAcc twin row n v).AccSound :=
  tsorted_tputD h _ _ _

/-- A read of an accumulator after a write. -/
theorem accAt_setAcc {s : State} {twin r r' n n' : Nat} (h : s.AccSound) (v : Word) (hr : r < r' + 2048) (hr' : r' < r + 2048) (hn : n < 128)
    (hn' : n' < 128) : (s.setAcc twin r n v).accAt twin r' n' = if r' = r ∧ n' = n then v else s.accAt twin r' n' := by
  unfold State.accAt State.setAcc
  by_cases hk : r' = r ∧ n' = n
  · rw [if_pos hk, (accKey_inj hr hr' hn hn').mpr hk]
    exact tgetD_tputD_self h _ _ _
  · rw [if_neg hk]
    exact tgetD_tputD_ne _ _ _ (mt (accKey_inj hr hr' hn hn').mp hk)

/-- What becomes of poison touches no accumulator. -/
theorem acc_healCols (s : State) (twin row col n : Nat) : (healCols s twin row col n).acc = s.acc := by
  unfold healCols
  split <;> rfl

/-- The writes of columns of a row, the first at `col + k`. -/
theorem setAcc_foldl (twin row col : Nat) (ws : List Word) : ∀ (k : Nat) (s : State), s.AccSound →
    ((ws.zipIdx k).foldl (fun s p => s.setAcc twin row (col + p.2) p.1) s).AccSound ∧
    ∀ r n, row < r + 2048 → r < row + 2048 → col + k + ws.length ≤ 128 → n < 128 →
      ((ws.zipIdx k).foldl (fun s p => s.setAcc twin row (col + p.2) p.1) s).accAt twin r n =
        if r = row ∧ col + k ≤ n ∧ n < col + k + ws.length then ws.getD (n - (col + k)) 0 else s.accAt twin r n := by
  induction ws with
  | nil => exact fun k s h => ⟨h, fun r n _ _ _ _ => (if_neg (fun ⟨_, h1, h2⟩ => absurd h2 (by simpa using h1))).symm⟩
  | cons w ws ih =>
    intro k s h
    rw [List.zipIdx_cons, List.foldl_cons]
    obtain ⟨hs, hat⟩ := ih (k + 1) (s.setAcc twin row (col + k) w) (h.setAcc ..)
    refine ⟨hs, fun r n hr hr' hl hn => ?_⟩
    rw [List.length_cons] at hl ⊢
    rw [hat r n hr hr' (by omega) hn, accAt_setAcc h w hr hr' (by omega) hn]
    by_cases hrow : r = row
    · by_cases hnk : n = col + k
      · subst hnk
        simp [hrow]
      · by_cases hin : col + (k + 1) ≤ n ∧ n < col + (k + 1) + ws.length
        · rw [if_pos ⟨hrow, hin⟩, if_pos ⟨hrow, by omega, by omega⟩, show n - (col + k) = n - (col + (k + 1)) + 1 by omega, List.getD_cons_succ]
        · rw [if_neg (fun h => hin h.2), if_neg (fun h => hnk h.2), if_neg (by omega)]
    · simp [hrow]

section
variable {s : State} {twin row col r n : Nat} {ws : List Word}

theorem State.AccSound.writeCols (h : s.AccSound) : (writeCols s twin row col ws).AccSound := by
  rw [Machine.writeCols, State.AccSound, acc_healCols]
  exact (setAcc_foldl twin row col ws 0 s h).1

/-- A read of an accumulator after columns of a row have been written. -/
theorem accAt_writeCols (h : s.AccSound) (hr : row < r + 2048) (hr' : r < row + 2048) (hl : col + ws.length ≤ 128) (hn : n < 128) :
    (writeCols s twin row col ws).accAt twin r n =
      if r = row ∧ col ≤ n ∧ n < col + ws.length then ws.getD (n - col) 0 else s.accAt twin r n := by
  rw [Machine.writeCols, State.accAt, acc_healCols]
  exact (setAcc_foldl twin row col ws 0 s h).2 r n hr hr' hl hn

end

/-! ### Folds that write -/

section
variable {α β : Type} {P : State → Prop} {f : State → β} {g : State → α → State}

/-- Steps none of which changes what `f` reads. -/
theorem foldl_reads (l : List α) (hk : ∀ a ∈ l, ∀ s, P s → P (g s a) ∧ f (g s a) = f s) : ∀ s, P s → P (l.foldl g s) ∧ f (l.foldl g s) = f s := by
  induction l with
  | nil => exact fun s h => ⟨h, rfl⟩
  | cons a l ih =>
    intro s h
    obtain ⟨h1, h2⟩ := hk a (List.mem_cons_self ..) s h
    obtain ⟨h3, h4⟩ := ih (fun b hb => hk b (List.mem_cons_of_mem _ hb)) (g s a) h1
    exact ⟨h3, h4.trans h2⟩

/-- Steps one of which sets what `f` reads, while no other changes it. -/
theorem foldl_sets {l : List α} {k : Nat} {x : α} {y : β} (hx : l[k]? = some x) (hp : ∀ a ∈ l, ∀ s, P s → P (g s a)) (hset : ∀ s, P s → f (g s x) = y)
    (hk : ∀ i a, l[i]? = some a → i ≠ k → ∀ s, P s → f (g s a) = f s) : ∀ s, P s → f (l.foldl g s) = y := by
  intro s h
  obtain ⟨hlt, hget⟩ := List.getElem?_eq_some_iff.mp hx
  have hsplit : l = l.take k ++ x :: l.drop (k + 1) := by
    rw [← hget, List.getElem_cons_drop, List.take_append_drop]
  rw [hsplit, List.foldl_append, List.foldl_cons]
  obtain ⟨h1, -⟩ := foldl_reads (P := P) (f := fun _ => ()) (l.take k) (fun a ha s hs => ⟨hp a (List.mem_of_mem_take ha) s hs, rfl⟩) s h
  refine (foldl_reads (P := P) (l.drop (k + 1)) (fun a ha s hs => ⟨hp a (List.mem_of_mem_drop ha) s hs, ?_⟩) _ ?_).2.trans (hset _ h1)
  · obtain ⟨i, hi⟩ := List.mem_iff_getElem?.mp ha
    rw [List.getElem?_drop] at hi
    exact hk _ a hi (by omega) s hs
  · exact hp x (List.mem_of_getElem? hx) _ h1

end

/-! ### TRED's column and TWR .reg -/

/-- A write of one column in each row. -/
theorem accAt_firstColumns {s : State} {twin row i n : Nat} {ys : List (List Word)} {y : Word} {ys' : List Word} (h : s.AccSound) (hl : ys.length ≤ 256)
    (hi : ys[i]? = some (y :: ys')) (hn : n < 128) :
    (ys.zipIdx.foldl (fun s p => writeCols s twin (row + p.2) 0 (p.1.take 1)) s).accAt twin (row + i) n =
      if n = 0 then y else s.accAt twin (row + i) n := by
  have hlen (l : List Word) : (l.take 1).length ≤ 1 := by simp
  have hrow {p : List Word × Nat} (hp : p ∈ ys.zipIdx) : p.2 < 256 := by
    have := List.snd_lt_of_mem_zipIdx hp
    omega
  have hi' : i < 256 := by
    obtain ⟨hlt, -⟩ := List.getElem?_eq_some_iff.mp hi
    omega
  by_cases h0 : n = 0
  · subst h0
    refine foldl_sets (P := State.AccSound) (f := fun s => s.accAt twin (row + i) 0) (k := i) (x := (y :: ys', i)) ?_ (fun _ _ _ hs => hs.writeCols)
      (fun s hs => ?_) (fun j p hj hne s hs => ?_) s h
    · rw [List.getElem?_zipIdx, hi, Nat.zero_add]
      rfl
    · rw [accAt_writeCols hs (by omega) (by omega) (by simp) (by omega), if_pos (by simp)]
      simp
    · have hp := hrow (List.mem_of_getElem? hj)
      rw [List.getElem?_zipIdx] at hj
      obtain ⟨z, -, rfl⟩ := Option.map_eq_some_iff.mp hj
      rw [accAt_writeCols hs (by omega) (by omega) (by have := hlen z; dsimp only; omega) (by omega), if_neg (by omega)]
  · rw [if_neg h0]
    refine (foldl_reads (P := State.AccSound) (f := fun s => s.accAt twin (row + i) n) _ (fun p hp s hs => ⟨hs.writeCols, ?_⟩) s h).2
    have hp := hrow hp
    have := hlen p.1
    rw [accAt_writeCols hs (by omega) (by omega) (by omega) hn, if_neg (by omega)]

/-- The words that a thread of a member has for TWR .reg in FP32. -/
def memberWords (d : Reg) (w : Nat) (wp : Warp) (spans : List (Nat × Word)) (th : Nat) : List Word :=
  (upto 16).map (fun i =>
    rne32 (f32.decode (((spans.find? (fun x => decide (x.1 = regKey w (pairOf w wp) (d.toNat + i) th))).map (·.2.toNat)).getD 0)))

theorem twrRegs_eq (s : State) (v : TileEnv) (t : Tile) (d : Reg) (q : Nat) (spans : List (Nat × Word)) : twrRegs s v t d .f32 q spans =
    v.members.zipIdx.foldl (fun s p => (upto 32).foldl (fun s th =>
      writeCols s v.twin (v.base + t.row + 16 * p.2 + th % 16) (32 * q + 16 * (th / 16)) (memberWords d p.1.1 p.1.2 spans th)) s) s := by
  unfold twrRegs
  refine congrArg (fun g => List.foldl g s _) (funext fun s => funext fun p => congrArg (fun g => List.foldl g s _) (funext fun s => funext fun th => ?_))
  refine congrArg (writeCols s v.twin _ _) ?_
  rw [if_pos rfl, List.map_map, if_pos rfl]
  refine List.map_congr_left (fun i _ => ?_)
  rw [Function.comp_apply]
  cases spans.find? _ <;> rfl

/-- The place of a thread's column in the tile holds what the thread has for it. -/
theorem accAt_twrRegs {s : State} {v : TileEnv} {t : Tile} {d : Reg} {q j th k w : Nat} {wp : Warp} {spans : List (Nat × Word)} {x : Nat × Word}
    (hs : s.AccSound) (hj : v.members[j]? = some (w, wp)) (hth : th < 32) (hk : k < 16)
    (hx : spans.find? (fun x => decide (x.1 = regKey w (pairOf w wp) (d.toNat + k) th)) = some x) (hq : q < 4) (hm : v.members.length ≤ 8) :
    (twrRegs s v t d .f32 q spans).accAt v.twin (v.base + t.row + 16 * j + th % 16) (32 * q + 16 * (th / 16) + k) = rne32 (numOf x.2) := by
  have hj8 : j < 8 := by
    obtain ⟨hlt, -⟩ := List.getElem?_eq_some_iff.mp hj
    omega
  have hlen (w : Nat) (wp : Warp) (th : Nat) : (memberWords d w wp spans th).length = 16 := by simp [memberWords, upto]
  have hword : (memberWords d w wp spans th).getD k 0 = rne32 (numOf x.2) := by
    simp [memberWords, upto, List.getD_eq_getElem?_getD, hk, hx]
    rfl
  have hup {i a : Nat} (h : (upto 32)[i]? = some a) : a = i ∧ i < 32 := by
    obtain ⟨hlt, hget⟩ := List.getElem?_eq_some_iff.mp h
    simp [upto] at hlt hget
    omega
  rw [twrRegs_eq]
  refine foldl_sets (P := State.AccSound) (f := fun s => s.accAt v.twin (v.base + t.row + 16 * j + th % 16) (32 * q + 16 * (th / 16) + k))
    (k := j) (x := ((w, wp), j)) ?_ (fun p _ s hs => ?_) (fun s hs => ?_) (fun i p hi hne s hs => ?_) s hs
  · rw [List.getElem?_zipIdx, hj, Nat.zero_add]
    rfl
  · exact (foldl_reads (P := State.AccSound) (f := fun _ => ()) (upto 32) (fun _ _ _ hs => ⟨hs.writeCols, rfl⟩) s hs).1
  · refine foldl_sets (P := State.AccSound) (f := fun s => s.accAt v.twin (v.base + t.row + 16 * j + th % 16) (32 * q + 16 * (th / 16) + k))
      (k := th) (x := th) (by simp [upto, hth]) (fun _ _ _ hs => hs.writeCols) (fun s hs => ?_) (fun i a hi hne s hs => ?_) s hs
    · rw [accAt_writeCols hs (by omega) (by omega) (by rw [hlen]; omega) (by omega), if_pos (by rw [hlen]; omega), ← hword]
      congr 1
      omega
    · obtain ⟨rfl, hi32⟩ := hup hi
      rw [accAt_writeCols hs (by omega) (by omega) (by rw [hlen]; omega) (by omega), if_neg (by rw [hlen]; omega)]
  · have hp : p.2 = i ∧ i < 8 := by
      obtain ⟨hlt, -⟩ := List.getElem?_eq_some_iff.mp hi
      rw [List.length_zipIdx] at hlt
      rw [List.getElem?_zipIdx] at hi
      obtain ⟨z, -, rfl⟩ := Option.map_eq_some_iff.mp hi
      exact ⟨by simp, by omega⟩
    refine (foldl_reads (P := State.AccSound) (f := fun s => s.accAt v.twin (v.base + t.row + 16 * j + th % 16) (32 * q + 16 * (th / 16) + k)) (upto 32)
      (fun a ha s hs => ⟨hs.writeCols, ?_⟩) s hs).2
    have ha : a < 32 := by simpa [upto] using ha
    rw [accAt_writeCols hs (by omega) (by omega) (by rw [hlen]; omega) (by omega), if_neg (by omega)]

/-! ### TRD .reg -/

theorem joinCodes_div (w : Nat) (cs : List Nat) : ∀ i, joinCodes w cs / 2 ^ (w * i) = joinCodes w (cs.drop i) := by
  induction cs with
  | nil => intro i; simp [joinCodes]
  | cons c cs ih =>
    intro i
    cases i with
    | zero => simp
    | succ i =>
      rw [List.drop_succ_cons, ← ih i, Nat.mul_succ, Nat.add_comm, Nat.pow_add, ← Nat.div_div_eq_div_mul]
      congr 1
      have hc : c % 2 ^ w < 2 ^ w := Nat.mod_lt _ (Nat.two_pow_pos w)
      rw [show joinCodes w (c :: cs) = c % 2 ^ w + 2 ^ w * joinCodes w cs from rfl, Nat.add_mul_div_left _ _ (Nat.two_pow_pos w), Nat.div_eq_of_lt hc,
        Nat.zero_add]

/-- A word of 16-bit codes side by side holds two of them. -/
theorem wordsOf_joinCodes {cs : List Nat} {k : Nat} (hl : cs.length = 16) (hk : k < 8) :
    (wordsOf 8 (joinCodes 16 cs))[k]? = some (BitVec.ofNat 32 (cs.getD (2 * k) 0 % 65536 + 65536 * (cs.getD (2 * k + 1) 0 % 65536))) := by
  have hdrop : cs.drop (2 * k) = cs.getD (2 * k) 0 :: cs.getD (2 * k + 1) 0 :: cs.drop (2 * k + 1 + 1) := by
    rw [List.drop_eq_getElem_cons (by omega), List.drop_eq_getElem_cons (by omega)]
    simp [hl, show 2 * k < 16 by omega, show 2 * k + 1 < 16 by omega]
  have hword : (wordsOf 8 (joinCodes 16 cs))[k]? = some (BitVec.ofNat 32 (joinCodes 16 cs / 2 ^ (32 * k))) := by simp [wordsOf, upto, hk]
  rw [hword, show 32 * k = 16 * (2 * k) by omega, joinCodes_div, hdrop]
  refine congrArg some (BitVec.eq_of_toNat_eq ?_)
  rw [BitVec.toNat_ofNat, BitVec.toNat_ofNat]
  simp only [joinCodes, List.foldr_cons]
  omega

section
variable {s : State} {v : TileEnv} {t : Tile} {d : Reg} {dt : Elem} {q j th k w : Nat} {wp : Warp} {rnd : Rnd}

/-- What a thread of member `j` reads of the tile. -/
def readOuts (s : State) (v : TileEnv) (t : Tile) (dt : Elem) (q : Nat) (rnd : Rnd) (j th : Nat) : List Nat :=
  (upto 16).map (fun c => readOut dt rnd (s.accAt v.twin (v.base + t.row + 16 * j + th % 16) (32 * q + 16 * (th / 16) + c)))

theorem mem_trdRegs {y : Word} (hj : v.members[j]? = some (w, wp)) (hth : th < 32)
    (hy : (if dt = .f32 then (readOuts s v t dt q rnd j th).map (BitVec.ofNat 32) else wordsOf 8 (joinCodes 16 (readOuts s v t dt q rnd j th)))[k]? = some y) :
    (regKey w (pairOf w wp) (d.toNat + k) th, y) ∈ trdRegs s v t d dt q rnd := by
  refine List.mem_flatMap.mpr ⟨((w, wp), j), List.mem_zipIdx_iff_getElem?.mpr hj, List.mem_flatMap.mpr ⟨th, by simp [upto, hth], ?_⟩⟩
  exact List.mem_map.mpr ⟨(y, k), List.mem_zipIdx_iff_getElem?.mpr hy, rfl⟩

theorem getElem?_readOuts (hk : k < 16) : (readOuts s v t dt q rnd j th)[k]? =
    some (readOut dt rnd (s.accAt v.twin (v.base + t.row + 16 * j + th % 16) (32 * q + 16 * (th / 16) + k))) := by
  simp [readOuts, upto, hk]

theorem mem_trdRegs_f32 (hj : v.members[j]? = some (w, wp)) (hth : th < 32) (hk : k < 16) :
    (regKey w (pairOf w wp) (d.toNat + k) th, s.accAt v.twin (v.base + t.row + 16 * j + th % 16) (32 * q + 16 * (th / 16) + k))
      ∈ trdRegs s v t d .f32 q rnd := by
  refine mem_trdRegs hj hth ?_
  rw [if_pos rfl, List.getElem?_map, getElem?_readOuts hk, readOut, if_pos rfl]
  exact congrArg some (BitVec.ofNat_toNat ..)

theorem mem_trdRegs_half (hj : v.members[j]? = some (w, wp)) (hth : th < 32) (hd : dt ≠ .f32) (hk : k < 8) :
    let acc (n : Nat) : Word := s.accAt v.twin (v.base + t.row + 16 * j + th % 16) (32 * q + 16 * (th / 16) + n)
    let half (n : Nat) : Nat := (convElem dt (plainMode rnd) (inpOf (acc n))).code % 65536
    (regKey w (pairOf w wp) (d.toNat + k) th, BitVec.ofNat 32 (half (2 * k) + 65536 * half (2 * k + 1))) ∈ trdRegs s v t d dt q rnd := by
  intro acc half
  refine mem_trdRegs hj hth ?_
  rw [if_neg hd, wordsOf_joinCodes (by simp [readOuts, upto]) hk, List.getD_eq_getElem?_getD, List.getD_eq_getElem?_getD,
    getElem?_readOuts (by omega), getElem?_readOuts (by omega), Option.getD_some, Option.getD_some, readOut, readOut, if_neg hd, if_neg hd]

end

/-! ### Live bits -/

/-- Bits of a run of rows written. -/
theorem tgetD_foldl_run {α : Type} [DecidableEq α] {d x : α} {row : Nat} (k : Nat) : ∀ (n : Nat) (m : SMap α), tsorted m = true →
    tsorted ((upto n).foldl (fun m i => tputD m (row + i) d x) m) = true ∧
    tgetD ((upto n).foldl (fun m i => tputD m (row + i) d x) m) k d = if row ≤ k ∧ k < row + n then x else tgetD m k d := by
  intro n
  induction n with
  | zero => exact fun m h => ⟨h, (if_neg (by omega)).symm⟩
  | succ n ih =>
    intro m h
    obtain ⟨hs, hg⟩ := ih m h
    rw [upto, List.range_succ, List.foldl_append]
    refine ⟨tsorted_tputD hs _ _ _, ?_⟩
    by_cases hk : k = row + n
    · subst hk
      rw [if_pos (by omega)]
      exact tgetD_tputD_self hs _ _ _
    · refine (tgetD_tputD_ne _ _ _ hk).trans (hg.trans (if_congr (by omega) rfl rfl))

/-! ### Operations of sound accumulators -/

section
variable {s : State} {v : TileEnv} {op : ArrayOp}

theorem tilePoisoned_sound (h : s.poison = []) (twin base : Nat) (t : Tile) : tilePoisoned s twin base t = false := by
  simp [tilePoisoned, h]

theorem slotsPoisoned_sound (h : s.poison = []) (v : TileEnv) (k : MKind) (hd : Header) (vals : List Word) : slotsPoisoned s v k hd vals = false := by
  simp [slotsPoisoned, h]

theorem writeSaves_none {e : Eng} {bs : List Byte} {log : Option Nat} (h : log = none) : writeSaves s e log bs = .ok s := by
  subst h
  rfl

theorem matrixPerform_eq {k : MKind} {h : Header} {g : Grp} {x : List (List KBlock)} {y : List (List KBlock × List Nat)} (hp : s.poison = [])
    (hl : op.log = none) (ho : matrixOperands s v op k h g = .ok (x, y)) : matrixPerform s v op k h g =
      TileEnd.ok (writeTile s v.twin v.base (tileOf (headerTile h))
        (matrixResult k h g (x.map (rowVals h)) (y.map (columnVals k h)) (readTile s v.twin v.base (tileOf (headerTile h))))) := by
  unfold matrixPerform
  rw [if_neg (by simp [tilePoisoned_sound hp, slotsPoisoned_sound hp]), ho]
  dsimp only
  rw [writeSaves_none hl]

/-- A matrix instruction is performed by its kind, header and group. -/
theorem tilePerform_matrix {k : MKind} {h : Header} {g : Grp} (hi : matrixOf op.instr = some (k, h, g)) : tilePerform s v op = matrixPerform s v op k h g := by
  unfold tilePerform
  generalize op.instr = i at hi
  cases i
  all_goals cases hi
  all_goals rfl

theorem functionPoisoned_sound (hp : s.poison = []) (a : Tile) (o : Option Nat) :
    (tilePoisoned s v.twin v.base a || (match o with | some b => tilePoisoned s v.twin v.base (tileOf b) | none => false)) = false := by
  rw [tilePoisoned_sound hp, Bool.false_or]
  cases o
  · rfl
  · exact tilePoisoned_sound hp ..

/-- The accumulators that a tile function writes of its result `y`: one column for TRED, all of them for the others. -/
def functionWrite (s : State) (v : TileEnv) (i : Instr) (vals : List Word) (y : List (List Word)) : State :=
  let d := tileOf (destTile i vals)
  match i with
  | .tred .. => y.zipIdx.foldl (fun s p => writeCols s v.twin (v.base + d.row + p.2) 0 (p.1.take 1)) s
  | _ => writeTile s v.twin v.base d y

theorem functionPerform_eq (hp : s.poison = []) (hl : op.log = none) : functionPerform s v op =
    { TileEnd.ok (functionWrite s v op.instr op.vals (functionValues s v op).2.2.1) with ev := (functionValues s v op).2.2.2 } := by
  unfold functionPerform
  dsimp only
  refine (if_neg (Bool.eq_false_iff.mp (functionPoisoned_sound hp _ _))).trans ?_
  rw [writeSaves_none hl]
  rfl

end

/-! ### The tree of R47 over 128 values -/

theorem tree128_map (g : Word → Word → Word) (v : Nat → Word) : tree128 g ((upto 128).map v) = tree g v := rfl

/-- A row by its places. -/
theorem row_eq_map {row : List Word} (h : row.length = 128) : row = (upto 128).map (fun n => row.getD n 0) := by
  refine List.ext_getElem (by simp [upto, h]) (fun i h1 h2 => ?_)
  simp [upto, List.getD_eq_getElem?_getD, h1]

theorem map_row {row : List Word} (h : row.length = 128) (g : Word → Word) : row.map g = (upto 128).map (fun n => g (row.getD n 0)) := by
  conv_lhs => rw [row_eq_map h, List.map_map]
  rfl

theorem treeSum_map {row : List Word} (h : row.length = 128) (g : Word → Word) : treeSum (row.map g) = tree fadd (fun n => g (row.getD n 0)) := by
  rw [map_row h]
  exact tree128_map fadd (fun n => g (row.getD n 0))

theorem treeSum_eq {row : List Word} (h : row.length = 128) : treeSum row = tree fadd (fun n => row.getD n 0) := by
  conv_lhs => rw [row_eq_map h]
  exact tree128_map fadd (fun n => row.getD n 0)

/-! ### The greatest of a row -/

theorem numOf_whole {w : Word} (h : (numOf w).isNan = false) : (numOf w).Whole := FFmt.decode_whole h

/-- Of two words that are no NaN, the greater. -/
theorem fmax32_spec {x y : Word} (hx : (numOf x).isNan = false) (hy : (numOf y).isNan = false) :
    (fmax32 x y = x ∨ fmax32 x y = y) ∧ (numOf x).rank ≤ (numOf (fmax32 x y)).rank ∧ (numOf y).rank ≤ (numOf (fmax32 x y)).rank := by
  have hval : fmax32 x y = if (if (numOf x).isZero && (numOf y).isZero then !(numOf x).neg? else (numOf y).le (numOf x)) then x else y := by
    unfold fmax32 FFmt.minmax
    rw [show f32.decode x.toNat = numOf x from rfl, show f32.decode y.toNat = numOf y from rfl]
    have hnat (p : Bool) : BitVec.ofNat 32 (if p then x.toNat else y.toNat) = if p then x else y := by cases p <;> simp
    simp only [hx, hy, Bool.false_and, Bool.false_eq_true, if_false, if_true]
    exact hnat _
  rw [hval]
  by_cases hz : ((numOf x).isZero && (numOf y).isZero) = true
  · have hxy : (numOf x).rank = (numOf y).rank := by
      obtain ⟨hzx, hzy⟩ := Bool.and_eq_true_iff.mp hz
      exact (Num.rank_of_isZero hzx).trans (Num.rank_of_isZero hzy).symm
    rw [if_pos hz]
    split
    · exact ⟨.inl rfl, le_rfl, hxy.ge⟩
    · exact ⟨.inr rfl, hxy.le, le_rfl⟩
  · rw [if_neg hz]
    have hle := Num.le_iff_rank (numOf_whole hy) (numOf_whole hx)
    split
    next h => exact ⟨.inl rfl, le_rfl, hle.mp h⟩
    next h => exact ⟨.inr rfl, (not_le.mp (mt hle.mpr h)).le, le_rfl⟩

/-- Minus infinity is one word. -/
theorem eq_of_numOf_inf {w : Word} (h : numOf w = .inf true) : w = 0xFF800000 := by
  have hw := w.isLt
  have hd : (if w.toNat % 2 ^ 31 = 0x7F800000 then Num.inf (w.toNat / 2 ^ 31 % 2 == 1)
      else if 0x7F800000 < w.toNat % 2 ^ 31 then .nan else .fin (w.toNat / 2 ^ 31 % 2 == 1) (f32.mag (w.toNat % 2 ^ 31)).1 (f32.mag (w.toNat % 2 ^ 31)).2 1) =
        .inf true := h
  split at hd
  next hb =>
    have hs : w.toNat / 2 ^ 31 % 2 = 1 := by simpa using hd
    refine BitVec.eq_of_toNat_eq ?_
    show w.toNat = 0xFF800000
    omega
  next =>
    split at hd <;> cases hd

/-- A word that is not above minus infinity is minus infinity. -/
theorem eq_of_rank_le_bot {w : Word} (hn : (numOf w).isNan = false) (h : (numOf w).rank ≤ (numOf 0xFF800000).rank) : w = 0xFF800000 := by
  rw [show numOf 0xFF800000 = .inf true by decide] at h
  rcases f32.decode_cases w.toNat with hd | ⟨s, hd⟩ | ⟨s, n, e, hd⟩
  · rw [numOf, hd] at hn; cases hn
  · cases s
    · rw [numOf, hd] at h
      exact absurd h (by simp [Num.rank, Prod.Lex.toLex_le_toLex])
    · exact eq_of_numOf_inf hd
  · rw [numOf, hd] at h
    exact absurd h (by simp [Num.rank, Prod.Lex.toLex_le_toLex])

theorem rowMax_nan {row : List Word} (h : ∃ w ∈ row, (numOf w).isNan = true) : rowMax row = 0x7FC00000 := if_pos (List.any_eq_true.mpr h)

theorem rowMax_spec {row : List Word} (hne : row ≠ []) (hn : ∀ w ∈ row, (numOf w).isNan = false) :
    rowMax row ∈ row ∧ ∀ w ∈ row, (numOf (rowMax row)).lt (numOf w) = false := by
  have hval : rowMax row = row.foldl fmax32 0xFF800000 := by
    refine if_neg ?_
    rw [List.any_eq_true]
    rintro ⟨w, hw, hw'⟩
    exact Bool.eq_false_iff.mp (hn w hw) hw'
  obtain ⟨hm, hall⟩ := foldl_keeps (P := fun w => (numOf w).isNan = false) (R := fun x y => (numOf x).rank ≤ (numOf y).rank) (fun _ _ _ => le_trans)
    (fun _ => le_rfl) (fun _ _ => fmax32_spec) row 0xFF800000 (by decide) hn
  rw [← hval] at hm hall
  have hmem : rowMax row ∈ row := by
    rcases List.mem_cons.mp hm with h | h
    · obtain ⟨w, r, rfl⟩ := List.exists_cons_of_ne_nil hne
      have hw := eq_of_rank_le_bot (hn w (List.mem_cons_self ..)) (h ▸ hall w (by simp))
      rw [h, hw]
      exact List.mem_cons_self ..
    · exact h
  refine ⟨hmem, fun w hw => Bool.eq_false_iff.mpr (mt (Num.lt_iff_rank (numOf_whole (hn _ hmem)) (numOf_whole (hn w hw))).mp ?_)⟩
  exact not_lt.mpr (hall w (List.mem_cons_of_mem _ hw))

theorem tileFunctions : TileFunctions := by
  refine ⟨fun x b c => ⟨rfl, rfl, rfl, rfl, rfl, rfl, rfl, rfl, rfl, rfl⟩, fun row h => treeSum_eq h, fun row h => rowMax_nan h, fun row hne hn => rowMax_spec hne hn,
    fun c row h => ?softmax, fun eps row h => ?norm⟩
  case softmax =>
    intro x m e
    have hl : (row.map (fun a => fmul a c)).length = 128 := by rw [List.length_map, h]
    refine ⟨fun hm => ?_, fun hm => ?_⟩
    · refine (if_pos hm).trans ?_
      rw [List.map_map, ← h]
      exact List.map_const' ..
    · refine (if_neg hm).trans ?_
      simp only [List.map_map]
      rw [treeSum_map h]
      exact map_row h _
  case norm =>
    intro s r
    show row.map (fun x => fmul x (normFactor eps row)) = _
    rw [normFactor, treeSum_map h]

/-! ### Operands of matrix operations -/

theorem codes_of_unsparse (n m : Nat) (b : KBlock) (mask : Nat) : (unsparse n m b mask).flatMap (·.codes) = (upto 64).map (fun i =>
    let bit (k : Nat) : Bool := mask / 2 ^ k % 2 == 1
    let r := ((upto (i % m)).filter (fun k => bit (i / m * m + k))).length
    if bit i && decide (r < n) then b.codes.getD (i / m * n + r) 0 else 0) := by
  simp only [unsparse, List.flatMap_cons, List.flatMap_nil, List.append_nil, List.take_append_drop]

theorem matrixOperands_values : MatrixOperands := by
  refine ⟨fun e s20 c => ⟨rfl, rfl, rfl, rfl⟩, fun k h bs ms hk => ?columns, fun h bs ms => rfl, fun n m b mask i hi => ⟨?kept, ?scale⟩, fun h r => rfl,
    fun g => ⟨rfl, rfl, rfl, rfl⟩⟩
  case columns => simp only [columnVals, if_neg hk, valsOf]
  case kept =>
    rw [codes_of_unsparse]
    have hbit (k : Nat) : (mask / 2 ^ k % 2 == 1) = mask.testBit k := by
      rw [Nat.testBit_eq_decide_div_mod_eq]
      rfl
    simp [upto, hi, hbit]
  case scale =>
    intro x hx
    simp only [unsparse, List.mem_cons, List.not_mem_nil, or_false] at hx
    rcases hx with rfl | rfl <;> rfl

/-- One contribution. -/
theorem accumulate_one {a b : List Num} (w : Word) (h0 : 0 < a.length) (h32 : a.length ≤ 32) (hb : b.length = a.length) :
    accumulate 32 a b w = rne32 (Num.add false (numOf w) (exactSum (List.zipWith Num.mul a b))) := by
  have hl : (List.zipWith Num.mul a b).length = a.length := by simp [hb]
  unfold accumulate
  dsimp only
  rw [show ((List.zipWith Num.mul a b).length + 32 - 1) / 32 = 1 by omega]
  simp only [chunksOf, List.foldl_cons, List.foldl_nil, List.take_of_length_le (by omega : (List.zipWith Num.mul a b).length ≤ 32)]

/-- The first contribution, and then the others. -/
theorem accumulate_append {a b a' b' : List Num} (w : Word) (ha : a.length = 32) (hb : b.length = 32) :
    accumulate 32 (a ++ a') (b ++ b') w = accumulate 32 a' b' (accumulate 32 a b w) := by
  have hl : (List.zipWith Num.mul a b).length = 32 := by simp [ha, hb]
  rw [accumulate_one (a := a) (b := b) w (by omega) (by omega) (by omega)]
  unfold accumulate
  rw [List.zipWith_append (by omega)]
  dsimp only
  rw [List.length_append, hl, show (32 + (List.zipWith Num.mul a' b').length + 32 - 1) / 32 = ((List.zipWith Num.mul a' b').length + 32 - 1) / 32 + 1 by omega,
    chunksOf, List.foldl_cons, List.take_left' hl, List.drop_left' hl]

/-! ### TCVT -/

theorem length_quantGiven_codes {e : Elem} {s20 : Nat} {ms : List Mode} {xs : List Inp} (h : ms.length = xs.length) :
    (quantGiven e s20 ms xs).codes.length = xs.length := by
  unfold quantGiven
  split
  · simp
  · simp [h]

theorem length_quantBlock_codes {e : Elem} {ocp : Bool} {ms : List Mode} {xs : List Inp} (h : ms.length = xs.length) :
    (quantBlock e ocp ms xs).codes.length = xs.length := by
  unfold quantBlock
  dsimp only
  split
  · split
    · simp
    · exact length_quantGiven_codes h
  · exact length_quantGiven_codes h

/-- A place of joined lists of one length. -/
theorem getD_flatMap_equal {α β : Type} {f : α → List β} {z : β} {m : Nat} (hm : 0 < m) : ∀ (l : List α), (∀ x ∈ l, (f x).length = m) →
    ∀ n x, l[n / m]? = some x → (l.flatMap f).getD n z = (f x).getD (n % m) z := by
  intro l
  induction l with
  | nil => exact fun _ n x h => by cases h
  | cons y l ih =>
    intro hl n x hx
    have hy := hl y (List.mem_cons_self ..)
    rw [List.flatMap_cons]
    by_cases hn : n < m
    · rw [Nat.div_eq_of_lt hn] at hx
      obtain rfl : y = x := by simpa using hx
      rw [List.getD_append _ _ _ _ (by omega), Nat.mod_eq_of_lt hn]
    · have hdiv : n / m = (n - m) / m + 1 := by rw [← Nat.div_eq_sub_div hm (by omega)]
      rw [hdiv, List.getElem?_cons_succ] at hx
      rw [List.getD_append_right _ _ _ _ (by omega), hy, ih (fun x hx => hl x (List.mem_cons_of_mem _ hx)) (n - m) x hx, Nat.mod_eq_sub_mod (by omega : n ≥ m)]

theorem getElem?_chunksOf {α : Type} {g : Nat} : ∀ (k : Nat) (l : List α) (i : Nat), i < k → (chunksOf g k l)[i]? = some ((l.drop (g * i)).take g) := by
  intro k
  induction k with
  | zero => exact fun l i h => absurd h (Nat.not_lt_zero i)
  | succ k ih =>
    intro l i h
    cases i with
    | zero => simp [chunksOf]
    | succ i =>
      rw [chunksOf, List.getElem?_cons_succ, ih _ i (by omega), List.drop_drop, Nat.mul_succ, Nat.add_comm]

theorem length_chunksOf {α : Type} {g : Nat} : ∀ (k : Nat) (l : List α), (chunksOf g k l).length = k := by
  intro k
  induction k with
  | zero => exact fun l => rfl
  | succ k ih => exact fun l => by rw [chunksOf, List.length_cons, ih]

/-- Block `i` of a row as TCVT quantises it. -/
def rowBlock (e : Elem) (ocp : Bool) (rnd : Rnd) (seed : Word) (i0 strm : Nat) (row : List Word) (i : Nat) : QBlock :=
  quantBlock e ocp ((upto 32).map (fun k => modeOf rnd seed (i0 + 32 * i + k) strm)) (((row.drop (32 * i)).take 32).map inpOf)

theorem getElem?_quantRow {e : Elem} {ocp : Bool} {rnd : Rnd} {seed : Word} {i0 strm : Nat} {row : List Word} {i : Nat} (he : isScaled e = true) (hi : i < 4) :
    (quantRow e ocp rnd seed i0 strm row)[i]? = some (rowBlock e ocp rnd seed i0 strm row i) := by
  unfold quantRow
  rw [List.getElem?_map, List.getElem?_zipIdx, getElem?_chunksOf 4 row i hi, Nat.zero_add, Option.map_some, Option.map_some]
  exact congrArg some (if_pos he)

theorem tcvtRow_getD {e : Elem} {ocp : Bool} {rnd : Rnd} {seed : Word} {i strm n : Nat} {row : List Word} (he : isScaled e = true) (hr : row.length = 128)
    (hn : n < 128) : (tcvtRow e ocp rnd seed i strm row).1.getD n 0 =
      rne32 (scaledVal e (rowBlock e ocp rnd seed (128 * i) strm row (n / 32)).s20 ((rowBlock e ocp rnd seed (128 * i) strm row (n / 32)).codes.getD (n % 32) 0)) := by
  have hblock (k : Nat) (hk : k < 4) : (rowBlock e ocp rnd seed (128 * i) strm row k).codes.length = 32 := by
    rw [rowBlock, length_quantBlock_codes] <;> simp [upto, hr] <;> omega
  have hlen : (quantRow e ocp rnd seed (128 * i) strm row).length = 4 := by rw [quantRow, List.length_map, List.length_zipIdx, length_chunksOf]
  have hall : ∀ q ∈ quantRow e ocp rnd seed (128 * i) strm row, (q.codes.map (fun c => rne32 (scaledVal e q.s20 c))).length = 32 := by
    intro q hq
    obtain ⟨k, hk⟩ := List.mem_iff_getElem?.mp hq
    have hk4 : k < 4 := by
      obtain ⟨hlt, -⟩ := List.getElem?_eq_some_iff.mp hk
      omega
    rw [getElem?_quantRow he hk4] at hk
    rw [List.length_map, ← Option.some.inj hk, hblock k hk4]
  have hpos := hblock (n / 32) (by omega)
  refine (getD_flatMap_equal (by decide) _ hall n _ (getElem?_quantRow he (by omega))).trans ?_
  rw [List.getD_eq_getElem?_getD, List.getElem?_map, List.getD_eq_getElem?_getD, List.getElem?_eq_getElem (by omega)]
  rfl

/-! ### The whole -/

section
variable {s : State} {v : TileEnv} {op : ArrayOp}

theorem tilePerform_tew {f : Fr} {fn : TewFn} {a : Src} {b x : Option Src} {d : BitVec 11} {sa sb : Bool} (hp : s.poison = []) (hl : op.log = none)
    (hi : op.instr = .tew f fn a b x d sa sb) : tilePerform s v op = TileEnd.ok (writeTile s v.twin v.base (tileOf d.toNat)
      (if tewBinary fn then List.zipWith (List.zipWith (fun p q => tewVal fn p q (op.vals.getD 8 0)))
          (readTile s v.twin v.base (tileOf (opVal op.vals 0 % 2048))) (functionValues s v op).2.1
        else (readTile s v.twin v.base (tileOf (opVal op.vals 0 % 2048))).map (fun r => r.map (fun p => tewVal fn p 0 (op.vals.getD 8 0))))) := by
  have hf : tilePerform s v op = functionPerform s v op := by rw [tilePerform, hi]
  rw [hf, functionPerform_eq hp hl, functionValues, hi]
  rfl

theorem tewSecond {f : Fr} {fn : TewFn} {a : Src} {b x : Option Src} {d : BitVec 11} {sa sb : Bool}
    (hi : op.instr = .tew f fn a b x d sa sb) (hb : tewBinary fn = true) :
    (functionValues s v op).2.1 = readTile s v.twin v.base (tileOf (opVal op.vals 4 % 2048)) := by
  have hsrc : (sourceTiles op.instr op.vals).2 = some (opVal op.vals 4 % 2048) := by
    rw [hi]
    exact if_pos hb
  show (match (sourceTiles op.instr op.vals).2 with | some b => readTile s v.twin v.base (tileOf b) | none => []) = _
  rw [hsrc]

theorem tilePerform_tsmx {f : Fr} {a : Src} {x : Option Src} {d : BitVec 11} {sy : Bool} (hp : s.poison = []) (hl : op.log = none)
    (hi : op.instr = .tsmx f a x d sy) : tilePerform s v op = TileEnd.ok (writeTile s v.twin v.base (tileOf d.toNat)
      ((readTile s v.twin v.base (tileOf (opVal op.vals 0 % 2048))).map (softmaxRow (op.vals.getD 8 0)))) := by
  have hf : tilePerform s v op = functionPerform s v op := by rw [tilePerform, hi]
  rw [hf, functionPerform_eq hp hl, functionValues, hi]
  rfl

theorem tilePerform_tnorm {f : Fr} {a x : Src} {d : BitVec 11} {sa : Bool} (hp : s.poison = []) (hl : op.log = none)
    (hi : op.instr = .tnorm f a x d sa) : tilePerform s v op = TileEnd.ok (writeTile s v.twin v.base (tileOf d.toNat)
      ((readTile s v.twin v.base (tileOf (opVal op.vals 0 % 2048))).map (normRow (op.vals.getD 8 0)))) := by
  have hf : tilePerform s v op = functionPerform s v op := by rw [tilePerform, hi]
  rw [hf, functionPerform_eq hp hl, functionValues, hi]
  rfl

theorem tilePerform_tcvt {f : Fr} {mode : SMode} {a : Src} {bf : BFmt} {rnd : Rnd} {strm : BitVec 8} (hp : s.poison = []) (hl : op.log = none)
    (hi : op.instr = .tcvt f mode a bf rnd strm) : tilePerform s v op =
      (let rs := (readTile s v.twin v.base (tileOf (opVal op.vals 0 % 2048))).zipIdx.map (fun p =>
        tcvtRow (bfElem bf) (decide (mode = .ocp)) rnd (op.vals.getD 9 0) p.2 strm.toNat p.1)
       { TileEnd.ok (writeTile s v.twin v.base (tileOf (opVal op.vals 0 % 2048)) (rs.map (·.1))) with ev := Health.sum (rs.map (·.2)) }) := by
  have hf : tilePerform s v op = functionPerform s v op := by rw [tilePerform, hi]
  rw [hf, functionPerform_eq hp hl, functionValues, hi]
  rfl

/-- TRED writes column 0 of each row and leaves the others. -/
theorem tilePerform_tred {f : Fr} {o : TredOp} {a : Src} {d : BitVec 11} {sa : Bool} (hs : s.AccSound) (hp : s.poison = []) (hl : op.log = none) (hi : op.instr = .tred f o a d sa)
    (hm : (tileOf d.toNat).m = (tileOf (opVal op.vals 0 % 2048)).m) {i n : Nat} (him : i < (tileOf d.toNat).m) (hn : n < 128) :
    (tilePerform s v op).s.accAt v.twin (v.base + (tileOf d.toNat).row + i) n =
      if n = 0 then tredVal o ((readTile s v.twin v.base (tileOf (opVal op.vals 0 % 2048))).getD i [])
      else s.accAt v.twin (v.base + (tileOf d.toNat).row + i) n := by
  have hf : tilePerform s v op = functionPerform s v op := by rw [tilePerform, hi]
  have hy : (functionValues s v op).2.2.1 = List.zipWith (fun r o' => tredVal o r :: o'.tail)
      (readTile s v.twin v.base (tileOf (opVal op.vals 0 % 2048))) (readTile s v.twin v.base (tileOf d.toNat)) := by
    rw [functionValues, hi]
    rfl
  have hwrite (y : List (List Word)) : functionWrite s v op.instr op.vals y =
      y.zipIdx.foldl (fun s p => writeCols s v.twin (v.base + (tileOf d.toNat).row + p.2) 0 (p.1.take 1)) s := by
    rw [hi]
    rfl
  have hlen (t : Tile) : (readTile s v.twin v.base t).length = t.m := by simp [readTile, upto]
  have hrow (t : Tile) (h : i < t.m) : (readTile s v.twin v.base t)[i]? = some (readRow s v.twin (v.base + t.row + i)) := by simp [readTile, upto, h]
  have h256 : (tileOf d.toNat).m ≤ 256 := by simp only [tileOf]; omega
  rw [hf, functionPerform_eq hp hl, hwrite, hy]
  refine (accAt_firstColumns (y := tredVal o (readRow s v.twin (v.base + (tileOf (opVal op.vals 0 % 2048)).row + i)))
    (ys' := (readRow s v.twin (v.base + (tileOf d.toNat).row + i)).tail) hs ?_ ?_ hn).trans ?_
  · rw [List.length_zipWith, hlen, hlen]
    omega
  · rw [List.getElem?_zipWith, hrow _ him, hrow _ (by omega)]
  · rw [List.getD_eq_getElem?_getD, hrow _ (by omega)]
    rfl

end

/-- Settles O38: each operation as it is performed where nothing is poisoned and nothing logged, its accumulators by `accAt_writeCols`. -/
theorem tileResults : Obligations.TileResults := by
  unfold Obligations.TileResults
  refine ⟨fun s v op hp => ?ops, fun a b w h0 h32 hb => accumulate_one w h0 h32 hb, fun a b a' b' w ha hb _ => accumulate_append w ha hb,
    fun k h g row col w => rfl, fun e ocp rnd seed i strm n row he hr hn => tcvtRow_getD he hr hn,
    fun s v t d q j th k w wp spans x hacc hj hth hk hx hq hm => ?place, tileFunctions, matrixOperands_values⟩
  case place => exact accAt_twrRegs hacc hj hth hk hx hq hm
  case ops =>
    intro t old write at' put
    refine ⟨fun f a hi => ?zero, fun f a x hi => ?mul, fun k h g x y hi hl ho => ?matrix, fun f a b h g => ⟨rfl, rfl, rfl, rfl⟩, fun f a hi => ?live,
      fun f d a dt q rnd j w wp th k hi hj hth => ?trdReg, fun f d a dt q hi => ?twrReg, fun f a b c dt rnd ocp adr h r hi hr => ?trdRec,
      fun f a b dt adr h r rows hi hr hrows => ?twrRec, fun f o a d sa hi hl hm hacc i n him hn => ?tred,
      fun f mode a bf rnd strm hi => ?tcvt, fun f fn a x d sa sb hi hl hb => ?tew1, fun f fn a b x d sa sb hi hl hb => ?tew2,
      fun f a x d sy hi hl => ?tsmx, fun f a x d sa hi hl => ?tnorm⟩
    case zero =>
      rw [tilePerform, hi]
      dsimp only
      rw [show (upto t.m).map (fun _ => List.replicate 128 (0 : Word)) = List.replicate t.m (List.replicate 128 0) by simp [upto]]
    case mul =>
      rw [tilePerform, hi]
      exact if_neg (Bool.eq_false_iff.mp (tilePoisoned_sound hp ..))
    case matrix => exact (tilePerform_matrix hi).trans (matrixPerform_eq hp hl ho)
    case live =>
      refine ⟨fun m => (upto (t.m / 16)).foldl (fun m i => tputD m (t.row / 16 + i) false (decide (op.instr = .taccLive f a))) m, ?_,
        fun m k hm => (tgetD_foldl_run k _ m hm).2⟩
      rcases hi with hi | hi
      · rw [tilePerform, hi, decide_eq_true rfl]
      · rw [tilePerform, hi, decide_eq_false (by simp)]
    case trdReg =>
      intro acc half e
      have he : e = { TileEnd.ok s with regs := trdRegs s v t d dt q.toNat rnd } := by
        show tilePerform s v op = _
        rw [tilePerform, hi]
        exact if_neg (Bool.eq_false_iff.mp (tilePoisoned_sound hp ..))
      rw [he]
      refine ⟨rfl, rfl, fun hd hk => ?_, fun hd hk => mem_trdRegs_half hj hth hd hk⟩
      subst hd
      exact mem_trdRegs_f32 hj hth hk
    case twrReg => rw [tilePerform, hi]
    case trdRec =>
      rw [tilePerform, hi, hr]
      exact if_neg (Bool.eq_false_iff.mp (tilePoisoned_sound hp ..))
    case twrRec =>
      have hread : engMap (fun i => engMap (fun n => readInp s v.eng { h := h, org := [], flume := none } (tileIndex h op.vals i n)) (upto (boxCols h)))
          (upto (boxRows h t.m)) = .ok rows := hrows
      rw [tilePerform, hi, hr]
      dsimp only
      rw [twrRecord]
      rw [hread]
    case tred => exact tilePerform_tred hacc hp hl hi hm him hn
    case tcvt => exact fun hl => tilePerform_tcvt hp hl hi
    case tew1 => rw [tilePerform_tew hp hl hi, if_neg (Bool.eq_false_iff.mp hb)]
    case tew2 => rw [tilePerform_tew hp hl hi, if_pos hb, tewSecond hi hb]
    case tsmx => exact tilePerform_tsmx hp hl hi
    case tnorm => exact tilePerform_tnorm hp hl hi

end Sys2Proof.Machine
end
